-- ==== Sys2Proof/Word.lean ====
section
/-! DEFINITION. The word type of the JX1: 64-bit registers (R71) and bytes (R3). -/

namespace Sys2Proof

/-- A workspace dword. -/
abbrev Word := BitVec 64

/-- A byte of memory. -/
abbrev Byte := BitVec 8

end Sys2Proof
end

