-- ==== Sys2Proof/Syntax.lean ====
section
/-! DEFINITION. The instructions and word-less steps of the JX1, one constructor per row of
the opcode table, with operand specifiers decoded (02_formats.md Tables 2.4 and 2.5). -/

namespace Sys2Proof

/-- The four neighbour directions N, E, S, W (R15). -/
inductive Dir where
  | n | e | s | w
  deriving DecidableEq, Repr

/-- A register operand specifier of Table 2.4 (R35). Values 42 to 63 have no specifier: they take ILL. -/
inductive RSpec where
  /-- `w0` to `w31`, a workspace dword. -/
  | w (i : BitVec 5)
  /-- `outn` to `outw`: a dword injected toward that neighbour. -/
  | out (d : Dir)
  /-- `inn` to `inw`: a dword received from that neighbour. -/
  | inp (d : Dir)
  /-- `z`: reads zero, discards writes. -/
  | z
  /-- `inq`: the next dword of the activation's message. -/
  | inq
  deriving DecidableEq, Repr

/-- A lane operand specifier of Table 2.5 (R37). -/
inductive LSpec where
  /-- A tile row `v0` to `v63`. -/
  | v (i : BitVec 6)
  /-- `[pN+]`: the local row at pN, then pN grows by 256. -/
  | post (p : BitVec 3)
  /-- `[pN]`: the local row at pN. -/
  | str (p : BitVec 3)
  /-- `w16` to `w23` broadcast to every lane. -/
  | bcast (i : BitVec 3)
  /-- `vz`: zero in every lane, or a discarded result. -/
  | vz
  /-- `voutn` to `voutw`. -/
  | vout (d : Dir)
  /-- `vinn` to `vinw`. -/
  | vin (d : Dir)
  /-- A mask `m0` to `m7` (major VM only). -/
  | m (i : BitVec 3)
  deriving DecidableEq, Repr

/-- The operations of the ATOM and ACAS majors at the home (Table 7.5, R172). -/
inductive AtomOp where
  | add | and | or | xor | min | max | minu | maxu | xchg | fadd | fmin | fmax | ld | st | cas
  deriving DecidableEq, Repr

/-- Names a barrier: the kernel, the cohort, the handle, and for handle 0 the group rank (R308). -/
structure BarId where
  kid : Nat
  cohort : Nat
  handle : Nat
  group : Nat
  deriving DecidableEq, Repr

/-- A network of balancers: a counter by handle (R257) or a barrier (R308). -/
inductive NetId where
  | counter (handle : Nat)
  | barrier (b : BarId)
  deriving DecidableEq, Repr

/-- A fault queue: a context's, or the management fault queue (R333, R376). -/
inductive FqId where
  | context (ctx : Nat)
  | management
  deriving DecidableEq, Repr

/-- Where an error of a store appears (Table 19.1). `control`: in the control state of the core in focus; `ripening`: in
the set of a ripening copy; `corrected`: one that its code corrects, in a store that a partition owns; `rest`: in a unit
that the next read of it meets, by the unit number of R350, or 3 for a tile unit, and its kind, at a local address or
tile offset of the core in focus or at a physical key; the others in the parity-protected stores of the core in focus
and its cluster, by plane, row, column, entry or place. -/
inductive ErrSite where
  | control
  | ripening (k : Nat)
  | corrected (part : Nat)
  | ioLane (bad : Bool)
  | rest (unit place kind : Nat)
  | weight (shadow : Bool) (row col : Nat)
  | planeScale (shadow : Bool) (col : Nat)
  | codebook (weights : Bool) (entry : Nat)
  | pairEntry (entry : Nat)
  | laneCodebook (entry : Nat)
  | scale (k entry : Nat)
  | l1 (i : Nat)
  | icache (i : Nat)
  | tlb (i : Nat)
  deriving DecidableEq, Repr

/-- A port: scale-up 0 to 127 or Ethernet 0 to 11 (R17). -/
inductive PortId where
  | scaleUp (n : Nat)
  | ethernet (n : Nat)
  deriving DecidableEq, Repr

/-- A management window of physical function 0 (R376). -/
inductive Window where
  | partition (p : Nat)
  | device
  deriving DecidableEq, Repr

/-- A firmware image as a boot stage sees it (R408). -/
structure Image where
  stage : Nat
  digest : BitVec 256
  signature : Nat
  version : Nat
  deriving DecidableEq, Repr

/-- A write-only key slot (R375). -/
inductive KeySlot where
  | memory
  | route (j : Nat)
  deriving DecidableEq, Repr

/-- An access carried over a peer window (R369): one of this device's own requests executed at
the peer, or an access that a peer sends to this device's partition. -/
inductive PeerOp where
  | carried (uid : Nat)
  | load (pa size : Nat)
  | store (pa : Nat) (bytes : List (BitVec 8))
  | atomic (op : AtomOp) (size : Nat) (pa : Nat) (v w : BitVec 64)
  deriving DecidableEq, Repr

/-- A press command with its fields (R220, Table 9.8), as a queue slot holds it. -/
inductive PressCmd where
  | loadw (fmt : BitVec 4) (tag : BitVec 4) (tagh : BitVec 4) (tv : Bool) (addr : BitVec 17) (stride : BitVec 16)
  | flip
  | stream (fmt : BitVec 4) (tag : BitVec 4) (tv : Bool) (acc : Bool) (row0 : BitVec 6) (m : BitVec 7) (addr : BitVec 17) (stride : BitVec 16)
  | streamt (fmt : BitVec 4) (tag : BitVec 4) (tv : Bool) (acc : Bool) (row0 : BitVec 6) (m : BitVec 7) (addr : BitVec 17) (stride : BitVec 16)
  | tload (fmt : BitVec 4) (row0 : BitVec 6) (m : BitVec 7) (addr : BitVec 17) (stride : BitVec 16)
  | tloadt (fmt : BitVec 4) (row0 : BitVec 6) (m : BitVec 7) (addr : BitVec 17) (stride : BitVec 16)
  | tdrain (fmt : BitVec 4) (clr : Bool) (row0 : BitVec 6) (m : BitVec 7) (addr : BitVec 17) (stride : BitVec 16) (addr2 : BitVec 17)
  | tzero (row0 : BitVec 6) (m : BitVec 7)
  | pmode (narrow : Bool) (integer : Bool)
  | ptable (addr : BitVec 17) (addr2 : BitVec 17)
  | pmark (inc : BitVec 16)
  | psave (addr : BitVec 17)
  | prestore (addr : BitVec 17)
  deriving DecidableEq, Repr

/-- Every instruction of the opcode table, and every step that has no instruction word. -/
inductive Instr where
  /-- Adds two registers modulo 2^64. R74. -/
  | add (d : RSpec) (a : RSpec) (b : RSpec)
  /-- Subtracts register b from register a modulo 2^64. R74. -/
  | sub (d : RSpec) (a : RSpec) (b : RSpec)
  /-- Bitwise AND of two registers. R74. -/
  | and (d : RSpec) (a : RSpec) (b : RSpec)
  /-- Bitwise OR of two registers. R74. -/
  | or (d : RSpec) (a : RSpec) (b : RSpec)
  /-- Bitwise XOR of two registers. R74. -/
  | xor (d : RSpec) (a : RSpec) (b : RSpec)
  /-- a AND NOT b. R74. -/
  | andn (d : RSpec) (a : RSpec) (b : RSpec)
  /-- a OR NOT b. R74. -/
  | orn (d : RSpec) (a : RSpec) (b : RSpec)
  /-- NOT (a XOR b). R74. -/
  | xnor (d : RSpec) (a : RSpec) (b : RSpec)
  /-- Shifts a left by b[5:0]. R74. -/
  | shl (d : RSpec) (a : RSpec) (b : RSpec)
  /-- Shifts a right by b[5:0], zeros entering. R74. -/
  | shr (d : RSpec) (a : RSpec) (b : RSpec)
  /-- Shifts a right arithmetically by b[5:0]. R74. -/
  | sra (d : RSpec) (a : RSpec) (b : RSpec)
  /-- Rotates a left by b[5:0]. R74. -/
  | rol (d : RSpec) (a : RSpec) (b : RSpec)
  /-- Rotates a right by b[5:0]. R74. -/
  | ror (d : RSpec) (a : RSpec) (b : RSpec)
  /-- Writes 1 when a < b signed. R74. -/
  | slt (d : RSpec) (a : RSpec) (b : RSpec)
  /-- Writes 1 when a < b unsigned. R74. -/
  | sltu (d : RSpec) (a : RSpec) (b : RSpec)
  /-- Writes 1 when a = b. R74. -/
  | seq (d : RSpec) (a : RSpec) (b : RSpec)
  /-- Writes 1 when a differs from b. R74. -/
  | sne (d : RSpec) (a : RSpec) (b : RSpec)
  /-- Signed minimum of two registers. R74. -/
  | min (d : RSpec) (a : RSpec) (b : RSpec)
  /-- Signed maximum of two registers. R74. -/
  | max (d : RSpec) (a : RSpec) (b : RSpec)
  /-- Unsigned minimum of two registers. R74. -/
  | minu (d : RSpec) (a : RSpec) (b : RSpec)
  /-- Unsigned maximum of two registers. R74. -/
  | maxu (d : RSpec) (a : RSpec) (b : RSpec)
  /-- Writes b + 2a. R74. -/
  | shadd1 (d : RSpec) (a : RSpec) (b : RSpec)
  /-- Writes b + 4a. R74. -/
  | shadd2 (d : RSpec) (a : RSpec) (b : RSpec)
  /-- Writes b + 8a. R74. -/
  | shadd3 (d : RSpec) (a : RSpec) (b : RSpec)
  /-- Word sum, sign-extended from bit 31. R74. -/
  | addw (d : RSpec) (a : RSpec) (b : RSpec)
  /-- Word difference, sign-extended from bit 31. R74. -/
  | subw (d : RSpec) (a : RSpec) (b : RSpec)
  /-- Low 64 bits of the product, as a lookahead carrier. R75. -/
  | mul (d : RSpec) (a : RSpec) (b : RSpec) (l : BitVec 4)
  /-- High 64 bits of the signed product. R75. -/
  | mulh (d : RSpec) (a : RSpec) (b : RSpec) (l : BitVec 4)
  /-- High 64 bits of the unsigned product. R75. -/
  | mulhu (d : RSpec) (a : RSpec) (b : RSpec) (l : BitVec 4)
  /-- High 64 bits of the signed-by-unsigned product. R75. -/
  | mulhsu (d : RSpec) (a : RSpec) (b : RSpec) (l : BitVec 4)
  /-- Signed quotient rounded toward zero, with fixed results for a zero divisor and overflow. R75. -/
  | div (d : RSpec) (a : RSpec) (b : RSpec) (l : BitVec 4)
  /-- Unsigned quotient. R75. -/
  | divu (d : RSpec) (a : RSpec) (b : RSpec) (l : BitVec 4)
  /-- Signed remainder. R75. -/
  | rem (d : RSpec) (a : RSpec) (b : RSpec) (l : BitVec 4)
  /-- Unsigned remainder. R75. -/
  | remu (d : RSpec) (a : RSpec) (b : RSpec) (l : BitVec 4)
  /-- Counts leading zeros of a. R77. -/
  | clz (d : RSpec) (a : RSpec)
  /-- Counts trailing zeros of a. R77. -/
  | ctz (d : RSpec) (a : RSpec)
  /-- Counts 1 bits of a. R77. -/
  | popc (d : RSpec) (a : RSpec)
  /-- Reverses the bits of a. R77. -/
  | brev (d : RSpec) (a : RSpec)
  /-- Reverses the bytes of a. R77. -/
  | bswap (d : RSpec) (a : RSpec)
  /-- Sign-extends the low byte of a. R77. -/
  | sextb (d : RSpec) (a : RSpec)
  /-- Sign-extends the low half of a. R77. -/
  | sexth (d : RSpec) (a : RSpec)
  /-- Sign-extends the low word of a. R77. -/
  | sextw (d : RSpec) (a : RSpec)
  /-- Extracts an unsigned bit field. R78. -/
  | extu (d : RSpec) (a : RSpec) (pos : BitVec 6) (len1 : BitVec 6)
  /-- Extracts a signed bit field. R78. -/
  | exts (d : RSpec) (a : RSpec) (pos : BitVec 6) (len1 : BitVec 6)
  /-- Inserts the low bits of a into a field of d. R78. -/
  | ins (d : RSpec) (a : RSpec) (pos : BitVec 6) (len1 : BitVec 6)
  /-- Adds a sign-extended immediate. R79. -/
  | addi (d : RSpec) (a : RSpec) (imm : BitVec 13)
  /-- ANDs a sign-extended immediate. R79. -/
  | andi (d : RSpec) (a : RSpec) (imm : BitVec 13)
  /-- ORs a sign-extended immediate. R79. -/
  | ori (d : RSpec) (a : RSpec) (imm : BitVec 13)
  /-- XORs a sign-extended immediate. R79. -/
  | xori (d : RSpec) (a : RSpec) (imm : BitVec 13)
  /-- Signed compare with an immediate. R79. -/
  | slti (d : RSpec) (a : RSpec) (imm : BitVec 13)
  /-- Unsigned compare with a sign-extended immediate. R79. -/
  | sltui (d : RSpec) (a : RSpec) (imm : BitVec 13)
  /-- Shifts left by an immediate amount. R80. -/
  | shli (d : RSpec) (a : RSpec) (sh : BitVec 6)
  /-- Shifts right logically by an immediate amount. R80. -/
  | shri (d : RSpec) (a : RSpec) (sh : BitVec 6)
  /-- Shifts right arithmetically by an immediate amount. R80. -/
  | srai (d : RSpec) (a : RSpec) (sh : BitVec 6)
  /-- Rotates right by an immediate amount. R80. -/
  | rori (d : RSpec) (a : RSpec) (sh : BitVec 6)
  /-- Loads a sign-extended 19-bit immediate shifted left by 13. R81. -/
  | lih (d : RSpec) (imm : BitVec 19)
  /-- Shifts d left by 19 and ORs in a 19-bit immediate. R81. -/
  | lix (d : RSpec) (imm : BitVec 19)
  /-- Writes the PC plus a signed halfword offset. R81. -/
  | addpc (d : RSpec) (imm : BitVec 19)
  /-- Branches when a = b. R82. -/
  | beq (a : RSpec) (b : RSpec) (off : BitVec 10)
  /-- Branches when a differs from b. R82. -/
  | bne (a : RSpec) (b : RSpec) (off : BitVec 10)
  /-- Branches when a < b signed. R82. -/
  | blt (a : RSpec) (b : RSpec) (off : BitVec 10)
  /-- Branches when a >= b signed. R82. -/
  | bge (a : RSpec) (b : RSpec) (off : BitVec 10)
  /-- Branches when a < b unsigned. R82. -/
  | bltu (a : RSpec) (b : RSpec) (off : BitVec 10)
  /-- Branches when a >= b unsigned. R82. -/
  | bgeu (a : RSpec) (b : RSpec) (off : BitVec 10)
  /-- Branches when the named bit of a is set. R82. -/
  | bbs (a : RSpec) (bit : BitVec 6) (off : BitVec 10)
  /-- Branches when the named bit of a is clear. R82. -/
  | bbc (a : RSpec) (bit : BitVec 6) (off : BitVec 10)
  /-- Jumps by a signed halfword offset. R83. -/
  | j (off : BitVec 25)
  /-- Jumps and links into w31. R83. -/
  | jal (off : BitVec 25)
  /-- Jumps to a register plus halfword offset and links into d. R83. -/
  | jalr (d : RSpec) (a : RSpec) (imm : BitVec 13)
  /-- Enters a counted loop body or skips it on a zero count. R85. -/
  | loop (c : RSpec) (fin : BitVec 19)
  /-- Captures n lane instructions into the repetition buffer and reissues them k times. R89. -/
  | rep (n1 : BitVec 4) (c : RSpec) (vs : BitVec 6)
  /-- The repetition buffer issues one body instruction of a pass. R89. -/
  | repBodyIssue
  /-- Ends the activation, committing held outputs and freeing its context. R111. -/
  | endAct
  /-- Ends the activation, dropping held outputs. R111. -/
  | endAbort
  /-- Sends an activation request with a reply address to a core. R112. -/
  | callat (d : RSpec) (a : RSpec) (b : RSpec)
  /-- Sends a value to the address REPLYTO names and clears REPLYTO. R113. -/
  | reply (a : RSpec)
  /-- Appends an activation to its own core's LQ. R114. -/
  | spawn (d : RSpec) (a : RSpec)
  /-- Appends an activation to its own core's HQ. R114. -/
  | spawnH (d : RSpec) (a : RSpec)
  /-- Claims extra workspace granules or parks. R115. -/
  | wclaim (d : RSpec) (a : RSpec)
  /-- Releases owned extra granules to the pool. R115. -/
  | wrel (a : RSpec)
  /-- Copies the oldest unpopped token into eight registers. R116. -/
  | apop (d : RSpec)
  /-- Sends eight registers as a token to the consumer's FIFO. R116. -/
  | apush (a : RSpec)
  /-- Does nothing. R93. -/
  | nop
  /-- Takes TRAP with Reg(a) in TVAL. R93. -/
  | trap (a : RSpec)
  /-- Takes BRK at its own address. R93. -/
  | brk
  /-- Ends the handler and resumes the trapped activation at EPC. R339. -/
  | rte
  /-- Waits until a queue holds an activation or a stop arrives. R93. -/
  | idle
  /-- Loads 1-8 bytes sign-extended into t. R136. -/
  | ld (t : RSpec) (base : RSpec) (off : BitVec 5) (hint : BitVec 2) (size : BitVec 2) (l : BitVec 4)
  /-- Loads 1-4 bytes zero-extended into t. R136. -/
  | ldu (t : RSpec) (base : RSpec) (off : BitVec 5) (hint : BitVec 2) (size : BitVec 2) (l : BitVec 4)
  /-- Stores the low bytes of t. R136. -/
  | st (t : RSpec) (base : RSpec) (off : BitVec 5) (hint : BitVec 2) (size : BitVec 2)
  /-- Loads a 256-byte row into a tile row. R139. -/
  | ldv (vt : BitVec 6) (base : RSpec) (off : BitVec 5) (hint : BitVec 2) (l : BitVec 4)
  /-- Stores a tile row as 256 bytes. R139. -/
  | stv (vt : BitVec 6) (base : RSpec) (off : BitVec 5) (hint : BitVec 2)
  /-- Writes 256 zero bytes, making zero lines in WB memory. R140. -/
  | zfill (base : RSpec) (off : BitVec 5) (hint : BitVec 2)
  /-- Asks that 256 bytes be brought near; never faults. R141. -/
  | pref (base : RSpec) (off : BitVec 5) (hint : BitVec 2)
  /-- Drops every L1 line of the core. R143. -/
  | l1inv
  /-- Drops the instruction-cache line holding an address within a scope. R144. -/
  | icinv (a : RSpec) (scope : BitVec 6)
  /-- Changes the modes of masked banks after pending writes complete. R145. -/
  | bankmode (a : RSpec) (b : RSpec)
  /-- Reads the bank map and banks with copy writes pending. R146. -/
  | bankq (d : RSpec)
  /-- Load-consume at the home that taints its destination. R168. -/
  | ldc (t : RSpec) (base : RSpec) (off : BitVec 5) (hint : BitVec 2) (size : BitVec 2) (l : BitVec 4)
  /-- Waits until a word is full and reads it, keeping it full. R169. -/
  | lds (t : RSpec) (base : RSpec) (off : BitVec 5) (l : BitVec 4)
  /-- Waits until a word is full, reads it and sets it empty. R169. -/
  | ldsE (t : RSpec) (base : RSpec) (off : BitVec 5) (l : BitVec 4)
  /-- Stores a dword and sets its full bit after earlier stores to the slot. R169. -/
  | stf (t : RSpec) (base : RSpec) (off : BitVec 5) (hint : BitVec 2)
  /-- Atomic add at the home. R171. -/
  | aadd (d : RSpec) (a : RSpec) (size : BitVec 1) (scope : BitVec 2) (ord : BitVec 2) (l : BitVec 4)
  /-- Atomic AND at the home. R171. -/
  | aand (d : RSpec) (a : RSpec) (size : BitVec 1) (scope : BitVec 2) (ord : BitVec 2) (l : BitVec 4)
  /-- Atomic OR at the home. R171. -/
  | aor (d : RSpec) (a : RSpec) (size : BitVec 1) (scope : BitVec 2) (ord : BitVec 2) (l : BitVec 4)
  /-- Atomic XOR at the home. R171. -/
  | axor (d : RSpec) (a : RSpec) (size : BitVec 1) (scope : BitVec 2) (ord : BitVec 2) (l : BitVec 4)
  /-- Atomic signed minimum. R171. -/
  | amin (d : RSpec) (a : RSpec) (size : BitVec 1) (scope : BitVec 2) (ord : BitVec 2) (l : BitVec 4)
  /-- Atomic signed maximum. R171. -/
  | amax (d : RSpec) (a : RSpec) (size : BitVec 1) (scope : BitVec 2) (ord : BitVec 2) (l : BitVec 4)
  /-- Atomic unsigned minimum. R171. -/
  | aminu (d : RSpec) (a : RSpec) (size : BitVec 1) (scope : BitVec 2) (ord : BitVec 2) (l : BitVec 4)
  /-- Atomic unsigned maximum. R171. -/
  | amaxu (d : RSpec) (a : RSpec) (size : BitVec 1) (scope : BitVec 2) (ord : BitVec 2) (l : BitVec 4)
  /-- Atomic exchange. R171. -/
  | axchg (d : RSpec) (a : RSpec) (size : BitVec 1) (scope : BitVec 2) (ord : BitVec 2) (l : BitVec 4)
  /-- Atomic FP32 add per lane under RNE. R170. -/
  | afadd (d : RSpec) (a : RSpec) (size : BitVec 1) (scope : BitVec 2) (ord : BitVec 2) (l : BitVec 4)
  /-- Atomic FP32 minimum per lane. R170. -/
  | afmin (d : RSpec) (a : RSpec) (size : BitVec 1) (scope : BitVec 2) (ord : BitVec 2) (l : BitVec 4)
  /-- Atomic FP32 maximum per lane. R170. -/
  | afmax (d : RSpec) (a : RSpec) (size : BitVec 1) (scope : BitVec 2) (ord : BitVec 2) (l : BitVec 4)
  /-- Atomic load at the home. R171. -/
  | ald (d : RSpec) (a : RSpec) (size : BitVec 1) (scope : BitVec 2) (ord : BitVec 2) (l : BitVec 4)
  /-- Atomic store at the home. R171. -/
  | ast (d : RSpec) (a : RSpec) (size : BitVec 1) (scope : BitVec 2) (ord : BitVec 2)
  /-- Atomic compare-and-swap using d and d+1. R172. -/
  | acas (d : RSpec) (a : RSpec) (size : BitVec 1) (scope : BitVec 2) (ord : BitVec 2) (l : BitVec 4)
  /-- Releases, arrives at the phase barrier, waits for the commit and acquires. R174. -/
  | phase (d : RSpec)
  /-- Release at the named scope. R156. -/
  | rel (scope : BitVec 6)
  /-- Acquire: drops the L1 and holds later accesses. R157. -/
  | acq
  /-- Waits for earlier loads, then a system release and an acquire. R173. -/
  | fence
  /-- Clears the taint bit of d. R173. -/
  | clrt (d : RSpec)
  /-- Releases and arrives at the phase barrier without waiting. R174. -/
  | phasen (d : RSpec)
  /-- Float lane add. R187. -/
  | vaddF (d : LSpec) (a : LSpec) (b : LSpec)
  /-- Float lane subtract. R187. -/
  | vsubF (d : LSpec) (a : LSpec) (b : LSpec)
  /-- Float lane multiply. R187. -/
  | vmulF (d : LSpec) (a : LSpec) (b : LSpec)
  /-- Fused a x b + d with one rounding. R187. -/
  | vfma (d : LSpec) (a : LSpec) (b : LSpec)
  /-- Fused d - a x b with one rounding. R187. -/
  | vfms (d : LSpec) (a : LSpec) (b : LSpec)
  /-- Float lane maximum. R188. -/
  | vmaxF (d : LSpec) (a : LSpec) (b : LSpec)
  /-- Float lane minimum. R188. -/
  | vminF (d : LSpec) (a : LSpec) (b : LSpec)
  /-- Inverts the sign bit of each lane. R187. -/
  | vnegF (d : LSpec) (a : LSpec)
  /-- Clears the sign bit of each lane. R187. -/
  | vabsF (d : LSpec) (a : LSpec)
  /-- Reciprocal estimate to 12 significant bits. R189. -/
  | vrcp (d : LSpec) (a : LSpec)
  /-- Reciprocal square root estimate. R189. -/
  | vrsq (d : LSpec) (a : LSpec)
  /-- Newton step for the reciprocal. R190. -/
  | vrcps (d : LSpec) (a : LSpec) (b : LSpec)
  /-- Newton step for the reciprocal square root. R190. -/
  | vrsqs (d : LSpec) (a : LSpec) (b : LSpec)
  /-- Correctly rounded 2^a. R191. -/
  | vexp2 (d : LSpec) (a : LSpec)
  /-- Correctly rounded log2 a. R191. -/
  | vlog2 (d : LSpec) (a : LSpec)
  /-- Holds d between bounds a and b. R188. -/
  | vclamp (d : LSpec) (a : LSpec) (b : LSpec)
  /-- Integer lane add. R192. -/
  | vaddI (d : LSpec) (a : LSpec) (b : LSpec)
  /-- Integer lane subtract. R192. -/
  | vsubI (d : LSpec) (a : LSpec) (b : LSpec)
  /-- Low half of the integer lane product. R192. -/
  | vmulI (d : LSpec) (a : LSpec) (b : LSpec)
  /-- High half of the signed lane product. R192. -/
  | vmulh (d : LSpec) (a : LSpec) (b : LSpec)
  /-- Integer a x b + d. R192. -/
  | vmad (d : LSpec) (a : LSpec) (b : LSpec)
  /-- Signed integer lane maximum. R192. -/
  | vmaxI (d : LSpec) (a : LSpec) (b : LSpec)
  /-- Signed integer lane minimum. R192. -/
  | vminI (d : LSpec) (a : LSpec) (b : LSpec)
  /-- Integer lane absolute value. R192. -/
  | vabsI (d : LSpec) (a : LSpec)
  /-- Integer lane shift left. R192. -/
  | vshl (d : LSpec) (a : LSpec) (b : LSpec)
  /-- Integer lane logical shift right. R192. -/
  | vshr (d : LSpec) (a : LSpec) (b : LSpec)
  /-- Integer lane arithmetic shift right. R192. -/
  | vsra (d : LSpec) (a : LSpec) (b : LSpec)
  /-- Saturating signed lane add. R192. -/
  | vadds (d : LSpec) (a : LSpec) (b : LSpec)
  /-- Saturating signed lane subtract. R192. -/
  | vsubs (d : LSpec) (a : LSpec) (b : LSpec)
  /-- Unsigned lane maximum. R192. -/
  | vmaxu (d : LSpec) (a : LSpec) (b : LSpec)
  /-- Unsigned lane minimum. R192. -/
  | vminu (d : LSpec) (a : LSpec) (b : LSpec)
  /-- Integer lane negation. R192. -/
  | vnegI (d : LSpec) (a : LSpec)
  /-- Lane AND. R193. -/
  | vand (d : LSpec) (a : LSpec) (b : LSpec)
  /-- Lane OR. R193. -/
  | vor (d : LSpec) (a : LSpec) (b : LSpec)
  /-- Lane XOR. R193. -/
  | vxor (d : LSpec) (a : LSpec) (b : LSpec)
  /-- Lane a AND NOT b. R193. -/
  | vandn (d : LSpec) (a : LSpec) (b : LSpec)
  /-- Lane NOT. R193. -/
  | vnot (d : LSpec) (a : LSpec)
  /-- Lane move. R193. -/
  | vmov (d : LSpec) (a : LSpec)
  /-- Selects a or b per lane by the current mask, writing every lane. R193. -/
  | vsel (d : LSpec) (a : LSpec) (b : LSpec)
  /-- Counts 1 bits per lane. R193. -/
  | vpopc (d : LSpec) (a : LSpec)
  /-- Counts leading zeros per lane. R193. -/
  | vclz (d : LSpec) (a : LSpec)
  /-- Float lane equality compare. R194. -/
  | vceqF (d : LSpec) (a : LSpec) (b : LSpec)
  /-- Float lane inequality compare. R194. -/
  | vcneF (d : LSpec) (a : LSpec) (b : LSpec)
  /-- Float lane less-than compare. R194. -/
  | vcltF (d : LSpec) (a : LSpec) (b : LSpec)
  /-- Float lane less-or-equal compare. R194. -/
  | vcleF (d : LSpec) (a : LSpec) (b : LSpec)
  /-- Float lane unordered compare. R194. -/
  | vcunF (d : LSpec) (a : LSpec) (b : LSpec)
  /-- Integer lane equality compare. R194. -/
  | vceqI (d : LSpec) (a : LSpec) (b : LSpec)
  /-- Integer lane inequality compare. R194. -/
  | vcneI (d : LSpec) (a : LSpec) (b : LSpec)
  /-- Signed lane less-than compare. R194. -/
  | vcltI (d : LSpec) (a : LSpec) (b : LSpec)
  /-- Signed lane less-or-equal compare. R194. -/
  | vcleI (d : LSpec) (a : LSpec) (b : LSpec)
  /-- Unsigned lane less-than compare. R194. -/
  | vcltu (d : LSpec) (a : LSpec) (b : LSpec)
  /-- Unsigned lane less-or-equal compare. R194. -/
  | vcleu (d : LSpec) (a : LSpec) (b : LSpec)
  /-- Mask AND. R195. -/
  | mand (d : LSpec) (a : LSpec) (b : LSpec)
  /-- Mask OR. R195. -/
  | mor (d : LSpec) (a : LSpec) (b : LSpec)
  /-- Mask XOR. R195. -/
  | mxor (d : LSpec) (a : LSpec) (b : LSpec)
  /-- Mask NOT. R195. -/
  | mnot (d : LSpec) (a : LSpec)
  /-- Mask a AND NOT b. R195. -/
  | mandn (d : LSpec) (a : LSpec) (b : LSpec)
  /-- Selects the current mask into LMASK. R195. -/
  | msel (a : LSpec)
  /-- Counts set mask bits into a register. R195. -/
  | mpopc (d : RSpec) (a : LSpec)
  /-- Finds the lowest set mask bit into a register. R195. -/
  | mfirst (d : RSpec) (a : LSpec)
  /-- Widens FP16 to FP32. R197. -/
  | vcvtF32F16 (d : LSpec) (a : LSpec) (p : BitVec 7)
  /-- Narrows FP32 to FP16 under RMODE. R197. -/
  | vcvtF16F32 (d : LSpec) (a : LSpec) (p : BitVec 7)
  /-- Widens BF16 to FP32. R197. -/
  | vcvtF32Bf16 (d : LSpec) (a : LSpec) (p : BitVec 7)
  /-- Narrows FP32 to BF16. R197. -/
  | vcvtBf16F32 (d : LSpec) (a : LSpec) (p : BitVec 7)
  /-- Widens E4M3 to FP32. R197. -/
  | vcvtF32E4m3 (d : LSpec) (a : LSpec) (p : BitVec 7)
  /-- Narrows FP32 to E4M3, saturating. R197. -/
  | vcvtE4m3F32 (d : LSpec) (a : LSpec) (p : BitVec 7)
  /-- Widens E5M2 to FP32. R197. -/
  | vcvtF32E5m2 (d : LSpec) (a : LSpec) (p : BitVec 7)
  /-- Narrows FP32 to E5M2. R197. -/
  | vcvtE5m2F32 (d : LSpec) (a : LSpec) (p : BitVec 7)
  /-- Converts FP32 to int32 under RMODE, saturating. R197. -/
  | vcvtI32F32 (d : LSpec) (a : LSpec)
  /-- Converts int32 to FP32. R197. -/
  | vcvtF32I32 (d : LSpec) (a : LSpec)
  /-- Narrows int32 to int16, saturating. R197. -/
  | vcvtI16I32 (d : LSpec) (a : LSpec) (p : BitVec 7)
  /-- Sign-extends int16 to int32. R197. -/
  | vcvtI32I16 (d : LSpec) (a : LSpec) (p : BitVec 7)
  /-- Widens CB4 codes through the lane codebook. R197. -/
  | vcvtF32Cb4 (d : LSpec) (a : LSpec) (p : BitVec 7)
  /-- Picks the nearest lane-codebook code for each FP32 element. R65. -/
  | vcvtCb4F32 (d : LSpec) (a : LSpec) (p : BitVec 7)
  /-- Narrows int32 to int8, saturating. R197. -/
  | vcvtI8I32 (d : LSpec) (a : LSpec) (p : BitVec 7)
  /-- Sign-extends int8 to int32. R197. -/
  | vcvtI32I8 (d : LSpec) (a : LSpec) (p : BitVec 7)
  /-- Broadcasts one lane of a to the active lanes. R200. -/
  | vbcast (d : LSpec) (a : LSpec) (b : RSpec)
  /-- Extracts one lane into a register. R200. -/
  | vextr (d : RSpec) (a : LSpec) (b : RSpec)
  /-- Inserts a register value into one lane. R200. -/
  | vins (d : LSpec) (a : RSpec) (b : RSpec)
  /-- Rotates lanes by a register amount. R200. -/
  | vrot (d : LSpec) (a : LSpec) (b : RSpec)
  /-- Permutes lanes by an index row. R200. -/
  | vshuf (d : LSpec) (a : LSpec) (b : LSpec)
  /-- Inclusive running sum over active lanes. R201. -/
  | vscan (d : LSpec) (a : LSpec) (k : BitVec 7)
  /-- Sum of active lanes into a register. R201. -/
  | vredadd (d : RSpec) (a : LSpec) (k : BitVec 7)
  /-- Largest active lane into a register. R202. -/
  | vredmax (d : RSpec) (a : LSpec) (k : BitVec 7)
  /-- Smallest active lane into a register. R202. -/
  | vredmin (d : RSpec) (a : LSpec) (k : BitVec 7)
  /-- Writes the count of active lanes below each active lane. R200. -/
  | viota (d : LSpec)
  /-- Interleaves the low halves of two rows. R200. -/
  | vzip (d : LSpec) (a : LSpec) (b : LSpec)
  /-- De-interleaves the even lanes of two rows. R200. -/
  | vunzip (d : LSpec) (a : LSpec) (b : LSpec)
  /-- Compact float add, as VADD of major 0x28. R30. -/
  | vaddFCompact (d : BitVec 6) (a : LSpec)
  /-- Compact float subtract. R30. -/
  | vsubFCompact (d : BitVec 6) (a : LSpec)
  /-- Compact float multiply. R30. -/
  | vmulFCompact (d : BitVec 6) (a : LSpec)
  /-- Compact float maximum. R30. -/
  | vmaxFCompact (d : BitVec 6) (a : LSpec)
  /-- Compact float minimum. R30. -/
  | vminFCompact (d : BitVec 6) (a : LSpec)
  /-- Compact integer add. R30. -/
  | vaddICompact (d : BitVec 6) (a : LSpec)
  /-- Compact integer subtract. R30. -/
  | vsubICompact (d : BitVec 6) (a : LSpec)
  /-- Compact integer maximum. R30. -/
  | vmaxICompact (d : BitVec 6) (a : LSpec)
  /-- Compact integer minimum. R30. -/
  | vminICompact (d : BitVec 6) (a : LSpec)
  /-- Compact lane AND. R30. -/
  | vandCompact (d : BitVec 6) (a : LSpec)
  /-- Compact lane OR. R30. -/
  | vorCompact (d : BitVec 6) (a : LSpec)
  /-- Compact lane XOR. R30. -/
  | vxorCompact (d : BitVec 6) (a : LSpec)
  /-- Compact lane move. R30. -/
  | vmovCompact (d : BitVec 6) (a : LSpec)
  /-- Compact float negate. R30. -/
  | vnegFCompact (d : BitVec 6) (a : LSpec)
  /-- Compact float absolute value. R30. -/
  | vabsFCompact (d : BitVec 6) (a : LSpec)
  /-- Compact integer shift left. R30. -/
  | vshlICompact (d : BitVec 6) (a : LSpec)
  /-- Adds block scales, saturating. R246. -/
  | kadd (kd : BitVec 4) (ka : BitVec 4) (kb : BitVec 4)
  /-- Subtracts block scales, saturating. R246. -/
  | ksub (kd : BitVec 4) (ka : BitVec 4) (kb : BitVec 4)
  /-- Maximum of block scales. R246. -/
  | kmax (kd : BitVec 4) (ka : BitVec 4) (kb : BitVec 4)
  /-- Minimum of block scales. R246. -/
  | kmin (kd : BitVec 4) (ka : BitVec 4) (kb : BitVec 4)
  /-- Copies a rind register. R246. -/
  | kmov (kd : BitVec 4) (ka : BitVec 4)
  /-- Sets every scale from a register byte. R246. -/
  | kset (kd : BitVec 4) (r : RSpec)
  /-- Loads scales from bytes of a tile row. R246. -/
  | kfromv (kd : BitVec 4) (vr : BitVec 6)
  /-- Writes scales to bytes 0-63 of a tile row. R246. -/
  | ktov (vr : BitVec 6) (ka : BitVec 4)
  /-- Binds a tag to a rind register at its generation. R246. -/
  | kbind (kd : BitVec 4) (tag : BitVec 4) (r : RSpec)
  /-- Empties a binding tag. R246. -/
  | kunbind (tag : BitVec 4)
  /-- Reads a rind register's generation. R246. -/
  | kgen (r : RSpec) (ka : BitVec 4)
  /-- Writes a tensor table entry after checking it. R240. -/
  | ttset (a : RSpec) (b : RSpec)
  /-- Reads a tensor table entry into four registers. R240. -/
  | ttget (d : RSpec) (a : RSpec)
  /-- Invalidates a tensor table entry. R240. -/
  | ttinv (a : RSpec)
  /-- Sets the lane codebook from a tensor's codebook and optionally copies it locally. R240. -/
  | tcb (a : RSpec) (b : RSpec)
  /-- Split load of a tile into local memory and its scales into a rind register, binding a tag. R242. -/
  | tld (kd : BitVec 4) (tag : BitVec 4) (a : RSpec) (b : RSpec) (l : BitVec 4)
  /-- Stores a local tile and its scales to a tensor. R244. -/
  | tst (kd : BitVec 4) (a : RSpec) (b : RSpec)
  /-- Loads a rind register from memory. R248. -/
  | kld (kd : BitVec 4) (r : RSpec)
  /-- Stores a rind register to memory. R248. -/
  | kst (ka : BitVec 4) (r : RSpec)
  /-- Writes all rind registers, generations and tags to memory. R249. -/
  | ksave (r : RSpec)
  /-- Reads rind registers from memory, incrementing each generation. R249. -/
  | krestore (r : RSpec)
  /-- Pushes one press command built from eight registers. R209. -/
  | pcmd (first : RSpec) (sel : RSpec)
  /-- Waits until MARK reaches a value or the queue is empty. R232. -/
  | pwait (d : RSpec) (a : RSpec)
  /-- Waits until every pushed press command has retired. R232. -/
  | pfence
  /-- Reads PSTATUS. R232. -/
  | pstat (d : RSpec)
  /-- Hands a copy descriptor to a copy-engine channel and returns a ticket. R292. -/
  | copy (first : RSpec) (sel : RSpec)
  /-- Seals the open batch and numbers it. R290. -/
  | bseal (d : RSpec)
  /-- Waits until at most N sealed batches are unfinished and reads and clears the error accumulator. R293. -/
  | bdrain (d : RSpec) (a : RSpec)
  /-- Reads a channel's progress: latest sequence number and bytes written. R294. -/
  | cwptr (d : RSpec) (a : RSpec)
  /-- Sends a token into a counter and receives an index. R270. -/
  | ctake (d : RSpec) (a : RSpec) (l : BitVec 4)
  /-- Sends an antitoken into a counter. R270. -/
  | cgive (d : RSpec) (a : RSpec) (l : BitVec 4)
  /-- Reads the sum of a counter's exit counts. R262. -/
  | csum (d : RSpec) (a : RSpec) (l : BitVec 4)
  /-- Resets a counter to its start state at a single point. R263. -/
  | creset (d : RSpec) (a : RSpec) (l : BitVec 4)
  /-- Arrives at a barrier and receives the arrival's generation. R318. -/
  | barv (d : RSpec) (a : RSpec)
  /-- Waits until a barrier's generation exceeds a value. R318. -/
  | barw (a : RSpec) (b : RSpec)
  /-- Reads a barrier's generation copy. R318. -/
  | barg (d : RSpec) (a : RSpec)
  /-- Reads bit 0 of a barrier's generation copy. R318. -/
  | barp (d : RSpec) (a : RSpec)
  /-- Sends a message of 0-8 body dwords to a core's queue. R118. -/
  | msend (d : RSpec) (a : RSpec) (b : RSpec)
  /-- Reads queue and input-buffer occupancy. R119. -/
  | mpoll (d : RSpec)
  /-- Reads a neighbour channel's send window. R119. -/
  | winrd (d : RSpec) (ch : BitVec 6)
  /-- Reads a special register. R335. -/
  | srd (d : RSpec) (num : BitVec 12)
  /-- Writes a special register that has no behaviour of its own. R336. -/
  | swr (d : RSpec) (num : BitVec 12)
  /-- Reads one of the context's counters. R346. -/
  | crd (d : RSpec) (a : RSpec)
  /-- Reads a delay accumulator. R348. -/
  | dacc (d : RSpec) (a : RSpec)
  /-- Sets the trace control word. R348. -/
  | trcm (a : RSpec)
  /-- Drops TLB entries for a page or a context. R349. -/
  | tlbinv (a : RSpec) (b : RSpec)
  /-- Arms one error in a local dword, slice granule or memory granule. R350. -/
  | errinj (a : RSpec) (b : RSpec)
  /-- PSTATUS action 1: makes the stopped slot PENDING again and records its tags afresh. R212. -/
  | retry
  /-- PSTATUS action 2: frees the stopped slot as though it had retired. R212. -/
  | skip
  /-- PSTATUS action 3: waits for running commands, then frees every pending and stopped slot. R212. -/
  | flush
  /-- A PSTATUS write with bit 0 = 0 clears the sticky OV bit. R212. -/
  | ovClear
  /-- Press command that fills the shadow plane with weights and scales. R222. -/
  | loadw (fmt : BitVec 4) (tag : BitVec 4) (tagh : BitVec 4) (tv : Bool) (addr : BitVec 17) (stride : BitVec 16)
  /-- Press command that exchanges the active and shadow planes. R223. -/
  | flip
  /-- Press command that runs M steps of activation rows through the active plane. R224. -/
  | stream (fmt : BitVec 4) (tag : BitVec 4) (tv : Bool) (acc : Bool) (row0 : BitVec 6) (m : BitVec 7) (addr : BitVec 17) (stride : BitVec 16)
  /-- Press command that streams transposed activation rows. R224. -/
  | streamt (fmt : BitVec 4) (tag : BitVec 4) (tv : Bool) (acc : Bool) (row0 : BitVec 6) (m : BitVec 7) (addr : BitVec 17) (stride : BitVec 16)
  /-- Press command that loads tile rows from local memory. R226. -/
  | tload (fmt : BitVec 4) (row0 : BitVec 6) (m : BitVec 7) (addr : BitVec 17) (stride : BitVec 16)
  /-- Press command that loads tile rows transposed. R226. -/
  | tloadt (fmt : BitVec 4) (row0 : BitVec 6) (m : BitVec 7) (addr : BitVec 17) (stride : BitVec 16)
  /-- Press command that writes tile rows to local memory, optionally with derived scales. R227. -/
  | tdrain (fmt : BitVec 4) (clr : Bool) (row0 : BitVec 6) (m : BitVec 7) (addr : BitVec 17) (stride : BitVec 16) (addr2 : BitVec 17)
  /-- Press command that zeroes tile rows. R228. -/
  | tzero (row0 : BitVec 6) (m : BitVec 7)
  /-- Press command that sets the narrow and integer mode and empties both planes. R229. -/
  | pmode (narrow : Bool) (integer : Bool)
  /-- Press command that loads both codebooks and builds the pair-product table. R229. -/
  | ptable (addr : BitVec 17) (addr2 : BitVec 17)
  /-- Press command that raises MARK when every earlier command has retired. R230. -/
  | pmark (inc : BitVec 16)
  /-- Press command that writes the press save area. R231. -/
  | psave (addr : BitVec 17)
  /-- Press command that checks and restores the press save area. R231. -/
  | prestore (addr : BitVec 17)
  /-- The sequencer finds a command byte 0 not in the table and stops the press. R47. -/
  | pressFault
  /-- A press command's last write completes and its slot is retired. R210. -/
  | pressRetire (slot : BitVec 4)
  /-- A 1 us ramp-limiter window ends and the cluster's start limit is recomputed. R219. -/
  | rampWindow (cluster : Nat)
  /-- The power stages report the watts of the package and of the module each 1 us, and presses are held while a cap is
  exceeded. R414. -/
  | powerReport (watts : Nat × Nat)
  /-- A message reaches a core and enters a queue or waits in the input buffer. R96. -/
  | messageArrival (src : Nat) (k : Nat)
  /-- A free context takes the next activation from HQ or LQ. R98. -/
  | activationStart
  /-- A suspended activation resumes when the high context frees. R98. -/
  | activationResume
  /-- An actor whose conditions hold reserves consumer slots and is appended to LQ. R97. -/
  | actorFiring (actor : Nat)
  /-- A pushed token arrives in the consumer's FIFO and sets its words full. R116. -/
  | tokenWrite (k : Nat)
  /-- A reply arrives, stores its dword and sets it full, or is dropped. R113. -/
  | replyWrite (k : Nat)
  /-- A dword sent on a neighbour channel arrives in the receive FIFO. R104. -/
  | channelDwordArrival (k : Nat)
  /-- A credit for a dword read returns to the sender's window. R104. -/
  | channelCredit (k : Nat)
  /-- The value of a load, atomic, divide, counter or TLD carrier arrives at the core. R45. -/
  | loadResponse (uid : Nat) (delay : Nat)
  /-- A store's acknowledgement returns to its writer. R149. -/
  | storeAck (core : Nat) (k : Nat)
  /-- A phased store reaches its home slice and merges into a ripening copy. R149. -/
  | phasedStoreInstall (core : Nat) (k : Nat)
  /-- A slice serves a read from ripening or committed copies. R150. -/
  | sliceRead (uid : Nat)
  /-- A phased store waiting 2,048 clocks forces the oldest ripening copy of its set. R153. -/
  | forcing (k : Nat)
  /-- An atomic or ACAS executes indivisibly at its home. R163. -/
  | atomicExecute (uid : Nat)
  /-- A token or antitoken passes a balancer and flips its toggle. R251. -/
  | balancerArrival (k : Nat)
  /-- An exit counter turns a token or antitoken into a value. R255. -/
  | exitCounterAct (k : Nat)
  /-- A CSUM request reaches the input-0 cell and reads every exit count. R262. -/
  | csumArrival (uid : Nat)
  /-- A reset request reaches the input-0 cell and closes the first layer. R263. -/
  | cresetClosure (uid : Nat)
  /-- At quiescence the counter is reset to its start state and its first layer reopens. R263. -/
  | cresetReopen (ctx : Nat) (handle : Nat)
  /-- An uncorrectable cell error fails a counter or barrier. R265. -/
  | cellError (ctx : Nat) (net : NetId)
  /-- A barrier token reaches its exit and is counted or held. R311. -/
  | barrierExit (k : Nat)
  /-- Every exit at quota completes a generation, commits a phase and rearms. R313. -/
  | barrierComplete (ctx : Nat) (bar : BarId)
  /-- A copy channel issues one row write in enumeration order. R285. -/
  | copyRowWrite (cluster : Nat) (ch : Nat)
  /-- A copy row write arrives at the owning core and is written or dropped. R145. -/
  | copyRowArrival (k : Nat)
  /-- A copy ends with its status and the channel starts the next. R288. -/
  | copyEnd (cluster : Nat) (ch : Nat)
  /-- The dispatcher consumes the full slot at RD and empties it. R275. -/
  | packetConsume (ctx : Nat) (q : Nat)
  /-- A NOP packet completes when it starts. R279. -/
  | nopPacket (ctx : Nat) (q : Nat)
  /-- A LAUNCH packet starts: the header is read and checked and a kernel id assigned. R280. -/
  | launch (ctx : Nat) (q : Nat)
  /-- A COPY packet is handed to a cluster's copy engine. R284. -/
  | copyPacket (ctx : Nat) (q : Nat)
  /-- SIGNAL OP 0: releases at system scope, then stores VALUE. R281. -/
  | signalStore (ctx : Nat) (q : Nat)
  /-- SIGNAL OP 1: releases, then adds VALUE atomically. R281. -/
  | signalAdd (ctx : Nat) (q : Nat)
  /-- SIGNAL OP 2: releases, then stores VALUE and sets the slot full. R281. -/
  | signalStoreFull (ctx : Nat) (q : Nat)
  /-- A WAIT packet holds its queue until a masked comparison holds. R282. -/
  | wait (ctx : Nat) (q : Nat)
  /-- The WAIT condition is tested again after a write to its line or 1 us. R282. -/
  | waitRetest (ctx : Nat) (q : Nat)
  /-- The dispatcher tests a kernel's wait conditions after a write or each 1 us. R326. -/
  | kernelEligibilityTest (ctx : Nat) (kid : Nat)
  /-- Each 100 us a waiting kernel's age bonus rises, and at 3 it may reserve the partition. R327. -/
  | ageTick (ctx : Nat) (kid : Nat)
  /-- The dispatcher places a whole cohort on the first fits found. R298. -/
  | cohortPlace (part : Nat)
  /-- Every core loaded: the initial activations are delivered. R301. -/
  | cohortStart (ctx : Nat) (kid : Nat) (cohort : Nat)
  /-- Every group quiet: stores acknowledged, ripening copies committed, cores freed. R306. -/
  | cohortEnd (ctx : Nat) (kid : Nat) (cohort : Nat)
  /-- All cohorts ended: release, completion write and freeing of counters and barriers. R330. -/
  | kernelComplete (ctx : Nat) (kid : Nat)
  /-- A fault makes the activation TRAPPED and starts the handler at TVEC. R338. -/
  | trapDelivery (cause : BitVec 8) (tval : BitVec 64)
  /-- After its press commands retire, the rolled-back activation is queued again at the head. R385. -/
  | redelivery
  /-- A parity error in core control state is reported as ERR. R384. -/
  | coreErr (site : ErrSite)
  /-- After the record is acknowledged, TAILCNT is advanced. R333. -/
  | tailcntWrite (queue : FqId)
  /-- A core stops at its next instruction boundary for pre-emption. R341. -/
  | corePreemptStop (core : Nat)
  /-- A core acknowledges once all its stores are acknowledged. R341. -/
  | corePreemptAck (core : Nat)
  /-- All cores acknowledged: controllers write save records and the context becomes SAVED. R341. -/
  | copyOut (part : Nat)
  /-- A check run starts at low priority in the next cluster. R390. -/
  | checkRunStart (k : Nat)
  /-- A check not started within 1 ms is withdrawn. R390. -/
  | checkTimeout (k : Nat)
  /-- Digests are compared at the end of a check or tiebreak and scores change. R392. -/
  | checkVerdict (k : Nat)
  /-- A tiebreak run starts on a third core. R392. -/
  | tiebreakStart (k : Nat)
  /-- A patrol engine reads the next granule and scrubs it. R387. -/
  | patrolRead (part : Nat) (pa : Nat)
  /-- The die's walker walks the page table on a TLB miss. R353. -/
  | pageWalk (part : Nat) (va : Nat)
  /-- A host 8-byte read of a take window enters the counter. R365. -/
  | takeWindowRead (part : Nat) (requester : Nat) (offset : Nat) (size : Nat)
  /-- A write to a take window is dropped and recorded. R365. -/
  | takeWindowWrite (part : Nat) (requester : Nat) (offset : Nat)
  /-- After 40 ms a waiting take read completes as Completer Abort. R365. -/
  | takeReadTimeout (uid : Nat)
  /-- A 32-byte host write starts an activation or is dropped. R366. -/
  | hostActiveMessage (part : Nat) (requester : Nat) (bytes : List (BitVec 8))
  /-- A host posted write to main memory becomes visible in requester order. R158. -/
  | hostPostedWrite (part : Nat) (requester : Nat) (pa : Nat) (bytes : List (BitVec 8))
  /-- An access to an unlisted function offset completes as Unsupported Request. R364. -/
  | unsupportedRequest (part : Nat) (offset : Nat)
  /-- A read of a counter's low half latches its high half. R347. -/
  | counterLowRead (part : Nat) (counter : Nat)
  /-- An access carried over a peer window executes at the peer. R369. -/
  | peerAccess (part : Nat) (op : PeerOp)
  /-- A failed or lost flit is replayed; after 16 failures the port goes DOWN. R370. -/
  | flitReplay (port : Nat) (exhausted : Bool)
  /-- Training of a port's lanes succeeds into ACTIVE or DEGRADED. R371. -/
  | laneTrained (port : PortId) (lanes : Nat)
  /-- 100 ms of training without success returns the port to DOWN. R371. -/
  | trainingTimeout (port : PortId)
  /-- A lane failure moves a port to DEGRADED or DOWN. R371. -/
  | laneFailure (port : PortId)
  /-- An Ethernet frame is received and checked under MACsec. R373. -/
  | ethernetFrame (port : Nat) (ok : Bool) (bytes : Nat)
  /-- A router drops a packet bound outside its partition and records it. R374. -/
  | routerDrop (part : Nat) (dest : Nat)
  /-- Management command that creates a context from its descriptor. R332. -/
  | create (part : Nat)
  /-- Management command that frees a context and its objects. R377. -/
  | destroy (part : Nat) (ctx : Nat)
  /-- Management command that pre-empts an ACTIVE context. R341. -/
  | preempt (part : Nat) (ctx : Nat)
  /-- Management command that restores a SAVED context. R343. -/
  | restore (part : Nat) (ctx : Nat)
  /-- Management command that creates a user-mode queue. R271. -/
  | qcreate (part : Nat) (ctx : Nat)
  /-- Management command that frees a queue and its counter. R377. -/
  | qdestroy (part : Nat) (ctx : Nat) (q : Nat)
  /-- Management command that returns a queue from ERROR to WAITING. R272. -/
  | qreset (part : Nat) (ctx : Nat) (q : Nat)
  /-- Management command that stops a rectangle of cores. R402. -/
  | stop (part : Nat)
  /-- A stopped core's running activations end and it becomes STOPPED. R402. -/
  | coreStopped (core : Nat)
  /-- Management command that clears a stop. R402. -/
  | resume (part : Nat)
  /-- Management command that reads a stopped core's memory or press state. R403. -/
  | corerwRead (part : Nat)
  /-- Management command that writes a stopped core's memory or press state. R403. -/
  | corerwWrite (part : Nat)
  /-- Management command that sets CHECKRATE, CNTPOL, trace ring or ramp limits. R377. -/
  | setparam (part : Nat) (ctx : Nat) (param : Nat) (firmware : Bool)
  /-- Management command that sets a core's watch comparator. R406. -/
  | watch (part : Nat)
  /-- Management command that takes a core out of quarantine and zeroes its score. R393. -/
  | qrelease (part : Nat)
  /-- Management command that writes a peer route-table entry. R368. -/
  | route (part : Nat)
  /-- Management command that sets a host DMA window. R367. -/
  | dmawin (part : Nat)
  /-- Device command that allots a port or second-tier range to a partition. R372. -/
  | allot
  /-- Device command that sets a partition's rectangle of granules. R374. -/
  | rect
  /-- PORTCTL action 0: disables a port. R371. -/
  | portctlDisable (port : PortId)
  /-- PORTCTL action 1: enables a port into TRAINING. R371. -/
  | portctlEnable (port : PortId)
  /-- PORTCTL action 2: quarantines a port. R371. -/
  | portctlQuarantine (port : PortId)
  /-- PORTCTL action 3: releases a quarantined port to DOWN. R371. -/
  | portctlRelease (port : PortId)
  /-- A write to a management register without behaviour of its own, such as MFQBASE or MFQLOG. R376. -/
  | mgmtRegisterWrite (win : Window) (offset : Nat) (value : BitVec 64)
  /-- A device reset clears the measurement registers and starts boot. R407. -/
  | deviceReset
  /-- A boot stage verifies, measures and runs the next image. R408. -/
  | bootStage (image : Image)
  /-- A measurement register is extended with a digest. R407. -/
  | measurementExtend (mr : BitVec 3) (digest : BitVec 256)
  /-- The recovery window accepts a new firmware image. R408. -/
  | recoveryImage (image : Image)
  /-- An attestation request returns a signed report, with a key binding when flagged. R411. -/
  | attestationRequest (fn : Nat) (part : Nat) (nonce : BitVec 256) (bind : Bool)
  /-- Wrapped tenant keys are unwrapped into the write-only key slots. R412. -/
  | keyDelivery (part : Nat) (key : KeySlot × List (BitVec 8)) (more : List (KeySlot × List (BitVec 8)))
  /-- A die over its trip point cuts package power and records the event. R415. -/
  | thermalTrip (die : BitVec 2)
  /-- A direct write (cluster-window store, WC/UC or queue-slot page store, second-tier or copy write to global memory) reaches its home and becomes visible there. R147. -/
  | directWriteArrival (core : Nat) (k : Nat)
  /-- A 33-clock filler operation on an idle press ends, and a command pushed meanwhile may start. R219. -/
  | fillerOperationEnd (core : Nat)
  /-- Tsustitur loads an image's .qslot section, writing its bytes and leaving every slot empty. R427. -/
  | qslotSectionLoad (part : Nat) (pa : Nat) (bytes : List (BitVec 8))
  /-- An 8-byte write to CMD while BUSY is 1, or with an OP not in Table 18.6 or in the wrong window, completes with RESULT 3 or 2 and changes nothing. R376. -/
  | cmdWriteRejected (win : Window) (cmd : Nat)
  deriving DecidableEq, Repr

end Sys2Proof
end

