-- ==== Sys2Proof/Config.lean ====
section
/-! DEFINITION. What the spec leaves open as a value (free values, with no body: nothing can be
proved about which value it is), and the functions of other standards that the spec only names. -/

namespace Sys2Proof.Config

/-- The stored bits of an uncorrectable granule as a slice serves it, the syndrome of a SECDED
code, and other values the spec does not state: the n-th free value the machine asks for (R430,
R442). Log entry 8. -/
opaque freeWord : Nat → BitVec 64

/-- How much TS advances over the n-th step: the spec ties TS to a clock that the model leaves out
(R20). Log entry 9. -/
opaque elapsed : Nat → Nat

/-- Whether an SLH-DSA-SHA2-192s signature verifies over an image digest under the fused firmware
key (R408). -/
opaque signatureOk : BitVec 256 → Nat → Bool

/-- The 48-byte seed fused into the device, byte 0 lowest (R410). -/
opaque fusedSeed : BitVec 384

/-- The Wenxon certificate over the identity public key, as it is stored in the device (R410). -/
opaque certificate : List (BitVec 8)

/-- Where the physical function reads the certificate in its BAR 0: R410 does not say. Log entry 63. -/
opaque certificateAt : Nat

/-- PK.root of the SLH-DSA-SHA2-192s key pair that FIPS 205 generates from SK.seed and PK.seed (R410). -/
opaque slhRoot : BitVec 192 → BitVec 192 → BitVec 192

/-- The 16,224-byte SLH-DSA-SHA2-192s signature of a report body under the private key SK.seed, SK.prf, PK.seed, PK.root
(R411). -/
opaque slhSign : BitVec 192 → BitVec 192 → BitVec 192 → BitVec 192 → List (BitVec 64) → BitVec 129792

/-- The n-th ML-KEM-1024 encapsulation key the device generates, as one number (R412). -/
opaque kemKey : Nat → Nat

/-- Unwraps a wrapped key under the decapsulation key of the n-th key pair; `none` when the wrap
fails (R412). -/
opaque unwrap : Nat → List (BitVec 8) → Option (BitVec 256)

/-- The set of a slice that a line maps to, of 256: R126 does not say which. Log entry 8. -/
opaque sliceSet : Nat → Nat

/-- The silicon revision (Table 1.5). -/
opaque revision : BitVec 16

/-- The digest stage 0 extends MR0 with, the ROM revision (Table 21.1). -/
opaque romDigest : BitVec 256

/-- The digest of a partition layout: the rectangles, the owners of the scale-up and of the Ethernet ports, and the ranges of
second-tier memory (Table 21.1). Log entry 94. -/
opaque layoutDigest : List (Nat × Nat × Nat) → List (Option Nat) → List (Option Nat) → List (Nat × Nat × Nat) → BitVec 256

/-- The fused minimum security version of a part as it leaves the factory (R408). -/
opaque fusedVersion : BitVec 64

/-- The size of the partition-level state that follows the last core record (SAVELEN, Table 18.5),
which the device fixes by the partition's layout. -/
opaque saveLen : Nat → BitVec 64

/-- The bytes that the device itself lays out in a save record, by the record's number and the offset (R345). -/
opaque recordByte : Nat → Nat → BitVec 8

/-- The width, as a power of two, of the counter that QCREATE makes: Table 18.6 gives it none. Log entry 29. -/
opaque queueLog : Nat

/-- The bytes of main memory of a partition of a peer device (R368), by device id and partition. -/
opaque peerBytes : BitVec 64 → Nat → Nat

/-- The messages that the fabric's buffers hold (R118): finite, and their number unstated. Log entry 75. -/
opaque fabricRoom : Nat

/-- The Ethernet address that a route-table entry resolves its peer device id to (R373); `none` for a peer that
is reached over scale-up ports alone. The entry has no field for it. Log entry 72. -/
opaque ethernetAddr : BitVec 64 → Option (BitVec 48)

end Sys2Proof.Config
end

