-- ==== Sys2Proof/Machine/State.lean ====
section
/-! DEFINITION. The state of a JX1 device as plain data: every core, the memories, and the objects of
the partitions, contexts and management windows; why a step can stop; and the state after reset. -/

namespace Sys2Proof.Machine

/-! ## Stored data -/

/-- Bytes by address: addresses strictly rising and no byte 0 listed; an unlisted byte reads 0
(log entry 3). -/
abbrev Memory := List Host.Cell

/-- A set of numbers: a strictly rising list. -/
abbrev NatSet := List Nat

/-- The canonical form of a memory. -/
def Memory.wf (m : Memory) : Bool :=
  decide (m.Pairwise (fun x y => x.1 < y.1)) && m.all (fun c => decide (c.2 ≠ 0))

/-- The canonical form of a set. -/
def NatSet.wf (s : NatSet) : Bool := decide (s.Pairwise (· < ·))

/-- A dword with the taint and poison bits that travel with it (R72, R134). -/
structure Val where
  bits : Word
  taint : Bool
  poison : Bool
  deriving DecidableEq, Repr

/-- A dword with its poison, as messages, tokens and channels carry it. -/
structure PWord where
  bits : Word
  poison : Bool
  deriving DecidableEq, Repr

/-- A 256-byte row with poison per 32-bit unit (R176). -/
structure Row where
  bits : BitVec 2048
  pois : BitVec 64
  deriving DecidableEq, Repr

/-- Where bytes live: a core's local memory (core id, local address), or physical memory. A
physical key is the partition number times 2^48 plus the physical address (R129). -/
inductive Target where
  | loc (core la : Nat)
  | phys (key : Nat)
  deriving DecidableEq, Repr

/-- A phase domain: the context and the domain's phase barrier (R148). -/
structure Dom where
  ctx : Nat
  bar : BarId
  deriving DecidableEq, Repr

/-- The visibility class of a write (Table 7.1). -/
inductive WClass where
  | phased (d : Dom) (phase : BitVec 32)
  | direct
  deriving DecidableEq, Repr

/-- How an access uses the lines of a slice (Table 6.5): by its hint on a WB page, as bypass on others;
`zfill` is a ZFILL of a WB page with its hint (R140), `through` an atomic on another page, which memory takes as well
(R165). -/
inductive LineUse where
  | normal | stream | bypass | keep | zfill (hint : BitVec 2) | through
  deriving DecidableEq, Repr

/-- One store: where, the bytes with their poison, and whether it sets the full bit of its dword or
slot (STF, R169). `writer` is the storing core, `act` the storing activation, `seq` its place in
the core's program order (the model's own); `use` is its use of slice lines; `combines`: its page is WC, so
that it gathers in the write-combining buffer (R131); `after`: the place in program order of the activation's
latest release or acquire, before which everything comes first (R155); `nib`: the store is of one half byte, the high one
or not, and keeps the other (R244). -/
structure StoreOp where
  tgt : Target
  bytes : List Byte
  pois : List Bool
  full : Bool
  cls : WClass
  writer : Nat
  act : Nat
  seq : Nat
  use : LineUse := .normal
  combines : Bool := false
  after : Nat := 0
  nib : Option Bool := none
  deriving DecidableEq, Repr

/-- A store in the core's store buffer (R137). `sent`: it has reached its home and its
acknowledgement is on the way; `wc`: it sits in the write-combining buffer, and `group`, which is not 0 then, names the
stores that merge there and leave as one write (R131). -/
structure Buffered where
  op : StoreOp
  sent : Bool
  wc : Bool
  group : Nat := 0
  deriving DecidableEq, Repr

/-! ## Activations -/

/-- A message as it travels (R94): from which core, to which core and queue, the entry, body,
routing tag and REPLYTO word it brings. -/
structure Msg where
  src : Nat
  dst : Nat
  hi : Bool
  entry : BitVec 48
  body : List PWord
  tag : BitVec 16
  replyTo : BitVec 64
  deriving DecidableEq, Repr

/-- An output that a revocable activation holds (R107), or a release between two of them (log entry
16). -/
inductive Held where
  | release (system : Bool)
  | store (s : StoreOp)
  | msg (m : Msg)
  | reply (addr : BitVec 17) (core : Nat) (v : PWord)
  | token (actor : Nat) (dws : List PWord)
  deriving DecidableEq, Repr

/-- An activation (R95): its entry, message body and place in it, its user read-only registers, and
its revocability, checkability and held outputs (R106 to R108). `uid` is the model's identity; `initial`
marks an initial firing of an actor (R436); `reply0` is REPLYTO as it was at the start (R385);
`granted` lists the granules its claims received, in order, and in a check run those still to come
(R438); `fence` is the place in program order of its latest release or acquire (R155). -/
structure Act where
  uid : Nat
  entry : BitVec 48
  body : List PWord
  pos : Nat
  hi : Bool
  actor : Option Nat
  redeliv : Bool
  msgend : Bool
  tag : BitVec 16
  replyTo : BitVec 64
  revocable : Bool
  redeliverable : Bool
  checkable : Bool
  sampled : Bool
  held : List Held
  emptied : List Nat
  extra : List Nat
  wp : BitVec 17
  slot : Nat
  popped : Nat
  pushed : Nat
  digest : Word
  check : Option Nat
  initial : Bool
  reply0 : BitVec 64
  granted : List (List Nat)
  fence : Nat := 0
  deriving DecidableEq, Repr

/-- What a lookahead slot will write (Table 2.6): a register, a tile row, or the rind register and
tag of a TLD, and of the next ones for a narrow pair. -/
inductive Dest where
  | reg (r : RSpec)
  | row (v : BitVec 6)
  | tld (kd tag : BitVec 4) (pair : Bool)
  deriving DecidableEq, Repr

/-- The value a slot holds until it is applied. -/
inductive Payload where
  | word (v : Val)
  | row (r : Row)
  | scales (dst : BitVec 17) (s0 : BitVec 512) (p0 : BitVec 64) (s1 : BitVec 512) (p1 : BitVec 64)
  deriving DecidableEq, Repr

/-- A pending write (R39 to R45). `rem`: instructions left in the window; `counted`: it takes one of
the four lookahead slots (L not 0); `value`: what the access returned, once its home has served it;
`here`: the value has arrived; `cancelled`: a younger write stands (R41); `acq`: applying it completes
an acquire (R157); `load`: the carrier is a load, and `ldc` an LDC (R159); `block`: the activation
issues nothing until the value has arrived (R98: an LDS, BARV or CNT member that waits). -/
structure Slot where
  uid : Nat
  dest : Dest
  rem : Nat
  counted : Bool
  value : Option Payload
  here : Bool
  cancelled : Bool
  acq : Bool
  load : Bool
  ldc : Bool
  block : Bool
  deriving DecidableEq, Repr

/-- An entry of the loop stack (R85). -/
structure LoopEntry where
  start : BitVec 48
  stop : BitVec 48
  c : RSpec
  deriving DecidableEq, Repr

/-! ## Lane operations -/

/-- Members of major VF (Table 8.3). -/
inductive FOp where
  | add | sub | mul | fma | fms | max | min | neg | abs | rcp | rsq | rcps | rsqs | exp2 | log2 | clamp
  deriving DecidableEq, Repr

/-- Members of major VI (Table 8.4). -/
inductive IOp where
  | add | sub | mul | mulh | mad | max | min | abs | shl | shr | sra | adds | subs | maxu | minu | neg
  deriving DecidableEq, Repr

/-- Members of major VL (Table 8.5). -/
inductive BOp where
  | and | or | xor | andn | not | mov | sel | popc | clz
  deriving DecidableEq, Repr

/-- Members of major VC (Table 8.6). -/
inductive COp where
  | eqF | neF | ltF | leF | unF | eqI | neI | ltI | leI | ltU | leU
  deriving DecidableEq, Repr

/-- Members of major VM (Table 8.7). -/
inductive MOp where
  | and | or | xor | not | andn | sel | popc | first
  deriving DecidableEq, Repr

/-- Members of major VX (Table 8.8), in table order. -/
inductive XOp where
  | f32f16 | f16f32 | f32bf16 | bf16f32 | f32e4m3 | e4m3f32 | f32e5m2 | e5m2f32
  | i32f32 | f32i32 | i16i32 | i32i16 | f32cb4 | cb4f32 | i8i32 | i32i8
  deriving DecidableEq, Repr

/-- Members of major VP (Table 8.9). -/
inductive POp where
  | bcast | extr | ins | rot | shuf | scan | redadd | redmax | redmin | iota | zip | unzip
  deriving DecidableEq, Repr

/-- A lane operation. -/
inductive LaneOp where
  | f (o : FOp)
  | i (o : IOp)
  | b (o : BOp)
  | c (o : COp)
  | m (o : MOp)
  | x (o : XOp)
  | p (o : POp)
  deriving DecidableEq, Repr

/-- A lane instruction in uniform shape, as the repetition buffer holds it (R89): lane operands d, a
and b, register operands (d, a or b) where the member has one, and the part or k immediate. -/
structure VInstr where
  op : LaneOp
  d : LSpec
  a : LSpec
  b : LSpec
  r : RSpec
  q : RSpec
  k : Nat
  deriving DecidableEq, Repr

/-- A body instruction of the repetition buffer with its address. -/
structure RepSlot where
  addr : BitVec 48
  ins : VInstr
  deriving DecidableEq, Repr

/-- The repetition buffer while it holds instructions (R89, R92). `lmask` is the number of the current mask as its
body has it, which reaches the integer pipeline's LMASK once the buffer is empty (R196). -/
structure RepBuf where
  body : List RepSlot
  vstride : Int
  passes : Nat
  pass : Nat
  next : Nat
  lmask : BitVec 3
  deriving DecidableEq, Repr

/-- The running state of an activation in a priority context (R98, R341): PC, taint bits, loop
stack, open windows, repetition buffer, LMASK, RMODE, and, for a PHASE past its arrival, the
generation it waits for (R174). -/
structure Thread where
  act : Act
  pc : BitVec 48
  taint : BitVec 32
  loops : List LoopEntry
  slots : List Slot
  rep : Option RepBuf
  lmask : BitVec 3
  rmode : BitVec 2
  phaseWait : Option (BitVec 32)
  deriving DecidableEq, Repr

/-- The trap frame (R338): the trapped activation's thread, the priority context it had, and whether
the repetition buffer took the fault, so that the thread's own pc is the resume address (R92). -/
structure TrapFrame where
  hi : Bool
  buf : Bool
  th : Thread
  deriving DecidableEq, Repr

/-- An entry of HQ or LQ: an activation to start, or a granted claim to resume (R102), with the trap frame when a
handler made the claim (log entry 21). -/
structure QEntry where
  act : Act
  resume : Option Thread
  extra : Bool
  frame : Option TrapFrame := none
  deriving DecidableEq, Repr

/-- A parked claim (R102, R103); of a handler with the trap frame (log entry 21). -/
structure Parked where
  th : Thread
  n : Nat
  d : RSpec
  frame : Option TrapFrame := none
  deriving DecidableEq, Repr

/-- A mask register with one poison flag per bit (R181). -/
structure Mask where
  bits : BitVec 128
  pois : BitVec 128
  deriving DecidableEq, Repr

/-! ## The press -/

/-- A weight plane (Table 9.1): its valid bit, format, 32 weight rows of up to 1024 bits as they
were read, poison per weight, and the E8 scales of its columns with their poison. -/
structure Plane where
  valid : Bool
  fmt : BitVec 4
  rows : List (BitVec 1024)
  pois : List (BitVec 128)
  scales : BitVec 1024
  scalePois : BitVec 128
  deriving DecidableEq, Repr

/-- The state of a queue slot (Table 9.2). -/
inductive SlotSt where
  | free | pending | running | stopped
  deriving DecidableEq, Repr

/-- A binding tag (R235). -/
structure Tag where
  valid : Bool
  addr : BitVec 17
  reg : BitVec 4
  gen : BitVec 16
  deriving DecidableEq, Repr

/-- A press queue slot: its state, the activation that pushed it (R385) with its entry, routing tag
and actor number (R400), its place in program order, and the tags recorded at its push or RETRY (R215). -/
structure PSlot where
  st : SlotSt
  owner : Nat
  entry : BitVec 48
  mtag : BitVec 16
  actor : BitVec 16
  seq : Nat
  tag : Tag
  tagh : Tag
  deriving DecidableEq, Repr

/-- The press (Table 9.1). `faultTaken`: the fault of the present stop has been taken (R211). -/
structure Press where
  tile : List Row
  active : Plane
  shadow : Plane
  narrow : Bool
  integer : Bool
  ca : BitVec 256
  cw : BitVec 256
  caPois : BitVec 16
  cwPois : BitVec 16
  pairTable : List (BitVec 32)
  pairPois : BitVec 256 := 0
  pair : Bool
  ov : Bool
  head : BitVec 4
  tail : BitVec 4
  pend : Nat
  mark : BitVec 16
  stop : Bool
  scode : BitVec 4
  slots : List PSlot
  faultTaken : Bool
  filler : Bool
  deriving DecidableEq, Repr

/-- A rind register: 64 scales, poison per scale, and the generation (R233). -/
structure Rind where
  scales : BitVec 512
  pois : BitVec 64
  gen : BitVec 16
  deriving DecidableEq, Repr

/-! ## What kernel load gives a core -/

/-- An actor as declared (Table 15.2), with the base granule of its slot (R100). -/
structure ActorDef where
  entry : BitVec 48
  crank : Nat
  cons : Nat
  p : Nat
  c : Nat
  depth : Nat
  fstart : Nat
  fbank : Nat
  base : Nat
  revocable : Bool
  checkable : Bool
  selfpress : Bool
  slotBase : Nat
  deriving DecidableEq, Repr

/-- An actor's FIFO and activity on a core (R97): ring start, tokens present, slots reserved by
producers, and whether it has an activation that is not ENDED. -/
structure ActorSt where
  head : Nat
  count : Nat
  reserved : Nat
  busy : Bool
  held : Nat
  deriving DecidableEq, Repr

/-- What kernel load gives a core: the kernel, cohort and group it serves, shapes, register count,
workspace sizes, actors and message slots, whether HOLD is set, the identity counter at the load, and the press mode of
the load state (R229, R300, R319). -/
structure KernInfo where
  ctx : Nat
  part : Nat
  kid : BitVec 32
  cohort : Nat
  group : Nat
  groups : Nat
  gx : Nat
  gy : Nat
  rx : Nat
  ry : Nat
  regs : Nat
  wsmax : Nat
  msgGranules : Nat
  hiSlot : Nat
  loSlot : Nat
  actors : List ActorDef
  peers : List Nat
  mates : List Nat
  parties : List Nat
  hold : Bool
  loadedAt : Nat
  narrow : Bool := false
  integer : Bool := false
  deriving DecidableEq, Repr

/-- A batch that BSEAL or END has sealed, with the copies that have not ended (R290). -/
structure Sealed where
  num : BitVec 16
  left : List Nat
  failed : List (Nat × Nat)
  deriving DecidableEq, Repr

/-- The batch state of a priority context (R290, R291): the open batch (copies not ended, copies
failed, whether it holds any copy), the sealed batches, and the error accumulator. -/
structure Batches where
  openLeft : List Nat
  openFailed : List (Nat × Nat)
  openUsed : Bool
  sealedList : List Sealed
  errCount : Nat
  errStatus : Nat
  errBatch : BitVec 16
  deriving DecidableEq, Repr

/-- A watch comparator (R406). -/
structure WatchCmp where
  base : BitVec 48
  m : Nat
  rd : Bool
  wr : Bool
  deriving DecidableEq, Repr

/-- Trace state (R400, R401): control word, events counted per KIND, the 4-entry queue, of records with their contexts, and
the records dropped since the last one that was written. -/
structure Trace where
  ctl : BitVec 16
  counts : List Nat
  queue : List (Nat × List Word)
  lost : Nat
  deriving DecidableEq, Repr

/-- A delay accumulator (Table 20.1), by number. -/
structure Delay where
  sum : Nat
  count : Nat
  deriving DecidableEq, Repr

/-- An L1 line: the bank that is its way, its physical line and bytes, with poison per dword (R124, R431). -/
structure L1Line where
  bank : Nat
  line : Nat
  bytes : List Byte
  pois : List Bool
  deriving DecidableEq, Repr

/-- An instruction cache line, named by virtual line address and context (R125). -/
structure ILine where
  vline : Nat
  ctx : Nat
  bytes : List Byte
  deriving DecidableEq, Repr

/-- An LDS that found its word empty, waiting at the home (R169). -/
structure LdsReq where
  uid : Nat
  core : Nat
  act : Nat
  tgt : Target
  empties : Bool
  taint : Bool
  use : LineUse := .bypass
  deriving DecidableEq, Repr

/-- One core (R13). `image` is the private image of a check run: the bytes of the original's slot and
owned granules, with poison per dword, the granules it covers, and the dwords in it that the run has set empty; `checkTt` are the tensor table entries that the
original read, those still to come, in order (R245); `checkKern` and `checkHome` are the kernel and the core of the
original (R108, R438); `withdrawn` are the LDS requests that a pre-emption took back from their words (R169). -/
structure Core where
  id : Nat
  lm : Memory
  lmPoison : NatSet
  lmEmpty : NatSet
  bankModes : BitVec 32
  press : Press
  rind : List Rind
  tags : List Tag
  tt : List (Nat × BitVec 256)
  laneCb : BitVec 256
  laneCbPois : BitVec 16
  image : Memory
  imagePois : NatSet
  imageGr : List Nat
  checkTt : List (Nat × BitVec 256)
  checkKern : Option KernInfo
  checkHome : Nat
  active : Bool
  curHi : Bool
  cur : Thread
  susp : Option Thread
  frame : Option TrapFrame
  masksHi : List Mask
  masksLo : List Mask
  wph : BitVec 17
  wpl : BitVec 17
  epc : BitVec 48
  cause : BitVec 8
  tval : BitVec 64
  tvec : BitVec 48
  priv : Bool
  inHandler : Bool
  phaseNo : BitVec 32
  forced : Bool
  hq : List QEntry
  lq : List QEntry
  inHi : List Msg
  inLo : List Msg
  outbox : List Msg
  kern : Option KernInfo
  freeGr : NatSet
  parked : List Parked
  rolled : List Act
  actors : List ActorSt
  fifoIn : List (List PWord)
  window : List Nat
  storeBuf : List Buffered
  l1 : List L1Line
  icache : List ILine
  batchHi : Batches
  batchLo : Batches
  batchNo : BitVec 16
  delays : List (Nat × Delay)
  nInstr : Nat
  nStart : Nat
  nPress : Nat
  nWait : Nat
  trace : Trace
  watch : List WatchCmp
  stopReq : Bool
  stopped : Bool
  frozen : Bool
  acked : Bool
  suspicion : Nat
  passes : Nat
  dueQ : Bool
  quarantined : Bool
  sampler : BitVec 16
  stalled : Bool
  bufStalled : Bool
  withdrawn : List LdsReq := []
  imageEmpty : NatSet := []
  deriving DecidableEq, Repr

/-! ## Memory system and fabric -/

/-- Who wrote a granule of a ripening copy (R149). -/
inductive Writer where
  | none
  | one (core : Nat)
  | many
  deriving DecidableEq, Repr

/-- A ripening copy (R149): its line, domain and phase, the bytes written, and per granule the
writer and the poison of the written data. `zero`: a ZFILL wrote it, and nothing else but zeros since
(R127); `keep`: a store with the keep hint wrote it (R131); `nibs`: bytes of which one half alone was written, the high one
or not, with that half in its place (R244). -/
structure Ripe where
  line : Nat
  dom : Dom
  phase : BitVec 32
  mask : List Bool
  data : List Byte
  writers : List Writer
  pois : List Bool
  zero : Bool := false
  keep : Bool := false
  nibs : List (Nat × Bool × Byte) := []
  deriving DecidableEq, Repr

/-- A line that a slice holds (R126): whether it is dirty, kept (R133) or a zero line (R127), and its
granules that were found uncorrectable and not rewritten since (R386, R430). Its bytes are those of
the memory it stands for. -/
structure CacheLine where
  line : Nat
  dirty : Bool
  kept : Bool
  zero : Bool
  damaged : NatSet
  deriving DecidableEq, Repr

/-- What a request under way asks of its home (R45). `fill`: the lines read enter the core's L1; `thru`: the page is not
WB, so that the write leaves no dirty line (R165); `pref` is one line that a PREF asks for, which brings no value (R141);
`pages` maps the 4 KiB pages a TLD reads to physical keys and whether they are WB, none for a ZERO page
(R242). -/
inductive ReqKind where
  | load (t : Target) (size : Nat) (sext : Bool) (taint : Bool) (fill : Bool)
  | row (t : Target) (fill : Bool)
  | pref (key : Nat) (fill : Bool)
  | atomic (t : Target) (op : AtomOp) (size : Nat) (v w : Word) (taint thru : Bool)
  | tile (entry : BitVec 256) (ti tj : Nat) (dst : BitVec 17) (pages : List (Nat × Option (Nat × Bool)))
  deriving DecidableEq, Repr

/-- A request with the identity of the slot that waits for it; whether its home has served it, the
partition number of the slice that did (R398), its use of slice lines, and, as for a store, what comes before it
(R155). -/
structure Req where
  uid : Nat
  core : Nat
  act : Nat
  kind : ReqKind
  served : Bool
  slice : Option Nat
  use : LineUse := .normal
  after : Nat := 0
  deriving DecidableEq, Repr

/-- Something on its way to a core: a token, a reply, a channel dword, a channel credit, or a message that waits in
the fabric (R96, R118). -/
inductive Parcel where
  | msg (m : Msg)
  | token (src dst actor : Nat) (dws : List PWord)
  | reply (dst : Nat) (addr : BitVec 17) (v : PWord)
  | chan (dst : Nat) (d : Dir) (v : PWord)
  | credit (dst : Nat) (d : Dir)
  deriving DecidableEq, Repr

/-- An armed error (R350): unit 0 local dword, 1 slice granule, 2 memory granule, and 3 tile unit, whose target is the
byte offset within the core's tile (R442); kind 0 correctable, 1 uncorrectable, 2 poison, and 3 the poison codeword that
a patrol engine has written to memory under a clean slice line (R387). -/
structure Armed where
  tgt : Target
  unit : Nat
  kind : Nat
  deriving DecidableEq, Repr

/-- A TLB entry (R359): the TLB that holds it (a cluster's by its number, the last level of die `d` as
128 + d), context, virtual page base, log2 size, and the leaf. -/
structure TlbEntry where
  unit : Nat
  ctx : Nat
  vbase : Nat
  logSize : Nat
  leaf : BitVec 64
  deriving DecidableEq, Repr

/-- A token, antitoken or arrival on its way through a network: on wire `wire` before layer `layer`,
or, past the last layer, before its exit (R251, R311). `ret`: its sender's slot `uid` waits for the
result, whose taint is `taint`; `waiting`: it waits at a closed first layer (R263); `pois`: it was in flight as its
counter failed, so that its value is poisoned (R265). A take-window read has no core. -/
structure Tok where
  uid : Nat
  ctx : Nat
  net : NetId
  anti : Bool
  layer : Nat
  wire : Nat
  core : Option Nat
  act : Nat
  ret : Bool
  taint : Bool
  requester : Nat
  waiting : Bool
  pois : Bool := false
  deriving DecidableEq, Repr

/-- A request to the input-0 cell: a CSUM or a CRESET (R262, R263); `pois` as for a token. -/
structure CellReq where
  uid : Nat
  ctx : Nat
  handle : Nat
  core : Nat
  act : Nat
  taint : Bool
  reset : Bool
  pois : Bool := false
  deriving DecidableEq, Repr

/-- A counter (R252 to R268). `closed`: the first layer is closed; `owner` the kernel it belongs to,
none for a queue counter. Toggles are listed layer by layer. -/
structure Counter where
  ctx : Nat
  handle : Nat
  logw : Nat
  start : Nat
  base : BitVec 48
  nogive : Bool
  toggles : List Bool
  counts : List Int
  failed : Bool
  closed : Bool
  kid : Option Nat
  deriving DecidableEq, Repr

/-- A barrier of `n` parties (R308 to R315). `heldToks` are the tokens held at exits; `gen` is its generation, which
every member core's copy holds but for those in `owed`: the cores whose copies are still to be written, and hold the
generation before (R310, R313 step 5); `forcedGens` the completed generations whose forced flag is set
(R153); `arrived` the cores whose arrival at handle 0 or 1 is in the present generation (R312). -/
structure Barrier where
  ctx : Nat
  id : BarId
  n : Nat
  logw : Nat
  toggles : List Bool
  counts : List Nat
  heldToks : List Tok
  gen : BitVec 32
  forcedGens : List (BitVec 32)
  failed : Bool
  members : List Nat
  arrived : NatSet
  owed : List Nat := []
  deriving DecidableEq, Repr

/-! ## Queues, copies, kernels -/

/-- Queue states (Table 12.1). -/
inductive QSt where
  | waiting | running | held | error
  deriving DecidableEq, Repr

/-- A packet that has been consumed and has not completed: its index, dwords, whether it has started, and
the slot's physical key. -/
structure Pkt where
  index : Nat
  dws : List Word
  started : Bool
  key : Nat
  deriving DecidableEq, Repr

/-- A user-mode queue (R271). `seen`: where the dword of a HELD queue's WAIT stands, and what it held at the last test
(R282). -/
structure Queue where
  ctx : Nat
  num : Nat
  base : Nat
  logq : Nat
  ctl : Nat
  handle : Nat
  rd : Nat
  st : QSt
  reason : Nat
  pkts : List Pkt
  seen : Option (Nat × Word × Bool) := none
  deriving DecidableEq, Repr

/-- A copy accepted by a channel (R283): its descriptor, origin, sequence number, and how far it has
gone: the next element in enumeration order, the row writes issued, bytes completed, and its status once
known; `priv`: it was issued in privileged mode. -/
structure CopyJob where
  uid : Nat
  desc : List Word
  core : Option Nat
  hi : Bool
  ctx : Nat
  pkt : Option (Nat × Nat)
  seq : BitVec 16
  next : Nat
  issued : Nat
  done : BitVec 48
  status : Option Nat
  priv : Bool
  deriving DecidableEq, Repr

/-- A row write on its way from a copy channel (R285), with its use of slice lines. -/
structure RowWrite where
  cluster : Nat
  ch : Nat
  job : Nat
  ctx : Nat
  tgt : Target
  bytes : List Byte
  pois : List Bool
  use : LineUse := .bypass
  deriving DecidableEq, Repr

/-- A copy channel (R283, R294). `lastSeq` and `lastDone` are the CWPTR state;
`startedAt` is the identity counter as its latest copy started, 0 before the first. -/
structure Channel where
  cluster : Nat
  ch : Nat
  jobs : List CopyJob
  nextSeq : BitVec 16
  lastSeq : BitVec 16
  lastDone : BitVec 48
  startedAt : Nat
  deriving DecidableEq, Repr

/-- Kernel states (Table 15.4); a completed kernel leaves the list, and a saved one is in its context. -/
inductive KSt where
  | waiting | ready | running | draining | failed
  deriving DecidableEq, Repr

/-- A kernel (R319 to R331). `header` is its 32 dwords; the tables are kept as read at launch. `met0` and
`met1`: its wait conditions have been observed; `bonus` and `order`: its age bonus and when it became
eligible; `made`: its counters exist, and the cells of a barrier set are its own (R329); `seen0` and `seen1`: where the
dword of each condition stands, and what it held at the last test (R326); `reserved`: it reserves its partition (R328);
`again`: cohorts that a pre-emption returned to UNPLACED (R341). -/
structure Kernel where
  ctx : Nat
  part : Nat
  kid : BitVec 32
  queue : Nat
  index : Nat
  pkt : List Word
  header : List Word
  actors : List (List Word)
  entries : List (List Word)
  tensors : List (BitVec 256)
  counters : List (List Word)
  st : KSt
  met0 : Bool
  met1 : Bool
  next : Nat
  ended : Nat
  status : Nat
  bonus : Nat
  order : Nat
  made : Bool
  reserved : Bool
  again : List Nat
  seen0 : Option (Nat × Word × Bool) := none
  seen1 : Option (Nat × Word × Bool) := none
  deriving DecidableEq, Repr

/-- Cohort states (Table 13.3). -/
inductive ChSt where
  | loading | running | ended
  deriving DecidableEq, Repr

/-- A placed cohort: per group the cluster and origin (R298). -/
structure Cohort where
  ctx : Nat
  kid : BitVec 32
  index : Nat
  groups : List (Nat × Nat × Nat)
  st : ChSt
  deriving DecidableEq, Repr

/-- A sampled activation awaiting its verdict (R388 to R394): the retained inputs (body and special
registers in `act`, base slot, table entries read; its tokens by their addresses in the original core's FIFO bank), the outputs and digests of the original,
the check and the tiebreak, and what the core that runs the check has set aside (R438). `outs`: once it is decided, the
outputs that are committed and have still to leave (R394). -/
structure Check where
  uid : Nat
  ctx : Nat
  core : Nat
  act : Act
  inputs : Memory
  inPois : NatSet
  tokens : List Nat
  tt : List (Nat × BitVec 256)
  kern : Option KernInfo
  oHeld : List Held
  oDigest : Word
  ended : Bool
  checker : Option Nat
  cDigest : Option Word
  tie : Option Nat
  tDigest : Option Word
  tHeld : List Held
  grants : List (List Nat)
  savedPress : Option Press
  savedRind : List Rind
  savedTags : List Tag
  savedTt : List (Nat × BitVec 256)
  savedCb : BitVec 256
  savedCbPois : BitVec 16
  outs : Option (List Held) := none
  deriving DecidableEq, Repr

/-! ## Contexts, partitions, platform -/

/-- Context states (Table 16.2). -/
inductive CtxSt where
  | active | preempting | saved | restoring | error
  deriving DecidableEq, Repr

/-- What a pre-emption saves (R289, R341): the cores with what each held, the ripening copies, which are there once the
partition has passed to another context (R154), the forced phases, the copy channels, the requests withdrawn at words, and
the messages in the fabric, all kept as data; the number under which the device's own parts of the save records were
written; and the channels that they show as connected, by core and direction. -/
structure Saved where
  cores : List Core
  ripening : List Ripe
  forced : List (Dom × BitVec 32)
  channels : List Channel
  ldsWait : List LdsReq
  record : Nat
  msgs : List Msg := []
  wired : List (Nat × Nat) := []
  deriving DecidableEq, Repr

/-- A context (R332). -/
structure Context where
  id : Nat
  part : Nat
  st : CtxSt
  desc : List Word
  cntpol : BitVec 64
  checkrate : BitVec 64
  tail : Nat
  lost : Nat
  pendingTail : List Nat
  traceBase : BitVec 64
  traceLog : Nat
  traceNext : Nat
  corrected : Nat
  latch : BitVec 32
  saved : Option Saved
  deriving DecidableEq, Repr

/-- A host DMA window (R367). -/
structure DmaWin where
  base : BitVec 64
  size : BitVec 64
  bus : BitVec 64
  deriving DecidableEq, Repr

/-- A route-table entry (R368). -/
structure RouteEnt where
  valid : Bool
  device : BitVec 64
  part : Nat
  ports : BitVec 128
  slot : Nat
  deriving DecidableEq, Repr

/-- A partition (R19): its rectangle in granules (first, across, rows; 0 across when none), launch
count, limits and windows, key slots, and the resources' counters; `counted` is what the shared counters 6, 7 and 8 have
held, each with the TS from which on, the latest last (R346). -/
structure Partition where
  first : Nat
  across : Nat
  rows : Nat
  launches : BitVec 32
  rampUp : BitVec 64
  rampDn : BitVec 64
  dma : List DmaWin
  routes : List (Nat × RouteEnt)
  keys : List (KeySlot × BitVec 256)
  kem : Option Nat
  bytesOut : Nat
  bytesIn : Nat
  tier2 : Nat
  hypCorrected : Nat
  lastQueue : Nat
  counted : List (Nat × Nat × Nat × Nat) := []
  deriving DecidableEq, Repr

/-- A management window's registers (Table 18.5). -/
structure MgmtWin where
  busy : Bool
  result : BitVec 8
  arg : List Word
  deriving DecidableEq, Repr

/-- Port states (Table 18.3). -/
inductive PortSt where
  | down | training | active | degraded | quarantined
  deriving DecidableEq, Repr

/-- A port: its state, the failed replays of the present flit, the times in TS of the replay exhaustions of the last
second (Table 18.3), and the partition it is allotted to. -/
structure Port where
  st : PortSt
  replays : Nat
  exhausted : List Nat
  owner : Option Nat
  deriving DecidableEq, Repr

/-- A cluster's ramp window (R219): starts in this window and the one before. -/
structure Ramp where
  cluster : Nat
  now : Nat
  prev : Nat
  deriving DecidableEq, Repr

/-- What the device sends outside: completions to the host (R347, R364, R365, R411), its own writes that
reach host memory, at a host bus address, or a peer (R367, R369), and what it answers a peer (R369). -/
inductive HostOut where
  | data (requester : Nat) (v : Word)
  | allOnes (requester : Nat)
  | abort (requester : Nat)
  | unsupported (part : Nat)
  | report (fn : Nat) (body : List Word) (signature : BitVec 129792) (key : Option Nat)
  | keyError (part : Nat)
  | hostWrite (addr : Nat) (bytes : List Byte)
  | peerWrite (pa : Nat) (bytes : List Byte)
  | peerData (part : Nat) (bytes : List Byte) (poison : Bool)
  | counterLow (part : Nat) (v : BitVec 32)
  deriving DecidableEq, Repr

/-- A host read waiting at a take window (R365). -/
structure TakeRead where
  uid : Nat
  part : Nat
  requester : Nat
  handle : Nat
  deriving DecidableEq, Repr

/-- Boot (R408, R415): the stage that runs, RECOVERY, or no power after a thermal trip. -/
inductive Boot where
  | stage (n : Nat)
  | recovery
  | tripped
  deriving DecidableEq, Repr

/-- The device identity key pair of SLH-DSA-SHA2-192s (R410): what stage 0 expands from the seed, and the root that key
generation adds. -/
structure Identity where
  skSeed : BitVec 192
  skPrf : BitVec 192
  pkSeed : BitVec 192
  pkRoot : BitVec 192
  deriving DecidableEq, Repr

/-- Which turn comes next: a step of another agent, the integer pipeline of the core in focus, or
a change of the core in focus. The model's own (log entry 1). -/
inductive Turn where
  | event (i : Instr)
  | integer
  | focus (core : Nat)
  deriving DecidableEq, Repr

/-- The device. `core` is the core in focus; a core that neither is in focus nor stands in `others` is as `Core.reset`
gives it. `lines` are the lines that slices hold, the one used longest ago first; `hypShared` is the hypervisor's count
of errors in shared and unallotted resources (R380, R396); `patrols` are the positions of the patrol engines, by engine
(R387). `tier2Held` says of each GiB of second-tier memory which partition held it last, under whose memory key its bytes
stand (R375). `powerLog` are the package and module powers reported in the last millisecond, in watts, the latest first, and
`powerHeld` the clusters whose presses the power cap holds through their present windows (R413, R414). `seed` and
`certificate` are fused and stored at manufacture, and `identity` stands in the boot ROM's key store once stage 0 has made it
(R410). `trips` are the dies of the thermal trips on record, and `tripsRead` what the present boot has read of them
(R415). -/
structure State where
  core : Core
  others : List Core
  mem : Memory
  memPoison : NatSet
  fullSlots : NatSet
  lines : List CacheLine
  ripening : List Ripe
  forcedDoms : List (Dom × BitVec 32)
  armed : List Armed
  reqs : List Req
  ldsWait : List LdsReq
  parcels : List Parcel
  tlb : List TlbEntry
  tokens : List Tok
  cellReqs : List CellReq
  counters : List Counter
  barriers : List Barrier
  queues : List Queue
  channels : List Channel
  rowWrites : List RowWrite
  kernels : List Kernel
  cohorts : List Cohort
  checks : List Check
  contexts : List Context
  partitions : List Partition
  mgmt : List MgmtWin
  devWin : MgmtWin
  mfqBase : BitVec 64
  mfqLog : BitVec 64
  mfqTail : Nat
  mfqLost : Nat
  mfqPending : List Nat
  ports : List Port
  ethPorts : List Port
  tier2Owner : List (Nat × Nat × Nat)
  tier2Held : List (Nat × Nat)
  ramps : List Ramp
  patrols : List (Nat × Nat)
  powerLog : List (Nat × Nat)
  powerHeld : NatSet
  mr : List (BitVec 256)
  boot : Boot
  recovered : Option Image
  svn : BitVec 64
  seed : BitVec 384
  certificate : List Byte
  identity : Option Identity
  kemCount : Nat
  trips : List (BitVec 2)
  tripsRead : List (BitVec 2)
  takes : List TakeRead
  latches : List (Nat × BitVec 32)
  ethDropped : Nat
  hypShared : Nat
  absentCores : NatSet
  absentChannels : NatSet
  absentClusters : NatSet
  absentPorts : NatSet
  oneLane : NatSet
  absentEth : NatSet
  hostOut : List HostOut
  ts : BitVec 64
  free : Nat
  uid : Nat
  agenda : List Turn
  deriving DecidableEq, Repr

/-! ## After reset -/

/-- An activation with nothing in it: what a context that holds no activation shows. -/
def Act.blank : Act :=
  { uid := 0, entry := 0, body := [], pos := 0, hi := false, actor := none, redeliv := false,
    msgend := false, tag := 0, replyTo := 0, revocable := false, redeliverable := false,
    checkable := false, sampled := false, held := [], emptied := [], extra := [],
    wp := 0, slot := 0, popped := 0, pushed := 0, digest := 0, check := none,
    initial := false, reply0 := 0, granted := [] }

/-- A thread with nothing running. -/
def Thread.blank : Thread :=
  { act := .blank, pc := 0, taint := 0, loops := [], slots := [], rep := none, lmask := 0, rmode := 0,
    phaseWait := none }

/-- An empty plane (R205). -/
def Plane.empty : Plane :=
  { valid := false, fmt := 0, rows := [], pois := [], scales := 0, scalePois := 0 }

/-- A row of zeros without poison. -/
def Row.zero : Row := { bits := 0, pois := 0 }

/-- An empty binding tag (R233). -/
def Tag.empty : Tag := { valid := false, addr := 0, reg := 0, gen := 0 }

/-- A free queue slot (Table 9.2). -/
def PSlot.empty : PSlot := { st := .free, owner := 0, entry := 0, mtag := 0, actor := 0, seq := 0, tag := .empty, tagh := .empty }

/-- The press in its load state (R205). -/
def Press.load : Press :=
  { tile := List.replicate 64 .zero, active := .empty, shadow := .empty, narrow := false,
    integer := false, ca := 0, cw := 0, caPois := 0, cwPois := 0, pairTable := [], pair := false,
    ov := false, head := 0, tail := 0, pend := 0, mark := 0, stop := false, scode := 0,
    slots := List.replicate 16 .empty, faultTaken := false, filler := false }

/-- 64 scales of 127: the value of a rind register at kernel load (R233). -/
def scales127 : BitVec 512 := .ofNat 512 (0x7F * ((2 ^ 512 - 1) / 255))

/-- A rind register at kernel load (R233). -/
def Rind.load : Rind := { scales := scales127, pois := 0, gen := 0 }

/-- A mask register at kernel load (R300). -/
def Mask.zero : Mask := { bits := 0, pois := 0 }

/-- Empty batch state (R290). -/
def Batches.empty : Batches :=
  { openLeft := [], openFailed := [], openUsed := false, sealedList := [], errCount := 0,
    errStatus := 0, errBatch := 0 }

/-- Trace state at kernel load (R400). -/
def Trace.load : Trace := { ctl := 0, counts := [0, 0, 0, 0, 0, 0, 0], queue := [], lost := 0 }

/-- A cleared watch comparator (R406). -/
def WatchCmp.clear : WatchCmp := { base := 0, m := 0, rd := false, wr := false }

/-- Core number `id` after reset. Values the spec gives only at kernel load stand here too (log
entry 2); registers it gives no reset value are 0 (log entry 5); local memory reads 0 (entry 3) and
every bank is scratch (entry 4). -/
def Core.reset (id : Nat) : Core :=
  { id := id, lm := [], lmPoison := [], lmEmpty := [], bankModes := 0, press := .load,
    rind := List.replicate 16 .load, tags := List.replicate 16 .empty, tt := [], laneCb := 0,
    laneCbPois := 0, image := [], imagePois := [], imageGr := [], checkTt := [], checkKern := none, checkHome := 0,
    active := false, curHi := false, cur := .blank, susp := none, frame := none,
    masksHi := List.replicate 8 .zero, masksLo := List.replicate 8 .zero, wph := 0, wpl := 0, epc := 0,
    cause := 0, tval := 0, tvec := 0, priv := false, inHandler := false, phaseNo := 0, forced := false,
    hq := [], lq := [], inHi := [], inLo := [], outbox := [], kern := none, freeGr := [], parked := [], rolled := [],
    actors := [], fifoIn := [[], [], [], []], window := [64, 64, 64, 64], storeBuf := [], l1 := [],
    icache := [], batchHi := .empty, batchLo := .empty, batchNo := 0, delays := [], nInstr := 0,
    nStart := 0, nPress := 0, nWait := 0, trace := .load, watch := [.clear, .clear], stopReq := false,
    stopped := false, frozen := false, acked := false, suspicion := 0, passes := 0, dueQ := false,
    quarantined := false, sampler := 0, stalled := false, bufStalled := false }

/-- A partition that owns no rectangle (log entry 6). -/
def Partition.reset : Partition :=
  { first := 0, across := 0, rows := 0, launches := 0, rampUp := 0, rampDn := 0,
    dma := List.replicate 8 { base := 0, size := 0, bus := 0 }, routes := [], keys := [], kem := none,
    bytesOut := 0, bytesIn := 0, tier2 := 0, hypCorrected := 0, lastQueue := 0 }

/-- A management window at reset. -/
def MgmtWin.reset : MgmtWin := { busy := false, result := 0, arg := List.replicate 8 0 }

/-- A port at reset: DOWN (Table 18.3). -/
def Port.reset : Port := { st := .down, replays := 0, exhausted := [], owner := none }

/-- The device right after reset (R407): the measurement registers zero, boot at its first stage,
every port DOWN, no context, no kernel, every core empty; a full part (log entry 7). -/
def State.reset : State :=
  { core := .reset 0, others := [], mem := [], memPoison := [], fullSlots := [], lines := [],
    ripening := [], forcedDoms := [], armed := [], reqs := [], ldsWait := [], parcels := [], tlb := [],
    tokens := [], cellReqs := [], counters := [], barriers := [], queues := [], channels := [],
    rowWrites := [], kernels := [], cohorts := [], checks := [], contexts := [],
    partitions := List.replicate 16 .reset, mgmt := List.replicate 16 .reset, devWin := .reset,
    mfqBase := 0, mfqLog := 0, mfqTail := 0, mfqLost := 0, mfqPending := [],
    ports := List.replicate 128 .reset, ethPorts := List.replicate 12 .reset, tier2Owner := [], tier2Held := [],
    ramps := [], patrols := [], powerLog := [], powerHeld := [], mr := List.replicate 8 0, boot := .stage 0, recovered := none,
    svn := Config.fusedVersion, seed := Config.fusedSeed, certificate := Config.certificate, identity := none,
    kemCount := 0, trips := [], tripsRead := [], takes := [], latches := [], ethDropped := 0, hypShared := 0, absentCores := [],
    absentChannels := [], absentClusters := [], absentPorts := [], oneLane := [], absentEth := [], hostOut := [],
    ts := 0, free := 0, uid := 1, agenda := [] }

/-- Why the machine stops with a fault. The spec delivers every fault of a program as a trap, a
context error or a record, which are next states. -/
inductive Fault where
  /-- The head of the agenda is an instruction that has a word, not an event. Raised by the step.
  Safe: no step of the machine puts one there. -/
  | notAnEvent
  deriving DecidableEq, Repr

/-- Why the model gives no next state. -/
inductive Refusal where
  /-- An instruction the model does not have yet. Raised by arms of exec. Safe: it stops the run. -/
  | notModelled (mnemonic : String)
  deriving DecidableEq, Repr

end Sys2Proof.Machine
end

