-- ==== Sys2Proof/Machine/Base.lean ====
section
/-! DEFINITION. Sets, memories and other plain-data operations, the numbering and geometry of the
device (R9 to R19), and access to cores, contexts and partitions. -/

namespace Sys2Proof.Machine

/-! ## Sets and association lists -/

/-- Membership. -/
def NatSet.has : NatSet → Nat → Bool
  | [], _ => false
  | y :: ys, x => if y = x then true else if x < y then false else NatSet.has ys x

/-- Adds a number, keeping the order. -/
def NatSet.ins : NatSet → Nat → NatSet
  | [], x => [x]
  | y :: ys, x => if x < y then x :: y :: ys else if x = y then y :: ys else y :: NatSet.ins ys x

/-- Removes a number. -/
def NatSet.del : NatSet → Nat → NatSet
  | [], _ => []
  | y :: ys, x => if y = x then ys else if x < y then y :: ys else y :: NatSet.del ys x

/-- Adds or removes a number. -/
def NatSet.put (s : NatSet) (x : Nat) (b : Bool) : NatSet := if b then s.ins x else s.del x

/-- The value under a number, or a default. -/
def lookupD {α : Type} (d : α) : List (Nat × α) → Nat → α
  | [], _ => d
  | (k, v) :: l, x => if k = x then v else lookupD d l x

/-- Sets the value under a number, keeping numbers rising. -/
def assocPut {α : Type} : List (Nat × α) → Nat → α → List (Nat × α)
  | [], x, v => [(x, v)]
  | (k, u) :: l, x, v =>
    if x < k then (x, v) :: (k, u) :: l else if x = k then (x, v) :: l else (k, u) :: assocPut l x v

/-- Removes the first element that satisfies `p`. -/
def eraseFirst {α : Type} (p : α → Bool) : List α → List α
  | [] => []
  | x :: l => if p x then l else x :: eraseFirst p l

/-- Changes the first element that satisfies `p`. -/
def updFirst {α : Type} (p : α → Bool) (f : α → α) : List α → List α
  | [] => []
  | x :: l => if p x then f x :: l else x :: updFirst p f l

/-- Changes every element that satisfies `p`. -/
def updAll {α : Type} (p : α → Bool) (f : α → α) (l : List α) : List α :=
  l.map (fun x => if p x then f x else x)

/-- Changes the element in place `n`. -/
def modifyAt {α : Type} (f : α → α) : List α → Nat → List α
  | [], _ => []
  | x :: l, 0 => f x :: l
  | x :: l, n + 1 => x :: modifyAt f l n

/-- Removes the element in place `n`. -/
def removeAt {α : Type} : List α → Nat → List α
  | [], _ => []
  | _ :: l, 0 => l
  | x :: l, n + 1 => x :: removeAt l n

/-- The largest of a list of numbers, 0 for none. -/
def maxNat (l : List Nat) : Nat := l.foldl max 0

/-! ## Memory bytes -/

/-- The byte at an address; an unlisted address reads 0. -/
def Memory.get : Memory → Nat → Byte
  | [], _ => 0
  | c :: m, a => if c.1 = a then c.2 else if a < c.1 then 0 else Memory.get m a

/-- Writes one byte, keeping the canonical form. -/
def Memory.set : Memory → Nat → Byte → Memory
  | [], a, b => if b = 0 then [] else [(a, b)]
  | c :: m, a, b =>
    if a < c.1 then (if b = 0 then c :: m else (a, b) :: c :: m)
    else if a = c.1 then (if b = 0 then m else (a, b) :: m)
    else c :: Memory.set m a b

/-- The `n` bytes from an address. -/
def Memory.bytes (m : Memory) (a n : Nat) : List Byte := (List.range n).map (fun j => m.get (a + j))

/-- Writes bytes from an address on. -/
def Memory.setBytes (m : Memory) (a : Nat) : List Byte → Memory
  | [] => m
  | b :: bs => (m.set a b).setBytes (a + 1) bs

/-- Bytes as a number, least significant first (R3). -/
def leNat : List Byte → Nat
  | [] => 0
  | b :: bs => b.toNat + 256 * leNat bs

/-- A number as `n` bytes, least significant first (R3). -/
def natLE : Nat → Nat → List Byte
  | 0, _ => []
  | n + 1, v => BitVec.ofNat 8 v :: natLE n (v / 256)

/-- The dword at an address. -/
def Memory.dword (m : Memory) (a : Nat) : Word := .ofNat 64 (leNat (m.bytes a 8))

/-- Splits a list into pieces of `k` elements, at most `fuel` of them. -/
def chunks {α : Type} (k : Nat) : Nat → List α → List (List α)
  | 0, _ => []
  | fuel + 1, l => if l.isEmpty then [] else l.take k :: chunks k fuel (l.drop k)

/-- Poison of a unit after a write of part or all of it (R134): a write of the whole unit sets it
from the data, a partial write can only add poison. -/
def poisonWrite (old whole data : Bool) : Bool := if whole then data else old || data

/-- The units of `u` bytes that the bytes `a … a + n - 1` touch. -/
def unitsOf (u a n : Nat) : List Nat :=
  if n = 0 then [] else (List.range ((a + n - 1) / u - a / u + 1)).map (a / u + ·)

/-- Updates per-unit poison for a write of bytes at `a` with poison per byte (R134). -/
def writePoison (u : Nat) (s : NatSet) (a : Nat) (pois : List Bool) : NatSet :=
  (unitsOf u a pois.length).foldl (fun s k =>
    let lo := max a (k * u)
    let hi := min (a + pois.length) ((k + 1) * u)
    let data := ((pois.drop (lo - a)).take (hi - lo)).any id
    s.put k (poisonWrite (s.has k) (decide (hi - lo = u)) data)) s

/-- Whether any unit that a read of `n` bytes at `a` overlaps is poisoned (R134). -/
def readPoison (u : Nat) (s : NatSet) (a n : Nat) : Bool := (unitsOf u a n).any s.has

/-- Bytes written at `key` over a run of bytes that starts at `start`. -/
def overBytes (start : Nat) (old : List Byte) (key : Nat) (new : List Byte) : List Byte :=
  old.zipIdx.map (fun (b, j) =>
    if key ≤ start + j && decide (start + j < key + new.length) then new.getD (start + j - key) 0 else b)

/-- The same for poison per unit of `u` bytes (R134). -/
def overPois (u start : Nat) (old : List Bool) (key : Nat) (new : List Bool) : List Bool :=
  old.zipIdx.map (fun (p, i) =>
    let mine := (List.range u).filter (fun j =>
      decide (key ≤ start + u * i + j ∧ start + u * i + j < key + new.length))
    if mine.isEmpty then p
    else poisonWrite p (mine.length == u) (mine.any (fun j => new.getD (start + u * i + j - key) false)))

/-! ## Words -/

/-- The low `n` bits, zero-extended (Table 3.6). -/
def zext (x : Word) (n : Nat) : Word := .ofNat 64 (x.toNat % 2 ^ n)

/-- The low `n` bits, sign-extended (Table 3.6); `n` at least 1. -/
def sext (x : Word) (n : Nat) : Word :=
  let v := x.toNat % 2 ^ n
  if v < 2 ^ (n - 1) then .ofNat 64 v else .ofNat 64 (v + (2 ^ 64 - 2 ^ n))

/-- Bits `[hi:lo]` of a dword as a number. -/
def bitsAt (x : Word) (hi lo : Nat) : Nat := x.toNat / 2 ^ lo % 2 ^ (hi - lo + 1)

/-- Rotation left within 64 bits (Table 3.6). -/
def rotl64 (x : Word) (n : Nat) : Word := x.rotateLeft (n % 64)

/-- One digest step (R70). -/
def fold64 (d a x : Word) : Word := rotl64 (d ^^^ x) 29 * 0x9E3779B97F4A7C15 + a

/-- A 48-bit address. -/
def addr48 (x : Word) : Nat := x.toNat % 2 ^ 48

/-! ## The device: numbering and geometry (R9 to R19) -/

/-- The cluster a core belongs to: bits [13:7] of its id (R16). -/
def clusterOf (core : Nat) : Nat := core / 128

/-- Cluster coordinates. -/
def clX (cl : Nat) : Nat := cl % 16
def clY (cl : Nat) : Nat := cl / 16

/-- Core coordinates within the cluster. -/
def coX (core : Nat) : Nat := core % 16
def coY (core : Nat) : Nat := core % 128 / 16

/-- A core's id from global column and row (R284): GX0 = X*16 + cx, GY0 = Y*8 + cy. -/
def coreAt (gx gy : Nat) : Nat := ((gy / 8) * 16 + gx / 16) * 128 + (gy % 8) * 16 + gx % 16

/-- A core's global column and row. -/
def coreGX (core : Nat) : Nat := clX (clusterOf core) * 16 + coX core
def coreGY (core : Nat) : Nat := clY (clusterOf core) * 8 + coY core

/-- The die of a cluster (R9). -/
def dieOf (cl : Nat) : Nat := (clY cl / 4) * 2 + clX cl / 8

/-- The granule of a cluster (Table 1.3). -/
def granuleOf (cl : Nat) : Nat := (clY cl / 4) * 8 + clX cl / 2

/-- The core across a neighbour channel; none outside the package (R15). -/
def neighbour (core : Nat) (d : Dir) : Option Nat :=
  let x := coreGX core
  let y := coreGY core
  match d with
  | .n => if y = 0 then none else some (coreAt x (y - 1))
  | .e => if x = 255 then none else some (coreAt (x + 1) y)
  | .s => if y = 63 then none else some (coreAt x (y + 1))
  | .w => if x = 0 then none else some (coreAt (x - 1) y)

/-- The opposite direction. -/
def oppDir : Dir → Dir
  | .n => .s
  | .e => .w
  | .s => .n
  | .w => .e

/-- Whether a granule lies in a partition's rectangle (R19): granule g stands at column g mod 8 and
row g div 8. -/
def Partition.owns (p : Partition) (g : Nat) : Bool :=
  decide (p.first % 8 ≤ g % 8 ∧ g % 8 < p.first % 8 + p.across ∧
    p.first / 8 ≤ g / 8 ∧ g / 8 < p.first / 8 + p.rows)

/-- The partition whose rectangle holds a cluster. -/
def State.partOfCluster (s : State) (cl : Nat) : Option Nat :=
  s.partitions.findIdx? (fun p => p.owns (granuleOf cl))

/-- The partition of a core. -/
def State.partOf (s : State) (core : Nat) : Option Nat := s.partOfCluster (clusterOf core)

/-- Whether a cluster is present (R23). -/
def State.clusterPresent (s : State) (cl : Nat) : Bool := decide (cl < 128) && !s.absentClusters.has cl

/-- Whether a core is present (R24). -/
def State.corePresent (s : State) (core : Nat) : Bool :=
  decide (core < 16384) && s.clusterPresent (clusterOf core) && !s.absentCores.has core

/-- The partition `p`. -/
def State.part (s : State) (p : Nat) : Partition := s.partitions.getD p .reset

/-- Changes partition `p`. -/
def State.modPart (s : State) (p : Nat) (f : Partition → Partition) : State :=
  { s with partitions := modifyAt f s.partitions p }

/-- The present clusters of a partition in ascending number (R18). -/
def State.clustersOf (s : State) (p : Nat) : List Nat :=
  (List.range 128).filter (fun cl => s.clusterPresent cl && (s.part p).owns (granuleOf cl))

/-- The present cores of a partition in ascending id (R18). -/
def State.coresOf (s : State) (p : Nat) : List Nat :=
  (s.clustersOf p).flatMap (fun cl =>
    ((List.range 128).map (cl * 128 + ·)).filter (fun c => !s.absentCores.has c))

/-- The number of present slices of a partition (R126). -/
def State.slices (s : State) (p : Nat) : Nat := 4 * (s.clustersOf p).length

/-- The enabled channels of a partition, ascending (R129). -/
def State.channelsOf (s : State) (p : Nat) : List Nat :=
  (List.range 64).filter (fun c => (s.part p).owns (c / 4) && !s.absentChannels.has c)

/-- Bytes of a partition's main memory (R129). -/
def State.mainBytes (s : State) (p : Nat) : Nat := 4 * 2 ^ 30 * (s.channelsOf p).length

/-- The home slice of a line (R126). -/
def homeSlice (slices pa : Nat) : Nat :=
  let l := pa / 128
  let fold := (l % 512) ^^^ (l / 2 ^ 9 % 512) ^^^ (l / 2 ^ 18 % 512) ^^^ (l / 2 ^ 27 % 512) ^^^ (l / 2 ^ 36 % 32)
  if slices = 0 then 0 else fold % slices

/-- The physical key of an address in a partition. -/
def physKey (p pa : Nat) : Nat := p * 2 ^ 48 + pa

/-- The address within its partition of a physical key. -/
def keyPA (key : Nat) : Nat := key % 2 ^ 48

/-- The partition of a physical key. -/
def keyPart (key : Nat) : Nat := key / 2 ^ 48

/-! ## Cores, focus and contexts -/

/-- The core with an id. -/
def State.coreOf (s : State) (id : Nat) : Core :=
  if s.core.id = id then s.core
  else match s.others.find? (fun c => c.id == id) with
    | some c => c
    | none => .reset id

/-- Puts a core among the others, by rising id. -/
def insertCore : List Core → Core → List Core
  | [], c => [c]
  | x :: l, c =>
    if c.id < x.id then c :: x :: l else if c.id = x.id then c :: l else x :: insertCore l c

/-- Stores a core under its id. -/
def State.putCore (s : State) (c : Core) : State :=
  if s.core.id = c.id then { s with core := c } else { s with others := insertCore s.others c }

/-- Changes the core with an id. -/
def State.modCore (s : State) (id : Nat) (f : Core → Core) : State := s.putCore (f (s.coreOf id))

/-- Brings a core into focus. -/
def State.refocus (s : State) (id : Nat) : State :=
  if s.core.id = id then s
  else
    let c := s.coreOf id
    { s with
      core := c
      others := insertCore (s.others.filter (fun x => x.id != id)) s.core }

/-- Runs a change with another core in focus, then brings the present one back. -/
def State.onCore (s : State) (id : Nat) (f : State → State) : State :=
  (f (s.refocus id)).refocus s.core.id

/-- The ids of the cores that hold something: the one in focus and the others. -/
def State.liveCores (s : State) : List Nat := s.core.id :: s.others.map (·.id)

/-- The context with an id. -/
def State.ctx? (s : State) (id : Nat) : Option Context := s.contexts.find? (fun c => c.id == id)

/-- Changes a context. -/
def State.modCtx (s : State) (id : Nat) (f : Context → Context) : State :=
  { s with contexts := updFirst (fun c => c.id == id) f s.contexts }

/-- The ACTIVE context of a partition (R334). -/
def State.activeCtx (s : State) (p : Nat) : Option Context :=
  s.contexts.find? (fun c => c.part == p && c.st == .active)

/-- The context the core in focus works in: its kernel's. -/
def State.myCtx (s : State) : Nat := ((s.core.kern <|> s.core.checkKern).map (·.ctx)).getD 0

/-- The partition of the core in focus. -/
def State.myPart (s : State) : Nat := (s.partOf s.core.id).getD 0

/-- The phase domain of a core: its cohort when the kernel has more than one group a cohort, its
group otherwise; none without a kernel (R148). -/
def Core.dom (c : Core) : Option Dom :=
  c.kern.map (fun k =>
    { ctx := k.ctx
      bar :=
        if k.groups > 1 then { kid := k.kid.toNat, cohort := k.cohort, handle := 1, group := 0 }
        else { kid := k.kid.toNat, cohort := k.cohort, handle := 0, group := k.group } })

/-- Whether the core across a channel is there for it (R15): in the package, present, in the same
partition and not in quarantine. -/
def State.connected (s : State) (core : Nat) (d : Dir) : Bool :=
  match neighbour core d with
  | none => false
  | some n =>
    s.corePresent n && decide (s.partOf n = s.partOf core) && (s.partOf core).isSome &&
      !(s.coreOf n).quarantined

/-- The mode of a bank (R121). -/
def Core.bankMode (c : Core) (b : Nat) : Nat := c.bankModes.toNat / 4 ^ b % 4

/-- Whether the local bytes `la … la + n - 1` all lie in scratch banks below the end of local
memory. -/
def Core.scratch (c : Core) (la n : Nat) : Bool :=
  decide (la + n ≤ 0x20000) &&
    (List.range ((la + n - 1) / 0x2000 - la / 0x2000 + 1)).all (fun k => c.bankMode (la / 0x2000 + k) == 0)

/-- A free value: the next one, and the counter moved on (log entry 8). -/
def State.takeFree (s : State) : Word × State := (Config.freeWord s.free, { s with free := s.free + 1 })

/-- A fresh identity number. -/
def State.takeUid (s : State) : Nat × State := (s.uid, { s with uid := s.uid + 1 })

end Sys2Proof.Machine
end

