-- ==== Sys2Proof/Machine/Num.lean ====
section
/-! DEFINITION. Number formats and exact arithmetic (R52 to R70): values, one rounding, the lane
arithmetic on FP32 and FP16, the conversions, and the press's windowed sum. -/

namespace Sys2Proof.Machine

/-! ## Formats and values (R52, R53) -/

/-- A floating format: widths of exponent and fraction, bias, and whether it is E4M3, which has no
infinity and whose only NaNs are 0x7F and 0xFF. -/
structure Fmt where
  eb : Nat
  fb : Nat
  bias : Nat
  e4m3 : Bool
  deriving DecidableEq, Repr

def f32 : Fmt := { eb := 8, fb := 23, bias := 127, e4m3 := false }
def f16 : Fmt := { eb := 5, fb := 10, bias := 15, e4m3 := false }
def bf16 : Fmt := { eb := 8, fb := 7, bias := 127, e4m3 := false }
def e5m2 : Fmt := { eb := 5, fb := 2, bias := 15, e4m3 := false }
def e4m3 : Fmt := { eb := 4, fb := 3, bias := 7, e4m3 := true }

/-- A value: a NaN, an infinity, or ± m · 2^e with m = 0 for a zero that keeps its sign. -/
inductive FV where
  | nan
  | inf (neg : Bool)
  | num (neg : Bool) (m : Nat) (e : Int)
  deriving DecidableEq, Repr

/-- The sign bit of a pattern. -/
def Fmt.neg (f : Fmt) (x : Nat) : Bool := x / 2 ^ (f.eb + f.fb) % 2 == 1

/-- The exponent field of a pattern. -/
def Fmt.expo (f : Fmt) (x : Nat) : Nat := x / 2 ^ f.fb % 2 ^ f.eb

/-- The fraction field of a pattern. -/
def Fmt.frac (f : Fmt) (x : Nat) : Nat := x % 2 ^ f.fb

/-- The value of a pattern (R52). -/
def Fmt.value (f : Fmt) (x : Nat) : FV :=
  let e := f.expo x
  let m := f.frac x
  let n := f.neg x
  if f.e4m3 && e == 2 ^ f.eb - 1 && m == 2 ^ f.fb - 1 then .nan
  else if !f.e4m3 && e == 2 ^ f.eb - 1 then (if m = 0 then .inf n else .nan)
  else if e = 0 then .num n m (1 - (f.bias : Int) - f.fb)
  else .num n (m + 2 ^ f.fb) ((e : Int) - f.bias - f.fb)

/-- Whether a pattern is a NaN. -/
def Fmt.isNaN (f : Fmt) (x : Nat) : Bool := f.value x == .nan

/-- The default NaN (R53). -/
def Fmt.defaultNaN (f : Fmt) : Nat :=
  if f.e4m3 then 0x7F else (2 ^ f.eb - 1) * 2 ^ f.fb + 2 ^ (f.fb - 1)

/-- A NaN with its quiet bit set (R53). -/
def Fmt.quiet (f : Fmt) (x : Nat) : Nat := if f.e4m3 then x else x ||| 2 ^ (f.fb - 1)

/-- The sign bit in place. -/
def Fmt.sgn (f : Fmt) (n : Bool) : Nat := if n then 2 ^ (f.eb + f.fb) else 0

/-- A signed zero. -/
def Fmt.zero (f : Fmt) (n : Bool) : Nat := f.sgn n

/-- A signed infinity. -/
def Fmt.inf (f : Fmt) (n : Bool) : Nat := f.sgn n + (2 ^ f.eb - 1) * 2 ^ f.fb

/-- The largest finite value with a sign. -/
def Fmt.big (f : Fmt) (n : Bool) : Nat :=
  f.sgn n + (if f.e4m3 then 0x7E else (2 ^ f.eb - 2) * 2 ^ f.fb + (2 ^ f.fb - 1))

/-! ## Rounding (R61, R62, R68) -/

/-- Rounding modes by the number RMODE holds: 0 RNE, 1 RZ, 2 RU, 3 RD. -/
abbrev RMode := Nat

/-- Whether a magnitude of `n` units, `r` of `d` parts of a unit over (`d` at least 1), and `s` a
sticky bit below, rounds up to `n + 1`. -/
def roundsUp (mode : RMode) (neg : Bool) (n r d : Nat) (s : Bool) : Bool :=
  match mode with
  | 0 => decide (2 * r > d) || (decide (2 * r = d) && (s || n % 2 == 1))
  | 1 => false
  | 2 => !neg && (decide (r > 0) || s)
  | _ => neg && (decide (r > 0) || s)

/-- The result of an overflow (Table 3.4). -/
def Fmt.overflow (f : Fmt) (mode : RMode) (neg : Bool) : Nat :=
  if f.e4m3 then f.big neg
  else match mode with
    | 0 => f.inf neg
    | 1 => f.big neg
    | 2 => if neg then f.big neg else f.inf neg
    | _ => if neg then f.inf neg else f.big neg

/-- RoundF: rounds ± m · 2^e, with `s` an infinitesimal further from zero, into a format. -/
def Fmt.round (f : Fmt) (mode : RMode) (neg : Bool) (m : Nat) (e : Int) (s : Bool) : Nat :=
  if m = 0 then f.zero neg
  else
    let q : Int := max (e + (Nat.log2 m : Int) - f.fb) (1 - (f.bias : Int) - f.fb)
    let n0 := if q ≤ e then m * 2 ^ (e - q).toNat else m / 2 ^ (q - e).toNat
    let d := if q ≤ e then 1 else 2 ^ (q - e).toNat
    let r := if q ≤ e then 0 else m % d
    let n := if roundsUp mode neg n0 r d s then n0 + 1 else n0
    if n < 2 ^ f.fb then f.sgn neg + n
    else
      let (n, q) := if n ≥ 2 ^ (f.fb + 1) then (n / 2, q + 1) else (n, q)
      let ex := (q + f.fb + f.bias).toNat
      let fr := n - 2 ^ f.fb
      let top := if f.e4m3 then decide (ex > 15) || (decide (ex = 15) && decide (fr = 7))
        else decide (ex ≥ 2 ^ f.eb - 1)
      if top then f.overflow mode neg else f.sgn neg + ex * 2 ^ f.fb + fr

/-! ## Exact sums and products -/

/-- A signed integer times a power of two. -/
structure Dy where
  z : Int
  e : Int
  deriving DecidableEq, Repr

/-- The signed integer of a sign and a magnitude. -/
def signed (neg : Bool) (m : Nat) : Int := if neg then -(m : Int) else m

/-- The exact sum of two dyadics. -/
def Dy.add (x y : Dy) : Dy :=
  let e := min x.e y.e
  { z := x.z * 2 ^ (x.e - e).toNat + y.z * 2 ^ (y.e - e).toNat, e := e }

/-- Whether one dyadic is below another. -/
def Dy.lt (x y : Dy) : Bool :=
  let e := min x.e y.e
  decide (x.z * 2 ^ (x.e - e).toNat < y.z * 2 ^ (y.e - e).toNat)

/-- The sign of an exact zero sum of terms that are not both zeros of one sign (R55). -/
def zeroSign (mode : RMode) (n1 n2 : Bool) : Bool := if n1 == n2 then n1 else mode == 3

/-- Rounds a dyadic; `zn` is the sign to give an exact zero. -/
def Fmt.roundDy (f : Fmt) (mode : RMode) (x : Dy) (zn : Bool) (s : Bool) : Nat :=
  if x.z = 0 then f.zero zn else f.round mode (decide (x.z < 0)) x.z.natAbs x.e s

/-- The first NaN among operands, quieted (R54). -/
def Fmt.firstNaN (f : Fmt) (xs : List Nat) : Option Nat := (xs.find? f.isNaN).map f.quiet

/-- The sum of two values that are not NaNs. -/
def Fmt.sum (f : Fmt) (mode : RMode) (x y : FV) : Nat :=
  match x, y with
  | .inf n1, .inf n2 => if n1 == n2 then f.inf n1 else f.defaultNaN
  | .inf n, _ => f.inf n
  | _, .inf n => f.inf n
  | .num n1 m1 e1, .num n2 m2 e2 =>
    f.roundDy mode (Dy.add { z := signed n1 m1, e := e1 } { z := signed n2 m2, e := e2 })
      (zeroSign mode n1 n2) false
  | _, _ => f.defaultNaN

/-- The exact product of two values (R70): NaN for 0 × ∞ or a NaN. -/
def prodFV (x y : FV) : FV :=
  match x, y with
  | .inf n1, .inf n2 => .inf (n1 != n2)
  | .inf n1, .num n2 m _ => if m = 0 then .nan else .inf (n1 != n2)
  | .num n1 m _, .inf n2 => if m = 0 then .nan else .inf (n1 != n2)
  | .num n1 m1 e1, .num n2 m2 e2 => .num (n1 != n2) (m1 * m2) (e1 + e2)
  | _, _ => .nan

/-- A value with its sign changed. -/
def FV.negate : FV → FV
  | .nan => .nan
  | .inf n => .inf (!n)
  | .num n m e => .num (!n) m e

/-- Rounds a value that may be special. -/
def Fmt.roundFV (f : Fmt) (mode : RMode) : FV → Nat
  | .nan => f.defaultNaN
  | .inf n => f.inf n
  | .num n m e => f.round mode n m e false

/-! ## Lane floating-point arithmetic (R54, R55, R63, R187 to R191) -/

def Fmt.add (f : Fmt) (mode : RMode) (a b : Nat) : Nat :=
  (f.firstNaN [a, b]).getD (f.sum mode (f.value a) (f.value b))

def Fmt.sub (f : Fmt) (mode : RMode) (a b : Nat) : Nat :=
  (f.firstNaN [a, b]).getD (f.sum mode (f.value a) (f.value b).negate)

def Fmt.mul (f : Fmt) (mode : RMode) (a b : Nat) : Nat :=
  (f.firstNaN [a, b]).getD (f.roundFV mode (prodFV (f.value a) (f.value b)))

/-- a × b + d with one rounding. -/
def Fmt.fma (f : Fmt) (mode : RMode) (a b d : Nat) : Nat :=
  (f.firstNaN [a, b, d]).getD
    (match prodFV (f.value a) (f.value b) with
      | .nan => f.defaultNaN
      | p => f.sum mode p (f.value d))

/-- d − a × b with one rounding. -/
def Fmt.fms (f : Fmt) (mode : RMode) (a b d : Nat) : Nat :=
  (f.firstNaN [a, b, d]).getD
    (match prodFV (f.value a) (f.value b) with
      | .nan => f.defaultNaN
      | p => f.sum mode (f.value d) p.negate)

/-- An integer key in the order of values that are not NaNs, −0 below +0. -/
def Fmt.key (f : Fmt) (x : Nat) : Int :=
  let m := x % 2 ^ (f.eb + f.fb)
  if f.neg x then -(m : Int) - 1 else m

/-- Whether two patterns hold equal values; neither is a NaN. -/
def Fmt.eqv (f : Fmt) (a b : Nat) : Bool :=
  f.key a == f.key b || (a % 2 ^ (f.eb + f.fb) == 0 && b % 2 ^ (f.eb + f.fb) == 0)

/-- Whether a value is below another; neither is a NaN. -/
def Fmt.ltv (f : Fmt) (a b : Nat) : Bool := !f.eqv a b && decide (f.key a < f.key b)

/-! ### Base-2 exponential and logarithm

Correct rounding takes the truncated value to far more bits than any rounding boundary can need, and
a sticky bit, since every result but the exact ones of R191 is irrational (log entry 20). -/

/-- Working precision in bits. -/
def prec : Nat := 400

/-- ln 2 in units of 2^-prec, as Σ 1 / (k 2^k), truncated term by term. -/
def ln2Fix : Nat → Nat → Nat
  | 0, _ => 0
  | fuel + 1, k => 2 ^ prec / (k * 2 ^ k) + ln2Fix fuel (k + 1)

/-- Σ y^k / k! from term `t` on, in units of 2^-prec. -/
def expSeries (y : Nat) : Nat → Nat → Nat → Nat
  | 0, _, _ => 0
  | fuel + 1, k, t => t + expSeries y fuel (k + 1) (t * y / 2 ^ prec / (k + 1))

/-- 2^x for a fraction x of `fr` units of 2^-fb below 1: in units of 2^-prec. -/
def exp2Frac (fr fb : Nat) : Nat :=
  let x := if fb ≤ prec then fr * 2 ^ (prec - fb) else fr / 2 ^ (fb - prec)
  expSeries (x * ln2Fix 410 1 / 2 ^ prec) 120 0 (2 ^ prec)

/-- 2^x, correctly rounded, of the number ± m · 2^e. -/
def Fmt.exp2Num (f : Fmt) (mode : RMode) (neg : Bool) (m : Nat) (e : Int) : Nat :=
  if m = 0 then f.round mode false 1 0 false
  else if e + (Nat.log2 m : Int) ≥ 10 then
    (if neg then f.round mode false 1 (-2000) true else f.round mode false 1 2000 false)
  else
    let fb := (-e).toNat
    let z : Int := signed neg m * 2 ^ e.toNat
    let i := z / (2 ^ fb : Int)
    let fr := (z % (2 ^ fb : Int)).toNat
    if fr = 0 then f.round mode false 1 i false
    else f.round mode false (exp2Frac fr fb) (i - prec) true

/-- Fraction bits of log2 of y / 2^prec, for y / 2^prec in [1, 2), by repeated squaring. -/
def log2Bits : Nat → Nat → Nat → Nat
  | 0, _, acc => acc
  | fuel + 1, y, acc =>
    let y2 := y * y / 2 ^ prec
    if y2 ≥ 2 ^ (prec + 1) then log2Bits fuel (y2 / 2) (2 * acc + 1) else log2Bits fuel y2 (2 * acc)

/-- log2, correctly rounded, of m · 2^e with m at least 1. -/
def Fmt.log2Num (f : Fmt) (mode : RMode) (m : Nat) (e : Int) : Nat :=
  let l := Nat.log2 m
  let i : Int := e + l
  if m = 2 ^ l then (if i = 0 then f.zero false else f.round mode (decide (i < 0)) i.natAbs 0 false)
  else
    let n : Int := i * 2 ^ 200 + log2Bits 200 (m * 2 ^ (prec - l)) 0
    if n ≥ 0 then f.round mode false n.toNat (-200) true
    else f.round mode true (n.natAbs - 1) (-200) true

/-! ## Rounding to an integer, saturation -/

/-- RoundInt of ± m · 2^e (R70). -/
def roundInt (mode : RMode) (neg : Bool) (m : Nat) (e : Int) : Int :=
  if 0 ≤ e then signed neg (m * 2 ^ e.toNat)
  else
    let d := 2 ^ (-e).toNat
    let n := m / d
    signed neg (if roundsUp mode neg n (m % d) d false then n + 1 else n)

/-- Sat(x, lo, hi) (Table 3.6). -/
def sat (x lo hi : Int) : Int := if x < lo then lo else if hi < x then hi else x

/-- Saturation to `n` bits signed (R60). -/
def satBits (x : Int) (n : Nat) : Int := sat x (-(2 ^ (n - 1) : Nat)) ((2 ^ (n - 1) : Nat) - 1)

/-- An integer kept in `n` bits. -/
def wrapBits (x : Int) (n : Nat) : Nat := (x % (2 ^ n : Int)).toNat

/-- `n` bits read as a signed integer. -/
def toSigned (x n : Nat) : Int :=
  let v := x % 2 ^ n
  if v < 2 ^ (n - 1) then v else (v : Int) - (2 ^ n : Nat)

/-! ## The press step (R66 to R69) -/

/-- floor(log2 |p|) of a non-zero product. -/
def topExp (m : Nat) (e : Int) : Int := (Nat.log2 m : Int) + e

/-- The largest product exponent, none when every product is zero. -/
def maxExp : List FV → Option Int
  | [] => none
  | .num _ m e :: ps =>
    if m = 0 then maxExp ps
    else match maxExp ps with
      | none => some (topExp m e)
      | some x => some (max x (topExp m e))
  | _ :: ps => maxExp ps

/-- W and the sticky bit over the products, once E is known (Table 3.6). -/
def windowAcc (E : Int) : List FV → Int × Bool
  | [] => (0, false)
  | .num n m e :: ps =>
    let (w, s) := windowAcc E ps
    let sh := e + 63 - E
    if 0 ≤ sh then (w + signed n (m * 2 ^ sh.toNat), s)
    else (w + signed n (m / 2 ^ (-sh).toNat), s || decide (m % 2 ^ (-sh).toNat ≠ 0))
  | _ :: ps => windowAcc E ps

/-- WindowSum (R66): W, E and s. -/
def windowSum (ps : List FV) : Int × Int × Bool :=
  match maxExp ps with
  | none => (0, 0, false)
  | some E => let (w, s) := windowAcc E ps; (w, E, s)

/-- One floating press step for one output element (R67): accumulator `a` in format `acc`, the
products, and the two scales. -/
def pressStepF (acc : Fmt) (a : Nat) (ps : List FV) (sa sb : Nat) : Nat :=
  let v := acc.value a
  let posInf := ps.any (· == .inf false)
  let negInf := ps.any (· == .inf true)
  if v == .nan || sa == 255 || sb == 255 || ps.any (· == .nan) || (posInf && negInf) then acc.defaultNaN
  else
    match v with
    | .inf n =>
      if (n && posInf) || (!n && negInf) then acc.defaultNaN else acc.inf n
    | .num n m e =>
      if posInf then acc.inf false
      else if negInf then acc.inf true
      else
        let (w, E, s) := windowSum ps
        let t := Dy.add { z := signed n m, e := e } { z := w, e := E - 63 + sa + sb - 254 }
        if t.z = 0 then
          let negZero := n && m == 0 && ps.all (fun p => match p with
            | .num pn pm _ => pn && pm == 0
            | _ => false)
          acc.zero (!s && negZero)
        else acc.round 0 (decide (t.z < 0)) t.z.natAbs t.e s
    | .nan => acc.defaultNaN

/-- The wide integer step: the sum added modulo 2^32 (R69). -/
def pressStepI32 (a : Nat) (sum : Int) : Nat := wrapBits (toSigned a 32 + sum) 32

/-- The narrow integer step: saturated to 16 bits, and whether saturation changed it (R69). -/
def pressStepI16 (a : Nat) (sum : Int) : Nat × Bool :=
  let x := toSigned a 16 + sum
  let y := satBits x 16
  (wrapBits y 16, y != x)

/-! ## Atomics on FP32 lanes (R170) -/

/-- AFADD on one lane. -/
def afadd32 (old v : Nat) : Nat := f32.add 0 old v

/-- AFMIN (`lo`) or AFMAX on one lane. -/
def afminmax32 (lo : Bool) (old v : Nat) : Nat :=
  match f32.isNaN old, f32.isNaN v with
  | true, true => f32.quiet old
  | true, false => v
  | false, true => old
  | false, false =>
    if lo then (if f32.key v < f32.key old then v else old)
    else (if f32.key old < f32.key v then v else old)

end Sys2Proof.Machine
end

