-- ==== Sys2Proof/Machine/Record.lean ====
section
/-! DEFINITION. Physical memory as agents other than loads and stores reach it, injected errors
(R350, R430, R442), error records and fault queues (R333, R381), and lookahead slots by identity. -/

namespace Sys2Proof.Machine

/-! ## Physical addresses -/

/-- Second-tier memory (Table 6.4). -/
def isSecondTier (pa : Nat) : Bool := decide (0x100000000000 ≤ pa ∧ pa < 0x110000000000)

/-- The host windows (R367). -/
def isHostPA (pa : Nat) : Bool := decide (0x800000000000 ≤ pa ∧ pa < 0xC00000000000)

/-- The peer windows (R368). -/
def isPeerPA (pa : Nat) : Bool := decide (0xC00000000000 ≤ pa ∧ pa < 0x1000000000000)

/-- The physical key of an address as partition `p` sees it: second-tier memory is the module's own
(key partition 16), main memory the partition's (R129, R130). -/
def keyOf (p pa : Nat) : Nat := if isSecondTier pa then physKey 16 pa else physKey p pa

/-- Whether a key lies in some partition's main memory. -/
def isMainKey (key : Nat) : Bool := decide (keyPart key < 16) && decide (keyPA key < 0x100000000000)

/-- The key of an address in the memory of physical function 0, where the management fault queue
lies (R333, R376; log entry 10). -/
def pfKey (a : Nat) : Nat := physKey 17 a

/-! ## Bytes of memory -/

/-- Writes bytes with their poison at a key: the committed copy (R134). -/
def State.putBytes (s : State) (key : Nat) (bytes : List Byte) (pois : List Bool) : State :=
  { s with
    mem := s.mem.setBytes key bytes
    memPoison := writePoison 16 s.memPoison key pois }

/-- A dword as eight bytes. -/
def dwordBytes (w : Word) : List Byte := natLE 8 w.toNat

/-! ## Slots by identity -/

/-- A change of a trapped activation's thread. -/
def TrapFrame.mapThread (f : Thread → Thread) (fr : TrapFrame) : TrapFrame := { fr with th := f fr.th }

/-- The trap frames of a core: of a handler that runs, and of those whose claims are parked or granted. -/
def Core.frames (c : Core) : List TrapFrame := c.frame.toList ++ c.parked.filterMap (·.frame) ++ c.hq.filterMap (·.frame)

/-- The threads of a core that hold slots: the running, the suspended and the trapped. -/
def Core.threads (c : Core) : List Thread := c.cur :: c.susp.toList ++ c.frames.map (·.th)

/-- Changes every thread of a core that holds slots. -/
def Core.mapThreads (c : Core) (f : Thread → Thread) : Core :=
  { c with
    cur := f c.cur
    susp := c.susp.map f
    frame := c.frame.map (TrapFrame.mapThread f)
    parked := c.parked.map (fun p => { p with frame := p.frame.map (TrapFrame.mapThread f) })
    hq := c.hq.map (fun e => { e with frame := e.frame.map (TrapFrame.mapThread f) }) }

/-- Gives a slot the value its home returned. -/
def Slot.serve (sl : Slot) (uid : Nat) (v : Payload) : Slot :=
  if sl.uid = uid then { sl with value := some v } else sl

/-- Gives the slot `uid` of a core the value its home returned. -/
def Core.serve (c : Core) (uid : Nat) (v : Payload) : Core :=
  c.mapThreads (fun t => { t with slots := t.slots.map (fun sl => sl.serve uid v) })

/-- The same on the core with an id. -/
def State.serve (s : State) (core uid : Nat) (v : Payload) : State :=
  s.modCore core (fun c => c.serve uid v)

/-- The partition number of the slice that is the home of a key; none outside main memory (R126, R398). -/
def State.sliceOfKey (s : State) (key : Nat) : Option Nat :=
  if isMainKey key then some (homeSlice (s.slices (keyPart key)) (keyPA key)) else none

/-- The slice that is the home of a target. -/
def State.sliceOf (s : State) : Target → Option Nat
  | .loc _ _ => none
  | .phys key => s.sliceOfKey key

/-- A response whose home has served it, on its way to slot `uid` of a core (R45); `slice`: the slice that sends it
(R398). -/
def Req.back (core act uid : Nat) (slice : Option Nat) : Req :=
  { uid := uid, core := core, act := act, kind := .load (.loc core 0) 8 false false false, served := true, slice := slice }

/-- A result is on its way back to slot `uid` of a core (R45). -/
def State.answer (s : State) (core act uid : Nat) (slice : Option Nat) (v : Payload) : State :=
  let s := s.serve core uid v
  { s with reqs := s.reqs ++ [Req.back core act uid slice] }

/-! ## Error records -/

/-- An error record before it is written (Table 19.2). -/
structure Rec where
  cls : Nat
  sev : Nat
  unit : Nat
  elem : Nat
  part : Nat
  pa : Nat
  synd : Word
  ctx : Nat
  entry : Nat
  tag : Nat
  kid : Nat
  aux0 : Word
  aux1 : Word
  deriving DecidableEq, Repr

/-- A record with nothing in it but its class, severity, unit and element. -/
def Rec.base (cls sev unit elem part ctx : Nat) : Rec :=
  { cls := cls, sev := sev, unit := unit, elem := elem, part := part, pa := 0, synd := 0, ctx := ctx,
    entry := 0, tag := 0, kid := 0, aux0 := 0, aux1 := 0 }

/-- The eight dwords of a record (Table 19.2). -/
def Rec.dwords (r : Rec) (ts : Word) (ovf : Nat) : List Word :=
  [.ofNat 64 (2 ^ 63 + r.cls % 256 * 2 ^ 48 + r.sev % 16 * 2 ^ 40 + r.unit % 256 * 2 ^ 32 +
      r.elem % 2 ^ 14 * 2 ^ 18 + min ovf 0xFFFF),
    .ofNat 64 (r.part % 16 * 2 ^ 48 + r.pa % 2 ^ 48),
    r.synd,
    .ofNat 64 (r.ctx % 2 ^ 16 * 2 ^ 48 + r.entry % 2 ^ 48),
    .ofNat 64 (r.tag % 2 ^ 16 * 2 ^ 48 + r.kid % 2 ^ 32),
    ts, r.aux0, r.aux1]

/-- Whether the record in a slot was never consumed: its VALID bit is still 1 (R333). -/
def State.unread (s : State) (key : Nat) : Bool := (s.mem.dword key).msb

/-- Writes a record to the management fault queue (R333, R382), which no slice
caches. -/
def State.recordMgmt (s : State) (r : Rec) : State :=
  let key := pfKey (s.mfqBase.toNat % 2 ^ 48 + 64 * (s.mfqTail % 2 ^ (s.mfqLog.toNat % 32)))
  let lost := s.mfqLost + (if s.unread key then 1 else 0)
  let bytes := (r.dwords s.ts lost).flatMap dwordBytes
  let s := s.putBytes key bytes (List.replicate bytes.length false)
  { s with mfqTail := s.mfqTail + 1, mfqLost := 0, mfqPending := s.mfqPending ++ [s.mfqTail + 1] }

/-- One corrected error in a resource of partition `p` (R380). -/
def State.countCorrected (s : State) (p : Nat) : State :=
  let s := s.modPart p (fun q => { q with hypCorrected := q.hypCorrected + 1 })
  match s.activeCtx p with
  | none => s
  | some c => s.modCtx c.id (fun c => { c with corrected := c.corrected + 1 })

/-- Whether the package has power: after a thermal trip it has none until the next reset, and answers nothing (R415). -/
def State.powered (s : State) : Bool := s.boot != .tripped

/-- An error in a shared or an unallotted resource counts with the hypervisor alone (R380, R396). -/
def State.countShared (s : State) : State := { s with hypShared := s.hypShared + 1 }

/-- An error of a port counts with its owner, or with the hypervisor when it has none (R372, R396; log entry 77). -/
def State.countPort (s : State) (owner : Option Nat) : State :=
  match owner with
  | none => s.countShared
  | some p => s.countCorrected p

/-! ## Injected errors -/

/-- Whether an armed error sits in a unit that begins at a target. -/
def Armed.at (a : Armed) (unit : Nat) (t : Target) : Bool := a.unit == unit && decide (a.tgt = t)

/-- The armed error of a unit, and the state without it. -/
def State.disarm (s : State) (unit : Nat) (t : Target) : Option Nat × State :=
  match s.armed.find? (fun a => a.at unit t) with
  | none => (none, s)
  | some a => (some a.kind, { s with armed := eraseFirst (fun a => a.at unit t) s.armed })

/-- The global number of the slice that is the home of an address in partition `p` (R17, R126). -/
def State.sliceNumber (s : State) (p pa : Nat) : Nat :=
  let h := homeSlice (s.slices p) pa
  4 * (s.clustersOf p).getD (h / 4) 0 + h % 4

/-- The global number of the channel that holds an address of main memory (R129). -/
def State.channelNumber (s : State) (p pa : Nat) : Nat :=
  let cs := s.channelsOf p
  if cs.length = 0 then 0 else cs.getD (pa / 1024 % cs.length) 0

/-- Marks granule number `u` poisoned, its bits a free value (R430). -/
def State.damage (s : State) (u : Nat) : State :=
  let (a, s) := s.takeFree
  let (b, s) := s.takeFree
  { s with
    mem := s.mem.setBytes (16 * u) (dwordBytes a ++ dwordBytes b)
    memPoison := s.memPoison.ins u }

/-! ## The lines of slices (R126, R127, R132, R133) -/

/-- The partition, slice and set of a line (R126); the set is a free value. -/
def State.setOf (s : State) (line : Nat) : Nat × Nat × Nat :=
  let key := line * 128
  (keyPart key, homeSlice (s.slices (keyPart key)) (keyPA key), Config.sliceSet line % 256)

/-- A line as its slice holds it. -/
def State.lineOf (s : State) (line : Nat) : Option CacheLine := s.lines.find? (fun x => x.line == line)

/-- Whether a slice holds a granule's line, and in a data way. -/
def State.inSlice (s : State) (u : Nat) : Bool := (s.lineOf (u / 8)).isSome
def State.inWay (s : State) (u : Nat) : Bool := ((s.lineOf (u / 8)).map (fun x => !x.zero)).getD false

/-- One granule of a line that leaves its slice, found damaged so far or not. An error armed in it goes with the
line; in a dirty line it is met at the writeback. -/
def State.leaveGranule (x : CacheLine) (p : Nat) (acc : Bool × State) (u : Nat) : Bool × State :=
  let (bad, s) := acc
  match s.disarm 1 (.phys (16 * u)) with
  | (none, s) => (bad, s)
  | (some 0, s) => (bad, if x.dirty then s.countCorrected p else s)
  | (some 1, s) => if x.dirty then (true, s.damage u) else (bad, s)
  | (some _, s) => (bad, if x.dirty then { s with memPoison := s.memPoison.ins u } else s)

/-- A line leaves its slice. One that was dirty has been written back, over a poison codeword that memory held under it
(R387), with every damaged granule poisoned and one record to the management fault queue (R126, R386). -/
def State.evict (s : State) (x : CacheLine) : State :=
  let p := keyPart (128 * x.line)
  let pa := keyPA (128 * x.line)
  let under (a : Armed) : Bool := x.dirty && a.kind == 3 && (match a.tgt with
    | .phys key => key / 128 == x.line
    | .loc _ _ => false)
  let s := { s with lines := s.lines.filter (fun y => y.line != x.line), armed := s.armed.filter (fun a => !under a) }
  let found := x.dirty && !x.damaged.isEmpty
  let (bad, s) := if s.armed.isEmpty then (found, s)
    else ((List.range 8).map (8 * x.line + ·)).foldl (State.leaveGranule x p) (found, s)
  if !bad then s
  else
    let (synd, s) := s.takeFree
    s.recordMgmt { Rec.base 0x0A 1 4 (s.sliceNumber p pa) p 0xFFFF with pa := pa, synd := synd }

/-- What a set holds: the lines of its slice in it, and how many ripening copies. -/
def State.inSet (s : State) (line : Nat) : List CacheLine × Nat :=
  (s.lines.filter (fun x => decide (s.setOf x.line = s.setOf line)),
    (s.ripening.filter (fun r => decide (s.setOf r.line = s.setOf line))).length)

/-- Room in the set of a line for one more of its 24 tags, of its 16 data ways, or both: when there is none, the
unkept line used longest ago leaves, a kept one only when all are kept (R126, R133). -/
def State.makeRoom (s : State) (line : Nat) (tag way : Bool) : State :=
  if s.lines.length + s.ripening.length < 16 then s
  else
    let (set, ripe) := s.inSet line
    let ways := set.filter (fun x => !x.zero)
    let noWay := way && decide (16 ≤ ways.length + ripe)
    if noWay || (tag && decide (24 ≤ set.length + ripe)) then
      let pool := if noWay then ways else set
      match pool.find? (fun x => !x.kept) <|> pool.head? with
      | none => s
      | some x => s.evict x
    else s

/-- Whether a set has room for a kept line more: at most 4 hold data ways (R133). -/
def State.keptRoom (s : State) (line : Nat) : Bool :=
  decide ((s.lines.filter (fun x => x.kept && !x.zero && x.line != line)).length < 4) ||
    decide (((s.inSet line).1.filter (fun x => x.kept && !x.zero && x.line != line)).length < 4)

/-- The use of slice lines that a hint asks for (Table 6.5). -/
def hintUse (hint : Nat) : LineUse :=
  if hint = 0 then .normal else if hint = 1 then .stream else if hint = 2 then .bypass else .keep

/-- What an access asks of a line that its slice holds: a ZFILL what its hint says (Table 6.5). -/
def LineUse.onHit : LineUse → LineUse
  | .zfill h => hintUse h.toNat
  | .normal => .normal
  | .stream => .stream
  | .bypass => .bypass
  | .keep => .keep
  | .through => .through

/-- Whether it is a ZFILL of a WB page. -/
def LineUse.isZfill : LineUse → Bool
  | .zfill _ => true
  | .normal | .stream | .bypass | .keep | .through => false

/-- A line as a keep access leaves it: kept, unless it would be the fifth kept one with a data way; a zero line holds
none (R127, R133). -/
def State.keepLine (s : State) (x : CacheLine) : CacheLine :=
  if x.zero || s.keptRoom x.line then { x with kept := true } else x

/-- A line stands in its slice with new flags, after an access: a normal or keep access counts as its latest use,
and a keep access keeps it (Table 6.5). -/
def State.putLine (s : State) (use : LineUse) (x : CacheLine) : State :=
  let use := use.onHit
  let x := if use = .keep then s.keepLine x else x
  if use = .normal || use = .keep then
    { s with lines := s.lines.filter (fun y => y.line != x.line) ++ [x] }
  else { s with lines := updFirst (fun y => y.line == x.line) (fun _ => x) s.lines }

/-- A new line stands in its slice: as the one used last for a normal or keep access, else as the next victim (Table
6.5); so does the zero line of a ZFILL with another hint, which allocates whatever the hint (R140; log entry 102). -/
def State.addLine (s : State) (use : LineUse) (x : CacheLine) : State :=
  let s := s.makeRoom x.line true (!x.zero)
  let use := use.onHit
  if use = .normal then { s with lines := s.lines ++ [x] }
  else if use = .keep then { s with lines := s.lines ++ [s.keepLine x] }
  else { s with lines := x :: s.lines }

/-- A write hits a line, which becomes dirty unless memory takes it as well. `zeros`: it writes zero bytes without poison
only; `covered`: the granules it covers whole. A zero line that takes anything else takes a data way (R127), and is kept
no longer when four data ways of the set hold kept lines (R133); a ZFILL makes it a zero line. -/
def State.hitLine (s : State) (use : LineUse) (x : CacheLine) (zeros : Bool) (covered : List Nat) : State :=
  let s := if x.zero && !zeros then s.makeRoom x.line false true else s
  let zero := (x.zero && zeros) || use.isZfill
  s.putLine use { x with
    dirty := x.dirty || use != .through, zero := zero, kept := x.kept && (zero || s.keptRoom x.line)
    damaged := x.damaged.filter (fun u => !covered.contains u) }

/-- The part of a write that falls into a line: whether all of it is zeros without poison, and the granules it
covers whole. -/
def linePart (key line : Nat) (bytes : List Byte) (pois : List Bool) : Bool × List Nat :=
  let lo := 128 * line - key
  let n := 128 * (line + 1) - max key (128 * line)
  (((bytes.drop lo).take n).all (· == 0) && !((pois.drop lo).take n).any id,
    ((List.range 8).map (8 * line + ·)).filter (fun u => decide (key ≤ 16 * u ∧ 16 * u + 16 ≤ key + bytes.length)))

/-- A write that allocates nothing: the lines it hits take it and become dirty (R132). -/
def State.hitLines (s : State) (key : Nat) (bytes : List Byte) (pois : List Bool) : State :=
  (unitsOf 128 key bytes.length).foldl (fun s l => match s.lineOf l with
    | none => s
    | some x =>
      let (zeros, covered) := linePart key l bytes pois
      s.hitLine .bypass x zeros covered) s

/-- A direct write of clean bytes at the home, by an agent that allocates nothing (R147; log entry 46). -/
def State.directWrite (s : State) (key : Nat) (bytes : List Byte) : State :=
  let pois := List.replicate bytes.length false
  (s.hitLines key bytes pois).putBytes key bytes pois

/-! ## Records of contexts -/

/-- The key of the slot that the next record of a context takes in its fault queue (R333). -/
def State.faultSlot (c : Context) : Nat :=
  physKey c.part ((c.desc.getD 4 0).toNat % 2 ^ 48 + 64 * (c.tail % 2 ^ ((c.desc.getD 5 0).toNat % 32)))

/-- A record takes the next slot of a context's fault queue, whose VALID bit was read as `valid` (R333). TAILCNT follows in a
step of its own. -/
def State.recordInto (s : State) (c : Context) (r : Rec) (valid : Bool) : State :=
  let lost := c.lost + (if valid then 1 else 0)
  (s.directWrite (State.faultSlot c) ((r.dwords s.ts lost).flatMap dwordBytes)).modCtx c.id
    (fun c => { c with tail := c.tail + 1, lost := 0, pendingTail := c.pendingTail ++ [c.tail + 1] })

/-- A record of an error that a read of memory found: it meets nothing further in the slot it takes. -/
def State.recordFound (s : State) (id : Nat) (r : Rec) : State :=
  match s.ctx? id with
  | none => s
  | some c => s.recordInto c r (s.unread (State.faultSlot c))

/-- The context whose data a partition's stores hold: the ACTIVE one, or the one being pre-empted or restored (R334,
R382). -/
def State.dataCtx (s : State) (p : Nat) : Option Context :=
  s.activeCtx p <|> s.contexts.find? (fun c => c.part == p && (c.st == .preempting || c.st == .restoring))

/-- The same in the context whose data a partition's stores hold (R382). -/
def State.recordFoundIn (s : State) (p : Nat) (r : Rec) : State :=
  match s.dataCtx p with
  | none => s.recordMgmt { r with ctx := 0xFFFF }
  | some c => s.recordFound c.id { r with ctx := c.id }

/-- Marks a local dword poisoned. -/
def State.poisonLocal (s : State) (core u : Nat) : State :=
  s.modCore core (fun c => { c with lmPoison := c.lmPoison.ins u })

/-- A read finds what is armed in local dword number `u` of a core (R378, R380, R442). The bits of a
damaged dword are a free value (log entry 8). -/
def State.meetDword (s : State) (core u : Nat) : State :=
  match s.disarm 0 (.loc core (8 * u)) with
  | (none, s) => s
  | (some 0, s) => s.countCorrected ((s.partOf core).getD 0)
  | (some 1, s) =>
    let (bits, s) := s.takeFree
    let (synd, s) := s.takeFree
    let s := s.modCore core (fun c => { c with lm := c.lm.setBytes (8 * u) (dwordBytes bits) })
    let p := (s.partOf core).getD 0
    (s.poisonLocal core u).recordFoundIn p
      { Rec.base 0x0A 1 1 core p 0 with pa := 8 * u, synd := synd }
  | (some _, s) => s.poisonLocal core u

/-- A read of `n` bytes at local address `la` of a core finds what is armed there. -/
def State.meetLocal (s : State) (core la n : Nat) : State :=
  if s.armed.isEmpty then s else (unitsOf 8 la n).foldl (fun s u => s.meetDword core u) s

/-- A word with `w` bits of it from a bit on replaced. -/
def putField {n : Nat} (x : BitVec n) (pos w : Nat) (v : Word) : BitVec n :=
  let m : BitVec n := .ofNat n ((2 ^ w - 1) * 2 ^ pos)
  (x &&& ~~~m) ||| (.ofNat n (v.toNat % 2 ^ w * 2 ^ pos))

/-- A read finds what is armed in a tile unit of a core, by its byte offset within the tile (R378, R442). The bits of a
damaged unit are a free value (log entry 8). -/
def State.meetUnit (s : State) (core off : Nat) : State :=
  let bad (c : Core) (x : Option Word) : Core :=
    let old := c.press.tile.getD (off / 256) { bits := 0, pois := 0 }
    let u := off / 4 % 64
    let bits := match x with
      | none => old.bits
      | some w => putField old.bits (32 * u) 32 w
    let row : Row := { bits := bits, pois := old.pois ||| 1 <<< u }
    { c with press := { c.press with tile := c.press.tile.set (off / 256) row } }
  match s.disarm 3 (.loc core off) with
  | (none, s) => s
  | (some 0, s) => s.countCorrected ((s.partOf core).getD 0)
  | (some 1, s) =>
    let (bits, s) := s.takeFree
    let (synd, s) := s.takeFree
    let p := (s.partOf core).getD 0
    (s.modCore core (fun c => bad c (some bits))).recordFoundIn p
      { Rec.base 0x0A 1 2 core p 0 with pa := off, synd := synd }
  | (some _, s) => s.modCore core (fun c => bad c none)

/-- A read of a tile row of a core finds what is armed there. -/
def State.meetTile (s : State) (core row : Nat) : State :=
  if s.armed.isEmpty then s else (List.range 64).foldl (fun s u => s.meetUnit core (256 * row + 4 * u)) s

/-- A read of all that a core's record holds finds what is armed in its local memory and its tile (R442). -/
def State.meetCore (s : State) (core : Nat) : State :=
  s.armed.foldl (fun s a => match a.tgt with
    | .loc c off => if c != core then s else if a.unit = 3 then s.meetUnit core off else s.meetDword core (off / 8)
    | .phys _ => s) s

/-- A granule as one read sees it, when that differs from what stays: a clean slice line found
uncorrectable is served damaged and then dropped (R430). -/
structure Overlay where
  granule : Nat
  bytes : List Byte
  deriving DecidableEq, Repr

/-- What a read of memory finds armed in granule number `u` (R129, R380, R430). -/
def State.meetMemory (s : State) (p u : Nat) : State :=
  let pa := keyPA (16 * u)
  match s.disarm 2 (.phys (16 * u)) with
  | (none, s) => s
  | (some 0, s) => s.countCorrected p
  | (some 1, s) =>
    let (synd, s) := s.takeFree
    let (unit, elem) := if isSecondTier pa then (6, 0) else (5, s.channelNumber p pa)
    (s.damage u).recordFoundIn p { Rec.base 0x0A 1 unit elem p 0 with pa := pa, synd := synd }
  | (some 2, s) => { s with memPoison := s.memPoison.ins u }
  | (some _, s) => s.damage u

/-- What a read of a slice finds armed in the data way of granule number `u`; a dirty line stays, with the granule
poisoned (R430). -/
def State.meetSlice (s : State) (p u : Nat) : List Overlay × State :=
  let pa := keyPA (16 * u)
  match s.disarm 1 (.phys (16 * u)) with
  | (none, s) => ([], s)
  | (some 0, s) => ([], s.countCorrected p)
  | (some 1, s) =>
    let (synd, s) := s.takeFree
    let s := s.recordFoundIn p { Rec.base 0x0A 1 4 (s.sliceNumber p pa) p 0 with pa := pa, synd := synd }
    match s.lineOf (u / 8) with
    | some x =>
      if x.dirty then ([], (s.damage u).putLine .bypass { x with damaged := x.damaged.ins u })
      else
        let (a, s) := s.takeFree
        let (b, s) := s.takeFree
        ([{ granule := u, bytes := dwordBytes a ++ dwordBytes b }], s)
    | none => ([], s)
  | (some _, s) => ([], { s with memPoison := s.memPoison.ins u })

/-- A line is read from memory into its slice: it is a zero line when every byte is zero without poison (R127). -/
def State.fillLine (s : State) (use : LineUse) (l : Nat) : State :=
  let s := if s.armed.isEmpty then s
    else ((List.range 8).map (8 * l + ·)).foldl (fun s u => s.meetMemory (keyPart (128 * l)) u) s
  let zero := s.mem.all (fun c => c.1 / 128 != l) && s.memPoison.all (fun u => u / 8 != l)
  s.addLine use { line := l, dirty := false, kept := false, zero := zero, damaged := [] }

/-- A read reaches a line's slice (Table 6.5). -/
def State.readLine (use : LineUse) (s : State) (l : Nat) : State :=
  match s.lineOf l with
  | some x => s.putLine use x
  | none => match use with
    | .normal | .keep | .stream => s.fillLine use l
    | .bypass | .zfill _ | .through => s

/-- A read of `n` bytes at a key reaches the slices. -/
def State.readLines (s : State) (use : LineUse) (key n : Nat) : State :=
  if isMainKey key then (unitsOf 128 key n).foldl (State.readLine use) s else s

/-- A write reaches a line's slice, before its bytes land (R127, R132, Table 6.5). -/
def State.writeLine (s : State) (use : LineUse) (l : Nat) (zeros : Bool) (covered : List Nat) : State :=
  match s.lineOf l with
  | some x => s.hitLine use x zeros covered
  | none => match use with
    | .bypass | .stream | .through => s
    | .zfill _ => s.addLine use { line := l, dirty := true, kept := false, zero := true, damaged := [] }
    | .normal | .keep =>
      if covered.length = 8 then
        s.addLine use { line := l, dirty := true, kept := false, zero := false, damaged := [] }
      else
        let s := s.fillLine use l
        match s.lineOf l with
        | some x => s.hitLine use x zeros covered
        | none => s

/-- A write of bytes at a key reaches the slices, before they land. -/
def State.writeLines (s : State) (use : LineUse) (key : Nat) (bytes : List Byte) (pois : List Bool) : State :=
  if isMainKey key then
    (unitsOf 128 key bytes.length).foldl (fun s l =>
      let (zeros, covered) := linePart key l bytes pois
      s.writeLine use l zeros covered) s
  else s

/-- A read at the home finds what is armed in granule number `u` of the key space, for partition `p`: in the data way
when the slice holds one, in memory when it does not hold the line. -/
def State.meetGranule (s : State) (p u : Nat) : List Overlay × State :=
  if s.inWay u then s.meetSlice p u
  else if s.inSlice u then ([], s)
  else ([], s.meetMemory p u)

/-- Clean lines that were served damaged are dropped (R430). -/
def State.dropServed (s : State) (ov : List Overlay) : State :=
  { s with lines := s.lines.filter (fun x => !ov.any (fun o => o.granule / 8 == x.line)) }

/-- A read of `n` bytes at a key, with its use of slice lines: what it finds armed there. A clean line found
uncorrectable is served damaged, and dropped (R430). -/
def State.meetPhys (s : State) (use : LineUse) (p key n : Nat) : List Overlay × State :=
  let s := s.readLines use key n
  if s.armed.isEmpty then ([], s)
  else
    let (ov, s) := (unitsOf 16 key n).foldl (fun (ov, s) u =>
      let (o, s) := s.meetGranule p u
      (ov ++ o, s)) (([] : List Overlay), s)
    (ov, s.dropServed ov)

/-- The byte at a key as a read sees it, and its granule's poison. -/
def State.seeByte (s : State) (ov : List Overlay) (k : Nat) : Byte × Bool :=
  match ov.find? (fun o => o.granule == k / 16) with
  | some o => (o.bytes.getD (k % 16) 0, true)
  | none => (s.mem.get k, s.memPoison.has (k / 16))

/-- Bytes with poison from the committed copy, as a reader of no domain that allocates nothing gets them
(R150, R362; log entry 46). -/
def State.readPhys (s : State) (p key n : Nat) : List (Byte × Bool) × State :=
  let (ov, s) := s.meetPhys .bypass p key n
  ((List.range n).map (fun j => s.seeByte ov (key + j)), s)

/-! ## Records (R333, R381, R382) -/

/-- The device reads the VALID bit of a record's slot, and finds what is armed there (R333, R350). -/
def State.readValid (s : State) (p key : Nat) : Bool × State :=
  if s.armed.isEmpty then (s.unread key, s)
  else
    let (ov, s) := s.meetPhys .bypass p key 8
    ((s.seeByte ov (key + 7)).1.msb, s)

/-- Writes a record to a context's fault queue. The read of VALID may find errors whose own records take slots before it:
`n` bounds how many. -/
def State.recordAfter (id : Nat) (r : Rec) : Nat → State → State
  | 0, s => s.recordFound id r
  | n + 1, s =>
    match s.ctx? id with
    | none => s
    | some c =>
      let (valid, t) := s.readValid c.part (State.faultSlot c)
      match t.ctx? id with
      | none => t
      | some d => if d.tail = c.tail then t.recordInto d r valid else recordAfter id r n t

/-- Writes a record to a context's fault queue (R333). -/
def State.recordCtx (s : State) (id : Nat) (r : Rec) : State := State.recordAfter id r (s.armed.length + 1) s

/-- Writes a record to the fault queue of the context whose data a partition's stores hold (R382). -/
def State.recordPart (s : State) (p : Nat) (r : Rec) : State :=
  match s.dataCtx p with
  | none => s.recordMgmt { r with ctx := 0xFFFF }
  | some c => s.recordCtx c.id { r with ctx := c.id }

/-! ## Full-empty bits -/

/-- Whether the word at a target is full (R160): a scratch dword, or a queue slot. -/
def State.isFull (s : State) : Target → Bool
  | .loc core la => !(s.coreOf core).lmEmpty.has (la / 8)
  | .phys key => s.fullSlots.has (key / 64)

/-- Sets the full-empty bit of the word at a target. -/
def State.putFull (s : State) (t : Target) (full : Bool) : State :=
  match t with
  | .loc core la => s.modCore core (fun c => { c with lmEmpty := c.lmEmpty.put (la / 8) (!full) })
  | .phys key => { s with fullSlots := s.fullSlots.put (key / 64) full }

/-- Whether a request waits on the word of a target. -/
def LdsReq.on (q : LdsReq) : Target → Bool
  | .loc core la => match q.tgt with
    | .loc c a => c == core && a / 8 == la / 8
    | .phys _ => false
  | .phys key => match q.tgt with
    | .loc _ _ => false
    | .phys k => k / 64 == key / 64

/-! ## Stores over bytes (R155) -/

/-- Whether a store touches `n` bytes at a target. -/
def StoreOp.touches (o : StoreOp) (t : Target) (n : Nat) : Bool :=
  match o.tgt with
  | .loc c a => (match t with
    | .loc d b => c == d && decide (a < b + n ∧ b < a + o.bytes.length)
    | .phys _ => false)
  | .phys a => (match t with
    | .loc _ _ => false
    | .phys b => decide (a < b + n ∧ b < a + o.bytes.length))

/-- The address of a target within its space. -/
def Target.addr : Target → Nat
  | .loc _ la => la
  | .phys key => key

/-- A byte with one half of another in it, the high one or the low one (R244). -/
def nibOver (hi : Bool) (old new : Byte) : Byte := if hi then (new &&& 0xF0) ||| (old &&& 0x0F) else (old &&& 0xF0) ||| (new &&& 0x0F)

/-- The bytes that a store leaves where `old` stood. -/
def StoreOp.result (o : StoreOp) (old : List Byte) : List Byte :=
  match o.nib with
  | none => o.bytes
  | some hi => old.zipWith (nibOver hi) o.bytes

/-- A store's bytes at an address `key` over a run of bytes that starts at `start`. -/
def StoreOp.over (o : StoreOp) (start key : Nat) (bs : List Byte) : List Byte :=
  overBytes start bs key (o.result ((List.range o.bytes.length).map (fun j => bs.getD (key + j - start) 0)))

/-- Writes stores over a run of bytes and its poison per unit of `u` bytes. -/
def overAll (u start : Nat) (ops : List StoreOp) (bs : List Byte) (ps : List Bool) : List Byte × List Bool :=
  ops.foldl (fun (bs, ps) o =>
    (o.over start o.tgt.addr bs, overPois u start ps o.tgt.addr o.pois)) (bs, ps)

/-- The stores that an activation of the core holds. -/
def Act.ownHeld (a : Act) : List StoreOp :=
  a.held.filterMap (fun h => match h with
    | .store o => some o
    | .msg _ | .reply _ _ _ | .token _ _ | .release _ => none)

/-- What a core has still to bring to its homes, of what comes before place `uid` in its program order, oldest first: the
stores of its buffer that have not left, and those that activation `act` holds (R137, R155). -/
def Core.unsent (c : Core) (act uid : Nat) : List StoreOp :=
  let held := (c.threads.filter (fun th => th.act.uid == act)).head?.map (·.act.ownHeld)
  (((c.storeBuf.filter (fun b => !b.sent)).map (·.op)) ++ held.getD []).filter (fun o => decide (o.seq < uid))

/-- Those of them that touch `n` bytes at a target. -/
def Core.unsentAt (c : Core) (act uid : Nat) (t : Target) (n : Nat) : List StoreOp :=
  (c.unsent act uid).filter (fun o => o.touches t n)

/-- What the home of a waiting LDS answers when its word is full: the dword, with the activation's own earlier stores
to it (R155, R167). -/
def State.ldsValue (s : State) (q : LdsReq) : PWord × State :=
  let own := (s.coreOf q.core).unsentAt q.act q.uid q.tgt 8
  match q.tgt with
  | .loc core la =>
    let s := s.meetLocal core la 8
    let c := s.coreOf core
    let (bs, ps) := overAll 8 la own (c.lm.bytes la 8) [readPoison 8 c.lmPoison la 8]
    ({ bits := .ofNat 64 (leNat bs), poison := ps.any id }, s)
  | .phys key =>
    let (ov, s) := s.meetPhys q.use ((s.partOf q.core).getD 0) key 8
    let start := key / 16 * 16
    let seen := (List.range 16).map (fun j => s.seeByte ov (start + j))
    let (bs, ps) := overAll 16 start own (seen.map (·.1)) [(s.seeByte ov key).2]
    ({ bits := .ofNat 64 (leNat ((bs.drop (key - start)).take 8)), poison := ps.any id }, s)

/-- Serves the requests that wait on a word, in the order they reached it, until one empties it or
none is left (R169). -/
def State.serveWaiters (t : Target) : List LdsReq → State → State
  | [], s => s
  | q :: qs, s =>
    if q.on t && s.isFull q.tgt then
      let (v, s) := s.ldsValue q
      let s := s.answer q.core q.act q.uid (s.sliceOf q.tgt) (.word { bits := v.bits, taint := q.taint, poison := v.poison })
      let s := { s with ldsWait := eraseFirst (fun r => r.uid == q.uid) s.ldsWait }
      serveWaiters t qs (if q.empties then s.putFull q.tgt false else s)
    else serveWaiters t qs s

/-- Sets a word full, and serves who waits on it (R161, R169). -/
def State.fill (s : State) (t : Target) : State :=
  let s := s.putFull t true
  State.serveWaiters t s.ldsWait s

/-- An engine write into local memory: the bytes with their poison (R134). -/
def State.writeLocal (s : State) (core la : Nat) (bytes : List Byte) (pois : List Bool) : State :=
  s.modCore core (fun c =>
    { c with
      lm := c.lm.setBytes la bytes
      lmPoison := writePoison 8 c.lmPoison la pois })

/-- An engine write of one dword that sets it full (Table 7.2). -/
def State.fillDword (s : State) (core la : Nat) (v : PWord) : State :=
  (s.writeLocal core la (dwordBytes v.bits) (List.replicate 8 v.poison)).fill (.loc core la)

/-! ## Trace (R400, R401) -/

/-- The four dwords of a trace record, with nothing in LOST (Table 20.2). -/
def traceDwords (kind detail entry tag core : Nat) (ts : Word) (actid : Nat) (addr : Nat) : List Word :=
  [.ofNat 64 (kind % 256 * 2 ^ 56 + detail % 256 * 2 ^ 48 + entry % 2 ^ 48),
    .ofNat 64 (tag % 2 ^ 16 * 2 ^ 48 + core % 2 ^ 14),
    ts, .ofNat 64 (actid % 2 ^ 16 * 2 ^ 48 + addr % 2 ^ 48)]

/-- Counts one event of a kind; the control word says whether the kind is on, and whether this
event is the 2^e-th (R400). -/
def Trace.count (t : Trace) (kind : Nat) : Bool × Trace :=
  let on := (t.ctl.toNat / (if kind = 4 then 2 else if kind = 5 then 4 else 1)) % 2 == 1
  if !on then (false, t)
  else
    let n := t.counts.getD (kind - 1) 0 + 1
    let e := min (t.ctl.toNat / 256) 31
    (n % 2 ^ e == 0, { t with counts := t.counts.set (kind - 1) (n % 2 ^ 31) })

/-- An event of the core in focus that a trace may record (R400, R401). `act` is the activation
concerned: its entry, routing tag and ACTID[15:0]. -/
def State.trace (s : State) (kind detail : Nat) (entry tag actid addr : Nat) : State :=
  let (due, t) := s.core.trace.count kind
  let t :=
    if !due then t
    else if t.queue.length < 4 then
      { t with queue := t.queue ++ [(s.myCtx, traceDwords kind detail entry tag s.core.id s.ts actid addr)] }
    else { t with lost := t.lost + 1 }
  { s with core := { s.core with trace := t } }

/-- A trace record as it is written: LOST is what its core has dropped since the record before (R401). -/
def withLost (lost : Nat) (r : List Word) : List Word := modifyAt (· + .ofNat 64 (min lost 0xFFFF * 2 ^ 32)) r 1

/-- The core in focus writes the oldest record of its trace queue to the ring of the context it belongs to: a
direct write in the next slot (R401). Without a ring there is nothing to write to. -/
def State.drainTrace (s : State) : State :=
  match s.core.trace.queue with
  | [] => s
  | (id, r) :: rest =>
    let r := withLost s.core.trace.lost r
    let s := { s with core := { s.core with trace := { s.core.trace with queue := rest } } }
    match s.ctx? id with
    | none => s
    | some c =>
      if c.traceLog < 8 then s
      else
        let s := { s with core := { s.core with trace := { s.core.trace with lost := 0 } } }
        let key := physKey c.part (c.traceBase.toNat % 2 ^ 48 + 32 * (c.traceNext % 2 ^ c.traceLog))
        (s.directWrite key (r.flatMap dwordBytes)).modCtx c.id
          (fun c => { c with traceNext := c.traceNext + 1 })

end Sys2Proof.Machine
end

