-- ==== Sys2Proof/Machine/Run.lean ====
section
/-! DEFINITION. How a meaning runs: the monad of instruction effects, why it can stop, the held
outputs of a revocable activation (R107), pending writes by destination (R40, R41), and local memory
as the running activation sees it. -/

namespace Sys2Proof.Machine

/-! ## Trap causes (Table 16.5) -/

def cILL : Nat := 0x01
def cPRIV : Nat := 0x02
def cALIGN : Nat := 0x03
def cPAGE : Nat := 0x04
def cPROT : Nat := 0x05
def cBANK : Nat := 0x06
def cREGRANGE : Nat := 0x07
def cLANE : Nat := 0x08
def cSTALE : Nat := 0x09
def cPOISON : Nat := 0x0A
def cCNT : Nat := 0x0B
def cPRESS : Nat := 0x0C
def cTRAP : Nat := 0x0D
def cBRK : Nat := 0x0E
def cWATCH : Nat := 0x0F
def cPREEMPT : Nat := 0x10
def cCHECKFAIL : Nat := 0x11
def cERR : Nat := 0x12
def cBADHDR : Nat := 0x13

/-- A fault about to be taken. `spec` is the consumed operand's specifier and `major` the consuming
major, for the record of R433 (`none`: the instruction's own); `epc` the resume address when it is
not the instruction's; `buf`: the repetition buffer issued the instruction (R92). -/
structure TrapInfo where
  cause : Nat
  tval : Word
  spec : Nat
  major : Option Nat
  epc : Option (BitVec 48)
  buf : Bool
  deriving DecidableEq, Repr

/-- Why a meaning does not run to its end: it takes a fault; it waits and is as though not begun, but for an irrevocable act
that it has come to;
it takes a fault and keeps what it did before (R8); it waits keeping what it did; it issues again after what it did; it
waits for held outputs to be committed first, in an irrevocable act or at END; or it waits as before in a release, for
which the write-combining buffer drains (R156). -/
inductive Stop where
  | trap (t : TrapInfo)
  | trapHere (t : TrapInfo)
  | wait
  | waitHere
  | again
  | commit (act : Bool)
  | drain
  deriving DecidableEq, Repr

/-- Effects on the state with stops. -/
abbrev M := EStateM Stop State

/-- Takes a fault with a cause and a trap value. -/
def fault {α : Type} (cause : Nat) (tval : Nat) : M α :=
  throw (.trap { cause := cause, tval := .ofNat 64 tval, spec := 0, major := none, epc := none, buf := false })

/-- Consumes poison: the specifier of the operand is the trap value (R433). -/
def poisonFault {α : Type} (spec : Nat) : M α :=
  throw (.trap { cause := cPOISON, tval := .ofNat 64 spec, spec := spec, major := none, epc := none, buf := false })

/-- What came before stands when this takes a fault (R8). -/
def standing {α : Type} (x : M α) : M α := fun s =>
  match x s with
  | .error (.trap t) s => .error (.trapHere t) s
  | r => r

/-- Waits, with no effect. -/
def stall {α : Type} : M α := throw .wait

/-- Waits unless a condition holds. -/
def waitUntil (b : Bool) : M Unit := if b then pure () else stall

/-- Takes a fault when a condition holds. -/
def faultIf (b : Bool) (cause : Nat) (tval : Nat) : M Unit := if b then fault cause tval else pure ()

/-- The core in focus. -/
def getC : M Core := do return (← get).core

/-- Changes the core in focus. -/
def modC (f : Core → Core) : M Unit := modify (fun s => { s with core := f s.core })

/-- Changes the running thread. -/
def modT (f : Thread → Thread) : M Unit := modC (fun c => { c with cur := f c.cur })

/-- Changes the running activation. -/
def modA (f : Act → Act) : M Unit := modT (fun t => { t with act := f t.act })

/-- A release or an acquire stands here in the program order of the running activation (R155). -/
def State.fenced (s : State) : State :=
  { s with core := { s.core with cur := { s.core.cur with act := { s.core.cur.act with fence := s.uid } } } }

/-- Runs a function that answers a value and a state. -/
def stateOf {α : Type} (f : State → α × State) : M α := do
  let (a, s) := f (← get)
  set s
  pure a

/-! ## Held outputs and revocability (R106 to R108) -/

/-- Whether an activation is a check run (R390): it has a check and is not the sampled original. -/
def Act.isCheck (a : Act) : Bool := a.check.isSome && !a.sampled

/-- The kernel that the running activation belongs to: in a check run, that of its original (R108). -/
def Core.workKern (c : Core) : Option KernInfo := if c.cur.act.isCheck then c.checkKern else c.kern

/-- The core id that the running activation reads as CID: in a check run, that of its original. -/
def Core.workId (c : Core) : Nat := if c.cur.act.isCheck then c.checkHome else c.id

/-- Whether every store of an activation has been acknowledged and the write-combining buffer has
drained, as far as partition scope reaches (R156): stores to second-tier memory, the host and peers
are waited for at system scope only. -/
def StoreOp.beyond (o : StoreOp) : Bool :=
  match o.tgt with
  | .loc _ _ => false
  | .phys key => decide (keyPart key = 16) || decide (keyPA key ≥ 0x800000000000)

def Core.released (c : Core) (act : Nat) (system : Bool) : Bool :=
  c.storeBuf.all (fun b => !(b.op.act == act && (system || !b.op.beyond)))

/-- The write-combining buffer drains (R131). -/
def Core.drainWc (c : Core) : Core :=
  { c with storeBuf := c.storeBuf.map (fun b => { b with wc := false }) }

/-- A store at a key that hits an L1 line updates it (R124). -/
def L1Line.store (l : L1Line) (o : StoreOp) (key : Nat) : L1Line :=
  { l with
    bytes := o.over (l.line * 128) key l.bytes
    pois := overPois 8 (l.line * 128) l.pois key o.pois }

/-- A store to global memory enters the core's store buffer, and the L1 line it hits (R124, R137). A
phased store is tagged with the core's phase number as it leaves (R148; log entry 14). A `group` other than 0 is that
of the write-combining buffer (R131). -/
def Core.pushStore (c : Core) (o : StoreOp) (group : Nat) : Core :=
  let o := match o.cls with
    | .phased d _ => { o with cls := .phased d c.phaseNo }
    | .direct => o
  let l1 := match o.tgt with
    | .phys key => c.l1.map (fun l => l.store o key)
    | .loc _ _ => c.l1
  { c with storeBuf := c.storeBuf ++ [{ op := o, sent := false, wc := group != 0, group := group }], l1 := l1 }

/-- The part of a store that falls into a line. -/
def StoreOp.onLine (o : StoreOp) (key line : Nat) : StoreOp :=
  let lo := max key (128 * line)
  let n := min (key + o.bytes.length) (128 * (line + 1)) - lo
  { o with tgt := .phys lo, bytes := (o.bytes.drop (lo - key)).take n, pois := (o.pois.drop (lo - key)).take n }

/-- A store's part on a line gathers in the write-combining buffer, which drains first when it holds another line
(R131). What gathers there from a store on is numbered by the store and the line. -/
def Core.gather (c : Core) (o : StoreOp) (line : Nat) : Core :=
  match c.storeBuf.find? (fun b => b.wc && (match b.op.tgt with
      | .phys key => key / 128 == line
      | .loc _ _ => false)) with
  | some b => c.pushStore o b.group
  | none => c.drainWc.pushStore o (2 ^ 64 * o.seq + line + 1)

/-- A store leaves its activation: into the write-combining buffer through a WC page (R131), else into the store
buffer (R137). -/
def Core.sendStore (c : Core) (o : StoreOp) : Core :=
  match o.tgt with
  | .phys key =>
    if o.combines then
      (unitsOf 128 key o.bytes.length).foldl (fun c l => c.gather (o.onLine key l) l) c
    else c.pushStore o 0
  | .loc _ _ => c.pushStore o 0

/-- Sends one held output (R107). -/
def Core.emit (c : Core) (h : Held) : Core × List Parcel :=
  match h with
  | .release _ => (c, [])
  | .store o => (c.sendStore o, [])
  | .msg m => ({ c with outbox := c.outbox ++ [m] }, [])
  | .reply addr core v => (c, [.reply core addr v])
  | .token actor dws =>
    match c.kern with
    | none => (c, [])
    | some k =>
      let a := k.actors.getD actor
        { entry := 0, crank := 0xFF, cons := 0xFF, p := 0, c := 0, depth := 0, fstart := 0, fbank := 0,
          base := 0, revocable := false, checkable := false, selfpress := false, slotBase := 0 }
      let dst := if a.crank = 0xFF then c.id else k.peers.getD a.crank c.id
      (c, [.token c.id dst a.cons dws])

/-- The release that a held output leaves after, at system scope or not (R162). -/
def Held.releases : Held → Option Bool
  | .store _ | .msg _ => none
  | .reply _ _ _ | .token _ _ => some false
  | .release system => some system

/-- The entries of the store buffer that are in use: what still gathers in the write-combining buffer takes none, and
what has left it as one write takes one (R131, R137). -/
def Core.bufferUsed (c : Core) : Nat :=
  (c.storeBuf.filter (fun b => b.group == 0)).length +
    ((c.storeBuf.filter (fun b => b.group != 0 && !b.wc)).foldl (fun l b => NatSet.ins l b.group) []).length

/-- Whether a store finds room in the store buffer (R137): for itself, or for what it drains of the write-combining
buffer. An instruction that makes several stores needs room for its first. -/
def Core.storeFits (c : Core) (o : StoreOp) : Bool :=
  decide ((c.sendStore o).bufferUsed ≤ 16) || c.storeBuf.any (fun b => b.op.seq == o.seq)

/-- Whether the write-combining buffer is empty, or finds room in the store buffer for what it holds. -/
def Core.wcFits (c : Core) : Bool := !c.storeBuf.any (·.wc) || decide (c.bufferUsed < 16)

/-- The write-combining buffer drains if it finds room (R131, R137). -/
def Core.tryDrain (c : Core) : Core := if c.wcFits then c.drainWc else c

/-- The bytes that the word of a full-empty access has: a scratch dword, or a queue slot (R160). -/
def Target.word : Target → Target × Nat
  | .loc id la => (.loc id la, 8)
  | .phys key => (.phys (key / 64 * 64), 64)

/-- Whether an activation has stores to the word of a target that are not acknowledged (R169). -/
def Core.slotBusy (c : Core) (act : Nat) (t : Target) : Bool :=
  c.storeBuf.any (fun b => b.op.act == act && b.op.touches t.word.1 t.word.2)

/-- Whether a held output of an activation can leave its core now: releases are done (R156, R162), a message finds room
among the four the network interface holds (R118), and a store finds room in the store buffer (R137), an STF after the
activation's stores to its word (R169). -/
def Core.canEmit (c : Core) (act : Nat) (h : Held) : Bool :=
  (match h.releases with
    | some sys => c.released act sys && !c.storeBuf.any (·.wc)
    | none => true) &&
  (match h with
    | .msg _ => decide (c.outbox.length < 4)
    | .store o => c.storeFits o && !(o.full && c.slotBusy act o.tgt)
    | .release _ | .reply _ _ _ | .token _ _ => true)

/-- A core about to send a held output: for a release the write-combining buffer drains (R131, R156). -/
def Core.readyTo (c : Core) (h : Held) : Core :=
  match h with
  | .release _ | .reply _ _ _ | .token _ _ => c.tryDrain
  | .store o => if o.full && c.slotBusy o.act o.tgt then c.tryDrain else c
  | .msg _ => c

/-- Commits held outputs in program order, as far as they can leave (R107). Answers what is left. -/
def commitList : List Held → State → List Held × State
  | [], s => ([], s)
  | h :: t, s =>
    let s := { s with core := s.core.readyTo h }
    if !s.core.canEmit s.core.cur.act.uid h then (h :: t, s)
    else
      let (c, ps) := s.core.emit h
      commitList t { s with core := c, parcels := s.parcels ++ ps }

/-- Commits what it can of the running activation's held outputs; once one has left, the activation is
irrevocable. -/
def State.commitSome (s : State) : State :=
  let a := s.core.cur.act
  let (rest, s) := commitList a.held s
  let a := { s.core.cur.act with held := rest, revocable := a.revocable && rest.length == a.held.length }
  { s with core := { s.core with cur := { s.core.cur with act := a } } }

/-- Whether an activation keeps its outputs: while it is revocable, and while outputs it held are still
to leave. -/
def Act.keeps (a : Act) : Bool := a.revocable || !a.held.isEmpty

/-- Whether outputs that a commit has left behind are still to leave, before anything else (R107). -/
def Act.draining (a : Act) : Bool := !a.revocable && !a.held.isEmpty

/-- Withdraws a sample without a verdict (R388). -/
def State.dropCheck (s : State) (uid : Nat) : State :=
  { s with checks := s.checks.filter (fun k => k.uid != uid) }

/-- The running activation is uncheckable from here on; its sample is withdrawn (R108). -/
def State.uncheck (s : State) : State :=
  let a := s.core.cur.act
  if a.isCheck then s
  else
    let s := match a.check with
      | none => s
      | some u => s.dropCheck u
    { s with core := { s.core with cur := { s.core.cur with act :=
        { a with checkable := false, sampled := false, check := none } } } }

/-- Makes the running activation uncheckable. -/
def uncheck : M Unit := modify State.uncheck

/-- Commits every held output, or waits until it can; in an irrevocable act, or at END. -/
def commitHeld (act : Bool) : M Unit := do
  let s := (← get).commitSome
  if s.core.cur.act.held.isEmpty then set s else throw (.commit act)

/-- An irrevocable act (R106): commits the held outputs first (R107, R166). A check run that comes to
one is not as its original was: its sample is withdrawn (log entry 12). -/
def irrevocable : M Unit := do
  let c ← getC
  if c.cur.act.isCheck then fault cERR 0
  else
    if c.cur.act.keeps then
      commitHeld true
      uncheck
      modA (fun a => { a with revocable := false })

/-- The running activation has come to an irrevocable act that it still waits in: its held outputs leave as they can, and
it is irrevocable (R106, R107). -/
def State.actDone (s : State) : State :=
  let s := s.commitSome.uncheck
  { s with core := { s.core with cur := { s.core.cur with act := { s.core.cur.act with revocable := false } } } }

/-- A machine whose running activation waits: as it was, but that an irrevocable act which the activation has come to has
taken place as far as `actDone` says. `after` is the state at the wait. -/
def State.afterWait (s after : State) : State :=
  if s.core.cur.act.revocable && !after.core.cur.act.revocable then s.actDone else s

/-- What of the held outputs can leave leaves, in an irrevocable act or at END. -/
def State.commitPart (s : State) (act : Bool) : State :=
  let t := s.commitSome
  if act && !t.core.cur.act.revocable then t.uncheck else t

/-- What an earlier commit left behind leaves first (R107). -/
def drainHeld : M Unit := do
  if (← getC).cur.act.draining then irrevocable

/-- One digest step of a sampled activation or a check run (R391). -/
def digest (x : Word) (a : Word) : M Unit :=
  modA (fun t => { t with digest := fold64 t.digest a x })

/-! ## Pending writes by destination (R40, R41) -/

/-- Whether a pending write to a destination that `p` accepts has left its window and not been
applied. -/
def Thread.owes (t : Thread) (p : Dest → Bool) : Bool :=
  t.slots.any (fun sl => sl.rem == 0 && !sl.cancelled && p sl.dest)

/-- The w register that a lane instruction writes as its destination (Tables 8.7 and 8.9). -/
def VInstr.written (v : VInstr) : List (BitVec 5) :=
  match v.r with
  | .w i =>
    if [LaneOp.m .popc, .m .first, .p .extr, .p .redadd, .p .redmax, .p .redmin].contains v.op then [i] else []
  | .out _ | .inp _ | .z | .inq => []

/-- The w registers that the body instructions of the repetition buffer have still to write (R180). -/
def RepBuf.writes (b : RepBuf) : List (BitVec 5) := b.body.flatMap (fun x => x.ins.written)

/-- Whether the repetition buffer of a thread has still to write a destination: who reads it waits (R180). -/
def Thread.repOwes (t : Thread) (p : Dest → Bool) : Bool :=
  match t.rep with
  | none => false
  | some b => b.writes.any (fun i => p (.reg (.w i)))

/-- The same on the core: a handler's instructions come after those of the activation it serves. -/
def Core.owes (c : Core) (p : Dest → Bool) : Bool :=
  c.cur.owes p || c.cur.repOwes p || (c.frame.map (fun fr => fr.th.owes p)).getD false

/-- An instruction that needs a destination waits until its pending write has been applied (R40). -/
def needs (p : Dest → Bool) : M Unit := do
  if (← getC).owes p then stall

/-- The same of a destination that the activations of a core share, as a rind register or a binding tag: the pending writes of
all of them count (R40, R215). -/
def needsShared (p : Dest → Bool) : M Unit := do
  let c ← getC
  waitUntil (!(c.owes p || c.threads.any (·.owes p)))

/-- Whether a younger write leaves nothing of an older one: a w register or a tile row. A channel takes both, and a
rind register counts both. -/
def Dest.replaced : Dest → Bool
  | .reg (.w _) | .row _ => true
  | .reg (.out _) | .reg (.inp _) | .reg .z | .reg .inq | .tld _ _ _ => false

/-- Marks a pending write cancelled by a younger one: inside its window (R41), or, after it, where the younger
write leaves nothing of it. -/
def Slot.cancelIf (p : Dest → Bool) (sl : Slot) : Slot :=
  if p sl.dest && (sl.rem != 0 || sl.dest.replaced) then { sl with cancelled := true } else sl

/-- The binding tags of a pending TLD write that `p` accepts and whose window is open. -/
def Slot.openTags (p : Dest → Bool) (sl : Slot) : List Nat :=
  match sl.dest with
  | .tld _ tag pair =>
    if p sl.dest && !sl.cancelled && sl.rem != 0 then
      (if pair then [tag.toNat, tag.toNat + 1] else [tag.toNat])
    else []
  | .reg _ | .row _ => []

/-- Empties binding tags. -/
def Core.emptyTags (c : Core) (ts : List Nat) : Core :=
  { c with tags := ts.foldl (fun l t => l.set t .empty) c.tags }

/-- A younger write to a destination stands (R41); the tags of a cancelled TLD become empty. An
activation's writes also come after those of its trapped self whose windows have ended. -/
def Core.cancelPending (c : Core) (p : Dest → Bool) : Core :=
  { c.emptyTags (c.cur.slots.flatMap (Slot.openTags p)) with
    cur := { c.cur with slots := c.cur.slots.map (Slot.cancelIf p) }
    frame := c.frame.map (fun fr => { fr with th := { fr.th with
      slots := fr.th.slots.map (fun sl => if sl.rem = 0 then sl.cancelIf p else sl) } }) }

/-- A younger write to a destination stands (R41). -/
def cancels (p : Dest → Bool) : M Unit := modC (fun c => c.cancelPending p)

/-- Whether a destination is a register. -/
def Dest.isReg (r : RSpec) : Dest → Bool
  | .reg q => decide (q = r)
  | .row _ | .tld _ _ _ => false

/-- Whether a destination is a tile row. -/
def Dest.isRow (v : BitVec 6) : Dest → Bool
  | .row w => decide (w = v)
  | .reg _ | .tld _ _ _ => false

/-- Whether a destination is a rind register. -/
def Dest.isRind (k : Nat) : Dest → Bool
  | .tld kd _ pair => kd.toNat == k || (pair && kd.toNat + 1 == k)
  | .reg _ | .row _ => false

/-- Whether a destination is a binding tag. -/
def Dest.isTag (t : Nat) : Dest → Bool
  | .tld _ tag pair => tag.toNat == t || (pair && tag.toNat + 1 == t)
  | .reg _ | .row _ => false

/-! ## Local memory as the running activation sees it -/

/-- Whether a local address reaches the private image of a check run (R438). -/
def Core.privateAt (c : Core) (la : Nat) : Bool := c.cur.act.isCheck && c.imageGr.contains (la / 64)

/-- The bytes and poison of local memory, or of the private image, at an address. -/
def Core.viewMem (c : Core) (la : Nat) : Memory := if c.privateAt la then c.image else c.lm
def Core.viewPois (c : Core) (la : Nat) : NatSet := if c.privateAt la then c.imagePois else c.lmPoison

/-- Whether a dword of local memory, or of the private image, is full. The words of an image are full at first: an original
that was sampled to its end found none empty (R106, R108; log entry 87). -/
def Core.hereFull (c : Core) (la : Nat) : Bool :=
  if c.privateAt la then !c.imageEmpty.has (la / 8) else !c.lmEmpty.has (la / 8)

/-- Sets a dword of the private image full or empty. -/
def Core.putImageFull (c : Core) (la : Nat) (full : Bool) : Core :=
  { c with imageEmpty := c.imageEmpty.put (la / 8) (!full) }

/-- The byte at a local address with its dword's poison. -/
def Core.byteAt (c : Core) (la : Nat) : Byte × Bool :=
  ((c.viewMem la).get la, (c.viewPois la).has (la / 8))

/-- Reads local bytes, each with its dword's poison (R134). -/
def readBytes (la n : Nat) : M (List (Byte × Bool)) := do
  if !(← getC).privateAt la then modify (fun s => s.meetLocal s.core.id la n)
  let c ← getC
  pure ((List.range n).map (fun j => c.byteAt (la + j)))

/-- Reads local bytes with the poison of the dwords they overlap (R134). -/
def readLocal (la n : Nat) : M (List Byte × Bool) := do
  let bs ← readBytes la n
  pure (bs.map (·.1), bs.any (·.2))

/-- Writes local bytes within one granule with poison per byte (R134). -/
def Core.putPiece (c : Core) (la : Nat) (bytes : List Byte) (pois : List Bool) : Core :=
  if c.privateAt la then
    { c with
      image := c.image.setBytes la bytes
      imagePois := writePoison 8 c.imagePois la pois }
  else
    { c with
      lm := c.lm.setBytes la bytes
      lmPoison := writePoison 8 c.lmPoison la pois }

/-- Writes local bytes with poison per byte, granule by granule where a private image may stand. -/
def Core.putLocal (c : Core) (la : Nat) (bytes : List Byte) (pois : List Bool) : Core :=
  if !c.cur.act.isCheck then c.putPiece la bytes pois
  else (unitsOf 64 la bytes.length).foldl (fun c g =>
    let lo := max la (64 * g)
    let n := min (la + bytes.length) (64 * g + 64) - lo
    c.putPiece lo ((bytes.drop (lo - la)).take n) ((pois.drop (lo - la)).take n)) c

/-- The w registers of the running activation whose workspace dword a local access overlaps. -/
def Core.regsAt (c : Core) (la n : Nat) : List (BitVec 5) :=
  let wp := c.cur.act.wp.toNat
  ((List.range 32).filter (fun i =>
    let a := (wp + 8 * i) % 2 ^ 17
    decide (a < la + n) && decide (la < a + 8))).map (BitVec.ofNat 5)

/-- The granules an activation owns: its slot and its extra granules (R100, R101). -/
def Act.granules (a : Act) : List Nat :=
  (List.range a.slot).map (a.wp.toNat / 64 + ·) ++ a.extra

/-- Whether an access `after` a release or acquire of an activation finds every request and store that the activation
made before it served and sent (R155). What still gathers in the write-combining buffer leaves when R131 says. -/
def State.pastFence (s : State) (core act after : Nat) : Bool :=
  after == 0 ||
    (!s.reqs.any (fun r => !r.served && r.core == core && r.act == act && decide (r.uid < after)) &&
      !s.ldsWait.any (fun q => q.core == core && q.act == act && decide (q.uid < after)) &&
      !(s.coreOf core).storeBuf.any (fun b => !b.sent && !b.wc && b.op.act == act && decide (b.op.seq < after)))

/-- An access that takes effect at issue waits for those that a release or an acquire stands between (R155). -/
def inOrder : M Unit := do
  let s ← get
  let a := s.core.cur.act
  waitUntil (s.pastFence s.core.id a.uid a.fence)

/-- Whether local bytes lie within an activation's slot and owned granules (R106, R108). -/
def Act.ownsLocal (a : Act) (la n : Nat) : Bool :=
  (unitsOf 64 la n).all (fun g => a.granules.contains g)

end Sys2Proof.Machine
end

