-- ==== Sys2Proof/Machine/Batch.lean ====
section
/-! DEFINITION. Batches of copies: sealing, finishing, and the error accumulator (R290, R291). -/

namespace Sys2Proof.Machine

/-- A failed copy counts in the error accumulator as its batch finishes (R291). -/
def Batches.fail (b : Batches) (num : BitVec 16) (status : Nat) : Batches :=
  { b with
    errCount := min (b.errCount + 1) 65535
    errStatus := if b.errCount = 0 then status else b.errStatus
    errBatch := if b.errCount = 0 then num else b.errBatch }

/-- Finishes sealed batches from the oldest on, while every copy in them has ended (R290). -/
def finishSealed : List Sealed → Batches → List Sealed × Batches
  | [], b => ([], b)
  | x :: xs, b =>
    if x.left.isEmpty then
      finishSealed xs ((x.failed.map (·.2)).foldl (fun b st => b.fail x.num st) b)
    else (x :: xs, b)

/-- The batches that are over finish. -/
def Batches.settle (b : Batches) : Batches :=
  let (l, b) := finishSealed b.sealedList b
  { b with sealedList := l }

/-- Seals the open batch under a number and opens a new, empty one. -/
def Batches.seal (b : Batches) (num : BitVec 16) : Batches :=
  let new : Sealed := { num := num, left := b.openLeft, failed := b.openFailed }
  Batches.settle { b with
    openLeft := [], openFailed := [], openUsed := false, sealedList := b.sealedList ++ [new] }

/-- A copy of the context has ended with a status (0 is OK). Failed copies stand in the order they were
issued. -/
def Batches.ended (b : Batches) (uid status : Nat) : Batches :=
  let fail (l : List (Nat × Nat)) : List (Nat × Nat) := if status = 0 then l else assocPut l uid status
  if b.openLeft.contains uid then
    { b with openLeft := b.openLeft.filter (· != uid), openFailed := fail b.openFailed }
  else
    Batches.settle { b with sealedList := b.sealedList.map (fun x =>
      if x.left.contains uid then { x with left := x.left.filter (· != uid), failed := fail x.failed } else x) }

/-- The batches of a priority context. -/
def Core.batches (c : Core) (hi : Bool) : Batches := if hi then c.batchHi else c.batchLo

/-- Puts the batches of a priority context. -/
def Core.putBatches (c : Core) (hi : Bool) (b : Batches) : Core :=
  if hi then { c with batchHi := b } else { c with batchLo := b }

/-- Seals the open batch of a priority context under the core's next batch number. -/
def Core.sealBatch (c : Core) (hi : Bool) : Core :=
  { c.putBatches hi ((c.batches hi).seal c.batchNo) with batchNo := c.batchNo + 1 }

/-- END seals the open batch of a context that holds a copy (R290). -/
def Core.sealUsed (c : Core) (hi : Bool) : Core := if (c.batches hi).openUsed then c.sealBatch hi else c

/-- END seals the batch of the running activation's context, and a handler's END that of the context
the trapped activation has. -/
def State.sealAtEnd (s : State) : State :=
  let c := s.core.sealUsed s.core.curHi
  { s with core := match (if c.inHandler then c.frame else none) with
    | some fr => c.sealUsed fr.hi
    | none => c }

end Sys2Proof.Machine
end

