-- ==== Sys2Proof/WellFormed.lean ====
section
/-! DEFINITION. Which instructions are well formed: the position rules of R33 to R39, the ranges of
R34 and of each member, and what R36, R49 and R50 read off an instruction. -/

namespace Sys2Proof

/-- A specifier legal where a register is read (Table 2.4). -/
def RSpec.readable : RSpec → Bool
  | .out _ => false
  | .w _ | .inp _ | .z | .inq => true

/-- A specifier legal where a register is written (Table 2.4). -/
def RSpec.writable : RSpec → Bool
  | .w _ | .out _ | .z => true
  | .inp _ | .inq => false

/-- A field that is both read and written names `w0` to `w31` or `z` (R35). -/
def RSpec.inOut : RSpec → Bool
  | .w _ | .z => true
  | .out _ | .inp _ | .inq => false

/-- A field that must name a w register (R35). -/
def RSpec.isW : RSpec → Bool
  | .w _ => true
  | .out _ | .inp _ | .z | .inq => false

/-- The pair r, r + 1 must not reach past `w31` (R35, Table 2.9). -/
def RSpec.pair : RSpec → Bool
  | .w i => decide (i.toNat < 31)
  | .out _ | .inp _ | .z | .inq => false

/-- The first of eight registers: `w0`, `w8`, `w16` or `w24` (R36). -/
def RSpec.group8 : RSpec → Bool
  | .w i => decide (i.toNat % 8 = 0)
  | .out _ | .inp _ | .z | .inq => false

/-- The first of four registers: a multiple of 4 (R239). -/
def RSpec.group4 : RSpec → Bool
  | .w i => decide (i.toNat % 4 = 0)
  | .out _ | .inp _ | .z | .inq => false

/-- A lane source (Table 2.5). -/
def LSpec.source : LSpec → Bool
  | .v _ | .post _ | .str _ | .bcast _ | .vz | .vin _ => true
  | .vout _ | .m _ => false

/-- A lane destination (Table 2.5). -/
def LSpec.dest : LSpec → Bool
  | .v _ | .post _ | .str _ | .vz | .vout _ => true
  | .bcast _ | .vin _ | .m _ => false

/-- A lane destination that the member also reads, or that may not be a channel (R180, R197). -/
def LSpec.destRead : LSpec → Bool
  | .v _ | .post _ | .str _ | .vz => true
  | .bcast _ | .vin _ | .vout _ | .m _ => false

/-- A mask operand (R195). -/
def LSpec.mask : LSpec → Bool
  | .m _ => true
  | .v _ | .post _ | .str _ | .bcast _ | .vz | .vin _ | .vout _ => false

/-- A mask destination `m1` to `m7` (R195). -/
def LSpec.maskDest : LSpec → Bool
  | .m i => decide (i.toNat ≠ 0)
  | .v _ | .post _ | .str _ | .bcast _ | .vz | .vin _ | .vout _ => false

/-- A mask or any lane source (R195). -/
def LSpec.maskSource (a : LSpec) : Bool := a.source || a.mask

/-- The sources the compact form can name (R30, Table 2.1). -/
def LSpec.compact : LSpec → Bool
  | .v i => decide (i.toNat < 16)
  | .post _ | .vin _ => true
  | .str _ | .bcast _ | .vz | .vout _ | .m _ => false

/-- The w registers a specifier names (R36). -/
def RSpec.regs : RSpec → List Nat
  | .w i => [i.toNat]
  | .out _ | .inp _ | .z | .inq => []

/-- The `k` w registers from the one named on (R36). -/
def RSpec.run (r : RSpec) (k : Nat) : List Nat :=
  match r with
  | .w i => (List.range k).map (i.toNat + ·)
  | .out _ | .inp _ | .z | .inq => []

/-- The w registers a lane specifier implies: pointers `w24`+N and broadcast `w16`+N (R36). -/
def LSpec.regs : LSpec → List Nat
  | .post p | .str p => [24 + p.toNat]
  | .bcast i => [16 + i.toNat]
  | .v _ | .vz | .vout _ | .vin _ | .m _ => []

/-- Special register numbers of Table 16.3: what SRD may name (R50, R335). -/
def srdNumber (n : BitVec 12) : Bool :=
  decide (n.toNat ≤ 0x00A) || decide (0x100 ≤ n.toNat ∧ n.toNat ≤ 0x102) ||
    decide (0x200 ≤ n.toNat ∧ n.toNat ≤ 0x20C)

/-- What SWR may name: an assigned number outside 0x000 to 0x0FF (R50). -/
def swrNumber (n : BitVec 12) : Bool :=
  decide (0x100 ≤ n.toNat ∧ n.toNat ≤ 0x102) || decide (0x200 ≤ n.toNat ∧ n.toNat ≤ 0x20C)

/-- Well-formed: every operand legal in its position and every field in its range. An encoding
whose reading is not well-formed takes ILL (R48). -/
def Instr.wf : Instr → Bool
  | .add d a b => d.writable && a.readable && b.readable
  | .sub d a b => d.writable && a.readable && b.readable
  | .and d a b => d.writable && a.readable && b.readable
  | .or d a b => d.writable && a.readable && b.readable
  | .xor d a b => d.writable && a.readable && b.readable
  | .andn d a b => d.writable && a.readable && b.readable
  | .orn d a b => d.writable && a.readable && b.readable
  | .xnor d a b => d.writable && a.readable && b.readable
  | .shl d a b => d.writable && a.readable && b.readable
  | .shr d a b => d.writable && a.readable && b.readable
  | .sra d a b => d.writable && a.readable && b.readable
  | .rol d a b => d.writable && a.readable && b.readable
  | .ror d a b => d.writable && a.readable && b.readable
  | .slt d a b => d.writable && a.readable && b.readable
  | .sltu d a b => d.writable && a.readable && b.readable
  | .seq d a b => d.writable && a.readable && b.readable
  | .sne d a b => d.writable && a.readable && b.readable
  | .min d a b => d.writable && a.readable && b.readable
  | .max d a b => d.writable && a.readable && b.readable
  | .minu d a b => d.writable && a.readable && b.readable
  | .maxu d a b => d.writable && a.readable && b.readable
  | .shadd1 d a b => d.writable && a.readable && b.readable
  | .shadd2 d a b => d.writable && a.readable && b.readable
  | .shadd3 d a b => d.writable && a.readable && b.readable
  | .addw d a b => d.writable && a.readable && b.readable
  | .subw d a b => d.writable && a.readable && b.readable
  | .mul d a b _ => d.writable && a.readable && b.readable
  | .mulh d a b _ => d.writable && a.readable && b.readable
  | .mulhu d a b _ => d.writable && a.readable && b.readable
  | .mulhsu d a b _ => d.writable && a.readable && b.readable
  | .div d a b _ => d.writable && a.readable && b.readable
  | .divu d a b _ => d.writable && a.readable && b.readable
  | .rem d a b _ => d.writable && a.readable && b.readable
  | .remu d a b _ => d.writable && a.readable && b.readable
  | .clz d a => d.writable && a.readable
  | .ctz d a => d.writable && a.readable
  | .popc d a => d.writable && a.readable
  | .brev d a => d.writable && a.readable
  | .bswap d a => d.writable && a.readable
  | .sextb d a => d.writable && a.readable
  | .sexth d a => d.writable && a.readable
  | .sextw d a => d.writable && a.readable
  | .extu d a pos len1 => d.writable && a.readable && decide (pos.toNat + len1.toNat + 1 ≤ 64)
  | .exts d a pos len1 => d.writable && a.readable && decide (pos.toNat + len1.toNat + 1 ≤ 64)
  | .ins d a pos len1 => d.inOut && a.readable && decide (pos.toNat + len1.toNat + 1 ≤ 64)
  | .addi d a _ => d.writable && a.readable
  | .andi d a _ => d.writable && a.readable
  | .ori d a _ => d.writable && a.readable
  | .xori d a _ => d.writable && a.readable
  | .slti d a _ => d.writable && a.readable
  | .sltui d a _ => d.writable && a.readable
  | .shli d a _ => d.writable && a.readable
  | .shri d a _ => d.writable && a.readable
  | .srai d a _ => d.writable && a.readable
  | .rori d a _ => d.writable && a.readable
  | .lih d _ => d.writable
  | .lix d _ => d.inOut
  | .addpc d _ => d.writable
  | .beq a b _ => a.readable && b.readable
  | .bne a b _ => a.readable && b.readable
  | .blt a b _ => a.readable && b.readable
  | .bge a b _ => a.readable && b.readable
  | .bltu a b _ => a.readable && b.readable
  | .bgeu a b _ => a.readable && b.readable
  | .bbs a _ _ => a.readable
  | .bbc a _ _ => a.readable
  | .j _ => true
  | .jal _ => true
  | .jalr d a _ => d.writable && a.readable
  | .loop c fin => c.inOut && decide (3 ≤ fin.toNat)
  | .rep _ c _ => c.inOut
  | .repBodyIssue => true
  | .endAct => true
  | .endAbort => true
  | .callat d a b => d.readable && a.readable && b.readable
  | .reply a => a.readable
  | .spawn d a => d.writable && a.readable
  | .spawnH d a => d.writable && a.readable
  | .wclaim d a => d.writable && a.readable
  | .wrel a => a.readable
  | .apop d => d.group8
  | .apush a => a.group8
  | .nop => true
  | .trap a => a.readable
  | .brk => true
  | .rte => true
  | .idle => true
  | .ld t base _ _ _ _ => t.writable && base.readable
  | .ldu t base _ _ size _ => t.writable && base.readable && decide (size.toNat < 3)
  | .st t base _ _ _ => t.readable && base.readable
  | .ldv _ base _ _ _ => base.readable
  | .stv _ base _ _ => base.readable
  | .zfill base _ _ => base.readable
  | .pref base _ _ => base.readable
  | .l1inv => true
  | .icinv a scope => a.readable && decide (scope.toNat < 4)
  | .bankmode a b => a.readable && b.readable
  | .bankq d => d.writable
  | .ldc t base _ _ _ _ => t.writable && base.readable
  | .lds t base _ _ => t.writable && base.readable
  | .ldsE t base _ _ => t.writable && base.readable
  | .stf t base _ _ => t.readable && base.readable
  | .aadd d a _ _ ord l => d.inOut && a.readable && (l == 0 || ord == 0 || ord == 2)
  | .aand d a _ _ ord l => d.inOut && a.readable && (l == 0 || ord == 0 || ord == 2)
  | .aor d a _ _ ord l => d.inOut && a.readable && (l == 0 || ord == 0 || ord == 2)
  | .axor d a _ _ ord l => d.inOut && a.readable && (l == 0 || ord == 0 || ord == 2)
  | .amin d a _ _ ord l => d.inOut && a.readable && (l == 0 || ord == 0 || ord == 2)
  | .amax d a _ _ ord l => d.inOut && a.readable && (l == 0 || ord == 0 || ord == 2)
  | .aminu d a _ _ ord l => d.inOut && a.readable && (l == 0 || ord == 0 || ord == 2)
  | .amaxu d a _ _ ord l => d.inOut && a.readable && (l == 0 || ord == 0 || ord == 2)
  | .axchg d a _ _ ord l => d.inOut && a.readable && (l == 0 || ord == 0 || ord == 2)
  | .afadd d a _ _ ord l => d.inOut && a.readable && (l == 0 || ord == 0 || ord == 2)
  | .afmin d a _ _ ord l => d.inOut && a.readable && (l == 0 || ord == 0 || ord == 2)
  | .afmax d a _ _ ord l => d.inOut && a.readable && (l == 0 || ord == 0 || ord == 2)
  | .ald d a _ _ ord l => d.inOut && a.readable && (l == 0 || ord == 0 || ord == 2)
  | .ast d a _ _ _ => d.inOut && a.readable
  | .acas d a _ _ ord l => d.pair && a.readable && (l == 0 || ord == 0 || ord == 2)
  | .phase d => d.inOut
  | .rel scope => decide (scope.toNat < 4)
  | .acq => true
  | .fence => true
  | .clrt d => d.inOut
  | .phasen d => d.inOut
  | .vaddF d a b => d.dest && a.source && b.source
  | .vsubF d a b => d.dest && a.source && b.source
  | .vmulF d a b => d.dest && a.source && b.source
  | .vfma d a b => d.destRead && a.source && b.source
  | .vfms d a b => d.destRead && a.source && b.source
  | .vmaxF d a b => d.dest && a.source && b.source
  | .vminF d a b => d.dest && a.source && b.source
  | .vnegF d a => d.dest && a.source
  | .vabsF d a => d.dest && a.source
  | .vrcp d a => d.dest && a.source
  | .vrsq d a => d.dest && a.source
  | .vrcps d a b => d.dest && a.source && b.source
  | .vrsqs d a b => d.dest && a.source && b.source
  | .vexp2 d a => d.dest && a.source
  | .vlog2 d a => d.dest && a.source
  | .vclamp d a b => d.destRead && a.source && b.source
  | .vaddI d a b => d.dest && a.source && b.source
  | .vsubI d a b => d.dest && a.source && b.source
  | .vmulI d a b => d.dest && a.source && b.source
  | .vmulh d a b => d.dest && a.source && b.source
  | .vmad d a b => d.destRead && a.source && b.source
  | .vmaxI d a b => d.dest && a.source && b.source
  | .vminI d a b => d.dest && a.source && b.source
  | .vabsI d a => d.dest && a.source
  | .vshl d a b => d.dest && a.source && b.source
  | .vshr d a b => d.dest && a.source && b.source
  | .vsra d a b => d.dest && a.source && b.source
  | .vadds d a b => d.dest && a.source && b.source
  | .vsubs d a b => d.dest && a.source && b.source
  | .vmaxu d a b => d.dest && a.source && b.source
  | .vminu d a b => d.dest && a.source && b.source
  | .vnegI d a => d.dest && a.source
  | .vand d a b => d.dest && a.source && b.source
  | .vor d a b => d.dest && a.source && b.source
  | .vxor d a b => d.dest && a.source && b.source
  | .vandn d a b => d.dest && a.source && b.source
  | .vnot d a => d.dest && a.source
  | .vmov d a => d.dest && a.source
  | .vsel d a b => d.dest && a.source && b.source
  | .vpopc d a => d.dest && a.source
  | .vclz d a => d.dest && a.source
  | .vceqF d a b => d.dest && a.source && b.source
  | .vcneF d a b => d.dest && a.source && b.source
  | .vcltF d a b => d.dest && a.source && b.source
  | .vcleF d a b => d.dest && a.source && b.source
  | .vcunF d a b => d.dest && a.source && b.source
  | .vceqI d a b => d.dest && a.source && b.source
  | .vcneI d a b => d.dest && a.source && b.source
  | .vcltI d a b => d.dest && a.source && b.source
  | .vcleI d a b => d.dest && a.source && b.source
  | .vcltu d a b => d.dest && a.source && b.source
  | .vcleu d a b => d.dest && a.source && b.source
  | .mand d a b => d.maskDest && a.maskSource && b.maskSource
  | .mor d a b => d.maskDest && a.maskSource && b.maskSource
  | .mxor d a b => d.maskDest && a.maskSource && b.maskSource
  | .mnot d a => d.maskDest && a.maskSource
  | .mandn d a b => d.maskDest && a.maskSource && b.maskSource
  | .msel a => a.mask
  | .mpopc d a => d.writable && a.maskSource
  | .mfirst d a => d.writable && a.maskSource
  | .vcvtF32F16 d a p => d.dest && a.source && decide (p.toNat ≤ 1)
  | .vcvtF16F32 d a p => d.destRead && a.source && decide (p.toNat ≤ 1)
  | .vcvtF32Bf16 d a p => d.dest && a.source && decide (p.toNat ≤ 1)
  | .vcvtBf16F32 d a p => d.destRead && a.source && decide (p.toNat ≤ 1)
  | .vcvtF32E4m3 d a p => d.dest && a.source && decide (p.toNat ≤ 3)
  | .vcvtE4m3F32 d a p => d.destRead && a.source && decide (p.toNat ≤ 3)
  | .vcvtF32E5m2 d a p => d.dest && a.source && decide (p.toNat ≤ 3)
  | .vcvtE5m2F32 d a p => d.destRead && a.source && decide (p.toNat ≤ 3)
  | .vcvtI32F32 d a => d.dest && a.source
  | .vcvtF32I32 d a => d.dest && a.source
  | .vcvtI16I32 d a p => d.destRead && a.source && decide (p.toNat ≤ 1)
  | .vcvtI32I16 d a p => d.dest && a.source && decide (p.toNat ≤ 1)
  | .vcvtF32Cb4 d a p => d.dest && a.source && decide (p.toNat ≤ 7)
  | .vcvtCb4F32 d a p => d.destRead && a.source && decide (p.toNat ≤ 7)
  | .vcvtI8I32 d a p => d.destRead && a.source && decide (p.toNat ≤ 3)
  | .vcvtI32I8 d a p => d.dest && a.source && decide (p.toNat ≤ 3)
  | .vbcast d a b => d.dest && a.source && b.readable
  | .vextr d a b => d.writable && a.source && b.readable
  | .vins d a b => d.destRead && a.readable && b.readable
  | .vrot d a b => d.dest && a.source && b.readable
  | .vshuf d a b => d.dest && a.source && b.source
  | .vscan d a k => d.dest && a.source && decide (k.toNat ≤ 1)
  | .vredadd d a k => d.writable && a.source && decide (k.toNat ≤ 1)
  | .vredmax d a k => d.writable && a.source && decide (k.toNat ≤ 2)
  | .vredmin d a k => d.writable && a.source && decide (k.toNat ≤ 2)
  | .viota d => d.dest
  | .vzip d a b => d.dest && a.source && b.source
  | .vunzip d a b => d.dest && a.source && b.source
  | .vaddFCompact _ a => a.compact
  | .vsubFCompact _ a => a.compact
  | .vmulFCompact _ a => a.compact
  | .vmaxFCompact _ a => a.compact
  | .vminFCompact _ a => a.compact
  | .vaddICompact _ a => a.compact
  | .vsubICompact _ a => a.compact
  | .vmaxICompact _ a => a.compact
  | .vminICompact _ a => a.compact
  | .vandCompact _ a => a.compact
  | .vorCompact _ a => a.compact
  | .vxorCompact _ a => a.compact
  | .vmovCompact _ a => a.compact
  | .vnegFCompact _ a => a.compact
  | .vabsFCompact _ a => a.compact
  | .vshlICompact _ a => a.compact
  | .kadd _ _ _ => true
  | .ksub _ _ _ => true
  | .kmax _ _ _ => true
  | .kmin _ _ _ => true
  | .kmov _ _ => true
  | .kset _ r => r.readable
  | .kfromv _ _ => true
  | .ktov _ _ => true
  | .kbind _ _ r => r.readable
  | .kunbind _ => true
  | .kgen r _ => r.writable
  | .ttset a b => a.readable && b.group4
  | .ttget d a => d.group4 && a.readable
  | .ttinv a => a.readable
  | .tcb a b => a.readable && b.readable
  | .tld _ _ a b _ => a.readable && b.pair
  | .tst _ a b => a.readable && b.pair
  | .kld _ r => r.readable
  | .kst _ r => r.readable
  | .ksave r => r.readable
  | .krestore r => r.readable
  | .pcmd first sel => first.group8 && sel.readable
  | .pwait d a => d.writable && a.readable
  | .pfence => true
  | .pstat d => d.writable
  | .copy first sel => first.group8 && sel.inOut
  | .bseal d => d.inOut
  | .bdrain d a => d.inOut && a.readable
  | .cwptr d a => d.inOut && a.readable
  | .ctake d a _ => d.inOut && a.readable
  | .cgive d a _ => d.inOut && a.readable
  | .csum d a _ => d.inOut && a.readable
  | .creset d a _ => d.inOut && a.readable
  | .barv d a => d.inOut && a.readable
  | .barw a b => a.readable && b.readable
  | .barg d a => d.inOut && a.readable
  | .barp d a => d.inOut && a.readable
  | .msend d a b => d.isW && a.readable && b.readable
  | .mpoll d => d.writable
  | .winrd d ch => d.writable && decide (ch.toNat < 4)
  | .srd d num => d.writable && srdNumber num
  | .swr d num => d.readable && swrNumber num
  | .crd d a => d.writable && a.readable
  | .dacc d a => d.writable && a.readable
  | .trcm a => a.readable
  | .tlbinv a b => a.readable && b.readable
  | .errinj a b => a.readable && b.readable
  | .retry => true
  | .skip => true
  | .flush => true
  | .ovClear => true
  | .loadw _ _ _ _ _ _ => true
  | .flip => true
  | .stream _ _ _ _ _ _ _ _ => true
  | .streamt _ _ _ _ _ _ _ _ => true
  | .tload _ _ _ _ _ => true
  | .tloadt _ _ _ _ _ => true
  | .tdrain _ _ _ _ _ _ _ => true
  | .tzero _ _ => true
  | .pmode _ _ => true
  | .ptable _ _ => true
  | .pmark _ => true
  | .psave _ => true
  | .prestore _ => true
  | .pressFault => true
  | .pressRetire _ => true
  | .rampWindow _ => true
  | .powerReport _ => true
  | .messageArrival _ _ => true
  | .activationStart => true
  | .activationResume => true
  | .actorFiring _ => true
  | .tokenWrite _ => true
  | .replyWrite _ => true
  | .channelDwordArrival _ => true
  | .channelCredit _ => true
  | .loadResponse _ _ => true
  | .storeAck _ _ => true
  | .phasedStoreInstall _ _ => true
  | .sliceRead _ => true
  | .forcing _ => true
  | .atomicExecute _ => true
  | .balancerArrival _ => true
  | .exitCounterAct _ => true
  | .csumArrival _ => true
  | .cresetClosure _ => true
  | .cresetReopen _ _ => true
  | .cellError _ _ => true
  | .barrierExit _ => true
  | .barrierComplete _ _ => true
  | .copyRowWrite _ _ => true
  | .copyRowArrival _ => true
  | .copyEnd _ _ => true
  | .packetConsume _ _ => true
  | .nopPacket _ _ => true
  | .launch _ _ => true
  | .copyPacket _ _ => true
  | .signalStore _ _ => true
  | .signalAdd _ _ => true
  | .signalStoreFull _ _ => true
  | .wait _ _ => true
  | .waitRetest _ _ => true
  | .kernelEligibilityTest _ _ => true
  | .ageTick _ _ => true
  | .cohortPlace _ => true
  | .cohortStart _ _ _ => true
  | .cohortEnd _ _ _ => true
  | .kernelComplete _ _ => true
  | .trapDelivery _ _ => true
  | .redelivery => true
  | .coreErr _ => true
  | .tailcntWrite _ => true
  | .corePreemptStop _ => true
  | .corePreemptAck _ => true
  | .copyOut _ => true
  | .checkRunStart _ => true
  | .checkTimeout _ => true
  | .checkVerdict _ => true
  | .tiebreakStart _ => true
  | .patrolRead _ _ => true
  | .pageWalk _ _ => true
  | .takeWindowRead _ _ _ _ => true
  | .takeWindowWrite _ _ _ => true
  | .takeReadTimeout _ => true
  | .hostActiveMessage _ _ _ => true
  | .hostPostedWrite _ _ _ _ => true
  | .unsupportedRequest _ _ => true
  | .counterLowRead _ _ => true
  | .peerAccess _ _ => true
  | .flitReplay _ _ => true
  | .laneTrained _ _ => true
  | .trainingTimeout _ => true
  | .laneFailure _ => true
  | .ethernetFrame _ _ _ => true
  | .routerDrop _ _ => true
  | .create _ => true
  | .destroy _ _ => true
  | .preempt _ _ => true
  | .restore _ _ => true
  | .qcreate _ _ => true
  | .qdestroy _ _ _ => true
  | .qreset _ _ _ => true
  | .stop _ => true
  | .coreStopped _ => true
  | .resume _ => true
  | .corerwRead _ => true
  | .corerwWrite _ => true
  | .setparam _ _ _ _ => true
  | .watch _ => true
  | .qrelease _ => true
  | .route _ => true
  | .dmawin _ => true
  | .allot => true
  | .rect => true
  | .portctlDisable _ => true
  | .portctlEnable _ => true
  | .portctlQuarantine _ => true
  | .portctlRelease _ => true
  | .mgmtRegisterWrite _ _ _ => true
  | .deviceReset => true
  | .bootStage _ => true
  | .measurementExtend _ _ => true
  | .recoveryImage _ => true
  | .attestationRequest _ _ _ _ => true
  | .keyDelivery _ _ _ => true
  | .thermalTrip _ => true
  | .directWriteArrival _ _ => true
  | .fillerOperationEnd _ => true
  | .qslotSectionLoad _ _ _ => true
  | .cmdWriteRejected _ _ => true

/-- The w registers an instruction names, implied ones included, for REGRANGE (R36). -/
def Instr.regs : Instr → List Nat
  | .add d a b => d.regs ++ a.regs ++ b.regs
  | .sub d a b => d.regs ++ a.regs ++ b.regs
  | .and d a b => d.regs ++ a.regs ++ b.regs
  | .or d a b => d.regs ++ a.regs ++ b.regs
  | .xor d a b => d.regs ++ a.regs ++ b.regs
  | .andn d a b => d.regs ++ a.regs ++ b.regs
  | .orn d a b => d.regs ++ a.regs ++ b.regs
  | .xnor d a b => d.regs ++ a.regs ++ b.regs
  | .shl d a b => d.regs ++ a.regs ++ b.regs
  | .shr d a b => d.regs ++ a.regs ++ b.regs
  | .sra d a b => d.regs ++ a.regs ++ b.regs
  | .rol d a b => d.regs ++ a.regs ++ b.regs
  | .ror d a b => d.regs ++ a.regs ++ b.regs
  | .slt d a b => d.regs ++ a.regs ++ b.regs
  | .sltu d a b => d.regs ++ a.regs ++ b.regs
  | .seq d a b => d.regs ++ a.regs ++ b.regs
  | .sne d a b => d.regs ++ a.regs ++ b.regs
  | .min d a b => d.regs ++ a.regs ++ b.regs
  | .max d a b => d.regs ++ a.regs ++ b.regs
  | .minu d a b => d.regs ++ a.regs ++ b.regs
  | .maxu d a b => d.regs ++ a.regs ++ b.regs
  | .shadd1 d a b => d.regs ++ a.regs ++ b.regs
  | .shadd2 d a b => d.regs ++ a.regs ++ b.regs
  | .shadd3 d a b => d.regs ++ a.regs ++ b.regs
  | .addw d a b => d.regs ++ a.regs ++ b.regs
  | .subw d a b => d.regs ++ a.regs ++ b.regs
  | .mul d a b _ => d.regs ++ a.regs ++ b.regs
  | .mulh d a b _ => d.regs ++ a.regs ++ b.regs
  | .mulhu d a b _ => d.regs ++ a.regs ++ b.regs
  | .mulhsu d a b _ => d.regs ++ a.regs ++ b.regs
  | .div d a b _ => d.regs ++ a.regs ++ b.regs
  | .divu d a b _ => d.regs ++ a.regs ++ b.regs
  | .rem d a b _ => d.regs ++ a.regs ++ b.regs
  | .remu d a b _ => d.regs ++ a.regs ++ b.regs
  | .clz d a => d.regs ++ a.regs
  | .ctz d a => d.regs ++ a.regs
  | .popc d a => d.regs ++ a.regs
  | .brev d a => d.regs ++ a.regs
  | .bswap d a => d.regs ++ a.regs
  | .sextb d a => d.regs ++ a.regs
  | .sexth d a => d.regs ++ a.regs
  | .sextw d a => d.regs ++ a.regs
  | .extu d a _ _ => d.regs ++ a.regs
  | .exts d a _ _ => d.regs ++ a.regs
  | .ins d a _ _ => d.regs ++ a.regs
  | .addi d a _ => d.regs ++ a.regs
  | .andi d a _ => d.regs ++ a.regs
  | .ori d a _ => d.regs ++ a.regs
  | .xori d a _ => d.regs ++ a.regs
  | .slti d a _ => d.regs ++ a.regs
  | .sltui d a _ => d.regs ++ a.regs
  | .shli d a _ => d.regs ++ a.regs
  | .shri d a _ => d.regs ++ a.regs
  | .srai d a _ => d.regs ++ a.regs
  | .rori d a _ => d.regs ++ a.regs
  | .lih d _ => d.regs
  | .lix d _ => d.regs
  | .addpc d _ => d.regs
  | .beq a b _ => a.regs ++ b.regs
  | .bne a b _ => a.regs ++ b.regs
  | .blt a b _ => a.regs ++ b.regs
  | .bge a b _ => a.regs ++ b.regs
  | .bltu a b _ => a.regs ++ b.regs
  | .bgeu a b _ => a.regs ++ b.regs
  | .bbs a _ _ => a.regs
  | .bbc a _ _ => a.regs
  | .j _ => []
  | .jal _ => [31]
  | .jalr d a _ => d.regs ++ a.regs
  | .loop c _ => c.regs
  | .rep _ c _ => c.regs
  | .repBodyIssue => []
  | .endAct => []
  | .endAbort => []
  | .callat d a b => d.regs ++ a.regs ++ b.regs ++ [4, 5, 6, 7]
  | .reply a => a.regs
  | .spawn d a => d.regs ++ a.regs ++ [4, 5, 6, 7]
  | .spawnH d a => d.regs ++ a.regs ++ [4, 5, 6, 7]
  | .wclaim d a => d.regs ++ a.regs
  | .wrel a => a.regs
  | .apop d => d.run 8
  | .apush a => a.run 8
  | .nop => []
  | .trap a => a.regs
  | .brk => []
  | .rte => []
  | .idle => []
  | .ld t base _ _ _ _ => t.regs ++ base.regs
  | .ldu t base _ _ _ _ => t.regs ++ base.regs
  | .st t base _ _ _ => t.regs ++ base.regs
  | .ldv _ base _ _ _ => base.regs
  | .stv _ base _ _ => base.regs
  | .zfill base _ _ => base.regs
  | .pref base _ _ => base.regs
  | .l1inv => []
  | .icinv a _ => a.regs
  | .bankmode a b => a.regs ++ b.regs
  | .bankq d => d.regs
  | .ldc t base _ _ _ _ => t.regs ++ base.regs
  | .lds t base _ _ => t.regs ++ base.regs
  | .ldsE t base _ _ => t.regs ++ base.regs
  | .stf t base _ _ => t.regs ++ base.regs
  | .aadd d a _ _ _ _ => d.regs ++ a.regs
  | .aand d a _ _ _ _ => d.regs ++ a.regs
  | .aor d a _ _ _ _ => d.regs ++ a.regs
  | .axor d a _ _ _ _ => d.regs ++ a.regs
  | .amin d a _ _ _ _ => d.regs ++ a.regs
  | .amax d a _ _ _ _ => d.regs ++ a.regs
  | .aminu d a _ _ _ _ => d.regs ++ a.regs
  | .amaxu d a _ _ _ _ => d.regs ++ a.regs
  | .axchg d a _ _ _ _ => d.regs ++ a.regs
  | .afadd d a _ _ _ _ => d.regs ++ a.regs
  | .afmin d a _ _ _ _ => d.regs ++ a.regs
  | .afmax d a _ _ _ _ => d.regs ++ a.regs
  | .ald d a _ _ _ _ => d.regs ++ a.regs
  | .ast d a _ _ _ => d.regs ++ a.regs
  | .acas d a _ _ _ _ => d.run 2 ++ a.regs
  | .phase d => d.regs
  | .rel _ => []
  | .acq => []
  | .fence => []
  | .clrt d => d.regs
  | .phasen d => d.regs
  | .vaddF d a b => d.regs ++ a.regs ++ b.regs
  | .vsubF d a b => d.regs ++ a.regs ++ b.regs
  | .vmulF d a b => d.regs ++ a.regs ++ b.regs
  | .vfma d a b => d.regs ++ a.regs ++ b.regs
  | .vfms d a b => d.regs ++ a.regs ++ b.regs
  | .vmaxF d a b => d.regs ++ a.regs ++ b.regs
  | .vminF d a b => d.regs ++ a.regs ++ b.regs
  | .vnegF d a => d.regs ++ a.regs
  | .vabsF d a => d.regs ++ a.regs
  | .vrcp d a => d.regs ++ a.regs
  | .vrsq d a => d.regs ++ a.regs
  | .vrcps d a b => d.regs ++ a.regs ++ b.regs
  | .vrsqs d a b => d.regs ++ a.regs ++ b.regs
  | .vexp2 d a => d.regs ++ a.regs
  | .vlog2 d a => d.regs ++ a.regs
  | .vclamp d a b => d.regs ++ a.regs ++ b.regs
  | .vaddI d a b => d.regs ++ a.regs ++ b.regs
  | .vsubI d a b => d.regs ++ a.regs ++ b.regs
  | .vmulI d a b => d.regs ++ a.regs ++ b.regs
  | .vmulh d a b => d.regs ++ a.regs ++ b.regs
  | .vmad d a b => d.regs ++ a.regs ++ b.regs
  | .vmaxI d a b => d.regs ++ a.regs ++ b.regs
  | .vminI d a b => d.regs ++ a.regs ++ b.regs
  | .vabsI d a => d.regs ++ a.regs
  | .vshl d a b => d.regs ++ a.regs ++ b.regs
  | .vshr d a b => d.regs ++ a.regs ++ b.regs
  | .vsra d a b => d.regs ++ a.regs ++ b.regs
  | .vadds d a b => d.regs ++ a.regs ++ b.regs
  | .vsubs d a b => d.regs ++ a.regs ++ b.regs
  | .vmaxu d a b => d.regs ++ a.regs ++ b.regs
  | .vminu d a b => d.regs ++ a.regs ++ b.regs
  | .vnegI d a => d.regs ++ a.regs
  | .vand d a b => d.regs ++ a.regs ++ b.regs
  | .vor d a b => d.regs ++ a.regs ++ b.regs
  | .vxor d a b => d.regs ++ a.regs ++ b.regs
  | .vandn d a b => d.regs ++ a.regs ++ b.regs
  | .vnot d a => d.regs ++ a.regs
  | .vmov d a => d.regs ++ a.regs
  | .vsel d a b => d.regs ++ a.regs ++ b.regs
  | .vpopc d a => d.regs ++ a.regs
  | .vclz d a => d.regs ++ a.regs
  | .vceqF d a b => d.regs ++ a.regs ++ b.regs
  | .vcneF d a b => d.regs ++ a.regs ++ b.regs
  | .vcltF d a b => d.regs ++ a.regs ++ b.regs
  | .vcleF d a b => d.regs ++ a.regs ++ b.regs
  | .vcunF d a b => d.regs ++ a.regs ++ b.regs
  | .vceqI d a b => d.regs ++ a.regs ++ b.regs
  | .vcneI d a b => d.regs ++ a.regs ++ b.regs
  | .vcltI d a b => d.regs ++ a.regs ++ b.regs
  | .vcleI d a b => d.regs ++ a.regs ++ b.regs
  | .vcltu d a b => d.regs ++ a.regs ++ b.regs
  | .vcleu d a b => d.regs ++ a.regs ++ b.regs
  | .mand d a b => d.regs ++ a.regs ++ b.regs
  | .mor d a b => d.regs ++ a.regs ++ b.regs
  | .mxor d a b => d.regs ++ a.regs ++ b.regs
  | .mnot d a => d.regs ++ a.regs
  | .mandn d a b => d.regs ++ a.regs ++ b.regs
  | .msel a => a.regs
  | .mpopc d a => d.regs ++ a.regs
  | .mfirst d a => d.regs ++ a.regs
  | .vcvtF32F16 d a _ => d.regs ++ a.regs
  | .vcvtF16F32 d a _ => d.regs ++ a.regs
  | .vcvtF32Bf16 d a _ => d.regs ++ a.regs
  | .vcvtBf16F32 d a _ => d.regs ++ a.regs
  | .vcvtF32E4m3 d a _ => d.regs ++ a.regs
  | .vcvtE4m3F32 d a _ => d.regs ++ a.regs
  | .vcvtF32E5m2 d a _ => d.regs ++ a.regs
  | .vcvtE5m2F32 d a _ => d.regs ++ a.regs
  | .vcvtI32F32 d a => d.regs ++ a.regs
  | .vcvtF32I32 d a => d.regs ++ a.regs
  | .vcvtI16I32 d a _ => d.regs ++ a.regs
  | .vcvtI32I16 d a _ => d.regs ++ a.regs
  | .vcvtF32Cb4 d a _ => d.regs ++ a.regs
  | .vcvtCb4F32 d a _ => d.regs ++ a.regs
  | .vcvtI8I32 d a _ => d.regs ++ a.regs
  | .vcvtI32I8 d a _ => d.regs ++ a.regs
  | .vbcast d a b => d.regs ++ a.regs ++ b.regs
  | .vextr d a b => d.regs ++ a.regs ++ b.regs
  | .vins d a b => d.regs ++ a.regs ++ b.regs
  | .vrot d a b => d.regs ++ a.regs ++ b.regs
  | .vshuf d a b => d.regs ++ a.regs ++ b.regs
  | .vscan d a _ => d.regs ++ a.regs
  | .vredadd d a _ => d.regs ++ a.regs
  | .vredmax d a _ => d.regs ++ a.regs
  | .vredmin d a _ => d.regs ++ a.regs
  | .viota d => d.regs
  | .vzip d a b => d.regs ++ a.regs ++ b.regs
  | .vunzip d a b => d.regs ++ a.regs ++ b.regs
  | .vaddFCompact _ a => a.regs
  | .vsubFCompact _ a => a.regs
  | .vmulFCompact _ a => a.regs
  | .vmaxFCompact _ a => a.regs
  | .vminFCompact _ a => a.regs
  | .vaddICompact _ a => a.regs
  | .vsubICompact _ a => a.regs
  | .vmaxICompact _ a => a.regs
  | .vminICompact _ a => a.regs
  | .vandCompact _ a => a.regs
  | .vorCompact _ a => a.regs
  | .vxorCompact _ a => a.regs
  | .vmovCompact _ a => a.regs
  | .vnegFCompact _ a => a.regs
  | .vabsFCompact _ a => a.regs
  | .vshlICompact _ a => a.regs
  | .kadd _ _ _ => []
  | .ksub _ _ _ => []
  | .kmax _ _ _ => []
  | .kmin _ _ _ => []
  | .kmov _ _ => []
  | .kset _ r => r.regs
  | .kfromv _ _ => []
  | .ktov _ _ => []
  | .kbind _ _ r => r.regs
  | .kunbind _ => []
  | .kgen r _ => r.regs
  | .ttset a b => a.regs ++ b.run 4
  | .ttget d a => d.run 4 ++ a.regs
  | .ttinv a => a.regs
  | .tcb a b => a.regs ++ b.regs
  | .tld _ _ a b _ => a.regs ++ b.run 2
  | .tst _ a b => a.regs ++ b.run 2
  | .kld _ r => r.regs
  | .kst _ r => r.regs
  | .ksave r => r.regs
  | .krestore r => r.regs
  | .pcmd first sel => first.run 8 ++ sel.regs
  | .pwait d a => d.regs ++ a.regs
  | .pfence => []
  | .pstat d => d.regs
  | .copy first sel => first.run 8 ++ sel.regs
  | .bseal d => d.regs
  | .bdrain d a => d.regs ++ a.regs
  | .cwptr d a => d.regs ++ a.regs
  | .ctake d a _ => d.regs ++ a.regs
  | .cgive d a _ => d.regs ++ a.regs
  | .csum d a _ => d.regs ++ a.regs
  | .creset d a _ => d.regs ++ a.regs
  | .barv d a => d.regs ++ a.regs
  | .barw a b => a.regs ++ b.regs
  | .barg d a => d.regs ++ a.regs
  | .barp d a => d.regs ++ a.regs
  | .msend d a b => d.regs ++ a.regs ++ b.regs
  | .mpoll d => d.regs
  | .winrd d _ => d.regs
  | .srd d _ => d.regs
  | .swr d _ => d.regs
  | .crd d a => d.regs ++ a.regs
  | .dacc d a => d.regs ++ a.regs
  | .trcm a => a.regs
  | .tlbinv a b => a.regs ++ b.regs
  | .errinj a b => a.regs ++ b.regs
  | .retry => []
  | .skip => []
  | .flush => []
  | .ovClear => []
  | .loadw _ _ _ _ _ _ => []
  | .flip => []
  | .stream _ _ _ _ _ _ _ _ => []
  | .streamt _ _ _ _ _ _ _ _ => []
  | .tload _ _ _ _ _ => []
  | .tloadt _ _ _ _ _ => []
  | .tdrain _ _ _ _ _ _ _ => []
  | .tzero _ _ => []
  | .pmode _ _ => []
  | .ptable _ _ => []
  | .pmark _ => []
  | .psave _ => []
  | .prestore _ => []
  | .pressFault => []
  | .pressRetire _ => []
  | .rampWindow _ => []
  | .powerReport _ => []
  | .messageArrival _ _ => []
  | .activationStart => []
  | .activationResume => []
  | .actorFiring _ => []
  | .tokenWrite _ => []
  | .replyWrite _ => []
  | .channelDwordArrival _ => []
  | .channelCredit _ => []
  | .loadResponse _ _ => []
  | .storeAck _ _ => []
  | .phasedStoreInstall _ _ => []
  | .sliceRead _ => []
  | .forcing _ => []
  | .atomicExecute _ => []
  | .balancerArrival _ => []
  | .exitCounterAct _ => []
  | .csumArrival _ => []
  | .cresetClosure _ => []
  | .cresetReopen _ _ => []
  | .cellError _ _ => []
  | .barrierExit _ => []
  | .barrierComplete _ _ => []
  | .copyRowWrite _ _ => []
  | .copyRowArrival _ => []
  | .copyEnd _ _ => []
  | .packetConsume _ _ => []
  | .nopPacket _ _ => []
  | .launch _ _ => []
  | .copyPacket _ _ => []
  | .signalStore _ _ => []
  | .signalAdd _ _ => []
  | .signalStoreFull _ _ => []
  | .wait _ _ => []
  | .waitRetest _ _ => []
  | .kernelEligibilityTest _ _ => []
  | .ageTick _ _ => []
  | .cohortPlace _ => []
  | .cohortStart _ _ _ => []
  | .cohortEnd _ _ _ => []
  | .kernelComplete _ _ => []
  | .trapDelivery _ _ => []
  | .redelivery => []
  | .coreErr _ => []
  | .tailcntWrite _ => []
  | .corePreemptStop _ => []
  | .corePreemptAck _ => []
  | .copyOut _ => []
  | .checkRunStart _ => []
  | .checkTimeout _ => []
  | .checkVerdict _ => []
  | .tiebreakStart _ => []
  | .patrolRead _ _ => []
  | .pageWalk _ _ => []
  | .takeWindowRead _ _ _ _ => []
  | .takeWindowWrite _ _ _ => []
  | .takeReadTimeout _ => []
  | .hostActiveMessage _ _ _ => []
  | .hostPostedWrite _ _ _ _ => []
  | .unsupportedRequest _ _ => []
  | .counterLowRead _ _ => []
  | .peerAccess _ _ => []
  | .flitReplay _ _ => []
  | .laneTrained _ _ => []
  | .trainingTimeout _ => []
  | .laneFailure _ => []
  | .ethernetFrame _ _ _ => []
  | .routerDrop _ _ => []
  | .create _ => []
  | .destroy _ _ => []
  | .preempt _ _ => []
  | .restore _ _ => []
  | .qcreate _ _ => []
  | .qdestroy _ _ _ => []
  | .qreset _ _ _ => []
  | .stop _ => []
  | .coreStopped _ => []
  | .resume _ => []
  | .corerwRead _ => []
  | .corerwWrite _ => []
  | .setparam _ _ _ _ => []
  | .watch _ => []
  | .qrelease _ => []
  | .route _ => []
  | .dmawin _ => []
  | .allot => []
  | .rect => []
  | .portctlDisable _ => []
  | .portctlEnable _ => []
  | .portctlQuarantine _ => []
  | .portctlRelease _ => []
  | .mgmtRegisterWrite _ _ _ => []
  | .deviceReset => []
  | .bootStage _ => []
  | .measurementExtend _ _ => []
  | .recoveryImage _ => []
  | .attestationRequest _ _ _ _ => []
  | .keyDelivery _ _ _ => []
  | .thermalTrip _ => []
  | .directWriteArrival _ _ => []
  | .fillerOperationEnd _ => []
  | .qslotSectionLoad _ _ _ => []
  | .cmdWriteRejected _ _ => []

/-- The privileged encodings (R50). -/
def Instr.priv : Instr → Bool
  | .add _ _ _ => false
  | .sub _ _ _ => false
  | .and _ _ _ => false
  | .or _ _ _ => false
  | .xor _ _ _ => false
  | .andn _ _ _ => false
  | .orn _ _ _ => false
  | .xnor _ _ _ => false
  | .shl _ _ _ => false
  | .shr _ _ _ => false
  | .sra _ _ _ => false
  | .rol _ _ _ => false
  | .ror _ _ _ => false
  | .slt _ _ _ => false
  | .sltu _ _ _ => false
  | .seq _ _ _ => false
  | .sne _ _ _ => false
  | .min _ _ _ => false
  | .max _ _ _ => false
  | .minu _ _ _ => false
  | .maxu _ _ _ => false
  | .shadd1 _ _ _ => false
  | .shadd2 _ _ _ => false
  | .shadd3 _ _ _ => false
  | .addw _ _ _ => false
  | .subw _ _ _ => false
  | .mul _ _ _ _ => false
  | .mulh _ _ _ _ => false
  | .mulhu _ _ _ _ => false
  | .mulhsu _ _ _ _ => false
  | .div _ _ _ _ => false
  | .divu _ _ _ _ => false
  | .rem _ _ _ _ => false
  | .remu _ _ _ _ => false
  | .clz _ _ => false
  | .ctz _ _ => false
  | .popc _ _ => false
  | .brev _ _ => false
  | .bswap _ _ => false
  | .sextb _ _ => false
  | .sexth _ _ => false
  | .sextw _ _ => false
  | .extu _ _ _ _ => false
  | .exts _ _ _ _ => false
  | .ins _ _ _ _ => false
  | .addi _ _ _ => false
  | .andi _ _ _ => false
  | .ori _ _ _ => false
  | .xori _ _ _ => false
  | .slti _ _ _ => false
  | .sltui _ _ _ => false
  | .shli _ _ _ => false
  | .shri _ _ _ => false
  | .srai _ _ _ => false
  | .rori _ _ _ => false
  | .lih _ _ => false
  | .lix _ _ => false
  | .addpc _ _ => false
  | .beq _ _ _ => false
  | .bne _ _ _ => false
  | .blt _ _ _ => false
  | .bge _ _ _ => false
  | .bltu _ _ _ => false
  | .bgeu _ _ _ => false
  | .bbs _ _ _ => false
  | .bbc _ _ _ => false
  | .j _ => false
  | .jal _ => false
  | .jalr _ _ _ => false
  | .loop _ _ => false
  | .rep _ _ _ => false
  | .repBodyIssue => false
  | .endAct => false
  | .endAbort => false
  | .callat _ _ _ => false
  | .reply _ => false
  | .spawn _ _ => false
  | .spawnH _ _ => false
  | .wclaim _ _ => false
  | .wrel _ => false
  | .apop _ => false
  | .apush _ => false
  | .nop => false
  | .trap _ => false
  | .brk => false
  | .rte => true
  | .idle => true
  | .ld _ _ _ _ _ _ => false
  | .ldu _ _ _ _ _ _ => false
  | .st _ _ _ _ _ => false
  | .ldv _ _ _ _ _ => false
  | .stv _ _ _ _ => false
  | .zfill _ _ _ => false
  | .pref _ _ _ => false
  | .l1inv => false
  | .icinv _ _ => false
  | .bankmode _ _ => false
  | .bankq _ => false
  | .ldc _ _ _ _ _ _ => false
  | .lds _ _ _ _ => false
  | .ldsE _ _ _ _ => false
  | .stf _ _ _ _ => false
  | .aadd _ _ _ _ _ _ => false
  | .aand _ _ _ _ _ _ => false
  | .aor _ _ _ _ _ _ => false
  | .axor _ _ _ _ _ _ => false
  | .amin _ _ _ _ _ _ => false
  | .amax _ _ _ _ _ _ => false
  | .aminu _ _ _ _ _ _ => false
  | .amaxu _ _ _ _ _ _ => false
  | .axchg _ _ _ _ _ _ => false
  | .afadd _ _ _ _ _ _ => false
  | .afmin _ _ _ _ _ _ => false
  | .afmax _ _ _ _ _ _ => false
  | .ald _ _ _ _ _ _ => false
  | .ast _ _ _ _ _ => false
  | .acas _ _ _ _ _ _ => false
  | .phase _ => false
  | .rel _ => false
  | .acq => false
  | .fence => false
  | .clrt _ => false
  | .phasen _ => false
  | .vaddF _ _ _ => false
  | .vsubF _ _ _ => false
  | .vmulF _ _ _ => false
  | .vfma _ _ _ => false
  | .vfms _ _ _ => false
  | .vmaxF _ _ _ => false
  | .vminF _ _ _ => false
  | .vnegF _ _ => false
  | .vabsF _ _ => false
  | .vrcp _ _ => false
  | .vrsq _ _ => false
  | .vrcps _ _ _ => false
  | .vrsqs _ _ _ => false
  | .vexp2 _ _ => false
  | .vlog2 _ _ => false
  | .vclamp _ _ _ => false
  | .vaddI _ _ _ => false
  | .vsubI _ _ _ => false
  | .vmulI _ _ _ => false
  | .vmulh _ _ _ => false
  | .vmad _ _ _ => false
  | .vmaxI _ _ _ => false
  | .vminI _ _ _ => false
  | .vabsI _ _ => false
  | .vshl _ _ _ => false
  | .vshr _ _ _ => false
  | .vsra _ _ _ => false
  | .vadds _ _ _ => false
  | .vsubs _ _ _ => false
  | .vmaxu _ _ _ => false
  | .vminu _ _ _ => false
  | .vnegI _ _ => false
  | .vand _ _ _ => false
  | .vor _ _ _ => false
  | .vxor _ _ _ => false
  | .vandn _ _ _ => false
  | .vnot _ _ => false
  | .vmov _ _ => false
  | .vsel _ _ _ => false
  | .vpopc _ _ => false
  | .vclz _ _ => false
  | .vceqF _ _ _ => false
  | .vcneF _ _ _ => false
  | .vcltF _ _ _ => false
  | .vcleF _ _ _ => false
  | .vcunF _ _ _ => false
  | .vceqI _ _ _ => false
  | .vcneI _ _ _ => false
  | .vcltI _ _ _ => false
  | .vcleI _ _ _ => false
  | .vcltu _ _ _ => false
  | .vcleu _ _ _ => false
  | .mand _ _ _ => false
  | .mor _ _ _ => false
  | .mxor _ _ _ => false
  | .mnot _ _ => false
  | .mandn _ _ _ => false
  | .msel _ => false
  | .mpopc _ _ => false
  | .mfirst _ _ => false
  | .vcvtF32F16 _ _ _ => false
  | .vcvtF16F32 _ _ _ => false
  | .vcvtF32Bf16 _ _ _ => false
  | .vcvtBf16F32 _ _ _ => false
  | .vcvtF32E4m3 _ _ _ => false
  | .vcvtE4m3F32 _ _ _ => false
  | .vcvtF32E5m2 _ _ _ => false
  | .vcvtE5m2F32 _ _ _ => false
  | .vcvtI32F32 _ _ => false
  | .vcvtF32I32 _ _ => false
  | .vcvtI16I32 _ _ _ => false
  | .vcvtI32I16 _ _ _ => false
  | .vcvtF32Cb4 _ _ _ => false
  | .vcvtCb4F32 _ _ _ => false
  | .vcvtI8I32 _ _ _ => false
  | .vcvtI32I8 _ _ _ => false
  | .vbcast _ _ _ => false
  | .vextr _ _ _ => false
  | .vins _ _ _ => false
  | .vrot _ _ _ => false
  | .vshuf _ _ _ => false
  | .vscan _ _ _ => false
  | .vredadd _ _ _ => false
  | .vredmax _ _ _ => false
  | .vredmin _ _ _ => false
  | .viota _ => false
  | .vzip _ _ _ => false
  | .vunzip _ _ _ => false
  | .vaddFCompact _ _ => false
  | .vsubFCompact _ _ => false
  | .vmulFCompact _ _ => false
  | .vmaxFCompact _ _ => false
  | .vminFCompact _ _ => false
  | .vaddICompact _ _ => false
  | .vsubICompact _ _ => false
  | .vmaxICompact _ _ => false
  | .vminICompact _ _ => false
  | .vandCompact _ _ => false
  | .vorCompact _ _ => false
  | .vxorCompact _ _ => false
  | .vmovCompact _ _ => false
  | .vnegFCompact _ _ => false
  | .vabsFCompact _ _ => false
  | .vshlICompact _ _ => false
  | .kadd _ _ _ => false
  | .ksub _ _ _ => false
  | .kmax _ _ _ => false
  | .kmin _ _ _ => false
  | .kmov _ _ => false
  | .kset _ _ => false
  | .kfromv _ _ => false
  | .ktov _ _ => false
  | .kbind _ _ _ => false
  | .kunbind _ => false
  | .kgen _ _ => false
  | .ttset _ _ => false
  | .ttget _ _ => false
  | .ttinv _ => false
  | .tcb _ _ => false
  | .tld _ _ _ _ _ => false
  | .tst _ _ _ => false
  | .kld _ _ => false
  | .kst _ _ => false
  | .ksave _ => false
  | .krestore _ => false
  | .pcmd _ _ => false
  | .pwait _ _ => false
  | .pfence => false
  | .pstat _ => false
  | .copy _ _ => false
  | .bseal _ => false
  | .bdrain _ _ => false
  | .cwptr _ _ => false
  | .ctake _ _ _ => false
  | .cgive _ _ _ => false
  | .csum _ _ _ => false
  | .creset _ _ _ => false
  | .barv _ _ => false
  | .barw _ _ => false
  | .barg _ _ => false
  | .barp _ _ => false
  | .msend _ _ _ => false
  | .mpoll _ => false
  | .winrd _ _ => false
  | .srd _ num => decide (0x200 ≤ num.toNat)
  | .swr _ num => decide (0x200 ≤ num.toNat)
  | .crd _ _ => false
  | .dacc _ _ => false
  | .trcm _ => true
  | .tlbinv _ _ => true
  | .errinj _ _ => true
  | .retry => false
  | .skip => false
  | .flush => false
  | .ovClear => false
  | .loadw _ _ _ _ _ _ => false
  | .flip => false
  | .stream _ _ _ _ _ _ _ _ => false
  | .streamt _ _ _ _ _ _ _ _ => false
  | .tload _ _ _ _ _ => false
  | .tloadt _ _ _ _ _ => false
  | .tdrain _ _ _ _ _ _ _ => false
  | .tzero _ _ => false
  | .pmode _ _ => false
  | .ptable _ _ => false
  | .pmark _ => false
  | .psave _ => false
  | .prestore _ => false
  | .pressFault => false
  | .pressRetire _ => false
  | .rampWindow _ => false
  | .powerReport _ => false
  | .messageArrival _ _ => false
  | .activationStart => false
  | .activationResume => false
  | .actorFiring _ => false
  | .tokenWrite _ => false
  | .replyWrite _ => false
  | .channelDwordArrival _ => false
  | .channelCredit _ => false
  | .loadResponse _ _ => false
  | .storeAck _ _ => false
  | .phasedStoreInstall _ _ => false
  | .sliceRead _ => false
  | .forcing _ => false
  | .atomicExecute _ => false
  | .balancerArrival _ => false
  | .exitCounterAct _ => false
  | .csumArrival _ => false
  | .cresetClosure _ => false
  | .cresetReopen _ _ => false
  | .cellError _ _ => false
  | .barrierExit _ => false
  | .barrierComplete _ _ => false
  | .copyRowWrite _ _ => false
  | .copyRowArrival _ => false
  | .copyEnd _ _ => false
  | .packetConsume _ _ => false
  | .nopPacket _ _ => false
  | .launch _ _ => false
  | .copyPacket _ _ => false
  | .signalStore _ _ => false
  | .signalAdd _ _ => false
  | .signalStoreFull _ _ => false
  | .wait _ _ => false
  | .waitRetest _ _ => false
  | .kernelEligibilityTest _ _ => false
  | .ageTick _ _ => false
  | .cohortPlace _ => false
  | .cohortStart _ _ _ => false
  | .cohortEnd _ _ _ => false
  | .kernelComplete _ _ => false
  | .trapDelivery _ _ => false
  | .redelivery => false
  | .coreErr _ => false
  | .tailcntWrite _ => false
  | .corePreemptStop _ => false
  | .corePreemptAck _ => false
  | .copyOut _ => false
  | .checkRunStart _ => false
  | .checkTimeout _ => false
  | .checkVerdict _ => false
  | .tiebreakStart _ => false
  | .patrolRead _ _ => false
  | .pageWalk _ _ => false
  | .takeWindowRead _ _ _ _ => false
  | .takeWindowWrite _ _ _ => false
  | .takeReadTimeout _ => false
  | .hostActiveMessage _ _ _ => false
  | .hostPostedWrite _ _ _ _ => false
  | .unsupportedRequest _ _ => false
  | .counterLowRead _ _ => false
  | .peerAccess _ _ => false
  | .flitReplay _ _ => false
  | .laneTrained _ _ => false
  | .trainingTimeout _ => false
  | .laneFailure _ => false
  | .ethernetFrame _ _ _ => false
  | .routerDrop _ _ => false
  | .create _ => false
  | .destroy _ _ => false
  | .preempt _ _ => false
  | .restore _ _ => false
  | .qcreate _ _ => false
  | .qdestroy _ _ _ => false
  | .qreset _ _ _ => false
  | .stop _ => false
  | .coreStopped _ => false
  | .resume _ => false
  | .corerwRead _ => false
  | .corerwWrite _ => false
  | .setparam _ _ _ _ => false
  | .watch _ => false
  | .qrelease _ => false
  | .route _ => false
  | .dmawin _ => false
  | .allot => false
  | .rect => false
  | .portctlDisable _ => false
  | .portctlEnable _ => false
  | .portctlQuarantine _ => false
  | .portctlRelease _ => false
  | .mgmtRegisterWrite _ _ _ => false
  | .deviceReset => false
  | .bootStage _ => false
  | .measurementExtend _ _ => false
  | .recoveryImage _ => false
  | .attestationRequest _ _ _ _ => false
  | .keyDelivery _ _ _ => false
  | .thermalTrip _ => false
  | .directWriteArrival _ _ => false
  | .fillerOperationEnd _ => false
  | .qslotSectionLoad _ _ _ => false
  | .cmdWriteRejected _ _ => false

/-- Length in bytes: 2 for the compact form, 4 for the others, 0 for a step without a word (R29). -/
def Instr.len : Instr → Nat
  | .add _ _ _ => 4
  | .sub _ _ _ => 4
  | .and _ _ _ => 4
  | .or _ _ _ => 4
  | .xor _ _ _ => 4
  | .andn _ _ _ => 4
  | .orn _ _ _ => 4
  | .xnor _ _ _ => 4
  | .shl _ _ _ => 4
  | .shr _ _ _ => 4
  | .sra _ _ _ => 4
  | .rol _ _ _ => 4
  | .ror _ _ _ => 4
  | .slt _ _ _ => 4
  | .sltu _ _ _ => 4
  | .seq _ _ _ => 4
  | .sne _ _ _ => 4
  | .min _ _ _ => 4
  | .max _ _ _ => 4
  | .minu _ _ _ => 4
  | .maxu _ _ _ => 4
  | .shadd1 _ _ _ => 4
  | .shadd2 _ _ _ => 4
  | .shadd3 _ _ _ => 4
  | .addw _ _ _ => 4
  | .subw _ _ _ => 4
  | .mul _ _ _ _ => 4
  | .mulh _ _ _ _ => 4
  | .mulhu _ _ _ _ => 4
  | .mulhsu _ _ _ _ => 4
  | .div _ _ _ _ => 4
  | .divu _ _ _ _ => 4
  | .rem _ _ _ _ => 4
  | .remu _ _ _ _ => 4
  | .clz _ _ => 4
  | .ctz _ _ => 4
  | .popc _ _ => 4
  | .brev _ _ => 4
  | .bswap _ _ => 4
  | .sextb _ _ => 4
  | .sexth _ _ => 4
  | .sextw _ _ => 4
  | .extu _ _ _ _ => 4
  | .exts _ _ _ _ => 4
  | .ins _ _ _ _ => 4
  | .addi _ _ _ => 4
  | .andi _ _ _ => 4
  | .ori _ _ _ => 4
  | .xori _ _ _ => 4
  | .slti _ _ _ => 4
  | .sltui _ _ _ => 4
  | .shli _ _ _ => 4
  | .shri _ _ _ => 4
  | .srai _ _ _ => 4
  | .rori _ _ _ => 4
  | .lih _ _ => 4
  | .lix _ _ => 4
  | .addpc _ _ => 4
  | .beq _ _ _ => 4
  | .bne _ _ _ => 4
  | .blt _ _ _ => 4
  | .bge _ _ _ => 4
  | .bltu _ _ _ => 4
  | .bgeu _ _ _ => 4
  | .bbs _ _ _ => 4
  | .bbc _ _ _ => 4
  | .j _ => 4
  | .jal _ => 4
  | .jalr _ _ _ => 4
  | .loop _ _ => 4
  | .rep _ _ _ => 4
  | .repBodyIssue => 0
  | .endAct => 4
  | .endAbort => 4
  | .callat _ _ _ => 4
  | .reply _ => 4
  | .spawn _ _ => 4
  | .spawnH _ _ => 4
  | .wclaim _ _ => 4
  | .wrel _ => 4
  | .apop _ => 4
  | .apush _ => 4
  | .nop => 4
  | .trap _ => 4
  | .brk => 4
  | .rte => 4
  | .idle => 4
  | .ld _ _ _ _ _ _ => 4
  | .ldu _ _ _ _ _ _ => 4
  | .st _ _ _ _ _ => 4
  | .ldv _ _ _ _ _ => 4
  | .stv _ _ _ _ => 4
  | .zfill _ _ _ => 4
  | .pref _ _ _ => 4
  | .l1inv => 4
  | .icinv _ _ => 4
  | .bankmode _ _ => 4
  | .bankq _ => 4
  | .ldc _ _ _ _ _ _ => 4
  | .lds _ _ _ _ => 4
  | .ldsE _ _ _ _ => 4
  | .stf _ _ _ _ => 4
  | .aadd _ _ _ _ _ _ => 4
  | .aand _ _ _ _ _ _ => 4
  | .aor _ _ _ _ _ _ => 4
  | .axor _ _ _ _ _ _ => 4
  | .amin _ _ _ _ _ _ => 4
  | .amax _ _ _ _ _ _ => 4
  | .aminu _ _ _ _ _ _ => 4
  | .amaxu _ _ _ _ _ _ => 4
  | .axchg _ _ _ _ _ _ => 4
  | .afadd _ _ _ _ _ _ => 4
  | .afmin _ _ _ _ _ _ => 4
  | .afmax _ _ _ _ _ _ => 4
  | .ald _ _ _ _ _ _ => 4
  | .ast _ _ _ _ _ => 4
  | .acas _ _ _ _ _ _ => 4
  | .phase _ => 4
  | .rel _ => 4
  | .acq => 4
  | .fence => 4
  | .clrt _ => 4
  | .phasen _ => 4
  | .vaddF _ _ _ => 4
  | .vsubF _ _ _ => 4
  | .vmulF _ _ _ => 4
  | .vfma _ _ _ => 4
  | .vfms _ _ _ => 4
  | .vmaxF _ _ _ => 4
  | .vminF _ _ _ => 4
  | .vnegF _ _ => 4
  | .vabsF _ _ => 4
  | .vrcp _ _ => 4
  | .vrsq _ _ => 4
  | .vrcps _ _ _ => 4
  | .vrsqs _ _ _ => 4
  | .vexp2 _ _ => 4
  | .vlog2 _ _ => 4
  | .vclamp _ _ _ => 4
  | .vaddI _ _ _ => 4
  | .vsubI _ _ _ => 4
  | .vmulI _ _ _ => 4
  | .vmulh _ _ _ => 4
  | .vmad _ _ _ => 4
  | .vmaxI _ _ _ => 4
  | .vminI _ _ _ => 4
  | .vabsI _ _ => 4
  | .vshl _ _ _ => 4
  | .vshr _ _ _ => 4
  | .vsra _ _ _ => 4
  | .vadds _ _ _ => 4
  | .vsubs _ _ _ => 4
  | .vmaxu _ _ _ => 4
  | .vminu _ _ _ => 4
  | .vnegI _ _ => 4
  | .vand _ _ _ => 4
  | .vor _ _ _ => 4
  | .vxor _ _ _ => 4
  | .vandn _ _ _ => 4
  | .vnot _ _ => 4
  | .vmov _ _ => 4
  | .vsel _ _ _ => 4
  | .vpopc _ _ => 4
  | .vclz _ _ => 4
  | .vceqF _ _ _ => 4
  | .vcneF _ _ _ => 4
  | .vcltF _ _ _ => 4
  | .vcleF _ _ _ => 4
  | .vcunF _ _ _ => 4
  | .vceqI _ _ _ => 4
  | .vcneI _ _ _ => 4
  | .vcltI _ _ _ => 4
  | .vcleI _ _ _ => 4
  | .vcltu _ _ _ => 4
  | .vcleu _ _ _ => 4
  | .mand _ _ _ => 4
  | .mor _ _ _ => 4
  | .mxor _ _ _ => 4
  | .mnot _ _ => 4
  | .mandn _ _ _ => 4
  | .msel _ => 4
  | .mpopc _ _ => 4
  | .mfirst _ _ => 4
  | .vcvtF32F16 _ _ _ => 4
  | .vcvtF16F32 _ _ _ => 4
  | .vcvtF32Bf16 _ _ _ => 4
  | .vcvtBf16F32 _ _ _ => 4
  | .vcvtF32E4m3 _ _ _ => 4
  | .vcvtE4m3F32 _ _ _ => 4
  | .vcvtF32E5m2 _ _ _ => 4
  | .vcvtE5m2F32 _ _ _ => 4
  | .vcvtI32F32 _ _ => 4
  | .vcvtF32I32 _ _ => 4
  | .vcvtI16I32 _ _ _ => 4
  | .vcvtI32I16 _ _ _ => 4
  | .vcvtF32Cb4 _ _ _ => 4
  | .vcvtCb4F32 _ _ _ => 4
  | .vcvtI8I32 _ _ _ => 4
  | .vcvtI32I8 _ _ _ => 4
  | .vbcast _ _ _ => 4
  | .vextr _ _ _ => 4
  | .vins _ _ _ => 4
  | .vrot _ _ _ => 4
  | .vshuf _ _ _ => 4
  | .vscan _ _ _ => 4
  | .vredadd _ _ _ => 4
  | .vredmax _ _ _ => 4
  | .vredmin _ _ _ => 4
  | .viota _ => 4
  | .vzip _ _ _ => 4
  | .vunzip _ _ _ => 4
  | .vaddFCompact _ _ => 2
  | .vsubFCompact _ _ => 2
  | .vmulFCompact _ _ => 2
  | .vmaxFCompact _ _ => 2
  | .vminFCompact _ _ => 2
  | .vaddICompact _ _ => 2
  | .vsubICompact _ _ => 2
  | .vmaxICompact _ _ => 2
  | .vminICompact _ _ => 2
  | .vandCompact _ _ => 2
  | .vorCompact _ _ => 2
  | .vxorCompact _ _ => 2
  | .vmovCompact _ _ => 2
  | .vnegFCompact _ _ => 2
  | .vabsFCompact _ _ => 2
  | .vshlICompact _ _ => 2
  | .kadd _ _ _ => 4
  | .ksub _ _ _ => 4
  | .kmax _ _ _ => 4
  | .kmin _ _ _ => 4
  | .kmov _ _ => 4
  | .kset _ _ => 4
  | .kfromv _ _ => 4
  | .ktov _ _ => 4
  | .kbind _ _ _ => 4
  | .kunbind _ => 4
  | .kgen _ _ => 4
  | .ttset _ _ => 4
  | .ttget _ _ => 4
  | .ttinv _ => 4
  | .tcb _ _ => 4
  | .tld _ _ _ _ _ => 4
  | .tst _ _ _ => 4
  | .kld _ _ => 4
  | .kst _ _ => 4
  | .ksave _ => 4
  | .krestore _ => 4
  | .pcmd _ _ => 4
  | .pwait _ _ => 4
  | .pfence => 4
  | .pstat _ => 4
  | .copy _ _ => 4
  | .bseal _ => 4
  | .bdrain _ _ => 4
  | .cwptr _ _ => 4
  | .ctake _ _ _ => 4
  | .cgive _ _ _ => 4
  | .csum _ _ _ => 4
  | .creset _ _ _ => 4
  | .barv _ _ => 4
  | .barw _ _ => 4
  | .barg _ _ => 4
  | .barp _ _ => 4
  | .msend _ _ _ => 4
  | .mpoll _ => 4
  | .winrd _ _ => 4
  | .srd _ _ => 4
  | .swr _ _ => 4
  | .crd _ _ => 4
  | .dacc _ _ => 4
  | .trcm _ => 4
  | .tlbinv _ _ => 4
  | .errinj _ _ => 4
  | .retry => 0
  | .skip => 0
  | .flush => 0
  | .ovClear => 0
  | .loadw _ _ _ _ _ _ => 0
  | .flip => 0
  | .stream _ _ _ _ _ _ _ _ => 0
  | .streamt _ _ _ _ _ _ _ _ => 0
  | .tload _ _ _ _ _ => 0
  | .tloadt _ _ _ _ _ => 0
  | .tdrain _ _ _ _ _ _ _ => 0
  | .tzero _ _ => 0
  | .pmode _ _ => 0
  | .ptable _ _ => 0
  | .pmark _ => 0
  | .psave _ => 0
  | .prestore _ => 0
  | .pressFault => 0
  | .pressRetire _ => 0
  | .rampWindow _ => 0
  | .powerReport _ => 0
  | .messageArrival _ _ => 0
  | .activationStart => 0
  | .activationResume => 0
  | .actorFiring _ => 0
  | .tokenWrite _ => 0
  | .replyWrite _ => 0
  | .channelDwordArrival _ => 0
  | .channelCredit _ => 0
  | .loadResponse _ _ => 0
  | .storeAck _ _ => 0
  | .phasedStoreInstall _ _ => 0
  | .sliceRead _ => 0
  | .forcing _ => 0
  | .atomicExecute _ => 0
  | .balancerArrival _ => 0
  | .exitCounterAct _ => 0
  | .csumArrival _ => 0
  | .cresetClosure _ => 0
  | .cresetReopen _ _ => 0
  | .cellError _ _ => 0
  | .barrierExit _ => 0
  | .barrierComplete _ _ => 0
  | .copyRowWrite _ _ => 0
  | .copyRowArrival _ => 0
  | .copyEnd _ _ => 0
  | .packetConsume _ _ => 0
  | .nopPacket _ _ => 0
  | .launch _ _ => 0
  | .copyPacket _ _ => 0
  | .signalStore _ _ => 0
  | .signalAdd _ _ => 0
  | .signalStoreFull _ _ => 0
  | .wait _ _ => 0
  | .waitRetest _ _ => 0
  | .kernelEligibilityTest _ _ => 0
  | .ageTick _ _ => 0
  | .cohortPlace _ => 0
  | .cohortStart _ _ _ => 0
  | .cohortEnd _ _ _ => 0
  | .kernelComplete _ _ => 0
  | .trapDelivery _ _ => 0
  | .redelivery => 0
  | .coreErr _ => 0
  | .tailcntWrite _ => 0
  | .corePreemptStop _ => 0
  | .corePreemptAck _ => 0
  | .copyOut _ => 0
  | .checkRunStart _ => 0
  | .checkTimeout _ => 0
  | .checkVerdict _ => 0
  | .tiebreakStart _ => 0
  | .patrolRead _ _ => 0
  | .pageWalk _ _ => 0
  | .takeWindowRead _ _ _ _ => 0
  | .takeWindowWrite _ _ _ => 0
  | .takeReadTimeout _ => 0
  | .hostActiveMessage _ _ _ => 0
  | .hostPostedWrite _ _ _ _ => 0
  | .unsupportedRequest _ _ => 0
  | .counterLowRead _ _ => 0
  | .peerAccess _ _ => 0
  | .flitReplay _ _ => 0
  | .laneTrained _ _ => 0
  | .trainingTimeout _ => 0
  | .laneFailure _ => 0
  | .ethernetFrame _ _ _ => 0
  | .routerDrop _ _ => 0
  | .create _ => 0
  | .destroy _ _ => 0
  | .preempt _ _ => 0
  | .restore _ _ => 0
  | .qcreate _ _ => 0
  | .qdestroy _ _ _ => 0
  | .qreset _ _ _ => 0
  | .stop _ => 0
  | .coreStopped _ => 0
  | .resume _ => 0
  | .corerwRead _ => 0
  | .corerwWrite _ => 0
  | .setparam _ _ _ _ => 0
  | .watch _ => 0
  | .qrelease _ => 0
  | .route _ => 0
  | .dmawin _ => 0
  | .allot => 0
  | .rect => 0
  | .portctlDisable _ => 0
  | .portctlEnable _ => 0
  | .portctlQuarantine _ => 0
  | .portctlRelease _ => 0
  | .mgmtRegisterWrite _ _ _ => 0
  | .deviceReset => 0
  | .bootStage _ => 0
  | .measurementExtend _ _ => 0
  | .recoveryImage _ => 0
  | .attestationRequest _ _ _ _ => 0
  | .keyDelivery _ _ _ => 0
  | .thermalTrip _ => 0
  | .directWriteArrival _ _ => 0
  | .fillerOperationEnd _ => 0
  | .qslotSectionLoad _ _ _ => 0
  | .cmdWriteRejected _ _ => 0

/-- The neighbour channels a register specifier names, as (output?, direction). -/
def RSpec.chans : RSpec → List (Bool × Dir)
  | .out d => [(true, d)]
  | .inp d => [(false, d)]
  | .w _ | .z | .inq => []

/-- The neighbour channels a lane specifier names. -/
def LSpec.chans : LSpec → List (Bool × Dir)
  | .vout d => [(true, d)]
  | .vin d => [(false, d)]
  | .v _ | .post _ | .str _ | .bcast _ | .vz | .m _ => []

/-- The neighbour channels an instruction names (R90, R106). -/
def Instr.chans : Instr → List (Bool × Dir)
  | .add d a b => d.chans ++ a.chans ++ b.chans
  | .sub d a b => d.chans ++ a.chans ++ b.chans
  | .and d a b => d.chans ++ a.chans ++ b.chans
  | .or d a b => d.chans ++ a.chans ++ b.chans
  | .xor d a b => d.chans ++ a.chans ++ b.chans
  | .andn d a b => d.chans ++ a.chans ++ b.chans
  | .orn d a b => d.chans ++ a.chans ++ b.chans
  | .xnor d a b => d.chans ++ a.chans ++ b.chans
  | .shl d a b => d.chans ++ a.chans ++ b.chans
  | .shr d a b => d.chans ++ a.chans ++ b.chans
  | .sra d a b => d.chans ++ a.chans ++ b.chans
  | .rol d a b => d.chans ++ a.chans ++ b.chans
  | .ror d a b => d.chans ++ a.chans ++ b.chans
  | .slt d a b => d.chans ++ a.chans ++ b.chans
  | .sltu d a b => d.chans ++ a.chans ++ b.chans
  | .seq d a b => d.chans ++ a.chans ++ b.chans
  | .sne d a b => d.chans ++ a.chans ++ b.chans
  | .min d a b => d.chans ++ a.chans ++ b.chans
  | .max d a b => d.chans ++ a.chans ++ b.chans
  | .minu d a b => d.chans ++ a.chans ++ b.chans
  | .maxu d a b => d.chans ++ a.chans ++ b.chans
  | .shadd1 d a b => d.chans ++ a.chans ++ b.chans
  | .shadd2 d a b => d.chans ++ a.chans ++ b.chans
  | .shadd3 d a b => d.chans ++ a.chans ++ b.chans
  | .addw d a b => d.chans ++ a.chans ++ b.chans
  | .subw d a b => d.chans ++ a.chans ++ b.chans
  | .mul d a b _ => d.chans ++ a.chans ++ b.chans
  | .mulh d a b _ => d.chans ++ a.chans ++ b.chans
  | .mulhu d a b _ => d.chans ++ a.chans ++ b.chans
  | .mulhsu d a b _ => d.chans ++ a.chans ++ b.chans
  | .div d a b _ => d.chans ++ a.chans ++ b.chans
  | .divu d a b _ => d.chans ++ a.chans ++ b.chans
  | .rem d a b _ => d.chans ++ a.chans ++ b.chans
  | .remu d a b _ => d.chans ++ a.chans ++ b.chans
  | .clz d a => d.chans ++ a.chans
  | .ctz d a => d.chans ++ a.chans
  | .popc d a => d.chans ++ a.chans
  | .brev d a => d.chans ++ a.chans
  | .bswap d a => d.chans ++ a.chans
  | .sextb d a => d.chans ++ a.chans
  | .sexth d a => d.chans ++ a.chans
  | .sextw d a => d.chans ++ a.chans
  | .extu d a _ _ => d.chans ++ a.chans
  | .exts d a _ _ => d.chans ++ a.chans
  | .ins d a _ _ => d.chans ++ a.chans
  | .addi d a _ => d.chans ++ a.chans
  | .andi d a _ => d.chans ++ a.chans
  | .ori d a _ => d.chans ++ a.chans
  | .xori d a _ => d.chans ++ a.chans
  | .slti d a _ => d.chans ++ a.chans
  | .sltui d a _ => d.chans ++ a.chans
  | .shli d a _ => d.chans ++ a.chans
  | .shri d a _ => d.chans ++ a.chans
  | .srai d a _ => d.chans ++ a.chans
  | .rori d a _ => d.chans ++ a.chans
  | .lih d _ => d.chans
  | .lix d _ => d.chans
  | .addpc d _ => d.chans
  | .beq a b _ => a.chans ++ b.chans
  | .bne a b _ => a.chans ++ b.chans
  | .blt a b _ => a.chans ++ b.chans
  | .bge a b _ => a.chans ++ b.chans
  | .bltu a b _ => a.chans ++ b.chans
  | .bgeu a b _ => a.chans ++ b.chans
  | .bbs a _ _ => a.chans
  | .bbc a _ _ => a.chans
  | .j _ => []
  | .jal _ => []
  | .jalr d a _ => d.chans ++ a.chans
  | .loop c _ => c.chans
  | .rep _ c _ => c.chans
  | .repBodyIssue => []
  | .endAct => []
  | .endAbort => []
  | .callat d a b => d.chans ++ a.chans ++ b.chans
  | .reply a => a.chans
  | .spawn d a => d.chans ++ a.chans
  | .spawnH d a => d.chans ++ a.chans
  | .wclaim d a => d.chans ++ a.chans
  | .wrel a => a.chans
  | .apop d => d.chans
  | .apush a => a.chans
  | .nop => []
  | .trap a => a.chans
  | .brk => []
  | .rte => []
  | .idle => []
  | .ld t base _ _ _ _ => t.chans ++ base.chans
  | .ldu t base _ _ _ _ => t.chans ++ base.chans
  | .st t base _ _ _ => t.chans ++ base.chans
  | .ldv _ base _ _ _ => base.chans
  | .stv _ base _ _ => base.chans
  | .zfill base _ _ => base.chans
  | .pref base _ _ => base.chans
  | .l1inv => []
  | .icinv a _ => a.chans
  | .bankmode a b => a.chans ++ b.chans
  | .bankq d => d.chans
  | .ldc t base _ _ _ _ => t.chans ++ base.chans
  | .lds t base _ _ => t.chans ++ base.chans
  | .ldsE t base _ _ => t.chans ++ base.chans
  | .stf t base _ _ => t.chans ++ base.chans
  | .aadd d a _ _ _ _ => d.chans ++ a.chans
  | .aand d a _ _ _ _ => d.chans ++ a.chans
  | .aor d a _ _ _ _ => d.chans ++ a.chans
  | .axor d a _ _ _ _ => d.chans ++ a.chans
  | .amin d a _ _ _ _ => d.chans ++ a.chans
  | .amax d a _ _ _ _ => d.chans ++ a.chans
  | .aminu d a _ _ _ _ => d.chans ++ a.chans
  | .amaxu d a _ _ _ _ => d.chans ++ a.chans
  | .axchg d a _ _ _ _ => d.chans ++ a.chans
  | .afadd d a _ _ _ _ => d.chans ++ a.chans
  | .afmin d a _ _ _ _ => d.chans ++ a.chans
  | .afmax d a _ _ _ _ => d.chans ++ a.chans
  | .ald d a _ _ _ _ => d.chans ++ a.chans
  | .ast d a _ _ _ => d.chans ++ a.chans
  | .acas d a _ _ _ _ => d.chans ++ a.chans
  | .phase d => d.chans
  | .rel _ => []
  | .acq => []
  | .fence => []
  | .clrt d => d.chans
  | .phasen d => d.chans
  | .vaddF d a b => d.chans ++ a.chans ++ b.chans
  | .vsubF d a b => d.chans ++ a.chans ++ b.chans
  | .vmulF d a b => d.chans ++ a.chans ++ b.chans
  | .vfma d a b => d.chans ++ a.chans ++ b.chans
  | .vfms d a b => d.chans ++ a.chans ++ b.chans
  | .vmaxF d a b => d.chans ++ a.chans ++ b.chans
  | .vminF d a b => d.chans ++ a.chans ++ b.chans
  | .vnegF d a => d.chans ++ a.chans
  | .vabsF d a => d.chans ++ a.chans
  | .vrcp d a => d.chans ++ a.chans
  | .vrsq d a => d.chans ++ a.chans
  | .vrcps d a b => d.chans ++ a.chans ++ b.chans
  | .vrsqs d a b => d.chans ++ a.chans ++ b.chans
  | .vexp2 d a => d.chans ++ a.chans
  | .vlog2 d a => d.chans ++ a.chans
  | .vclamp d a b => d.chans ++ a.chans ++ b.chans
  | .vaddI d a b => d.chans ++ a.chans ++ b.chans
  | .vsubI d a b => d.chans ++ a.chans ++ b.chans
  | .vmulI d a b => d.chans ++ a.chans ++ b.chans
  | .vmulh d a b => d.chans ++ a.chans ++ b.chans
  | .vmad d a b => d.chans ++ a.chans ++ b.chans
  | .vmaxI d a b => d.chans ++ a.chans ++ b.chans
  | .vminI d a b => d.chans ++ a.chans ++ b.chans
  | .vabsI d a => d.chans ++ a.chans
  | .vshl d a b => d.chans ++ a.chans ++ b.chans
  | .vshr d a b => d.chans ++ a.chans ++ b.chans
  | .vsra d a b => d.chans ++ a.chans ++ b.chans
  | .vadds d a b => d.chans ++ a.chans ++ b.chans
  | .vsubs d a b => d.chans ++ a.chans ++ b.chans
  | .vmaxu d a b => d.chans ++ a.chans ++ b.chans
  | .vminu d a b => d.chans ++ a.chans ++ b.chans
  | .vnegI d a => d.chans ++ a.chans
  | .vand d a b => d.chans ++ a.chans ++ b.chans
  | .vor d a b => d.chans ++ a.chans ++ b.chans
  | .vxor d a b => d.chans ++ a.chans ++ b.chans
  | .vandn d a b => d.chans ++ a.chans ++ b.chans
  | .vnot d a => d.chans ++ a.chans
  | .vmov d a => d.chans ++ a.chans
  | .vsel d a b => d.chans ++ a.chans ++ b.chans
  | .vpopc d a => d.chans ++ a.chans
  | .vclz d a => d.chans ++ a.chans
  | .vceqF d a b => d.chans ++ a.chans ++ b.chans
  | .vcneF d a b => d.chans ++ a.chans ++ b.chans
  | .vcltF d a b => d.chans ++ a.chans ++ b.chans
  | .vcleF d a b => d.chans ++ a.chans ++ b.chans
  | .vcunF d a b => d.chans ++ a.chans ++ b.chans
  | .vceqI d a b => d.chans ++ a.chans ++ b.chans
  | .vcneI d a b => d.chans ++ a.chans ++ b.chans
  | .vcltI d a b => d.chans ++ a.chans ++ b.chans
  | .vcleI d a b => d.chans ++ a.chans ++ b.chans
  | .vcltu d a b => d.chans ++ a.chans ++ b.chans
  | .vcleu d a b => d.chans ++ a.chans ++ b.chans
  | .mand d a b => d.chans ++ a.chans ++ b.chans
  | .mor d a b => d.chans ++ a.chans ++ b.chans
  | .mxor d a b => d.chans ++ a.chans ++ b.chans
  | .mnot d a => d.chans ++ a.chans
  | .mandn d a b => d.chans ++ a.chans ++ b.chans
  | .msel a => a.chans
  | .mpopc d a => d.chans ++ a.chans
  | .mfirst d a => d.chans ++ a.chans
  | .vcvtF32F16 d a _ => d.chans ++ a.chans
  | .vcvtF16F32 d a _ => d.chans ++ a.chans
  | .vcvtF32Bf16 d a _ => d.chans ++ a.chans
  | .vcvtBf16F32 d a _ => d.chans ++ a.chans
  | .vcvtF32E4m3 d a _ => d.chans ++ a.chans
  | .vcvtE4m3F32 d a _ => d.chans ++ a.chans
  | .vcvtF32E5m2 d a _ => d.chans ++ a.chans
  | .vcvtE5m2F32 d a _ => d.chans ++ a.chans
  | .vcvtI32F32 d a => d.chans ++ a.chans
  | .vcvtF32I32 d a => d.chans ++ a.chans
  | .vcvtI16I32 d a _ => d.chans ++ a.chans
  | .vcvtI32I16 d a _ => d.chans ++ a.chans
  | .vcvtF32Cb4 d a _ => d.chans ++ a.chans
  | .vcvtCb4F32 d a _ => d.chans ++ a.chans
  | .vcvtI8I32 d a _ => d.chans ++ a.chans
  | .vcvtI32I8 d a _ => d.chans ++ a.chans
  | .vbcast d a b => d.chans ++ a.chans ++ b.chans
  | .vextr d a b => d.chans ++ a.chans ++ b.chans
  | .vins d a b => d.chans ++ a.chans ++ b.chans
  | .vrot d a b => d.chans ++ a.chans ++ b.chans
  | .vshuf d a b => d.chans ++ a.chans ++ b.chans
  | .vscan d a _ => d.chans ++ a.chans
  | .vredadd d a _ => d.chans ++ a.chans
  | .vredmax d a _ => d.chans ++ a.chans
  | .vredmin d a _ => d.chans ++ a.chans
  | .viota d => d.chans
  | .vzip d a b => d.chans ++ a.chans ++ b.chans
  | .vunzip d a b => d.chans ++ a.chans ++ b.chans
  | .vaddFCompact _ a => a.chans
  | .vsubFCompact _ a => a.chans
  | .vmulFCompact _ a => a.chans
  | .vmaxFCompact _ a => a.chans
  | .vminFCompact _ a => a.chans
  | .vaddICompact _ a => a.chans
  | .vsubICompact _ a => a.chans
  | .vmaxICompact _ a => a.chans
  | .vminICompact _ a => a.chans
  | .vandCompact _ a => a.chans
  | .vorCompact _ a => a.chans
  | .vxorCompact _ a => a.chans
  | .vmovCompact _ a => a.chans
  | .vnegFCompact _ a => a.chans
  | .vabsFCompact _ a => a.chans
  | .vshlICompact _ a => a.chans
  | .kadd _ _ _ => []
  | .ksub _ _ _ => []
  | .kmax _ _ _ => []
  | .kmin _ _ _ => []
  | .kmov _ _ => []
  | .kset _ r => r.chans
  | .kfromv _ _ => []
  | .ktov _ _ => []
  | .kbind _ _ r => r.chans
  | .kunbind _ => []
  | .kgen r _ => r.chans
  | .ttset a b => a.chans ++ b.chans
  | .ttget d a => d.chans ++ a.chans
  | .ttinv a => a.chans
  | .tcb a b => a.chans ++ b.chans
  | .tld _ _ a b _ => a.chans ++ b.chans
  | .tst _ a b => a.chans ++ b.chans
  | .kld _ r => r.chans
  | .kst _ r => r.chans
  | .ksave r => r.chans
  | .krestore r => r.chans
  | .pcmd first sel => first.chans ++ sel.chans
  | .pwait d a => d.chans ++ a.chans
  | .pfence => []
  | .pstat d => d.chans
  | .copy first sel => first.chans ++ sel.chans
  | .bseal d => d.chans
  | .bdrain d a => d.chans ++ a.chans
  | .cwptr d a => d.chans ++ a.chans
  | .ctake d a _ => d.chans ++ a.chans
  | .cgive d a _ => d.chans ++ a.chans
  | .csum d a _ => d.chans ++ a.chans
  | .creset d a _ => d.chans ++ a.chans
  | .barv d a => d.chans ++ a.chans
  | .barw a b => a.chans ++ b.chans
  | .barg d a => d.chans ++ a.chans
  | .barp d a => d.chans ++ a.chans
  | .msend d a b => d.chans ++ a.chans ++ b.chans
  | .mpoll d => d.chans
  | .winrd d _ => d.chans
  | .srd d _ => d.chans
  | .swr d _ => d.chans
  | .crd d a => d.chans ++ a.chans
  | .dacc d a => d.chans ++ a.chans
  | .trcm a => a.chans
  | .tlbinv a b => a.chans ++ b.chans
  | .errinj a b => a.chans ++ b.chans
  | .retry => []
  | .skip => []
  | .flush => []
  | .ovClear => []
  | .loadw _ _ _ _ _ _ => []
  | .flip => []
  | .stream _ _ _ _ _ _ _ _ => []
  | .streamt _ _ _ _ _ _ _ _ => []
  | .tload _ _ _ _ _ => []
  | .tloadt _ _ _ _ _ => []
  | .tdrain _ _ _ _ _ _ _ => []
  | .tzero _ _ => []
  | .pmode _ _ => []
  | .ptable _ _ => []
  | .pmark _ => []
  | .psave _ => []
  | .prestore _ => []
  | .pressFault => []
  | .pressRetire _ => []
  | .rampWindow _ => []
  | .powerReport _ => []
  | .messageArrival _ _ => []
  | .activationStart => []
  | .activationResume => []
  | .actorFiring _ => []
  | .tokenWrite _ => []
  | .replyWrite _ => []
  | .channelDwordArrival _ => []
  | .channelCredit _ => []
  | .loadResponse _ _ => []
  | .storeAck _ _ => []
  | .phasedStoreInstall _ _ => []
  | .sliceRead _ => []
  | .forcing _ => []
  | .atomicExecute _ => []
  | .balancerArrival _ => []
  | .exitCounterAct _ => []
  | .csumArrival _ => []
  | .cresetClosure _ => []
  | .cresetReopen _ _ => []
  | .cellError _ _ => []
  | .barrierExit _ => []
  | .barrierComplete _ _ => []
  | .copyRowWrite _ _ => []
  | .copyRowArrival _ => []
  | .copyEnd _ _ => []
  | .packetConsume _ _ => []
  | .nopPacket _ _ => []
  | .launch _ _ => []
  | .copyPacket _ _ => []
  | .signalStore _ _ => []
  | .signalAdd _ _ => []
  | .signalStoreFull _ _ => []
  | .wait _ _ => []
  | .waitRetest _ _ => []
  | .kernelEligibilityTest _ _ => []
  | .ageTick _ _ => []
  | .cohortPlace _ => []
  | .cohortStart _ _ _ => []
  | .cohortEnd _ _ _ => []
  | .kernelComplete _ _ => []
  | .trapDelivery _ _ => []
  | .redelivery => []
  | .coreErr _ => []
  | .tailcntWrite _ => []
  | .corePreemptStop _ => []
  | .corePreemptAck _ => []
  | .copyOut _ => []
  | .checkRunStart _ => []
  | .checkTimeout _ => []
  | .checkVerdict _ => []
  | .tiebreakStart _ => []
  | .patrolRead _ _ => []
  | .pageWalk _ _ => []
  | .takeWindowRead _ _ _ _ => []
  | .takeWindowWrite _ _ _ => []
  | .takeReadTimeout _ => []
  | .hostActiveMessage _ _ _ => []
  | .hostPostedWrite _ _ _ _ => []
  | .unsupportedRequest _ _ => []
  | .counterLowRead _ _ => []
  | .peerAccess _ _ => []
  | .flitReplay _ _ => []
  | .laneTrained _ _ => []
  | .trainingTimeout _ => []
  | .laneFailure _ => []
  | .ethernetFrame _ _ _ => []
  | .routerDrop _ _ => []
  | .create _ => []
  | .destroy _ _ => []
  | .preempt _ _ => []
  | .restore _ _ => []
  | .qcreate _ _ => []
  | .qdestroy _ _ _ => []
  | .qreset _ _ _ => []
  | .stop _ => []
  | .coreStopped _ => []
  | .resume _ => []
  | .corerwRead _ => []
  | .corerwWrite _ => []
  | .setparam _ _ _ _ => []
  | .watch _ => []
  | .qrelease _ => []
  | .route _ => []
  | .dmawin _ => []
  | .allot => []
  | .rect => []
  | .portctlDisable _ => []
  | .portctlEnable _ => []
  | .portctlQuarantine _ => []
  | .portctlRelease _ => []
  | .mgmtRegisterWrite _ _ _ => []
  | .deviceReset => []
  | .bootStage _ => []
  | .measurementExtend _ _ => []
  | .recoveryImage _ => []
  | .attestationRequest _ _ _ _ => []
  | .keyDelivery _ _ _ => []
  | .thermalTrip _ => []
  | .directWriteArrival _ _ => []
  | .fillerOperationEnd _ => []
  | .qslotSectionLoad _ _ _ => []
  | .cmdWriteRejected _ _ => []

end Sys2Proof
end

