-- ==== Sys2Proof/Decode.lean ====
section
/-! DEFINITION. Decoding: the two lengths, the formats of Table 2.3 and the major opcode map of
Table 2.7 (R29 to R37, R46, R48), the press command bytes (R47, R220), and the encoder written
from the same tables. -/

namespace Sys2Proof

/-- The `n` bits of `w` from bit `lo` up. -/
def fld (w lo n : Nat) : Nat := w / 2 ^ lo % 2 ^ n

/-- Directions in the order of Table 2.4. -/
def dirOf (n : Nat) : Dir := if n = 0 then .n else if n = 1 then .e else if n = 2 then .s else .w

/-- The place of a direction in the order N, E, S, W. -/
def Dir.num : Dir → Nat
  | .n => 0
  | .e => 1
  | .s => 2
  | .w => 3

/-- Table 2.4. Values 42 to 63 name nothing. -/
def rspec (n : Nat) : Option RSpec :=
  if n < 32 then some (.w (.ofNat 5 n))
  else if n < 36 then some (.out (dirOf (n - 32)))
  else if n < 40 then some (.inp (dirOf (n - 36)))
  else if n = 40 then some .z
  else if n = 41 then some .inq
  else none

/-- The value of a register specifier in Table 2.4. -/
def RSpec.bits : RSpec → Nat
  | .w i => i.toNat
  | .out d => 32 + d.num
  | .inp d => 36 + d.num
  | .z => 40
  | .inq => 41

/-- Table 2.5. Values 97 to 103 and 112 to 127 name nothing. -/
def lspec (n : Nat) : Option LSpec :=
  if n < 64 then some (.v (.ofNat 6 n))
  else if n < 72 then some (.post (.ofNat 3 (n - 64)))
  else if n < 80 then some (.str (.ofNat 3 (n - 72)))
  else if n < 88 then some (.bcast (.ofNat 3 (n - 80)))
  else if n = 88 then some .vz
  else if n < 93 then some (.vout (dirOf (n - 89)))
  else if n < 97 then some (.vin (dirOf (n - 93)))
  else if n < 104 then none
  else if n < 112 then some (.m (.ofNat 3 (n - 104)))
  else none

/-- The value of a lane specifier in Table 2.5. -/
def LSpec.bits : LSpec → Nat
  | .v i => i.toNat
  | .post p => 64 + p.toNat
  | .str p => 72 + p.toNat
  | .bcast i => 80 + i.toNat
  | .vz => 88
  | .vout d => 89 + d.num
  | .vin d => 93 + d.num
  | .m i => 104 + i.toNat

/-- The 5-bit source of the compact form (Table 2.1). Values 28 to 31 are illegal. -/
def compactSpec (n : Nat) : Option LSpec :=
  if n < 16 then some (.v (.ofNat 6 n))
  else if n < 24 then some (.post (.ofNat 3 (n - 16)))
  else if n < 28 then some (.vin (dirOf (n - 24)))
  else none

/-- The value of a compact source (Table 2.1); 31, an illegal one, for a specifier it cannot hold. -/
def LSpec.compactBits : LSpec → Nat
  | .v i => if i.toNat < 16 then i.toNat else 31
  | .post p => 16 + p.toNat
  | .vin d => 24 + d.num
  | .str _ | .bcast _ | .vz | .vout _ | .m _ => 31

/-- What to make of the operands of each scalar, memory and system instruction, those before the lane
majors. -/
structure InterpScalar (β : Type) where
  add : RSpec → RSpec → RSpec → β
  sub : RSpec → RSpec → RSpec → β
  and : RSpec → RSpec → RSpec → β
  or : RSpec → RSpec → RSpec → β
  xor : RSpec → RSpec → RSpec → β
  andn : RSpec → RSpec → RSpec → β
  orn : RSpec → RSpec → RSpec → β
  xnor : RSpec → RSpec → RSpec → β
  shl : RSpec → RSpec → RSpec → β
  shr : RSpec → RSpec → RSpec → β
  sra : RSpec → RSpec → RSpec → β
  rol : RSpec → RSpec → RSpec → β
  ror : RSpec → RSpec → RSpec → β
  slt : RSpec → RSpec → RSpec → β
  sltu : RSpec → RSpec → RSpec → β
  seq : RSpec → RSpec → RSpec → β
  sne : RSpec → RSpec → RSpec → β
  min : RSpec → RSpec → RSpec → β
  max : RSpec → RSpec → RSpec → β
  minu : RSpec → RSpec → RSpec → β
  maxu : RSpec → RSpec → RSpec → β
  shadd1 : RSpec → RSpec → RSpec → β
  shadd2 : RSpec → RSpec → RSpec → β
  shadd3 : RSpec → RSpec → RSpec → β
  addw : RSpec → RSpec → RSpec → β
  subw : RSpec → RSpec → RSpec → β
  mul : RSpec → RSpec → RSpec → BitVec 4 → β
  mulh : RSpec → RSpec → RSpec → BitVec 4 → β
  mulhu : RSpec → RSpec → RSpec → BitVec 4 → β
  mulhsu : RSpec → RSpec → RSpec → BitVec 4 → β
  div : RSpec → RSpec → RSpec → BitVec 4 → β
  divu : RSpec → RSpec → RSpec → BitVec 4 → β
  rem : RSpec → RSpec → RSpec → BitVec 4 → β
  remu : RSpec → RSpec → RSpec → BitVec 4 → β
  clz : RSpec → RSpec → β
  ctz : RSpec → RSpec → β
  popc : RSpec → RSpec → β
  brev : RSpec → RSpec → β
  bswap : RSpec → RSpec → β
  sextb : RSpec → RSpec → β
  sexth : RSpec → RSpec → β
  sextw : RSpec → RSpec → β
  extu : RSpec → RSpec → BitVec 6 → BitVec 6 → β
  exts : RSpec → RSpec → BitVec 6 → BitVec 6 → β
  ins : RSpec → RSpec → BitVec 6 → BitVec 6 → β
  addi : RSpec → RSpec → BitVec 13 → β
  andi : RSpec → RSpec → BitVec 13 → β
  ori : RSpec → RSpec → BitVec 13 → β
  xori : RSpec → RSpec → BitVec 13 → β
  slti : RSpec → RSpec → BitVec 13 → β
  sltui : RSpec → RSpec → BitVec 13 → β
  shli : RSpec → RSpec → BitVec 6 → β
  shri : RSpec → RSpec → BitVec 6 → β
  srai : RSpec → RSpec → BitVec 6 → β
  rori : RSpec → RSpec → BitVec 6 → β
  lih : RSpec → BitVec 19 → β
  lix : RSpec → BitVec 19 → β
  addpc : RSpec → BitVec 19 → β
  beq : RSpec → RSpec → BitVec 10 → β
  bne : RSpec → RSpec → BitVec 10 → β
  blt : RSpec → RSpec → BitVec 10 → β
  bge : RSpec → RSpec → BitVec 10 → β
  bltu : RSpec → RSpec → BitVec 10 → β
  bgeu : RSpec → RSpec → BitVec 10 → β
  bbs : RSpec → BitVec 6 → BitVec 10 → β
  bbc : RSpec → BitVec 6 → BitVec 10 → β
  j : BitVec 25 → β
  jal : BitVec 25 → β
  jalr : RSpec → RSpec → BitVec 13 → β
  loop : RSpec → BitVec 19 → β
  rep : BitVec 4 → RSpec → BitVec 6 → β
  endAct : β
  endAbort : β
  callat : RSpec → RSpec → RSpec → β
  reply : RSpec → β
  spawn : RSpec → RSpec → β
  spawnH : RSpec → RSpec → β
  wclaim : RSpec → RSpec → β
  wrel : RSpec → β
  apop : RSpec → β
  apush : RSpec → β
  nop : β
  trap : RSpec → β
  brk : β
  rte : β
  idle : β
  ld : RSpec → RSpec → BitVec 5 → BitVec 2 → BitVec 2 → BitVec 4 → β
  ldu : RSpec → RSpec → BitVec 5 → BitVec 2 → BitVec 2 → BitVec 4 → β
  st : RSpec → RSpec → BitVec 5 → BitVec 2 → BitVec 2 → β
  ldv : BitVec 6 → RSpec → BitVec 5 → BitVec 2 → BitVec 4 → β
  stv : BitVec 6 → RSpec → BitVec 5 → BitVec 2 → β
  zfill : RSpec → BitVec 5 → BitVec 2 → β
  pref : RSpec → BitVec 5 → BitVec 2 → β
  l1inv : β
  icinv : RSpec → BitVec 6 → β
  bankmode : RSpec → RSpec → β
  bankq : RSpec → β
  ldc : RSpec → RSpec → BitVec 5 → BitVec 2 → BitVec 2 → BitVec 4 → β
  lds : RSpec → RSpec → BitVec 5 → BitVec 4 → β
  ldsE : RSpec → RSpec → BitVec 5 → BitVec 4 → β
  stf : RSpec → RSpec → BitVec 5 → BitVec 2 → β
  aadd : RSpec → RSpec → BitVec 1 → BitVec 2 → BitVec 2 → BitVec 4 → β
  aand : RSpec → RSpec → BitVec 1 → BitVec 2 → BitVec 2 → BitVec 4 → β
  aor : RSpec → RSpec → BitVec 1 → BitVec 2 → BitVec 2 → BitVec 4 → β
  axor : RSpec → RSpec → BitVec 1 → BitVec 2 → BitVec 2 → BitVec 4 → β
  amin : RSpec → RSpec → BitVec 1 → BitVec 2 → BitVec 2 → BitVec 4 → β
  amax : RSpec → RSpec → BitVec 1 → BitVec 2 → BitVec 2 → BitVec 4 → β
  aminu : RSpec → RSpec → BitVec 1 → BitVec 2 → BitVec 2 → BitVec 4 → β
  amaxu : RSpec → RSpec → BitVec 1 → BitVec 2 → BitVec 2 → BitVec 4 → β
  axchg : RSpec → RSpec → BitVec 1 → BitVec 2 → BitVec 2 → BitVec 4 → β
  afadd : RSpec → RSpec → BitVec 1 → BitVec 2 → BitVec 2 → BitVec 4 → β
  afmin : RSpec → RSpec → BitVec 1 → BitVec 2 → BitVec 2 → BitVec 4 → β
  afmax : RSpec → RSpec → BitVec 1 → BitVec 2 → BitVec 2 → BitVec 4 → β
  ald : RSpec → RSpec → BitVec 1 → BitVec 2 → BitVec 2 → BitVec 4 → β
  ast : RSpec → RSpec → BitVec 1 → BitVec 2 → BitVec 2 → β
  acas : RSpec → RSpec → BitVec 1 → BitVec 2 → BitVec 2 → BitVec 4 → β
  phase : RSpec → β
  rel : BitVec 6 → β
  acq : β
  fence : β
  clrt : RSpec → β
  phasen : RSpec → β

/-- The same for lane instructions. -/
structure InterpLane (β : Type) where
  vaddF : LSpec → LSpec → LSpec → β
  vsubF : LSpec → LSpec → LSpec → β
  vmulF : LSpec → LSpec → LSpec → β
  vfma : LSpec → LSpec → LSpec → β
  vfms : LSpec → LSpec → LSpec → β
  vmaxF : LSpec → LSpec → LSpec → β
  vminF : LSpec → LSpec → LSpec → β
  vnegF : LSpec → LSpec → β
  vabsF : LSpec → LSpec → β
  vrcp : LSpec → LSpec → β
  vrsq : LSpec → LSpec → β
  vrcps : LSpec → LSpec → LSpec → β
  vrsqs : LSpec → LSpec → LSpec → β
  vexp2 : LSpec → LSpec → β
  vlog2 : LSpec → LSpec → β
  vclamp : LSpec → LSpec → LSpec → β
  vaddI : LSpec → LSpec → LSpec → β
  vsubI : LSpec → LSpec → LSpec → β
  vmulI : LSpec → LSpec → LSpec → β
  vmulh : LSpec → LSpec → LSpec → β
  vmad : LSpec → LSpec → LSpec → β
  vmaxI : LSpec → LSpec → LSpec → β
  vminI : LSpec → LSpec → LSpec → β
  vabsI : LSpec → LSpec → β
  vshl : LSpec → LSpec → LSpec → β
  vshr : LSpec → LSpec → LSpec → β
  vsra : LSpec → LSpec → LSpec → β
  vadds : LSpec → LSpec → LSpec → β
  vsubs : LSpec → LSpec → LSpec → β
  vmaxu : LSpec → LSpec → LSpec → β
  vminu : LSpec → LSpec → LSpec → β
  vnegI : LSpec → LSpec → β
  vand : LSpec → LSpec → LSpec → β
  vor : LSpec → LSpec → LSpec → β
  vxor : LSpec → LSpec → LSpec → β
  vandn : LSpec → LSpec → LSpec → β
  vnot : LSpec → LSpec → β
  vmov : LSpec → LSpec → β
  vsel : LSpec → LSpec → LSpec → β
  vpopc : LSpec → LSpec → β
  vclz : LSpec → LSpec → β
  vceqF : LSpec → LSpec → LSpec → β
  vcneF : LSpec → LSpec → LSpec → β
  vcltF : LSpec → LSpec → LSpec → β
  vcleF : LSpec → LSpec → LSpec → β
  vcunF : LSpec → LSpec → LSpec → β
  vceqI : LSpec → LSpec → LSpec → β
  vcneI : LSpec → LSpec → LSpec → β
  vcltI : LSpec → LSpec → LSpec → β
  vcleI : LSpec → LSpec → LSpec → β
  vcltu : LSpec → LSpec → LSpec → β
  vcleu : LSpec → LSpec → LSpec → β
  mand : LSpec → LSpec → LSpec → β
  mor : LSpec → LSpec → LSpec → β
  mxor : LSpec → LSpec → LSpec → β
  mnot : LSpec → LSpec → β
  mandn : LSpec → LSpec → LSpec → β
  msel : LSpec → β
  mpopc : RSpec → LSpec → β
  mfirst : RSpec → LSpec → β
  vcvtF32F16 : LSpec → LSpec → BitVec 7 → β
  vcvtF16F32 : LSpec → LSpec → BitVec 7 → β
  vcvtF32Bf16 : LSpec → LSpec → BitVec 7 → β
  vcvtBf16F32 : LSpec → LSpec → BitVec 7 → β
  vcvtF32E4m3 : LSpec → LSpec → BitVec 7 → β
  vcvtE4m3F32 : LSpec → LSpec → BitVec 7 → β
  vcvtF32E5m2 : LSpec → LSpec → BitVec 7 → β
  vcvtE5m2F32 : LSpec → LSpec → BitVec 7 → β
  vcvtI32F32 : LSpec → LSpec → β
  vcvtF32I32 : LSpec → LSpec → β
  vcvtI16I32 : LSpec → LSpec → BitVec 7 → β
  vcvtI32I16 : LSpec → LSpec → BitVec 7 → β
  vcvtF32Cb4 : LSpec → LSpec → BitVec 7 → β
  vcvtCb4F32 : LSpec → LSpec → BitVec 7 → β
  vcvtI8I32 : LSpec → LSpec → BitVec 7 → β
  vcvtI32I8 : LSpec → LSpec → BitVec 7 → β
  vbcast : LSpec → LSpec → RSpec → β
  vextr : RSpec → LSpec → RSpec → β
  vins : LSpec → RSpec → RSpec → β
  vrot : LSpec → LSpec → RSpec → β
  vshuf : LSpec → LSpec → LSpec → β
  vscan : LSpec → LSpec → BitVec 7 → β
  vredadd : RSpec → LSpec → BitVec 7 → β
  vredmax : RSpec → LSpec → BitVec 7 → β
  vredmin : RSpec → LSpec → BitVec 7 → β
  viota : LSpec → β
  vzip : LSpec → LSpec → LSpec → β
  vunzip : LSpec → LSpec → LSpec → β
  vaddFCompact : BitVec 6 → LSpec → β
  vsubFCompact : BitVec 6 → LSpec → β
  vmulFCompact : BitVec 6 → LSpec → β
  vmaxFCompact : BitVec 6 → LSpec → β
  vminFCompact : BitVec 6 → LSpec → β
  vaddICompact : BitVec 6 → LSpec → β
  vsubICompact : BitVec 6 → LSpec → β
  vmaxICompact : BitVec 6 → LSpec → β
  vminICompact : BitVec 6 → LSpec → β
  vandCompact : BitVec 6 → LSpec → β
  vorCompact : BitVec 6 → LSpec → β
  vxorCompact : BitVec 6 → LSpec → β
  vmovCompact : BitVec 6 → LSpec → β
  vnegFCompact : BitVec 6 → LSpec → β
  vabsFCompact : BitVec 6 → LSpec → β
  vshlICompact : BitVec 6 → LSpec → β

/-- The same for the majors after the lane majors. -/
structure InterpUnit (β : Type) where
  kadd : BitVec 4 → BitVec 4 → BitVec 4 → β
  ksub : BitVec 4 → BitVec 4 → BitVec 4 → β
  kmax : BitVec 4 → BitVec 4 → BitVec 4 → β
  kmin : BitVec 4 → BitVec 4 → BitVec 4 → β
  kmov : BitVec 4 → BitVec 4 → β
  kset : BitVec 4 → RSpec → β
  kfromv : BitVec 4 → BitVec 6 → β
  ktov : BitVec 6 → BitVec 4 → β
  kbind : BitVec 4 → BitVec 4 → RSpec → β
  kunbind : BitVec 4 → β
  kgen : RSpec → BitVec 4 → β
  ttset : RSpec → RSpec → β
  ttget : RSpec → RSpec → β
  ttinv : RSpec → β
  tcb : RSpec → RSpec → β
  tld : BitVec 4 → BitVec 4 → RSpec → RSpec → BitVec 4 → β
  tst : BitVec 4 → RSpec → RSpec → β
  kld : BitVec 4 → RSpec → β
  kst : BitVec 4 → RSpec → β
  ksave : RSpec → β
  krestore : RSpec → β
  pcmd : RSpec → RSpec → β
  pwait : RSpec → RSpec → β
  pfence : β
  pstat : RSpec → β
  copy : RSpec → RSpec → β
  bseal : RSpec → β
  bdrain : RSpec → RSpec → β
  cwptr : RSpec → RSpec → β
  ctake : RSpec → RSpec → BitVec 4 → β
  cgive : RSpec → RSpec → BitVec 4 → β
  csum : RSpec → RSpec → BitVec 4 → β
  creset : RSpec → RSpec → BitVec 4 → β
  barv : RSpec → RSpec → β
  barw : RSpec → RSpec → β
  barg : RSpec → RSpec → β
  barp : RSpec → RSpec → β
  msend : RSpec → RSpec → RSpec → β
  mpoll : RSpec → β
  winrd : RSpec → BitVec 6 → β
  srd : RSpec → BitVec 12 → β
  swr : RSpec → BitVec 12 → β
  crd : RSpec → RSpec → β
  dacc : RSpec → RSpec → β
  trcm : RSpec → β
  tlbinv : RSpec → RSpec → β
  errinj : RSpec → RSpec → β

/-- An interpretation of the instructions that have a word: what to make of each one's operands.
The decoder is written once, over any interpretation: `interpInstr` gives the instruction as a
term, and the step runs the meanings through the same tables. (Lean's compiled code cannot build a
constructor numbered above 244, so what builds `Instr` terms is marked noncomputable; the kernel
evaluates it all the same. Nor can it build a structure of that many fields: hence three.) -/
structure Interp (β : Type) extends InterpScalar β, InterpLane β, InterpUnit β

/-- The instructions themselves. -/
noncomputable def interpInstr : Interp Instr where
  add := .add
  sub := .sub
  and := .and
  or := .or
  xor := .xor
  andn := .andn
  orn := .orn
  xnor := .xnor
  shl := .shl
  shr := .shr
  sra := .sra
  rol := .rol
  ror := .ror
  slt := .slt
  sltu := .sltu
  seq := .seq
  sne := .sne
  min := .min
  max := .max
  minu := .minu
  maxu := .maxu
  shadd1 := .shadd1
  shadd2 := .shadd2
  shadd3 := .shadd3
  addw := .addw
  subw := .subw
  mul := .mul
  mulh := .mulh
  mulhu := .mulhu
  mulhsu := .mulhsu
  div := .div
  divu := .divu
  rem := .rem
  remu := .remu
  clz := .clz
  ctz := .ctz
  popc := .popc
  brev := .brev
  bswap := .bswap
  sextb := .sextb
  sexth := .sexth
  sextw := .sextw
  extu := .extu
  exts := .exts
  ins := .ins
  addi := .addi
  andi := .andi
  ori := .ori
  xori := .xori
  slti := .slti
  sltui := .sltui
  shli := .shli
  shri := .shri
  srai := .srai
  rori := .rori
  lih := .lih
  lix := .lix
  addpc := .addpc
  beq := .beq
  bne := .bne
  blt := .blt
  bge := .bge
  bltu := .bltu
  bgeu := .bgeu
  bbs := .bbs
  bbc := .bbc
  j := .j
  jal := .jal
  jalr := .jalr
  loop := .loop
  rep := .rep
  endAct := .endAct
  endAbort := .endAbort
  callat := .callat
  reply := .reply
  spawn := .spawn
  spawnH := .spawnH
  wclaim := .wclaim
  wrel := .wrel
  apop := .apop
  apush := .apush
  nop := .nop
  trap := .trap
  brk := .brk
  rte := .rte
  idle := .idle
  ld := .ld
  ldu := .ldu
  st := .st
  ldv := .ldv
  stv := .stv
  zfill := .zfill
  pref := .pref
  l1inv := .l1inv
  icinv := .icinv
  bankmode := .bankmode
  bankq := .bankq
  ldc := .ldc
  lds := .lds
  ldsE := .ldsE
  stf := .stf
  aadd := .aadd
  aand := .aand
  aor := .aor
  axor := .axor
  amin := .amin
  amax := .amax
  aminu := .aminu
  amaxu := .amaxu
  axchg := .axchg
  afadd := .afadd
  afmin := .afmin
  afmax := .afmax
  ald := .ald
  ast := .ast
  acas := .acas
  phase := .phase
  rel := .rel
  acq := .acq
  fence := .fence
  clrt := .clrt
  phasen := .phasen
  vaddF := .vaddF
  vsubF := .vsubF
  vmulF := .vmulF
  vfma := .vfma
  vfms := .vfms
  vmaxF := .vmaxF
  vminF := .vminF
  vnegF := .vnegF
  vabsF := .vabsF
  vrcp := .vrcp
  vrsq := .vrsq
  vrcps := .vrcps
  vrsqs := .vrsqs
  vexp2 := .vexp2
  vlog2 := .vlog2
  vclamp := .vclamp
  vaddI := .vaddI
  vsubI := .vsubI
  vmulI := .vmulI
  vmulh := .vmulh
  vmad := .vmad
  vmaxI := .vmaxI
  vminI := .vminI
  vabsI := .vabsI
  vshl := .vshl
  vshr := .vshr
  vsra := .vsra
  vadds := .vadds
  vsubs := .vsubs
  vmaxu := .vmaxu
  vminu := .vminu
  vnegI := .vnegI
  vand := .vand
  vor := .vor
  vxor := .vxor
  vandn := .vandn
  vnot := .vnot
  vmov := .vmov
  vsel := .vsel
  vpopc := .vpopc
  vclz := .vclz
  vceqF := .vceqF
  vcneF := .vcneF
  vcltF := .vcltF
  vcleF := .vcleF
  vcunF := .vcunF
  vceqI := .vceqI
  vcneI := .vcneI
  vcltI := .vcltI
  vcleI := .vcleI
  vcltu := .vcltu
  vcleu := .vcleu
  mand := .mand
  mor := .mor
  mxor := .mxor
  mnot := .mnot
  mandn := .mandn
  msel := .msel
  mpopc := .mpopc
  mfirst := .mfirst
  vcvtF32F16 := .vcvtF32F16
  vcvtF16F32 := .vcvtF16F32
  vcvtF32Bf16 := .vcvtF32Bf16
  vcvtBf16F32 := .vcvtBf16F32
  vcvtF32E4m3 := .vcvtF32E4m3
  vcvtE4m3F32 := .vcvtE4m3F32
  vcvtF32E5m2 := .vcvtF32E5m2
  vcvtE5m2F32 := .vcvtE5m2F32
  vcvtI32F32 := .vcvtI32F32
  vcvtF32I32 := .vcvtF32I32
  vcvtI16I32 := .vcvtI16I32
  vcvtI32I16 := .vcvtI32I16
  vcvtF32Cb4 := .vcvtF32Cb4
  vcvtCb4F32 := .vcvtCb4F32
  vcvtI8I32 := .vcvtI8I32
  vcvtI32I8 := .vcvtI32I8
  vbcast := .vbcast
  vextr := .vextr
  vins := .vins
  vrot := .vrot
  vshuf := .vshuf
  vscan := .vscan
  vredadd := .vredadd
  vredmax := .vredmax
  vredmin := .vredmin
  viota := .viota
  vzip := .vzip
  vunzip := .vunzip
  vaddFCompact := .vaddFCompact
  vsubFCompact := .vsubFCompact
  vmulFCompact := .vmulFCompact
  vmaxFCompact := .vmaxFCompact
  vminFCompact := .vminFCompact
  vaddICompact := .vaddICompact
  vsubICompact := .vsubICompact
  vmaxICompact := .vmaxICompact
  vminICompact := .vminICompact
  vandCompact := .vandCompact
  vorCompact := .vorCompact
  vxorCompact := .vxorCompact
  vmovCompact := .vmovCompact
  vnegFCompact := .vnegFCompact
  vabsFCompact := .vabsFCompact
  vshlICompact := .vshlICompact
  kadd := .kadd
  ksub := .ksub
  kmax := .kmax
  kmin := .kmin
  kmov := .kmov
  kset := .kset
  kfromv := .kfromv
  ktov := .ktov
  kbind := .kbind
  kunbind := .kunbind
  kgen := .kgen
  ttset := .ttset
  ttget := .ttget
  ttinv := .ttinv
  tcb := .tcb
  tld := .tld
  tst := .tst
  kld := .kld
  kst := .kst
  ksave := .ksave
  krestore := .krestore
  pcmd := .pcmd
  pwait := .pwait
  pfence := .pfence
  pstat := .pstat
  copy := .copy
  bseal := .bseal
  bdrain := .bdrain
  cwptr := .cwptr
  ctake := .ctake
  cgive := .cgive
  csum := .csum
  creset := .creset
  barv := .barv
  barw := .barw
  barg := .barg
  barp := .barp
  msend := .msend
  mpoll := .mpoll
  winrd := .winrd
  srd := .srd
  swr := .swr
  crd := .crd
  dacc := .dacc
  trcm := .trcm
  tlbinv := .tlbinv
  errinj := .errinj

/-- The compact lane form (R30, Table 2.2). -/
def readCompact {β : Type} (K : Interp β) (w : Nat) : Option β :=
  match fld w 1 4 with
  | 0 => (compactSpec (fld w 11 5)).bind fun a => if a.compact then some (K.vaddFCompact (.ofNat 6 (fld w 5 6)) a) else none
  | 1 => (compactSpec (fld w 11 5)).bind fun a => if a.compact then some (K.vsubFCompact (.ofNat 6 (fld w 5 6)) a) else none
  | 2 => (compactSpec (fld w 11 5)).bind fun a => if a.compact then some (K.vmulFCompact (.ofNat 6 (fld w 5 6)) a) else none
  | 3 => (compactSpec (fld w 11 5)).bind fun a => if a.compact then some (K.vmaxFCompact (.ofNat 6 (fld w 5 6)) a) else none
  | 4 => (compactSpec (fld w 11 5)).bind fun a => if a.compact then some (K.vminFCompact (.ofNat 6 (fld w 5 6)) a) else none
  | 5 => (compactSpec (fld w 11 5)).bind fun a => if a.compact then some (K.vaddICompact (.ofNat 6 (fld w 5 6)) a) else none
  | 6 => (compactSpec (fld w 11 5)).bind fun a => if a.compact then some (K.vsubICompact (.ofNat 6 (fld w 5 6)) a) else none
  | 7 => (compactSpec (fld w 11 5)).bind fun a => if a.compact then some (K.vmaxICompact (.ofNat 6 (fld w 5 6)) a) else none
  | 8 => (compactSpec (fld w 11 5)).bind fun a => if a.compact then some (K.vminICompact (.ofNat 6 (fld w 5 6)) a) else none
  | 9 => (compactSpec (fld w 11 5)).bind fun a => if a.compact then some (K.vandCompact (.ofNat 6 (fld w 5 6)) a) else none
  | 10 => (compactSpec (fld w 11 5)).bind fun a => if a.compact then some (K.vorCompact (.ofNat 6 (fld w 5 6)) a) else none
  | 11 => (compactSpec (fld w 11 5)).bind fun a => if a.compact then some (K.vxorCompact (.ofNat 6 (fld w 5 6)) a) else none
  | 12 => (compactSpec (fld w 11 5)).bind fun a => if a.compact then some (K.vmovCompact (.ofNat 6 (fld w 5 6)) a) else none
  | 13 => (compactSpec (fld w 11 5)).bind fun a => if a.compact then some (K.vnegFCompact (.ofNat 6 (fld w 5 6)) a) else none
  | 14 => (compactSpec (fld w 11 5)).bind fun a => if a.compact then some (K.vabsFCompact (.ofNat 6 (fld w 5 6)) a) else none
  | 15 => (compactSpec (fld w 11 5)).bind fun a => if a.compact then some (K.vshlICompact (.ofNat 6 (fld w 5 6)) a) else none
  | _ => none

/-- Major 0x00 (Table 2.7). -/
def readAlu {β : Type} (K : Interp β) (w : Nat) : Option β :=
  match fld w 25 7 with
  | 0 => (rspec (fld w 7 6)).bind fun d => (rspec (fld w 13 6)).bind fun a => (rspec (fld w 19 6)).bind fun b => if d.writable && a.readable && b.readable then some (K.add d a b) else none
  | 1 => (rspec (fld w 7 6)).bind fun d => (rspec (fld w 13 6)).bind fun a => (rspec (fld w 19 6)).bind fun b => if d.writable && a.readable && b.readable then some (K.sub d a b) else none
  | 2 => (rspec (fld w 7 6)).bind fun d => (rspec (fld w 13 6)).bind fun a => (rspec (fld w 19 6)).bind fun b => if d.writable && a.readable && b.readable then some (K.and d a b) else none
  | 3 => (rspec (fld w 7 6)).bind fun d => (rspec (fld w 13 6)).bind fun a => (rspec (fld w 19 6)).bind fun b => if d.writable && a.readable && b.readable then some (K.or d a b) else none
  | 4 => (rspec (fld w 7 6)).bind fun d => (rspec (fld w 13 6)).bind fun a => (rspec (fld w 19 6)).bind fun b => if d.writable && a.readable && b.readable then some (K.xor d a b) else none
  | 5 => (rspec (fld w 7 6)).bind fun d => (rspec (fld w 13 6)).bind fun a => (rspec (fld w 19 6)).bind fun b => if d.writable && a.readable && b.readable then some (K.andn d a b) else none
  | 6 => (rspec (fld w 7 6)).bind fun d => (rspec (fld w 13 6)).bind fun a => (rspec (fld w 19 6)).bind fun b => if d.writable && a.readable && b.readable then some (K.orn d a b) else none
  | 7 => (rspec (fld w 7 6)).bind fun d => (rspec (fld w 13 6)).bind fun a => (rspec (fld w 19 6)).bind fun b => if d.writable && a.readable && b.readable then some (K.xnor d a b) else none
  | 8 => (rspec (fld w 7 6)).bind fun d => (rspec (fld w 13 6)).bind fun a => (rspec (fld w 19 6)).bind fun b => if d.writable && a.readable && b.readable then some (K.shl d a b) else none
  | 9 => (rspec (fld w 7 6)).bind fun d => (rspec (fld w 13 6)).bind fun a => (rspec (fld w 19 6)).bind fun b => if d.writable && a.readable && b.readable then some (K.shr d a b) else none
  | 10 => (rspec (fld w 7 6)).bind fun d => (rspec (fld w 13 6)).bind fun a => (rspec (fld w 19 6)).bind fun b => if d.writable && a.readable && b.readable then some (K.sra d a b) else none
  | 11 => (rspec (fld w 7 6)).bind fun d => (rspec (fld w 13 6)).bind fun a => (rspec (fld w 19 6)).bind fun b => if d.writable && a.readable && b.readable then some (K.rol d a b) else none
  | 12 => (rspec (fld w 7 6)).bind fun d => (rspec (fld w 13 6)).bind fun a => (rspec (fld w 19 6)).bind fun b => if d.writable && a.readable && b.readable then some (K.ror d a b) else none
  | 13 => (rspec (fld w 7 6)).bind fun d => (rspec (fld w 13 6)).bind fun a => (rspec (fld w 19 6)).bind fun b => if d.writable && a.readable && b.readable then some (K.slt d a b) else none
  | 14 => (rspec (fld w 7 6)).bind fun d => (rspec (fld w 13 6)).bind fun a => (rspec (fld w 19 6)).bind fun b => if d.writable && a.readable && b.readable then some (K.sltu d a b) else none
  | 15 => (rspec (fld w 7 6)).bind fun d => (rspec (fld w 13 6)).bind fun a => (rspec (fld w 19 6)).bind fun b => if d.writable && a.readable && b.readable then some (K.seq d a b) else none
  | 16 => (rspec (fld w 7 6)).bind fun d => (rspec (fld w 13 6)).bind fun a => (rspec (fld w 19 6)).bind fun b => if d.writable && a.readable && b.readable then some (K.sne d a b) else none
  | 17 => (rspec (fld w 7 6)).bind fun d => (rspec (fld w 13 6)).bind fun a => (rspec (fld w 19 6)).bind fun b => if d.writable && a.readable && b.readable then some (K.min d a b) else none
  | 18 => (rspec (fld w 7 6)).bind fun d => (rspec (fld w 13 6)).bind fun a => (rspec (fld w 19 6)).bind fun b => if d.writable && a.readable && b.readable then some (K.max d a b) else none
  | 19 => (rspec (fld w 7 6)).bind fun d => (rspec (fld w 13 6)).bind fun a => (rspec (fld w 19 6)).bind fun b => if d.writable && a.readable && b.readable then some (K.minu d a b) else none
  | 20 => (rspec (fld w 7 6)).bind fun d => (rspec (fld w 13 6)).bind fun a => (rspec (fld w 19 6)).bind fun b => if d.writable && a.readable && b.readable then some (K.maxu d a b) else none
  | 21 => (rspec (fld w 7 6)).bind fun d => (rspec (fld w 13 6)).bind fun a => (rspec (fld w 19 6)).bind fun b => if d.writable && a.readable && b.readable then some (K.shadd1 d a b) else none
  | 22 => (rspec (fld w 7 6)).bind fun d => (rspec (fld w 13 6)).bind fun a => (rspec (fld w 19 6)).bind fun b => if d.writable && a.readable && b.readable then some (K.shadd2 d a b) else none
  | 23 => (rspec (fld w 7 6)).bind fun d => (rspec (fld w 13 6)).bind fun a => (rspec (fld w 19 6)).bind fun b => if d.writable && a.readable && b.readable then some (K.shadd3 d a b) else none
  | 24 => (rspec (fld w 7 6)).bind fun d => (rspec (fld w 13 6)).bind fun a => (rspec (fld w 19 6)).bind fun b => if d.writable && a.readable && b.readable then some (K.addw d a b) else none
  | 25 => (rspec (fld w 7 6)).bind fun d => (rspec (fld w 13 6)).bind fun a => (rspec (fld w 19 6)).bind fun b => if d.writable && a.readable && b.readable then some (K.subw d a b) else none
  | _ => none

/-- Major 0x01 (Table 2.7). -/
def readMulDiv {β : Type} (K : Interp β) (w : Nat) : Option β :=
  match fld w 29 3 with
  | 0 => (rspec (fld w 7 6)).bind fun d => (rspec (fld w 13 6)).bind fun a => (rspec (fld w 19 6)).bind fun b => if d.writable && a.readable && b.readable then some (K.mul d a b (.ofNat 4 (fld w 25 4))) else none
  | 1 => (rspec (fld w 7 6)).bind fun d => (rspec (fld w 13 6)).bind fun a => (rspec (fld w 19 6)).bind fun b => if d.writable && a.readable && b.readable then some (K.mulh d a b (.ofNat 4 (fld w 25 4))) else none
  | 2 => (rspec (fld w 7 6)).bind fun d => (rspec (fld w 13 6)).bind fun a => (rspec (fld w 19 6)).bind fun b => if d.writable && a.readable && b.readable then some (K.mulhu d a b (.ofNat 4 (fld w 25 4))) else none
  | 3 => (rspec (fld w 7 6)).bind fun d => (rspec (fld w 13 6)).bind fun a => (rspec (fld w 19 6)).bind fun b => if d.writable && a.readable && b.readable then some (K.mulhsu d a b (.ofNat 4 (fld w 25 4))) else none
  | 4 => (rspec (fld w 7 6)).bind fun d => (rspec (fld w 13 6)).bind fun a => (rspec (fld w 19 6)).bind fun b => if d.writable && a.readable && b.readable then some (K.div d a b (.ofNat 4 (fld w 25 4))) else none
  | 5 => (rspec (fld w 7 6)).bind fun d => (rspec (fld w 13 6)).bind fun a => (rspec (fld w 19 6)).bind fun b => if d.writable && a.readable && b.readable then some (K.divu d a b (.ofNat 4 (fld w 25 4))) else none
  | 6 => (rspec (fld w 7 6)).bind fun d => (rspec (fld w 13 6)).bind fun a => (rspec (fld w 19 6)).bind fun b => if d.writable && a.readable && b.readable then some (K.rem d a b (.ofNat 4 (fld w 25 4))) else none
  | 7 => (rspec (fld w 7 6)).bind fun d => (rspec (fld w 13 6)).bind fun a => (rspec (fld w 19 6)).bind fun b => if d.writable && a.readable && b.readable then some (K.remu d a b (.ofNat 4 (fld w 25 4))) else none
  | _ => none

/-- Major 0x02 (Table 2.7). -/
def readBits {β : Type} (K : Interp β) (w : Nat) : Option β :=
  match fld w 25 7 with
  | 0 => if fld w 19 6 = 0 then (rspec (fld w 7 6)).bind fun d => (rspec (fld w 13 6)).bind fun a => if d.writable && a.readable then some (K.clz d a) else none else none
  | 1 => if fld w 19 6 = 0 then (rspec (fld w 7 6)).bind fun d => (rspec (fld w 13 6)).bind fun a => if d.writable && a.readable then some (K.ctz d a) else none else none
  | 2 => if fld w 19 6 = 0 then (rspec (fld w 7 6)).bind fun d => (rspec (fld w 13 6)).bind fun a => if d.writable && a.readable then some (K.popc d a) else none else none
  | 3 => if fld w 19 6 = 0 then (rspec (fld w 7 6)).bind fun d => (rspec (fld w 13 6)).bind fun a => if d.writable && a.readable then some (K.brev d a) else none else none
  | 4 => if fld w 19 6 = 0 then (rspec (fld w 7 6)).bind fun d => (rspec (fld w 13 6)).bind fun a => if d.writable && a.readable then some (K.bswap d a) else none else none
  | 5 => if fld w 19 6 = 0 then (rspec (fld w 7 6)).bind fun d => (rspec (fld w 13 6)).bind fun a => if d.writable && a.readable then some (K.sextb d a) else none else none
  | 6 => if fld w 19 6 = 0 then (rspec (fld w 7 6)).bind fun d => (rspec (fld w 13 6)).bind fun a => if d.writable && a.readable then some (K.sexth d a) else none else none
  | 7 => if fld w 19 6 = 0 then (rspec (fld w 7 6)).bind fun d => (rspec (fld w 13 6)).bind fun a => if d.writable && a.readable then some (K.sextw d a) else none else none
  | _ => none

/-- Major 0x0C (Table 2.7). -/
def readShiftI {β : Type} (K : Interp β) (w : Nat) : Option β :=
  match fld w 30 2 with
  | 0 => if fld w 25 5 = 0 then (rspec (fld w 7 6)).bind fun d => (rspec (fld w 13 6)).bind fun a => if d.writable && a.readable then some (K.shli d a (.ofNat 6 (fld w 19 6))) else none else none
  | 1 => if fld w 25 5 = 0 then (rspec (fld w 7 6)).bind fun d => (rspec (fld w 13 6)).bind fun a => if d.writable && a.readable then some (K.shri d a (.ofNat 6 (fld w 19 6))) else none else none
  | 2 => if fld w 25 5 = 0 then (rspec (fld w 7 6)).bind fun d => (rspec (fld w 13 6)).bind fun a => if d.writable && a.readable then some (K.srai d a (.ofNat 6 (fld w 19 6))) else none else none
  | 3 => if fld w 25 5 = 0 then (rspec (fld w 7 6)).bind fun d => (rspec (fld w 13 6)).bind fun a => if d.writable && a.readable then some (K.rori d a (.ofNat 6 (fld w 19 6))) else none else none
  | _ => none

/-- Major 0x10 (Table 2.7). -/
def readBr {β : Type} (K : Interp β) (w : Nat) : Option β :=
  match fld w 7 3 with
  | 0 => (rspec (fld w 10 6)).bind fun a => (rspec (fld w 16 6)).bind fun b => if a.readable && b.readable then some (K.beq a b (.ofNat 10 (fld w 22 10))) else none
  | 1 => (rspec (fld w 10 6)).bind fun a => (rspec (fld w 16 6)).bind fun b => if a.readable && b.readable then some (K.bne a b (.ofNat 10 (fld w 22 10))) else none
  | 2 => (rspec (fld w 10 6)).bind fun a => (rspec (fld w 16 6)).bind fun b => if a.readable && b.readable then some (K.blt a b (.ofNat 10 (fld w 22 10))) else none
  | 3 => (rspec (fld w 10 6)).bind fun a => (rspec (fld w 16 6)).bind fun b => if a.readable && b.readable then some (K.bge a b (.ofNat 10 (fld w 22 10))) else none
  | 4 => (rspec (fld w 10 6)).bind fun a => (rspec (fld w 16 6)).bind fun b => if a.readable && b.readable then some (K.bltu a b (.ofNat 10 (fld w 22 10))) else none
  | 5 => (rspec (fld w 10 6)).bind fun a => (rspec (fld w 16 6)).bind fun b => if a.readable && b.readable then some (K.bgeu a b (.ofNat 10 (fld w 22 10))) else none
  | 6 => (rspec (fld w 10 6)).bind fun a => if a.readable then some (K.bbs a (.ofNat 6 (fld w 16 6)) (.ofNat 10 (fld w 22 10))) else none
  | 7 => (rspec (fld w 10 6)).bind fun a => if a.readable then some (K.bbc a (.ofNat 6 (fld w 16 6)) (.ofNat 10 (fld w 22 10))) else none
  | _ => none

/-- Major 0x16 (Table 2.7). -/
def readAct {β : Type} (K : Interp β) (w : Nat) : Option β :=
  match fld w 25 7 with
  | 0 => match fld w 19 6 with
    | 0 => if fld w 7 12 = 0 then some K.endAct else none
    | 1 => if fld w 7 12 = 0 then some K.endAbort else none
    | _ => none
  | 1 => (rspec (fld w 7 6)).bind fun d => (rspec (fld w 13 6)).bind fun a => (rspec (fld w 19 6)).bind fun b => if d.readable && a.readable && b.readable then some (K.callat d a b) else none
  | 2 => if fld w 7 6 = 0 ∧ fld w 19 6 = 0 then (rspec (fld w 13 6)).bind fun a => if a.readable then some (K.reply a) else none else none
  | 3 => match fld w 19 6 with
    | 0 => (rspec (fld w 7 6)).bind fun d => (rspec (fld w 13 6)).bind fun a => if d.writable && a.readable then some (K.spawn d a) else none
    | 1 => (rspec (fld w 7 6)).bind fun d => (rspec (fld w 13 6)).bind fun a => if d.writable && a.readable then some (K.spawnH d a) else none
    | _ => none
  | 4 => if fld w 19 6 = 0 then (rspec (fld w 7 6)).bind fun d => (rspec (fld w 13 6)).bind fun a => if d.writable && a.readable then some (K.wclaim d a) else none else none
  | 5 => if fld w 7 6 = 0 ∧ fld w 19 6 = 0 then (rspec (fld w 13 6)).bind fun a => if a.readable then some (K.wrel a) else none else none
  | 6 => if fld w 13 12 = 0 then (rspec (fld w 7 6)).bind fun d => if d.group8 then some (K.apop d) else none else none
  | 7 => if fld w 7 6 = 0 ∧ fld w 19 6 = 0 then (rspec (fld w 13 6)).bind fun a => if a.group8 then some (K.apush a) else none else none
  | _ => none

/-- Major 0x17 (Table 2.7). -/
def readTraps {β : Type} (K : Interp β) (w : Nat) : Option β :=
  match fld w 25 7 with
  | 0 => if fld w 7 18 = 0 then some K.nop else none
  | 1 => if fld w 7 6 = 0 ∧ fld w 19 6 = 0 then (rspec (fld w 13 6)).bind fun a => if a.readable then some (K.trap a) else none else none
  | 2 => if fld w 7 18 = 0 then some K.brk else none
  | 3 => if fld w 7 18 = 0 then some K.rte else none
  | 4 => if fld w 7 18 = 0 then some K.idle else none
  | _ => none

/-- Major 0x1B (Table 2.7). -/
def readRow {β : Type} (K : Interp β) (w : Nat) : Option β :=
  match fld w 23 2 with
  | 0 => (rspec (fld w 13 6)).bind fun base => if base.readable then some (K.ldv (.ofNat 6 (fld w 7 6)) base (.ofNat 5 (fld w 27 5)) (.ofNat 2 (fld w 25 2)) (.ofNat 4 (fld w 19 4))) else none
  | 1 => if fld w 19 4 = 0 then (rspec (fld w 13 6)).bind fun base => if base.readable then some (K.stv (.ofNat 6 (fld w 7 6)) base (.ofNat 5 (fld w 27 5)) (.ofNat 2 (fld w 25 2))) else none else none
  | 2 => if fld w 7 6 = 0 ∧ fld w 19 4 = 0 then (rspec (fld w 13 6)).bind fun base => if base.readable then some (K.zfill base (.ofNat 5 (fld w 27 5)) (.ofNat 2 (fld w 25 2))) else none else none
  | 3 => if fld w 7 6 = 0 ∧ fld w 19 4 = 0 then (rspec (fld w 13 6)).bind fun base => if base.readable then some (K.pref base (.ofNat 5 (fld w 27 5)) (.ofNat 2 (fld w 25 2))) else none else none
  | _ => none

/-- Major 0x1C (Table 2.7). -/
def readCache {β : Type} (K : Interp β) (w : Nat) : Option β :=
  match fld w 25 7 with
  | 0 => if fld w 7 18 = 0 then some K.l1inv else none
  | 1 => if fld w 7 6 = 0 then (rspec (fld w 13 6)).bind fun a => if a.readable && decide (fld w 19 6 < 4) then some (K.icinv a (.ofNat 6 (fld w 19 6))) else none else none
  | 2 => if fld w 7 6 = 0 then (rspec (fld w 13 6)).bind fun a => (rspec (fld w 19 6)).bind fun b => if a.readable && b.readable then some (K.bankmode a b) else none else none
  | 3 => if fld w 13 12 = 0 then (rspec (fld w 7 6)).bind fun d => if d.writable then some (K.bankq d) else none else none
  | _ => none

/-- Major 0x1E (Table 2.7). -/
def readLds {β : Type} (K : Interp β) (w : Nat) : Option β :=
  match fld w 23 4 with
  | 3 => (rspec (fld w 7 6)).bind fun t => (rspec (fld w 13 6)).bind fun base => if t.writable && base.readable then some (K.lds t base (.ofNat 5 (fld w 27 5)) (.ofNat 4 (fld w 19 4))) else none
  | 7 => (rspec (fld w 7 6)).bind fun t => (rspec (fld w 13 6)).bind fun base => if t.writable && base.readable then some (K.ldsE t base (.ofNat 5 (fld w 27 5)) (.ofNat 4 (fld w 19 4))) else none
  | _ => none

/-- Major 0x1F (Table 2.7). -/
def readStf {β : Type} (K : Interp β) (w : Nat) : Option β :=
  match fld w 23 2 with
  | 3 => if fld w 19 4 = 0 then (rspec (fld w 7 6)).bind fun t => (rspec (fld w 13 6)).bind fun base => if t.readable && base.readable then some (K.stf t base (.ofNat 5 (fld w 27 5)) (.ofNat 2 (fld w 25 2))) else none else none
  | _ => none

/-- Major 0x20 (Table 2.7). -/
def readAtom {β : Type} (K : Interp β) (w : Nat) : Option β :=
  match fld w 23 4 with
  | 0 => (rspec (fld w 7 6)).bind fun d => (rspec (fld w 13 6)).bind fun a => if d.inOut && a.readable && (fld w 19 4 == 0 || fld w 27 2 == 0 || fld w 27 2 == 2) then some (K.aadd d a (.ofNat 1 (fld w 31 1)) (.ofNat 2 (fld w 29 2)) (.ofNat 2 (fld w 27 2)) (.ofNat 4 (fld w 19 4))) else none
  | 1 => (rspec (fld w 7 6)).bind fun d => (rspec (fld w 13 6)).bind fun a => if d.inOut && a.readable && (fld w 19 4 == 0 || fld w 27 2 == 0 || fld w 27 2 == 2) then some (K.aand d a (.ofNat 1 (fld w 31 1)) (.ofNat 2 (fld w 29 2)) (.ofNat 2 (fld w 27 2)) (.ofNat 4 (fld w 19 4))) else none
  | 2 => (rspec (fld w 7 6)).bind fun d => (rspec (fld w 13 6)).bind fun a => if d.inOut && a.readable && (fld w 19 4 == 0 || fld w 27 2 == 0 || fld w 27 2 == 2) then some (K.aor d a (.ofNat 1 (fld w 31 1)) (.ofNat 2 (fld w 29 2)) (.ofNat 2 (fld w 27 2)) (.ofNat 4 (fld w 19 4))) else none
  | 3 => (rspec (fld w 7 6)).bind fun d => (rspec (fld w 13 6)).bind fun a => if d.inOut && a.readable && (fld w 19 4 == 0 || fld w 27 2 == 0 || fld w 27 2 == 2) then some (K.axor d a (.ofNat 1 (fld w 31 1)) (.ofNat 2 (fld w 29 2)) (.ofNat 2 (fld w 27 2)) (.ofNat 4 (fld w 19 4))) else none
  | 4 => (rspec (fld w 7 6)).bind fun d => (rspec (fld w 13 6)).bind fun a => if d.inOut && a.readable && (fld w 19 4 == 0 || fld w 27 2 == 0 || fld w 27 2 == 2) then some (K.amin d a (.ofNat 1 (fld w 31 1)) (.ofNat 2 (fld w 29 2)) (.ofNat 2 (fld w 27 2)) (.ofNat 4 (fld w 19 4))) else none
  | 5 => (rspec (fld w 7 6)).bind fun d => (rspec (fld w 13 6)).bind fun a => if d.inOut && a.readable && (fld w 19 4 == 0 || fld w 27 2 == 0 || fld w 27 2 == 2) then some (K.amax d a (.ofNat 1 (fld w 31 1)) (.ofNat 2 (fld w 29 2)) (.ofNat 2 (fld w 27 2)) (.ofNat 4 (fld w 19 4))) else none
  | 6 => (rspec (fld w 7 6)).bind fun d => (rspec (fld w 13 6)).bind fun a => if d.inOut && a.readable && (fld w 19 4 == 0 || fld w 27 2 == 0 || fld w 27 2 == 2) then some (K.aminu d a (.ofNat 1 (fld w 31 1)) (.ofNat 2 (fld w 29 2)) (.ofNat 2 (fld w 27 2)) (.ofNat 4 (fld w 19 4))) else none
  | 7 => (rspec (fld w 7 6)).bind fun d => (rspec (fld w 13 6)).bind fun a => if d.inOut && a.readable && (fld w 19 4 == 0 || fld w 27 2 == 0 || fld w 27 2 == 2) then some (K.amaxu d a (.ofNat 1 (fld w 31 1)) (.ofNat 2 (fld w 29 2)) (.ofNat 2 (fld w 27 2)) (.ofNat 4 (fld w 19 4))) else none
  | 8 => (rspec (fld w 7 6)).bind fun d => (rspec (fld w 13 6)).bind fun a => if d.inOut && a.readable && (fld w 19 4 == 0 || fld w 27 2 == 0 || fld w 27 2 == 2) then some (K.axchg d a (.ofNat 1 (fld w 31 1)) (.ofNat 2 (fld w 29 2)) (.ofNat 2 (fld w 27 2)) (.ofNat 4 (fld w 19 4))) else none
  | 9 => (rspec (fld w 7 6)).bind fun d => (rspec (fld w 13 6)).bind fun a => if d.inOut && a.readable && (fld w 19 4 == 0 || fld w 27 2 == 0 || fld w 27 2 == 2) then some (K.afadd d a (.ofNat 1 (fld w 31 1)) (.ofNat 2 (fld w 29 2)) (.ofNat 2 (fld w 27 2)) (.ofNat 4 (fld w 19 4))) else none
  | 10 => (rspec (fld w 7 6)).bind fun d => (rspec (fld w 13 6)).bind fun a => if d.inOut && a.readable && (fld w 19 4 == 0 || fld w 27 2 == 0 || fld w 27 2 == 2) then some (K.afmin d a (.ofNat 1 (fld w 31 1)) (.ofNat 2 (fld w 29 2)) (.ofNat 2 (fld w 27 2)) (.ofNat 4 (fld w 19 4))) else none
  | 11 => (rspec (fld w 7 6)).bind fun d => (rspec (fld w 13 6)).bind fun a => if d.inOut && a.readable && (fld w 19 4 == 0 || fld w 27 2 == 0 || fld w 27 2 == 2) then some (K.afmax d a (.ofNat 1 (fld w 31 1)) (.ofNat 2 (fld w 29 2)) (.ofNat 2 (fld w 27 2)) (.ofNat 4 (fld w 19 4))) else none
  | 12 => (rspec (fld w 7 6)).bind fun d => (rspec (fld w 13 6)).bind fun a => if d.inOut && a.readable && (fld w 19 4 == 0 || fld w 27 2 == 0 || fld w 27 2 == 2) then some (K.ald d a (.ofNat 1 (fld w 31 1)) (.ofNat 2 (fld w 29 2)) (.ofNat 2 (fld w 27 2)) (.ofNat 4 (fld w 19 4))) else none
  | 13 => if fld w 19 4 = 0 then (rspec (fld w 7 6)).bind fun d => (rspec (fld w 13 6)).bind fun a => if d.inOut && a.readable then some (K.ast d a (.ofNat 1 (fld w 31 1)) (.ofNat 2 (fld w 29 2)) (.ofNat 2 (fld w 27 2))) else none else none
  | _ => none

/-- Major 0x22 (Table 2.7). -/
def readOrder {β : Type} (K : Interp β) (w : Nat) : Option β :=
  match fld w 25 7 with
  | 0 => if fld w 13 12 = 0 then (rspec (fld w 7 6)).bind fun d => if d.inOut then some (K.phase d) else none else none
  | 1 => if fld w 7 12 = 0 then if decide (fld w 19 6 < 4) then some (K.rel (.ofNat 6 (fld w 19 6))) else none else none
  | 2 => if fld w 7 18 = 0 then some K.acq else none
  | 3 => if fld w 7 18 = 0 then some K.fence else none
  | 4 => if fld w 13 12 = 0 then (rspec (fld w 7 6)).bind fun d => if d.inOut then some (K.clrt d) else none else none
  | 5 => if fld w 13 12 = 0 then (rspec (fld w 7 6)).bind fun d => if d.inOut then some (K.phasen d) else none else none
  | _ => none

/-- Major 0x28 (Table 2.7). -/
def readVF {β : Type} (K : Interp β) (w : Nat) : Option β :=
  match fld w 28 4 with
  | 0 => (lspec (fld w 7 7)).bind fun d => (lspec (fld w 14 7)).bind fun a => (lspec (fld w 21 7)).bind fun b => if d.dest && a.source && b.source then some (K.vaddF d a b) else none
  | 1 => (lspec (fld w 7 7)).bind fun d => (lspec (fld w 14 7)).bind fun a => (lspec (fld w 21 7)).bind fun b => if d.dest && a.source && b.source then some (K.vsubF d a b) else none
  | 2 => (lspec (fld w 7 7)).bind fun d => (lspec (fld w 14 7)).bind fun a => (lspec (fld w 21 7)).bind fun b => if d.dest && a.source && b.source then some (K.vmulF d a b) else none
  | 3 => (lspec (fld w 7 7)).bind fun d => (lspec (fld w 14 7)).bind fun a => (lspec (fld w 21 7)).bind fun b => if d.destRead && a.source && b.source then some (K.vfma d a b) else none
  | 4 => (lspec (fld w 7 7)).bind fun d => (lspec (fld w 14 7)).bind fun a => (lspec (fld w 21 7)).bind fun b => if d.destRead && a.source && b.source then some (K.vfms d a b) else none
  | 5 => (lspec (fld w 7 7)).bind fun d => (lspec (fld w 14 7)).bind fun a => (lspec (fld w 21 7)).bind fun b => if d.dest && a.source && b.source then some (K.vmaxF d a b) else none
  | 6 => (lspec (fld w 7 7)).bind fun d => (lspec (fld w 14 7)).bind fun a => (lspec (fld w 21 7)).bind fun b => if d.dest && a.source && b.source then some (K.vminF d a b) else none
  | 7 => if fld w 21 7 = 0 then (lspec (fld w 7 7)).bind fun d => (lspec (fld w 14 7)).bind fun a => if d.dest && a.source then some (K.vnegF d a) else none else none
  | 8 => if fld w 21 7 = 0 then (lspec (fld w 7 7)).bind fun d => (lspec (fld w 14 7)).bind fun a => if d.dest && a.source then some (K.vabsF d a) else none else none
  | 9 => if fld w 21 7 = 0 then (lspec (fld w 7 7)).bind fun d => (lspec (fld w 14 7)).bind fun a => if d.dest && a.source then some (K.vrcp d a) else none else none
  | 10 => if fld w 21 7 = 0 then (lspec (fld w 7 7)).bind fun d => (lspec (fld w 14 7)).bind fun a => if d.dest && a.source then some (K.vrsq d a) else none else none
  | 11 => (lspec (fld w 7 7)).bind fun d => (lspec (fld w 14 7)).bind fun a => (lspec (fld w 21 7)).bind fun b => if d.dest && a.source && b.source then some (K.vrcps d a b) else none
  | 12 => (lspec (fld w 7 7)).bind fun d => (lspec (fld w 14 7)).bind fun a => (lspec (fld w 21 7)).bind fun b => if d.dest && a.source && b.source then some (K.vrsqs d a b) else none
  | 13 => if fld w 21 7 = 0 then (lspec (fld w 7 7)).bind fun d => (lspec (fld w 14 7)).bind fun a => if d.dest && a.source then some (K.vexp2 d a) else none else none
  | 14 => if fld w 21 7 = 0 then (lspec (fld w 7 7)).bind fun d => (lspec (fld w 14 7)).bind fun a => if d.dest && a.source then some (K.vlog2 d a) else none else none
  | 15 => (lspec (fld w 7 7)).bind fun d => (lspec (fld w 14 7)).bind fun a => (lspec (fld w 21 7)).bind fun b => if d.destRead && a.source && b.source then some (K.vclamp d a b) else none
  | _ => none

/-- Major 0x29 (Table 2.7). -/
def readVI {β : Type} (K : Interp β) (w : Nat) : Option β :=
  match fld w 28 4 with
  | 0 => (lspec (fld w 7 7)).bind fun d => (lspec (fld w 14 7)).bind fun a => (lspec (fld w 21 7)).bind fun b => if d.dest && a.source && b.source then some (K.vaddI d a b) else none
  | 1 => (lspec (fld w 7 7)).bind fun d => (lspec (fld w 14 7)).bind fun a => (lspec (fld w 21 7)).bind fun b => if d.dest && a.source && b.source then some (K.vsubI d a b) else none
  | 2 => (lspec (fld w 7 7)).bind fun d => (lspec (fld w 14 7)).bind fun a => (lspec (fld w 21 7)).bind fun b => if d.dest && a.source && b.source then some (K.vmulI d a b) else none
  | 3 => (lspec (fld w 7 7)).bind fun d => (lspec (fld w 14 7)).bind fun a => (lspec (fld w 21 7)).bind fun b => if d.dest && a.source && b.source then some (K.vmulh d a b) else none
  | 4 => (lspec (fld w 7 7)).bind fun d => (lspec (fld w 14 7)).bind fun a => (lspec (fld w 21 7)).bind fun b => if d.destRead && a.source && b.source then some (K.vmad d a b) else none
  | 5 => (lspec (fld w 7 7)).bind fun d => (lspec (fld w 14 7)).bind fun a => (lspec (fld w 21 7)).bind fun b => if d.dest && a.source && b.source then some (K.vmaxI d a b) else none
  | 6 => (lspec (fld w 7 7)).bind fun d => (lspec (fld w 14 7)).bind fun a => (lspec (fld w 21 7)).bind fun b => if d.dest && a.source && b.source then some (K.vminI d a b) else none
  | 7 => if fld w 21 7 = 0 then (lspec (fld w 7 7)).bind fun d => (lspec (fld w 14 7)).bind fun a => if d.dest && a.source then some (K.vabsI d a) else none else none
  | 8 => (lspec (fld w 7 7)).bind fun d => (lspec (fld w 14 7)).bind fun a => (lspec (fld w 21 7)).bind fun b => if d.dest && a.source && b.source then some (K.vshl d a b) else none
  | 9 => (lspec (fld w 7 7)).bind fun d => (lspec (fld w 14 7)).bind fun a => (lspec (fld w 21 7)).bind fun b => if d.dest && a.source && b.source then some (K.vshr d a b) else none
  | 10 => (lspec (fld w 7 7)).bind fun d => (lspec (fld w 14 7)).bind fun a => (lspec (fld w 21 7)).bind fun b => if d.dest && a.source && b.source then some (K.vsra d a b) else none
  | 11 => (lspec (fld w 7 7)).bind fun d => (lspec (fld w 14 7)).bind fun a => (lspec (fld w 21 7)).bind fun b => if d.dest && a.source && b.source then some (K.vadds d a b) else none
  | 12 => (lspec (fld w 7 7)).bind fun d => (lspec (fld w 14 7)).bind fun a => (lspec (fld w 21 7)).bind fun b => if d.dest && a.source && b.source then some (K.vsubs d a b) else none
  | 13 => (lspec (fld w 7 7)).bind fun d => (lspec (fld w 14 7)).bind fun a => (lspec (fld w 21 7)).bind fun b => if d.dest && a.source && b.source then some (K.vmaxu d a b) else none
  | 14 => (lspec (fld w 7 7)).bind fun d => (lspec (fld w 14 7)).bind fun a => (lspec (fld w 21 7)).bind fun b => if d.dest && a.source && b.source then some (K.vminu d a b) else none
  | 15 => if fld w 21 7 = 0 then (lspec (fld w 7 7)).bind fun d => (lspec (fld w 14 7)).bind fun a => if d.dest && a.source then some (K.vnegI d a) else none else none
  | _ => none

/-- Major 0x2A (Table 2.7). -/
def readVL {β : Type} (K : Interp β) (w : Nat) : Option β :=
  match fld w 28 4 with
  | 0 => (lspec (fld w 7 7)).bind fun d => (lspec (fld w 14 7)).bind fun a => (lspec (fld w 21 7)).bind fun b => if d.dest && a.source && b.source then some (K.vand d a b) else none
  | 1 => (lspec (fld w 7 7)).bind fun d => (lspec (fld w 14 7)).bind fun a => (lspec (fld w 21 7)).bind fun b => if d.dest && a.source && b.source then some (K.vor d a b) else none
  | 2 => (lspec (fld w 7 7)).bind fun d => (lspec (fld w 14 7)).bind fun a => (lspec (fld w 21 7)).bind fun b => if d.dest && a.source && b.source then some (K.vxor d a b) else none
  | 3 => (lspec (fld w 7 7)).bind fun d => (lspec (fld w 14 7)).bind fun a => (lspec (fld w 21 7)).bind fun b => if d.dest && a.source && b.source then some (K.vandn d a b) else none
  | 4 => if fld w 21 7 = 0 then (lspec (fld w 7 7)).bind fun d => (lspec (fld w 14 7)).bind fun a => if d.dest && a.source then some (K.vnot d a) else none else none
  | 5 => if fld w 21 7 = 0 then (lspec (fld w 7 7)).bind fun d => (lspec (fld w 14 7)).bind fun a => if d.dest && a.source then some (K.vmov d a) else none else none
  | 6 => (lspec (fld w 7 7)).bind fun d => (lspec (fld w 14 7)).bind fun a => (lspec (fld w 21 7)).bind fun b => if d.dest && a.source && b.source then some (K.vsel d a b) else none
  | 7 => if fld w 21 7 = 0 then (lspec (fld w 7 7)).bind fun d => (lspec (fld w 14 7)).bind fun a => if d.dest && a.source then some (K.vpopc d a) else none else none
  | 8 => if fld w 21 7 = 0 then (lspec (fld w 7 7)).bind fun d => (lspec (fld w 14 7)).bind fun a => if d.dest && a.source then some (K.vclz d a) else none else none
  | _ => none

/-- Major 0x2B (Table 2.7). -/
def readVC {β : Type} (K : Interp β) (w : Nat) : Option β :=
  match fld w 28 4 with
  | 0 => (lspec (fld w 7 7)).bind fun d => (lspec (fld w 14 7)).bind fun a => (lspec (fld w 21 7)).bind fun b => if d.dest && a.source && b.source then some (K.vceqF d a b) else none
  | 1 => (lspec (fld w 7 7)).bind fun d => (lspec (fld w 14 7)).bind fun a => (lspec (fld w 21 7)).bind fun b => if d.dest && a.source && b.source then some (K.vcneF d a b) else none
  | 2 => (lspec (fld w 7 7)).bind fun d => (lspec (fld w 14 7)).bind fun a => (lspec (fld w 21 7)).bind fun b => if d.dest && a.source && b.source then some (K.vcltF d a b) else none
  | 3 => (lspec (fld w 7 7)).bind fun d => (lspec (fld w 14 7)).bind fun a => (lspec (fld w 21 7)).bind fun b => if d.dest && a.source && b.source then some (K.vcleF d a b) else none
  | 4 => (lspec (fld w 7 7)).bind fun d => (lspec (fld w 14 7)).bind fun a => (lspec (fld w 21 7)).bind fun b => if d.dest && a.source && b.source then some (K.vcunF d a b) else none
  | 8 => (lspec (fld w 7 7)).bind fun d => (lspec (fld w 14 7)).bind fun a => (lspec (fld w 21 7)).bind fun b => if d.dest && a.source && b.source then some (K.vceqI d a b) else none
  | 9 => (lspec (fld w 7 7)).bind fun d => (lspec (fld w 14 7)).bind fun a => (lspec (fld w 21 7)).bind fun b => if d.dest && a.source && b.source then some (K.vcneI d a b) else none
  | 10 => (lspec (fld w 7 7)).bind fun d => (lspec (fld w 14 7)).bind fun a => (lspec (fld w 21 7)).bind fun b => if d.dest && a.source && b.source then some (K.vcltI d a b) else none
  | 11 => (lspec (fld w 7 7)).bind fun d => (lspec (fld w 14 7)).bind fun a => (lspec (fld w 21 7)).bind fun b => if d.dest && a.source && b.source then some (K.vcleI d a b) else none
  | 12 => (lspec (fld w 7 7)).bind fun d => (lspec (fld w 14 7)).bind fun a => (lspec (fld w 21 7)).bind fun b => if d.dest && a.source && b.source then some (K.vcltu d a b) else none
  | 13 => (lspec (fld w 7 7)).bind fun d => (lspec (fld w 14 7)).bind fun a => (lspec (fld w 21 7)).bind fun b => if d.dest && a.source && b.source then some (K.vcleu d a b) else none
  | _ => none

/-- Major 0x2C (Table 2.7). -/
def readVM {β : Type} (K : Interp β) (w : Nat) : Option β :=
  match fld w 28 4 with
  | 0 => (lspec (fld w 7 7)).bind fun d => (lspec (fld w 14 7)).bind fun a => (lspec (fld w 21 7)).bind fun b => if d.maskDest && a.maskSource && b.maskSource then some (K.mand d a b) else none
  | 1 => (lspec (fld w 7 7)).bind fun d => (lspec (fld w 14 7)).bind fun a => (lspec (fld w 21 7)).bind fun b => if d.maskDest && a.maskSource && b.maskSource then some (K.mor d a b) else none
  | 2 => (lspec (fld w 7 7)).bind fun d => (lspec (fld w 14 7)).bind fun a => (lspec (fld w 21 7)).bind fun b => if d.maskDest && a.maskSource && b.maskSource then some (K.mxor d a b) else none
  | 3 => if fld w 21 7 = 0 then (lspec (fld w 7 7)).bind fun d => (lspec (fld w 14 7)).bind fun a => if d.maskDest && a.maskSource then some (K.mnot d a) else none else none
  | 4 => (lspec (fld w 7 7)).bind fun d => (lspec (fld w 14 7)).bind fun a => (lspec (fld w 21 7)).bind fun b => if d.maskDest && a.maskSource && b.maskSource then some (K.mandn d a b) else none
  | 5 => if fld w 7 7 = 0 ∧ fld w 21 7 = 0 then (lspec (fld w 14 7)).bind fun a => if a.mask then some (K.msel a) else none else none
  | 6 => if fld w 13 1 = 0 ∧ fld w 21 7 = 0 then (rspec (fld w 7 6)).bind fun d => (lspec (fld w 14 7)).bind fun a => if d.writable && a.maskSource then some (K.mpopc d a) else none else none
  | 7 => if fld w 13 1 = 0 ∧ fld w 21 7 = 0 then (rspec (fld w 7 6)).bind fun d => (lspec (fld w 14 7)).bind fun a => if d.writable && a.maskSource then some (K.mfirst d a) else none else none
  | _ => none

/-- Major 0x2D (Table 2.7). -/
def readVX {β : Type} (K : Interp β) (w : Nat) : Option β :=
  match fld w 28 4 with
  | 0 => (lspec (fld w 7 7)).bind fun d => (lspec (fld w 14 7)).bind fun a => if d.dest && a.source && decide (fld w 21 7 ≤ 1) then some (K.vcvtF32F16 d a (.ofNat 7 (fld w 21 7))) else none
  | 1 => (lspec (fld w 7 7)).bind fun d => (lspec (fld w 14 7)).bind fun a => if d.destRead && a.source && decide (fld w 21 7 ≤ 1) then some (K.vcvtF16F32 d a (.ofNat 7 (fld w 21 7))) else none
  | 2 => (lspec (fld w 7 7)).bind fun d => (lspec (fld w 14 7)).bind fun a => if d.dest && a.source && decide (fld w 21 7 ≤ 1) then some (K.vcvtF32Bf16 d a (.ofNat 7 (fld w 21 7))) else none
  | 3 => (lspec (fld w 7 7)).bind fun d => (lspec (fld w 14 7)).bind fun a => if d.destRead && a.source && decide (fld w 21 7 ≤ 1) then some (K.vcvtBf16F32 d a (.ofNat 7 (fld w 21 7))) else none
  | 4 => (lspec (fld w 7 7)).bind fun d => (lspec (fld w 14 7)).bind fun a => if d.dest && a.source && decide (fld w 21 7 ≤ 3) then some (K.vcvtF32E4m3 d a (.ofNat 7 (fld w 21 7))) else none
  | 5 => (lspec (fld w 7 7)).bind fun d => (lspec (fld w 14 7)).bind fun a => if d.destRead && a.source && decide (fld w 21 7 ≤ 3) then some (K.vcvtE4m3F32 d a (.ofNat 7 (fld w 21 7))) else none
  | 6 => (lspec (fld w 7 7)).bind fun d => (lspec (fld w 14 7)).bind fun a => if d.dest && a.source && decide (fld w 21 7 ≤ 3) then some (K.vcvtF32E5m2 d a (.ofNat 7 (fld w 21 7))) else none
  | 7 => (lspec (fld w 7 7)).bind fun d => (lspec (fld w 14 7)).bind fun a => if d.destRead && a.source && decide (fld w 21 7 ≤ 3) then some (K.vcvtE5m2F32 d a (.ofNat 7 (fld w 21 7))) else none
  | 8 => if fld w 21 7 = 0 then (lspec (fld w 7 7)).bind fun d => (lspec (fld w 14 7)).bind fun a => if d.dest && a.source then some (K.vcvtI32F32 d a) else none else none
  | 9 => if fld w 21 7 = 0 then (lspec (fld w 7 7)).bind fun d => (lspec (fld w 14 7)).bind fun a => if d.dest && a.source then some (K.vcvtF32I32 d a) else none else none
  | 10 => (lspec (fld w 7 7)).bind fun d => (lspec (fld w 14 7)).bind fun a => if d.destRead && a.source && decide (fld w 21 7 ≤ 1) then some (K.vcvtI16I32 d a (.ofNat 7 (fld w 21 7))) else none
  | 11 => (lspec (fld w 7 7)).bind fun d => (lspec (fld w 14 7)).bind fun a => if d.dest && a.source && decide (fld w 21 7 ≤ 1) then some (K.vcvtI32I16 d a (.ofNat 7 (fld w 21 7))) else none
  | 12 => (lspec (fld w 7 7)).bind fun d => (lspec (fld w 14 7)).bind fun a => if d.dest && a.source && decide (fld w 21 7 ≤ 7) then some (K.vcvtF32Cb4 d a (.ofNat 7 (fld w 21 7))) else none
  | 13 => (lspec (fld w 7 7)).bind fun d => (lspec (fld w 14 7)).bind fun a => if d.destRead && a.source && decide (fld w 21 7 ≤ 7) then some (K.vcvtCb4F32 d a (.ofNat 7 (fld w 21 7))) else none
  | 14 => (lspec (fld w 7 7)).bind fun d => (lspec (fld w 14 7)).bind fun a => if d.destRead && a.source && decide (fld w 21 7 ≤ 3) then some (K.vcvtI8I32 d a (.ofNat 7 (fld w 21 7))) else none
  | 15 => (lspec (fld w 7 7)).bind fun d => (lspec (fld w 14 7)).bind fun a => if d.dest && a.source && decide (fld w 21 7 ≤ 3) then some (K.vcvtI32I8 d a (.ofNat 7 (fld w 21 7))) else none
  | _ => none

/-- Major 0x2E (Table 2.7). VINS keeps lanes of its destination, which a channel has not: ILL (R37; log entry 80). -/
def readVP {β : Type} (K : Interp β) (w : Nat) : Option β :=
  match fld w 28 4 with
  | 0 => if fld w 27 1 = 0 then (lspec (fld w 7 7)).bind fun d => (lspec (fld w 14 7)).bind fun a => (rspec (fld w 21 6)).bind fun b => if d.dest && a.source && b.readable then some (K.vbcast d a b) else none else none
  | 1 => if fld w 13 1 = 0 ∧ fld w 27 1 = 0 then (rspec (fld w 7 6)).bind fun d => (lspec (fld w 14 7)).bind fun a => (rspec (fld w 21 6)).bind fun b => if d.writable && a.source && b.readable then some (K.vextr d a b) else none else none
  | 2 => if fld w 20 1 = 0 ∧ fld w 27 1 = 0 then (lspec (fld w 7 7)).bind fun d => (rspec (fld w 14 6)).bind fun a => (rspec (fld w 21 6)).bind fun b => if d.destRead && a.readable && b.readable then some (K.vins d a b) else none else none
  | 3 => if fld w 27 1 = 0 then (lspec (fld w 7 7)).bind fun d => (lspec (fld w 14 7)).bind fun a => (rspec (fld w 21 6)).bind fun b => if d.dest && a.source && b.readable then some (K.vrot d a b) else none else none
  | 4 => (lspec (fld w 7 7)).bind fun d => (lspec (fld w 14 7)).bind fun a => (lspec (fld w 21 7)).bind fun b => if d.dest && a.source && b.source then some (K.vshuf d a b) else none
  | 5 => (lspec (fld w 7 7)).bind fun d => (lspec (fld w 14 7)).bind fun a => if d.dest && a.source && decide (fld w 21 7 ≤ 1) then some (K.vscan d a (.ofNat 7 (fld w 21 7))) else none
  | 6 => if fld w 13 1 = 0 then (rspec (fld w 7 6)).bind fun d => (lspec (fld w 14 7)).bind fun a => if d.writable && a.source && decide (fld w 21 7 ≤ 1) then some (K.vredadd d a (.ofNat 7 (fld w 21 7))) else none else none
  | 7 => if fld w 13 1 = 0 then (rspec (fld w 7 6)).bind fun d => (lspec (fld w 14 7)).bind fun a => if d.writable && a.source && decide (fld w 21 7 ≤ 2) then some (K.vredmax d a (.ofNat 7 (fld w 21 7))) else none else none
  | 8 => if fld w 13 1 = 0 then (rspec (fld w 7 6)).bind fun d => (lspec (fld w 14 7)).bind fun a => if d.writable && a.source && decide (fld w 21 7 ≤ 2) then some (K.vredmin d a (.ofNat 7 (fld w 21 7))) else none else none
  | 9 => if fld w 14 14 = 0 then (lspec (fld w 7 7)).bind fun d => if d.dest then some (K.viota d) else none else none
  | 10 => (lspec (fld w 7 7)).bind fun d => (lspec (fld w 14 7)).bind fun a => (lspec (fld w 21 7)).bind fun b => if d.dest && a.source && b.source then some (K.vzip d a b) else none
  | 11 => (lspec (fld w 7 7)).bind fun d => (lspec (fld w 14 7)).bind fun a => (lspec (fld w 21 7)).bind fun b => if d.dest && a.source && b.source then some (K.vunzip d a b) else none
  | _ => none

/-- Major 0x30 (Table 2.7). -/
def readKop {β : Type} (K : Interp β) (w : Nat) : Option β :=
  match fld w 25 7 with
  | 0 => if fld w 19 6 = 0 then some (K.kadd (.ofNat 4 (fld w 7 4)) (.ofNat 4 (fld w 11 4)) (.ofNat 4 (fld w 15 4))) else none
  | 1 => if fld w 19 6 = 0 then some (K.ksub (.ofNat 4 (fld w 7 4)) (.ofNat 4 (fld w 11 4)) (.ofNat 4 (fld w 15 4))) else none
  | 2 => if fld w 19 6 = 0 then some (K.kmax (.ofNat 4 (fld w 7 4)) (.ofNat 4 (fld w 11 4)) (.ofNat 4 (fld w 15 4))) else none
  | 3 => if fld w 19 6 = 0 then some (K.kmin (.ofNat 4 (fld w 7 4)) (.ofNat 4 (fld w 11 4)) (.ofNat 4 (fld w 15 4))) else none
  | 4 => if fld w 15 10 = 0 then some (K.kmov (.ofNat 4 (fld w 7 4)) (.ofNat 4 (fld w 11 4))) else none
  | 5 => if fld w 11 8 = 0 then (rspec (fld w 19 6)).bind fun r => if r.readable then some (K.kset (.ofNat 4 (fld w 7 4)) r) else none else none
  | 6 => if fld w 11 8 = 0 then some (K.kfromv (.ofNat 4 (fld w 7 4)) (.ofNat 6 (fld w 19 6))) else none
  | 7 => if fld w 7 4 = 0 ∧ fld w 15 4 = 0 then some (K.ktov (.ofNat 6 (fld w 19 6)) (.ofNat 4 (fld w 11 4))) else none
  | 8 => if fld w 11 4 = 0 then (rspec (fld w 19 6)).bind fun r => if r.readable then some (K.kbind (.ofNat 4 (fld w 7 4)) (.ofNat 4 (fld w 15 4)) r) else none else none
  | 9 => if fld w 7 8 = 0 ∧ fld w 19 6 = 0 then some (K.kunbind (.ofNat 4 (fld w 15 4))) else none
  | 10 => if fld w 7 4 = 0 ∧ fld w 15 4 = 0 then (rspec (fld w 19 6)).bind fun r => if r.writable then some (K.kgen r (.ofNat 4 (fld w 11 4))) else none else none
  | _ => none

/-- Major 0x31 (Table 2.7). -/
def readTt {β : Type} (K : Interp β) (w : Nat) : Option β :=
  match fld w 25 7 with
  | 0 => if fld w 7 6 = 0 then (rspec (fld w 13 6)).bind fun a => (rspec (fld w 19 6)).bind fun b => if a.readable && b.group4 then some (K.ttset a b) else none else none
  | 1 => if fld w 19 6 = 0 then (rspec (fld w 7 6)).bind fun d => (rspec (fld w 13 6)).bind fun a => if d.group4 && a.readable then some (K.ttget d a) else none else none
  | 2 => if fld w 7 6 = 0 ∧ fld w 19 6 = 0 then (rspec (fld w 13 6)).bind fun a => if a.readable then some (K.ttinv a) else none else none
  | 3 => if fld w 7 6 = 0 then (rspec (fld w 13 6)).bind fun a => (rspec (fld w 19 6)).bind fun b => if a.readable && b.readable then some (K.tcb a b) else none else none
  | _ => none

/-- Major 0x32 (Table 2.7). -/
def readTld {β : Type} (K : Interp β) (w : Nat) : Option β :=
  match fld w 31 1 with
  | 0 => (rspec (fld w 7 6)).bind fun a => (rspec (fld w 13 6)).bind fun b => if a.readable && b.pair then some (K.tld (.ofNat 4 (fld w 23 4)) (.ofNat 4 (fld w 27 4)) a b (.ofNat 4 (fld w 19 4))) else none
  | 1 => if fld w 19 4 = 0 ∧ fld w 27 4 = 0 then (rspec (fld w 7 6)).bind fun a => (rspec (fld w 13 6)).bind fun b => if a.readable && b.pair then some (K.tst (.ofNat 4 (fld w 23 4)) a b) else none else none
  | _ => none

/-- Major 0x33 (Table 2.7). -/
def readKmem {β : Type} (K : Interp β) (w : Nat) : Option β :=
  match fld w 25 7 with
  | 0 => if fld w 11 8 = 0 then (rspec (fld w 19 6)).bind fun r => if r.readable then some (K.kld (.ofNat 4 (fld w 7 4)) r) else none else none
  | 1 => if fld w 7 4 = 0 ∧ fld w 15 4 = 0 then (rspec (fld w 19 6)).bind fun r => if r.readable then some (K.kst (.ofNat 4 (fld w 11 4)) r) else none else none
  | 2 => if fld w 7 12 = 0 then (rspec (fld w 19 6)).bind fun r => if r.readable then some (K.ksave r) else none else none
  | 3 => if fld w 7 12 = 0 then (rspec (fld w 19 6)).bind fun r => if r.readable then some (K.krestore r) else none else none
  | _ => none

/-- Major 0x35 (Table 2.7). -/
def readPctl {β : Type} (K : Interp β) (w : Nat) : Option β :=
  match fld w 25 7 with
  | 0 => if fld w 19 6 = 0 then (rspec (fld w 7 6)).bind fun d => (rspec (fld w 13 6)).bind fun a => if d.writable && a.readable then some (K.pwait d a) else none else none
  | 1 => if fld w 7 18 = 0 then some K.pfence else none
  | 2 => if fld w 13 12 = 0 then (rspec (fld w 7 6)).bind fun d => if d.writable then some (K.pstat d) else none else none
  | _ => none

/-- Major 0x37 (Table 2.7). -/
def readBatch {β : Type} (K : Interp β) (w : Nat) : Option β :=
  match fld w 25 7 with
  | 0 => if fld w 13 12 = 0 then (rspec (fld w 7 6)).bind fun d => if d.inOut then some (K.bseal d) else none else none
  | 1 => if fld w 19 6 = 0 then (rspec (fld w 7 6)).bind fun d => (rspec (fld w 13 6)).bind fun a => if d.inOut && a.readable then some (K.bdrain d a) else none else none
  | 2 => if fld w 19 6 = 0 then (rspec (fld w 7 6)).bind fun d => (rspec (fld w 13 6)).bind fun a => if d.inOut && a.readable then some (K.cwptr d a) else none else none
  | _ => none

/-- Major 0x38 (Table 2.7). -/
def readCnt {β : Type} (K : Interp β) (w : Nat) : Option β :=
  match fld w 23 2 with
  | 0 => if fld w 25 7 = 0 then (rspec (fld w 7 6)).bind fun d => (rspec (fld w 13 6)).bind fun a => if d.inOut && a.readable then some (K.ctake d a (.ofNat 4 (fld w 19 4))) else none else none
  | 1 => if fld w 25 7 = 0 then (rspec (fld w 7 6)).bind fun d => (rspec (fld w 13 6)).bind fun a => if d.inOut && a.readable then some (K.cgive d a (.ofNat 4 (fld w 19 4))) else none else none
  | 2 => if fld w 25 7 = 0 then (rspec (fld w 7 6)).bind fun d => (rspec (fld w 13 6)).bind fun a => if d.inOut && a.readable then some (K.csum d a (.ofNat 4 (fld w 19 4))) else none else none
  | 3 => if fld w 25 7 = 0 then (rspec (fld w 7 6)).bind fun d => (rspec (fld w 13 6)).bind fun a => if d.inOut && a.readable then some (K.creset d a (.ofNat 4 (fld w 19 4))) else none else none
  | _ => none

/-- Major 0x39 (Table 2.7). -/
def readBar {β : Type} (K : Interp β) (w : Nat) : Option β :=
  match fld w 25 7 with
  | 0 => if fld w 19 6 = 0 then (rspec (fld w 7 6)).bind fun d => (rspec (fld w 13 6)).bind fun a => if d.inOut && a.readable then some (K.barv d a) else none else none
  | 1 => if fld w 7 6 = 0 then (rspec (fld w 13 6)).bind fun a => (rspec (fld w 19 6)).bind fun b => if a.readable && b.readable then some (K.barw a b) else none else none
  | 2 => if fld w 19 6 = 0 then (rspec (fld w 7 6)).bind fun d => (rspec (fld w 13 6)).bind fun a => if d.inOut && a.readable then some (K.barg d a) else none else none
  | 3 => if fld w 19 6 = 0 then (rspec (fld w 7 6)).bind fun d => (rspec (fld w 13 6)).bind fun a => if d.inOut && a.readable then some (K.barp d a) else none else none
  | _ => none

/-- Major 0x3A (Table 2.7). -/
def readMsg {β : Type} (K : Interp β) (w : Nat) : Option β :=
  match fld w 25 7 with
  | 0 => (rspec (fld w 7 6)).bind fun d => (rspec (fld w 13 6)).bind fun a => (rspec (fld w 19 6)).bind fun b => if d.isW && a.readable && b.readable then some (K.msend d a b) else none
  | 1 => if fld w 13 12 = 0 then (rspec (fld w 7 6)).bind fun d => if d.writable then some (K.mpoll d) else none else none
  | 2 => if fld w 13 6 = 0 then (rspec (fld w 7 6)).bind fun d => if d.writable && decide (fld w 19 6 < 4) then some (K.winrd d (.ofNat 6 (fld w 19 6))) else none else none
  | _ => none

/-- Major 0x3C (Table 2.7). -/
def readSys {β : Type} (K : Interp β) (w : Nat) : Option β :=
  match fld w 25 7 with
  | 0 => (rspec (fld w 7 6)).bind fun d => if d.writable && srdNumber (BitVec.ofNat 12 (fld w 13 12)) then some (K.srd d (.ofNat 12 (fld w 13 12))) else none
  | 1 => (rspec (fld w 7 6)).bind fun d => if d.readable && swrNumber (BitVec.ofNat 12 (fld w 13 12)) then some (K.swr d (.ofNat 12 (fld w 13 12))) else none
  | 2 => if fld w 19 6 = 0 then (rspec (fld w 7 6)).bind fun d => (rspec (fld w 13 6)).bind fun a => if d.writable && a.readable then some (K.crd d a) else none else none
  | 3 => if fld w 19 6 = 0 then (rspec (fld w 7 6)).bind fun d => (rspec (fld w 13 6)).bind fun a => if d.writable && a.readable then some (K.dacc d a) else none else none
  | 4 => if fld w 7 6 = 0 ∧ fld w 19 6 = 0 then (rspec (fld w 13 6)).bind fun a => if a.readable then some (K.trcm a) else none else none
  | 5 => if fld w 7 6 = 0 then (rspec (fld w 13 6)).bind fun a => (rspec (fld w 19 6)).bind fun b => if a.readable && b.readable then some (K.tlbinv a b) else none else none
  | 6 => if fld w 7 6 = 0 then (rspec (fld w 13 6)).bind fun a => (rspec (fld w 19 6)).bind fun b => if a.readable && b.readable then some (K.errinj a b) else none else none
  | _ => none

/-- A 32-bit encoding by its major opcode (R31, R46). Reserved majors read as nothing. -/
def readWord {β : Type} (K : Interp β) (w : Nat) : Option β :=
  match fld w 1 6 with
  | 0 => readAlu K w
  | 1 => readMulDiv K w
  | 2 => readBits K w
  | 3 => if fld w 31 1 = 0 then (rspec (fld w 7 6)).bind fun d => (rspec (fld w 13 6)).bind fun a => if d.writable && a.readable && decide (fld w 19 6 + fld w 25 6 + 1 ≤ 64) then some (K.extu d a (.ofNat 6 (fld w 19 6)) (.ofNat 6 (fld w 25 6))) else none else none
  | 4 => if fld w 31 1 = 0 then (rspec (fld w 7 6)).bind fun d => (rspec (fld w 13 6)).bind fun a => if d.writable && a.readable && decide (fld w 19 6 + fld w 25 6 + 1 ≤ 64) then some (K.exts d a (.ofNat 6 (fld w 19 6)) (.ofNat 6 (fld w 25 6))) else none else none
  | 5 => if fld w 31 1 = 0 then (rspec (fld w 7 6)).bind fun d => (rspec (fld w 13 6)).bind fun a => if d.inOut && a.readable && decide (fld w 19 6 + fld w 25 6 + 1 ≤ 64) then some (K.ins d a (.ofNat 6 (fld w 19 6)) (.ofNat 6 (fld w 25 6))) else none else none
  | 6 => (rspec (fld w 7 6)).bind fun d => (rspec (fld w 13 6)).bind fun a => if d.writable && a.readable then some (K.addi d a (.ofNat 13 (fld w 19 13))) else none
  | 7 => (rspec (fld w 7 6)).bind fun d => (rspec (fld w 13 6)).bind fun a => if d.writable && a.readable then some (K.andi d a (.ofNat 13 (fld w 19 13))) else none
  | 8 => (rspec (fld w 7 6)).bind fun d => (rspec (fld w 13 6)).bind fun a => if d.writable && a.readable then some (K.ori d a (.ofNat 13 (fld w 19 13))) else none
  | 9 => (rspec (fld w 7 6)).bind fun d => (rspec (fld w 13 6)).bind fun a => if d.writable && a.readable then some (K.xori d a (.ofNat 13 (fld w 19 13))) else none
  | 10 => (rspec (fld w 7 6)).bind fun d => (rspec (fld w 13 6)).bind fun a => if d.writable && a.readable then some (K.slti d a (.ofNat 13 (fld w 19 13))) else none
  | 11 => (rspec (fld w 7 6)).bind fun d => (rspec (fld w 13 6)).bind fun a => if d.writable && a.readable then some (K.sltui d a (.ofNat 13 (fld w 19 13))) else none
  | 12 => readShiftI K w
  | 13 => (rspec (fld w 7 6)).bind fun d => if d.writable then some (K.lih d (.ofNat 19 (fld w 13 19))) else none
  | 14 => (rspec (fld w 7 6)).bind fun d => if d.inOut then some (K.lix d (.ofNat 19 (fld w 13 19))) else none
  | 15 => (rspec (fld w 7 6)).bind fun d => if d.writable then some (K.addpc d (.ofNat 19 (fld w 13 19))) else none
  | 16 => readBr K w
  | 17 => some (K.j (.ofNat 25 (fld w 7 25)))
  | 18 => some (K.jal (.ofNat 25 (fld w 7 25)))
  | 19 => (rspec (fld w 7 6)).bind fun d => (rspec (fld w 13 6)).bind fun a => if d.writable && a.readable then some (K.jalr d a (.ofNat 13 (fld w 19 13))) else none
  | 20 => (rspec (fld w 7 6)).bind fun c => if c.inOut && decide (3 ≤ fld w 13 19) then some (K.loop c (.ofNat 19 (fld w 13 19))) else none
  | 21 => if fld w 23 9 = 0 then (rspec (fld w 7 6)).bind fun c => if c.inOut then some (K.rep (.ofNat 4 (fld w 13 4)) c (.ofNat 6 (fld w 17 6))) else none else none
  | 22 => readAct K w
  | 23 => readTraps K w
  | 24 => (rspec (fld w 7 6)).bind fun t => (rspec (fld w 13 6)).bind fun base => if t.writable && base.readable then some (K.ld t base (.ofNat 5 (fld w 27 5)) (.ofNat 2 (fld w 25 2)) (.ofNat 2 (fld w 23 2)) (.ofNat 4 (fld w 19 4))) else none
  | 25 => (rspec (fld w 7 6)).bind fun t => (rspec (fld w 13 6)).bind fun base => if t.writable && base.readable && decide (fld w 23 2 < 3) then some (K.ldu t base (.ofNat 5 (fld w 27 5)) (.ofNat 2 (fld w 25 2)) (.ofNat 2 (fld w 23 2)) (.ofNat 4 (fld w 19 4))) else none
  | 26 => if fld w 19 4 = 0 then (rspec (fld w 7 6)).bind fun t => (rspec (fld w 13 6)).bind fun base => if t.readable && base.readable then some (K.st t base (.ofNat 5 (fld w 27 5)) (.ofNat 2 (fld w 25 2)) (.ofNat 2 (fld w 23 2))) else none else none
  | 27 => readRow K w
  | 28 => readCache K w
  | 29 => (rspec (fld w 7 6)).bind fun t => (rspec (fld w 13 6)).bind fun base => if t.writable && base.readable then some (K.ldc t base (.ofNat 5 (fld w 27 5)) (.ofNat 2 (fld w 25 2)) (.ofNat 2 (fld w 23 2)) (.ofNat 4 (fld w 19 4))) else none
  | 30 => readLds K w
  | 31 => readStf K w
  | 32 => readAtom K w
  | 33 => if fld w 28 4 = 0 then (rspec (fld w 7 6)).bind fun d => (rspec (fld w 13 6)).bind fun a => if d.pair && a.readable && (fld w 19 4 == 0 || fld w 23 2 == 0 || fld w 23 2 == 2) then some (K.acas d a (.ofNat 1 (fld w 27 1)) (.ofNat 2 (fld w 25 2)) (.ofNat 2 (fld w 23 2)) (.ofNat 4 (fld w 19 4))) else none else none
  | 34 => readOrder K w
  | 40 => readVF K w
  | 41 => readVI K w
  | 42 => readVL K w
  | 43 => readVC K w
  | 44 => readVM K w
  | 45 => readVX K w
  | 46 => readVP K w
  | 48 => readKop K w
  | 49 => readTt K w
  | 50 => readTld K w
  | 51 => readKmem K w
  | 52 => if fld w 19 13 = 0 then (rspec (fld w 7 6)).bind fun first => (rspec (fld w 13 6)).bind fun sel => if first.group8 && sel.readable then some (K.pcmd first sel) else none else none
  | 53 => readPctl K w
  | 54 => if fld w 19 13 = 0 then (rspec (fld w 7 6)).bind fun first => (rspec (fld w 13 6)).bind fun sel => if first.group8 && sel.inOut then some (K.copy first sel) else none else none
  | 55 => readBatch K w
  | 56 => readCnt K w
  | 57 => readBar K w
  | 58 => readMsg K w
  | 60 => readSys K w
  | _ => none

/-- The instruction of a 16-bit encoding, when it is legal (R30, R48). -/
noncomputable def decodeHalf (w : Nat) : Option Instr := readCompact interpInstr w

/-- The instruction of a 32-bit encoding, when it is legal (R31 to R37, R48). -/
noncomputable def decodeWord (w : Nat) : Option Instr := readWord interpInstr w

/-- Why bytes are no instruction: too few of them, or an encoding that takes ILL (R48, R49). -/
inductive Reject where
  | truncated
  | illegal (encoding len : Nat)
  deriving DecidableEq, Repr

/-- Two bytes in the byte order of R3. -/
def half (b0 b1 : Byte) : Nat := b0.toNat + 256 * b1.toNat

/-- One instruction and the bytes after it (R29): bit 0 of the first halfword gives the length. -/
noncomputable def decode : List Byte → Except Reject (Instr × List Byte)
  | b0 :: b1 :: rest =>
    if half b0 b1 % 2 = 0 then
      match decodeHalf (half b0 b1) with
      | some i => .ok (i, rest)
      | none => .error (.illegal (half b0 b1) 2)
    else
      match rest with
      | b2 :: b3 :: rest' =>
        match decodeWord (half b0 b1 + 65536 * half b2 b3) with
        | some i => .ok (i, rest')
        | none => .error (.illegal (half b0 b1 + 65536 * half b2 b3) 4)
      | _ => .error .truncated
  | _ => .error .truncated

/-- The `k` bytes of `w`, least significant first (R3). -/
def bytesOf : Nat → Nat → List Byte
  | 0, _ => []
  | k + 1, w => .ofNat 8 w :: bytesOf k (w / 256)

/-- The instruction the decoder reads from a table row's bits: the words laid out as memory holds
them, every bit above `nbits` zero. -/
noncomputable def decodeTableWord (nbits w : Nat) : Option Instr :=
  match decode (bytesOf 4 (w % 2 ^ nbits)) with
  | .ok (i, _) => some i
  | .error _ => none

/-- The encoding of an instruction (Tables 2.1 and 2.3); 0 for a step without a word. -/
def encode : Instr → Nat
  | .add d a b => 0x1 + d.bits * 128 + a.bits * 8192 + b.bits * 524288
  | .sub d a b => 0x2000001 + d.bits * 128 + a.bits * 8192 + b.bits * 524288
  | .and d a b => 0x4000001 + d.bits * 128 + a.bits * 8192 + b.bits * 524288
  | .or d a b => 0x6000001 + d.bits * 128 + a.bits * 8192 + b.bits * 524288
  | .xor d a b => 0x8000001 + d.bits * 128 + a.bits * 8192 + b.bits * 524288
  | .andn d a b => 0xa000001 + d.bits * 128 + a.bits * 8192 + b.bits * 524288
  | .orn d a b => 0xc000001 + d.bits * 128 + a.bits * 8192 + b.bits * 524288
  | .xnor d a b => 0xe000001 + d.bits * 128 + a.bits * 8192 + b.bits * 524288
  | .shl d a b => 0x10000001 + d.bits * 128 + a.bits * 8192 + b.bits * 524288
  | .shr d a b => 0x12000001 + d.bits * 128 + a.bits * 8192 + b.bits * 524288
  | .sra d a b => 0x14000001 + d.bits * 128 + a.bits * 8192 + b.bits * 524288
  | .rol d a b => 0x16000001 + d.bits * 128 + a.bits * 8192 + b.bits * 524288
  | .ror d a b => 0x18000001 + d.bits * 128 + a.bits * 8192 + b.bits * 524288
  | .slt d a b => 0x1a000001 + d.bits * 128 + a.bits * 8192 + b.bits * 524288
  | .sltu d a b => 0x1c000001 + d.bits * 128 + a.bits * 8192 + b.bits * 524288
  | .seq d a b => 0x1e000001 + d.bits * 128 + a.bits * 8192 + b.bits * 524288
  | .sne d a b => 0x20000001 + d.bits * 128 + a.bits * 8192 + b.bits * 524288
  | .min d a b => 0x22000001 + d.bits * 128 + a.bits * 8192 + b.bits * 524288
  | .max d a b => 0x24000001 + d.bits * 128 + a.bits * 8192 + b.bits * 524288
  | .minu d a b => 0x26000001 + d.bits * 128 + a.bits * 8192 + b.bits * 524288
  | .maxu d a b => 0x28000001 + d.bits * 128 + a.bits * 8192 + b.bits * 524288
  | .shadd1 d a b => 0x2a000001 + d.bits * 128 + a.bits * 8192 + b.bits * 524288
  | .shadd2 d a b => 0x2c000001 + d.bits * 128 + a.bits * 8192 + b.bits * 524288
  | .shadd3 d a b => 0x2e000001 + d.bits * 128 + a.bits * 8192 + b.bits * 524288
  | .addw d a b => 0x30000001 + d.bits * 128 + a.bits * 8192 + b.bits * 524288
  | .subw d a b => 0x32000001 + d.bits * 128 + a.bits * 8192 + b.bits * 524288
  | .mul d a b l => 0x3 + d.bits * 128 + a.bits * 8192 + b.bits * 524288 + l.toNat * 33554432
  | .mulh d a b l => 0x20000003 + d.bits * 128 + a.bits * 8192 + b.bits * 524288 + l.toNat * 33554432
  | .mulhu d a b l => 0x40000003 + d.bits * 128 + a.bits * 8192 + b.bits * 524288 + l.toNat * 33554432
  | .mulhsu d a b l => 0x60000003 + d.bits * 128 + a.bits * 8192 + b.bits * 524288 + l.toNat * 33554432
  | .div d a b l => 0x80000003 + d.bits * 128 + a.bits * 8192 + b.bits * 524288 + l.toNat * 33554432
  | .divu d a b l => 0xa0000003 + d.bits * 128 + a.bits * 8192 + b.bits * 524288 + l.toNat * 33554432
  | .rem d a b l => 0xc0000003 + d.bits * 128 + a.bits * 8192 + b.bits * 524288 + l.toNat * 33554432
  | .remu d a b l => 0xe0000003 + d.bits * 128 + a.bits * 8192 + b.bits * 524288 + l.toNat * 33554432
  | .clz d a => 0x5 + d.bits * 128 + a.bits * 8192
  | .ctz d a => 0x2000005 + d.bits * 128 + a.bits * 8192
  | .popc d a => 0x4000005 + d.bits * 128 + a.bits * 8192
  | .brev d a => 0x6000005 + d.bits * 128 + a.bits * 8192
  | .bswap d a => 0x8000005 + d.bits * 128 + a.bits * 8192
  | .sextb d a => 0xa000005 + d.bits * 128 + a.bits * 8192
  | .sexth d a => 0xc000005 + d.bits * 128 + a.bits * 8192
  | .sextw d a => 0xe000005 + d.bits * 128 + a.bits * 8192
  | .extu d a pos len1 => 0x7 + d.bits * 128 + a.bits * 8192 + pos.toNat * 524288 + len1.toNat * 33554432
  | .exts d a pos len1 => 0x9 + d.bits * 128 + a.bits * 8192 + pos.toNat * 524288 + len1.toNat * 33554432
  | .ins d a pos len1 => 0xb + d.bits * 128 + a.bits * 8192 + pos.toNat * 524288 + len1.toNat * 33554432
  | .addi d a imm => 0xd + d.bits * 128 + a.bits * 8192 + imm.toNat * 524288
  | .andi d a imm => 0xf + d.bits * 128 + a.bits * 8192 + imm.toNat * 524288
  | .ori d a imm => 0x11 + d.bits * 128 + a.bits * 8192 + imm.toNat * 524288
  | .xori d a imm => 0x13 + d.bits * 128 + a.bits * 8192 + imm.toNat * 524288
  | .slti d a imm => 0x15 + d.bits * 128 + a.bits * 8192 + imm.toNat * 524288
  | .sltui d a imm => 0x17 + d.bits * 128 + a.bits * 8192 + imm.toNat * 524288
  | .shli d a sh => 0x19 + d.bits * 128 + a.bits * 8192 + sh.toNat * 524288
  | .shri d a sh => 0x40000019 + d.bits * 128 + a.bits * 8192 + sh.toNat * 524288
  | .srai d a sh => 0x80000019 + d.bits * 128 + a.bits * 8192 + sh.toNat * 524288
  | .rori d a sh => 0xc0000019 + d.bits * 128 + a.bits * 8192 + sh.toNat * 524288
  | .lih d imm => 0x1b + d.bits * 128 + imm.toNat * 8192
  | .lix d imm => 0x1d + d.bits * 128 + imm.toNat * 8192
  | .addpc d imm => 0x1f + d.bits * 128 + imm.toNat * 8192
  | .beq a b off => 0x21 + a.bits * 1024 + b.bits * 65536 + off.toNat * 4194304
  | .bne a b off => 0xa1 + a.bits * 1024 + b.bits * 65536 + off.toNat * 4194304
  | .blt a b off => 0x121 + a.bits * 1024 + b.bits * 65536 + off.toNat * 4194304
  | .bge a b off => 0x1a1 + a.bits * 1024 + b.bits * 65536 + off.toNat * 4194304
  | .bltu a b off => 0x221 + a.bits * 1024 + b.bits * 65536 + off.toNat * 4194304
  | .bgeu a b off => 0x2a1 + a.bits * 1024 + b.bits * 65536 + off.toNat * 4194304
  | .bbs a bit off => 0x321 + a.bits * 1024 + bit.toNat * 65536 + off.toNat * 4194304
  | .bbc a bit off => 0x3a1 + a.bits * 1024 + bit.toNat * 65536 + off.toNat * 4194304
  | .j off => 0x23 + off.toNat * 128
  | .jal off => 0x25 + off.toNat * 128
  | .jalr d a imm => 0x27 + d.bits * 128 + a.bits * 8192 + imm.toNat * 524288
  | .loop c fin => 0x29 + c.bits * 128 + fin.toNat * 8192
  | .rep n1 c vs => 0x2b + c.bits * 128 + n1.toNat * 8192 + vs.toNat * 131072
  | .repBodyIssue => 0
  | .endAct => 0x2d
  | .endAbort => 0x8002d
  | .callat d a b => 0x200002d + d.bits * 128 + a.bits * 8192 + b.bits * 524288
  | .reply a => 0x400002d + a.bits * 8192
  | .spawn d a => 0x600002d + d.bits * 128 + a.bits * 8192
  | .spawnH d a => 0x608002d + d.bits * 128 + a.bits * 8192
  | .wclaim d a => 0x800002d + d.bits * 128 + a.bits * 8192
  | .wrel a => 0xa00002d + a.bits * 8192
  | .apop d => 0xc00002d + d.bits * 128
  | .apush a => 0xe00002d + a.bits * 8192
  | .nop => 0x2f
  | .trap a => 0x200002f + a.bits * 8192
  | .brk => 0x400002f
  | .rte => 0x600002f
  | .idle => 0x800002f
  | .ld t base off hint size l => 0x31 + t.bits * 128 + base.bits * 8192 + l.toNat * 524288 + size.toNat * 8388608 + hint.toNat * 33554432 + off.toNat * 134217728
  | .ldu t base off hint size l => 0x33 + t.bits * 128 + base.bits * 8192 + l.toNat * 524288 + size.toNat * 8388608 + hint.toNat * 33554432 + off.toNat * 134217728
  | .st t base off hint size => 0x35 + t.bits * 128 + base.bits * 8192 + size.toNat * 8388608 + hint.toNat * 33554432 + off.toNat * 134217728
  | .ldv vt base off hint l => 0x37 + vt.toNat * 128 + base.bits * 8192 + l.toNat * 524288 + hint.toNat * 33554432 + off.toNat * 134217728
  | .stv vt base off hint => 0x800037 + vt.toNat * 128 + base.bits * 8192 + hint.toNat * 33554432 + off.toNat * 134217728
  | .zfill base off hint => 0x1000037 + base.bits * 8192 + hint.toNat * 33554432 + off.toNat * 134217728
  | .pref base off hint => 0x1800037 + base.bits * 8192 + hint.toNat * 33554432 + off.toNat * 134217728
  | .l1inv => 0x39
  | .icinv a scope => 0x2000039 + a.bits * 8192 + scope.toNat * 524288
  | .bankmode a b => 0x4000039 + a.bits * 8192 + b.bits * 524288
  | .bankq d => 0x6000039 + d.bits * 128
  | .ldc t base off hint size l => 0x3b + t.bits * 128 + base.bits * 8192 + l.toNat * 524288 + size.toNat * 8388608 + hint.toNat * 33554432 + off.toNat * 134217728
  | .lds t base off l => 0x180003d + t.bits * 128 + base.bits * 8192 + l.toNat * 524288 + off.toNat * 134217728
  | .ldsE t base off l => 0x380003d + t.bits * 128 + base.bits * 8192 + l.toNat * 524288 + off.toNat * 134217728
  | .stf t base off hint => 0x180003f + t.bits * 128 + base.bits * 8192 + hint.toNat * 33554432 + off.toNat * 134217728
  | .aadd d a size scope ord l => 0x41 + d.bits * 128 + a.bits * 8192 + l.toNat * 524288 + ord.toNat * 134217728 + scope.toNat * 536870912 + size.toNat * 2147483648
  | .aand d a size scope ord l => 0x800041 + d.bits * 128 + a.bits * 8192 + l.toNat * 524288 + ord.toNat * 134217728 + scope.toNat * 536870912 + size.toNat * 2147483648
  | .aor d a size scope ord l => 0x1000041 + d.bits * 128 + a.bits * 8192 + l.toNat * 524288 + ord.toNat * 134217728 + scope.toNat * 536870912 + size.toNat * 2147483648
  | .axor d a size scope ord l => 0x1800041 + d.bits * 128 + a.bits * 8192 + l.toNat * 524288 + ord.toNat * 134217728 + scope.toNat * 536870912 + size.toNat * 2147483648
  | .amin d a size scope ord l => 0x2000041 + d.bits * 128 + a.bits * 8192 + l.toNat * 524288 + ord.toNat * 134217728 + scope.toNat * 536870912 + size.toNat * 2147483648
  | .amax d a size scope ord l => 0x2800041 + d.bits * 128 + a.bits * 8192 + l.toNat * 524288 + ord.toNat * 134217728 + scope.toNat * 536870912 + size.toNat * 2147483648
  | .aminu d a size scope ord l => 0x3000041 + d.bits * 128 + a.bits * 8192 + l.toNat * 524288 + ord.toNat * 134217728 + scope.toNat * 536870912 + size.toNat * 2147483648
  | .amaxu d a size scope ord l => 0x3800041 + d.bits * 128 + a.bits * 8192 + l.toNat * 524288 + ord.toNat * 134217728 + scope.toNat * 536870912 + size.toNat * 2147483648
  | .axchg d a size scope ord l => 0x4000041 + d.bits * 128 + a.bits * 8192 + l.toNat * 524288 + ord.toNat * 134217728 + scope.toNat * 536870912 + size.toNat * 2147483648
  | .afadd d a size scope ord l => 0x4800041 + d.bits * 128 + a.bits * 8192 + l.toNat * 524288 + ord.toNat * 134217728 + scope.toNat * 536870912 + size.toNat * 2147483648
  | .afmin d a size scope ord l => 0x5000041 + d.bits * 128 + a.bits * 8192 + l.toNat * 524288 + ord.toNat * 134217728 + scope.toNat * 536870912 + size.toNat * 2147483648
  | .afmax d a size scope ord l => 0x5800041 + d.bits * 128 + a.bits * 8192 + l.toNat * 524288 + ord.toNat * 134217728 + scope.toNat * 536870912 + size.toNat * 2147483648
  | .ald d a size scope ord l => 0x6000041 + d.bits * 128 + a.bits * 8192 + l.toNat * 524288 + ord.toNat * 134217728 + scope.toNat * 536870912 + size.toNat * 2147483648
  | .ast d a size scope ord => 0x6800041 + d.bits * 128 + a.bits * 8192 + ord.toNat * 134217728 + scope.toNat * 536870912 + size.toNat * 2147483648
  | .acas d a size scope ord l => 0x43 + d.bits * 128 + a.bits * 8192 + l.toNat * 524288 + ord.toNat * 8388608 + scope.toNat * 33554432 + size.toNat * 134217728
  | .phase d => 0x45 + d.bits * 128
  | .rel scope => 0x2000045 + scope.toNat * 524288
  | .acq => 0x4000045
  | .fence => 0x6000045
  | .clrt d => 0x8000045 + d.bits * 128
  | .phasen d => 0xa000045 + d.bits * 128
  | .vaddF d a b => 0x51 + d.bits * 128 + a.bits * 16384 + b.bits * 2097152
  | .vsubF d a b => 0x10000051 + d.bits * 128 + a.bits * 16384 + b.bits * 2097152
  | .vmulF d a b => 0x20000051 + d.bits * 128 + a.bits * 16384 + b.bits * 2097152
  | .vfma d a b => 0x30000051 + d.bits * 128 + a.bits * 16384 + b.bits * 2097152
  | .vfms d a b => 0x40000051 + d.bits * 128 + a.bits * 16384 + b.bits * 2097152
  | .vmaxF d a b => 0x50000051 + d.bits * 128 + a.bits * 16384 + b.bits * 2097152
  | .vminF d a b => 0x60000051 + d.bits * 128 + a.bits * 16384 + b.bits * 2097152
  | .vnegF d a => 0x70000051 + d.bits * 128 + a.bits * 16384
  | .vabsF d a => 0x80000051 + d.bits * 128 + a.bits * 16384
  | .vrcp d a => 0x90000051 + d.bits * 128 + a.bits * 16384
  | .vrsq d a => 0xa0000051 + d.bits * 128 + a.bits * 16384
  | .vrcps d a b => 0xb0000051 + d.bits * 128 + a.bits * 16384 + b.bits * 2097152
  | .vrsqs d a b => 0xc0000051 + d.bits * 128 + a.bits * 16384 + b.bits * 2097152
  | .vexp2 d a => 0xd0000051 + d.bits * 128 + a.bits * 16384
  | .vlog2 d a => 0xe0000051 + d.bits * 128 + a.bits * 16384
  | .vclamp d a b => 0xf0000051 + d.bits * 128 + a.bits * 16384 + b.bits * 2097152
  | .vaddI d a b => 0x53 + d.bits * 128 + a.bits * 16384 + b.bits * 2097152
  | .vsubI d a b => 0x10000053 + d.bits * 128 + a.bits * 16384 + b.bits * 2097152
  | .vmulI d a b => 0x20000053 + d.bits * 128 + a.bits * 16384 + b.bits * 2097152
  | .vmulh d a b => 0x30000053 + d.bits * 128 + a.bits * 16384 + b.bits * 2097152
  | .vmad d a b => 0x40000053 + d.bits * 128 + a.bits * 16384 + b.bits * 2097152
  | .vmaxI d a b => 0x50000053 + d.bits * 128 + a.bits * 16384 + b.bits * 2097152
  | .vminI d a b => 0x60000053 + d.bits * 128 + a.bits * 16384 + b.bits * 2097152
  | .vabsI d a => 0x70000053 + d.bits * 128 + a.bits * 16384
  | .vshl d a b => 0x80000053 + d.bits * 128 + a.bits * 16384 + b.bits * 2097152
  | .vshr d a b => 0x90000053 + d.bits * 128 + a.bits * 16384 + b.bits * 2097152
  | .vsra d a b => 0xa0000053 + d.bits * 128 + a.bits * 16384 + b.bits * 2097152
  | .vadds d a b => 0xb0000053 + d.bits * 128 + a.bits * 16384 + b.bits * 2097152
  | .vsubs d a b => 0xc0000053 + d.bits * 128 + a.bits * 16384 + b.bits * 2097152
  | .vmaxu d a b => 0xd0000053 + d.bits * 128 + a.bits * 16384 + b.bits * 2097152
  | .vminu d a b => 0xe0000053 + d.bits * 128 + a.bits * 16384 + b.bits * 2097152
  | .vnegI d a => 0xf0000053 + d.bits * 128 + a.bits * 16384
  | .vand d a b => 0x55 + d.bits * 128 + a.bits * 16384 + b.bits * 2097152
  | .vor d a b => 0x10000055 + d.bits * 128 + a.bits * 16384 + b.bits * 2097152
  | .vxor d a b => 0x20000055 + d.bits * 128 + a.bits * 16384 + b.bits * 2097152
  | .vandn d a b => 0x30000055 + d.bits * 128 + a.bits * 16384 + b.bits * 2097152
  | .vnot d a => 0x40000055 + d.bits * 128 + a.bits * 16384
  | .vmov d a => 0x50000055 + d.bits * 128 + a.bits * 16384
  | .vsel d a b => 0x60000055 + d.bits * 128 + a.bits * 16384 + b.bits * 2097152
  | .vpopc d a => 0x70000055 + d.bits * 128 + a.bits * 16384
  | .vclz d a => 0x80000055 + d.bits * 128 + a.bits * 16384
  | .vceqF d a b => 0x57 + d.bits * 128 + a.bits * 16384 + b.bits * 2097152
  | .vcneF d a b => 0x10000057 + d.bits * 128 + a.bits * 16384 + b.bits * 2097152
  | .vcltF d a b => 0x20000057 + d.bits * 128 + a.bits * 16384 + b.bits * 2097152
  | .vcleF d a b => 0x30000057 + d.bits * 128 + a.bits * 16384 + b.bits * 2097152
  | .vcunF d a b => 0x40000057 + d.bits * 128 + a.bits * 16384 + b.bits * 2097152
  | .vceqI d a b => 0x80000057 + d.bits * 128 + a.bits * 16384 + b.bits * 2097152
  | .vcneI d a b => 0x90000057 + d.bits * 128 + a.bits * 16384 + b.bits * 2097152
  | .vcltI d a b => 0xa0000057 + d.bits * 128 + a.bits * 16384 + b.bits * 2097152
  | .vcleI d a b => 0xb0000057 + d.bits * 128 + a.bits * 16384 + b.bits * 2097152
  | .vcltu d a b => 0xc0000057 + d.bits * 128 + a.bits * 16384 + b.bits * 2097152
  | .vcleu d a b => 0xd0000057 + d.bits * 128 + a.bits * 16384 + b.bits * 2097152
  | .mand d a b => 0x59 + d.bits * 128 + a.bits * 16384 + b.bits * 2097152
  | .mor d a b => 0x10000059 + d.bits * 128 + a.bits * 16384 + b.bits * 2097152
  | .mxor d a b => 0x20000059 + d.bits * 128 + a.bits * 16384 + b.bits * 2097152
  | .mnot d a => 0x30000059 + d.bits * 128 + a.bits * 16384
  | .mandn d a b => 0x40000059 + d.bits * 128 + a.bits * 16384 + b.bits * 2097152
  | .msel a => 0x50000059 + a.bits * 16384
  | .mpopc d a => 0x60000059 + d.bits * 128 + a.bits * 16384
  | .mfirst d a => 0x70000059 + d.bits * 128 + a.bits * 16384
  | .vcvtF32F16 d a p => 0x5b + d.bits * 128 + a.bits * 16384 + p.toNat * 2097152
  | .vcvtF16F32 d a p => 0x1000005b + d.bits * 128 + a.bits * 16384 + p.toNat * 2097152
  | .vcvtF32Bf16 d a p => 0x2000005b + d.bits * 128 + a.bits * 16384 + p.toNat * 2097152
  | .vcvtBf16F32 d a p => 0x3000005b + d.bits * 128 + a.bits * 16384 + p.toNat * 2097152
  | .vcvtF32E4m3 d a p => 0x4000005b + d.bits * 128 + a.bits * 16384 + p.toNat * 2097152
  | .vcvtE4m3F32 d a p => 0x5000005b + d.bits * 128 + a.bits * 16384 + p.toNat * 2097152
  | .vcvtF32E5m2 d a p => 0x6000005b + d.bits * 128 + a.bits * 16384 + p.toNat * 2097152
  | .vcvtE5m2F32 d a p => 0x7000005b + d.bits * 128 + a.bits * 16384 + p.toNat * 2097152
  | .vcvtI32F32 d a => 0x8000005b + d.bits * 128 + a.bits * 16384
  | .vcvtF32I32 d a => 0x9000005b + d.bits * 128 + a.bits * 16384
  | .vcvtI16I32 d a p => 0xa000005b + d.bits * 128 + a.bits * 16384 + p.toNat * 2097152
  | .vcvtI32I16 d a p => 0xb000005b + d.bits * 128 + a.bits * 16384 + p.toNat * 2097152
  | .vcvtF32Cb4 d a p => 0xc000005b + d.bits * 128 + a.bits * 16384 + p.toNat * 2097152
  | .vcvtCb4F32 d a p => 0xd000005b + d.bits * 128 + a.bits * 16384 + p.toNat * 2097152
  | .vcvtI8I32 d a p => 0xe000005b + d.bits * 128 + a.bits * 16384 + p.toNat * 2097152
  | .vcvtI32I8 d a p => 0xf000005b + d.bits * 128 + a.bits * 16384 + p.toNat * 2097152
  | .vbcast d a b => 0x5d + d.bits * 128 + a.bits * 16384 + b.bits * 2097152
  | .vextr d a b => 0x1000005d + d.bits * 128 + a.bits * 16384 + b.bits * 2097152
  | .vins d a b => 0x2000005d + d.bits * 128 + a.bits * 16384 + b.bits * 2097152
  | .vrot d a b => 0x3000005d + d.bits * 128 + a.bits * 16384 + b.bits * 2097152
  | .vshuf d a b => 0x4000005d + d.bits * 128 + a.bits * 16384 + b.bits * 2097152
  | .vscan d a k => 0x5000005d + d.bits * 128 + a.bits * 16384 + k.toNat * 2097152
  | .vredadd d a k => 0x6000005d + d.bits * 128 + a.bits * 16384 + k.toNat * 2097152
  | .vredmax d a k => 0x7000005d + d.bits * 128 + a.bits * 16384 + k.toNat * 2097152
  | .vredmin d a k => 0x8000005d + d.bits * 128 + a.bits * 16384 + k.toNat * 2097152
  | .viota d => 0x9000005d + d.bits * 128
  | .vzip d a b => 0xa000005d + d.bits * 128 + a.bits * 16384 + b.bits * 2097152
  | .vunzip d a b => 0xb000005d + d.bits * 128 + a.bits * 16384 + b.bits * 2097152
  | .vaddFCompact d a => 0x0 + d.toNat * 32 + a.compactBits * 2048
  | .vsubFCompact d a => 0x2 + d.toNat * 32 + a.compactBits * 2048
  | .vmulFCompact d a => 0x4 + d.toNat * 32 + a.compactBits * 2048
  | .vmaxFCompact d a => 0x6 + d.toNat * 32 + a.compactBits * 2048
  | .vminFCompact d a => 0x8 + d.toNat * 32 + a.compactBits * 2048
  | .vaddICompact d a => 0xa + d.toNat * 32 + a.compactBits * 2048
  | .vsubICompact d a => 0xc + d.toNat * 32 + a.compactBits * 2048
  | .vmaxICompact d a => 0xe + d.toNat * 32 + a.compactBits * 2048
  | .vminICompact d a => 0x10 + d.toNat * 32 + a.compactBits * 2048
  | .vandCompact d a => 0x12 + d.toNat * 32 + a.compactBits * 2048
  | .vorCompact d a => 0x14 + d.toNat * 32 + a.compactBits * 2048
  | .vxorCompact d a => 0x16 + d.toNat * 32 + a.compactBits * 2048
  | .vmovCompact d a => 0x18 + d.toNat * 32 + a.compactBits * 2048
  | .vnegFCompact d a => 0x1a + d.toNat * 32 + a.compactBits * 2048
  | .vabsFCompact d a => 0x1c + d.toNat * 32 + a.compactBits * 2048
  | .vshlICompact d a => 0x1e + d.toNat * 32 + a.compactBits * 2048
  | .kadd kd ka kb => 0x61 + kd.toNat * 128 + ka.toNat * 2048 + kb.toNat * 32768
  | .ksub kd ka kb => 0x2000061 + kd.toNat * 128 + ka.toNat * 2048 + kb.toNat * 32768
  | .kmax kd ka kb => 0x4000061 + kd.toNat * 128 + ka.toNat * 2048 + kb.toNat * 32768
  | .kmin kd ka kb => 0x6000061 + kd.toNat * 128 + ka.toNat * 2048 + kb.toNat * 32768
  | .kmov kd ka => 0x8000061 + kd.toNat * 128 + ka.toNat * 2048
  | .kset kd r => 0xa000061 + kd.toNat * 128 + r.bits * 524288
  | .kfromv kd vr => 0xc000061 + kd.toNat * 128 + vr.toNat * 524288
  | .ktov vr ka => 0xe000061 + ka.toNat * 2048 + vr.toNat * 524288
  | .kbind kd tag r => 0x10000061 + kd.toNat * 128 + tag.toNat * 32768 + r.bits * 524288
  | .kunbind tag => 0x12000061 + tag.toNat * 32768
  | .kgen r ka => 0x14000061 + ka.toNat * 2048 + r.bits * 524288
  | .ttset a b => 0x63 + a.bits * 8192 + b.bits * 524288
  | .ttget d a => 0x2000063 + d.bits * 128 + a.bits * 8192
  | .ttinv a => 0x4000063 + a.bits * 8192
  | .tcb a b => 0x6000063 + a.bits * 8192 + b.bits * 524288
  | .tld kd tag a b l => 0x65 + a.bits * 128 + b.bits * 8192 + l.toNat * 524288 + kd.toNat * 8388608 + tag.toNat * 134217728
  | .tst kd a b => 0x80000065 + a.bits * 128 + b.bits * 8192 + kd.toNat * 8388608
  | .kld kd r => 0x67 + kd.toNat * 128 + r.bits * 524288
  | .kst ka r => 0x2000067 + ka.toNat * 2048 + r.bits * 524288
  | .ksave r => 0x4000067 + r.bits * 524288
  | .krestore r => 0x6000067 + r.bits * 524288
  | .pcmd first sel => 0x69 + first.bits * 128 + sel.bits * 8192
  | .pwait d a => 0x6b + d.bits * 128 + a.bits * 8192
  | .pfence => 0x200006b
  | .pstat d => 0x400006b + d.bits * 128
  | .copy first sel => 0x6d + first.bits * 128 + sel.bits * 8192
  | .bseal d => 0x6f + d.bits * 128
  | .bdrain d a => 0x200006f + d.bits * 128 + a.bits * 8192
  | .cwptr d a => 0x400006f + d.bits * 128 + a.bits * 8192
  | .ctake d a l => 0x71 + d.bits * 128 + a.bits * 8192 + l.toNat * 524288
  | .cgive d a l => 0x800071 + d.bits * 128 + a.bits * 8192 + l.toNat * 524288
  | .csum d a l => 0x1000071 + d.bits * 128 + a.bits * 8192 + l.toNat * 524288
  | .creset d a l => 0x1800071 + d.bits * 128 + a.bits * 8192 + l.toNat * 524288
  | .barv d a => 0x73 + d.bits * 128 + a.bits * 8192
  | .barw a b => 0x2000073 + a.bits * 8192 + b.bits * 524288
  | .barg d a => 0x4000073 + d.bits * 128 + a.bits * 8192
  | .barp d a => 0x6000073 + d.bits * 128 + a.bits * 8192
  | .msend d a b => 0x75 + d.bits * 128 + a.bits * 8192 + b.bits * 524288
  | .mpoll d => 0x2000075 + d.bits * 128
  | .winrd d ch => 0x4000075 + d.bits * 128 + ch.toNat * 524288
  | .srd d num => 0x79 + d.bits * 128 + num.toNat * 8192
  | .swr d num => 0x2000079 + d.bits * 128 + num.toNat * 8192
  | .crd d a => 0x4000079 + d.bits * 128 + a.bits * 8192
  | .dacc d a => 0x6000079 + d.bits * 128 + a.bits * 8192
  | .trcm a => 0x8000079 + a.bits * 8192
  | .tlbinv a b => 0xa000079 + a.bits * 8192 + b.bits * 524288
  | .errinj a b => 0xc000079 + a.bits * 8192 + b.bits * 524288
  | .retry => 0
  | .skip => 0
  | .flush => 0
  | .ovClear => 0
  | .loadw _ _ _ _ _ _ => 0
  | .flip => 0
  | .stream _ _ _ _ _ _ _ _ => 0
  | .streamt _ _ _ _ _ _ _ _ => 0
  | .tload _ _ _ _ _ => 0
  | .tloadt _ _ _ _ _ => 0
  | .tdrain _ _ _ _ _ _ _ => 0
  | .tzero _ _ => 0
  | .pmode _ _ => 0
  | .ptable _ _ => 0
  | .pmark _ => 0
  | .psave _ => 0
  | .prestore _ => 0
  | .pressFault => 0
  | .pressRetire _ => 0
  | .rampWindow _ => 0
  | .powerReport _ => 0
  | .messageArrival _ _ => 0
  | .activationStart => 0
  | .activationResume => 0
  | .actorFiring _ => 0
  | .tokenWrite _ => 0
  | .replyWrite _ => 0
  | .channelDwordArrival _ => 0
  | .channelCredit _ => 0
  | .loadResponse _ _ => 0
  | .storeAck _ _ => 0
  | .phasedStoreInstall _ _ => 0
  | .sliceRead _ => 0
  | .forcing _ => 0
  | .atomicExecute _ => 0
  | .balancerArrival _ => 0
  | .exitCounterAct _ => 0
  | .csumArrival _ => 0
  | .cresetClosure _ => 0
  | .cresetReopen _ _ => 0
  | .cellError _ _ => 0
  | .barrierExit _ => 0
  | .barrierComplete _ _ => 0
  | .copyRowWrite _ _ => 0
  | .copyRowArrival _ => 0
  | .copyEnd _ _ => 0
  | .packetConsume _ _ => 0
  | .nopPacket _ _ => 0
  | .launch _ _ => 0
  | .copyPacket _ _ => 0
  | .signalStore _ _ => 0
  | .signalAdd _ _ => 0
  | .signalStoreFull _ _ => 0
  | .wait _ _ => 0
  | .waitRetest _ _ => 0
  | .kernelEligibilityTest _ _ => 0
  | .ageTick _ _ => 0
  | .cohortPlace _ => 0
  | .cohortStart _ _ _ => 0
  | .cohortEnd _ _ _ => 0
  | .kernelComplete _ _ => 0
  | .trapDelivery _ _ => 0
  | .redelivery => 0
  | .coreErr _ => 0
  | .tailcntWrite _ => 0
  | .corePreemptStop _ => 0
  | .corePreemptAck _ => 0
  | .copyOut _ => 0
  | .checkRunStart _ => 0
  | .checkTimeout _ => 0
  | .checkVerdict _ => 0
  | .tiebreakStart _ => 0
  | .patrolRead _ _ => 0
  | .pageWalk _ _ => 0
  | .takeWindowRead _ _ _ _ => 0
  | .takeWindowWrite _ _ _ => 0
  | .takeReadTimeout _ => 0
  | .hostActiveMessage _ _ _ => 0
  | .hostPostedWrite _ _ _ _ => 0
  | .unsupportedRequest _ _ => 0
  | .counterLowRead _ _ => 0
  | .peerAccess _ _ => 0
  | .flitReplay _ _ => 0
  | .laneTrained _ _ => 0
  | .trainingTimeout _ => 0
  | .laneFailure _ => 0
  | .ethernetFrame _ _ _ => 0
  | .routerDrop _ _ => 0
  | .create _ => 0
  | .destroy _ _ => 0
  | .preempt _ _ => 0
  | .restore _ _ => 0
  | .qcreate _ _ => 0
  | .qdestroy _ _ _ => 0
  | .qreset _ _ _ => 0
  | .stop _ => 0
  | .coreStopped _ => 0
  | .resume _ => 0
  | .corerwRead _ => 0
  | .corerwWrite _ => 0
  | .setparam _ _ _ _ => 0
  | .watch _ => 0
  | .qrelease _ => 0
  | .route _ => 0
  | .dmawin _ => 0
  | .allot => 0
  | .rect => 0
  | .portctlDisable _ => 0
  | .portctlEnable _ => 0
  | .portctlQuarantine _ => 0
  | .portctlRelease _ => 0
  | .mgmtRegisterWrite _ _ _ => 0
  | .deviceReset => 0
  | .bootStage _ => 0
  | .measurementExtend _ _ => 0
  | .recoveryImage _ => 0
  | .attestationRequest _ _ _ _ => 0
  | .keyDelivery _ _ _ => 0
  | .thermalTrip _ => 0
  | .directWriteArrival _ _ => 0
  | .fillerOperationEnd _ => 0
  | .qslotSectionLoad _ _ _ => 0
  | .cmdWriteRejected _ _ => 0

/-- The bytes of an instruction in memory (R3). -/
def encodeBytes (i : Instr) : List Byte := bytesOf i.len (encode i)

/-- The fields of Tables 9.6 and 9.7 that a command may use, as a mask of dwords 0 to 2 (Table 9.8).
TAG counts only with TV, TAGH only in a narrow LOADW with TV (R220). -/
def pressUsed (op : Nat) (tv narrow : Bool) : Option (Nat × Nat × Nat) :=
  let tag := if tv then 0xF000 else 0
  let tagh := if tv && narrow then 0xF0000 else 0
  let addr := 0x1FFFF
  let addrStride := 0xFFFF0001FFFF
  let rows := 0x7FFC00000
  match op with
  | 0x01 => some (0x100FFF ||| tag ||| tagh, addrStride, 0)
  | 0x02 => some (0xFF, 0, 0)
  | 0x03 => some (0x300FFF ||| rows ||| tag, addrStride, 0)
  | 0x04 => some (0x300FFF ||| rows ||| tag, addrStride, 0)
  | 0x05 => some (0xFFF ||| rows, addrStride, 0)
  | 0x06 => some (0xFFF ||| rows, addrStride, 0)
  | 0x07 => some (0x200FFF ||| rows, addrStride, addr)
  | 0x08 => some (0xFF ||| rows, 0, 0)
  | 0x09 => some (0x3FF, 0, 0)
  | 0x0A => some (0xFF, addr, addr)
  | 0x0B => some (0xFF, 0xFFFF, 0)
  | 0x0C => some (0xFF, addr, 0)
  | 0x0D => some (0xFF, addr, 0)
  | _ => none

/-- A press command from the eight dwords of its slot (R47, R220): the command, or the stop code
of Table 9.4, 1 for an unknown byte 0 and 2 for a reserved or unused field that is not zero. -/
def decodePress (narrow : Bool) (d : List Word) : Except Nat PressCmd :=
  let d0 := (d.getD 0 0).toNat
  let d1 := (d.getD 1 0).toNat
  let d2 := (d.getD 2 0).toNat
  let op := fld d0 0 8
  let tv := decide (fld d0 20 1 = 1)
  match pressUsed op tv narrow with
  | none => .error 1
  | some (m0, m1, m2) =>
    if (d0 &&& m0) ≠ d0 ∨ (d1 &&& m1) ≠ d1 ∨ (d2 &&& m2) ≠ d2 ∨ (d.drop 3).any (· ≠ 0) then .error 2
    else
      let fmt := BitVec.ofNat 4 (fld d0 8 4)
      let tag := BitVec.ofNat 4 (fld d0 12 4)
      let tagh := BitVec.ofNat 4 (fld d0 16 4)
      let acc := decide (fld d0 21 1 = 1)
      let row0 := BitVec.ofNat 6 (fld d0 22 6)
      let m := BitVec.ofNat 7 (fld d0 28 7)
      let addr := BitVec.ofNat 17 (fld d1 0 17)
      let stride := BitVec.ofNat 16 (fld d1 32 16)
      let addr2 := BitVec.ofNat 17 (fld d2 0 17)
      match op with
      | 0x01 => .ok (.loadw fmt tag tagh tv addr stride)
      | 0x02 => .ok .flip
      | 0x03 => .ok (.stream fmt tag tv acc row0 m addr stride)
      | 0x04 => .ok (.streamt fmt tag tv acc row0 m addr stride)
      | 0x05 => .ok (.tload fmt row0 m addr stride)
      | 0x06 => .ok (.tloadt fmt row0 m addr stride)
      | 0x07 => .ok (.tdrain fmt acc row0 m addr stride addr2)
      | 0x08 => .ok (.tzero row0 m)
      | 0x09 => .ok (.pmode (decide (fld d0 8 1 = 1)) (decide (fld d0 9 1 = 1)))
      | 0x0A => .ok (.ptable addr addr2)
      | 0x0B => .ok (.pmark (.ofNat 16 (fld d1 0 16)))
      | 0x0C => .ok (.psave addr)
      | _ => .ok (.prestore addr)

end Sys2Proof
end

