-- ==== Sys2Proof/Machine/Flags.lean ====
section
/-! DEFINITION. What a result carries beside its bits: taint (R72) and poison (R70, R72); and the
results of the scalar members (Tables 4.1 to 4.7). -/

namespace Sys2Proof.Machine

/-- A value with neither taint nor poison: an immediate, a PC value, `z` (R72). -/
def Val.clean (x : Word) : Val := { bits := x, taint := false, poison := false }

/-- The result of one source: its taint and poison go on (R72). -/
def Val.map (f : Word → Word) (a : Val) : Val := { bits := f a.bits, taint := a.taint, poison := a.poison }

/-- The result of two sources: the OR of their taint and of their poison (R72). -/
def Val.map2 (f : Word → Word → Word) (a b : Val) : Val :=
  { bits := f a.bits b.bits, taint := a.taint || b.taint, poison := a.poison || b.poison }

/-- A value as a message, token or channel carries it. -/
def Val.strip (v : Val) : PWord := { bits := v.bits, poison := v.poison }

/-- 1 when a relation holds, 0 when it does not. -/
def flag (b : Bool) : Word := if b then 1 else 0

/-! ## ALU (Table 4.1) -/

def aluAndn (x y : Word) : Word := x &&& ~~~y
def aluOrn (x y : Word) : Word := x ||| ~~~y
def aluXnor (x y : Word) : Word := ~~~(x ^^^ y)
def aluShl (x y : Word) : Word := x <<< (y.toNat % 64)
def aluShr (x y : Word) : Word := x >>> (y.toNat % 64)
def aluSra (x y : Word) : Word := x.sshiftRight (y.toNat % 64)
def aluRol (x y : Word) : Word := rotl64 x (y.toNat % 64)
def aluRor (x y : Word) : Word := rotl64 x ((64 - y.toNat % 64) % 64)
def aluSlt (x y : Word) : Word := flag (x.slt y)
def aluSltu (x y : Word) : Word := flag (x.ult y)
def aluSeq (x y : Word) : Word := flag (x == y)
def aluSne (x y : Word) : Word := flag (x != y)
def aluMin (x y : Word) : Word := if x.sle y then x else y
def aluMax (x y : Word) : Word := if y.sle x then x else y
def aluMinu (x y : Word) : Word := if x.ule y then x else y
def aluMaxu (x y : Word) : Word := if y.ule x then x else y
def aluShadd (k : Nat) (x y : Word) : Word := y + x <<< k
def aluAddw (x y : Word) : Word := sext (x + y) 32
def aluSubw (x y : Word) : Word := sext (x - y) 32

/-! ## MULDIV (Table 4.2) -/

/-- The high half of an exact product. -/
def highHalf (p : Int) : Word := BitVec.ofInt 64 (p / 2 ^ 64)

def mulLow (x y : Word) : Word := x * y
def mulHigh (x y : Word) : Word := highHalf (x.toInt * y.toInt)
def mulHighU (x y : Word) : Word := highHalf ((x.toNat : Int) * y.toNat)
def mulHighSU (x y : Word) : Word := highHalf (x.toInt * y.toNat)

/-- DIV: every bit set for a zero divisor; −2^63 ÷ −1 wraps (R75). -/
def divS (x y : Word) : Word :=
  if y = 0 then BitVec.allOnes 64 else BitVec.ofInt 64 (Int.tdiv x.toInt y.toInt)

def divU (x y : Word) : Word := if y = 0 then BitVec.allOnes 64 else .ofNat 64 (x.toNat / y.toNat)

/-- REM: the dividend for a zero divisor, else the value that completes the quotient (R75). -/
def remS (x y : Word) : Word := if y = 0 then x else BitVec.ofInt 64 (Int.tmod x.toInt y.toInt)

def remU (x y : Word) : Word := if y = 0 then x else .ofNat 64 (x.toNat % y.toNat)

/-! ## BITS and fields (Tables 4.4, 4.5) -/

/-- Leading zeros of `n` bits. -/
def clzBits : Nat → Nat → Nat
  | 0, _ => 0
  | n + 1, x => if x / 2 ^ n % 2 = 1 then 0 else 1 + clzBits n x

/-- Trailing zeros of `n` bits. -/
def ctzBits : Nat → Nat → Nat
  | 0, _ => 0
  | n + 1, x => if x % 2 = 1 then 0 else 1 + ctzBits n (x / 2)

/-- The number of 1 bits among `n`. -/
def popBits : Nat → Nat → Nat
  | 0, _ => 0
  | n + 1, x => x % 2 + popBits n (x / 2)

/-- The `n` low bits in reverse order. -/
def revBits : Nat → Nat → Nat
  | 0, _ => 0
  | n + 1, x => x % 2 * 2 ^ n + revBits n (x / 2)

def bitsClz (x : Word) : Word := .ofNat 64 (clzBits 64 x.toNat)
def bitsCtz (x : Word) : Word := .ofNat 64 (ctzBits 64 x.toNat)
def bitsPopc (x : Word) : Word := .ofNat 64 (popBits 64 x.toNat)
def bitsBrev (x : Word) : Word := .ofNat 64 (revBits 64 x.toNat)
def bitsBswap (x : Word) : Word := .ofNat 64 (leNat (natLE 8 x.toNat).reverse)

def fieldU (x : Word) (pos len : Nat) : Word := zext (x >>> pos) len
def fieldS (x : Word) (pos len : Nat) : Word := sext (x >>> pos) len

/-- d with bits [pos+len−1:pos] replaced by a's low bits. -/
def fieldIns (d a : Word) (pos len : Nat) : Word :=
  let m : Word := BitVec.ofNat 64 (2 ^ len - 1) <<< pos
  (d &&& ~~~m) ||| ((a <<< pos) &&& m)

/-! ## Immediates (R34) -/

/-- A 13-bit immediate, sign-extended. -/
def imm13 (i : BitVec 13) : Word := i.signExtend 64

/-- A 19-bit immediate, sign-extended. -/
def imm19 (i : BitVec 19) : Word := i.signExtend 64

end Sys2Proof.Machine
end

