-- ==== Sys2Proof/Machine/Operands.lean ====
section
/-! DEFINITION. The operand forms: register specifiers (Table 2.4, R35, R71), and lane specifiers
with their rows, pointers, channels and masks (Table 2.5, R37, R38, R175 to R183). -/

namespace Sys2Proof.Machine

/-! ## Workspace registers (R99) -/

/-- The local address of register `wi`. -/
def Act.regAddr (a : Act) (i : BitVec 5) : Nat := (a.wp.toNat + 8 * i.toNat) % 2 ^ 17

/-- Register `wi` with its poison as it stands. -/
def Core.regVal (c : Core) (i : BitVec 5) : Val :=
  let la := c.cur.act.regAddr i
  { bits := (c.viewMem la).dword la
    taint := c.cur.taint.getLsbD i.toNat
    poison := readPoison 8 (c.viewPois la) la 8 }

/-- Sets one taint bit. -/
def setTaint (t : BitVec 32) (i : BitVec 5) (b : Bool) : BitVec 32 :=
  if b then t ||| BitVec.ofNat 32 (2 ^ i.toNat) else t &&& ~~~(BitVec.ofNat 32 (2 ^ i.toNat))

/-- Puts a value into register `wi`. -/
def Core.putReg (c : Core) (i : BitVec 5) (v : Val) : Core :=
  let c := c.putLocal (c.cur.act.regAddr i) (dwordBytes v.bits) (List.replicate 8 v.poison)
  { c with cur := { c.cur with taint := setTaint c.cur.taint i v.taint } }

/-- Reads `wi` (R40, R99). -/
def readW (i : BitVec 5) : M Val := do
  needs (Dest.isReg (.w i))
  let la := (← getC).cur.act.regAddr i
  if !(← getC).privateAt la then modify (fun s => s.meetLocal s.core.id la 8)
  return (← getC).regVal i

/-- Writes `wi`: a younger write than any pending one (R41). -/
def writeW (i : BitVec 5) (v : Val) : M Unit := do
  cancels (Dest.isReg (.w i))
  modC (fun c => c.putReg i v)

/-! ## Neighbour channels (R15, R104, R105) -/

/-- A channel that is not connected takes PROT with its specifier (R15). -/
def chanCheck (d : Dir) (spec : Nat) : M Unit := do
  let s ← get
  faultIf (!s.connected s.core.id d) cPROT spec

/-- Takes `n` dwords from a receive FIFO and returns their credits to the sender; waits until they
are there (R104). -/
def takeChan (d : Dir) (n : Nat) : M (List PWord) := do
  let c ← getC
  let q := c.fifoIn.getD d.num []
  waitUntil (decide (n ≤ q.length))
  irrevocable
  modC (fun c => { c with fifoIn := modifyAt (fun q => q.drop n) c.fifoIn d.num })
  modify (fun s => { s with parcels := s.parcels ++
    (match neighbour s.core.id d with
      | some m => List.replicate n (.credit m (oppDir d))
      | none => []) })
  pure (q.take n)

/-- Sends dwords on a channel; waits while the window is too small (R104). -/
def sendChan (d : Dir) (vs : List PWord) : M Unit := do
  let c ← getC
  waitUntil (decide (vs.length ≤ c.window.getD d.num 0))
  irrevocable
  modC (fun c => { c with window := modifyAt (· - vs.length) c.window d.num })
  modify (fun s => { s with parcels := s.parcels ++
    (match neighbour s.core.id d with
      | some m => vs.map (Parcel.chan m (oppDir d))
      | none => []) })

/-! ## The message body (R35, R95) -/

/-- The next dword of the activation's message; zero and MSGEND past its end. -/
def readInq : M Val := do
  let a := (← getC).cur.act
  match a.body[a.pos]? with
  | some v =>
    modA (fun a => { a with pos := a.pos + 1 })
    pure { bits := v.bits, taint := false, poison := v.poison }
  | none =>
    modA (fun a => { a with msgend := true })
    pure (.clean 0)

/-! ## Register operands -/

/-- Reads a register operand (Table 2.4). -/
def readR : RSpec → M Val
  | .w i => readW i
  | .inp d => do
    chanCheck d (36 + d.num)
    match ← takeChan d 1 with
    | v :: _ => pure { bits := v.bits, taint := false, poison := v.poison }
    | [] => stall
  | .z => pure (.clean 0)
  | .inq => readInq
  | .out d => fault cILL (32 + d.num)

/-- Writes a register operand (Table 2.4). -/
def writeR (r : RSpec) (v : Val) : M Unit :=
  match r with
  | .w i => writeW i v
  | .out d => do
    chanCheck d (32 + d.num)
    needs (Dest.isReg (.out d))
    sendChan d [v.strip]
    cancels (Dest.isReg (.out d))
  | .z => pure ()
  | .inp d => fault cILL (36 + d.num)
  | .inq => fault cILL 41

/-- Reads a register whose poison the instruction consumes (R73, R433). -/
def readClean (r : RSpec) : M Val := do
  let v ← readR r
  if v.poison then poisonFault r.bits
  pure v

/-- A machine with what the operands of the running instruction took put back, as it stood in `s`. -/
def State.untaken (t s : State) : State :=
  let a := s.core.cur.act
  { t with
    parcels := s.parcels
    core := { t.core with
      fifoIn := s.core.fifoIn
      cur := { t.core.cur with act := { t.core.cur.act with pos := a.pos, msgend := a.msgend } } } }

/-- The operands that an instruction of the integer pipeline consumes: on a poisoned one it takes POISON and has no other
effect, the taking of dwords among them (R73; log entry 85). -/
def consuming {α : Type} (x : M α) : M α := fun s =>
  match x s with
  | .error (.trap t) u => .error (.trap t) (if t.cause = cPOISON then u.untaken s else u)
  | r => r

/-- The register after one that names a w register. -/
def nextReg (r : RSpec) (k : Nat) : RSpec :=
  match r with
  | .w i => .w (.ofNat 5 (i.toNat + k))
  | .out d => .out d
  | .inp d => .inp d
  | .z => .z
  | .inq => .inq

/-- Reads `n` registers from one on. -/
def readRun (r : RSpec) : Nat → Nat → M (List Val)
  | 0, _ => pure []
  | n + 1, k => do
    let v ← readR (nextReg r k)
    let vs ← readRun r n (k + 1)
    pure (v :: vs)

/-- Writes registers from one on. -/
def writeRun (r : RSpec) : List Val → Nat → M Unit
  | [], _ => pure ()
  | v :: vs, k => do
    writeR (nextReg r k) v
    writeRun r vs (k + 1)

/-! ## The press as lane code meets it (R206, R213) -/

/-- The memory and poison the press works on at a local address: a check run's private image where
it reaches (R438). -/
def Core.pressMem (c : Core) (la : Nat) : Memory := if c.imageGr.contains (la / 64) then c.image else c.lm
def Core.pressPois (c : Core) (la : Nat) : NatSet :=
  if c.imageGr.contains (la / 64) then c.imagePois else c.lmPoison

/-- The eight dwords of a queue slot. -/
def Core.slotDwords (c : Core) (s : Nat) : List Word :=
  (List.range 8).map (fun j => (c.pressMem (64 * s)).dword (64 * s + 8 * j))

/-- Dword 0 of the command in a queue slot. -/
def Core.cmdWord (c : Core) (s : Nat) : Word := (c.pressMem (64 * s)).dword (64 * s)

/-- The command byte, first row and row count of a command's dword 0. -/
def cmdOp (d0 : Word) : Nat := d0.toNat % 256
def cmdRow0 (d0 : Word) : Nat := bitsAt d0 27 22
def cmdM (d0 : Word) : Nat := bitsAt d0 34 28

/-- Whether a command touches a tile row (R213). -/
def cmdTouches (d0 : Word) (r : Nat) : Bool :=
  match cmdOp d0 with
  | 0x03 | 0x04 | 0x05 | 0x06 | 0x07 | 0x08 => decide (cmdRow0 d0 ≤ r ∧ r < cmdRow0 d0 + cmdM d0)
  | 0x09 | 0x0C | 0x0D => true
  | _ => false

/-- Whether a command sets the mode (R206). -/
def cmdModes (d0 : Word) : Bool := cmdOp d0 == 0x09 || cmdOp d0 == 0x0D

/-- The queue slots that hold a command not yet retired. -/
def Core.busySlots (c : Core) : List Nat :=
  (List.range 16).filter (fun s => (c.press.slots.getD s .empty).st != .free)

/-- Whether a pending or running command touches a row. -/
def Core.rowHeld (c : Core) (r : Nat) : Bool :=
  c.busySlots.any (fun s => cmdTouches (c.cmdWord s) r)

/-- A tile row waits for the commands that touch it (R213). -/
def rowFree (r : BitVec 6) : M Unit := do waitUntil (!(← getC).rowHeld r.toNat)

/-- A lane instruction, LDV or STV waits for a command that sets the mode (R206). -/
def modeSettled : M Unit := do
  let c ← getC
  waitUntil (!c.busySlots.any (fun s => cmdModes (c.cmdWord s)))

/-- Reads a tile row (R40, R213). -/
def readRow (v : BitVec 6) : M Row := do
  needs (Dest.isRow v)
  rowFree v
  modify (fun s => s.meetTile s.core.id v.toNat)
  return (← getC).press.tile.getD v.toNat .zero

/-- Puts a tile row. -/
def Core.putRow (c : Core) (v : BitVec 6) (r : Row) : Core :=
  { c with press := { c.press with tile := c.press.tile.set v.toNat r } }

/-- Writes a tile row (R41, R213). -/
def writeRow (v : BitVec 6) (r : Row) : M Unit := do
  rowFree v
  cancels (Dest.isRow v)
  modC (fun c => c.putRow v r)

/-! ## Rows as bytes and lanes (R175, R176) -/

/-- The 256 bytes of a row. -/
def Row.bytes (r : Row) : List Byte := natLE 256 r.bits.toNat

/-- A list of bits, bit 0 first, as a number. -/
def boolsNat : List Bool → Nat
  | [] => 0
  | b :: bs => (if b then 1 else 0) + 2 * boolsNat bs

/-- A number as `n` bits, bit 0 first. -/
def natBools : Nat → Nat → List Bool
  | 0, _ => []
  | n + 1, x => (x % 2 == 1) :: natBools n (x / 2)

/-- A row from bytes with poison per byte: a unit is poisoned when any of its bytes is. -/
def Row.ofBytes (bs : List (Byte × Bool)) : Row :=
  { bits := .ofNat 2048 (leNat (bs.map (·.1)))
    pois := .ofNat 64 (boolsNat ((chunks 4 64 bs).map (fun u => u.any (·.2)))) }

/-- Poison per byte of a row. -/
def Row.bytePois (r : Row) : List Bool := (natBools 64 r.pois.toNat).flatMap (fun b => [b, b, b, b])

/-- A number cut into `n` pieces of `w` bits, least significant first. -/
def natLanes (w : Nat) : Nat → Nat → List Nat
  | 0, _ => []
  | n + 1, x => x % 2 ^ w :: natLanes w n (x / 2 ^ w)

/-- Pieces of `w` bits as a number. -/
def lanesNat (w : Nat) : List Nat → Nat
  | [] => 0
  | x :: xs => x % 2 ^ w + 2 ^ w * lanesNat w xs

/-- The lane width in bits, and the number of lanes (R175). -/
def Press.laneW (p : Press) : Nat := if p.narrow then 16 else 32
def Press.laneN (p : Press) : Nat := if p.narrow then 128 else 64

/-- A lane: its bits and its poison. -/
abbrev Lane := Nat × Bool

/-- The elements of `w` bits of a row (`w` divides 32), each with the poison of its unit. -/
def Row.elems (r : Row) (w : Nat) : List Lane :=
  (natLanes w (2048 / w) r.bits.toNat).zip
    ((natBools 64 r.pois.toNat).flatMap (fun b => List.replicate (32 / w) b))

/-- A mask register of the running priority context; `m0` reads all ones (R181). -/
def Core.mask (c : Core) (m : Nat) : Mask :=
  if m = 0 then { bits := BitVec.allOnes 128, pois := 0 }
  else (if c.curHi then c.masksHi else c.masksLo).getD m .zero

/-- Writes a mask register of the running priority context. -/
def Core.putMask (c : Core) (m : Nat) (v : Mask) : Core :=
  if c.curHi then { c with masksHi := c.masksHi.set m v } else { c with masksLo := c.masksLo.set m v }

/-! ## Lane operands -/

/-- The pointer register of a stream operand. -/
def ptrReg (p : BitVec 3) : BitVec 5 := .ofNat 5 (24 + p.toNat)

/-- The checks of a stream operand, in the order of R177. Answers the local row's address. The specifier of a poisoned
pointer is that of the register w24+N (log entry 95). -/
def streamCheck (p : BitVec 3) (dest : Bool) : M Nat := do
  let v ← readW (ptrReg p)
  if v.poison then poisonFault (24 + p.toNat)
  faultIf (v.bits.toNat % 256 != 0) cALIGN v.bits.toNat
  let la := v.bits.toNat % 2 ^ 17
  faultIf (!(← getC).scratch la 256) cBANK v.bits.toNat
  faultIf (dest && decide (la < 0x400)) cPROT v.bits.toNat
  pure la

/-- The fault checks of one lane operand (R177, R184, R15). -/
def laneCheck (a : LSpec) (dest : Bool) : M Unit :=
  match a with
  | .post p | .str p => do let _ ← streamCheck p dest
  | .vout d => chanCheck d (89 + d.num)
  | .vin d => chanCheck d (93 + d.num)
  | .v _ | .bcast _ | .vz | .m _ => pure ()

/-- A read of local memory outside what a checkable activation may read (R108). -/
def localRead (la n : Nat) : M Unit := do
  if !(← getC).cur.act.ownsLocal la n then uncheck

/-- The row of a lane source (R177 to R179). -/
def readL (a : LSpec) : M Row :=
  match a with
  | .v i => readRow i
  | .post p | .str p => do
    let la := (← readW (ptrReg p)).bits.toNat % 2 ^ 17
    let c ← getC
    for i in c.regsAt la 256 do needs (Dest.isReg (.w i))
    localRead la 256
    return Row.ofBytes (← readBytes la 256)
  | .bcast i => do
    let v ← readW (.ofNat 5 (16 + i.toNat))
    let p := (← getC).press
    let w := v.bits.toNat % 2 ^ p.laneW
    pure { bits := .ofNat 2048 (lanesNat p.laneW (List.replicate p.laneN w))
           pois := if v.poison then BitVec.allOnes 64 else 0 }
  | .vz => pure .zero
  | .vin d => do
    let vs ← takeChan d 32
    pure (Row.ofBytes (vs.flatMap (fun v => (dwordBytes v.bits).map (fun b => (b, v.poison)))))
  | .vout _ | .m _ => pure .zero

/-- The pointers that post-increment operands name, each once (R38). -/
def lposts : LSpec → List (BitVec 3)
  | .post p => [p]
  | .str _ | .v _ | .bcast _ | .vz | .vout _ | .vin _ | .m _ => []

/-- Adds 256 to each pointer named in post-increment form, once (R38, R177). It comes after the result is written: a pointer
that the instruction's own result wrote is increased from there, which the spec leaves open (log entry 96). -/
def bumpPointers : List (BitVec 3) → M Unit
  | [] => pure ()
  | p :: ps => do
    if ps.contains p then pure ()
    else
      let v ← readW (ptrReg p)
      writeW (ptrReg p) { v with bits := v.bits + 256 }
    bumpPointers ps

/-- One written lane of a result: its new bits and poison, or none where the lane is kept. -/
abbrev OutLane := Option Lane

/-- Poison of a unit after its lanes are written (R134, R176): `old` the unit's poison, `outs` its
lanes. -/
def unitPoison (old : Bool) (outs : List OutLane) : Bool :=
  let written := outs.filterMap id
  if written.isEmpty then old
  else poisonWrite old (written.length == outs.length) (written.any (·.2))

/-- Merges written elements of `w` bits into 256 bytes with poison per unit of `u` bits, and poisons
the elements whose mask bit is poisoned (R182, R183). -/
def mergeElems (w u : Nat) (bits : Nat) (pois : List Bool) (outs : List OutLane) (maskPois : List Bool) :
    Nat × List Bool :=
  let new := ((natLanes w (2048 / w) bits).zip outs).map (fun (x, o) => match o with
    | some (y, _) => y
    | none => x)
  let k := u / w
  let us := (chunks k (2048 / u) outs).zip (pois.zip (chunks k (2048 / u) maskPois))
  (lanesNat w new, us.map (fun (o, p, m) => unitPoison p o || m.any id))

end Sys2Proof.Machine
end

