-- ==== Sys2Proof/Machine/Rings.lean ====
section
/-! DEFINITION. User-mode queues as objects: their control lines, states and errors (R271, R272, R278),
and what a finished packet leaves (R275). -/

namespace Sys2Proof.Machine

/-- The code of a queue state in its control line (R271, Table 12.1). -/
def QSt.code : QSt → Nat
  | .waiting => 1
  | .running => 2
  | .held => 3
  | .error => 4

/-- The queue of a context with a number. -/
def State.queue? (s : State) (ctx num : Nat) : Option Queue :=
  s.queues.find? (fun q => q.ctx == ctx && q.num == num)

/-- The partition of a context. -/
def State.partOfCtx (s : State) (ctx : Nat) : Nat := ((s.ctx? ctx).map (·.part)).getD 0

/-- The physical key of a queue's slot for packet `v`. -/
def State.slotKey (s : State) (q : Queue) (v : Nat) : Nat :=
  physKey (s.partOfCtx q.ctx) (q.base + 64 * (v % 2 ^ q.logq))

/-- Dword 1 of a queue's control line. -/
def Queue.stateWord (q : Queue) : Word := .ofNat 64 (q.st.code + q.reason * 256)

/-- Changes a queue; its control line is written where RD or the state changes (R271, R275). -/
def State.putQueue (s : State) (q : Queue) (f : Queue → Queue) : State :=
  let n := f q
  let key := physKey (s.partOfCtx q.ctx) q.ctl
  let s := { s with queues := updFirst (fun x => x.ctx == q.ctx && x.num == q.num) (fun _ => n) s.queues }
  let s := if n.rd = q.rd then s else s.directWrite key (dwordBytes (.ofNat 64 n.rd))
  if n.stateWord = q.stateWord then s else s.directWrite (key + 8) (dwordBytes n.stateWord)

/-- Changes the queue of a context with a number. -/
def State.modQueue (s : State) (ctx num : Nat) (f : Queue → Queue) : State :=
  match s.queue? ctx num with
  | none => s
  | some q => s.putQueue q f

/-- Whether slot RD of a queue is full. -/
def State.headFull (s : State) (q : Queue) : Bool := s.fullSlots.has (s.slotKey q q.rd / 64)

/-- The state of a queue that is neither held nor in ERROR (Table 12.1). -/
def State.goOn (s : State) (q : Queue) : QSt := if s.headFull q then .running else .waiting

/-- The queues that run or wait, of contexts that are ACTIVE, stand as their slot RD is full or empty (Table 12.1). -/
def State.noticeSlots (s : State) : State :=
  (s.queues.filter (fun q => (q.st == .waiting || q.st == .running) && q.st != s.goOn q &&
    s.contexts.any (fun c => c.id == q.ctx && c.st == .active))).foldl
    (fun s q => s.putQueue q (fun x => { x with st := s.goOn x })) s

/-- A queue enters ERROR for a reason (R278). One already in ERROR keeps its reason. -/
def State.queueError (s : State) (ctx num reason : Nat) : State :=
  s.modQueue ctx num (fun q => if q.st = .error then q else { q with st := .error, reason := reason })

/-- The record of reasons 1 to 5 (R278): the packet's slot and its copy's status. -/
def State.queueRecord (s : State) (ctx num reason key status : Nat) : State :=
  s.recordCtx ctx
    { Rec.base (if reason = 1 then 0x0A else 0x12) 2 9 0 (s.partOfCtx ctx) ctx with
      pa := keyPA key, synd := .ofNat 64 (reason + status % 256 * 256 + num % 64 * 2 ^ 16) }

/-- A packet of a queue has completed (R275). -/
def State.packetDone (s : State) (ctx num index : Nat) : State :=
  s.modQueue ctx num (fun q => { q with pkts := q.pkts.filter (fun k => k.index != index) })

end Sys2Proof.Machine
end

