-- ==== Sys2Proof/Machine/Life.lean ====
section
/-! DEFINITION. The life of an activation: its registers, the larder, start, end, rollback and
redelivery (R94 to R103, R109, R111, R383 to R385), check runs' ends (R390, R394), and context
errors (R340). -/

namespace Sys2Proof.Machine

/-! ## What describes an activation (R95) -/

/-- ACTID (R95). -/
def Act.id (a : Act) : Word :=
  .ofNat 64 ((a.actor.getD 0xFFFF) % 2 ^ 16 + (if a.hi then 2 ^ 16 else 0) + (if a.redeliv then 2 ^ 17 else 0) +
    (if a.msgend then 2 ^ 18 else 0) + min a.body.length 8 * 2 ^ 19)

/-- Whether REPLYTO is valid. -/
def Act.replyValid (a : Act) : Bool := a.replyTo.msb

/-- The caller's reply address and core id in a REPLYTO word (R95). -/
def replyAddr (r : BitVec 64) : Nat := bitsAt r 30 14
def replyCore (r : BitVec 64) : Nat := bitsAt r 13 0

/-- An activation as a queue entry begins it (R95, R99, R106). -/
def Act.make (uid : Nat) (entry : BitVec 48) (body : List PWord) (hi : Bool) (actor : Option Nat)
    (tag : BitVec 16) (replyTo : BitVec 64) : Act :=
  { Act.blank with
    uid := uid, entry := entry, body := body, hi := hi, actor := actor, tag := tag, replyTo := replyTo,
    reply0 := replyTo, revocable := true }

/-- A record about an activation on the core in focus (R381, R433). -/
def State.actRec (s : State) (cls sev : Nat) (a : Act) : Rec :=
  { Rec.base cls sev 0 s.core.id s.myPart s.myCtx with
    entry := a.entry.toNat, tag := a.tag.toNat, kid := (s.core.kern.map (·.kid.toNat)).getD 0 }

/-- An activation whose trace events are recorded: a check run writes none (R390). -/
def State.traceAct (s : State) (kind detail : Nat) (a : Act) (addr : Nat) : State :=
  if a.isCheck then s
  else s.trace kind detail a.entry.toNat a.tag.toNat (a.id.toNat % 2 ^ 16) addr

/-! ## Actors (R97, R320) -/

/-- The definition of an actor of the core in focus. -/
def Core.actorDef (c : Core) (i : Nat) : Option ActorDef := c.kern.bind (fun k => k.actors[i]?)

/-- The core and index of an actor's consumer; none when it has none. -/
def Core.consumer (c : Core) (d : ActorDef) : Option (Nat × Nat) :=
  if d.cons = 0xFF then none
  else if d.crank = 0xFF then some (c.id, d.cons)
  else c.kern.bind (fun k => (k.peers[d.crank]?).map (fun p => (p, d.cons)))

/-- The definition of the running activation's actor. -/
def Core.runActor (c : Core) : Option ActorDef :=
  c.cur.act.actor.bind (fun i => c.workKern.bind (fun k => k.actors[i]?))

/-- The same for its consumer: the core and the actor there. -/
def Core.runConsumer (c : Core) (d : ActorDef) : Option (Nat × Nat) :=
  if d.cons = 0xFF then none
  else if d.crank = 0xFF then some (c.workId, d.cons)
  else c.workKern.bind (fun k => (k.peers[d.crank]?).map (fun p => (p, d.cons)))

/-- Changes an actor's state on a core. -/
def State.modActor (s : State) (core i : Nat) (f : ActorSt → ActorSt) : State :=
  s.modCore core (fun c => { c with actors := modifyAt f c.actors i })

/-- The local address of token slot `n` of an actor's ring (R320). -/
def ActorDef.slotAddr (d : ActorDef) (n : Nat) : Nat :=
  0x2000 * d.fbank + 64 * (d.fstart + (if d.depth = 0 then 0 else n % d.depth))

/-- Token slots of an actor's FIFO that are free and unreserved (R97). -/
def State.roomFor (s : State) (core i : Nat) : Nat :=
  let c := s.coreOf core
  match c.actorDef i, c.actors[i]? with
  | some d, some a => d.depth - (a.count + a.reserved)
  | _, _ => 0

/-- Whether an actor's consumer has room for what one firing produces (R97). -/
def State.consumerRoom (s : State) (d : ActorDef) : Bool :=
  match s.core.consumer d with
  | none => true
  | some (c, i) => decide (d.p ≤ s.roomFor c i)

/-- Reserves an actor's production at its consumer (R97). -/
def State.reserve (s : State) (d : ActorDef) : State :=
  match s.core.consumer d with
  | none => s
  | some (c, i) => s.modActor c i (fun a => { a with reserved := a.reserved + d.p })

/-- The token pushes that an activation still holds. -/
def Act.heldTokens (a : Act) : Nat :=
  (a.held.filter (fun h => match h with
    | .token _ _ => true
    | .store _ | .msg _ | .reply _ _ _ | .release _ => false)).length

/-- Frees the reserved slots an activation has not pushed into (R111, R385). -/
def State.unreserve (s : State) (a : Act) : State :=
  match a.actor.bind s.core.actorDef with
  | none => s
  | some d => match s.core.consumer d with
    | none => s
    | some (c, i) => s.modActor c i (fun t => { t with reserved := t.reserved - (d.p - a.pushed) })

/-- The tokens that a firing holds in its FIFO are consumed; an initial firing holds none (R111, R389, R436). -/
def State.eatTokens (s : State) (core : Nat) (a : Act) (sampled : Bool) : State :=
  match (if a.initial then none else a.actor) with
  | none => s
  | some i => match (s.coreOf core).actorDef i with
    | none => s
    | some d => s.modActor core i (fun t =>
      { t with
        head := if d.depth = 0 then 0 else (t.head + d.c) % d.depth
        count := t.count - d.c
        held := if sampled then t.held - d.c else t.held })

/-- Consumes an activation's tokens at its END; those of a sampled one stay held until its verdict
(R111, R389). -/
def State.consume (s : State) (a : Act) : State :=
  if !a.sampled then s.eatTokens s.core.id a false
  else match (if a.initial then none else a.actor) with
    | none => s
    | some i => match s.core.actorDef i with
      | none => s
      | some d => s.modActor s.core.id i (fun t => { t with held := t.held + d.c })

/-- Marks an actor as having, or not having, an activation that is not ENDED. -/
def State.setBusy (s : State) (a : Act) (b : Bool) : State :=
  match a.actor with
  | none => s
  | some i => s.modActor s.core.id i (fun t => { t with busy := b })

/-! ## The larder (R100 to R103) -/

/-- A packed list of granules (Table 5.3). -/
def packGranules : List Nat → Nat
  | [] => 0
  | g :: gs => g % 128 + 128 * packGranules gs

/-- The granules of a packed list, zeros left out. -/
def unpackGranules : Nat → Nat → List Nat
  | 0, _ => []
  | n + 1, x => (if x % 128 = 0 then [] else [x % 128]) ++ unpackGranules n (x / 128)

/-- Whether a queue entry stands in HQ: by its activation's priority, and a handler that resumes, which runs in the high
context (R338, R102). -/
def QEntry.high (e : QEntry) : Bool := e.act.hi || e.frame.isSome

/-- Puts a queue entry at the head of its queue, beyond its capacity if need be (R102). -/
def Core.pushFront (c : Core) (e : QEntry) : Core :=
  if e.high then { c with hq := { e with extra := decide (16 ≤ c.hq.length) } :: c.hq }
  else { c with lq := { e with extra := decide (32 ≤ c.lq.length) } :: c.lq }

/-- Writes a granted list into a parked thread's d register; to an output channel as a held value, which waits for the
window (R71, R104). -/
def State.putGrant (s : State) (th : Thread) (r : RSpec) (x : Nat) : Thread × State :=
  match r with
  | .w i =>
    let la := th.act.regAddr i
    (th, { s with core := { s.core with
      lm := s.core.lm.setBytes la (natLE 8 x)
      lmPoison := writePoison 8 s.core.lmPoison la (List.replicate 8 false) } })
  | .out _ =>
    let (uid, s) := s.takeUid
    let sl : Slot := {
      uid := uid, dest := .reg r, rem := 0, counted := false, value := some (.word (.clean (.ofNat 64 x))), here := true
      cancelled := false, acq := false, load := false, ldc := false, block := false }
    ({ th with slots := th.slots ++ [sl] }, s)
  | .inp _ | .z | .inq => (th, s)

/-- Grants parked claims from the head on, while the pool holds enough (R102). -/
def State.grantParked : List Parked → State → State
  | [], s => s
  | p :: ps, s =>
    if s.core.stopReq || s.core.frozen || decide (s.core.freeGr.length < p.n) then s
    else
      let gs := s.core.freeGr.take p.n
      let (th, s) := s.putGrant p.th p.d (packGranules gs)
      let th := { th with act := { th.act with extra := th.act.extra ++ gs, granted := th.act.granted ++ [gs] } }
      let c := { s.core with freeGr := s.core.freeGr.drop p.n, parked := ps }
      grantParked ps { s with core := c.pushFront { act := th.act, resume := some th, extra := false, frame := p.frame } }

/-- Tests the parked queue (R102). -/
def State.testParked (s : State) : State := State.grantParked s.core.parked s

/-- Returns granules to the pool. -/
def State.giveBack (s : State) (gs : List Nat) : State :=
  { s with core := { s.core with freeGr := gs.foldl NatSet.ins s.core.freeGr } }

/-! ## Freeing a context -/

/-- The running activation's context is free; a handler ends with it (R339). -/
def State.freeContext (s : State) : State :=
  let c := s.core
  { s with core := { c with
    active := false, cur := .blank, frame := if c.inHandler then none else c.frame,
    priv := false, inHandler := false } }

/-- The state of slot `k`. -/
def Press.stAt (p : Press) (k : Nat) : SlotSt := (p.slots.getD k .empty).st

/-- HEAD moves past free slots, at most `fuel` of them. -/
def headPast (p : Press) : Nat → BitVec 4 → BitVec 4
  | 0, h => h
  | n + 1, h => if p.stAt h.toNat = .free then headPast p n (h + 1) else h

/-- A slot is FREE again: PEND falls, and HEAD passes every slot that has retired (R210). -/
def Press.release (p : Press) (k : Nat) : Press :=
  let p := { p with slots := modifyAt (fun sl => { sl with st := .free }) p.slots k, pend := p.pend - 1 }
  { p with head := if p.pend = 0 then p.tail else headPast p 15 p.head }

/-- The stopped slot. -/
def Press.stoppedSlot (p : Press) : Option Nat := (List.range 16).find? (fun k => p.stAt k == .stopped)

/-- SKIP frees the stopped slot as though it had retired. -/
def Press.skip (p : Press) : Press :=
  match (if p.stop then p.stoppedSlot else none) with
  | none => p
  | some k => { p.release k with stop := false, scode := 0, faultTaken := false }

/-- In a press that is stopped, the STOPPED and PENDING commands of an activation are discarded, each as by SKIP
(R385 step 5). -/
def Press.discard (p : Press) (owner : Nat) : Press :=
  if !p.stop then p
  else
    let mine (k : Nat) (st : SlotSt) : Bool := (p.slots.getD k .empty).owner == owner && p.stAt k == st
    let q := ((List.range 16).filter (fun k => mine k .pending)).foldl Press.release p
    match p.stoppedSlot with
    | none => q
    | some k => if mine k .stopped then q.skip else q

/-- FLUSH of the press, for what does not run (R212): PENDING and STOPPED slots become FREE. -/
def Press.flush (p : Press) : Press :=
  let slots := p.slots.map (fun sl => if sl.st = .running then sl else { sl with st := .free })
  let run := (slots.filter (fun sl => sl.st != .free)).length
  { p with
    slots := slots, pend := run, head := if run = 0 then p.tail else p.head, stop := false, scode := 0,
    faultTaken := false }

/-! ## Samples (R388 to R394) -/

/-- Sends held outputs of an activation from its core, in program order, as far as they can leave (R107, R394). Answers
what is left. -/
def State.emitFrom (core act : Nat) : List Held → State → List Held × State
  | [], s => ([], s)
  | h :: t, s =>
    let s := s.modCore core (·.readyTo h)
    if !(s.coreOf core).canEmit act h then (h :: t, s)
    else
      let (c, ps) := (s.coreOf core).emit h
      emitFrom core act t { s.putCore c with parcels := s.parcels ++ ps }

/-- The committed outputs of a sample that is decided go on leaving; with the last the sample is gone (R394). -/
def State.drainSample (s : State) (k : Check) (outs : List Held) : State :=
  let (rest, s) := s.emitFrom k.core k.act.uid outs
  if rest.isEmpty then s.dropCheck k.uid
  else { s with checks := updFirst (fun x => x.uid == k.uid) (fun x => { x with outs := some rest }) s.checks }

/-- A sample is settled: outputs commit where they were held, and its tokens are consumed (R392, R394); they are gone when
its core has been loaded anew since. -/
def State.settle (s : State) (k : Check) (outs : List Held) : State :=
  if !k.ended then s.dropCheck k.uid
  else if k.outs.isSome then s
  else
    let here := (s.coreOf k.core).kern.map (·.loadedAt) == k.kern.map (·.loadedAt)
    (if here then s.eatTokens k.core k.act true else s).drainSample k outs

/-- A sample withdrawn without a verdict: the original's outputs stand (R388, R394). -/
def State.withdraw (s : State) (uid : Nat) : State :=
  match s.checks.find? (fun k => k.uid == uid) with
  | none => s
  | some k => s.settle k k.oHeld

/-- What a check run or tiebreak set aside on a core is put back, and its image discarded (R438). -/
def Core.putBack (c : Core) (k : Check) : Core :=
  { c with
    press := k.savedPress.getD c.press
    rind := k.savedRind
    tags := k.savedTags
    tt := k.savedTt
    laneCb := k.savedCb
    laneCbPois := k.savedCbPois
    image := [], imagePois := [], imageGr := [], imageEmpty := [], checkTt := [], checkKern := none, checkHome := 0 }

/-- A check run or tiebreak ends on the core in focus. -/
def State.leaveCheck (s : State) (k : Check) : State :=
  let s := s.freeContext
  { s with core := s.core.putBack k }

/-- The next present cluster of a partition after one, in partition numbers, wrapping (R390). -/
def State.nextCluster (s : State) (cl : Nat) : Nat :=
  let cs := s.clustersOf ((s.partOfCluster cl).getD 0)
  cs.getD ((cs.findIdx (· == cl) + 1) % cs.length) cl

/-- The cluster that a sample waits for, for its check or its tiebreak (R390, R392). -/
def State.waitsAt (s : State) (k : Check) : Option Nat :=
  if !k.ended || k.outs.isSome then none
  else match k.checker with
    | none => some (s.nextCluster (clusterOf k.core))
    | some c => match k.cDigest with
      | none => none
      | some d =>
        if d = k.oDigest || k.tie.isSome then none else some (s.nextCluster (clusterOf c))

/-- Whether the check queue of a cluster, of 64 entries, is full for a sample that would join it (R390). -/
def State.queueFull (s : State) (cl uid : Nat) : Bool :=
  decide (64 ≤ (s.checks.filter (fun k => k.uid != uid && s.waitsAt k == some cl)).length)

/-- Whether the check queue that a sample of the core in focus would join is full (R390). -/
def State.checkQueueFull (s : State) : Bool :=
  s.queueFull (s.nextCluster (clusterOf s.core.id)) (s.core.cur.act.check.getD 0)

/-- A sample withdrawn whose tiebreak would join a check queue that is full (R390, R392). -/
def State.tieRoom (s : State) (uid : Nat) : State :=
  match s.checks.find? (fun k => k.uid == uid) with
  | none => s
  | some k => match s.waitsAt k with
    | none => s
    | some cl => if s.queueFull cl uid then s.withdraw uid else s

/-- The end of a check run with its digest, or its withdrawal (R390, R391, R388). -/
def State.endCheck (s : State) (a : Act) (withdrawn : Bool) : State :=
  match a.check.bind (fun u => s.checks.find? (fun k => k.uid == u)) with
  | none => s.freeContext
  | some k =>
    let s := { s with reqs := s.reqs.filter (fun r => r.act != a.uid) }
    let s := s.leaveCheck k
    if withdrawn then s.withdraw k.uid
    else
      let tie := k.tie == some s.core.id
      State.tieRoom { s with checks := updFirst (fun x => x.uid == k.uid) (fun x =>
        if tie then { x with tDigest := some a.digest, tHeld := a.held, savedPress := none }
        else { x with cDigest := some a.digest, savedPress := none }) s.checks } k.uid

/-! ## END (R111) -/

/-- END once held values and outputs are dealt with: the steps of R111 from 2 on. -/
def State.finishAct (s : State) (abort : Bool) : State :=
  let a := s.core.cur.act
  if a.isCheck then s.endCheck a abort
  else
    let s := s.traceAct (if abort then 3 else 2) 0 a 0
    let s := if a.replyValid then
        { s with parcels := s.parcels ++
          [.reply (replyCore a.replyTo) (.ofNat 17 (replyAddr a.replyTo)) { bits := 0, poison := true }] }
      else s
    let s := ((s.consume a).unreserve a).setBusy a false
    let s := (s.giveBack a.extra).sealAtEnd
    ({ s with core := s.core.drainWc }.freeContext).testParked

/-- END of a sampled original: its digest goes to its check, and under HOLD its outputs with it
(R389, R394). -/
def State.endSampled (s : State) : State :=
  let a := s.core.cur.act
  match a.check with
  | none => s
  | some u =>
    let hold := (s.core.kern.map (·.hold)).getD false
    let reply : List Held := if hold && a.replyValid then
      [.reply (.ofNat 17 (replyAddr a.replyTo)) (replyCore a.replyTo) { bits := 0, poison := true }] else []
    let s := { s with checks := updFirst (fun k => k.uid == u) (fun k =>
      { k with ended := true, oDigest := a.digest, grants := a.granted, oHeld := if hold then a.held ++ reply else [] }) s.checks }
    if hold then
      { s with core := { s.core with cur := { s.core.cur with act :=
        { a with held := [], replyTo := a.replyTo.setWidth 63 |>.setWidth 64 } } } }
    else s

/-! ## Rollback (R383 to R385) -/

/-- Whether an activation is redeliverable (R383). -/
def Act.canRedeliver (a : Act) : Bool := a.revocable && !a.redeliv && a.redeliverable && !a.isCheck

/-- Rolls back an activation of the core in focus (R385, steps 1 to 4, and what step 5 discards). What it owns and has
reserved is given back, and it is queued again, in a later step. -/
def State.rollback (s : State) (a : Act) : State :=
  let s := match a.check with
    | none => s
    | some u => s.dropCheck u
  let s := a.emptied.foldl (fun s la => s.fill (.loc s.core.id la)) s
  let a' := { a with
    pos := 0, redeliv := true, msgend := false, replyTo := a.reply0, revocable := true, checkable := false,
    sampled := false, held := [], emptied := [], popped := 0, pushed := 0,
    digest := 0, check := none, granted := [] }
  let c := { s.core with press := s.core.press.discard a.uid, rolled := s.core.rolled ++ [a'] }
  { s with core := c }.freeContext

/-- Steps 6 and 7 of a rollback: the activation's extra granules return to the pool, and its reserved slots are free
(R385). Done again it does nothing. -/
def State.returnRolled (s : State) (a : Act) : Act × State :=
  let p := ((a.actor.bind s.core.actorDef).map (·.p)).getD 0
  let s := (s.giveBack a.extra).unreserve a
  let done := { a with extra := [], pushed := p }
  let rolled := updFirst (fun x => x.uid == a.uid) (fun _ => done) s.core.rolled
  (done, State.testParked { s with core := { s.core with rolled := rolled } })

/-! ## Context errors (R340) -/

/-- The activations of a core that a context error ends. -/
def Core.allActs (c : Core) : List Act :=
  (if c.active then [c.cur.act] else []) ++ (c.susp.map (·.act)).toList ++
    (if c.inHandler then [] else (c.frame.map (·.th.act)).toList) ++ c.parked.map (·.th.act) ++
    c.rolled ++ (c.hq ++ c.lq).map (·.act)

/-- The actor states of a core once its firings have ended: the tokens of each, but for an initial one, are consumed
(R97, R111). -/
def Core.endedActors (c : Core) : List ActorSt :=
  c.actors.zipIdx.map (fun (t, i) =>
    let fired := c.allActs.any (fun a => a.actor == some i && !a.initial && !a.isCheck)
    let t := { t with busy := false, reserved := 0 }
    match c.actorDef i with
    | none => t
    | some d =>
      let n := t.held + (if fired then d.c else 0)
      { t with head := if d.depth = 0 then 0 else (t.head + n) % d.depth, count := t.count - n, held := 0 })

/-- A core after a context error: every activation ended as by `END 1`, the press flushed. -/
def Core.cleared (c : Core) : Core :=
  { c.drainWc with
    active := false, cur := .blank, susp := none, frame := none, parked := [], rolled := [], hq := [],
    lq := [], inHi := [], inLo := [], outbox := [], priv := false, inHandler := false,
    press := c.press.flush,
    freeGr := (c.allActs.flatMap (·.extra)).foldl NatSet.ins c.freeGr,
    actors := c.endedActors,
    batchHi := .empty, batchLo := .empty
    image := [], imagePois := [], imageGr := [], imageEmpty := [], checkTt := [], checkKern := none, checkHome := 0
    frozen := false, acked := false, stalled := false, bufStalled := false, withdrawn := [] }

/-- The sample whose check run or tiebreak a core runs, or holds suspended. -/
def State.runOn (s : State) (c : Core) : Option Check :=
  ((c.allActs.find? (·.isCheck)).bind (·.check)).bind (fun u => s.checks.find? (fun k => k.uid == u))

/-- Ends every activation of a context's core (R340 step 3), sending the replies that are due; what a check run set aside
on it is put back first (R438). -/
def State.clearCore (s : State) (id : Nat) : State :=
  let c := s.coreOf id
  let c := match s.runOn c with
    | none => c
    | some k => c.putBack k
  let replies := (c.allActs.filter (fun a => a.replyValid && !a.isCheck)).map (fun a =>
    Parcel.reply (replyCore a.replyTo) (.ofNat 17 (replyAddr a.replyTo)) { bits := 0, poison := true })
  { s.putCore c.cleared with parcels := s.parcels ++ replies }

/-- The cores that a context's kernels hold, or that run a check of one. -/
def State.coresOfCtx (s : State) (id : Nat) : List Nat :=
  s.liveCores.filter (fun c =>
    let k := s.coreOf c
    ((k.kern <|> k.checkKern).map (·.ctx)) == some id)

/-- What a context error does to the objects of the context (R340, steps 1, 2, 4 and 5). -/
def State.failObjects (s : State) (id : Nat) : State :=
  let mine := s.queues.filter (fun q => q.ctx == id && q.st != QSt.error)
  let s := mine.foldl (fun s q => s.queueError id q.num 7) s
  let dropJobs (ch : Channel) : Channel := { ch with jobs := ch.jobs.filter (fun j => j.ctx != id) }
  let failK (k : Kernel) : Kernel := { k with st := KSt.failed, status := 3 }
  let failC (c : Counter) : Counter := { c with failed := true }
  let failB (b : Barrier) : Barrier := { b with failed := true }
  { s with
    channels := s.channels.map dropJobs
    rowWrites := s.rowWrites.filter (fun w => w.ctx != id)
    kernels := updAll (fun k => k.ctx == id) failK s.kernels
    checks := s.checks.filter (fun k => k.ctx != id)
    counters := updAll (fun c => c.ctx == id) failC s.counters
    barriers := updAll (fun b => b.ctx == id) failB s.barriers }

/-- A context error (R340), with the record it writes. -/
def State.ctxError (s : State) (id : Nat) (r : Rec) : State :=
  match s.ctx? id with
  | none => s
  | some x =>
    if x.st = .error then s
    else
      let s := s.recordCtx id { r with sev := 4, ctx := id }
      let s := s.modCtx id (fun c => { c with st := .error })
      ((s.coresOfCtx id).foldl State.clearCore s).failObjects id

end Sys2Proof.Machine
end

