-- ==== Sys2Proof/Machine/Ops.lean ====
section
/-! DEFINITION. The shared operations of instruction issue: pending writes applied at the end of
their windows (R39 to R45), loop end tests (R85 to R88), taking a fault (R338, R384), the return from
it (R339), and how an instruction's meaning runs (R49, R90). -/

namespace Sys2Proof.Machine

/-! ## Rind registers and binding tags (R234, R235) -/

/-- Writes a rind register: its generation rises by 1, and tags that recorded the generation it
reaches become empty (R234). -/
def Core.writeRind (c : Core) (k : Nat) (scales : BitVec 512) (pois : BitVec 64) : Core :=
  let gen := (c.rind.getD k .load).gen + 1
  let new : Rind := { scales := scales, pois := pois, gen := gen }
  { c with
    rind := c.rind.set k new
    tags := c.tags.map (fun t => if t.valid && t.reg.toNat == k && t.gen == gen then .empty else t) }

/-- Binds a tag to a rind register as it stands (R235). -/
def Core.bindTag (c : Core) (t : Nat) (addr : BitVec 17) (k : Nat) : Core :=
  let new : Tag := { valid := true, addr := addr, reg := .ofNat 4 k, gen := (c.rind.getD k .load).gen }
  { c with tags := c.tags.set t new }

/-! ## Applying pending writes (R40 to R44) -/

/-- Whether two pending writes share a destination. -/
def Dest.overlaps (d e : Dest) : Bool :=
  match d with
  | .reg r => e.isReg r
  | .row v => e.isRow v
  | .tld k t pair =>
    e.isRind k.toNat || e.isTag t.toNat || (pair && (e.isRind (k.toNat + 1) || e.isTag (t.toNat + 1)))

/-- Whether a held value can be written now: a channel needs window (R104). The commands that touch a row are all
younger than the LDV that waits to write it, and wait for it (R213). -/
def Core.canApply (c : Core) : Dest → Bool
  | .reg (.out d) => decide (0 < c.window.getD d.num 0)
  | .reg (.w _) | .reg (.inp _) | .reg .z | .reg .inq => true
  | .row _ | .tld _ _ _ => true

/-- Writes a held value to its destination, on the running thread. -/
def State.applyValue (s : State) (d : Dest) (v : Payload) : State :=
  match d, v with
  | .reg (.w i), .word x => { s with core := s.core.putReg i x }
  | .reg (.out o), .word x =>
    { s with
      core := { s.core with window := modifyAt (· - 1) s.core.window o.num }
      parcels := s.parcels ++ (match neighbour s.core.id o with
        | some m => [.chan m (oppDir o) x.strip]
        | none => []) }
  | .row i, .row r => { s with core := s.core.putRow i r }
  | .tld k t pair, .scales dst s0 p0 s1 p1 =>
    let c := (s.core.writeRind k.toNat s0 p0).bindTag t.toNat dst k.toNat
    { s with core :=
      if pair then (c.writeRind (k.toNat + 1) s1 p1).bindTag (t.toNat + 1) dst (k.toNat + 1) else c }
  | .reg _, _ | .row _, _ | .tld _ _ _, _ => s

/-- Whether a slot's value is ready to be written: its window has ended and the value has arrived. -/
def Slot.ready (sl : Slot) : Bool := sl.rem == 0 && sl.here

/-- Windows that have ended cancel the older pending writes to their destinations whose windows are still open: the
younger write lies inside those windows, whenever its value arrives (R41). Answers the slots and the tags that become
empty. -/
def cancelOlder : List Slot → List Slot → List Slot × List Nat
  | kept, [] => (kept, [])
  | kept, sl :: rest =>
    if sl.rem == 0 && !sl.cancelled then
      let inWindow (d : Dest) : Bool := sl.dest.overlaps d
      let older := kept.map (fun o => if o.rem = 0 then o else o.cancelIf inWindow)
      let (l, ts) := cancelOlder (older ++ [sl]) rest
      (l, kept.flatMap (Slot.openTags inWindow) ++ ts)
    else cancelOlder (kept ++ [sl]) rest

/-- Whether an older pending write has to be applied before one to a destination. -/
def heldUp (older : List Slot) (d : Dest) : Bool :=
  older.any (fun o => !o.cancelled && d.overlaps o.dest && !o.dest.replaced)

/-- Applies, in the order their carriers issued, the held values that are ready, and drops cancelled
ones that are done. A register or row written leaves nothing of an older pending write to it; writes of a channel or
of a rind register wait for older ones (R40). Answers the slots that stay. -/
def applyList : List Slot → List Slot → State → List Slot × State
  | kept, [], s => (kept, s)
  | kept, sl :: rest, s =>
    if sl.cancelled then applyList (if sl.ready then kept else kept ++ [sl]) rest s
    else if sl.ready && !heldUp kept sl.dest && s.core.canApply sl.dest then
      match sl.value with
      | some v => applyList (kept.map (Slot.cancelIf sl.dest.overlaps)) rest (s.applyValue sl.dest v)
      | none => applyList (kept ++ [sl]) rest s
    else applyList (kept ++ [sl]) rest s

/-- Puts the slots of the running thread. -/
def State.putSlots (s : State) (l : List Slot) : State :=
  { s with core := { s.core with cur := { s.core.cur with slots := l } } }

/-- Applies what is ready on the running thread. -/
def State.applyHeld (s : State) : State :=
  let (kept, s) := applyList [] s.core.cur.slots s
  s.putSlots kept

/-- Moves the open windows of the running thread on by one instruction (R40, R41). -/
def State.moveWindows (s : State) : State :=
  let (l, ts) := cancelOlder [] (s.core.cur.slots.map (fun sl => { sl with rem := sl.rem - 1 }))
  let s := s.putSlots l
  { s with core := s.core.emptyTags ts }

/-- A new pending write of the running thread (R40, R41). -/
def State.openSlot (s : State) (sl : Slot) : State :=
  let (l, ts) := cancelOlder [] (s.core.cur.slots ++ [sl])
  let s := s.putSlots l
  { s with core := s.core.emptyTags ts }

/-- Ends every open window of the running thread (R43); none while a value has not arrived. -/
def State.closeWindows (s : State) : Option State :=
  let s := (s.putSlots (s.core.cur.slots.map (fun sl => { sl with rem := 0 }))).applyHeld
  if s.core.cur.slots.all (·.cancelled) then some s else none

/-- The windows of the activation end, or the instruction waits (R43). -/
def endWindows : M Unit := do
  match (← get).closeWindows with
  | some s => set s
  | none => stall

/-- One instruction of the running thread has issued: open windows move on, and what is ready is
applied; then its own pending write opens (R40). -/
def State.tick (s : State) (own : Option Slot) : State :=
  let s := s.moveWindows.applyHeld
  match own with
  | none => s
  | some sl => (s.openSlot sl).applyHeld

/-- Runs a change with another thread of the core in the place of the running one. -/
def State.onThread (s : State) (t : Thread) (f : State → State) : Thread × State :=
  let cur := s.core.cur
  let s := f { s with core := { s.core with cur := t } }
  (s.core.cur, { s with core := { s.core with cur := cur } })

/-- Marks a slot's value as arrived. -/
def Thread.arrive (t : Thread) (uid : Nat) : Thread :=
  { t with slots := t.slots.map (fun sl => if sl.uid = uid && sl.value.isSome then { sl with here := true } else sl) }

/-- Applies what is ready on a trapped thread behind its handler `th`, which uses its registers as its own (R338). -/
def State.applyBehind (s : State) (th : Thread) (fr : TrapFrame) : Thread × TrapFrame × State :=
  let (t, s) := s.onThread { fr.th with taint := th.taint } State.applyHeld
  ({ th with taint := t.taint }, { fr with th := { t with taint := fr.th.taint } }, s)

/-- The same behind handlers whose claims are parked, or granted and not resumed (log entry 21). -/
def applyParked : List Parked → State → List Parked × State
  | [], s => ([], s)
  | p :: ps, s => match p.frame with
    | none =>
      let (ps, s) := applyParked ps s
      (p :: ps, s)
    | some fr =>
      let (th, fr, s) := s.applyBehind p.th fr
      let (ps, s) := applyParked ps s
      ({ p with th := th, frame := some fr } :: ps, s)
def applyQueued : List QEntry → State → List QEntry × State
  | [], s => ([], s)
  | e :: es, s => match e.frame, e.resume with
    | some fr, some th =>
      let (th, fr, s) := s.applyBehind th fr
      let (es, s) := applyQueued es s
      ({ e with resume := some th, frame := some fr } :: es, s)
    | none, _ | some _, none =>
      let (es, s) := applyQueued es s
      (e :: es, s)

/-- Applies what is ready on every thread of the core in focus: the running one, the suspended one,
and the trapped ones. -/
def State.applyAll (s : State) : State :=
  let s := s.applyHeld
  let (parked, s) := applyParked s.core.parked s
  let (hq, s) := applyQueued s.core.hq s
  let s := { s with core := { s.core with parked := parked, hq := hq } }
  let s := match s.core.susp with
    | none => s
    | some t =>
      let (t, s) := s.onThread t State.applyHeld
      { s with core := { s.core with susp := some t } }
  match s.core.frame with
  | none => s
  | some fr =>
    let (th, fr, s) := s.applyBehind s.core.cur fr
    { s with core := { s.core with
      cur := if s.core.inHandler then th else s.core.cur, frame := some fr } }

/-- Whether slot `uid` of a core completes an acquire (R157). -/
def Core.acquires (c : Core) (uid : Nat) : Bool :=
  c.threads.any (fun t => t.slots.any (fun sl => sl.uid == uid && sl.acq))

/-- The value of slot `uid` arrives at the core in focus (R45); an acquire that it completes drops the L1 (R157). -/
def State.arriveSlot (s : State) (uid : Nat) : State :=
  let c := s.core.mapThreads (fun t => t.arrive uid)
  State.applyAll { s with core := { c with l1 := if s.core.acquires uid then [] else c.l1 } }

/-- A carrier with nonzero L makes sure of a lookahead slot, before anything else of it. When four are in use it
waits for those whose window has ended, and when all four windows are open it ends the oldest one, whose value it
then sees (R42; log entry 11). -/
def takeSlot (l : Nat) : M Unit := do
  if l = 0 then return ()
  let slots := (← getC).cur.slots
  if (slots.filter (·.counted)).length < 4 then return ()
  waitUntil (slots.all (fun sl => !(sl.counted && sl.rem == 0)))
  let ended := updFirst (fun sl => sl.counted) (fun sl => { sl with rem := 0 }) slots
  modify (fun s => (s.putSlots ended).applyHeld)
  throw .again

/-- A pending write. -/
def newSlot (d : Dest) (l : Nat) (v : Option Payload) : M Slot := do
  let uid ← stateOf State.takeUid
  pure { uid := uid, dest := d, rem := l, counted := decide (l ≠ 0), value := v, here := v.isSome,
         cancelled := false, acq := false, load := false, ldc := false, block := false }

/-! ## Control (R85 to R88) -/

/-- Whether an address lies in a loop entry's range. -/
def LoopEntry.holds (e : LoopEntry) (pc : BitVec 48) : Bool :=
  decide (e.start.toNat ≤ pc.toNat ∧ pc.toNat < e.stop.toNat)

/-- Pops the loop entries whose range the PC has left (R87). -/
def popLoops (pc : BitVec 48) : List LoopEntry → List LoopEntry
  | [] => []
  | e :: es => if e.holds pc then e :: es else popLoops pc es

/-- Drops the loop entries whose range an address lies outside, but for one whose end test is due there (R86, R87). -/
def stayLoops (pc : BitVec 48) (l : List LoopEntry) : List LoopEntry :=
  l.dropWhile (fun e => !(e.holds pc || e.stop == pc))

/-- The PC moves to a target: entries whose range it leaves are popped (R87). -/
def State.jumpTo (s : State) (t : BitVec 48) : State :=
  { s with core := { s.core with cur := { s.core.cur with pc := t, loops := popLoops t s.core.cur.loops } } }

/-- The PC moves on by the length of an instruction. -/
def State.advance (s : State) (len : Nat) : State :=
  { s with core := { s.core with cur := { s.core.cur with pc := s.core.cur.pc + BitVec.ofNat 48 len } } }

/-! ## Taking a fault (R338, R384) -/

/-- The syndrome of a consumption record (Table 24.2). -/
def consumed (major spec : Nat) : Word := .ofNat 64 (major % 256 * 256 + spec % 128)

/-- The handler starts in the high-priority context, in the trapped activation's workspace (R338). -/
def State.startHandler (s : State) (t : TrapInfo) (epc : BitVec 48) : State :=
  let c := s.core
  let handler : Thread := { Thread.blank with act := c.cur.act, pc := c.tvec }
  { s with core := { c with
    frame := some { hi := c.curHi, buf := t.buf, th := c.cur }
    cur := handler
    curHi := true
    epc := epc
    cause := .ofNat 8 t.cause
    tval := t.tval
    wph := c.cur.act.wp
    priv := true
    inHandler := true } }

/-- The running activation takes a fault at `pc`; `major` is that of the instruction (R338, R384,
R433). A fault of a check run withdraws its sample (R384; log entry 12). -/
def State.takeTrap (s : State) (t : TrapInfo) (pc : BitVec 48) (major : Nat) : State :=
  let a := s.core.cur.act
  let epc := t.epc.getD pc
  let synd := if t.cause = cPOISON then consumed (t.major.getD major) t.spec else 0
  let error := { s.actRec t.cause 4 a with synd := synd }
  if a.isCheck then s.endCheck a true
  else if t.cause = cPOISON && a.canRedeliver then
    (s.recordCtx s.myCtx { s.actRec cPOISON 2 a with synd := synd }).rollback a
  else if s.core.inHandler || decide (s.core.tvec = 0) || (t.cause = cPOISON && a.redeliv) then
    s.ctxError s.myCtx error
  else
    let s := s.traceAct 4 t.cause a epc.toNat
    let s := if t.cause = cPOISON then s.recordCtx s.myCtx { s.actRec cPOISON 3 a with synd := synd } else s
    s.startHandler t epc

/-- The return from a handler (R339): the trapped activation runs on in its own priority context. The
activation and its registers' taint are as the handler leaves them. After a fault of the repetition
buffer the integer pipeline goes on at its own address (R92). A buffer of the handler's own that still holds is
dropped (log entry 84). -/
def State.returnFrom (s : State) (fr : TrapFrame) : State :=
  let c := s.core
  let pc := if fr.buf then fr.th.pc else c.epc
  let t := { fr.th with
    act := c.cur.act, taint := c.cur.taint, pc := pc
    phaseWait := if pc = fr.th.pc then fr.th.phaseWait else none
    loops := stayLoops pc fr.th.loops }
  { s with core := { c with
    cur := t, curHi := fr.hi, frame := none, priv := false, inHandler := false } }

/-! ## Loop end tests (R86, R87) -/

/-- A test of the innermost entry whose end the PC has reached: the count register is written, then
the PC returns to the start or the entry is popped. Unchanged while the test must wait. -/
def State.endTest (s : State) (e : LoopEntry) (rest : List LoopEntry) (i : BitVec 5) : State :=
  if s.core.owes (Dest.isReg (.w i)) then s
  else
    let met := s.meetLocal s.core.id (s.core.cur.act.regAddr i) 8
    let v := met.core.regVal i
    let pop (s : State) : State := { s with core := { s.core with cur := { s.core.cur with loops := rest } } }
    if v.poison then
      (pop met).takeTrap
        { cause := cPOISON, tval := .ofNat 64 i.toNat, spec := i.toNat, major := some 0x14,
          epc := some e.stop, buf := false } e.stop 0x14
    else
      let n := v.bits - 1
      let wrote := { met with core := (met.core.cancelPending (Dest.isReg (.w i))).putReg i { v with bits := n } }
      if n = 0 then pop wrote
      else match wrote.closeWindows with
        | none => s
        | some t => { t with core := { t.core with cur := { t.core.cur with pc := e.start } } }

/-- The end tests due at the PC, and the entries popped whose range it has left. A PC past the inner end that is the outer
end makes the outer test (log entry 35). -/
def State.endTests : Nat → State → State
  | 0, s => s
  | n + 1, s =>
    match s.core.cur.loops with
    | [] => s
    | e :: rest =>
      let pc := s.core.cur.pc
      if pc = e.stop then
        match e.c with
        | .w i =>
          let t := s.endTest e rest i
          if t.core.cur.loops.length < s.core.cur.loops.length && t.core.cur.pc = pc && !t.core.inHandler
          then t.endTests n else t
        | .out _ | .inp _ | .z | .inq => s
      else if e.holds pc then s
      else State.endTests n { s with core := { s.core with cur := { s.core.cur with loops := rest } } }

/-- Whether an end test is due before the next instruction. -/
def Core.testDue (c : Core) : Bool :=
  match c.cur.loops with
  | [] => false
  | e :: _ => e.stop == c.cur.pc

/-! ## How an instruction runs -/

/-- What an instruction shows at issue: its encoding, whether its operands are legal, whether it is
privileged, and the w registers and neighbour channels it names (R36, R49, R50, R90). -/
structure Form where
  enc : Nat
  ok : Bool
  priv : Bool
  regs : List Nat
  chans : List (Bool × Dir)
  deriving DecidableEq, Repr

/-- The length in bytes (R29). -/
def Form.len (f : Form) : Nat := if f.enc % 2 = 0 then 2 else 4

/-- The major opcode; that of the equivalent for a compact form (R30, R31). -/
def Form.major (f : Form) : Nat :=
  if f.enc % 2 = 1 then f.enc / 2 % 64
  else
    let op := f.enc / 2 % 16
    if op ≤ 4 || op == 13 || op == 14 then 0x28 else if op ≤ 8 || op == 15 then 0x29 else 0x2A

/-- Whether an instruction waits until the repetition buffer is empty, whatever it names (R90, R317). -/
def Form.waits (f : Form) : Bool :=
  let m := f.major
  let f7 := f.enc / 2 ^ 25
  decide (0x28 ≤ m ∧ m ≤ 0x2E) || decide (0x30 ≤ m ∧ m ≤ 0x37) || m == 0x15 || m == 0x16 || m == 0x1B ||
    m == 0x22 || m == 0x39 || (m == 0x1C && f7 == 2) || (m == 0x3C && f7 == 1)

/-- The w registers that a lane instruction names through pointers and broadcasts (R90). -/
def VInstr.names (v : VInstr) : List Nat := v.d.regs ++ v.a.regs ++ v.b.regs

/-- The w registers and channels that a body instruction names. -/
def VInstr.regs (v : VInstr) : List Nat := v.names ++ v.r.regs ++ v.q.regs
def VInstr.chans (v : VInstr) : List (Bool × Dir) :=
  v.d.chans ++ v.a.chans ++ v.b.chans ++ v.r.chans ++ v.q.chans

/-- Whether an instruction that names these registers and channels waits for the buffer, whose body names registers
through pointers and broadcasts (R90; log entry 82). -/
def RepBuf.blocks (b : RepBuf) (regs : List Nat) (chans : List (Bool × Dir)) : Bool :=
  b.body.any (fun x => x.ins.names.any regs.contains || x.ins.chans.any chans.contains)

/-- The kernel's register count rounded up to a multiple of 8 (R36). -/
def Core.regLimit (c : Core) : Nat := (c.workKern.map (fun k => (k.regs + 7) / 8 * 8)).getD 32

/-- The lowest of some numbers at or above a limit. -/
def lowestFrom (limit : Nat) : List Nat → Option Nat
  | [] => none
  | x :: xs => match lowestFrom limit xs with
    | none => if limit ≤ x then some x else none
    | some y => if limit ≤ x && decide (x < y) then some x else some y

/-- REGRANGE when a register lies at or above the limit (R36). -/
def regRange (regs : List Nat) : M Unit := do
  match lowestFrom (← getC).regLimit regs with
  | some r => fault cREGRANGE r
  | none => pure ()

/-- An instruction that turns out to name more registers waits for a body that names them too (R90). -/
def bodyFree (regs : List Nat) : M Unit := do
  match (← getC).cur.rep with
  | some b => waitUntil (!b.blocks regs [])
  | none => pure ()

/-- The faults of issue in their order, then the waits of issue (R49, R90, R98). -/
def issue (f : Form) : M Unit := do
  let c ← getC
  waitUntil (c.active && c.cur.slots.all (fun sl => !sl.block))
  faultIf (!f.ok) cILL f.enc
  faultIf (f.priv && !c.priv) cPRIV f.enc
  regRange f.regs
  match c.cur.rep with
  | some b => waitUntil (!(f.waits || b.blocks f.regs f.chans))
  | none => pure ()

/-- How an instruction ends: the next address follows, perhaps with a pending write; execution goes on
at an address past a body (R85, R89); control moves; it completes and takes a fault past itself (R93);
or the thread has already been dealt with. -/
inductive Flow where
  | next (own : Option Slot)
  | skip (t : BitVec 48)
  | goto (t : BitVec 48)
  | trap (t : TrapInfo)
  | done
  deriving DecidableEq, Repr

/-- The end of an instruction. -/
def State.complete (s : State) (f : Form) (fl : Flow) : State :=
  let s := { s with core := { s.core with nInstr := s.core.nInstr + 1 } }
  match fl with
  | .next own => State.endTests 3 ((s.tick own).advance f.len)
  | .skip t => State.endTests 3 { s with core := { s.core with cur := { s.core.cur with pc := t } } }
  | .goto t => s.jumpTo t
  | .trap t =>
    let s := (s.tick none).advance f.len
    s.takeTrap t s.core.cur.pc f.major
  | .done => s

/-- What a read found armed stands when the instruction then takes a fault (R442): `after` is the
state at the fault. -/
def State.keepFound (s after : State) : State :=
  s.armed.foldl (fun s a =>
    if after.armed.contains a then s
    else match a.tgt with
      | .loc core la => if a.unit = 3 then s.meetUnit core la else s.meetDword core (la / 8)
      | .phys key =>
        if a.unit = 1 then
          let (ov, s) := s.meetSlice s.myPart (key / 16)
          s.dropServed ov
        else s.meetMemory s.myPart (key / 16)) s

/-- The credit of a channel dword. -/
def Parcel.isCredit : Parcel → Bool
  | .credit _ _ => true
  | .msg _ | .token _ _ _ _ | .reply _ _ _ | .chan _ _ _ => false

/-- What an instruction consumed before it takes a fault stays consumed: dwords of the message body; and those of its
channels, if the activation was irrevocable, since a revocable one takes its faults before the act of reading a channel
(R8, R71, R432; log entry 85). `after` is the state at the fault. -/
def State.keepTaken (s after : State) : State :=
  let a := s.core.cur.act
  let b := after.core.cur.act
  let s := { s with core := { s.core with cur := { s.core.cur with act := { a with pos := b.pos, msgend := b.msgend } } } }
  if a.revocable then s
  else
    let credits := (after.parcels.drop s.parcels.length).filter Parcel.isCredit
    { s with core := { s.core with fifoIn := after.core.fifoIn }, parcels := s.parcels ++ credits }

/-- The activation issues nothing further until something changes. -/
def State.stall (s : State) : State := { s with core := { s.core with stalled := true } }

/-- How a meaning that did not run to its end leaves the machine: `s` before, `after` when it stopped. -/
def State.stop (s after : State) (f : Form) : Stop → State
  | .trap t => ((s.keepFound after).keepTaken after).takeTrap t s.core.cur.pc f.major
  | .trapHere t => after.takeTrap t s.core.cur.pc f.major
  | .wait => (s.afterWait after).stall
  | .waitHere => after.stall
  | .again => after
  | .commit act => (s.commitPart act).stall
  | .drain =>
    let s := s.afterWait after
    State.stall { s with core := s.core.tryDrain }

/-- An instruction that waits for outputs to be committed takes the faults that it has behind that, and commits nothing
(R432): the stop that stands, and the state it was met in. -/
def faultBefore {α : Type} (body : M α) (s : State) (e : Stop) (after : State) : Stop × State :=
  match e with
  | .commit _ =>
    let free := { s with core := { s.core with cur := { s.core.cur with act := { s.core.cur.act with held := [] } } } }
    (match body free with
      | .error (.trap t) u => (.trap t, u)
      | _ => (e, after))
  | .trap _ | .trapHere _ | .wait | .waitHere | .again | .drain => (e, after)

/-- Runs an instruction of the integer pipeline on the core in focus. -/
def run (f : Form) (body : M Flow) (s : State) : Host.Outcome State Fault Refusal :=
  let whole : M Flow := do issue f; body
  match whole s with
  | .ok fl t => .next (t.complete f fl)
  | .error e t =>
    let (e, t) := faultBefore whole s e t
    .next (s.stop t f e)

/-- A result that goes on to the next instruction. -/
def andNext (x : M Unit) : M Flow := do
  x
  pure (.next none)

/-- Writes a result that is known at issue and may have a window (R39). -/
def carry (r : RSpec) (l : BitVec 4) (v : Val) : M Flow := do
  if l = 0 then
    writeR r v
    pure (.next none)
  else
    match r with
    | .out d =>
      chanCheck d (32 + d.num)
      irrevocable
    | .w _ | .inp _ | .z | .inq => pure ()
    let sl ← newSlot (.reg r) l.toNat (some (.word v))
    pure (.next (some sl))

end Sys2Proof.Machine
end

