-- ==== Sys2Proof/Machine/Forms.lean ====
section
/-! DEFINITION. What each instruction shows at issue: its encoding (Tables 2.1 and 2.3), whether its
operands are legal in their places, whether it is privileged, and the registers and channels it
names (R33 to R37, R50, R90). -/

namespace Sys2Proof.Machine

def formAdd (d a b : RSpec) : Form :=
  { enc := 0x1 + d.bits * 128 + a.bits * 8192 + b.bits * 524288
    ok := d.writable && a.readable && b.readable
    priv := false, regs := d.regs ++ a.regs ++ b.regs
    chans := d.chans ++ a.chans ++ b.chans }

def formSub (d a b : RSpec) : Form :=
  { enc := 0x2000001 + d.bits * 128 + a.bits * 8192 + b.bits * 524288
    ok := d.writable && a.readable && b.readable
    priv := false, regs := d.regs ++ a.regs ++ b.regs
    chans := d.chans ++ a.chans ++ b.chans }

def formAnd (d a b : RSpec) : Form :=
  { enc := 0x4000001 + d.bits * 128 + a.bits * 8192 + b.bits * 524288
    ok := d.writable && a.readable && b.readable
    priv := false, regs := d.regs ++ a.regs ++ b.regs
    chans := d.chans ++ a.chans ++ b.chans }

def formOr (d a b : RSpec) : Form :=
  { enc := 0x6000001 + d.bits * 128 + a.bits * 8192 + b.bits * 524288
    ok := d.writable && a.readable && b.readable
    priv := false, regs := d.regs ++ a.regs ++ b.regs
    chans := d.chans ++ a.chans ++ b.chans }

def formXor (d a b : RSpec) : Form :=
  { enc := 0x8000001 + d.bits * 128 + a.bits * 8192 + b.bits * 524288
    ok := d.writable && a.readable && b.readable
    priv := false, regs := d.regs ++ a.regs ++ b.regs
    chans := d.chans ++ a.chans ++ b.chans }

def formAndn (d a b : RSpec) : Form :=
  { enc := 0xa000001 + d.bits * 128 + a.bits * 8192 + b.bits * 524288
    ok := d.writable && a.readable && b.readable
    priv := false, regs := d.regs ++ a.regs ++ b.regs
    chans := d.chans ++ a.chans ++ b.chans }

def formOrn (d a b : RSpec) : Form :=
  { enc := 0xc000001 + d.bits * 128 + a.bits * 8192 + b.bits * 524288
    ok := d.writable && a.readable && b.readable
    priv := false, regs := d.regs ++ a.regs ++ b.regs
    chans := d.chans ++ a.chans ++ b.chans }

def formXnor (d a b : RSpec) : Form :=
  { enc := 0xe000001 + d.bits * 128 + a.bits * 8192 + b.bits * 524288
    ok := d.writable && a.readable && b.readable
    priv := false, regs := d.regs ++ a.regs ++ b.regs
    chans := d.chans ++ a.chans ++ b.chans }

def formShl (d a b : RSpec) : Form :=
  { enc := 0x10000001 + d.bits * 128 + a.bits * 8192 + b.bits * 524288
    ok := d.writable && a.readable && b.readable
    priv := false, regs := d.regs ++ a.regs ++ b.regs
    chans := d.chans ++ a.chans ++ b.chans }

def formShr (d a b : RSpec) : Form :=
  { enc := 0x12000001 + d.bits * 128 + a.bits * 8192 + b.bits * 524288
    ok := d.writable && a.readable && b.readable
    priv := false, regs := d.regs ++ a.regs ++ b.regs
    chans := d.chans ++ a.chans ++ b.chans }

def formSra (d a b : RSpec) : Form :=
  { enc := 0x14000001 + d.bits * 128 + a.bits * 8192 + b.bits * 524288
    ok := d.writable && a.readable && b.readable
    priv := false, regs := d.regs ++ a.regs ++ b.regs
    chans := d.chans ++ a.chans ++ b.chans }

def formRol (d a b : RSpec) : Form :=
  { enc := 0x16000001 + d.bits * 128 + a.bits * 8192 + b.bits * 524288
    ok := d.writable && a.readable && b.readable
    priv := false, regs := d.regs ++ a.regs ++ b.regs
    chans := d.chans ++ a.chans ++ b.chans }

def formRor (d a b : RSpec) : Form :=
  { enc := 0x18000001 + d.bits * 128 + a.bits * 8192 + b.bits * 524288
    ok := d.writable && a.readable && b.readable
    priv := false, regs := d.regs ++ a.regs ++ b.regs
    chans := d.chans ++ a.chans ++ b.chans }

def formSlt (d a b : RSpec) : Form :=
  { enc := 0x1a000001 + d.bits * 128 + a.bits * 8192 + b.bits * 524288
    ok := d.writable && a.readable && b.readable
    priv := false, regs := d.regs ++ a.regs ++ b.regs
    chans := d.chans ++ a.chans ++ b.chans }

def formSltu (d a b : RSpec) : Form :=
  { enc := 0x1c000001 + d.bits * 128 + a.bits * 8192 + b.bits * 524288
    ok := d.writable && a.readable && b.readable
    priv := false, regs := d.regs ++ a.regs ++ b.regs
    chans := d.chans ++ a.chans ++ b.chans }

def formSeq (d a b : RSpec) : Form :=
  { enc := 0x1e000001 + d.bits * 128 + a.bits * 8192 + b.bits * 524288
    ok := d.writable && a.readable && b.readable
    priv := false, regs := d.regs ++ a.regs ++ b.regs
    chans := d.chans ++ a.chans ++ b.chans }

def formSne (d a b : RSpec) : Form :=
  { enc := 0x20000001 + d.bits * 128 + a.bits * 8192 + b.bits * 524288
    ok := d.writable && a.readable && b.readable
    priv := false, regs := d.regs ++ a.regs ++ b.regs
    chans := d.chans ++ a.chans ++ b.chans }

def formMin (d a b : RSpec) : Form :=
  { enc := 0x22000001 + d.bits * 128 + a.bits * 8192 + b.bits * 524288
    ok := d.writable && a.readable && b.readable
    priv := false, regs := d.regs ++ a.regs ++ b.regs
    chans := d.chans ++ a.chans ++ b.chans }

def formMax (d a b : RSpec) : Form :=
  { enc := 0x24000001 + d.bits * 128 + a.bits * 8192 + b.bits * 524288
    ok := d.writable && a.readable && b.readable
    priv := false, regs := d.regs ++ a.regs ++ b.regs
    chans := d.chans ++ a.chans ++ b.chans }

def formMinu (d a b : RSpec) : Form :=
  { enc := 0x26000001 + d.bits * 128 + a.bits * 8192 + b.bits * 524288
    ok := d.writable && a.readable && b.readable
    priv := false, regs := d.regs ++ a.regs ++ b.regs
    chans := d.chans ++ a.chans ++ b.chans }

def formMaxu (d a b : RSpec) : Form :=
  { enc := 0x28000001 + d.bits * 128 + a.bits * 8192 + b.bits * 524288
    ok := d.writable && a.readable && b.readable
    priv := false, regs := d.regs ++ a.regs ++ b.regs
    chans := d.chans ++ a.chans ++ b.chans }

def formShadd1 (d a b : RSpec) : Form :=
  { enc := 0x2a000001 + d.bits * 128 + a.bits * 8192 + b.bits * 524288
    ok := d.writable && a.readable && b.readable
    priv := false, regs := d.regs ++ a.regs ++ b.regs
    chans := d.chans ++ a.chans ++ b.chans }

def formShadd2 (d a b : RSpec) : Form :=
  { enc := 0x2c000001 + d.bits * 128 + a.bits * 8192 + b.bits * 524288
    ok := d.writable && a.readable && b.readable
    priv := false, regs := d.regs ++ a.regs ++ b.regs
    chans := d.chans ++ a.chans ++ b.chans }

def formShadd3 (d a b : RSpec) : Form :=
  { enc := 0x2e000001 + d.bits * 128 + a.bits * 8192 + b.bits * 524288
    ok := d.writable && a.readable && b.readable
    priv := false, regs := d.regs ++ a.regs ++ b.regs
    chans := d.chans ++ a.chans ++ b.chans }

def formAddw (d a b : RSpec) : Form :=
  { enc := 0x30000001 + d.bits * 128 + a.bits * 8192 + b.bits * 524288
    ok := d.writable && a.readable && b.readable
    priv := false, regs := d.regs ++ a.regs ++ b.regs
    chans := d.chans ++ a.chans ++ b.chans }

def formSubw (d a b : RSpec) : Form :=
  { enc := 0x32000001 + d.bits * 128 + a.bits * 8192 + b.bits * 524288
    ok := d.writable && a.readable && b.readable
    priv := false, regs := d.regs ++ a.regs ++ b.regs
    chans := d.chans ++ a.chans ++ b.chans }

def formMul (d a b : RSpec) (l : BitVec 4) : Form :=
  { enc := 0x3 + d.bits * 128 + a.bits * 8192 + b.bits * 524288 + l.toNat * 33554432
    ok := d.writable && a.readable && b.readable
    priv := false, regs := d.regs ++ a.regs ++ b.regs
    chans := d.chans ++ a.chans ++ b.chans }

def formMulh (d a b : RSpec) (l : BitVec 4) : Form :=
  { enc := 0x20000003 + d.bits * 128 + a.bits * 8192 + b.bits * 524288 + l.toNat * 33554432
    ok := d.writable && a.readable && b.readable
    priv := false, regs := d.regs ++ a.regs ++ b.regs
    chans := d.chans ++ a.chans ++ b.chans }

def formMulhu (d a b : RSpec) (l : BitVec 4) : Form :=
  { enc := 0x40000003 + d.bits * 128 + a.bits * 8192 + b.bits * 524288 + l.toNat * 33554432
    ok := d.writable && a.readable && b.readable
    priv := false, regs := d.regs ++ a.regs ++ b.regs
    chans := d.chans ++ a.chans ++ b.chans }

def formMulhsu (d a b : RSpec) (l : BitVec 4) : Form :=
  { enc := 0x60000003 + d.bits * 128 + a.bits * 8192 + b.bits * 524288 + l.toNat * 33554432
    ok := d.writable && a.readable && b.readable
    priv := false, regs := d.regs ++ a.regs ++ b.regs
    chans := d.chans ++ a.chans ++ b.chans }

def formDiv (d a b : RSpec) (l : BitVec 4) : Form :=
  { enc := 0x80000003 + d.bits * 128 + a.bits * 8192 + b.bits * 524288 + l.toNat * 33554432
    ok := d.writable && a.readable && b.readable
    priv := false, regs := d.regs ++ a.regs ++ b.regs
    chans := d.chans ++ a.chans ++ b.chans }

def formDivu (d a b : RSpec) (l : BitVec 4) : Form :=
  { enc := 0xa0000003 + d.bits * 128 + a.bits * 8192 + b.bits * 524288 + l.toNat * 33554432
    ok := d.writable && a.readable && b.readable
    priv := false, regs := d.regs ++ a.regs ++ b.regs
    chans := d.chans ++ a.chans ++ b.chans }

def formRem (d a b : RSpec) (l : BitVec 4) : Form :=
  { enc := 0xc0000003 + d.bits * 128 + a.bits * 8192 + b.bits * 524288 + l.toNat * 33554432
    ok := d.writable && a.readable && b.readable
    priv := false, regs := d.regs ++ a.regs ++ b.regs
    chans := d.chans ++ a.chans ++ b.chans }

def formRemu (d a b : RSpec) (l : BitVec 4) : Form :=
  { enc := 0xe0000003 + d.bits * 128 + a.bits * 8192 + b.bits * 524288 + l.toNat * 33554432
    ok := d.writable && a.readable && b.readable
    priv := false, regs := d.regs ++ a.regs ++ b.regs
    chans := d.chans ++ a.chans ++ b.chans }

def formClz (d a : RSpec) : Form :=
  { enc := 0x5 + d.bits * 128 + a.bits * 8192
    ok := d.writable && a.readable
    priv := false, regs := d.regs ++ a.regs
    chans := d.chans ++ a.chans }

def formCtz (d a : RSpec) : Form :=
  { enc := 0x2000005 + d.bits * 128 + a.bits * 8192
    ok := d.writable && a.readable
    priv := false, regs := d.regs ++ a.regs
    chans := d.chans ++ a.chans }

def formPopc (d a : RSpec) : Form :=
  { enc := 0x4000005 + d.bits * 128 + a.bits * 8192
    ok := d.writable && a.readable
    priv := false, regs := d.regs ++ a.regs
    chans := d.chans ++ a.chans }

def formBrev (d a : RSpec) : Form :=
  { enc := 0x6000005 + d.bits * 128 + a.bits * 8192
    ok := d.writable && a.readable
    priv := false, regs := d.regs ++ a.regs
    chans := d.chans ++ a.chans }

def formBswap (d a : RSpec) : Form :=
  { enc := 0x8000005 + d.bits * 128 + a.bits * 8192
    ok := d.writable && a.readable
    priv := false, regs := d.regs ++ a.regs
    chans := d.chans ++ a.chans }

def formSextb (d a : RSpec) : Form :=
  { enc := 0xa000005 + d.bits * 128 + a.bits * 8192
    ok := d.writable && a.readable
    priv := false, regs := d.regs ++ a.regs
    chans := d.chans ++ a.chans }

def formSexth (d a : RSpec) : Form :=
  { enc := 0xc000005 + d.bits * 128 + a.bits * 8192
    ok := d.writable && a.readable
    priv := false, regs := d.regs ++ a.regs
    chans := d.chans ++ a.chans }

def formSextw (d a : RSpec) : Form :=
  { enc := 0xe000005 + d.bits * 128 + a.bits * 8192
    ok := d.writable && a.readable
    priv := false, regs := d.regs ++ a.regs
    chans := d.chans ++ a.chans }

def formExtu (d a : RSpec) (pos len1 : BitVec 6) : Form :=
  { enc := 0x7 + d.bits * 128 + a.bits * 8192 + pos.toNat * 524288 + len1.toNat * 33554432
    ok := d.writable && a.readable && decide (pos.toNat + len1.toNat + 1 ≤ 64)
    priv := false, regs := d.regs ++ a.regs
    chans := d.chans ++ a.chans }

def formExts (d a : RSpec) (pos len1 : BitVec 6) : Form :=
  { enc := 0x9 + d.bits * 128 + a.bits * 8192 + pos.toNat * 524288 + len1.toNat * 33554432
    ok := d.writable && a.readable && decide (pos.toNat + len1.toNat + 1 ≤ 64)
    priv := false, regs := d.regs ++ a.regs
    chans := d.chans ++ a.chans }

def formIns (d a : RSpec) (pos len1 : BitVec 6) : Form :=
  { enc := 0xb + d.bits * 128 + a.bits * 8192 + pos.toNat * 524288 + len1.toNat * 33554432
    ok := d.inOut && a.readable && decide (pos.toNat + len1.toNat + 1 ≤ 64)
    priv := false, regs := d.regs ++ a.regs
    chans := d.chans ++ a.chans }

def formAddi (d a : RSpec) (imm : BitVec 13) : Form :=
  { enc := 0xd + d.bits * 128 + a.bits * 8192 + imm.toNat * 524288
    ok := d.writable && a.readable
    priv := false, regs := d.regs ++ a.regs
    chans := d.chans ++ a.chans }

def formAndi (d a : RSpec) (imm : BitVec 13) : Form :=
  { enc := 0xf + d.bits * 128 + a.bits * 8192 + imm.toNat * 524288
    ok := d.writable && a.readable
    priv := false, regs := d.regs ++ a.regs
    chans := d.chans ++ a.chans }

def formOri (d a : RSpec) (imm : BitVec 13) : Form :=
  { enc := 0x11 + d.bits * 128 + a.bits * 8192 + imm.toNat * 524288
    ok := d.writable && a.readable
    priv := false, regs := d.regs ++ a.regs
    chans := d.chans ++ a.chans }

def formXori (d a : RSpec) (imm : BitVec 13) : Form :=
  { enc := 0x13 + d.bits * 128 + a.bits * 8192 + imm.toNat * 524288
    ok := d.writable && a.readable
    priv := false, regs := d.regs ++ a.regs
    chans := d.chans ++ a.chans }

def formSlti (d a : RSpec) (imm : BitVec 13) : Form :=
  { enc := 0x15 + d.bits * 128 + a.bits * 8192 + imm.toNat * 524288
    ok := d.writable && a.readable
    priv := false, regs := d.regs ++ a.regs
    chans := d.chans ++ a.chans }

def formSltui (d a : RSpec) (imm : BitVec 13) : Form :=
  { enc := 0x17 + d.bits * 128 + a.bits * 8192 + imm.toNat * 524288
    ok := d.writable && a.readable
    priv := false, regs := d.regs ++ a.regs
    chans := d.chans ++ a.chans }

def formShli (d a : RSpec) (sh : BitVec 6) : Form :=
  { enc := 0x19 + d.bits * 128 + a.bits * 8192 + sh.toNat * 524288
    ok := d.writable && a.readable
    priv := false, regs := d.regs ++ a.regs
    chans := d.chans ++ a.chans }

def formShri (d a : RSpec) (sh : BitVec 6) : Form :=
  { enc := 0x40000019 + d.bits * 128 + a.bits * 8192 + sh.toNat * 524288
    ok := d.writable && a.readable
    priv := false, regs := d.regs ++ a.regs
    chans := d.chans ++ a.chans }

def formSrai (d a : RSpec) (sh : BitVec 6) : Form :=
  { enc := 0x80000019 + d.bits * 128 + a.bits * 8192 + sh.toNat * 524288
    ok := d.writable && a.readable
    priv := false, regs := d.regs ++ a.regs
    chans := d.chans ++ a.chans }

def formRori (d a : RSpec) (sh : BitVec 6) : Form :=
  { enc := 0xc0000019 + d.bits * 128 + a.bits * 8192 + sh.toNat * 524288
    ok := d.writable && a.readable
    priv := false, regs := d.regs ++ a.regs
    chans := d.chans ++ a.chans }

def formLih (d : RSpec) (imm : BitVec 19) : Form :=
  { enc := 0x1b + d.bits * 128 + imm.toNat * 8192
    ok := d.writable
    priv := false, regs := d.regs
    chans := d.chans }

def formLix (d : RSpec) (imm : BitVec 19) : Form :=
  { enc := 0x1d + d.bits * 128 + imm.toNat * 8192
    ok := d.inOut
    priv := false, regs := d.regs
    chans := d.chans }

def formAddpc (d : RSpec) (imm : BitVec 19) : Form :=
  { enc := 0x1f + d.bits * 128 + imm.toNat * 8192
    ok := d.writable
    priv := false, regs := d.regs
    chans := d.chans }

def formBeq (a b : RSpec) (off : BitVec 10) : Form :=
  { enc := 0x21 + a.bits * 1024 + b.bits * 65536 + off.toNat * 4194304
    ok := a.readable && b.readable
    priv := false, regs := a.regs ++ b.regs
    chans := a.chans ++ b.chans }

def formBne (a b : RSpec) (off : BitVec 10) : Form :=
  { enc := 0xa1 + a.bits * 1024 + b.bits * 65536 + off.toNat * 4194304
    ok := a.readable && b.readable
    priv := false, regs := a.regs ++ b.regs
    chans := a.chans ++ b.chans }

def formBlt (a b : RSpec) (off : BitVec 10) : Form :=
  { enc := 0x121 + a.bits * 1024 + b.bits * 65536 + off.toNat * 4194304
    ok := a.readable && b.readable
    priv := false, regs := a.regs ++ b.regs
    chans := a.chans ++ b.chans }

def formBge (a b : RSpec) (off : BitVec 10) : Form :=
  { enc := 0x1a1 + a.bits * 1024 + b.bits * 65536 + off.toNat * 4194304
    ok := a.readable && b.readable
    priv := false, regs := a.regs ++ b.regs
    chans := a.chans ++ b.chans }

def formBltu (a b : RSpec) (off : BitVec 10) : Form :=
  { enc := 0x221 + a.bits * 1024 + b.bits * 65536 + off.toNat * 4194304
    ok := a.readable && b.readable
    priv := false, regs := a.regs ++ b.regs
    chans := a.chans ++ b.chans }

def formBgeu (a b : RSpec) (off : BitVec 10) : Form :=
  { enc := 0x2a1 + a.bits * 1024 + b.bits * 65536 + off.toNat * 4194304
    ok := a.readable && b.readable
    priv := false, regs := a.regs ++ b.regs
    chans := a.chans ++ b.chans }

def formBbs (a : RSpec) (bit : BitVec 6) (off : BitVec 10) : Form :=
  { enc := 0x321 + a.bits * 1024 + bit.toNat * 65536 + off.toNat * 4194304
    ok := a.readable
    priv := false, regs := a.regs
    chans := a.chans }

def formBbc (a : RSpec) (bit : BitVec 6) (off : BitVec 10) : Form :=
  { enc := 0x3a1 + a.bits * 1024 + bit.toNat * 65536 + off.toNat * 4194304
    ok := a.readable
    priv := false, regs := a.regs
    chans := a.chans }

def formJ (off : BitVec 25) : Form :=
  { enc := 0x23 + off.toNat * 128
    ok := true
    priv := false, regs := []
    chans := [] }

def formJal (off : BitVec 25) : Form :=
  { enc := 0x25 + off.toNat * 128
    ok := true
    priv := false, regs := [31]
    chans := [] }

def formJalr (d a : RSpec) (imm : BitVec 13) : Form :=
  { enc := 0x27 + d.bits * 128 + a.bits * 8192 + imm.toNat * 524288
    ok := d.writable && a.readable
    priv := false, regs := d.regs ++ a.regs
    chans := d.chans ++ a.chans }

def formLoop (c : RSpec) (fin : BitVec 19) : Form :=
  { enc := 0x29 + c.bits * 128 + fin.toNat * 8192
    ok := c.inOut && decide (3 ≤ fin.toNat)
    priv := false, regs := c.regs
    chans := c.chans }

def formRep (n1 : BitVec 4) (c : RSpec) (vs : BitVec 6) : Form :=
  { enc := 0x2b + c.bits * 128 + n1.toNat * 8192 + vs.toNat * 131072
    ok := c.inOut
    priv := false, regs := c.regs
    chans := c.chans }

def formEndAct : Form :=
  { enc := 0x2d
    ok := true
    priv := false, regs := []
    chans := [] }

def formEndAbort : Form :=
  { enc := 0x8002d
    ok := true
    priv := false, regs := []
    chans := [] }

def formCallat (d a b : RSpec) : Form :=
  { enc := 0x200002d + d.bits * 128 + a.bits * 8192 + b.bits * 524288
    ok := d.readable && a.readable && b.readable
    priv := false, regs := d.regs ++ a.regs ++ b.regs ++ [4, 5, 6, 7]
    chans := d.chans ++ a.chans ++ b.chans }

def formReply (a : RSpec) : Form :=
  { enc := 0x400002d + a.bits * 8192
    ok := a.readable
    priv := false, regs := a.regs
    chans := a.chans }

def formSpawn (d a : RSpec) : Form :=
  { enc := 0x600002d + d.bits * 128 + a.bits * 8192
    ok := d.writable && a.readable
    priv := false, regs := d.regs ++ a.regs ++ [4, 5, 6, 7]
    chans := d.chans ++ a.chans }

def formSpawnH (d a : RSpec) : Form :=
  { enc := 0x608002d + d.bits * 128 + a.bits * 8192
    ok := d.writable && a.readable
    priv := false, regs := d.regs ++ a.regs ++ [4, 5, 6, 7]
    chans := d.chans ++ a.chans }

def formWclaim (d a : RSpec) : Form :=
  { enc := 0x800002d + d.bits * 128 + a.bits * 8192
    ok := d.writable && a.readable
    priv := false, regs := d.regs ++ a.regs
    chans := d.chans ++ a.chans }

def formWrel (a : RSpec) : Form :=
  { enc := 0xa00002d + a.bits * 8192
    ok := a.readable
    priv := false, regs := a.regs
    chans := a.chans }

def formApop (d : RSpec) : Form :=
  { enc := 0xc00002d + d.bits * 128
    ok := d.group8
    priv := false, regs := d.run 8
    chans := d.chans }

def formApush (a : RSpec) : Form :=
  { enc := 0xe00002d + a.bits * 8192
    ok := a.group8
    priv := false, regs := a.run 8
    chans := a.chans }

def formNop : Form :=
  { enc := 0x2f
    ok := true
    priv := false, regs := []
    chans := [] }

def formTrap (a : RSpec) : Form :=
  { enc := 0x200002f + a.bits * 8192
    ok := a.readable
    priv := false, regs := a.regs
    chans := a.chans }

def formBrk : Form :=
  { enc := 0x400002f
    ok := true
    priv := false, regs := []
    chans := [] }

def formRte : Form :=
  { enc := 0x600002f
    ok := true
    priv := true, regs := []
    chans := [] }

def formIdle : Form :=
  { enc := 0x800002f
    ok := true
    priv := true, regs := []
    chans := [] }

def formLd (t base : RSpec) (off : BitVec 5) (hint size : BitVec 2) (l : BitVec 4) : Form :=
  { enc := 0x31 + t.bits * 128 + base.bits * 8192 + l.toNat * 524288 + size.toNat * 8388608 + hint.toNat * 33554432 + off.toNat * 134217728
    ok := t.writable && base.readable
    priv := false, regs := t.regs ++ base.regs
    chans := t.chans ++ base.chans }

def formLdu (t base : RSpec) (off : BitVec 5) (hint size : BitVec 2) (l : BitVec 4) : Form :=
  { enc := 0x33 + t.bits * 128 + base.bits * 8192 + l.toNat * 524288 + size.toNat * 8388608 + hint.toNat * 33554432 + off.toNat * 134217728
    ok := t.writable && base.readable && decide (size.toNat < 3)
    priv := false, regs := t.regs ++ base.regs
    chans := t.chans ++ base.chans }

def formSt (t base : RSpec) (off : BitVec 5) (hint size : BitVec 2) : Form :=
  { enc := 0x35 + t.bits * 128 + base.bits * 8192 + size.toNat * 8388608 + hint.toNat * 33554432 + off.toNat * 134217728
    ok := t.readable && base.readable
    priv := false, regs := t.regs ++ base.regs
    chans := t.chans ++ base.chans }

def formLdv (vt : BitVec 6) (base : RSpec) (off : BitVec 5) (hint : BitVec 2) (l : BitVec 4) : Form :=
  { enc := 0x37 + vt.toNat * 128 + base.bits * 8192 + l.toNat * 524288 + hint.toNat * 33554432 + off.toNat * 134217728
    ok := base.readable
    priv := false, regs := base.regs
    chans := base.chans }

def formStv (vt : BitVec 6) (base : RSpec) (off : BitVec 5) (hint : BitVec 2) : Form :=
  { enc := 0x800037 + vt.toNat * 128 + base.bits * 8192 + hint.toNat * 33554432 + off.toNat * 134217728
    ok := base.readable
    priv := false, regs := base.regs
    chans := base.chans }

def formZfill (base : RSpec) (off : BitVec 5) (hint : BitVec 2) : Form :=
  { enc := 0x1000037 + base.bits * 8192 + hint.toNat * 33554432 + off.toNat * 134217728
    ok := base.readable
    priv := false, regs := base.regs
    chans := base.chans }

def formPref (base : RSpec) (off : BitVec 5) (hint : BitVec 2) : Form :=
  { enc := 0x1800037 + base.bits * 8192 + hint.toNat * 33554432 + off.toNat * 134217728
    ok := base.readable
    priv := false, regs := base.regs
    chans := base.chans }

def formL1inv : Form :=
  { enc := 0x39
    ok := true
    priv := false, regs := []
    chans := [] }

def formIcinv (a : RSpec) (scope : BitVec 6) : Form :=
  { enc := 0x2000039 + a.bits * 8192 + scope.toNat * 524288
    ok := a.readable && decide (scope.toNat < 4)
    priv := false, regs := a.regs
    chans := a.chans }

def formBankmode (a b : RSpec) : Form :=
  { enc := 0x4000039 + a.bits * 8192 + b.bits * 524288
    ok := a.readable && b.readable
    priv := false, regs := a.regs ++ b.regs
    chans := a.chans ++ b.chans }

def formBankq (d : RSpec) : Form :=
  { enc := 0x6000039 + d.bits * 128
    ok := d.writable
    priv := false, regs := d.regs
    chans := d.chans }

def formLdc (t base : RSpec) (off : BitVec 5) (hint size : BitVec 2) (l : BitVec 4) : Form :=
  { enc := 0x3b + t.bits * 128 + base.bits * 8192 + l.toNat * 524288 + size.toNat * 8388608 + hint.toNat * 33554432 + off.toNat * 134217728
    ok := t.writable && base.readable
    priv := false, regs := t.regs ++ base.regs
    chans := t.chans ++ base.chans }

def formLds (t base : RSpec) (off : BitVec 5) (l : BitVec 4) : Form :=
  { enc := 0x180003d + t.bits * 128 + base.bits * 8192 + l.toNat * 524288 + off.toNat * 134217728
    ok := t.writable && base.readable
    priv := false, regs := t.regs ++ base.regs
    chans := t.chans ++ base.chans }

def formLdsE (t base : RSpec) (off : BitVec 5) (l : BitVec 4) : Form :=
  { enc := 0x380003d + t.bits * 128 + base.bits * 8192 + l.toNat * 524288 + off.toNat * 134217728
    ok := t.writable && base.readable
    priv := false, regs := t.regs ++ base.regs
    chans := t.chans ++ base.chans }

def formStf (t base : RSpec) (off : BitVec 5) (hint : BitVec 2) : Form :=
  { enc := 0x180003f + t.bits * 128 + base.bits * 8192 + hint.toNat * 33554432 + off.toNat * 134217728
    ok := t.readable && base.readable
    priv := false, regs := t.regs ++ base.regs
    chans := t.chans ++ base.chans }

def formAadd (d a : RSpec) (size : BitVec 1) (scope ord : BitVec 2) (l : BitVec 4) : Form :=
  { enc := 0x41 + d.bits * 128 + a.bits * 8192 + l.toNat * 524288 + ord.toNat * 134217728 + scope.toNat * 536870912 + size.toNat * 2147483648
    ok := d.inOut && a.readable && (l == 0 || ord == 0 || ord == 2)
    priv := false, regs := d.regs ++ a.regs
    chans := d.chans ++ a.chans }

def formAand (d a : RSpec) (size : BitVec 1) (scope ord : BitVec 2) (l : BitVec 4) : Form :=
  { enc := 0x800041 + d.bits * 128 + a.bits * 8192 + l.toNat * 524288 + ord.toNat * 134217728 + scope.toNat * 536870912 + size.toNat * 2147483648
    ok := d.inOut && a.readable && (l == 0 || ord == 0 || ord == 2)
    priv := false, regs := d.regs ++ a.regs
    chans := d.chans ++ a.chans }

def formAor (d a : RSpec) (size : BitVec 1) (scope ord : BitVec 2) (l : BitVec 4) : Form :=
  { enc := 0x1000041 + d.bits * 128 + a.bits * 8192 + l.toNat * 524288 + ord.toNat * 134217728 + scope.toNat * 536870912 + size.toNat * 2147483648
    ok := d.inOut && a.readable && (l == 0 || ord == 0 || ord == 2)
    priv := false, regs := d.regs ++ a.regs
    chans := d.chans ++ a.chans }

def formAxor (d a : RSpec) (size : BitVec 1) (scope ord : BitVec 2) (l : BitVec 4) : Form :=
  { enc := 0x1800041 + d.bits * 128 + a.bits * 8192 + l.toNat * 524288 + ord.toNat * 134217728 + scope.toNat * 536870912 + size.toNat * 2147483648
    ok := d.inOut && a.readable && (l == 0 || ord == 0 || ord == 2)
    priv := false, regs := d.regs ++ a.regs
    chans := d.chans ++ a.chans }

def formAmin (d a : RSpec) (size : BitVec 1) (scope ord : BitVec 2) (l : BitVec 4) : Form :=
  { enc := 0x2000041 + d.bits * 128 + a.bits * 8192 + l.toNat * 524288 + ord.toNat * 134217728 + scope.toNat * 536870912 + size.toNat * 2147483648
    ok := d.inOut && a.readable && (l == 0 || ord == 0 || ord == 2)
    priv := false, regs := d.regs ++ a.regs
    chans := d.chans ++ a.chans }

def formAmax (d a : RSpec) (size : BitVec 1) (scope ord : BitVec 2) (l : BitVec 4) : Form :=
  { enc := 0x2800041 + d.bits * 128 + a.bits * 8192 + l.toNat * 524288 + ord.toNat * 134217728 + scope.toNat * 536870912 + size.toNat * 2147483648
    ok := d.inOut && a.readable && (l == 0 || ord == 0 || ord == 2)
    priv := false, regs := d.regs ++ a.regs
    chans := d.chans ++ a.chans }

def formAminu (d a : RSpec) (size : BitVec 1) (scope ord : BitVec 2) (l : BitVec 4) : Form :=
  { enc := 0x3000041 + d.bits * 128 + a.bits * 8192 + l.toNat * 524288 + ord.toNat * 134217728 + scope.toNat * 536870912 + size.toNat * 2147483648
    ok := d.inOut && a.readable && (l == 0 || ord == 0 || ord == 2)
    priv := false, regs := d.regs ++ a.regs
    chans := d.chans ++ a.chans }

def formAmaxu (d a : RSpec) (size : BitVec 1) (scope ord : BitVec 2) (l : BitVec 4) : Form :=
  { enc := 0x3800041 + d.bits * 128 + a.bits * 8192 + l.toNat * 524288 + ord.toNat * 134217728 + scope.toNat * 536870912 + size.toNat * 2147483648
    ok := d.inOut && a.readable && (l == 0 || ord == 0 || ord == 2)
    priv := false, regs := d.regs ++ a.regs
    chans := d.chans ++ a.chans }

def formAxchg (d a : RSpec) (size : BitVec 1) (scope ord : BitVec 2) (l : BitVec 4) : Form :=
  { enc := 0x4000041 + d.bits * 128 + a.bits * 8192 + l.toNat * 524288 + ord.toNat * 134217728 + scope.toNat * 536870912 + size.toNat * 2147483648
    ok := d.inOut && a.readable && (l == 0 || ord == 0 || ord == 2)
    priv := false, regs := d.regs ++ a.regs
    chans := d.chans ++ a.chans }

def formAfadd (d a : RSpec) (size : BitVec 1) (scope ord : BitVec 2) (l : BitVec 4) : Form :=
  { enc := 0x4800041 + d.bits * 128 + a.bits * 8192 + l.toNat * 524288 + ord.toNat * 134217728 + scope.toNat * 536870912 + size.toNat * 2147483648
    ok := d.inOut && a.readable && (l == 0 || ord == 0 || ord == 2)
    priv := false, regs := d.regs ++ a.regs
    chans := d.chans ++ a.chans }

def formAfmin (d a : RSpec) (size : BitVec 1) (scope ord : BitVec 2) (l : BitVec 4) : Form :=
  { enc := 0x5000041 + d.bits * 128 + a.bits * 8192 + l.toNat * 524288 + ord.toNat * 134217728 + scope.toNat * 536870912 + size.toNat * 2147483648
    ok := d.inOut && a.readable && (l == 0 || ord == 0 || ord == 2)
    priv := false, regs := d.regs ++ a.regs
    chans := d.chans ++ a.chans }

def formAfmax (d a : RSpec) (size : BitVec 1) (scope ord : BitVec 2) (l : BitVec 4) : Form :=
  { enc := 0x5800041 + d.bits * 128 + a.bits * 8192 + l.toNat * 524288 + ord.toNat * 134217728 + scope.toNat * 536870912 + size.toNat * 2147483648
    ok := d.inOut && a.readable && (l == 0 || ord == 0 || ord == 2)
    priv := false, regs := d.regs ++ a.regs
    chans := d.chans ++ a.chans }

def formAld (d a : RSpec) (size : BitVec 1) (scope ord : BitVec 2) (l : BitVec 4) : Form :=
  { enc := 0x6000041 + d.bits * 128 + a.bits * 8192 + l.toNat * 524288 + ord.toNat * 134217728 + scope.toNat * 536870912 + size.toNat * 2147483648
    ok := d.inOut && a.readable && (l == 0 || ord == 0 || ord == 2)
    priv := false, regs := d.regs ++ a.regs
    chans := d.chans ++ a.chans }

def formAst (d a : RSpec) (size : BitVec 1) (scope ord : BitVec 2) : Form :=
  { enc := 0x6800041 + d.bits * 128 + a.bits * 8192 + ord.toNat * 134217728 + scope.toNat * 536870912 + size.toNat * 2147483648
    ok := d.inOut && a.readable
    priv := false, regs := d.regs ++ a.regs
    chans := d.chans ++ a.chans }

def formAcas (d a : RSpec) (size : BitVec 1) (scope ord : BitVec 2) (l : BitVec 4) : Form :=
  { enc := 0x43 + d.bits * 128 + a.bits * 8192 + l.toNat * 524288 + ord.toNat * 8388608 + scope.toNat * 33554432 + size.toNat * 134217728
    ok := d.pair && a.readable && (l == 0 || ord == 0 || ord == 2)
    priv := false, regs := d.run 2 ++ a.regs
    chans := d.chans ++ a.chans }

def formPhase (d : RSpec) : Form :=
  { enc := 0x45 + d.bits * 128
    ok := d.inOut
    priv := false, regs := d.regs
    chans := d.chans }

def formRel (scope : BitVec 6) : Form :=
  { enc := 0x2000045 + scope.toNat * 524288
    ok := decide (scope.toNat < 4)
    priv := false, regs := []
    chans := [] }

def formAcq : Form :=
  { enc := 0x4000045
    ok := true
    priv := false, regs := []
    chans := [] }

def formFence : Form :=
  { enc := 0x6000045
    ok := true
    priv := false, regs := []
    chans := [] }

def formClrt (d : RSpec) : Form :=
  { enc := 0x8000045 + d.bits * 128
    ok := d.inOut
    priv := false, regs := d.regs
    chans := d.chans }

def formPhasen (d : RSpec) : Form :=
  { enc := 0xa000045 + d.bits * 128
    ok := d.inOut
    priv := false, regs := d.regs
    chans := d.chans }

def formVaddF (d a b : LSpec) : Form :=
  { enc := 0x51 + d.bits * 128 + a.bits * 16384 + b.bits * 2097152
    ok := d.dest && a.source && b.source
    priv := false, regs := d.regs ++ a.regs ++ b.regs
    chans := d.chans ++ a.chans ++ b.chans }

def formVsubF (d a b : LSpec) : Form :=
  { enc := 0x10000051 + d.bits * 128 + a.bits * 16384 + b.bits * 2097152
    ok := d.dest && a.source && b.source
    priv := false, regs := d.regs ++ a.regs ++ b.regs
    chans := d.chans ++ a.chans ++ b.chans }

def formVmulF (d a b : LSpec) : Form :=
  { enc := 0x20000051 + d.bits * 128 + a.bits * 16384 + b.bits * 2097152
    ok := d.dest && a.source && b.source
    priv := false, regs := d.regs ++ a.regs ++ b.regs
    chans := d.chans ++ a.chans ++ b.chans }

def formVfma (d a b : LSpec) : Form :=
  { enc := 0x30000051 + d.bits * 128 + a.bits * 16384 + b.bits * 2097152
    ok := d.destRead && a.source && b.source
    priv := false, regs := d.regs ++ a.regs ++ b.regs
    chans := d.chans ++ a.chans ++ b.chans }

def formVfms (d a b : LSpec) : Form :=
  { enc := 0x40000051 + d.bits * 128 + a.bits * 16384 + b.bits * 2097152
    ok := d.destRead && a.source && b.source
    priv := false, regs := d.regs ++ a.regs ++ b.regs
    chans := d.chans ++ a.chans ++ b.chans }

def formVmaxF (d a b : LSpec) : Form :=
  { enc := 0x50000051 + d.bits * 128 + a.bits * 16384 + b.bits * 2097152
    ok := d.dest && a.source && b.source
    priv := false, regs := d.regs ++ a.regs ++ b.regs
    chans := d.chans ++ a.chans ++ b.chans }

def formVminF (d a b : LSpec) : Form :=
  { enc := 0x60000051 + d.bits * 128 + a.bits * 16384 + b.bits * 2097152
    ok := d.dest && a.source && b.source
    priv := false, regs := d.regs ++ a.regs ++ b.regs
    chans := d.chans ++ a.chans ++ b.chans }

def formVnegF (d a : LSpec) : Form :=
  { enc := 0x70000051 + d.bits * 128 + a.bits * 16384
    ok := d.dest && a.source
    priv := false, regs := d.regs ++ a.regs
    chans := d.chans ++ a.chans }

def formVabsF (d a : LSpec) : Form :=
  { enc := 0x80000051 + d.bits * 128 + a.bits * 16384
    ok := d.dest && a.source
    priv := false, regs := d.regs ++ a.regs
    chans := d.chans ++ a.chans }

def formVrcp (d a : LSpec) : Form :=
  { enc := 0x90000051 + d.bits * 128 + a.bits * 16384
    ok := d.dest && a.source
    priv := false, regs := d.regs ++ a.regs
    chans := d.chans ++ a.chans }

def formVrsq (d a : LSpec) : Form :=
  { enc := 0xa0000051 + d.bits * 128 + a.bits * 16384
    ok := d.dest && a.source
    priv := false, regs := d.regs ++ a.regs
    chans := d.chans ++ a.chans }

def formVrcps (d a b : LSpec) : Form :=
  { enc := 0xb0000051 + d.bits * 128 + a.bits * 16384 + b.bits * 2097152
    ok := d.dest && a.source && b.source
    priv := false, regs := d.regs ++ a.regs ++ b.regs
    chans := d.chans ++ a.chans ++ b.chans }

def formVrsqs (d a b : LSpec) : Form :=
  { enc := 0xc0000051 + d.bits * 128 + a.bits * 16384 + b.bits * 2097152
    ok := d.dest && a.source && b.source
    priv := false, regs := d.regs ++ a.regs ++ b.regs
    chans := d.chans ++ a.chans ++ b.chans }

def formVexp2 (d a : LSpec) : Form :=
  { enc := 0xd0000051 + d.bits * 128 + a.bits * 16384
    ok := d.dest && a.source
    priv := false, regs := d.regs ++ a.regs
    chans := d.chans ++ a.chans }

def formVlog2 (d a : LSpec) : Form :=
  { enc := 0xe0000051 + d.bits * 128 + a.bits * 16384
    ok := d.dest && a.source
    priv := false, regs := d.regs ++ a.regs
    chans := d.chans ++ a.chans }

def formVclamp (d a b : LSpec) : Form :=
  { enc := 0xf0000051 + d.bits * 128 + a.bits * 16384 + b.bits * 2097152
    ok := d.destRead && a.source && b.source
    priv := false, regs := d.regs ++ a.regs ++ b.regs
    chans := d.chans ++ a.chans ++ b.chans }

def formVaddI (d a b : LSpec) : Form :=
  { enc := 0x53 + d.bits * 128 + a.bits * 16384 + b.bits * 2097152
    ok := d.dest && a.source && b.source
    priv := false, regs := d.regs ++ a.regs ++ b.regs
    chans := d.chans ++ a.chans ++ b.chans }

def formVsubI (d a b : LSpec) : Form :=
  { enc := 0x10000053 + d.bits * 128 + a.bits * 16384 + b.bits * 2097152
    ok := d.dest && a.source && b.source
    priv := false, regs := d.regs ++ a.regs ++ b.regs
    chans := d.chans ++ a.chans ++ b.chans }

def formVmulI (d a b : LSpec) : Form :=
  { enc := 0x20000053 + d.bits * 128 + a.bits * 16384 + b.bits * 2097152
    ok := d.dest && a.source && b.source
    priv := false, regs := d.regs ++ a.regs ++ b.regs
    chans := d.chans ++ a.chans ++ b.chans }

def formVmulh (d a b : LSpec) : Form :=
  { enc := 0x30000053 + d.bits * 128 + a.bits * 16384 + b.bits * 2097152
    ok := d.dest && a.source && b.source
    priv := false, regs := d.regs ++ a.regs ++ b.regs
    chans := d.chans ++ a.chans ++ b.chans }

def formVmad (d a b : LSpec) : Form :=
  { enc := 0x40000053 + d.bits * 128 + a.bits * 16384 + b.bits * 2097152
    ok := d.destRead && a.source && b.source
    priv := false, regs := d.regs ++ a.regs ++ b.regs
    chans := d.chans ++ a.chans ++ b.chans }

def formVmaxI (d a b : LSpec) : Form :=
  { enc := 0x50000053 + d.bits * 128 + a.bits * 16384 + b.bits * 2097152
    ok := d.dest && a.source && b.source
    priv := false, regs := d.regs ++ a.regs ++ b.regs
    chans := d.chans ++ a.chans ++ b.chans }

def formVminI (d a b : LSpec) : Form :=
  { enc := 0x60000053 + d.bits * 128 + a.bits * 16384 + b.bits * 2097152
    ok := d.dest && a.source && b.source
    priv := false, regs := d.regs ++ a.regs ++ b.regs
    chans := d.chans ++ a.chans ++ b.chans }

def formVabsI (d a : LSpec) : Form :=
  { enc := 0x70000053 + d.bits * 128 + a.bits * 16384
    ok := d.dest && a.source
    priv := false, regs := d.regs ++ a.regs
    chans := d.chans ++ a.chans }

def formVshl (d a b : LSpec) : Form :=
  { enc := 0x80000053 + d.bits * 128 + a.bits * 16384 + b.bits * 2097152
    ok := d.dest && a.source && b.source
    priv := false, regs := d.regs ++ a.regs ++ b.regs
    chans := d.chans ++ a.chans ++ b.chans }

def formVshr (d a b : LSpec) : Form :=
  { enc := 0x90000053 + d.bits * 128 + a.bits * 16384 + b.bits * 2097152
    ok := d.dest && a.source && b.source
    priv := false, regs := d.regs ++ a.regs ++ b.regs
    chans := d.chans ++ a.chans ++ b.chans }

def formVsra (d a b : LSpec) : Form :=
  { enc := 0xa0000053 + d.bits * 128 + a.bits * 16384 + b.bits * 2097152
    ok := d.dest && a.source && b.source
    priv := false, regs := d.regs ++ a.regs ++ b.regs
    chans := d.chans ++ a.chans ++ b.chans }

def formVadds (d a b : LSpec) : Form :=
  { enc := 0xb0000053 + d.bits * 128 + a.bits * 16384 + b.bits * 2097152
    ok := d.dest && a.source && b.source
    priv := false, regs := d.regs ++ a.regs ++ b.regs
    chans := d.chans ++ a.chans ++ b.chans }

def formVsubs (d a b : LSpec) : Form :=
  { enc := 0xc0000053 + d.bits * 128 + a.bits * 16384 + b.bits * 2097152
    ok := d.dest && a.source && b.source
    priv := false, regs := d.regs ++ a.regs ++ b.regs
    chans := d.chans ++ a.chans ++ b.chans }

def formVmaxu (d a b : LSpec) : Form :=
  { enc := 0xd0000053 + d.bits * 128 + a.bits * 16384 + b.bits * 2097152
    ok := d.dest && a.source && b.source
    priv := false, regs := d.regs ++ a.regs ++ b.regs
    chans := d.chans ++ a.chans ++ b.chans }

def formVminu (d a b : LSpec) : Form :=
  { enc := 0xe0000053 + d.bits * 128 + a.bits * 16384 + b.bits * 2097152
    ok := d.dest && a.source && b.source
    priv := false, regs := d.regs ++ a.regs ++ b.regs
    chans := d.chans ++ a.chans ++ b.chans }

def formVnegI (d a : LSpec) : Form :=
  { enc := 0xf0000053 + d.bits * 128 + a.bits * 16384
    ok := d.dest && a.source
    priv := false, regs := d.regs ++ a.regs
    chans := d.chans ++ a.chans }

def formVand (d a b : LSpec) : Form :=
  { enc := 0x55 + d.bits * 128 + a.bits * 16384 + b.bits * 2097152
    ok := d.dest && a.source && b.source
    priv := false, regs := d.regs ++ a.regs ++ b.regs
    chans := d.chans ++ a.chans ++ b.chans }

def formVor (d a b : LSpec) : Form :=
  { enc := 0x10000055 + d.bits * 128 + a.bits * 16384 + b.bits * 2097152
    ok := d.dest && a.source && b.source
    priv := false, regs := d.regs ++ a.regs ++ b.regs
    chans := d.chans ++ a.chans ++ b.chans }

def formVxor (d a b : LSpec) : Form :=
  { enc := 0x20000055 + d.bits * 128 + a.bits * 16384 + b.bits * 2097152
    ok := d.dest && a.source && b.source
    priv := false, regs := d.regs ++ a.regs ++ b.regs
    chans := d.chans ++ a.chans ++ b.chans }

def formVandn (d a b : LSpec) : Form :=
  { enc := 0x30000055 + d.bits * 128 + a.bits * 16384 + b.bits * 2097152
    ok := d.dest && a.source && b.source
    priv := false, regs := d.regs ++ a.regs ++ b.regs
    chans := d.chans ++ a.chans ++ b.chans }

def formVnot (d a : LSpec) : Form :=
  { enc := 0x40000055 + d.bits * 128 + a.bits * 16384
    ok := d.dest && a.source
    priv := false, regs := d.regs ++ a.regs
    chans := d.chans ++ a.chans }

def formVmov (d a : LSpec) : Form :=
  { enc := 0x50000055 + d.bits * 128 + a.bits * 16384
    ok := d.dest && a.source
    priv := false, regs := d.regs ++ a.regs
    chans := d.chans ++ a.chans }

def formVsel (d a b : LSpec) : Form :=
  { enc := 0x60000055 + d.bits * 128 + a.bits * 16384 + b.bits * 2097152
    ok := d.dest && a.source && b.source
    priv := false, regs := d.regs ++ a.regs ++ b.regs
    chans := d.chans ++ a.chans ++ b.chans }

def formVpopc (d a : LSpec) : Form :=
  { enc := 0x70000055 + d.bits * 128 + a.bits * 16384
    ok := d.dest && a.source
    priv := false, regs := d.regs ++ a.regs
    chans := d.chans ++ a.chans }

def formVclz (d a : LSpec) : Form :=
  { enc := 0x80000055 + d.bits * 128 + a.bits * 16384
    ok := d.dest && a.source
    priv := false, regs := d.regs ++ a.regs
    chans := d.chans ++ a.chans }

def formVceqF (d a b : LSpec) : Form :=
  { enc := 0x57 + d.bits * 128 + a.bits * 16384 + b.bits * 2097152
    ok := d.dest && a.source && b.source
    priv := false, regs := d.regs ++ a.regs ++ b.regs
    chans := d.chans ++ a.chans ++ b.chans }

def formVcneF (d a b : LSpec) : Form :=
  { enc := 0x10000057 + d.bits * 128 + a.bits * 16384 + b.bits * 2097152
    ok := d.dest && a.source && b.source
    priv := false, regs := d.regs ++ a.regs ++ b.regs
    chans := d.chans ++ a.chans ++ b.chans }

def formVcltF (d a b : LSpec) : Form :=
  { enc := 0x20000057 + d.bits * 128 + a.bits * 16384 + b.bits * 2097152
    ok := d.dest && a.source && b.source
    priv := false, regs := d.regs ++ a.regs ++ b.regs
    chans := d.chans ++ a.chans ++ b.chans }

def formVcleF (d a b : LSpec) : Form :=
  { enc := 0x30000057 + d.bits * 128 + a.bits * 16384 + b.bits * 2097152
    ok := d.dest && a.source && b.source
    priv := false, regs := d.regs ++ a.regs ++ b.regs
    chans := d.chans ++ a.chans ++ b.chans }

def formVcunF (d a b : LSpec) : Form :=
  { enc := 0x40000057 + d.bits * 128 + a.bits * 16384 + b.bits * 2097152
    ok := d.dest && a.source && b.source
    priv := false, regs := d.regs ++ a.regs ++ b.regs
    chans := d.chans ++ a.chans ++ b.chans }

def formVceqI (d a b : LSpec) : Form :=
  { enc := 0x80000057 + d.bits * 128 + a.bits * 16384 + b.bits * 2097152
    ok := d.dest && a.source && b.source
    priv := false, regs := d.regs ++ a.regs ++ b.regs
    chans := d.chans ++ a.chans ++ b.chans }

def formVcneI (d a b : LSpec) : Form :=
  { enc := 0x90000057 + d.bits * 128 + a.bits * 16384 + b.bits * 2097152
    ok := d.dest && a.source && b.source
    priv := false, regs := d.regs ++ a.regs ++ b.regs
    chans := d.chans ++ a.chans ++ b.chans }

def formVcltI (d a b : LSpec) : Form :=
  { enc := 0xa0000057 + d.bits * 128 + a.bits * 16384 + b.bits * 2097152
    ok := d.dest && a.source && b.source
    priv := false, regs := d.regs ++ a.regs ++ b.regs
    chans := d.chans ++ a.chans ++ b.chans }

def formVcleI (d a b : LSpec) : Form :=
  { enc := 0xb0000057 + d.bits * 128 + a.bits * 16384 + b.bits * 2097152
    ok := d.dest && a.source && b.source
    priv := false, regs := d.regs ++ a.regs ++ b.regs
    chans := d.chans ++ a.chans ++ b.chans }

def formVcltu (d a b : LSpec) : Form :=
  { enc := 0xc0000057 + d.bits * 128 + a.bits * 16384 + b.bits * 2097152
    ok := d.dest && a.source && b.source
    priv := false, regs := d.regs ++ a.regs ++ b.regs
    chans := d.chans ++ a.chans ++ b.chans }

def formVcleu (d a b : LSpec) : Form :=
  { enc := 0xd0000057 + d.bits * 128 + a.bits * 16384 + b.bits * 2097152
    ok := d.dest && a.source && b.source
    priv := false, regs := d.regs ++ a.regs ++ b.regs
    chans := d.chans ++ a.chans ++ b.chans }

def formMand (d a b : LSpec) : Form :=
  { enc := 0x59 + d.bits * 128 + a.bits * 16384 + b.bits * 2097152
    ok := d.maskDest && a.maskSource && b.maskSource
    priv := false, regs := d.regs ++ a.regs ++ b.regs
    chans := d.chans ++ a.chans ++ b.chans }

def formMor (d a b : LSpec) : Form :=
  { enc := 0x10000059 + d.bits * 128 + a.bits * 16384 + b.bits * 2097152
    ok := d.maskDest && a.maskSource && b.maskSource
    priv := false, regs := d.regs ++ a.regs ++ b.regs
    chans := d.chans ++ a.chans ++ b.chans }

def formMxor (d a b : LSpec) : Form :=
  { enc := 0x20000059 + d.bits * 128 + a.bits * 16384 + b.bits * 2097152
    ok := d.maskDest && a.maskSource && b.maskSource
    priv := false, regs := d.regs ++ a.regs ++ b.regs
    chans := d.chans ++ a.chans ++ b.chans }

def formMnot (d a : LSpec) : Form :=
  { enc := 0x30000059 + d.bits * 128 + a.bits * 16384
    ok := d.maskDest && a.maskSource
    priv := false, regs := d.regs ++ a.regs
    chans := d.chans ++ a.chans }

def formMandn (d a b : LSpec) : Form :=
  { enc := 0x40000059 + d.bits * 128 + a.bits * 16384 + b.bits * 2097152
    ok := d.maskDest && a.maskSource && b.maskSource
    priv := false, regs := d.regs ++ a.regs ++ b.regs
    chans := d.chans ++ a.chans ++ b.chans }

def formMsel (a : LSpec) : Form :=
  { enc := 0x50000059 + a.bits * 16384
    ok := a.mask
    priv := false, regs := a.regs
    chans := a.chans }

def formMpopc (d : RSpec) (a : LSpec) : Form :=
  { enc := 0x60000059 + d.bits * 128 + a.bits * 16384
    ok := d.writable && a.maskSource
    priv := false, regs := d.regs ++ a.regs
    chans := d.chans ++ a.chans }

def formMfirst (d : RSpec) (a : LSpec) : Form :=
  { enc := 0x70000059 + d.bits * 128 + a.bits * 16384
    ok := d.writable && a.maskSource
    priv := false, regs := d.regs ++ a.regs
    chans := d.chans ++ a.chans }

def formVcvtF32F16 (d a : LSpec) (p : BitVec 7) : Form :=
  { enc := 0x5b + d.bits * 128 + a.bits * 16384 + p.toNat * 2097152
    ok := d.dest && a.source && decide (p.toNat ≤ 1)
    priv := false, regs := d.regs ++ a.regs
    chans := d.chans ++ a.chans }

def formVcvtF16F32 (d a : LSpec) (p : BitVec 7) : Form :=
  { enc := 0x1000005b + d.bits * 128 + a.bits * 16384 + p.toNat * 2097152
    ok := d.destRead && a.source && decide (p.toNat ≤ 1)
    priv := false, regs := d.regs ++ a.regs
    chans := d.chans ++ a.chans }

def formVcvtF32Bf16 (d a : LSpec) (p : BitVec 7) : Form :=
  { enc := 0x2000005b + d.bits * 128 + a.bits * 16384 + p.toNat * 2097152
    ok := d.dest && a.source && decide (p.toNat ≤ 1)
    priv := false, regs := d.regs ++ a.regs
    chans := d.chans ++ a.chans }

def formVcvtBf16F32 (d a : LSpec) (p : BitVec 7) : Form :=
  { enc := 0x3000005b + d.bits * 128 + a.bits * 16384 + p.toNat * 2097152
    ok := d.destRead && a.source && decide (p.toNat ≤ 1)
    priv := false, regs := d.regs ++ a.regs
    chans := d.chans ++ a.chans }

def formVcvtF32E4m3 (d a : LSpec) (p : BitVec 7) : Form :=
  { enc := 0x4000005b + d.bits * 128 + a.bits * 16384 + p.toNat * 2097152
    ok := d.dest && a.source && decide (p.toNat ≤ 3)
    priv := false, regs := d.regs ++ a.regs
    chans := d.chans ++ a.chans }

def formVcvtE4m3F32 (d a : LSpec) (p : BitVec 7) : Form :=
  { enc := 0x5000005b + d.bits * 128 + a.bits * 16384 + p.toNat * 2097152
    ok := d.destRead && a.source && decide (p.toNat ≤ 3)
    priv := false, regs := d.regs ++ a.regs
    chans := d.chans ++ a.chans }

def formVcvtF32E5m2 (d a : LSpec) (p : BitVec 7) : Form :=
  { enc := 0x6000005b + d.bits * 128 + a.bits * 16384 + p.toNat * 2097152
    ok := d.dest && a.source && decide (p.toNat ≤ 3)
    priv := false, regs := d.regs ++ a.regs
    chans := d.chans ++ a.chans }

def formVcvtE5m2F32 (d a : LSpec) (p : BitVec 7) : Form :=
  { enc := 0x7000005b + d.bits * 128 + a.bits * 16384 + p.toNat * 2097152
    ok := d.destRead && a.source && decide (p.toNat ≤ 3)
    priv := false, regs := d.regs ++ a.regs
    chans := d.chans ++ a.chans }

def formVcvtI32F32 (d a : LSpec) : Form :=
  { enc := 0x8000005b + d.bits * 128 + a.bits * 16384
    ok := d.dest && a.source
    priv := false, regs := d.regs ++ a.regs
    chans := d.chans ++ a.chans }

def formVcvtF32I32 (d a : LSpec) : Form :=
  { enc := 0x9000005b + d.bits * 128 + a.bits * 16384
    ok := d.dest && a.source
    priv := false, regs := d.regs ++ a.regs
    chans := d.chans ++ a.chans }

def formVcvtI16I32 (d a : LSpec) (p : BitVec 7) : Form :=
  { enc := 0xa000005b + d.bits * 128 + a.bits * 16384 + p.toNat * 2097152
    ok := d.destRead && a.source && decide (p.toNat ≤ 1)
    priv := false, regs := d.regs ++ a.regs
    chans := d.chans ++ a.chans }

def formVcvtI32I16 (d a : LSpec) (p : BitVec 7) : Form :=
  { enc := 0xb000005b + d.bits * 128 + a.bits * 16384 + p.toNat * 2097152
    ok := d.dest && a.source && decide (p.toNat ≤ 1)
    priv := false, regs := d.regs ++ a.regs
    chans := d.chans ++ a.chans }

def formVcvtF32Cb4 (d a : LSpec) (p : BitVec 7) : Form :=
  { enc := 0xc000005b + d.bits * 128 + a.bits * 16384 + p.toNat * 2097152
    ok := d.dest && a.source && decide (p.toNat ≤ 7)
    priv := false, regs := d.regs ++ a.regs
    chans := d.chans ++ a.chans }

def formVcvtCb4F32 (d a : LSpec) (p : BitVec 7) : Form :=
  { enc := 0xd000005b + d.bits * 128 + a.bits * 16384 + p.toNat * 2097152
    ok := d.destRead && a.source && decide (p.toNat ≤ 7)
    priv := false, regs := d.regs ++ a.regs
    chans := d.chans ++ a.chans }

def formVcvtI8I32 (d a : LSpec) (p : BitVec 7) : Form :=
  { enc := 0xe000005b + d.bits * 128 + a.bits * 16384 + p.toNat * 2097152
    ok := d.destRead && a.source && decide (p.toNat ≤ 3)
    priv := false, regs := d.regs ++ a.regs
    chans := d.chans ++ a.chans }

def formVcvtI32I8 (d a : LSpec) (p : BitVec 7) : Form :=
  { enc := 0xf000005b + d.bits * 128 + a.bits * 16384 + p.toNat * 2097152
    ok := d.dest && a.source && decide (p.toNat ≤ 3)
    priv := false, regs := d.regs ++ a.regs
    chans := d.chans ++ a.chans }

def formVbcast (d a : LSpec) (b : RSpec) : Form :=
  { enc := 0x5d + d.bits * 128 + a.bits * 16384 + b.bits * 2097152
    ok := d.dest && a.source && b.readable
    priv := false, regs := d.regs ++ a.regs ++ b.regs
    chans := d.chans ++ a.chans ++ b.chans }

def formVextr (d : RSpec) (a : LSpec) (b : RSpec) : Form :=
  { enc := 0x1000005d + d.bits * 128 + a.bits * 16384 + b.bits * 2097152
    ok := d.writable && a.source && b.readable
    priv := false, regs := d.regs ++ a.regs ++ b.regs
    chans := d.chans ++ a.chans ++ b.chans }

def formVins (d : LSpec) (a b : RSpec) : Form :=
  { enc := 0x2000005d + d.bits * 128 + a.bits * 16384 + b.bits * 2097152
    ok := d.destRead && a.readable && b.readable
    priv := false, regs := d.regs ++ a.regs ++ b.regs
    chans := d.chans ++ a.chans ++ b.chans }

def formVrot (d a : LSpec) (b : RSpec) : Form :=
  { enc := 0x3000005d + d.bits * 128 + a.bits * 16384 + b.bits * 2097152
    ok := d.dest && a.source && b.readable
    priv := false, regs := d.regs ++ a.regs ++ b.regs
    chans := d.chans ++ a.chans ++ b.chans }

def formVshuf (d a b : LSpec) : Form :=
  { enc := 0x4000005d + d.bits * 128 + a.bits * 16384 + b.bits * 2097152
    ok := d.dest && a.source && b.source
    priv := false, regs := d.regs ++ a.regs ++ b.regs
    chans := d.chans ++ a.chans ++ b.chans }

def formVscan (d a : LSpec) (k : BitVec 7) : Form :=
  { enc := 0x5000005d + d.bits * 128 + a.bits * 16384 + k.toNat * 2097152
    ok := d.dest && a.source && decide (k.toNat ≤ 1)
    priv := false, regs := d.regs ++ a.regs
    chans := d.chans ++ a.chans }

def formVredadd (d : RSpec) (a : LSpec) (k : BitVec 7) : Form :=
  { enc := 0x6000005d + d.bits * 128 + a.bits * 16384 + k.toNat * 2097152
    ok := d.writable && a.source && decide (k.toNat ≤ 1)
    priv := false, regs := d.regs ++ a.regs
    chans := d.chans ++ a.chans }

def formVredmax (d : RSpec) (a : LSpec) (k : BitVec 7) : Form :=
  { enc := 0x7000005d + d.bits * 128 + a.bits * 16384 + k.toNat * 2097152
    ok := d.writable && a.source && decide (k.toNat ≤ 2)
    priv := false, regs := d.regs ++ a.regs
    chans := d.chans ++ a.chans }

def formVredmin (d : RSpec) (a : LSpec) (k : BitVec 7) : Form :=
  { enc := 0x8000005d + d.bits * 128 + a.bits * 16384 + k.toNat * 2097152
    ok := d.writable && a.source && decide (k.toNat ≤ 2)
    priv := false, regs := d.regs ++ a.regs
    chans := d.chans ++ a.chans }

def formViota (d : LSpec) : Form :=
  { enc := 0x9000005d + d.bits * 128
    ok := d.dest
    priv := false, regs := d.regs
    chans := d.chans }

def formVzip (d a b : LSpec) : Form :=
  { enc := 0xa000005d + d.bits * 128 + a.bits * 16384 + b.bits * 2097152
    ok := d.dest && a.source && b.source
    priv := false, regs := d.regs ++ a.regs ++ b.regs
    chans := d.chans ++ a.chans ++ b.chans }

def formVunzip (d a b : LSpec) : Form :=
  { enc := 0xb000005d + d.bits * 128 + a.bits * 16384 + b.bits * 2097152
    ok := d.dest && a.source && b.source
    priv := false, regs := d.regs ++ a.regs ++ b.regs
    chans := d.chans ++ a.chans ++ b.chans }

def formVaddFCompact (d : BitVec 6) (a : LSpec) : Form :=
  { enc := 0x0 + d.toNat * 32 + a.compactBits * 2048
    ok := a.compact
    priv := false, regs := a.regs
    chans := a.chans }

def formVsubFCompact (d : BitVec 6) (a : LSpec) : Form :=
  { enc := 0x2 + d.toNat * 32 + a.compactBits * 2048
    ok := a.compact
    priv := false, regs := a.regs
    chans := a.chans }

def formVmulFCompact (d : BitVec 6) (a : LSpec) : Form :=
  { enc := 0x4 + d.toNat * 32 + a.compactBits * 2048
    ok := a.compact
    priv := false, regs := a.regs
    chans := a.chans }

def formVmaxFCompact (d : BitVec 6) (a : LSpec) : Form :=
  { enc := 0x6 + d.toNat * 32 + a.compactBits * 2048
    ok := a.compact
    priv := false, regs := a.regs
    chans := a.chans }

def formVminFCompact (d : BitVec 6) (a : LSpec) : Form :=
  { enc := 0x8 + d.toNat * 32 + a.compactBits * 2048
    ok := a.compact
    priv := false, regs := a.regs
    chans := a.chans }

def formVaddICompact (d : BitVec 6) (a : LSpec) : Form :=
  { enc := 0xa + d.toNat * 32 + a.compactBits * 2048
    ok := a.compact
    priv := false, regs := a.regs
    chans := a.chans }

def formVsubICompact (d : BitVec 6) (a : LSpec) : Form :=
  { enc := 0xc + d.toNat * 32 + a.compactBits * 2048
    ok := a.compact
    priv := false, regs := a.regs
    chans := a.chans }

def formVmaxICompact (d : BitVec 6) (a : LSpec) : Form :=
  { enc := 0xe + d.toNat * 32 + a.compactBits * 2048
    ok := a.compact
    priv := false, regs := a.regs
    chans := a.chans }

def formVminICompact (d : BitVec 6) (a : LSpec) : Form :=
  { enc := 0x10 + d.toNat * 32 + a.compactBits * 2048
    ok := a.compact
    priv := false, regs := a.regs
    chans := a.chans }

def formVandCompact (d : BitVec 6) (a : LSpec) : Form :=
  { enc := 0x12 + d.toNat * 32 + a.compactBits * 2048
    ok := a.compact
    priv := false, regs := a.regs
    chans := a.chans }

def formVorCompact (d : BitVec 6) (a : LSpec) : Form :=
  { enc := 0x14 + d.toNat * 32 + a.compactBits * 2048
    ok := a.compact
    priv := false, regs := a.regs
    chans := a.chans }

def formVxorCompact (d : BitVec 6) (a : LSpec) : Form :=
  { enc := 0x16 + d.toNat * 32 + a.compactBits * 2048
    ok := a.compact
    priv := false, regs := a.regs
    chans := a.chans }

def formVmovCompact (d : BitVec 6) (a : LSpec) : Form :=
  { enc := 0x18 + d.toNat * 32 + a.compactBits * 2048
    ok := a.compact
    priv := false, regs := a.regs
    chans := a.chans }

def formVnegFCompact (d : BitVec 6) (a : LSpec) : Form :=
  { enc := 0x1a + d.toNat * 32 + a.compactBits * 2048
    ok := a.compact
    priv := false, regs := a.regs
    chans := a.chans }

def formVabsFCompact (d : BitVec 6) (a : LSpec) : Form :=
  { enc := 0x1c + d.toNat * 32 + a.compactBits * 2048
    ok := a.compact
    priv := false, regs := a.regs
    chans := a.chans }

def formVshlICompact (d : BitVec 6) (a : LSpec) : Form :=
  { enc := 0x1e + d.toNat * 32 + a.compactBits * 2048
    ok := a.compact
    priv := false, regs := a.regs
    chans := a.chans }

def formKadd (kd ka kb : BitVec 4) : Form :=
  { enc := 0x61 + kd.toNat * 128 + ka.toNat * 2048 + kb.toNat * 32768
    ok := true
    priv := false, regs := []
    chans := [] }

def formKsub (kd ka kb : BitVec 4) : Form :=
  { enc := 0x2000061 + kd.toNat * 128 + ka.toNat * 2048 + kb.toNat * 32768
    ok := true
    priv := false, regs := []
    chans := [] }

def formKmax (kd ka kb : BitVec 4) : Form :=
  { enc := 0x4000061 + kd.toNat * 128 + ka.toNat * 2048 + kb.toNat * 32768
    ok := true
    priv := false, regs := []
    chans := [] }

def formKmin (kd ka kb : BitVec 4) : Form :=
  { enc := 0x6000061 + kd.toNat * 128 + ka.toNat * 2048 + kb.toNat * 32768
    ok := true
    priv := false, regs := []
    chans := [] }

def formKmov (kd ka : BitVec 4) : Form :=
  { enc := 0x8000061 + kd.toNat * 128 + ka.toNat * 2048
    ok := true
    priv := false, regs := []
    chans := [] }

def formKset (kd : BitVec 4) (r : RSpec) : Form :=
  { enc := 0xa000061 + kd.toNat * 128 + r.bits * 524288
    ok := r.readable
    priv := false, regs := r.regs
    chans := r.chans }

def formKfromv (kd : BitVec 4) (vr : BitVec 6) : Form :=
  { enc := 0xc000061 + kd.toNat * 128 + vr.toNat * 524288
    ok := true
    priv := false, regs := []
    chans := [] }

def formKtov (vr : BitVec 6) (ka : BitVec 4) : Form :=
  { enc := 0xe000061 + ka.toNat * 2048 + vr.toNat * 524288
    ok := true
    priv := false, regs := []
    chans := [] }

def formKbind (kd tag : BitVec 4) (r : RSpec) : Form :=
  { enc := 0x10000061 + kd.toNat * 128 + tag.toNat * 32768 + r.bits * 524288
    ok := r.readable
    priv := false, regs := r.regs
    chans := r.chans }

def formKunbind (tag : BitVec 4) : Form :=
  { enc := 0x12000061 + tag.toNat * 32768
    ok := true
    priv := false, regs := []
    chans := [] }

def formKgen (r : RSpec) (ka : BitVec 4) : Form :=
  { enc := 0x14000061 + ka.toNat * 2048 + r.bits * 524288
    ok := r.writable
    priv := false, regs := r.regs
    chans := r.chans }

def formTtset (a b : RSpec) : Form :=
  { enc := 0x63 + a.bits * 8192 + b.bits * 524288
    ok := a.readable && b.group4
    priv := false, regs := a.regs ++ b.run 4
    chans := a.chans ++ b.chans }

def formTtget (d a : RSpec) : Form :=
  { enc := 0x2000063 + d.bits * 128 + a.bits * 8192
    ok := d.group4 && a.readable
    priv := false, regs := d.run 4 ++ a.regs
    chans := d.chans ++ a.chans }

def formTtinv (a : RSpec) : Form :=
  { enc := 0x4000063 + a.bits * 8192
    ok := a.readable
    priv := false, regs := a.regs
    chans := a.chans }

def formTcb (a b : RSpec) : Form :=
  { enc := 0x6000063 + a.bits * 8192 + b.bits * 524288
    ok := a.readable && b.readable
    priv := false, regs := a.regs ++ b.regs
    chans := a.chans ++ b.chans }

def formTld (kd tag : BitVec 4) (a b : RSpec) (l : BitVec 4) : Form :=
  { enc := 0x65 + a.bits * 128 + b.bits * 8192 + l.toNat * 524288 + kd.toNat * 8388608 + tag.toNat * 134217728
    ok := a.readable && b.pair
    priv := false, regs := a.regs ++ b.run 2
    chans := a.chans ++ b.chans }

def formTst (kd : BitVec 4) (a b : RSpec) : Form :=
  { enc := 0x80000065 + a.bits * 128 + b.bits * 8192 + kd.toNat * 8388608
    ok := a.readable && b.pair
    priv := false, regs := a.regs ++ b.run 2
    chans := a.chans ++ b.chans }

def formKld (kd : BitVec 4) (r : RSpec) : Form :=
  { enc := 0x67 + kd.toNat * 128 + r.bits * 524288
    ok := r.readable
    priv := false, regs := r.regs
    chans := r.chans }

def formKst (ka : BitVec 4) (r : RSpec) : Form :=
  { enc := 0x2000067 + ka.toNat * 2048 + r.bits * 524288
    ok := r.readable
    priv := false, regs := r.regs
    chans := r.chans }

def formKsave (r : RSpec) : Form :=
  { enc := 0x4000067 + r.bits * 524288
    ok := r.readable
    priv := false, regs := r.regs
    chans := r.chans }

def formKrestore (r : RSpec) : Form :=
  { enc := 0x6000067 + r.bits * 524288
    ok := r.readable
    priv := false, regs := r.regs
    chans := r.chans }

def formPcmd (first sel : RSpec) : Form :=
  { enc := 0x69 + first.bits * 128 + sel.bits * 8192
    ok := first.group8 && sel.readable
    priv := false, regs := first.run 8 ++ sel.regs
    chans := first.chans ++ sel.chans }

def formPwait (d a : RSpec) : Form :=
  { enc := 0x6b + d.bits * 128 + a.bits * 8192
    ok := d.writable && a.readable
    priv := false, regs := d.regs ++ a.regs
    chans := d.chans ++ a.chans }

def formPfence : Form :=
  { enc := 0x200006b
    ok := true
    priv := false, regs := []
    chans := [] }

def formPstat (d : RSpec) : Form :=
  { enc := 0x400006b + d.bits * 128
    ok := d.writable
    priv := false, regs := d.regs
    chans := d.chans }

def formCopy (first sel : RSpec) : Form :=
  { enc := 0x6d + first.bits * 128 + sel.bits * 8192
    ok := first.group8 && sel.inOut
    priv := false, regs := first.run 8 ++ sel.regs
    chans := first.chans ++ sel.chans }

def formBseal (d : RSpec) : Form :=
  { enc := 0x6f + d.bits * 128
    ok := d.inOut
    priv := false, regs := d.regs
    chans := d.chans }

def formBdrain (d a : RSpec) : Form :=
  { enc := 0x200006f + d.bits * 128 + a.bits * 8192
    ok := d.inOut && a.readable
    priv := false, regs := d.regs ++ a.regs
    chans := d.chans ++ a.chans }

def formCwptr (d a : RSpec) : Form :=
  { enc := 0x400006f + d.bits * 128 + a.bits * 8192
    ok := d.inOut && a.readable
    priv := false, regs := d.regs ++ a.regs
    chans := d.chans ++ a.chans }

def formCtake (d a : RSpec) (l : BitVec 4) : Form :=
  { enc := 0x71 + d.bits * 128 + a.bits * 8192 + l.toNat * 524288
    ok := d.inOut && a.readable
    priv := false, regs := d.regs ++ a.regs
    chans := d.chans ++ a.chans }

def formCgive (d a : RSpec) (l : BitVec 4) : Form :=
  { enc := 0x800071 + d.bits * 128 + a.bits * 8192 + l.toNat * 524288
    ok := d.inOut && a.readable
    priv := false, regs := d.regs ++ a.regs
    chans := d.chans ++ a.chans }

def formCsum (d a : RSpec) (l : BitVec 4) : Form :=
  { enc := 0x1000071 + d.bits * 128 + a.bits * 8192 + l.toNat * 524288
    ok := d.inOut && a.readable
    priv := false, regs := d.regs ++ a.regs
    chans := d.chans ++ a.chans }

def formCreset (d a : RSpec) (l : BitVec 4) : Form :=
  { enc := 0x1800071 + d.bits * 128 + a.bits * 8192 + l.toNat * 524288
    ok := d.inOut && a.readable
    priv := false, regs := d.regs ++ a.regs
    chans := d.chans ++ a.chans }

def formBarv (d a : RSpec) : Form :=
  { enc := 0x73 + d.bits * 128 + a.bits * 8192
    ok := d.inOut && a.readable
    priv := false, regs := d.regs ++ a.regs
    chans := d.chans ++ a.chans }

def formBarw (a b : RSpec) : Form :=
  { enc := 0x2000073 + a.bits * 8192 + b.bits * 524288
    ok := a.readable && b.readable
    priv := false, regs := a.regs ++ b.regs
    chans := a.chans ++ b.chans }

def formBarg (d a : RSpec) : Form :=
  { enc := 0x4000073 + d.bits * 128 + a.bits * 8192
    ok := d.inOut && a.readable
    priv := false, regs := d.regs ++ a.regs
    chans := d.chans ++ a.chans }

def formBarp (d a : RSpec) : Form :=
  { enc := 0x6000073 + d.bits * 128 + a.bits * 8192
    ok := d.inOut && a.readable
    priv := false, regs := d.regs ++ a.regs
    chans := d.chans ++ a.chans }

def formMsend (d a b : RSpec) : Form :=
  { enc := 0x75 + d.bits * 128 + a.bits * 8192 + b.bits * 524288
    ok := d.isW && a.readable && b.readable
    priv := false, regs := d.regs ++ a.regs ++ b.regs
    chans := d.chans ++ a.chans ++ b.chans }

def formMpoll (d : RSpec) : Form :=
  { enc := 0x2000075 + d.bits * 128
    ok := d.writable
    priv := false, regs := d.regs
    chans := d.chans }

/-- WINRD names its channel by number and does not wait for a body that names the channel (R119; log entry 83). -/
def formWinrd (d : RSpec) (ch : BitVec 6) : Form :=
  { enc := 0x4000075 + d.bits * 128 + ch.toNat * 524288
    ok := d.writable && decide (ch.toNat < 4)
    priv := false, regs := d.regs
    chans := d.chans }

def formSrd (d : RSpec) (num : BitVec 12) : Form :=
  { enc := 0x79 + d.bits * 128 + num.toNat * 8192
    ok := d.writable && srdNumber num
    priv := decide (0x200 ≤ num.toNat), regs := d.regs
    chans := d.chans }

def formSwr (d : RSpec) (num : BitVec 12) : Form :=
  { enc := 0x2000079 + d.bits * 128 + num.toNat * 8192
    ok := d.readable && swrNumber num
    priv := decide (0x200 ≤ num.toNat), regs := d.regs
    chans := d.chans }

def formCrd (d a : RSpec) : Form :=
  { enc := 0x4000079 + d.bits * 128 + a.bits * 8192
    ok := d.writable && a.readable
    priv := false, regs := d.regs ++ a.regs
    chans := d.chans ++ a.chans }

def formDacc (d a : RSpec) : Form :=
  { enc := 0x6000079 + d.bits * 128 + a.bits * 8192
    ok := d.writable && a.readable
    priv := false, regs := d.regs ++ a.regs
    chans := d.chans ++ a.chans }

def formTrcm (a : RSpec) : Form :=
  { enc := 0x8000079 + a.bits * 8192
    ok := a.readable
    priv := true, regs := a.regs
    chans := a.chans }

def formTlbinv (a b : RSpec) : Form :=
  { enc := 0xa000079 + a.bits * 8192 + b.bits * 524288
    ok := a.readable && b.readable
    priv := true, regs := a.regs ++ b.regs
    chans := a.chans ++ b.chans }

def formErrinj (a b : RSpec) : Form :=
  { enc := 0xc000079 + a.bits * 8192 + b.bits * 524288
    ok := a.readable && b.readable
    priv := true, regs := a.regs ++ b.regs
    chans := a.chans ++ b.chans }

end Sys2Proof.Machine
end

