-- ==== Sys2Proof/Machine/Page.lean ====
section
/-! DEFINITION. Translation (R351 to R362): page table entries, the walk, the TLBs, and which
physical addresses a partition reaches (R128, R367, R368). -/

namespace Sys2Proof.Machine

/-- What an access needs of a page (Table 17.4). -/
inductive Access where
  | read
  | write
  | both
  | exec
  deriving DecidableEq, Repr

/-- How a translation fails (Table 17.3); by poison of the granule at a physical address. -/
inductive Bad where
  | page
  | prot
  | poison (pa : Nat)
  deriving DecidableEq, Repr

/-- A translated address with the leaf that maps it. -/
structure Xlat where
  pa : Nat
  leaf : BitVec 64
  deriving DecidableEq, Repr

/-- Fields of a leaf (Table 17.2). -/
def leafPol (l : BitVec 64) : Nat := bitsAt l 62 61
def leafImm (l : BitVec 64) : Bool := l.getLsbD 60
def leafQs (l : BitVec 64) : Bool := l.getLsbD 59
def leafZero (l : BitVec 64) : Bool := l.getLsbD 58
def leafFrame (l : BitVec 64) : Nat := bitsAt l 47 12 * 4096

/-- Whether a leaf lets an access through (R356). -/
def leafAllows (l : BitVec 64) (priv : Bool) (k : Access) : Bool :=
  (priv || !l.getLsbD 2) &&
    (match k with
      | .read => l.getLsbD 3
      | .write => l.getLsbD 4
      | .both => l.getLsbD 3 && l.getLsbD 4
      | .exec => l.getLsbD 5)

/-- Whether a leaf of pages of 2^`log` bytes is malformed (Table 17.3, R354, R355); `main` is the size
of main memory. -/
def leafBad (main : Nat) (l : BitVec 64) (log : Nat) : Bool :=
  let w := l.getLsbD 4
  l.getLsbD 63 || bitsAt l 57 48 != 0 || bitsAt l 11 6 != 0 ||
    leafFrame l % 2 ^ log != 0 || leafPol l == 3 || (w && !l.getLsbD 3) || (leafImm l && w) ||
    (leafQs l && (leafZero l || decide (main ≤ leafFrame l))) ||
    (leafZero l && (w || l.getLsbD 5 || leafFrame l != 0)) ||
    (leafPol l == 0 && decide (0x800000000000 ≤ leafFrame l))

/-- Whether a pointer entry has a bit other than V and PPN set. -/
def pointerBad (l : BitVec 64) : Bool := l &&& 0xFFFF000000000FFE != 0

/-- The windows of host memory that partition `p` reaches (R367). -/
def State.dmaWindow (s : State) (p pa n : Nat) : Option DmaWin :=
  let h := pa - 0x800000000000
  (s.part p).dma.find? (fun w => decide (w.base.toNat ≤ h ∧ h + n ≤ w.base.toNat + w.size.toNat))

/-- A write leaves the device: to a peer, or to the host at the bus address that the window it lies in gives it; one that
no window holds any longer is lost (R367). -/
def State.sendOut (s : State) (key : Nat) (bytes : List Byte) : State :=
  let pa := keyPA key
  if isPeerPA pa then { s with hostOut := s.hostOut ++ [.peerWrite pa bytes] }
  else match s.dmaWindow (keyPart key) pa bytes.length with
    | none => s
    | some w =>
      let bus := w.bus.toNat + (pa - 0x800000000000 - w.base.toNat)
      { s with hostOut := s.hostOut ++ [.hostWrite bus bytes] }

/-- The route of a peer window (R368). -/
def State.peerRoute (s : State) (p pa : Nat) : Option RouteEnt :=
  ((s.part p).routes.find? (fun r => r.1 == pa / 2 ^ 38 % 256)).map (·.2)

/-- Whether a port carries traffic of a partition (R372). -/
def Port.carries (q : Port) (p : Nat) : Bool :=
  decide (q.owner = some p) && (q.st == .active || q.st == .degraded)

/-- The ports of a route that carry traffic of partition `p` (R368, R372): scale-up ports by their numbers, and,
when the entry resolves to an Ethernet address, the partition's own Ethernet ports as 128 on (R373; log entry 72). -/
def State.portsOf (s : State) (p : Nat) (r : RouteEnt) : List Nat :=
  (List.range 128).filter (fun k =>
    r.ports.getLsbD k && ((s.ports[k]?).map (·.carries p)).getD false) ++
  (if (Config.ethernetAddr r.device).isNone then []
    else ((List.range 12).filter (fun k => ((s.ethPorts[k]?).map (·.carries p)).getD false)).map (128 + ·))

/-- The ports that carry traffic of partition `p` to a peer address. -/
def State.upPorts (s : State) (p pa : Nat) : List Nat :=
  match s.peerRoute p pa with
  | none => []
  | some r => s.portsOf p r

/-- Whether an offset of a peer window reaches the peer's take windows (R368). -/
def takeOffset (o : Nat) : Bool := decide (0x3FFFFFE000 ≤ o)

/-- Whether a valid route takes `n` bytes at a peer address to memory of the peer, or to its take windows (R368). -/
def State.peerOk (s : State) (p pa n : Nat) : Bool :=
  match s.peerRoute p pa with
  | none => false
  | some r =>
    let o := pa % 2 ^ 38
    r.valid && (takeOffset o || decide (o + n ≤ Config.peerBytes r.device r.part))

/-- Whether partition `p` reaches `n` bytes at a physical address (R128, R367, R368, R372). -/
def State.physOk (s : State) (p pa n : Nat) : Bool :=
  if isHostPA pa then (s.dmaWindow p pa n).isSome
  else if isPeerPA pa then s.peerOk p pa n && !(s.upPorts p pa).isEmpty
  else if isSecondTier pa then
    s.tier2Owner.any (fun (q, base, size) =>
      q == p && decide (0x100000000000 + base * 2 ^ 30 ≤ pa ∧
        pa + n ≤ 0x100000000000 + (base + size) * 2 ^ 30))
  else decide (pa + n ≤ s.mainBytes p)

/-- The levels of the walk: the lowest index bit, and whether a leaf may stand there (Table 17.1). -/
def walkLevels : List (Nat × Bool) := [(39, false), (30, true), (21, true), (12, true)]

/-- The walk from a table on, one entry per level, each read at its home as a reader of no domain
does (R353, R362). -/
def walkFrom (p va : Nat) : List (Nat × Bool) → Nat → State → Except Bad (BitVec 64 × Nat) × State
  | [], _, s => (.error .page, s)
  | (low, leafOk) :: levels, table, s =>
    let main := s.mainBytes p
    if table + 4096 > main then (.error .page, s)
    else
      let at0 := table + 8 * (va / 2 ^ low % 512)
      let (bs, s) := s.readPhys p (physKey p at0) 8
      let e : BitVec 64 := .ofNat 64 (leNat (bs.map (·.1)))
      if bs.any (·.2) then (.error (.poison (at0 / 16 * 16)), s)
      else if !e.getLsbD 0 then (.error .page, s)
      else if e.getLsbD 1 then
        if !leafOk || leafBad main e low then (.error .page, s) else (.ok (e, low), s)
      else if pointerBad e then (.error .page, s)
      else walkFrom p va levels (leafFrame e) s

/-- The last-level TLB of the die that a cluster lies on. -/
def lastLevel (cl : Nat) : Nat := 128 + dieOf cl

/-- The entry of a TLB that maps an address of a context. -/
def State.tlbHit (s : State) (unit ctx va : Nat) : Option TlbEntry :=
  s.tlb.find? (fun e => e.unit == unit && e.ctx == ctx && e.vbase == va / 2 ^ e.logSize)

/-- The leaf that maps an address, as cluster `cl` finds it: in its TLB, in its die's last level, else by a walk from
PTROOT (R359). -/
def State.leafOf (s : State) (cl : Nat) (c : Context) (va : Nat) : Except Bad (BitVec 64 × Nat) × State :=
  match s.tlbHit cl c.id va <|> s.tlbHit (lastLevel cl) c.id va with
  | some e => (.ok (e.leaf, e.logSize), s)
  | none => walkFrom c.part va walkLevels (bitsAt (c.desc.getD 0 0) 47 12 * 4096) s

/-- The entries that a TLB has for a partition: 256 of a cluster, 1,024 of a last level for each of the partition's
granules on the die (R359). -/
def State.tlbSize (s : State) (unit p : Nat) : Nat :=
  if unit < 128 then 256
  else 1024 * ((List.range 16).filter (fun g => (s.part p).owns g && g / 8 * 2 + g % 8 / 4 == unit - 128)).length

/-- Whether an entry takes one of those. -/
def State.tlbMine (s : State) (unit p : Nat) (e : TlbEntry) : Bool :=
  e.unit == unit && (decide (unit < 128) || ((s.ctx? e.ctx).map (·.part)).getD p == p)

/-- Removes the `n`-th element of those that satisfy `p`. -/
def dropNth {α : Type} (p : α → Bool) : Nat → List α → List α
  | _, [] => []
  | n, x :: l => if !p x then x :: dropNth p n l else match n with
    | 0 => l
    | n + 1 => x :: dropNth p n l

/-- The number under which the list of TLB entries keeps those that have left their TLBs: no lookup finds them, but what
they translated may still be under way (R362). -/
def oldUnit : Nat := 256

/-- The entry that leaves a full TLB is kept under `oldUnit`, once. -/
def keepOld (p : TlbEntry → Bool) (n : Nat) (l : List TlbEntry) : List TlbEntry :=
  let rest := dropNth p n l
  match ((l.filter p)[n]?).map (fun e => { e with unit := oldUnit }) with
  | none => rest
  | some e => if rest.contains e then rest else rest ++ [e]

/-- A TLB takes an entry; which entry leaves a full one is a free value (log entry 15). -/
def State.tlbPut (s : State) (p : Nat) (e : TlbEntry) : State :=
  let n := (s.tlb.filter (s.tlbMine e.unit p)).length
  if s.tlb.length < 256 || decide (n < s.tlbSize e.unit p) then { s with tlb := s.tlb ++ [e] }
  else
    let (w, s) := s.takeFree
    { s with tlb := keepOld (s.tlbMine e.unit p) (w.toNat % n) s.tlb ++ [e] }

/-- A leaf that was found enters the cluster's TLB, and after a walk the last level too (R359). -/
def State.tlbFill (s : State) (cl : Nat) (c : Context) (va : Nat) (leaf : BitVec 64) (log : Nat) : State :=
  let e : TlbEntry := { unit := cl, ctx := c.id, vbase := va / 2 ^ log, logSize := log, leaf := leaf }
  if (s.tlbHit cl c.id va).isSome then s
  else if (s.tlbHit (lastLevel cl) c.id va).isSome then s.tlbPut c.part e
  else (s.tlbPut c.part { e with unit := lastLevel cl }).tlbPut c.part e

/-- A walk met a poisoned entry that no activation takes a trap for: one record, of the walker (R353). Its severity,
the element and the syndrome are free values (log entry 8). -/
def State.walkRecord (s : State) (c : Context) (pa : Nat) : State :=
  let (sev, s) := s.takeFree
  let (elem, s) := s.takeFree
  let (synd, s) := s.takeFree
  s.recordCtx c.id
    { Rec.base cPOISON (sev.toNat % 5) 15 (elem.toNat % 2 ^ 14) c.part c.id with pa := pa, synd := synd }

/-- Whether a leaf, allowed to an access, maps `n` bytes from an address onto something the partition reaches. -/
def State.leafReaches (s : State) (c : Context) (leaf : BitVec 64) (log va n : Nat) : Bool :=
  leafZero leaf || s.physOk c.part (leafFrame leaf + va % 2 ^ log) n

/-- Translates an access of `n` bytes of a context, made in cluster `cl`. One that is let through fills the TLBs
(R359, R361). -/
def State.translate (s : State) (cl ctx : Nat) (priv : Bool) (k : Access) (va n : Nat) :
    Except Bad Xlat × State :=
  match s.ctx? ctx with
  | none => (.error .page, s)
  | some c =>
    match s.leafOf cl c va with
    | (.error b, s) => (.error b, s)
    | (.ok (leaf, log), s) =>
      let pa := leafFrame leaf + va % 2 ^ log
      if !leafAllows leaf priv k then (.error .prot, s)
      else if !s.leafReaches c leaf log va n then (.error .prot, s)
      else (.ok { pa := pa, leaf := leaf }, s.tlbFill cl c va leaf log)

/-- A translation that no activation takes a trap for: a poisoned table entry is recorded (R353, R361). -/
def State.agentXlat (s : State) (cl ctx : Nat) (priv : Bool) (k : Access) (va n : Nat) : Except Bad Xlat × State :=
  match s.translate cl ctx priv k va n with
  | (.error (.poison pa), s) => (.error (.poison pa), match s.ctx? ctx with
    | some c => s.walkRecord c pa
    | none => s)
  | r => r

/-- The cluster of the core in focus. -/
def State.myCluster (s : State) : Nat := clusterOf s.core.id

/-- The cluster whose TLBs a partition's dispatcher and a walk without an access use: its first one (log entry 15). -/
def State.firstCluster (s : State) (p : Nat) : Nat := (s.clustersOf p).headD 0

/-- A translation of the running activation, with its faults (R361). `spec` is the specifier of the
register that held the address. -/
def xlat (va n : Nat) (k : Access) (spec : Nat) : M Xlat := do
  match ← stateOf (fun s => s.translate s.myCluster s.myCtx s.core.priv k va n) with
  | .ok x => pure x
  | .error .page => fault cPAGE va
  | .error .prot => fault cPROT va
  | .error (.poison _) =>
    throw (.trap { cause := cPOISON, tval := .ofNat 64 va, spec := spec, major := none, epc := none, buf := false })

end Sys2Proof.Machine
end

