-- ==== Sys2Proof/Machine/Push.lean ====
section
/-! DEFINITION. Pushes of press commands: the queue window, the waits of a push, and the tags recorded
at it (R207 to R209, R213, R215, R438). -/

namespace Sys2Proof.Machine

/-- The narrow bit that a command starts in, of those pushed at a place in program order or after everything (`none`):
that of the last mode command pending before it, else the press's. A pending PRESTORE may set either; `none`. -/
def Core.narrowAhead (c : Core) (at0 : Option Nat) : Option Bool :=
  (c.busySlots.foldl (fun (acc : Option (Nat × Option Bool)) s =>
    let d := c.cmdWord s
    let seq := (c.press.slots.getD s .empty).seq
    let later := match acc with
      | none => true
      | some (q, _) => decide (q < seq)
    if !later || !(at0.map (fun n => decide (seq < n))).getD true then acc
    else if cmdOp d = 0x09 then some (seq, some (d.getLsbD 8))
    else if cmdOp d = 0x0D then some (seq, none)
    else acc) none).elim (some c.press.narrow) (·.2)

/-- The binding tags that a command names: TAG when TV = 1, and TAGH for a narrow LOADW (R215). -/
def cmdTags (d0 : Word) (narrow : Bool) : List Nat :=
  let op := cmdOp d0
  if d0.getLsbD 20 && (op == 0x01 || op == 0x03 || op == 0x04) then
    bitsAt d0 15 12 :: (if op == 0x01 && narrow then [bitsAt d0 19 16] else [])
  else []

/-- Whether a check run occupies the core while another activation runs on it (R438). -/
def Core.checkElsewhere (c : Core) : Bool :=
  !c.cur.act.isCheck && (c.susp.map (·.act.isCheck)).getD false

/-- Whether the running activation's actor has SELFPRESS. -/
def Core.selfpress (c : Core) : Bool :=
  match c.runActor with
  | none => false
  | some d => d.selfpress

/-- A push ends the windows of the core's LDVs whose rows the command touches, those of a suspended or trapped
activation too, and waits for those rows (R213). -/
def settleRows (d0 : Word) : M Unit := do
  let mine (sl : Slot) : Bool :=
    !sl.cancelled && (match sl.dest with
      | .row v => cmdTouches d0 v.toNat
      | .reg _ | .tld _ _ _ => false)
  let stop (t : Thread) : Thread := { t with slots := t.slots.map (fun sl => if mine sl then { sl with rem := 0 } else sl) }
  modify (fun s => State.applyAll { s with core := s.core.mapThreads stop })
  waitUntil (!(← getC).threads.any (fun t => t.slots.any mine))

/-- The waits of a push whose command's dword 0 is `d0`, and which starts in a mode: rows and tags under way (R213, R215).
Where the mode is open the command may be narrow. -/
def pushWaits (d0 : Word) (narrow : Option Bool) : M Unit := do
  settleRows d0
  for t in cmdTags d0 (narrow.getD true) do needsShared (Dest.isTag t)

/-- The narrow bit after a command, from that before it: a PMODE sets it, and a PRESTORE may set either (R229, R231). -/
def modeAfter (d0 : Word) (narrow : Option Bool) : Option Bool :=
  if cmdOp d0 = 0x09 then some (d0.getLsbD 8) else if cmdOp d0 = 0x0D then none else narrow

/-- The slot at TAIL becomes PENDING with its tags recorded (R208, R215). -/
def Core.push (c : Core) (seq : Nat) : Core :=
  let s := c.press.tail.toNat
  let d0 := c.cmdWord s
  let new : PSlot := {
    st := .pending, owner := c.cur.act.uid, seq := seq
    entry := c.cur.act.entry, mtag := c.cur.act.tag, actor := c.cur.act.id.setWidth 16
    tag := c.tags.getD (bitsAt d0 15 12) .empty
    tagh := c.tags.getD (bitsAt d0 19 16) .empty }
  { c with press := { c.press with
    slots := c.press.slots.set s new, tail := c.press.tail + 1, pend := c.press.pend + 1 } }

/-- The binding tags that the command in a slot names, in the mode it starts in (R215, R222). -/
def Core.slotTags (c : Core) (s : Nat) : List Nat :=
  cmdTags (c.cmdWord s) ((c.narrowAhead (some (c.press.slots.getD s .empty).seq)).getD true)

/-- Pushes the slot at TAIL. -/
def pushTail : M Unit := do
  let seq ← stateOf State.takeUid
  modC (fun c => c.push seq)

/-- The queue slots that `n` local bytes cover. -/
def slotsCovered (la n : Nat) : List Nat := (unitsOf 64 la n).filter (· < 16)

/-- Whether a store covers byte 63 of a slot. -/
def coversLast (la n s : Nat) : Bool := decide (la ≤ 64 * s + 63 ∧ 64 * s + 63 < la + n)

/-- Dword 0 of slot `s` as it stands once a store's bytes are written. -/
def Core.wordAfter (c : Core) (s la : Nat) (bytes : List Byte) : Word :=
  ((c.pressMem (64 * s)).setBytes la bytes).dword (64 * s)

/-- The waits of the pushes that one store makes, in ascending order of their slots: each command starts in the mode that
those before it leave (R208, R215). -/
def pushesWait : List Word → Option Bool → M Unit
  | [], _ => pure ()
  | d0 :: ds, narrow => do
    pushWaits d0 narrow
    pushesWait ds (modeAfter d0 narrow)

/-- What a store into the queue window waits for before it writes (R208, R438). -/
def windowWaits (la : Nat) (bytes : List Byte) : M Unit := do
  let c ← getC
  let n := bytes.length
  waitUntil (c.cur.rep.isNone && !c.checkElsewhere)
  waitUntil ((slotsCovered la n).all (fun s => (c.press.slots.getD s .empty).st == .free))
  let tail := c.press.tail.toNat
  if (slotsCovered la n).contains tail && coversLast la n tail then
    let pushed := (slotsCovered la n).filter (fun s => decide (tail ≤ s) && coversLast la n s)
    pushesWait (pushed.map (fun s => c.wordAfter s la bytes)) (c.narrowAhead none)
    if !c.selfpress then irrevocable
  else irrevocable

/-- Pushes the slots a store into the window completes, in ascending order (R208). -/
def pushCovered (la n : Nat) : List Nat → M Unit
  | [] => pure ()
  | s :: ss => do
    let p := (← getC).press
    if s = p.tail.toNat && coversLast la n s && decide (p.pend < 16) then pushTail
    pushCovered la n ss

end Sys2Proof.Machine
end

