-- ==== Sys2Proof/Machine/Mem.lean ====
section
/-! DEFINITION. Loads and stores as instructions make them: the address windows (R120, R121), the
store buffer and held stores (R107, R137), what a read at the home returns (R150, R155), the L1 (R124),
releases and acquires (R156, R157), watchpoints (R406) and digests (R391). -/

namespace Sys2Proof.Machine

/-! ## Where an effective address leads (R120 to R122) -/

/-- The place an effective address reaches. -/
inductive Place where
  | here (la : Nat)
  | core (id la : Nat)
  | phys (x : Xlat)
  deriving DecidableEq, Repr

/-- An effective address: the low 48 bits of the computed one (R120). -/
def effAddr (base : Word) (off : Nat) : Nat := (base.toNat + off) % 2 ^ 48

/-- Whether an effective address lies in the global window (Table 6.1). -/
def isGlobal (va : Nat) : Bool := decide (va < 0xFFFFFF000000)

/-- Finds the place of an access of `n` bytes, with the faults of R120, R121 and R361. A cluster-window
access to the issuing core's own index is taken as one through the local window (log entry 17). -/
def locate (va n : Nat) (k : Access) (spec : Nat) : M Place := do
  if isGlobal va then
    return .phys (← xlat va n k spec)
  let s ← get
  let la := va % 2 ^ 17
  let id := if 0xFFFFFFFE0000 ≤ va then s.core.id else clusterOf s.core.id * 128 + va / 2 ^ 17 % 128
  if id = s.core.id then
    faultIf (!s.core.scratch la n) cBANK va
    return .here la
  faultIf (!s.corePresent id || (s.coreOf id).quarantined) cPROT va
  faultIf (decide (la < 0x400)) cPROT va
  faultIf (!(s.coreOf id).scratch la n) cBANK va
  return .core id la

/-- Whether a watch comparator covers an access (R406). -/
def WatchCmp.covers (w : WatchCmp) (va n : Nat) (rd wr : Bool) : Bool :=
  ((rd && w.rd) || (wr && w.wr)) &&
    decide (va < w.base.toNat + 8 * 2 ^ w.m ∧ w.base.toNat < va + n)

/-- A watched access takes WATCH before it is made (R406). -/
def watched (va n : Nat) (rd wr : Bool) : M Unit := do
  let c ← getC
  faultIf (isGlobal va && !c.cur.act.isCheck && c.watch.any (fun w => w.covers va n rd wr)) cWATCH va

/-- The same by what the access needs of its page. -/
def watchedFor (va n : Nat) (k : Access) : M Unit :=
  match k with
  | .read | .exec => watched va n true false
  | .write => watched va n false true
  | .both => watched va n true true

/-- The waits of an access: for an acquire under way, and, when the base register is tainted, for
every earlier LDC (R157, R159). -/
def accessReady (tainted : Bool) : M Unit := do
  let slots := (← getC).cur.slots
  waitUntil (slots.all (fun sl => sl.here || !(sl.acq || (tainted && sl.ldc))))

/-- The use of slice lines of an access through a page: what it asks for on WB pages, none on others (R131). -/
def Xlat.use (x : Xlat) (want : LineUse) : LineUse := if leafPol x.leaf = 0 then want else .bypass

/-- The key of a physical address for the core in focus. -/
def State.keyHere (s : State) (pa : Nat) : Nat := keyOf s.myPart pa

/-! ## Own stores (R155) -/

/-- The own stores that a read must see, of those that touch a target: what has not left the store buffer, and what the
running activation holds, oldest first (R137, R155). A store that has left is seen at its home. -/
def Core.ownAt (c : Core) (t : Target) (n : Nat) : List StoreOp :=
  (((c.storeBuf.filter (fun b => !b.sent)).map (·.op)) ++ c.cur.act.ownHeld).filter (fun o => o.touches t n)

/-! ## Reads at the home (R150) -/

/-- The ripening copy that serves a reader's granule: the youngest of its domain in which the granule is the
reader's own, or was written by several cores (R150). The youngest is the one installed last, where its phase and that differ
(log entry 98). -/
def State.ripeAt (s : State) (dom : Option Dom) (core u : Nat) : Option Ripe :=
  match dom with
  | none => none
  | some d => s.ripening.reverse.find? (fun r =>
    r.line == u / 8 && decide (r.dom = d) &&
      (match r.writers.getD (u % 8) .none with
        | .none => false
        | .one w => w == core
        | .many => true))

/-- A byte of a line as a ripening copy leaves it (R149, R244). -/
def Ripe.byteOver (r : Ripe) (j : Nat) (old : Byte) : Byte :=
  if r.mask.getD j false then r.data.getD j 0
  else match r.nibs.find? (fun n => n.1 == j) with
    | some (_, hi, b) => nibOver hi old b
    | none => old

/-- A ripening copy's bytes of a granule over the committed ones. -/
def Ripe.mergeInto (r : Ripe) (u : Nat) (bs : List Byte) (p : Bool) : List Byte × Bool :=
  let j := 16 * (u % 8)
  (bs.zipIdx.map (fun (b, i) => r.byteOver (j + i) b),
    poisonWrite p (((r.mask.drop j).take 16).all id) (r.pois.getD (u % 8) false))

/-- One granule as a reader gets it at the home: 16 bytes and their poison. -/
def State.granule (s : State) (ov : List Overlay) (dom : Option Dom) (core u : Nat) : List Byte × Bool :=
  let bs := (List.range 16).map (fun j => (s.seeByte ov (16 * u + j)).1)
  let p := (s.seeByte ov (16 * u)).2
  match s.ripeAt dom core u with
  | none => (bs, p)
  | some r => r.mergeInto u bs p

/-- The granules that `n` bytes at a key lie in, as a core of a domain reads them at the home: their
first byte's key, their bytes, and poison per granule. -/
def State.homeRun (s : State) (use : LineUse) (p : Nat) (dom : Option Dom) (core key n : Nat) :
    (Nat × List Byte × List Bool) × State :=
  let (ov, s) := s.meetPhys use p key n
  let gs := (unitsOf 16 key n).map (fun u => s.granule ov dom core u)
  ((key / 16 * 16, gs.flatMap (·.1), gs.map (·.2)), s)

/-- `n` bytes at a key as a core reads them at the home, with its own earlier stores over them; the
poison of each byte is that of its granule. -/
def State.homeRead (s : State) (use : LineUse) (p : Nat) (dom : Option Dom) (core key n : Nat) (own : List StoreOp) :
    List (Byte × Bool) × State :=
  let ((start, bs, ps), s) := s.homeRun use p dom core key n
  let (bs, ps) := overAll 16 start own bs ps
  ((List.range n).map (fun j =>
    let i := key - start + j
    (bs.getD i 0, ps.getD (i / 16) false)), s)

/-- Whether a physical key is a device outside memory: a host or peer window (R367, R368). -/
def outside (key : Nat) : Bool := decide (keyPA key ≥ 0x800000000000)

/-- The record of an operation that a link has lost (R370, R396); the severity of a lost store or copy is a free
value. -/
def State.linkRecord (s : State) (p ctx port pa : Nat) (poison : Bool) : State :=
  let (w, s) := s.takeFree
  let sev := if poison then 1 else w.toNat % 16
  s.recordCtx ctx { Rec.base (if poison then cPOISON else cERR) sev 10 port p ctx with pa := pa }

/-- The context that a core serves. -/
def State.ctxOfCore (s : State) (core : Nat) : Nat :=
  let c := s.coreOf core
  ((c.kern <|> c.checkKern).map (·.ctx)).getD 0xFFFF

/-- `n` bytes that the host or a peer holds: a free value (log entry 18). -/
def State.freeBytes (s : State) (n : Nat) : List (Byte × Bool) × State :=
  let (bs, s) := (List.range ((n + 7) / 8)).foldl (fun (acc, s) _ =>
    let (w, s) := s.takeFree
    (acc ++ dwordBytes w, s)) (([] : List Byte), s)
  ((bs.take n).map (fun b => (b, false)), s)

/-- A read of the host or a peer for a context. A peer that no port reaches any longer answers all ones, poisoned
(R370). -/
def State.outsideFor (s : State) (p ctx key n : Nat) : List (Byte × Bool) × State :=
  if isPeerPA (keyPA key) && (s.upPorts p (keyPA key)).isEmpty then
    (List.replicate n (0xFF, true), s.linkRecord p ctx 0 (keyPA key) true)
  else s.freeBytes n

/-- The same by a core. -/
def State.outsideRead (s : State) (core key n : Nat) : List (Byte × Bool) × State :=
  s.outsideFor ((s.partOf core).getD 0) (s.ctxOfCore core) key n

/-- Traffic of partition `p` over a scale-up port: the bytes that a carried access sends, with what frames it, are a
free value (R346, R370; log entry 8). -/
def State.linkTraffic (s : State) (p : Nat) : State :=
  let (a, s) := s.takeFree
  s.modPart p (fun q => { q with bytesOut := q.bytesOut + a.toNat })

/-- What partition `p` sends to a peer address counts when a scale-up port carries it: the lowest port in service of its
route (R346, R373; log entry 33). -/
def State.linkSend (s : State) (p pa : Nat) : State :=
  match s.upPorts p pa with
  | [] => s
  | k :: _ => if k < 128 then s.linkTraffic p else s

/-! ## The L1 (R124) -/

/-- The L1's ways: the banks in cache-way mode. -/
def Core.ways (c : Core) : List Nat := (List.range 16).filter (fun b => c.bankMode b == 1)

/-- The line of a key in the L1. -/
def Core.l1Hit (c : Core) (key : Nat) : Option L1Line := c.l1.find? (fun l => l.line == key / 128)

/-- Bytes of an L1 line with their dwords' poison, the running activation's held stores over them. -/
def Core.l1Read (c : Core) (l : L1Line) (key n : Nat) : List (Byte × Bool) :=
  let (bs, ps) := overAll 8 (l.line * 128) (c.ownAt (.phys (l.line * 128)) 128) l.bytes l.pois
  (List.range n).map (fun j =>
    let i := key - l.line * 128 + j
    (bs.getD i 0, ps.getD (i / 8) false))

/-- Puts a line into the L1: over itself where it stands already, which is no new allocation (Table 6.5), else in the
first free way of its set, else in place of the line of the set filled longest ago (log entry 22). -/
def Core.l1Fill (c : Core) (line : Nat) (bytes : List Byte) (pois : List Bool) : Core :=
  let set := c.l1.filter (fun x => x.line % 64 == line % 64)
  let put (bank : Nat) : Core :=
    { c with l1 := c.l1.filter (fun x => !(x.line % 64 == line % 64 && x.bank == bank)) ++
        [{ bank := bank, line := line, bytes := bytes, pois := pois }] }
  match set.find? (fun x => x.line == line) with
  | some _ => { c with l1 := c.l1.map (fun x => if x.line = line then { x with bytes := bytes, pois := pois } else x) }
  | none => match c.ways.find? (fun b => !set.any (fun x => x.bank == b)) with
    | some b => put b
    | none => match set with
      | x :: _ => put x.bank
      | [] => c

/-- Every line of the L1 is dropped (R143). -/
def Core.dropL1 (c : Core) : Core := { c with l1 := [] }

/-- An acquire drops every line of the L1, and orders what comes before and after it (R155, R157). -/
def acquire : M Unit := modify (fun s => { s with core := s.core.dropL1 }.fenced)

/-! ## Releases (R156) -/

/-- Whether an atomic of the activation is under way within a release's reach. -/
def Req.holdsRelease (r : Req) (act : Nat) (system : Bool) : Bool :=
  r.act == act && (match r.kind with
    | .atomic (.phys key) _ _ _ _ _ _ => system || !(decide (keyPart key = 16) || outside key)
    | .atomic (.loc _ _) _ _ _ _ _ _ => true
    | .load _ _ _ _ _ | .row _ _ | .pref _ _ | .tile _ _ _ _ _ => false)

/-- A release at a scope: drains the write-combining buffer, and waits for the activation's stores
and atomics within reach. What a revocable activation still holds is released in its place among
the held outputs (R156; log entry 16). -/
def release (system : Bool) : M Unit := do
  if !(← getC).wcFits then throw .drain
  modC Core.drainWc
  modify State.fenced
  let s ← get
  let a := s.core.cur.act
  if a.held.any (fun h => match h with
      | .store _ => true
      | .msg _ | .reply _ _ _ | .token _ _ | .release _ => false) then
    modA (fun a => { a with held := a.held ++ [.release system] })
  if !(s.core.released a.uid system && s.reqs.all (fun r => !r.holdsRelease a.uid system)) then throw .drain

/-! ## Digests (R391) -/

/-- Whether the activation's outputs are digested: it is sampled, or a check run. -/
def Act.digested (a : Act) : Bool := a.sampled || a.isCheck

/-- An output that carries poison withdraws the sample (R388). -/
def poisonedOutput (p : Bool) : M Unit := do
  let a := (← getC).cur.act
  if p && a.digested then
    if a.isCheck then fault cPOISON 0
    else uncheck

/-- The digest steps of a store of up to 8 bytes, or one per dword of a longer one (Table 19.5). -/
def digestStore (va : Nat) (bytes : List Byte) : M Unit := do
  if (← getC).cur.act.digested then
    if bytes.length ≤ 8 then digest (.ofNat 64 (leNat bytes)) (.ofNat 64 va)
    else
      for (d, j) in (chunks 8 ((bytes.length + 7) / 8) bytes).zipIdx do
        digest (.ofNat 64 (leNat d)) (.ofNat 64 ((va + 8 * j) % 2 ^ 48))

/-! ## Requests -/

/-- A carrier whose value comes from elsewhere: takes its slot and sends its request (R45). -/
def request (d : Dest) (l : Nat) (use : LineUse) (kind : ReqKind) (f : Slot → Slot) : M Flow := do
  match d with
  | .reg (.out o) =>
    chanCheck o (32 + o.num)
    irrevocable
  | .reg (.w _) | .reg (.inp _) | .reg .z | .reg .inq | .row _ | .tld _ _ _ => pure ()
  let sl ← newSlot d l none
  modify (fun s => { s with reqs := s.reqs ++
    [{ uid := sl.uid, core := s.core.id, act := s.core.cur.act.uid, kind := kind, served := false, slice := none
       use := use, after := s.core.cur.act.fence }] })
  pure (.next (some (f sl)))

/-! ## Stores -/

/-- The class of a store to a physical address (Table 7.1): phased for an activation of a domain, to
main memory through a WB page that is not queue-slot. -/
def State.storeClass (s : State) (x : Xlat) : WClass :=
  match { s.core with kern := s.core.workKern : Core }.dom with
  | none => .direct
  | some d =>
    if leafPol x.leaf == 0 && !leafQs x.leaf && decide (x.pa < 0x100000000000) then
      .phased d s.core.phaseNo
    else .direct

/-- The store instructions whose stores an activation holds; one TST may make several stores. -/
def Act.heldStores (a : Act) : Nat :=
  ((a.held.filterMap (fun h => match h with
    | .store o => some o.seq
    | .msg _ | .reply _ _ _ | .token _ _ | .release _ => none)).foldl NatSet.ins []).length

/-- Whether an activation holds a store of the store instruction numbered `seq`. -/
def Act.holdsSeq (a : Act) (seq : Nat) : Bool :=
  a.held.any (fun h => match h with
    | .store o => o.seq == seq
    | .msg _ | .reply _ _ _ | .token _ _ | .release _ => false)

/-- A store to global memory or to another core: held while the activation is revocable, up to 32 store
instructions (R107), else into the store buffer of 16 (R137) or the write-combining buffer (R131). An instruction
that makes several stores needs room for its first. -/
def bufferStore (o : StoreOp) : M Unit := do
  let a := (← getC).cur.act
  if a.revocable && !a.isCheck && 32 ≤ a.heldStores && !a.holdsSeq o.seq then irrevocable
  drainHeld
  if (← getC).cur.act.keeps then
    modA (fun a => { a with held := a.held ++ [.store o] })
  else
    let c ← getC
    waitUntil (c.storeFits o)
    modC (fun c => c.sendStore o)

/-- A store of the running activation, of the store instruction numbered `seq`. -/
def newStore (seq : Nat) (tgt : Target) (use : LineUse) (bytes : List Byte) (pois : List Bool) (full : Bool)
    (cls : WClass) (combines : Bool) : M StoreOp := do
  let c ← getC
  pure { tgt := tgt, bytes := bytes, pois := pois, full := full, cls := cls, writer := c.id,
         act := c.cur.act.uid, seq := seq, use := use, combines := combines, after := c.cur.act.fence }

/-- A store through the local window (R40, R41, R106, R137, R208). A check run's store outside what it
owns is discarded (R390). -/
def storeHere (la : Nat) (bytes : List Byte) (pois : List Bool) (full : Bool) : M Unit := do
  let n := bytes.length
  let c ← getC
  if c.cur.act.isCheck && 0x400 ≤ la && !c.cur.act.ownsLocal la n then return ()
  if la < 0x400 then windowWaits la bytes
  else if !c.cur.act.ownsLocal la n then irrevocable
  inOrder
  for i in c.regsAt la n do
    if n < 8 then needs (Dest.isReg (.w i))
    cancels (Dest.isReg (.w i))
  modC (fun c => c.putLocal la bytes pois)
  if full then
    if (← getC).privateAt la then modC (fun c => c.putImageFull la true)
    else modify (fun s => s.fill (.loc s.core.id la))
  pushCovered la n (slotsCovered la n)

/-- A store of bytes, with poison per byte, to a place; `want` is its use of the slice on a WB page. A check
run stores nothing into other cores (R390). -/
def storePart (seq : Nat) (pl : Place) (want : LineUse) (va : Nat) (bytes : List Byte) (pois : List Bool) (full : Bool) :
    M Unit := do
  match pl with
  | .here la => storeHere la bytes pois full
  | .core id la =>
    if (← getC).cur.act.isCheck then return ()
    irrevocable
    bufferStore (← newStore seq (.loc id la) .bypass bytes pois full .direct false)
  | .phys x =>
    poisonedOutput (pois.any id)
    digestStore va bytes
    let s ← get
    bufferStore (← newStore seq (.phys (s.keyHere x.pa)) (x.use want) bytes pois full (s.storeClass x)
      (leafPol x.leaf == 1))

/-- The store of an instruction that makes one. -/
def storeTo (pl : Place) (want : LineUse) (va : Nat) (bytes : List Byte) (pois : List Bool) (full : Bool) : M Unit := do
  storePart (← stateOf State.takeUid) pl want va bytes pois full

/-! ## Loads -/

/-- A read that a checkable activation may not make (R108, R358): any but of a page marked immutable. Loads
from a peer's take window are irrevocable acts as well (R369). -/
def globalRead (x : Xlat) : M Unit := do
  if isPeerPA x.pa && takeOffset (x.pa % 2 ^ 38) then irrevocable
  if !leafImm x.leaf then uncheck

/-- Whether the L1 may serve or keep an access: a WB page, and neither LDC nor a tainted base (R124,
R131, R159). -/
def l1Allowed (x : Xlat) (home : Bool) : Bool := leafPol x.leaf == 0 && !home

/-- Where a read of a physical address is answered. -/
inductive Source where
  | now (bs : List (Byte × Bool))
  | home (t : Target) (fill : Bool)
  deriving DecidableEq, Repr

/-- A read of `n` bytes at a translated address. `home`: the L1 must not serve it. Hints 0 and 3
allocate in the L1 (Table 6.5). -/
def sourceOf (x : Xlat) (n hint : Nat) (home : Bool) : M Source := do
  globalRead x
  let s ← get
  let c := s.core
  let key := s.keyHere x.pa
  if leafZero x.leaf then pure (.now (List.replicate n (0, false)))
  else
    let hit := if l1Allowed x home then c.l1Hit key else none
    match hit with
    | some l =>
      if key % 128 + n ≤ 128 then pure (.now (c.l1Read l key n))
      else match c.l1Hit (key + 128) with
        | some l2 => pure (.now (c.l1Read l key 128 ++ c.l1Read l2 (key + 128) (n - 128)))
        | none => pure (.home (.phys key) (l1Allowed x home && (hint == 0 || hint == 3)))
    | none => pure (.home (.phys key) (l1Allowed x home && (hint == 0 || hint == 3)))

/-- A loaded value from its bytes (R134, R136). -/
def loaded (bs : List (Byte × Bool)) (sx taint : Bool) : Val :=
  let w : Word := .ofNat 64 (leNat (bs.map (·.1)))
  { bits := if sx then sext w (8 * bs.length) else w, taint := taint, poison := bs.any (·.2) }

/-- A read of local bytes by an instruction: registers' pending writes are waited for (R40), and a
read outside slot and granules makes the activation uncheckable (R108). -/
def readHere (la n : Nat) : M (List (Byte × Bool)) := do
  for i in (← getC).regsAt la n do needs (Dest.isReg (.w i))
  inOrder
  localRead la n
  readBytes la n

end Sys2Proof.Machine
end

