-- ==== Sys2Proof/Machine/Sched.lean ====
section
/-! DEFINITION. Which activation a core runs next: free slots, startable entries, suspension and
resumption (R98, R100, R402, R436). -/

namespace Sys2Proof.Machine

/-- The activations of a core that hold a workspace slot: all that have started and not ended. -/
def Core.holders (c : Core) : List Act :=
  (if c.active then [c.cur.act] else []) ++ (c.susp.map (·.act)).toList ++
    (if c.inHandler then [] else (c.frame.map (·.th.act)).toList) ++ c.parked.map (·.th.act) ++
    (c.hq ++ c.lq).filterMap (fun e => e.resume.map (·.act))

/-- Whether the slot an activation needs is free (R98, R100): an actor's slot when no activation of the actor
holds it, a message slot when no message activation of that priority does. One that was rolled back holds its slot, with
what it left there, until it is queued again (R385). -/
def Core.slotFree (c : Core) (a : Act) : Bool :=
  !(c.holders ++ c.rolled).any (fun b => b.actor == a.actor && (a.actor.isSome || b.hi == a.hi) && !b.isCheck)

/-- Whether a queue entry can be taken: a granted claim resumes; an initial firing waits for room at
its consumer (R436). -/
def State.canStart (s : State) (e : QEntry) : Bool :=
  e.resume.isSome ||
    (s.core.slotFree e.act &&
      (!e.act.initial || ((e.act.actor.bind s.core.actorDef).map s.consumerRoom).getD true))

/-- Whether a high-priority entry can be taken (log entry 13). -/
def State.highReady (s : State) : Bool :=
  !s.core.stopReq && !s.core.frozen && s.core.hq.any s.canStart

/-- A high-priority arrival suspends the running low-priority activation (R98). -/
def State.suspend (s : State) : State :=
  let c := s.core
  if c.active && !c.curHi && c.susp.isNone && s.highReady then
    { s with core := { c with susp := some c.cur, active := false, cur := .blank } }
  else s

/-- Whether activations of a core may run: its cohort has started, and its context is ACTIVE; in PREEMPTING none issues,
and every instruction of the model is at a boundary between two steps (Tables 13.3 and 16.2, R334). -/
def State.mayRun (s : State) (core : Nat) : Bool :=
  let c := s.coreOf core
  match c.kern <|> c.checkKern with
  | none => true
  | some k =>
    !s.contexts.any (fun x => x.id == k.ctx && x.st != .active) &&
      !s.cohorts.any (fun h => h.ctx == k.ctx && h.kid == k.kid && h.index == k.cohort && h.st == .loading)

/-- Whether the core in focus issues instructions: it runs an activation, and has not stopped (R334, R341, R402). -/
def State.mayIssue (s : State) : Bool := s.core.active && !s.core.frozen && s.mayRun s.core.id

/-- Whether a trapped low-priority activation holds the low context while its handler's claim is parked or waits to
resume (log entry 21). -/
def Core.lowTrapped (c : Core) : Bool :=
  (c.parked.filterMap (·.frame) ++ c.hq.filterMap (·.frame)).any (fun fr => !fr.hi)

/-- The queue position that starts next: high (true) or low (R98). -/
def State.nextEntry (s : State) : Option (Bool × Nat) :=
  let c := s.core
  if c.active || c.stopReq || c.frozen || c.frame.isSome || !s.mayRun c.id then none
  else match c.hq.findIdx? s.canStart with
    | some i => some (true, i)
    | none =>
      if c.susp.isSome || c.lowTrapped then none
      else (c.lq.findIdx? s.canStart).map (fun i => (false, i))

/-- Whether the suspended activation may run on (R98, R402). -/
def State.resumable (s : State) : Bool :=
  let c := s.core
  !c.active && c.frame.isNone && c.susp.isSome && !c.frozen && !s.highReady && s.mayRun c.id

/-! ## Firing (R97) -/

/-- Whether an actor of a core has an activation that is not ENDED. -/
def Core.actorBusy (c : Core) (i : Nat) : Bool :=
  ((c.actors[i]?).map (·.busy)).getD true ||
    (c.holders ++ c.rolled ++ (c.hq ++ c.lq).map (·.act)).any (fun a => a.actor == some i && !a.isCheck)

/-- Whether an actor of a core fires (R97). Tokens that a sample holds have been taken (R389). -/
def State.canFire (s : State) (core i : Nat) : Bool :=
  let c := s.coreOf core
  match c.actorDef i, c.actors[i]? with
  | some d, some a =>
    decide (d.c + a.held ≤ a.count) && !c.actorBusy i && decide (c.lq.length < 32) && s.mayRun core &&
      (match c.consumer d with
        | none => true
        | some (dst, k) => decide (d.p ≤ s.roomFor dst k))
  | _, _ => false

end Sys2Proof.Machine
end

