-- ==== Sys2Proof/Machine/Activation.lean ====
section
/-! DEFINITION. The ACT and MSG majors: END, messages, replies, workspace claims and tokens
(R110 to R119). -/

namespace Sys2Proof.Machine

/-! ## END (R111) -/

/-- A handler's END applies what the trapped activation's windows hold as well (R111, R339). -/
def endTrappedWindows : M Unit := do
  let s ← get
  match s.core.frame with
  | none => pure ()
  | some fr =>
    if s.core.inHandler then
      let th := { fr.th with slots := fr.th.slots.map (fun sl => { sl with rem := 0 }) }
      let t := State.applyAll { s with core := { s.core with frame := some { fr with th := th } } }
      if (t.core.frame.map (fun f => f.th.slots.all (·.cancelled))).getD true then set t else stall

/-- Whether the running activation is a sample whose kernel sets HOLD (R394). -/
def Core.heldSample (c : Core) : Bool := c.cur.act.sampled && (c.kern.map (·.hold)).getD false

/-- END: windows end, outputs commit, or go to the sample's check (R111, R389, R394). The write-combining buffer drains, which
waits for room in the store buffer (R131, R137). -/
def endActivation : M Flow := do
  endWindows
  endTrappedWindows
  let c ← getC
  if !c.cur.act.isCheck then
    if c.cur.act.sampled && (← get).checkQueueFull then uncheck
    if !(← getC).heldSample then commitHeld false
    waitUntil (← getC).wcFits
    modify State.endSampled
  modify (fun s => s.finishAct false)
  pure .done

def execEndAct (s : State) : Host.Outcome State Fault Refusal := run formEndAct endActivation s

/-- `END 1` drops held outputs and withdraws a sample (R111, R388). -/
def endAborted : M Flow := do
  endWindows
  endTrappedWindows
  uncheck
  if !(← getC).cur.act.isCheck then waitUntil (← getC).wcFits
  modA (fun a => { a with held := [], pushed := a.pushed - a.heldTokens })
  modify (fun s => s.finishAct true)
  pure .done

def execEndAbort (s : State) : Host.Outcome State Fault Refusal := run formEndAbort endAborted s

/-! ## Messages (R112, R118) -/

/-- Whether a message or call may go to a core: present, in the partition, not in quarantine, and
holding a group of the sender's cohort (R96, R303). -/
def State.mayMessage (s : State) (dst : Nat) : Bool :=
  s.corePresent dst && decide (s.partOf dst = s.partOf s.core.id) && !(s.coreOf dst).quarantined &&
    ((s.core.workKern.map (fun k => k.mates.contains dst)).getD false)

/-- The destination word and entry of a message, with their checks (R112). -/
def messageTo (a b : RSpec) : M (Word × Word) := do
  let dw ← readR a
  let e ← readR b
  if dw.poison then poisonFault a.bits
  if e.poison then poisonFault b.bits
  faultIf (e.bits.getLsbD 0) cALIGN e.bits.toNat
  let dst := bitsAt dw.bits 13 0
  faultIf (!(← get).mayMessage dst) cPROT dst
  pure (dw.bits, e.bits)

/-- Messages and replies that an activation holds. -/
def Act.heldMessages (a : Act) : Nat :=
  (a.held.filter (fun h => match h with
    | .msg _ | .reply _ _ _ => true
    | .store _ | .token _ _ | .release _ => false)).length

/-- The hold buffer takes 8 messages; one more makes the activation irrevocable first (R107). -/
def messageRoom : M Unit := do
  let a := (← getC).cur.act
  if a.revocable && !a.isCheck && 8 ≤ a.heldMessages then irrevocable
  drainHeld

/-- Sends or holds a message (R107, R118), with its digest steps (Table 19.5). -/
def sendMessage (m : Msg) : M Unit := do
  poisonedOutput (m.body.any (·.poison))
  if (← getC).cur.act.digested then
    let at0 : Word := .ofNat 64 (2 ^ 63 + m.dst * 256)
    digest (m.entry.setWidth 64) at0
    for (v, j) in m.body.zipIdx do digest v.bits (at0 + .ofNat 64 (j + 1))
  if (← getC).cur.act.keeps then modA (fun a => { a with held := a.held ++ [.msg m] })
  else
    waitUntil (decide ((← getC).outbox.length < 4))
    modC (fun c => { c with outbox := c.outbox ++ [m] })

/-- The message of the running activation to a destination word. -/
def newMessage (dw e : Word) (body : List Val) (replyTo : BitVec 64) : M Msg := do
  let c ← getC
  pure { src := c.id, dst := bitsAt dw 13 0, hi := dw.getLsbD 16, entry := e.setWidth 48,
         body := body.map Val.strip, tag := c.cur.act.tag, replyTo := replyTo }

/-- The reply address of a CALLAT, with its checks; none for `z` (R112). -/
def replyPlace (d : RSpec) : M (Option Nat) := do
  if d = .z then return none
  let v ← readR d
  if v.poison then poisonFault d.bits
  let ra := bitsAt v.bits 16 0
  faultIf (ra % 8 != 0) cALIGN ra
  faultIf (!(← getC).scratch ra 8) cBANK ra
  pure (some ra)

/-- The REPLYTO word that a CALLAT sends; the reply word is set empty at issue, and a rollback fills again what was
full. A check run leaves the core's own bits alone (R112, R385, R390, R438). -/
def replyWord : Option Nat → M (BitVec 64)
  | none => pure 0
  | some ra => do
    let s ← get
    let c := s.core
    if c.cur.act.isCheck then
      if c.privateAt ra then modC (fun c => c.putImageFull ra false)
    else
      modify (fun s => s.putFull (.loc s.core.id ra) false)
      if c.cur.act.revocable && s.isFull (.loc c.id ra) then modA (fun a => { a with emptied := a.emptied ++ [ra] })
    pure (.ofNat 64 (2 ^ 63 + ra * 2 ^ 14 + c.workId))

/-- CALLAT (R112). -/
def callAt (d a b : RSpec) : M Flow := do
  let (dw, e) ← messageTo a b
  let ra ← replyPlace d
  messageRoom
  let rt ← replyWord ra
  let body ← readRun (.w 4) 4 0
  sendMessage (← newMessage dw e body rt)
  pure (.next none)

def execCallat (d a b : RSpec) (s : State) : Host.Outcome State Fault Refusal :=
  run (formCallat d a b) (callAt d a b) s

/-- MSEND (R118): the body registers beyond d are tested for REGRANGE, and waited for (R90), once their number is
known. -/
def msend (d a b : RSpec) : M Flow := do
  let (dw, e) ← messageTo a b
  let n := bitsAt dw 20 17
  faultIf (decide (8 < n) || decide (32 < d.bits + n)) cPROT n
  let regs := (List.range n).map (d.bits + ·)
  regRange regs
  bodyFree regs
  messageRoom
  let body ← readRun d n 0
  sendMessage (← newMessage dw e body 0)
  pure (.next none)

def execMsend (d a b : RSpec) (s : State) : Host.Outcome State Fault Refusal :=
  run (formMsend d a b) (msend d a b) s

/-- REPLY: valid once, after a release at partition scope (R113, R162). -/
def replyValue (a : RSpec) : M Flow := do
  let act := (← getC).cur.act
  faultIf (!act.replyValid) cPROT 0
  messageRoom
  let v ← readR a
  let act := (← getC).cur.act
  if !act.revocable then release false
  poisonedOutput v.poison
  if (← getC).cur.act.digested then digest v.bits (.ofNat 64 (2 ^ 63 + 2 ^ 62))
  let addr := replyAddr act.replyTo
  let core := replyCore act.replyTo
  modA (fun t => { t with replyTo := t.replyTo &&& 0x7FFFFFFFFFFFFFFF })
  if act.revocable then
    modA (fun t => { t with held := t.held ++ [.reply (.ofNat 17 addr) core v.strip] })
  else modify (fun s => { s with parcels := s.parcels ++ [.reply core (.ofNat 17 addr) v.strip] })
  pure (.next none)

def execReply (a : RSpec) (s : State) : Host.Outcome State Fault Refusal := run (formReply a) (replyValue a) s

/-- SPAWN onto the core's own HQ or LQ; never waits (R114). -/
def spawn (d a : RSpec) (hi : Bool) : M Flow := do
  let e ← readClean a
  faultIf (e.bits.getLsbD 0) cALIGN e.bits.toNat
  irrevocable
  let body ← readRun (.w 4) 4 0
  let c ← getC
  let room := if hi then decide (c.hq.length < 16) else decide (c.lq.length < 32)
  writeR d (.clean (flag room))
  if room then
    let uid ← stateOf State.takeUid
    let act := { Act.make uid (e.bits.setWidth 48) (body.map Val.strip) hi none c.cur.act.tag 0 with
      redeliverable := true }
    let new : QEntry := { act := act, resume := none, extra := false }
    modC (fun c => if hi then { c with hq := c.hq ++ [new] } else { c with lq := c.lq ++ [new] })
  pure (.next none)

def execSpawn (d a : RSpec) (s : State) : Host.Outcome State Fault Refusal :=
  run (formSpawn d a) (spawn d a false) s

/-- SPAWN.h (R114). -/
def execSpawnH (d a : RSpec) (s : State) : Host.Outcome State Fault Refusal :=
  run (formSpawnH d a) (spawn d a true) s

/-! ## The larder (R115) -/

/-- Gives the running activation granules, and writes their list. -/
def grantNow (d : RSpec) (gs : List Nat) : M Flow := do
  modA (fun a => { a with extra := a.extra ++ gs, granted := if a.isCheck then a.granted.drop 1 else a.granted ++ [gs] })
  writeR d (.clean (.ofNat 64 (packGranules gs)))
  pure (.next none)

/-- A claim that parks: windows end, the claim waits with its thread, the context is free (R102, R103,
R115). What the next address leaves of the loop stack is kept (R87, R88); a channel that will take the list is
connected, and its write an irrevocable act (R15, R106). With a handler's claim waits its trap frame (log entry 21). -/
def parkClaim (d : RSpec) (n : Nat) : M Flow := do
  match d with
  | .out o =>
    chanCheck o (32 + o.num)
    irrevocable
  | .w _ | .inp _ | .z | .inq => pure ()
  endWindows
  modify (fun s =>
    let pc := s.core.cur.pc + 4
    let th := { s.core.cur with pc := pc, loops := stayLoops pc s.core.cur.loops }
    let new : Parked := { th := th, n := n, d := d, frame := if s.core.inHandler then s.core.frame else none }
    State.freeContext { s with core := { s.core with parked := s.core.parked ++ [new] } })
  pure .done

/-- Granules that a check run claims enter its private image; what they hold is a free value (log entry 41). -/
def State.imageTakes (s : State) (gs : List Nat) : State :=
  let s := { s with core := { s.core with imageGr := s.core.imageGr ++ gs } }
  (gs.flatMap (fun g => (List.range 8).map (fun j => 64 * g + 8 * j))).foldl (fun s la =>
    let (w, s) := s.takeFree
    { s with core := { s.core with image := s.core.image.setBytes la (dwordBytes w) } }) s

/-- WCLAIM (R115). A check run receives what its original received (R438). -/
def wclaim (d a : RSpec) : M Flow := do
  let v ← readClean a
  let n := v.bits.toNat
  if n = 0 then
    writeR d (.clean 0)
    pure (.next none)
  else
    let c ← getC
    let act := c.cur.act
    let max := (c.workKern.map (·.wsmax)).getD 0
    faultIf (decide (8 < n) || decide (max < act.slot + act.extra.length + n)) cPROT n
    if act.isCheck then
      match act.granted with
      | gs :: _ =>
        modify (fun s => s.imageTakes gs)
        grantNow d gs
      | [] => fault cERR 0
    else if c.parked.isEmpty && decide (n ≤ c.freeGr.length) then
      modC (fun c => { c with freeGr := c.freeGr.drop n })
      grantNow d (c.freeGr.take n)
    else parkClaim d n

def execWclaim (d a : RSpec) (s : State) : Host.Outcome State Fault Refusal := run (formWclaim d a) (wclaim d a) s

/-- The first field of a list that names no owned extra granule, or one already named (R115). -/
def badGranule (owned : List Nat) : List Nat → List Nat → Option Nat
  | [], _ => none
  | g :: gs, seen => if owned.contains g && !seen.contains g then badGranule owned gs (g :: seen) else some g

/-- WREL: all or none, then the parked claims are tested (R115). -/
def wrel (a : RSpec) : M Flow := do
  let v ← readClean a
  let gs := unpackGranules 8 (v.bits.toNat % 2 ^ 56)
  match badGranule (← getC).cur.act.extra gs [] with
  | some g => fault cPROT g
  | none =>
    modA (fun t => { t with extra := t.extra.filter (fun g => !gs.contains g) })
    if !(← getC).cur.act.isCheck then modify (fun s => (s.giveBack gs).testParked)
    pure (.next none)

def execWrel (a : RSpec) (s : State) : Host.Outcome State Fault Refusal := run (formWrel a) (wrel a) s

/-! ## Tokens (R116) -/

/-- Where the `k`-th token of the running activation stands: the core and the address. Those of a check run stay in the FIFO
bank of the core that ran the original (R389). -/
def State.tokenPlace (s : State) (d : ActorDef) (i k : Nat) : Option (Nat × Nat) :=
  let c := s.core
  if c.cur.act.isCheck then
    (c.cur.act.check.bind (fun u => s.checks.find? (fun x => x.uid == u))).bind (fun x => (x.tokens[k]?).map (fun la => (x.core, la)))
  else (c.actors[i]?).map (fun st => (c.id, d.slotAddr (st.head + st.held + k)))

/-- The dwords of the `k`-th token of the running activation, as a read finds them (R442). -/
def tokenDwords (d : ActorDef) (i k : Nat) : M (List PWord) := do
  match (← get).tokenPlace d i k with
  | none => pure []
  | some (core, la) =>
    modify (fun s => s.meetLocal core la 64)
    let c := (← get).coreOf core
    pure ((List.range 8).map (fun j =>
      { bits := c.lm.dword (la + 8 * j), poison := readPoison 8 c.lmPoison (la + 8 * j) 8 }))

/-- APOP (R116). An initial firing holds no token (R436). -/
def apop (d : RSpec) : M Flow := do
  let c ← getC
  let a := c.cur.act
  match a.actor, c.runActor with
  | some i, some def0 =>
    let n := if a.initial then 0 else def0.c
    faultIf (decide (n ≤ a.popped)) cPROT n
    let dws ← tokenDwords def0 i a.popped
    modA (fun t => { t with popped := t.popped + 1 })
    writeRun d (dws.map (fun v => { bits := v.bits, taint := false, poison := v.poison })) 0
    pure (.next none)
  | _, _ => fault cPROT 0

def execApop (d : RSpec) (s : State) : Host.Outcome State Fault Refusal := run (formApop d) (apop d) s

/-- APUSH: into a slot reserved at firing, after a release at partition scope (R116, R162). -/
def apush (a : RSpec) : M Flow := do
  let c ← getC
  let act := c.cur.act
  match act.actor, c.runActor with
  | some i, some def0 =>
    match c.runConsumer def0 with
    | none => fault cPROT def0.p
    | some (dst, cons) =>
      faultIf (decide (def0.p ≤ act.pushed)) cPROT def0.p
      drainHeld
      if !act.revocable then release false
      let vs ← readRun a 8 0
      let dws := vs.map Val.strip
      poisonedOutput (dws.any (·.poison))
      if act.digested then
        for (v, j) in dws.zipIdx do digest v.bits (.ofNat 64 (2 ^ 62 + dst * 256 + j))
      modA (fun t => { t with pushed := t.pushed + 1 })
      if act.revocable then modA (fun t => { t with held := t.held ++ [.token i dws] })
      else modify (fun s => { s with parcels := s.parcels ++ [.token s.core.id dst cons dws] })
      pure (.next none)
  | _, _ => fault cPROT 0

def execApush (a : RSpec) (s : State) : Host.Outcome State Fault Refusal := run (formApush a) (apush a) s

/-! ## Occupancy and windows (R119) -/

/-- MPOLL: what it reads makes the activation uncheckable (R108). -/
def mpoll (d : RSpec) : M Flow := do
  uncheck
  let c ← getC
  andNext (writeR d (.clean (.ofNat 64 (c.lq.length % 2 ^ 16 + c.hq.length % 2 ^ 16 * 2 ^ 16 +
    (c.inHi.length + c.inLo.length) % 2 ^ 16 * 2 ^ 32))))

def execMpoll (d : RSpec) (s : State) : Host.Outcome State Fault Refusal := run (formMpoll d) (mpoll d) s

/-- The direction a channel number names (R15). -/
def dirOf (n : Nat) : Dir :=
  match n with
  | 0 => .n
  | 1 => .e
  | 2 => .s
  | _ => .w

/-- WINRD: the window of a channel, 0 for one that is not connected. -/
def winrd (d : RSpec) (ch : BitVec 6) : M Flow := do
  uncheck
  let s ← get
  let w := if s.connected s.core.id (dirOf ch.toNat) then s.core.window.getD ch.toNat 0 else 0
  andNext (writeR d (.clean (.ofNat 64 w)))

def execWinrd (d : RSpec) (ch : BitVec 6) (s : State) : Host.Outcome State Fault Refusal :=
  run (formWinrd d ch) (winrd d ch) s

end Sys2Proof.Machine
end

