-- ==== Sys2Proof/Machine/Slices.lean ====
section
/-! DEFINITION. The slices and other homes as stores and requests reach them: ripening copies (R149 to
R153), direct writes (R147), reads (R150), atomics (R163 to R172), and responses (R45, R397, R398). -/

namespace Sys2Proof.Machine

/-! ## Ripening copies (R149 to R153) -/

/-- Who wrote a granule, once one more core has. -/
def Writer.add (core : Nat) : Writer → Writer
  | .none => .one core
  | .one c => if c = core then .one c else .many
  | .many => .many

/-- An empty ripening copy. -/
def Ripe.fresh (line : Nat) (d : Dom) (phase : BitVec 32) : Ripe :=
  { line := line, dom := d, phase := phase, mask := List.replicate 128 false, data := List.replicate 128 0,
    writers := List.replicate 8 .none, pois := List.replicate 8 false, zero := false }

/-- One half of a byte of a ripening copy's line is written: over the byte where the copy has it whole, with the other half
where it has that, else beside it (R244). -/
def Ripe.mergeNib (r : Ripe) (j : Nat) (hi : Bool) (b : Byte) : Ripe :=
  let whole (x : Byte) : Ripe :=
    { r with mask := r.mask.set j true, data := r.data.set j x, nibs := r.nibs.filter (fun n => n.1 != j) }
  if r.mask.getD j false then whole (nibOver hi (r.data.getD j 0) b)
  else match r.nibs.find? (fun n => n.1 == j && n.2.1 != hi) with
    | some (_, _, x) => whole (nibOver hi x b)
    | none => { r with nibs := r.nibs.filter (fun n => n.1 != j) ++ [(j, hi, b)] }

/-- Merges a store, or its part on the line, into a ripening copy (R149). The poison of a granule is that of the data
written to it (R134). -/
def Ripe.merge (r : Ripe) (o : StoreOp) : Ripe :=
  let start := r.line * 128
  let key := o.tgt.addr
  let covers (j : Nat) : Bool := decide (key ≤ start + j ∧ start + j < key + o.bytes.length)
  let touched (g : Nat) : Bool := (List.range 16).any (fun j => covers (16 * g + j))
  let r := match o.nib with
    | none => { r with
      mask := r.mask.zipIdx.map (fun (m, j) => m || covers j)
      data := overBytes start r.data key o.bytes
      nibs := r.nibs.filter (fun n => !covers n.1) }
    | some hi => if covers (key - start) then r.mergeNib (key - start) hi (o.bytes.getD 0 0) else r
  { r with
    writers := r.writers.zipIdx.map (fun (w, g) => if touched g then w.add o.writer else w)
    pois := overPois 16 start r.pois key o.pois
    zero := o.use.isZfill || (r.zero && (linePart key r.line o.bytes o.pois).1)
    keep := r.keep || decide (o.use.onHit = .keep) }

/-- Whether a ripening copy holds a line for a domain and phase. -/
def Ripe.is (r : Ripe) (line : Nat) (d : Dom) (phase : BitVec 32) : Bool :=
  r.line == line && decide (r.dom = d) && r.phase == phase

/-- The slice takes the line of a copy that commits, whose data way is free: an absent line is filled from memory
first, but for a zero line (R127, R151). -/
def State.commitLine (s : State) (r : Ripe) : State :=
  let whole (g : Nat) : Bool := ((r.mask.drop (16 * g)).take 16).all id
  let zeros := r.zero || (((r.mask.zip r.data).all (fun (m, b) => !m || b == 0)) && r.nibs.all (fun n => n.2.2 == 0) &&
    !r.pois.any id)
  let covered := ((List.range 8).filter whole).map (8 * r.line + ·)
  if !isMainKey (128 * r.line) then s
  else match s.lineOf r.line with
    | some x => s.hitLine (if r.zero then .zfill 2 else .bypass) x zeros covered
    | none =>
      let use : LineUse := if r.zero then .zfill (if r.keep then 3 else 0) else if r.keep then .keep else .normal
      s.writeLine use r.line zeros covered

/-- Commits a ripening copy that its slice no longer counts: its bytes replace those of the committed copy, which
becomes dirty (R151). -/
def State.commitRipe (s : State) (r : Ripe) : State :=
  let commit (s : State) (g : Nat) : State :=
    let mask := (r.mask.drop (16 * g)).take 16
    if !(mask.any id || r.nibs.any (fun n => n.1 / 16 == g)) then s
    else
      let u := 8 * r.line + g
      let bytes := (s.mem.bytes (16 * u) 16).zipIdx.map (fun (b, j) => r.byteOver (16 * g + j) b)
      { s with
        mem := s.mem.setBytes (16 * u) bytes
        memPoison := s.memPoison.put u (poisonWrite (s.memPoison.has u) (mask.all id) (r.pois.getD g false)) }
  (List.range 8).foldl commit (s.commitLine r)

/-- Commits the ripening copies that `p` accepts, oldest first. -/
def State.commitAll (s : State) (p : Ripe → Bool) : State :=
  (s.ripening.filter p).foldl State.commitRipe { s with ripening := s.ripening.filter (fun r => !p r) }

/-- The ripening copies in the set of a line, oldest first. -/
def State.ripeInSet (s : State) (line : Nat) : List Ripe :=
  if s.ripening.length < 8 then [] else s.ripening.filter (fun r => decide (s.setOf r.line = s.setOf line))

/-- Whether a line has, or can be given, a ripening copy for a domain and phase: at most 8 stand in a
set (R153). -/
def State.ripeRoom (s : State) (d : Dom) (phase : BitVec 32) (line : Nat) : Bool :=
  s.ripening.any (fun r => r.is line d phase) || decide ((s.ripeInSet line).length < 8)

/-- One line's part of a phased store reaches its slice (R149); a new copy takes a tag and a data way. The line that
the slice holds is used, and kept, as the store's hint asks (Table 6.5). -/
def State.installLine (s : State) (o : StoreOp) (d : Dom) (phase : BitVec 32) (line : Nat) : State :=
  let merge (r : Ripe) : Ripe := r.merge o
  let s := match s.lineOf line with
    | some x => s.putLine o.use x
    | none => s
  if s.ripening.any (fun r => r.is line d phase) then
    { s with ripening := updFirst (fun r => r.is line d phase) merge s.ripening }
  else
    let s := s.makeRoom line true true
    { s with ripening := s.ripening ++ [merge (Ripe.fresh line d phase)] }

/-- The lines a store touches. -/
def StoreOp.lines (o : StoreOp) : List Nat := unitsOf 128 o.tgt.addr o.bytes.length

/-! ## The order of a core's own accesses (R155) -/

/-- What a request reads or updates: its target and its bytes. -/
def ReqKind.span : ReqKind → Option (Target × Nat)
  | .load t size _ _ _ => some (t, size)
  | .row t _ => some (t, 256)
  | .atomic t _ size _ _ _ _ => some (t, size)
  | .pref _ _ | .tile _ _ _ _ _ => none

/-- Whether a request updates bytes. -/
def ReqKind.isAtomic : ReqKind → Bool
  | .atomic _ _ _ _ _ _ _ => true
  | .load _ _ _ _ _ | .row _ _ | .pref _ _ | .tile _ _ _ _ _ => false

/-- The bytes that order an access: its own, or, of a peer window, whole 128-byte lines (R155, R369). -/
def ordered (key n : Nat) : Nat × Nat :=
  if isPeerPA (keyPA key) then (key / 128 * 128, (key + n + 127) / 128 * 128 - key / 128 * 128) else (key, n)

/-- Whether a target and its bytes overlap another, as far as the order of accesses goes. -/
def overlap (t : Target) (n : Nat) (u : Target) (m : Nat) : Bool :=
  match t, u with
  | .loc c a, .loc d b => c == d && decide (a < b + m ∧ b < a + n)
  | .phys a, .phys b =>
    let (a, n) := ordered a n
    let (b, m) := ordered b m
    decide (a < b + m ∧ b < a + n)
  | .loc _ _, .phys _ | .phys _, .loc _ _ => false

/-- Whether a request concerns bytes at a target, as far as the order of accesses goes; of a tile all may be concerned, and
a PREF makes no access (R141). -/
def ReqKind.concerns (k : ReqKind) (t : Target) (n : Nat) : Bool :=
  match k with
  | .load u _ _ _ _ | .row u _ | .atomic u _ _ _ _ _ _ => overlap t n u ((k.span.map (·.2)).getD 0)
  | .pref _ _ => false
  | .tile _ _ _ _ _ => true

/-- Whether an unserved request of a core, earlier than `seq`, concerns bytes at a target. -/
def State.reqBefore (s : State) (core seq : Nat) (t : Target) (n : Nat) : Bool :=
  s.reqs.any (fun r => !r.served && r.core == core && decide (r.uid < seq) && r.kind.concerns t n)

/-- Where a direct write is performed: a core's memory, a slice, a controller, or outside (R147). -/
def State.homeOf (s : State) : Target → Nat × Nat
  | .loc core _ => (0, core)
  | .phys key =>
    if isMainKey key then (1, keyPart key * 2 ^ 16 + homeSlice (s.slices (keyPart key)) (keyPA key))
    else if isSecondTier (keyPA key) then (2, 0)
    else if isPeerPA (keyPA key) then (3, keyPA key / 2 ^ 38)
    else (4, 0)

/-- Whether an unsent store of a list must go before `o`: it touches the same bytes, or both are direct
writes to one home. -/
def State.mustPrecede (s : State) (o : StoreOp) (b : Buffered) : Bool :=
  !b.sent && (overlap b.op.tgt b.op.bytes.length o.tgt o.bytes.length ||
    (decide (b.op.cls = .direct) && decide (o.cls = .direct) && decide (s.homeOf b.op.tgt = s.homeOf o.tgt)))

/-- Whether entry `k` of a core's store buffer can reach its home now (R131, R155). -/
def State.canSend (s : State) (core k : Nat) : Option StoreOp :=
  let buf := (s.coreOf core).storeBuf
  match buf[k]? with
  | none => none
  | some b =>
    if b.sent || b.wc || (buf.take k).any (fun x => (b.group == 0 || x.group != b.group) && s.mustPrecede b.op x) ||
        !s.pastFence core b.op.act b.op.after || s.reqBefore core b.op.seq b.op.tgt b.op.bytes.length then none
    else some b.op

/-- Entry `k` of a store buffer has reached its home. -/
def State.markSent (s : State) (core k : Nat) : State :=
  s.modCore core (fun c => { c with storeBuf := modifyAt (fun b => { b with sent := true }) c.storeBuf k })

/-- The entries that leave with entry `k` of a store buffer as one write: those that merged with it in the
write-combining buffer (R131). -/
def Core.groupOf (c : Core) (k : Nat) : List Nat :=
  match c.storeBuf[k]? with
  | none => []
  | some b =>
    if b.group = 0 then [k]
    else (List.range c.storeBuf.length).filter (fun j => ((c.storeBuf[j]?).map (·.group)) == some b.group)

/-- A step of another agent may let a waiting instruction go on. -/
def State.wake (s : State) : State :=
  let w (c : Core) : Core := { c with stalled := false, bufStalled := false }
  { s with core := w s.core, others := s.others.map w }

/-- The answer of an event that has happened. -/
def happens (s : State) : Host.Outcome State Fault Refusal := .next s.wake

/-- The answer of an event that cannot happen now: nothing changes. -/
def nothing (s : State) : Host.Outcome State Fault Refusal := .next s

/-! ## Stores arrive (R147, R149, R153) -/

/-- A response adds to delay accumulator `n`; each part saturates (R398, Table 20.1). -/
def Core.addDelay (c : Core) (n delay : Nat) : Core :=
  let d := lookupD { sum := 0, count := 0 } c.delays n
  let new : Delay := { sum := min (d.sum + delay) (2 ^ 40 - 1), count := min (d.count + 1) (2 ^ 24 - 1) }
  { c with delays := assocPut c.delays n new }

/-- PHASED_STORE_INSTALL: entry `k` of a core's store buffer merges into ripening copies, if its sets
have room (R149, R153). -/
def execPhasedStoreInstall (core k : Nat) (s : State) : Host.Outcome State Fault Refusal :=
  match s.canSend core k with
  | none => nothing s
  | some o => match o.cls with
    | .direct => nothing s
    | .phased d phase =>
      if o.lines.all (s.ripeRoom d phase) then
        happens ((o.lines.foldl (fun s l => s.installLine o d phase l) s).markSent core k)
      else nothing s

/-- STORE_ACK: the acknowledgement of entry `k`, and of those that left with it, returns to its core (R149). One that a
slice sends counts in a delay accumulator; its delay field is a free value (R397, R398). -/
def execStoreAck (core k : Nat) (s : State) : Host.Outcome State Fault Refusal :=
  match (s.coreOf core).storeBuf[k]? with
  | none => nothing s
  | some b =>
    if !b.sent then nothing s
    else
      let left (c : Core) : List Buffered :=
        if b.group = 0 then removeAt c.storeBuf k else c.storeBuf.filter (fun x => x.group != b.group)
      let s := s.modCore core (fun c => { c with storeBuf := left c })
      match b.op.tgt with
      | .loc _ _ => happens s
      | .phys key =>
        if isMainKey key then
          let (w, s) := s.takeFree
          let n := homeSlice (s.slices (keyPart key)) (keyPA key) % 64
          happens (s.modCore core (fun c => c.addDelay n (w.toNat % 4096)))
        else happens s

/-- Whether some store waits at its slice for room in the set of a line (R153). -/
def State.waitsFor (s : State) (line : Nat) : Bool :=
  s.liveCores.any (fun core =>
    (List.range (s.coreOf core).storeBuf.length).any (fun k =>
      match s.canSend core k with
      | none => false
      | some o => match o.cls with
        | .direct => false
        | .phased d phase =>
          o.lines.any (fun l => decide (s.setOf l = s.setOf line) && !s.ripeRoom d phase l)))

/-- FORCING: ripening copy `k`, the oldest of a full set that a store waits for, is committed early, and
its domain and phase are marked forced (R153). How long the store has waited is not modelled. -/
def execForcing (k : Nat) (s : State) : Host.Outcome State Fault Refusal :=
  match s.ripening[k]? with
  | none => nothing s
  | some r =>
    if (s.ripeInSet r.line).head? = some r && s.waitsFor r.line then
      let s := State.commitRipe { s with ripening := removeAt s.ripening k } r
      happens { s with
        forcedDoms := if s.forcedDoms.contains (r.dom, r.phase) then s.forcedDoms
          else s.forcedDoms ++ [(r.dom, r.phase)] }
    else nothing s

/-- An access of partition `p` to second-tier memory counts in its counter 8 (R346). -/
def State.countTier2 (s : State) (p : Nat) (t : Target) : State :=
  match t with
  | .loc _ _ => s
  | .phys key => if keyPart key = 16 then s.modPart p (fun q => { q with tier2 := q.tier2 + 1 }) else s

/-- A direct write is performed at its home: in a core's memory, in the committed copy, or on the host
(R147, R367). A store through the cluster window to a bank that has left scratch mode is lost. -/
def State.perform (s : State) (o : StoreOp) : State :=
  match o.tgt with
  | .loc core la =>
    if !(s.coreOf core).scratch la o.bytes.length then s
    else
      let s := s.writeLocal core la o.bytes o.pois
      if o.full then s.fill o.tgt else s
  | .phys key =>
    if outside key then
      match o.nib with
      | none => s.sendOut key o.bytes
      | some _ =>
        let (old, s) := s.freeBytes o.bytes.length
        s.sendOut key (o.result (old.map (·.1)))
    else
      let s := s.writeLines o.use key o.bytes o.pois
      let s := s.putBytes key (o.result (s.mem.bytes key o.bytes.length)) o.pois
      if o.full then s.fill o.tgt else s

/-- Changes the copy that a row write belongs to, and its channel. -/
def State.modRowJob (s : State) (w : RowWrite) (f : Channel → Channel) (g : CopyJob → CopyJob) : State :=
  let one (c : Channel) : Channel :=
    let jobs := updAll (fun j => j.uid == w.job) g c.jobs
    f { c with jobs := jobs }
  { s with channels := updAll (fun c => c.cluster == w.cluster && c.ch == w.ch) one s.channels }

/-- A row write has completed: its bytes count in the copy's progress and in CWPTR (R294). -/
def State.rowDone (s : State) (w : RowWrite) : State :=
  let n : BitVec 48 := .ofNat 48 w.bytes.length
  s.modRowJob w (fun c => { c with lastDone := c.lastDone + n }) (fun j => { j with done := j.done + n })

/-- A row write has failed: its copy ends with a status and writes no further rows (R145, R288). -/
def State.rowFails (s : State) (w : RowWrite) (status : Nat) : State :=
  let s := { s with rowWrites := s.rowWrites.filter (fun x => x.job != w.job) }
  s.modRowJob w id (fun j => { j with status := some status })

/-- Whether row write `k` is the oldest of its copy: the rows of one copy complete in enumeration order
(R162; log entry 28). -/
def State.rowFirst (s : State) (k : Nat) (w : RowWrite) : Bool := !(s.rowWrites.take k).any (fun x => x.job == w.job)

/-- A copy's row write to global memory arrives (R285, R287); one to a peer that no port reaches any longer fails
(R288), with an error record (R370). -/
def State.rowLands (s : State) (k : Nat) (w : RowWrite) (key : Nat) : State :=
  if isPeerPA (keyPA key) && (s.upPorts (s.partOfCtx w.ctx) (keyPA key)).isEmpty then
    (s.rowFails w 6).linkRecord (s.partOfCtx w.ctx) w.ctx 0 (keyPA key) false
  else
  let s := { s with rowWrites := removeAt s.rowWrites k }.rowDone w
  if outside key then
    let s := if isPeerPA (keyPA key) then s.linkSend (keyPart key) (keyPA key) else s
    s.sendOut key w.bytes
  else
    (s.writeLines w.use key w.bytes w.pois).putBytes key w.bytes w.pois

/-- DIRECT_WRITE_ARRIVAL: entry `k` of a core's store buffer reaches its home, or, for agent 16,384,
row write `k` of the copy channels reaches global memory (R147). A store to a peer arrives by
PEER_ACCESS. -/
def execDirectWriteArrival (core k : Nat) (s : State) : Host.Outcome State Fault Refusal :=
  if core = 16384 then
    match s.rowWrites[k]? with
    | some w => (match w.tgt with
      | .phys key =>
        if !s.rowFirst k w then nothing s
        else happens ((s.rowLands k w key).countTier2 (((s.ctx? w.ctx).map (·.part)).getD 0) w.tgt)
      | .loc _ _ => nothing s)
    | none => nothing s
  else match s.canSend core k with
    | none => nothing s
    | some o => match o.cls, o.tgt with
      | .direct, .phys key =>
        if isPeerPA (keyPA key) then nothing s
        else
          let ks := (s.coreOf core).groupOf k
          let os := ks.filterMap (s.canSend core)
          if os.length < ks.length then nothing s
          else happens (ks.foldl (fun s j => s.markSent core j)
            ((os.foldl State.perform s).countTier2 ((s.partOf core).getD 0) o.tgt))
      | .direct, .loc _ _ => happens ((s.perform o).markSent core k)
      | .phased _ _, _ => nothing s

/-! ## Reads (R150, R155, R431) -/

/-- Puts lines read at the home into a core's L1, with what its store buffer has still to send over them; a dword
takes the poison of its granule (R124, R431). -/
def State.fillLines (s : State) (core start : Nat) (bs : List Byte) (ps : List Bool) : State :=
  let c := s.coreOf core
  let own := ((c.storeBuf.filter (fun b => !b.sent)).map (·.op)).filter (fun o => o.touches (.phys start) bs.length)
  let (bs, ps) := overAll 16 start own bs ps
  let fill (c : Core) (k : Nat) : Core :=
    c.l1Fill (start / 128 + k) ((bs.drop (128 * k)).take 128) (((ps.drop (8 * k)).take 8).flatMap (fun p => [p, p]))
  s.putCore ((List.range (bs.length / 128)).foldl fill c)

/-- What the home of a target answers a core now: `n` bytes with their poison, `own` stores over them;
`fill`: the lines enter the core's L1; `use`: its use of slice lines. A window load that found its bank in scratch mode at
issue reads the bank's bytes even if it has left that mode since, which R122 leaves open (log entry 97). -/
def State.readFor (s : State) (use : LineUse) (core : Nat) (t : Target) (n : Nat) (fill : Bool) (own : List StoreOp) :
    List (Byte × Bool) × State :=
  match t with
  | .loc id la =>
    let s := s.meetLocal id la n
    let c := s.coreOf id
    let start := la / 8 * 8
    let us := unitsOf 8 la n
    let (bs, ps) := overAll 8 start own (c.lm.bytes start (8 * us.length)) (us.map c.lmPoison.has)
    ((List.range n).map (fun j => (bs.getD (la - start + j) 0, ps.getD ((la - start + j) / 8) false)), s)
  | .phys key =>
    if outside key then s.outsideRead core key n
    else
      let p := (s.partOf core).getD 0
      let dom := (s.coreOf core).dom
      if !fill then s.homeRead use p dom core key n own
      else
        let ls := unitsOf 128 key n
        let ((start, bs, ps), s) := s.homeRun use p dom core (key / 128 * 128) (128 * ls.length)
        let (vs, vp) := overAll 16 start own bs ps
        let out := (List.range n).map (fun j =>
          let i := key - start + j
          (vs.getD i 0, vp.getD (i / 16) false))
        (out, s.fillLines core start bs ps)

/-- A read that an instruction other than a carrier makes: the value is taken at issue. -/
def readNow (pl : Place) (n hint : Nat) (home : Bool) : M (List (Byte × Bool)) := do
  match pl with
  | .here la => readHere la n
  | .core id la =>
    uncheck
    inOrder
    let own := (← getC).ownAt (.loc id la) n
    stateOf (fun s => s.readFor .bypass s.core.id (.loc id la) n false own)
  | .phys x =>
    match ← sourceOf x n hint home with
    | .now bs => pure bs
    | .home t fill =>
      inOrder
      stateOf (fun s => s.readFor (x.use (hintUse hint)) s.core.id t n fill (s.core.ownAt t n))

/-! ## Atomics (R163 to R172, R441) -/

/-- One FP32 operation on each lane of an atomic's operands (R170). -/
def onLanes (size : Nat) (f : Nat → Nat → Nat) (old v : Nat) : Nat :=
  let lo := f (old % 2 ^ 32) (v % 2 ^ 32)
  if size = 4 then lo else lo + 2 ^ 32 * f (old / 2 ^ 32) (v / 2 ^ 32)

/-- The new value at the home (Table 7.5); for ACAS, `v` is expected and `w` new. Operands are of
`size` bytes. -/
def atomNew (op : AtomOp) (size : Nat) (old v w : Nat) : Nat :=
  let n := 8 * size
  let lt (x y : Nat) : Bool := decide (toSigned x n < toSigned y n)
  match op with
  | .add => (old + v) % 2 ^ n
  | .and => Nat.land old v
  | .or => Nat.lor old v
  | .xor => Nat.xor old v
  | .min => if lt v old then v else old
  | .max => if lt old v then v else old
  | .minu => min old v
  | .maxu => max old v
  | .xchg => v
  | .fadd => onLanes size afadd32 old v
  | .fmin => onLanes size (afminmax32 true) old v
  | .fmax => onLanes size (afminmax32 false) old v
  | .ld => old
  | .st => v
  | .cas => if old = v then w else old

/-- Writes what `size` bytes at a home become; poison stays as it was (R165). Through a page that is not WB an
absent line stays absent. -/
def State.atomPut (s : State) (t : Target) (size new : Nat) (thru : Bool) : State :=
  match t with
  | .loc core la => s.modCore core (fun c => { c with lm := c.lm.setBytes la (natLE size new) })
  | .phys key =>
    let bytes := natLE size new
    let pois := List.replicate size (readPoison 16 s.memPoison key size)
    let s := s.writeLines (if thru then .through else .normal) key bytes pois
    { s with mem := s.mem.setBytes key bytes }

/-- What `size` bytes at a home are: their number and poison. A granule found uncorrectable stays damaged under an atomic
that `writes` (R165); under one that reads, a clean line is served as it is, and dropped (R430). -/
def State.atomGet (s : State) (use : LineUse) (p : Nat) (t : Target) (size : Nat) (writes : Bool) : (Nat × Bool) × State :=
  match t with
  | .loc core la =>
    let s := s.meetLocal core la size
    let c := s.coreOf core
    ((leNat (c.lm.bytes la size), readPoison 8 c.lmPoison la size), s)
  | .phys key =>
    if outside key then
      let (bs, s) := s.freeBytes size
      ((leNat (bs.map (·.1)), false), s)
    else
      let (ov, s) := s.meetPhys use p key size
      let seen := (List.range size).map (fun j => s.seeByte ov (key + j))
      let s := if writes then ov.foldl (fun s o =>
          { s with mem := s.mem.setBytes (16 * o.granule) o.bytes, memPoison := s.memPoison.ins o.granule }) s
        else s
      ((leNat (seen.map (·.1)), seen.any (·.2)), s)

/-- An atomic or ACAS at its home, indivisibly: the old value with its poison (R163, R165, R172). -/
def State.atomic (s : State) (p : Nat) (t : Target) (op : AtomOp) (size : Nat) (v w : Nat) (thru : Bool) :
    (Nat × Bool) × State :=
  let ((old, pois), s) := s.atomGet (if thru then .through else .normal) p t size (op != .ld)
  let new := atomNew op size old (v % 2 ^ (8 * size)) (w % 2 ^ (8 * size))
  let s := if op = .ld then s
    else match t with
      | .loc _ _ => s.atomPut t size new thru
      | .phys key =>
        if outside key then s.sendOut key (natLE size new) else s.atomPut t size new thru
  ((old, pois), s.countTier2 p t)

/-- Marks a request as served, from a slice by its partition number. -/
def State.markServed (s : State) (uid : Nat) (slice : Option Nat) : State :=
  { s with reqs := updFirst (fun r => r.uid == uid) (fun r => { r with served := true, slice := slice }) s.reqs }

/-- Whether an access of a core to bytes at a target must wait for one of its own earlier stores: a
direct write to the same bytes that has not reached its home (R155). -/
def State.ownDirectFirst (s : State) (core uid : Nat) (t : Target) (n : Nat) : Bool :=
  (s.coreOf core).storeBuf.any (fun b =>
    !b.sent && decide (b.op.seq < uid) && decide (b.op.cls = .direct) && overlap b.op.tgt b.op.bytes.length t n)

/-- Whether an atomic under way may execute: the core's earlier requests for the same bytes and its
earlier direct stores to them come first. -/
def State.atomReady (s : State) (r : Req) (t : Target) (n : Nat) : Bool :=
  !s.reqBefore r.core r.uid t n && !s.ownDirectFirst r.core r.uid t n && s.pastFence r.core r.act r.after

/-- Executes an atomic under way and serves its slot. -/
def State.runAtomic (s : State) (r : Req) (t : Target) (op : AtomOp) (n : Nat) (v w : Word) (taint thru : Bool) :
    State :=
  let p := (s.partOf r.core).getD 0
  let ((old, pois), s) := s.atomic p t op n v.toNat w.toNat thru
  let s := s.serve r.core r.uid (.word { bits := .ofNat 64 old, taint := taint, poison := pois })
  s.markServed r.uid (s.sliceOf t)

/-- ATOMIC_EXECUTE: the atomic `uid` executes at its home; one bound for a peer, by PEER_ACCESS. -/
def execAtomicExecute (uid : Nat) (s : State) : Host.Outcome State Fault Refusal :=
  match s.reqs.find? (fun r => r.uid == uid) with
  | none => nothing s
  | some r =>
    if r.served then nothing s
    else match r.kind with
      | .atomic t op n v w taint thru =>
        let peer := match t with
          | .loc _ _ => false
          | .phys key => isPeerPA (keyPA key)
        if peer || !s.atomReady r t n then nothing s else happens (s.runAtomic r t op n v w taint thru)
      | .load _ _ _ _ _ | .row _ _ | .pref _ _ | .tile _ _ _ _ _ => nothing s

end Sys2Proof.Machine
end

