-- ==== Sys2Proof/Machine/Copies.lean ====
section
/-! DEFINITION. The copy engine (R283 to R289) and the majors COPY and BATCH (R290 to R294). -/

namespace Sys2Proof.Machine

/-! ## Descriptors (R284) -/

/-- A copy descriptor's fields (Table 12.5). Counts of unused dimensions read as 1, their strides as 0. -/
structure CopyDesc where
  e : Nat
  dims : Nat
  mesh : Nat
  clus : Nat
  chan : Nat
  dhint : Nat
  shint : Nat
  src : Nat
  dst : Nat
  cnt : List Nat
  ss : List Int
  ds : List Int
  blk : Nat
  wx : Nat
  wy : Nat
  gx : Nat
  gy : Nat
  deriving DecidableEq, Repr

/-- The fields of eight dwords. -/
def copyDesc (d : List Word) : CopyDesc :=
  let w (j : Nat) : Word := d.getD j 0
  let d0 := w 0
  let dims := bitsAt d0 19 18
  let used {α : Type} (z : α) (l : List α) : List α := l.zipIdx.map (fun (x, k) => if k ≤ dims then x else z)
  { e := 2 ^ bitsAt d0 17 16, dims := dims, mesh := bitsAt d0 22 20
    clus := bitsAt d0 35 28, chan := bitsAt d0 39 36, dhint := bitsAt d0 27 26, shint := bitsAt d0 25 24
    src := addr48 (w 1), dst := addr48 (w 2)
    cnt := used 1 ((List.range 4).map (fun k => bitsAt (w 3) (16 * k + 15) (16 * k)))
    ss := used 0 [0, toSigned (bitsAt (w 4) 31 0) 32, toSigned (bitsAt (w 4) 63 32) 32, toSigned (bitsAt (w 5) 31 0) 32]
    ds := used 0 [0, toSigned (bitsAt (w 5) 63 32) 32, toSigned (bitsAt (w 6) 31 0) 32, toSigned (bitsAt (w 6) 63 32) 32]
    blk := bitsAt (w 7) 43 28 + 1, wy := bitsAt (w 7) 27 22 + 1, wx := bitsAt (w 7) 21 14 + 1
    gy := bitsAt (w 7) 13 8, gx := bitsAt (w 7) 7 0 }

/-- The number of elements. -/
def CopyDesc.count (c : CopyDesc) : Nat := c.cnt.foldl (· * ·) 1

/-- The indices of element number `n` in enumeration order (R285). -/
def CopyDesc.index (c : CopyDesc) (n : Nat) : List Nat :=
  (c.cnt.foldl (fun (acc, n) k => (acc ++ [if k = 0 then 0 else n % k], if k = 0 then 0 else n / k)) ([], n)).1

/-- The source address of an element. -/
def CopyDesc.source (c : CopyDesc) (n : Nat) : Nat :=
  let i := c.index n
  let x : Int := c.src + ((i.getD 0 0 * c.e : Nat) : Int) +
    (List.zipWith (fun (k : Nat) (s : Int) => (k : Int) * s) i c.ss).foldl (· + ·) 0
  (x % (2 ^ 48 : Int)).toNat

/-- The cores of a copy's rectangle. -/
def CopyDesc.cores (c : CopyDesc) : Nat := c.wx * c.wy

/-- The core that is number `q` of the rectangle. -/
def CopyDesc.coreNo (c : CopyDesc) (q : Nat) : Nat := coreAt (c.gx + q % c.wx) (c.gy + q / c.wx)

/-- Where an element goes: to a core's local memory, or to an address. -/
inductive CopyTo where
  | core (id la : Nat)
  | addr (va : Nat)
  deriving DecidableEq, Repr

/-- The destination of an element (R285). -/
def CopyDesc.dest (c : CopyDesc) (n : Nat) : CopyTo :=
  let i := c.index n
  let im := i.getD c.mesh 0
  let b := im / c.blk
  let local' := b / c.cores * c.blk + im % c.blk
  let steps := if c.mesh = 0 then i else i.set c.mesh local'
  let x : Int := c.dst + ((i.getD 0 0 * c.e : Nat) : Int) +
    (List.zipWith (fun (k : Nat) (s : Int) => (k : Int) * s) steps c.ds).foldl (· + ·) 0
  if c.mesh = 0 then .addr (x % (2 ^ 48 : Int)).toNat else .core (c.coreNo (b % c.cores)) x.toNat

/-- The positions along the mapped dimension that the core holding most of them has; else all. -/
def CopyDesc.span (c : CopyDesc) (k : Nat) : Nat :=
  let n := c.cnt.getD k 1
  if k ≠ c.mesh ∨ c.mesh = 0 ∨ n ≤ c.blk then n
  else
    let last := (n - 1) / c.blk
    last / c.cores * c.blk + (if last % c.cores = 0 then (n - 1) % c.blk + 1 else c.blk)

/-- Whether destinations ascend: each stride in use reaches past the dimensions below it (R286). -/
def CopyDesc.ascends (c : CopyDesc) : Bool :=
  ((List.range c.dims).foldl (fun (ok, ext) j =>
    let d := c.ds.getD (j + 1) 0
    (ok && decide (ext ≤ d), ext + d * ((c.span (j + 1) - 1 : Nat) : Int)))
    (true, ((c.cnt.getD 0 1 * c.e : Nat) : Int))).1

/-- Whether a reserved field, or one that must be zero, is not zero (R284, R286). -/
def copyReserved (d : List Word) (fromPkt : Bool) : Bool :=
  let w (j : Nat) : Word := d.getD j 0
  let d0 := w 0
  let c := copyDesc d
  let unused (k : Nat) : Bool := decide (c.dims < k)
  bitsAt d0 63 40 != 0 || d0.getLsbD 23 || bitsAt d0 15 9 != 0 || (!fromPkt && (c.chan != 0 || c.clus != 0)) ||
    bitsAt (w 1) 63 48 != 0 || bitsAt (w 2) 63 48 != 0 || (c.mesh != 0 && bitsAt (w 2) 47 17 != 0) ||
    (List.range 4).any (fun k => unused k && bitsAt (w 3) (16 * k + 15) (16 * k) != 0) ||
    (unused 1 && (bitsAt (w 4) 31 0 != 0 || bitsAt (w 5) 63 32 != 0)) ||
    (unused 2 && (bitsAt (w 4) 63 32 != 0 || bitsAt (w 6) 31 0 != 0)) ||
    (unused 3 && (bitsAt (w 5) 31 0 != 0 || bitsAt (w 6) 63 32 != 0)) ||
    bitsAt (w 7) 63 44 != 0 || (c.mesh == 0 && w 7 != 0)

/-- Whether an address lies in the local or cluster window. -/
def inWindow (va : Nat) : Bool := decide (0xFFFFFF000000 ≤ va)

/-- Whether the rectangle reaches a core that is not there for partition `p` (R286). -/
def State.badRectangle (s : State) (p : Nat) (c : CopyDesc) : Bool :=
  c.mesh != 0 &&
    (decide (256 < c.gx + c.wx) || decide (64 < c.gy + c.wy) ||
      (List.range c.cores).any (fun q =>
        let id := c.coreNo q
        !s.corePresent id || s.partOf id != some p || (s.coreOf id).quarantined))

/-- Whether a copy ends with status DESC (R286). -/
def State.badDesc (s : State) (p : Nat) (fromPkt : Bool) (d : List Word) : Bool :=
  let c := copyDesc d
  copyReserved d fromPkt || bitsAt (d.getD 0 0) 7 0 != 2 || c.cnt.any (· == 0) || decide (c.dims < c.mesh) ||
    c.src % c.e != 0 || c.dst % c.e != 0 || (c.ss ++ c.ds).any (fun x => x % (c.e : Int) != 0) || !c.ascends ||
    s.badRectangle p c || (fromPkt && (inWindow c.src || (c.mesh == 0 && inWindow c.dst)))

/-! ## Channels (R283) -/

/-- A channel of a cluster's copy engine that has accepted nothing. -/
def Channel.fresh (cluster ch : Nat) : Channel :=
  { cluster := cluster, ch := ch, jobs := [], nextSeq := 0, lastSeq := 0, lastDone := 0, startedAt := 0 }

/-- A channel of a cluster's copy engine. -/
def State.channelAt (s : State) (cluster ch : Nat) : Channel :=
  (s.channels.find? (fun c => c.cluster == cluster && c.ch == ch)).getD (.fresh cluster ch)

/-- Puts a channel. -/
def State.putChannel (s : State) (c : Channel) : State :=
  let same (x : Channel) : Bool := x.cluster == c.cluster && x.ch == c.ch
  { s with channels := if s.channels.any same then updFirst same (fun _ => c) s.channels else s.channels ++ [c] }

/-- The copy at the head of a channel starts: CWPTR names it, and a bad descriptor ends it at once. -/
def State.startCopy (s : State) (c : Channel) : Channel :=
  match c.jobs with
  | [] => c
  | j :: rest =>
    let bad := s.badDesc (s.partOfCtx j.ctx) j.core.isNone j.desc
    { c with
      jobs := (if bad then { j with status := some 1 } else j) :: rest
      lastSeq := j.seq, lastDone := 0, startedAt := s.uid }

/-- A channel accepts a copy (R283). -/
def State.acceptCopy (s : State) (cluster ch : Nat) (j : CopyJob) : State :=
  let c := s.channelAt cluster ch
  let c := { c with jobs := c.jobs ++ [{ j with seq := c.nextSeq }], nextSeq := c.nextSeq + 1 }
  s.putChannel (if c.jobs.length = 1 then s.startCopy c else c)

/-! ## Row writes (R285, R287) -/

/-- Whether the context of a copy runs. -/
def State.ctxActive (s : State) (id : Nat) : Bool := ((s.ctx? id).map (·.st)) == some .active

/-- The peer address that a copy under way could reach but for a port in service (R370; log entry 93). -/
def State.portGone (s : State) (cl : Nat) (j : CopyJob) (k : Access) (va n : Nat) : Option Nat :=
  match s.ctx? j.ctx with
  | none => none
  | some c => match (s.leafOf cl c va).1 with
    | .error _ => none
    | .ok (leaf, log) =>
      let pa := leafFrame leaf + va % 2 ^ log
      if decide (0 < j.issued) && leafAllows leaf j.priv k && !leafZero leaf && isPeerPA pa && s.peerOk c.part pa n &&
          (s.upPorts c.part pa).isEmpty then some pa
      else none

/-- A translation for a copy of a channel in cluster `cl` (R361): PAGE, or PROT; LINK for a copy under way whose peer has
lost its last port (R370; log entry 93). -/
def State.copyXlat (s : State) (cl : Nat) (j : CopyJob) (k : Access) (va n : Nat) : Except Nat Xlat × State :=
  match s.agentXlat cl j.ctx j.priv k va n with
  | (.ok x, t) => (.ok x, t)
  | (.error .prot, t) => (.error (if (s.portGone cl j k va n).isSome then 6 else 3), t)
  | (.error .page, t) | (.error (.poison _), t) => (.error 2, t)

/-- The core and local address that a window address of a COPY instruction reaches; PROT for a core that is
not there. -/
def State.copyWindow (s : State) (core va : Nat) : Except Nat (Nat × Nat) :=
  let la := va % 2 ^ 17
  let id := if 0xFFFFFFFE0000 ≤ va then core else clusterOf core * 128 + va / 2 ^ 17 % 128
  if id = core then .ok (id, la)
  else if !s.corePresent id || (s.coreOf id).quarantined then .error 3
  else .ok (id, la)

/-- One element of a copy's source (R287), with the source hint (R131). -/
def State.copyRead (s : State) (cl : Nat) (j : CopyJob) (hint va n : Nat) : Except Nat (List (Byte × Bool)) × State :=
  if inWindow va then
    match j.core with
    | none => (.error 2, s)
    | some core => match s.copyWindow core va with
      | .error e => (.error e, s)
      | .ok (id, la) =>
        if la < 0x400 || !(s.coreOf id).scratch la n then (.error 4, s)
        else
          let (bs, s) := s.readFor .bypass core (.loc id la) n false []
          (.ok bs, s)
  else match s.copyXlat cl j .read va n with
    | (.error e, s) => (.error e, s)
    | (.ok x, s) =>
      let p := s.partOfCtx j.ctx
      let key := keyOf p x.pa
      if leafZero x.leaf then (.ok (List.replicate n (0, false)), s)
      else if outside key then
        let (bs, s) := s.freeBytes n
        (.ok bs, if isPeerPA x.pa then s.linkSend p x.pa else s)
      else
        let use := x.use (hintUse hint)
        let (bs, s) := match j.core with
          | some core => s.homeRead use p (s.coreOf core).dom core key n []
          | none => s.homeRead use p none 16384 key n []
        (.ok bs, s.countTier2 p (.phys key))

/-- Of two parts of one row write, both; or the status that comes first in Table 12.6 (R288; log entry 28). -/
def bothParts {α β γ : Type} (f : α → β → γ) : Except Nat α → Except Nat β → Except Nat γ
  | .ok a, .ok b => .ok (f a b)
  | .error e, .ok _ | .ok _, .error e => .error e
  | .error d, .error e => .error (min d e)

/-- The sources of elements `n`, `n + 1`, … of a copy, `k` of them, and the 4 KiB pages that did not translate: the misses
of one row write on one page merge into one walk, whose result each takes (R359). -/
def State.copyGather (s : State) (cl : Nat) (j : CopyJob) (c : CopyDesc) (n : Nat) :
    Nat → (Except Nat (List (Byte × Bool)) × List Nat) × State
  | 0 => ((.ok [], []), s)
  | k + 1 =>
    let ((a, bad), s) := s.copyGather cl j c n k
    let page := c.source (n + k) / 4096
    if bad.contains page then ((bothParts (· ++ ·) a (.error 2), bad), s)
    else
      let (b, s) := s.copyRead cl j c.shint (c.source (n + k)) c.e
      let failed := match b with
        | .error 2 => true
        | .error _ | .ok _ => false
      ((bothParts (· ++ ·) a b, if failed then page :: bad else bad), s)

/-- Whether one destination follows another by `e` bytes within one aligned block of 256. -/
def CopyTo.follows (x y : CopyTo) (e : Nat) : Bool :=
  match x, y with
  | .core c a, .core d b => c == d && a + e == b && a / 256 == b / 256
  | .addr a, .addr b => a + e == b && a / 256 == b / 256
  | _, _ => false

/-- The elements of the row write that begins at element `n` (R285), at most `fuel` more. -/
def CopyDesc.run (c : CopyDesc) (n : Nat) : Nat → Nat
  | 0 => 1
  | fuel + 1 =>
    if n + 1 < c.count && (c.dest n).follows (c.dest (n + 1)) c.e then 1 + c.run (n + 1) fuel else 1

/-- The target of a row write (R287), with its use of slice lines (R131); `bad` are the pages that the row's source found
not to translate (R359). -/
def State.copyTarget (s : State) (cl : Nat) (j : CopyJob) (bad : List Nat) (hint : Nat) (t : CopyTo) (n : Nat) :
    Except Nat (Target × LineUse) × State :=
  match t with
  | .core id la => (.ok (.loc id la, .bypass), s)
  | .addr va =>
    if inWindow va then
      match j.core with
      | none => (.error 2, s)
      | some core => match s.copyWindow core va with
        | .error e => (.error e, s)
        | .ok (id, la) => (.ok (.loc id la, .bypass), s)
    else if bad.contains (va / 4096) then (.error 2, s)
    else match s.copyXlat cl j .write va n with
      | (.error e, s) => (.error e, s)
      | (.ok x, s) => (.ok (.phys (keyOf (s.partOfCtx j.ctx) x.pa), x.use (hintUse hint)), s)

/-- Whether a channel has a row write to issue. -/
def State.channelWorks (s : State) (c : Channel) : Bool :=
  match c.jobs with
  | [] => false
  | j :: _ => !(j.status.isSome || decide ((copyDesc j.desc).count ≤ j.next) || !s.ctxActive j.ctx)

/-- Whether a channel is the one that its engine serves next: those with work are served in turn, one row write each
(R283); the one served last stands last among its engine's. -/
def State.channelTurn (s : State) (cluster ch : Nat) : Bool :=
  match s.channels.find? (fun c => c.cluster == cluster && s.channelWorks c) with
  | some c => c.ch == ch
  | none => false

/-- Puts a channel behind every other. -/
def State.putChannelLast (s : State) (c : Channel) : State :=
  { s with channels := s.channels.filter (fun x => !(x.cluster == c.cluster && x.ch == c.ch)) ++ [c] }

/-- The peer address for which a row write of `k` elements found no port. -/
def State.portGoneAt (s : State) (cl : Nat) (j : CopyJob) (d : CopyDesc) (k : Nat) : Nat :=
  let reads := (List.range k).map (fun i => (Access.read, d.source (j.next + i), d.e))
  let writes := match d.dest j.next with
    | .addr va => [(Access.write, va, k * d.e)]
    | .core _ _ => []
  ((reads ++ writes).findSome? (fun (a, va, n) => if inWindow va then none else s.portGone cl j a va n)).getD 0

/-- A copy ends for an address it cannot reach: with LINK, an error record says so (R370). -/
def State.copyFails (s t : State) (c : Channel) (j : CopyJob) (rest : List CopyJob) (k e : Nat) : State :=
  let t := t.putChannelLast { c with jobs := { j with status := some e } :: rest }
  if e = 6 then
    t.linkRecord (s.partOfCtx j.ctx) j.ctx 0 (s.portGoneAt c.cluster j (copyDesc j.desc) k) false
  else t

/-- COPY_ROW_WRITE: the channel whose turn it is issues the next row write of its copy (R283, R285), or its copy ends
for an address it cannot reach (R288). -/
def execCopyRowWrite (cluster ch : Nat) (s : State) : Host.Outcome State Fault Refusal :=
  let c := s.channelAt cluster ch
  match c.jobs with
  | [] => nothing s
  | j :: rest =>
    let d := copyDesc j.desc
    if !s.channelTurn cluster ch then nothing s
    else
      let k := d.run j.next 255
      let ((src, bad), t) := s.copyGather cluster j d j.next k
      let (dst, t) := t.copyTarget cluster j bad d.dhint (d.dest j.next) (k * d.e)
      match bothParts Prod.mk src dst with
      | .error e => happens (s.copyFails t c j rest k e)
      | .ok (bs, tgt, use) =>
        let w : RowWrite := { cluster := cluster, ch := ch, job := j.uid, ctx := j.ctx, tgt := tgt,
                              bytes := bs.map (·.1), pois := bs.map (·.2), use := use }
        let t := t.putChannelLast { c with jobs := { j with next := j.next + k, issued := j.issued + 1 } :: rest }
        happens { t with rowWrites := t.rowWrites ++ [w] }

/-- COPY_ROW_ARRIVAL: row write `k` arrives at its core, where it is written, dword by dword full, or
dropped because the bank is not scratch (R145, R287). -/
def execCopyRowArrival (k : Nat) (s : State) : Host.Outcome State Fault Refusal :=
  match s.rowWrites[k]? with
  | none => nothing s
  | some w => match w.tgt with
    | .phys _ => nothing s
    | .loc core la =>
      if !s.rowFirst k w then nothing s
      else if la < 0x400 || !(s.coreOf core).scratch la w.bytes.length then happens (s.rowFails w 5)
      else
        let s := (State.rowDone { s with rowWrites := removeAt s.rowWrites k } w).writeLocal core la w.bytes w.pois
        happens ((unitsOf 8 la w.bytes.length).foldl (fun s u => s.fill (.loc core (8 * u))) s)

/-- The bank of a core that element `n` of a copy goes to. -/
def State.bankOf (s : State) (core : Nat) (j : CopyJob) (d : CopyDesc) (n : Nat) : Option Nat :=
  match d.dest n with
  | .core id la => if id = core then some (la / 0x2000) else none
  | .addr va => if !inWindow va then none else match j.core with
    | none => none
    | some c => match s.copyWindow c va with
      | .error _ => none
      | .ok (id, la) => if id = core then some (la / 0x2000) else none

/-- The banks that the elements of a copy from one on go to. -/
def State.banksFrom (s : State) (core : Nat) (j : CopyJob) (d : CopyDesc) : Nat → Nat → NatSet → NatSet
  | 0, _, l => l
  | k + 1, n, l => s.banksFrom core j d k (n + 1) (match s.bankOf core j d n with
    | some b => l.ins b
    | none => l)

/-- The banks of a core that an accepted copy has still to write to (R146). -/
def State.banksDue (s : State) (core : Nat) (j : CopyJob) : NatSet :=
  let d := copyDesc j.desc
  if j.status.isSome || s.badDesc (s.partOfCtx j.ctx) j.core.isNone j.desc then []
  else s.banksFrom core j d (d.count - j.next) j.next []

/-! ## The end of a copy (R288, R290) -/

/-- The origin of a copy learns that it has ended: the batch of its context, or its queue (R278, R290). -/
def State.copyOver (s : State) (j : CopyJob) (status : Nat) : State :=
  match j.core, j.pkt with
  | some core, _ => s.modCore core (fun c => c.putBatches j.hi ((c.batches j.hi).ended j.uid status))
  | none, some (num, index) =>
    let key := match s.queue? j.ctx num with
      | none => 0
      | some q => s.slotKey q index
    let s := s.packetDone j.ctx num index
    if status = 0 then s else (s.queueRecord j.ctx num 5 key status).queueError j.ctx num 5
  | none, none => s

/-- COPY_END: the copy at the head of a channel ends, and the next starts. -/
def execCopyEnd (cluster ch : Nat) (s : State) : Host.Outcome State Fault Refusal :=
  let c := s.channelAt cluster ch
  match c.jobs with
  | [] => nothing s
  | j :: rest =>
    let all := decide ((copyDesc j.desc).count ≤ j.next)
    if s.rowWrites.any (fun w => w.job == j.uid) || !(all || j.status.isSome) then nothing s
    else
      let c := { c with jobs := rest }
      happens ((s.putChannel (s.startCopy c)).copyOver j (j.status.getD 0))

/-! ## COPY (R292) -/

/-- Whether SRC or DST of a COPY instruction takes PROT at issue (R287). -/
def State.copyProt (s : State) (va : Nat) : Bool :=
  inWindow va && decide (va < 0xFFFFFFFE0000) &&
    (match s.copyWindow s.core.id va with
      | .error _ => true
      | .ok (id, la) => id != s.core.id && decide (la < 0x400))

/-- Waits until every earlier store of the activation is acknowledged; the write-combining buffer drains with its first
room (R137). -/
def storesAcked : M Unit := do
  modC Core.tryDrain
  let c ← getC
  if c.storeBuf.any (fun b => b.op.act == c.cur.act.uid) then throw .drain

/-- COPY. -/
def copyInstr (first sel : RSpec) : M Flow := do
  let v ← readClean sel
  let d ← (List.range 8).mapM (fun j => readClean (nextReg first j))
  let dws := d.map (·.bits)
  let s ← get
  let cd := copyDesc dws
  if cd.mesh = 0 then
    faultIf (s.copyProt cd.src) cPROT cd.src
    faultIf (s.copyProt cd.dst) cPROT cd.dst
  irrevocable
  storesAcked
  let s ← get
  let cluster := clusterOf s.core.id
  let ch := bitsAt v.bits 3 0
  let b := s.core.batches s.core.curHi
  waitUntil (decide ((s.channelAt cluster ch).jobs.length < 32) && decide (b.sealedList.length ≤ 64))
  let q := (s.channelAt cluster ch).nextSeq
  let uid ← stateOf State.takeUid
  let j : CopyJob := {
    uid := uid, desc := dws, core := some s.core.id, hi := s.core.curHi, ctx := s.myCtx, pkt := none, seq := 0
    next := 0, issued := 0, done := 0, status := none, priv := s.core.priv }
  modify (fun s => s.acceptCopy cluster ch j)
  modC (fun c => c.putBatches c.curHi
    (let b := c.batches c.curHi; { b with openLeft := b.openLeft ++ [uid], openUsed := true }))
  andNext (writeR sel (.clean (.ofNat 64 (q.toNat * 2 ^ 48 + ch))))

def execCopy (first sel : RSpec) (s : State) : Host.Outcome State Fault Refusal :=
  run (formCopy first sel) (copyInstr first sel) s

/-! ## BATCH (R293, R294) -/

/-- BSEAL. A batch state is no read that R108 allows. -/
def bseal (d : RSpec) : M Flow := do
  uncheck
  let c ← getC
  waitUntil (decide ((c.batches c.curHi).sealedList.length < 64))
  modC (fun c => c.sealBatch c.curHi)
  andNext (writeR d (.clean (c.batchNo.setWidth 64)))

def execBseal (d : RSpec) (s : State) : Host.Outcome State Fault Refusal := run (formBseal d) (bseal d) s

/-- BDRAIN. -/
def bdrain (d a : RSpec) : M Flow := do
  let v ← readClean a
  uncheck
  let c ← getC
  let b := c.batches c.curHi
  waitUntil (decide (b.sealedList.length ≤ v.bits.toNat))
  let r := if b.errCount = 0 then 0
    else b.errCount + b.errStatus % 16 * 2 ^ 16 + b.errBatch.toNat * 2 ^ 20
  modC (fun c => c.putBatches c.curHi { b with errCount := 0, errStatus := 0, errBatch := 0 })
  andNext (writeR d (.clean (.ofNat 64 r)))

def execBdrain (d a : RSpec) (s : State) : Host.Outcome State Fault Refusal := run (formBdrain d a) (bdrain d a) s

/-- CWPTR. -/
def cwptr (d a : RSpec) : M Flow := do
  let v ← readClean a
  uncheck
  let s ← get
  let c := s.channelAt (clusterOf s.core.id) (bitsAt v.bits 3 0)
  let since := (s.core.kern.map (·.loadedAt)).getD 0
  let r := if since < c.startedAt then c.lastSeq.toNat * 2 ^ 48 + c.lastDone.toNat else 0
  andNext (writeR d (.clean (.ofNat 64 r)))

def execCwptr (d a : RSpec) (s : State) : Host.Outcome State Fault Refusal := run (formCwptr d a) (cwptr d a) s

end Sys2Proof.Machine
end

