-- ==== Sys2Proof/Machine/Fabric.lean ====
section
/-! DEFINITION. The counting fabric: bitonic networks (R251, R252), counters' exits, start states, sums
and resets (R254 to R263), and barriers' exits and completion (R308 to R316). -/

namespace Sys2Proof.Machine

/-! ## Bitonic networks (R252) -/

/-- A network over wires: its layers, each a list of balancers by their two wires, and the wire that
each exit stands on. A balancer's output 0 goes on along its first wire, output 1 along its second. -/
structure Net where
  layers : List (List (Nat × Nat))
  exits : List Nat
  deriving DecidableEq, Repr

/-- Every other element of a list, from the first on or from the second. -/
def alternate {α : Type} : Bool → List α → List α
  | _, [] => []
  | true, x :: xs => x :: alternate false xs
  | false, _ :: xs => alternate true xs

/-- The layers of two networks side by side. -/
def joinLayers : List (List (Nat × Nat)) → List (List (Nat × Nat)) → List (List (Nat × Nat))
  | a :: as, b :: bs => (a ++ b) :: joinLayers as bs
  | [], bs => bs
  | as, [] => as

/-- Merger[2^(k+1)] of two lists of 2^k wires. -/
def merger : Nat → List Nat → List Nat → Net
  | 0, xs, ys => { layers := [xs.zip ys], exits := xs ++ ys }
  | k + 1, xs, ys =>
    let a := merger k (alternate true xs) (alternate false ys)
    let b := merger k (alternate false xs) (alternate true ys)
    let last := a.exits.zip b.exits
    { layers := joinLayers a.layers b.layers ++ [last], exits := last.flatMap (fun (p, q) => [p, q]) }

/-- Bitonic[2^k] on a list of wires. -/
def bitonic : Nat → List Nat → Net
  | 0, xs => { layers := [], exits := xs }
  | k + 1, xs =>
    let a := bitonic k (xs.take (2 ^ k))
    let b := bitonic k (xs.drop (2 ^ k))
    let m := merger k a.exits b.exits
    { layers := joinLayers a.layers b.layers ++ m.layers, exits := m.exits }

/-- The network of width 2^k. -/
def network (k : Nat) : Net := bitonic k (List.range (2 ^ k))

/-- The place of a wire's balancer among a layer's, and its wires. -/
def Net.balancer (n : Net) (layer wire : Nat) : Nat × (Nat × Nat) :=
  let l := n.layers.getD layer []
  let i := l.findIdx (fun (p, q) => p == wire || q == wire)
  (i, l.getD i (wire, wire))

/-- The exit that stands on a wire. -/
def Net.exitOf (n : Net) (wire : Nat) : Nat := n.exits.findIdx (· == wire)

/-- A token leaves by the toggle and flips it; an antitoken flips it and leaves by it (R251). Answers
the output and the new toggle. -/
def balance (anti t : Bool) : Bool × Bool := if anti then (!t, !t) else (t, !t)

/-- One balancer of a network of width 2^k acts: the new toggles and the wire it leaves on. -/
def Net.pass (n : Net) (k : Nat) (toggles : List Bool) (layer wire : Nat) (anti : Bool) : List Bool × Nat :=
  let (i, p, q) := n.balancer layer wire
  let at0 := layer * 2 ^ (k - 1) + i
  let (out, t) := balance anti (toggles.getD at0 false)
  (toggles.set at0 t, if out then q else p)

/-- A token passes every layer alone. -/
def Net.run (n : Net) (k : Nat) (toggles : List Bool) (wire : Nat) : List Bool × Nat :=
  (List.range n.layers.length).foldl (fun (ts, w) l => n.pass k ts l w false) (toggles, wire)

/-- The toggles that `s` tokens on input 0 leave (R256). -/
def startToggles (k s : Nat) : List Bool :=
  let n := network k
  (List.range s).foldl (fun ts _ => (n.run k ts 0).1) (List.replicate (n.layers.length * 2 ^ (k - 1)) false)

/-- The counts of a start state (R256). -/
def startCounts (k s : Nat) : List Int := (List.range (2 ^ k)).map (fun i => if i < s then 1 else 0)

/-! ## Counters (R255 to R263) -/

/-- A count is kept modulo 2^48 and read as signed (R255). -/
def wrap48 (x : Int) : Int := toSigned (wrapBits x 48) 48

/-- A counter in its start state (R256, R257). -/
def Counter.make (ctx handle logw start : Nat) (base : BitVec 48) (nogive : Bool) (kid : Option Nat) : Counter :=
  { ctx := ctx, handle := handle, logw := logw, start := start, base := base, nogive := nogive,
    toggles := startToggles logw start, counts := startCounts logw start, failed := false, closed := false,
    kid := kid }

/-- Back to the start state (R256, R263). -/
def Counter.restart (c : Counter) : Counter :=
  { c with toggles := startToggles c.logw c.start, counts := startCounts c.logw c.start, closed := false }

/-- An exit counter acts: the value it produces and the counts after it (R255). -/
def Counter.exit (c : Counter) (i : Nat) (anti : Bool) : Int × Counter :=
  let n := c.counts.getD i 0
  let used := if anti then wrap48 (n - 1) else n
  let left := if anti then used else wrap48 (n + 1)
  ((c.base.toNat : Int) - c.start + i + 2 ^ c.logw * used, { c with counts := c.counts.set i left })

/-- The result of CTAKE and CGIVE: the exit wire over the value (R255). -/
def takeResult (i : Nat) (v : Int) : Word := .ofNat 64 (i % 64 * 2 ^ 58 + wrapBits v 58)

/-- CSUM's sum (R262). -/
def Counter.sum (c : Counter) : Word := .ofNat 64 (wrapBits (c.counts.foldl (· + ·) 0 - c.start) 64)

/-- Whether a counter is the one of a context with a handle. -/
def Counter.is (c : Counter) (ctx handle : Nat) : Bool := c.ctx == ctx && c.handle == handle

/-- The counter of a context with a handle (R258). -/
def State.counter? (s : State) (ctx handle : Nat) : Option Counter := s.counters.find? (·.is ctx handle)

/-- Changes a counter. -/
def State.modCounter (s : State) (ctx handle : Nat) (f : Counter → Counter) : State :=
  { s with counters := updFirst (·.is ctx handle) f s.counters }

/-! ## Barriers (R308 to R313) -/

/-- The width of a barrier of `n` parties, as a power of two (R309). -/
def barrierLog (n : Nat) : Nat :=
  if n ≤ 2 then 1 else if n ≤ 4 then 2 else if n ≤ 8 then 3 else if n ≤ 16 then 4 else if n ≤ 32 then 5 else 6

/-- The quota of exit `i` (R309). -/
def quota (n logw i : Nat) : Nat := if i < n then (n - i + 2 ^ logw - 1) / 2 ^ logw else 0

/-- A barrier as its cohort's start makes it (R304, R308). -/
def Barrier.make (ctx : Nat) (id : BarId) (n : Nat) (members : List Nat) : Barrier :=
  let k := barrierLog n
  { ctx := ctx, id := id, n := n, logw := k, toggles := startToggles k 0, counts := List.replicate (2 ^ k) 0,
    heldToks := [], gen := 0, forcedGens := [], failed := false, members := members, arrived := [] }

/-- Whether every exit has its quota: the barrier is COMPLETING (R313, Table 14.2). -/
def Barrier.full (b : Barrier) : Bool :=
  (List.range (2 ^ b.logw)).all (fun i => b.counts.getD i 0 == quota b.n b.logw i)

/-- The generation as a core's copy of it has it: step 5 of a completion writes the copies one by one (R310, R313,
R314). -/
def Barrier.copy (b : Barrier) (core : Nat) : BitVec 32 := if b.owed.contains core then b.gen - 1 else b.gen

/-- Whether a barrier is the one of a context with a name. -/
def Barrier.is (b : Barrier) (ctx : Nat) (id : BarId) : Bool := b.ctx == ctx && decide (b.id = id)

/-- The barrier of a context with a name. -/
def State.barrier? (s : State) (ctx : Nat) (id : BarId) : Option Barrier := s.barriers.find? (·.is ctx id)

/-- Changes a barrier. -/
def State.modBarrier (s : State) (ctx : Nat) (id : BarId) (f : Barrier → Barrier) : State :=
  { s with barriers := updFirst (·.is ctx id) f s.barriers }

/-! ## Tokens on their way -/

/-- Whether a token is on its way in a network. -/
def Tok.on (t : Tok) (ctx : Nat) (net : NetId) : Bool := t.ctx == ctx && decide (t.net = net)

/-- Whether any token is inside a network: past its first balancer and not yet dealt with at its exit. -/
def State.inside (s : State) (ctx : Nat) (net : NetId) : Bool :=
  s.tokens.any (fun t => t.on ctx net && decide (0 < t.layer))

/-- The width of a network and whether its first layer is closed; none for one that is gone. -/
def State.netState (s : State) (ctx : Nat) : NetId → Option (Nat × Bool × List Bool)
  | .counter h => (s.counter? ctx h).map (fun c => (c.logw, c.closed, c.toggles))
  | .barrier id => (s.barrier? ctx id).map (fun b => (b.logw, (b.full || !b.owed.isEmpty) && !b.failed, b.toggles))

/-- Puts the toggles of a network. -/
def State.putToggles (s : State) (ctx : Nat) (net : NetId) (ts : List Bool) : State :=
  match net with
  | .counter h => s.modCounter ctx h (fun c => { c with toggles := ts })
  | .barrier id => s.modBarrier ctx id (fun b => { b with toggles := ts })

/-- The number of layers of a network of width 2^k. -/
def layerCount (k : Nat) : Nat := k * (k + 1) / 2

/-- A token sent by a core, or by a take-window read, into a network of width 2^k (R254). -/
def newTok (uid ctx : Nat) (net : NetId) (anti : Bool) (sender k : Nat) (core : Option Nat) (act : Nat)
    (ret taint : Bool) : Tok :=
  { uid := uid, ctx := ctx, net := net, anti := anti, layer := 0, wire := sender % 2 ^ k, core := core,
    act := act, ret := ret, taint := taint, requester := sender, waiting := false }

/-- The tokens that wait at a first layer pass it, in the order they reached it, and the others stay where they are;
`mine` tells the tokens of the network. Answers the toggles with the tokens. -/
def enterList (n : Net) (k : Nat) (mine : Tok → Bool) : List Bool → List Tok → List Bool × List Tok
  | ts, [] => (ts, [])
  | ts, t :: rest =>
    if t.waiting && mine t then
      let (ts, wire) := n.pass k ts 0 t.wire t.anti
      let (ts, l) := enterList n k mine ts rest
      (ts, { t with layer := 1, wire := wire, waiting := false } :: l)
    else
      let (ts, l) := enterList n k mine ts rest
      (ts, t :: l)

/-- A first layer reopens: what waits there enters, before anything that comes later (R263 step 4, R313 step 1). -/
def State.reopen (s : State) (ctx : Nat) (net : NetId) : State :=
  match s.netState ctx net with
  | none => s
  | some (logw, _, toggles) =>
    let (ts, toks) := enterList (network logw) logw (fun t => t.on ctx net) toggles s.tokens
    State.putToggles { s with tokens := toks } ctx net ts

/-- Whether the networks of a context are saved, so that a read that arrives waits (R266). -/
def State.netSaved (s : State) (ctx : Nat) : Bool := ((s.ctx? ctx).map (·.st)) == some .saved

/-- BALANCER_ARRIVAL: token `k` passes its next balancer (R251), or waits at a closed first layer, in
the order it reached it (R263, R313). -/
def execBalancerArrival (k : Nat) (s : State) : Host.Outcome State Fault Refusal :=
  match s.tokens[k]? with
  | none => nothing s
  | some t => match s.netState t.ctx t.net with
    | none => nothing s
    | some (logw, closed, toggles) =>
      let n := network logw
      if layerCount logw ≤ t.layer || (t.layer == 0 && s.netSaved t.ctx) then nothing s
      else if t.layer == 0 && closed then
        if t.waiting then nothing s
        else happens { s with tokens := removeAt s.tokens k ++ [{ t with waiting := true }] }
      else
        let (ts, wire) := n.pass logw toggles t.layer t.wire t.anti
        let s := s.putToggles t.ctx t.net ts
        let move (t : Tok) : Tok := { t with layer := t.layer + 1, wire := wire, waiting := false }
        happens { s with tokens := modifyAt move s.tokens k }

/-- A token's result sets out for its sender: a core's slot, or the host that read a take window
(R45, R365). -/
def State.tokResult (s : State) (t : Tok) (bits : Word) (poison : Bool) : State :=
  match t.core with
  | some core => if t.ret then s.answer core t.act t.uid none (.word { bits := bits, taint := t.taint, poison := poison }) else s
  | none =>
    let out := if poison then HostOut.allOnes t.requester else .data t.requester bits
    if s.takes.any (fun r => r.uid == t.uid) then
      { s with takes := s.takes.filter (fun r => r.uid != t.uid), hostOut := s.hostOut ++ [out] }
    else s

/-- Takes tokens out of networks that are freed; a take-window read whose token is among them finds that its handle names no
counter, and returns all ones (R365; log entry 92). -/
def State.dropTokens (s : State) (p : Tok → Bool) : State :=
  let gone := s.tokens.filter p
  let mine (r : TakeRead) : Bool := gone.any (fun t => t.uid == r.uid)
  { s with
    tokens := s.tokens.filter (fun t => !p t)
    takes := s.takes.filter (fun r => !mine r)
    hostOut := s.hostOut ++ (s.takes.filter mine).map (fun r => HostOut.allOnes r.requester) }

/-- EXIT_COUNTER_ACT: token `k`, past the last layer of a counter, meets its exit counter (R255). On a
counter that has failed while it was in flight its value is poisoned (R265). -/
def execExitCounterAct (k : Nat) (s : State) : Host.Outcome State Fault Refusal :=
  match s.tokens[k]? with
  | none => nothing s
  | some t => match t.net with
    | .barrier _ => nothing s
    | .counter h => match s.counter? t.ctx h with
      | none => nothing s
      | some c =>
        if t.layer < layerCount c.logw then nothing s
        else
          let i := (network c.logw).exitOf t.wire
          let (v, c') := c.exit i t.anti
          let s := s.modCounter t.ctx h (fun _ => c')
          happens (State.tokResult { s with tokens := removeAt s.tokens k } t (takeResult i v) (c.failed || t.pois))

/-- Counts a token at exit `i` of a barrier, or holds it there (R311). -/
def State.countTok (s : State) (t : Tok) (b : Barrier) (i : Nat) : State :=
  if b.failed then s.tokResult t 0 true
  else if b.counts.getD i 0 < quota b.n b.logw i then
    (s.modBarrier b.ctx b.id (fun b => { b with counts := modifyAt (· + 1) b.counts i })).tokResult t
      (b.gen.setWidth 64) false
  else s.modBarrier b.ctx b.id (fun b => { b with heldToks := b.heldToks ++ [t] })

/-- BARRIER_EXIT: token `k`, past the last layer of a barrier, is counted in the present generation or
held (R311). -/
def execBarrierExit (k : Nat) (s : State) : Host.Outcome State Fault Refusal :=
  match s.tokens[k]? with
  | none => nothing s
  | some t => match t.net with
    | .counter _ => nothing s
    | .barrier id => match s.barrier? t.ctx id with
      | none => nothing s
      | some b =>
        if t.layer < layerCount b.logw then nothing s
        else happens (State.countTok { s with tokens := removeAt s.tokens k } t b ((network b.logw).exitOf t.wire))

/-- The held tokens that a new generation counts, exit by exit, and those still held (R313 step 4). -/
def splitHeld (b : Barrier) (n : Net) : List Tok → List Nat → List Tok × List Tok × List Nat
  | [], counts => ([], [], counts)
  | t :: ts, counts =>
    let i := n.exitOf t.wire
    if counts.getD i 0 < quota b.n b.logw i then
      let (now, later, counts) := splitHeld b n ts (modifyAt (· + 1) counts i)
      (t :: now, later, counts)
    else
      let (now, later, counts) := splitHeld b n ts counts
      (now, t :: later, counts)

/-- Whether the forced flag of a generation is set (R153). -/
def Barrier.forced (b : Barrier) (g : BitVec 32) : Bool := b.forcedGens.contains g

/-- A core's copy takes the new generation, and with it the forced flag of the one completed (R148, R153, R313). -/
def State.writeCopy (s : State) (b : Barrier) (core : Nat) : State :=
  let d : Dom := { ctx := b.ctx, bar := b.id }
  let flag (c : Core) : Core := if c.dom = some d then { c with forced := b.forced (b.gen - 1) } else c
  let s := s.modBarrier b.ctx b.id (fun b => { b with owed := b.owed.filter (· != core) })
  s.modCore core flag

/-- The steps of R313 up to the rearming: a phase barrier commits its domain's copies (R151), the barrier rearms with
its held tokens, and every member core's copy is to take the new generation. -/
def State.completeBarrier (s : State) (b : Barrier) : State :=
  let d : Dom := { ctx := b.ctx, bar := b.id }
  let forced := s.forcedDoms.contains (d, b.gen)
  let s := s.commitAll (fun r => decide (r.dom = d) && r.phase == b.gen)
  let s := { s with forcedDoms := s.forcedDoms.filter (fun f => !decide (f = (d, b.gen))) }
  let (now, later, counts) := splitHeld b (network b.logw) b.heldToks (List.replicate (2 ^ b.logw) 0)
  let others := b.forcedGens.filter (· != b.gen)
  let next : Barrier := { b with
    toggles := startToggles b.logw 0, counts := counts, heldToks := later, gen := b.gen + 1
    forcedGens := if forced then b.gen :: others else others
    arrived := [], owed := b.members }
  let s := s.modBarrier b.ctx b.id (fun _ => next)
  now.foldl (fun s t => s.tokResult t (next.gen.setWidth 64) false) s

/-- BARRIER_COMPLETE: every exit is at quota and no token is inside, so the barrier commits and rearms (R313 steps 1 to
4); or, while copies are still to be written, one of them is, and with the last the first layer reopens (step 5). Which
comes next is a free value (log entry 43). -/
def execBarrierComplete (ctx : Nat) (bar : BarId) (s : State) : Host.Outcome State Fault Refusal :=
  match s.barrier? ctx bar with
  | none => nothing s
  | some b =>
    if b.failed then nothing s
    else if b.owed.isEmpty then
      if b.full && !s.inside ctx (.barrier bar) then happens (s.completeBarrier b) else nothing s
    else
      let (n, s) := s.takeFree
      let s := s.writeCopy b (b.owed.getD (n.toNat % b.owed.length) 0)
      happens (if b.owed.length = 1 then s.reopen ctx (.barrier bar) else s)

/-! ## Cells (R250, R253) -/

/-- The balancers and exit counters of a network of width 2^k (Table 11.1). -/
def netCells (k : Nat) : Nat × Nat := (layerCount k * 2 ^ (k - 1), 2 ^ k)

/-! ## A kernel's header and its barrier set (R309, R319) -/

/-- Dword `j` of a list. -/
def dw (l : List Word) (j : Nat) : Word := l.getD j 0

/-- Fields of a kernel header (Table 15.1). -/
def hHold (h : List Word) : Bool := (dw h 0).getLsbD 48
def hQY (h : List Word) : Nat := bitsAt (dw h 1) 55 48
def hQX (h : List Word) : Nat := bitsAt (dw h 1) 47 40
def hGY (h : List Word) : Nat := bitsAt (dw h 1) 35 32
def hGX (h : List Word) : Nat := bitsAt (dw h 1) 28 24
def hWsmax (h : List Word) : Nat := bitsAt (dw h 1) 23 16
def hWsextra (h : List Word) : Nat := bitsAt (dw h 1) 15 8
def hRegs (h : List Word) : Nat := bitsAt (dw h 1) 7 0
def hLayout (h : List Word) : Nat := bitsAt (dw h 2) 46 40
def hNarrow (h : List Word) : Bool := (dw h 2).getLsbD 32
def hInt (h : List Word) : Bool := (dw h 2).getLsbD 33
def hBank (h : List Word) (b : Nat) : Nat := bitsAt (dw h 2) (2 * b + 1) (2 * b)
def hCores (h : List Word) : Nat := hGX h * hGY h
def hGroups (h : List Word) : Nat := hQX h * hQY h

/-- The party count of a declared barrier handle, 2 to 15; 0 when it is not declared. -/
def hParties (h : List Word) (handle : Nat) : Nat :=
  let k := handle - 2
  bitsAt (dw h (8 + k / 4)) (16 * (k % 4) + 15) (16 * (k % 4))

/-- The widths of the barriers of one cohort (R309). -/
def Kernel.barrierLogs (k : Kernel) : List Nat :=
  let h := k.header
  List.replicate (hGroups h) (barrierLog (hCores h)) ++ [barrierLog (hCores h * hGroups h)] ++
    ((List.range 14).filterMap (fun j =>
      let n := hParties h (j + 2)
      if n = 0 then none else some (barrierLog n)))

/-- The barrier sets that kernels of a context have been given and no cohort of theirs is using: a kernel gets its set
before its first cohort is placed, and keeps it until it completes (R329, R330). -/
def State.sparedSets (s : State) (ctx : Nat) : List Nat :=
  (s.kernels.filter (fun k => k.ctx == ctx && k.made &&
    !s.barriers.any (fun b => b.ctx == ctx && b.id.kid == k.kid.toNat))).flatMap Kernel.barrierLogs

/-- The widths of the counters and barriers of a context, those of a SAVED one, which stand in cells again once it is
restored, among them. -/
def State.widthsIn (s : State) (ctx : Nat) : List Nat :=
  ((s.counters.filter (fun x => x.ctx == ctx)).map (·.logw)) ++
    ((s.barriers.filter (fun x => x.ctx == ctx)).map (·.logw)) ++ s.sparedSets ctx

/-- Whether the slots of partition `p` can hold networks of these widths besides those of context `ctx`; the partition
serves one context at a time. Each of the 16 cells of a present cluster has 8 balancer and 8 exit-counter slots (R12, R250,
R253). That a slot which an error has struck is free again once its counter has left it is the model's reading of R265 (log
entry 90). -/
def State.cellsFor (s : State) (p ctx : Nat) (widths : List Nat) : Bool :=
  let all := (s.widthsIn ctx ++ widths).map netCells
  let slots := 8 * 16 * (s.clustersOf p).length
  decide ((all.map (·.1)).foldl (· + ·) 0 ≤ slots ∧ (all.map (·.2)).foldl (· + ·) 0 ≤ slots)

/-! ## Sums and resets (R262, R263, R265) -/

/-- Takes a request for the input-0 cell off the list. -/
def State.dropCell (s : State) (uid : Nat) : State :=
  { s with cellReqs := eraseFirst (fun r => r.uid == uid) s.cellReqs }

/-- CSUM_ARRIVAL: the wired sum as the request reaches the input-0 cell (R262). -/
def execCsumArrival (uid : Nat) (s : State) : Host.Outcome State Fault Refusal :=
  match s.cellReqs.find? (fun r => r.uid == uid) with
  | none => nothing s
  | some r => match s.counter? r.ctx r.handle with
    | none => nothing s
    | some c =>
      if r.reset then nothing s
      else happens ((s.dropCell uid).answer r.core r.act uid none
        (.word { bits := c.sum, taint := r.taint, poison := c.failed || r.pois }))

/-- CRESET_CLOSURE: reset request `uid` reaches the input-0 cell and closes the first layer; a further
one waits its turn (R263). It moves to the front, as the one being served. -/
def execCresetClosure (uid : Nat) (s : State) : Host.Outcome State Fault Refusal :=
  match s.cellReqs.find? (fun r => r.uid == uid) with
  | none => nothing s
  | some r => match s.counter? r.ctx r.handle with
    | none => nothing s
    | some c =>
      if !r.reset || c.closed then nothing s
      else
        let s := s.dropCell uid
        happens ({ s with cellReqs := r :: s.cellReqs }.modCounter r.ctx r.handle (fun c => { c with closed := true }))

/-- CRESET_REOPEN: at quiescence the counter returns to its start state and its first layer reopens, what waits there
enters, and the sum goes to the request that closed it (R263). A reset of a FAILED counter moves it to fresh slots,
clears FAILED and returns 0 poisoned (R265); one that was in flight as the counter failed returns its sum poisoned,
and clears FAILED when there are fresh slots (log entry 73). -/
def execCresetReopen (ctx handle : Nat) (s : State) : Host.Outcome State Fault Refusal :=
  match s.counter? ctx handle, s.cellReqs.find? (fun r => r.reset && r.ctx == ctx && r.handle == handle) with
  | some c, some r =>
    if !c.closed || s.inside ctx (.counter handle) then nothing s
    else
      let sum := if c.failed && !r.pois then 0 else c.sum
      let failed := c.failed && r.pois && !s.cellsFor (s.partOfCtx ctx) ctx [c.logw]
      let s := (s.dropCell r.uid).modCounter ctx handle (fun c => { c.restart with failed := failed })
      let s := s.reopen ctx (.counter handle)
      happens (s.answer r.core r.act r.uid none (.word { bits := sum, taint := r.taint, poison := c.failed || r.pois }))
  | _, _ => nothing s

/-- A network fails: operations in flight return poisoned, those held at a barrier's exits at once (R265, R315). -/
def State.failNet (s : State) (ctx : Nat) (net : NetId) : State :=
  let mark (t : Tok) : Tok := if t.on ctx net then { t with pois := true } else t
  let s := { s with tokens := s.tokens.map mark }
  match net with
  | .counter h =>
    let ask (r : CellReq) : CellReq := if r.ctx == ctx && r.handle == h then { r with pois := true } else r
    let s := { s with cellReqs := s.cellReqs.map ask }
    s.modCounter ctx h (fun c => { c with failed := true })
  | .barrier id =>
    let held := ((s.barrier? ctx id).map (·.heldToks)).getD []
    let s := s.modBarrier ctx id (fun b => { b with failed := true, heldToks := [] })
    held.foldl (fun s t => s.tokResult t 0 true) s

/-- The number of one of a partition's balancer cells, 16 to a present cluster (R17, R250). -/
def State.cellNumber (s : State) (p n : Nat) : Nat :=
  let cls := s.clustersOf p
  let i := n % (16 * cls.length)
  16 * cls.getD (i / 16) 0 + i % 16

/-- CELL_ERROR: an uncorrectable error in a slot of a counter or barrier sets FAILED and writes a record
of UNIT 7 with SEV 1 (R265, R315, R381). Which of the partition's cells it was, and the syndrome, are free values (log
entry 8); the class is POISON (log entry 23). The networks of a SAVED context stand in no cell (R250). -/
def execCellError (ctx : Nat) (net : NetId) (s : State) : Host.Outcome State Fault Refusal :=
  match s.netState ctx net, s.ctx? ctx with
  | some _, some c =>
    if c.st = .saved then nothing s
    else
      let (cell, s) := s.takeFree
      let (synd, s) := s.takeFree
      happens ((s.failNet ctx net).recordCtx ctx
        { Rec.base cPOISON 1 7 (s.cellNumber c.part cell.toNat) c.part ctx with synd := synd })
  | _, _ => nothing s

end Sys2Proof.Machine
end

