-- ==== Sys2Proof/Machine/MemInstr.lean ====
section
/-! DEFINITION. Loads, stores and row instructions, the CACHE major, LDC, LDS and STF (R135 to R146,
R167 to R169). -/

namespace Sys2Proof.Machine

/-! ## Addresses -/

/-- The effective address of a format M instruction of `unit` bytes, with its faults and waits up to
alignment; and whether the base is tainted (R136, R139, R157, R159). -/
def address (base : RSpec) (off : BitVec 5) (unit : Nat) : M (Nat × Bool) := do
  let b ← readClean base
  let va := effAddr b.bits (off.toNat * unit)
  accessReady b.taint
  faultIf (va % unit != 0) cALIGN va
  pure (va, b.taint)

/-- Finds the place of an access, then tests the watch comparators (R406). -/
def place (va n : Nat) (k : Access) (base : RSpec) : M Place := do
  let pl ← locate va n k base.bits
  watchedFor va n k
  pure pl

/-! ## Scalar loads and stores (R135 to R137, R168) -/

/-- LD, LDU and LDC. `sx`: sign extension; `ldc`: a load-consume. -/
def loadInstr (t base : RSpec) (off : BitVec 5) (hint size : BitVec 2) (l : BitVec 4) (sx ldc : Bool) : M Flow := do
  takeSlot l.toNat
  let n := 2 ^ size.toNat
  let (va, taint) ← address base off n
  let mark := taint || ldc
  match ← place va n .read base with
  | .here la =>
    let bs ← readHere la n
    carry t l (loaded bs sx mark)
  | .core id la =>
    uncheck
    request (.reg t) l.toNat .bypass (.load (.loc id la) n sx mark false) (fun sl => { sl with load := true, ldc := ldc })
  | .phys x =>
    match ← sourceOf x n hint.toNat mark with
    | .now bs => carry t l (loaded bs sx mark)
    | .home tgt fill =>
      request (.reg t) l.toNat (x.use (hintUse hint.toNat)) (.load tgt n sx mark fill) (fun sl => { sl with load := true, ldc := ldc })

/-- LD (Table 6.6). -/
def execLd (t base : RSpec) (off : BitVec 5) (hint size : BitVec 2) (l : BitVec 4) (s : State) :
    Host.Outcome State Fault Refusal :=
  run (formLd t base off hint size l) (loadInstr t base off hint size l true false) s

/-- LDU (Table 6.6). -/
def execLdu (t base : RSpec) (off : BitVec 5) (hint size : BitVec 2) (l : BitVec 4) (s : State) :
    Host.Outcome State Fault Refusal :=
  run (formLdu t base off hint size l) (loadInstr t base off hint size l false false) s

/-- LDC: sign-extends as LD does, and taints t (R168). -/
def execLdc (t base : RSpec) (off : BitVec 5) (hint size : BitVec 2) (l : BitVec 4) (s : State) :
    Host.Outcome State Fault Refusal :=
  run (formLdc t base off hint size l) (loadInstr t base off hint size l true true) s

/-- ST: the low bytes of t; its poison goes with them (R136). -/
def storeInstr (t base : RSpec) (off : BitVec 5) (hint size : BitVec 2) : M Flow := do
  let n := 2 ^ size.toNat
  let (va, _) ← address base off n
  let pl ← place va n .write base
  let v ← readR t
  andNext (storeTo pl (hintUse hint.toNat) va ((dwordBytes v.bits).take n) (List.replicate n v.poison) false)

/-- ST (Table 6.6). -/
def execSt (t base : RSpec) (off : BitVec 5) (hint size : BitVec 2) (s : State) :
    Host.Outcome State Fault Refusal :=
  run (formSt t base off hint size) (storeInstr t base off hint size) s

/-! ## Row instructions (R138 to R141) -/

/-- LDV: 256 bytes into a tile row (R139). -/
def loadRow (vt : BitVec 6) (base : RSpec) (off : BitVec 5) (hint : BitVec 2) (l : BitVec 4) : M Flow := do
  takeSlot l.toNat
  let (va, taint) ← address base off 256
  let pl ← place va 256 .read base
  modeSettled
  rowFree vt
  let put (bs : List (Byte × Bool)) : M Flow := do
    if l = 0 then andNext (writeRow vt (Row.ofBytes bs))
    else
      let sl ← newSlot (.row vt) l.toNat (some (.row (Row.ofBytes bs)))
      pure (.next (some sl))
  let mark (sl : Slot) : Slot := { sl with load := true }
  match pl with
  | .here la =>
    let bs ← readHere la 256
    put bs
  | .core id la =>
    uncheck
    request (.row vt) l.toNat .bypass (.row (.loc id la) false) mark
  | .phys x =>
    match ← sourceOf x 256 hint.toNat taint with
    | .now bs => put bs
    | .home tgt fill => request (.row vt) l.toNat (x.use (hintUse hint.toNat)) (.row tgt fill) mark

def execLdv (vt : BitVec 6) (base : RSpec) (off : BitVec 5) (hint : BitVec 2) (l : BitVec 4) (s : State) :
    Host.Outcome State Fault Refusal :=
  run (formLdv vt base off hint l) (loadRow vt base off hint l) s

/-- STV: a tile row as 256 bytes, each unit's poison on its bytes (R139). -/
def storeRow (vt : BitVec 6) (base : RSpec) (off : BitVec 5) (hint : BitVec 2) : M Flow := do
  let (va, _) ← address base off 256
  let pl ← place va 256 .write base
  modeSettled
  let r ← readRow vt
  andNext (storeTo pl (hintUse hint.toNat) va r.bytes r.bytePois false)

def execStv (vt : BitVec 6) (base : RSpec) (off : BitVec 5) (hint : BitVec 2) (s : State) :
    Host.Outcome State Fault Refusal :=
  run (formStv vt base off hint) (storeRow vt base off hint) s

/-- ZFILL: 256 zero bytes without poison (R140). -/
def zeroFill (base : RSpec) (off : BitVec 5) (hint : BitVec 2) : M Flow := do
  let (va, _) ← address base off 256
  let pl ← place va 256 .write base
  andNext (storeTo pl (.zfill hint) va (List.replicate 256 0) (List.replicate 256 false) false)

def execZfill (base : RSpec) (off : BitVec 5) (hint : BitVec 2) (s : State) : Host.Outcome State Fault Refusal :=
  run (formZfill base off hint) (zeroFill base off hint) s

/-- Asks for one line, which brings no value and whose response carries no delay field (R141, R397). -/
def State.askLine (s : State) (x : Xlat) (hint key : Nat) : State :=
  let (uid, s) := s.takeUid
  let ask : Req := {
    uid := uid, core := s.core.id, act := s.core.cur.act.uid, kind := .pref key (hint != 1), served := false
    slice := none, use := x.use (hintUse hint), after := s.core.cur.act.fence }
  { s with reqs := s.reqs ++ [ask] }

/-- PREF asks for the lines of a WB page: under hints 0 and 3 for those that the L1 misses, for it and the slice; under
stream for both, for the slice alone (Table 6.5). Anything that stands in the way makes it do
nothing (R141): a base that names a channel not connected counts among that (log entry 70). -/
def prefetch (base : RSpec) (off : BitVec 5) (hint : BitVec 2) : M Flow := do
  let b ← (match base with
    | .inp d => do if (← get).connected (← get).core.id d then readR base else pure { Val.clean 0 with poison := true }
    | .w _ | .out _ | .z | .inq => readR base : M Val)
  let va := effAddr b.bits (off.toNat * 256)
  if b.poison || va % 256 != 0 || !isGlobal va || hint = 2 then pure (.next none)
  else
    match ← stateOf (fun s => s.agentXlat s.myCluster s.myCtx s.core.priv .read va 256) with
    | .error _ => pure (.next none)
    | .ok x =>
      let key := (← get).keyHere x.pa
      if leafPol x.leaf == 0 && !leafZero x.leaf then
        for k in [key, key + 128] do
          if hint = 1 || ((← getC).l1Hit k).isNone then modify (fun s => s.askLine x hint.toNat k)
      pure (.next none)

def execPref (base : RSpec) (off : BitVec 5) (hint : BitVec 2) (s : State) : Host.Outcome State Fault Refusal :=
  run (formPref base off hint) (prefetch base off hint) s

/-! ## The CACHE major (R142 to R146) -/

/-- L1INV (R143). -/
def execL1inv (s : State) : Host.Outcome State Fault Refusal := run formL1inv (andNext (modC Core.dropL1)) s

/-- Whether a core's instruction cache is within the scope of an ICINV (R144). -/
def State.inScope (s : State) (scope core : Nat) : Bool :=
  let me := s.core.id
  match scope with
  | 0 => core == me
  | 1 => clusterOf core == clusterOf me
  | 2 => dieOf (clusterOf core) == dieOf (clusterOf me) && decide (s.partOf core = s.partOf me)
  | _ => decide (s.partOf core = s.partOf me)

/-- Drops the line of a virtual address of a context from an instruction cache. -/
def Core.dropCode (c : Core) (ctx va : Nat) : Core :=
  { c with icache := c.icache.filter (fun l => !(l.ctx == ctx && l.vline == va / 128)) }

/-- ICINV waits until the core's stores are acknowledged, then drops the line within its scope (R144). Stores that the
activation still holds are earlier stores of it: they are committed first, as before an irrevocable act (log entry
71). -/
def icinv (a : RSpec) (scope : BitVec 6) : M Flow := do
  let v ← readClean a
  if 0 < (← getC).cur.act.heldStores then irrevocable
  if !(← getC).storeBuf.isEmpty then throw .drain
  let ctx := (← get).myCtx
  let va := addr48 v.bits
  modify (fun s =>
    let drop (c : Core) : Core := if s.inScope scope.toNat c.id then c.dropCode ctx va else c
    { s with core := drop s.core, others := s.others.map drop })
  pure (.next none)

def execIcinv (a : RSpec) (scope : BitVec 6) (s : State) : Host.Outcome State Fault Refusal :=
  run (formIcinv a scope) (icinv a scope) s

/-- The dwords of a bank. -/
def bankDwords (b : Nat) : List Nat := (List.range 1024).map (b * 1024 + ·)

/-- One bank takes a new mode: entering scratch zeroes it, clears its poison and sets it full; entering
or leaving cache-way mode drops its lines of the L1 (R124, R145, R160). -/
def Core.setBank (c : Core) (b mode : Nat) : Core :=
  let old := c.bankMode b
  let c := if old != mode && (old == 1 || mode == 1) then { c with l1 := c.l1.filter (fun x => x.bank != b) } else c
  let c := if old != 0 && mode == 0 then
      { c with
        lm := c.lm.filter (fun x => !(x.1 / 0x2000 == b))
        lmPoison := c.lmPoison.filter (fun d => !(d / 1024 == b))
        lmEmpty := c.lmEmpty.filter (fun d => !(d / 1024 == b)) }
    else c
  { c with bankModes := .ofNat 32 (c.bankModes.toNat - old * 4 ^ b + mode * 4 ^ b) }

/-- The first bank of a change that holds an actor's FIFO, or would become one (R145). -/
def badBank (fifos : List Nat) (map : Nat) : List Nat → Option Nat
  | [] => none
  | b :: bs => if fifos.contains b || map / 4 ^ b % 4 == 2 then some b else badBank fifos map bs

/-- BANKMODE (R145, R214). A row write, REPLY or token write arrives and completes in one step of the
model, so none is ever between the two. -/
def bankMode (a b : RSpec) : M Flow := do
  let m ← readR a
  let k ← readR b
  if m.poison then poisonFault a.bits
  if k.poison then poisonFault b.bits
  let map := m.bits.toNat % 2 ^ 32
  let banks := (List.range 16).filter (fun i => k.bits.getLsbD i)
  faultIf (banks.contains 0) cPROT 0
  let c ← getC
  let fifos := (c.kern.map (fun k => k.actors.map (·.fbank))).getD []
  match badBank fifos map banks with
  | some i => fault cPROT i
  | none => pure ()
  faultIf c.cur.act.revocable cPROT 0
  waitUntil c.busySlots.isEmpty
  modC (fun c => banks.foldl (fun c i => c.setBank i (map / 4 ^ i % 4)) c)
  pure (.next none)

def execBankmode (a b : RSpec) (s : State) : Host.Outcome State Fault Refusal :=
  run (formBankmode a b) (bankMode a b) s

/-- The banks of the core that a copy accepted has a row write to, on its way or still to be issued (R146, R292). -/
def State.pendingBanks (s : State) : Nat :=
  let due := s.channels.flatMap (fun ch => ch.jobs.flatMap (s.banksDue s.core.id))
  ((List.range 16).map (fun b =>
    if due.contains b || s.rowWrites.any (fun w => match w.tgt with
      | .loc c la => c == s.core.id && la / 0x2000 == b
      | .phys _ => false) then 2 ^ b else 0)).foldl (· + ·) 0

/-- BANKQ (R146). -/
def bankQuery (d : RSpec) : M Flow := do
  uncheck
  let s ← get
  andNext (writeR d (.clean (.ofNat 64 (s.core.bankModes.toNat + s.pendingBanks * 2 ^ 32))))

def execBankq (d : RSpec) (s : State) : Host.Outcome State Fault Refusal := run (formBankq d) (bankQuery d) s

/-! ## LDS and STF (R167, R169) -/

/-- The place of a full-empty access: scratch, or a queue-slot page (R169). -/
def fullPlace (va : Nat) (k : Access) (base : RSpec) : M Place := do
  let pl ← locate va 8 k base.bits
  match pl with
  | .phys x => faultIf (!leafQs x.leaf) cPROT va
  | .here _ | .core _ _ => pure ()
  watchedFor va 8 k
  pure pl

/-- The home of a full-empty word. -/
def State.fullTarget (s : State) : Place → Target
  | .here la => .loc s.core.id la
  | .core id la => .loc id la
  | .phys x => .phys (s.keyHere x.pa)

/-- The use of slice lines of an access to a place. -/
def Place.use (pl : Place) (want : LineUse) : LineUse :=
  match pl with
  | .here _ | .core _ _ => .bypass
  | .phys x => x.use want

/-- What the home of an LDS answers now: its bytes; with the core's own stores over them that have not left. -/
def State.ldsRead (s : State) (use : LineUse) (t : Target) (own : List StoreOp) : List (Byte × Bool) × State :=
  match t with
  | .loc core la =>
    let s := s.meetLocal core la 8
    let c := s.coreOf core
    let (bs, ps) := overAll 8 la own (c.lm.bytes la 8) [readPoison 8 c.lmPoison la 8]
    (bs.map (fun b => (b, ps.any id)), s)
  | .phys key => s.homeRead use s.myPart s.core.dom s.core.id key 8 own

/-- An LDS comes to its word after what a release or an acquire has before it, and after the core's earlier stores to the
word that are on their way (R155, R428). -/
def wordReady (t : Target) : M Unit := do
  inOrder
  waitUntil (!(← getC).storeBuf.any (fun b => !b.sent && !b.wc && b.op.touches t.word.1 t.word.2))

/-- Whether the word of a place is full (R160); a check run's own words in its image (R438). -/
def State.fullAt (s : State) : Place → Bool
  | .here la => s.core.hereFull la
  | .core id la => s.isFull (.loc id la)
  | .phys x => s.isFull (.phys (s.keyHere x.pa))

/-- LDS.e empties the word; a check run changes nothing outside its image (R161, R390, R438). -/
def emptyWord (pl : Place) : M Unit := do
  let s ← get
  match pl with
  | .here la =>
    if s.core.privateAt la then modC (fun c => c.putImageFull la false)
    else if !s.core.cur.act.isCheck then modify (fun s => s.putFull (.loc s.core.id la) false)
  | .core _ _ | .phys _ => if !s.core.cur.act.isCheck then modify (fun s => s.putFull (s.fullTarget pl) false)

/-- A slot whose value arrives later, from the slice or other home of `tgt`: served already, or waiting there. -/
def lateSlot (t : RSpec) (l : BitVec 4) (tgt : Target) (v : Option Payload) : M Slot := do
  match t with
  | .out d =>
    chanCheck d (32 + d.num)
    irrevocable
  | .w _ | .inp _ | .z | .inq => pure ()
  let sl ← newSlot (.reg t) l.toNat v
  match v with
  | some _ =>
    modify (fun s => { s with reqs := s.reqs ++ [Req.back s.core.id s.core.cur.act.uid sl.uid (s.sliceOf tgt)] })
  | none => pure ()
  pure { sl with here := false, load := true }

/-- LDS: a full word is read at once and emptied by LDS.e; an empty one makes the activation
irrevocable and is waited for at its home (R106, R169). The activation itself waits when L is 0 (R98). A store that the
activation holds back under R107 is over the word that it reads, and fills it when it leaves (log entry 101). -/
def ldsInstr (t base : RSpec) (off : BitVec 5) (l : BitVec 4) (empties : Bool) : M Flow := do
  takeSlot l.toNat
  let (va, taint) ← address base off 8
  let pl ← fullPlace va .read base
  let s ← get
  let tgt := s.fullTarget pl
  match pl with
  | .here la =>
    for i in s.core.regsAt la 8 do needs (Dest.isReg (.w i))
    localRead la 8
  | .core _ _ => uncheck
  | .phys x => if !leafImm x.leaf then uncheck
  wordReady tgt
  if s.fullAt pl then
    match pl with
    | .here la =>
      let bs ← readBytes la 8
      if empties then emptyWord pl
      carry t l (loaded bs false taint)
    | .core _ _ | .phys _ =>
      let bs ← stateOf (fun s => s.ldsRead (pl.use .normal) tgt (s.core.ownAt tgt 8))
      if empties then emptyWord pl
      let sl ← lateSlot t l tgt (some (.word (loaded bs false taint)))
      pure (.next (some sl))
  else
    irrevocable
    wordReady tgt
    let sl ← lateSlot t l tgt none
    modify (fun s => { s with ldsWait := s.ldsWait ++
      [{ uid := sl.uid, core := s.core.id, act := s.core.cur.act.uid, tgt := tgt, empties := empties, taint := taint
         use := pl.use .normal }] })
    pure (.next (some { sl with block := l == 0 }))

/-- LDS (Table 7.4). -/
def execLds (t base : RSpec) (off : BitVec 5) (l : BitVec 4) (s : State) : Host.Outcome State Fault Refusal :=
  run (formLds t base off l) (ldsInstr t base off l false) s

/-- LDS.e (Table 7.4). -/
def execLdsE (t base : RSpec) (off : BitVec 5) (l : BitVec 4) (s : State) : Host.Outcome State Fault Refusal :=
  run (formLdsE t base off l) (ldsInstr t base off l true) s

/-- STF: waits for the activation's earlier stores to the slot, then stores the dword and sets the word
full (R169). Through the local window both happen at issue. -/
def stfInstr (t base : RSpec) (off : BitVec 5) (hint : BitVec 2) : M Flow := do
  let (va, _) ← address base off 8
  let pl ← fullPlace va .write base
  let v ← readR t
  let c ← getC
  let tgt := (← get).fullTarget pl
  if c.slotBusy c.cur.act.uid tgt then throw .drain
  andNext (storeTo pl (hintUse hint.toNat) va (dwordBytes v.bits) (List.replicate 8 v.poison) true)

def execStf (t base : RSpec) (off : BitVec 5) (hint : BitVec 2) (s : State) : Host.Outcome State Fault Refusal :=
  run (formStf t base off hint) (stfInstr t base off hint) s

end Sys2Proof.Machine
end

