-- ==== Sys2Proof/Machine/LaneNum.lean ====
section
/-! DEFINITION. What one lane computes: the results of the elementwise members (Tables 8.3 to 8.6),
the conversions (Table 3.5, R65), and the running sums and extremes of the VP members (R201, R202). -/

namespace Sys2Proof.Machine

/-! ## Estimates and refinements (R189, R190) -/

/-- The integer square root, bit by bit from bit `fuel - 1` down. -/
def isqrtFrom (n : Nat) : Nat → Nat → Nat
  | 0, r => r
  | k + 1, r => isqrtFrom n k (if (r + 2 ^ k) * (r + 2 ^ k) ≤ n then r + 2 ^ k else r)

/-- floor of the square root. -/
def isqrt (n : Nat) : Nat := isqrtFrom n (Nat.log2 n / 2 + 1) 0

/-- Rounds m · 2^e with a sticky bit to 12 significant bits, ties to even. -/
def round12 (m : Nat) (e : Int) (s : Bool) : Nat × Int :=
  let l := Nat.log2 m
  if l < 12 then (m, e)
  else
    let d := 2 ^ (l - 11)
    let n := m / d
    (if roundsUp 0 false n (m % d) d s then n + 1 else n, e + (l - 11 : Nat))

/-- VRCP (R189). -/
def Fmt.rcp (f : Fmt) (a : Nat) : Nat :=
  match f.value a with
  | .nan => f.quiet a
  | .inf n => f.zero n
  | .num n m e =>
    if m = 0 then f.inf n
    else
      let k := Nat.log2 m + 40
      let (q, x) := round12 (2 ^ k / m) (-(k : Int) - e) (2 ^ k % m != 0)
      f.round 0 n q x false

/-- VRSQ (R189). -/
def Fmt.rsq (f : Fmt) (a : Nat) : Nat :=
  match f.value a with
  | .nan => f.quiet a
  | .inf n => if n then f.defaultNaN else f.zero false
  | .num n m e =>
    if m = 0 then f.inf n
    else if n then f.defaultNaN
    else
      let odd := e % 2 != 0
      let m := if odd then 2 * m else m
      let e := if odd then e - 1 else e
      let k := Nat.log2 m + 40
      let q := isqrt (2 ^ (2 * k) / m)
      let (q, x) := round12 q (-(k : Int) - e / 2) (q * q * m != 2 ^ (2 * k))
      f.round 0 false q x false

/-- The product of two dyadics. -/
def Dy.mul (x y : Dy) : Dy := { z := x.z * y.z, e := x.e + y.e }

/-- b × (c − p) with one rounding: the sign of an exact zero difference follows R55, and the product's
sign that of its factors. -/
def Fmt.refine (f : Fmt) (mode : RMode) (nb : Bool) (b t : Dy) : Nat :=
  let r := b.mul t
  f.roundDy mode r (nb != (mode == 3)) false

/-- VRCPS: b × (2 − a × b) (R190). -/
def Fmt.rcps (f : Fmt) (mode : RMode) (a b : Nat) : Nat :=
  (f.firstNaN [a, b]).getD
    (match f.value a, f.value b with
      | .num na ma ea, .num nb mb eb =>
        if ma = 0 || mb = 0 then b
        else
          let x : Dy := { z := signed na ma, e := ea }
          let y : Dy := { z := signed nb mb, e := eb }
          let p := x.mul y
          f.refine mode nb y (Dy.add { z := 2, e := 0 } { p with z := -p.z })
      | _, _ => b)

/-- VRSQS: b × (3 − a × b²) / 2 (R190). -/
def Fmt.rsqs (f : Fmt) (mode : RMode) (a b : Nat) : Nat :=
  (f.firstNaN [a, b]).getD
    (match f.value a, f.value b with
      | .num na ma ea, .num nb mb eb =>
        if ma = 0 || mb = 0 then b
        else
          let x : Dy := { z := signed na ma, e := ea }
          let y : Dy := { z := signed nb mb, e := eb }
          let p := (x.mul y).mul y
          let t := Dy.add { z := 3, e := 0 } { p with z := -p.z }
          f.refine mode nb y { t with e := t.e - 1 }
      | _, _ => b)

/-! ## Extremes (R188) -/

/-- VMAX of two lanes. -/
def Fmt.vmax (f : Fmt) (a b : Nat) : Nat :=
  match f.isNaN a, f.isNaN b with
  | true, true => f.quiet a
  | true, false => b
  | false, true => a
  | false, false => if f.key a < f.key b then b else a

/-- VMIN of two lanes. -/
def Fmt.vmin (f : Fmt) (a b : Nat) : Nat :=
  match f.isNaN a, f.isNaN b with
  | true, true => f.quiet a
  | true, false => b
  | false, true => a
  | false, false => if f.key b < f.key a then b else a

/-- VCLAMP: `d` held between `a` and `b`. -/
def Fmt.clamp (f : Fmt) (a b d : Nat) : Nat :=
  if f.isNaN d then f.quiet d else f.vmin (f.vmax d a) b

/-- VEXP2 (R191). -/
def Fmt.exp2 (f : Fmt) (mode : RMode) (a : Nat) : Nat :=
  match f.value a with
  | .nan => f.quiet a
  | .inf n => if n then f.zero false else f.inf false
  | .num n m e => f.exp2Num mode n m e

/-- VLOG2 (R191). -/
def Fmt.log2 (f : Fmt) (mode : RMode) (a : Nat) : Nat :=
  match f.value a with
  | .nan => f.quiet a
  | .inf n => if n then f.defaultNaN else f.inf false
  | .num n m e =>
    if m = 0 then f.inf true else if n then f.defaultNaN else f.log2Num mode m e

/-! ## The elementwise members -/

/-- The lane float format (R175). -/
def laneFmt (narrow : Bool) : Fmt := if narrow then f16 else f32

/-- Table 8.3. -/
def FOp.result (f : Fmt) (mode : RMode) (o : FOp) (a b d : Nat) : Nat :=
  match o with
  | .add => f.add mode a b
  | .sub => f.sub mode a b
  | .mul => f.mul mode a b
  | .fma => f.fma mode a b d
  | .fms => f.fms mode a b d
  | .max => f.vmax a b
  | .min => f.vmin a b
  | .neg => a ^^^ f.sgn true
  | .abs => a % f.sgn true
  | .rcp => f.rcp a
  | .rsq => f.rsq a
  | .rcps => f.rcps mode a b
  | .rsqs => f.rsqs mode a b
  | .exp2 => f.exp2 mode a
  | .log2 => f.log2 mode a
  | .clamp => f.clamp a b d

/-- Whether a member reads d (Table 8.3). -/
def FOp.readsD : FOp → Bool
  | .fma | .fms | .clamp => true
  | .add | .sub | .mul | .max | .min | .neg | .abs | .rcp | .rsq | .rcps | .rsqs | .exp2 | .log2 => false

/-- Table 8.4, on lanes of `w` bits. -/
def IOp.result (w : Nat) (o : IOp) (a b d : Nat) : Nat :=
  let x := toSigned a w
  let y := toSigned b w
  match o with
  | .add => (a + b) % 2 ^ w
  | .sub => wrapBits ((a : Int) - b) w
  | .mul => a * b % 2 ^ w
  | .mulh => wrapBits (x * y / (2 ^ w : Int)) w
  | .mad => (a * b + d) % 2 ^ w
  | .max => if x < y then b else a
  | .min => if y < x then b else a
  | .abs => x.natAbs % 2 ^ w
  | .shl => a * 2 ^ (b % w) % 2 ^ w
  | .shr => a / 2 ^ (b % w)
  | .sra => wrapBits (x / (2 ^ (b % w) : Int)) w
  | .adds => wrapBits (satBits (x + y) w) w
  | .subs => wrapBits (satBits (x - y) w) w
  | .maxu => if a < b then b else a
  | .minu => if b < a then b else a
  | .neg => wrapBits (-x) w

/-- Whether a member reads d (Table 8.4). -/
def IOp.readsD : IOp → Bool
  | .mad => true
  | .add | .sub | .mul | .mulh | .max | .min | .abs | .shl | .shr | .sra | .adds | .subs | .maxu | .minu
  | .neg => false

/-- Table 8.5, on lanes of `w` bits; VSEL with its mask bit set gives a. -/
def BOp.result (w : Nat) (o : BOp) (a b : Nat) : Nat :=
  match o with
  | .and => a &&& b
  | .or => a ||| b
  | .xor => a ^^^ b
  | .andn => a &&& (2 ^ w - 1 - b)
  | .not => 2 ^ w - 1 - a
  | .mov => a
  | .sel => a
  | .popc => popBits w a
  | .clz => clzBits w a

/-- Table 8.6: whether the relation holds. -/
def COp.holds (f : Fmt) (w : Nat) (o : COp) (a b : Nat) : Bool :=
  let un := f.isNaN a || f.isNaN b
  match o with
  | .eqF => !un && f.eqv a b
  | .neF => un || !f.eqv a b
  | .ltF => !un && f.ltv a b
  | .leF => !un && (f.ltv a b || f.eqv a b)
  | .unF => un
  | .eqI => a == b
  | .neI => a != b
  | .ltI => decide (toSigned a w < toSigned b w)
  | .leI => decide (toSigned a w ≤ toSigned b w)
  | .ltU => decide (a < b)
  | .leU => decide (a ≤ b)

/-! ## Conversions (R64, R65) -/

/-- Widening of a floating format to FP32, exactly (Table 3.5). -/
def Fmt.widen (f : Fmt) (x : Nat) : Nat :=
  match f.value x with
  | .nan =>
    if f.e4m3 then f32.sgn (f.neg x) + 0x7FC00000
    else f32.quiet (f32.inf (f.neg x) + f.frac x * 2 ^ (23 - f.fb))
  | .inf n => f32.inf n
  | .num n m e => f32.round 0 n m e false

/-- Narrowing of FP32 to a floating format (Table 3.5). -/
def Fmt.narrow (f : Fmt) (mode : RMode) (x : Nat) : Nat :=
  match f32.value x with
  | .nan =>
    if f.e4m3 then f.sgn (f32.neg x) + 0x7F
    else if f == e5m2 then f.sgn (f32.neg x) + 0x7E
    else f.quiet (f.inf (f32.neg x) + f32.frac x / 2 ^ (23 - f.fb))
  | .inf n => if f.e4m3 then f.big n else f.inf n
  | .num n m e => f.round mode n m e false

/-- FP32 to int32 (Table 3.5, func 8). -/
def toI32 (mode : RMode) (x : Nat) : Nat :=
  match f32.value x with
  | .nan => 0
  | .inf n => if n then 0x80000000 else 0x7FFFFFFF
  | .num n m e => wrapBits (satBits (roundInt mode n m e) 32) 32

/-- int32 to FP32 (func 9). -/
def fromI32 (mode : RMode) (x : Nat) : Nat :=
  let z := toSigned x 32
  f32.round mode (decide (z < 0)) z.natAbs 0 false

/-- int32 to `n` bits, saturating (funcs 10 and 14). -/
def satInt (n x : Nat) : Nat := wrapBits (satBits (toSigned x 32) n) n

/-- `n` bits to int32, sign-extended (funcs 11 and 15). -/
def extInt (n x : Nat) : Nat := wrapBits (toSigned x n) 32

/-- The distance of two values that are not NaNs in the extended reals; `none` is infinite. -/
def distance (x y : FV) : Option Dy :=
  match x, y with
  | .num n1 m1 e1, .num n2 m2 e2 =>
    let d := Dy.add { z := signed n1 m1, e := e1 } { z := -signed n2 m2, e := e2 }
    some { d with z := d.z.natAbs }
  | .inf n1, .inf n2 => if n1 == n2 then some { z := 0, e := 0 } else none
  | _, _ => none

/-- Whether a distance is below another. -/
def nearer : Option Dy → Option Dy → Bool
  | some x, some y => x.lt y
  | some _, none => true
  | none, _ => false

/-- The first code whose entry is best under an order. -/
def bestCode (better : FV → FV → Bool) : List (Nat × FV) → Option (Nat × FV)
  | [] => none
  | (c, v) :: l =>
    match bestCode better l with
    | none => some (c, v)
    | some (d, u) => if better u v then some (d, u) else some (c, v)

/-- Whether a value is below another; neither is a NaN. -/
def FV.lt : FV → FV → Bool
  | .inf n1, .inf n2 => n1 && !n2
  | .inf n, _ => n
  | _, .inf n => !n
  | .num n1 m1 e1, .num n2 m2 e2 => Dy.lt { z := signed n1 m1, e := e1 } { z := signed n2 m2, e := e2 }
  | _, _ => false

/-- FP32 to a code of a codebook (R65). -/
def toCb4 (cb : List Nat) (x : Nat) : Nat :=
  let entries := cb.zipIdx.map (fun (e, c) => (c, bf16.value e))
  let real := entries.filter (fun e => e.2 != .nan)
  match f32.value x with
  | .nan => ((entries.find? (fun e => e.2 == .nan)).map (·.1)).getD 0
  | .inf n =>
    match real.find? (fun e => e.2 == .inf n) with
    | some e => e.1
    | none => ((bestCode (fun u v => if n then u.lt v else v.lt u) real).map (·.1)).getD 0
  | v => ((bestCode (fun u w => nearer (distance v u) (distance v w)) real).map (·.1)).getD 0

/-- The 16 entries of a codebook. -/
def codebook (cb : BitVec 256) : List Nat := (List.range 16).map (fun j => cb.toNat / 2 ^ (16 * j) % 65536)

/-- The side of a conversion (Table 8.8): the width of the packed element in bits, none when both
sides are 32-bit; whether the packed side is the source. -/
structure Conv where
  packed : Option Nat
  widen : Bool
  deriving DecidableEq, Repr

def XOp.conv : XOp → Conv
  | .f32f16 | .f32bf16 | .i32i16 => { packed := some 16, widen := true }
  | .f16f32 | .bf16f32 | .i16i32 => { packed := some 16, widen := false }
  | .f32e4m3 | .f32e5m2 | .i32i8 => { packed := some 8, widen := true }
  | .e4m3f32 | .e5m2f32 | .i8i32 => { packed := some 8, widen := false }
  | .f32cb4 => { packed := some 4, widen := true }
  | .cb4f32 => { packed := some 4, widen := false }
  | .i32f32 | .f32i32 => { packed := none, widen := false }

/-- The func value of a conversion (Table 8.8). -/
def XOp.func : XOp → Nat
  | .f32f16 => 0 | .f16f32 => 1 | .f32bf16 => 2 | .bf16f32 => 3
  | .f32e4m3 => 4 | .e4m3f32 => 5 | .f32e5m2 => 6 | .e5m2f32 => 7
  | .i32f32 => 8 | .f32i32 => 9 | .i16i32 => 10 | .i32i16 => 11
  | .f32cb4 => 12 | .cb4f32 => 13 | .i8i32 => 14 | .i32i8 => 15

/-- The conversion of one element (Table 3.5). -/
def XOp.result (mode : RMode) (cb : List Nat) (o : XOp) (x : Nat) : Nat :=
  match o with
  | .f32f16 => f16.widen x
  | .f16f32 => f16.narrow mode x
  | .f32bf16 => bf16.widen x
  | .bf16f32 => bf16.narrow mode x
  | .f32e4m3 => e4m3.widen x
  | .e4m3f32 => e4m3.narrow mode x
  | .f32e5m2 => e5m2.widen x
  | .e5m2f32 => e5m2.narrow mode x
  | .i32f32 => toI32 mode x
  | .f32i32 => fromI32 mode x
  | .i16i32 => satInt 16 x
  | .i32i16 => extInt 16 x
  | .f32cb4 => bf16.widen (cb.getD x 0)
  | .cb4f32 => toCb4 cb x
  | .i8i32 => satInt 8 x
  | .i32i8 => extInt 8 x

/-! ## Sums and extremes over lanes (R201, R202) -/

/-- One step of a running sum in lane width: integer (k = 0) or float (k = 1). -/
def sumStep (f : Fmt) (mode : RMode) (w k acc x : Nat) : Nat :=
  if k = 0 then (acc + x) % 2 ^ w else f.add mode acc x

/-- VREDADD over the active lanes: a dword (R201). -/
def redAdd (f : Fmt) (mode : RMode) (w k : Nat) (xs : List Nat) : Word :=
  if k = 0 then .ofNat 64 (wrapBits (xs.foldl (fun t x => t + toSigned x w) (0 : Int)) 64)
  else match xs with
    | [] => 0
    | x :: rest => .ofNat 64 (rest.foldl (fun t y => f.add mode t y) x)

/-- VREDMAX (`up`) or VREDMIN over the active lanes: a dword (R202). -/
def redExt (up : Bool) (f : Fmt) (w k : Nat) (xs : List Nat) : Word :=
  let op (x y : Nat) : Nat :=
    match k with
    | 0 => if up then IOp.result w .max x y 0 else IOp.result w .min x y 0
    | 1 => if up then f.vmax x y else f.vmin x y
    | _ => if up then max x y else min x y
  let unit : Nat :=
    match k with
    | 0 => if up then 2 ^ (w - 1) else 2 ^ (w - 1) - 1
    | 1 => f.inf up
    | _ => if up then 0 else 2 ^ w - 1
  let v := match xs with
    | [] => unit
    | x :: rest => rest.foldl op x
  if k = 0 then sext (.ofNat 64 v) w else .ofNat 64 v

end Sys2Proof.Machine
end

