-- ==== Sys2Proof/Machine/Scale.lean ====
section
/-! DEFINITION. Rind registers, binding tags and the tensor table: majors KOP, TT, TLD and TST, and
KMEM (R233 to R249). -/

namespace Sys2Proof.Machine

/-! ## Waits (R215) and revocability (R245) -/

/-- Whether a queue slot still has to start: PENDING in a press that is not stopped (R215). -/
def Core.toStart (c : Core) (s : Nat) : Bool :=
  (c.press.slots.getD s .empty).st == .pending && !c.press.stop

/-- An instruction of majors 0x30 to 0x33 waits until every earlier-pushed PSAVE and PRESTORE has
retired, but for those that a stop keeps from starting (R215). -/
def saveSettled : M Unit := do
  let c ← getC
  waitUntil (!c.busySlots.any (fun s =>
    (cmdOp (c.cmdWord s) == 0x0C || cmdOp (c.cmdWord s) == 0x0D) &&
      (c.toStart s || (c.press.slots.getD s .empty).st == .running)))

/-- Whether a command that has yet to start names rind register `k`. -/
def Core.rindNamed (c : Core) (k : Nat) : Bool :=
  (List.range 16).any (fun s =>
    let p := c.press.slots.getD s .empty
    let ts := c.slotTags s
    c.toStart s && !ts.isEmpty &&
      ((p.tag.valid && p.tag.reg.toNat == k) || (1 < ts.length && p.tagh.valid && p.tagh.reg.toNat == k)))

/-- Whether a command that has yet to start names binding tag `t`. -/
def Core.tagNamed (c : Core) (t : Nat) : Bool :=
  (List.range 16).any (fun s => c.toStart s && (c.slotTags s).contains t)

/-- Readies writes of rind registers and tags: waits for the commands that name them (R215) and for the TLDs to them
whose windows have ended (R40); the act is irrevocable without SELFPRESS (R245). -/
def beforeScaleWrite (ks ts : List Nat) : M Unit := do
  let c ← getC
  needsShared (fun d => ks.any (fun k => d.isRind k) || ts.any (fun t => d.isTag t))
  waitUntil (!(ks.any c.rindNamed || ts.any c.tagNamed))
  if !c.selfpress then irrevocable

/-- Cancels pending writes of rind registers and tags (R41). -/
def cancelScales (ks ts : List Nat) : M Unit := do
  for k in ks do cancels (Dest.isRind k)
  for t in ts do cancels (Dest.isTag t)

/-- A rind register as an instruction reads it: before a TLD whose window is open, after one whose
window has ended (R40, R247). -/
def readRind (k : BitVec 4) : M Rind := do
  needsShared (Dest.isRind k.toNat)
  return (← getC).rind.getD k.toNat .load

/-! ## KOP (R246, R247) -/

/-- The 64 scales of a rind register with their poison. -/
def Rind.list (r : Rind) : List Lane := (natLanes 8 64 r.scales.toNat).zip (natBools 64 r.pois.toNat)

/-- 64 scales as a register's bits and poison. -/
def packScales (l : List Lane) : BitVec 512 × BitVec 64 :=
  (.ofNat 512 (lanesNat 8 (l.map (·.1))), .ofNat 64 (boolsNat (l.map (·.2))))

/-- Writes a rind register (R234). -/
def writeRindM (k : BitVec 4) (l : List Lane) : M Unit := do
  cancelScales [k.toNat] []
  let (s, p) := packScales l
  modC (fun c => c.writeRind k.toNat s p)

/-- A member with two sources; 255 in either gives 255 (Table 10.5, R247). -/
def kop2 (f : Nat → Nat → Int) (kd ka kb : BitVec 4) : M Flow := do
  saveSettled
  let x := (← readRind ka).list
  let y := (← readRind kb).list
  beforeScaleWrite [kd.toNat] []
  let one (a b : Lane) : Lane :=
    (if a.1 = 255 || b.1 = 255 then 255 else (sat (f a.1 b.1) 0 254).toNat, a.2 || b.2)
  andNext (writeRindM kd (x.zipWith one y))

/-- KADD (Table 10.5). -/
def execKadd (kd ka kb : BitVec 4) (s : State) : Host.Outcome State Fault Refusal :=
  run (formKadd kd ka kb) (kop2 (fun a b => (a : Int) + b - 127) kd ka kb) s

/-- KSUB (Table 10.5). -/
def execKsub (kd ka kb : BitVec 4) (s : State) : Host.Outcome State Fault Refusal :=
  run (formKsub kd ka kb) (kop2 (fun a b => (a : Int) - b + 127) kd ka kb) s

/-- KMAX (Table 10.5). -/
def execKmax (kd ka kb : BitVec 4) (s : State) : Host.Outcome State Fault Refusal :=
  run (formKmax kd ka kb) (kop2 (fun a b => ((max a b : Nat) : Int)) kd ka kb) s

/-- KMIN (Table 10.5). -/
def execKmin (kd ka kb : BitVec 4) (s : State) : Host.Outcome State Fault Refusal :=
  run (formKmin kd ka kb) (kop2 (fun a b => ((min a b : Nat) : Int)) kd ka kb) s

/-- KMOV (Table 10.5). -/
def kmov (kd ka : BitVec 4) : M Flow := do
  saveSettled
  let x := (← readRind ka).list
  beforeScaleWrite [kd.toNat] []
  andNext (writeRindM kd x)

def execKmov (kd ka : BitVec 4) (s : State) : Host.Outcome State Fault Refusal := run (formKmov kd ka) (kmov kd ka) s

/-- KSET: never faults on poison (R247). -/
def kset (kd : BitVec 4) (r : RSpec) : M Flow := do
  saveSettled
  let v ← readR r
  beforeScaleWrite [kd.toNat] []
  andNext (writeRindM kd (List.replicate 64 (v.bits.toNat % 256, v.poison)))

def execKset (kd : BitVec 4) (r : RSpec) (s : State) : Host.Outcome State Fault Refusal :=
  run (formKset kd r) (kset kd r) s

/-- KFROMV (R247). -/
def kfromv (kd : BitVec 4) (vr : BitVec 6) : M Flow := do
  saveSettled
  let row ← readRow vr
  beforeScaleWrite [kd.toNat] []
  andNext (writeRindM kd ((row.elems 8).take 64))

def execKfromv (kd : BitVec 4) (vr : BitVec 6) (s : State) : Host.Outcome State Fault Refusal :=
  run (formKfromv kd vr) (kfromv kd vr) s

/-- KTOV: bytes 0 to 63 of the row, which are whole units (R247). -/
def ktov (vr : BitVec 6) (ka : BitVec 4) : M Flow := do
  saveSettled
  let x := (← readRind ka).list
  let row ← readRow vr
  let outs := (x.map some) ++ List.replicate 192 none
  let (bits, pois) := mergeElems 8 32 row.bits.toNat (natBools 64 row.pois.toNat) outs (List.replicate 256 false)
  andNext (writeRow vr { bits := .ofNat 2048 bits, pois := .ofNat 64 (boolsNat pois) })

def execKtov (vr : BitVec 6) (ka : BitVec 4) (s : State) : Host.Outcome State Fault Refusal :=
  run (formKtov vr ka) (ktov vr ka) s

/-- KBIND (R235, R247): the generation recorded is the register's as it stands. -/
def kbind (kd tag : BitVec 4) (r : RSpec) : M Flow := do
  saveSettled
  let v ← readClean r
  let _ ← readRind kd
  beforeScaleWrite [] [tag.toNat]
  cancelScales [] [tag.toNat]
  modC (fun c => c.bindTag tag.toNat (v.bits.setWidth 17) kd.toNat)
  pure (.next none)

def execKbind (kd tag : BitVec 4) (r : RSpec) (s : State) : Host.Outcome State Fault Refusal :=
  run (formKbind kd tag r) (kbind kd tag r) s

/-- KUNBIND. -/
def kunbind (tag : BitVec 4) : M Flow := do
  saveSettled
  beforeScaleWrite [] [tag.toNat]
  cancelScales [] [tag.toNat]
  modC (fun c => { c with tags := c.tags.set tag.toNat .empty })
  pure (.next none)

def execKunbind (tag : BitVec 4) (s : State) : Host.Outcome State Fault Refusal :=
  run (formKunbind tag) (kunbind tag) s

/-- KGEN (R247). -/
def kgen (r : RSpec) (ka : BitVec 4) : M Flow := do
  saveSettled
  let x ← readRind ka
  andNext (writeR r (.clean (x.gen.setWidth 64)))

def execKgen (r : RSpec) (ka : BitVec 4) (s : State) : Host.Outcome State Fault Refusal :=
  run (formKgen r ka) (kgen r ka) s

/-! ## The tensor table (R236 to R240) -/

/-- Dword `j` of an entry. -/
def ttDword (e : BitVec 256) (j : Nat) : Word := (e >>> (64 * j)).setWidth 64

/-- The fields of an entry (Table 10.2). -/
def ttCols (e : BitVec 256) : Nat := bitsAt (ttDword e 0) 63 44
def ttRows (e : BitVec 256) : Nat := bitsAt (ttDword e 0) 43 24
def ttText (e : BitVec 256) : Nat := bitsAt (ttDword e 0) 14 8
def ttValid (e : BitVec 256) : Bool := (ttDword e 0).getLsbD 7
def ttKax (e : BitVec 256) : Bool := (ttDword e 0).getLsbD 4
def ttFmt (e : BitVec 256) : Nat := bitsAt (ttDword e 0) 3 0
def ttDbase (e : BitVec 256) : Nat := bitsAt (ttDword e 1) 47 0
def ttSstride (e : BitVec 256) : Nat := bitsAt (ttDword e 2) 63 40
def ttRstride (e : BitVec 256) : Nat := bitsAt (ttDword e 2) 31 0
def ttSbase (e : BitVec 256) : Nat := bitsAt (ttDword e 3) 47 0

/-- The reserved bits of the four dwords read as zero (R7, R240). -/
def ttClean (e : BitVec 256) : BitVec 256 :=
  e &&& (BitVec.ofNat 256 (0xFFFFFFFFFF007F9F + 0x0000FFFFFFFFFFFF * 2 ^ 64 +
    0xFFFFFF00FFFFFFFF * 2 ^ 128 + 0x0000FFFFFFFFFFFF * 2 ^ 192))

/-- The bits of an element: 4 for CB4, 16 for the two 16-bit formats, else 8 (R237, Table 9.9). -/
def fmtBits (fmt : Nat) : Nat := if fmt = 2 then 4 else if fmt = 5 || fmt = 6 then 16 else 8

/-- Whether a format has scales (R57). -/
def fmtScaled (fmt : Nat) : Bool := decide (fmt ≤ 2)

/-- Whether TTSET refuses an entry (R238). -/
def ttBad (e : BitVec 256) : Bool :=
  let b := fmtBits (ttFmt e)
  ttValid e && (decide (6 < ttFmt e) || ttRows e == 0 || ttCols e == 0 || (!ttKax e && decide (63 < ttText e)) ||
    (b == 16 && (ttDbase e % 2 != 0 || ttRstride e % 2 != 0)))

/-- Entry `x` as the running activation reads it. A sampled original keeps a copy of each read; a check run reads the
copies kept for its original, each once, in their order (R245, R389). -/
def ttRead (x : Nat) : M (BitVec 256) := do
  let s ← get
  let a := s.core.cur.act
  match a.check with
  | none => pure (lookupD 0 s.core.tt x)
  | some u =>
    if a.isCheck then
      set { s with core := { s.core with checkTt := eraseFirst (fun q => q.1 == x) s.core.checkTt } }
      pure (lookupD 0 s.core.checkTt x)
    else
      let e := lookupD 0 s.core.tt x
      set { s with checks := updFirst (fun k => k.uid == u) (fun k => { k with tt := k.tt ++ [(x, e)] }) s.checks }
      pure e

/-- TTSET (R238, R240). -/
def ttset (a b : RSpec) : M Flow := do
  saveSettled
  let v ← readClean a
  let x := bitsAt v.bits 7 0
  let d0 ← readClean b
  let d1 ← readClean (nextReg b 1)
  let d2 ← readClean (nextReg b 2)
  let d3 ← readClean (nextReg b 3)
  let e : BitVec 256 := .ofNat 256
    (d0.bits.toNat + d1.bits.toNat * 2 ^ 64 + d2.bits.toNat * 2 ^ 128 + d3.bits.toNat * 2 ^ 192)
  faultIf (ttBad e) cPROT x
  modC (fun c => { c with tt := assocPut c.tt x (ttClean e) })
  pure (.next none)

def execTtset (a b : RSpec) (s : State) : Host.Outcome State Fault Refusal := run (formTtset a b) (ttset a b) s

/-- TTGET (R240): a table read is no read that R108 allows. -/
def ttget (d a : RSpec) : M Flow := do
  saveSettled
  let v ← readClean a
  uncheck
  let e := lookupD 0 (← getC).tt (bitsAt v.bits 7 0)
  writeRun d ((List.range 4).map (fun j => Val.clean (ttDword (ttClean e) j))) 0
  pure (.next none)

def execTtget (d a : RSpec) (s : State) : Host.Outcome State Fault Refusal := run (formTtget d a) (ttget d a) s

/-- TTINV (R240). -/
def ttinv (a : RSpec) : M Flow := do
  saveSettled
  let v ← readClean a
  let x := bitsAt v.bits 7 0
  modC (fun c => { c with tt := c.tt.map (fun (k, e) =>
    if k = x then (k, e &&& ~~~(BitVec.ofNat 256 128)) else (k, e)) })
  pure (.next none)

def execTtinv (a : RSpec) (s : State) : Host.Outcome State Fault Refusal := run (formTtinv a) (ttinv a) s

/-- Poison per 16-bit entry of a codebook from that of its bytes. -/
def cbPoison (bs : List (Byte × Bool)) : BitVec 16 :=
  .ofNat 16 (boolsNat ((chunks 2 16 bs).map (fun e => e.any (·.2))))

/-- The copy of a codebook in local memory that TCB makes when b is not `z` (R240, R245). -/
def codebookCopy (b : RSpec) (bs : List (Byte × Bool)) : M Unit := do
  if b = .z then return ()
  let w ← readClean b
  let la := w.bits.toNat % 2 ^ 17
  faultIf (la % 32 != 0) cALIGN la
  faultIf (!(← getC).scratch la 32) cBANK la
  faultIf (decide (la < 0x400)) cPROT la
  if !(← getC).selfpress then irrevocable
  storeHere la (bs.map (·.1)) (bs.map (·.2)) false

/-- TCB: the lane codebook is set before b is looked at, and stays so when b faults (R8, R240). -/
def tcb (a b : RSpec) : M Flow := do
  saveSettled
  let v ← readClean a
  let x := bitsAt v.bits 7 0
  let e ← ttRead x
  faultIf (!ttValid e || ttFmt e != 2) cPROT x
  let va := (ttSbase e + 2 ^ 48 - 32) % 2 ^ 48
  accessReady v.taint
  faultIf (va % 32 != 0) cALIGN va
  let pl ← locate va 32 .read a.bits
  watched va 32 true false
  let bs ← readNow pl 32 0 v.taint
  modC (fun c => { c with laneCb := .ofNat 256 (leNat (bs.map (·.1))), laneCbPois := cbPoison bs })
  standing (codebookCopy b bs)
  pure (.next none)

def execTcb (a b : RSpec) (s : State) : Host.Outcome State Fault Refusal := run (formTcb a b) (tcb a b) s

/-! ## Tiles (R237, R241 to R244) -/

/-- A tile: its entry and coordinates. -/
structure Tile where
  e : BitVec 256
  ti : Nat
  tj : Nat
  deriving DecidableEq, Repr

/-- E = TEXT + 1. -/
def Tile.ext (t : Tile) : Nat := ttText t.e + 1

/-- Local rows, elements a row, and row bytes (R237). -/
def Tile.nr (t : Tile) : Nat := if ttKax t.e then 32 else t.ext
def Tile.ne (t : Tile) : Nat := if ttKax t.e then t.ext else 32
def Tile.rb (t : Tile) : Nat := (t.ne * fmtBits (ttFmt t.e) + 7) / 8

/-- The tensor row of local row `i`, and the first tensor column. -/
def Tile.row (t : Tile) (i : Nat) : Nat := if ttKax t.e then 32 * t.ti + i else t.ti * t.ext + i
def Tile.col0 (t : Tile) : Nat := if ttKax t.e then t.tj * t.ext else 32 * t.tj

/-- How many elements of local row `i` lie within the tensor. -/
def Tile.inRow (t : Tile) (i : Nat) : Nat :=
  if t.row i < ttRows t.e then min t.ne (ttCols t.e - t.col0) else 0

/-- The address of the byte that holds element `c` of tensor row `r` (R237). -/
def Tile.elemAddr (t : Tile) (r c : Nat) : Nat :=
  (ttDbase t.e + r * ttRstride t.e + c * fmtBits (ttFmt t.e) / 8) % 2 ^ 48

/-- The first byte and the number of bytes of the part of local row `i` within the tensor. -/
def Tile.rowBytes (t : Tile) (i : Nat) : Nat × Nat :=
  let n := t.inRow i
  let b := fmtBits (ttFmt t.e)
  if n = 0 then (0, 0)
  else (t.elemAddr (t.row i) t.col0, ((t.col0 + n) * b + 7) / 8 - t.col0 * b / 8)

/-- The address of scale `n`, when its block lies within the tensor (R237, R242). -/
def Tile.scaleAddr (t : Tile) (n : Nat) : Option Nat :=
  if !fmtScaled (ttFmt t.e) || t.ext ≤ n then none
  else if ttKax t.e then
    if 32 * t.ti < ttRows t.e && t.tj * t.ext + n < ttCols t.e then
      some ((ttSbase t.e + t.ti * ttSstride t.e + t.tj * t.ext + n) % 2 ^ 48)
    else none
  else if t.ti * t.ext + n < ttRows t.e && 32 * t.tj < ttCols t.e then
    some ((ttSbase t.e + (t.ti * t.ext + n) * ttSstride t.e + t.tj) % 2 ^ 48)
  else none

/-- Whether a pair of rind registers and tags is concerned: TEXT = 127 (R242). -/
def Tile.wide (t : Tile) : Bool := ttText t.e == 127

/-- The runs of addresses that a tile's two streams reach: data rows, then the scales of the registers concerned. -/
def Tile.runs (t : Tile) : List (Nat × Nat) :=
  ((List.range t.nr).map t.rowBytes).filter (fun r => r.2 != 0) ++
    (List.range (if t.wide then 128 else 64)).filterMap (fun n => (t.scaleAddr n).map (fun a => (a, 1)))

/-- The 4 KiB pages of runs of addresses, each once, in the order reached. -/
def pagesOf : List (Nat × Nat) → List Nat → List Nat
  | [], seen => seen.reverse
  | (a, n) :: rs, seen =>
    pagesOf rs ((unitsOf 4096 a n).foldl (fun l p => if l.contains p then l else p :: l) seen)

/-- The operands of TLD and TST, with the checks they share (R242, R244): the tile and its local
address. -/
def tileOperands (a b : RSpec) : M (Tile × Nat × Bool) := do
  let v ← readClean a
  let p ← readClean b
  let q ← readClean (nextReg b 1)
  let x := bitsAt v.bits 7 0
  let e ← ttRead x
  faultIf (!ttValid e) cPROT x
  let t : Tile := { e := e, ti := bitsAt p.bits 19 0, tj := bitsAt p.bits 39 20 }
  let dst := q.bits.toNat % 2 ^ 17
  let n := t.nr * t.rb
  faultIf (dst % t.rb != 0) cALIGN dst
  faultIf (decide (dst < 0x400) || decide (0x20000 < dst + n)) cPROT dst
  faultIf (!(← getC).scratch dst n) cBANK dst
  pure (t, dst, v.taint || p.taint)

/-- Translates the pages of runs of addresses, with the faults of R242; local and cluster windows take PROT. -/
def runPages (spec : Nat) (k : Access) : List (Nat × Nat) → List (Nat × Xlat) → M (List (Nat × Xlat))
  | [], ps => pure ps
  | (va, n) :: rs, ps => do
    let want := (unitsOf 4096 va n).filter (fun p => !ps.any (fun q => q.1 == p))
    let new ← want.mapM (fun p => do
      let lo := max va (4096 * p)
      faultIf (!isGlobal lo) cPROT lo
      let x ← xlat lo (min (va + n) (4096 * (p + 1)) - lo) k spec
      pure (p, { x with pa := x.pa / 4096 * 4096 }))
    runPages spec k rs (ps ++ new)

/-- The pages of a tile's streams; what is watched takes WATCH once no page faults (R242, R406). -/
def tilePages (spec : Nat) (k : Access) (runs : List (Nat × Nat)) : M (List (Nat × Xlat)) := do
  let xs ← runPages spec k runs []
  for (va, n) in runs do watchedFor va n k
  pure xs

/-- The physical key of a virtual address under a list of pages, and whether its page is WB; none for a ZERO page. -/
def pageKey (pages : List (Nat × Option (Nat × Bool))) (va : Nat) : Option (Nat × Bool) :=
  match pages.find? (fun q => q.1 == va / 4096) with
  | some (_, some (key, wb)) => some (key + va % 4096, wb)
  | _ => none

/-- `n` bytes from a virtual address as a tile's streams read them at their homes, piece by piece. -/
def State.readVirtual (s : State) (want : LineUse) (core : Nat) (pages : List (Nat × Option (Nat × Bool))) (own : List StoreOp) (va n : Nat) :
    List (Byte × Bool) × State :=
  (unitsOf 4096 va n).foldl (fun (acc, s) p =>
    let lo := max va (4096 * p)
    let m := min (va + n) (4096 * (p + 1)) - lo
    match pageKey pages lo with
    | none => (acc ++ List.replicate m (0, false), s)
    | some (key, wb) =>
      let mine := own.filter (fun o => o.touches (.phys key) m)
      let (bs, s) := s.readFor (if wb then want else .bypass) core (.phys key) m false mine
      (acc ++ bs, s)) (([] : List (Byte × Bool)), s)

/-- Bytes as elements of 4, 8 or 16 bits with the poison of their bytes. -/
def elemsOf (b : Nat) (bs : List (Byte × Bool)) : List Lane :=
  if b = 4 then bs.flatMap (fun (x, p) => [(x.toNat % 16, p), (x.toNat / 16, p)])
  else (chunks (b / 8) bs.length bs).map (fun e => (leNat (e.map (·.1)), e.any (·.2)))

/-- Elements of 4, 8 or 16 bits as bytes. -/
def bytesOf (b : Nat) (l : List Lane) : List (Byte × Bool) :=
  if b = 4 then (chunks 2 l.length l).map (fun e =>
    (BitVec.ofNat 8 ((e.getD 0 (0, false)).1 % 16 + 16 * ((e.getD 1 (0, false)).1 % 16)), e.any (·.2)))
  else l.flatMap (fun (x, p) => (natLE (b / 8) x).map (fun y => (y, p)))

/-- One local row of a tile as TLD lands it: elements outside the tensor are zero bits (R237, R242). -/
def State.tileRow (s : State) (core : Nat) (t : Tile) (pages : List (Nat × Option (Nat × Bool))) (own : List StoreOp) (i : Nat) :
    List (Byte × Bool) × State :=
  let b := fmtBits (ttFmt t.e)
  let (va, n) := t.rowBytes i
  let (bs, s) := s.readVirtual .stream core pages own va n
  let skip := t.col0 * b % 8 / b
  let got := ((elemsOf b bs).drop skip).take (t.inRow i)
  let pad := if b = 4 && t.ne % 2 = 1 then 1 else 0
  (bytesOf b (got ++ List.replicate (t.ne - got.length + pad) (0, false)), s)

/-- The scales of a tile from number `from` on, 64 of them: 127 where R242 says so. -/
def State.tileScales (s : State) (core : Nat) (t : Tile) (pages : List (Nat × Option (Nat × Bool))) (own : List StoreOp)
    (first : Nat) : List Lane × State :=
  (List.range 64).foldl (fun (acc, s) j =>
    match t.scaleAddr (first + j) with
    | none => (acc ++ [(127, false)], s)
    | some va =>
      let (bs, s) := s.readVirtual .normal core pages own va 1
      (acc ++ bs.map (fun (x, p) => (x.toNat, p)), s)) (([] : List Lane), s)

/-- Local bytes as the press and split loads write them: into a check run's private image where it
reaches, else into local memory (R438). -/
def Core.pressPut (c : Core) (la : Nat) (bs : List (Byte × Bool)) : Core :=
  let put (c : Core) (la : Nat) (bs : List (Byte × Bool)) : Core :=
    if c.imageGr.contains (la / 64) then
      { c with
        image := c.image.setBytes la (bs.map (·.1))
        imagePois := writePoison 8 c.imagePois la (bs.map (·.2)) }
    else
      { c with
        lm := c.lm.setBytes la (bs.map (·.1))
        lmPoison := writePoison 8 c.lmPoison la (bs.map (·.2)) }
  if c.imageGr.isEmpty then put c la bs
  else (unitsOf 64 la bs.length).foldl (fun c g =>
    let lo := max la (64 * g)
    let n := min (la + bs.length) (64 * g + 64) - lo
    put c lo ((bs.drop (lo - la)).take n)) c

/-- Bytes that a TLD of activation `act` lands in a core: in the private image only for the check run whose it is (R438). -/
def Core.tilePut (c : Core) (act la : Nat) (bs : List (Byte × Bool)) : Core :=
  if c.allActs.any (fun a => a.uid == act && a.isCheck) then c.pressPut la bs
  else
    { c with
      lm := c.lm.setBytes la (bs.map (·.1))
      lmPoison := writePoison 8 c.lmPoison la (bs.map (·.2)) }

/-- A TLD's streams are read at their homes, with what its core has still to send there, and its data lands in local memory,
row after row; the scales wait in its slot (R155, R242, R243). -/
def State.serveTile (s : State) (r : Req) (t : Tile) (dst : BitVec 17) (pages : List (Nat × Option (Nat × Bool))) : State :=
  let own := (s.coreOf r.core).unsent r.act r.uid
  let (rows, s) := (List.range t.nr).foldl (fun (acc, s) i =>
    let (bs, s) := s.tileRow r.core t pages own i
    (acc ++ bs, s)) (([] : List (Byte × Bool)), s)
  let s := s.modCore r.core (fun c => c.tilePut r.act dst.toNat rows)
  let (l0, s) := s.tileScales r.core t pages own 0
  let (l1, s) := s.tileScales r.core t pages own 64
  let (s0, p0) := packScales l0
  let (s1, p1) := packScales l1
  s.serve r.core r.uid (.scales dst s0 p0 s1 p1)

/-- TLD (R242, R243, R245). -/
def tld (kd tag : BitVec 4) (a b : RSpec) (l : BitVec 4) : M Flow := do
  takeSlot l.toNat
  saveSettled
  let (t, dst, taint) ← tileOperands a b
  faultIf (t.wide && (kd.getLsbD 0 || tag.getLsbD 0)) cPROT (kd.toNat * 16 + tag.toNat)
  accessReady taint
  let xs ← tilePages a.bits .read t.runs
  for (_, x) in xs do globalRead x
  let ks := if t.wide then [kd.toNat, kd.toNat + 1] else [kd.toNat]
  let ts := if t.wide then [tag.toNat, tag.toNat + 1] else [tag.toNat]
  beforeScaleWrite ks ts
  let c ← getC
  if !(c.selfpress && c.cur.act.ownsLocal dst (t.nr * t.rb)) then irrevocable
  let s ← get
  let pages := xs.map (fun (p, x) => (p, if leafZero x.leaf then none else some (s.keyHere x.pa, leafPol x.leaf == 0)))
  request (.tld kd tag t.wide) l.toNat .stream (.tile t.e t.ti t.tj (.ofNat 17 dst) pages)
    (fun sl => { sl with load := true })

def execTld (kd tag : BitVec 4) (a b : RSpec) (l : BitVec 4) (s : State) : Host.Outcome State Fault Refusal :=
  run (formTld kd tag a b l) (tld kd tag a b l) s

/-! ## TST (R244) -/

/-- A store of a tile's bytes, or of one half of one, to a translated address; all of one TST count as one instruction. -/
def tilePiece (seq : Nat) (xs : List (Nat × Xlat)) (nib : Option Bool) (va : Nat) (bs : List (Byte × Bool)) : M Unit := do
  for p in unitsOf 4096 va bs.length do
    let lo := max va (4096 * p)
    let piece := (bs.drop (lo - va)).take (min (va + bs.length) (4096 * (p + 1)) - lo)
    match xs.find? (fun q => q.1 == p) with
    | none => pure ()
    | some (_, x) =>
      let s ← get
      let x := { x with pa := x.pa + lo % 4096 }
      let o : StoreOp := {
        tgt := .phys (s.keyHere x.pa), bytes := piece.map (·.1), pois := piece.map (·.2), full := false
        cls := s.storeClass x, writer := s.core.id, act := s.core.cur.act.uid, seq := seq
        use := x.use .normal, combines := leafPol x.leaf == 1, after := s.core.cur.act.fence, nib := nib }
      bufferStore o

/-- Whether a tile's row `i` of 4-bit elements begins with the high half of a byte, and whether it ends with a low one. -/
def Tile.edges (t : Tile) (i : Nat) : Bool × Bool :=
  let head := t.col0 % 2
  if fmtBits (ttFmt t.e) = 4 then (head == 1, (head + t.inRow i) % 2 == 1) else (false, false)

/-- The bytes that TST writes for local row `i`; a half byte at its edge that it does not write is 0 here. -/
def tileRowOut (t : Tile) (dst i : Nat) : M (List (Byte × Bool)) := do
  let b := fmtBits (ttFmt t.e)
  let bs ← readHere (dst + i * t.rb) t.rb
  let es := (elemsOf b bs).take (t.inRow i)
  let half (x : Bool) : List Lane := if x then [(0, false)] else []
  let (head, tail) := t.edges i
  pure (bytesOf b (half head ++ es ++ half tail))

/-- A tile's run of bytes is stored, the first and the last perhaps by one half, the high and the low (R244). -/
def tileStore (seq : Nat) (xs : List (Nat × Xlat)) (edges : Bool × Bool) (va : Nat) (bs : List (Byte × Bool)) : M Unit := do
  poisonedOutput (bs.any (·.2))
  digestStore va (bs.map (·.1))
  let h := if edges.1 then 1 else 0
  let e := bs.length - (if edges.2 then 1 else 0)
  if edges.1 then tilePiece seq xs (some true) va (bs.take 1)
  if h < e then tilePiece seq xs none (va + h) ((bs.take e).drop h)
  if edges.2 then tilePiece seq xs (some false) (va + e) (bs.drop e)

/-- Joins scales that lie at consecutive addresses into runs. -/
def scaleRuns : List (Nat × Lane) → List (Nat × List Lane)
  | [] => []
  | (a, l) :: rest => match scaleRuns rest with
    | [] => [(a, [l])]
    | (b, ls) :: more => if a + 1 = b then (a, l :: ls) :: more else (a, [l]) :: (b, ls) :: more

/-- TST (R244, R245). R244 names kd+1 for E = 128 alone, so that of a tile with more than 64 scales and E less than 128 the
scales beyond kd's 64 are not written: the model's reading (log entry 88). -/
def tst (kd : BitVec 4) (a b : RSpec) : M Flow := do
  saveSettled
  let (t, dst, taint) ← tileOperands a b
  let pair := t.ext == 128
  faultIf (pair && kd.getLsbD 0) cPROT (kd.toNat * 16)
  accessReady taint
  let k0 := (← readRind kd).list
  let k1 ← (if pair then do pure (← readRind (kd + 1)).list else pure [] : M (List Lane))
  let xs ← tilePages a.bits .write t.runs
  let seq ← stateOf State.takeUid
  for i in List.range t.nr do
    let (va, n) := t.rowBytes i
    if n != 0 then tileStore seq xs (t.edges i) va (← tileRowOut t dst i)
  let scales := (k0 ++ k1).zipIdx.filterMap (fun (l, n) => (t.scaleAddr n).map (fun va => (va, l)))
  for (va, ls) in scaleRuns scales do
    tileStore seq xs (false, false) va (ls.map (fun (x, p) => (BitVec.ofNat 8 x, p)))
  pure (.next none)

def execTst (kd : BitVec 4) (a b : RSpec) (s : State) : Host.Outcome State Fault Refusal :=
  run (formTst kd a b) (tst kd a b) s

/-! ## KMEM (R248, R249) -/

/-- The places of the `n` bytes a KMEM member reaches, in pieces of at most 256 bytes, with the faults
and waits of LD and ST; and whether the address is tainted (R136, R248). -/
def kmemPlaces (r : RSpec) (unit n : Nat) (k : Access) : M (List (Place × Nat × Nat) × Bool) := do
  saveSettled
  let v ← readClean r
  let va := addr48 v.bits
  accessReady v.taint
  faultIf (va % unit != 0) cALIGN va
  let ps ← (List.range ((n + 255) / 256)).mapM (fun j => do
    let a := (va + 256 * j) % 2 ^ 48
    let m := min 256 (n - 256 * j)
    let pl ← locate a m k r.bits
    pure (pl, a, m))
  for (_, a, m) in ps do watchedFor a m k
  pure (ps, v.taint)

/-- Reads the pieces of a KMEM member. -/
def kmemRead (ps : List (Place × Nat × Nat)) (taint : Bool) : M (List (Byte × Bool)) := do
  return (← ps.mapM (fun (pl, _, m) => readNow pl m 0 taint)).flatten

/-- Stores the pieces of a KMEM member. -/
def kmemWrite (ps : List (Place × Nat × Nat)) (bs : List (Byte × Bool)) : M Unit := do
  let seq ← stateOf State.takeUid
  for ((pl, a, m), j) in ps.zipIdx do
    let piece := (bs.drop (256 * j)).take m
    storePart seq pl .normal a (piece.map (·.1)) (piece.map (·.2)) false

/-- Bytes as 64 scales with poison. -/
def scalesOf (bs : List (Byte × Bool)) : List Lane := bs.map (fun (x, p) => (x.toNat, p))

/-- KLD (Table 10.6). -/
def kld (kd : BitVec 4) (r : RSpec) : M Flow := do
  let (ps, taint) ← kmemPlaces r 64 64 .read
  let bs ← kmemRead ps taint
  beforeScaleWrite [kd.toNat] []
  andNext (writeRindM kd (scalesOf bs))

def execKld (kd : BitVec 4) (r : RSpec) (s : State) : Host.Outcome State Fault Refusal := run (formKld kd r) (kld kd r) s

/-- KST (Table 10.6). -/
def kst (ka : BitVec 4) (r : RSpec) : M Flow := do
  let (ps, _) ← kmemPlaces r 64 64 .write
  let l := (← readRind ka).list
  andNext (kmemWrite ps (l.map (fun x => (BitVec.ofNat 8 x.1, x.2))))

def execKst (ka : BitVec 4) (r : RSpec) (s : State) : Host.Outcome State Fault Refusal := run (formKst ka r) (kst ka r) s

/-- A binding tag as a dword (R235). -/
def Tag.dword (t : Tag) : Word :=
  .ofNat 64 ((if t.valid then 2 ^ 63 else 0) + t.reg.toNat * 2 ^ 48 + t.gen.toNat * 2 ^ 32 + t.addr.toNat)

/-- A binding tag from its dword (R231). -/
def tagOfDword (w : Word) : Tag :=
  { valid := w.getLsbD 63, reg := .ofNat 4 (bitsAt w 51 48), gen := .ofNat 16 (bitsAt w 47 32), addr := w.setWidth 17 }

/-- The 1,184 bytes of rind registers, generations and tags (R249, Table 9.12). -/
def Core.rindArea (c : Core) : List (Byte × Bool) :=
  (List.range 16).flatMap (fun k => ((c.rind.getD k .load).list).map (fun (x, p) => (BitVec.ofNat 8 x, p))) ++
    (List.range 16).flatMap (fun k => (natLE 2 (c.rind.getD k .load).gen.toNat).map (fun x => (x, false))) ++
    (List.range 16).flatMap (fun t => (dwordBytes (c.tags.getD t .empty).dword).map (fun x => (x, false)))

/-- KSAVE (R249). It is a store of 1,184 bytes; what TLDs bring whose windows have ended is awaited. -/
def ksave (r : RSpec) : M Flow := do
  let (ps, _) ← kmemPlaces r 256 1184 .write
  for k in List.range 16 do
    needsShared (Dest.isRind k)
    needsShared (Dest.isTag k)
  andNext (kmemWrite ps (← getC).rindArea)

def execKsave (r : RSpec) (s : State) : Host.Outcome State Fault Refusal := run (formKsave r) (ksave r) s

/-- KRESTORE (R249): registers only; generations rise and tags stay. -/
def krestore (r : RSpec) : M Flow := do
  let (ps, taint) ← kmemPlaces r 256 1184 .read
  let bs ← kmemRead ps taint
  beforeScaleWrite (List.range 16) []
  for k in List.range 16 do writeRindM (.ofNat 4 k) (scalesOf ((bs.drop (64 * k)).take 64))
  pure (.next none)

def execKrestore (r : RSpec) (s : State) : Host.Outcome State Fault Refusal :=
  run (formKrestore r) (krestore r) s

end Sys2Proof.Machine
end

