-- ==== Sys2Proof/Machine/Press.lean ====
section
/-! DEFINITION. The press (R204 to R232): the sequencer with its checks, every command, PSTATUS and its
actions, the major PCTL and PCMD, and the ramp limiter (R219, R414). -/

namespace Sys2Proof.Machine

/-! ## PSTATUS and queue upkeep (R207, R210, R212) -/

/-- PSTATUS (Table 9.3). -/
def Press.status (p : Press) : Word :=
  let b (x : Bool) (k : Nat) : Nat := if x then 2 ^ k else 0
  .ofNat 64 (p.mark.toNat * 2 ^ 48 + p.pend * 2 ^ 43 + p.head.toNat * 2 ^ 39 + p.tail.toNat * 2 ^ 35 +
    p.scode.toNat * 2 ^ 31 + b p.stop 30 + b p.pair 5 + b p.shadow.valid 4 + b p.active.valid 3 +
    b p.integer 2 + b p.narrow 1 + b p.ov 0)

/-- The press stops at slot `k` with a stop code (R211). -/
def Press.stopAt (p : Press) (k code : Nat) : Press :=
  { p with
    slots := modifyAt (fun sl => { sl with st := .stopped }) p.slots k
    stop := true, scode := .ofNat 4 code, faultTaken := false }

/-! ## NEXT (R210) -/

/-- The slots from HEAD on, in ring order. -/
def Press.ring (p : Press) : List Nat := (List.range 16).map (fun j => (p.head.toNat + j) % 16)

/-- NEXT: the oldest PENDING slot. -/
def Press.next (p : Press) : Option Nat := p.ring.find? (fun k => p.stAt k == .pending)

/-- The slots that run. -/
def Press.running (p : Press) : List Nat := p.ring.filter (fun k => p.stAt k == .running)

/-- Whether the commands that run let the one at `k` start: none, or a STREAM just before a LOADW. -/
def Core.mayFollow (c : Core) (k : Nat) : Bool :=
  match c.press.running with
  | [] => true
  | [r] => (r + 1) % 16 == k && cmdOp (c.cmdWord k) == 0x01 &&
      (cmdOp (c.cmdWord r) == 0x03 || cmdOp (c.cmdWord r) == 0x04)
  | _ => false

/-- Whether an LDV that issued before the push of slot `k` has still to write a row the command touches
(R213). -/
def Core.rowsOwed (c : Core) (k : Nat) : Bool :=
  let d0 := c.cmdWord k
  let seq := (c.press.slots.getD k .empty).seq
  let owed (sl : Slot) : Bool :=
    !sl.cancelled && decide (sl.uid < seq) && (match sl.dest with
      | .row v => cmdTouches d0 v.toNat
      | .reg _ | .tld _ _ _ => false)
  c.threads.any (fun t => t.slots.any owed)

/-- The ramp counts of a cluster. -/
def State.ramp (s : State) (cl : Nat) : Ramp :=
  (s.ramps.find? (fun r => r.cluster == cl)).getD { cluster := cl, now := 0, prev := 0 }

/-- Puts the ramp counts of a cluster. -/
def State.putRamp (s : State) (r : Ramp) : State :=
  { s with ramps := if s.ramps.any (fun x => x.cluster == r.cluster)
      then updFirst (fun x => x.cluster == r.cluster) (fun _ => r) s.ramps else s.ramps ++ [r] }

/-- A limit of the ramp limiter: bits [15:0], none for 0 (R219). -/
def rampLimit (w : Word) : Option Nat := if bitsAt w 15 0 = 0 then none else some (bitsAt w 15 0)

/-- Whether the ramp limiter and the power cap let a command start (R219, R414). -/
def State.rampFree (s : State) : Bool :=
  let cl := clusterOf s.core.id
  let r := s.ramp cl
  !s.powerHeld.has cl && (match rampLimit (s.part ((s.partOfCluster cl).getD 0)).rampUp with
    | none => true
    | some n => decide (r.now + 1 ≤ r.prev + n))

/-- The slot that can start now on the core in focus (R210, R213, R218, R219). -/
def State.pressReady (s : State) : Option Nat :=
  let c := s.core
  match c.press.next with
  | none => none
  | some k =>
    if c.press.stop || c.frozen || c.press.filler || !c.mayFollow k || c.rowsOwed k || !s.rampFree then none
    else some k

/-! ## The local memory of the press (R214, R438) -/

/-- A read of the press finds what is armed in local memory. -/
def State.pressMeet (s : State) (la n : Nat) : State :=
  if s.armed.isEmpty then s
  else (unitsOf 8 la n).foldl (fun s u =>
    if s.core.imageGr.contains (u / 8) then s else s.meetDword s.core.id u) s

/-- The tile rows that a command reads: those that it accumulates into, drains or saves (Table 9.1). -/
def tileReads : PressCmd → List Nat
  | .stream _ _ _ acc r m _ _ | .streamt _ _ _ acc r m _ _ =>
    if acc then (List.range m.toNat).map (r.toNat + ·) else []
  | .tdrain _ _ r m _ _ _ => (List.range m.toNat).map (r.toNat + ·)
  | .psave _ => List.range 64
  | .loadw _ _ _ _ _ _ | .flip | .tload _ _ _ _ _ | .tloadt _ _ _ _ _ | .tzero _ _ | .pmode _ _ | .ptable _ _ | .pmark _
  | .prestore _ => []

/-- Local bytes with their dwords' poison, as the press reads them. -/
def Core.pressRead (c : Core) (la n : Nat) : List (Byte × Bool) :=
  (List.range n).map (fun j => ((c.pressMem (la + j)).get (la + j), (c.pressPois (la + j)).has ((la + j) / 8)))

/-- The elements of `b` bits of `n` bytes. -/
def Core.pressElems (c : Core) (b la n : Nat) : List Lane := elemsOf b (c.pressRead la n)

/-- Whether a dword of a slot carries poison. -/
def Core.slotPoison (c : Core) (k : Nat) : Bool :=
  (List.range 8).any (fun j => (c.pressPois (64 * k)).has (8 * k + j))

/-! ## Limits of commands (R220, R221) -/

/-- Whether an input format is of the integer class, the 16-bit class, or 8-bit float (Table 9.9). -/
def fmtInt (f : Nat) : Bool := f == 3 || f == 4
def fmtWide (f : Nat) : Bool := f == 5 || f == 6

/-- The class of an input format: 0 for 8-bit float, 1 integer, 2 16-bit. -/
def fmtClass (f : Nat) : Nat := if fmtInt f then 1 else if fmtWide f then 2 else 0

/-- Whether a mode allows an input format (R221). -/
def fmtAllowed (narrow integer : Bool) (f : Nat) : Bool :=
  decide (f ≤ 6) && fmtInt f == integer && !(fmtWide f && narrow)

/-- Columns, bytes of a weight row, bytes of an activation row (R222, Table 9.9). -/
def weightBytes (n f : Nat) : Nat := n * fmtBits f / 8
def actBytes (f : Nat) : Nat := 32 * fmtBits f / 8

/-- The element bits of a TLOAD source (Table 9.10), and whether the mode allows it. -/
def tloadBits (narrow : Bool) (f : Nat) : Nat :=
  if f = 0 then (if narrow then 16 else 32) else if f = 4 then 8 else 16
def tloadAllowed (narrow integer : Bool) (f : Nat) : Bool :=
  match f with
  | 0 => true
  | 1 | 2 => !narrow && !integer
  | 3 => !narrow && integer
  | 4 => integer
  | _ => false

/-- The element bits of a TDRAIN output (Table 9.11), and whether the mode allows it. -/
def tdrainBits (narrow : Bool) (f : Nat) : Nat :=
  match f with
  | 0 => if narrow then 16 else 32
  | 3 | 4 | 5 => 8
  | _ => 16
def tdrainAllowed (narrow integer : Bool) (f : Nat) : Bool :=
  match f with
  | 0 => true
  | 1 => !narrow && !integer
  | 2 | 3 | 4 => !integer
  | 5 => integer
  | 6 => integer && !narrow
  | _ => false

/-- The bytes of the press save area (R231). -/
def saveBytes : Nat := 26112

/-- The runs of local bytes that a command touches. -/
def cmdSpans (narrow : Bool) : PressCmd → List (Nat × Nat)
  | .loadw f _ _ _ a st => spread 32 a.toNat st.toNat (weightBytes (if narrow then 128 else 64) f.toNat)
  | .stream f _ _ _ _ m a st => spread m.toNat a.toNat st.toNat (actBytes f.toNat)
  | .streamt f _ _ _ _ m a st => spread 32 a.toNat st.toNat ((m.toNat * fmtBits f.toNat + 7) / 8)
  | .tload f _ m a st =>
    spread m.toNat a.toNat st.toNat ((if narrow then 128 else 64) * tloadBits narrow f.toNat / 8)
  | .tloadt f _ m a st => spread 64 a.toNat st.toNat (m.toNat * tloadBits narrow f.toNat / 8)
  | .tdrain f _ _ m a st a2 =>
    spread m.toNat a.toNat st.toNat ((if narrow then 128 else 64) * tdrainBits narrow f.toNat / 8) ++
      (if a2 = 0 then [] else [(a2.toNat, m.toNat * (if narrow then 4 else 2))])
  | .ptable a a2 => [(a.toNat, 32), (a2.toNat, 32)]
  | .psave a | .prestore a => [(a.toNat, saveBytes)]
  | .flip | .tzero _ _ | .pmode _ _ | .pmark _ => []
where
  /-- `n` rows of `len` bytes, `st` bytes apart. -/
  spread (n a st len : Nat) : List (Nat × Nat) := (List.range n).map (fun i => (a + i * st, len))

/-- Whether a command's mode and formats are refused (SCODE 3). -/
def Press.badFormat (p : Press) (sl : PSlot) : PressCmd → Bool
  | .loadw f _ _ tv _ _ =>
    !fmtAllowed p.narrow p.integer f.toNat ||
      (tv && p.narrow && sl.tag.valid && sl.tagh.valid &&
        (sl.tag.reg.getLsbD 0 || sl.tagh.reg != sl.tag.reg + 1 || sl.tagh.addr != sl.tag.addr))
  | .stream f _ _ _ _ _ _ _ | .streamt f _ _ _ _ _ _ _ =>
    !fmtAllowed p.narrow p.integer f.toNat ||
      (p.active.valid && fmtClass p.active.fmt.toNat != fmtClass f.toNat)
  | .tload f _ _ _ _ => !tloadAllowed p.narrow p.integer f.toNat
  | .tloadt f _ _ _ _ => p.narrow || !tloadAllowed p.narrow p.integer f.toNat
  | .tdrain f _ _ _ _ _ a2 =>
    !tdrainAllowed p.narrow p.integer f.toNat || (a2 != 0 && !(f == 3 || f == 4))
  | .flip | .tzero _ _ | .pmode _ _ | .ptable _ _ | .pmark _ | .psave _ | .prestore _ => false

/-- Whether a row count and its tile rows are refused. -/
def badRows (row0 m : Nat) : Bool := m == 0 || decide (64 < m) || decide (64 < row0 + m)

/-- Whether rows of `len` bytes are not aligned to their own length (R220). -/
def badRowAlign (a st len : Nat) : Bool := len != 0 && (a % len != 0 || st % len != 0)

/-- Whether columns of `len` bytes do not lie within 256 bytes of each other's start (R224, R226). -/
def badColumns (a st len : Nat) : Bool := st % 256 != 0 || decide (256 < a % 256 + len)

/-- Whether a command's counts, rows, addresses or strides are refused (SCODE 4). -/
def badCounts (narrow : Bool) (cmd : PressCmd) : Bool :=
  let n := if narrow then 128 else 64
  (match cmd with
    | .loadw f _ _ _ a st => badRowAlign a.toNat st.toNat (weightBytes n f.toNat)
    | .stream f _ _ _ r m a st =>
      badRows r.toNat m.toNat || (fmtWide f.toNat && decide (16 < m.toNat)) ||
        badRowAlign a.toNat st.toNat (actBytes f.toNat)
    | .streamt f _ _ _ r m a st =>
      badRows r.toNat m.toNat || (fmtWide f.toNat && decide (16 < m.toNat)) ||
        badColumns a.toNat st.toNat ((m.toNat * fmtBits f.toNat + 7) / 8)
    | .tload f r m a st => badRows r.toNat m.toNat || badRowAlign a.toNat st.toNat (n * tloadBits narrow f.toNat / 8)
    | .tloadt f r m a st =>
      badRows r.toNat m.toNat || badColumns a.toNat st.toNat (m.toNat * tloadBits narrow f.toNat / 8)
    | .tdrain f _ r m a st _ =>
      badRows r.toNat m.toNat || badRowAlign a.toNat st.toNat (n * tdrainBits narrow f.toNat / 8)
    | .tzero r m => badRows r.toNat m.toNat
    | .ptable a a2 => a.toNat % 32 != 0 || a2.toNat % 32 != 0
    | .psave a | .prestore a => a.toNat % 256 != 0
    | .flip | .pmode _ _ | .pmark _ => false) ||
  (cmdSpans narrow cmd).any (fun (a, len) => decide (0x20000 < a + len))

/-- Whether a command touches the queue window or a bank that is not scratch (SCODE 5). -/
def Core.badPlaces (c : Core) (cmd : PressCmd) : Bool :=
  (cmdSpans c.press.narrow cmd).any (fun (a, len) => len != 0 && (decide (a < 0x400) || !c.scratch a len))

/-- Whether a recorded tag fails its check (R215). -/
def Core.badTag (c : Core) (t : Tag) (addr : BitVec 17) : Bool :=
  !t.valid || t.addr != addr || t.gen != (c.rind.getD t.reg.toNat .load).gen

/-- Whether a command's tags fail (SCODE 8). -/
def Core.badTags (c : Core) (sl : PSlot) : PressCmd → Bool
  | .loadw _ _ _ tv a _ => tv && (c.badTag sl.tag a || (c.press.narrow && c.badTag sl.tagh a))
  | .stream _ _ tv _ _ _ a _ | .streamt _ _ tv _ _ _ a _ => tv && c.badTag sl.tag a
  | .flip | .tload _ _ _ _ _ | .tloadt _ _ _ _ _ | .tdrain _ _ _ _ _ _ _ | .tzero _ _ | .pmode _ _ | .ptable _ _
  | .pmark _ | .psave _ | .prestore _ => false

/-- Whether a command streams with the active plane empty (SCODE 6). -/
def Press.noPlane (p : Press) : PressCmd → Bool
  | .stream _ _ _ _ _ _ _ _ | .streamt _ _ _ _ _ _ _ _ => !p.active.valid
  | .loadw _ _ _ _ _ _ | .flip | .tload _ _ _ _ _ | .tloadt _ _ _ _ _ | .tdrain _ _ _ _ _ _ _ | .tzero _ _
  | .pmode _ _ | .ptable _ _ | .pmark _ | .psave _ | .prestore _ => false

/-! ## The save area (R231, Table 9.12) -/

/-- Poison per byte from poison per element of `b` bits, over the bytes of a row. -/
def elemPoisBytes (b : Nat) (pois : List Bool) : List Bool :=
  if b = 4 then (chunks 2 pois.length pois).map (fun e => e.any id) else pois.flatMap (List.replicate (b / 8))

/-- A plane's weight rows as bytes, each padded to 128. -/
def Plane.bytes (pl : Plane) : List (Byte × Bool) :=
  (List.range 32).flatMap (fun k =>
    let ps := elemPoisBytes (fmtBits pl.fmt.toNat) (natBools 128 (pl.pois.getD k 0).toNat)
    (natLE 128 (pl.rows.getD k 0).toNat).zip ((ps ++ List.replicate 128 false).take 128))

/-- A plane's scale block. -/
def Plane.scaleBytes (pl : Plane) : List (Byte × Bool) :=
  (natLE 128 pl.scales.toNat).zip (natBools 128 pl.scalePois.toNat)

/-- A codebook's bytes. -/
def cbBytes (cb : BitVec 256) (pois : BitVec 16) : List (Byte × Bool) :=
  (natLE 32 cb.toNat).zip ((natBools 16 pois.toNat).flatMap (fun p => [p, p]))

/-- The flags of the area. -/
def Press.saveFlags (p : Press) : List Byte :=
  let b (x : Bool) (k : Nat) : Nat := if x then 2 ^ k else 0
  natLE 2 (b p.narrow 0 + b p.integer 1 + b p.active.valid 2 + b p.shadow.valid 3 + b p.pair 4 + b p.ov 5 +
    p.active.fmt.toNat * 2 ^ 8 + p.shadow.fmt.toNat * 2 ^ 12) ++ List.replicate 30 0

/-- The 26,112 bytes that PSAVE writes. -/
def Core.saveArea (c : Core) : List (Byte × Bool) :=
  let p := c.press
  p.tile.flatMap (fun r => r.bytes.zip r.bytePois) ++ p.active.bytes ++ p.shadow.bytes ++ p.active.scaleBytes ++
    p.shadow.scaleBytes ++ c.rindArea ++ cbBytes p.ca p.caPois ++ cbBytes p.cw p.cwPois ++
    p.saveFlags.map (fun x => (x, false))

/-- A piece of the area. -/
def piece (area : List (Byte × Bool)) (off n : Nat) : List (Byte × Bool) := (area.drop off).take n

/-- A plane from its blocks of the area. -/
def planeOf (valid narrow : Bool) (fmt : Nat) (ws ss : List (Byte × Bool)) : Plane :=
  if !valid then .empty
  else
    let n := if narrow then 128 else 64
    let rows := (List.range 32).map (fun k => (ws.drop (128 * k)).take (weightBytes n fmt))
    let ss := ss.take n
    { valid := true, fmt := .ofNat 4 fmt
      rows := rows.map (fun r => .ofNat 1024 (leNat (r.map (·.1))))
      pois := rows.map (fun r => .ofNat 128 (boolsNat ((elemsOf (fmtBits fmt) r).map (·.2))))
      scales := .ofNat 1024 (leNat (ss.map (·.1)))
      scalePois := .ofNat 128 (boolsNat (ss.map (·.2))) }

/-- Whether a valid plane's blocks are refused: a format that the saved mode forbids, or padding that is
not zero. The blocks of a plane that is not marked valid are ignored, which R231 leaves open (log entry 99). -/
def badPlane (valid narrow integer : Bool) (fmt : Nat) (ws ss : List (Byte × Bool)) : Bool :=
  valid &&
    (let n := if narrow then 128 else 64
     !fmtAllowed narrow integer fmt || (ss.drop n).any (fun b => b.1 != 0) ||
      (List.range 32).any (fun k =>
        (((ws.drop (128 * k)).take 128).drop (weightBytes n fmt)).any (fun b => b.1 != 0)))

/-- The flags of a saved area, as a number of 16 bits. -/
def areaFlags (area : List (Byte × Bool)) : Nat := leNat ((piece area 0x65E0 2).map (·.1))

/-- Whether PRESTORE refuses an area (SCODE 7). -/
def badArea (area : List (Byte × Bool)) : Bool :=
  let f := areaFlags area
  let bit (k : Nat) : Bool := f / 2 ^ k % 2 == 1
  let tags := (List.range 16).map (fun t => BitVec.ofNat 64 (leNat ((piece area (0x6520 + 8 * t) 8).map (·.1))))
  bit 6 || bit 7 || (piece area 0x65E2 30).any (fun b => b.1 != 0) ||
    tags.any (fun w => bitsAt w 62 52 != 0 || bitsAt w 31 17 != 0) ||
    badPlane (bit 2) (bit 0) (bit 1) (f / 2 ^ 8 % 16) (piece area 0x4000 4096) (piece area 0x6000 128) ||
    badPlane (bit 3) (bit 0) (bit 1) (f / 2 ^ 12 % 16) (piece area 0x5000 4096) (piece area 0x6080 128) ||
    (area.drop 0x6100).any (·.2)

/-! ## Checks at start (R211) -/

/-- The stop code that a command takes at its start, 0 for none; codes 9, 1 and 2 come before. -/
def Core.stopCode (c : Core) (sl : PSlot) (cmd : PressCmd) : Nat :=
  if c.press.badFormat sl cmd then 3
  else if badCounts c.press.narrow cmd then 4
  else if c.badPlaces cmd then 5
  else if c.press.noPlane cmd then 6
  else if c.badTags sl cmd then 8
  else 0

/-- Whether a check run occupies the core. -/
def Core.checking (c : Core) : Bool := c.cur.act.isCheck || (c.susp.map (·.act.isCheck)).getD false

/-- A command starts: its slot runs, and the start is counted and traced (R210, R219, R397, R400). -/
def State.startSlot (s : State) (k : Nat) : State :=
  let c := s.core
  let sl := c.press.slots.getD k .empty
  let s := if c.checking then s
    else s.trace 5 (cmdOp (c.cmdWord k)) sl.entry.toNat sl.mtag.toNat sl.actor.toNat k
  let r := s.ramp (clusterOf c.id)
  let s := s.putRamp { r with now := r.now + 1 }
  { s with core := { s.core with
    nPress := s.core.nPress + 1
    press := { s.core.press with slots := modifyAt (fun x => { x with st := .running }) s.core.press.slots k } } }

/-- The press of the core in focus stops at slot `k`. -/
def State.stopSlot (s : State) (k code : Nat) : State :=
  { s with core := { s.core with press := s.core.press.stopAt k code } }

/-- NEXT with what the sequencer reads in it: a stop code 9, 1 or 2, or the command (R211). -/
def State.readNext (s : State) : Option (Nat × Except Nat PressCmd × State) :=
  match s.pressReady with
  | none => none
  | some k =>
    let s := s.pressMeet (64 * k) 64
    let r := if s.core.slotPoison k then .error 9 else decodePress s.core.press.narrow (s.core.slotDwords k)
    some (k, r, s)

/-- The command `cmd` at NEXT starts, if that is the command there, or stops the press. Its whole effect is
taken at its start (log entry 26). -/
def startCommand (cmd : PressCmd) (effect : PSlot → Core → Core) (s : State) : Host.Outcome State Fault Refusal :=
  match s.readNext with
  | none => nothing s
  | some (k, r, t) => match r with
    | .error _ => nothing s
    | .ok x =>
      if x ≠ cmd then nothing s
      else
        let sl := t.core.press.slots.getD k .empty
        let code := t.core.stopCode sl cmd
        if code ≠ 0 then happens (t.stopSlot k code)
        else
          let t := (cmdSpans t.core.press.narrow cmd).foldl (fun t (a, n) => t.pressMeet a n) t
          let t := (tileReads cmd).foldl (fun t r => t.meetTile t.core.id r) t
          let t := t.startSlot k
          happens { t with core := effect sl t.core }

/-- PRESS_FAULT: the sequencer finds a poisoned dword in NEXT, an unknown command byte, or a reserved field
that is not zero, and stops the press (R47, R211). -/
def execPressFault (s : State) : Host.Outcome State Fault Refusal :=
  match s.readNext with
  | some (k, .error code, t) => happens (t.stopSlot k code)
  | _ => nothing s

/-- The fault of a stopped press that the core has still to take; not that of a command whose activation was rolled back, which
is discarded (R211, R385). -/
def Core.pressFault (c : Core) : Option TrapInfo :=
  match (if c.press.stop && !c.press.faultTaken then c.press.stoppedSlot else none) with
  | none => none
  | some k =>
    let code := c.press.scode.toNat
    if c.rolled.any (fun a => a.uid == (c.press.slots.getD k .empty).owner) then none
    else some {
      cause := if code = 9 then cPOISON else if code = 8 then cSTALE else cPRESS
      tval := .ofNat 64 k, spec := 0, major := some 0, epc := none, buf := false }

/-! ## LOADW and FLIP (R222, R223) -/

/-- 64 scales from the rind register of a tag. -/
def Core.tagScales (c : Core) (t : Tag) : List Lane := (c.rind.getD t.reg.toNat .load).list

/-- The effect of LOADW. -/
def Core.loadPlane (c : Core) (sl : PSlot) (fmt : Nat) (tv : Bool) (addr stride : Nat) : Core :=
  let n := if c.press.narrow then 128 else 64
  let b := fmtBits fmt
  let rows := (List.range 32).map (fun k => c.pressRead (addr + k * stride) (weightBytes n fmt))
  let ones : List Lane := List.replicate 64 (127, false)
  let lo := if tv then c.tagScales sl.tag else ones
  let hi := if !c.press.narrow then [] else if tv then c.tagScales sl.tagh else ones
  let scales := lo ++ hi
  let plane : Plane := {
    valid := true, fmt := .ofNat 4 fmt
    rows := rows.map (fun r => .ofNat 1024 (leNat (r.map (·.1))))
    pois := rows.map (fun r => .ofNat 128 (boolsNat ((elemsOf b r).map (·.2))))
    scales := .ofNat 1024 (lanesNat 8 (scales.map (·.1)))
    scalePois := .ofNat 128 (boolsNat (scales.map (·.2))) }
  { c with press := { c.press with shadow := plane } }

/-- LOADW (R222). -/
def execLoadw (fmt tag tagh : BitVec 4) (tv : Bool) (addr : BitVec 17) (stride : BitVec 16) (s : State) :
    Host.Outcome State Fault Refusal :=
  startCommand (.loadw fmt tag tagh tv addr stride)
    (fun sl c => c.loadPlane sl fmt.toNat tv addr.toNat stride.toNat) s

/-- FLIP (R223). -/
def execFlip (s : State) : Host.Outcome State Fault Refusal :=
  startCommand .flip (fun _ c =>
    { c with press := { c.press with active := c.press.shadow, shadow := c.press.active } }) s

/-! ## STREAM and STREAMT (R224, R225) -/

/-- The value of a float input element (Table 9.9); a CB4 code takes its codebook entry. -/
def inputFV (fmt : Nat) (cb : List Nat) (x : Nat) : FV :=
  match fmt with
  | 0 => e4m3.value x
  | 1 => e5m2.value x
  | 2 => bf16.value (cb.getD x 0)
  | 5 => bf16.value x
  | _ => f16.value x

/-- The value of an integer input element. -/
def inputInt (fmt x : Nat) : Int := if fmt = 3 then toSigned x 8 else x

/-- A pair-product entry (Table 3.2) of two BF16 patterns. -/
def pairEntry (x y : Nat) : BitVec 32 :=
  let sign := if bf16.neg x != bf16.neg y then 2 ^ 29 else 0
  match prodFV (bf16.value x) (bf16.value y) with
  | .nan => .ofNat 32 (3 * 2 ^ 30 + sign)
  | .inf _ => .ofNat 32 (2 * 2 ^ 30 + sign)
  | .num _ m e => if m = 0 then .ofNat 32 sign else .ofNat 32 (2 ^ 30 + sign + (e % 1024).toNat * 2 ^ 16 + m)

/-- The value of a pair-product entry (R59). -/
def pairValue (w : BitVec 32) : FV :=
  let n := w.getLsbD 29
  match w.toNat / 2 ^ 30 with
  | 0 => .num n 0 0
  | 1 => .num n (w.toNat % 2 ^ 16) (toSigned (w.toNat / 2 ^ 16) 10)
  | 2 => .inf n
  | _ => .nan

/-- The pair-product table of two codebooks: entry 16 ca + cb (R59). -/
def pairTableOf (ca cw : BitVec 256) : List (BitVec 32) :=
  (codebook ca).flatMap (fun x => (codebook cw).map (pairEntry x))

/-- The columns of a matrix of rows of `n` elements. -/
def columns {α : Type} (n : Nat) (rows : List (List α)) : List (List α) :=
  rows.foldr (List.zipWith List.cons) (List.replicate n [])

/-- The weights of the active plane by column, each with its poison; a CB4 code takes the poison of its
entry in CW (R216). -/
def Press.weightCols (p : Press) : List (List Lane) :=
  let pl := p.active
  let n := p.laneN
  let b := fmtBits pl.fmt.toNat
  let row (r : BitVec 1024) (q : BitVec 128) : List Lane :=
    ((natLanes b n r.toNat).zip (natBools n q.toNat)).map (fun (x, y) =>
      (x, y || (pl.fmt == 2 && p.cwPois.getLsbD x)))
  columns n (List.zipWith row pl.rows pl.pois)

/-- The column scales of the active plane; 127 for unscaled formats. -/
def Press.colScales (p : Press) : List Lane :=
  if fmtScaled p.active.fmt.toNat then
    (natLanes 8 p.laneN p.active.scales.toNat).zip (natBools p.laneN p.active.scalePois.toNat)
  else List.replicate p.laneN (127, false)

/-- The exact products of an activation row and a weight column (R70, R225). -/
def Press.products (p : Press) (fmt : Nat) (xs ys : List Nat) : List FV :=
  if fmt = 2 && p.active.fmt == 2 && p.pair then
    List.zipWith (fun x y => pairValue (p.pairTable.getD (16 * x + y) 0)) xs ys
  else
    let ca := codebook p.ca
    let cw := codebook p.cw
    List.zipWith (fun x y => prodFV (inputFV fmt ca x) (inputFV p.active.fmt.toNat cw y)) xs ys

/-- One element of one step: its bits, and whether it saturated (R67, R69, R224). -/
def Press.stepElem (p : Press) (fmt a : Nat) (xs ys : List Nat) (sa sw : Nat) : Nat × Bool :=
  if !p.integer then (pressStepF (if p.narrow then f16 else f32) a (p.products fmt xs ys) sa sw, false)
  else
    let sum := (List.zipWith (fun x y => inputInt fmt x * inputInt p.active.fmt.toNat y) xs ys).foldl (· + ·) 0
    if p.narrow then pressStepI16 a sum else (pressStepI32 a sum, false)

/-- A row from lanes of `w` bits that are all written. -/
def rowOfLanes (w : Nat) (l : List Lane) : Row :=
  { bits := .ofNat 2048 (lanesNat w (l.map (·.1)))
    pois := .ofNat 64 (boolsNat ((chunks (32 / w) 64 (l.map (·.2))).map (fun u => u.any id))) }

/-- −0 in float mode, 0 in integer mode: what an overwriting step adds to (R224). -/
def Press.overStart (p : Press) : Nat := if p.integer then 0 else 2 ^ (p.laneW - 1)

/-- Whether a column's products take a poisoned entry of the pair-product table (R216, R378). -/
def Press.pairBad (p : Press) (fmt : Nat) (xs ys : List Nat) : Bool :=
  fmt == 2 && p.active.fmt == 2 && p.pair && p.pairPois != 0 &&
    (xs.zip ys).any (fun (x, y) => p.pairPois.getLsbD (16 * x + y))

/-- One press step: activation row `x` with its scale into tile row `t` (R224, R216). -/
def Press.step (p : Press) (cols : List (List Lane)) (fmt : Nat) (acc : Bool) (x : List Lane) (sa : Lane) (t : Nat) :
    Press :=
  let old := (p.tile.getD t .zero).elems p.laneW
  let xs := x.map (·.1)
  let xp := x.any (fun (v, q) => q || (fmt == 2 && p.caPois.getLsbD v))
  let out : List (Lane × Bool) := (old.zip (cols.zip p.colScales)).map (fun (a, col, sw) =>
    let (v, ov) := p.stepElem fmt (if acc then a.1 else p.overStart) xs (col.map (·.1)) sa.1 sw.1
    ((v, (acc && a.2) || xp || col.any (·.2) || p.pairBad fmt xs (col.map (·.1)) || sa.2 || sw.2), ov))
  { p with
    tile := p.tile.set t (rowOfLanes p.laneW (out.map (·.1)))
    ov := p.ov || out.any (·.2) }

/-- The steps of a STREAM over its activation rows. -/
def Press.steps (p : Press) (cols : List (List Lane)) (fmt : Nat) (acc : Bool) : List (List Lane × Lane) → Nat → Press
  | [], _ => p
  | (x, sa) :: rows, t => (p.step cols fmt acc x sa t).steps cols fmt acc rows (t + 1)

/-- The activation scales of a STREAM: of TAG's register, or 127 (R224). -/
def Core.actScales (c : Core) (sl : PSlot) (fmt : Nat) (tv : Bool) : List Lane :=
  if tv && fmtScaled fmt then c.tagScales sl.tag else List.replicate 64 (127, false)

/-- Runs a STREAM's activation rows through the active plane. -/
def Core.streamRows (c : Core) (sl : PSlot) (fmt : Nat) (tv acc : Bool) (row0 : Nat) (rows : List (List Lane)) : Core :=
  { c with press := c.press.steps c.press.weightCols fmt acc (rows.zip (c.actScales sl fmt tv)) row0 }

/-- The activation rows of a STREAM. -/
def Core.streamInput (c : Core) (fmt m addr stride : Nat) : List (List Lane) :=
  (List.range m).map (fun i => c.pressElems (fmtBits fmt) (addr + i * stride) (actBytes fmt))

/-- The activation rows of a STREAMT: element k of row i stands in source row k. -/
def Core.streamtInput (c : Core) (fmt m addr stride : Nat) : List (List Lane) :=
  columns m ((List.range 32).map (fun k =>
    (c.pressElems (fmtBits fmt) (addr + k * stride) ((m * fmtBits fmt + 7) / 8)).take m))

/-- STREAM (R224). -/
def execStream (fmt tag : BitVec 4) (tv acc : Bool) (row0 : BitVec 6) (m : BitVec 7) (addr : BitVec 17)
    (stride : BitVec 16) (s : State) : Host.Outcome State Fault Refusal :=
  startCommand (.stream fmt tag tv acc row0 m addr stride)
    (fun sl c => c.streamRows sl fmt.toNat tv acc row0.toNat (c.streamInput fmt.toNat m.toNat addr.toNat stride.toNat)) s

/-- STREAMT (R224). -/
def execStreamt (fmt tag : BitVec 4) (tv acc : Bool) (row0 : BitVec 6) (m : BitVec 7) (addr : BitVec 17)
    (stride : BitVec 16) (s : State) : Host.Outcome State Fault Refusal :=
  startCommand (.streamt fmt tag tv acc row0 m addr stride)
    (fun sl c => c.streamRows sl fmt.toNat tv acc row0.toNat (c.streamtInput fmt.toNat m.toNat addr.toNat stride.toNat)) s

/-! ## The tile and local memory (R226 to R228) -/

/-- The conversion of one source element of TLOAD (Table 9.10). -/
def tloadElem (w fmt x : Nat) : Nat :=
  match fmt with
  | 1 => bf16.widen x
  | 2 => f16.widen x
  | 3 => extInt 16 x
  | 4 => wrapBits (toSigned x 8) w
  | _ => x

/-- Writes tile rows from `row0` on. -/
def Press.putRows (p : Press) (row0 : Nat) (rows : List Row) : Press :=
  { p with tile := rows.zipIdx.foldl (fun t (r, i) => t.set (row0 + i) r) p.tile }

/-- Source elements as tile rows. -/
def Press.loadRows (p : Press) (fmt row0 : Nat) (rows : List (List Lane)) : Press :=
  p.putRows row0 (rows.map (fun r => rowOfLanes p.laneW (r.map (fun (x, q) => (tloadElem p.laneW fmt x, q)))))

/-- TLOAD (R226). -/
def execTload (fmt : BitVec 4) (row0 : BitVec 6) (m : BitVec 7) (addr : BitVec 17) (stride : BitVec 16) (s : State) :
    Host.Outcome State Fault Refusal :=
  startCommand (.tload fmt row0 m addr stride) (fun _ c =>
    let b := tloadBits c.press.narrow fmt.toNat
    let rows := (List.range m.toNat).map (fun i =>
      c.pressElems b (addr.toNat + i * stride.toNat) (c.press.laneN * b / 8))
    { c with press := c.press.loadRows fmt.toNat row0.toNat rows }) s

/-- TLOADT (R226). -/
def execTloadt (fmt : BitVec 4) (row0 : BitVec 6) (m : BitVec 7) (addr : BitVec 17) (stride : BitVec 16) (s : State) :
    Host.Outcome State Fault Refusal :=
  startCommand (.tloadt fmt row0 m addr stride) (fun _ c =>
    let b := tloadBits c.press.narrow fmt.toNat
    let rows := columns m.toNat ((List.range 64).map (fun j =>
      c.pressElems b (addr.toNat + j * stride.toNat) (m.toNat * b / 8)))
    { c with press := c.press.loadRows fmt.toNat row0.toNat rows }) s

/-- The FP32 value that an accumulator element in float mode has, exactly. -/
def accF32 (narrow : Bool) (x : Nat) : Nat := if narrow then f16.widen x else x

/-- The conversion of one element to a TDRAIN output without derived scales (Table 9.11). -/
def tdrainElem (narrow : Bool) (fmt x : Nat) : Nat :=
  match fmt with
  | 1 => f16.narrow 0 x
  | 2 => bf16.narrow 0 (accF32 narrow x)
  | 3 => e4m3.narrow 0 (accF32 narrow x)
  | 4 => e5m2.narrow 0 (accF32 narrow x)
  | 5 => wrapBits (satBits (toSigned x (if narrow then 16 else 32)) 8) 8
  | 6 => satInt 16 x
  | _ => x

/-- Whether the number m · 2^e, scaled by 2^(127 − k), is at most the largest finite value of the output:
448 or 57,344 (R227). -/
def scaleFits (big m : Nat) (e : Int) (k : Nat) : Bool :=
  !Dy.lt { z := big, e := 0 } { z := m, e := e + 127 - k }

/-- The E8 scale of a block of elements' values (R227). -/
def blockScale (big : Nat) (vs : List FV) : Nat :=
  if vs.any (· == .nan) then 255
  else ((List.range 255).find? (fun k => vs.all (fun v => match v with
    | .num _ m e => scaleFits big m e k
    | .inf _ => false
    | .nan => false))).getD 254

/-- One element of a block with scale `k` (R227). -/
def scaledElem (f : Fmt) (k : Nat) (neg : Bool) (v : FV) : Nat :=
  if k = 255 then f.sgn neg + (if f.e4m3 then 0x7F else 0x7E)
  else match v with
    | .nan => f.sgn neg + (if f.e4m3 then 0x7F else 0x7E)
    | .inf n => if f.e4m3 then f.big n else f.inf n
    | .num n m e => f.round 0 n m (e + 127 - k) false

/-- One block of 32 lanes: its scale, with its poison, and its elements. -/
def drainBlock (narrow : Bool) (fmt : Nat) (l : List Lane) : Lane × List Lane :=
  let f := if fmt = 3 then e4m3 else e5m2
  let acc := if narrow then f16 else f32
  let vs := l.map (fun x => acc.value x.1)
  let k := blockScale (if fmt = 3 then 448 else 57344) vs
  ((k, l.any (·.2)), (l.zip vs).map (fun (x, v) => (scaledElem f k (acc.neg x.1) v, x.2)))

/-- An engine write of the press into local memory that sets the dwords it touches full (R214). -/
def Core.pressFill (c : Core) (la : Nat) (bs : List (Byte × Bool)) : Core :=
  let c := c.pressPut la bs
  let us := (unitsOf 8 la bs.length).filter (fun u => !c.imageGr.contains (u / 8))
  { c with lmEmpty := us.foldl NatSet.del c.lmEmpty }

/-- One tile row drained: its output bytes and, with derived scales, its scale bytes. -/
def Press.drainRow (p : Press) (fmt : Nat) (scaled : Bool) (r : Row) : List (Byte × Bool) × List (Byte × Bool) :=
  let l := r.elems p.laneW
  if scaled then
    let bl := (chunks 32 8 l).map (drainBlock p.narrow fmt)
    (bytesOf 8 (bl.flatMap (·.2)), bl.map (fun (k, _) => (BitVec.ofNat 8 k.1, k.2)))
  else (bytesOf (tdrainBits p.narrow fmt) (l.map (fun (x, q) => (tdrainElem p.narrow fmt x, q))), [])

/-- The effect of TDRAIN. -/
def Core.drainRows (c : Core) (fmt : Nat) (clr : Bool) (row0 m addr stride addr2 : Nat) : Core :=
  (List.range m).foldl (fun c i =>
    let p := c.press
    let (bs, ks) := p.drainRow fmt (addr2 != 0) (p.tile.getD (row0 + i) .zero)
    let c := c.pressFill (addr + i * stride) bs
    let c := if addr2 = 0 then c else c.pressFill (addr2 + i * (p.laneN / 32)) ks
    if clr then { c with press := p.putRows (row0 + i) [.zero] } else c) c

/-- Who waits on dwords that an engine has set full is served (R169). -/
def State.wakeWaiters (s : State) (spans : List (Nat × Nat)) : State :=
  spans.foldl (fun s (a, n) => (unitsOf 8 a n).foldl (fun s u =>
    if s.core.imageGr.contains (u / 8) then s
    else State.serveWaiters (.loc s.core.id (8 * u)) s.ldsWait s) s) s

/-- TDRAIN (R227). -/
def execTdrain (fmt : BitVec 4) (clr : Bool) (row0 : BitVec 6) (m : BitVec 7) (addr : BitVec 17) (stride : BitVec 16)
    (addr2 : BitVec 17) (s : State) : Host.Outcome State Fault Refusal :=
  match startCommand (.tdrain fmt clr row0 m addr stride addr2)
      (fun _ c => c.drainRows fmt.toNat clr row0.toNat m.toNat addr.toNat stride.toNat addr2.toNat) s with
  | .next t =>
    if t.ldsWait.isEmpty then .next t
    else .next (t.wakeWaiters (cmdSpans t.core.press.narrow (.tdrain fmt clr row0 m addr stride addr2)))
  | o => o

/-- TZERO (R228). -/
def execTzero (row0 : BitVec 6) (m : BitVec 7) (s : State) : Host.Outcome State Fault Refusal :=
  startCommand (.tzero row0 m) (fun _ c =>
    { c with press := c.press.putRows row0.toNat (List.replicate m.toNat .zero) }) s

/-! ## Mode, tables and marks (R229, R230) -/

/-- PMODE. -/
def execPmode (narrow integer : Bool) (s : State) : Host.Outcome State Fault Refusal :=
  startCommand (.pmode narrow integer) (fun _ c =>
    { c with press := { c.press with narrow := narrow, integer := integer, active := .empty, shadow := .empty } }) s

/-- PTABLE. -/
def execPtable (addr addr2 : BitVec 17) (s : State) : Host.Outcome State Fault Refusal :=
  startCommand (.ptable addr addr2) (fun _ c =>
    let a := c.pressRead addr.toNat 32
    let w := c.pressRead addr2.toNat 32
    let ca : BitVec 256 := .ofNat 256 (leNat (a.map (·.1)))
    let cw : BitVec 256 := .ofNat 256 (leNat (w.map (·.1)))
    { c with press := { c.press with
      ca := ca, cw := cw, caPois := cbPoison a, cwPois := cbPoison w
      pairTable := pairTableOf ca cw, pairPois := 0, pair := true } }) s

/-- PMARK: MARK rises as it retires. -/
def execPmark (inc : BitVec 16) (s : State) : Host.Outcome State Fault Refusal :=
  startCommand (.pmark inc) (fun _ c => c) s

/-! ## PSAVE and PRESTORE (R231) -/

/-- PSAVE. -/
def execPsave (addr : BitVec 17) (s : State) : Host.Outcome State Fault Refusal :=
  startCommand (.psave addr) (fun _ c => c.pressPut addr.toNat c.saveArea) s

/-- What PRESTORE puts back from an area that passes. -/
def Core.restoreArea (c : Core) (area : List (Byte × Bool)) : Core :=
  let f := areaFlags area
  let bit (k : Nat) : Bool := f / 2 ^ k % 2 == 1
  let num (off n : Nat) : Nat := leNat ((piece area off n).map (·.1))
  let ca : BitVec 256 := .ofNat 256 (num 0x65A0 32)
  let cw : BitVec 256 := .ofNat 256 (num 0x65C0 32)
  { c with
    press := { c.press with
      tile := (List.range 64).map (fun r => Row.ofBytes (piece area (256 * r) 256))
      active := planeOf (bit 2) (bit 0) (f / 2 ^ 8 % 16) (piece area 0x4000 4096) (piece area 0x6000 128)
      shadow := planeOf (bit 3) (bit 0) (f / 2 ^ 12 % 16) (piece area 0x5000 4096) (piece area 0x6080 128)
      narrow := bit 0, integer := bit 1, pair := bit 4, ov := bit 5
      ca := ca, cw := cw, caPois := 0, cwPois := 0
      pairTable := if bit 4 then pairTableOf ca cw else c.press.pairTable
      pairPois := if bit 4 then 0 else c.press.pairPois }
    rind := (List.range 16).map (fun k =>
      { scales := .ofNat 512 (num (0x6100 + 64 * k) 64), pois := 0, gen := .ofNat 16 (num (0x6500 + 2 * k) 2) })
    tags := (List.range 16).map (fun t => tagOfDword (.ofNat 64 (num (0x6520 + 8 * t) 8))) }

/-- PRESTORE: the whole area is read and checked before anything changes. -/
def execPrestore (addr : BitVec 17) (s : State) : Host.Outcome State Fault Refusal :=
  match s.readNext with
  | some (k, .ok (.prestore a), t) =>
    if a ≠ addr then nothing s
    else
      let code := t.core.stopCode (t.core.press.slots.getD k .empty) (.prestore a)
      if code ≠ 0 then happens (t.stopSlot k code)
      else
        let t := t.pressMeet addr.toNat saveBytes
        let area := t.core.pressRead addr.toNat saveBytes
        if badArea area then happens (t.stopSlot k 7)
        else
          let t := t.startSlot k
          happens { t with core := t.core.restoreArea area }
  | _ => nothing s

/-! ## Retirement (R210, R230) -/

/-- PRESS_RETIRE: the running command of a slot retires. -/
def execPressRetire (slot : BitVec 4) (s : State) : Host.Outcome State Fault Refusal :=
  let k := slot.toNat
  let p := s.core.press
  if p.stAt k ≠ .running then nothing s
  else
    let inc : BitVec 16 := if cmdOp (s.core.cmdWord k) = 0x0B then
        .ofNat 16 (bitsAt ((s.core.slotDwords k).getD 1 0) 15 0)
      else 0
    happens { s with core := { s.core with press := { p.release k with mark := p.mark + inc } } }

/-! ## The actions of PSTATUS (R212) -/

/-- Whether a RETRY has to wait: for a TLD write to a tag of the stopped slot whose window has ended. -/
def retryTags : M Unit := do
  let c ← getC
  match c.press.stoppedSlot with
  | none => pure ()
  | some k => for t in cmdTags (c.cmdWord k) c.press.narrow do needsShared (Dest.isTag t)

/-- RETRY makes the stopped slot PENDING with its tags recorded afresh. -/
def Core.retry (c : Core) : Core :=
  match (if c.press.stop then c.press.stoppedSlot else none) with
  | none => c
  | some k =>
    let d0 := c.cmdWord k
    let tag := c.tags.getD (bitsAt d0 15 12) .empty
    let tagh := c.tags.getD (bitsAt d0 19 16) .empty
    { c with press := { c.press with
      slots := modifyAt (fun sl => { sl with st := .pending, tag := tag, tagh := tagh }) c.press.slots k
      stop := false, scode := 0, faultTaken := false } }

/-- RETRY as an action of PSTATUS. -/
def pressRetry : M Unit := do
  if (← getC).press.stop then
    retryTags
    modC Core.retry

/-- SKIP as an action of PSTATUS. -/
def pressSkip : M Unit := modC (fun c => { c with press := c.press.skip })

/-- FLUSH as an action of PSTATUS: waits until the running commands retire. -/
def pressFlush : M Unit := do
  waitUntil ((← getC).press.running.isEmpty)
  modC (fun c => { c with press := c.press.flush })

/-- A write of OV. -/
def pressOvClear : M Unit := modC (fun c => { c with press := { c.press with ov := false } })

/-- An action that is taken whole, or not now. -/
def pressEvent (act : M Unit) (s : State) : Host.Outcome State Fault Refusal :=
  match act s with
  | .ok _ t => happens t
  | .error _ _ => nothing s

/-- RETRY (R212). -/
def execRetry (s : State) : Host.Outcome State Fault Refusal := pressEvent pressRetry s

/-- SKIP (R212). -/
def execSkip (s : State) : Host.Outcome State Fault Refusal := pressEvent pressSkip s

/-- FLUSH (R212). -/
def execFlush (s : State) : Host.Outcome State Fault Refusal := pressEvent pressFlush s

/-- OV_CLEAR (R212). -/
def execOvClear (s : State) : Host.Outcome State Fault Refusal := pressEvent pressOvClear s

/-- A write of PSTATUS: OV and ACT only (R212). -/
def writePstatus (v : Word) : M Unit := do
  match bitsAt v 29 28 with
  | 1 => pressRetry
  | 2 => pressSkip
  | 3 => pressFlush
  | _ => pure ()
  if !v.getLsbD 0 then pressOvClear

/-! ## PCMD and PCTL (R209, R232) -/

/-- PCMD. -/
def pcmd (first sel : RSpec) : M Flow := do
  let v ← readClean sel
  let keep (j : Nat) : Bool := v.bits.getLsbD j
  let c ← getC
  let k := c.press.tail.toNat
  waitUntil (!c.checkElsewhere && decide (c.press.pend < 16) && c.press.stAt k == .free)
  let vs ← (List.range 8).mapM (fun j => do
    if keep j then pure none else pure (some (← readR (nextReg first j))) : Nat → M (Option Val))
  let d0 := match vs.getD 0 none with
    | some x => x.bits
    | none => c.cmdWord k
  pushWaits d0 (c.narrowAhead none)
  if !c.selfpress then irrevocable
  for (x, j) in vs.zipIdx do
    match x with
    | none => pure ()
    | some x => modC (fun c => c.putLocal (64 * k + 8 * j) (dwordBytes x.bits) (List.replicate 8 x.poison))
  pushTail
  pure (.next none)

def execPcmd (first sel : RSpec) (s : State) : Host.Outcome State Fault Refusal :=
  run (formPcmd first sel) (pcmd first sel) s

/-- PWAIT. -/
def pwait (d a : RSpec) : M Flow := do
  let v ← readClean a
  uncheck
  let p := (← getC).press
  waitUntil (p.pend == 0 || decide ((p.mark - v.bits.setWidth 16).toNat < 2 ^ 15))
  andNext (writeR d (.clean (p.mark.setWidth 64)))

def execPwait (d a : RSpec) (s : State) : Host.Outcome State Fault Refusal := run (formPwait d a) (pwait d a) s

/-- PFENCE. -/
def pfence : M Flow := do
  waitUntil ((← getC).press.pend == 0)
  pure (.next none)

def execPfence (s : State) : Host.Outcome State Fault Refusal := run formPfence pfence s

/-- PSTAT. -/
def pstat (d : RSpec) : M Flow := do
  uncheck
  andNext (writeR d (.clean (← getC).press.status))

def execPstat (d : RSpec) (s : State) : Host.Outcome State Fault Refusal := run (formPstat d) (pstat d) s

/-! ## The ramp limiter and the power cap (R219, R414) -/

/-- Whether a core's press is idle. -/
def Core.pressIdle (c : Core) : Bool := c.press.pend == 0 && !c.press.filler && !c.frozen

/-- The power caps, averaged over the last millisecond of reports, of the package and the module in watts (Table 21.3). -/
def packageCap : Nat := 3300
def moduleCap : Nat := 3800

/-- The sums of the package and module powers reported in the last millisecond, of 1,000 reports. -/
def State.powerSums (s : State) : Nat × Nat := ((s.powerLog.map (·.1)).sum, (s.powerLog.map (·.2)).sum)

/-- Whether a 1 ms average exceeds its cap, and whether both have fallen below (R413, R414). -/
def State.powerOver (s : State) : Bool :=
  decide (packageCap * 1000 < s.powerSums.1) || decide (moduleCap * 1000 < s.powerSums.2)
def State.powerBelow (s : State) : Bool :=
  decide (s.powerSums.1 < packageCap * 1000) && decide (s.powerSums.2 < moduleCap * 1000)

/-- RAMP_WINDOW: a window of a cluster ends, and with it a hold of the power cap, once the averages are below the caps (R414).
A window that would end below its limit is made up with filler
operations on idle presses, lowest core first (log entry 27). -/
def execRampWindow (cluster : Nat) (s : State) : Host.Outcome State Fault Refusal :=
  let r := s.ramp cluster
  let lack := match rampLimit (s.part ((s.partOfCluster cluster).getD 0)).rampDn with
    | none => 0
    | some n => r.prev - n - r.now
  let idle := ((List.range 128).map (128 * cluster + ·)).filter (fun c =>
    s.corePresent c && (s.coreOf c).pressIdle)
  let filled := idle.take lack
  let s := filled.foldl (fun s c =>
    s.modCore c (fun c => { c with press := { c.press with filler := true } })) s
  let now := if filled.isEmpty then r.now else r.now + lack
  let s := if s.powerBelow then { s with powerHeld := s.powerHeld.del cluster } else s
  happens (s.putRamp { cluster := cluster, now := 0, prev := now })

/-- FILLER_OPERATION_END: a core's filler operation ends. -/
def execFillerOperationEnd (core : Nat) (s : State) : Host.Outcome State Fault Refusal :=
  if !(s.coreOf core).press.filler then nothing s
  else happens (s.modCore core (fun c => { c with press := { c.press with filler := false } }))

/-- POWER_REPORT: the power stages report the watts of the package and of the module for a microsecond. When a 1 ms average
then exceeds its cap, every cluster holds the command at NEXT through its present window (R413, R414; log entry 89). -/
def execPowerReport (watts : Nat × Nat) (s : State) : Host.Outcome State Fault Refusal :=
  let s := { s with powerLog := (watts :: s.powerLog).take 1000 }
  happens (if s.powerOver then { s with powerHeld := List.range 128 } else s)

end Sys2Proof.Machine
end

