-- ==== Sys2Proof/Machine/Kernels.lean ====
section
/-! DEFINITION. Kernels and cohorts: headers and their checks (R319 to R324), eligibility, choice and
placement (R295 to R299, R326 to R329), kernel load and start (R300 to R302, R321, R436, R437), and the
ends of cohorts and kernels (R305, R306, R330). -/

namespace Sys2Proof.Machine

/-! ## Reading as the dispatcher does (R281, R323) -/

/-- The dispatcher reads bytes through a context's page tables, as a reader of no domain, in user mode.
None when the address does not translate, may not be read, or carries poison. -/
def State.dispRead (s : State) (ctx va n : Nat) : Option (List Byte) × State :=
  if inWindow va then (none, s)
  else match s.agentXlat (s.firstCluster (s.partOfCtx ctx)) ctx false .read va n with
    | (.error _, s) => (none, s)
    | (.ok x, s) =>
      let p := s.partOfCtx ctx
      let key := keyOf p x.pa
      let (bs, s) := if leafZero x.leaf then (List.replicate n ((0 : Byte), false), s)
        else if outside key then s.outsideFor p ctx key n
        else s.homeRead .bypass p none 16384 key n []
      (if bs.any (·.2) then none else some (bs.map (·.1)), s)

/-- Bytes as dwords. -/
def dwordsOf (bs : List Byte) : List Word := (chunks 8 (bs.length / 8) bs).map (fun b => .ofNat 64 (leNat b))

/-- A table of `n` entries of `size` bytes each, as dwords. -/
def State.dispTable (s : State) (ctx va size : Nat) : Nat → Option (List (List Word)) × State
  | 0 => (some [], s)
  | n + 1 => match s.dispTable ctx va size n with
    | (none, s) => (none, s)
    | (some l, s) => match s.dispRead ctx ((va + size * n) % 2 ^ 48) size with
      | (none, s) => (none, s)
      | (some bs, s) => (some (l ++ [dwordsOf bs]), s)

/-- Whether the dispatcher may make an atomic at system scope at an address, on a queue-slot page when
`qs` (R281, Table 7.3); PAGE or PROT when not. -/
def State.dispAtomic (s : State) (ctx va : Nat) (qs : Bool) : Except Bad Xlat × State :=
  if inWindow va then (.error .page, s)
  else match s.agentXlat (s.firstCluster (s.partOfCtx ctx)) ctx false .both va 8 with
    | (.error e, s) => (.error e, s)
    | (.ok x, s) => if qs && !leafQs x.leaf then (.error .prot, s) else (.ok x, s)

/-- The same with its alignment, as a test. -/
def State.atomicOk (s : State) (ctx va : Nat) (qs : Bool) : Bool × State :=
  if va % 8 ≠ 0 then (false, s)
  else match s.dispAtomic ctx va qs with
    | (.ok _, s) => (true, s)
    | (.error _, s) => (false, s)

/-! ## The header (R319 to R322) -/

/-- The message slot (R100, R324). -/
def hMsg (h : List Word) : Nat := (hRegs h + 7) / 8 + hWsextra h

/-- An actor table entry (Table 15.2), its slot not yet placed. -/
def actorOf (e : List Word) : ActorDef :=
  let d1 := dw e 1
  let d2 := dw e 2
  { entry := .ofNat 48 (addr48 (dw e 0)), crank := bitsAt d1 55 48, cons := bitsAt d1 47 40
    p := bitsAt d1 39 32, c := bitsAt d1 31 24, depth := bitsAt d1 18 11, fstart := bitsAt d1 10 4
    fbank := bitsAt d1 3 0, base := bitsAt d2 15 8, revocable := d2.getLsbD 0
    checkable := d2.getLsbD 1, selfpress := d2.getLsbD 2, slotBase := 0 }

/-- Rank and priority of an entry table entry (R321). -/
def entRank (e : List Word) : Nat := bitsAt (dw e 0) 55 48
def entHi (e : List Word) : Bool := (dw e 0).getLsbD 56

/-- A tensor initialiser entry. -/
def tensorOf (e : List Word) : BitVec 256 :=
  .ofNat 256 ((dw e 0).toNat + (dw e 1).toNat * 2 ^ 64 + (dw e 2).toNat * 2 ^ 128 + (dw e 3).toNat * 2 ^ 192)

/-- Fields of a LAUNCH packet (Table 12.3). -/
def lPrio (p : List Word) : Nat := bitsAt (dw p 0) 17 16
def lKhdr (p : List Word) : Nat := addr48 (dw p 1)
def lGY (p : List Word) : Nat := bitsAt (dw p 2) 31 16
def lGX (p : List Word) : Nat := bitsAt (dw p 2) 15 0
def lArgs (p : List Word) : Nat := addr48 (dw p 3)
def lCkind (p : List Word) : Nat := bitsAt (dw p 4) 63 62
def lCaddr (p : List Word) : Nat := addr48 (dw p 4)
def lWaddr (p : List Word) (i : Nat) : Nat := addr48 (dw p (5 + i))
def lWval (p : List Word) (i : Nat) : Nat := bitsAt (dw p 7) (32 * i + 31) (32 * i)

/-- The actors of a kernel. -/
def Kernel.actorDefs (k : Kernel) : List ActorDef := k.actors.map actorOf

/-- The actor whose entry an entry table entry names (R436). -/
def Kernel.actorAt (k : Kernel) (e : List Word) : Option Nat :=
  k.actorDefs.findIdx? (fun a => a.entry.toNat == addr48 (dw e 0))

/-- The number of cohorts of a launch. -/
def Kernel.total (k : Kernel) : Nat := lGX k.pkt * lGY k.pkt

/-! ## Placement (R295 to R298) -/

/-- The cores of a group of a shape at an origin of a cluster, in rank order (R296). -/
def rectCores (gx gy cl ox oy : Nat) : List Nat :=
  (List.range (gx * gy)).map (fun r => cl * 128 + (oy + r / gx) * 16 + ox + r % gx)

/-- The first fit of a group (R298): clusters in order, `oy` outer and `ox` inner. -/
def firstFit (ok : Nat → Bool) (cls : List Nat) (gx gy : Nat) : Option (Nat × Nat × Nat) :=
  cls.findSome? (fun cl =>
    (List.range (9 - gy)).findSome? (fun oy =>
      (List.range (17 - gx)).findSome? (fun ox =>
        if (rectCores gx gy cl ox oy).all ok then some (cl, ox, oy) else none)))

/-- Fits for `n` groups, each at its first (R298). -/
def fitGroups (ok : Nat → Bool) (cls : List Nat) (gx gy : Nat) : Nat → List Nat → Option (List (Nat × Nat × Nat))
  | 0, _ => some []
  | n + 1, taken => match firstFit (fun c => ok c && !taken.contains c) cls gx gy with
    | none => none
    | some (cl, ox, oy) =>
      (fitGroups ok cls gx gy n (rectCores gx gy cl ox oy ++ taken)).map ((cl, ox, oy) :: ·)

/-- Whether a core is usable but for a group on it (R297). -/
def State.sound (s : State) (core : Nat) : Bool :=
  s.corePresent core && !(s.coreOf core).quarantined && !(s.coreOf core).dueQ

/-- Whether a core is usable for placement (R297). -/
def State.usable (s : State) (core : Nat) : Bool := s.sound core && (s.coreOf core).kern.isNone

/-- A placement of a header's cohort on the cores of a partition that `ok` accepts. -/
def State.fitOn (s : State) (p : Nat) (h : List Word) (ok : Nat → Bool) : Option (List (Nat × Nat × Nat)) :=
  if hGX h = 0 ∨ hGY h = 0 ∨ 16 < hGX h ∨ 8 < hGY h then none
  else fitGroups ok (s.clustersOf p) (hGX h) (hGY h) (hGroups h) []

/-- The most groups of a shape that a cluster's cores can hold at once, over some origins. -/
def mostGroups (gx gy cl : Nat) : List (Nat × Nat) → (Nat → Bool) → Nat
  | [], _ => 0
  | (ox, oy) :: rest, ok =>
    let here := rectCores gx gy cl ox oy
    let without := mostGroups gx gy cl rest ok
    if here.all ok then max without (1 + mostGroups gx gy cl rest (fun c => ok c && !here.contains c)) else without

/-- The same of a cluster: a whole one holds its rows and columns of them. -/
def clusterHolds (ok : Nat → Bool) (gx gy cl : Nat) : Nat :=
  if (rectCores 16 8 cl 0 0).all ok then 16 / gx * (8 / gy)
  else
    let origins := (List.range (9 - gy)).flatMap (fun oy => (List.range (17 - gx)).map (fun ox => (ox, oy)))
    mostGroups gx gy cl origins ok

/-- Whether some placement on the present cores of a partition could hold a header's cohort, whatever order it is
searched in (R295). -/
def State.couldHold (s : State) (p : Nat) (h : List Word) : Bool :=
  (s.fitOn p h s.corePresent).isSome ||
    decide (hGroups h ≤ ((s.clustersOf p).map (clusterHolds s.corePresent (hGX h) (hGY h))).foldl (· + ·) 0)

/-- The fit of a kernel's next cohort. -/
def State.fitNow (s : State) (k : Kernel) : Option (List (Nat × Nat × Nat)) := s.fitOn k.part k.header s.usable

/-! ## Header checks (R323, Table 15.3) -/

/-- Reason 3. -/
def badReserved (k : Kernel) : Bool :=
  let h := k.header
  bitsAt (dw h 0) 63 49 != 0 || bitsAt (dw h 1) 63 56 != 0 || bitsAt (dw h 1) 39 36 != 0 ||
    bitsAt (dw h 1) 31 29 != 0 || bitsAt (dw h 2) 63 47 != 0 || bitsAt (dw h 2) 39 34 != 0 ||
    bitsAt (dw h 3) 63 48 != 0 || bitsAt (dw h 4) 63 48 != 0 || bitsAt (dw h 5) 63 41 != 0 ||
    bitsAt (dw h 6) 63 43 != 0 || dw h 7 != 0 || bitsAt (dw h 11) 63 32 != 0 ||
    (List.range 20).any (fun j => dw h (12 + j) != 0) ||
    k.actors.any (fun e =>
      bitsAt (dw e 0) 63 48 != 0 || bitsAt (dw e 1) 63 56 != 0 || bitsAt (dw e 1) 23 19 != 0 ||
        bitsAt (dw e 2) 63 16 != 0 || bitsAt (dw e 2) 7 3 != 0 || dw e 3 != 0) ||
    k.entries.any (fun e => bitsAt (dw e 0) 63 57 != 0) ||
    k.tensors.any (fun e => ttClean e != e)

/-- Reason 5. -/
def State.badShape (s : State) (k : Kernel) : Bool :=
  let h := k.header
  hGX h == 0 || decide (16 < hGX h) || hGY h == 0 || decide (8 < hGY h) || hQX h == 0 || decide (128 < hQX h) ||
    hQY h == 0 || decide (128 < hQY h) || decide (16384 < hGroups h) ||
    !s.couldHold k.part h || lGX k.pkt == 0 || lGY k.pkt == 0

/-- Whether two actors' FIFO slots overlap; an actor with DEPTH 0 has none. -/
def fifosMeet (a b : ActorDef) : Bool :=
  a.fbank == b.fbank && decide (0 < a.depth ∧ 0 < b.depth ∧ a.fstart < b.fstart + b.depth ∧ b.fstart < a.fstart + a.depth)

/-- Whether some pair of a list, in order, satisfies a test. -/
def somePair {α : Type} (p : α → α → Bool) : List α → Bool
  | [] => false
  | x :: xs => xs.any (p x) || somePair p xs

/-- Reason 6. -/
def badBanks (k : Kernel) : Bool :=
  let as := k.actorDefs
  hBank k.header 0 != 0 || as.any (fun a => hBank k.header a.fbank != 2) || somePair fifosMeet as ||
    as.any (fun a => decide (128 < a.fstart + a.depth)) || decide (112 < hLayout k.header)

/-- Reason 7. -/
def badActors (k : Kernel) : Bool :=
  let as := k.actorDefs
  decide (64 < as.length) ||
    as.zipIdx.any (fun (a, i) =>
      a.c == 0 || decide (a.depth < a.c) || (a.checkable && !a.revocable) ||
        (a.cons != 0xFF && (decide (as.length ≤ a.cons) || a.cons == i)) ||
        (a.crank != 0xFF && decide (hCores k.header ≤ a.crank)) || a.entry.getLsbD 0)

/-- The granules of the extra pool (R100); negative when the slots alone do not fit. -/
def Kernel.pool (k : Kernel) : Int :=
  112 - (hLayout k.header : Int) - ((k.actorDefs.map (·.base)).foldl (· + ·) 0 : Nat) - 2 * (hMsg k.header : Int)

/-- Reason 8. -/
def badLarder (k : Kernel) : Bool :=
  let h := k.header
  let as := k.actorDefs
  let need := (as.map (fun a => hWsmax h - a.base)).foldl max (hWsmax h - hMsg h)
  as.any (fun a => decide (a.base < (hRegs h + 7) / 8) || decide (hWsmax h < a.base)) ||
    decide (hWsmax h < hMsg h) || decide (k.pool < (need : Int))

/-- The initial activations of HQ and of LQ that a core of a rank receives. -/
def Kernel.initialCounts (k : Kernel) (rank : Nat) : Nat × Nat :=
  let mine := k.entries.filter (fun e => entRank e == 0xFF || entRank e == rank)
  let hi := mine.filter (fun e => entHi e && (k.actorAt e).isNone)
  (hi.length, mine.length - hi.length)

/-- Reason 9. -/
def badEntries (k : Kernel) : Bool :=
  k.entries.isEmpty || decide (48 < k.entries.length) ||
    k.entries.any (fun e => (dw e 0).getLsbD 0 || (entRank e != 0xFF && decide (hCores k.header ≤ entRank e))) ||
    (List.range (hCores k.header)).any (fun r =>
      decide (16 < (k.initialCounts r).1) || decide (32 < (k.initialCounts r).2))

/-- Fields of a counter request (Table 11.2). -/
def reqLog (c : List Word) : Nat := bitsAt (dw c 0) 2 0
def reqStart (c : List Word) : Nat := bitsAt (dw c 0) 11 6
def reqHandle (c : List Word) : Nat := bitsAt (dw c 1) 9 0

/-- Whether a counter request fails R257 by itself. -/
def badRequest (c : List Word) : Bool :=
  reqLog c == 0 || decide (6 < reqLog c) || decide (2 ^ reqLog c ≤ reqStart c) ||
    bitsAt (dw c 0) 15 13 != 0 || bitsAt (dw c 0) 5 3 != 0 || bitsAt (dw c 1) 63 10 != 0

/-- Reason 11. -/
def State.badCounters (s : State) (k : Kernel) : Bool :=
  decide (1024 < k.counters.length) ||
    k.counters.any (fun c => badRequest c || (s.counter? k.ctx (reqHandle c)).isSome) ||
    somePair (fun a b => reqHandle a == reqHandle b) k.counters ||
    !s.cellsFor k.part k.ctx (k.counters.map reqLog ++ k.barrierLogs)

/-- Reason 13 (R221). -/
def badTile (k : Kernel) : Bool :=
  let h := k.header
  k.tensors.any (fun e => ttValid e && !fmtAllowed (hNarrow h) (hInt h) (ttFmt e))

/-- The first check that a header fails (Table 15.3), 0 for none. `read`: the header and its tables could be
read; `addrs`: the addresses of the launch pass reason 12. -/
def State.headerReason (s : State) (k : Kernel) (read addrs : Bool) : Nat :=
  let h := k.header
  let tests : List (Nat × Bool) :=
    [(2, bitsAt (dw h 0) 31 0 != 0x314B584A || bitsAt (dw h 0) 47 32 != 1), (3, badReserved k),
      (4, hRegs h == 0 || decide (32 < hRegs h)), (5, s.badShape k), (6, badBanks k), (7, badActors k),
      (8, badLarder k), (9, badEntries k), (10, decide (256 < k.tensors.length) || k.tensors.any ttBad),
      (11, s.badCounters k), (12, !addrs), (13, badTile k)]
  if !read then 1 else ((tests.find? (·.2)).map (·.1)).getD 0

/-! ## Launch (R325) -/

/-- The kernel of a context with an id. -/
def State.kernel? (s : State) (ctx kid : Nat) : Option Kernel :=
  s.kernels.find? (fun k => k.ctx == ctx && k.kid.toNat == kid)

/-- Changes a kernel. -/
def State.modKernel (s : State) (ctx kid : Nat) (f : Kernel → Kernel) : State :=
  { s with kernels := updFirst (fun k => k.ctx == ctx && k.kid.toNat == kid) f s.kernels }

/-- The record of a kernel refused with BADHDR, or ended under R299 (R330). -/
def State.kernelRecord (s : State) (k : Kernel) (reason : Nat) : State :=
  s.recordCtx k.ctx { Rec.base cBADHDR 0 9 0 k.part k.ctx with kid := k.kid.toNat, synd := .ofNat 64 reason }

/-- A kernel fails with a status and the reason of its record. -/
def State.kernelFails (s : State) (k : Kernel) (status reason : Nat) : State :=
  (s.kernelRecord k reason).modKernel k.ctx k.kid.toNat (fun k => { k with st := .failed, status := status })

/-- A kernel whose tables are still to be read. -/
def Kernel.fresh (ctx part : Nat) (kid : BitVec 32) (queue index : Nat) (pkt : List Word) : Kernel :=
  { ctx := ctx, part := part, kid := kid, queue := queue, index := index, pkt := pkt, header := [],
    actors := [], entries := [], tensors := [], counters := [], st := .waiting, met0 := false, met1 := false,
    next := 0, ended := 0, status := 0, bonus := 0, order := 0, made := false, reserved := false,
    again := [], seen0 := none, seen1 := none }

/-- One table that a header names: its offset's alignment, then its entries. -/
def State.headerTable (s : State) (k : Kernel) (off size n : Nat) : Option (List (List Word)) × State :=
  if off % 32 ≠ 0 then (none, s) else s.dispTable k.ctx (lKhdr k.pkt + off) size n

/-- Reads the header and its tables (R323). -/
def State.readKernel (s : State) (k : Kernel) : Option Kernel × State :=
  let khdr := lKhdr k.pkt
  if khdr % 256 ≠ 0 then (none, s)
  else match s.dispTable k.ctx khdr 256 1 with
    | (none, s) => (none, s)
    | (some hs, s) =>
      let h := hs.flatten
      let k := { k with header := h }
      match s.headerTable k (bitsAt (dw h 3) 31 0) 32 (bitsAt (dw h 3) 47 32) with
      | (none, s) => (none, s)
      | (some as, s) => match s.headerTable k (bitsAt (dw h 4) 31 0) 16 (bitsAt (dw h 4) 47 32) with
        | (none, s) => (none, s)
        | (some es, s) => match s.headerTable k (bitsAt (dw h 5) 31 0) 32 (bitsAt (dw h 5) 40 32) with
          | (none, s) => (none, s)
          | (some ts, s) => match s.headerTable k (bitsAt (dw h 6) 31 0) 16 (bitsAt (dw h 6) 42 32) with
            | (none, s) => (none, s)
            | (some cs, s) =>
              (some { k with actors := as, entries := es, tensors := ts.map tensorOf, counters := cs }, s)

/-- Whether the addresses of a launch pass reason 12. -/
def State.launchAddrs (s : State) (k : Kernel) : Bool × State :=
  let (w0, s) := if lWaddr k.pkt 0 = 0 then (true, s) else s.atomicOk k.ctx (lWaddr k.pkt 0) false
  let (w1, s) := if lWaddr k.pkt 1 = 0 then (true, s) else s.atomicOk k.ctx (lWaddr k.pkt 1) false
  let (c, s) := match lCkind k.pkt with
    | 0 => (true, s)
    | 3 => (false, s)
    | n => s.atomicOk k.ctx (lCaddr k.pkt) (n == 2)
  (w0 && w1 && c, s)

/-- Whether a wait condition holds now (R326). A poisoned dword satisfies none. -/
def State.waitMet (s : State) (k : Kernel) (i : Nat) : Bool × State :=
  if lWaddr k.pkt i = 0 then (true, s)
  else match s.dispRead k.ctx (lWaddr k.pkt i) 8 with
    | (none, s) => (false, s)
    | (some bs, s) => (decide (lWval k.pkt i ≤ leNat bs), s)

/-- What stands in memory at a dword that a context waits on, where it is the device's own: its key, value and poison. -/
def State.dwordSeen (s : State) (ctx va : Nat) : Option (Nat × Word × Bool) :=
  match (s.agentXlat (s.firstCluster (s.partOfCtx ctx)) ctx false .read va 8).1 with
  | .error _ => none
  | .ok x =>
    let key := keyOf (s.partOfCtx ctx) x.pa
    if leafZero x.leaf || outside key then none
    else some (key, .ofNat 64 (leNat (s.mem.bytes key 8)), readPoison 16 s.memPoison key 8)

/-- The same of a kernel's wait condition. -/
def State.waitSeen (s : State) (k : Kernel) (i : Nat) : Option (Nat × Word × Bool) :=
  if lWaddr k.pkt i = 0 then none else s.dwordSeen k.ctx (lWaddr k.pkt i)

/-- Whether a write has changed such a dword since it was seen. -/
def State.seenMoved (s : State) (o : Option (Nat × Word × Bool)) : Bool :=
  match o with
  | none => false
  | some (key, v, p) => (BitVec.ofNat 64 (leNat (s.mem.bytes key 8)), readPoison 16 s.memPoison key 8) != (v, p)

/-- Tests the conditions of a kernel that waits; one observed once stays met (R326). -/
def State.testKernel (s : State) (k : Kernel) : State :=
  let (m0, s) := if k.met0 then (true, s) else s.waitMet k 0
  let (m1, s) := if k.met1 then (true, s) else s.waitMet k 1
  if m0 && m1 then
    let (now, s) := s.takeUid
    s.modKernel k.ctx k.kid.toNat (fun k => { k with met0 := true, met1 := true, st := .ready, bonus := 0, order := now })
  else
    s.modKernel k.ctx k.kid.toNat (fun k =>
      { k with met0 := m0, met1 := m1, seen0 := s.waitSeen k 0, seen1 := s.waitSeen k 1 })

/-- Whether a write has changed a dword that a kernel waits on since its last test. -/
def State.waitMoved (s : State) (k : Kernel) : Bool := s.seenMoved k.seen0 || s.seenMoved k.seen1

/-- The answer of a test that may find nothing new. -/
def tested (s t : State) : Host.Outcome State Fault Refusal := if t = s then nothing s else happens t

/-- The dispatchers test each kernel whose wait lines have been written, before anything else happens (R326). -/
def State.noticeWrites (s : State) : State :=
  (s.kernels.filter (fun k => k.st == .waiting && s.ctxActive k.ctx && s.waitMoved k)).foldl State.testKernel s

/-- A LAUNCH packet of a queue starts: its kernel id, the checks, and the first test (R323, R325, R326). -/
def State.launchKernel (s : State) (ctx queue index : Nat) (pkt : List Word) : State :=
  let p := s.partOfCtx ctx
  let k := Kernel.fresh ctx p (s.part p).launches queue index pkt
  let s := s.modPart p (fun q => { q with launches := q.launches + 1 })
  let (got, s) := s.readKernel k
  let (addrs, s) := s.launchAddrs k
  let k := got.getD k
  let reason := s.headerReason k got.isSome addrs
  let s := { s with kernels := s.kernels ++ [k] }
  if reason ≠ 0 then s.kernelFails k 1 reason else s.testKernel k

/-- KERNEL_ELIGIBILITY_TEST: a test that finds nothing new changes nothing. -/
def execKernelEligibilityTest (ctx kid : Nat) (s : State) : Host.Outcome State Fault Refusal :=
  match s.kernel? ctx kid with
  | none => nothing s
  | some k => if k.st = .waiting && s.ctxActive ctx then tested s (s.testKernel k) else nothing s

/-! ## Choice (R327, R328) -/

/-- Whether a kernel has a cohort to place. -/
def Kernel.open (k : Kernel) : Bool :=
  (k.st == .ready || k.st == .running || k.st == .draining) && (!k.again.isEmpty || decide (k.next < k.total))

/-- A kernel whose bonus has reached 3 and whose next cohort does not fit reserves its partition. -/
def State.reserveIfDue (s : State) (k : Kernel) : State :=
  if k.open && decide (3 ≤ k.bonus) && (s.fitNow k).isNone then
    s.modKernel k.ctx k.kid.toNat (fun k => { k with reserved := true })
  else s

/-- AGE_TICK: another whole 100 µs since a kernel became eligible or last had a cohort placed; when, is
not modelled. -/
def execAgeTick (ctx kid : Nat) (s : State) : Host.Outcome State Fault Refusal :=
  match s.kernel? ctx kid with
  | none => nothing s
  | some k =>
    if k.open && decide (k.bonus < 3) && s.ctxActive ctx then
      let s := s.modKernel ctx kid (fun k => { k with bonus := k.bonus + 1 })
      happens (s.reserveIfDue { k with bonus := k.bonus + 1 })
    else nothing s

/-- Whether kernel `k` goes before `j` (R327): by effective priority, then by queue after the one served
last, then by packet index. -/
def before (last : Nat) (k j : Kernel) : Bool :=
  let turn (k : Kernel) : Nat := (k.queue + 128 - last - 1) % 64
  let pk := lPrio k.pkt + k.bonus
  let pj := lPrio j.pkt + j.bonus
  decide (pj < pk) || (pj == pk && (decide (turn k < turn j) || (turn k == turn j && decide (k.index < j.index))))

/-- The kernel that goes before all others of a list. -/
def pickFirst (lt : Kernel → Kernel → Bool) : List Kernel → Option Kernel
  | [] => none
  | k :: ks => match pickFirst lt ks with
    | none => some k
    | some j => if lt j k then some j else some k

/-! ## Kernel load (R300) -/

/-- The actors with their base slots placed from a granule on, and the granule after them (R437). -/
def placeActors : List ActorDef → Nat → List ActorDef × Nat
  | [], g => ([], g)
  | a :: as, g =>
    let (l, e) := placeActors as (g + a.base)
    ({ a with slotBase := g } :: l, e)

/-- The actor state that kernel load leaves. -/
def ActorSt.load : ActorSt := { head := 0, count := 0, reserved := 0, busy := false, held := 0 }

/-- A check run or tiebreak on a core ends, its sample withdrawn without a verdict; what was set aside is put
back (R300, R395, R438). -/
def State.evictCheck (s : State) (core : Nat) : State :=
  let c := s.coreOf core
  match ((if c.active then [c.cur.act] else []) ++ (c.susp.map (·.act)).toList).find? (·.isCheck) with
  | none => s
  | some a => match a.check.bind (fun u => s.checks.find? (fun k => k.uid == u)) with
    | none => s
    | some k =>
      let s := { s with
        reqs := s.reqs.filter (fun r => r.act != a.uid), ldsWait := s.ldsWait.filter (fun r => r.act != a.uid) }
      let running := c.active && c.cur.act.isCheck
      let c := { c with
        active := c.active && !running, cur := if running then .blank else c.cur
        susp := if running then c.susp else none }
      (s.putCore (c.putBack k)).withdraw k.uid

/-- What kernel load gives core `rank` of group `g` of a cohort. -/
def Kernel.infoFor (k : Kernel) (cohort g rank : Nat) (peers mates : List Nat) (now : Nat) : KernInfo :=
  let h := k.header
  let (as, hi) := placeActors k.actorDefs (16 + hLayout h)
  { ctx := k.ctx, part := k.part, kid := k.kid, cohort := cohort, group := g, groups := hGroups h
    gx := hGX h, gy := hGY h, rx := rank % hGX h, ry := rank / hGX h, regs := hRegs h, wsmax := hWsmax h
    msgGranules := hMsg h, hiSlot := hi, loSlot := hi + hMsg h, actors := as, peers := peers, mates := mates
    parties := (List.range 14).map (fun j => hParties h (j + 2)), hold := hHold h, loadedAt := now
    narrow := hNarrow h, integer := hInt h }

/-- Kernel load of a core (R300): what it puts into the core itself. -/
def Core.load (c : Core) (k : Kernel) (i : KernInfo) : Core :=
  let h := k.header
  let c := (List.range 16).foldl (fun c b => c.setBank b (hBank h b)) c
  let first := 16 + hLayout h
  let larder (d : Nat) : Bool := decide (64 * first ≤ d ∧ d < 0x2000)
  let x : Nat := (c.id + 1) ^^^ (k.kid.toNat % 2 ^ 16)
  { c with
    lm := c.lm.filter (fun b => !larder b.1)
    lmPoison := c.lmPoison.filter (fun d => !larder (8 * d))
    lmEmpty := []
    press := { Press.load with narrow := hNarrow h, integer := hInt h }
    rind := List.replicate 16 .load, tags := List.replicate 16 .empty
    tt := k.tensors.zipIdx.map (fun (e, j) => (j, ttClean e))
    masksHi := List.replicate 8 .zero, masksLo := List.replicate 8 .zero
    active := false, curHi := false, cur := .blank, susp := none, frame := none
    hq := [], lq := [], parked := [], rolled := [], kern := some i
    freeGr := (List.range 128).filter (fun g => decide (i.loSlot + i.msgGranules ≤ g))
    actors := k.actors.map (fun _ => .load), fifoIn := [[], [], [], []]
    l1 := [], batchHi := .empty, batchLo := .empty, batchNo := 0, delays := [], phaseNo := 0, forced := false
    trace := { c.trace with ctl := 0, counts := Trace.load.counts }, watch := [.clear, .clear]
    sampler := .ofNat 16 (if x % 2 ^ 16 = 0 then 1 else x)
    stalled := false, bufStalled := false }

/-- The channels into a core are emptied, and their senders see the whole window (R300). -/
def State.emptyChannels (s : State) (core : Nat) : State :=
  let dirs : List Dir := [.n, .e, .s, .w]
  let near := dirs.filterMap (fun d =>
    if s.connected core d then (neighbour core d).map (fun m => (m, oppDir d)) else none)
  let stale (p : Parcel) : Bool := match p with
    | .chan dst _ _ => dst == core
    | .credit dst d => near.contains (dst, d)
    | .token _ _ _ _ | .reply _ _ _ | .msg _ => false
  let s := { s with parcels := s.parcels.filter (fun p => !stale p) }
  near.foldl (fun s (m, d) => s.modCore m (fun c => { c with window := c.window.set d.num 64 })) s

/-- Kernel load of a core in the order of R300: a check run on it ends first. -/
def State.loadCore (s : State) (k : Kernel) (i : KernInfo) (core : Nat) : State :=
  let s := (s.evictCheck core).emptyChannels core
  s.modCore core (fun c => c.load k i)

/-- The cores of a cohort's groups. -/
def Cohort.cores (c : Cohort) (h : List Word) : List Nat :=
  c.groups.flatMap (fun (cl, ox, oy) => rectCores (hGX h) (hGY h) cl ox oy)

/-- Loads the groups of a cohort, from rank `g` on. -/
def State.loadGroups (s : State) (k : Kernel) (cohort : Nat) (mates : List Nat) (now : Nat) : Nat → List (Nat × Nat × Nat) → State
  | _, [] => s
  | g, (cl, ox, oy) :: rest =>
    let peers := rectCores (hGX k.header) (hGY k.header) cl ox oy
    let s := peers.zipIdx.foldl (fun s (core, r) => s.loadCore k (k.infoFor cohort g r peers mates now) core) s
    s.loadGroups k cohort mates now (g + 1) rest

/-- Creates the counters of a kernel (R257, R329). -/
def State.makeCounters (s : State) (k : Kernel) : State :=
  { s with counters := s.counters ++ k.counters.map (fun c =>
      Counter.make k.ctx (reqHandle c) (reqLog c) (reqStart c) (.ofNat 48 (bitsAt (dw c 0) 63 16))
        ((dw c 0).getLsbD 12) (some k.kid.toNat)) }

/-- A cohort of a kernel is placed: counters and the cells of a barrier set the first time, when the tests of R257 and
R309 are made again, kernel load of its cores, and the kernel's state (R298, R300, R329, R331). -/
def State.placeCohort (s : State) (k : Kernel) (groups : List (Nat × Nat × Nat)) : State :=
  if !k.made && (k.counters.any (fun c => (s.counter? k.ctx (reqHandle c)).isSome) ||
      !s.cellsFor k.part k.ctx (k.counters.map reqLog ++ k.barrierLogs)) then s.kernelFails k 1 11
  else
    let s := if k.made then s else s.makeCounters k
    let (now, s) := s.takeUid
    let index := k.again.headD k.next
    let c : Cohort := { ctx := k.ctx, kid := k.kid, index := index, groups := groups, st := .loading }
    let s := s.loadGroups k index (c.cores k.header) now 0 groups
    let s := { s with cohorts := s.cohorts ++ [c] }
    let s := s.modPart k.part (fun p => { p with lastQueue := k.queue })
    s.modKernel k.ctx k.kid.toNat (fun k =>
      let next := if k.again.isEmpty then k.next + 1 else k.next
      let again := k.again.drop 1
      { k with
        next := next, again := again, bonus := 0, made := true, reserved := false
        st := if next = k.total && again.isEmpty then .draining else .running })

/-- Ends the kernels whose next cohort has no fit even with every usable core free (R299). -/
def State.failUnplaceable (s : State) (ks : List Kernel) : State :=
  ks.foldl (fun s k =>
    if (s.fitOn k.part k.header s.sound).isNone then s.kernelFails k 2 0 else s) s

/-- COHORT_PLACE: the dispatcher of a partition places one cohort of the kernel it chooses. -/
def execCohortPlace (part : Nat) (s : State) : Host.Outcome State Fault Refusal :=
  match s.activeCtx part with
  | none => nothing s
  | some c =>
    let mine (s : State) : List Kernel := s.kernels.filter (fun k => k.ctx == c.id && k.open)
    let s' := s.failUnplaceable (mine s)
    let s' := (mine s').foldl State.reserveIfDue s'
    let held := (mine s').filter (·.reserved)
    let one := if held.isEmpty
      then pickFirst (before (s'.part part).lastQueue) ((mine s').filter (fun k => (s'.fitNow k).isSome))
      else pickFirst (fun k j => decide (k.order < j.order)) held
    match one with
    | none => if s' = s then nothing s else happens s'
    | some k => match s'.fitNow k with
      | none => if s' = s then nothing s else happens s'
      | some groups =>
        let s' := s'.placeCohort k groups
        happens ((mine s').foldl State.reserveIfDue s')

/-! ## Start (R301, R304, R321, R436) -/

/-- The activation that an entry table entry gives a core, and whether it goes to HQ. -/
def Kernel.initialAct (k : Kernel) (e : List Word) (uid : Nat) : Act :=
  let body : List PWord := [{ bits := .ofNat 64 (lArgs k.pkt), poison := false }, { bits := dw e 1, poison := false }]
  let actor := k.actorAt e
  let a := Act.make uid (.ofNat 48 (addr48 (dw e 0))) body (entHi e && actor.isNone) actor (k.kid.setWidth 16) 0
  { a with
    initial := actor.isSome
    redeliverable := match actor.bind (fun i => k.actorDefs[i]?) with
      | some d => d.revocable
      | none => true }

/-- Gives a core of a rank its initial activations, in table order. -/
def State.startCore (s : State) (k : Kernel) (core rank : Nat) : State :=
  (k.entries.filter (fun e => entRank e == 0xFF || entRank e == rank)).foldl (fun s e =>
    let (uid, s) := s.takeUid
    let a := k.initialAct e uid
    let q : QEntry := { act := a, resume := none, extra := false }
    s.modCore core (fun c => if a.hi then { c with hq := c.hq ++ [q] } else { c with lq := c.lq ++ [q] })) s

/-- The barriers of a cohort at its start (R304, R308). -/
def Cohort.barriers (c : Cohort) (k : Kernel) : List Barrier :=
  let h := k.header
  let all := c.cores h
  let id (handle group : Nat) : BarId := { kid := k.kid.toNat, cohort := c.index, handle := handle, group := group }
  c.groups.zipIdx.map (fun ((cl, ox, oy), g) =>
      Barrier.make k.ctx (id 0 g) (hCores h) (rectCores (hGX h) (hGY h) cl ox oy)) ++
    [Barrier.make k.ctx (id 1 0) all.length all] ++
    (List.range 14).filterMap (fun j =>
      let n := hParties h (j + 2)
      if n = 0 then none else some (Barrier.make k.ctx (id (j + 2) 0) n all))

/-- Whether a cohort is the one named. -/
def Cohort.is (c : Cohort) (ctx kid cohort : Nat) : Bool := c.ctx == ctx && c.kid.toNat == kid && c.index == cohort

/-- COHORT_START. -/
def execCohortStart (ctx kid cohort : Nat) (s : State) : Host.Outcome State Fault Refusal :=
  match s.cohorts.find? (·.is ctx kid cohort), s.kernel? ctx kid with
  | some c, some k =>
    if c.st ≠ .loading || !s.ctxActive ctx then nothing s
    else
      let s := { s with
        barriers := s.barriers ++ c.barriers k
        cohorts := updFirst (·.is ctx kid cohort) (fun c => { c with st := .running }) s.cohorts }
      happens (c.groups.foldl (fun s (cl, ox, oy) =>
        (rectCores (hGX k.header) (hGY k.header) cl ox oy).zipIdx.foldl (fun s (core, r) => s.startCore k core r) s) s)
  | _, _ => nothing s

/-! ## The end of a cohort (R305, R306) -/

/-- Whether something is on its way to a core that would make it busy. -/
def State.inFlightTo (s : State) (core : Nat) : Bool :=
  s.liveCores.any (fun c => (s.coreOf c).outbox.any (fun m => m.dst == core)) ||
    s.parcels.any (fun p => match p with
      | .token _ dst _ _ => dst == core
      | .reply dst _ _ => dst == core
      | .msg m => m.dst == core
      | .chan _ _ _ | .credit _ _ => false)

/-- Whether a core is quiet (R305). A check run on it does not count (R302); a sample of its own counts under HOLD only
(R394). -/
def State.quietCore (s : State) (core : Nat) : Bool :=
  let c := s.coreOf core
  let checking := (c.active && c.cur.act.isCheck) || ((c.susp.map (·.act.isCheck)).getD false)
  (!c.active || c.cur.act.isCheck) && ((c.susp.map (·.act.isCheck)).getD true) && c.frame.isNone &&
    c.hq.isEmpty && c.lq.isEmpty && c.parked.isEmpty && c.rolled.isEmpty && c.inHi.isEmpty && c.inLo.isEmpty &&
    c.outbox.isEmpty && !s.inFlightTo core &&
    (List.range c.actors.length).all (fun i => !s.canFire core i) && (checking || c.press.pend == 0) &&
    !c.batchHi.openUsed && c.batchHi.sealedList.isEmpty && !c.batchLo.openUsed && c.batchLo.sealedList.isEmpty &&
    s.checks.all (fun k => k.core != core || (k.outs.isNone && !(k.kern.map (·.hold)).getD false))

/-- Whether every write of a core has been acknowledged and its atomics have executed (R306). -/
def State.storesDone (s : State) (core : Nat) : Bool :=
  (s.coreOf core).storeBuf.isEmpty && s.reqs.all (fun r => r.served || r.core != core ||
    (match r.kind with
      | .atomic _ _ _ _ _ _ _ => false
      | .load _ _ _ _ _ | .row _ _ | .pref _ _ | .tile _ _ _ _ _ => true))

/-- A core leaves its cohort (R306). -/
def Core.leave (c : Core) : Core := { c with kern := none }

/-- Whether a cohort is placed on a core, one of a SAVED context too (R302, R393). -/
def State.placedOn (s : State) (core : Nat) : Bool :=
  (s.coreOf core).kern.isSome || s.contexts.any (fun c => match c.saved with
    | none => false
    | some v => v.cores.any (fun x => x.id == core && x.kern.isSome))

/-- A core that is due for quarantine enters it when no cohort is placed on it any longer (R393). -/
def Core.settleDue (c : Core) (placed : Bool) : Core :=
  if c.dueQ && !placed then { c with dueQ := false, quarantined := true } else c
def State.settleDue (s : State) (core : Nat) : State := s.modCore core (fun c => c.settleDue (s.placedOn core))

/-- Whether an activation is a check run that a core holds. -/
def Core.runsCheck (c : Core) (act : Nat) : Bool :=
  (c.cur.act :: (c.susp.map (·.act)).toList).any (fun a => a.isCheck && a.uid == act)

/-- The end of a cohort: its ripening copies are committed, its barriers freed and its cores usable. -/
def State.endCohort (s : State) (ctx kid cohort : Nat) (cores : List Nat) : State :=
  let mine (d : Dom) : Bool := d.ctx == ctx && d.bar.kid == kid && d.bar.cohort == cohort
  let s := s.commitAll (fun r => mine r.dom)
  let s := { s with
    forcedDoms := s.forcedDoms.filter (fun f => !mine f.1)
    barriers := s.barriers.filter (fun b => !mine { ctx := b.ctx, bar := b.id })
    tokens := s.tokens.filter (fun t => match t.net with
      | .barrier b => !mine { ctx := t.ctx, bar := b }
      | .counter _ => true)
    reqs := s.reqs.filter (fun r => !cores.contains r.core || (s.coreOf r.core).runsCheck r.act)
    cohorts := s.cohorts.filter (fun c => !c.is ctx kid cohort) }
  let s := cores.foldl (fun s c => (s.modCore c Core.leave).settleDue c) s
  s.modKernel ctx kid (fun k =>
    { k with ended := k.ended + 1, st := if k.st = .running && k.open then .ready else k.st })

/-- Whether the cohorts of a context come to an end in a state of it: running ones where it is ACTIVE, and all where a
context error has ended their activations (Tables 13.3 and 16.2). -/
def State.cohortEnds (s : State) (c : Cohort) : Bool :=
  match s.ctx? c.ctx with
  | none => false
  | some x => match x.st with
    | .active => c.st == .running
    | .error => true
    | .preempting | .saved | .restoring => false

/-- COHORT_END. -/
def execCohortEnd (ctx kid cohort : Nat) (s : State) : Host.Outcome State Fault Refusal :=
  match s.cohorts.find? (·.is ctx kid cohort), s.kernel? ctx kid with
  | some c, some k =>
    let cores := c.cores k.header
    if s.cohortEnds c && cores.all (fun i => s.quietCore i && s.storesDone i) then
      happens (s.endCohort ctx kid cohort cores)
    else nothing s
  | _, _ => nothing s

/-! ## The end of a kernel (R330) -/

/-- The dispatcher's STF of a dword: the word or slot becomes full and LDS waiters wake (R169). -/
def State.dispStf (s : State) (t : Target) (v : Word) : State :=
  s.perform { tgt := t, bytes := dwordBytes v, pois := List.replicate 8 false, full := true, cls := .direct,
              writer := 16384, act := 0, seq := 0 }

/-- The completion write; PAGE or PROT when it fails its checks. -/
def State.signalKernel (s : State) (k : Kernel) : Option Nat × State :=
  let kind := lCkind k.pkt
  let va := lCaddr k.pkt
  if (kind ≠ 1 ∧ kind ≠ 2) ∨ va % 8 ≠ 0 then (none, s)
  else match s.dispAtomic k.ctx va (kind == 2) with
    | (.error .prot, s) => (some cPROT, s)
    | (.error .page, s) => (some cPAGE, s)
    | (.error (.poison _), s) => (some cPAGE, s)
    | (.ok x, s) =>
      let t : Target := .phys (keyOf k.part x.pa)
      if kind = 1 then (none, (s.atomic k.part t .add 8 1 0 (leafPol x.leaf != 0)).2)
      else (none, s.dispStf t (.ofNat 64 (1 + k.status * 256)))

/-- KERNEL_COMPLETE: every cohort that was placed has ended, and no more will be; in a context that is ACTIVE, or in
ERROR with its kernels FAILED (Table 15.4). -/
def execKernelComplete (ctx kid : Nat) (s : State) : Host.Outcome State Fault Refusal :=
  match s.kernel? ctx kid with
  | none => nothing s
  | some k =>
    if !(s.ctxActive ctx || ((s.ctx? ctx).map (·.st)) == some .error) then nothing s
    else if !(k.ended + (if k.st = .failed then k.again.length else 0) == k.next &&
      (k.st == .failed || (k.st == .draining && k.next == k.total))) then nothing s
    else
      let (bad, s) := s.signalKernel k
      let own (h : Nat) : Bool := s.counters.any (fun c => c.is ctx h && c.kid == some kid)
      let s := s.dropTokens (fun t => match t.net with
        | .counter h => t.ctx == ctx && own h
        | .barrier _ => false)
      let s := { s with
        cellReqs := s.cellReqs.filter (fun r => !(r.ctx == ctx && own r.handle))
        counters := s.counters.filter (fun c => !(c.ctx == ctx && c.kid == some kid))
        kernels := s.kernels.filter (fun j => !(j.ctx == ctx && j.kid.toNat == kid)) }
      let s := s.packetDone ctx k.queue k.index
      match bad with
      | none => happens s
      | some cls =>
        let s := s.recordCtx ctx
          { Rec.base cls 2 9 0 k.part ctx with
            kid := kid, synd := .ofNat 64 (6 + k.queue % 64 * 2 ^ 16), aux0 := .ofNat 64 (lCaddr k.pkt) }
        happens (s.queueError ctx k.queue 6)

end Sys2Proof.Machine
end

