-- ==== Sys2Proof/Machine/Packets.lean ====
section
/-! DEFINITION. How the dispatcher consumes and starts the packets of a queue (R274 to R282). -/

namespace Sys2Proof.Machine

/-! ## Packets (R279 to R281) -/

/-- Fields of a packet's header (Table 12.2). -/
def pktType (p : List Word) : Nat := bitsAt (dw p 0) 7 0
def pktBarrier (p : List Word) : Bool := (dw p 0).getLsbD 8

/-- Fields of SIGNAL and WAIT (Table 12.4). -/
def sigOp (p : List Word) : Nat := bitsAt (dw p 0) 18 16
def sigAddr (p : List Word) : Nat := addr48 (dw p 1)

/-- Whether a reserved field of a packet is not zero (R278, reason 3). -/
def pktReserved (p : List Word) : Bool :=
  bitsAt (dw p 0) 15 9 != 0 ||
    (match pktType p with
      | 1 => bitsAt (dw p 0) 63 18 != 0 || bitsAt (dw p 1) 63 48 != 0 || bitsAt (dw p 2) 63 32 != 0 ||
          bitsAt (dw p 4) 61 48 != 0
      | 3 => sigReserved p || dw p 3 != 0
      | 4 => sigReserved p
      | _ => false)
where
  /-- The same of the fields that SIGNAL and WAIT share. -/
  sigReserved (p : List Word) : Bool :=
    bitsAt (dw p 0) 63 19 != 0 || decide (2 < sigOp p) || bitsAt (dw p 1) 63 48 != 0 ||
      dw p 4 != 0 || dw p 5 != 0 || dw p 6 != 0 || dw p 7 != 0

/-- The reason for which a consumed packet puts its queue in ERROR, 0 for none. -/
def pktReason (p : List Word) (poison : Bool) : Nat :=
  if poison then 1 else if 5 ≤ pktType p then 2 else if pktReserved p then 3 else 0

/-! ## Consumption (R275) -/

/-- The packet of a queue that has been consumed and has not started. -/
def Queue.unstarted (q : Queue) : Option Pkt := q.pkts.find? (fun k => !k.started)

/-- The WAIT packet that holds a queue (R282). -/
def Queue.waiting (q : Queue) : Option Pkt := q.pkts.find? (fun k => k.started && pktType k.dws == 4)

/-- PACKET_CONSUME: the 64 bytes of slot RD, its full bit and RD; a packet that fails a check of R278 is
not started. -/
def execPacketConsume (ctx num : Nat) (s : State) : Host.Outcome State Fault Refusal :=
  match s.queue? ctx num with
  | none => nothing s
  | some q =>
    if !s.ctxActive ctx || !(q.st == .waiting || q.st == .running) || q.unstarted.isSome || q.waiting.isSome ||
      !s.headFull q then nothing s
    else
      let p := s.partOfCtx ctx
      let key := s.slotKey q q.rd
      let (bs, s) := s.readPhys p key 64
      let dws := dwordsOf (bs.map (·.1))
      let s := s.putFull (.phys key) false
      let r := pktReason dws (bs.any (·.2))
      if r ≠ 0 then
        let s := s.modQueue ctx num (fun q => { q with rd := q.rd + 1 })
        happens ((s.queueRecord ctx num r key 0).queueError ctx num r)
      else
        let new : Pkt := { index := q.rd, dws := dws, started := false, key := key }
        let st := if pktBarrier dws && !q.pkts.isEmpty then QSt.held else s.goOn { q with rd := q.rd + 1 }
        happens (s.modQueue ctx num (fun q => { q with rd := q.rd + 1, st := st, pkts := q.pkts ++ [new] }))

/-! ## Starting a packet -/

/-- The packet of a queue that can start now (R275): of a type, the context ACTIVE, the queue not in
ERROR, and with BARRIER every earlier packet completed. -/
def State.startable (s : State) (ctx num type : Nat) : Option Pkt :=
  match s.queue? ctx num with
  | none => none
  | some q => match q.unstarted with
    | none => none
    | some k =>
      if s.ctxActive ctx && q.st != .error && pktType k.dws == type && (!pktBarrier k.dws || q.pkts.length == 1)
      then some k else none

/-- A packet of a queue has started, and perhaps completed: the queue goes on. -/
def State.started (s : State) (ctx num index : Nat) (complete : Bool) : State :=
  match s.queue? ctx num with
  | none => s
  | some q =>
    let st := s.goOn q
    s.modQueue ctx num (fun q =>
      { q with
        st := st
        pkts := if complete then q.pkts.filter (fun k => k.index != index)
          else updFirst (fun k => k.index == index) (fun k => { k with started := true }) q.pkts })

/-- A packet whose address fails puts its queue in ERROR and is not started (R278, reason 4). -/
def State.refusePacket (s : State) (ctx num : Nat) (k : Pkt) : State :=
  ((s.packetDone ctx num k.index).queueRecord ctx num 4 k.key 0).queueError ctx num 4

/-- NOP_PACKET. -/
def execNopPacket (ctx num : Nat) (s : State) : Host.Outcome State Fault Refusal :=
  match s.startable ctx num 0 with
  | none => nothing s
  | some k => happens (s.started ctx num k.index true)

/-- LAUNCH (R280, R323, R325). -/
def execLaunch (ctx num : Nat) (s : State) : Host.Outcome State Fault Refusal :=
  match s.startable ctx num 1 with
  | none => nothing s
  | some k => happens ((s.started ctx num k.index false).launchKernel ctx num k.index k.dws)

/-- COPY_PACKET: the channel of the cluster it names accepts it (R283, R284); a cluster that is not there
ends the copy with status DESC (R286). -/
def execCopyPacket (ctx num : Nat) (s : State) : Host.Outcome State Fault Refusal :=
  match s.startable ctx num 2 with
  | none => nothing s
  | some k =>
    let d := copyDesc k.dws
    match (s.clustersOf (s.partOfCtx ctx))[d.clus]? with
    | none =>
      let s := (s.started ctx num k.index true).queueRecord ctx num 5 k.key 1
      happens (s.queueError ctx num 5)
    | some cluster =>
      if 32 ≤ (s.channelAt cluster d.chan).jobs.length then nothing s
      else
        let (uid, s) := s.takeUid
        let j : CopyJob := {
          uid := uid, desc := k.dws, core := none, hi := false, ctx := ctx, pkt := some (num, k.index), seq := 0
          next := 0, issued := 0, done := 0, status := none, priv := false }
        happens ((s.started ctx num k.index false).acceptCopy cluster d.chan j)

/-- A SIGNAL packet of an OP (R281): the release it makes is done, since what completed before it has been
acknowledged; its address is checked, and `act` is done there. -/
def State.signal (s : State) (ctx num op : Nat) (act : State → Nat → Target → Bool → Word → State) :
    Host.Outcome State Fault Refusal :=
  match s.startable ctx num 3 with
  | none => nothing s
  | some k =>
    let va := sigAddr k.dws
    if sigOp k.dws ≠ op then nothing s
    else if va % 8 ≠ 0 then happens (s.refusePacket ctx num k)
    else match s.dispAtomic ctx va (op == 2) with
      | (.error _, s) => happens (s.refusePacket ctx num k)
      | (.ok x, s) =>
        let p := s.partOfCtx ctx
        let s := s.started ctx num k.index true
        happens (act s p (.phys (keyOf p x.pa)) (leafPol x.leaf != 0) (dw k.dws 2))

/-- SIGNAL_STORE: AST of VALUE. -/
def execSignalStore (ctx num : Nat) (s : State) : Host.Outcome State Fault Refusal :=
  s.signal ctx num 0 (fun s p t thru v => (s.atomic p t .st 8 v.toNat 0 thru).2)

/-- SIGNAL_ADD: AADD of VALUE. -/
def execSignalAdd (ctx num : Nat) (s : State) : Host.Outcome State Fault Refusal :=
  s.signal ctx num 1 (fun s p t thru v => (s.atomic p t .add 8 v.toNat 0 thru).2)

/-- SIGNAL_STORE_FULL: STF of VALUE. -/
def execSignalStoreFull (ctx num : Nat) (s : State) : Host.Outcome State Fault Refusal :=
  s.signal ctx num 2 (fun s _ t _ v => s.dispStf t v)

/-! ## WAIT (R282) -/

/-- Whether a WAIT's condition holds of a dword. -/
def waitHolds (p : List Word) (mem : Word) : Bool :=
  let m := mem &&& dw p 3
  let v := dw p 2 &&& dw p 3
  match sigOp p with
  | 0 => decide (v.toNat ≤ m.toNat)
  | 1 => m == v
  | _ => m != v

/-- Tests a WAIT at the home. A dword that cannot be read, or is poisoned, meets no condition. -/
def State.waitTest (s : State) (ctx : Nat) (k : Pkt) : Bool × State :=
  match s.dispRead ctx (sigAddr k.dws) 8 with
  | (none, s) => (false, s)
  | (some bs, s) => (waitHolds k.dws (.ofNat 64 (leNat bs)), s)

/-- A WAIT is tested: it completes, or its queue is held. -/
def State.testWait (s : State) (ctx num : Nat) (k : Pkt) : State :=
  let (met, s) := s.waitTest ctx k
  let s := s.started ctx num k.index met
  let seen := if met then none else s.dwordSeen ctx (sigAddr k.dws)
  s.modQueue ctx num (fun q => if met then { q with seen := none } else { q with st := .held, seen := seen })

/-- The dispatchers test each WAIT whose line has been written, before anything else happens (R282). -/
def State.noticeWaits (s : State) : State :=
  (s.queues.filter (fun q => q.st == .held && s.ctxActive q.ctx && s.seenMoved q.seen)).foldl (fun s q =>
    match q.waiting with
    | none => s
    | some k => s.testWait q.ctx q.num k) s

/-- WAIT: its address is checked as a SIGNAL's, and its condition tested. -/
def execWait (ctx num : Nat) (s : State) : Host.Outcome State Fault Refusal :=
  match s.startable ctx num 4 with
  | none => nothing s
  | some k =>
    match s.atomicOk ctx (sigAddr k.dws) false with
    | (false, s) => happens (s.refusePacket ctx num k)
    | (true, s) => happens (s.testWait ctx num k)

/-- WAIT_RETEST: a test that finds nothing new changes nothing. -/
def execWaitRetest (ctx num : Nat) (s : State) : Host.Outcome State Fault Refusal :=
  match s.queue? ctx num with
  | none => nothing s
  | some q => match q.waiting with
    | none => nothing s
    | some k => if s.ctxActive ctx && q.st != .error then tested s (s.testWait ctx num k) else nothing s

end Sys2Proof.Machine
end

