-- ==== Sys2Proof/Machine/Traffic.lean ====
section
/-! DEFINITION. What reaches a core from elsewhere: values of its requests (R45, R150, R398), messages,
tokens, replies and channel dwords (R96, R104, R113, R116); and the start, resumption, firing and
redelivery of activations (R95, R97, R98, R385, R388, R436). -/

namespace Sys2Proof.Machine

/-! ## Requests (R45, R150) -/

/-- The request with an identity. -/
def State.req? (s : State) (uid : Nat) : Option Req := s.reqs.find? (fun r => r.uid == uid)

/-- Whether an unserved request may be served: the core's earlier requests for the same bytes and its
earlier direct stores to them come first, and for a tile its earlier atomics, and what a release or an acquire has before
it (R155). -/
def State.readReady (s : State) (r : Req) : Bool :=
  !r.served &&
    (match r.kind.span with
      | some (t, n) => s.atomReady r t n
      | none =>
        !s.reqs.any (fun q => !q.served && q.core == r.core && decide (q.uid < r.uid) && q.kind.isAtomic) &&
          s.pastFence r.core r.act r.after)

/-- The own stores that a request sees at its home (R137, R155). -/
def State.ownFor (s : State) (r : Req) (t : Target) (n : Nat) : List StoreOp := (s.coreOf r.core).unsentAt r.act r.uid t n

/-- Serves a load, a row read or a prefetch at its home. -/
def State.serveRead (s : State) (r : Req) : State :=
  match r.kind with
  | .load t n sx taint fill =>
    let (bs, s) := s.readFor r.use r.core t n fill (s.ownFor r t n)
    (s.serve r.core r.uid (.word (loaded bs sx taint))).countTier2 ((s.partOf r.core).getD 0) t
  | .row t fill =>
    let (bs, s) := s.readFor r.use r.core t 256 fill (s.ownFor r t 256)
    (s.serve r.core r.uid (.row (Row.ofBytes bs))).countTier2 ((s.partOf r.core).getD 0) t
  | .pref key fill => ((s.readFor r.use r.core (.phys key) 128 fill []).2).countTier2 ((s.partOf r.core).getD 0) (.phys key)
  | .tile e ti tj dst pages => s.serveTile r { e := e, ti := ti, tj := tj } dst pages
  | .atomic _ _ _ _ _ _ _ => s

/-- The slice that serves a request, for the delay field of its response (R398); for a tile, that of its first page. A PREF
carries no field (R397). -/
def State.sliceFor (s : State) (r : Req) : Option Nat :=
  match r.kind with
  | .load t _ _ _ _ | .row t _ => s.sliceOf t
  | .tile _ _ _ _ pages => (pages.findSome? (·.2)).bind (fun k => s.sliceOfKey k.1)
  | .pref _ _ | .atomic _ _ _ _ _ _ _ => none

/-- Whether a request's home is a slice: main memory, and every tile. -/
def ReqKind.atSlice : ReqKind → Bool
  | .load (.phys key) _ _ _ _ | .row (.phys key) _ | .pref key _ => isMainKey key && !outside key
  | .tile _ _ _ _ _ => true
  | .load (.loc _ _) _ _ _ _ | .row (.loc _ _) _ | .atomic _ _ _ _ _ _ _ => false

/-- Whether a request is a read of another core, second-tier memory or the host, which its response brings
in one step. A peer serves by PEER_ACCESS. -/
def ReqKind.elsewhere : ReqKind → Bool
  | .load (.loc _ _) _ _ _ _ | .row (.loc _ _) _ => true
  | .load (.phys key) _ _ _ _ | .row (.phys key) _ | .pref key _ =>
    !(isMainKey key && !outside key) && !isPeerPA (keyPA key)
  | .tile _ _ _ _ _ | .atomic _ _ _ _ _ _ _ => false

/-- SLICE_READ: the home slice serves request `uid` from ripening and committed copies (R150). -/
def execSliceRead (uid : Nat) (s : State) : Host.Outcome State Fault Refusal :=
  match s.req? uid with
  | none => nothing s
  | some r =>
    if r.kind.atSlice && s.readReady r then happens ((s.serveRead r).markServed uid (s.sliceFor r)) else nothing s

/-- The clocks that a core waited on memory for a response, a free value (R346; log entry 8). -/
def State.waited (s : State) (core : Nat) : State :=
  let (w, s) := s.takeFree
  s.modCore core (fun c => { c with nWait := c.nWait + w.toNat })

/-- A response reaches its core: its delay counts, and its value arrives in its slot (R45, R398). -/
def State.respond (s : State) (r : Req) (delay : Nat) : State :=
  let s := { s with reqs := s.reqs.filter (fun q => q.uid != r.uid) }
  let s := match r.slice with
    | some n => s.modCore r.core (fun c => c.addDelay (n % 64) (min delay 4095))
    | none => s
  (s.waited r.core).onCore r.core (fun s => s.arriveSlot r.uid)

/-- LOAD_RESPONSE: the value of request `uid` arrives with its delay field. -/
def execLoadResponse (uid delay : Nat) (s : State) : Host.Outcome State Fault Refusal :=
  match s.req? uid with
  | none => nothing s
  | some r =>
    if r.served then happens (s.respond r delay)
    else if r.kind.elsewhere && s.readReady r then happens ((s.serveRead r).respond r delay)
    else nothing s

/-! ## Messages (R94 to R96) -/

/-- The activation that a message becomes (R95, R383). -/
def Msg.act (m : Msg) (uid : Nat) : Act :=
  { Act.make uid m.entry m.body m.hi none m.tag m.replyTo with redeliverable := true }

/-- Room in the queue of a priority (R98, R102). -/
def Core.queueRoom (c : Core) (hi : Bool) : Bool :=
  if hi then decide (c.hq.length < 16) else decide (c.lq.length < 32)

/-- Appends an activation to its queue. -/
def Core.enqueue (c : Core) (a : Act) : Core :=
  let e : QEntry := { act := a, resume := none, extra := false }
  if a.hi then { c with hq := c.hq ++ [e] } else { c with lq := c.lq ++ [e] }

/-- Messages in the input buffer of a priority. -/
def Core.inBuf (c : Core) (hi : Bool) : List Msg := if hi then c.inHi else c.inLo

/-- Messages of a priority move from the input buffer into their queue while it has room (R96). -/
def State.drainBuf (hi : Bool) (core : Nat) : List Msg → State → State
  | [], s => s
  | m :: ms, s =>
    if !(s.coreOf core).queueRoom hi then s
    else
      let (uid, s) := s.takeUid
      drainBuf hi core ms (s.modCore core (fun c =>
        (if hi then { c with inHi := ms } else { c with inLo := ms }).enqueue (m.act uid)))

/-- The same of both priorities of a core. -/
def State.drainIn (s : State) (core : Nat) : State :=
  let s := State.drainBuf true core (s.coreOf core).inHi s
  State.drainBuf false core (s.coreOf core).inLo s

/-- Whether a message goes the way of another: from the same core, to the same core and priority (R96). -/
def Msg.follows (m x : Msg) : Bool := x.src == m.src && x.dst == m.dst && x.hi == m.hi

/-- Whether a parcel is a message that goes the way of another. -/
def Parcel.ahead (m : Msg) : Parcel → Bool
  | .msg x => m.follows x
  | .token _ _ _ _ | .reply _ _ _ | .chan _ _ _ | .credit _ _ => false

/-- A message enters its core's input buffer, and from there, in order, its queue (R96). -/
def State.deliver (s : State) (m : Msg) : State :=
  State.drainIn (s.modCore m.dst (fun c =>
    if m.hi then { c with inHi := c.inHi ++ [m] } else { c with inLo := c.inLo ++ [m] })) m.dst

/-- Whether the input buffer of a message's core has room (R96). -/
def State.bufferRoom (s : State) (m : Msg) : Bool := decide (((s.coreOf m.dst).inBuf m.hi).length < 8)

/-- Messages that wait in the fabric. -/
def State.fabricMessages (s : State) : Nat :=
  (s.parcels.filter (fun p => match p with
    | .msg _ => true
    | .token _ _ _ _ | .reply _ _ _ | .chan _ _ _ | .credit _ _ => false)).length

/-- Message `k` of the outbox of core `src` leaves the core: into the input buffer of its destination, or, while that is
full, into the fabric, whose buffers are finite (R96, R118; how many messages they hold is a free value, log entry 75). -/
def sendOut (src k : Nat) (s : State) : Host.Outcome State Fault Refusal :=
  let out := (s.coreOf src).outbox
  match out[k]? with
  | none => nothing s
  | some m =>
    if (out.take k).any m.follows then nothing s
    else
      let sent := s.modCore src (fun c => { c with outbox := removeAt c.outbox k })
      if !s.parcels.any (Parcel.ahead m) && s.bufferRoom m then happens (sent.deliver m)
      else if s.fabricMessages < Config.fabricRoom then happens { sent with parcels := sent.parcels ++ [.msg m] }
      else nothing s

/-- MESSAGE_ARRIVAL: message `k` that core `src` has sent leaves it; or, for a number 16,384 that no core has, the
message that is parcel `k` of the fabric reaches its core's input buffer, in the order of its sender (R96, R118). -/
def execMessageArrival (src k : Nat) (s : State) : Host.Outcome State Fault Refusal :=
  if src ≠ 16384 then sendOut src k s
  else match s.parcels[k]? with
    | some (.msg m) =>
      if (s.parcels.take k).any (Parcel.ahead m) || !s.bufferRoom m then nothing s
      else happens (State.deliver { s with parcels := removeAt s.parcels k } m)
    | _ => nothing s

/-! ## Tokens, replies and channels -/

/-- Parcel `k` is the first of its way. -/
def State.parcelFirst (s : State) (k : Nat) (same : Parcel → Bool) : Bool := !(s.parcels.take k).any same

/-- Takes parcel `k` off its way. -/
def State.takeParcel (s : State) (k : Nat) : State := { s with parcels := removeAt s.parcels k }

/-- TOKEN_WRITE: a token arrives in the consumer's FIFO, in push order, and its words become full (R97,
R116). -/
def execTokenWrite (k : Nat) (s : State) : Host.Outcome State Fault Refusal :=
  match s.parcels[k]? with
  | some (.token src dst actor dws) =>
    let same (p : Parcel) : Bool := match p with
      | .token a b c _ => a == src && b == dst && c == actor
      | .reply _ _ _ | .chan _ _ _ | .credit _ _ | .msg _ => false
    if !s.parcelFirst k same then nothing s
    else
      let s := s.takeParcel k
      let c := s.coreOf dst
      match c.actorDef actor, c.actors[actor]? with
      | some d, some a =>
        let la := d.slotAddr (a.head + a.count)
        let s := dws.zipIdx.foldl (fun s (v, j) => s.fillDword dst (la + 8 * j) v) s
        happens (s.modActor dst actor (fun a => { a with count := a.count + 1, reserved := a.reserved - 1 }))
      | _, _ => happens s
  | _ => nothing s

/-- REPLY_WRITE: a reply stores its dword and sets it full; when the bank has left scratch mode it is
dropped (R113). -/
def execReplyWrite (k : Nat) (s : State) : Host.Outcome State Fault Refusal :=
  match s.parcels[k]? with
  | some (.reply dst addr v) =>
    let s := s.takeParcel k
    if (s.coreOf dst).scratch addr.toNat 8 then happens (s.fillDword dst addr.toNat v) else happens s
  | _ => nothing s

/-- CHANNEL_DWORD_ARRIVAL: a dword enters the receive FIFO, in send order (R104). -/
def execChannelDwordArrival (k : Nat) (s : State) : Host.Outcome State Fault Refusal :=
  match s.parcels[k]? with
  | some (.chan dst d v) =>
    let same (p : Parcel) : Bool := match p with
      | .chan c f _ => c == dst && decide (f = d)
      | .token _ _ _ _ | .reply _ _ _ | .credit _ _ | .msg _ => false
    if !s.parcelFirst k same then nothing s
    else happens ((s.takeParcel k).modCore dst (fun c =>
      { c with fifoIn := modifyAt (· ++ [v]) c.fifoIn d.num }))
  | _ => nothing s

/-- CHANNEL_CREDIT: the sender learns that a slot is free (R104). -/
def execChannelCredit (k : Nat) (s : State) : Host.Outcome State Fault Refusal :=
  match s.parcels[k]? with
  | some (.credit dst d) =>
    happens ((s.takeParcel k).modCore dst (fun c =>
      { c with window := modifyAt (fun w => min 64 (w + 1)) c.window d.num }))
  | _ => nothing s

/-! ## Samples at a start (R388, R389) -/

/-- The sampler's next state. -/
def stepSampler (x : BitVec 16) : BitVec 16 := if x.getLsbD 0 then (x >>> 1) ^^^ 0xB400 else x >>> 1

/-- Local bytes copied out as a memory at the same addresses, with the poisoned dwords. -/
def Core.copyOut (c : Core) (la n : Nat) : Memory × NatSet :=
  (Memory.setBytes [] la (c.lm.bytes la n),
    (unitsOf 8 la n).foldl (fun p u => if c.lmPoison.has u then p.ins u else p) [])

/-- The slots of an actor's FIFO with the tokens that its firing may pop. -/
def ActorDef.tokenSlots (d : ActorDef) (a : ActorSt) : List Nat := (List.range d.c).map (fun k => d.slotAddr (a.head + a.held + k))

/-- Retains the inputs of a sampled firing on the core in focus (R389); answers the check's identity. -/
def State.retain (s : State) (a : Act) (d : ActorDef) : Nat × State :=
  let (uid, s) := s.takeUid
  let s := s.meetLocal s.core.id (64 * d.slotBase) (64 * d.base)
  let c := s.core
  let (mem, pois) := c.copyOut (64 * d.slotBase) (64 * d.base)
  let toks := if a.initial then [] else match a.actor.bind (fun i => c.actors[i]?) with
    | some st => d.tokenSlots st
    | none => []
  let k : Check := {
    uid := uid, ctx := s.myCtx, core := c.id, act := { a with check := some uid, sampled := false }
    inputs := mem, inPois := pois, tokens := toks, tt := [], kern := c.kern, oHeld := [], oDigest := 0
    ended := false, checker := none, cDigest := none, tie := none, tDigest := none, tHeld := [], grants := []
    savedPress := none, savedRind := [], savedTags := [], savedTt := [], savedCb := 0, savedCbPois := 0 }
  (uid, { s with checks := s.checks ++ [k] })

/-- Bytes that a sample takes of its cluster's check buffer: its body, slot copy, seven special registers and the
tensor table entries it read (R389; log entry 51). -/
def Check.size (k : Check) : Nat := 8 * k.act.body.length + 64 * k.act.slot + 56 + 32 * k.tt.length

/-- Whether the 1 MiB check buffer of the cluster in focus has room for a firing's inputs (R388, R389). -/
def State.checkRoom (s : State) (a : Act) (d : ActorDef) : Bool :=
  let used := ((s.checks.filter (fun k => clusterOf k.core == clusterOf s.core.id)).map Check.size).foldl (· + ·) 0
  decide (used + 8 * a.body.length + 64 * d.base + 56 ≤ 2 ^ 20)

/-- Before a firing of a CHECKABLE actor starts for the first time, the sampler steps, and may sample it
(R388), when the check buffer has room and the context is not being pre-empted (R395). -/
def State.sample (s : State) (a : Act) : Act × State :=
  match a.actor.bind s.core.actorDef with
  | none => (a, s)
  | some d =>
    if !d.checkable || a.redeliv then (a, s)
    else
      let x := stepSampler s.core.sampler
      let s := { s with core := { s.core with sampler := x } }
      let a := { a with checkable := true }
      let ctx := s.ctx? s.myCtx
      let rate := (ctx.map (·.checkrate.toNat % 2 ^ 17)).getD 0
      if x.toNat < rate && !(ctx.map (·.st == .preempting)).getD false && s.checkRoom a d then
        let (u, s) := s.retain a d
        ({ a with check := some u, sampled := true }, s)
      else (a, s)

/-! ## Starts (R95, R98, R99) -/

/-- The slot that an activation takes on the core in focus (R99, R100). -/
def State.inSlot (s : State) (a : Act) : Act :=
  match s.core.kern with
  | none => a
  | some k =>
    let (g, n) := match a.actor.bind s.core.actorDef with
      | some d => (d.slotBase, d.base)
      | none => (if a.hi then k.hiSlot else k.loSlot, k.msgGranules)
    { a with wp := .ofNat 17 (64 * g), slot := n }

/-- Puts a thread in its priority context. -/
def Core.runThread (c : Core) (t : Thread) : Core :=
  let c := { c with active := true, curHi := t.act.hi, cur := t }
  if t.act.hi then { c with wph := t.act.wp } else { c with wpl := t.act.wp }

/-- An activation starts on the core in focus. An initial firing reserves its production now (R436). -/
def State.startAct (s : State) (a : Act) : State :=
  let a := s.inSlot a
  let s := match (if a.initial then a.actor.bind s.core.actorDef else none) with
    | some d => s.reserve d
    | none => s
  let s := s.setBusy a true
  let (a, s) := s.sample a
  let s := s.traceAct 1 0 a 0
  let c := { s.core with nStart := s.core.nStart + 1 }
  { s with core := c.runThread { Thread.blank with act := a, pc := a.entry } }

/-- Takes the entry at a place of HQ or LQ. -/
def Core.dequeue (c : Core) (hi : Bool) (i : Nat) : Option QEntry × Core :=
  if hi then (c.hq[i]?, { c with hq := removeAt c.hq i }) else (c.lq[i]?, { c with lq := removeAt c.lq i })

/-- A granted claim resumes: in its priority context, or, for a handler, in the high one with its trap frame (R102, R338;
log entry 21). Values that have arrived meanwhile are written. -/
def State.resumeClaim (s : State) (t : Thread) (frame : Option TrapFrame) : State :=
  match frame with
  | none => { s with core := s.core.runThread t }
  | some _ =>
    State.applyAll { s with core := { s.core with
      active := true, curHi := true, cur := t, wph := t.act.wp, frame := frame, priv := true, inHandler := true } }

/-- The next activation of the core in focus starts, or a granted claim resumes (R98, R102). -/
def State.startNext (s : State) : Option State :=
  let s := s.suspend
  match s.nextEntry with
  | none => none
  | some (hi, i) =>
    let (e, c) := s.core.dequeue hi i
    let s := { s with core := c }
    match e with
    | none => none
    | some e =>
      let s := match e.resume with
        | some t => s.resumeClaim t e.frame
        | none => s.startAct e.act
      some (s.drainIn s.core.id)

/-- ACTIVATION_START. -/
def execActivationStart (s : State) : Host.Outcome State Fault Refusal :=
  match s.startNext with
  | none => nothing s
  | some s => happens s

/-- ACTIVATION_RESUME: what it waited for at its suspension need not have arrived (R98). -/
def execActivationResume (s : State) : Host.Outcome State Fault Refusal :=
  if !s.resumable then nothing s
  else match s.core.susp with
    | none => nothing s
    | some t =>
      let t := { t with slots := t.slots.map (fun sl => { sl with block := false }) }
      let c := { s.core with susp := none }
      happens { s with core := c.runThread t }

/-- ACTOR_FIRING: an actor of the core in focus whose conditions hold fires (R97). -/
def execActorFiring (actor : Nat) (s : State) : Host.Outcome State Fault Refusal :=
  match s.core.actorDef actor, s.core.kern with
  | some d, some k =>
    if !s.canFire s.core.id actor || s.core.frozen then nothing s
    else
      let (uid, s) := s.takeUid
      let a := { Act.make uid d.entry [] false (some actor) (k.kid.setWidth 16) 0 with redeliverable := d.revocable }
      let s := (s.reserve d).setBusy a true
      happens { s with core := s.core.enqueue a }
  | _, _ => nothing s

/-! ## Redelivery (R385) -/

/-- Whether the press of the core in focus still has to retire a command of an activation. -/
def Core.owesCommands (c : Core) (a : Act) : Bool :=
  c.press.slots.any (fun sl => sl.owner == a.uid && (sl.st == .running || (sl.st == .pending && !c.press.stop)))

/-- REDELIVERY: in a press that has stopped, the commands of activations rolled back are discarded; once those of the one rolled
back first have all retired, what it owns is given back; and it is queued again at the head of its queue, a firing when it can reserve its
slots again (R385). -/
def execRedelivery (s : State) : Host.Outcome State Fault Refusal :=
  match s.core.rolled with
  | [] => nothing s
  | a :: rest =>
    let before := s.core
    let s := { s with core := { s.core with press := s.core.rolled.foldl (fun p a => p.discard a.uid) s.core.press } }
    let soFar : Host.Outcome State Fault Refusal := if s.core.press = before.press then nothing s else happens s
    if s.core.owesCommands a || !s.mayRun s.core.id then soFar
    else
      let (a, s) := s.returnRolled a
      let d := if a.initial then none else a.actor.bind s.core.actorDef
      let room := match d with
        | some d => s.consumerRoom d
        | none => true
      if !room then (if s.core = before then nothing s else happens s)
      else
        let s := match d with
          | some d => s.reserve d
          | none => s
        let c := { s.core with rolled := rest }
        happens { s with core := c.pushFront { act := { a with pushed := 0 }, resume := none, extra := false } }

end Sys2Proof.Machine
end

