-- ==== Sys2Proof/Machine/Contexts.lean ====
section
/-! DEFINITION. Management windows (R376, R377), and the life of a context: creation, destruction, pre-emption
and restore (R332 to R334, R341 to R345), with its user-mode queues (R271, R272). -/

namespace Sys2Proof.Machine

/-! ## Commands (R376, R377) -/

/-- How a command answers: done, refused (RESULT 1), failed with a state of its own (RESULT 1 as well), a bad argument
(RESULT 2), or under way. -/
inductive Answer where
  | done (s : State)
  | refused
  | failed (s : State)
  | bad
  | pending (s : State)
  deriving DecidableEq, Repr

/-- The registers of a window; none for one that does not exist, as in RECOVERY and without power (R408, R415). -/
def State.window (s : State) (w : Window) : Option MgmtWin :=
  match s.boot with
  | .recovery | .tripped => none
  | .stage _ => match w with
    | .partition p => s.mgmt[p]?
    | .device => some s.devWin

/-- Changes the registers of a window. -/
def State.modWindow (s : State) (w : Window) (f : MgmtWin → MgmtWin) : State :=
  match w with
  | .partition p => { s with mgmt := modifyAt f s.mgmt p }
  | .device => { s with devWin := f s.devWin }

/-- A command of a window completes with a RESULT. -/
def State.result (s : State) (w : Window) (r : BitVec 8) : State :=
  s.modWindow w (fun m => { m with busy := false, result := r })

/-- A write of a command to a window: dropped with RESULT 3 while BUSY is 1, else carried out with the
window's argument block. -/
def State.command (s : State) (w : Window) (f : (Nat → Word) → State → Answer) : Host.Outcome State Fault Refusal :=
  match s.window w with
  | none => nothing s
  | some m =>
    if m.busy then happens (s.modWindow w (fun m => { m with result := 3 }))
    else match f (fun j => m.arg.getD j 0) s with
      | .done t => happens (t.result w 0)
      | .refused => happens (s.result w 1)
      | .failed t => happens (t.result w 1)
      | .bad => happens (s.result w 2)
      | .pending t => happens (t.modWindow w (fun m => { m with busy := true }))

/-- Dword `j` of a partition window's result block. -/
def State.setArg (s : State) (part j : Nat) (v : Word) : State :=
  s.modWindow (.partition part) (fun m => { m with arg := m.arg.set j v })

/-- A context of a partition, in a state that `ok` accepts. -/
def State.ctxIn (s : State) (part ctx : Nat) (ok : CtxSt → Bool) : Option Context :=
  match s.ctx? ctx with
  | none => none
  | some c => if c.part = part && ok c.st then some c else none

/-- Whether a number can be a context id (Table 16.1). -/
def ctxId (n : Nat) : Bool := decide (1 ≤ n ∧ n ≤ 65534)

/-! ## Creation and destruction (R332, R333, R377) -/

/-- The bytes of a partition's save area (R341). -/
def State.saveSize (s : State) (p : Nat) : Nat := 0x30000 * (s.coresOf p).length + (Config.saveLen p).toNat

/-- A core as a new context finds it: what a context's counters and handler address start from (R332, R346). -/
def Core.forContext (c : Core) (tvec : BitVec 48) : Core :=
  { c with tvec := tvec, nInstr := 0, nStart := 0, nPress := 0, nWait := 0 }

/-- A context as its descriptor gives it (Table 16.1). -/
def newContext (d : Nat → Word) (st : CtxSt) (saved : Option Saved) : Context :=
  { id := bitsAt (d 1) 15 0, part := bitsAt (d 1) 19 16, st := st, desc := (List.range 8).map d
    cntpol := d 7 &&& 0xFFFF003F, checkrate := .ofNat 64 (bitsAt (d 6) 16 0), tail := 0, lost := 0, pendingTail := []
    traceBase := 0, traceLog := 0, traceNext := 0, corrected := 0, latch := 0, saved := saved }

/-- What a context that is created in saved form brings to its cores. -/
def State.blankSave (s : State) (part : Nat) (tvec : BitVec 48) : Saved :=
  { cores := (s.coresOf part).map (fun id => (Core.reset id).forContext tvec), ripening := [], forced := []
    channels := [], ldsWait := [], record := 0 }

/-- A partition passes to a context: the ripening copies of the others, which are SAVED, leave the slices and are saved with
them (R154). -/
def State.passTo (s : State) (part ctx : Nat) : State :=
  let out (c : Context) : Bool := c.part == part && c.id != ctx && c.saved.isSome
  let take (c : Context) : Context :=
    { c with saved := c.saved.map (fun v => { v with
      ripening := v.ripening ++ s.ripening.filter (fun r => r.dom.ctx == c.id) }) }
  { s with
    contexts := updAll out take s.contexts
    ripening := s.ripening.filter (fun r => !s.contexts.any (fun c => out c && r.dom.ctx == c.id)) }

/-- CREATE: ranges that the descriptor's rules give, then the refusals of R332. -/
def execCreate (part : Nat) (s : State) : Host.Outcome State Fault Refusal :=
  s.command (.partition part) (fun d s =>
    let id := bitsAt (d 1) 15 0
    let log := bitsAt (d 5) 4 0
    let save := addr48 (d 3)
    let fq := addr48 (d 4)
    let main := s.mainBytes part
    let tvec := addr48 (d 2) / 2 * 2
    if bitsAt (d 1) 19 16 ≠ part ∨ !ctxId id ∨ save % 4096 ≠ 0 ∨ fq % 64 ≠ 0 ∨ log < 4 ∨ 16 < log ∨
        65536 < bitsAt (d 6) 16 0 ∨ 48 < bitsAt (d 7) 5 0 then .bad
    else if (s.ctx? id).isSome ∨ main < save + s.saveSize part ∨ fq < 64 ∨ main < fq + 64 * 2 ^ log then
      .refused
    else
      let taken := s.contexts.any (fun c => c.part == part && c.st != .saved)
      let s := s.directWrite (physKey part (fq - 64)) (List.replicate (64 + 64 * 2 ^ log) 0)
      if taken then
        .done { s with contexts := s.contexts ++ [newContext d .saved (some (s.blankSave part (.ofNat 48 tvec)))] }
      else
        let s := (s.coresOf part).foldl (fun s i => s.modCore i (fun c => c.forContext (.ofNat 48 tvec))) s
        let s := s.passTo part id
        .done { s with contexts := s.contexts ++ [newContext d .active none] })

/-- A core without any group or activation; what belongs to the core itself, and its memory, stay (R344). -/
def Core.idle (c : Core) : Core :=
  { Core.reset c.id with
    lm := c.lm, lmPoison := c.lmPoison, bankModes := c.bankModes, icache := c.icache, suspicion := c.suspicion
    passes := c.passes, dueQ := c.dueQ, quarantined := c.quarantined }

/-- Whether a core is one of some. -/
def Parcel.for (cores : List Nat) : Parcel → Bool
  | .token _ dst _ _ => cores.contains dst
  | .reply dst _ _ => cores.contains dst
  | .chan dst _ _ => cores.contains dst
  | .credit dst _ => cores.contains dst
  | .msg m => cores.contains m.dst

/-- Takes the objects of a context off the device (R377). -/
def State.dropObjects (s : State) (ctx : Nat) : State :=
  let cores := s.coresOfCtx ctx
  let free (q : Queue) (s : State) : State :=
    s.directWrite (physKey (s.partOfCtx ctx) q.ctl + 8) (dwordBytes 0)
  let s := (s.queues.filter (fun q => q.ctx == ctx)).foldl (fun s q => free q s) s
  let dropJobs (ch : Channel) : Channel := { ch with jobs := ch.jobs.filter (fun j => j.ctx != ctx) }
  let s := s.dropTokens (fun t => t.ctx == ctx)
  let s := { s with
    queues := s.queues.filter (fun q => q.ctx != ctx)
    counters := s.counters.filter (fun c => c.ctx != ctx)
    barriers := s.barriers.filter (fun b => b.ctx != ctx)
    kernels := s.kernels.filter (fun k => k.ctx != ctx)
    cohorts := s.cohorts.filter (fun c => c.ctx != ctx)
    checks := s.checks.filter (fun k => k.ctx != ctx)
    cellReqs := s.cellReqs.filter (fun r => r.ctx != ctx)
    ripening := s.ripening.filter (fun r => r.dom.ctx != ctx)
    forcedDoms := s.forcedDoms.filter (fun f => f.1.ctx != ctx)
    channels := s.channels.map dropJobs
    rowWrites := s.rowWrites.filter (fun w => w.ctx != ctx)
    tlb := s.tlb.filter (fun e => e.ctx != ctx)
    reqs := s.reqs.filter (fun r => !cores.contains r.core)
    ldsWait := s.ldsWait.filter (fun r => !cores.contains r.core)
    parcels := s.parcels.filter (fun p => !p.for cores) }
  cores.foldl (fun s i => s.modCore i Core.idle) s

/-- DESTROY: refused for a context that is ACTIVE or being pre-empted. A core that is due for quarantine and on which only
this context's cohorts were placed enters it (R393). -/
def execDestroy (part ctx : Nat) (s : State) : Host.Outcome State Fault Refusal :=
  s.command (.partition part) (fun _ s =>
    if !ctxId ctx then .bad
    else match s.ctxIn part ctx (fun st => st == .saved || st == .error) with
      | none => .refused
      | some _ =>
        let s := s.dropObjects ctx
        let s := { s with contexts := s.contexts.filter (fun c => c.id != ctx) }
        .done (s.liveCores.foldl State.settleDue s))

/-! ## User-mode queues (R271, R272) -/

/-- The lowest queue number that a context has free. -/
def State.freeQueue (s : State) (ctx : Nat) : Option Nat :=
  (List.range 64).find? (fun n => (s.queue? ctx n).isNone)

/-- The width of a queue's counter. -/
def queueWidth : Nat := Config.queueLog % 6 + 1

/-- QCREATE: an empty ring, RD 0, and a counter with NOGIVE, BASE 0 and, as the spec gives it none, START 0 (log entry
29). -/
def execQcreate (part ctx : Nat) (s : State) : Host.Outcome State Fault Refusal :=
  s.command (.partition part) (fun d s =>
    let base := addr48 (d 0)
    let log := bitsAt (d 1) 4 0
    let ctl := addr48 (d 2)
    let h := bitsAt (d 3) 9 0
    let main := s.mainBytes part
    if !ctxId ctx ∨ log < 4 ∨ 16 < log ∨ base % (64 * 2 ^ log) ≠ 0 ∨ main < base + 64 * 2 ^ log ∨ ctl % 128 ≠ 0 ∨
        main < ctl + 128 then .bad
    else match s.ctxIn part ctx (fun st => st == .active || st == .saved) with
      | none => .refused
      | some c => match s.freeQueue ctx with
        | none => .refused
        | some n =>
          if (s.counter? ctx h).isSome || !s.cellsFor part ctx [queueWidth] then .refused
          else
            let lo := physKey part base / 64
            let saved := c.st == .saved
            let q : Queue := { ctx := ctx, num := n, base := base, logq := log, ctl := ctl, handle := h, rd := 0
                               st := .waiting, reason := 0, pkts := [] }
            let s := { s with
              queues := s.queues ++ [q]
              counters := s.counters ++ [Counter.make ctx h queueWidth 0 0 true none]
              fullSlots := s.fullSlots.filter (fun k => !decide (lo ≤ k ∧ k < lo + 2 ^ log)) }
            let s := s.directWrite (physKey part ctl) (dwordBytes 0)
            let s := s.directWrite (physKey part ctl + 8) (dwordBytes (if saved then 5 else q.stateWord))
            .done (s.setArg part 0 (.ofNat 64 n)))

/-- QDESTROY: the queue is FREE, and its counter freed; operations of cores in flight on it get no answer (log entry 92). -/
def execQdestroy (part ctx q : Nat) (s : State) : Host.Outcome State Fault Refusal :=
  s.command (.partition part) (fun _ s =>
    if !ctxId ctx ∨ 63 < q then .bad
    else match s.ctxIn part ctx (fun _ => true), s.queue? ctx q with
      | some _, some x =>
        let s := s.dropTokens (fun t => t.on ctx (.counter x.handle))
        let s := { s with
          queues := s.queues.filter (fun y => !(y.ctx == ctx && y.num == q))
          counters := s.counters.filter (fun c => !c.is ctx x.handle)
          cellReqs := s.cellReqs.filter (fun r => !(r.ctx == ctx && r.handle == x.handle)) }
        .done (s.directWrite (physKey part x.ctl + 8) (dwordBytes 0))
      | _, _ => .refused)

/-- QRESET: ERROR to WAITING, with RD unchanged. -/
def execQreset (part ctx q : Nat) (s : State) : Host.Outcome State Fault Refusal :=
  s.command (.partition part) (fun _ s =>
    if !ctxId ctx ∨ 63 < q then .bad
    else match s.ctxIn part ctx (fun st => st == .active), s.queue? ctx q with
      | some _, some x =>
        if x.st ≠ .error then .refused
        else .done (s.modQueue ctx q (fun x => { x with st := .waiting, reason := 0 }))
      | _, _ => .refused)

/-! ## Pre-emption (R341, R342, R345) -/

/-- The cohorts of a context that are still LOADING are UNPLACED again, and their cores free. -/
def State.unplace (s : State) (ctx : Nat) : State :=
  (s.cohorts.filter (fun c => c.ctx == ctx && c.st == .loading)).foldl (fun s c =>
    match s.kernel? ctx c.kid.toNat with
    | none => s
    | some k =>
      let s := (c.cores k.header).foldl (fun s i => (s.modCore i Core.leave).settleDue i) s
      let s := { s with cohorts := s.cohorts.filter (fun d => !d.is ctx c.kid.toNat c.index) }
      s.modKernel ctx c.kid.toNat (fun k =>
        { k with again := NatSet.ins k.again c.index, st := if k.st = .failed then k.st else .ready })) s

/-- Every sample of a context without a verdict is withdrawn, and its check runs end (R395). -/
def State.withdrawAll (s : State) (ctx : Nat) : State :=
  let s := s.liveCores.foldl (fun s i =>
    if ((s.coreOf i).checkKern.map (·.ctx)) = some ctx then s.evictCheck i else s) s
  (s.checks.filter (fun k => k.ctx == ctx)).foldl (fun s k =>
    let off (t : Thread) : Thread :=
      if t.act.check = some k.uid then { t with act := { t.act with sampled := false, check := none } } else t
    let entry (e : QEntry) : QEntry := { e with resume := e.resume.map off }
    let s := s.modCore k.core (fun c =>
      let c := c.mapThreads off
      { c with parked := c.parked.map (fun p => { p with th := off p.th }), hq := c.hq.map entry, lq := c.lq.map entry })
    s.withdraw k.uid) s

/-- PREEMPT: the request; the command completes with the last copy-out. -/
def execPreempt (part ctx : Nat) (s : State) : Host.Outcome State Fault Refusal :=
  s.command (.partition part) (fun _ s =>
    if !ctxId ctx then .bad
    else match s.ctxIn part ctx (fun st => st == .active) with
      | none => .refused
      | some _ =>
        let s := (s.unplace ctx).withdrawAll ctx
        .pending (s.modCtx ctx (fun c => { c with st := .preempting })))

/-- The context of a partition that is being pre-empted. -/
def State.preempting (s : State) (p : Nat) : Option Context :=
  s.contexts.find? (fun c => c.part == p && c.st == .preempting)

/-- CORE_PREEMPT_STOP: a core stops at an instruction boundary; waiting instructions are abandoned, its LDS requests are
withdrawn from their words (R169, R342), and its stores leave, those of the write-combining buffer as they find room (R131,
R137). -/
def execCorePreemptStop (core : Nat) (s : State) : Host.Outcome State Fault Refusal :=
  if ((s.partOf core).bind s.preempting).isNone || (s.coreOf core).frozen then nothing s
  else
    let mine := s.ldsWait.filter (fun r => r.core == core)
    let s := { s with ldsWait := s.ldsWait.filter (fun r => r.core != core) }
    happens (s.modCore core (fun c => { c.tryDrain with frozen := true, withdrawn := c.withdrawn ++ mine }))

/-- Whether a stopped core has nothing under way: stores acknowledged, the outputs of its samples among them (R395), values
back, running press commands retired (R341 steps 2 to 4). -/
def State.settled (s : State) (core : Nat) : Bool :=
  let c := s.coreOf core
  c.storeBuf.isEmpty && s.reqs.all (fun r => r.core != core) && c.press.slots.all (fun sl => sl.st != .running) &&
    !c.press.filler && s.tokens.all (fun t => t.core != some core || decide (t.layer = 0 ∧ s.netSaved t.ctx)) &&
    s.cellReqs.all (fun r => r.core != core) && s.checks.all (fun k => k.core != core)

/-- CORE_PREEMPT_ACK; before it, what still gathers in the write-combining buffer leaves once it finds room. -/
def execCorePreemptAck (core : Nat) (s : State) : Host.Outcome State Fault Refusal :=
  let c := s.coreOf core
  if ((s.partOf core).bind s.preempting).isNone || !c.frozen || c.acked then nothing s
  else if c.storeBuf.any (·.wc) then
    if c.wcFits then happens (s.modCore core Core.drainWc) else nothing s
  else if !s.settled core then nothing s
  else happens (s.modCore core (fun c => { c with acked := true }))

/-- Bits as bytes, the first lowest. -/
def bitBytes (n : Nat) (f : Nat → Bool) : List Byte :=
  (List.range n).map (fun j => .ofNat 8 (((List.range 8).map (fun i => if f (8 * j + i) then 2 ^ i else 0)).foldl (· + ·) 0))

/-- The channels of some cores that are connected, by core and direction. -/
def State.wiredOf (s : State) (cores : List Nat) : List (Nat × Nat) :=
  cores.flatMap (fun i => ([.n, .e, .s, .w] : List Dir).filterMap (fun d => if s.connected i d then some (i, d.num) else none))

/-- One channel's 16 bytes of a save record (Table 16.10). -/
def Core.channelBytes (wired : List (Nat × Nat)) (c : Core) (d : Dir) : List Byte :=
  let q := c.fifoIn.getD d.num []
  let pois := ((q.zipIdx.filter (fun (x, _) => x.poison)).map (fun (_, j) => 2 ^ j)).foldl (· + ·) 0
  dwordBytes (.ofNat 64 (q.length % 128 + c.window.getD d.num 0 % 128 * 256 +
    (if wired.contains (c.id, d.num) then 2 ^ 15 else 0))) ++ dwordBytes (.ofNat 64 pois)

/-- A core's save record (Table 16.10). Parts with a layout of their own are given as the table ties them; the
device's own parts, and what lies between the parts, are free bytes, numbered `n` (log entry 8). -/
def Core.saveRecord (n : Nat) (wired : List (Nat × Nat)) (c : Core) : List Byte :=
  let own (off len : Nat) : List Byte := (List.range len).map (fun j => Config.recordByte n (off + j))
  let dirs : List Dir := [.n, .e, .s, .w]
  c.lm.bytes 0 0x20000 ++ c.saveArea.map (·.1) ++
    c.press.tile.flatMap (fun r => natLE 8 r.pois.toNat) ++
    bitBytes 2048 c.lmPoison.has ++ bitBytes 2048 (fun i => !c.lmEmpty.has i) ++
    (List.range 256).flatMap (fun x => natLE 32 (lookupD 0 c.tt x).toNat) ++
    dirs.flatMap (fun d =>
      let q := c.fifoIn.getD d.num []
      q.flatMap (fun v => dwordBytes v.bits) ++ List.replicate (8 * (64 - q.length)) 0) ++
    dirs.flatMap (c.channelBytes wired) ++ own 0x2A040 0xC0 ++ own 0x2A100 0x1200 ++ List.replicate 256 0 ++ own 0x2B400 0x1680 ++
    (List.range 64).flatMap (fun k =>
      let x := lookupD { sum := 0, count := 0 } c.delays k
      dwordBytes (.ofNat 64 (x.sum + x.count * 2 ^ 40))) ++
    own 0x2CC80 64 ++ List.replicate 13120 0

/-- Where the record of a core goes: SAVEBASE + 192 KiB for each core below it (R341). -/
def Context.saveKey (c : Context) (k : Nat) : Nat := physKey c.part (addr48 (c.desc.getD 3 0) + 0x30000 * k)

/-- Writes the save records of a partition's cores, then the partition-level state, which the device lays out
itself. -/
def State.writeRecords (s : State) (c : Context) (n : Nat) : State :=
  let cores := s.coresOf c.part
  let wired := s.wiredOf cores
  let s' := cores.zipIdx.foldl (fun t (i, k) => t.directWrite (c.saveKey k) ((s.coreOf i).saveRecord n wired)) s
  s'.directWrite (c.saveKey cores.length)
    ((List.range (Config.saveLen c.part).toNat).map (fun j => Config.recordByte (n + 1) j))

/-- What a pre-emption keeps of a context. Its ripening copies stay in their slices (R154). -/
def State.gather (s : State) (c : Context) (cores : List Nat) (n : Nat) : Saved :=
  let cls := s.clustersOf c.part
  { cores := cores.map s.coreOf
    ripening := []
    forced := s.forcedDoms.filter (fun f => f.1.ctx == c.id)
    channels := s.channels.filter (fun ch => cls.contains ch.cluster)
    ldsWait := cores.flatMap (fun i => (s.coreOf i).withdrawn)
    record := n
    msgs := (s.parcels.filter (·.for cores)).filterMap (fun p => match p with
      | .msg m => some m
      | .token _ _ _ _ | .reply _ _ _ | .chan _ _ _ | .credit _ _ => none)
    wired := s.wiredOf (s.coresOf c.part) }

/-- Whether a parcel is a message. -/
def Parcel.isMsg : Parcel → Bool
  | .msg _ => true
  | .token _ _ _ _ | .reply _ _ _ | .chan _ _ _ | .credit _ _ => false

/-- Whether a partition's copy-out can be made: every core has acknowledged, and what is under way in channels
and networks has come to rest. Messages that wait in the fabric are saved (log entry 75). -/
def State.canCopyOut (s : State) (c : Context) (cores : List Nat) : Bool :=
  cores.all (fun i => (s.coreOf i).acked) && s.rowWrites.all (fun w => w.ctx != c.id) &&
    s.tokens.all (fun t => t.ctx != c.id || (t.core.isNone && t.layer == 0)) &&
    s.cellReqs.all (fun r => r.ctx != c.id) && s.parcels.all (fun p => p.isMsg || !p.for cores) &&
    s.barriers.all (fun b => b.ctx != c.id || b.failed || (!b.full && b.owed.isEmpty)) &&
    s.checks.all (fun k => k.ctx != c.id)

/-- The context of a partition that is being restored. -/
def State.restoring (s : State) (p : Nat) : Option Context :=
  s.contexts.find? (fun c => c.part == p && c.st == .restoring)

/-- COPY_OUT: what each core's record holds is read (R442), the records are written, the context is SAVED, and a PREEMPT
record goes to its fault queue (R341 steps 5 to 7). Its UNIT is a free value. A pre-emption that a context error
overtakes is refused. -/
def execCopyOut (part : Nat) (s : State) : Host.Outcome State Fault Refusal :=
  match s.preempting part with
  | none => if ((s.window (.partition part)).map (·.busy)).getD false && (s.restoring part).isNone then happens (s.result (.partition part) 1) else nothing s
  | some c =>
    let cores := s.liveCores.filter (fun i => s.partOf i == some part)
    if !s.canCopyOut c cores then nothing s
    else
      let (n, s) := s.takeUid
      let (_, s) := s.takeUid
      let s := (cores.foldl State.meetCore s).writeRecords c n
      let saved := s.gather c cores n
      let latch := lookupD 0 s.latches part
      let s := s.modCtx c.id (fun c => { c with st := .saved, saved := some saved, latch := latch })
      let s := (s.queues.filter (fun q => q.ctx == c.id)).foldl (fun s q =>
        s.directWrite (physKey part q.ctl + 8) (dwordBytes 5)) s
      let cls := s.clustersOf part
      let s := { s with
        forcedDoms := s.forcedDoms.filter (fun f => f.1.ctx != c.id)
        channels := s.channels.filter (fun ch => !cls.contains ch.cluster)
        parcels := s.parcels.filter (fun p => !p.for cores) }
      let s := cores.foldl (fun s i => s.modCore i Core.idle) s
      let (w, s) := s.takeFree
      let s := s.recordCtx c.id (Rec.base cPREEMPT 0 (w.toNat % 256) 0 part c.id)
      happens (s.result (.partition part) 0)

/-! ## Restore (R343) -/

/-- Whether a core is there for a restore: present, and in the partition. -/
def State.mayReturn (s : State) (part core : Nat) : Bool := s.corePresent core && s.partOf core == some part

/-- Whether the save record at a key is as it was written, as a read finds it that meets what is armed there (R345,
R350). -/
def State.recordStands (s : State) (p key : Nat) (want : List Byte) : Bool × State :=
  if s.armed.isEmpty then
    (s.mem.bytes key want.length == want && !readPoison 16 s.memPoison key want.length, s)
  else
    let (bs, s) := s.readPhys p key want.length
    (bs.map (·.1) == want && !bs.any (·.2), s)

/-- Whether a partition's save records stand (R345). -/
def State.recordsStand (s : State) (c : Context) (v : Saved) : Bool × State :=
  (s.coresOf c.part).zipIdx.foldl (fun (ok, s) (i, k) =>
    let want := ((v.cores.find? (fun x => x.id == i)).getD (Core.reset i)).saveRecord v.record v.wired
    let (one, s) := s.recordStands c.part (c.saveKey k) want
    (ok && one, s)) (true, s)

/-- A saved core comes back; scores and quarantine are the core's own (R344). A press stop whose fault was taken before the
pre-emption is not taken again: the model's reading of R218 (log entry 100). -/
def State.returnCore (s : State) (x : Core) : State :=
  s.modCore x.id (fun c =>
    { x with
      suspicion := c.suspicion, passes := c.passes, dueQ := c.dueQ, quarantined := c.quarantined
      icache := c.icache, l1 := [], frozen := false, acked := false, withdrawn := [] })

/-- The record of a restore that fails (R343, R345). -/
def restoreRec (part ctx : Nat) : Rec := Rec.base cERR 4 0 0 part ctx

/-- RESTORE: the context is RESTORING until all its state is back. It is refused when a core that it left is absent now,
and the context is in ERROR then. -/
def execRestore (part ctx : Nat) (s : State) : Host.Outcome State Fault Refusal :=
  s.command (.partition part) (fun _ s =>
    if !ctxId ctx then .bad
    else match s.ctxIn part ctx (fun st => st == .saved) with
      | none => .refused
      | some c => match c.saved with
        | none => .refused
        | some v =>
          if s.contexts.any (fun x => x.part == part && x.st != .saved) then .refused
          else if !v.cores.all (fun x => s.mayReturn part x.id) then .failed (s.ctxError ctx (restoreRec part ctx))
          else .pending (s.modCtx ctx (fun c => { c with st := .restoring })))

/-- Everything a context left is put back: ripening copies that had left their slices, cores, channels, and the messages
in the fabric; withdrawn LDS requests issue again, and parked claims are tested (R102, R169, R343). -/
def State.putBack (s : State) (c : Context) (v : Saved) : State :=
  let s := v.cores.foldl State.returnCore (s.passTo c.part c.id)
  let old (ch : Channel) : Bool := v.channels.any (fun y => y.cluster == ch.cluster && y.ch == ch.ch)
  let s := v.ripening.foldl (fun s r =>
    let s := s.makeRoom r.line true true
    { s with ripening := s.ripening ++ [r] }) s
  let s := { s with
    forcedDoms := s.forcedDoms ++ v.forced
    channels := s.channels.filter (fun ch => !old ch) ++ v.channels
    ldsWait := s.ldsWait ++ v.ldsWait
    parcels := s.parcels ++ v.msgs.map Parcel.msg
    latches := assocPut s.latches c.part c.latch }
  let s := s.modCtx c.id (fun c => { c with st := .active, saved := none })
  let s := (s.queues.filter (fun q => q.ctx == c.id)).foldl (fun s q =>
    s.directWrite (physKey c.part q.ctl + 8) (dwordBytes q.stateWord)) s
  let s := v.ldsWait.foldl (fun s r => State.serveWaiters r.tgt s.ldsWait s) s
  v.cores.foldl (fun s x => s.onCore x.id State.testParked) s

/-- The end of a RESTORE: the state comes back and the context is ACTIVE, before any activation resumes; a record that
does not stand as it was written fails the restore with a context error (R345). -/
def State.restoreTurn (part : Nat) (s : State) : Host.Outcome State Fault Refusal :=
  match s.restoring part with
  | none => nothing s
  | some c => match c.saved with
    | none => nothing s
    | some v =>
      let (ok, s) := if v.record == 0 then (true, s) else s.recordsStand c v
      if ok then happens ((s.putBack c v).result (.partition part) 0)
      else happens ((s.ctxError c.id (restoreRec part c.id)).result (.partition part) 1)

end Sys2Proof.Machine
end

