-- ==== Sys2Proof/Machine/Fetch.lean ====
section
/-! DEFINITION. Fetching code: the instruction cache (R125), fetch faults (R29, R361), and the bytes at
an address as an instruction's encoding. -/

namespace Sys2Proof.Machine

/-- The cached line of a virtual address of a context (R125). -/
def Core.codeLine (c : Core) (ctx va : Nat) : Option ILine :=
  c.icache.find? (fun l => l.ctx == ctx && l.vline == va / 128)

/-- Puts a line into the instruction cache: 4 ways of 32 sets; the line of a full set filled longest
ago leaves (R125). -/
def Core.fillCode (c : Core) (l : ILine) : Core :=
  let set := c.icache.filter (fun x => x.vline % 32 == l.vline % 32)
  let rest := if 4 ≤ set.length then eraseFirst (fun x => x.vline % 32 == l.vline % 32) c.icache else c.icache
  { c with icache := rest ++ [l] }

/-- One halfword of code at an address, for the core in focus. A page that is not WB is read anew each time (R356). Code lies in the global window; a fetch
of a poisoned granule fails, and its line is not kept (log entry 19). -/
def State.codeHalf (s : State) (va : Nat) : Except Bad Nat × State :=
  if !isGlobal va then (.error .prot, s)
  else match s.translate s.myCluster s.myCtx s.core.priv .exec va 2 with
    | (.error b, s) => (.error b, s)
    | (.ok x, s) =>
      let key := s.keyHere x.pa
      match if leafPol x.leaf = 0 then s.core.codeLine s.myCtx va else none with
      | some l => (.ok (leNat ((l.bytes.drop (va % 128)).take 2)), s)
      | none =>
        if outside key then
          let (bs, s) := s.outsideRead s.core.id key 2
          if bs.any (·.2) then (.error (.poison x.pa), s) else (.ok (leNat (bs.map (·.1))), s)
        else if leafPol x.leaf == 0 then
          let (bs, s) := s.homeRead .normal s.myPart s.core.dom s.core.id (key / 128 * 128) 128 []
          let two := (bs.drop (va % 128)).take 2
          if two.any (·.2) then (.error (.poison x.pa), s)
          else
            let s := if bs.any (·.2) then s
              else { s with core := s.core.fillCode { vline := va / 128, ctx := s.myCtx, bytes := bs.map (·.1) } }
            (.ok (leNat (two.map (·.1))), s)
        else
          let (bs, s) := s.homeRead .bypass s.myPart s.core.dom s.core.id key 2 []
          if bs.any (·.2) then (.error (.poison x.pa), s) else (.ok (leNat (bs.map (·.1))), s)

/-- What a fetch gives: an encoding, or the fault and the address it is for (R29). -/
inductive Fetched where
  | word (w : Nat)
  | bad (b : Bad) (va : Nat)
  deriving DecidableEq, Repr

/-- The instruction at an address: one halfword, or two when bit 0 of the first is 1 (R29). -/
def State.codeWord (s : State) (va : Nat) : Fetched × State :=
  match s.codeHalf va with
  | (.error b, s) => (.bad b va, s)
  | (.ok h, s) =>
    if h % 2 = 0 then (.word h, s)
    else
      let va2 := (va + 2) % 2 ^ 48
      match s.codeHalf va2 with
      | (.error b, s) => (.bad b va2, s)
      | (.ok h2, s) => (.word (h + 65536 * h2), s)

/-- The length in bytes of an encoding (R29). -/
def encLen (w : Nat) : Nat := if w % 2 = 0 then 2 else 4

/-- The cause of a failed fetch. -/
def Bad.cause : Bad → Nat
  | .page => cPAGE
  | .prot => cPROT
  | .poison _ => cPOISON

end Sys2Proof.Machine
end

