-- ==== Sys2Proof/Machine/Lane.lean ====
section
/-! DEFINITION. Lane instructions (chapter 8): masks, sources, the destination writer, and the seven
lane majors, on the uniform form that the repetition buffer also holds. -/

namespace Sys2Proof.Machine

/-! ## Destinations (R176, R177, R180, R182, R183) -/

/-- Writes elements into a tile row. The old row is read, and waited for, when some element stays. -/
def putTile (i : BitVec 6) (w : Nat) (outs : List OutLane) (mp : List Bool) : M Unit := do
  let old ← if outs.all (·.isSome) then (do return (← getC).press.tile.getD i.toNat .zero) else readRow i
  let (bits, pois) := mergeElems w 32 old.bits.toNat (natBools 64 old.pois.toNat) outs mp
  writeRow i { bits := .ofNat 2048 bits, pois := .ofNat 64 (boolsNat pois) }

/-- Writes elements into the local row a stream operand names: a store (R106, R177). Registers whose
dword is written are younger than their pending writes; those written in part wait (R40, R41). -/
def putStream (p : BitVec 3) (w : Nat) (outs : List OutLane) (mp : List Bool) : M Unit := do
  let la := (← readW (ptrReg p)).bits.toNat % 2 ^ 17
  if !(← getC).cur.act.ownsLocal la 256 then irrevocable
  for (o, j) in ((chunks (64 / w) 32 outs).zip (chunks (64 / w) 32 mp)).zipIdx do
    if o.1.any (·.isSome) || o.2.any id then
      for i in (← getC).regsAt (la + 8 * j) 8 do
        if !o.1.all (·.isSome) then needs (Dest.isReg (.w i))
        cancels (Dest.isReg (.w i))
  let c ← getC
  let old := (List.range 256).map (fun j => c.byteAt (la + j))
  let (bits, pois) := mergeElems w 64 (leNat (old.map (·.1))) ((chunks 8 32 old).map (fun d => d.any (·.2))) outs mp
  modC (fun c => c.putLocal la (natLE 256 bits) (pois.flatMap (List.replicate 8)))

/-- Sends a row on a channel, inactive lanes as zero (R179, R182). -/
def putChan (d : Dir) (w : Nat) (outs : List OutLane) (mp : List Bool) : M Unit := do
  needs (Dest.isReg (.out d))
  let (bits, pois) := mergeElems w 64 0 (List.replicate 32 false) outs mp
  sendChan d (((natLanes 64 32 bits).zip pois).map (fun (x, p) => { bits := .ofNat 64 x, poison := p }))
  cancels (Dest.isReg (.out d))

/-- Writes elements of `w` bits to a lane destination; `mp` are the poison flags of their mask bits. -/
def putOut (d : LSpec) (w : Nat) (outs : List OutLane) (mp : List Bool) : M Unit :=
  match d with
  | .v i => putTile i w outs mp
  | .post p | .str p => putStream p w outs mp
  | .vout o => putChan o w outs mp
  | .vz | .bcast _ | .vin _ | .m _ => pure ()

/-! ## Elementwise members -/

/-- The current mask's bits and poison flags for `n` lanes (R181, R182). -/
def Core.current (c : Core) (n : Nat) : List Bool × List Bool :=
  let m := c.mask c.cur.lmask.toNat
  (natBools n m.bits.toNat, natBools n m.pois.toNat)

/-- The active lanes of an elementwise member. -/
def laneOuts (f : Nat → Nat → Nat → Nat) (a b d : List Lane) (on : List Bool) : List OutLane :=
  (a.zip (b.zip (d.zip on))).map (fun (x, y, z, m) =>
    if m then some (f x.1 y.1 z.1, x.2 || y.2 || z.2) else none)

/-- The lanes of a member's operands in the order they are read; d is read where the member reads it. -/
def readLanes (v : VInstr) (readsD : Bool) : M (List Lane × List Lane × List Lane) := do
  let w := (← getC).press.laneW
  let a ← readL v.a
  let b ← readL v.b
  let d ← if readsD then readL v.d else pure .zero
  pure (a.elems w, b.elems w, d.elems w)

/-- An elementwise member of VF, VI, VL or VC. -/
def elementwise (v : VInstr) (readsD : Bool) (f : Nat → Nat → Nat → Nat) : M Unit := do
  let (a, b, d) ← readLanes v readsD
  let c ← getC
  let (on, mp) := c.current c.press.laneN
  putOut v.d c.press.laneW (laneOuts f a b d on) mp

/-- VSEL: every lane, from a where the mask bit is 1 and from b where it is 0 (R193). -/
def vsel (v : VInstr) : M Unit := do
  let (a, b, _) ← readLanes v false
  let c ← getC
  let (on, mp) := c.current c.press.laneN
  putOut v.d c.press.laneW ((a.zip (b.zip on)).map (fun (x, y, m) => some (if m then x else y))) mp

/-! ## Mask members (R195, R196) -/

/-- A read of a mask other than `m0`, which R108 does not list. -/
def maskRead (m : Nat) : M Unit := if m = 0 then pure () else uncheck

/-- A mask source: a mask, or the lanes of a row that are not zero. -/
def readMask (a : LSpec) : M Mask := do
  let c ← getC
  match a with
  | .m i =>
    maskRead i.toNat
    return c.mask i.toNat
  | .v _ | .post _ | .str _ | .bcast _ | .vz | .vout _ | .vin _ =>
    let ls := (← readL a).elems c.press.laneW
    pure { bits := .ofNat 128 (boolsNat (ls.map (fun l => l.1 != 0))), pois := .ofNat 128 (boolsNat (ls.map (·.2))) }

/-- The number of the mask a specifier names. -/
def maskNum : LSpec → Nat
  | .m i => i.toNat
  | .v _ | .post _ | .str _ | .bcast _ | .vz | .vout _ | .vin _ => 0

/-- A member of VM. -/
def maskMember (o : MOp) (v : VInstr) : M Unit := do
  match o with
  | .sel => modT (fun t => { t with lmask := .ofNat 3 (maskNum v.a) })
  | .popc =>
    let m ← readMask v.a
    let n := (← getC).press.laneN
    writeR v.r { bits := .ofNat 64 (popBits n m.bits.toNat), taint := false, poison := m.pois.toNat % 2 ^ n != 0 }
  | .first =>
    let m ← readMask v.a
    let n := (← getC).press.laneN
    let i := ctzBits n m.bits.toNat
    writeR v.r { bits := .ofNat 64 i, taint := false, poison := m.pois.toNat % 2 ^ min n (i + 1) != 0 }
  | .and | .or | .xor | .not | .andn =>
    let a ← readMask v.a
    let b ← readMask v.b
    let bits : BitVec 128 := match o with
      | .and => a.bits &&& b.bits
      | .or => a.bits ||| b.bits
      | .xor => a.bits ^^^ b.bits
      | .not => ~~~a.bits
      | .andn => a.bits &&& ~~~b.bits
      | .sel | .popc | .first => 0
    modC (fun c => c.putMask (maskNum v.d) { bits := bits, pois := a.pois ||| b.pois })

/-! ## Conversions (R197 to R199) -/

/-- Elements of a part, placed among all the elements of a row. -/
def placePart {α : Type} (blank : α) (all part : Nat) (xs : List α) : List α :=
  let before := part * xs.length
  List.replicate before blank ++ xs ++ List.replicate (all - before - xs.length) blank

/-- Whether a conversion is allowed in narrow mode (R198). -/
def XOp.narrowOk (o : XOp) : Bool := o.conv.packed == some 16

/-- A member of VX. -/
def convert (o : XOp) (v : VInstr) : M Unit := do
  let row ← readL v.a
  let c ← getC
  let (on, mp) := c.current 64
  let cb := codebook c.laneCb
  let k := o.conv
  let w := if k.widen then k.packed.getD 32 else 32
  let src := if k.widen then ((row.elems w).drop (64 * v.k)).take 64 else row.elems 32
  let bad (x : Nat) : Bool :=
    match o with
    | .f32cb4 => c.laneCbPois.getLsbD x
    | .cb4f32 => c.laneCbPois != 0
    | _ => false
  let outs : List OutLane := (src.zip on).map (fun (l, m) =>
    if m then some (o.result c.cur.rmode.toNat cb l.1, l.2 || bad l.1) else none)
  if k.widen || k.packed.isNone then putOut v.d 32 outs mp
  else
    let w := k.packed.getD 32
    putOut v.d w (placePart none (2048 / w) v.k outs) (placePart false (2048 / w) v.k mp)

/-! ## Permutations and reductions (R200 to R202) -/

/-- A lane index read from a register: POISON, then LANE (R184, R200). -/
def laneIndex (q : RSpec) : M (Nat × Bool) := do
  let x ← readClean q
  faultIf (decide ((← getC).press.laneN ≤ x.bits.toNat)) cLANE x.bits.toNat
  pure (x.bits.toNat, x.taint)

/-- The taint of the register that a lane source reads: a pointer or a broadcast register (R200). -/
def laneTaint (a : LSpec) : M Bool :=
  match a with
  | .post p | .str p => return (← readW (ptrReg p)).taint
  | .bcast i => return (← readW (.ofNat 5 (16 + i.toNat))).taint
  | .v _ | .vz | .vout _ | .vin _ | .m _ => pure false

/-- Every lane of a result; the active ones are written. -/
def putActive (v : VInstr) (ls : List Lane) : M Unit := do
  let c ← getC
  let (on, mp) := c.current c.press.laneN
  putOut v.d c.press.laneW ((ls.zip on).map (fun (l, m) => if m then some l else none)) mp

/-- Running sums over the active lanes, with the poison of the lanes taken (R201). -/
def scanLanes (step : Nat → Nat → Nat) : List (Lane × Bool) → Option Lane → List OutLane
  | [], _ => []
  | (_, false) :: rest, acc => none :: scanLanes step rest acc
  | (l, true) :: rest, acc =>
    let out : Lane := match acc with
      | none => l
      | some (s, p) => (step s l.1, p || l.2)
    some out :: scanLanes step rest (some out)

/-- The number of active lanes below each lane. -/
def countBelow : Nat → List Bool → List Nat
  | _, [] => []
  | n, b :: bs => n :: countBelow (if b then n + 1 else n) bs

/-- Two lists taken by turns. -/
def interleave {α : Type} : List α → List α → List α
  | x :: xs, y :: ys => x :: y :: interleave xs ys
  | _, _ => []

/-- The elements in even places. -/
def evens {α : Type} : List α → List α
  | [] => []
  | [x] => [x]
  | x :: _ :: xs => x :: evens xs

/-- A member of VP. -/
def permute (o : POp) (v : VInstr) : M Unit := do
  let c ← getC
  let w := c.press.laneW
  let n := c.press.laneN
  let f := laneFmt c.press.narrow
  let mode := c.cur.rmode.toNat
  let (on, mp) := c.current n
  match o with
  | .bcast =>
    let a := (← readL v.a).elems w
    let (i, _) ← laneIndex v.q
    putActive v (List.replicate n (a.getD i (0, false)))
  | .extr =>
    let a := (← readL v.a).elems w
    let (i, t) ← laneIndex v.q
    let l := a.getD i (0, false)
    writeR v.r { bits := sext (.ofNat 64 l.1) w, taint := t || (← laneTaint v.a), poison := l.2 }
  | .ins =>
    let x ← readR v.r
    let (i, _) ← laneIndex v.q
    putOut v.d w ((List.replicate n none).set i (some (x.bits.toNat % 2 ^ w, x.poison))) (List.replicate n false)
  | .rot =>
    let a := (← readL v.a).elems w
    let x ← readClean v.q
    let k := x.bits.toNat % n
    putActive v (a.drop k ++ a.take k)
  | .shuf =>
    let a := (← readL v.a).elems w
    let b := (← readL v.b).elems w
    putActive v (b.map (fun j =>
      let l := a.getD j.1 (0, false)
      (l.1, l.2 || j.2)))
  | .scan =>
    let a := (← readL v.a).elems w
    putOut v.d w (scanLanes (sumStep f mode w v.k) (a.zip on) none) mp
  | .redadd =>
    let a := (((← readL v.a).elems w).zip on).filterMap (fun (l, m) => if m then some l else none)
    writeR v.r { bits := redAdd f mode w v.k (a.map (·.1)), taint := ← laneTaint v.a, poison := a.any (·.2) }
  | .redmax =>
    let a := (((← readL v.a).elems w).zip on).filterMap (fun (l, m) => if m then some l else none)
    writeR v.r { bits := redExt true f w v.k (a.map (·.1)), taint := ← laneTaint v.a, poison := a.any (·.2) }
  | .redmin =>
    let a := (((← readL v.a).elems w).zip on).filterMap (fun (l, m) => if m then some l else none)
    writeR v.r { bits := redExt false f w v.k (a.map (·.1)), taint := ← laneTaint v.a, poison := a.any (·.2) }
  | .iota => putActive v ((countBelow 0 on).map (fun k => (k, false)))
  | .zip =>
    let a := (← readL v.a).elems w
    let b := (← readL v.b).elems w
    putActive v (interleave (a.take (n / 2)) (b.take (n / 2)))
  | .unzip =>
    let a := (← readL v.a).elems w
    let b := (← readL v.b).elems w
    putActive v (evens a ++ evens b)

/-! ## A lane instruction -/

/-- The waits and faults before a lane instruction reads anything (R184, R206). -/
def VInstr.checks (v : VInstr) : M Unit := do
  modeSettled
  match v.op with
  | .x o => faultIf ((← getC).press.narrow && !o.narrowOk) cLANE o.func
  | .f _ | .i _ | .b _ | .c _ | .m _ | .p _ => pure ()
  laneCheck v.a false
  laneCheck v.b false
  laneCheck v.d true

/-- Whether a lane instruction reads the current mask (R182, R183). -/
def VInstr.masked (v : VInstr) : Bool :=
  match v.op with
  | .f _ | .i _ | .b _ | .c _ | .x _ => true
  | .m _ => false
  | .p o => !(o == .extr || o == .ins)

/-- The effect of a lane instruction; its pointers move on last (R38, R177). -/
def VInstr.effect (v : VInstr) : M Unit := do
  v.checks
  let c ← getC
  if v.masked then maskRead c.cur.lmask.toNat
  let w := c.press.laneW
  let f := laneFmt c.press.narrow
  match v.op with
  | .f o => elementwise v o.readsD (o.result f c.cur.rmode.toNat)
  | .i o => elementwise v o.readsD (o.result w)
  | .b .sel => vsel v
  | .b o => elementwise v false (fun x y _ => o.result w x y)
  | .c o => elementwise v false (fun x y _ => if o.holds f w x y then 2 ^ w - 1 else 0)
  | .m o => maskMember o v
  | .x o => convert o v
  | .p o => permute o v
  bumpPointers (lposts v.a ++ lposts v.b ++ lposts v.d)

/-- A lane instruction issued by the integer pipeline. -/
def laneIssue (v : VInstr) : M Flow := andNext v.effect

/-- A lane instruction of two lane sources and a lane destination. -/
def laneOp (op : LaneOp) (d a b : LSpec) : VInstr := { op := op, d := d, a := a, b := b, r := .z, q := .z, k := 0 }

end Sys2Proof.Machine
end

