-- ==== Sys2Proof/Machine/LaneOps.lean ====
section
/-! DEFINITION. The meanings of the lane instructions, 32-bit and compact, and the lane decoder that
REP uses for its body (R51, R89). -/

namespace Sys2Proof.Machine

/-- VADD.F (Table 8.3, R187). -/
def execVaddF (d a b : LSpec) (s : State) : Host.Outcome State Fault Refusal :=
  run (formVaddF d a b) (laneIssue (laneOp (.f .add) d a b)) s

/-- VSUB.F (Table 8.3, R187). -/
def execVsubF (d a b : LSpec) (s : State) : Host.Outcome State Fault Refusal :=
  run (formVsubF d a b) (laneIssue (laneOp (.f .sub) d a b)) s

/-- VMUL.F (Table 8.3, R187). -/
def execVmulF (d a b : LSpec) (s : State) : Host.Outcome State Fault Refusal :=
  run (formVmulF d a b) (laneIssue (laneOp (.f .mul) d a b)) s

/-- VFMA (Table 8.3, R187). -/
def execVfma (d a b : LSpec) (s : State) : Host.Outcome State Fault Refusal :=
  run (formVfma d a b) (laneIssue (laneOp (.f .fma) d a b)) s

/-- VFMS (Table 8.3, R187). -/
def execVfms (d a b : LSpec) (s : State) : Host.Outcome State Fault Refusal :=
  run (formVfms d a b) (laneIssue (laneOp (.f .fms) d a b)) s

/-- VMAX.F (Table 8.3, R187). -/
def execVmaxF (d a b : LSpec) (s : State) : Host.Outcome State Fault Refusal :=
  run (formVmaxF d a b) (laneIssue (laneOp (.f .max) d a b)) s

/-- VMIN.F (Table 8.3, R187). -/
def execVminF (d a b : LSpec) (s : State) : Host.Outcome State Fault Refusal :=
  run (formVminF d a b) (laneIssue (laneOp (.f .min) d a b)) s

/-- VNEG.F (Table 8.3, R187). -/
def execVnegF (d a : LSpec) (s : State) : Host.Outcome State Fault Refusal :=
  run (formVnegF d a) (laneIssue (laneOp (.f .neg) d a .vz)) s

/-- VABS.F (Table 8.3, R187). -/
def execVabsF (d a : LSpec) (s : State) : Host.Outcome State Fault Refusal :=
  run (formVabsF d a) (laneIssue (laneOp (.f .abs) d a .vz)) s

/-- VRCP (Table 8.3, R187). -/
def execVrcp (d a : LSpec) (s : State) : Host.Outcome State Fault Refusal :=
  run (formVrcp d a) (laneIssue (laneOp (.f .rcp) d a .vz)) s

/-- VRSQ (Table 8.3, R187). -/
def execVrsq (d a : LSpec) (s : State) : Host.Outcome State Fault Refusal :=
  run (formVrsq d a) (laneIssue (laneOp (.f .rsq) d a .vz)) s

/-- VRCPS (Table 8.3, R187). -/
def execVrcps (d a b : LSpec) (s : State) : Host.Outcome State Fault Refusal :=
  run (formVrcps d a b) (laneIssue (laneOp (.f .rcps) d a b)) s

/-- VRSQS (Table 8.3, R187). -/
def execVrsqs (d a b : LSpec) (s : State) : Host.Outcome State Fault Refusal :=
  run (formVrsqs d a b) (laneIssue (laneOp (.f .rsqs) d a b)) s

/-- VEXP2 (Table 8.3, R187). -/
def execVexp2 (d a : LSpec) (s : State) : Host.Outcome State Fault Refusal :=
  run (formVexp2 d a) (laneIssue (laneOp (.f .exp2) d a .vz)) s

/-- VLOG2 (Table 8.3, R187). -/
def execVlog2 (d a : LSpec) (s : State) : Host.Outcome State Fault Refusal :=
  run (formVlog2 d a) (laneIssue (laneOp (.f .log2) d a .vz)) s

/-- VCLAMP (Table 8.3, R187). -/
def execVclamp (d a b : LSpec) (s : State) : Host.Outcome State Fault Refusal :=
  run (formVclamp d a b) (laneIssue (laneOp (.f .clamp) d a b)) s

/-- VADD.I (Table 8.4, R192). -/
def execVaddI (d a b : LSpec) (s : State) : Host.Outcome State Fault Refusal :=
  run (formVaddI d a b) (laneIssue (laneOp (.i .add) d a b)) s

/-- VSUB.I (Table 8.4, R192). -/
def execVsubI (d a b : LSpec) (s : State) : Host.Outcome State Fault Refusal :=
  run (formVsubI d a b) (laneIssue (laneOp (.i .sub) d a b)) s

/-- VMUL.I (Table 8.4, R192). -/
def execVmulI (d a b : LSpec) (s : State) : Host.Outcome State Fault Refusal :=
  run (formVmulI d a b) (laneIssue (laneOp (.i .mul) d a b)) s

/-- VMULH (Table 8.4, R192). -/
def execVmulh (d a b : LSpec) (s : State) : Host.Outcome State Fault Refusal :=
  run (formVmulh d a b) (laneIssue (laneOp (.i .mulh) d a b)) s

/-- VMAD (Table 8.4, R192). -/
def execVmad (d a b : LSpec) (s : State) : Host.Outcome State Fault Refusal :=
  run (formVmad d a b) (laneIssue (laneOp (.i .mad) d a b)) s

/-- VMAX.I (Table 8.4, R192). -/
def execVmaxI (d a b : LSpec) (s : State) : Host.Outcome State Fault Refusal :=
  run (formVmaxI d a b) (laneIssue (laneOp (.i .max) d a b)) s

/-- VMIN.I (Table 8.4, R192). -/
def execVminI (d a b : LSpec) (s : State) : Host.Outcome State Fault Refusal :=
  run (formVminI d a b) (laneIssue (laneOp (.i .min) d a b)) s

/-- VABS.I (Table 8.4, R192). -/
def execVabsI (d a : LSpec) (s : State) : Host.Outcome State Fault Refusal :=
  run (formVabsI d a) (laneIssue (laneOp (.i .abs) d a .vz)) s

/-- VSHL (Table 8.4, R192). -/
def execVshl (d a b : LSpec) (s : State) : Host.Outcome State Fault Refusal :=
  run (formVshl d a b) (laneIssue (laneOp (.i .shl) d a b)) s

/-- VSHR (Table 8.4, R192). -/
def execVshr (d a b : LSpec) (s : State) : Host.Outcome State Fault Refusal :=
  run (formVshr d a b) (laneIssue (laneOp (.i .shr) d a b)) s

/-- VSRA (Table 8.4, R192). -/
def execVsra (d a b : LSpec) (s : State) : Host.Outcome State Fault Refusal :=
  run (formVsra d a b) (laneIssue (laneOp (.i .sra) d a b)) s

/-- VADDS (Table 8.4, R192). -/
def execVadds (d a b : LSpec) (s : State) : Host.Outcome State Fault Refusal :=
  run (formVadds d a b) (laneIssue (laneOp (.i .adds) d a b)) s

/-- VSUBS (Table 8.4, R192). -/
def execVsubs (d a b : LSpec) (s : State) : Host.Outcome State Fault Refusal :=
  run (formVsubs d a b) (laneIssue (laneOp (.i .subs) d a b)) s

/-- VMAXU (Table 8.4, R192). -/
def execVmaxu (d a b : LSpec) (s : State) : Host.Outcome State Fault Refusal :=
  run (formVmaxu d a b) (laneIssue (laneOp (.i .maxu) d a b)) s

/-- VMINU (Table 8.4, R192). -/
def execVminu (d a b : LSpec) (s : State) : Host.Outcome State Fault Refusal :=
  run (formVminu d a b) (laneIssue (laneOp (.i .minu) d a b)) s

/-- VNEG.I (Table 8.4, R192). -/
def execVnegI (d a : LSpec) (s : State) : Host.Outcome State Fault Refusal :=
  run (formVnegI d a) (laneIssue (laneOp (.i .neg) d a .vz)) s

/-- VAND (Table 8.5, R193). -/
def execVand (d a b : LSpec) (s : State) : Host.Outcome State Fault Refusal :=
  run (formVand d a b) (laneIssue (laneOp (.b .and) d a b)) s

/-- VOR (Table 8.5, R193). -/
def execVor (d a b : LSpec) (s : State) : Host.Outcome State Fault Refusal :=
  run (formVor d a b) (laneIssue (laneOp (.b .or) d a b)) s

/-- VXOR (Table 8.5, R193). -/
def execVxor (d a b : LSpec) (s : State) : Host.Outcome State Fault Refusal :=
  run (formVxor d a b) (laneIssue (laneOp (.b .xor) d a b)) s

/-- VANDN (Table 8.5, R193). -/
def execVandn (d a b : LSpec) (s : State) : Host.Outcome State Fault Refusal :=
  run (formVandn d a b) (laneIssue (laneOp (.b .andn) d a b)) s

/-- VNOT (Table 8.5, R193). -/
def execVnot (d a : LSpec) (s : State) : Host.Outcome State Fault Refusal :=
  run (formVnot d a) (laneIssue (laneOp (.b .not) d a .vz)) s

/-- VMOV (Table 8.5, R193). -/
def execVmov (d a : LSpec) (s : State) : Host.Outcome State Fault Refusal :=
  run (formVmov d a) (laneIssue (laneOp (.b .mov) d a .vz)) s

/-- VSEL (Table 8.5, R193). -/
def execVsel (d a b : LSpec) (s : State) : Host.Outcome State Fault Refusal :=
  run (formVsel d a b) (laneIssue (laneOp (.b .sel) d a b)) s

/-- VPOPC (Table 8.5, R193). -/
def execVpopc (d a : LSpec) (s : State) : Host.Outcome State Fault Refusal :=
  run (formVpopc d a) (laneIssue (laneOp (.b .popc) d a .vz)) s

/-- VCLZ (Table 8.5, R193). -/
def execVclz (d a : LSpec) (s : State) : Host.Outcome State Fault Refusal :=
  run (formVclz d a) (laneIssue (laneOp (.b .clz) d a .vz)) s

/-- VCEQ.F (Table 8.6, R194). -/
def execVceqF (d a b : LSpec) (s : State) : Host.Outcome State Fault Refusal :=
  run (formVceqF d a b) (laneIssue (laneOp (.c .eqF) d a b)) s

/-- VCNE.F (Table 8.6, R194). -/
def execVcneF (d a b : LSpec) (s : State) : Host.Outcome State Fault Refusal :=
  run (formVcneF d a b) (laneIssue (laneOp (.c .neF) d a b)) s

/-- VCLT.F (Table 8.6, R194). -/
def execVcltF (d a b : LSpec) (s : State) : Host.Outcome State Fault Refusal :=
  run (formVcltF d a b) (laneIssue (laneOp (.c .ltF) d a b)) s

/-- VCLE.F (Table 8.6, R194). -/
def execVcleF (d a b : LSpec) (s : State) : Host.Outcome State Fault Refusal :=
  run (formVcleF d a b) (laneIssue (laneOp (.c .leF) d a b)) s

/-- VCUN.F (Table 8.6, R194). -/
def execVcunF (d a b : LSpec) (s : State) : Host.Outcome State Fault Refusal :=
  run (formVcunF d a b) (laneIssue (laneOp (.c .unF) d a b)) s

/-- VCEQ.I (Table 8.6, R194). -/
def execVceqI (d a b : LSpec) (s : State) : Host.Outcome State Fault Refusal :=
  run (formVceqI d a b) (laneIssue (laneOp (.c .eqI) d a b)) s

/-- VCNE.I (Table 8.6, R194). -/
def execVcneI (d a b : LSpec) (s : State) : Host.Outcome State Fault Refusal :=
  run (formVcneI d a b) (laneIssue (laneOp (.c .neI) d a b)) s

/-- VCLT.I (Table 8.6, R194). -/
def execVcltI (d a b : LSpec) (s : State) : Host.Outcome State Fault Refusal :=
  run (formVcltI d a b) (laneIssue (laneOp (.c .ltI) d a b)) s

/-- VCLE.I (Table 8.6, R194). -/
def execVcleI (d a b : LSpec) (s : State) : Host.Outcome State Fault Refusal :=
  run (formVcleI d a b) (laneIssue (laneOp (.c .leI) d a b)) s

/-- VCLTU (Table 8.6, R194). -/
def execVcltu (d a b : LSpec) (s : State) : Host.Outcome State Fault Refusal :=
  run (formVcltu d a b) (laneIssue (laneOp (.c .ltU) d a b)) s

/-- VCLEU (Table 8.6, R194). -/
def execVcleu (d a b : LSpec) (s : State) : Host.Outcome State Fault Refusal :=
  run (formVcleu d a b) (laneIssue (laneOp (.c .leU) d a b)) s

/-- MAND (Table 8.7, R195). -/
def execMand (d a b : LSpec) (s : State) : Host.Outcome State Fault Refusal :=
  run (formMand d a b) (laneIssue (laneOp (.m .and) d a b)) s

/-- MOR (Table 8.7, R195). -/
def execMor (d a b : LSpec) (s : State) : Host.Outcome State Fault Refusal :=
  run (formMor d a b) (laneIssue (laneOp (.m .or) d a b)) s

/-- MXOR (Table 8.7, R195). -/
def execMxor (d a b : LSpec) (s : State) : Host.Outcome State Fault Refusal :=
  run (formMxor d a b) (laneIssue (laneOp (.m .xor) d a b)) s

/-- MNOT (Table 8.7, R195). -/
def execMnot (d a : LSpec) (s : State) : Host.Outcome State Fault Refusal :=
  run (formMnot d a) (laneIssue (laneOp (.m .not) d a .vz)) s

/-- MANDN (Table 8.7, R195). -/
def execMandn (d a b : LSpec) (s : State) : Host.Outcome State Fault Refusal :=
  run (formMandn d a b) (laneIssue (laneOp (.m .andn) d a b)) s

/-- MSEL (Table 8.7, R195). -/
def execMsel (a : LSpec) (s : State) : Host.Outcome State Fault Refusal :=
  run (formMsel a) (laneIssue (laneOp (.m .sel) .vz a .vz)) s

/-- MPOPC (Table 8.7, R195). -/
def execMpopc (d : RSpec) (a : LSpec) (s : State) : Host.Outcome State Fault Refusal :=
  run (formMpopc d a) (laneIssue { op := .m .popc, d := .vz, a := a, b := .vz, r := d, q := .z, k := 0 }) s

/-- MFIRST (Table 8.7, R195). -/
def execMfirst (d : RSpec) (a : LSpec) (s : State) : Host.Outcome State Fault Refusal :=
  run (formMfirst d a) (laneIssue { op := .m .first, d := .vz, a := a, b := .vz, r := d, q := .z, k := 0 }) s

/-- VCVT.F32.F16 (Table 8.8, R197). -/
def execVcvtF32F16 (d a : LSpec) (p : BitVec 7) (s : State) : Host.Outcome State Fault Refusal :=
  run (formVcvtF32F16 d a p) (laneIssue { op := .x .f32f16, d := d, a := a, b := .vz, r := .z, q := .z, k := p.toNat }) s

/-- VCVT.F16.F32 (Table 8.8, R197). -/
def execVcvtF16F32 (d a : LSpec) (p : BitVec 7) (s : State) : Host.Outcome State Fault Refusal :=
  run (formVcvtF16F32 d a p) (laneIssue { op := .x .f16f32, d := d, a := a, b := .vz, r := .z, q := .z, k := p.toNat }) s

/-- VCVT.F32.BF16 (Table 8.8, R197). -/
def execVcvtF32Bf16 (d a : LSpec) (p : BitVec 7) (s : State) : Host.Outcome State Fault Refusal :=
  run (formVcvtF32Bf16 d a p) (laneIssue { op := .x .f32bf16, d := d, a := a, b := .vz, r := .z, q := .z, k := p.toNat }) s

/-- VCVT.BF16.F32 (Table 8.8, R197). -/
def execVcvtBf16F32 (d a : LSpec) (p : BitVec 7) (s : State) : Host.Outcome State Fault Refusal :=
  run (formVcvtBf16F32 d a p) (laneIssue { op := .x .bf16f32, d := d, a := a, b := .vz, r := .z, q := .z, k := p.toNat }) s

/-- VCVT.F32.E4M3 (Table 8.8, R197). -/
def execVcvtF32E4m3 (d a : LSpec) (p : BitVec 7) (s : State) : Host.Outcome State Fault Refusal :=
  run (formVcvtF32E4m3 d a p) (laneIssue { op := .x .f32e4m3, d := d, a := a, b := .vz, r := .z, q := .z, k := p.toNat }) s

/-- VCVT.E4M3.F32 (Table 8.8, R197). -/
def execVcvtE4m3F32 (d a : LSpec) (p : BitVec 7) (s : State) : Host.Outcome State Fault Refusal :=
  run (formVcvtE4m3F32 d a p) (laneIssue { op := .x .e4m3f32, d := d, a := a, b := .vz, r := .z, q := .z, k := p.toNat }) s

/-- VCVT.F32.E5M2 (Table 8.8, R197). -/
def execVcvtF32E5m2 (d a : LSpec) (p : BitVec 7) (s : State) : Host.Outcome State Fault Refusal :=
  run (formVcvtF32E5m2 d a p) (laneIssue { op := .x .f32e5m2, d := d, a := a, b := .vz, r := .z, q := .z, k := p.toNat }) s

/-- VCVT.E5M2.F32 (Table 8.8, R197). -/
def execVcvtE5m2F32 (d a : LSpec) (p : BitVec 7) (s : State) : Host.Outcome State Fault Refusal :=
  run (formVcvtE5m2F32 d a p) (laneIssue { op := .x .e5m2f32, d := d, a := a, b := .vz, r := .z, q := .z, k := p.toNat }) s

/-- VCVT.I32.F32 (Table 8.8, R197). -/
def execVcvtI32F32 (d a : LSpec) (s : State) : Host.Outcome State Fault Refusal :=
  run (formVcvtI32F32 d a) (laneIssue (laneOp (.x .i32f32) d a .vz)) s

/-- VCVT.F32.I32 (Table 8.8, R197). -/
def execVcvtF32I32 (d a : LSpec) (s : State) : Host.Outcome State Fault Refusal :=
  run (formVcvtF32I32 d a) (laneIssue (laneOp (.x .f32i32) d a .vz)) s

/-- VCVT.I16.I32 (Table 8.8, R197). -/
def execVcvtI16I32 (d a : LSpec) (p : BitVec 7) (s : State) : Host.Outcome State Fault Refusal :=
  run (formVcvtI16I32 d a p) (laneIssue { op := .x .i16i32, d := d, a := a, b := .vz, r := .z, q := .z, k := p.toNat }) s

/-- VCVT.I32.I16 (Table 8.8, R197). -/
def execVcvtI32I16 (d a : LSpec) (p : BitVec 7) (s : State) : Host.Outcome State Fault Refusal :=
  run (formVcvtI32I16 d a p) (laneIssue { op := .x .i32i16, d := d, a := a, b := .vz, r := .z, q := .z, k := p.toNat }) s

/-- VCVT.F32.CB4 (Table 8.8, R197). -/
def execVcvtF32Cb4 (d a : LSpec) (p : BitVec 7) (s : State) : Host.Outcome State Fault Refusal :=
  run (formVcvtF32Cb4 d a p) (laneIssue { op := .x .f32cb4, d := d, a := a, b := .vz, r := .z, q := .z, k := p.toNat }) s

/-- VCVT.CB4.F32 (Table 8.8, R197). -/
def execVcvtCb4F32 (d a : LSpec) (p : BitVec 7) (s : State) : Host.Outcome State Fault Refusal :=
  run (formVcvtCb4F32 d a p) (laneIssue { op := .x .cb4f32, d := d, a := a, b := .vz, r := .z, q := .z, k := p.toNat }) s

/-- VCVT.I8.I32 (Table 8.8, R197). -/
def execVcvtI8I32 (d a : LSpec) (p : BitVec 7) (s : State) : Host.Outcome State Fault Refusal :=
  run (formVcvtI8I32 d a p) (laneIssue { op := .x .i8i32, d := d, a := a, b := .vz, r := .z, q := .z, k := p.toNat }) s

/-- VCVT.I32.I8 (Table 8.8, R197). -/
def execVcvtI32I8 (d a : LSpec) (p : BitVec 7) (s : State) : Host.Outcome State Fault Refusal :=
  run (formVcvtI32I8 d a p) (laneIssue { op := .x .i32i8, d := d, a := a, b := .vz, r := .z, q := .z, k := p.toNat }) s

/-- VBCAST (Table 8.9, R200). -/
def execVbcast (d a : LSpec) (b : RSpec) (s : State) : Host.Outcome State Fault Refusal :=
  run (formVbcast d a b) (laneIssue { op := .p .bcast, d := d, a := a, b := .vz, r := .z, q := b, k := 0 }) s

/-- VEXTR (Table 8.9, R200). -/
def execVextr (d : RSpec) (a : LSpec) (b : RSpec) (s : State) : Host.Outcome State Fault Refusal :=
  run (formVextr d a b) (laneIssue { op := .p .extr, d := .vz, a := a, b := .vz, r := d, q := b, k := 0 }) s

/-- VINS (Table 8.9, R200). -/
def execVins (d : LSpec) (a b : RSpec) (s : State) : Host.Outcome State Fault Refusal :=
  run (formVins d a b) (laneIssue { op := .p .ins, d := d, a := .vz, b := .vz, r := a, q := b, k := 0 }) s

/-- VROT (Table 8.9, R200). -/
def execVrot (d a : LSpec) (b : RSpec) (s : State) : Host.Outcome State Fault Refusal :=
  run (formVrot d a b) (laneIssue { op := .p .rot, d := d, a := a, b := .vz, r := .z, q := b, k := 0 }) s

/-- VSHUF (Table 8.9, R200). -/
def execVshuf (d a b : LSpec) (s : State) : Host.Outcome State Fault Refusal :=
  run (formVshuf d a b) (laneIssue (laneOp (.p .shuf) d a b)) s

/-- VSCAN (Table 8.9, R200). -/
def execVscan (d a : LSpec) (k : BitVec 7) (s : State) : Host.Outcome State Fault Refusal :=
  run (formVscan d a k) (laneIssue { op := .p .scan, d := d, a := a, b := .vz, r := .z, q := .z, k := k.toNat }) s

/-- VREDADD (Table 8.9, R200). -/
def execVredadd (d : RSpec) (a : LSpec) (k : BitVec 7) (s : State) : Host.Outcome State Fault Refusal :=
  run (formVredadd d a k) (laneIssue { op := .p .redadd, d := .vz, a := a, b := .vz, r := d, q := .z, k := k.toNat }) s

/-- VREDMAX (Table 8.9, R200). -/
def execVredmax (d : RSpec) (a : LSpec) (k : BitVec 7) (s : State) : Host.Outcome State Fault Refusal :=
  run (formVredmax d a k) (laneIssue { op := .p .redmax, d := .vz, a := a, b := .vz, r := d, q := .z, k := k.toNat }) s

/-- VREDMIN (Table 8.9, R200). -/
def execVredmin (d : RSpec) (a : LSpec) (k : BitVec 7) (s : State) : Host.Outcome State Fault Refusal :=
  run (formVredmin d a k) (laneIssue { op := .p .redmin, d := .vz, a := a, b := .vz, r := d, q := .z, k := k.toNat }) s

/-- VIOTA (Table 8.9, R200). -/
def execViota (d : LSpec) (s : State) : Host.Outcome State Fault Refusal :=
  run (formViota d) (laneIssue (laneOp (.p .iota) d .vz .vz)) s

/-- VZIP (Table 8.9, R200). -/
def execVzip (d a b : LSpec) (s : State) : Host.Outcome State Fault Refusal :=
  run (formVzip d a b) (laneIssue (laneOp (.p .zip) d a b)) s

/-- VUNZIP (Table 8.9, R200). -/
def execVunzip (d a b : LSpec) (s : State) : Host.Outcome State Fault Refusal :=
  run (formVunzip d a b) (laneIssue (laneOp (.p .unzip) d a b)) s

/-- The compact VADD.F, as its equivalent of Table 2.2 (R203). -/
def execVaddFCompact (d : BitVec 6) (a : LSpec) (s : State) : Host.Outcome State Fault Refusal :=
  run (formVaddFCompact d a) (laneIssue (laneOp (.f .add) (.v d) (.v d) a)) s

/-- The compact VSUB.F, as its equivalent of Table 2.2 (R203). -/
def execVsubFCompact (d : BitVec 6) (a : LSpec) (s : State) : Host.Outcome State Fault Refusal :=
  run (formVsubFCompact d a) (laneIssue (laneOp (.f .sub) (.v d) (.v d) a)) s

/-- The compact VMUL.F, as its equivalent of Table 2.2 (R203). -/
def execVmulFCompact (d : BitVec 6) (a : LSpec) (s : State) : Host.Outcome State Fault Refusal :=
  run (formVmulFCompact d a) (laneIssue (laneOp (.f .mul) (.v d) (.v d) a)) s

/-- The compact VMAX.F, as its equivalent of Table 2.2 (R203). -/
def execVmaxFCompact (d : BitVec 6) (a : LSpec) (s : State) : Host.Outcome State Fault Refusal :=
  run (formVmaxFCompact d a) (laneIssue (laneOp (.f .max) (.v d) (.v d) a)) s

/-- The compact VMIN.F, as its equivalent of Table 2.2 (R203). -/
def execVminFCompact (d : BitVec 6) (a : LSpec) (s : State) : Host.Outcome State Fault Refusal :=
  run (formVminFCompact d a) (laneIssue (laneOp (.f .min) (.v d) (.v d) a)) s

/-- The compact VADD.I, as its equivalent of Table 2.2 (R203). -/
def execVaddICompact (d : BitVec 6) (a : LSpec) (s : State) : Host.Outcome State Fault Refusal :=
  run (formVaddICompact d a) (laneIssue (laneOp (.i .add) (.v d) (.v d) a)) s

/-- The compact VSUB.I, as its equivalent of Table 2.2 (R203). -/
def execVsubICompact (d : BitVec 6) (a : LSpec) (s : State) : Host.Outcome State Fault Refusal :=
  run (formVsubICompact d a) (laneIssue (laneOp (.i .sub) (.v d) (.v d) a)) s

/-- The compact VMAX.I, as its equivalent of Table 2.2 (R203). -/
def execVmaxICompact (d : BitVec 6) (a : LSpec) (s : State) : Host.Outcome State Fault Refusal :=
  run (formVmaxICompact d a) (laneIssue (laneOp (.i .max) (.v d) (.v d) a)) s

/-- The compact VMIN.I, as its equivalent of Table 2.2 (R203). -/
def execVminICompact (d : BitVec 6) (a : LSpec) (s : State) : Host.Outcome State Fault Refusal :=
  run (formVminICompact d a) (laneIssue (laneOp (.i .min) (.v d) (.v d) a)) s

/-- The compact VAND, as its equivalent of Table 2.2 (R203). -/
def execVandCompact (d : BitVec 6) (a : LSpec) (s : State) : Host.Outcome State Fault Refusal :=
  run (formVandCompact d a) (laneIssue (laneOp (.b .and) (.v d) (.v d) a)) s

/-- The compact VOR, as its equivalent of Table 2.2 (R203). -/
def execVorCompact (d : BitVec 6) (a : LSpec) (s : State) : Host.Outcome State Fault Refusal :=
  run (formVorCompact d a) (laneIssue (laneOp (.b .or) (.v d) (.v d) a)) s

/-- The compact VXOR, as its equivalent of Table 2.2 (R203). -/
def execVxorCompact (d : BitVec 6) (a : LSpec) (s : State) : Host.Outcome State Fault Refusal :=
  run (formVxorCompact d a) (laneIssue (laneOp (.b .xor) (.v d) (.v d) a)) s

/-- The compact VMOV, as its equivalent of Table 2.2 (R203). -/
def execVmovCompact (d : BitVec 6) (a : LSpec) (s : State) : Host.Outcome State Fault Refusal :=
  run (formVmovCompact d a) (laneIssue (laneOp (.b .mov) (.v d) a .vz)) s

/-- The compact VNEG.F, as its equivalent of Table 2.2 (R203). -/
def execVnegFCompact (d : BitVec 6) (a : LSpec) (s : State) : Host.Outcome State Fault Refusal :=
  run (formVnegFCompact d a) (laneIssue (laneOp (.f .neg) (.v d) a .vz)) s

/-- The compact VABS.F, as its equivalent of Table 2.2 (R203). -/
def execVabsFCompact (d : BitVec 6) (a : LSpec) (s : State) : Host.Outcome State Fault Refusal :=
  run (formVabsFCompact d a) (laneIssue (laneOp (.f .abs) (.v d) a .vz)) s

/-- The compact VSHL.I, as its equivalent of Table 2.2 (R203). -/
def execVshlICompact (d : BitVec 6) (a : LSpec) (s : State) : Host.Outcome State Fault Refusal :=
  run (formVshlICompact d a) (laneIssue (laneOp (.i .shl) (.v d) (.v d) a)) s

/-- The lane instruction of an encoding, none for any other (R51). -/
def laneInterp : Interp (Option VInstr) where
  add := fun _ _ _ => none
  sub := fun _ _ _ => none
  and := fun _ _ _ => none
  or := fun _ _ _ => none
  xor := fun _ _ _ => none
  andn := fun _ _ _ => none
  orn := fun _ _ _ => none
  xnor := fun _ _ _ => none
  shl := fun _ _ _ => none
  shr := fun _ _ _ => none
  sra := fun _ _ _ => none
  rol := fun _ _ _ => none
  ror := fun _ _ _ => none
  slt := fun _ _ _ => none
  sltu := fun _ _ _ => none
  seq := fun _ _ _ => none
  sne := fun _ _ _ => none
  min := fun _ _ _ => none
  max := fun _ _ _ => none
  minu := fun _ _ _ => none
  maxu := fun _ _ _ => none
  shadd1 := fun _ _ _ => none
  shadd2 := fun _ _ _ => none
  shadd3 := fun _ _ _ => none
  addw := fun _ _ _ => none
  subw := fun _ _ _ => none
  mul := fun _ _ _ _ => none
  mulh := fun _ _ _ _ => none
  mulhu := fun _ _ _ _ => none
  mulhsu := fun _ _ _ _ => none
  div := fun _ _ _ _ => none
  divu := fun _ _ _ _ => none
  rem := fun _ _ _ _ => none
  remu := fun _ _ _ _ => none
  clz := fun _ _ => none
  ctz := fun _ _ => none
  popc := fun _ _ => none
  brev := fun _ _ => none
  bswap := fun _ _ => none
  sextb := fun _ _ => none
  sexth := fun _ _ => none
  sextw := fun _ _ => none
  extu := fun _ _ _ _ => none
  exts := fun _ _ _ _ => none
  ins := fun _ _ _ _ => none
  addi := fun _ _ _ => none
  andi := fun _ _ _ => none
  ori := fun _ _ _ => none
  xori := fun _ _ _ => none
  slti := fun _ _ _ => none
  sltui := fun _ _ _ => none
  shli := fun _ _ _ => none
  shri := fun _ _ _ => none
  srai := fun _ _ _ => none
  rori := fun _ _ _ => none
  lih := fun _ _ => none
  lix := fun _ _ => none
  addpc := fun _ _ => none
  beq := fun _ _ _ => none
  bne := fun _ _ _ => none
  blt := fun _ _ _ => none
  bge := fun _ _ _ => none
  bltu := fun _ _ _ => none
  bgeu := fun _ _ _ => none
  bbs := fun _ _ _ => none
  bbc := fun _ _ _ => none
  j := fun _ => none
  jal := fun _ => none
  jalr := fun _ _ _ => none
  loop := fun _ _ => none
  rep := fun _ _ _ => none
  endAct := none
  endAbort := none
  callat := fun _ _ _ => none
  reply := fun _ => none
  spawn := fun _ _ => none
  spawnH := fun _ _ => none
  wclaim := fun _ _ => none
  wrel := fun _ => none
  apop := fun _ => none
  apush := fun _ => none
  nop := none
  trap := fun _ => none
  brk := none
  rte := none
  idle := none
  ld := fun _ _ _ _ _ _ => none
  ldu := fun _ _ _ _ _ _ => none
  st := fun _ _ _ _ _ => none
  ldv := fun _ _ _ _ _ => none
  stv := fun _ _ _ _ => none
  zfill := fun _ _ _ => none
  pref := fun _ _ _ => none
  l1inv := none
  icinv := fun _ _ => none
  bankmode := fun _ _ => none
  bankq := fun _ => none
  ldc := fun _ _ _ _ _ _ => none
  lds := fun _ _ _ _ => none
  ldsE := fun _ _ _ _ => none
  stf := fun _ _ _ _ => none
  aadd := fun _ _ _ _ _ _ => none
  aand := fun _ _ _ _ _ _ => none
  aor := fun _ _ _ _ _ _ => none
  axor := fun _ _ _ _ _ _ => none
  amin := fun _ _ _ _ _ _ => none
  amax := fun _ _ _ _ _ _ => none
  aminu := fun _ _ _ _ _ _ => none
  amaxu := fun _ _ _ _ _ _ => none
  axchg := fun _ _ _ _ _ _ => none
  afadd := fun _ _ _ _ _ _ => none
  afmin := fun _ _ _ _ _ _ => none
  afmax := fun _ _ _ _ _ _ => none
  ald := fun _ _ _ _ _ _ => none
  ast := fun _ _ _ _ _ => none
  acas := fun _ _ _ _ _ _ => none
  phase := fun _ => none
  rel := fun _ => none
  acq := none
  fence := none
  clrt := fun _ => none
  phasen := fun _ => none
  vaddF := fun d a b => some (laneOp (.f .add) d a b)
  vsubF := fun d a b => some (laneOp (.f .sub) d a b)
  vmulF := fun d a b => some (laneOp (.f .mul) d a b)
  vfma := fun d a b => some (laneOp (.f .fma) d a b)
  vfms := fun d a b => some (laneOp (.f .fms) d a b)
  vmaxF := fun d a b => some (laneOp (.f .max) d a b)
  vminF := fun d a b => some (laneOp (.f .min) d a b)
  vnegF := fun d a => some (laneOp (.f .neg) d a .vz)
  vabsF := fun d a => some (laneOp (.f .abs) d a .vz)
  vrcp := fun d a => some (laneOp (.f .rcp) d a .vz)
  vrsq := fun d a => some (laneOp (.f .rsq) d a .vz)
  vrcps := fun d a b => some (laneOp (.f .rcps) d a b)
  vrsqs := fun d a b => some (laneOp (.f .rsqs) d a b)
  vexp2 := fun d a => some (laneOp (.f .exp2) d a .vz)
  vlog2 := fun d a => some (laneOp (.f .log2) d a .vz)
  vclamp := fun d a b => some (laneOp (.f .clamp) d a b)
  vaddI := fun d a b => some (laneOp (.i .add) d a b)
  vsubI := fun d a b => some (laneOp (.i .sub) d a b)
  vmulI := fun d a b => some (laneOp (.i .mul) d a b)
  vmulh := fun d a b => some (laneOp (.i .mulh) d a b)
  vmad := fun d a b => some (laneOp (.i .mad) d a b)
  vmaxI := fun d a b => some (laneOp (.i .max) d a b)
  vminI := fun d a b => some (laneOp (.i .min) d a b)
  vabsI := fun d a => some (laneOp (.i .abs) d a .vz)
  vshl := fun d a b => some (laneOp (.i .shl) d a b)
  vshr := fun d a b => some (laneOp (.i .shr) d a b)
  vsra := fun d a b => some (laneOp (.i .sra) d a b)
  vadds := fun d a b => some (laneOp (.i .adds) d a b)
  vsubs := fun d a b => some (laneOp (.i .subs) d a b)
  vmaxu := fun d a b => some (laneOp (.i .maxu) d a b)
  vminu := fun d a b => some (laneOp (.i .minu) d a b)
  vnegI := fun d a => some (laneOp (.i .neg) d a .vz)
  vand := fun d a b => some (laneOp (.b .and) d a b)
  vor := fun d a b => some (laneOp (.b .or) d a b)
  vxor := fun d a b => some (laneOp (.b .xor) d a b)
  vandn := fun d a b => some (laneOp (.b .andn) d a b)
  vnot := fun d a => some (laneOp (.b .not) d a .vz)
  vmov := fun d a => some (laneOp (.b .mov) d a .vz)
  vsel := fun d a b => some (laneOp (.b .sel) d a b)
  vpopc := fun d a => some (laneOp (.b .popc) d a .vz)
  vclz := fun d a => some (laneOp (.b .clz) d a .vz)
  vceqF := fun d a b => some (laneOp (.c .eqF) d a b)
  vcneF := fun d a b => some (laneOp (.c .neF) d a b)
  vcltF := fun d a b => some (laneOp (.c .ltF) d a b)
  vcleF := fun d a b => some (laneOp (.c .leF) d a b)
  vcunF := fun d a b => some (laneOp (.c .unF) d a b)
  vceqI := fun d a b => some (laneOp (.c .eqI) d a b)
  vcneI := fun d a b => some (laneOp (.c .neI) d a b)
  vcltI := fun d a b => some (laneOp (.c .ltI) d a b)
  vcleI := fun d a b => some (laneOp (.c .leI) d a b)
  vcltu := fun d a b => some (laneOp (.c .ltU) d a b)
  vcleu := fun d a b => some (laneOp (.c .leU) d a b)
  mand := fun d a b => some (laneOp (.m .and) d a b)
  mor := fun d a b => some (laneOp (.m .or) d a b)
  mxor := fun d a b => some (laneOp (.m .xor) d a b)
  mnot := fun d a => some (laneOp (.m .not) d a .vz)
  mandn := fun d a b => some (laneOp (.m .andn) d a b)
  msel := fun a => some (laneOp (.m .sel) .vz a .vz)
  mpopc := fun d a => some { op := .m .popc, d := .vz, a := a, b := .vz, r := d, q := .z, k := 0 }
  mfirst := fun d a => some { op := .m .first, d := .vz, a := a, b := .vz, r := d, q := .z, k := 0 }
  vcvtF32F16 := fun d a p => some { op := .x .f32f16, d := d, a := a, b := .vz, r := .z, q := .z, k := p.toNat }
  vcvtF16F32 := fun d a p => some { op := .x .f16f32, d := d, a := a, b := .vz, r := .z, q := .z, k := p.toNat }
  vcvtF32Bf16 := fun d a p => some { op := .x .f32bf16, d := d, a := a, b := .vz, r := .z, q := .z, k := p.toNat }
  vcvtBf16F32 := fun d a p => some { op := .x .bf16f32, d := d, a := a, b := .vz, r := .z, q := .z, k := p.toNat }
  vcvtF32E4m3 := fun d a p => some { op := .x .f32e4m3, d := d, a := a, b := .vz, r := .z, q := .z, k := p.toNat }
  vcvtE4m3F32 := fun d a p => some { op := .x .e4m3f32, d := d, a := a, b := .vz, r := .z, q := .z, k := p.toNat }
  vcvtF32E5m2 := fun d a p => some { op := .x .f32e5m2, d := d, a := a, b := .vz, r := .z, q := .z, k := p.toNat }
  vcvtE5m2F32 := fun d a p => some { op := .x .e5m2f32, d := d, a := a, b := .vz, r := .z, q := .z, k := p.toNat }
  vcvtI32F32 := fun d a => some (laneOp (.x .i32f32) d a .vz)
  vcvtF32I32 := fun d a => some (laneOp (.x .f32i32) d a .vz)
  vcvtI16I32 := fun d a p => some { op := .x .i16i32, d := d, a := a, b := .vz, r := .z, q := .z, k := p.toNat }
  vcvtI32I16 := fun d a p => some { op := .x .i32i16, d := d, a := a, b := .vz, r := .z, q := .z, k := p.toNat }
  vcvtF32Cb4 := fun d a p => some { op := .x .f32cb4, d := d, a := a, b := .vz, r := .z, q := .z, k := p.toNat }
  vcvtCb4F32 := fun d a p => some { op := .x .cb4f32, d := d, a := a, b := .vz, r := .z, q := .z, k := p.toNat }
  vcvtI8I32 := fun d a p => some { op := .x .i8i32, d := d, a := a, b := .vz, r := .z, q := .z, k := p.toNat }
  vcvtI32I8 := fun d a p => some { op := .x .i32i8, d := d, a := a, b := .vz, r := .z, q := .z, k := p.toNat }
  vbcast := fun d a b => some { op := .p .bcast, d := d, a := a, b := .vz, r := .z, q := b, k := 0 }
  vextr := fun d a b => some { op := .p .extr, d := .vz, a := a, b := .vz, r := d, q := b, k := 0 }
  vins := fun d a b => some { op := .p .ins, d := d, a := .vz, b := .vz, r := a, q := b, k := 0 }
  vrot := fun d a b => some { op := .p .rot, d := d, a := a, b := .vz, r := .z, q := b, k := 0 }
  vshuf := fun d a b => some (laneOp (.p .shuf) d a b)
  vscan := fun d a k => some { op := .p .scan, d := d, a := a, b := .vz, r := .z, q := .z, k := k.toNat }
  vredadd := fun d a k => some { op := .p .redadd, d := .vz, a := a, b := .vz, r := d, q := .z, k := k.toNat }
  vredmax := fun d a k => some { op := .p .redmax, d := .vz, a := a, b := .vz, r := d, q := .z, k := k.toNat }
  vredmin := fun d a k => some { op := .p .redmin, d := .vz, a := a, b := .vz, r := d, q := .z, k := k.toNat }
  viota := fun d => some (laneOp (.p .iota) d .vz .vz)
  vzip := fun d a b => some (laneOp (.p .zip) d a b)
  vunzip := fun d a b => some (laneOp (.p .unzip) d a b)
  vaddFCompact := fun d a => some (laneOp (.f .add) (.v d) (.v d) a)
  vsubFCompact := fun d a => some (laneOp (.f .sub) (.v d) (.v d) a)
  vmulFCompact := fun d a => some (laneOp (.f .mul) (.v d) (.v d) a)
  vmaxFCompact := fun d a => some (laneOp (.f .max) (.v d) (.v d) a)
  vminFCompact := fun d a => some (laneOp (.f .min) (.v d) (.v d) a)
  vaddICompact := fun d a => some (laneOp (.i .add) (.v d) (.v d) a)
  vsubICompact := fun d a => some (laneOp (.i .sub) (.v d) (.v d) a)
  vmaxICompact := fun d a => some (laneOp (.i .max) (.v d) (.v d) a)
  vminICompact := fun d a => some (laneOp (.i .min) (.v d) (.v d) a)
  vandCompact := fun d a => some (laneOp (.b .and) (.v d) (.v d) a)
  vorCompact := fun d a => some (laneOp (.b .or) (.v d) (.v d) a)
  vxorCompact := fun d a => some (laneOp (.b .xor) (.v d) (.v d) a)
  vmovCompact := fun d a => some (laneOp (.b .mov) (.v d) a .vz)
  vnegFCompact := fun d a => some (laneOp (.f .neg) (.v d) a .vz)
  vabsFCompact := fun d a => some (laneOp (.f .abs) (.v d) a .vz)
  vshlICompact := fun d a => some (laneOp (.i .shl) (.v d) (.v d) a)
  kadd := fun _ _ _ => none
  ksub := fun _ _ _ => none
  kmax := fun _ _ _ => none
  kmin := fun _ _ _ => none
  kmov := fun _ _ => none
  kset := fun _ _ => none
  kfromv := fun _ _ => none
  ktov := fun _ _ => none
  kbind := fun _ _ _ => none
  kunbind := fun _ => none
  kgen := fun _ _ => none
  ttset := fun _ _ => none
  ttget := fun _ _ => none
  ttinv := fun _ => none
  tcb := fun _ _ => none
  tld := fun _ _ _ _ _ => none
  tst := fun _ _ _ => none
  kld := fun _ _ => none
  kst := fun _ _ => none
  ksave := fun _ => none
  krestore := fun _ => none
  pcmd := fun _ _ => none
  pwait := fun _ _ => none
  pfence := none
  pstat := fun _ => none
  copy := fun _ _ => none
  bseal := fun _ => none
  bdrain := fun _ _ => none
  cwptr := fun _ _ => none
  ctake := fun _ _ _ => none
  cgive := fun _ _ _ => none
  csum := fun _ _ _ => none
  creset := fun _ _ _ => none
  barv := fun _ _ => none
  barw := fun _ _ => none
  barg := fun _ _ => none
  barp := fun _ _ => none
  msend := fun _ _ _ => none
  mpoll := fun _ => none
  winrd := fun _ _ => none
  srd := fun _ _ => none
  swr := fun _ _ => none
  crd := fun _ _ => none
  dacc := fun _ _ => none
  trcm := fun _ => none
  tlbinv := fun _ _ => none
  errinj := fun _ _ => none

/-- The lane instruction that an encoding stands for; none when it is illegal or no lane instruction. -/
def laneWord (w : Nat) : Option VInstr :=
  if w % 2 = 0 then (readCompact laneInterp w).join else (readWord laneInterp w).join

end Sys2Proof.Machine
end

