-- ==== Sys2Proof/Machine/Control.lean ====
section
/-! DEFINITION. Control: branches, jumps, LOOP, REP and the repetition buffer, and the TRAPS major
(R82 to R93). -/

namespace Sys2Proof.Machine

/-! ## Branches and jumps (R82, R83) -/

/-- The address a signed number of halfwords from the instruction, modulo 2^48 (log entry 81). -/
def Core.target (c : Core) (halves : BitVec 48) : BitVec 48 := c.cur.pc + halves * 2

/-- Goes to the target when the condition holds, ending every window (R43). -/
def branchIf (taken : Bool) (off : BitVec 10) : M Flow := do
  if taken then
    let t := (← getC).target (off.signExtend 48)
    endWindows
    pure (.goto t)
  else pure (.next none)

/-- A branch on two registers; their poison is consumed (R73). -/
def branch (p : Word → Word → Bool) (a b : RSpec) (off : BitVec 10) : M Flow := do
  let (x, y) ← consuming (do return (← readClean a, ← readClean b))
  branchIf (p x.bits y.bits) off

/-- A branch on a bit of a register (R82). -/
def branchBit (v : Bool) (a : RSpec) (bit : BitVec 6) (off : BitVec 10) : M Flow := do
  let x ← consuming (readClean a)
  branchIf (x.bits.getLsbD bit.toNat == v) off

/-- BEQ (Table 4.8). -/
def execBeq (a b : RSpec) (off : BitVec 10) (s : State) : Host.Outcome State Fault Refusal :=
  run (formBeq a b off) (branch (· == ·) a b off) s

/-- BNE (Table 4.8). -/
def execBne (a b : RSpec) (off : BitVec 10) (s : State) : Host.Outcome State Fault Refusal :=
  run (formBne a b off) (branch (· != ·) a b off) s

/-- BLT, signed (Table 4.8). -/
def execBlt (a b : RSpec) (off : BitVec 10) (s : State) : Host.Outcome State Fault Refusal :=
  run (formBlt a b off) (branch BitVec.slt a b off) s

/-- BGE, signed (Table 4.8). -/
def execBge (a b : RSpec) (off : BitVec 10) (s : State) : Host.Outcome State Fault Refusal :=
  run (formBge a b off) (branch (fun x y => y.sle x) a b off) s

/-- BLTU (Table 4.8). -/
def execBltu (a b : RSpec) (off : BitVec 10) (s : State) : Host.Outcome State Fault Refusal :=
  run (formBltu a b off) (branch BitVec.ult a b off) s

/-- BGEU (Table 4.8). -/
def execBgeu (a b : RSpec) (off : BitVec 10) (s : State) : Host.Outcome State Fault Refusal :=
  run (formBgeu a b off) (branch (fun x y => y.ule x) a b off) s

/-- BBS (Table 4.8). -/
def execBbs (a : RSpec) (bit : BitVec 6) (off : BitVec 10) (s : State) : Host.Outcome State Fault Refusal :=
  run (formBbs a bit off) (branchBit true a bit off) s

/-- BBC (Table 4.8). -/
def execBbc (a : RSpec) (bit : BitVec 6) (off : BitVec 10) (s : State) : Host.Outcome State Fault Refusal :=
  run (formBbc a bit off) (branchBit false a bit off) s

/-- J (Table 4.9). -/
def jump (off : BitVec 25) : M Flow := do
  let t := (← getC).target (off.signExtend 48)
  endWindows
  pure (.goto t)

def execJ (off : BitVec 25) (s : State) : Host.Outcome State Fault Refusal := run (formJ off) (jump off) s

/-- The link: the address after the jump, without taint or poison (R83). -/
def Core.link (c : Core) : Val := .clean ((c.cur.pc + 4).setWidth 64)

/-- JAL: links in w31 (R83). -/
def jumpLink (off : BitVec 25) : M Flow := do
  let c ← getC
  endWindows
  writeW 31 c.link
  pure (.goto (c.target (off.signExtend 48)))

def execJal (off : BitVec 25) (s : State) : Host.Outcome State Fault Refusal := run (formJal off) (jumpLink off) s

/-- JALR: reads a, whose poison it consumes, before the windows it ends close, then links in d (R83; log entry 35). -/
def jumpReg (d a : RSpec) (imm : BitVec 13) : M Flow := do
  let c ← getC
  let x ← consuming (readClean a)
  let t := (x.bits + imm13 imm * 2).toNat % 2 ^ 48
  faultIf (t % 2 == 1) cALIGN t
  endWindows
  writeR d c.link
  pure (.goto (.ofNat 48 t))

def execJalr (d a : RSpec) (imm : BitVec 13) (s : State) : Host.Outcome State Fault Refusal :=
  run (formJalr d a imm) (jumpReg d a imm) s

/-! ## LOOP (R85 to R88) -/

/-- Whether the loop stack takes a body (R88). -/
def loopFits (loops : List LoopEntry) (start stop : BitVec 48) : Bool :=
  match loops with
  | [] => true
  | e :: rest => rest.isEmpty && decide (e.start.toNat ≤ start.toNat) && decide (stop.toNat ≤ e.stop.toNat)

/-- Enters a counted body, or skips it on a count of zero. A body that the loop stack does not take is ILL, before
REGRANGE and the poison of the count, when the data bits of the count are not zero (R49, R88; log entry 35). -/
def loopEnter (c : RSpec) (fin : BitVec 19) : M Flow := do
  endWindows
  let core ← getC
  let start := core.cur.pc + 4
  let stop := core.cur.pc + fin.setWidth 48 * 2
  let count : Word := match c with
    | .w i => (core.regVal i).bits
    | .out _ | .inp _ | .z | .inq => 0
  faultIf (count ≠ 0 && !loopFits core.cur.loops start stop) cILL (formLoop c fin).enc
  regRange c.regs
  bodyFree c.regs
  let k ← consuming (readClean c)
  if k.bits = 0 then pure (.skip stop)
  else
    let new : LoopEntry := { start := start, stop := stop, c := c }
    modT (fun t => { t with loops := new :: t.loops })
    pure (.next none)

def execLoop (c : RSpec) (fin : BitVec 19) (s : State) : Host.Outcome State Fault Refusal :=
  run { formLoop c fin with regs := [] } (loopEnter c fin) s

/-! ## REP and the repetition buffer (R51, R89 to R92) -/

/-- The `n` body instructions from an address on, and the address after them. A fetch fault has the
faulting address as its trap value; an instruction that may not stand there takes ILL (R51). They are taken in address
order, so that an earlier illegal one comes before a later one's fetch fault (log entry 79). -/
def capture : Nat → BitVec 48 → M (List RepSlot × BitVec 48)
  | 0, va => pure ([], va)
  | n + 1, va => do
    match ← stateOf (fun s => s.codeWord va.toNat) with
    | .bad b x => fault b.cause x
    | .word w =>
      match laneWord w with
      | none => fault cILL w
      | some v =>
        let (rest, stop) ← capture n (va + BitVec.ofNat 48 (encLen w))
        pure ({ addr := va, ins := v } :: rest, stop)

/-- Captures the body, reads and clears the count, and goes on after the body (R51, R89). -/
def repeatBody (n1 : BitVec 4) (c : RSpec) (vs : BitVec 6) : M Flow := do
  let (body, after) ← capture (n1.toNat + 1) ((← getC).cur.pc + 4)
  regRange (c.regs ++ body.flatMap (fun x => x.ins.regs))
  endWindows
  let k ← consuming (readClean c)
  writeR c { k with bits := 0 }
  if k.bits ≠ 0 then
    let buf : RepBuf := { body := body, vstride := vs.toInt, passes := k.bits.toNat, pass := 0, next := 0
                          lmask := (← getC).cur.lmask }
    modT (fun t => { t with rep := some buf })
    modC (fun c => { c with bufStalled := false })
  pure (.skip after)

def execRep (n1 : BitVec 4) (c : RSpec) (vs : BitVec 6) (s : State) : Host.Outcome State Fault Refusal :=
  run { formRep n1 c vs with regs := [] } (repeatBody n1 c vs) s

/-- A tile row number shifted by the pass (R89). -/
def LSpec.shift (k : Int) : LSpec → LSpec
  | .v i => .v (.ofInt 6 ((i.toNat : Int) + k))
  | .post p => .post p
  | .str p => .str p
  | .bcast i => .bcast i
  | .vz => .vz
  | .vout d => .vout d
  | .vin d => .vin d
  | .m i => .m i

/-- A body instruction as one pass issues it (R89). -/
def VInstr.shift (v : VInstr) (k : Int) : VInstr :=
  { v with d := LSpec.shift k v.d, a := LSpec.shift k v.a, b := LSpec.shift k v.b }

/-- The major opcode of a lane instruction (Table 8.2). -/
def VInstr.major (v : VInstr) : Nat :=
  match v.op with
  | .f _ => 0x28
  | .i _ => 0x29
  | .b _ => 0x2A
  | .c _ => 0x2B
  | .m _ => 0x2C
  | .x _ => 0x2D
  | .p _ => 0x2E

/-- The buffer after one slot has issued; none once the last pass is done. -/
def RepBuf.advance (b : RepBuf) : Option RepBuf :=
  if b.next + 1 < b.body.length then some { b with next := b.next + 1 }
  else if b.pass + 1 < b.passes then some { b with pass := b.pass + 1, next := 0 }
  else none

/-- Puts the buffer of the running thread. -/
def State.putRep (s : State) (r : Option RepBuf) : State :=
  { s with core := { s.core with cur := { s.core.cur with rep := r } } }

/-- The running thread under another current mask. -/
def State.withMask (s : State) (m : BitVec 3) : State :=
  { s with core := { s.core with cur := { s.core.cur with lmask := m } } }

/-- The buffer moves on after a slot that leaves current mask `t.lmask`; the integer pipeline has LMASK `m` until the
buffer is empty (R196). -/
def State.afterSlot (t : State) (b : RepBuf) (m : BitVec 3) : State :=
  match b.advance with
  | some b => (t.putRep (some { b with lmask := t.core.cur.lmask })).withMask m
  | none => t.putRep none

/-- One body instruction issues (R89, R92). Without a buffer there is nothing to do. -/
def execRepBodyIssue (s : State) : Host.Outcome State Fault Refusal :=
  match s.core.cur.rep with
  | none => .next s
  | some b =>
    match b.body[b.next]? with
    | none => .next (s.putRep none)
    | some x =>
      if !s.mayIssue then .next s
      else
        let v := x.ins.shift ((b.pass : Int) * b.vstride)
        let at0 := (s.putRep none).withMask b.lmask
        match v.effect at0 with
        | .ok _ t =>
          let t := t.afterSlot b s.core.cur.lmask
          .next { t with core := { t.core with
            nInstr := t.core.nInstr + 1, stalled := false, bufStalled := false } }
        | .error e after =>
          match faultBefore v.effect at0 e after with
          | (.trap f, after) =>
            .next (((s.keepFound after).keepTaken after).takeTrap { f with epc := some x.addr, buf := true } x.addr v.major)
          | (.commit act, _) =>
            let t := s.commitPart act
            .next { t with core := { t.core with bufStalled := true } }
          | (_, after) =>
            let t := s.afterWait after
            .next { t with core := { t.core with bufStalled := true } }

/-! ## The TRAPS major (R93) -/

/-- NOP (Table 4.13). -/
def execNop (s : State) : Host.Outcome State Fault Refusal := run formNop (pure (.next none)) s

/-- TRAP: completes, then takes TRAP with the register's bits (Table 4.13). -/
def trapTo (a : RSpec) : M Flow := do
  let x ← readR a
  pure (.trap { cause := cTRAP, tval := x.bits, spec := 0, major := none, epc := none, buf := false })

def execTrap (a : RSpec) (s : State) : Host.Outcome State Fault Refusal := run (formTrap a) (trapTo a) s

/-- BRK takes BRK at its own address (Table 4.13, R404). -/
def execBrk (s : State) : Host.Outcome State Fault Refusal := run formBrk (fault cBRK 0) s

/-- RTE as it stands: outside a handler it is illegal in either mode, before anything else (R49, R93). -/
def Core.rteForm (c : Core) : Form := { formRte with ok := c.inHandler && c.frame.isSome }

/-- RTE ends the handler (R339). The trapped activation runs on unless an HQ activation waits (R98). -/
def returnTrap : M Flow := do
  match (← getC).frame with
  | some fr =>
    endWindows
    modify (fun s => (s.returnFrom fr).suspend)
    pure .done
  | none => fault cILL formRte.enc

def execRte (s : State) : Host.Outcome State Fault Refusal := run s.core.rteForm returnTrap s

/-- IDLE waits until a queue holds an activation or a stop has been asked for (R93, R402). -/
def idle : M Flow := do
  let c ← getC
  waitUntil (!c.hq.isEmpty || !c.lq.isEmpty || c.stopReq)
  pure (.next none)

def execIdle (s : State) : Host.Outcome State Fault Refusal := run formIdle idle s

end Sys2Proof.Machine
end

