-- ==== Sys2Proof/Machine/Sha256.lean ====
section
/-! DEFINITION. SHA-256 (FIPS 180-4), which measurement, reports and the identity use (R407, R410, R411),
HKDF-SHA-256 (RFC 5869, R410), and the measurement registers that an extend changes (R407). A digest of 32 bytes is a 256-bit value with byte 0 lowest (R3). -/

namespace Sys2Proof.Machine

/-- The eight words of the hash value, and of the working variables. -/
structure Sha where
  a : BitVec 32
  b : BitVec 32
  c : BitVec 32
  d : BitVec 32
  e : BitVec 32
  f : BitVec 32
  g : BitVec 32
  h : BitVec 32
  deriving DecidableEq, Repr

/-- The 64 round constants. -/
def shaK : List (BitVec 32) :=
  [0x428A2F98, 0x71374491, 0xB5C0FBCF, 0xE9B5DBA5, 0x3956C25B, 0x59F111F1, 0x923F82A4, 0xAB1C5ED5,
   0xD807AA98, 0x12835B01, 0x243185BE, 0x550C7DC3, 0x72BE5D74, 0x80DEB1FE, 0x9BDC06A7, 0xC19BF174] ++
  [0xE49B69C1, 0xEFBE4786, 0x0FC19DC6, 0x240CA1CC, 0x2DE92C6F, 0x4A7484AA, 0x5CB0A9DC, 0x76F988DA,
   0x983E5152, 0xA831C66D, 0xB00327C8, 0xBF597FC7, 0xC6E00BF3, 0xD5A79147, 0x06CA6351, 0x14292967] ++
  [0x27B70A85, 0x2E1B2138, 0x4D2C6DFC, 0x53380D13, 0x650A7354, 0x766A0ABB, 0x81C2C92E, 0x92722C85,
   0xA2BFE8A1, 0xA81A664B, 0xC24B8B70, 0xC76C51A3, 0xD192E819, 0xD6990624, 0xF40E3585, 0x106AA070] ++
  [0x19A4C116, 0x1E376C08, 0x2748774C, 0x34B0BCB5, 0x391C0CB3, 0x4ED8AA4A, 0x5B9CCA4F, 0x682E6FF3,
   0x748F82EE, 0x78A5636F, 0x84C87814, 0x8CC70208, 0x90BEFFFA, 0xA4506CEB, 0xBEF9A3F7, 0xC67178F2]

/-- The initial hash value. -/
def Sha.init : Sha :=
  { a := 0x6A09E667, b := 0xBB67AE85, c := 0x3C6EF372, d := 0xA54FF53A
    e := 0x510E527F, f := 0x9B05688C, g := 0x1F83D9AB, h := 0x5BE0CD19 }

/-- The four functions of the rounds and of the message schedule. -/
def shaS0 (x : BitVec 32) : BitVec 32 := x.rotateRight 2 ^^^ x.rotateRight 13 ^^^ x.rotateRight 22
def shaS1 (x : BitVec 32) : BitVec 32 := x.rotateRight 6 ^^^ x.rotateRight 11 ^^^ x.rotateRight 25
def shaW0 (x : BitVec 32) : BitVec 32 := x.rotateRight 7 ^^^ x.rotateRight 18 ^^^ (x >>> 3)
def shaW1 (x : BitVec 32) : BitVec 32 := x.rotateRight 17 ^^^ x.rotateRight 19 ^^^ (x >>> 10)

/-- A string of bytes as a number, the first byte highest. -/
def beNat (l : List Byte) : Nat := leNat l.reverse

/-- A number as `n` bytes, the highest first. -/
def natBE (n x : Nat) : List Byte := (natLE n x).reverse

/-- The message schedule of a block, `n` words on from the 16 last ones, which `w` holds with the latest first. -/
def shaSchedule : Nat → List (BitVec 32) → List (BitVec 32)
  | 0, w => w
  | n + 1, w => shaSchedule n ((shaW1 (w.getD 1 0) + w.getD 6 0 + shaW0 (w.getD 14 0) + w.getD 15 0) :: w)

/-- One round. -/
def Sha.round (s : Sha) (kw : BitVec 32 × BitVec 32) : Sha :=
  let t1 := s.h + shaS1 s.e + ((s.e &&& s.f) ^^^ (~~~s.e &&& s.g)) + kw.1 + kw.2
  let t2 := shaS0 s.a + ((s.a &&& s.b) ^^^ (s.a &&& s.c) ^^^ (s.b &&& s.c))
  { a := t1 + t2, b := s.a, c := s.b, d := s.c, e := s.d + t1, f := s.e, g := s.f, h := s.g }

/-- The hash value after one block of 64 bytes. -/
def Sha.block (s : Sha) (block : List Byte) : Sha :=
  let w := ((chunks 4 16 block).map (fun l => BitVec.ofNat 32 (beNat l))).reverse
  let t := (shaK.zip (shaSchedule 48 w).reverse).foldl Sha.round s
  { a := s.a + t.a, b := s.b + t.b, c := s.c + t.c, d := s.d + t.d
    e := s.e + t.e, f := s.f + t.f, g := s.g + t.g, h := s.h + t.h }

/-- The message padded to whole blocks: a 1 bit, zeros, and its length in bits. -/
def shaPad (m : List Byte) : List Byte :=
  m ++ [0x80] ++ List.replicate ((119 - m.length % 64) % 64) 0 ++ natBE 8 (8 * m.length)

/-- The bytes of a hash value. -/
def Sha.bytes (s : Sha) : List Byte :=
  [s.a, s.b, s.c, s.d, s.e, s.f, s.g, s.h].flatMap (fun x => natBE 4 x.toNat)

/-- The 32 bytes of the digest of a byte string. -/
def shaBytes (m : List Byte) : List Byte :=
  let p := shaPad m
  ((chunks 64 (p.length / 64) p).foldl Sha.block Sha.init).bytes

/-- SHA-256 of a byte string. -/
def sha256 (m : List Byte) : BitVec 256 := .ofNat 256 (leNat (shaBytes m))

/-- HMAC-SHA-256 under a key of at most 64 bytes (RFC 2104). -/
def hmac (key m : List Byte) : List Byte :=
  let k := key ++ List.replicate (64 - key.length) 0
  shaBytes (k.map (· ^^^ 0x5C) ++ shaBytes (k.map (· ^^^ 0x36) ++ m))

/-- The blocks that HKDF expands a key into, `n` of them from number `i` on. -/
def hkdfBlocks (prk info : List Byte) : Nat → Nat → List Byte → List Byte
  | 0, _, _ => []
  | n + 1, i, prev =>
    let t := hmac prk (prev ++ info ++ [.ofNat 8 i])
    t ++ hkdfBlocks prk info n (i + 1) t

/-- HKDF-SHA-256: `n` bytes from a salt, keying material and an info string (RFC 5869). -/
def hkdf (salt ikm info : List Byte) (n : Nat) : List Byte :=
  (hkdfBlocks (hmac salt ikm) info ((n + 31) / 32) 1 []).take n

/-! ## Measurement registers (R407) -/

/-- A register extended with a digest. -/
def extended (m digest : BitVec 256) : BitVec 256 := sha256 (natLE 32 m.toNat ++ natLE 32 digest.toNat)

/-- Extends a measurement register. -/
def State.extend (s : State) (i : Nat) (digest : BitVec 256) : State :=
  { s with mr := modifyAt (fun m => extended m digest) s.mr i }

/-- The measure of a layout: MR3 is extended with its digest (Table 21.1; log entry 94). -/
def State.measureLayout (s : State) : State :=
  s.extend 3 (Config.layoutDigest (s.partitions.map (fun p => (p.first, p.across, p.rows))) (s.ports.map (·.owner))
    (s.ethPorts.map (·.owner)) s.tier2Owner)

/-- The layout that `t` has after `s` is measured if it differs. -/
def State.relaid (s t : State) : State :=
  if s.partitions.map (fun p => (p.first, p.across, p.rows)) = t.partitions.map (fun p => (p.first, p.across, p.rows)) ∧
      s.ports.map (·.owner) = t.ports.map (·.owner) ∧ s.ethPorts.map (·.owner) = t.ethPorts.map (·.owner) ∧
      s.tier2Owner = t.tier2Owner then t
  else t.measureLayout

end Sys2Proof.Machine
end

