-- ==== Sys2Proof/Machine/Management.lean ====
section
/-! DEFINITION. Management commands that stop cores, read and write what a stopped core holds, set parameters,
watches, routes and windows (R367, R368, R377, R402, R403, R406), allot the device's resources (R372, R374), and
drive its ports (R371); writes of the windows' other registers (R376). -/

namespace Sys2Proof.Machine

/-! ## Stops (R402) -/

/-- The present cores of a partition in a command's rectangle (R284); none for a rectangle out of range. -/
def State.coreRect (s : State) (part : Nat) (d0 : Word) : Option (List Nat) :=
  let x0 := bitsAt d0 15 0
  let y0 := bitsAt d0 31 16
  let x1 := bitsAt d0 47 32
  let y1 := bitsAt d0 63 48
  if x0 ≤ x1 ∧ x1 ≤ 255 ∧ y0 ≤ y1 ∧ y1 ≤ 63 then
    some ((s.coresOf part).filter (fun c =>
      decide (x0 ≤ coreGX c ∧ coreGX c ≤ x1 ∧ y0 ≤ coreGY c ∧ coreGY c ≤ y1)))
  else none

/-- STOP: a stop request on each core named. -/
def execStop (part : Nat) (s : State) : Host.Outcome State Fault Refusal :=
  s.command (.partition part) (fun d s => match s.coreRect part (d 0) with
    | none => .bad
    | some cs => .done (cs.foldl (fun s i => s.modCore i (fun c => { c with stopReq := true, stalled := false })) s))

/-- Whether a core that a stop names has come to its end: nothing runs and nothing is suspended. -/
def Core.atStop (c : Core) : Bool :=
  c.stopReq && !c.stopped && !c.active && c.susp.isNone && c.frame.isNone

/-- CORE_STOPPED: the core writes its KIND 6 record and is STOPPED. -/
def execCoreStopped (core : Nat) (s : State) : Host.Outcome State Fault Refusal :=
  if !(s.coreOf core).atStop then nothing s
  else
    let s := s.onCore core (fun s => s.trace 6 0 0 0 0 0)
    happens (s.modCore core (fun c => { c with stopped := true }))

/-- A stop is cleared on the core in focus: KIND 7 after a stop, and parked claims are tested again. -/
def State.clearStop (s : State) : State :=
  if !s.core.stopReq then s
  else
    let s := if s.core.stopped then s.trace 7 0 0 0 0 0 else s
    State.testParked { s with core := { s.core with stopReq := false, stopped := false } }

/-- RESUME. -/
def execResume (part : Nat) (s : State) : Host.Outcome State Fault Refusal :=
  s.command (.partition part) (fun d s => match s.coreRect part (d 0) with
    | none => .bad
    | some cs => .done (cs.foldl (fun s i => s.onCore i State.clearStop) s))

/-! ## CORERW (R403) -/

/-- What a CORERW address reaches. -/
inductive Region where
  | local
  | banks
  | press
  deriving DecidableEq, Repr

/-- The region that holds all of `n` bytes, and the offset in it. -/
def regionOf (a n : Nat) : Option (Region × Nat) :=
  if n = 0 ∨ 32 < n then none
  else if a + n ≤ 0x20000 then some (.local, a)
  else if 0x20000 ≤ a ∧ a + n ≤ 0x20004 then some (.banks, a - 0x20000)
  else if 0x30000 ≤ a ∧ a + n ≤ 0x36600 then some (.press, a - 0x30000)
  else none

/-- Whether an id names a present core of a partition. -/
def State.ownCore (s : State) (part core : Nat) : Bool := s.corePresent core && s.partOf core == some part

/-- The bytes of a region of a core. -/
def Core.regionBytes (c : Core) (r : Region) (off n : Nat) : List Byte :=
  match r with
  | .local => c.lm.bytes off n
  | .banks => ((natLE 4 c.bankModes.toNat).drop off).take n
  | .press => ((c.saveArea.drop off).take n).map (·.1)

/-- Bytes put over part of a list, without poison. -/
def overlay (old : List (Byte × Bool)) (off : Nat) (new : List Byte) : List (Byte × Bool) :=
  old.zipIdx.map (fun (b, j) => if off ≤ j && decide (j < off + new.length) then (new.getD (j - off) 0, false) else b)

/-- A core with new bytes in a region; none when the press could not hold them. Bank 0 stays scratch (R121). -/
def Core.putRegion (c : Core) (r : Region) (off : Nat) (bytes : List Byte) : Option Core :=
  match r with
  | .local => some { c with
      lm := c.lm.setBytes off bytes
      lmPoison := writePoison 8 c.lmPoison off (List.replicate bytes.length false) }
  | .banks =>
    let map := leNat ((overlay ((natLE 4 c.bankModes.toNat).map (fun b => (b, false))) off bytes).map (·.1))
    if map % 4 ≠ 0 then none
    else some ((List.range 16).foldl (fun c b => c.setBank b (map / 4 ^ b % 4)) c)
  | .press =>
    let area := overlay c.saveArea off bytes
    if badArea area then none else some (c.restoreArea area)

/-- The core and region that a CORERW names, once its arguments pass. -/
def State.coreRw (s : State) (part : Nat) (d : Nat → Word) : Option (Nat × Region × Nat × Nat) :=
  let core := (d 0).toNat
  let n := (d 2).toNat
  if !s.ownCore part core then none
  else (regionOf (d 1).toNat n).map (fun (r, off) => (core, r, off, n))

/-- CORERW with A 0: the bytes are returned in ARG d4 to d7. -/
def execCorerwRead (part : Nat) (s : State) : Host.Outcome State Fault Refusal :=
  s.command (.partition part) (fun d s => match s.coreRw part d with
    | none => .bad
    | some (core, r, off, n) =>
      if !(s.coreOf core).stopped then .refused
      else
        let s := if r = .local then s.meetLocal core off n else s
        let bytes := (s.coreOf core).regionBytes r off n
        let dws := dwordsOf (bytes ++ List.replicate (32 - n) 0)
        .done ((List.range 4).foldl (fun s j => s.setArg part (4 + j) (dws.getD j 0)) s))

/-- CORERW with A 1. -/
def execCorerwWrite (part : Nat) (s : State) : Host.Outcome State Fault Refusal :=
  s.command (.partition part) (fun d s => match s.coreRw part d with
    | none => .bad
    | some (core, r, off, n) =>
      let c := s.coreOf core
      if !c.stopped then .refused
      else
        let bytes := ((List.range 4).flatMap (fun j => dwordBytes (d (4 + j)))).take n
        match c.putRegion r off bytes with
        | none => .bad
        | some c => .done (s.putCore c))

/-! ## Parameters, watches, quarantine (R377, R393, R406) -/

/-- Whether a trace ring lies in main memory, as far as its base and size are known (R400). -/
def traceFits (main : Nat) (base : Word) (log : Nat) : Bool :=
  decide (addr48 base + (if log = 0 then 0 else 32 * 2 ^ log) ≤ main)

/-- A parameter of a context or partition takes a value; none when it is out of range. -/
def Context.setParam (c : Context) (main param : Nat) (v : Word) : Option Context :=
  match param with
  | 0 => if v.toNat ≤ 65536 then some { c with checkrate := v } else none
  | 1 => if bitsAt v 5 0 ≤ 48 then some { c with cntpol := v &&& 0xFFFF003F } else none
  | 2 => if v.toNat % 4096 = 0 ∧ v.toNat < 2 ^ 48 ∧ traceFits main v c.traceLog then some { c with traceBase := v, traceNext := 0 } else none
  | 3 =>
    if 8 ≤ v.toNat ∧ v.toNat ≤ 24 ∧ traceFits main c.traceBase v.toNat then some { c with traceLog := v.toNat, traceNext := 0 }
    else none
  | _ => none

/-- SETPARAM: RAMPUP and RAMPDN are the partition's, and firmware's alone; each has bits [15:0] (R7, R219). -/
def execSetparam (part ctx param : Nat) (firmware : Bool) (s : State) : Host.Outcome State Fault Refusal :=
  s.command (.partition part) (fun d s =>
    if 5 < param then .bad
    else if 4 ≤ param then
      if !firmware then .refused
      else
        let v : BitVec 64 := .ofNat 64 (bitsAt (d 0) 15 0)
        .done (s.modPart part (fun p => if param = 4 then { p with rampUp := v } else { p with rampDn := v }))
    else if !ctxId ctx then .bad
    else match s.ctxIn part ctx (fun _ => true) with
      | none => .refused
      | some c => match c.setParam (s.mainBytes part) param (d 0) with
        | none => .bad
        | some c => .done (s.modCtx ctx (fun _ => c)))

/-- WATCH: a comparator of a core. -/
def execWatch (part : Nat) (s : State) : Host.Outcome State Fault Refusal :=
  s.command (.partition part) (fun d s =>
    let core := (d 0).toNat
    let m := bitsAt (d 3) 4 0
    let base := addr48 (d 2)
    if !s.ownCore part core ∨ 1 < (d 1).toNat ∨ 20 < m ∨ base % (8 * 2 ^ m) ≠ 0 then .bad
    else
      let w : WatchCmp := { base := .ofNat 48 base, m := m, rd := (d 4).getLsbD 0, wr := (d 4).getLsbD 1 }
      .done (s.modCore core (fun c => { c with watch := c.watch.set (d 1).toNat w })))

/-- QRELEASE: out of quarantine, or of being due for it, with a score of 0. -/
def execQrelease (part : Nat) (s : State) : Host.Outcome State Fault Refusal :=
  s.command (.partition part) (fun d s =>
    let core := (d 0).toNat
    let c := s.coreOf core
    if !s.ownCore part core then .bad
    else if !c.quarantined && !c.dueQ then .refused
    else .done (s.modCore core (fun c => { c with quarantined := false, dueQ := false, suspicion := 0 })))

/-! ## Routes and windows (R367, R368) -/

/-- ROUTE: an entry of the partition's route table. -/
def execRoute (part : Nat) (s : State) : Host.Outcome State Fault Refusal :=
  s.command (.partition part) (fun d s =>
    let e : RouteEnt := {
      valid := (d 1).getLsbD 0, device := d 2, part := bitsAt (d 3) 3 0
      ports := .ofNat 128 ((d 4).toNat + (d 5).toNat * 2 ^ 64), slot := bitsAt (d 6) 7 0 }
    .done (s.modPart part (fun p => { p with routes := assocPut p.routes (bitsAt (d 0) 7 0) e })))

/-- DMAWIN: a window of the partition's virtual function. -/
def execDmawin (part : Nat) (s : State) : Host.Outcome State Fault Refusal :=
  s.command (.partition part) (fun d s =>
    let w : DmaWin := { base := d 1, size := d 2, bus := d 3 }
    .done (s.modPart part (fun p => { p with dma := p.dma.set (bitsAt (d 0) 2 0) w })))

/-! ## Allotment (R19, R372, R374) -/

/-- Whether every context of a partition is SAVED, or FREE. -/
def State.allSaved (s : State) (p : Nat) : Bool := s.contexts.all (fun c => c.part != p || c.st == .saved)

/-- Whether a partition has a context that runs. -/
def State.running (s : State) (p : Nat) : Bool :=
  s.contexts.any (fun c => c.part == p && (c.st == .active || c.st == .preempting))

/-- A port goes to a partition, while no context of its owners runs. -/
def State.allotPort (s : State) (p : Nat) (port : Option Port) (f : State) : Answer :=
  match port with
  | none => .bad
  | some q => if s.allSaved p && (q.owner.map s.allSaved).getD true then .done (s.relaid f) else .refused

/-- What granules held is unreadable under the key they are read with from now on: their bytes are free values (log entry
8), and no slice, L1 or ripening copy holds a line of them (R375, R412; log entry 65). `mine` says which keys are theirs. -/
def State.garble (s : State) (granules : List Nat) (mine : Nat → Bool) : State :=
  let bare (c : Core) : Core := { c with l1 := c.l1.filter (fun x => !mine (128 * x.line)) }
  granules.foldl (fun s u =>
    let (a, s) := s.takeFree
    let (b, s) := s.takeFree
    { s with mem := s.mem.setBytes (16 * u) (dwordBytes a ++ dwordBytes b) })
    { s with
      lines := s.lines.filter (fun x => !mine (128 * x.line)), ripening := s.ripening.filter (fun r => !mine (128 * r.line))
      core := bare s.core, others := s.others.map bare }

/-- The granules of one GiB of second-tier memory. -/
def tier2Granules (g : Nat) : List Nat := (List.range (2 ^ 26)).map (physKey 16 (0x100000000000 + g * 2 ^ 30) / 16 + ·)

/-- Whether a key lies in one GiB of second-tier memory. -/
def inTier2 (g key : Nat) : Bool :=
  keyPart key == 16 && decide (0x100000000000 + g * 2 ^ 30 ≤ keyPA key ∧ keyPA key < 0x100000000000 + (g + 1) * 2 ^ 30)

/-- One GiB of second-tier memory is allotted to a partition: what another left there stands under that one's memory key
(R375). -/
def State.takeTier2 (s : State) (p g : Nat) : State :=
  let t : State := { s with tier2Held := assocPut s.tier2Held g p }
  match s.tier2Held.find? (fun h => h.1 == g) with
  | none => t
  | some h => if h.2 = p then t else t.garble (tier2Granules g) (inTier2 g)

/-- The capacity of second-tier memory in GiB (Table 6.4). -/
def tier2GiB : Nat := 1024

/-- ALLOT; a change is measured (Table 21.1). A range takes the place of the one that the partition had; one of size 0 leaves it none. -/
def execAllot (s : State) : Host.Outcome State Fault Refusal :=
  s.command .device (fun d s =>
    let p := bitsAt (d 0) 3 0
    let n := (d 2).toNat
    let own (q : Port) : Port := { q with owner := some p }
    match (d 1).toNat with
    | 0 => s.allotPort p s.ports[n]? { s with ports := modifyAt own s.ports n }
    | 1 => s.allotPort p s.ethPorts[n]? { s with ethPorts := modifyAt own s.ethPorts n }
    | 2 =>
      let size := (d 3).toNat
      let others := s.tier2Owner.filter (fun o => o.1 != p)
      if tier2GiB < n + size then .bad
      else if !s.allSaved p || others.any (fun (_, b, z) => decide (b < n + size ∧ n < b + z)) then .refused
      else
        let t : State := { s with tier2Owner := if size = 0 then others else others ++ [(p, n, size)] }
        .done ((List.range size).foldl (fun s k => s.takeTier2 p (n + k)) (s.relaid t))
    | _ => .bad)

/-- RECT, whose change is measured (Table 21.1): a partition's rectangle of granules; none across or no rows leaves it without one. -/
def execRect (s : State) : Host.Outcome State Fault Refusal :=
  s.command .device (fun d s =>
    let p := bitsAt (d 0) 3 0
    let first := bitsAt (d 1) 3 0
    let across := bitsAt (d 2) 3 0
    let rows := bitsAt (d 3) 1 0
    let new (q : Partition) : Partition := { q with first := first, across := across, rows := rows }
    let mine := (List.range 16).filter (new .reset).owns
    let taken := s.partitions.zipIdx.any (fun (q, i) => i != p && mine.any q.owns)
    if 8 < first % 8 + across ∨ 2 < first / 8 + rows then .bad
    else if s.running p || taken then .refused
    else .done (s.relaid (s.modPart p new)))

/-! ## Ports (R27, R371) -/

/-- The port with an id. -/
def State.port? (s : State) : PortId → Option Port
  | .scaleUp n => s.ports[n]?
  | .ethernet n => s.ethPorts[n]?

/-- Changes a port. -/
def State.modPort (s : State) (id : PortId) (f : Port → Port) : State :=
  match id with
  | .scaleUp n => { s with ports := modifyAt f s.ports n }
  | .ethernet n => { s with ethPorts := modifyAt f s.ethPorts n }

/-- Whether a port never leaves DOWN: both lanes failed, or an Ethernet port that is disabled (R27). -/
def State.portDead (s : State) : PortId → Bool
  | .scaleUp n => s.absentPorts.has n
  | .ethernet n => s.absentEth.has n

/-- A PORTCTL: refused where the port's state does not allow it. -/
def State.portctl (s : State) (id : PortId) (ok : Port → Bool) (st : PortSt) : Host.Outcome State Fault Refusal :=
  s.command .device (fun _ s => match s.port? id with
    | none => .bad
    | some q => if ok q then .done (s.modPort id (fun q => { q with st := st, replays := 0 })) else .refused)

/-- PORTCTL 0. -/
def execPortctlDisable (port : PortId) (s : State) : Host.Outcome State Fault Refusal :=
  s.portctl port (fun q => q.st != .quarantined) .down

/-- PORTCTL 1. -/
def execPortctlEnable (port : PortId) (s : State) : Host.Outcome State Fault Refusal :=
  s.portctl port (fun q => q.st == .down && !s.portDead port) .training

/-- PORTCTL 2. -/
def execPortctlQuarantine (port : PortId) (s : State) : Host.Outcome State Fault Refusal :=
  s.portctl port (fun _ => !s.portDead port) .quarantined

/-- PORTCTL 3. -/
def execPortctlRelease (port : PortId) (s : State) : Host.Outcome State Fault Refusal :=
  s.portctl port (fun q => q.st == .quarantined) .down

/-! ## The windows' other registers (R376) -/

/-- What a read of a window's register returns (Table 18.5); it changes nothing, and is no step. None for an offset without
a readable register. -/
def State.windowRead (s : State) (w : Window) (offset : Nat) : Option Word :=
  match s.window w with
  | none => none
  | some m =>
    if offset = 8 then some (.ofNat 64 ((if m.busy then 1 else 0) + m.result.toNat * 256))
    else if 0x40 ≤ offset ∧ offset < 0x80 ∧ offset % 8 = 0 then m.arg[(offset - 0x40) / 8]?
    else match w with
      | .partition p =>
        let cores := s.coresOf p
        if offset = 0x100 then
          some (.ofNat 64 ((cores.filter (fun i => (s.coreOf i).acked)).length % 2 ^ 16 + cores.length % 2 ^ 16 * 2 ^ 16))
        else if offset = 0x108 then some (Config.saveLen p) else none
      | .device => if offset = 0x110 then some s.mfqBase else if offset = 0x118 then some s.mfqLog else none

/-- MGMT_REGISTER_WRITE: the argument block, and the device window's MFQBASE and MFQLOG; other registers are
read only. -/
def execMgmtRegisterWrite (win : Window) (offset : Nat) (value : BitVec 64) (s : State) : Host.Outcome State Fault Refusal :=
  if (s.window win).isNone then nothing s
  else if 0x40 ≤ offset ∧ offset < 0x80 ∧ offset % 8 = 0 then
    happens (s.modWindow win (fun m => { m with arg := m.arg.set ((offset - 0x40) / 8) value }))
  else match win with
    | .partition _ => nothing s
    | .device =>
      if offset = 0x110 then happens { s with mfqBase := .ofNat 64 (addr48 value / 64 * 64) }
      else if offset = 0x118 then happens { s with mfqLog := .ofNat 64 (bitsAt value 4 0) }
      else nothing s

/-- Whether a dword written to CMD names a command of its window (Table 18.5): in [7:0] an OP of Table 18.6, for CORERW in
[63:32] an operand A of 0 or 1, and for PORTCTL an ARG d0 of 0 to 3. -/
def MgmtWin.names (m : MgmtWin) (win : Window) (cmd : Nat) : Bool :=
  let op := cmd % 2 ^ 8
  let a := cmd / 2 ^ 32
  match win with
  | .partition _ => decide (1 ≤ op ∧ op ≤ 0x0F) && (op != 0x0A || decide (a ≤ 1))
  | .device => decide (0x20 ≤ op ∧ op ≤ 0x22) && (op != 0x22 || decide ((m.arg.getD 0 0).toNat ≤ 3))

/-- CMD_WRITE_REJECTED: a write to CMD that is dropped while BUSY, or that names no command of its window. A
command of the window is no such write. -/
def execCmdWriteRejected (win : Window) (cmd : Nat) (s : State) : Host.Outcome State Fault Refusal :=
  match s.window win with
  | none => nothing s
  | some m =>
    let known := m.names win cmd
    if m.busy then happens (s.modWindow win (fun m => { m with result := 3 }))
    else if known then nothing s
    else happens (s.result win 2)

end Sys2Proof.Machine
end

