-- ==== Sys2Proof/Machine/Platform.lean ====
section
/-! DEFINITION. The device description block (R22), boot and measurement (R407 to R409), the identity and attestation (R410,
R411), tenant keys (R412), and thermal trips (R415). -/

namespace Sys2Proof.Machine

/-! ## The device description block (R22) -/

/-- Whether function `fn` is shown what belongs to partition `own`: the physical function all of it, a virtual
function its partition's. -/
def shownTo (fn : Nat) (own : Option Nat) : Bool := fn == 0 || own == some (fn - 1)

/-- A map of `n` bits. -/
def bitMap (n : Nat) (f : Nat → Bool) : Nat := ((List.range n).map (fun i => if f i then 2 ^ i else 0)).foldl (· + ·) 0

/-- The partition of a channel. -/
def State.partOfChannel (s : State) (ch : Nat) : Option Nat := s.partitions.findIdx? (fun p => p.owns (ch / 4))

/-- The header of the block in the copy of function `fn` (Table 1.5). -/
def State.ddbHeader (s : State) (fn : Nat) : BitVec 512 :=
  let cl (n : Nat) : Bool := s.clusterPresent n && shownTo fn (s.partOfCluster n)
  let ch (n : Nat) : Bool := !s.absentChannels.has n && shownTo fn (s.partOfChannel n)
  let port (n : Nat) : Bool := !s.absentPorts.has n && shownTo fn ((s.ports[n]?).bind (·.owner))
  let eth (n : Nat) : Bool := !s.absentEth.has n && shownTo fn ((s.ethPorts[n]?).bind (·.owner))
  let cores := ((List.range 128).filter cl).map (fun n =>
    ((List.range 128).filter (fun c => !s.absentCores.has (n * 128 + c))).length)
  let chans := ((List.range 64).filter ch).length
  let t2 := if fn = 0 then tier2GiB else ((s.tier2Owner.filter (fun o => o.1 == fn - 1)).map (·.2.2)).foldl (· + ·) 0
  .ofNat 512 (0x4444584A + Config.revision.toNat * 2 ^ 32 + 2 ^ 48 + cores.foldl (· + ·) 0 % 2 ^ 16 * 2 ^ 128 +
    4 * chans % 2 ^ 16 * 2 ^ 144 + t2 % 2 ^ 16 * 2 ^ 160 + bitMap 12 eth * 2 ^ 176 + bitMap 128 port * 2 ^ 192 +
    bitMap 64 ch * 2 ^ 320 + bitMap 128 cl * 2 ^ 384)

/-- Bit `i` of the core-present map in the copy of function `fn`. -/
def State.ddbCore (s : State) (fn i : Nat) : Bool := s.corePresent i && shownTo fn (s.partOf i)

/-- The block in the copy of function `fn`: the header, and from 0x40 on the map of its cores (Table 1.5). -/
def State.ddb (s : State) (fn : Nat) : List Byte :=
  natLE 64 (s.ddbHeader fn).toNat ++
    (List.range 2048).map (fun j => .ofNat 8 (bitMap 8 (fun i => s.ddbCore fn (8 * j + i))))

/-! ## Reset, measurement and boot (R407 to R409) -/

/-- The device after a reset. Fuses, the certificate, the module's trip record, an image that recovery accepted and absent
units stay; names and free values go on, and so does what the outside has received and has in store (log entry 1). -/
def State.afterReset (s : State) : State :=
  { State.reset with
    svn := s.svn, seed := s.seed, certificate := s.certificate, trips := s.trips, recovered := s.recovered
    kemCount := s.kemCount
    absentCores := s.absentCores, absentChannels := s.absentChannels, absentClusters := s.absentClusters
    absentPorts := s.absentPorts, oneLane := s.oneLane, absentEth := s.absentEth
    hostOut := s.hostOut, free := s.free, uid := s.uid, agenda := s.agenda }

/-- DEVICE_RESET. -/
def execDeviceReset (s : State) : Host.Outcome State Fault Refusal := happens s.afterReset

/-- The identity key pair that a fused seed gives (R410): HKDF-SHA-256 with a salt of 32 zero bytes and the info string
"JXID" gives the three values of SLH-DSA-SHA2-192s key generation. Strings of bytes have byte 0 lowest (R3). -/
def identityOf (seed : BitVec 384) : Identity :=
  let out := hkdf (List.replicate 32 0) (natLE 48 seed.toNat) [0x4A, 0x58, 0x49, 0x44] 72
  let part (k : Nat) : BitVec 192 := .ofNat 192 (leNat ((out.drop (24 * k)).take 24))
  { skSeed := part 0, skPrf := part 1, pkSeed := part 2, pkRoot := Config.slhRoot (part 0) (part 2) }

/-- The identity public key: PK.seed and PK.root (FIPS 205). -/
def Identity.publicKey (k : Identity) : List Byte := natLE 24 k.pkSeed.toNat ++ natLE 24 k.pkRoot.toNat

/-- The signature of a report body under the identity key. -/
def Identity.sign (k : Identity) (body : List Word) : BitVec 129792 := Config.slhSign k.skSeed k.skPrf k.pkSeed k.pkRoot body

/-- What stage 0 does at every boot before it verifies: it makes the identity key pair (R410), and the boot reads the record
of thermal trips (R415). -/
def State.stageZero (s : State) : State := { s with identity := some (identityOf s.seed), tripsRead := s.trips }

/-- Whether the device runs its stages: neither held in RECOVERY nor without power. -/
def State.booting (s : State) : Bool :=
  match s.boot with
  | .stage _ => true
  | .recovery | .tripped => false

/-- MEASUREMENT_EXTEND. -/
def execMeasurementExtend (mr : BitVec 3) (digest : BitVec 256) (s : State) : Host.Outcome State Fault Refusal :=
  if !s.booting then nothing s else happens (s.extend mr.toNat digest)

/-- Whether a stage accepts an image (R408). -/
def State.accepts (s : State) (im : Image) : Bool :=
  Config.signatureOk im.digest im.signature && decide (s.svn.toNat ≤ im.version)

/-- What an image that has been accepted may do to the fused minimum: raise it, to its own version (R409). Whether it
does is a free value. -/
def State.raise (s : State) (im : Image) : State :=
  let (w, s) := s.takeFree
  if w.getLsbD 0 && decide (s.svn.toNat < im.version ∧ im.version < 2 ^ 64) then { s with svn := .ofNat 64 im.version } else s

/-- Whether an image is one that the running stage takes: the next stage's, and from then on Tsustitur's device-side image,
of stage 4, when it is loaded (Table 21.1); another image of stage 1 or 2 waits for the next reset (R409). An image that
recovery accepted stands for its stage. Log entry 63. -/
def State.takesImage (s : State) (n : Nat) (im : Image) : Bool :=
  (if n = 2 then im.stage == 4 else im.stage == n + 1) &&
    (match s.recovered with
      | none => true
      | some r => r.stage != im.stage || decide (r = im))

/-- BOOT_STAGE: the running stage verifies the image, measures it, and it runs; a refused one leaves the device in
RECOVERY. The first is stage 0's, which begins with what that stage does at every boot. -/
def execBootStage (image : Image) (s : State) : Host.Outcome State Fault Refusal :=
  match s.boot with
  | .recovery | .tripped => nothing s
  | .stage n =>
    if 2 < n || !s.takesImage n image then nothing s
    else
      let s := if n = 0 then s.stageZero else s
      if !s.accepts image then happens { s with boot := .recovery }
      else
        let s := (if n = 0 then s.extend 0 Config.romDigest else s).extend image.stage image.digest
        happens (State.raise { s with boot := .stage (max n (min image.stage 2)) } image)

/-- RECOVERY_IMAGE: the recovery window accepts an image, which takes effect at the next reset (R408, R409). -/
def execRecoveryImage (image : Image) (s : State) : Host.Outcome State Fault Refusal :=
  if s.boot = .recovery then happens { s with recovered := some image } else nothing s

/-! ## Attestation (R411) -/

/-- A 256-bit value as four dwords. -/
def dwords256 (x : BitVec 256) : List Word := (List.range 4).map (fun j => x.extractLsb' (64 * j) 64)

/-- The report body under an identity (Table 21.2). -/
def State.report (s : State) (id : Identity) (part : Nat) (nonce binding : BitVec 256) : List Word :=
  let p := s.part part
  [.ofNat 64 (0x5241584A + Config.revision.toNat * 2 ^ 32), s.ts] ++ dwords256 nonce ++ dwords256 (sha256 id.publicKey) ++
    s.mr.flatMap dwords256 ++
    [.ofNat 64 (part % 16 * 2 ^ 32 + ((s.activeCtx part).map (·.id)).getD 0 % 2 ^ 16 * 2 ^ 16 + bitMap 16 p.owns), s.svn] ++
    dwords256 binding

/-- Whether a function may make a request: the physical one for any partition without a binding, a virtual one for its
own. -/
def mayAttest (fn part : Nat) (bind : Bool) : Bool := decide (part < 16) && ((fn == 0 && !bind) || fn == part + 1)

/-- ATTESTATION_REQUEST: with a binding a fresh key pair is made, whose decapsulation key is held for the
partition. Before stage 0 has made the identity key there is nothing to sign with. -/
def execAttestationRequest (fn part : Nat) (nonce : BitVec 256) (bind : Bool) (s : State) :
    Host.Outcome State Fault Refusal :=
  if !s.booting || !mayAttest fn part bind then nothing s
  else match s.identity with
    | none => nothing s
    | some id =>
      if !bind then
        let body := s.report id part nonce 0
        happens { s with hostOut := s.hostOut ++ [.report fn body (id.sign body) none] }
      else
        let key := Config.kemKey s.kemCount
        let body := s.report id part nonce (sha256 (natLE 1568 key))
        let n := s.kemCount
        let s := s.modPart part (fun p => { p with kem := some n })
        happens { s with kemCount := n + 1, hostOut := s.hostOut ++ [.report fn body (id.sign body) (some key)] }

/-! ## Tenant keys (R375, R412) -/

/-- The GiB of second-tier memory that stand under a partition's memory key. -/
def State.tier2Of (s : State) (part : Nat) : List Nat := (s.tier2Held.filter (fun h => h.2 == part)).map (·.1)

/-- Whether a granule stands under a partition's memory key. -/
def State.inMemoryOf (s : State) (part key : Nat) : Bool := keyPart key == part || (s.tier2Of part).any (inTier2 · key)

/-- The granules that stand under a partition's memory key: of its main memory, and of second-tier memory. -/
def State.granulesOf (s : State) (part : Nat) : List Nat :=
  (List.range (s.mainBytes part / 16)).map (physKey part 0 / 16 + ·) ++ (s.tier2Of part).flatMap tier2Granules

/-- What a partition's memory held is unreadable under a new key (R412). -/
def State.unreadable (s : State) (part : Nat) : State := s.garble (s.granulesOf part) (s.inMemoryOf part)

/-- A key enters its slot. -/
def State.putKey (s : State) (part : Nat) (slot : KeySlot) (key : BitVec 256) : State :=
  let had := ((s.part part).keys.find? (fun k => decide (k.1 = slot))).map (·.2)
  let s := s.modPart part (fun p => { p with keys := p.keys.filter (fun k => !decide (k.1 = slot)) ++ [(slot, key)] })
  if slot = .memory ∧ had ≠ some key then s.unreadable part else s

/-- One wrapped key of a delivery: a wrap that fails leaves the slot unchanged and returns an error. -/
def State.deliverKey (s : State) (part : Nat) (kem : Option Nat) (slot : KeySlot) (wrapped : List Byte) : State :=
  match kem.bind (fun n => Config.unwrap n wrapped) with
  | none => { s with hostOut := s.hostOut ++ [.keyError part] }
  | some key => s.putKey part slot key

/-- KEY_DELIVERY: a tenant's wrapped keys, with their slots. With the first that opens, the wrapped keys have arrived, and the
decapsulation key is held no longer (log entry 65). -/
def execKeyDelivery (part : Nat) (key : KeySlot × List (BitVec 8)) (more : List (KeySlot × List (BitVec 8))) (s : State) :
    Host.Outcome State Fault Refusal :=
  if 16 ≤ part || !s.booting then nothing s
  else
    let keys := key :: more
    let kem := (s.part part).kem
    let open' := keys.any (fun k => (kem.bind (fun n => Config.unwrap n k.2)).isSome)
    let t := keys.foldl (fun s k => s.deliverKey part kem k.1 k.2) s
    happens (if open' then t.modPart part (fun p => { p with kem := none }) else t)

/-! ## Heat (R415) -/

/-- THERMAL_TRIP: power is cut, every context is lost, and the die's event is recorded. -/
def execThermalTrip (die : BitVec 2) (s : State) : Host.Outcome State Fault Refusal :=
  if s.boot = .tripped then nothing s
  else happens { s.afterReset with boot := .tripped, trips := s.trips ++ [die] }

end Sys2Proof.Machine
end

