-- ==== Sys2Proof/Machine/Order.lean ====
section
/-! DEFINITION. The ATOM, ACAS and ORDER majors (R163 to R174), and the CNT and BAR majors (R264 to
R270, R312, R317, R318). -/

namespace Sys2Proof.Machine

/-! ## ATOM and ACAS (R163, R166, R170 to R172) -/

/-- The members that PCIe AtomicOp requests carry to the host (Table 7.3). -/
def hostAtomic : AtomOp → Bool
  | .add | .xchg | .ld | .st | .cas => true
  | .and | .or | .xor | .min | .max | .minu | .maxu | .fadd | .fmin | .fmax => false

/-- The target of an atomic, and whether its page is not WB, with the checks of Table 7.3: the press
window never, anything but windows and main memory at system scope, the host for its members only. -/
def atomTarget (op : AtomOp) (pl : Place) (va : Nat) (scope : Nat) : M (Target × Bool) := do
  let s ← get
  match pl with
  | .here la =>
    faultIf (decide (la < 0x400)) cPROT va
    pure (.loc s.core.id la, false)
  | .core id la => pure (.loc id la, false)
  | .phys x =>
    faultIf (decide (0x100000000000 ≤ x.pa) && scope != 3) cPROT va
    faultIf (isHostPA x.pa && !hostAtomic op) cPROT va
    pure (.phys (s.keyHere x.pa), leafPol x.leaf != 0)

/-- What an atomic needs of a page (Table 17.4). -/
def atomAccess (op : AtomOp) : Access := if op = .ld then .read else .both

/-- An atomic at the core's own local atomic unit: executed at issue (R163, R441). -/
def atomHere (op : AtomOp) (d : RSpec) (l : BitVec 4) (la n : Nat) (v w : Word) (taint : Bool) : M Flow := do
  for i in (← getC).regsAt la n do
    needs (Dest.isReg (.w i))
    if op ≠ .ld then cancels (Dest.isReg (.w i))
  inOrder
  let s ← get
  let (old, pois) ← stateOf (fun t => t.atomic s.myPart (.loc s.core.id la) op n v.toNat w.toNat false)
  if op = .st then pure (.next none)
  else carry d l { bits := .ofNat 64 old, taint := taint, poison := pois }

/-- An atomic that executes elsewhere: the request leaves, and the old value comes back to d. AST has no
result; it waits in a slot only for the end of its acquire, which drops the L1 (R157, R171). -/
def atomAway (op : AtomOp) (d : RSpec) (l : BitVec 4) (acq : Bool) (kind : ReqKind) : M Flow := do
  let dest := if op = .st then RSpec.z else d
  let sl ← newSlot (.reg dest) l.toNat none
  modify (fun s =>
    let ask : Req := { uid := sl.uid, core := s.core.id, act := s.core.cur.act.uid, kind := kind,
                       served := false, slice := none, after := s.core.cur.act.fence }
    { s with reqs := s.reqs ++ [ask] })
  if acq then modify State.fenced
  if op = .st && !acq then pure (.next none)
  else pure (.next (some { sl with acq := acq }))

/-- Every member of ATOM, and ACAS (R171, R172). Orders 1 and 3 acquire, 2 and 3 release. -/
def atom (op : AtomOp) (d a : RSpec) (size : BitVec 1) (scope ord : BitVec 2) (l : BitVec 4) : M Flow := do
  takeSlot l.toNat
  let n := if size = 0 then 4 else 8
  let av ← readClean a
  let dv ← readR d
  if op ≠ .ld && dv.poison then poisonFault d.bits
  let w ← (if op = .cas then readClean (nextReg d 1) else pure (.clean 0) : M Val)
  let va := addr48 av.bits
  accessReady av.taint
  faultIf (va % n != 0) cALIGN va
  let pl ← locate va n (atomAccess op) a.bits
  let (tgt, thru) ← atomTarget op pl va scope.toNat
  watched va n true (op != .ld)
  irrevocable
  if ord.getLsbD 1 then release (scope == 3)
  let taint := av.taint || dv.taint
  let acq := ord.getLsbD 0
  match pl with
  | .here la =>
    let fl ← atomHere op d l la n dv.bits w.bits taint
    if acq then acquire
    pure fl
  | .core _ _ => atomAway op d l acq (.atomic tgt op n dv.bits w.bits taint thru)
  | .phys x =>
    if leafZero x.leaf then
      if acq then acquire
      carry d l { bits := 0, taint := taint, poison := false }
    else atomAway op d l acq (.atomic tgt op n dv.bits w.bits taint thru)

/-- AADD (Table 7.5). -/
def execAadd (d a : RSpec) (size : BitVec 1) (scope ord : BitVec 2) (l : BitVec 4) (s : State) :
    Host.Outcome State Fault Refusal :=
  run (formAadd d a size scope ord l) (atom .add d a size scope ord l) s

/-- AAND (Table 7.5). -/
def execAand (d a : RSpec) (size : BitVec 1) (scope ord : BitVec 2) (l : BitVec 4) (s : State) :
    Host.Outcome State Fault Refusal :=
  run (formAand d a size scope ord l) (atom .and d a size scope ord l) s

/-- AOR (Table 7.5). -/
def execAor (d a : RSpec) (size : BitVec 1) (scope ord : BitVec 2) (l : BitVec 4) (s : State) :
    Host.Outcome State Fault Refusal :=
  run (formAor d a size scope ord l) (atom .or d a size scope ord l) s

/-- AXOR (Table 7.5). -/
def execAxor (d a : RSpec) (size : BitVec 1) (scope ord : BitVec 2) (l : BitVec 4) (s : State) :
    Host.Outcome State Fault Refusal :=
  run (formAxor d a size scope ord l) (atom .xor d a size scope ord l) s

/-- AMIN (Table 7.5). -/
def execAmin (d a : RSpec) (size : BitVec 1) (scope ord : BitVec 2) (l : BitVec 4) (s : State) :
    Host.Outcome State Fault Refusal :=
  run (formAmin d a size scope ord l) (atom .min d a size scope ord l) s

/-- AMAX (Table 7.5). -/
def execAmax (d a : RSpec) (size : BitVec 1) (scope ord : BitVec 2) (l : BitVec 4) (s : State) :
    Host.Outcome State Fault Refusal :=
  run (formAmax d a size scope ord l) (atom .max d a size scope ord l) s

/-- AMINU (Table 7.5). -/
def execAminu (d a : RSpec) (size : BitVec 1) (scope ord : BitVec 2) (l : BitVec 4) (s : State) :
    Host.Outcome State Fault Refusal :=
  run (formAminu d a size scope ord l) (atom .minu d a size scope ord l) s

/-- AMAXU (Table 7.5). -/
def execAmaxu (d a : RSpec) (size : BitVec 1) (scope ord : BitVec 2) (l : BitVec 4) (s : State) :
    Host.Outcome State Fault Refusal :=
  run (formAmaxu d a size scope ord l) (atom .maxu d a size scope ord l) s

/-- AXCHG (Table 7.5). -/
def execAxchg (d a : RSpec) (size : BitVec 1) (scope ord : BitVec 2) (l : BitVec 4) (s : State) :
    Host.Outcome State Fault Refusal :=
  run (formAxchg d a size scope ord l) (atom .xchg d a size scope ord l) s

/-- AFADD (Table 7.5). -/
def execAfadd (d a : RSpec) (size : BitVec 1) (scope ord : BitVec 2) (l : BitVec 4) (s : State) :
    Host.Outcome State Fault Refusal :=
  run (formAfadd d a size scope ord l) (atom .fadd d a size scope ord l) s

/-- AFMIN (Table 7.5). -/
def execAfmin (d a : RSpec) (size : BitVec 1) (scope ord : BitVec 2) (l : BitVec 4) (s : State) :
    Host.Outcome State Fault Refusal :=
  run (formAfmin d a size scope ord l) (atom .fmin d a size scope ord l) s

/-- AFMAX (Table 7.5). -/
def execAfmax (d a : RSpec) (size : BitVec 1) (scope ord : BitVec 2) (l : BitVec 4) (s : State) :
    Host.Outcome State Fault Refusal :=
  run (formAfmax d a size scope ord l) (atom .fmax d a size scope ord l) s

/-- ALD (Table 7.5). -/
def execAld (d a : RSpec) (size : BitVec 1) (scope ord : BitVec 2) (l : BitVec 4) (s : State) :
    Host.Outcome State Fault Refusal :=
  run (formAld d a size scope ord l) (atom .ld d a size scope ord l) s

/-- ACAS (Table 7.6). -/
def execAcas (d a : RSpec) (size : BitVec 1) (scope ord : BitVec 2) (l : BitVec 4) (s : State) :
    Host.Outcome State Fault Refusal :=
  run (formAcas d a size scope ord l) (atom .cas d a size scope ord l) s

/-- AST (Table 7.5). -/
def execAst (d a : RSpec) (size : BitVec 1) (scope ord : BitVec 2) (s : State) : Host.Outcome State Fault Refusal :=
  run (formAst d a size scope ord) (atom .st d a size scope ord 0) s

/-! ## Barriers as a core meets them (R308 to R312) -/

/-- CNT, with the handle and reason in the trap value (R264). -/
def cntFault {α : Type} (h r : Nat) : M α := fault cCNT (h + r * 2 ^ 12)

/-- The name of barrier handle `h` for a core of a kernel (R308). -/
def KernInfo.bar (k : KernInfo) (h : Nat) : BarId :=
  { kid := k.kid.toNat, cohort := k.cohort, handle := h, group := if h = 0 then k.group else 0 }

/-- The barrier that a handle names, or CNT: one that does not exist has reason 4, a failed one 3
(R264, R315, R318). A core that holds no group has none (log entry 24). -/
def barrierAt (h : Nat) : M Barrier := do
  let s ← get
  match s.core.kern with
  | none => cntFault h 4
  | some k => match s.barrier? k.ctx (k.bar h) with
    | none => cntFault h 4
    | some b => if b.failed then cntFault h 3 else pure b

/-- Sends the arrival of the core in focus to a barrier (R311, R312). The phase barrier of a domain of
one core completes at once (R174). -/
def arrive (b : Barrier) (uid : Nat) (ret phase : Bool) : M Unit := do
  let once := decide (b.id.handle ≤ 1)
  let s ← get
  waitUntil !(once && (b.arrived.has s.core.id || b.owed.contains s.core.id))
  let c := s.core
  let t := newTok uid b.ctx (.barrier b.id) false c.id b.logw (some c.id) c.cur.act.uid ret false
  if phase && b.n = 1 then
    modify (fun s =>
      let s := (s.tokResult t (b.gen.setWidth 64) false).completeBarrier b
      match s.barrier? b.ctx b.id with
      | none => s
      | some next => s.writeCopy next c.id)
  else
    let mark (b : Barrier) : Barrier := { b with arrived := if once then b.arrived.ins c.id else b.arrived }
    modify (fun s => { s with tokens := s.tokens ++ [t] }.modBarrier b.ctx b.id mark)

/-- Whether the core still has a sample held for its verdict (R394). -/
def State.samplesHeld (s : State) : Bool :=
  (s.core.kern.map (·.hold)).getD false && s.checks.any (fun k => k.core == s.core.id)

/-- The phase barrier of the core's domain. -/
def phaseBarrier : M Barrier := do
  match (← getC).kern with
  | none => cntFault 0 4
  | some k => barrierAt (if k.groups > 1 then 1 else 0)

/-- Whether a generation has completed by a copy's value (R318). -/
def genPast (copy g : BitVec 32) : Bool := decide ((copy - g - 1).toNat < 2 ^ 31)

/-- The arrival of PHASE and PHASEN: answers the generation arrived at (R174). A PHASE past its arrival
does not arrive again. -/
def phaseArrive : M (BitVec 32) := do
  let b ← phaseBarrier
  match (← getC).cur.phaseWait with
  | some g => pure g
  | none =>
    irrevocable
    let g := (← getC).phaseNo
    release false
    waitUntil ((← getC).storeBuf.all (fun x => match x.op.cls with
      | .phased _ p => p != g
      | .direct => true))
    waitUntil !(← get).samplesHeld
    arrive b 0 false true
    modC (fun c => { c with phaseNo := g + 1 })
    pure g

/-- PHASE (R174). -/
def phaseFull (d : RSpec) : M Flow := do
  let g ← phaseArrive
  modT (fun t => { t with phaseWait := some g })
  let b ← phaseBarrier
  if !genPast (b.copy (← getC).id) g then throw .waitHere
  acquire
  modT (fun t => { t with phaseWait := none })
  writeR d (.clean (.ofNat 64 (g.toNat + (if b.forced g then 2 ^ 63 else 0))))
  pure (.next none)

def execPhase (d : RSpec) (s : State) : Host.Outcome State Fault Refusal := run (formPhase d) (phaseFull d) s

/-- PHASEN (R174). -/
def phaseNow (d : RSpec) : M Flow := do
  let g ← phaseArrive
  writeR d (.clean (g.setWidth 64))
  pure (.next none)

def execPhasen (d : RSpec) (s : State) : Host.Outcome State Fault Refusal := run (formPhasen d) (phaseNow d) s

/-! ## The ORDER major (R173) -/

/-- REL (R156). -/
def execRel (scope : BitVec 6) (s : State) : Host.Outcome State Fault Refusal :=
  run (formRel scope) (andNext (release (scope == 3))) s

/-- ACQ (R157). -/
def execAcq (s : State) : Host.Outcome State Fault Refusal := run formAcq (andNext acquire) s

/-- FENCE: waits for the values of earlier loads, then releases at system scope and acquires. -/
def fence : M Flow := do
  waitUntil ((← getC).cur.slots.all (fun sl => sl.here || !sl.load))
  release true
  andNext acquire

def execFence (s : State) : Host.Outcome State Fault Refusal := run formFence fence s

/-- Clears the taint of a register (R159). It waits for no pending write of the register: what a load that has yet to arrive
brings is put with its own taint (log entry 91). -/
def clearTaint (d : RSpec) : M Flow := do
  match d with
  | .w i => modT (fun t => { t with taint := setTaint t.taint i false })
  | .out _ | .inp _ | .z | .inq => pure ()
  pure (.next none)

/-- CLRT. -/
def execClrt (d : RSpec) (s : State) : Host.Outcome State Fault Refusal := run (formClrt d) (clearTaint d) s

/-! ## The CNT major (R264, R269, R270) -/

/-- A member of CNT. -/
inductive CntOp where
  | take | give | sum | reset
  deriving DecidableEq, Repr

/-- The counter that a handle names, with the faults of R264 and R265. A CGIVE on a FAILED counter with NOGIVE answers to both
of R264's reasons 2 and 3: it takes 2 (log entry 90). -/
def counterAt (op : CntOp) (h : Nat) : M Counter := do
  let s ← get
  match s.counter? s.myCtx h with
  | none => cntFault h 1
  | some c =>
    if op = .give && c.nogive then cntFault h 2
    if c.failed then
      if op ≠ .reset then cntFault h 3
      else if !s.cellsFor s.myPart s.myCtx [c.logw] then cntFault h 3
    pure c

/-- CTAKE, CGIVE, CSUM and CRESET: the request leaves and its result comes back to d (R270). -/
def cnt (op : CntOp) (d a : RSpec) (l : BitVec 4) : M Flow := do
  takeSlot l.toNat
  let v ← readClean a
  let h := bitsAt v.bits 9 0
  let c ← counterAt op h
  irrevocable
  let sl ← newSlot (.reg d) l.toNat none
  modify (fun s =>
    let me := s.core.id
    let act := s.core.cur.act.uid
    let tok (anti : Bool) : Tok := newTok sl.uid c.ctx (.counter h) anti me c.logw (some me) act true v.taint
    let ask (reset : Bool) : CellReq :=
      { uid := sl.uid, ctx := c.ctx, handle := h, core := me, act := act, taint := v.taint, reset := reset }
    match op with
    | .take => { s with tokens := s.tokens ++ [tok false] }
    | .give => { s with tokens := s.tokens ++ [tok true] }
    | .sum => { s with cellReqs := s.cellReqs ++ [ask false] }
    | .reset => { s with cellReqs := s.cellReqs ++ [ask true] })
  pure (.next (some sl))

/-- CTAKE (Table 11.7). -/
def execCtake (d a : RSpec) (l : BitVec 4) (s : State) : Host.Outcome State Fault Refusal :=
  run (formCtake d a l) (cnt .take d a l) s

/-- CGIVE (Table 11.7). -/
def execCgive (d a : RSpec) (l : BitVec 4) (s : State) : Host.Outcome State Fault Refusal :=
  run (formCgive d a l) (cnt .give d a l) s

/-- CSUM (Table 11.7). -/
def execCsum (d a : RSpec) (l : BitVec 4) (s : State) : Host.Outcome State Fault Refusal :=
  run (formCsum d a l) (cnt .sum d a l) s

/-- CRESET (Table 11.7). -/
def execCreset (d a : RSpec) (l : BitVec 4) (s : State) : Host.Outcome State Fault Refusal :=
  run (formCreset d a l) (cnt .reset d a l) s

/-! ## The BAR major (R317, R318) -/

/-- The barrier that a BAR member's handle register names; every member is an irrevocable act. -/
def barHandle (a : RSpec) : M Barrier := do
  let v ← readClean a
  let b ← barrierAt (bitsAt v.bits 3 0)
  irrevocable
  pure b

/-- BARV: on the phase barrier as PHASEN; else a token is sent, and the activation waits until it is
counted, with its result in d (R98, R318). -/
def barv (d a : RSpec) : M Flow := do
  let b ← barHandle a
  if (← getC).dom = some { ctx := b.ctx, bar := b.id } then phaseNow d
  else
    let sl ← newSlot (.reg d) 0 none
    arrive b sl.uid true false
    pure (.next (some { sl with block := true }))

def execBarv (d a : RSpec) (s : State) : Host.Outcome State Fault Refusal := run (formBarv d a) (barv d a) s

/-- BARW: waits until the generation exceeds b's. The poison of b comes after the commit (R318; log entry 86). -/
def barw (a b : RSpec) : M Flow := do
  let bar ← barHandle a
  let g ← standing (readClean b)
  waitUntil (genPast (bar.copy (← getC).id) (g.bits.setWidth 32))
  pure (.next none)

def execBarw (a b : RSpec) (s : State) : Host.Outcome State Fault Refusal := run (formBarw a b) (barw a b) s

/-- BARG (R310). -/
def barg (d a : RSpec) : M Flow := do
  let b ← barHandle a
  andNext (do writeR d (.clean ((b.copy (← getC).id).setWidth 64)))

def execBarg (d a : RSpec) (s : State) : Host.Outcome State Fault Refusal := run (formBarg d a) (barg d a) s

/-- BARP (R310). -/
def barp (d a : RSpec) : M Flow := do
  let b ← barHandle a
  andNext (do writeR d (.clean (.ofNat 64 ((b.copy (← getC).id).toNat % 2))))

def execBarp (d a : RSpec) (s : State) : Host.Outcome State Fault Refusal := run (formBarp d a) (barp d a) s

end Sys2Proof.Machine
end

