-- ==== Sys2Proof/Machine/System.lean ====
section
/-! DEFINITION. The SYS major (R335, R336, R346, R348 to R350), a fault's delivery and errors of core control
state as events (R338, R384), the walker (R353), and the count of a fault queue (R333). -/

namespace Sys2Proof.Machine

/-! ## Special registers (R335, Table 16.3) -/

/-- The kernel that the running activation's registers describe. -/
def Core.gid (c : Core) : Nat := ((c.workKern).map (fun k => k.cohort * 2 ^ 32 + k.group % 2 ^ 16)).getD 0

/-- GRANK (Table 13.2). -/
def Core.grank (c : Core) : Nat :=
  ((c.workKern).map (fun k => k.ry % 8 * 2 ^ 12 + k.rx % 16 * 2 ^ 8 + (k.ry * k.gx + k.rx) % 128)).getD 0

/-- PACK: whether a pre-emption is requested, the present cores of the cluster, and those that have
acknowledged. -/
def State.pack (s : State) : Nat :=
  let cl := clusterOf s.core.id
  let here := ((List.range 128).map (cl * 128 + ·)).filter s.corePresent
  let asked := s.contexts.any (fun c => c.part == s.myPart && c.st == .preempting)
  (if asked then 2 ^ 32 else 0) + here.length * 2 ^ 16 + (here.filter (fun i => (s.coreOf i).acked)).length

/-- The contents of a special register. -/
def State.special (s : State) (num : Nat) : Word :=
  let c := s.core
  let a := c.cur.act
  let x := s.ctx? s.myCtx
  match num with
  | 0x000 => .ofNat 64 c.workId
  | 0x001 => .ofNat 64 c.gid
  | 0x002 => .ofNat 64 c.grank
  | 0x003 => ((c.workKern).map (·.kid.setWidth 64)).getD 0
  | 0x004 => .ofNat 64 (s.myPart * 2 ^ 16 + s.myCtx % 2 ^ 16)
  | 0x005 => s.ts
  | 0x006 => a.id
  | 0x007 => a.tag.setWidth 64
  | 0x008 => a.entry.setWidth 64
  | 0x009 => a.replyTo
  | 0x00A => .ofNat 64 (c.phaseNo.toNat + (if c.forced then 2 ^ 63 else 0))
  | 0x100 => c.cur.rmode.setWidth 64
  | 0x101 => c.cur.lmask.setWidth 64
  | 0x102 => c.press.status
  | 0x200 => c.wph.setWidth 64
  | 0x201 => c.wpl.setWidth 64
  | 0x202 => c.epc.setWidth 64
  | 0x203 => c.cause.setWidth 64
  | 0x204 => c.tval
  | 0x205 => c.tvec.setWidth 64
  | 0x206 => .ofNat 64 ((if c.inHandler then 2 else 0) + (if c.priv then 1 else 0))
  | 0x207 => .ofNat 64 s.pack
  | 0x208 => .ofNat 64 ((x.map (·.checkrate.toNat % 2 ^ 17)).getD 0)
  | 0x209 => .ofNat 64 c.suspicion
  | 0x20A => .ofNat 64 ((x.map (·.cntpol.toNat % 2 ^ 32 &&& 0xFFFF003F)).getD 0)
  | 0x20B => (s.part s.myPart).rampUp &&& 0xFFFF
  | 0x20C => (s.part s.myPart).rampDn &&& 0xFFFF
  | _ => 0

/-- Whether a checkable activation may read a special register (R108). -/
def checkableReg (num : Nat) : Bool :=
  decide (num ≤ 0x00A ∧ num ≠ 0x005) || num == 0x100 || num == 0x101

/-- SRD. -/
def srd (d : RSpec) (num : BitVec 12) : M Flow := do
  if !checkableReg num.toNat then uncheck
  let s ← get
  andNext (writeR d (.clean (s.special num.toNat)))

def execSrd (d : RSpec) (num : BitVec 12) (s : State) : Host.Outcome State Fault Refusal :=
  run (formSrd d num) (srd d num) s

/-- An address with bit 0 cleared. -/
def evenAddr (v : Word) : BitVec 48 := v.setWidth 48 &&& 0xFFFFFFFFFFFE

/-- SWR: what each writable register keeps (R336); the others take PROT. -/
def swr (d : RSpec) (num : BitVec 12) : M Flow := do
  let x ← readClean d
  let v := x.bits
  match num.toNat with
  | 0x100 => modT (fun t => { t with rmode := v.setWidth 2 })
  | 0x101 => modT (fun t => { t with lmask := v.setWidth 3 })
  | 0x102 => writePstatus v
  | 0x202 => modC (fun c => { c with epc := evenAddr v })
  | 0x203 => modC (fun c => { c with cause := v.setWidth 8 })
  | 0x204 => modC (fun c => { c with tval := v })
  | 0x205 => modC (fun c => { c with tvec := evenAddr v })
  | n => fault cPROT n
  pure (.next none)

def execSwr (d : RSpec) (num : BitVec 12) (s : State) : Host.Outcome State Fault Refusal :=
  run (formSwr d num) (swr d num) s

/-! ## Counters (R346, R398) -/

/-- The shared counters 6, 7 and 8 of a partition. -/
def Partition.shared (p : Partition) : Nat × Nat × Nat := (p.bytesOut, p.bytesIn, p.tier2)

/-- What the shared counters of a partition held last that is noted, or held at a time: 0 before anything is (R346). -/
def lastCounted (l : List (Nat × Nat × Nat × Nat)) : Nat × Nat × Nat := ((l.getLast?).map (·.2)).getD (0, 0, 0)
def Partition.countedAt (p : Partition) (t : Nat) : Nat × Nat × Nat := lastCounted (p.counted.filter (fun x => decide (x.1 ≤ t)))

/-- What is noted of the counters: no entry that a later one stands for at every time that CNTPOL.DLY reaches back to. -/
def pruneCounted (now : Nat) : List (Nat × Nat × Nat × Nat) → List (Nat × Nat × Nat × Nat)
  | x :: y :: l => if y.1 + 65536000 ≤ now then pruneCounted now (y :: l) else x :: y :: l
  | l => l

/-- The shared counters of a partition are noted with the time, when they have changed (R346). -/
def Partition.note (p : Partition) (now : Nat) : Partition :=
  if lastCounted p.counted = p.shared then p
  else { p with counted := pruneCounted now (p.counted ++ [(now, p.shared)]) }

/-- A shared counter as a context is shown it: its value CNTPOL.DLY microseconds ago, of 1000 counts of TS each, in
steps of 2^CNTPOL.Q (R20, R346). -/
def State.shown (s : State) (c : Context) (f : Nat × Nat × Nat → Nat) : Nat :=
  let p := s.part c.part
  let q := c.cntpol.toNat % 64
  let d := bitsAt c.cntpol 31 16
  let v := if d = 0 then f p.shared else if s.ts.toNat < 1000 * d then 0 else f (p.countedAt (s.ts.toNat - 1000 * d))
  v / 2 ^ q * 2 ^ q

/-- Counter `n` of a context, with the per-core ones `own` (Table 16.7). -/
def State.counterValue (s : State) (c : Context) (n : Nat) (own : Nat → Nat) : Nat :=
  match n with
  | 0 => s.ts.toNat
  | 5 => c.corrected
  | 6 => s.shown c (·.1)
  | 7 => s.shown c (·.2.1)
  | 8 => s.shown c (·.2.2)
  | n => own n

/-- Counters 1 to 4 of a core. -/
def Core.counter (c : Core) (n : Nat) : Nat :=
  match n with
  | 1 => c.nInstr
  | 2 => c.nStart
  | 3 => c.nPress
  | 4 => c.nWait
  | _ => 0

/-- CRD. -/
def crd (d a : RSpec) : M Flow := do
  let v ← readClean a
  let n := bitsAt v.bits 7 0
  faultIf (decide (8 < n)) cPROT n
  uncheck
  let s ← get
  match s.ctx? s.myCtx with
  | none => andNext (writeR d (.clean (if n = 0 then s.ts else 0)))
  | some c =>
    andNext (writeR d (.clean (.ofNat 64 (s.counterValue c n s.core.counter))))

def execCrd (d a : RSpec) (s : State) : Host.Outcome State Fault Refusal := run (formCrd d a) (crd d a) s

/-- DACC (Table 20.1). -/
def dacc (d a : RSpec) : M Flow := do
  let v ← readClean a
  uncheck
  let x := lookupD { sum := 0, count := 0 } (← getC).delays (bitsAt v.bits 5 0)
  andNext (writeR d (.clean (.ofNat 64 (x.sum + x.count * 2 ^ 40))))

def execDacc (d a : RSpec) (s : State) : Host.Outcome State Fault Refusal := run (formDacc d a) (dacc d a) s

/-- TRCM: the control word's reserved bits read as zero (R7). -/
def trcm (a : RSpec) : M Flow := do
  let v ← readClean a
  modC (fun c => { c with trace := { c.trace with ctl := v.bits.setWidth 16 &&& 0xFF07 } })
  pure (.next none)

def execTrcm (a : RSpec) (s : State) : Host.Outcome State Fault Refusal := run (formTrcm a) (trcm a) s

/-! ## TLBINV (R349, R362) -/

/-- Whether a TLB entry maps the page of a physical key of its partition. -/
def TlbEntry.maps (e : TlbEntry) (key : Nat) : Bool :=
  decide (leafFrame e.leaf ≤ keyPA key ∧ keyPA key < leafFrame e.leaf + 2 ^ e.logSize)

/-- Whether a store that has not left its core goes through one of some TLB entries. -/
def StoreOp.through (o : StoreOp) (dropped : List TlbEntry) : Bool :=
  match o.tgt with
  | .loc _ _ => false
  | .phys key => dropped.any (·.maps key)

/-- The stores that a core's activations and its samples hold (R107, R394). -/
def State.heldStoreOps (s : State) (core : Nat) : List StoreOp :=
  ((s.coreOf core).allActs.flatMap (·.held) ++
    (s.checks.filter (·.core == core)).flatMap (fun k => k.oHeld ++ k.tHeld ++ k.outs.getD [])).filterMap (fun h => match h with
      | .store o => some o
      | .release _ | .msg _ | .reply _ _ _ | .token _ _ => none)

/-- Whether every access of a partition that TLB entries being dropped have translated has reached its home: requests,
stores that have left their core, row writes, and stores through those entries that wait in a write-combining buffer or
are held by another activation than the running one (R362; log entry 71). -/
def State.homeReached (s : State) (p : Nat) (dropped : List TlbEntry) : Bool :=
  s.reqs.all (fun r => r.served || decide (s.partOf r.core ≠ some p)) &&
    s.liveCores.all (fun i => decide (s.partOf i ≠ some p) ||
      ((s.coreOf i).storeBuf.all (fun b => b.sent || (b.wc && !b.op.through dropped)) &&
        (s.heldStoreOps i).all (fun o => o.act == s.core.cur.act.uid || !o.through dropped))) &&
    s.rowWrites.all (fun w => s.partOfCluster w.cluster != some p)

/-- TLBINV. It is no irrevocable act (R348): the stores that the activation itself holds have their translation, and stay
held (log entry 71). -/
def tlbinv (a b : RSpec) : M Flow := do
  let v ← readClean a
  let w ← readClean b
  let s ← get
  let va := addr48 v.bits
  let ctx := s.myCtx
  let hit (e : TlbEntry) : Bool := e.ctx == ctx && (w.bits.getLsbD 0 || e.vbase == va / 2 ^ e.logSize)
  let dropped := s.tlb.filter hit
  if !s.homeReached s.myPart dropped then
    if s.core.storeBuf.any (fun b => b.wc && b.op.through dropped) then throw .drain else stall
  modify (fun s => { s with tlb := s.tlb.filter (fun e => !hit e) })
  pure (.next none)

def execTlbinv (a b : RSpec) (s : State) : Host.Outcome State Fault Refusal := run (formTlbinv a b) (tlbinv a b) s

/-! ## ERRINJ (R350) -/

/-- The unit that an address names, for a unit selector, with the faults of R350. -/
def errUnit (spec va unit : Nat) : M Target := do
  let s ← get
  if unit = 0 then
    faultIf (isGlobal va) cPROT va
    let id := if 0xFFFFFFFE0000 ≤ va then s.core.id else clusterOf s.core.id * 128 + va / 2 ^ 17 % 128
    faultIf (id != s.core.id && (!s.corePresent id || (s.coreOf id).quarantined)) cPROT va
    pure (.loc id (va % 2 ^ 17 / 8 * 8))
  else
    faultIf (!isGlobal va) cPROT va
    let x ← xlat va 1 .write spec
    let key := s.keyHere x.pa
    faultIf (!(isMainKey key && !outside key) && !(unit == 2 && isSecondTier x.pa)) cPROT va
    pure (.phys (key / 16 * 16))

/-- ERRINJ. -/
def errinj (a b : RSpec) : M Flow := do
  let v ← readClean a
  let w ← readClean b
  let unit := bitsAt w.bits 3 2
  let kind := bitsAt w.bits 1 0
  faultIf (unit == 3) cPROT 3
  faultIf (kind == 3) cPROT 3
  let t ← errUnit a.bits (addr48 v.bits) unit
  irrevocable
  modify (fun s => { s with armed := s.armed ++ [{ tgt := t, unit := unit, kind := kind }] })
  pure (.next none)

def execErrinj (a b : RSpec) (s : State) : Host.Outcome State Fault Refusal := run (formErrinj a b) (errinj a b) s

/-! ## Events of a core -/

/-- TRAP_DELIVERY: the running activation takes a fault at its present address (R337, R338). Causes that
CAUSE never holds are delivered to no activation. -/
def execTrapDelivery (cause : BitVec 8) (tval : BitVec 64) (s : State) : Host.Outcome State Fault Refusal :=
  let n := cause.toNat
  if !s.core.active || n = 0 || 0x10 ≤ n then nothing s
  else
    let t : TrapInfo := { cause := n, tval := tval, spec := tval.toNat % 128, major := none, epc := none, buf := false }
    happens (s.takeTrap t s.core.cur.pc 0)

/-- An error in the ripening-copy state of the set of a line: a context error of every domain with a copy there (R382,
R384). -/
def State.setErr (s : State) (line : Nat) : State :=
  let p := keyPart (128 * line)
  let pa := keyPA (128 * line)
  let ids : NatSet := (s.ripening.filter (fun r => decide (s.setOf r.line = s.setOf line))).foldl
    (fun l r => l.ins r.dom.ctx) []
  let r : Rec := { Rec.base cERR 4 4 (s.sliceNumber p pa) p 0 with pa := pa }
  ids.foldl (fun s id => s.ctxError id r) s

/-- An error in the control state of the core in focus (R384). -/
def State.controlErr (s : State) : State :=
  let a := s.core.cur.act
  if a.isCheck then s.endCheck a true
  else if a.canRedeliver then (s.recordCtx s.myCtx (s.actRec cERR 2 a)).rollback a
  else s.ctxError s.myCtx (s.actRec cERR 4 a)

/-- A damaged weight: poisoned, its bits a free value (R216, R378). -/
def Plane.harmWeight (p : Plane) (row col : Nat) (x : Word) : Plane :=
  let b := fmtBits p.fmt.toNat
  { p with
    rows := modifyAt (fun r => putField r (b * col) b x) p.rows row
    pois := modifyAt (fun q => q ||| 1 <<< (col % 128)) p.pois row }

/-- A damaged column scale of a plane. -/
def Plane.harmScale (p : Plane) (col : Nat) (x : Word) : Plane :=
  { p with scales := putField p.scales (8 * (col % 128)) 8 x, scalePois := p.scalePois ||| 1 <<< (col % 128) }

/-- A change of the active or the shadow plane. -/
def Press.modPlane (p : Press) (shadow : Bool) (f : Plane → Plane) : Press :=
  if shadow then { p with shadow := f p.shadow } else { p with active := f p.active }

/-- What a parity error leaves of the core in focus: the weight, scale or entry poisoned with its bits `x` a free value;
a line of the L1 or the instruction cache dropped, to be fetched again (Table 19.1). -/
def Core.harm (c : Core) (x : Word) : ErrSite → Core
  | .weight sh row col => { c with press := c.press.modPlane sh (fun p => p.harmWeight row col x) }
  | .planeScale sh col => { c with press := c.press.modPlane sh (fun p => p.harmScale col x) }
  | .codebook true i =>
    { c with press := { c.press with cw := putField c.press.cw (16 * (i % 16)) 16 x, cwPois := c.press.cwPois ||| 1 <<< (i % 16) } }
  | .codebook false i =>
    { c with press := { c.press with ca := putField c.press.ca (16 * (i % 16)) 16 x, caPois := c.press.caPois ||| 1 <<< (i % 16) } }
  | .pairEntry i =>
    { c with press := { c.press with
      pairTable := c.press.pairTable.set i (x.setWidth 32), pairPois := c.press.pairPois ||| 1 <<< (i % 256) } }
  | .laneCodebook i => { c with laneCb := putField c.laneCb (16 * (i % 16)) 16 x, laneCbPois := c.laneCbPois ||| 1 <<< (i % 16) }
  | .scale k i => { c with rind := modifyAt (fun r =>
      { r with scales := putField r.scales (8 * (i % 64)) 8 x, pois := r.pois ||| 1 <<< (i % 64) }) c.rind k }
  | .l1 i => { c with l1 := removeAt c.l1 i }
  | .icache i => { c with icache := removeAt c.icache i }
  | .control | .ripening _ | .corrected _ | .ioLane _ | .rest _ _ _ | .tlb _ => c

/-- Whether there is an entry of the L1, the instruction cache or a TLB at a place. -/
def State.cached (s : State) : ErrSite → Bool
  | .l1 i => decide (i < s.core.l1.length)
  | .icache i => decide (i < s.core.icache.length)
  | .tlb i => decide (i < s.tlb.length)
  | .control | .ripening _ | .corrected _ | .ioLane _ | .rest _ _ _ | .weight _ _ _ | .planeScale _ _ | .codebook _ _ | .pairEntry _
  | .laneCodebook _ | .scale _ _ => true

/-- The record of an error of the mesh's I/O lanes that no code corrects: in the management fault queue alone (R396); its
unit, element and severity are free values (log entry 74). -/
def State.laneRecord (s : State) : State :=
  let (unit, s) := s.takeFree
  let (elem, s) := s.takeFree
  let (sev, s) := s.takeFree
  s.recordMgmt (Rec.base cERR (sev.toNat % 16) (unit.toNat % 16) (elem.toNat % 2 ^ 14) 0 0xFFFF)

/-- CORE_ERR: an error in the control state of the core in focus, or in the ripening-copy state of a set (R384); and, as
events of the same kind, errors in the other stores of Table 19.1 (log entry 74). -/
def execCoreErr (site : ErrSite) (s : State) : Host.Outcome State Fault Refusal :=
  match site with
  | .control => if s.core.active then happens s.controlErr else nothing s
  | .ripening k => match s.ripening[k]? with
    | none => nothing s
    | some r => happens (s.setErr r.line)
  | .corrected p => happens (s.countCorrected p)
  | .ioLane bad => happens (if bad then s.countShared.laneRecord else s.countShared)
  | .rest unit place kind =>
    let t : Target := if unit = 0 then .loc s.core.id (place % 2 ^ 17 / 8 * 8)
      else if unit = 3 then .loc s.core.id (place % 2 ^ 14 / 4 * 4) else .phys (place / 16 * 16)
    if 3 < unit || 2 < kind then nothing s
    else happens { s with armed := s.armed ++ [{ tgt := t, unit := unit, kind := kind }] }
  | .l1 _ | .icache _ | .tlb _ =>
    if !s.cached site then nothing s
    else
      let tlb := match site with
        | .tlb i => removeAt s.tlb i
        | _ => s.tlb
      happens (State.countCorrected { s with core := s.core.harm 0 site, tlb := tlb } s.myPart)
  | .weight _ _ _ | .planeScale _ _ | .codebook _ _ | .pairEntry _ | .laneCodebook _ | .scale _ _ =>
    let (x, s) := s.takeFree
    happens { s with core := s.core.harm x site }

/-! ## The walker and the fault queues -/

/-- PAGE_WALK: a walk for the ACTIVE context of a partition; one that succeeds, its translated address within what the
partition reaches, fills a last-level TLB, and a poisoned entry is recorded (R353, R359). -/
def execPageWalk (part va : Nat) (s : State) : Host.Outcome State Fault Refusal :=
  match s.activeCtx part with
  | none => nothing s
  | some c =>
    let unit := lastLevel (s.firstCluster part)
    if (s.tlbHit unit c.id va).isSome then nothing s
    else match walkFrom part va walkLevels (bitsAt (c.desc.getD 0 0) 47 12 * 4096) s with
      | (.error (.poison pa), s) => happens (s.walkRecord c pa)
      | (.error .page, s) | (.error .prot, s) => happens s
      | (.ok (leaf, log), s) =>
        if !s.leafReaches c leaf log va 1 then happens s
        else happens (s.tlbPut part { unit := unit, ctx := c.id, vbase := va / 2 ^ log, logSize := log, leaf := leaf })

/-- TAILCNT_WRITE: the oldest record of a fault queue that has been acknowledged counts in TAILCNT (R333). -/
def execTailcntWrite (queue : FqId) (s : State) : Host.Outcome State Fault Refusal :=
  match queue with
  | .management => match s.mfqPending with
    | [] => nothing s
    | n :: rest =>
      let key := pfKey (s.mfqBase.toNat % 2 ^ 48 - 64)
      happens (({ s with mfqPending := rest }).directWrite key (dwordBytes (.ofNat 64 n)))
  | .context id => match s.ctx? id with
    | none => nothing s
    | some c => match c.pendingTail with
      | [] => nothing s
      | n :: rest =>
        let key := physKey c.part (addr48 (c.desc.getD 4 0) - 64)
        happens ((s.modCtx id (fun c => { c with pendingTail := rest })).directWrite key (dwordBytes (.ofNat 64 n)))

end Sys2Proof.Machine
end

