-- ==== Sys2Proof/Machine/Link.lean ====
section
/-! DEFINITION. What reaches the device from outside: the host's windows (R347, R364 to R366, R443), writes of the
host and of peers to main memory (R158, R369, R427), accesses that a peer window carries (R369, R370), and the
links' own events (R27, R370, R371, R373, R374). -/

namespace Sys2Proof.Machine

/-! ## Take windows (R365) -/

/-- The device answers outside. -/
def State.reply (s : State) (o : HostOut) : State := { s with hostOut := s.hostOut ++ [o] }

/-- The counter that a handle names for the outside: the ACTIVE context's, else that of a SAVED one, whose reads
wait (R266). -/
def State.takeCounter (s : State) (part h : Nat) : Option Counter :=
  let of (ok : CtxSt → Bool) : Option Counter :=
    (s.contexts.filter (fun c => c.part == part && ok c.st)).findSome? (fun c => s.counter? c.id h)
  of (fun st => st != .saved) <|> of (fun st => st == .saved)

/-- A record of an access that the host interface drops (R443), an error that counts with the hypervisor alone (R396). -/
def State.hostRecord (s : State) (part requester cause detail : Nat) : State :=
  let ctx := ((s.activeCtx part).map (·.id)).getD 0xFFFF
  s.countShared.recordMgmt { Rec.base cERR 2 12 0 part ctx with
    synd := .ofNat 64 (requester % 2 ^ 16 * 2 ^ 48 + cause * 2 ^ 40 + detail % 2 ^ 14) }

/-- A write to a take window is dropped and recorded (R365). -/
def State.takeWrite (s : State) (part requester offset : Nat) : State := s.hostRecord part requester 1 (offset / 8)

/-- A read of 8 bytes of a take window by the requester: a token sets out for the counter (R254). -/
def State.takeRead (s : State) (part requester h : Nat) : State :=
  match s.takeCounter part h with
  | none => s.reply (.allOnes requester)
  | some c =>
    if c.failed then s.reply (.allOnes requester)
    else
      let (uid, s) := s.takeUid
      { s with
        takes := s.takes ++ [{ uid := uid, part := part, requester := requester, handle := h }]
        tokens := s.tokens ++ [newTok uid c.ctx (.counter h) false requester c.logw none 0 true false] }

/-- TAKE_WINDOW_READ: any other size, or a read that is not aligned to 8, returns all ones. -/
def execTakeWindowRead (part requester offset size : Nat) (s : State) : Host.Outcome State Fault Refusal :=
  if 16 ≤ part || !s.powered then nothing s
  else if 0x2000 ≤ offset then happens (s.reply (.unsupported part))
  else if size ≠ 8 ∨ offset % 8 ≠ 0 then happens (s.reply (.allOnes requester))
  else happens (s.takeRead part requester (offset / 8))

/-- TAKE_WINDOW_WRITE. -/
def execTakeWindowWrite (part requester offset : Nat) (s : State) : Host.Outcome State Fault Refusal :=
  if 16 ≤ part || !s.powered then nothing s
  else if 0x2000 ≤ offset then happens (s.reply (.unsupported part))
  else happens (s.takeWrite part requester offset)

/-- TAKE_READ_TIMEOUT: the 40 ms are over for a read whose token waits before the first layer. -/
def execTakeReadTimeout (uid : Nat) (s : State) : Host.Outcome State Fault Refusal :=
  match s.takes.find? (fun r => r.uid == uid), s.tokens.find? (fun t => t.uid == uid) with
  | some r, some t =>
    if t.layer = 0 ∧ (t.waiting || s.netSaved t.ctx) then
      happens ({ s with
        takes := s.takes.filter (fun r => r.uid != uid)
        tokens := s.tokens.filter (fun t => t.uid != uid) }.reply (.abort r.requester))
    else nothing s
  | _, _ => nothing s

/-! ## Active messages (R366) -/

/-- Why a host active message is dropped (R443): the cause and its detail; none for one that is accepted. -/
def State.hostMsgBad (s : State) (part : Nat) (bytes : List Byte) : Option (Nat × Nat) :=
  let d0 := leNat (bytes.take 8)
  let d1 := leNat ((bytes.drop 8).take 8)
  let core := if bytes.length < 10 then 0 else d1 % 2 ^ 14
  let here := match (s.coreOf core).kern with
    | none => false
    | some k => (s.activeCtx part).map (·.id) == some k.ctx
  if bytes.length ≠ 32 then some (3, core)
  else if !here then some (2, core)
  else if d0 % 2 = 1 then some (4, core)
  else if d1 / 2 ^ 15 ≠ 0 then some (5, core)
  else none

/-- The message that a host active message is (Table 18.2). -/
def hostMsg (bytes : List Byte) : Msg :=
  let d (j : Nat) : Word := .ofNat 64 (leNat ((bytes.drop (8 * j)).take 8))
  { src := 16384, dst := bitsAt (d 1) 13 0, hi := (d 1).getLsbD 14, entry := .ofNat 48 (bitsAt (d 0) 47 1 * 2)
    body := [{ bits := d 2, poison := false }, { bits := d 3, poison := false }]
    tag := .ofNat 16 (bitsAt (d 0) 63 48), replyTo := 0 }

/-- HOST_ACTIVE_MESSAGE. One whose core has no room waits in the fabric (R96). -/
def execHostActiveMessage (part requester : Nat) (bytes : List (BitVec 8)) (s : State) :
    Host.Outcome State Fault Refusal :=
  if 16 ≤ part || !s.powered then nothing s
  else match s.hostMsgBad part bytes with
    | some (cause, detail) => happens (s.hostRecord part requester cause detail)
    | none =>
      let m := hostMsg bytes
      if 8 ≤ ((s.coreOf m.dst).inBuf m.hi).length then nothing s
      else
        let s := s.modCore m.dst (fun c => if m.hi then { c with inHi := c.inHi ++ [m] } else { c with inLo := c.inLo ++ [m] })
        happens (s.drainIn m.dst)

/-! ## Writes from outside (R147, R158, R369, R427) -/

/-- A write of the host or a peer to main memory: a direct write that sets every slot it covers full (Table 7.2). -/
def State.outsideWrite (s : State) (part pa : Nat) (bytes : List Byte) : State :=
  let key := physKey part pa
  let s := s.directWrite key bytes
  ((unitsOf 64 key bytes.length).filter (fun u => decide (key ≤ 64 * u ∧ 64 * u + 64 ≤ key + bytes.length))).foldl
    (fun s u => s.fill (.phys (64 * u))) s

/-- HOST_POSTED_WRITE: BAR 4 ends with the partition's main memory. -/
def execHostPostedWrite (part _requester pa : Nat) (bytes : List (BitVec 8)) (s : State) :
    Host.Outcome State Fault Refusal :=
  if 16 ≤ part || !s.powered then nothing s
  else if s.mainBytes part < pa + bytes.length then happens (s.reply (.unsupported part))
  else happens (s.outsideWrite part pa bytes)

/-- QSLOT_SECTION_LOAD: the slots of an image's section are empty and hold its bytes. -/
def execQslotSectionLoad (part pa : Nat) (bytes : List (BitVec 8)) (s : State) : Host.Outcome State Fault Refusal :=
  if 16 ≤ part || !s.powered || decide (s.mainBytes part < pa + bytes.length) || pa % 64 != 0 then nothing s
  else
    let key := physKey part pa
    let s := s.directWrite key bytes
    happens { s with fullSlots := (unitsOf 64 key bytes.length).foldl NatSet.del s.fullSlots }

/-! ## BAR 0 (R22, R347, R364) -/

/-- Whether BAR 0 of a virtual function has something at an offset (Table 18.1). -/
def barListed (o : Nat) : Bool :=
  decide (o < 2112) || decide (0x1000 ≤ o ∧ o < 0x1048) || decide (0x2000 ≤ o ∧ o < 0x2020)

/-- UNSUPPORTED_REQUEST. -/
def execUnsupportedRequest (part offset : Nat) (s : State) : Host.Outcome State Fault Refusal :=
  if 16 ≤ part || !s.powered || barListed offset then nothing s else happens (s.reply (.unsupported part))

/-- The context whose counters a partition's function shows: the one that holds the partition, in whatever state (R347,
R382). -/
def State.shownCtx (s : State) (part : Nat) : Option Context :=
  s.dataCtx part <|> s.contexts.find? (fun c => c.part == part && c.st == .error)

/-- Counter `n` of a partition as its function's window shows it: to the context that the partition serves, or, when it
serves none, plainly and without counters 1 to 5 (log entry 78). -/
def State.vfCounter (s : State) (part n : Nat) : Nat :=
  let all (n : Nat) : Nat := ((s.coresOf part).map (fun i => (s.coreOf i).counter n)).foldl (· + ·) 0
  match s.shownCtx part with
  | some c => s.counterValue c n all
  | none =>
    let p := s.part part
    match n with
    | 0 => s.ts.toNat
    | 6 => p.bytesOut
    | 7 => p.bytesIn
    | 8 => p.tier2
    | _ => 0

/-- COUNTER_LOW_READ: the low half is answered, and the high half latched. -/
def execCounterLowRead (part counter : Nat) (s : State) : Host.Outcome State Fault Refusal :=
  if 16 ≤ part || !s.powered || decide (8 < counter) then nothing s
  else
    let v := s.vfCounter part counter
    happens ({ s with latches := assocPut s.latches part (.ofNat 32 (v / 2 ^ 32)) }.reply
      (.counterLow part (.ofNat 32 v)))

/-- What a 32-bit read of BAR 0 of a partition's function returns where it changes nothing, and so is no step: the
function's copy of the device description block, and the high half of a counter, which is the latch (R22, R347). -/
def State.bar0Read (s : State) (part offset : Nat) : Option (BitVec 32) :=
  if offset % 4 ≠ 0 || !s.powered then none
  else if offset < 2112 then some (.ofNat 32 (leNat (((s.ddb (part + 1)).drop offset).take 4)))
  else if 0x1000 ≤ offset ∧ offset < 0x1048 ∧ offset % 8 = 4 then some (lookupD 0 s.latches part)
  else none

/-- What a 32-bit read of BAR 0 of the physical function returns: its unfiltered copy of the device description block (R22),
and the certificate over the identity key, at the place that the model leaves open (R410; log entry 63). In RECOVERY the
function exposes only the recovery window (R408). Its management windows are read by `State.windowRead`. -/
def State.physRead (s : State) (offset : Nat) : Option (BitVec 32) :=
  let word (l : List Byte) (o : Nat) : BitVec 32 := .ofNat 32 (leNat ((l.drop o).take 4))
  if !s.booting || offset % 4 != 0 then none
  else if offset < 2112 then some (word (s.ddb 0) offset)
  else if Config.certificateAt ≤ offset ∧ offset < Config.certificateAt + s.certificate.length then
    some (word s.certificate (offset - Config.certificateAt))
  else none

/-- What a read of BAR 4 returns: bytes of the partition's main memory, read as by a direct agent (R147, R364); none past
its end, where the request is unsupported. -/
def State.bar4Read (s : State) (part offset n : Nat) : Option (List (Byte × Bool) × State) :=
  if !s.powered || decide (s.mainBytes part < offset + n) then none else some (s.readPhys part (physKey part offset) n)

/-! ## Accesses over a peer window (R369, R370) -/

/-- The physical address of a peer that a target names. -/
def Target.peer? : Target → Option Nat
  | .loc _ _ => none
  | .phys key => if isPeerPA (keyPA key) && decide (keyPart key < 16) then some (keyPA key) else none

/-- The flit of an access has come through: the port has no failed replay outstanding. -/
def State.carried (s : State) (p pa : Nat) : State :=
  let clear (q : Port) : Port := { q with replays := 0 }
  (match s.upPorts p pa with
    | [] => s
    | k :: _ => { s with ports := modifyAt clear s.ports k }).linkSend p pa

/-- A request that a link has lost: all ones, poisoned, with a record; a prefetch, which brings no value, is gone. -/
def State.loseReq (s : State) (r : Req) (port pa : Nat) : State :=
  let ones : Word := BitVec.allOnes 64
  let row : Row := { bits := BitVec.allOnes 2048, pois := BitVec.allOnes 64 }
  let s := match r.kind with
    | .load _ _ _ taint _ => s.serve r.core r.uid (.word { bits := ones, taint := taint, poison := true })
    | .atomic _ _ _ _ _ taint _ => s.serve r.core r.uid (.word { bits := ones, taint := taint, poison := true })
    | .row _ _ => s.serve r.core r.uid (.row row)
    | .pref _ _ | .tile _ _ _ _ _ => s
  let s := s.markServed r.uid none
  match r.kind with
  | .pref _ _ => s
  | .load _ _ _ _ _ | .row _ _ | .tile _ _ _ _ _ | .atomic _ _ _ _ _ _ _ =>
    s.linkRecord ((s.partOf r.core).getD 0) (s.ctxOfCore r.core) port pa true

/-- The target of a request that one access serves. -/
def ReqKind.target : ReqKind → Option Target
  | .load t _ _ _ _ => some t
  | .row t _ => some t
  | .pref key _ => some (.phys key)
  | .atomic t _ _ _ _ _ _ => some t
  | .tile _ _ _ _ _ => none

/-- The peer address of a request, while it is not served. -/
def Req.peer? (r : Req) : Option Nat := if r.served then none else r.kind.target.bind Target.peer?

/-- An access of partition `p` to a peer address is lost to a port: the port held it, or no port is left for it. A
route's lowest port in service holds it (log entry 33). -/
def State.lostTo (s : State) (port p pa : Nat) : Bool :=
  match s.upPorts p pa with
  | [] => true
  | k :: _ => k == port

/-- Loses the requests, stores and row writes that a port holds (R370). -/
def State.losePort (s : State) (port : Nat) : State :=
  let lost (core pa : Nat) : Bool := s.lostTo port ((s.partOf core).getD 0) pa
  let reqs := s.reqs.filterMap (fun r => r.peer?.bind (fun pa => if lost r.core pa then some (r, pa) else none))
  let jobs := (s.rowWrites.filterMap (fun w => w.tgt.peer?.bind (fun pa =>
    if s.lostTo port (s.partOfCtx w.ctx) pa then some (w, pa) else none)))
  let s := reqs.foldl (fun s (r, pa) => s.loseReq r port pa) s
  let s := jobs.foldl (fun s (w, pa) =>
    (s.rowFails w 6).linkRecord (s.partOfCtx w.ctx) w.ctx port pa false) s
  s.liveCores.foldl (fun s i =>
    let buf := (s.coreOf i).storeBuf
    buf.zipIdx.foldl (fun s (b, k) =>
      match (if b.sent || b.wc then none else b.op.tgt.peer?) with
      | none => s
      | some pa =>
        if lost i pa then (s.markSent i k).linkRecord ((s.partOf i).getD 0) (s.ctxOfCore i) port pa false else s) s) s

/-- An access of one of this device's agents executes at the peer, whose answer is a free value (log entry 18); with
no port left it is lost (R370). -/
def State.carryReq (s : State) (r : Req) (pa : Nat) : Option State :=
  let p := (s.partOf r.core).getD 0
  if (s.upPorts p pa).isEmpty then some (s.loseReq r 0 pa)
  else match r.kind with
    | .atomic t op n v w taint thru =>
      if !s.atomReady r t n then none else some ((s.runAtomic r t op n v w taint thru).carried p pa)
    | .load _ _ _ _ _ | .row _ _ | .pref _ _ =>
      if !s.readReady r then none else some (((s.serveRead r).markServed r.uid none).carried p pa)
    | .tile _ _ _ _ _ => none

/-- The store buffer entry of a core that store `seq` to a peer has. -/
def State.peerStore (s : State) (seq : Nat) : Option (Nat × Nat × StoreOp × Nat) :=
  s.liveCores.findSome? (fun i =>
    (s.coreOf i).storeBuf.zipIdx.findSome? (fun (b, k) =>
      match b.op.tgt.peer? with
      | none => none
      | some pa => if b.op.seq = seq ∧ !b.sent then some (i, k, b.op, pa) else none))

/-- A carried access: the request, else the store, with a number. -/
def State.carry (s : State) (uid : Nat) : Option State :=
  match (s.req? uid).bind (fun r => r.peer?.map (fun pa => (r, pa))) with
  | some (r, pa) => s.carryReq r pa
  | none => match s.peerStore uid with
    | none => none
    | some (i, k, o, pa) =>
      if (s.canSend i k).isNone then none
      else
        let p := (s.partOf i).getD 0
        if (s.upPorts p pa).isEmpty then some ((s.markSent i k).linkRecord p (s.ctxOfCore i) 0 pa false)
        else some (((s.perform o).markSent i k).carried p pa)

/-- A peer's read of this partition's memory, or of a take window, whose requester id is a free value. -/
def State.peerLoad (s : State) (part pa size : Nat) : Option State :=
  if takeOffset pa then
    let (w, s) := s.takeFree
    let o := pa - 0x3FFFFFE000
    if 0x2000 ≤ o then none
    else if size ≠ 8 ∨ o % 8 ≠ 0 then some (s.reply (.allOnes (w.toNat % 2 ^ 16)))
    else some (s.takeRead part (w.toNat % 2 ^ 16) (o / 8))
  else if s.mainBytes part < pa + size then none
  else
    let (bs, s) := s.readPhys part (physKey part pa) size
    some (s.reply (.peerData part (bs.map (·.1)) (bs.any (·.2))))

/-- A write of a peer; one to a take window is dropped and recorded, with a free requester id (R365, R369). -/
def State.peerWrite (s : State) (part pa : Nat) (bytes : List Byte) : Option State :=
  if takeOffset pa then
    let (w, s) := s.takeFree
    if pa < 0x4000000000 then some (s.takeWrite part (w.toNat % 2 ^ 16) (pa - 0x3FFFFFE000)) else none
  else if s.mainBytes part < pa + bytes.length then none
  else some (s.outsideWrite part pa bytes)

/-- An atomic of a peer; one to a take window has a write's fate, and its answer is all ones (log entry 18). -/
def State.peerAtomic (s : State) (part : Nat) (op : AtomOp) (size pa : Nat) (v w : Word) : Option State :=
  if takeOffset pa then (s.peerWrite part pa []).map (fun s => s.reply (.peerData part (List.replicate size 0xFF) false))
  else if s.mainBytes part < pa + size || !(size == 4 || size == 8) || pa % size ≠ 0 then none
  else
    let ((old, pois), s) := s.atomic part (.phys (physKey part pa)) op size v.toNat w.toNat false
    some (s.reply (.peerData part (natLE size old) pois))

/-- PEER_ACCESS. -/
def execPeerAccess (part : Nat) (op : PeerOp) (s : State) : Host.Outcome State Fault Refusal :=
  if 16 ≤ part || !s.powered then nothing s
  else
    let t : Option State := match op with
      | .carried uid => s.carry uid
      | .load pa size => (s.peerLoad part pa size).map (fun s => s.linkTraffic part)
      | .store pa bytes => (s.peerWrite part pa bytes).map (fun s => s.linkTraffic part)
      | .atomic op size pa v w => (s.peerAtomic part op size pa v w).map (fun s => s.linkTraffic part)
    match t with
    | none => nothing s
    | some s => happens s

/-! ## Ports (R27, R370, R371, R373) -/

/-- Whether a scale-up port carries traffic. -/
def Port.up (q : Port) : Bool := q.st == .active || q.st == .degraded

/-- A port has replayed one flit 16 times in vain: it enters DOWN, or QUARANTINED at the 64th time within 1 s of
TS, and what it held fails. -/
def State.exhaust (s : State) (port : Nat) : State :=
  let now := s.ts.toNat
  let s := s.losePort port
  let f (q : Port) : Port :=
    let times := q.exhausted.filter (fun t => decide (now < t + 1000000000)) ++ [now]
    { q with st := if 64 ≤ times.length then .quarantined else .down, replays := 0, exhausted := times }
  { s with ports := modifyAt f s.ports port }

/-- FLIT_REPLAY: a failed or lost flit is an error of the port, and is replayed; `exhausted` says that the replays have
come to an end, as the 16th failed one does. -/
def execFlitReplay (port : Nat) (exhausted : Bool) (s : State) : Host.Outcome State Fault Refusal :=
  match s.ports[port]? with
  | none => nothing s
  | some q =>
    let again (q : Port) : Port := { q with replays := q.replays + 1 }
    if !q.up then nothing s
    else
      let s := s.countPort q.owner
      if exhausted || decide (15 ≤ q.replays) then happens (s.exhaust port)
      else happens { s with ports := modifyAt again s.ports port }

/-- Whether a port has one lane only (R27). -/
def State.singleLane (s : State) : PortId → Bool
  | .scaleUp n => s.oneLane.has n
  | .ethernet _ => false

/-- What training with some lanes makes of a port; an Ethernet port has no DEGRADED. -/
def State.trained (s : State) (id : PortId) (lanes : Nat) : PortSt :=
  match id with
  | .scaleUp _ => if lanes = 1 || s.singleLane id then .degraded else .active
  | .ethernet _ => .active

/-- LANE_TRAINED: out of TRAINING, or both lanes of a DEGRADED port again. -/
def execLaneTrained (port : PortId) (lanes : Nat) (s : State) : Host.Outcome State Fault Refusal :=
  match s.port? port with
  | none => nothing s
  | some q =>
    if lanes = 0 || s.portDead port || !(q.st == .training || q.st == .degraded) then nothing s
    else happens (s.modPort port (fun q => { q with st := s.trained port lanes }))

/-- TRAINING_TIMEOUT: 100 ms without success. -/
def execTrainingTimeout (port : PortId) (s : State) : Host.Outcome State Fault Refusal :=
  match s.port? port with
  | none => nothing s
  | some q => if q.st ≠ .training then nothing s else happens (s.modPort port (fun q => { q with st := .down }))

/-- LANE_FAILURE: one lane leaves a scale-up port DEGRADED, and the second, DOWN; an Ethernet port, which has no DEGRADED,
is DOWN with the first. What a port held is lost with it. -/
def execLaneFailure (port : PortId) (s : State) : Host.Outcome State Fault Refusal :=
  let down (k : Nat) : State := (s.losePort k).modPort port (fun q => { q with st := .down })
  match s.port? port with
  | none => nothing s
  | some q => match q.st, port with
    | .active, .scaleUp _ => happens (s.modPort port (fun q => { q with st := .degraded }))
    | .degraded, .scaleUp n => happens (down n)
    | .active, .ethernet n => happens (down (128 + n))
    | .degraded, .ethernet _ | .down, _ | .training, _ | .quarantined, _ => nothing s

/-- ETHERNET_FRAME: its bytes count as received by the port's partition (R346); one that fails its check is dropped and
counted, with the port's owner too (R372). What a good one carries is an access of its own. -/
def execEthernetFrame (port : Nat) (ok : Bool) (bytes : Nat) (s : State) : Host.Outcome State Fault Refusal :=
  match s.ethPorts[port]? with
  | none => nothing s
  | some q =>
    if q.st ≠ .active then nothing s
    else
      let s := match q.owner with
        | some p => s.modPart p (fun x => { x with bytesIn := x.bytesIn + bytes })
        | none => s
      happens (if ok then s else { s.countPort q.owner with ethDropped := s.ethDropped + 1 })

/-- ROUTER_DROP: a packet bound outside its partition is dropped, counted with the hypervisor (R396) and recorded; which
router and how severe are free values. -/
def execRouterDrop (part dest : Nat) (s : State) : Host.Outcome State Fault Refusal :=
  if 16 ≤ part || s.partOf dest == some part then nothing s
  else
    let (w, s) := s.takeFree
    let (v, s) := s.takeFree
    happens (s.countShared.recordMgmt (Rec.base cERR (v.toNat % 16) 13 (w.toNat % 2 ^ 14) part 0xFFFF))

end Sys2Proof.Machine
end

