-- ==== Sys2Proof/Machine/Reliability.lean ====
section
/-! DEFINITION. Sampled re-execution: check runs, verdicts and scores (R388 to R394, R438, R439), and patrol
scrubbing (R387). -/

namespace Sys2Proof.Machine

/-- The sample with an identity. -/
def State.check? (s : State) (uid : Nat) : Option Check := s.checks.find? (fun k => k.uid == uid)

/-- Changes a sample. -/
def State.modCheck (s : State) (uid : Nat) (f : Check → Check) : State :=
  { s with checks := updFirst (fun k => k.uid == uid) f s.checks }

/-! ## Check runs (R390, R438) -/

/-- Whether a core takes check runs: its low context and LQ are free, and neither a stop, a pre-emption nor a
quarantine keeps it from them (R390, R393, R402). -/
def Core.takesChecks (c : Core) : Bool :=
  (!c.active || c.curHi) && c.susp.isNone && (!c.inHandler || (c.frame.map (·.hi)).getD true) && c.lq.isEmpty &&
    !c.dueQ && !c.quarantined && !c.stopReq && !c.frozen

/-- The first core of a cluster that takes a run, none of some. -/
def State.checkCore (s : State) (cl : Nat) (other : List Nat) : Option Nat :=
  ((List.range 128).map (cl * 128 + ·)).find? (fun i =>
    s.corePresent i && !other.contains i && (s.coreOf i).takesChecks)

/-- The retained activation as a run of it begins. -/
def Check.run (k : Check) (uid : Nat) : Act :=
  { k.act with
    uid := uid, sampled := false, check := some k.uid, held := [], digest := 0, revocable := true
    checkable := true, popped := 0, pushed := 0, extra := [], granted := k.grants }

/-- The press in load state for a kernel (R205, R245). -/
def KernInfo.checkPress (k : KernInfo) : Press := { Press.load with narrow := k.narrow, integer := k.integer }

/-- A run of a sample starts on a core: what the press, the rind registers, the lane codebook and the tensor table
hold is set aside; the private image stands in for the original's slot and the press queue; and it opens with an
acquire. -/
def State.startRun (s : State) (k : Check) (core : Nat) : State :=
  let (uid, s) := s.takeUid
  let c := s.coreOf core
  let s := s.modCheck k.uid (fun x => { x with
    savedPress := some c.press, savedRind := c.rind, savedTags := c.tags, savedTt := c.tt, savedCb := c.laneCb
    savedCbPois := c.laneCbPois })
  let a := k.run uid
  let press := (k.kern.map KernInfo.checkPress).getD .load
  s.modCore core (fun c =>
    Core.runThread { c with
      press := press, rind := List.replicate 16 .load, tags := List.replicate 16 .empty, tt := [], l1 := []
      image := k.inputs, imagePois := k.inPois, imageEmpty := [], checkTt := k.tt
      imageGr := (List.range a.slot).map (a.wp.toNat / 64 + ·) ++ List.range 16
      checkKern := k.kern, checkHome := k.core } { Thread.blank with act := a, pc := a.entry })

/-- Whether a run may start on a core now: it runs nothing, and its press has PEND 0 (R438). -/
def Core.freeForRun (c : Core) : Bool := !c.active && c.frame.isNone && c.press.pend == 0

/-- CHECK_RUN_START: sample `k` is checked in the next present cluster. -/
def execCheckRunStart (k : Nat) (s : State) : Host.Outcome State Fault Refusal :=
  match s.check? k with
  | none => nothing s
  | some k =>
    if !k.ended || k.checker.isSome || k.outs.isSome then nothing s
    else match s.checkCore (s.nextCluster (clusterOf k.core)) [k.core] with
      | none => nothing s
      | some i =>
        if !(s.coreOf i).freeForRun then nothing s
        else happens ((s.startRun k i).modCheck k.uid (fun x => { x with checker := some i }))

/-- CHECK_TIMEOUT: a check that has not started, or a tiebreak, is withdrawn (R390, R392). -/
def execCheckTimeout (k : Nat) (s : State) : Host.Outcome State Fault Refusal :=
  match s.check? k with
  | none => nothing s
  | some k => if k.outs.isSome || (s.waitsAt k).isNone then nothing s else happens (s.withdraw k.uid)

/-- TIEBREAK_START: unequal digests are decided on a third core (R392). -/
def execTiebreakStart (k : Nat) (s : State) : Host.Outcome State Fault Refusal :=
  match s.check? k with
  | none => nothing s
  | some k => match k.checker, k.cDigest with
    | some c, some d =>
      if d = k.oDigest || k.tie.isSome || k.outs.isSome then nothing s
      else match s.checkCore (s.nextCluster (clusterOf c)) [k.core, c] with
        | none => nothing s
        | some i =>
          if !(s.coreOf i).freeForRun then nothing s
          else happens ((s.startRun k i).modCheck k.uid (fun x => { x with tie := some i }))
    | _, _ => nothing s

/-! ## Verdicts (R392 to R394, R439) -/

/-- A core's score rises; from 256 on it is due for quarantine, and enters it at once when no cohort is placed on it
(R392, R393). -/
def Core.suspect (c : Core) (n : Nat) (placed : Bool) : Core :=
  let score := min 65535 (c.suspicion + n)
  let due := c.dueQ || decide (256 ≤ score)
  if c.quarantined then { c with suspicion := score }
  else if due && !placed then { c with suspicion := score, dueQ := false, quarantined := true }
  else { c with suspicion := score, dueQ := due }

/-- The same on a core of the device. -/
def State.suspect (s : State) (core n : Nat) : State := s.modCore core (fun c => c.suspect n (s.placedOn core))

/-- A core ran the original or the check of one that passed: every 4,096th lowers its score (R393). -/
def Core.passed (c : Core) : Core :=
  let n := c.passes + 1
  if n % 4096 = 0 then { c with passes := n, suspicion := c.suspicion - 1 } else { c with passes := n }

/-- The CHECKFAIL syndrome (Table 19.6). -/
def failSyndrome (verdict tie check orig : Nat) : Word :=
  .ofNat 64 (verdict * 2 ^ 48 + tie % 2 ^ 14 * 2 ^ 32 + check % 2 ^ 14 * 2 ^ 16 + orig % 2 ^ 14)

/-- The record of a verdict other than a pass (R439). -/
def Check.record (k : Check) (part verdict tie check : Nat) : Rec :=
  { Rec.base cCHECKFAIL 0 14 k.core part k.ctx with
    synd := failSyndrome verdict tie check k.core, entry := k.act.entry.toNat, tag := k.act.tag.toNat
    kid := (k.kern.map (·.kid.toNat)).getD 0, aux0 := k.oDigest, aux1 := k.cDigest.getD 0 }

/-- An output of a tiebreak as the original's core sends it. -/
def Held.from (core act : Nat) : Held → Held
  | .store o => .store { o with writer := core, act := act }
  | .msg m => .msg { m with src := core }
  | .release y => .release y
  | .reply a c v => .reply a c v
  | .token a d => .token a d

/-- The verdict on a sample whose three digests stand. -/
def State.decide3 (s : State) (k : Check) (check tie : Nat) (cd td : Word) : State :=
  let part := s.partOfCtx k.ctx
  let hold := (k.kern.map (·.hold)).getD false
  if td = k.oDigest then
    let s := (s.suspect check 64).recordCtx k.ctx (k.record part 2 tie check)
    s.settle k k.oHeld
  else if td = cd then
    let s := (s.suspect k.core 64).recordCtx k.ctx (k.record part 1 tie check)
    s.settle k (if hold then k.tHeld.map (Held.from k.core k.act.uid) else [])
  else
    let s := (s.suspect k.core 16).suspect check 16
    let r := k.record part 3 tie check
    let s := (s.recordCtx k.ctx r).settle k []
    if hold then s.ctxError k.ctx r else s

/-- CHECK_VERDICT; of a sample that is decided, the outputs that are still to leave do (R394). -/
def execCheckVerdict (k : Nat) (s : State) : Host.Outcome State Fault Refusal :=
  match s.check? k with
  | none => nothing s
  | some k => match k.outs with
    | some outs =>
      if (s.emitFrom k.core k.act.uid outs).1.length = outs.length then nothing s else happens (s.drainSample k outs)
    | none => match k.checker, k.cDigest with
      | some c, some d =>
        if d = k.oDigest then
          happens (((s.modCore k.core Core.passed).modCore c Core.passed).settle k k.oHeld)
        else match k.tie, k.tDigest with
          | some t, some td => happens (s.decide3 k c t d td)
          | _, _ => nothing s
      | _, _ => nothing s

/-! ## Patrol (R387) -/

/-- The partition that owns a granule: a range of second-tier memory is its owner's (R372). -/
def State.ownerOf (s : State) (part pa : Nat) : Option Nat :=
  if isSecondTier pa then
    (s.tier2Owner.find? (fun (_, b, z) =>
      decide (0x100000000000 + b * 2 ^ 30 ≤ pa ∧ pa < 0x100000000000 + (b + z) * 2 ^ 30))).map (·.1)
  else some part

/-- The patrol engine of an address: of a GDDR-7 channel by its number; of the second-tier controllers, one on each I/O die
with 512 GiB (Table 1.2), the lower half's is 1,024 and the upper half's 1,025 (log entry 76). -/
def State.patrolEngine (s : State) (part pa : Nat) : Nat :=
  if isSecondTier pa then 1024 + pa / 2 ^ 39 % 2 else s.channelNumber part pa

/-- The first granule of an engine at or after an address; the engine's first when there is none. -/
def State.patrolFrom (s : State) (part pa pos : Nat) : Nat :=
  if isSecondTier pa then (if pos / 2 ^ 39 = pa / 2 ^ 39 then pos / 16 * 16 else pa / 2 ^ 39 * 2 ^ 39)
  else
    let n := (s.channelsOf part).length
    let i := if n = 0 then 0 else pa / 1024 % n
    let skip := if n = 0 then 0 else (i + n - pos / 1024 % n) % n
    let next := if skip = 0 then pos / 16 * 16 else (pos / 1024 + skip) * 1024
    if next < s.mainBytes part then next else i * 1024

/-- Whether the granule at an address is the next of its patrol engine, which reads them in ascending order (R387). -/
def State.patrolDue (s : State) (part pa : Nat) : Bool :=
  s.patrolFrom part pa (lookupD 0 s.patrols (s.patrolEngine part pa)) == pa / 16 * 16

/-- A patrol engine has read the granule at an address. -/
def State.patrolled (s : State) (part pa : Nat) : State :=
  { s with patrols := assocPut s.patrols (s.patrolEngine part pa) (pa / 16 * 16 + 16) }

/-- PATROL_READ: the next granule of an engine is read in memory, never in a slice. A correctable error is written back
corrected; an uncorrectable one becomes the poison codeword, which the slice line above it, if one holds the granule,
does not see. -/
def execPatrolRead (part pa : Nat) (s : State) : Host.Outcome State Fault Refusal :=
  if 16 ≤ part || !(isSecondTier pa || decide (pa < s.mainBytes part)) || !s.patrolDue part pa then nothing s
  else
    let s := s.patrolled part pa
    let u := keyOf part pa / 16
    let dirty := ((s.lineOf (u / 8)).map (·.dirty)).getD false
    let clean := (s.lineOf (u / 8)).isSome && !dirty
    let under (s : State) : State := { s with armed := s.armed ++ [{ tgt := .phys (16 * u), unit := 2, kind := 3 }] }
    let (found, s) := s.disarm 2 (.phys (16 * u))
    match found with
    | none => happens s
    | some 0 => happens (match s.ownerOf part pa with
      | some p => s.countCorrected p
      | none => s.countShared)
    | some 1 =>
      let (synd, s) := s.takeFree
      let (unit, elem) := if isSecondTier pa then (6, 0) else (5, s.channelNumber part pa)
      happens ((if dirty then s else if clean then under s else s.damage u).recordMgmt
        { Rec.base cPOISON 1 unit elem part 0xFFFF with pa := pa / 16 * 16, synd := synd })
    | some _ => happens (if dirty then s else if clean then under s else { s with memPoison := s.memPoison.ins u })

end Sys2Proof.Machine
end

