-- ==== Sys2Proof/Machine/Scalar.lean ====
section
/-! DEFINITION. The integer majors: ALU, MULDIV, BITS, the field, immediate, shift and constant
instructions (R71 to R81). -/

namespace Sys2Proof.Machine

/-- Two sources and a result in one clock (R71, R72). -/
def alu (f : Word → Word → Word) (d a b : RSpec) : M Flow := do
  let x ← readR a
  let y ← readR b
  andNext (writeR d (x.map2 f y))

/-- Two sources and a result that a window may hold back (R75). -/
def muldiv (f : Word → Word → Word) (d a b : RSpec) (l : BitVec 4) : M Flow := do
  takeSlot l.toNat
  let x ← readR a
  let y ← readR b
  carry d l (x.map2 f y)

/-- One source and a result (R77 to R80). -/
def unary (f : Word → Word) (d a : RSpec) : M Flow := do
  let x ← readR a
  andNext (writeR d (x.map f))

/-- ADD: x + y (Table 4.1). -/
def execAdd (d a b : RSpec) (s : State) : Host.Outcome State Fault Refusal :=
  run (formAdd d a b) (alu (· + ·) d a b) s

/-- SUB: x − y (Table 4.1). -/
def execSub (d a b : RSpec) (s : State) : Host.Outcome State Fault Refusal :=
  run (formSub d a b) (alu (· - ·) d a b) s

/-- AND (Table 4.1). -/
def execAnd (d a b : RSpec) (s : State) : Host.Outcome State Fault Refusal :=
  run (formAnd d a b) (alu (· &&& ·) d a b) s

/-- OR (Table 4.1). -/
def execOr (d a b : RSpec) (s : State) : Host.Outcome State Fault Refusal :=
  run (formOr d a b) (alu (· ||| ·) d a b) s

/-- XOR (Table 4.1). -/
def execXor (d a b : RSpec) (s : State) : Host.Outcome State Fault Refusal :=
  run (formXor d a b) (alu (· ^^^ ·) d a b) s

/-- ANDN: x AND NOT y (Table 4.1). -/
def execAndn (d a b : RSpec) (s : State) : Host.Outcome State Fault Refusal :=
  run (formAndn d a b) (alu aluAndn d a b) s

/-- ORN: x OR NOT y (Table 4.1). -/
def execOrn (d a b : RSpec) (s : State) : Host.Outcome State Fault Refusal :=
  run (formOrn d a b) (alu aluOrn d a b) s

/-- XNOR: NOT (x XOR y) (Table 4.1). -/
def execXnor (d a b : RSpec) (s : State) : Host.Outcome State Fault Refusal :=
  run (formXnor d a b) (alu aluXnor d a b) s

/-- SHL by the low 6 bits of b (Table 4.1). -/
def execShl (d a b : RSpec) (s : State) : Host.Outcome State Fault Refusal :=
  run (formShl d a b) (alu aluShl d a b) s

/-- SHR, zeros entering (Table 4.1). -/
def execShr (d a b : RSpec) (s : State) : Host.Outcome State Fault Refusal :=
  run (formShr d a b) (alu aluShr d a b) s

/-- SRA, copies of the sign entering (Table 4.1). -/
def execSra (d a b : RSpec) (s : State) : Host.Outcome State Fault Refusal :=
  run (formSra d a b) (alu aluSra d a b) s

/-- ROL (Table 4.1). -/
def execRol (d a b : RSpec) (s : State) : Host.Outcome State Fault Refusal :=
  run (formRol d a b) (alu aluRol d a b) s

/-- ROR (Table 4.1). -/
def execRor (d a b : RSpec) (s : State) : Host.Outcome State Fault Refusal :=
  run (formRor d a b) (alu aluRor d a b) s

/-- SLT, signed (Table 4.1). -/
def execSlt (d a b : RSpec) (s : State) : Host.Outcome State Fault Refusal :=
  run (formSlt d a b) (alu aluSlt d a b) s

/-- SLTU, unsigned (Table 4.1). -/
def execSltu (d a b : RSpec) (s : State) : Host.Outcome State Fault Refusal :=
  run (formSltu d a b) (alu aluSltu d a b) s

/-- SEQ (Table 4.1). -/
def execSeq (d a b : RSpec) (s : State) : Host.Outcome State Fault Refusal :=
  run (formSeq d a b) (alu aluSeq d a b) s

/-- SNE (Table 4.1). -/
def execSne (d a b : RSpec) (s : State) : Host.Outcome State Fault Refusal :=
  run (formSne d a b) (alu aluSne d a b) s

/-- MIN, signed (Table 4.1). -/
def execMin (d a b : RSpec) (s : State) : Host.Outcome State Fault Refusal :=
  run (formMin d a b) (alu aluMin d a b) s

/-- MAX, signed (Table 4.1). -/
def execMax (d a b : RSpec) (s : State) : Host.Outcome State Fault Refusal :=
  run (formMax d a b) (alu aluMax d a b) s

/-- MINU (Table 4.1). -/
def execMinu (d a b : RSpec) (s : State) : Host.Outcome State Fault Refusal :=
  run (formMinu d a b) (alu aluMinu d a b) s

/-- MAXU (Table 4.1). -/
def execMaxu (d a b : RSpec) (s : State) : Host.Outcome State Fault Refusal :=
  run (formMaxu d a b) (alu aluMaxu d a b) s

/-- SHADD1: y + 2·x (Table 4.1). -/
def execShadd1 (d a b : RSpec) (s : State) : Host.Outcome State Fault Refusal :=
  run (formShadd1 d a b) (alu (aluShadd 1) d a b) s

/-- SHADD2: y + 4·x (Table 4.1). -/
def execShadd2 (d a b : RSpec) (s : State) : Host.Outcome State Fault Refusal :=
  run (formShadd2 d a b) (alu (aluShadd 2) d a b) s

/-- SHADD3: y + 8·x (Table 4.1). -/
def execShadd3 (d a b : RSpec) (s : State) : Host.Outcome State Fault Refusal :=
  run (formShadd3 d a b) (alu (aluShadd 3) d a b) s

/-- ADDW: the low word of the sum, sign-extended (Table 4.1). -/
def execAddw (d a b : RSpec) (s : State) : Host.Outcome State Fault Refusal :=
  run (formAddw d a b) (alu aluAddw d a b) s

/-- SUBW (Table 4.1). -/
def execSubw (d a b : RSpec) (s : State) : Host.Outcome State Fault Refusal :=
  run (formSubw d a b) (alu aluSubw d a b) s

/-- MUL: product bits [63:0] (Table 4.2). -/
def execMul (d a b : RSpec) (l : BitVec 4) (s : State) : Host.Outcome State Fault Refusal :=
  run (formMul d a b l) (muldiv mulLow d a b l) s

/-- MULH: the high half, both signed (Table 4.2). -/
def execMulh (d a b : RSpec) (l : BitVec 4) (s : State) : Host.Outcome State Fault Refusal :=
  run (formMulh d a b l) (muldiv mulHigh d a b l) s

/-- MULHU: the high half, both unsigned (Table 4.2). -/
def execMulhu (d a b : RSpec) (l : BitVec 4) (s : State) : Host.Outcome State Fault Refusal :=
  run (formMulhu d a b l) (muldiv mulHighU d a b l) s

/-- MULHSU: the high half, a signed and b unsigned (Table 4.2). -/
def execMulhsu (d a b : RSpec) (l : BitVec 4) (s : State) : Host.Outcome State Fault Refusal :=
  run (formMulhsu d a b l) (muldiv mulHighSU d a b l) s

/-- DIV: signed quotient (R75). -/
def execDiv (d a b : RSpec) (l : BitVec 4) (s : State) : Host.Outcome State Fault Refusal :=
  run (formDiv d a b l) (muldiv divS d a b l) s

/-- DIVU: unsigned quotient (R75). -/
def execDivu (d a b : RSpec) (l : BitVec 4) (s : State) : Host.Outcome State Fault Refusal :=
  run (formDivu d a b l) (muldiv divU d a b l) s

/-- REM: signed remainder (R75). -/
def execRem (d a b : RSpec) (l : BitVec 4) (s : State) : Host.Outcome State Fault Refusal :=
  run (formRem d a b l) (muldiv remS d a b l) s

/-- REMU: unsigned remainder (R75). -/
def execRemu (d a b : RSpec) (l : BitVec 4) (s : State) : Host.Outcome State Fault Refusal :=
  run (formRemu d a b l) (muldiv remU d a b l) s

/-- CLZ (Table 4.4). -/
def execClz (d a : RSpec) (s : State) : Host.Outcome State Fault Refusal :=
  run (formClz d a) (unary bitsClz d a) s

/-- CTZ (Table 4.4). -/
def execCtz (d a : RSpec) (s : State) : Host.Outcome State Fault Refusal :=
  run (formCtz d a) (unary bitsCtz d a) s

/-- POPC (Table 4.4). -/
def execPopc (d a : RSpec) (s : State) : Host.Outcome State Fault Refusal :=
  run (formPopc d a) (unary bitsPopc d a) s

/-- BREV (Table 4.4). -/
def execBrev (d a : RSpec) (s : State) : Host.Outcome State Fault Refusal :=
  run (formBrev d a) (unary bitsBrev d a) s

/-- BSWAP (Table 4.4). -/
def execBswap (d a : RSpec) (s : State) : Host.Outcome State Fault Refusal :=
  run (formBswap d a) (unary bitsBswap d a) s

/-- SEXTB (Table 4.4). -/
def execSextb (d a : RSpec) (s : State) : Host.Outcome State Fault Refusal :=
  run (formSextb d a) (unary (sext · 8) d a) s

/-- SEXTH (Table 4.4). -/
def execSexth (d a : RSpec) (s : State) : Host.Outcome State Fault Refusal :=
  run (formSexth d a) (unary (sext · 16) d a) s

/-- SEXTW (Table 4.4). -/
def execSextw (d a : RSpec) (s : State) : Host.Outcome State Fault Refusal :=
  run (formSextw d a) (unary (sext · 32) d a) s

/-- EXTU (Table 4.5). -/
def execExtu (d a : RSpec) (pos len1 : BitVec 6) (s : State) : Host.Outcome State Fault Refusal :=
  run (formExtu d a pos len1) (unary (fieldU · pos.toNat (len1.toNat + 1)) d a) s

/-- EXTS (Table 4.5). -/
def execExts (d a : RSpec) (pos len1 : BitVec 6) (s : State) : Host.Outcome State Fault Refusal :=
  run (formExts d a pos len1) (unary (fieldS · pos.toNat (len1.toNat + 1)) d a) s

/-- A field of d replaced by a's low bits; d is read as well (R78). -/
def insert (d a : RSpec) (pos len : Nat) : M Flow := do
  let x ← readR a
  let old ← readR d
  andNext (writeR d (old.map2 (fieldIns · · pos len) x))

/-- INS (Table 4.5). -/
def execIns (d a : RSpec) (pos len1 : BitVec 6) (s : State) : Host.Outcome State Fault Refusal :=
  run (formIns d a pos len1) (insert d a pos.toNat (len1.toNat + 1)) s

/-- ADDI (Table 4.6). -/
def execAddi (d a : RSpec) (imm : BitVec 13) (s : State) : Host.Outcome State Fault Refusal :=
  run (formAddi d a imm) (unary (· + imm13 imm) d a) s

/-- ANDI (Table 4.6). -/
def execAndi (d a : RSpec) (imm : BitVec 13) (s : State) : Host.Outcome State Fault Refusal :=
  run (formAndi d a imm) (unary (· &&& imm13 imm) d a) s

/-- ORI (Table 4.6). -/
def execOri (d a : RSpec) (imm : BitVec 13) (s : State) : Host.Outcome State Fault Refusal :=
  run (formOri d a imm) (unary (· ||| imm13 imm) d a) s

/-- XORI (Table 4.6). -/
def execXori (d a : RSpec) (imm : BitVec 13) (s : State) : Host.Outcome State Fault Refusal :=
  run (formXori d a imm) (unary (· ^^^ imm13 imm) d a) s

/-- SLTI, signed (Table 4.6). -/
def execSlti (d a : RSpec) (imm : BitVec 13) (s : State) : Host.Outcome State Fault Refusal :=
  run (formSlti d a imm) (unary (aluSlt · (imm13 imm)) d a) s

/-- SLTUI, both read as unsigned (Table 4.6). -/
def execSltui (d a : RSpec) (imm : BitVec 13) (s : State) : Host.Outcome State Fault Refusal :=
  run (formSltui d a imm) (unary (aluSltu · (imm13 imm)) d a) s

/-- SHLI (R80). -/
def execShli (d a : RSpec) (sh : BitVec 6) (s : State) : Host.Outcome State Fault Refusal :=
  run (formShli d a sh) (unary (· <<< sh.toNat) d a) s

/-- SHRI, zeros in (R80). -/
def execShri (d a : RSpec) (sh : BitVec 6) (s : State) : Host.Outcome State Fault Refusal :=
  run (formShri d a sh) (unary (· >>> sh.toNat) d a) s

/-- SRAI, sign in (R80). -/
def execSrai (d a : RSpec) (sh : BitVec 6) (s : State) : Host.Outcome State Fault Refusal :=
  run (formSrai d a sh) (unary (·.sshiftRight sh.toNat) d a) s

/-- RORI: ROTL64(a, 64 − sh) (R80). -/
def execRori (d a : RSpec) (sh : BitVec 6) (s : State) : Host.Outcome State Fault Refusal :=
  run (formRori d a sh) (unary (rotl64 · (64 - sh.toNat)) d a) s

/-- LIH: Sext(imm19) << 13, taint and poison cleared (Table 4.7). -/
def execLih (d : RSpec) (imm : BitVec 19) (s : State) : Host.Outcome State Fault Refusal :=
  run (formLih d imm) (andNext (writeR d (.clean (imm19 imm <<< 13)))) s

/-- d shifted left by 19 with the immediate below; its own taint and poison stay (R81). -/
def lixBody (d : RSpec) (imm : BitVec 19) : M Flow := do
  let x ← readR d
  andNext (writeR d (x.map (fun v => (v <<< 19) ||| imm.setWidth 64)))

/-- LIX (Table 4.7). -/
def execLix (d : RSpec) (imm : BitVec 19) (s : State) : Host.Outcome State Fault Refusal :=
  run (formLix d imm) (lixBody d imm) s

/-- The instruction's address plus the immediate in halfwords, modulo 2^64 (R81). -/
def addpcBody (d : RSpec) (imm : BitVec 19) : M Flow := do
  let pc := (← getC).cur.pc
  andNext (writeR d (.clean (pc.setWidth 64 + imm19 imm * 2)))

/-- ADDPC (Table 4.7). -/
def execAddpc (d : RSpec) (imm : BitVec 19) (s : State) : Host.Outcome State Fault Refusal :=
  run (formAddpc d imm) (addpcBody d imm) s

end Sys2Proof.Machine
end

