-- ==== Sys2Proof/Machine/Dispatch.lean ====
section
/-! DEFINITION. The one dispatch from an instruction to its meaning. -/

namespace Sys2Proof.Machine

def exec (i : Instr) (s : State) : Host.Outcome State Fault Refusal :=
  match i with
  | .add d a b => Sys2Proof.Machine.execAdd d a b s
  | .sub d a b => Sys2Proof.Machine.execSub d a b s
  | .and d a b => Sys2Proof.Machine.execAnd d a b s
  | .or d a b => Sys2Proof.Machine.execOr d a b s
  | .xor d a b => Sys2Proof.Machine.execXor d a b s
  | .andn d a b => Sys2Proof.Machine.execAndn d a b s
  | .orn d a b => Sys2Proof.Machine.execOrn d a b s
  | .xnor d a b => Sys2Proof.Machine.execXnor d a b s
  | .shl d a b => Sys2Proof.Machine.execShl d a b s
  | .shr d a b => Sys2Proof.Machine.execShr d a b s
  | .sra d a b => Sys2Proof.Machine.execSra d a b s
  | .rol d a b => Sys2Proof.Machine.execRol d a b s
  | .ror d a b => Sys2Proof.Machine.execRor d a b s
  | .slt d a b => Sys2Proof.Machine.execSlt d a b s
  | .sltu d a b => Sys2Proof.Machine.execSltu d a b s
  | .seq d a b => Sys2Proof.Machine.execSeq d a b s
  | .sne d a b => Sys2Proof.Machine.execSne d a b s
  | .min d a b => Sys2Proof.Machine.execMin d a b s
  | .max d a b => Sys2Proof.Machine.execMax d a b s
  | .minu d a b => Sys2Proof.Machine.execMinu d a b s
  | .maxu d a b => Sys2Proof.Machine.execMaxu d a b s
  | .shadd1 d a b => Sys2Proof.Machine.execShadd1 d a b s
  | .shadd2 d a b => Sys2Proof.Machine.execShadd2 d a b s
  | .shadd3 d a b => Sys2Proof.Machine.execShadd3 d a b s
  | .addw d a b => Sys2Proof.Machine.execAddw d a b s
  | .subw d a b => Sys2Proof.Machine.execSubw d a b s
  | .mul d a b l => Sys2Proof.Machine.execMul d a b l s
  | .mulh d a b l => Sys2Proof.Machine.execMulh d a b l s
  | .mulhu d a b l => Sys2Proof.Machine.execMulhu d a b l s
  | .mulhsu d a b l => Sys2Proof.Machine.execMulhsu d a b l s
  | .div d a b l => Sys2Proof.Machine.execDiv d a b l s
  | .divu d a b l => Sys2Proof.Machine.execDivu d a b l s
  | .rem d a b l => Sys2Proof.Machine.execRem d a b l s
  | .remu d a b l => Sys2Proof.Machine.execRemu d a b l s
  | .clz d a => Sys2Proof.Machine.execClz d a s
  | .ctz d a => Sys2Proof.Machine.execCtz d a s
  | .popc d a => Sys2Proof.Machine.execPopc d a s
  | .brev d a => Sys2Proof.Machine.execBrev d a s
  | .bswap d a => Sys2Proof.Machine.execBswap d a s
  | .sextb d a => Sys2Proof.Machine.execSextb d a s
  | .sexth d a => Sys2Proof.Machine.execSexth d a s
  | .sextw d a => Sys2Proof.Machine.execSextw d a s
  | .extu d a pos len1 => Sys2Proof.Machine.execExtu d a pos len1 s
  | .exts d a pos len1 => Sys2Proof.Machine.execExts d a pos len1 s
  | .ins d a pos len1 => Sys2Proof.Machine.execIns d a pos len1 s
  | .addi d a imm => Sys2Proof.Machine.execAddi d a imm s
  | .andi d a imm => Sys2Proof.Machine.execAndi d a imm s
  | .ori d a imm => Sys2Proof.Machine.execOri d a imm s
  | .xori d a imm => Sys2Proof.Machine.execXori d a imm s
  | .slti d a imm => Sys2Proof.Machine.execSlti d a imm s
  | .sltui d a imm => Sys2Proof.Machine.execSltui d a imm s
  | .shli d a sh => Sys2Proof.Machine.execShli d a sh s
  | .shri d a sh => Sys2Proof.Machine.execShri d a sh s
  | .srai d a sh => Sys2Proof.Machine.execSrai d a sh s
  | .rori d a sh => Sys2Proof.Machine.execRori d a sh s
  | .lih d imm => Sys2Proof.Machine.execLih d imm s
  | .lix d imm => Sys2Proof.Machine.execLix d imm s
  | .addpc d imm => Sys2Proof.Machine.execAddpc d imm s
  | .beq a b off => Sys2Proof.Machine.execBeq a b off s
  | .bne a b off => Sys2Proof.Machine.execBne a b off s
  | .blt a b off => Sys2Proof.Machine.execBlt a b off s
  | .bge a b off => Sys2Proof.Machine.execBge a b off s
  | .bltu a b off => Sys2Proof.Machine.execBltu a b off s
  | .bgeu a b off => Sys2Proof.Machine.execBgeu a b off s
  | .bbs a bit off => Sys2Proof.Machine.execBbs a bit off s
  | .bbc a bit off => Sys2Proof.Machine.execBbc a bit off s
  | .j off => Sys2Proof.Machine.execJ off s
  | .jal off => Sys2Proof.Machine.execJal off s
  | .jalr d a imm => Sys2Proof.Machine.execJalr d a imm s
  | .loop c fin => Sys2Proof.Machine.execLoop c fin s
  | .rep n1 c vs => Sys2Proof.Machine.execRep n1 c vs s
  | .repBodyIssue => Sys2Proof.Machine.execRepBodyIssue s
  | .endAct => Sys2Proof.Machine.execEndAct s
  | .endAbort => Sys2Proof.Machine.execEndAbort s
  | .callat d a b => Sys2Proof.Machine.execCallat d a b s
  | .reply a => Sys2Proof.Machine.execReply a s
  | .spawn d a => Sys2Proof.Machine.execSpawn d a s
  | .spawnH d a => Sys2Proof.Machine.execSpawnH d a s
  | .wclaim d a => Sys2Proof.Machine.execWclaim d a s
  | .wrel a => Sys2Proof.Machine.execWrel a s
  | .apop d => Sys2Proof.Machine.execApop d s
  | .apush a => Sys2Proof.Machine.execApush a s
  | .nop => Sys2Proof.Machine.execNop s
  | .trap a => Sys2Proof.Machine.execTrap a s
  | .brk => Sys2Proof.Machine.execBrk s
  | .rte => Sys2Proof.Machine.execRte s
  | .idle => Sys2Proof.Machine.execIdle s
  | .ld t base off hint size l => Sys2Proof.Machine.execLd t base off hint size l s
  | .ldu t base off hint size l => Sys2Proof.Machine.execLdu t base off hint size l s
  | .st t base off hint size => Sys2Proof.Machine.execSt t base off hint size s
  | .ldv vt base off hint l => Sys2Proof.Machine.execLdv vt base off hint l s
  | .stv vt base off hint => Sys2Proof.Machine.execStv vt base off hint s
  | .zfill base off hint => Sys2Proof.Machine.execZfill base off hint s
  | .pref base off hint => Sys2Proof.Machine.execPref base off hint s
  | .l1inv => Sys2Proof.Machine.execL1inv s
  | .icinv a scope => Sys2Proof.Machine.execIcinv a scope s
  | .bankmode a b => Sys2Proof.Machine.execBankmode a b s
  | .bankq d => Sys2Proof.Machine.execBankq d s
  | .ldc t base off hint size l => Sys2Proof.Machine.execLdc t base off hint size l s
  | .lds t base off l => Sys2Proof.Machine.execLds t base off l s
  | .ldsE t base off l => Sys2Proof.Machine.execLdsE t base off l s
  | .stf t base off hint => Sys2Proof.Machine.execStf t base off hint s
  | .aadd d a size scope ord l => Sys2Proof.Machine.execAadd d a size scope ord l s
  | .aand d a size scope ord l => Sys2Proof.Machine.execAand d a size scope ord l s
  | .aor d a size scope ord l => Sys2Proof.Machine.execAor d a size scope ord l s
  | .axor d a size scope ord l => Sys2Proof.Machine.execAxor d a size scope ord l s
  | .amin d a size scope ord l => Sys2Proof.Machine.execAmin d a size scope ord l s
  | .amax d a size scope ord l => Sys2Proof.Machine.execAmax d a size scope ord l s
  | .aminu d a size scope ord l => Sys2Proof.Machine.execAminu d a size scope ord l s
  | .amaxu d a size scope ord l => Sys2Proof.Machine.execAmaxu d a size scope ord l s
  | .axchg d a size scope ord l => Sys2Proof.Machine.execAxchg d a size scope ord l s
  | .afadd d a size scope ord l => Sys2Proof.Machine.execAfadd d a size scope ord l s
  | .afmin d a size scope ord l => Sys2Proof.Machine.execAfmin d a size scope ord l s
  | .afmax d a size scope ord l => Sys2Proof.Machine.execAfmax d a size scope ord l s
  | .ald d a size scope ord l => Sys2Proof.Machine.execAld d a size scope ord l s
  | .ast d a size scope ord => Sys2Proof.Machine.execAst d a size scope ord s
  | .acas d a size scope ord l => Sys2Proof.Machine.execAcas d a size scope ord l s
  | .phase d => Sys2Proof.Machine.execPhase d s
  | .rel scope => Sys2Proof.Machine.execRel scope s
  | .acq => Sys2Proof.Machine.execAcq s
  | .fence => Sys2Proof.Machine.execFence s
  | .clrt d => Sys2Proof.Machine.execClrt d s
  | .phasen d => Sys2Proof.Machine.execPhasen d s
  | .vaddF d a b => Sys2Proof.Machine.execVaddF d a b s
  | .vsubF d a b => Sys2Proof.Machine.execVsubF d a b s
  | .vmulF d a b => Sys2Proof.Machine.execVmulF d a b s
  | .vfma d a b => Sys2Proof.Machine.execVfma d a b s
  | .vfms d a b => Sys2Proof.Machine.execVfms d a b s
  | .vmaxF d a b => Sys2Proof.Machine.execVmaxF d a b s
  | .vminF d a b => Sys2Proof.Machine.execVminF d a b s
  | .vnegF d a => Sys2Proof.Machine.execVnegF d a s
  | .vabsF d a => Sys2Proof.Machine.execVabsF d a s
  | .vrcp d a => Sys2Proof.Machine.execVrcp d a s
  | .vrsq d a => Sys2Proof.Machine.execVrsq d a s
  | .vrcps d a b => Sys2Proof.Machine.execVrcps d a b s
  | .vrsqs d a b => Sys2Proof.Machine.execVrsqs d a b s
  | .vexp2 d a => Sys2Proof.Machine.execVexp2 d a s
  | .vlog2 d a => Sys2Proof.Machine.execVlog2 d a s
  | .vclamp d a b => Sys2Proof.Machine.execVclamp d a b s
  | .vaddI d a b => Sys2Proof.Machine.execVaddI d a b s
  | .vsubI d a b => Sys2Proof.Machine.execVsubI d a b s
  | .vmulI d a b => Sys2Proof.Machine.execVmulI d a b s
  | .vmulh d a b => Sys2Proof.Machine.execVmulh d a b s
  | .vmad d a b => Sys2Proof.Machine.execVmad d a b s
  | .vmaxI d a b => Sys2Proof.Machine.execVmaxI d a b s
  | .vminI d a b => Sys2Proof.Machine.execVminI d a b s
  | .vabsI d a => Sys2Proof.Machine.execVabsI d a s
  | .vshl d a b => Sys2Proof.Machine.execVshl d a b s
  | .vshr d a b => Sys2Proof.Machine.execVshr d a b s
  | .vsra d a b => Sys2Proof.Machine.execVsra d a b s
  | .vadds d a b => Sys2Proof.Machine.execVadds d a b s
  | .vsubs d a b => Sys2Proof.Machine.execVsubs d a b s
  | .vmaxu d a b => Sys2Proof.Machine.execVmaxu d a b s
  | .vminu d a b => Sys2Proof.Machine.execVminu d a b s
  | .vnegI d a => Sys2Proof.Machine.execVnegI d a s
  | .vand d a b => Sys2Proof.Machine.execVand d a b s
  | .vor d a b => Sys2Proof.Machine.execVor d a b s
  | .vxor d a b => Sys2Proof.Machine.execVxor d a b s
  | .vandn d a b => Sys2Proof.Machine.execVandn d a b s
  | .vnot d a => Sys2Proof.Machine.execVnot d a s
  | .vmov d a => Sys2Proof.Machine.execVmov d a s
  | .vsel d a b => Sys2Proof.Machine.execVsel d a b s
  | .vpopc d a => Sys2Proof.Machine.execVpopc d a s
  | .vclz d a => Sys2Proof.Machine.execVclz d a s
  | .vceqF d a b => Sys2Proof.Machine.execVceqF d a b s
  | .vcneF d a b => Sys2Proof.Machine.execVcneF d a b s
  | .vcltF d a b => Sys2Proof.Machine.execVcltF d a b s
  | .vcleF d a b => Sys2Proof.Machine.execVcleF d a b s
  | .vcunF d a b => Sys2Proof.Machine.execVcunF d a b s
  | .vceqI d a b => Sys2Proof.Machine.execVceqI d a b s
  | .vcneI d a b => Sys2Proof.Machine.execVcneI d a b s
  | .vcltI d a b => Sys2Proof.Machine.execVcltI d a b s
  | .vcleI d a b => Sys2Proof.Machine.execVcleI d a b s
  | .vcltu d a b => Sys2Proof.Machine.execVcltu d a b s
  | .vcleu d a b => Sys2Proof.Machine.execVcleu d a b s
  | .mand d a b => Sys2Proof.Machine.execMand d a b s
  | .mor d a b => Sys2Proof.Machine.execMor d a b s
  | .mxor d a b => Sys2Proof.Machine.execMxor d a b s
  | .mnot d a => Sys2Proof.Machine.execMnot d a s
  | .mandn d a b => Sys2Proof.Machine.execMandn d a b s
  | .msel a => Sys2Proof.Machine.execMsel a s
  | .mpopc d a => Sys2Proof.Machine.execMpopc d a s
  | .mfirst d a => Sys2Proof.Machine.execMfirst d a s
  | .vcvtF32F16 d a p => Sys2Proof.Machine.execVcvtF32F16 d a p s
  | .vcvtF16F32 d a p => Sys2Proof.Machine.execVcvtF16F32 d a p s
  | .vcvtF32Bf16 d a p => Sys2Proof.Machine.execVcvtF32Bf16 d a p s
  | .vcvtBf16F32 d a p => Sys2Proof.Machine.execVcvtBf16F32 d a p s
  | .vcvtF32E4m3 d a p => Sys2Proof.Machine.execVcvtF32E4m3 d a p s
  | .vcvtE4m3F32 d a p => Sys2Proof.Machine.execVcvtE4m3F32 d a p s
  | .vcvtF32E5m2 d a p => Sys2Proof.Machine.execVcvtF32E5m2 d a p s
  | .vcvtE5m2F32 d a p => Sys2Proof.Machine.execVcvtE5m2F32 d a p s
  | .vcvtI32F32 d a => Sys2Proof.Machine.execVcvtI32F32 d a s
  | .vcvtF32I32 d a => Sys2Proof.Machine.execVcvtF32I32 d a s
  | .vcvtI16I32 d a p => Sys2Proof.Machine.execVcvtI16I32 d a p s
  | .vcvtI32I16 d a p => Sys2Proof.Machine.execVcvtI32I16 d a p s
  | .vcvtF32Cb4 d a p => Sys2Proof.Machine.execVcvtF32Cb4 d a p s
  | .vcvtCb4F32 d a p => Sys2Proof.Machine.execVcvtCb4F32 d a p s
  | .vcvtI8I32 d a p => Sys2Proof.Machine.execVcvtI8I32 d a p s
  | .vcvtI32I8 d a p => Sys2Proof.Machine.execVcvtI32I8 d a p s
  | .vbcast d a b => Sys2Proof.Machine.execVbcast d a b s
  | .vextr d a b => Sys2Proof.Machine.execVextr d a b s
  | .vins d a b => Sys2Proof.Machine.execVins d a b s
  | .vrot d a b => Sys2Proof.Machine.execVrot d a b s
  | .vshuf d a b => Sys2Proof.Machine.execVshuf d a b s
  | .vscan d a k => Sys2Proof.Machine.execVscan d a k s
  | .vredadd d a k => Sys2Proof.Machine.execVredadd d a k s
  | .vredmax d a k => Sys2Proof.Machine.execVredmax d a k s
  | .vredmin d a k => Sys2Proof.Machine.execVredmin d a k s
  | .viota d => Sys2Proof.Machine.execViota d s
  | .vzip d a b => Sys2Proof.Machine.execVzip d a b s
  | .vunzip d a b => Sys2Proof.Machine.execVunzip d a b s
  | .vaddFCompact d a => Sys2Proof.Machine.execVaddFCompact d a s
  | .vsubFCompact d a => Sys2Proof.Machine.execVsubFCompact d a s
  | .vmulFCompact d a => Sys2Proof.Machine.execVmulFCompact d a s
  | .vmaxFCompact d a => Sys2Proof.Machine.execVmaxFCompact d a s
  | .vminFCompact d a => Sys2Proof.Machine.execVminFCompact d a s
  | .vaddICompact d a => Sys2Proof.Machine.execVaddICompact d a s
  | .vsubICompact d a => Sys2Proof.Machine.execVsubICompact d a s
  | .vmaxICompact d a => Sys2Proof.Machine.execVmaxICompact d a s
  | .vminICompact d a => Sys2Proof.Machine.execVminICompact d a s
  | .vandCompact d a => Sys2Proof.Machine.execVandCompact d a s
  | .vorCompact d a => Sys2Proof.Machine.execVorCompact d a s
  | .vxorCompact d a => Sys2Proof.Machine.execVxorCompact d a s
  | .vmovCompact d a => Sys2Proof.Machine.execVmovCompact d a s
  | .vnegFCompact d a => Sys2Proof.Machine.execVnegFCompact d a s
  | .vabsFCompact d a => Sys2Proof.Machine.execVabsFCompact d a s
  | .vshlICompact d a => Sys2Proof.Machine.execVshlICompact d a s
  | .kadd kd ka kb => Sys2Proof.Machine.execKadd kd ka kb s
  | .ksub kd ka kb => Sys2Proof.Machine.execKsub kd ka kb s
  | .kmax kd ka kb => Sys2Proof.Machine.execKmax kd ka kb s
  | .kmin kd ka kb => Sys2Proof.Machine.execKmin kd ka kb s
  | .kmov kd ka => Sys2Proof.Machine.execKmov kd ka s
  | .kset kd r => Sys2Proof.Machine.execKset kd r s
  | .kfromv kd vr => Sys2Proof.Machine.execKfromv kd vr s
  | .ktov vr ka => Sys2Proof.Machine.execKtov vr ka s
  | .kbind kd tag r => Sys2Proof.Machine.execKbind kd tag r s
  | .kunbind tag => Sys2Proof.Machine.execKunbind tag s
  | .kgen r ka => Sys2Proof.Machine.execKgen r ka s
  | .ttset a b => Sys2Proof.Machine.execTtset a b s
  | .ttget d a => Sys2Proof.Machine.execTtget d a s
  | .ttinv a => Sys2Proof.Machine.execTtinv a s
  | .tcb a b => Sys2Proof.Machine.execTcb a b s
  | .tld kd tag a b l => Sys2Proof.Machine.execTld kd tag a b l s
  | .tst kd a b => Sys2Proof.Machine.execTst kd a b s
  | .kld kd r => Sys2Proof.Machine.execKld kd r s
  | .kst ka r => Sys2Proof.Machine.execKst ka r s
  | .ksave r => Sys2Proof.Machine.execKsave r s
  | .krestore r => Sys2Proof.Machine.execKrestore r s
  | .pcmd first sel => Sys2Proof.Machine.execPcmd first sel s
  | .pwait d a => Sys2Proof.Machine.execPwait d a s
  | .pfence => Sys2Proof.Machine.execPfence s
  | .pstat d => Sys2Proof.Machine.execPstat d s
  | .copy first sel => Sys2Proof.Machine.execCopy first sel s
  | .bseal d => Sys2Proof.Machine.execBseal d s
  | .bdrain d a => Sys2Proof.Machine.execBdrain d a s
  | .cwptr d a => Sys2Proof.Machine.execCwptr d a s
  | .ctake d a l => Sys2Proof.Machine.execCtake d a l s
  | .cgive d a l => Sys2Proof.Machine.execCgive d a l s
  | .csum d a l => Sys2Proof.Machine.execCsum d a l s
  | .creset d a l => Sys2Proof.Machine.execCreset d a l s
  | .barv d a => Sys2Proof.Machine.execBarv d a s
  | .barw a b => Sys2Proof.Machine.execBarw a b s
  | .barg d a => Sys2Proof.Machine.execBarg d a s
  | .barp d a => Sys2Proof.Machine.execBarp d a s
  | .msend d a b => Sys2Proof.Machine.execMsend d a b s
  | .mpoll d => Sys2Proof.Machine.execMpoll d s
  | .winrd d ch => Sys2Proof.Machine.execWinrd d ch s
  | .srd d num => Sys2Proof.Machine.execSrd d num s
  | .swr d num => Sys2Proof.Machine.execSwr d num s
  | .crd d a => Sys2Proof.Machine.execCrd d a s
  | .dacc d a => Sys2Proof.Machine.execDacc d a s
  | .trcm a => Sys2Proof.Machine.execTrcm a s
  | .tlbinv a b => Sys2Proof.Machine.execTlbinv a b s
  | .errinj a b => Sys2Proof.Machine.execErrinj a b s
  | .retry => Sys2Proof.Machine.execRetry s
  | .skip => Sys2Proof.Machine.execSkip s
  | .flush => Sys2Proof.Machine.execFlush s
  | .ovClear => Sys2Proof.Machine.execOvClear s
  | .loadw fmt tag tagh tv addr stride => Sys2Proof.Machine.execLoadw fmt tag tagh tv addr stride s
  | .flip => Sys2Proof.Machine.execFlip s
  | .stream fmt tag tv acc row0 m addr stride => Sys2Proof.Machine.execStream fmt tag tv acc row0 m addr stride s
  | .streamt fmt tag tv acc row0 m addr stride => Sys2Proof.Machine.execStreamt fmt tag tv acc row0 m addr stride s
  | .tload fmt row0 m addr stride => Sys2Proof.Machine.execTload fmt row0 m addr stride s
  | .tloadt fmt row0 m addr stride => Sys2Proof.Machine.execTloadt fmt row0 m addr stride s
  | .tdrain fmt clr row0 m addr stride addr2 => Sys2Proof.Machine.execTdrain fmt clr row0 m addr stride addr2 s
  | .tzero row0 m => Sys2Proof.Machine.execTzero row0 m s
  | .pmode narrow integer => Sys2Proof.Machine.execPmode narrow integer s
  | .ptable addr addr2 => Sys2Proof.Machine.execPtable addr addr2 s
  | .pmark inc => Sys2Proof.Machine.execPmark inc s
  | .psave addr => Sys2Proof.Machine.execPsave addr s
  | .prestore addr => Sys2Proof.Machine.execPrestore addr s
  | .pressFault => Sys2Proof.Machine.execPressFault s
  | .pressRetire slot => Sys2Proof.Machine.execPressRetire slot s
  | .rampWindow cluster => Sys2Proof.Machine.execRampWindow cluster s
  | .powerReport watts => Sys2Proof.Machine.execPowerReport watts s
  | .messageArrival src k => Sys2Proof.Machine.execMessageArrival src k s
  | .activationStart => Sys2Proof.Machine.execActivationStart s
  | .activationResume => Sys2Proof.Machine.execActivationResume s
  | .actorFiring actor => Sys2Proof.Machine.execActorFiring actor s
  | .tokenWrite k => Sys2Proof.Machine.execTokenWrite k s
  | .replyWrite k => Sys2Proof.Machine.execReplyWrite k s
  | .channelDwordArrival k => Sys2Proof.Machine.execChannelDwordArrival k s
  | .channelCredit k => Sys2Proof.Machine.execChannelCredit k s
  | .loadResponse uid delay => Sys2Proof.Machine.execLoadResponse uid delay s
  | .storeAck core k => Sys2Proof.Machine.execStoreAck core k s
  | .phasedStoreInstall core k => Sys2Proof.Machine.execPhasedStoreInstall core k s
  | .sliceRead uid => Sys2Proof.Machine.execSliceRead uid s
  | .forcing k => Sys2Proof.Machine.execForcing k s
  | .atomicExecute uid => Sys2Proof.Machine.execAtomicExecute uid s
  | .balancerArrival k => Sys2Proof.Machine.execBalancerArrival k s
  | .exitCounterAct k => Sys2Proof.Machine.execExitCounterAct k s
  | .csumArrival uid => Sys2Proof.Machine.execCsumArrival uid s
  | .cresetClosure uid => Sys2Proof.Machine.execCresetClosure uid s
  | .cresetReopen ctx handle => Sys2Proof.Machine.execCresetReopen ctx handle s
  | .cellError ctx net => Sys2Proof.Machine.execCellError ctx net s
  | .barrierExit k => Sys2Proof.Machine.execBarrierExit k s
  | .barrierComplete ctx bar => Sys2Proof.Machine.execBarrierComplete ctx bar s
  | .copyRowWrite cluster ch => Sys2Proof.Machine.execCopyRowWrite cluster ch s
  | .copyRowArrival k => Sys2Proof.Machine.execCopyRowArrival k s
  | .copyEnd cluster ch => Sys2Proof.Machine.execCopyEnd cluster ch s
  | .packetConsume ctx q => Sys2Proof.Machine.execPacketConsume ctx q s
  | .nopPacket ctx q => Sys2Proof.Machine.execNopPacket ctx q s
  | .launch ctx q => Sys2Proof.Machine.execLaunch ctx q s
  | .copyPacket ctx q => Sys2Proof.Machine.execCopyPacket ctx q s
  | .signalStore ctx q => Sys2Proof.Machine.execSignalStore ctx q s
  | .signalAdd ctx q => Sys2Proof.Machine.execSignalAdd ctx q s
  | .signalStoreFull ctx q => Sys2Proof.Machine.execSignalStoreFull ctx q s
  | .wait ctx q => Sys2Proof.Machine.execWait ctx q s
  | .waitRetest ctx q => Sys2Proof.Machine.execWaitRetest ctx q s
  | .kernelEligibilityTest ctx kid => Sys2Proof.Machine.execKernelEligibilityTest ctx kid s
  | .ageTick ctx kid => Sys2Proof.Machine.execAgeTick ctx kid s
  | .cohortPlace part => Sys2Proof.Machine.execCohortPlace part s
  | .cohortStart ctx kid cohort => Sys2Proof.Machine.execCohortStart ctx kid cohort s
  | .cohortEnd ctx kid cohort => Sys2Proof.Machine.execCohortEnd ctx kid cohort s
  | .kernelComplete ctx kid => Sys2Proof.Machine.execKernelComplete ctx kid s
  | .trapDelivery cause tval => Sys2Proof.Machine.execTrapDelivery cause tval s
  | .redelivery => Sys2Proof.Machine.execRedelivery s
  | .coreErr site => Sys2Proof.Machine.execCoreErr site s
  | .tailcntWrite queue => Sys2Proof.Machine.execTailcntWrite queue s
  | .corePreemptStop core => Sys2Proof.Machine.execCorePreemptStop core s
  | .corePreemptAck core => Sys2Proof.Machine.execCorePreemptAck core s
  | .copyOut part => Sys2Proof.Machine.execCopyOut part s
  | .checkRunStart k => Sys2Proof.Machine.execCheckRunStart k s
  | .checkTimeout k => Sys2Proof.Machine.execCheckTimeout k s
  | .checkVerdict k => Sys2Proof.Machine.execCheckVerdict k s
  | .tiebreakStart k => Sys2Proof.Machine.execTiebreakStart k s
  | .patrolRead part pa => Sys2Proof.Machine.execPatrolRead part pa s
  | .pageWalk part va => Sys2Proof.Machine.execPageWalk part va s
  | .takeWindowRead part requester offset size => Sys2Proof.Machine.execTakeWindowRead part requester offset size s
  | .takeWindowWrite part requester offset => Sys2Proof.Machine.execTakeWindowWrite part requester offset s
  | .takeReadTimeout uid => Sys2Proof.Machine.execTakeReadTimeout uid s
  | .hostActiveMessage part requester bytes => Sys2Proof.Machine.execHostActiveMessage part requester bytes s
  | .hostPostedWrite part requester pa bytes => Sys2Proof.Machine.execHostPostedWrite part requester pa bytes s
  | .unsupportedRequest part offset => Sys2Proof.Machine.execUnsupportedRequest part offset s
  | .counterLowRead part counter => Sys2Proof.Machine.execCounterLowRead part counter s
  | .peerAccess part op => Sys2Proof.Machine.execPeerAccess part op s
  | .flitReplay port exhausted => Sys2Proof.Machine.execFlitReplay port exhausted s
  | .laneTrained port lanes => Sys2Proof.Machine.execLaneTrained port lanes s
  | .trainingTimeout port => Sys2Proof.Machine.execTrainingTimeout port s
  | .laneFailure port => Sys2Proof.Machine.execLaneFailure port s
  | .ethernetFrame port ok bytes => Sys2Proof.Machine.execEthernetFrame port ok bytes s
  | .routerDrop part dest => Sys2Proof.Machine.execRouterDrop part dest s
  | .create part => Sys2Proof.Machine.execCreate part s
  | .destroy part ctx => Sys2Proof.Machine.execDestroy part ctx s
  | .preempt part ctx => Sys2Proof.Machine.execPreempt part ctx s
  | .restore part ctx => Sys2Proof.Machine.execRestore part ctx s
  | .qcreate part ctx => Sys2Proof.Machine.execQcreate part ctx s
  | .qdestroy part ctx q => Sys2Proof.Machine.execQdestroy part ctx q s
  | .qreset part ctx q => Sys2Proof.Machine.execQreset part ctx q s
  | .stop part => Sys2Proof.Machine.execStop part s
  | .coreStopped core => Sys2Proof.Machine.execCoreStopped core s
  | .resume part => Sys2Proof.Machine.execResume part s
  | .corerwRead part => Sys2Proof.Machine.execCorerwRead part s
  | .corerwWrite part => Sys2Proof.Machine.execCorerwWrite part s
  | .setparam part ctx param firmware => Sys2Proof.Machine.execSetparam part ctx param firmware s
  | .watch part => Sys2Proof.Machine.execWatch part s
  | .qrelease part => Sys2Proof.Machine.execQrelease part s
  | .route part => Sys2Proof.Machine.execRoute part s
  | .dmawin part => Sys2Proof.Machine.execDmawin part s
  | .allot => Sys2Proof.Machine.execAllot s
  | .rect => Sys2Proof.Machine.execRect s
  | .portctlDisable port => Sys2Proof.Machine.execPortctlDisable port s
  | .portctlEnable port => Sys2Proof.Machine.execPortctlEnable port s
  | .portctlQuarantine port => Sys2Proof.Machine.execPortctlQuarantine port s
  | .portctlRelease port => Sys2Proof.Machine.execPortctlRelease port s
  | .mgmtRegisterWrite win offset value => Sys2Proof.Machine.execMgmtRegisterWrite win offset value s
  | .deviceReset => Sys2Proof.Machine.execDeviceReset s
  | .bootStage image => Sys2Proof.Machine.execBootStage image s
  | .measurementExtend mr digest => Sys2Proof.Machine.execMeasurementExtend mr digest s
  | .recoveryImage image => Sys2Proof.Machine.execRecoveryImage image s
  | .attestationRequest fn part nonce bind => Sys2Proof.Machine.execAttestationRequest fn part nonce bind s
  | .keyDelivery part key more => Sys2Proof.Machine.execKeyDelivery part key more s
  | .thermalTrip die => Sys2Proof.Machine.execThermalTrip die s
  | .directWriteArrival core k => Sys2Proof.Machine.execDirectWriteArrival core k s
  | .fillerOperationEnd core => Sys2Proof.Machine.execFillerOperationEnd core s
  | .qslotSectionLoad part pa bytes => Sys2Proof.Machine.execQslotSectionLoad part pa bytes s
  | .cmdWriteRejected win cmd => Sys2Proof.Machine.execCmdWriteRejected win cmd s

end Sys2Proof.Machine
end

