-- ==== Sys2Proof/Machine/Issue.lean ====
section
/-! DEFINITION. What each instruction that a word decodes to does (R29, R46): the meanings in the place of the
instructions, so that decoding a word and running it are one reading of it. -/

namespace Sys2Proof.Machine

/-- The meanings, instruction by instruction. -/
def execInterp : Interp (State → Host.Outcome State Fault Refusal) where
  add := execAdd
  sub := execSub
  and := execAnd
  or := execOr
  xor := execXor
  andn := execAndn
  orn := execOrn
  xnor := execXnor
  shl := execShl
  shr := execShr
  sra := execSra
  rol := execRol
  ror := execRor
  slt := execSlt
  sltu := execSltu
  seq := execSeq
  sne := execSne
  min := execMin
  max := execMax
  minu := execMinu
  maxu := execMaxu
  shadd1 := execShadd1
  shadd2 := execShadd2
  shadd3 := execShadd3
  addw := execAddw
  subw := execSubw
  mul := execMul
  mulh := execMulh
  mulhu := execMulhu
  mulhsu := execMulhsu
  div := execDiv
  divu := execDivu
  rem := execRem
  remu := execRemu
  clz := execClz
  ctz := execCtz
  popc := execPopc
  brev := execBrev
  bswap := execBswap
  sextb := execSextb
  sexth := execSexth
  sextw := execSextw
  extu := execExtu
  exts := execExts
  ins := execIns
  addi := execAddi
  andi := execAndi
  ori := execOri
  xori := execXori
  slti := execSlti
  sltui := execSltui
  shli := execShli
  shri := execShri
  srai := execSrai
  rori := execRori
  lih := execLih
  lix := execLix
  addpc := execAddpc
  beq := execBeq
  bne := execBne
  blt := execBlt
  bge := execBge
  bltu := execBltu
  bgeu := execBgeu
  bbs := execBbs
  bbc := execBbc
  j := execJ
  jal := execJal
  jalr := execJalr
  loop := execLoop
  rep := execRep
  endAct := execEndAct
  endAbort := execEndAbort
  callat := execCallat
  reply := execReply
  spawn := execSpawn
  spawnH := execSpawnH
  wclaim := execWclaim
  wrel := execWrel
  apop := execApop
  apush := execApush
  nop := execNop
  trap := execTrap
  brk := execBrk
  rte := execRte
  idle := execIdle
  ld := execLd
  ldu := execLdu
  st := execSt
  ldv := execLdv
  stv := execStv
  zfill := execZfill
  pref := execPref
  l1inv := execL1inv
  icinv := execIcinv
  bankmode := execBankmode
  bankq := execBankq
  ldc := execLdc
  lds := execLds
  ldsE := execLdsE
  stf := execStf
  aadd := execAadd
  aand := execAand
  aor := execAor
  axor := execAxor
  amin := execAmin
  amax := execAmax
  aminu := execAminu
  amaxu := execAmaxu
  axchg := execAxchg
  afadd := execAfadd
  afmin := execAfmin
  afmax := execAfmax
  ald := execAld
  ast := execAst
  acas := execAcas
  phase := execPhase
  rel := execRel
  acq := execAcq
  fence := execFence
  clrt := execClrt
  phasen := execPhasen
  vaddF := execVaddF
  vsubF := execVsubF
  vmulF := execVmulF
  vfma := execVfma
  vfms := execVfms
  vmaxF := execVmaxF
  vminF := execVminF
  vnegF := execVnegF
  vabsF := execVabsF
  vrcp := execVrcp
  vrsq := execVrsq
  vrcps := execVrcps
  vrsqs := execVrsqs
  vexp2 := execVexp2
  vlog2 := execVlog2
  vclamp := execVclamp
  vaddI := execVaddI
  vsubI := execVsubI
  vmulI := execVmulI
  vmulh := execVmulh
  vmad := execVmad
  vmaxI := execVmaxI
  vminI := execVminI
  vabsI := execVabsI
  vshl := execVshl
  vshr := execVshr
  vsra := execVsra
  vadds := execVadds
  vsubs := execVsubs
  vmaxu := execVmaxu
  vminu := execVminu
  vnegI := execVnegI
  vand := execVand
  vor := execVor
  vxor := execVxor
  vandn := execVandn
  vnot := execVnot
  vmov := execVmov
  vsel := execVsel
  vpopc := execVpopc
  vclz := execVclz
  vceqF := execVceqF
  vcneF := execVcneF
  vcltF := execVcltF
  vcleF := execVcleF
  vcunF := execVcunF
  vceqI := execVceqI
  vcneI := execVcneI
  vcltI := execVcltI
  vcleI := execVcleI
  vcltu := execVcltu
  vcleu := execVcleu
  mand := execMand
  mor := execMor
  mxor := execMxor
  mnot := execMnot
  mandn := execMandn
  msel := execMsel
  mpopc := execMpopc
  mfirst := execMfirst
  vcvtF32F16 := execVcvtF32F16
  vcvtF16F32 := execVcvtF16F32
  vcvtF32Bf16 := execVcvtF32Bf16
  vcvtBf16F32 := execVcvtBf16F32
  vcvtF32E4m3 := execVcvtF32E4m3
  vcvtE4m3F32 := execVcvtE4m3F32
  vcvtF32E5m2 := execVcvtF32E5m2
  vcvtE5m2F32 := execVcvtE5m2F32
  vcvtI32F32 := execVcvtI32F32
  vcvtF32I32 := execVcvtF32I32
  vcvtI16I32 := execVcvtI16I32
  vcvtI32I16 := execVcvtI32I16
  vcvtF32Cb4 := execVcvtF32Cb4
  vcvtCb4F32 := execVcvtCb4F32
  vcvtI8I32 := execVcvtI8I32
  vcvtI32I8 := execVcvtI32I8
  vbcast := execVbcast
  vextr := execVextr
  vins := execVins
  vrot := execVrot
  vshuf := execVshuf
  vscan := execVscan
  vredadd := execVredadd
  vredmax := execVredmax
  vredmin := execVredmin
  viota := execViota
  vzip := execVzip
  vunzip := execVunzip
  vaddFCompact := execVaddFCompact
  vsubFCompact := execVsubFCompact
  vmulFCompact := execVmulFCompact
  vmaxFCompact := execVmaxFCompact
  vminFCompact := execVminFCompact
  vaddICompact := execVaddICompact
  vsubICompact := execVsubICompact
  vmaxICompact := execVmaxICompact
  vminICompact := execVminICompact
  vandCompact := execVandCompact
  vorCompact := execVorCompact
  vxorCompact := execVxorCompact
  vmovCompact := execVmovCompact
  vnegFCompact := execVnegFCompact
  vabsFCompact := execVabsFCompact
  vshlICompact := execVshlICompact
  kadd := execKadd
  ksub := execKsub
  kmax := execKmax
  kmin := execKmin
  kmov := execKmov
  kset := execKset
  kfromv := execKfromv
  ktov := execKtov
  kbind := execKbind
  kunbind := execKunbind
  kgen := execKgen
  ttset := execTtset
  ttget := execTtget
  ttinv := execTtinv
  tcb := execTcb
  tld := execTld
  tst := execTst
  kld := execKld
  kst := execKst
  ksave := execKsave
  krestore := execKrestore
  pcmd := execPcmd
  pwait := execPwait
  pfence := execPfence
  pstat := execPstat
  copy := execCopy
  bseal := execBseal
  bdrain := execBdrain
  cwptr := execCwptr
  ctake := execCtake
  cgive := execCgive
  csum := execCsum
  creset := execCreset
  barv := execBarv
  barw := execBarw
  barg := execBarg
  barp := execBarp
  msend := execMsend
  mpoll := execMpoll
  winrd := execWinrd
  srd := execSrd
  swr := execSwr
  crd := execCrd
  dacc := execDacc
  trcm := execTrcm
  tlbinv := execTlbinv
  errinj := execErrinj

/-- What the instruction with an encoding does; none for an encoding that names no instruction. -/
def runWord (w : Nat) : Option (State → Host.Outcome State Fault Refusal) :=
  if w % 2 = 0 then readCompact execInterp w else readWord execInterp w

end Sys2Proof.Machine
end

