-- ==== Sys2Proof/Machine/Turn.lean ====
section
/-! DEFINITION. The turns of a run: the integer pipeline of the core in focus, the agents beside it, and which of them
comes next when the agenda is empty (log entry 1). -/

namespace Sys2Proof.Machine

/-- The answer of a step. -/
abbrev Out := Host.Outcome State Fault Refusal

/-! ## The integer pipeline -/

/-- A fault of the fetch at the running activation's address (R29, R361). -/
def State.fetchFault (s : State) (b : Bad) (va : Nat) : State :=
  s.takeTrap { cause := b.cause, tval := .ofNat 64 va, spec := 0, major := none, epc := none, buf := false } s.core.cur.pc 0

/-- An encoding that is no instruction takes ILL (R48). -/
def State.illegal (s : State) (w : Nat) : State :=
  s.takeTrap { cause := cILL, tval := .ofNat 64 w, spec := 0, major := none, epc := none, buf := false } s.core.cur.pc 0

/-- The instruction at the PC is fetched and runs. -/
def State.runNext (s : State) : Out :=
  match s.codeWord s.core.cur.pc.toNat with
  | (.bad b va, s) => .next (s.fetchFault b va)
  | (.word w, s) => match runWord w with
    | none => .next (s.illegal w)
    | some f => f s

/-- A loop's end test that is due comes before the next instruction; one that must wait stalls (R86). -/
def State.dueTests (s : State) : State :=
  let t := s.endTests 3
  if t.core.testDue && t.core.cur.loops.length == s.core.cur.loops.length then s.stall else t

/-- The integer pipeline of the core in focus: the fault of a stopped press (R211), an end test that is due, or the
next instruction. -/
def State.integerTurn (s : State) : Out :=
  if !s.mayIssue then .next s
  else match s.core.pressFault with
    | some t =>
      let p := { s.core.press with faultTaken := true }
      .next (State.takeTrap { s with core := { s.core with press := p } } t s.core.cur.pc 0)
    | none => if s.core.testDue then .next s.dueTests else s.runNext

/-! ## The agents beside it -/

/-- The press of the core in focus starts the command at NEXT, or stops (R210, R211). -/
def State.pressTurn (s : State) : Out :=
  match s.readNext with
  | none => nothing s
  | some (_, .error _, _) => execPressFault s
  | some (_, .ok c, _) => match c with
    | .loadw f t h v a x => execLoadw f t h v a x s
    | .flip => execFlip s
    | .stream f t v acc r m a x => execStream f t v acc r m a x s
    | .streamt f t v acc r m a x => execStreamt f t v acc r m a x s
    | .tload f r m a x => execTload f r m a x s
    | .tloadt f r m a x => execTloadt f r m a x s
    | .tdrain f c r m a x b => execTdrain f c r m a x b s
    | .tzero r m => execTzero r m s
    | .pmode n i => execPmode n i s
    | .ptable a b => execPtable a b s
    | .pmark i => execPmark i s
    | .psave a => execPsave a s
    | .prestore a => execPrestore a s

/-- A step of another core: it comes into focus. -/
def at_ (core : Nat) (f : State → Out) (s : State) : Out := f (s.refocus core)

/-- What may happen to requests and stores under way. A response's delay is a free value (R398; log entry 8). -/
def State.memoryEvents (s : State) : List (State → Out) :=
  let delay := (Config.freeWord s.free).toNat % 4096
  s.reqs.flatMap (fun r => [execSliceRead r.uid, execAtomicExecute r.uid, execPeerAccess 0 (.carried r.uid),
    fun s => execLoadResponse r.uid delay { s with free := s.free + 1 }]) ++
  s.liveCores.flatMap (fun i => (s.coreOf i).storeBuf.zipIdx.flatMap (fun (b, k) =>
    [execPhasedStoreInstall i k, execDirectWriteArrival i k, execPeerAccess 0 (.carried b.op.seq), execStoreAck i k])) ++
  (List.range s.rowWrites.length).flatMap (fun k => [execCopyRowArrival k, execDirectWriteArrival 16384 k]) ++
  (List.range s.ripening.length).map execForcing

/-- What may happen on the way between cores and in the fabric. -/
def State.fabricEvents (s : State) : List (State → Out) :=
  s.liveCores.flatMap (fun i => (List.range (s.coreOf i).outbox.length).map (execMessageArrival i)) ++
  (List.range s.parcels.length).flatMap (fun k =>
    [execMessageArrival 16384 k, execTokenWrite k, execReplyWrite k, execChannelDwordArrival k, execChannelCredit k]) ++
  (List.range s.tokens.length).flatMap (fun k => [execBalancerArrival k, execExitCounterAct k, execBarrierExit k]) ++
  s.cellReqs.flatMap (fun r => [execCsumArrival r.uid, execCresetClosure r.uid]) ++
  s.counters.map (fun c => execCresetReopen c.ctx c.handle) ++
  s.barriers.map (fun b => execBarrierComplete b.ctx b.id)

/-- What may happen on a core beside its instructions. -/
def State.coreEvents (s : State) : List (State → Out) :=
  s.liveCores.flatMap (fun i =>
    [at_ i State.pressTurn] ++
    (List.range 16).map (fun k => at_ i (execPressRetire (.ofNat 4 k))) ++
    [execFillerOperationEnd i, at_ i execRedelivery, at_ i execActivationStart, at_ i execActivationResume] ++
    (List.range (s.coreOf i).actors.length).map (fun a => at_ i (execActorFiring a)) ++
    [execCoreStopped i, execCorePreemptStop i, execCorePreemptAck i])

/-- What may happen in the copy engines and the dispatcher. -/
def State.engineEvents (s : State) : List (State → Out) :=
  s.channels.flatMap (fun c => [execCopyRowWrite c.cluster c.ch, execCopyEnd c.cluster c.ch]) ++
  s.queues.flatMap (fun q => [execPacketConsume, execNopPacket, execLaunch, execCopyPacket, execSignalStore, execSignalAdd,
    execSignalStoreFull, execWait, execWaitRetest].map (fun f => f q.ctx q.num)) ++
  s.kernels.map (fun k => execKernelEligibilityTest k.ctx k.kid.toNat) ++
  (List.range 16).map execCohortPlace ++
  s.cohorts.flatMap (fun c => [execCohortStart c.ctx c.kid.toNat c.index, execCohortEnd c.ctx c.kid.toNat c.index]) ++
  s.kernels.map (fun k => execKernelComplete k.ctx k.kid.toNat) ++
  (List.range 16).map execCopyOut ++ (List.range 16).map State.restoreTurn ++
  s.checks.flatMap (fun k => [execCheckVerdict k.uid, execTiebreakStart k.uid, execCheckRunStart k.uid]) ++
  (FqId.management :: s.contexts.map (fun c => FqId.context c.id)).map execTailcntWrite ++
  s.kernels.map (fun k => execAgeTick k.ctx k.kid.toNat)

/-- The first of some events that changes the state. -/
def firstChange (s : State) : List (State → Out) → Option State
  | [] => none
  | f :: fs => match f s with
    | .next t => if t = s then firstChange s fs else some t
    | .fault _ | .refused _ => firstChange s fs

/-- The first agent that has something to do. -/
def State.agents (s : State) : Option State :=
  firstChange s s.memoryEvents <|> firstChange s s.fabricEvents <|> firstChange s s.coreEvents <|>
    firstChange s s.engineEvents

/-! ## Whose turn it is -/

/-- Whether a core has an instruction or a body instruction to issue. -/
def Core.runnable (c : Core) : Bool :=
  c.active && !c.frozen && (!c.stalled || (c.cur.rep.isSome && !c.bufStalled))

/-- The next core after the one in focus that has something to issue, in turn. -/
def State.nextCore (s : State) : Option Nat :=
  let ids := (s.others.filter (fun c => c.runnable && s.mayRun c.id)).map (·.id)
  match ids.find? (fun i => decide (s.core.id < i)) with
  | some i => some i
  | none => ids.head?

/-- The core in focus has its turn: its repetition buffer, then its integer pipeline; none when neither issues. -/
def State.coreTurn (s : State) : Option Out :=
  let s := s.suspend
  if !(s.core.runnable && s.mayRun s.core.id) then none
  else if s.core.cur.rep.isSome && !s.core.bufStalled then some (execRepBodyIssue s)
  else some s.integerTurn

/-- The turn when the agenda is empty: seven of eight go to the core in focus and one to the agents or, every other
time, to another core; whoever has nothing to do gives way. -/
def State.freeTurn (s : State) (n : Nat) : Out :=
  let agents : Option Out := s.agents.map .next
  let other : Option Out := s.nextCore.map (fun i => .next (s.refocus i))
  let first : Option Out := if n % 16 = 15 then other else if n % 8 = 7 then agents else none
  (first <|> s.coreTurn <|> agents <|> other).getD (.next s)

/-- The turn at the head of the agenda. -/
def State.turn (s : State) (t : Turn) : Out :=
  match t with
  | .event i => if i.len = 0 then exec i s else .fault .notAnEvent
  | .integer => State.integerTurn s.suspend
  | .focus core => .next (s.refocus core)

/-- What the dispatchers see at once, before anything else happens: a queue slot that has become full or empty, and a
write to a line that a kernel or a queue waits on (R272, R282, R326). -/
def State.notice (s : State) : State := s.noticeSlots.noticeWrites.noticeWaits

/-- The shared counters of every partition are noted with the time (R346). -/
def State.noteCounters (s : State) : State := { s with partitions := s.partitions.map (·.note s.ts.toNat) }

/-- The clock moves on by a free amount (R20; log entry 9), and the core in focus writes one trace record that is due
(R401). -/
def State.tickClock (s : State) : State :=
  let s := s.noteCounters
  State.drainTrace { s with ts := s.ts + .ofNat 64 (Config.elapsed s.free), free := s.free + 1 }

/-- What comes before every turn. -/
def State.clock (s : State) : State := s.notice.tickClock

end Sys2Proof.Machine
end

