-- ==== Sys2Proof/Machine/Place.lean ====
section
/-! DEFINITION. Placing an instruction where the core in focus fetches next: what a load of a context, a kernel and a
message would have set (log entry 34). -/

namespace Sys2Proof.Machine

/-- What a core needs of a kernel to run code of a context: all registers, and no actors. -/
def KernInfo.plain (ctx part core : Nat) : KernInfo :=
  { ctx := ctx, part := part, kid := 0, cohort := 0, group := 0, groups := 1, gx := 1, gy := 1, rx := 0, ry := 0, regs := 32
    wsmax := 64, msgGranules := 8, hiSlot := 16, loSlot := 24, actors := [], peers := [core], mates := [core]
    parties := List.replicate 14 0, hold := false, loadedAt := 0 }

/-- A context with nothing in it. -/
def Context.plain (id part : Nat) : Context :=
  { id := id, part := part, st := .active, desc := List.replicate 8 0, cntpol := 0, checkrate := 0, tail := 0, lost := 0
    pendingTail := [], traceBase := 0, traceLog := 0, traceNext := 0, corrected := 0, latch := 0, saved := none }

/-- The core in focus belongs to a partition. -/
def State.placePart (s : State) : State :=
  if (s.partOf s.core.id).isSome then s
  else s.modPart 0 (fun p => { p with first := granuleOf (clusterOf s.core.id), across := 1, rows := 1 })

/-- The core in focus serves a kernel of a context that is ACTIVE. -/
def State.placeKernel (s : State) : State :=
  let p := s.myPart
  let id := if (s.core.kern <|> s.core.checkKern).isSome then s.myCtx else ((s.activeCtx p).map (·.id)).getD 1
  let s := if (s.ctx? id).isSome then s else { s with contexts := s.contexts ++ [Context.plain id p] }
  { s with core := { s.core with kern := s.core.kern <|> some (.plain id p s.core.id) } }

/-- An activation runs on the core in focus and can issue: nothing it waits for, no fault or end test due. -/
def State.placeThread (s : State) : State :=
  let c := s.core
  let c := if c.active then c else { c with
    active := true, curHi := false
    cur := { Thread.blank with
      pc := 0x10000, act := { Act.blank with uid := s.uid, entry := 0x10000, wp := 0x600, slot := 8, revocable := true } } }
  { s with
    uid := s.uid + 1
    core := { c with
      hq := [], frozen := false, stalled := false
      press := { c.press with faultTaken := true }
      cur := { c.cur with loops := [], slots := [], rep := none, phaseWait := none } } }

/-- The bytes stand in memory at the running activation's address, whose page is translated. -/
def State.placeBytes (s : State) (bytes : List Byte) : State :=
  let va := s.core.cur.pc.toNat
  let page : TlbEntry := {
    unit := s.myCluster, ctx := s.myCtx, vbase := va / 4096, logSize := 12, leaf := .ofNat 64 (0x1000 + 0x2B + 2 ^ 62) }
  let pa := 0x1000 + va % 4096
  let key := s.keyHere pa
  let line (l : ILine) : Bool := l.ctx == s.myCtx && l.vline == va / 128
  { s with
    tlb := page :: s.tlb
    mem := s.mem.setBytes key bytes
    memPoison := (unitsOf 16 key 4).foldl NatSet.del s.memPoison
    ripening := s.ripening.filter (fun r => r.line != key / 128)
    lines := s.lines.filter (fun x => x.line != key / 128)
    armed := []
    core := { s.core with icache := s.core.icache.filter (fun l => !line l) } }

/-- All of it, and the core's turn comes next. -/
def State.placeCode (s : State) (bytes : List Byte) : State :=
  { s.placePart.placeKernel.placeThread.placeBytes bytes with agenda := [.integer] }

end Sys2Proof.Machine
end

