-- ==== Sys2Proof/Machine/Step.lean ====
section
/-! DEFINITION. One step of the device, and the placing of an instruction where the next step runs it. -/

namespace Sys2Proof.Machine

/-- One step: the clock moves on, then the turn at the head of the agenda is taken, or one that is free to come. -/
def step (s : State) : Host.Outcome State Fault Refusal :=
  let s := s.clock
  match s.agenda with
  | t :: rest => State.turn { s with agenda := rest } t
  | [] => s.freeTurn s.free

/-- The state with an instruction stored where the next step fetches it: a running activation on the core in focus, whose
code page is translated, and the core's turn at the head of the agenda. -/
def State.withFetchWord (s : State) (nbits w : Nat) : State := s.placeCode (natLE 4 (w % 2 ^ nbits))

end Sys2Proof.Machine
end

