-- ==== Sys2Proof/Safety.lean ====
section
/-! DEFINITION. The terms the statements use: the canonical form of the device's data, a core whose next instruction
nothing holds back, what register operands read and write there, what an issued instruction leaves, and the words for
each family: results of tables, loads and atomics, lane operations, rind registers, press commands, memory and windows. -/

namespace Sys2Proof.Machine

/-! ## Canonical forms -/

/-- Every memory and set of a core in its canonical form. -/
def Core.wf (c : Core) : Bool := c.lm.wf && NatSet.wf c.lmPoison && NatSet.wf c.lmEmpty

/-- The memory of the device in its canonical form. -/
def State.memWf (s : State) : Bool := Memory.wf s.mem

/-- Bank 0 of a core is always scratch (R121). -/
def Core.bank0 (c : Core) : Bool := c.bankMode 0 == 0

/-! ## A core that can issue -/

/-- Nothing holds back the next instruction of the core in focus: an activation runs on it, or its handler, with no check
of it; no window is open (R40), that of a trapped activation included; no repetition buffer (R90) or loop (R86) is at
work; no error is armed (R350); and the kernel lets its activations name `n` registers (R36). -/
structure State.ReadyAt (s : State) (n : Nat) : Prop where
  active : s.core.active = true
  slots : s.core.cur.slots = []
  rep : s.core.cur.rep = none
  loops : s.core.cur.loops = []
  frame : ∀ fr, s.core.frame = some fr → fr.th.slots = []
  check : s.core.cur.act.check = none
  armed : s.armed = []
  limit : s.core.regLimit = n

/-- The same with all 32 registers. -/
abbrev State.Ready (s : State) : Prop := s.ReadyAt 32

/-- The activation holds back no output: it is irrevocable, and what it held has left (R106, R107). -/
def State.Open (s : State) : Prop := s.core.cur.act.revocable = false ∧ s.core.cur.act.held = []

/-- The press has no command (Table 9.2). -/
def State.PressFree (s : State) : Prop := ∀ sl ∈ s.core.press.slots, sl.st = .free

/-- An irrevocable act that the running activation can make now: what it held has left, no check follows it, and it is
irrevocable from here on (R106 to R108). None while an output it held cannot leave. -/
def State.irrevocably (s : State) : Option State :=
  if s.core.cur.act.keeps then
    let t := s.commitSome
    if t.core.cur.act.held.isEmpty then
      let u := t.uncheck
      some { u with core := { u.core with cur := { u.core.cur with act := { u.core.cur.act with revocable := false } } } }
    else none
  else some s

/-! ## Register operands (Table 2.4) -/

/-- What a register operand reads on a core that can issue: a workspace register its dword (R99), `z` zero, `inq` the
next dword of the message or zero with MSGEND past its end (R95), a channel the first dword of its FIFO, whose credit
goes back, an irrevocable act (R104, R106). None where the operand cannot be read now. -/
def State.src (s : State) : RSpec → Option (Val × State)
  | .w i => some (s.core.regVal i, s)
  | .z => some (.clean 0, s)
  | .inq =>
    let a := s.core.cur.act
    match a.body[a.pos]? with
    | some v =>
      some ({ bits := v.bits, taint := false, poison := v.poison },
        { s with core := { s.core with cur := { s.core.cur with act := { a with pos := a.pos + 1 } } } })
    | none =>
      some (.clean 0, { s with core := { s.core with cur := { s.core.cur with act := { a with msgend := true } } } })
  | .inp d =>
    match s.core.fifoIn.getD d.num [], neighbour s.core.id d with
    | v :: rest, some m =>
      if s.connected s.core.id d then
        s.irrevocably.map (fun t => ({ bits := v.bits, taint := false, poison := v.poison },
          { t with
            core := { t.core with fifoIn := modifyAt (fun _ => rest) t.core.fifoIn d.num }
            parcels := t.parcels ++ [.credit m (oppDir d)] }))
      else none
    | _, _ => none
  | .out _ => none

/-- What writing a register operand leaves: a workspace register its dword, taint and poison (R99), `z` nothing, a
channel a dword on its way and a window smaller by one, an irrevocable act (R104, R106). None where it cannot be
written now. -/
def State.dst (s : State) (v : Val) : RSpec → Option State
  | .w i => some { s with core := s.core.putReg i v }
  | .z => some s
  | .out d =>
    match neighbour s.core.id d with
    | some m =>
      if s.connected s.core.id d && decide (0 < s.core.window.getD d.num 0) then
        s.irrevocably.map (fun t => { t with
          core := { t.core with window := modifyAt (· - 1) t.core.window d.num }
          parcels := t.parcels ++ [.chan m (oppDir d) v.strip] })
      else none
    | none => none
  | .inp _ | .inq => none

/-! ## What an issued instruction leaves -/

/-- The instruction has issued and the PC is at an address. -/
def State.went (s : State) (pc : BitVec 48) : State :=
  { s with core := { s.core with nInstr := s.core.nInstr + 1, cur := { s.core.cur with pc := pc } } }

/-- The instruction has issued and the next one follows, `len` bytes on. -/
def State.after (s : State) (len : Nat) : State := s.went (s.core.cur.pc + BitVec.ofNat 48 len)

/-- The same with a pending write opened (R39, R40): a result `v`, if it has arrived, for `d` in `l` instructions. -/
def State.opened (s : State) (d : Dest) (l : Nat) (v : Option Payload) (f : Slot → Slot) (len : Nat) : State :=
  let sl : Slot := { uid := s.uid, dest := d, rem := l, counted := decide (l ≠ 0), value := v, here := v.isSome,
                     cancelled := false, acq := false, load := false, ldc := false, block := false }
  let t := s.after len
  { t with uid := s.uid + 1, core := { t.core with cur := { t.core.cur with slots := [f sl] } } }

/-! ## Scalar instructions (Tables 4.1 to 4.7) -/

/-- 1 where a condition holds, 0 where it does not. -/
def bit (b : Bool) : Word := if b then 1 else 0

/-- Instructions of two sources `a` and `b` and a destination `d`, with the value that their table row gives. -/
inductive Binary : Instr → RSpec → RSpec → RSpec → (Word → Word → Word) → Prop where
  | add (d a b : RSpec) : Binary (.add d a b) d a b (fun x y => x + y)
  | sub (d a b : RSpec) : Binary (.sub d a b) d a b (fun x y => x - y)
  | and (d a b : RSpec) : Binary (.and d a b) d a b (fun x y => x &&& y)
  | or (d a b : RSpec) : Binary (.or d a b) d a b (fun x y => x ||| y)
  | xor (d a b : RSpec) : Binary (.xor d a b) d a b (fun x y => x ^^^ y)
  | andn (d a b : RSpec) : Binary (.andn d a b) d a b (fun x y => x &&& ~~~y)
  | orn (d a b : RSpec) : Binary (.orn d a b) d a b (fun x y => x ||| ~~~y)
  | xnor (d a b : RSpec) : Binary (.xnor d a b) d a b (fun x y => ~~~(x ^^^ y))
  | shl (d a b : RSpec) : Binary (.shl d a b) d a b (fun x y => x <<< (y.toNat % 64))
  | shr (d a b : RSpec) : Binary (.shr d a b) d a b (fun x y => x >>> (y.toNat % 64))
  | sra (d a b : RSpec) : Binary (.sra d a b) d a b (fun x y => x.sshiftRight (y.toNat % 64))
  | rol (d a b : RSpec) : Binary (.rol d a b) d a b (fun x y => x.rotateLeft (y.toNat % 64))
  | ror (d a b : RSpec) : Binary (.ror d a b) d a b (fun x y => x.rotateLeft ((64 - y.toNat % 64) % 64))
  | slt (d a b : RSpec) : Binary (.slt d a b) d a b (fun x y => bit (decide (x.toInt < y.toInt)))
  | sltu (d a b : RSpec) : Binary (.sltu d a b) d a b (fun x y => bit (decide (x.toNat < y.toNat)))
  | seq (d a b : RSpec) : Binary (.seq d a b) d a b (fun x y => bit (decide (x = y)))
  | sne (d a b : RSpec) : Binary (.sne d a b) d a b (fun x y => bit (decide (x ≠ y)))
  | min (d a b : RSpec) : Binary (.min d a b) d a b (fun x y => if x.toInt < y.toInt then x else y)
  | max (d a b : RSpec) : Binary (.max d a b) d a b (fun x y => if x.toInt < y.toInt then y else x)
  | minu (d a b : RSpec) : Binary (.minu d a b) d a b (fun x y => if x.toNat < y.toNat then x else y)
  | maxu (d a b : RSpec) : Binary (.maxu d a b) d a b (fun x y => if x.toNat < y.toNat then y else x)
  | shadd1 (d a b : RSpec) : Binary (.shadd1 d a b) d a b (fun x y => y + x <<< 1)
  | shadd2 (d a b : RSpec) : Binary (.shadd2 d a b) d a b (fun x y => y + x <<< 2)
  | shadd3 (d a b : RSpec) : Binary (.shadd3 d a b) d a b (fun x y => y + x <<< 3)
  | addw (d a b : RSpec) : Binary (.addw d a b) d a b (fun x y => sext (x + y) 32)
  | subw (d a b : RSpec) : Binary (.subw d a b) d a b (fun x y => sext (x - y) 32)
  | ins (d a : RSpec) (pos len1 : BitVec 6) :
    Binary (.ins d a pos len1) d a d (fun x old => fieldIns old x pos.toNat (len1.toNat + 1))

/-- Instructions of one source, with the value that their table row gives. -/
inductive Unary : Instr → RSpec → RSpec → (Word → Word) → Prop where
  | clz (d a : RSpec) : Unary (.clz d a) d a (fun x => .ofNat 64 (clzBits 64 x.toNat))
  | ctz (d a : RSpec) : Unary (.ctz d a) d a (fun x => .ofNat 64 (ctzBits 64 x.toNat))
  | popc (d a : RSpec) : Unary (.popc d a) d a (fun x => .ofNat 64 (popBits 64 x.toNat))
  | brev (d a : RSpec) : Unary (.brev d a) d a (fun x => .ofNat 64 (revBits 64 x.toNat))
  | bswap (d a : RSpec) : Unary (.bswap d a) d a (fun x => .ofNat 64 (leNat (natLE 8 x.toNat).reverse))
  | sextb (d a : RSpec) : Unary (.sextb d a) d a (fun x => sext x 8)
  | sexth (d a : RSpec) : Unary (.sexth d a) d a (fun x => sext x 16)
  | sextw (d a : RSpec) : Unary (.sextw d a) d a (fun x => sext x 32)
  | extu (d a : RSpec) (pos len1 : BitVec 6) :
    Unary (.extu d a pos len1) d a (fun x => zext (x >>> pos.toNat) (len1.toNat + 1))
  | exts (d a : RSpec) (pos len1 : BitVec 6) :
    Unary (.exts d a pos len1) d a (fun x => sext (x >>> pos.toNat) (len1.toNat + 1))
  | addi (d a : RSpec) (imm : BitVec 13) : Unary (.addi d a imm) d a (fun x => x + imm.signExtend 64)
  | andi (d a : RSpec) (imm : BitVec 13) : Unary (.andi d a imm) d a (fun x => x &&& imm.signExtend 64)
  | ori (d a : RSpec) (imm : BitVec 13) : Unary (.ori d a imm) d a (fun x => x ||| imm.signExtend 64)
  | xori (d a : RSpec) (imm : BitVec 13) : Unary (.xori d a imm) d a (fun x => x ^^^ imm.signExtend 64)
  | slti (d a : RSpec) (imm : BitVec 13) : Unary (.slti d a imm) d a (fun x => bit (decide (x.toInt < imm.toInt)))
  | sltui (d a : RSpec) (imm : BitVec 13) :
    Unary (.sltui d a imm) d a (fun x => bit (decide (x.toNat < (imm.signExtend 64).toNat)))
  | shli (d a : RSpec) (sh : BitVec 6) : Unary (.shli d a sh) d a (fun x => x <<< sh.toNat)
  | shri (d a : RSpec) (sh : BitVec 6) : Unary (.shri d a sh) d a (fun x => x >>> sh.toNat)
  | srai (d a : RSpec) (sh : BitVec 6) : Unary (.srai d a sh) d a (fun x => x.sshiftRight sh.toNat)
  | rori (d a : RSpec) (sh : BitVec 6) : Unary (.rori d a sh) d a (fun x => x.rotateLeft ((64 - sh.toNat) % 64))
  | lix (d : RSpec) (imm : BitVec 19) : Unary (.lix d imm) d d (fun x => (x <<< 19) ||| imm.setWidth 64)

/-- Instructions whose result depends on the PC and an immediate only. -/
inductive Constant : Instr → RSpec → (BitVec 48 → Word) → Prop where
  | lih (d : RSpec) (imm : BitVec 19) : Constant (.lih d imm) d (fun _ => imm.signExtend 64 <<< 13)
  | addpc (d : RSpec) (imm : BitVec 19) :
    Constant (.addpc d imm) d (fun pc => pc.setWidth 64 + imm.signExtend 64 * 2)

/-- The members of MULDIV with the value that their table row gives (R75). -/
inductive MulDiv : Instr → RSpec → RSpec → RSpec → BitVec 4 → (Word → Word → Word) → Prop where
  | mul (d a b : RSpec) (l : BitVec 4) : MulDiv (.mul d a b l) d a b l (fun x y => x * y)
  | mulh (d a b : RSpec) (l : BitVec 4) : MulDiv (.mulh d a b l) d a b l (fun x y => .ofInt 64 (x.toInt * y.toInt / 2 ^ 64))
  | mulhu (d a b : RSpec) (l : BitVec 4) : MulDiv (.mulhu d a b l) d a b l (fun x y => .ofNat 64 (x.toNat * y.toNat / 2 ^ 64))
  | mulhsu (d a b : RSpec) (l : BitVec 4) : MulDiv (.mulhsu d a b l) d a b l (fun x y => .ofInt 64 (x.toInt * y.toNat / 2 ^ 64))
  | div (d a b : RSpec) (l : BitVec 4) : MulDiv (.div d a b l) d a b l (fun x y =>
      if y = 0 then BitVec.allOnes 64 else .ofInt 64 (x.toInt.tdiv y.toInt))
  | divu (d a b : RSpec) (l : BitVec 4) : MulDiv (.divu d a b l) d a b l (fun x y =>
      if y = 0 then BitVec.allOnes 64 else .ofNat 64 (x.toNat / y.toNat))
  | rem (d a b : RSpec) (l : BitVec 4) : MulDiv (.rem d a b l) d a b l (fun x y =>
      if y = 0 then x else .ofInt 64 (x.toInt.tmod y.toInt))
  | remu (d a b : RSpec) (l : BitVec 4) : MulDiv (.remu d a b l) d a b l (fun x y =>
      if y = 0 then x else .ofNat 64 (x.toNat % y.toNat))

/-- The state in which a pending write to a destination opens: a channel is connected, and its write an irrevocable act
(R15, R106). None where it cannot open now. -/
def State.openable (s : State) (d : RSpec) : Option State :=
  match d with
  | .out o => if s.connected s.core.id o then s.irrevocably else none
  | .w _ | .z => some s
  | .inp _ | .inq => none

/-- Nothing but its open windows and loops holds back the next instruction of the core in focus. -/
structure State.Flows (s : State) : Prop where
  active : s.core.active = true
  rep : s.core.cur.rep = none
  frame : ∀ fr, s.core.frame = some fr → fr.th.slots = []
  check : s.core.cur.act.check = none
  armed : s.armed = []
  limit : s.core.regLimit = 32
  block : ∀ sl ∈ s.core.cur.slots, sl.block = false

/-- A pending write of a register whose value has arrived, and which no younger write has cancelled (R40, R41). -/
structure Slot.Holds (sl : Slot) (i : BitVec 5) (v : Val) : Prop where
  dest : sl.dest = .reg (.w i)
  value : sl.value = some (.word v)
  here : sl.here = true
  stands : sl.cancelled = false

/-- The pending writes of the running activation. -/
def State.withSlots (s : State) (l : List Slot) : State :=
  { s with core := { s.core with cur := { s.core.cur with slots := l } } }

/-! ## Control -/

/-- Branches with their sources and condition (Table 4.8); a branch on a bit has one source. -/
inductive Branch : Instr → RSpec → RSpec → BitVec 10 → (Word → Word → Bool) → Prop where
  | beq (a b : RSpec) (off : BitVec 10) : Branch (.beq a b off) a b off (fun x y => decide (x = y))
  | bne (a b : RSpec) (off : BitVec 10) : Branch (.bne a b off) a b off (fun x y => decide (x ≠ y))
  | blt (a b : RSpec) (off : BitVec 10) : Branch (.blt a b off) a b off (fun x y => decide (x.toInt < y.toInt))
  | bge (a b : RSpec) (off : BitVec 10) : Branch (.bge a b off) a b off (fun x y => decide (y.toInt ≤ x.toInt))
  | bltu (a b : RSpec) (off : BitVec 10) : Branch (.bltu a b off) a b off (fun x y => decide (x.toNat < y.toNat))
  | bgeu (a b : RSpec) (off : BitVec 10) : Branch (.bgeu a b off) a b off (fun x y => decide (y.toNat ≤ x.toNat))
  | bbs (a : RSpec) (bit : BitVec 6) (off : BitVec 10) : Branch (.bbs a bit off) a .z off (fun x _ => x.getLsbD bit.toNat)
  | bbc (a : RSpec) (bit : BitVec 6) (off : BitVec 10) : Branch (.bbc a bit off) a .z off (fun x _ => !x.getLsbD bit.toNat)

/-- The address a signed number of halfwords from the instruction (R82). -/
def State.ahead (s : State) (halves : BitVec 48) : BitVec 48 := s.core.cur.pc + halves * 2

/-- A fault that an instruction takes at its own address or past it. -/
def simpleTrap (cause : Nat) (tval : Word) : TrapInfo :=
  { cause := cause, tval := tval, spec := 0, major := none, epc := none, buf := false }

/-- The consumption of a poisoned register operand (R73, R433). -/
def poisonTrap (r : RSpec) : TrapInfo :=
  { cause := cPOISON, tval := .ofNat 64 r.bits, spec := r.bits, major := none, epc := none, buf := false }

/-- The instruction has issued and its thread has been dealt with. -/
def State.issued (s : State) : State := { s with core := { s.core with nInstr := s.core.nInstr + 1 } }

/-- The loop stack of the running activation. -/
def State.withLoops (s : State) (l : List LoopEntry) : State :=
  { s with core := { s.core with cur := { s.core.cur with loops := l } } }

/-- The repetition buffer of the running activation takes a body (R89). -/
def State.withBuffer (s : State) (b : RepBuf) : State :=
  { s with core := { s.core with bufStalled := false, cur := { s.core.cur with rep := some b } } }

/-! ## Activations and messages -/

/-- `n` registers from `wi` on. -/
def State.regRun (s : State) (i : BitVec 5) (n : Nat) : List Val :=
  (List.range n).map (fun k => s.core.regVal (.ofNat 5 (i.toNat + k)))

/-- Values written to registers from `wi` on. -/
def State.putRun (s : State) (i : BitVec 5) : List Val → State
  | [] => s
  | v :: vs => State.putRun { s with core := s.core.putReg i v } (i + 1) vs

/-- A message leaves, or is held while the activation keeps its outputs (R107, R118). -/
def State.sends (s : State) (m : Msg) : State :=
  if s.core.cur.act.keeps then
    { s with core := { s.core with cur := { s.core.cur with act :=
      { s.core.cur.act with held := s.core.cur.act.held ++ [.msg m] } } } }
  else { s with core := { s.core with outbox := s.core.outbox ++ [m] } }

/-- There is room for one more message or reply in the hold buffer: with eight held, or with held outputs that have begun
to leave, the activation has become irrevocable first, and everything it held has left (R107). -/
def State.holdRoom (s : State) : Option State :=
  let a := s.core.cur.act
  if (a.revocable && decide (8 ≤ a.heldMessages)) || a.draining then s.irrevocably else some s

/-- A message need not wait: it is held, or the network interface holds fewer than four (R118). -/
def State.netRoom (s : State) : Bool := s.core.cur.act.keeps || decide (s.core.outbox.length < 4)

/-- A release of the running activation that need not wait: its stores and atomics within reach are done, its
write-combining buffer drains into a store buffer with room, and a store that it still holds has the release behind it
(R156, R107, R137). -/
def State.releases (s : State) (system : Bool) : Option State :=
  let t := { s with core := s.core.drainWc }.fenced
  let a := t.core.cur.act
  if s.core.wcFits && t.core.released a.uid system && t.reqs.all (fun r => !r.holdsRelease a.uid system) then
    some (if 0 < a.heldStores then
      { t with core := { t.core with cur := { t.core.cur with act := { a with held := a.held ++ [.release system] } } } }
    else t)
  else none

/-- A claim that parks: its thread, past the instruction, joins the parked claims, a handler's frame with it, and the
context is free (R102, R115). -/
def State.parks (s : State) (d : RSpec) (n : Nat) : State :=
  let p : Parked := { th := { s.core.cur with pc := s.core.cur.pc + 4 }, n := n, d := d
                      frame := if s.core.inHandler then s.core.frame else none }
  { s with core := { s.core with
    parked := s.core.parked ++ [p], active := false, cur := .blank, priv := false, inHandler := false
    frame := if s.core.inHandler then none else s.core.frame } }

/-- A message of the running activation to a destination word and entry. -/
def State.message (s : State) (dw e : Word) (body : List Val) (replyTo : BitVec 64) : Msg :=
  { src := s.core.id, dst := bitsAt dw 13 0, hi := dw.getLsbD 16, entry := e.setWidth 48, body := body.map Val.strip
    tag := s.core.cur.act.tag, replyTo := replyTo }

/-! ## Memory -/

/-- A store instruction has its number. -/
def State.numbered (s : State) : State := { s with uid := s.uid + 1 }

/-- A read of local memory outside what the activation owns makes it uncheckable (R108). -/
def State.reading (s : State) (la n : Nat) : State := if s.core.cur.act.ownsLocal la n then s else s.uncheck

/-- A read of a page: of a peer's take window an irrevocable act (R369), and of any page but an immutable one uncheckable
(R108). None where it cannot be made now. -/
def State.readsPage (s : State) (x : Xlat) : Option State :=
  let t := if isPeerPA x.pa && takeOffset (x.pa % 2 ^ 38) then s.irrevocably else some s
  t.map (fun u => if leafImm x.leaf then u else u.uncheck)

/-- Local bytes with their poison. -/
def State.localBytes (s : State) (la n : Nat) : List (Byte × Bool) := (List.range n).map (fun j => s.core.byteAt (la + j))

/-- The core whose memory an address of the local or a cluster window names (Table 6.1). -/
def State.named (s : State) (va : Nat) : Nat :=
  if 0xFFFFFFFE0000 ≤ va then s.core.id else clusterOf s.core.id * 128 + va / 2 ^ 17 % 128

/-- An effective address in the core's own window, aligned and in scratch banks: its local address (R120, R121). The core's
own index in the cluster window leads there too (log entry 17). -/
def State.ownAddr (s : State) (base : Val) (off n : Nat) : Option Nat :=
  let va := effAddr base.bits off
  let la := va % 2 ^ 17
  if !base.poison && decide (0xFFFFFF000000 ≤ va ∧ s.named va = s.core.id) && decide (va % n = 0) && s.core.scratch la n then
    some la
  else none

/-- The running activation may make an access that takes effect at once: what a release or an acquire has before it is
done (R155). -/
def State.ordered (s : State) : Bool := s.pastFence s.core.id s.core.cur.act.uid s.core.cur.act.fence

/-- Where an aligned access of `n` bytes leads: through the page tables, to the core's own memory, or to that of another
core of its cluster that is present and in service, past its queue window; scratch banks alone (R120 to R122, R361). None
where it faults. -/
def State.placeAt (s : State) (va n : Nat) (k : Access) : Option (Place × State) :=
  let la := va % 2 ^ 17
  let id := s.named va
  if va < 0xFFFFFF000000 then
    match s.translate s.myCluster s.myCtx s.core.priv k va n with
    | (.ok x, t) => some (.phys x, t)
    | (.error _, _) => none
  else if id = s.core.id then (if s.core.scratch la n then some (.here la, s) else none)
  else if s.corePresent id && !(s.coreOf id).quarantined && decide (0x400 ≤ la) && (s.coreOf id).scratch la n then
    some (.core id la, s)
  else none

/-- A watch comparator covers an access of global memory (R406). -/
def State.watches (s : State) (va n : Nat) (k : Access) : Bool :=
  decide (va < 0xFFFFFF000000) && s.core.watch.any (fun w => w.covers va n (k != .write) (k == .write || k == .both))

/-- The place of an access that passes its checks: a base without poison, alignment to `n`, a place, and no watch. -/
def State.address (s : State) (base : Val) (off n : Nat) (k : Access) : Option (Place × State) :=
  let va := effAddr base.bits off
  if base.poison || decide (va % n ≠ 0) || s.watches va n k then none else s.placeAt va n k

/-- The fault that an access has on its way to its place: that of the page walk or the page's rights, or of the window's
rules (R120 to R122, R361). -/
def State.badPlace (s : State) (r : RSpec) (va n : Nat) (k : Access) : Option TrapInfo :=
  let la := va % 2 ^ 17
  let id := s.named va
  if va < 0xFFFFFF000000 then
    match (s.translate s.myCluster s.myCtx s.core.priv k va n).1 with
    | .error .page => some (simpleTrap cPAGE (.ofNat 64 va))
    | .error .prot => some (simpleTrap cPROT (.ofNat 64 va))
    | .error (.poison _) => some { poisonTrap r with tval := .ofNat 64 va }
    | .ok _ => none
  else if id = s.core.id then (if s.core.scratch la n then none else some (simpleTrap cBANK (.ofNat 64 va)))
  else if !s.corePresent id || (s.coreOf id).quarantined then some (simpleTrap cPROT (.ofNat 64 va))
  else if la < 0x400 then some (simpleTrap cPROT (.ofNat 64 va))
  else if (s.coreOf id).scratch la n then none
  else some (simpleTrap cBANK (.ofNat 64 va))

/-- The fault of an access: a poisoned base, alignment, its place, and last the watch comparators (R48, R136, R406); `qs`:
only a queue-slot page will do (R169). -/
def State.badAddress (s : State) (r : RSpec) (base : Val) (off n : Nat) (k : Access) (qs : Bool) : Option TrapInfo :=
  let va := effAddr base.bits off
  if base.poison then some (poisonTrap r)
  else if va % n ≠ 0 then some (simpleTrap cALIGN (.ofNat 64 va))
  else match s.badPlace r va n k, s.placeAt va n k with
    | some t, _ => some t
    | none, some (.phys x, _) =>
      if qs && !leafQs x.leaf then some (simpleTrap cPROT (.ofNat 64 va))
      else if s.watches va n k then some (simpleTrap cWATCH (.ofNat 64 va))
      else none
    | none, _ => none

/-- The instructions with one address: their base, offset and size in bytes, what they need of a page, and whether that has
to be a queue-slot page (Tables 6.6, 7.4 and 10.6). -/
inductive Addressed : Instr → RSpec → Nat → Nat → Access → Bool → Prop where
  | ld (t base : RSpec) (off : BitVec 5) (hint size : BitVec 2) (l : BitVec 4) :
    Addressed (.ld t base off hint size l) base (off.toNat * 2 ^ size.toNat) (2 ^ size.toNat) .read false
  | ldu (t base : RSpec) (off : BitVec 5) (hint size : BitVec 2) (l : BitVec 4) :
    Addressed (.ldu t base off hint size l) base (off.toNat * 2 ^ size.toNat) (2 ^ size.toNat) .read false
  | ldc (t base : RSpec) (off : BitVec 5) (hint size : BitVec 2) (l : BitVec 4) :
    Addressed (.ldc t base off hint size l) base (off.toNat * 2 ^ size.toNat) (2 ^ size.toNat) .read false
  | st (t base : RSpec) (off : BitVec 5) (hint size : BitVec 2) :
    Addressed (.st t base off hint size) base (off.toNat * 2 ^ size.toNat) (2 ^ size.toNat) .write false
  | ldv (vt : BitVec 6) (base : RSpec) (off : BitVec 5) (hint : BitVec 2) (l : BitVec 4) :
    Addressed (.ldv vt base off hint l) base (off.toNat * 256) 256 .read false
  | stv (vt : BitVec 6) (base : RSpec) (off : BitVec 5) (hint : BitVec 2) :
    Addressed (.stv vt base off hint) base (off.toNat * 256) 256 .write false
  | zfill (base : RSpec) (off : BitVec 5) (hint : BitVec 2) :
    Addressed (.zfill base off hint) base (off.toNat * 256) 256 .write false
  | lds (t base : RSpec) (off : BitVec 5) (l : BitVec 4) :
    Addressed (.lds t base off l) base (off.toNat * 8) 8 .read true
  | ldsE (t base : RSpec) (off : BitVec 5) (l : BitVec 4) :
    Addressed (.ldsE t base off l) base (off.toNat * 8) 8 .read true
  | stf (t base : RSpec) (off : BitVec 5) (hint : BitVec 2) :
    Addressed (.stf t base off hint) base (off.toNat * 8) 8 .write true
  | kld (kd : BitVec 4) (r : RSpec) : Addressed (.kld kd r) r 0 64 .read false
  | kst (ka : BitVec 4) (r : RSpec) : Addressed (.kst ka r) r 0 64 .write false

/-- Bytes stored to local memory. -/
def State.stored (s : State) (la : Nat) (bytes : List Byte) (pois : List Bool) : State :=
  { s with core := s.core.putLocal la bytes pois }

/-- The state in which a store to local memory is made: past the queue window, and in order; outside what the activation
owns it is an irrevocable act (R106, R155, R208). None where it cannot be made now. -/
def State.storable (s : State) (la n : Nat) : Option State :=
  if 0x400 ≤ la then (if s.core.cur.act.ownsLocal la n then some s else s.irrevocably).filter State.ordered else none

/-- A store to global memory or to another core: held while the activation is revocable, up to 32 store instructions, after
which it has become irrevocable (R107); else in the store buffer or the write-combining buffer, where it finds room (R131,
R137). None where it cannot be made now. -/
def State.stores (s : State) (o : StoreOp) : Option State :=
  let a := s.core.cur.act
  let t := if (a.revocable && decide (32 ≤ a.heldStores) && !a.holdsSeq o.seq) || a.draining then s.irrevocably else some s
  t.bind (fun t =>
    if t.core.cur.act.keeps then some { t with core := { t.core with cur := { t.core.cur with act :=
      { t.core.cur.act with held := t.core.cur.act.held ++ [.store o] } } } }
    else if t.core.storeFits o then some { t with core := t.core.sendStore o }
    else none)

/-- The store of the instruction numbered `seq` to a target. -/
def State.storeOp (s : State) (seq : Nat) (tgt : Target) (use : LineUse) (bytes : List Byte) (pois : List Bool) (full : Bool)
    (cls : WClass) (combines : Bool) : StoreOp :=
  { tgt := tgt, bytes := bytes, pois := pois, full := full, cls := cls, writer := s.core.id, act := s.core.cur.act.uid
    seq := seq, use := use, combines := combines, after := s.core.cur.act.fence }

/-- What a store of bytes to a place leaves, of the store instruction numbered `seq`: local memory changed; a store to
another core, an irrevocable act (R106); or one through a page, with the page's class, use of the slice and write combining
(R107, R131, R147). None where it cannot be made now; an STF in local memory serves the LDS that wait on its word. -/
def State.storesAt (s : State) (seq : Nat) (pl : Place) (want : LineUse) (bytes : List Byte) (pois : List Bool)
    (full : Bool) : Option State :=
  match pl with
  | .here la => (s.storable la bytes.length).map (fun t =>
      let u := t.stored la bytes pois
      if full then u.fill (.loc u.core.id la) else u)
  | .core id la => s.irrevocably.bind (fun t => t.stores (t.storeOp seq (.loc id la) .bypass bytes pois full .direct false))
  | .phys x => s.stores (s.storeOp seq (.phys (s.keyHere x.pa)) (if leafPol x.leaf = 0 then want else .bypass) bytes pois full
      (s.storeClass x) (leafPol x.leaf == 1))

/-- The same of an instruction that makes one store. -/
def State.storesTo (s : State) (pl : Place) (want : LineUse) (bytes : List Byte) (pois : List Bool) (full : Bool) :
    Option State := s.numbered.storesAt s.uid pl want bytes pois full


/-- A result known at issue: written at once where L is 0, else in a pending write (R39). None where it cannot be. -/
def State.yields (s : State) (t : RSpec) (l : BitVec 4) (v : Val) : Option State :=
  if l = 0 then (s.dst v t).map (fun u => u.after 4)
  else (s.openable t).map (fun u => u.opened (.reg t) l.toNat (some (.word v)) id 4)

/-- A request of the running activation, and the pending write that awaits its result (R39, R45). None where a channel cannot
take it. -/
def State.asks (s : State) (d : Dest) (l : BitVec 4) (use : LineUse) (kind : ReqKind) (f : Slot → Slot) : Option State :=
  let asked (u : State) : State :=
    let q : Req := { uid := u.uid, core := u.core.id, act := u.core.cur.act.uid, kind := kind, served := false
                     slice := none, use := use, after := u.core.cur.act.fence }
    State.opened { u with reqs := u.reqs ++ [q] } d l.toNat none f 4
  match d with
  | .reg r => (s.openable r).map asked
  | .row _ | .tld _ _ _ => some (asked s)

/-- What a read of a page that the core's L1 answers, or a page of zeros, gives (R124, R128, R131, R159); none where its home
is asked. -/
def State.readNear (s : State) (x : Xlat) (n : Nat) (home : Bool) : Option (List (Byte × Bool)) :=
  let key := s.keyHere x.pa
  if leafZero x.leaf then some (List.replicate n (0, false))
  else if leafPol x.leaf = 0 ∧ home = false then
    match s.core.l1Hit key, s.core.l1Hit (key + 128) with
    | some a, some b =>
      some (if key % 128 + n ≤ 128 then s.core.l1Read a key n else s.core.l1Read a key 128 ++ s.core.l1Read b (key + 128) (n - 128))
    | some a, none => if key % 128 + n ≤ 128 then some (s.core.l1Read a key n) else none
    | none, _ => none
  else none

/-- The value that a read takes at issue from its place, for the instructions that are no carriers. None where it cannot be
made now. -/
def State.readsNow (s : State) (pl : Place) (n : Nat) (home : Bool) : Option (List (Byte × Bool) × State) :=
  let ask (t : State) (use : LineUse) (w : Target) (fill : Bool) : Option (List (Byte × Bool) × State) :=
    if t.ordered then some (t.readFor use t.core.id w n fill (t.core.ownAt w n)) else none
  match pl with
  | .here la => if s.ordered then some (s.localBytes la n, s.reading la n) else none
  | .core id la => ask s.uncheck .bypass (.loc id la) false
  | .phys x => (s.readsPage x).bind (fun t => match t.readNear x n home with
      | some bs => some (bs, t)
      | none => ask t (x.use .normal) (.phys (t.keyHere x.pa)) (decide (leafPol x.leaf = 0) && !home))

/-- Whether what a read through a page brings enters the L1 (Table 6.5). -/
def fillsL1 (x : Xlat) (hint : BitVec 2) (home : Bool) : Bool :=
  decide (leafPol x.leaf = 0) && !home && (hint == 0 || hint == 3)

/-- The word of an LDS or STF has no store of the core before it that has not left, and the access is in order (R155, R169,
R428). -/
def State.WordReady (s : State) (t : Target) : Prop :=
  s.ordered = true ∧ ∀ b ∈ s.core.storeBuf, b.sent = false → b.wc = false → b.op.touches t.word.1 t.word.2 = false

/-- A word that an LDS reads at its home answers later: its value is on its way. None where a channel cannot take it. -/
def State.late (s : State) (d : RSpec) (l : BitVec 4) (tgt : Target) (v : Val) : Option State :=
  (s.openable d).map (fun u =>
    State.opened { u with reqs := u.reqs ++ [Req.back u.core.id u.core.cur.act.uid u.uid (u.sliceOf tgt)] } (.reg d) l.toNat
      (some (.word v)) (fun sl => { sl with here := false, load := true }) 4)

/-- An LDS waits at its word, for its activation where L is 0. None where a channel cannot take its value. -/
def State.awaitsWord (s : State) (d : RSpec) (l : BitVec 4) (q : LdsReq) : Option State :=
  (s.openable d).map (fun u => State.opened { u with ldsWait := u.ldsWait ++
    [{ q with uid := u.uid, core := u.core.id, act := u.core.cur.act.uid }] } (.reg d) l.toNat none
      (fun sl => { sl with load := true, block := l == 0 }) 4)

/-- The scalar loads: destination, base, offset in units, log2 size, L, whether they extend the sign, and whether they
taint (Table 6.6, R168). -/
inductive Load : Instr → RSpec → RSpec → BitVec 5 → BitVec 2 → BitVec 4 → Bool → Bool → Prop where
  | ld (t base : RSpec) (off : BitVec 5) (hint size : BitVec 2) (l : BitVec 4) :
    Load (.ld t base off hint size l) t base off size l true false
  | ldu (t base : RSpec) (off : BitVec 5) (hint size : BitVec 2) (l : BitVec 4) :
    Load (.ldu t base off hint size l) t base off size l false false
  | ldc (t base : RSpec) (off : BitVec 5) (hint size : BitVec 2) (l : BitVec 4) :
    Load (.ldc t base off hint size l) t base off size l true true

/-- The atomics with a result: their member, operands, size in bytes, order and L (Table 7.5). -/
inductive Atomic : Instr → AtomOp → RSpec → RSpec → Nat → BitVec 2 → BitVec 2 → BitVec 4 → Prop where
  | aadd (d a : RSpec) (z : BitVec 1) (sc o : BitVec 2) (l : BitVec 4) :
    Atomic (.aadd d a z sc o l) .add d a (4 + 4 * z.toNat) sc o l
  | aand (d a : RSpec) (z : BitVec 1) (sc o : BitVec 2) (l : BitVec 4) :
    Atomic (.aand d a z sc o l) .and d a (4 + 4 * z.toNat) sc o l
  | aor (d a : RSpec) (z : BitVec 1) (sc o : BitVec 2) (l : BitVec 4) :
    Atomic (.aor d a z sc o l) .or d a (4 + 4 * z.toNat) sc o l
  | axor (d a : RSpec) (z : BitVec 1) (sc o : BitVec 2) (l : BitVec 4) :
    Atomic (.axor d a z sc o l) .xor d a (4 + 4 * z.toNat) sc o l
  | amin (d a : RSpec) (z : BitVec 1) (sc o : BitVec 2) (l : BitVec 4) :
    Atomic (.amin d a z sc o l) .min d a (4 + 4 * z.toNat) sc o l
  | amax (d a : RSpec) (z : BitVec 1) (sc o : BitVec 2) (l : BitVec 4) :
    Atomic (.amax d a z sc o l) .max d a (4 + 4 * z.toNat) sc o l
  | aminu (d a : RSpec) (z : BitVec 1) (sc o : BitVec 2) (l : BitVec 4) :
    Atomic (.aminu d a z sc o l) .minu d a (4 + 4 * z.toNat) sc o l
  | amaxu (d a : RSpec) (z : BitVec 1) (sc o : BitVec 2) (l : BitVec 4) :
    Atomic (.amaxu d a z sc o l) .maxu d a (4 + 4 * z.toNat) sc o l
  | axchg (d a : RSpec) (z : BitVec 1) (sc o : BitVec 2) (l : BitVec 4) :
    Atomic (.axchg d a z sc o l) .xchg d a (4 + 4 * z.toNat) sc o l
  | afadd (d a : RSpec) (z : BitVec 1) (sc o : BitVec 2) (l : BitVec 4) :
    Atomic (.afadd d a z sc o l) .fadd d a (4 + 4 * z.toNat) sc o l
  | afmin (d a : RSpec) (z : BitVec 1) (sc o : BitVec 2) (l : BitVec 4) :
    Atomic (.afmin d a z sc o l) .fmin d a (4 + 4 * z.toNat) sc o l
  | afmax (d a : RSpec) (z : BitVec 1) (sc o : BitVec 2) (l : BitVec 4) :
    Atomic (.afmax d a z sc o l) .fmax d a (4 + 4 * z.toNat) sc o l
  | ald (d a : RSpec) (z : BitVec 1) (sc o : BitVec 2) (l : BitVec 4) :
    Atomic (.ald d a z sc o l) .ld d a (4 + 4 * z.toNat) sc o l
  | acas (d a : RSpec) (z : BitVec 1) (sc o : BitVec 2) (l : BitVec 4) :
    Atomic (.acas d a z sc o l) .cas d a (4 + 4 * z.toNat) sc o l
  | ast (d a : RSpec) (z : BitVec 1) (sc o : BitVec 2) : Atomic (.ast d a z sc o) .st d a (4 + 4 * z.toNat) sc o 0

/-- An FP32 operation on each of the lanes of `n` bytes (R170). -/
def perLane (n : Nat) (f : Nat → Nat → Nat) (x y : Nat) : Nat :=
  ((List.range (n / 4)).map (fun j => 2 ^ (32 * j) * f (x / 2 ^ (32 * j) % 2 ^ 32) (y / 2 ^ (32 * j) % 2 ^ 32))).foldl (· + ·) 0

/-- The order of FP32 patterns that are not NaNs, −0 below +0 (R170). -/
def order32 (x : Nat) : Int := if x < 2 ^ 31 then x else 2 ^ 31 - x - 1

/-- The smaller or, with `hi`, the larger of an FP32 lane and an operand; a NaN gives way to the other, and of two NaNs the
old one stands, quiet (R170). -/
def extreme32 (hi : Bool) (old v : Nat) : Nat :=
  if f32.isNaN old && f32.isNaN v then f32.quiet old
  else if f32.isNaN old then v
  else if f32.isNaN v then old
  else if (if hi then decide (order32 old < order32 v) else decide (order32 v < order32 old)) then v
  else old

/-- The new value of a word of `n` bytes under a member, `v` its operand, or what ACAS expects, with `w` its new value
(Tables 7.5 and 7.6). -/
def atomTable (op : AtomOp) (n old v w : Nat) : Nat :=
  let signed (x : Nat) : Int := (BitVec.ofNat (8 * n) x).toInt
  match op with
  | .add => (old + v) % 2 ^ (8 * n)
  | .and => old &&& v
  | .or => old ||| v
  | .xor => old ^^^ v
  | .min => if signed v < signed old then v else old
  | .max => if signed old < signed v then v else old
  | .minu => if v < old then v else old
  | .maxu => if old < v then v else old
  | .xchg => v
  | .fadd => perLane n (fun x y => f32.add 0 x y) old v
  | .fmin => perLane n (extreme32 false) old v
  | .fmax => perLane n (extreme32 true) old v
  | .ld => old
  | .st => v
  | .cas => if old = v then w else old

/-- What a local word becomes under an atomic, `v` and `w` its operands (R171, R172). -/
def State.atomed (s : State) (op : AtomOp) (la n : Nat) (v w : Word) : State :=
  let new := atomTable op n (leNat (s.core.lm.bytes la n)) (v.toNat % 2 ^ (8 * n)) (w.toNat % 2 ^ (8 * n))
  if op = .ld then s else { s with core := { s.core with lm := s.core.lm.setBytes la (natLE n new) } }

/-- An acquire where a condition holds: the L1 is empty, and what follows comes after (R155, R157). -/
def State.acquired (s : State) (b : Bool) : State :=
  if b then State.fenced { s with core := { s.core with l1 := [] } } else s

/-- What Table 7.3 does not allow: the press window, a scope below system outside main memory, and the members that the
host has no request for (R163). -/
def atomBad (op : AtomOp) (pl : Place) (sc : BitVec 2) : Bool :=
  match pl with
  | .here la => decide (la < 0x400)
  | .core _ _ => false
  | .phys x => decide (0x100000000000 ≤ x.pa ∧ sc ≠ 3) || (isHostPA x.pa && !(op ∈ [AtomOp.add, .xchg, .ld, .st, .cas]))

/-- An atomic sets out for its home, and its slot awaits the old value, or, for AST, the end of its acquire; an acquire
orders what follows (R155, R157, R171). -/
def State.sendsAtom (s : State) (d : RSpec) (l : BitVec 4) (op : AtomOp) (acq : Bool) (kind : ReqKind) : State :=
  let a := s.core.cur.act
  let q : Req := { uid := s.uid, core := s.core.id, act := a.uid, kind := kind, served := false, slice := none
                   after := a.fence }
  let t : State := { s with
    reqs := s.reqs ++ [q]
    core := { s.core with cur := { s.core.cur with act := { a with fence := if acq then s.uid + 1 else a.fence } } } }
  if op = .st && !acq then State.after { t with uid := t.uid + 1 } 4
  else State.opened t (.reg (if op = .st then .z else d)) l.toNat none (fun sl => { sl with acq := acq }) 4


/-! ## Lanes -/

/-- What one lane computes: from the lane format, the rounding mode and the lane width, and the lanes of `a`, `b` and
the old `d`. -/
abbrev LaneFn := Fmt → RMode → Nat → Nat → Nat → Nat → Nat

/-- The elementwise members of VF, VI, VL and VC, 32-bit and compact, as the lane instruction that each issues, with
whether it reads `d` and with what its table row says that a lane becomes (Tables 8.3 to 8.6, R203). -/
inductive Lanewise : Instr → VInstr → Bool → LaneFn → Prop where
  | vaddF (d a b : LSpec) : Lanewise (.vaddF d a b) (laneOp (.f .add) d a b) false
      (fun f m _ x y _ => f.add m x y)
  | vaddFCompact (d : BitVec 6) (a : LSpec) : Lanewise (.vaddFCompact d a) (laneOp (.f .add) (.v d) (.v d) a) false
      (fun f m _ x y _ => f.add m x y)
  | vsubF (d a b : LSpec) : Lanewise (.vsubF d a b) (laneOp (.f .sub) d a b) false
      (fun f m _ x y _ => f.sub m x y)
  | vsubFCompact (d : BitVec 6) (a : LSpec) : Lanewise (.vsubFCompact d a) (laneOp (.f .sub) (.v d) (.v d) a) false
      (fun f m _ x y _ => f.sub m x y)
  | vmulF (d a b : LSpec) : Lanewise (.vmulF d a b) (laneOp (.f .mul) d a b) false
      (fun f m _ x y _ => f.mul m x y)
  | vmulFCompact (d : BitVec 6) (a : LSpec) : Lanewise (.vmulFCompact d a) (laneOp (.f .mul) (.v d) (.v d) a) false
      (fun f m _ x y _ => f.mul m x y)
  | vfma (d a b : LSpec) : Lanewise (.vfma d a b) (laneOp (.f .fma) d a b) true
      (fun f m _ x y z => f.fma m x y z)
  | vfms (d a b : LSpec) : Lanewise (.vfms d a b) (laneOp (.f .fms) d a b) true
      (fun f m _ x y z => f.fms m x y z)
  | vmaxF (d a b : LSpec) : Lanewise (.vmaxF d a b) (laneOp (.f .max) d a b) false
      (fun f _ _ x y _ => f.vmax x y)
  | vmaxFCompact (d : BitVec 6) (a : LSpec) : Lanewise (.vmaxFCompact d a) (laneOp (.f .max) (.v d) (.v d) a) false
      (fun f _ _ x y _ => f.vmax x y)
  | vminF (d a b : LSpec) : Lanewise (.vminF d a b) (laneOp (.f .min) d a b) false
      (fun f _ _ x y _ => f.vmin x y)
  | vminFCompact (d : BitVec 6) (a : LSpec) : Lanewise (.vminFCompact d a) (laneOp (.f .min) (.v d) (.v d) a) false
      (fun f _ _ x y _ => f.vmin x y)
  | vnegF (d a : LSpec) : Lanewise (.vnegF d a) (laneOp (.f .neg) d a .vz) false
      (fun f _ _ x _ _ => x ^^^ f.sgn true)
  | vnegFCompact (d : BitVec 6) (a : LSpec) : Lanewise (.vnegFCompact d a) (laneOp (.f .neg) (.v d) a .vz) false
      (fun f _ _ x _ _ => x ^^^ f.sgn true)
  | vabsF (d a : LSpec) : Lanewise (.vabsF d a) (laneOp (.f .abs) d a .vz) false
      (fun f _ _ x _ _ => x % f.sgn true)
  | vabsFCompact (d : BitVec 6) (a : LSpec) : Lanewise (.vabsFCompact d a) (laneOp (.f .abs) (.v d) a .vz) false
      (fun f _ _ x _ _ => x % f.sgn true)
  | vrcp (d a : LSpec) : Lanewise (.vrcp d a) (laneOp (.f .rcp) d a .vz) false
      (fun f _ _ x _ _ => f.rcp x)
  | vrsq (d a : LSpec) : Lanewise (.vrsq d a) (laneOp (.f .rsq) d a .vz) false
      (fun f _ _ x _ _ => f.rsq x)
  | vrcps (d a b : LSpec) : Lanewise (.vrcps d a b) (laneOp (.f .rcps) d a b) false
      (fun f m _ x y _ => f.rcps m x y)
  | vrsqs (d a b : LSpec) : Lanewise (.vrsqs d a b) (laneOp (.f .rsqs) d a b) false
      (fun f m _ x y _ => f.rsqs m x y)
  | vexp2 (d a : LSpec) : Lanewise (.vexp2 d a) (laneOp (.f .exp2) d a .vz) false
      (fun f m _ x _ _ => f.exp2 m x)
  | vlog2 (d a : LSpec) : Lanewise (.vlog2 d a) (laneOp (.f .log2) d a .vz) false
      (fun f m _ x _ _ => f.log2 m x)
  | vclamp (d a b : LSpec) : Lanewise (.vclamp d a b) (laneOp (.f .clamp) d a b) true
      (fun f _ _ x y z => f.clamp x y z)
  | vaddI (d a b : LSpec) : Lanewise (.vaddI d a b) (laneOp (.i .add) d a b) false
      (fun _ _ w x y _ => (x + y) % 2 ^ w)
  | vaddICompact (d : BitVec 6) (a : LSpec) : Lanewise (.vaddICompact d a) (laneOp (.i .add) (.v d) (.v d) a) false
      (fun _ _ w x y _ => (x + y) % 2 ^ w)
  | vsubI (d a b : LSpec) : Lanewise (.vsubI d a b) (laneOp (.i .sub) d a b) false
      (fun _ _ w x y _ => wrapBits ((x : Int) - y) w)
  | vsubICompact (d : BitVec 6) (a : LSpec) : Lanewise (.vsubICompact d a) (laneOp (.i .sub) (.v d) (.v d) a) false
      (fun _ _ w x y _ => wrapBits ((x : Int) - y) w)
  | vmulI (d a b : LSpec) : Lanewise (.vmulI d a b) (laneOp (.i .mul) d a b) false
      (fun _ _ w x y _ => x * y % 2 ^ w)
  | vmulh (d a b : LSpec) : Lanewise (.vmulh d a b) (laneOp (.i .mulh) d a b) false
      (fun _ _ w x y _ => wrapBits (toSigned x w * toSigned y w / 2 ^ w) w)
  | vmad (d a b : LSpec) : Lanewise (.vmad d a b) (laneOp (.i .mad) d a b) true
      (fun _ _ w x y z => (x * y + z) % 2 ^ w)
  | vmaxI (d a b : LSpec) : Lanewise (.vmaxI d a b) (laneOp (.i .max) d a b) false
      (fun _ _ w x y _ => if toSigned x w < toSigned y w then y else x)
  | vmaxICompact (d : BitVec 6) (a : LSpec) : Lanewise (.vmaxICompact d a) (laneOp (.i .max) (.v d) (.v d) a) false
      (fun _ _ w x y _ => if toSigned x w < toSigned y w then y else x)
  | vminI (d a b : LSpec) : Lanewise (.vminI d a b) (laneOp (.i .min) d a b) false
      (fun _ _ w x y _ => if toSigned y w < toSigned x w then y else x)
  | vminICompact (d : BitVec 6) (a : LSpec) : Lanewise (.vminICompact d a) (laneOp (.i .min) (.v d) (.v d) a) false
      (fun _ _ w x y _ => if toSigned y w < toSigned x w then y else x)
  | vabsI (d a : LSpec) : Lanewise (.vabsI d a) (laneOp (.i .abs) d a .vz) false
      (fun _ _ w x _ _ => (toSigned x w).natAbs % 2 ^ w)
  | vshl (d a b : LSpec) : Lanewise (.vshl d a b) (laneOp (.i .shl) d a b) false
      (fun _ _ w x y _ => x * 2 ^ (y % w) % 2 ^ w)
  | vshlICompact (d : BitVec 6) (a : LSpec) : Lanewise (.vshlICompact d a) (laneOp (.i .shl) (.v d) (.v d) a) false
      (fun _ _ w x y _ => x * 2 ^ (y % w) % 2 ^ w)
  | vshr (d a b : LSpec) : Lanewise (.vshr d a b) (laneOp (.i .shr) d a b) false
      (fun _ _ w x y _ => x / 2 ^ (y % w))
  | vsra (d a b : LSpec) : Lanewise (.vsra d a b) (laneOp (.i .sra) d a b) false
      (fun _ _ w x y _ => wrapBits (toSigned x w / 2 ^ (y % w)) w)
  | vadds (d a b : LSpec) : Lanewise (.vadds d a b) (laneOp (.i .adds) d a b) false
      (fun _ _ w x y _ => wrapBits (satBits (toSigned x w + toSigned y w) w) w)
  | vsubs (d a b : LSpec) : Lanewise (.vsubs d a b) (laneOp (.i .subs) d a b) false
      (fun _ _ w x y _ => wrapBits (satBits (toSigned x w - toSigned y w) w) w)
  | vmaxu (d a b : LSpec) : Lanewise (.vmaxu d a b) (laneOp (.i .maxu) d a b) false
      (fun _ _ _ x y _ => if x < y then y else x)
  | vminu (d a b : LSpec) : Lanewise (.vminu d a b) (laneOp (.i .minu) d a b) false
      (fun _ _ _ x y _ => if y < x then y else x)
  | vnegI (d a : LSpec) : Lanewise (.vnegI d a) (laneOp (.i .neg) d a .vz) false
      (fun _ _ w x _ _ => wrapBits (-toSigned x w) w)
  | vand (d a b : LSpec) : Lanewise (.vand d a b) (laneOp (.b .and) d a b) false
      (fun _ _ _ x y _ => x &&& y)
  | vandCompact (d : BitVec 6) (a : LSpec) : Lanewise (.vandCompact d a) (laneOp (.b .and) (.v d) (.v d) a) false
      (fun _ _ _ x y _ => x &&& y)
  | vor (d a b : LSpec) : Lanewise (.vor d a b) (laneOp (.b .or) d a b) false
      (fun _ _ _ x y _ => x ||| y)
  | vorCompact (d : BitVec 6) (a : LSpec) : Lanewise (.vorCompact d a) (laneOp (.b .or) (.v d) (.v d) a) false
      (fun _ _ _ x y _ => x ||| y)
  | vxor (d a b : LSpec) : Lanewise (.vxor d a b) (laneOp (.b .xor) d a b) false
      (fun _ _ _ x y _ => x ^^^ y)
  | vxorCompact (d : BitVec 6) (a : LSpec) : Lanewise (.vxorCompact d a) (laneOp (.b .xor) (.v d) (.v d) a) false
      (fun _ _ _ x y _ => x ^^^ y)
  | vandn (d a b : LSpec) : Lanewise (.vandn d a b) (laneOp (.b .andn) d a b) false
      (fun _ _ w x y _ => x &&& (2 ^ w - 1 - y))
  | vnot (d a : LSpec) : Lanewise (.vnot d a) (laneOp (.b .not) d a .vz) false
      (fun _ _ w x _ _ => 2 ^ w - 1 - x)
  | vmov (d a : LSpec) : Lanewise (.vmov d a) (laneOp (.b .mov) d a .vz) false
      (fun _ _ _ x _ _ => x)
  | vmovCompact (d : BitVec 6) (a : LSpec) : Lanewise (.vmovCompact d a) (laneOp (.b .mov) (.v d) a .vz) false
      (fun _ _ _ x _ _ => x)
  | vpopc (d a : LSpec) : Lanewise (.vpopc d a) (laneOp (.b .popc) d a .vz) false
      (fun _ _ w x _ _ => popBits w x)
  | vclz (d a : LSpec) : Lanewise (.vclz d a) (laneOp (.b .clz) d a .vz) false
      (fun _ _ w x _ _ => clzBits w x)
  | vceqF (d a b : LSpec) : Lanewise (.vceqF d a b) (laneOp (.c .eqF) d a b) false
      (fun f _ w x y _ => if !(f.isNaN x || f.isNaN y) && f.eqv x y then 2 ^ w - 1 else 0)
  | vcneF (d a b : LSpec) : Lanewise (.vcneF d a b) (laneOp (.c .neF) d a b) false
      (fun f _ w x y _ => if f.isNaN x || f.isNaN y || !f.eqv x y then 2 ^ w - 1 else 0)
  | vcltF (d a b : LSpec) : Lanewise (.vcltF d a b) (laneOp (.c .ltF) d a b) false
      (fun f _ w x y _ => if !(f.isNaN x || f.isNaN y) && f.ltv x y then 2 ^ w - 1 else 0)
  | vcleF (d a b : LSpec) : Lanewise (.vcleF d a b) (laneOp (.c .leF) d a b) false
      (fun f _ w x y _ => if !(f.isNaN x || f.isNaN y) && (f.ltv x y || f.eqv x y) then 2 ^ w - 1 else 0)
  | vcunF (d a b : LSpec) : Lanewise (.vcunF d a b) (laneOp (.c .unF) d a b) false
      (fun f _ w x y _ => if f.isNaN x || f.isNaN y then 2 ^ w - 1 else 0)
  | vceqI (d a b : LSpec) : Lanewise (.vceqI d a b) (laneOp (.c .eqI) d a b) false
      (fun _ _ w x y _ => if x = y then 2 ^ w - 1 else 0)
  | vcneI (d a b : LSpec) : Lanewise (.vcneI d a b) (laneOp (.c .neI) d a b) false
      (fun _ _ w x y _ => if x ≠ y then 2 ^ w - 1 else 0)
  | vcltI (d a b : LSpec) : Lanewise (.vcltI d a b) (laneOp (.c .ltI) d a b) false
      (fun _ _ w x y _ => if toSigned x w < toSigned y w then 2 ^ w - 1 else 0)
  | vcleI (d a b : LSpec) : Lanewise (.vcleI d a b) (laneOp (.c .leI) d a b) false
      (fun _ _ w x y _ => if toSigned x w ≤ toSigned y w then 2 ^ w - 1 else 0)
  | vcltu (d a b : LSpec) : Lanewise (.vcltu d a b) (laneOp (.c .ltU) d a b) false
      (fun _ _ w x y _ => if x < y then 2 ^ w - 1 else 0)
  | vcleu (d a b : LSpec) : Lanewise (.vcleu d a b) (laneOp (.c .leU) d a b) false
      (fun _ _ w x y _ => if x ≤ y then 2 ^ w - 1 else 0)

/-- The conversions of VX, with their lane instruction, their operands and part, the width of their packed side, whether
that is the source, and what an element becomes under a rounding mode and a codebook (Tables 3.5 and 8.8). -/
inductive Conversion : Instr → VInstr → LSpec → LSpec → Nat → Option Nat → Bool → (RMode → List Nat → Nat → Nat) → Prop where
  | vcvtF32F16 (d a : LSpec) (p : BitVec 7) : Conversion (.vcvtF32F16 d a p)
      { op := .x .f32f16, d := d, a := a, b := .vz, r := .z, q := .z, k := p.toNat } d a p.toNat (some 16) true (fun _ _ x => f16.widen x)
  | vcvtF16F32 (d a : LSpec) (p : BitVec 7) : Conversion (.vcvtF16F32 d a p)
      { op := .x .f16f32, d := d, a := a, b := .vz, r := .z, q := .z, k := p.toNat } d a p.toNat (some 16) false (fun m _ x => f16.narrow m x)
  | vcvtF32Bf16 (d a : LSpec) (p : BitVec 7) : Conversion (.vcvtF32Bf16 d a p)
      { op := .x .f32bf16, d := d, a := a, b := .vz, r := .z, q := .z, k := p.toNat } d a p.toNat (some 16) true (fun _ _ x => bf16.widen x)
  | vcvtBf16F32 (d a : LSpec) (p : BitVec 7) : Conversion (.vcvtBf16F32 d a p)
      { op := .x .bf16f32, d := d, a := a, b := .vz, r := .z, q := .z, k := p.toNat } d a p.toNat (some 16) false (fun m _ x => bf16.narrow m x)
  | vcvtF32E4m3 (d a : LSpec) (p : BitVec 7) : Conversion (.vcvtF32E4m3 d a p)
      { op := .x .f32e4m3, d := d, a := a, b := .vz, r := .z, q := .z, k := p.toNat } d a p.toNat (some 8) true (fun _ _ x => e4m3.widen x)
  | vcvtE4m3F32 (d a : LSpec) (p : BitVec 7) : Conversion (.vcvtE4m3F32 d a p)
      { op := .x .e4m3f32, d := d, a := a, b := .vz, r := .z, q := .z, k := p.toNat } d a p.toNat (some 8) false (fun m _ x => e4m3.narrow m x)
  | vcvtF32E5m2 (d a : LSpec) (p : BitVec 7) : Conversion (.vcvtF32E5m2 d a p)
      { op := .x .f32e5m2, d := d, a := a, b := .vz, r := .z, q := .z, k := p.toNat } d a p.toNat (some 8) true (fun _ _ x => e5m2.widen x)
  | vcvtE5m2F32 (d a : LSpec) (p : BitVec 7) : Conversion (.vcvtE5m2F32 d a p)
      { op := .x .e5m2f32, d := d, a := a, b := .vz, r := .z, q := .z, k := p.toNat } d a p.toNat (some 8) false (fun m _ x => e5m2.narrow m x)
  | vcvtI32F32 (d a : LSpec) : Conversion (.vcvtI32F32 d a) (laneOp (.x .i32f32) d a .vz) d a 0 none false (fun m _ x => toI32 m x)
  | vcvtF32I32 (d a : LSpec) : Conversion (.vcvtF32I32 d a) (laneOp (.x .f32i32) d a .vz) d a 0 none false (fun m _ x => fromI32 m x)
  | vcvtI16I32 (d a : LSpec) (p : BitVec 7) : Conversion (.vcvtI16I32 d a p)
      { op := .x .i16i32, d := d, a := a, b := .vz, r := .z, q := .z, k := p.toNat } d a p.toNat (some 16) false (fun _ _ x => satInt 16 x)
  | vcvtI32I16 (d a : LSpec) (p : BitVec 7) : Conversion (.vcvtI32I16 d a p)
      { op := .x .i32i16, d := d, a := a, b := .vz, r := .z, q := .z, k := p.toNat } d a p.toNat (some 16) true (fun _ _ x => extInt 16 x)
  | vcvtF32Cb4 (d a : LSpec) (p : BitVec 7) : Conversion (.vcvtF32Cb4 d a p)
      { op := .x .f32cb4, d := d, a := a, b := .vz, r := .z, q := .z, k := p.toNat } d a p.toNat (some 4) true (fun _ cb x => bf16.widen (cb.getD x 0))
  | vcvtCb4F32 (d a : LSpec) (p : BitVec 7) : Conversion (.vcvtCb4F32 d a p)
      { op := .x .cb4f32, d := d, a := a, b := .vz, r := .z, q := .z, k := p.toNat } d a p.toNat (some 4) false (fun _ cb x => toCb4 cb x)
  | vcvtI8I32 (d a : LSpec) (p : BitVec 7) : Conversion (.vcvtI8I32 d a p)
      { op := .x .i8i32, d := d, a := a, b := .vz, r := .z, q := .z, k := p.toNat } d a p.toNat (some 8) false (fun _ _ x => satInt 8 x)
  | vcvtI32I8 (d a : LSpec) (p : BitVec 7) : Conversion (.vcvtI32I8 d a p)
      { op := .x .i32i8, d := d, a := a, b := .vz, r := .z, q := .z, k := p.toNat } d a p.toNat (some 8) true (fun _ _ x => extInt 8 x)

/-- Every press command is done, or none of them sets the mode or touches a row. -/
def State.laneFree (s : State) : Bool := s.core.busySlots.isEmpty

/-- What reading the current mask leaves: any but `m0` makes the activation uncheckable (R108, R182). -/
def State.maskSeen (s : State) : State := if s.core.cur.lmask = 0 then s else s.uncheck

/-- The taint of the register that a lane source reads (R200). -/
def State.laneTaint (s : State) (a : LSpec) : Bool :=
  match a with
  | .post p | .str p => (s.core.regVal (ptrReg p)).taint
  | .bcast i => (s.core.regVal (.ofNat 5 (16 + i.toNat))).taint
  | .v _ | .vz | .vout _ | .vin _ | .m _ => false

/-- The local row that a stream operand names, where its pointer is clean, aligned and in scratch banks, and past the
queue window for a destination (R177). -/
def State.streamRow (s : State) (p : BitVec 3) (dest : Bool) : Option Nat :=
  let v := s.core.regVal (ptrReg p)
  let la := v.bits.toNat % 2 ^ 17
  if !v.poison && decide (v.bits.toNat % 256 = 0) && s.core.scratch la 256 && (!dest || decide (0x400 ≤ la)) then some la
  else none


/-! ## Scales, the press and copies -/

/-- A rind register given 64 scales: its generation rises, and tags that recorded the one it reaches empty (R234). -/
def State.withRind (s : State) (k : Nat) (l : List (Nat × Bool)) : State :=
  { s with core := s.core.writeRind k (packScales l).1 (packScales l).2 }

/-- The scales of a rind register. -/
def State.scalesAt (s : State) (k : BitVec 4) : List (Nat × Bool) := (s.core.rind.getD k.toNat .load).list

/-- The state in which scales are written or a command is pushed: as it stands with SELFPRESS, else an irrevocable act
(R245). None where it cannot be made now. -/
def State.scalable (s : State) : Option State := if s.core.selfpress then some s else s.irrevocably

/-- A binding tag with a new content. -/
def State.withTag (s : State) (t : Nat) (x : Tag) : State := { s with core := { s.core with tags := s.core.tags.set t x } }

/-- The scale members of two sources with what they make of two scales neither of which is 255 (Table 10.5). -/
inductive ScaleOp : Instr → BitVec 4 → BitVec 4 → BitVec 4 → (Nat → Nat → Int) → Prop where
  | kadd (kd ka kb : BitVec 4) : ScaleOp (.kadd kd ka kb) kd ka kb (fun x y => x + y - 127)
  | ksub (kd ka kb : BitVec 4) : ScaleOp (.ksub kd ka kb) kd ka kb (fun x y => x - y + 127)
  | kmax (kd ka kb : BitVec 4) : ScaleOp (.kmax kd ka kb) kd ka kb (fun x y => if x < y then y else x)
  | kmin (kd ka kb : BitVec 4) : ScaleOp (.kmin kd ka kb) kd ka kb (fun x y => if x < y then x else y)

/-- The own address of a KMEM member: aligned, and with all its bytes in the core's scratch banks; and the access in order
(R155). -/
def State.ownBlock (s : State) (base : Val) (unit n : Nat) : Option Nat :=
  let va := addr48 base.bits
  let la := va % 2 ^ 17
  if !base.poison && decide (0xFFFFFFFE0000 ≤ va) && decide (va % unit = 0) && s.core.scratch la n && s.ordered then some la
  else none

/-- The counters a core can see: the result of a CNT member that has been sent. -/
def State.sent (s : State) (d : RSpec) (l : Nat) : State := s.opened (.reg d) l none id 4

/-- A token that the core in focus sends into a network, with the slot that waits for its result. -/
def State.tokenTo (s : State) (uid ctx : Nat) (net : NetId) (anti : Bool) (logw : Nat) (ret taint : Bool) : Tok :=
  { uid := uid, ctx := ctx, net := net, anti := anti, layer := 0, wire := s.core.id % 2 ^ logw, core := some s.core.id,
    act := s.core.cur.act.uid, ret := ret, taint := taint, requester := s.core.id, waiting := false }

/-- A channel of the cluster has accepted a copy of the running activation, which joins the open batch (R283, R290). -/
def State.copied (s : State) (ch : Nat) (dws : List Word) : State :=
  let j : CopyJob := { uid := s.uid, desc := dws, core := some s.core.id, hi := s.core.curHi, ctx := s.myCtx, pkt := none,
                       seq := 0, next := 0, issued := 0, done := 0, status := none, priv := s.core.priv }
  let t := State.acceptCopy { s with uid := s.uid + 1 } (clusterOf s.core.id) ch j
  let b := t.core.batches t.core.curHi
  let c := t.core.putBatches t.core.curHi { b with openLeft := b.openLeft ++ [s.uid], openUsed := true }
  { t with core := c }

/-- Registers from one on that are all w registers, read as dwords. -/
def State.words (s : State) (r : RSpec) (n : Nat) : Option (List Word) :=
  match r with
  | .w i => if i.toNat + n ≤ 32 && (s.regRun i n).all (fun v => !v.poison) then some ((s.regRun i n).map (·.bits)) else none
  | .z | .inq | .inp _ | .out _ => none

/-- A store of the window of the press queue, which a slot's last byte completes (R208): the slot is free, and no check
run occupies the core; the completed slot at TAIL is pushed. None where it cannot be made now. -/
def State.queued (s : State) (la n : Nat) (bytes : List Byte) (pois : List Bool) : Option State :=
  let k := la / 64
  let p := s.core.press
  if p.stAt k == .free && !s.core.checkElsewhere then
    if k = p.tail.toNat ∧ la % 64 + n = 64 ∧ p.pend < 16 ∧ (∀ th ∈ s.core.threads, th.slots = []) then
      (s.scalable.filter State.ordered).map (fun t =>
        let u := t.stored la bytes pois
        { u with core := u.core.push u.uid, uid := u.uid + 1 })
    else if k = p.tail.toNat ∧ la % 64 + n = 64 then none
    else (s.irrevocably.filter State.ordered).map (fun t => t.stored la bytes pois)
  else none

/-- The arrival of PHASE at the phase barrier `b` of its domain: an irrevocable act, a release, no phased store of the
phase left to acknowledge and no sample held, and the core not in the generation yet; its token sets out, or a domain of
one core completes at once, and the core's phase number rises (R174). None where it cannot be made now. -/
def State.comes (s : State) (b : Barrier) : Option State :=
  (s.irrevocably.bind (fun t => t.releases false)).bind (fun t =>
    let id := t.core.id
    let phased (x : Buffered) : Bool := match x.op.cls with
      | .phased _ p => p == t.core.phaseNo
      | .direct => false
    if t.core.storeBuf.any phased || t.samplesHeld || b.arrived.has id || b.owed.contains id then none
    else
      let u :=
        if b.n = 1 then
          let c := t.completeBarrier b
          match c.barrier? b.ctx b.id with
          | none => c
          | some next => c.writeCopy next id
        else State.modBarrier
          { t with tokens := t.tokens ++ [t.tokenTo 0 b.ctx (.barrier b.id) false b.logw false false] } b.ctx b.id
          (fun x => { x with arrived := x.arrived.ins id })
      some { u with core := { u.core with phaseNo := t.core.phaseNo + 1 } })

/-- Every press command is done, and no load has a tile row, rind register or tag still to write. -/
def State.scaleFree (s : State) : Bool := s.laneFree && s.core.threads.all (fun th => th.slots.isEmpty)

/-- The pieces of at most 256 bytes of a KMEM area (R248, R249). -/
def areaPieces (va n : Nat) : List (Nat × Nat) :=
  (List.range ((n + 255) / 256)).map (fun j => ((va + 256 * j) % 2 ^ 48, min 256 (n - 256 * j)))

/-- The places of pieces of memory, or the first fault on the way to one. -/
def State.areaAt (r : RSpec) (k : Access) : List (Nat × Nat) → State → Except TrapInfo (List (Place × Nat × Nat) × State)
  | [], s => .ok ([], s)
  | (va, n) :: l, s => match s.badPlace r va n k, s.placeAt va n k with
    | none, some (pl, t) => (State.areaAt r k l t).map (fun x => ((pl, va, n) :: x.1, x.2))
    | bad, _ => .error (bad.getD (simpleTrap cBANK (.ofNat 64 va)))

/-- Pieces of memory are read one after the other. None where one cannot be read now. -/
def State.areaRead (home : Bool) : List (Place × Nat × Nat) → State → Option (List (Byte × Bool) × State)
  | [], s => some ([], s)
  | (pl, _, n) :: l, s => (s.readsNow pl n home).bind (fun x => (State.areaRead home l x.2).map (fun y => (x.1 ++ y.1, y.2)))

/-- Pieces of memory are stored, by the one store instruction numbered `seq`. None where one cannot be stored now. -/
def State.areaStore (seq : Nat) : List (Place × Nat × Nat) → List (Byte × Bool) → State → Option State
  | [], _, s => some s
  | (pl, _, n) :: l, bs, s =>
    (s.storesAt seq pl .normal ((bs.take n).map (·.1)) ((bs.take n).map (·.2)) false).bind (State.areaStore seq l (bs.drop n))

/-- The stores that TST makes of a run of bytes, page by page; of one half of a byte, the high or the low, where `nib` says
so (R244). -/
def State.tileOps (s : State) (xs : List (Nat × Xlat)) (nib : Option Bool) (va : Nat) (bs : List (Byte × Bool)) :
    List StoreOp :=
  (unitsOf 4096 va bs.length).filterMap (fun p =>
    let lo := max va (4096 * p)
    let piece := (bs.drop (lo - va)).take (min (va + bs.length) (4096 * (p + 1)) - lo)
    (xs.find? (fun q => q.1 == p)).map (fun q =>
      let x : Xlat := { q.2 with pa := q.2.pa + lo % 4096 }
      { s.storeOp s.uid (.phys (s.keyHere x.pa)) (x.use .normal) (piece.map (·.1)) (piece.map (·.2)) false (s.storeClass x)
          (leafPol x.leaf == 1) with nib := nib }))

/-- The stores that TST makes of a local row of 4-bit elements or larger: a first element in the high half of a byte and a
last one in the low half are stored as that half alone (R244). -/
def State.rowOps (s : State) (t : Tile) (dst : Nat) (xs : List (Nat × Xlat)) (i : Nat) : List StoreOp :=
  let b := fmtBits (ttFmt t.e)
  let es := (elemsOf b (s.localBytes (dst + i * t.rb) t.rb)).take (t.inRow i)
  let head := b == 4 && t.col0 % 2 == 1
  let tail := b == 4 && (t.col0 + t.inRow i) % 2 == 1
  let pad (x : Bool) : List (Nat × Bool) := if x then [(0, false)] else []
  let bs := bytesOf b (pad head ++ es ++ pad tail)
  let va := (t.rowBytes i).1
  let h := if head then 1 else 0
  let e := bs.length - (if tail then 1 else 0)
  (if head then s.tileOps xs (some true) va (bs.take 1) else []) ++
    (if h < e then s.tileOps xs none (va + h) ((bs.take e).drop h) else []) ++
    (if tail then s.tileOps xs (some false) (va + e) (bs.drop e) else [])

/-- The stores of TST: each local row of the tile within the tensor, then its scales `ks` in runs of consecutive
addresses (R244). -/
def State.tileStores (s : State) (t : Tile) (dst : Nat) (xs : List (Nat × Xlat)) (ks : List (Nat × Bool)) : List StoreOp :=
  (List.range t.nr).flatMap (fun i => if (t.rowBytes i).2 = 0 then [] else s.rowOps t dst xs i) ++
  (scaleRuns (ks.zipIdx.filterMap (fun (l, n) => (t.scaleAddr n).map (fun va => (va, l))))).flatMap (fun (va, ls) =>
    s.tileOps xs none va (ls.map (fun (x, p) => (BitVec.ofNat 8 x, p))))

/-- The stores of one instruction leave the activation, or it holds them (R107, R137). None where they cannot be made
now. -/
def State.sendsStores (s : State) (ops : List StoreOp) : Option State :=
  ops.foldl (fun t o => t.bind (fun u => u.stores o)) (some s.numbered)

/-- What a special register holds, by its number (Tables 13.1, 13.2, 16.3 and 16.4; R148). -/
def State.Contents (s : State) (num : Nat) (v : Word) : Prop :=
  let c := s.core
  let a := c.cur.act
  let flag (b : Bool) (k : Nat) : Nat := if b then 2 ^ k else 0
  let here := ((List.range 128).map (clusterOf c.id * 128 + ·)).filter s.corePresent
  let acked := here.filter (fun i => (s.coreOf i).acked)
  let asked := s.contexts.any (fun x => x.part == s.myPart && x.st == .preempting)
  (num = 0x000 → v = .ofNat 64 c.id) ∧
  (∀ k, c.kern = some k →
    (num = 0x001 → v = .ofNat 64 (k.cohort * 2 ^ 32 + k.group % 2 ^ 16)) ∧
    (num = 0x002 → k.ry < 8 → k.rx < 16 → v = .ofNat 64 (k.ry * 2 ^ 12 + k.rx * 2 ^ 8 + (k.ry * k.gx + k.rx) % 2 ^ 7)) ∧
    (num = 0x003 → v = k.kid.setWidth 64) ∧
    (num = 0x004 → v = .ofNat 64 (s.myPart * 2 ^ 16 + k.ctx % 2 ^ 16))) ∧
  (num = 0x005 → v = s.ts) ∧ (num = 0x006 → v = a.id) ∧ (num = 0x007 → v = a.tag.setWidth 64) ∧
  (num = 0x008 → v = a.entry.setWidth 64) ∧ (num = 0x009 → v = a.replyTo) ∧
  (num = 0x00A → v = .ofNat 64 (flag c.forced 63 + c.phaseNo.toNat)) ∧
  (num = 0x100 → v = c.cur.rmode.setWidth 64) ∧ (num = 0x101 → v = c.cur.lmask.setWidth 64) ∧
  (num = 0x102 → let p := c.press
    v = .ofNat 64 (p.mark.toNat * 2 ^ 48 + p.pend * 2 ^ 43 + p.head.toNat * 2 ^ 39 + p.tail.toNat * 2 ^ 35 +
      p.scode.toNat * 2 ^ 31 + flag p.stop 30 + flag p.pair 5 + flag p.shadow.valid 4 + flag p.active.valid 3 +
      flag p.integer 2 + flag p.narrow 1 + flag p.ov 0)) ∧
  (num = 0x200 → v = c.wph.setWidth 64) ∧ (num = 0x201 → v = c.wpl.setWidth 64) ∧ (num = 0x202 → v = c.epc.setWidth 64) ∧
  (num = 0x203 → v = c.cause.setWidth 64) ∧ (num = 0x204 → v = c.tval) ∧ (num = 0x205 → v = c.tvec.setWidth 64) ∧
  (num = 0x206 → v = .ofNat 64 (flag c.inHandler 1 + flag c.priv 0)) ∧
  (num = 0x207 → v = .ofNat 64 (flag asked 32 + here.length * 2 ^ 16 + acked.length)) ∧
  (num = 0x209 → v = .ofNat 64 c.suspicion) ∧
  (∀ x, s.ctx? s.myCtx = some x →
    (num = 0x208 → v = .ofNat 64 (x.checkrate.toNat % 2 ^ 17)) ∧
    (num = 0x20A → v = .ofNat 64 (bitsAt x.cntpol 31 16 * 2 ^ 16 + bitsAt x.cntpol 5 0))) ∧
  (num = 0x20B → v = .ofNat 64 (bitsAt (s.part s.myPart).rampUp 15 0)) ∧
  (num = 0x20C → v = .ofNat 64 (bitsAt (s.part s.myPart).rampDn 15 0))

/-- What CRD shows of counter `n` to a context: 0 to 5 as they stand, and 6 to 8 as the partition held them DLY microseconds
ago, 1,000 counts of TS each, in steps of 2^Q (R20, R346, Table 16.7). -/
def State.Shows (s : State) (c : Context) (n v : Nat) : Prop :=
  let p := s.part c.part
  let d := bitsAt c.cntpol 31 16
  let q := bitsAt c.cntpol 5 0
  let held := ((p.counted.filter (fun x => decide (x.1 + 1000 * d ≤ s.ts.toNat))).getLast?.map (·.2)).getD (0, 0, 0)
  let past := if d = 0 then (p.bytesOut, p.bytesIn, p.tier2) else held
  (n = 0 → v = s.ts.toNat) ∧ (n = 1 → v = s.core.nInstr) ∧ (n = 2 → v = s.core.nStart) ∧ (n = 3 → v = s.core.nPress) ∧
  (n = 4 → v = s.core.nWait) ∧ (n = 5 → v = c.corrected) ∧ (n = 6 → v = past.1 / 2 ^ q * 2 ^ q) ∧
  (n = 7 → v = past.2.1 / 2 ^ q * 2 ^ q) ∧ (n = 8 → v = past.2.2 / 2 ^ q * 2 ^ q)


/-! ## The press -/

/-- The command at NEXT is `cmd`, in slot `k`, with nothing to stop it or hold it back (R210, R211, R213, R219). -/
structure State.Begins (s : State) (k : Nat) (cmd : PressCmd) : Prop where
  ready : s.pressReady = some k
  armed : s.armed = []
  clean : s.core.slotPoison k = false
  known : decodePress s.core.press.narrow (s.core.slotDwords k) = .ok cmd
  legal : s.core.stopCode (s.core.press.slots.getD k .empty) cmd = 0
  plain : s.core.imageGr = []

/-- A command has started in a slot and changed the press. -/
def State.pressed (s : State) (k : Nat) (f : Press → Press) : State :=
  let t := s.startSlot k
  State.wake { t with core := { t.core with press := f t.core.press } }

/-- Tile rows from one on replaced by a function of their number. -/
def Press.rowsFrom (p : Press) (row0 m : Nat) (f : Nat → Row) : Press :=
  { p with tile := p.tile.zipIdx.map (fun (r, j) => if row0 ≤ j ∧ j < row0 + m then f (j - row0) else r) }

/-- Elements of `b` bits of local memory with their poison. -/
def State.localElems (s : State) (b la n : Nat) : List Lane := elemsOf b (s.localBytes la n)

/-- In a local memory of canonical form: the bytes from an address on are these; every other byte is as before. -/
def State.Holds (t s : State) (la : Nat) (bs : List (Byte × Bool)) : Prop := s.core.wf = true →
  (∀ j, j < bs.length → t.core.lm.get (la + j) = (bs.getD j (0, false)).1) ∧
  (∀ x, (x < la ∨ la + bs.length ≤ x) → t.core.lm.get x = s.core.lm.get x)

/-- The press commands, with their syntax as an instruction. -/
inductive Command : Instr → PressCmd → Prop where
  | loadw (f tg th : BitVec 4) (tv : Bool) (a : BitVec 17) (st : BitVec 16) :
    Command (.loadw f tg th tv a st) (.loadw f tg th tv a st)
  | flip : Command .flip .flip
  | stream (f tg : BitVec 4) (tv acc : Bool) (r : BitVec 6) (m : BitVec 7) (a : BitVec 17) (st : BitVec 16) :
    Command (.stream f tg tv acc r m a st) (.stream f tg tv acc r m a st)
  | streamt (f tg : BitVec 4) (tv acc : Bool) (r : BitVec 6) (m : BitVec 7) (a : BitVec 17) (st : BitVec 16) :
    Command (.streamt f tg tv acc r m a st) (.streamt f tg tv acc r m a st)
  | tload (f : BitVec 4) (r : BitVec 6) (m : BitVec 7) (a : BitVec 17) (st : BitVec 16) :
    Command (.tload f r m a st) (.tload f r m a st)
  | tloadt (f : BitVec 4) (r : BitVec 6) (m : BitVec 7) (a : BitVec 17) (st : BitVec 16) :
    Command (.tloadt f r m a st) (.tloadt f r m a st)
  | tdrain (f : BitVec 4) (clr : Bool) (r : BitVec 6) (m : BitVec 7) (a : BitVec 17) (st : BitVec 16) (a2 : BitVec 17) :
    Command (.tdrain f clr r m a st a2) (.tdrain f clr r m a st a2)
  | tzero (r : BitVec 6) (m : BitVec 7) : Command (.tzero r m) (.tzero r m)
  | pmode (n i : Bool) : Command (.pmode n i) (.pmode n i)
  | ptable (a a2 : BitVec 17) : Command (.ptable a a2) (.ptable a a2)
  | pmark (inc : BitVec 16) : Command (.pmark inc) (.pmark inc)
  | psave (a : BitVec 17) : Command (.psave a) (.psave a)
  | prestore (a : BitVec 17) : Command (.prestore a) (.prestore a)

/-- The exact value of a product or an accumulator element that is finite. -/
def FV.rat : FV → ℚ
  | .num n m e => (if n then -1 else 1) * m * 2 ^ e
  | .nan | .inf _ => 0

/-- What a finite product that is not zero has for its exponent: floor(log2 |p|). -/
def FV.top : FV → Option Int
  | .num _ m e => if m = 0 then none else some ((Nat.log2 m : Int) + e)
  | .nan | .inf _ => none

/-- What a finite product comes to in units of 2^(E − 63), the bits below dropped from its magnitude. -/
def FV.inWindow (E : Int) : FV → Int
  | .num n m e => (if n then -1 else 1) * ⌊(m : ℚ) * 2 ^ (e - (E - 63))⌋
  | .nan | .inf _ => 0

/-- WindowSum: `E` is the largest exponent of the products, `W` their sum in units of 2^(E − 63), each without what falls
below the window, and `st` whether anything does (R66). -/
def WindowSum (ps : List FV) (W E : Int) (st : Bool) : Prop :=
  ((∀ p ∈ ps, p.top = none) → W = 0 ∧ st = false) ∧
  ((∃ p ∈ ps, p.top ≠ none) →
    (∃ p ∈ ps, p.top = some E) ∧ (∀ p ∈ ps, ∀ x, p.top = some x → x ≤ E) ∧ W = (ps.map (FV.inWindow E)).sum ∧
    (st = true ↔ ∃ p ∈ ps, (p.inWindow E : ℚ) * 2 ^ (E - 63) ≠ p.rat))

/-- The floating press step: the default NaN, an infinity, or RoundF under RNE of the exact sum T, with its sticky bit (R67,
R68). -/
def FloatStep (f : Fmt) (a : Nat) (ps : List FV) (sa sw v : Nat) : Prop :=
  let A := f.value a
  let nan := A = .nan ∨ sa = 255 ∨ sw = 255 ∨ FV.nan ∈ ps ∨ (FV.inf false ∈ ps ∧ FV.inf true ∈ ps) ∨
    (∃ n, A = .inf n ∧ FV.inf (!n) ∈ ps)
  (nan → v = f.defaultNaN) ∧
  (∀ n, ¬nan → (A = .inf n ∨ FV.inf n ∈ ps) → v = f.inf n) ∧
  (¬nan → (∀ n, A ≠ .inf n ∧ FV.inf n ∉ ps) → ∃ (W E : Int) (st : Bool), WindowSum ps W E st ∧
    let T : ℚ := A.rat + W * 2 ^ (E - 63 + sa + sw - 254)
    let minus (x : FV) : Prop := ∃ e, x = .num true 0 e
    (T = 0 → st = false → minus A → (∀ p ∈ ps, minus p) → v = f.zero true) ∧
    (T = 0 → ¬(st = false ∧ minus A ∧ ∀ p ∈ ps, minus p) → v = f.zero false) ∧
    (T ≠ 0 → ∃ (m : Nat) (e : Int), (m : ℚ) * 2 ^ e = |T| ∧ v = f.round 0 (decide (T < 0)) m e st))


/-! ## Memory, requests and the fabric -/

/-- No store error stands: none is armed, and no line of a slice has been found damaged. A line that leaves its slice
then writes nothing but its own bytes. -/
def State.NoErrors (s : State) : Prop := s.armed = [] ∧ ∀ x ∈ s.lines, x.damaged = []

/-- In a memory of canonical form without store errors: the bytes of physical memory from a key on are these; every
other byte is as before. -/
def State.MemHolds (t s : State) (key : Nat) (bs : List Byte) : Prop := s.memWf = true → s.NoErrors →
  (∀ j, j < bs.length → t.mem.get (key + j) = bs.getD j 0) ∧
  (∀ x, (x < key ∨ key + bs.length ≤ x) → t.mem.get x = s.mem.get x)

/-- The same of the local memory of a core. -/
def State.LocalHolds (t s : State) (core la : Nat) (bs : List Byte) : Prop := (s.coreOf core).wf = true →
  (∀ j, j < bs.length → (t.coreOf core).lm.get (la + j) = bs.getD j 0) ∧
  (∀ x, (x < la ∨ la + bs.length ≤ x) → (t.coreOf core).lm.get x = (s.coreOf core).lm.get x)

/-- Whether byte `j` of a line lies among `n` bytes at a key. -/
def inLine (line j key n : Nat) : Bool := decide (key ≤ 128 * line + j ∧ 128 * line + j < key + n)

/-- The bytes of memory as they stand, with the poison of their granules (R134). -/
def State.memBytes (s : State) (key n : Nat) : List (Byte × Bool) :=
  (List.range n).map (fun j => (s.mem.get (key + j), s.memPoison.has ((key + j) / 16)))

/-- A core of the device, which stands in the queue position its id gives it, runs nothing. -/
structure State.Resting (s : State) : Prop where
  active : s.core.active = false
  susp : s.core.susp = none
  frame : s.core.frame = none
  stop : s.core.stopReq = false
  frozen : s.core.frozen = false
  inHi : s.core.inHi = []
  inLo : s.core.inLo = []
  low : s.core.lowTrapped = false
  runs : s.mayRun s.core.id = true

/-- A run of a sample has started on a core (R390, R438): the retained activation runs from its entry as a check on the
private image, the press is in load state, the rind and the tensor table are as at load, the L1 is empty, and local
memory stays. -/
def State.RunsSample (t s : State) (k : Check) (core : Nat) : Prop :=
  let c := t.coreOf core
  c.active = true ∧ c.cur.pc = k.act.entry ∧ c.cur.act.isCheck = true ∧ c.checkHome = k.core ∧ c.image = k.inputs ∧
  c.imagePois = k.inPois ∧ c.checkTt = k.tt ∧ c.tt = [] ∧ c.l1 = [] ∧
  c.press = (k.kern.map KernInfo.checkPress).getD .load ∧ c.rind = List.replicate 16 .load ∧
  c.lm = (s.coreOf core).lm

/-! ## The host, the links and management -/

/-- The device answers outside, and waiting cores look again. -/
def State.answers (s : State) (o : HostOut) : State := State.wake { s with hostOut := s.hostOut ++ [o] }

/-- A management window exists and is not busy (R376). -/
def State.Idle (s : State) (w : Window) : Prop := ∃ m, s.window w = some m ∧ m.busy = false

/-- Dword `j` of a window's argument block. -/
def State.arg (s : State) (w : Window) (j : Nat) : Word := ((s.window w).map (fun m => m.arg.getD j 0)).getD 0

/-- A window after its command has completed with a RESULT (R376). -/
def State.Completed (t s : State) (w : Window) (r : BitVec 8) : Prop :=
  t.window w = (s.window w).map (fun m => { m with busy := false, result := r })

/-- A command has completed with a RESULT and no other effect. -/
def State.onlyResult (s : State) (w : Window) (r : BitVec 8) : State :=
  State.wake (s.modWindow w (fun m => { m with busy := false, result := r }))

/-- A port in a new state. -/
def Port.into (q : Port) (st : PortSt) : Port := { q with st := st }

/-- The digest by which a layout of partitions and allotments is measured (Table 21.1; log entry 94). -/
def State.layoutDigest (t : State) : BitVec 256 :=
  Config.layoutDigest (t.partitions.map (fun p => (p.first, p.across, p.rows))) (t.ports.map (·.owner))
    (t.ethPorts.map (·.owner)) t.tier2Owner

/-! ## Issue -/

/-- The core in focus runs an activation that has no window open and no repetition buffer at work. -/
structure State.Issues (s : State) : Prop where
  active : s.core.active = true
  slots : s.core.cur.slots = []
  rep : s.core.cur.rep = none
  armed : s.armed = []

/-- The privileged encodings but for those of SRD and SWR (R50). -/
inductive Privileged : Instr → Prop where
  | rte : Privileged .rte
  | idle : Privileged .idle
  | trcm (a : RSpec) : Privileged (.trcm a)
  | tlbinv (a b : RSpec) : Privileged (.tlbinv a b)
  | errinj (a b : RSpec) : Privileged (.errinj a b)

/-- `r` is the lowest of some register numbers at or above a limit. -/
def LowestFrom (limit r : Nat) (rs : List Nat) : Prop := r ∈ rs ∧ limit ≤ r ∧ ∀ x ∈ rs, limit ≤ x → r ≤ x

/-- The state when the core in focus has its turn at a step: the clock has moved on, and a waiting message of high
priority has suspended an activation of low priority (R97). -/
def State.atTurn (s : State) (rest : List Turn) : State := State.suspend { s.clock with agenda := rest }

/-- The instruction an encoding stands for (R29). -/
noncomputable def decoded (w : Nat) : Option Instr := if w % 2 = 0 then decodeHalf w else decodeWord w

end Sys2Proof.Machine
end

