-- ==== Sys2Proof/Certificates/Slice0/Obligations.lean ====
section
/-! DEFINITION. The statements, for the provers. Each says what the machine does, in the rules of the spec; a clause that rests
on a choice of the model names its log entry. -/

open Sys2Proof Sys2Proof.Machine

/-- When the core in focus has its turn and runs, the instruction that the halfwords at its PC decode to is the one
that runs; an encoding that decodes to none takes ILL with itself in TVAL, and a fetch that fails takes its fault. An
event at the head of the agenda runs as itself, and a word placed by `withFetchWord` runs first after reset.
Choices of the model: the agenda and whose turn it is (log entry 1), the trap value of a fetch that meets poison
(entry 19, an inference), and what placing a word sets (entry 34). -/
def Obligations.StepRunsDecoded : Prop :=
  (∀ (s : State) (rest : List Turn), s.agenda = .integer :: rest →
    let u := s.atTurn rest
    u.mayIssue = true → u.core.pressFault = none → u.core.testDue = false →
    (∀ (w : Nat) (t : State) (i : Instr), u.codeWord u.core.cur.pc.toNat = (.word w, t) → decoded w = some i →
      step s = exec i t) ∧
    (∀ (w : Nat) (t : State), u.codeWord u.core.cur.pc.toNat = (.word w, t) → decoded w = none →
      step s = .next (t.takeTrap (simpleTrap cILL (.ofNat 64 w)) t.core.cur.pc 0)) ∧
    (∀ (b : Bad) (va : Nat) (t : State), u.codeWord u.core.cur.pc.toNat = (.bad b va, t) →
      step s = .next (t.takeTrap (simpleTrap b.cause (.ofNat 64 va)) t.core.cur.pc 0))) ∧
  (∀ (s : State) (rest : List Turn) (i : Instr), s.agenda = .event i :: rest → i.len = 0 →
    step s = exec i { s.clock with agenda := rest }) ∧
  (∀ (w : Nat) (i : Instr), w < 2 ^ 32 → (w % 2 = 0 → w < 2 ^ 16) → decoded w = some i →
    ∃ t, step (State.reset.withFetchWord 32 w) = exec i t ∧ t.core.active = true ∧ t.core.cur.pc = 0x10000 ∧
      t.core.lm = [] ∧ t.core.priv = false)

/-- Words of the spec's tables of worked encodings decode to the instructions they are given for, one or more of every
family (Tables 2.10, 4.14, 5.8, 6.10, 7.16, 8.11, 9.17, 10.9, 11.8, 12.10, 14.5, 16.9, 25.8). -/
def Obligations.WordsDecode : Prop :=
  decodeTableWord 16 0x8860 = some (.vaddFCompact 3 (.post 1)) ∧
  decodeTableWord 32 0x027D010D = some (.addi (.w 2) .z 0x4F) ∧
  decodeTableWord 32 0xFF040CA1 = some (.bne (.w 3) (.w 4) 0x3FC) ∧
  decodeTableWord 32 0x00102181 = some (.add (.w 3) (.w 1) (.w 2)) ∧
  decodeTableWord 32 0x86102283 = some (.div (.w 5) (.w 1) (.w 2) 3) ∧
  decodeTableWord 32 0x0003F427 = some (.jalr .z (.w 31) 0) ∧
  decodeTableWord 32 0x000103A9 = some (.loop (.w 7) 8) ∧
  decodeTableWord 32 0x021024AD = some (.callat (.w 9) (.w 1) (.w 2)) ∧
  decodeTableWord 32 0x00102475 = some (.msend (.w 8) (.w 1) (.w 2)) ∧
  decodeTableWord 32 0x119842B1 = some (.ld (.w 5) (.w 2) 2 0 3 3) ∧
  decodeTableWord 32 0x12030637 = some (.ldv 12 (.w 24) 2 1 0) ∧
  decodeTableWord 32 0x0B8081BD = some (.ldsE (.w 3) (.w 4) 1 0) ∧
  decodeTableWord 32 0x0F818543 = some (.acas (.w 10) (.w 12) 1 3 3 0) ∧
  decodeTableWord 32 0x02180045 = some (.rel 3) ∧
  decodeTableWord 32 0x3A104051 = some (.vfma (.v 0) (.post 1) (.bcast 0)) ∧
  decodeTableWord 32 0x0D0174D9 = some (.mand (.m 1) (.v 5) (.m 0)) ∧
  decodeTableWord 32 0x4052045B = some (.vcvtF32E4m3 (.v 8) (.str 0) 2) ∧
  decodeTableWord 32 0x104104DD = some (.vextr (.w 9) (.v 4) (.w 2)) ∧
  decodeTableWord 32 0x00006469 = some (.pcmd (.w 8) (.w 3)) ∧
  decodeTableWord 32 0x132141E5 = some (.tld 6 2 (.w 3) (.w 10) 4) ∧
  decodeTableWord 32 0x104B0261 = some (.kbind 4 6 (.w 9)) ∧
  decodeTableWord 32 0x003800E7 = some (.kld 1 (.w 7)) ∧
  decodeTableWord 32 0x001042F1 = some (.ctake (.w 5) (.w 2) 2) ∧
  decodeTableWord 32 0x0000486D = some (.copy (.w 16) (.w 2)) ∧
  decodeTableWord 32 0x02284073 = some (.barw (.w 2) (.w 5)) ∧
  decodeTableWord 32 0x004062F9 = some (.srd (.w 5) 0x203) ∧
  decodeTableWord 32 0x0A102079 = some (.tlbinv (.w 1) (.w 2)) ∧
  decodeTableWord 32 0xFFFFFFFF = none

/-- Every well-formed instruction that has a word decodes from the bytes of its encoding as itself, with every operand,
whatever bytes follow (R29, R46). -/
def Obligations.EncodingRoundTrip : Prop :=
  ∀ i : Instr, i.wf = true → i.len ≠ 0 → ∀ rest, decode (encodeBytes i ++ rest) = .ok (i, rest)

/-- The invariant of memory: whatever a step does, the device's memory keeps its one canonical form. -/
def Obligations.MemoryStaysCanonical : Prop :=
  ∀ s t : State, s.memWf = true → step s = .next t → t.memWf = true

/-- What reset leaves (R407, R408, Table 18.3): measurement registers zero, the first boot stage, every port DOWN, no
context and no kernel, a core without activation in user mode, memories in canonical form; and the queues of press,
actors, channels and messages of the core empty.
Choices of the model, not of the spec: that what the spec gives at kernel load stands at reset too (log entry 2),
memory that nothing has written (entry 3), and registers without a reset value (entry 5). -/
def Obligations.ResetHolds : Prop :=
  let s := State.reset
  s.mr = List.replicate 8 0 ∧ s.boot = .stage 0 ∧ (∀ q ∈ s.ports, q.st = .down) ∧ (∀ q ∈ s.ethPorts, q.st = .down) ∧
  s.contexts = [] ∧ s.kernels = [] ∧ s.queues = [] ∧ s.counters = [] ∧ s.barriers = [] ∧ s.partitions.length = 16 ∧
  s.ports.length = 128 ∧ s.ethPorts.length = 12 ∧ s.core.active = false ∧ s.core.priv = false ∧
  s.core.inHandler = false ∧ s.core.hq = [] ∧ s.core.lq = [] ∧ s.core.kern = none ∧ s.core.bank0 = true ∧
  s.core.window = [64, 64, 64, 64] ∧ s.core.fifoIn = [[], [], [], []] ∧ s.core.wf = true ∧ s.memWf = true ∧
  NatSet.wf s.memPoison = true ∧ NatSet.wf s.fullSlots = true ∧ ∀ id, (s.coreOf id).wf = true

/-- The faults of issue, in their order (R48, R49): an encoding with an operand that is illegal in its place takes ILL,
and so does RTE outside a handler (R93), a privileged one in user mode PRIV, SRD and SWR with numbers from 0x200 among them
(R50), each with the encoding in TVAL; and a register at or above the kernel's count, rounded up to a multiple of 8, takes
REGRANGE with the lowest such number, those that a group, a pair, a pointer or a body of REP implies among them (R36); none
has another effect. That RTE outside a handler is ILL whatever the mode, before PRIV, is the model's reading (log entry
37). -/
def Obligations.IssueFaults : Prop :=
  (∀ (s : State) (i : Instr), i.len ≠ 0 → i.wf = false → s.Issues →
    ∃ m, exec i s = .next (s.takeTrap (simpleTrap cILL (.ofNat 64 (encode i))) s.core.cur.pc m)) ∧
  (∀ s : State, s.Issues → (s.core.inHandler = false ∨ s.core.frame = none) →
    ∃ m, exec .rte s = .next (s.takeTrap (simpleTrap cILL (.ofNat 64 (encode .rte))) s.core.cur.pc m)) ∧
  (∀ (s : State) (i : Instr), Privileged i → i.wf = true → s.Issues → s.core.priv = false →
    (i = .rte → s.core.inHandler = true ∧ s.core.frame.isSome = true) →
    ∃ m, exec i s = .next (s.takeTrap (simpleTrap cPRIV (.ofNat 64 (encode i))) s.core.cur.pc m)) ∧
  (∀ (s : State) (r : RSpec) (num : BitVec 12), s.Issues → s.core.priv = false → 0x200 ≤ num.toNat →
    ((Instr.srd r num).wf = true → ∃ m, exec (.srd r num) s =
      .next (s.takeTrap (simpleTrap cPRIV (.ofNat 64 (encode (.srd r num)))) s.core.cur.pc m)) ∧
    ((Instr.swr r num).wf = true → ∃ m, exec (.swr r num) s =
      .next (s.takeTrap (simpleTrap cPRIV (.ofNat 64 (encode (.swr r num)))) s.core.cur.pc m))) ∧
  (∀ (s : State) (i : Instr) (d a b : RSpec) (f : Word → Word → Word) (r : Nat), Binary i d a b f → i.wf = true →
    s.Issues → LowestFrom s.core.regLimit r (d.regs ++ a.regs ++ b.regs) →
    ∃ m, exec i s = .next (s.takeTrap (simpleTrap cREGRANGE (.ofNat 64 r)) s.core.cur.pc m)) ∧
  (∀ (s : State) (i : Instr) (d a : RSpec) (f : Word → Word) (r : Nat), Unary i d a f → i.wf = true →
    s.Issues → LowestFrom s.core.regLimit r (d.regs ++ a.regs) →
    ∃ m, exec i s = .next (s.takeTrap (simpleTrap cREGRANGE (.ofNat 64 r)) s.core.cur.pc m)) ∧
  (∀ (s : State) (i : Instr) (r : Nat), i.len ≠ 0 → i.wf = true → s.Issues → (i.priv = false ∨ s.core.priv = true) →
    (∀ n c v, i ≠ .rep n c v) → (∀ c fin, i = .loop c fin → s.core.cur.loops = []) →
    LowestFrom s.core.regLimit r i.regs →
    ∃ m, exec i s = .next (s.takeTrap (simpleTrap cREGRANGE (.ofNat 64 r)) s.core.cur.pc m)) ∧
  (∀ (s s1 : State) (n1 : BitVec 4) (c : RSpec) (vs : BitVec 6) (body : List RepSlot) (stop : BitVec 48) (r : Nat),
    (Instr.rep n1 c vs).wf = true → s.Issues → capture (n1.toNat + 1) (s.core.cur.pc + 4) s = .ok (body, stop) s1 →
    s1.armed = [] → LowestFrom s1.core.regLimit r (c.regs ++ body.flatMap (fun x => x.ins.regs)) →
    exec (.rep n1 c vs) s = .next (s.takeTrap (simpleTrap cREGRANGE (.ofNat 64 r)) s.core.cur.pc 0x15)) ∧
  (∀ (c : Core) (k : KernInfo), c.workKern = some k → c.regLimit = (k.regs + 7) / 8 * 8)

/-- Reading a poisoned register as a branch comparand, as JALR's base, or as the count of LOOP, at entry or at an end
test, or of REP takes POISON with the register's specifier in TVAL and no other effect; operations of the integer
pipeline pass poison on (R73).
That a dword of the message which such an instruction reads is not consumed either is the model's reading of R73 (log
entry 85). -/
def Obligations.PoisonConsumed : Prop :=
  (∀ (s s1 s2 : State) (i : Instr) (a b : RSpec) (off : BitVec 10) (p : Word → Word → Bool) (x y : Val),
    Branch i a b off p → i.wf = true → s.Ready → s.src a = some (x, s1) →
    (x.poison = true → exec i s = .next (s.takeTrap (poisonTrap a) s.core.cur.pc 0x10)) ∧
    (x.poison = false → s1.src b = some (y, s2) → y.poison = true →
      exec i s = .next (s.takeTrap (poisonTrap b) s.core.cur.pc 0x10))) ∧
  (∀ (s s1 : State) (d a : RSpec) (imm : BitVec 13) (x : Val), (Instr.jalr d a imm).wf = true → s.Ready →
    s.src a = some (x, s1) → x.poison = true →
    exec (.jalr d a imm) s = .next (s.takeTrap (poisonTrap a) s.core.cur.pc 0x13)) ∧
  (∀ (s s1 : State) (c : RSpec) (fin : BitVec 19) (x : Val), (Instr.loop c fin).wf = true → s.Ready →
    s.src c = some (x, s1) → x.poison = true →
    exec (.loop c fin) s = .next (s.takeTrap (poisonTrap c) s.core.cur.pc 0x14)) ∧
  (∀ (s s1 s2 : State) (n1 : BitVec 4) (c : RSpec) (vs : BitVec 6) (body : List RepSlot) (stop : BitVec 48) (x : Val),
    (Instr.rep n1 c vs).wf = true → s.Ready → capture (n1.toNat + 1) (s.core.cur.pc + 4) s = .ok (body, stop) s1 →
    s1.Ready → s1.src c = some (x, s2) → x.poison = true →
    exec (.rep n1 c vs) s = .next (s.takeTrap (poisonTrap c) s.core.cur.pc 0x15)) ∧
  (∀ (s : State) (e : LoopEntry) (i : BitVec 5), s.mayIssue = true →
    s.core.pressFault = none → s.core.cur.slots = [] → s.core.frame = none → s.core.cur.act.check = none →
    s.armed = [] → s.core.cur.loops = [e] → e.c = .w i → s.core.cur.pc = e.stop → (s.core.regVal i).poison = true →
    s.core.tvec ≠ 0 → s.core.inHandler = false → s.core.cur.act.canRedeliver = false → s.core.cur.act.redeliv = false →
    s.integerTurn = .next ((s.withLoops []).takeTrap
      { poisonTrap (.w i) with major := some 0x14, epc := some e.stop } e.stop 0x14)) ∧
  (∀ (s s1 s2 s3 : State) (i : Instr) (d a b : RSpec) (f : Word → Word → Word) (x y : Val),
    Binary i d a b f → i.wf = true → s.Ready → s.src a = some (x, s1) → s1.src b = some (y, s2) →
    s2.dst { bits := f x.bits y.bits, taint := x.taint || y.taint, poison := x.poison || y.poison } d = some s3 →
    exec i s = .next (s3.after 4)) ∧
  (∀ (s s1 s2 : State) (i : Instr) (d a : RSpec) (f : Word → Word) (x : Val), Unary i d a f → i.wf = true → s.Ready →
    s.src a = some (x, s1) → s1.dst { bits := f x.bits, taint := x.taint, poison := x.poison } d = some s2 →
    exec i s = .next (s2.after 4))

/-- Every instruction of two register sources whose registers the kernel has (R36) completes on operands that can be read and
written, with the value its row gives, the OR of the sources' taint and of their poison (R72), and nothing else changed. -/
def Obligations.TwoSourceResult : Prop :=
  ∀ (s s1 s2 s3 : State) (i : Instr) (d a b : RSpec) (f : Word → Word → Word) (x y : Val) (n : Nat),
    Binary i d a b f → i.wf = true → s.ReadyAt n → (∀ r ∈ i.regs, r < n) → s.src a = some (x, s1) → s1.src b = some (y, s2) →
    s2.dst { bits := f x.bits y.bits, taint := x.taint || y.taint, poison := x.poison || y.poison } d = some s3 →
    exec i s = .next (s3.after 4)

/-- Every instruction of one register source whose registers the kernel has (R36) completes on operands that can be read and
written with the value its row gives, and the taint and poison of its source; LIH and ADDPC with their constant, without
taint or poison; nothing else changes. -/
def Obligations.OneSourceResult : Prop :=
  (∀ (s s1 s2 : State) (i : Instr) (d a : RSpec) (f : Word → Word) (x : Val) (n : Nat),
    Unary i d a f → i.wf = true → s.ReadyAt n → (∀ r ∈ i.regs, r < n) → s.src a = some (x, s1) →
    s1.dst { bits := f x.bits, taint := x.taint, poison := x.poison } d = some s2 →
    exec i s = .next (s2.after 4)) ∧
  (∀ (s s1 : State) (i : Instr) (d : RSpec) (f : BitVec 48 → Word) (n : Nat),
    Constant i d f → i.wf = true → s.ReadyAt n → (∀ r ∈ i.regs, r < n) →
    s.dst { bits := f s.core.cur.pc, taint := false, poison := false } d = some s1 →
    exec i s = .next (s1.after 4))

/-- MULDIV completes with the value its row gives, zero divisors and the one quotient that does not fit among them, and
nothing else changes: at once where L is 0, else in a pending write that L instructions keep from its destination (R39).
Its word has L in [28:25], b in [24:19], a in [18:13], d in [12:7], 0x03 in [6:0], and the member in [31:29] (R75). -/
def Obligations.MulDivResult : Prop :=
  (∀ (d a b : RSpec) (l : BitVec 4),
    let w (k : Nat) : Nat := 0x03 + d.bits * 2 ^ 7 + a.bits * 2 ^ 13 + b.bits * 2 ^ 19 + l.toNat * 2 ^ 25 + k * 2 ^ 29
    encode (.mul d a b l) = w 0 ∧ encode (.mulh d a b l) = w 1 ∧ encode (.mulhu d a b l) = w 2 ∧
    encode (.mulhsu d a b l) = w 3 ∧ encode (.div d a b l) = w 4 ∧ encode (.divu d a b l) = w 5 ∧
    encode (.rem d a b l) = w 6 ∧ encode (.remu d a b l) = w 7) ∧
  (∀ (s s1 s2 : State) (i : Instr) (d a b : RSpec) (l : BitVec 4) (f : Word → Word → Word) (x y : Val) (n : Nat),
    MulDiv i d a b l f → i.wf = true → s.ReadyAt n → (∀ r ∈ i.regs, r < n) → s.src a = some (x, s1) → s1.src b = some (y, s2) →
    let v : Val := { bits := f x.bits y.bits, taint := x.taint || y.taint, poison := x.poison || y.poison }
    (∀ s3, l = 0 → s2.dst v d = some s3 → exec i s = .next (s3.after 4)) ∧
    (∀ s3, l ≠ 0 → s2.openable d = some s3 → exec i s = .next (s3.opened (.reg d) l.toNat (some (.word v)) id 4)))

/-- A branch on operands without poison completes at its target where its condition holds and at the next instruction
where it does not; on a poisoned operand it takes POISON with the operand's specifier and goes nowhere. J goes to its target, JAL goes there with the address after it in w31, and JALR goes to an even address read from
a register with that link in its destination, and takes ALIGN for an odd one.
What a fault leaves consumed is the model's reading (log entry 85). -/
def Obligations.BranchesAndJumps : Prop :=
  (∀ (s s1 s2 : State) (i : Instr) (a b : RSpec) (off : BitVec 10) (p : Word → Word → Bool) (x y : Val),
    Branch i a b off p → i.wf = true → s.Ready → s.src a = some (x, s1) → s1.src b = some (y, s2) →
    (x.poison = false → y.poison = false →
      exec i s = .next (if p x.bits y.bits then s2.went (s.ahead (off.signExtend 48)) else s2.after 4)) ∧
    (x.poison = true → exec i s = .next (s.takeTrap (poisonTrap a) s.core.cur.pc (encode i / 2 % 64)))) ∧
  ((∀ (s : State) (off : BitVec 25), s.Ready → exec (.j off) s = .next (s.went (s.ahead (off.signExtend 48)))) ∧
  (∀ (s t : State) (off : BitVec 25), s.Ready →
    s.dst { bits := (s.core.cur.pc + 4).setWidth 64, taint := false, poison := false } (.w 31) = some t →
    exec (.jal off) s = .next (t.went (s.ahead (off.signExtend 48)))) ∧
  (∀ (s s1 : State) (d a : RSpec) (imm : BitVec 13) (x : Val), (Instr.jalr d a imm).wf = true → s.Ready →
    s.src a = some (x, s1) → x.poison = false →
    let target : BitVec 48 := (x.bits + imm.signExtend 64 * 2).setWidth 48
    (∀ t, target.getLsbD 0 = false →
      s1.dst { bits := (s.core.cur.pc + 4).setWidth 64, taint := false, poison := false } d = some t →
      exec (.jalr d a imm) s = .next (t.went target)) ∧
    (target.getLsbD 0 = true → exec (.jalr d a imm) s =
      .next ((s.keepTaken s1).takeTrap (simpleTrap cALIGN (target.setWidth 64)) s.core.cur.pc 0x13))))

/-- LOOP on a count of zero goes on past its body; on another it enters the body with one loop open, and it takes ILL
where the loop stack does not take the body. REP captures its body, clears its count register, and the repetition buffer
runs the body as many times as the count said, or not at all for zero. A body instruction that runs to its end moves the
buffer on; a current mask that it selects is the buffer's own until the last one, and the thread's from then on. Where an
instruction ends at the end of the innermost body, the count register loses one: the PC goes back to the start, with every
window ended, or at zero the entry is popped; a poisoned count takes POISON (R86).

A window counts the instructions that issue (R40): a read inside it finds the old value, a younger write cancels the pending
one (R41), at its end the value is written, and one that has not arrived then holds back who reads the register. A jump ends
every window, or waits for their values (R43); a fifth carrier ends the oldest (R42).
The order of windows and end tests is the model's reading (log entry 35), and so is that a fifth carrier first waits
for values whose windows have ended (entry 11). -/
def Obligations.LoopAndRep : Prop :=
  (∀ (s : State) (c : RSpec) (fin : BitVec 19) (x : Val), (Instr.loop c fin).wf = true → s.Ready →
    s.src c = some (x, s) → x.poison = false →
    (x.bits = 0 → exec (.loop c fin) s = .next (s.went (s.ahead (fin.setWidth 48)))) ∧
    (x.bits ≠ 0 → s.core.cur.pc.toNat + 2 * fin.toNat < 2 ^ 48 →
      exec (.loop c fin) s = .next ((s.withLoops
        [{ start := s.core.cur.pc + 4, stop := s.ahead (fin.setWidth 48), c := c }]).after 4))) ∧
  (∀ (s : State) (i : BitVec 5) (fin : BitVec 19), (Instr.loop (.w i) fin).wf = true → s.Issues →
    (s.core.regVal i).bits ≠ 0 →
    loopFits s.core.cur.loops (s.core.cur.pc + 4) (s.ahead (fin.setWidth 48)) = false →
    exec (.loop (.w i) fin) s =
      .next (s.takeTrap (simpleTrap cILL (.ofNat 64 (encode (.loop (.w i) fin)))) s.core.cur.pc 0x14)) ∧
  (∀ (s s1 t : State) (n1 : BitVec 4) (c : RSpec) (vs : BitVec 6) (body : List RepSlot) (stop : BitVec 48) (x : Val),
    (Instr.rep n1 c vs).wf = true → s.Ready → capture (n1.toNat + 1) (s.core.cur.pc + 4) s = .ok (body, stop) s1 →
    s1.Ready → s1.src c = some (x, s1) → x.poison = false → s1.dst { x with bits := 0 } c = some t →
    exec (.rep n1 c vs) s = .next ((if x.bits = 0 then t else t.withBuffer
      { body := body, vstride := vs.toInt, passes := x.bits.toNat, pass := 0, next := 0, lmask := t.core.cur.lmask }).went stop)) ∧
  (∀ (s : State) (e : LoopEntry) (rest : List LoopEntry) (i : BitVec 5), s.Flows → s.core.cur.slots = [] →
    s.core.cur.loops = e :: rest → e.stop = s.core.cur.pc + 4 → e.c = .w i →
    let x := s.core.regVal i
    (x.poison = false → x.bits ≠ 1 →
      exec .nop s = .next (State.went { s with core := s.core.putReg i { x with bits := x.bits - 1 } } e.start)) ∧
    (x.poison = false → x.bits = 1 → rest.all (fun f => f.holds e.stop) = true →
      exec .nop s = .next (State.went (State.withLoops { s with core := s.core.putReg i { x with bits := 0 } } rest) e.stop)) ∧
    (x.poison = true → exec .nop s = .next (((s.after 4).withLoops rest).takeTrap
      { poisonTrap (.w i) with major := some 0x14, epc := some e.stop } e.stop 0x14))) ∧
  (∀ (s : State) (e : LoopEntry) (rest : List LoopEntry) (i j : BitVec 5) (sl : Slot) (v : Val), s.Flows →
    s.core.cur.slots = [sl] → sl.Holds j v → 2 ≤ sl.rem → s.core.cur.loops = e :: rest → e.stop = s.core.cur.pc + 4 →
    e.c = .w i → i ≠ j → let x := s.core.regVal i
    x.poison = false → x.bits ≠ 1 → exec .nop s = .next (State.went (State.withSlots
      { s with core := (s.core.putReg i { x with bits := x.bits - 1 }).putReg j v } []) e.start)) ∧
  (∀ (s : State) (i : BitVec 5) (sl : Slot) (v : Val), s.Flows → s.core.cur.loops = [] → s.core.cur.slots = [sl] →
    sl.Holds i v →
    (2 ≤ sl.rem → exec .nop s = .next ((s.withSlots [{ sl with rem := sl.rem - 1 }]).after 4)) ∧
    (sl.rem ≤ 1 → exec .nop s = .next ((State.withSlots { s with core := s.core.putReg i v } []).after 4)) ∧
    (∀ off : BitVec 25, exec (.j off) s = .next
      ((State.withSlots { s with core := s.core.putReg i v } []).went (s.ahead (off.signExtend 48))))) ∧
  (∀ (s : State) (ins : Instr) (d : RSpec) (i : BitVec 5) (f : Word → Word) (sl : Slot), s.Flows → s.core.cur.loops = [] →
    s.core.cur.slots = [sl] → sl.dest = .reg (.w i) → sl.here = false → sl.cancelled = false →
    (sl.rem ≤ 1 → exec .nop s = .next ((s.withSlots [{ sl with rem := 0 }]).after 4)) ∧
    (sl.rem = 0 → Unary ins d (.w i) f → ins.wf = true → exec ins s = .next s.stall) ∧
    (∀ off : BitVec 25, exec (.j off) s = .next s.stall)) ∧
  (∀ (s : State) (ins : Instr) (k i : BitVec 5) (f : Word → Word) (sl : Slot), s.Flows → s.core.cur.loops = [] →
    s.core.cur.slots = [sl] → sl.dest = .reg (.w i) → sl.cancelled = false → 2 ≤ sl.rem → Unary ins (.w k) (.w i) f →
    ins.wf = true → let x := s.core.regVal i
    exec ins s = .next ((State.withSlots { s with core := s.core.putReg k { x with bits := f x.bits } }
      [{ sl with rem := sl.rem - 1, cancelled := decide (k = i) }]).after 4)) ∧
  (∀ (s : State) (sl : Slot), s.Flows → s.core.cur.loops = [] → s.core.cur.slots = [sl] → sl.cancelled = true →
    sl.here = true → sl.rem ≤ 1 → exec .nop s = .next ((s.withSlots []).after 4)) ∧
  (∀ (s : State) (ins : Instr) (d a b : RSpec) (l : BitVec 4) (f : Word → Word → Word) (i : BitVec 5) (v : Val)
    (sl : Slot) (rest : List Slot), s.Flows → MulDiv ins d a b l f → ins.wf = true → l ≠ 0 →
    s.core.cur.slots = sl :: rest → rest.length = 3 → (∀ x ∈ sl :: rest, x.counted = true ∧ x.rem ≠ 0) → sl.Holds i v →
    exec ins s = .next (State.withSlots { s with core := s.core.putReg i v } rest)) ∧
  (∀ (s t : State) (b : RepBuf) (x : RepSlot), s.mayIssue = true → s.core.cur.rep = some b →
    b.body[b.next]? = some x →
    (x.ins.shift ((b.pass : Int) * b.vstride)).effect
      { s with core := { s.core with cur := { s.core.cur with rep := none, lmask := b.lmask } } } = .ok () t →
    ∃ u, exec .repBodyIssue s = .next u ∧ u.core.cur.act = t.core.cur.act ∧
      (∀ c, b.advance = some c → u.core.cur.rep = some { c with lmask := t.core.cur.lmask } ∧
        u.core.cur.lmask = s.core.cur.lmask) ∧
      (b.advance = none → u.core.cur.rep = none ∧ u.core.cur.lmask = t.core.cur.lmask) ∧
      u.core.nInstr = t.core.nInstr + 1 ∧ u.core.press = t.core.press ∧ u.core.lm = t.core.lm)

/-- NOP only goes on; IDLE goes on once a queue holds an activation or a stop is asked for; TRAP and BRK take their trap,
TRAP past itself with its register as the trap value and BRK at itself: outside a handler, with a handler's address in
TVEC, they enter it. RTE in a handler returns to the trapped activation, which a high-priority one that waits then suspends again; in user
mode it takes PRIV there, and outside a handler it is ILL in either mode.
That RTE outside a handler is ILL in either mode, before PRIV, is the model's reading (log entry 37). -/
def Obligations.TrapsMajor : Prop :=
  ((∀ s : State, s.Ready → exec .nop s = .next (s.after 4)) ∧
  (∀ s : State, s.Ready → s.core.priv = true → (s.core.hq ≠ [] ∨ s.core.lq ≠ [] ∨ s.core.stopReq = true) →
    exec .idle s = .next (s.after 4)) ∧
  (∀ (s s1 : State) (a : RSpec) (x : Val), (Instr.trap a).wf = true → s.Ready → s.src a = some (x, s1) →
    let t := s1.after 4
    exec (.trap a) s = .next (t.takeTrap (simpleTrap cTRAP x.bits) t.core.cur.pc 0x17) ∧
    (s1.core.tvec ≠ 0 → s1.core.inHandler = false →
      exec (.trap a) s = .next ((t.traceAct 4 cTRAP t.core.cur.act t.core.cur.pc.toNat).startHandler
        (simpleTrap cTRAP x.bits) t.core.cur.pc))) ∧
  (∀ s : State, s.Ready →
    exec .brk s = .next (s.takeTrap (simpleTrap cBRK 0) s.core.cur.pc 0x17) ∧
    (s.core.tvec ≠ 0 → s.core.inHandler = false →
      exec .brk s = .next ((s.traceAct 4 cBRK s.core.cur.act s.core.cur.pc.toNat).startHandler
        (simpleTrap cBRK 0) s.core.cur.pc)))) ∧
  ((∀ (s : State) (fr : TrapFrame), s.core.active = true → s.core.cur.slots = [] →
    s.core.inHandler = true → s.core.frame = some fr →
    (s.core.priv = true → exec .rte s = .next ((s.returnFrom fr).suspend).issued) ∧
    (s.core.priv = false → s.armed = [] →
      exec .rte s = .next (s.takeTrap (simpleTrap cPRIV (.ofNat 64 (encode .rte))) s.core.cur.pc 0x17))) ∧
  (∀ s : State, s.core.active = true → s.core.cur.slots = [] → s.armed = [] →
    (s.core.inHandler = false ∨ s.core.frame = none) →
    exec .rte s = .next (s.takeTrap (simpleTrap cILL (.ofNat 64 (encode .rte))) s.core.cur.pc 0x17)))

/-- Entry to the handler: it starts at TVEC in the high-priority context and in privileged mode, in the trapped
activation's workspace, with EPC, CAUSE and TVAL written and the trapped thread kept; memory, queues and every other
part of the device stay. The return: the trapped activation runs on at EPC in its own priority context and in user mode, the handler is over,
and its trap frame is gone; memory and every register but those stay.
What a return from a handler keeps is the model's reading (log entry 69). -/
def Obligations.HandlerFrame : Prop :=
  (∀ (s : State) (t : TrapInfo) (epc : BitVec 48),
    let u := s.startHandler t epc
    u.core.cur.pc = s.core.tvec ∧ u.core.cur.act = s.core.cur.act ∧ u.core.curHi = true ∧ u.core.priv = true ∧
    u.core.inHandler = true ∧ u.core.epc = epc ∧ u.core.cause = .ofNat 8 t.cause ∧ u.core.tval = t.tval ∧
    u.core.wph = s.core.cur.act.wp ∧ u.core.frame = some { hi := s.core.curHi, buf := t.buf, th := s.core.cur } ∧
    u.core.cur.slots = [] ∧ u.core.cur.loops = [] ∧ u.core.cur.rep = none ∧
    u.core.lm = s.core.lm ∧ u.core.hq = s.core.hq ∧ u.core.lq = s.core.lq ∧ u.core.press = s.core.press ∧
    u.core.tvec = s.core.tvec ∧ u.others = s.others ∧ u.mem = s.mem ∧ u.contexts = s.contexts) ∧
  (∀ (s : State) (fr : TrapFrame),
    let u := s.returnFrom fr
    u.core.cur.pc = (if fr.buf then fr.th.pc else s.core.epc) ∧ u.core.curHi = fr.hi ∧ u.core.priv = false ∧
    u.core.inHandler = false ∧ u.core.frame = none ∧ u.core.cur.slots = fr.th.slots ∧
    u.core.cur.lmask = fr.th.lmask ∧ u.core.cur.rmode = fr.th.rmode ∧ u.core.cur.rep = fr.th.rep ∧
    u.core.epc = s.core.epc ∧ u.core.cause = s.core.cause ∧ u.core.tval = s.core.tval ∧ u.core.lm = s.core.lm ∧
    u.others = s.others ∧ u.mem = s.mem)

/-- END of an activation whose held outputs can leave commits them and ends it; under HOLD a sampled one leaves them to
its check, and a sample whose check queue is full is withdrawn first; a check run's END gives its digest. END 1 drops
held outputs and withdraws a sample. Each frees the context. -/
def Obligations.ActivationEnds : Prop :=
  ∀ s : State, s.core.active = true → s.armed = [] → (∀ t ∈ s.core.threads, t.slots = []) → s.core.cur.rep = none →
    let a := s.core.cur.act
    (a.isCheck = true → exec .endAct s = .next (s.endCheck a false).issued) ∧
    (a.isCheck = false → a.sampled = false → s.commitSome.core.cur.act.held = [] →
      exec .endAct s = .next (s.commitSome.finishAct false).issued) ∧
    (a.sampled = true → s.checkQueueFull = true → s.uncheck.commitSome.core.cur.act.held = [] →
      exec .endAct s = .next (s.uncheck.commitSome.finishAct false).issued) ∧
    (a.sampled = true → s.checkQueueFull = false → s.core.heldSample = false → s.commitSome.core.cur.act.held = [] →
      exec .endAct s = .next (s.commitSome.endSampled.finishAct false).issued) ∧
    (s.checkQueueFull = false → s.core.heldSample = true →
      exec .endAct s = .next (s.endSampled.finishAct false).issued) ∧
    (let u := s.uncheck
     let b := u.core.cur.act
     exec .endAbort s = .next (State.finishAct { u with core := { u.core with cur := { u.core.cur with act :=
      { b with held := [], pushed := b.pushed - b.heldTokens } } } } true).issued) ∧
    ∀ abort, a.isCheck = false →
      let u := s.finishAct abort
      u.core.active = false ∧ u.core.inHandler = false ∧ u.core.priv = false ∧ u.core.susp = s.core.susp

/-- CALLAT and MSEND send, or hold, the message their registers describe; CALLAT with a reply register sets the reply
word empty first, which a rollback would fill again if it was full, and names it in the message. -/
def Obligations.MessagesSent : Prop :=
  (∀ (s s1 s2 s3 : State) (a b : RSpec) (dw e : Val), (Instr.callat .z a b).wf = true → s.Ready →
    s.core.cur.act.sampled = false → s.src a = some (dw, s1) → s1.src b = some (e, s2) → dw.poison = false →
    e.poison = false → e.bits.getLsbD 0 = false → s2.mayMessage (bitsAt dw.bits 13 0) = true →
    s2.holdRoom = some s3 → s3.netRoom = true →
    exec (.callat .z a b) s = .next ((s3.sends (s3.message dw.bits e.bits (s3.regRun 4 4) 0)).after 4)) ∧
  (∀ (s s1 s2 s3 : State) (i : BitVec 5) (a b : RSpec) (dw e : Val), (Instr.callat (.w i) a b).wf = true → s.Ready →
    s.core.cur.act.sampled = false → s.src a = some (dw, s1) → s1.src b = some (e, s2) → dw.poison = false →
    e.poison = false → e.bits.getLsbD 0 = false → s2.mayMessage (bitsAt dw.bits 13 0) = true →
    (s2.core.regVal i).poison = false →
    let ra := bitsAt (s2.core.regVal i).bits 16 0
    ra % 8 = 0 → s2.core.scratch ra 8 = true → s2.holdRoom = some s3 → s3.netRoom = true →
    let x := s3.core.cur.act
    let t := s3.putFull (.loc s3.core.id ra) false
    let u := if x.revocable = true ∧ s3.isFull (.loc s3.core.id ra) = true then
        { t with core := { t.core with cur := { t.core.cur with act := { x with emptied := x.emptied ++ [ra] } } } }
      else t
    exec (.callat (.w i) a b) s = .next ((u.sends (u.message dw.bits e.bits (u.regRun 4 4)
      (.ofNat 64 (2 ^ 63 + ra * 2 ^ 14 + u.core.workId)))).after 4)) ∧
  (∀ (s s1 s2 s3 : State) (i : BitVec 5) (a b : RSpec) (dw e : Val), (Instr.msend (.w i) a b).wf = true → s.Ready →
    s.core.cur.act.sampled = false → s.src a = some (dw, s1) → s1.src b = some (e, s2) → dw.poison = false →
    e.poison = false → e.bits.getLsbD 0 = false → s2.mayMessage (bitsAt dw.bits 13 0) = true →
    let n := bitsAt dw.bits 20 17
    n ≤ 8 → i.toNat + n ≤ 32 → s2.holdRoom = some s3 → s3.netRoom = true →
    exec (.msend (.w i) a b) s = .next ((s3.sends (s3.message dw.bits e.bits (s3.regRun i n) 0)).after 4))

/-- REPLY sends its value to the caller's word, once: after a release at partition scope, or held while the activation is
revocable. SPAWN and SPAWN.h append an activation to the core's own queue, an irrevocable act, and answer 1, or answer 0
when it is full. -/
def Obligations.RepliesAndSpawns : Prop :=
  (∀ (s s1 s2 : State) (a : RSpec) (v : Val), (Instr.reply a).wf = true → s.Ready →
    s.core.cur.act.sampled = false → s.core.cur.act.replyTo.msb = true → s.holdRoom = some s1 →
    s1.src a = some (v, s2) →
    let r := s.core.cur.act.replyTo
    let spent : BitVec 64 := r &&& 0x7FFFFFFFFFFFFFFF
    (∀ t, s2.core.cur.act.revocable = false → s2.releases false = some t →
      exec (.reply a) s = .next (State.after { t with
        core := { t.core with cur := { t.core.cur with act := { t.core.cur.act with replyTo := spent } } },
        parcels := t.parcels ++ [.reply (bitsAt r 13 0) (.ofNat 17 (bitsAt r 30 14)) v.strip] } 4)) ∧
    (s2.core.cur.act.revocable = true →
      exec (.reply a) s = .next (State.after { s2 with
        core := { s2.core with cur := { s2.core.cur with act := { s2.core.cur.act with
          replyTo := spent, held := s2.core.cur.act.held ++
            [.reply (.ofNat 17 (bitsAt r 30 14)) (bitsAt r 13 0) v.strip] } } } } 4))) ∧
  (∀ (s : State) (a : RSpec), (Instr.reply a).wf = true → s.Ready → s.core.cur.act.replyTo.msb = false →
    exec (.reply a) s = .next (s.takeTrap (simpleTrap cPROT 0) s.core.cur.pc 0x16)) ∧
  (∀ (s s1 s2 t : State) (d a : RSpec) (e : Val) (hi : Bool), d.writable = true → a.readable = true → s.Ready →
    s.src a = some (e, s1) → e.poison = false → e.bits.getLsbD 0 = false → s1.irrevocably = some s2 →
    let full := if hi then decide (16 ≤ s2.core.hq.length) else decide (32 ≤ s2.core.lq.length)
    s2.dst { bits := bit (!full), taint := false, poison := false } d = some t →
    let new : Act := Act.make t.uid (e.bits.setWidth 48) ((s2.regRun 4 4).map Val.strip) hi none s2.core.cur.act.tag 0
    let act : Act := { new with redeliverable := true }
    let q : QEntry := { act := act, resume := none, extra := false, frame := none }
    let u : State := if full then t else { t with
      uid := t.uid + 1
      core := if hi then { t.core with hq := t.core.hq ++ [q] } else { t.core with lq := t.core.lq ++ [q] } }
    exec (if hi then .spawnH d a else .spawn d a) s = .next (u.after 4))

/-- WCLAIM of granules the pool holds grants them at once; where other claims are parked or the pool holds too few, it
parks with its thread, past itself, and frees the context; of none, it answers 0; of more than 8 or of more than the
kernel's bound it takes PROT. WREL returns owned granules to the pool, all or, with one not owned or named twice, none,
and tests the parked claims.
That a claim of the handler keeps the trap frame with the larder it is parked with is the model's reading (log entry
21). What a fault leaves consumed is the model's reading (log entry 85). -/
def Obligations.LarderClaims : Prop :=
  (∀ (s s1 t : State) (d a : RSpec) (v : Val), (Instr.wclaim d a).wf = true → s.Ready → s.src a = some (v, s1) →
    v.poison = false → v.bits = 0 → s1.dst { bits := 0, taint := false, poison := false } d = some t →
    exec (.wclaim d a) s = .next (t.after 4)) ∧
  (∀ (s s1 : State) (d a : RSpec) (v : Val) (k : KernInfo), (Instr.wclaim d a).wf = true → s.Ready →
    s.src a = some (v, s1) → v.poison = false → s1.core.kern = some k →
    let n := v.bits.toNat
    let c := s1.core
    let need := c.cur.act.slot + c.cur.act.extra.length + n
    (0 < n → (8 < n ∨ k.wsmax < need) →
      exec (.wclaim d a) s = .next ((s.keepTaken s1).takeTrap (simpleTrap cPROT v.bits) s.core.cur.pc 0x16)) ∧
    (0 < n → n ≤ 8 → need ≤ k.wsmax → c.parked = [] → n ≤ c.freeGr.length →
      let gs := c.freeGr.take n
      ∀ t, State.dst { s1 with core := { c with
          freeGr := c.freeGr.drop n
          cur := { c.cur with act := { c.cur.act with
            extra := c.cur.act.extra ++ gs, granted := c.cur.act.granted ++ [gs] } } } }
        { bits := .ofNat 64 (packGranules gs), taint := false, poison := false } d = some t →
      exec (.wclaim d a) s = .next (t.after 4)) ∧
    (0 < n → n ≤ 8 → need ≤ k.wsmax → (c.parked ≠ [] ∨ c.freeGr.length < n) →
      ∀ t, s1.openable d = some t → exec (.wclaim d a) s = .next (t.parks d n).issued)) ∧
  (∀ (s s1 : State) (a : RSpec) (v : Val), (Instr.wrel a).wf = true → s.Ready → s.src a = some (v, s1) →
    v.poison = false →
    let gs := unpackGranules 8 (v.bits.toNat % 2 ^ 56)
    let a1 := s1.core.cur.act
    (gs.Nodup → (∀ g ∈ gs, g ∈ a1.extra) →
      exec (.wrel a) s = .next (State.after (State.testParked (State.giveBack { s1 with core := { s1.core with cur :=
        { s1.core.cur with act := { a1 with extra := a1.extra.filter (fun g => !gs.contains g) } } } } gs)) 4)) ∧
    (∀ g, badGranule a1.extra gs [] = some g →
      exec (.wrel a) s = .next ((s.keepTaken s1).takeTrap (simpleTrap cPROT (.ofNat 64 g)) s.core.cur.pc 0x16)))

/-- APOP writes the dwords of the activation's next token to eight registers, and takes PROT past the last; APUSH sends
eight registers as a token to the actor's consumer after a release at partition scope, or holds it while the activation
is revocable, and takes PROT past the last, or where the actor has no consumer. -/
def Obligations.TokensMoved : Prop :=
  (∀ (s : State) (i : BitVec 5) (x : Nat) (def0 : ActorDef), (Instr.apop (.w i)).wf = true → s.Ready →
    s.core.cur.act.actor = some x → s.core.runActor = some def0 →
    let n := if s.core.cur.act.initial then 0 else def0.c
    (n ≤ s.core.cur.act.popped →
      exec (.apop (.w i)) s = .next (s.takeTrap (simpleTrap cPROT (.ofNat 64 n)) s.core.cur.pc 0x16)) ∧
    (∀ st : ActorSt, s.core.actors[x]? = some st → s.core.cur.act.popped < n →
      let la := def0.slotAddr (st.head + st.held + s.core.cur.act.popped)
      let vs : List Val := (List.range 8).map (fun j =>
        { bits := s.core.lm.dword (la + 8 * j), taint := false, poison := readPoison 8 s.core.lmPoison (la + 8 * j) 8 })
      exec (.apop (.w i)) s = .next (State.after (State.putRun { s with core := { s.core with cur := { s.core.cur with act :=
        { s.core.cur.act with popped := s.core.cur.act.popped + 1 } } } } i vs) 4))) ∧
  (∀ (s : State) (i : BitVec 5) (x : Nat) (def0 : ActorDef) (dst cons : Nat), (Instr.apush (.w i)).wf = true → s.Ready →
    s.core.cur.act.sampled = false → s.core.cur.act.actor = some x → s.core.runActor = some def0 →
    s.core.runConsumer def0 = some (dst, cons) →
    let a := s.core.cur.act
    let dws := (s.regRun i 8).map Val.strip
    (def0.p ≤ a.pushed →
      exec (.apush (.w i)) s = .next (s.takeTrap (simpleTrap cPROT (.ofNat 64 def0.p)) s.core.cur.pc 0x16)) ∧
    (∀ t, a.pushed < def0.p → a.revocable = false → a.held = [] → s.releases false = some t →
      exec (.apush (.w i)) s = .next (State.after { t with
        core := { t.core with cur := { t.core.cur with act := { t.core.cur.act with pushed := a.pushed + 1 } } },
        parcels := t.parcels ++ [.token t.core.id dst cons dws] } 4)) ∧
    (a.pushed < def0.p → a.revocable = true →
      exec (.apush (.w i)) s = .next (State.after { s with core := { s.core with cur := { s.core.cur with act :=
        { a with pushed := a.pushed + 1, held := a.held ++ [.token x dws] } } } } 4))) ∧
  (∀ (s : State) (i : BitVec 5) (x : Nat) (def0 : ActorDef), (Instr.apush (.w i)).wf = true → s.Ready →
    s.core.cur.act.actor = some x → s.core.runActor = some def0 → s.core.runConsumer def0 = none →
    exec (.apush (.w i)) s = .next (s.takeTrap (simpleTrap cPROT (.ofNat 64 def0.p)) s.core.cur.pc 0x16)) ∧
  (∀ (s : State) (i : BitVec 5), s.Ready → s.core.cur.act.actor = none →
    ((Instr.apop (.w i)).wf = true → exec (.apop (.w i)) s = .next (s.takeTrap (simpleTrap cPROT 0) s.core.cur.pc 0x16)) ∧
    ((Instr.apush (.w i)).wf = true → exec (.apush (.w i)) s = .next (s.takeTrap (simpleTrap cPROT 0) s.core.cur.pc 0x16)))

/-- MPOLL reads the occupancy of the queues and input buffers, WINRD a channel's window, or 0 for one that is not
connected; a channel number of 4 to 63 takes ILL; neither waits or makes the activation irrevocable (R119). BANKQ and PSTAT read
bank modes and the press status. All make the activation uncheckable (R108). -/
def Obligations.OccupancyRead : Prop :=
  (∀ (s t : State) (d : RSpec), (Instr.mpoll d).wf = true → s.Ready →
    let c := s.core
    s.uncheck.dst { bits := .ofNat 64 (c.lq.length % 2 ^ 16 + c.hq.length % 2 ^ 16 * 2 ^ 16 +
      (c.inHi.length + c.inLo.length) % 2 ^ 16 * 2 ^ 32), taint := false, poison := false } d = some t →
    exec (.mpoll d) s = .next (t.after 4)) ∧
  (∀ (s t : State) (d : RSpec) (ch : BitVec 6) (o : Dir), (Instr.winrd d ch).wf = true → s.Ready → ch.toNat = o.num →
    let n := if s.connected s.core.id o then s.core.window.getD o.num 0 else 0
    s.uncheck.dst { bits := .ofNat 64 n, taint := false, poison := false } d = some t →
    exec (.winrd d ch) s = .next (t.after 4)) ∧
  (∀ (s : State) (d : RSpec) (ch : BitVec 6), s.Ready → 4 ≤ ch.toNat →
    exec (.winrd d ch) s = .next (s.takeTrap (simpleTrap cILL (.ofNat 64 (encode (.winrd d ch)))) s.core.cur.pc 0x3A)) ∧
  (∀ (s t : State) (d : RSpec), (Instr.bankq d).wf = true → s.Ready →
    s.uncheck.dst { bits := .ofNat 64 (s.core.bankModes.toNat + s.pendingBanks * 2 ^ 32), taint := false, poison := false } d =
      some t →
    exec (.bankq d) s = .next (t.after 4)) ∧
  (∀ (s t : State) (d : RSpec), (Instr.pstat d).wf = true → s.Ready →
    s.uncheck.dst { bits := s.core.press.status, taint := false, poison := false } d = some t →
    exec (.pstat d) s = .next (t.after 4))

/-- A scalar load completes with the bytes of its place, extended as its member says, and with its base's taint, or
tainted for LDC: through the core's own window at once where L is 0, else in a pending write; through another core's, or
a page that neither is of zeros nor has its line in the L1, by a request that its home answers. A load, store or row
instruction whose address fails a check takes that fault and has no effect but what its base consumed.
That the core's own index in the cluster window leads to its own memory is the model's reading (log entry 17). What a
fault leaves consumed is the model's reading (log entry 85). -/
def Obligations.LocalLoads : Prop :=
  (∀ (s s1 : State) (i : Instr) (t base : RSpec) (off : BitVec 5) (size : BitVec 2) (l : BitVec 4) (sx ldc : Bool)
    (b : Val) (la : Nat), Load i t base off size l sx ldc → i.wf = true → s.Ready → s.src base = some (b, s1) →
    let n := 2 ^ size.toNat
    s1.ownAddr b (off.toNat * n) n = some la → s1.ordered = true →
    let s2 := s1.reading la n
    let v := loaded (s2.localBytes la n) sx (b.taint || ldc)
    (∀ u, l = 0 → s2.dst v t = some u → exec i s = .next (u.after 4)) ∧
    (∀ u, l ≠ 0 → s2.openable t = some u → exec i s = .next (u.opened (.reg t) l.toNat (some (.word v)) id 4))) ∧
  (∀ (s s1 s2 u : State) (i : Instr) (t base : RSpec) (off : BitVec 5) (hint size : BitVec 2) (l : BitVec 4) (sx ldc : Bool)
    (b : Val) (id la : Nat),
    (i = .ld t base off hint size l ∧ sx = true ∧ ldc = false ∨ i = .ldu t base off hint size l ∧ sx = false ∧ ldc = false ∨
      i = .ldc t base off hint size l ∧ sx = true ∧ ldc = true) → i.wf = true → s.Ready → s.src base = some (b, s1) →
    let n := 2 ^ size.toNat
    let mark := b.taint || ldc
    let arrives (sl : Slot) : Slot := { sl with load := true, ldc := ldc }
    (s1.address b (off.toNat * n) n .read = some (.core id la, s2) →
      s2.uncheck.asks (.reg t) l .bypass (.load (.loc id la) n sx mark false) arrives = some u → exec i s = .next u) ∧
    (∀ (x : Xlat) (s3 : State), s1.address b (off.toNat * n) n .read = some (.phys x, s2) → s2.readsPage x = some s3 →
      (∀ bs, s3.readNear x n mark = some bs → s3.yields t l (loaded bs sx mark) = some u → exec i s = .next u) ∧
      (s3.readNear x n mark = none →
        s3.asks (.reg t) l (x.use (hintUse hint.toNat))
          (.load (.phys (s3.keyHere x.pa)) n sx mark (fillsL1 x hint mark)) arrives = some u →
        exec i s = .next u))) ∧
  (∀ (s s1 : State) (i : Instr) (base : RSpec) (off n : Nat) (k : Access) (qs : Bool) (b : Val) (t : TrapInfo),
    Addressed i base off n k qs → i.wf = true → s.Ready → s.laneFree = true → s.src base = some (b, s1) →
    s1.badAddress base b off n k qs = some t →
    exec i s = .next ((s.keepTaken s1).takeTrap t s.core.cur.pc (encode i / 2 % 64)))

/-- ST, STV and ZFILL store their bytes at their place and change nothing else: in the core's own memory past the queue
window, outside what the activation owns an irrevocable act; in another core's, an irrevocable act too, or through a page,
by a store that the activation holds while it is revocable, and that leaves it otherwise.
That the core's own index in the cluster window leads to its own memory is the model's reading (log entry 17). -/
def Obligations.LocalStores : Prop :=
  (∀ (s s1 s2 s3 : State) (t base : RSpec) (off : BitVec 5) (hint size : BitVec 2) (b v : Val) (la : Nat),
    (Instr.st t base off hint size).wf = true → s.Ready → s.src base = some (b, s1) →
    let n := 2 ^ size.toNat
    s1.ownAddr b (off.toNat * n) n = some la → s1.src t = some (v, s2) → s2.numbered.storable la n = some s3 →
    exec (.st t base off hint size) s =
      .next ((s3.stored la ((dwordBytes v.bits).take n) (List.replicate n v.poison)).after 4)) ∧
  (∀ (s s1 s2 : State) (vt : BitVec 6) (base : RSpec) (off : BitVec 5) (hint : BitVec 2) (b : Val) (la : Nat),
    (Instr.stv vt base off hint).wf = true → s.Ready → s.src base = some (b, s1) → s1.PressFree →
    s1.ownAddr b (off.toNat * 256) 256 = some la → s1.numbered.storable la 256 = some s2 →
    let r := s1.core.press.tile.getD vt.toNat .zero
    exec (.stv vt base off hint) s = .next ((s2.stored la r.bytes r.bytePois).after 4)) ∧
  (∀ (s s1 s2 : State) (base : RSpec) (off : BitVec 5) (hint : BitVec 2) (b : Val) (la : Nat),
    (Instr.zfill base off hint).wf = true → s.Ready → s.src base = some (b, s1) →
    s1.ownAddr b (off.toNat * 256) 256 = some la → s1.numbered.storable la 256 = some s2 →
    exec (.zfill base off hint) s =
      .next ((s2.stored la (List.replicate 256 0) (List.replicate 256 false)).after 4)) ∧
  (∀ (s s1 s2 s3 u : State) (t base : RSpec) (off : BitVec 5) (hint size : BitVec 2) (b v : Val) (pl : Place),
    (Instr.st t base off hint size).wf = true → s.Ready → s.core.cur.act.sampled = false → s.src base = some (b, s1) →
    let n := 2 ^ size.toNat
    s1.address b (off.toNat * n) n .write = some (pl, s2) → s2.src t = some (v, s3) →
    s3.storesTo pl (hintUse hint.toNat) ((dwordBytes v.bits).take n) (List.replicate n v.poison) false = some u →
    exec (.st t base off hint size) s = .next (u.after 4)) ∧
  (∀ (s s1 s2 u : State) (vt : BitVec 6) (base : RSpec) (off : BitVec 5) (hint : BitVec 2) (b : Val) (pl : Place),
    (Instr.stv vt base off hint).wf = true → s.Ready → s.core.cur.act.sampled = false → s.src base = some (b, s1) →
    s1.PressFree → s1.address b (off.toNat * 256) 256 .write = some (pl, s2) →
    let r := s1.core.press.tile.getD vt.toNat .zero
    s2.storesTo pl (hintUse hint.toNat) r.bytes r.bytePois false = some u →
    exec (.stv vt base off hint) s = .next (u.after 4)) ∧
  (∀ (s s1 s2 u : State) (base : RSpec) (off : BitVec 5) (hint : BitVec 2) (b : Val) (pl : Place),
    (Instr.zfill base off hint).wf = true → s.Ready → s.core.cur.act.sampled = false → s.src base = some (b, s1) →
    s1.address b (off.toNat * 256) 256 .write = some (pl, s2) →
    s2.storesTo pl (.zfill hint) (List.replicate 256 0) (List.replicate 256 false) false = some u →
    exec (.zfill base off hint) s = .next (u.after 4))

/-- LDV reads a row, at once or in a pending write, or asks its home for it; PREF asks for the lines of a WB page that the
L1 does not hold, those it would not enter included under the stream hint, and does nothing where anything stands in its
way; L1INV and ACQ empty the L1; ICINV drops a line from the instruction caches in its scope; BANKMODE gives banks new
modes, and takes PROT in a revocable activation.
What a fault leaves consumed is the model's reading (log entry 85). -/
def Obligations.RowsAndCaches : Prop :=
  (∀ (s s1 : State) (vt : BitVec 6) (base : RSpec) (off : BitVec 5) (hint : BitVec 2) (l : BitVec 4) (b : Val) (la : Nat),
    (Instr.ldv vt base off hint l).wf = true → s.Ready → s.src base = some (b, s1) → s1.PressFree →
    s1.ownAddr b (off.toNat * 256) 256 = some la → s1.ordered = true →
    let s2 := s1.reading la 256
    let r := Row.ofBytes (s2.localBytes la 256)
    (l = 0 → exec (.ldv vt base off hint l) s = .next (State.after { s2 with core := s2.core.putRow vt r } 4)) ∧
    (l ≠ 0 → exec (.ldv vt base off hint l) s = .next (s2.opened (.row vt) l.toNat (some (.row r)) id 4))) ∧
  (∀ (s s1 s2 u : State) (vt : BitVec 6) (base : RSpec) (off : BitVec 5) (hint : BitVec 2) (l : BitVec 4) (b : Val),
    (Instr.ldv vt base off hint l).wf = true → s.Ready → s.src base = some (b, s1) → s1.PressFree →
    let va := off.toNat * 256
    let arrives (sl : Slot) : Slot := { sl with load := true }
    (∀ id la, s1.address b va 256 .read = some (.core id la, s2) →
      s2.uncheck.asks (.row vt) l .bypass (.row (.loc id la) false) arrives = some u →
      exec (.ldv vt base off hint l) s = .next u) ∧
    (∀ (x : Xlat) (s3 : State), s1.address b va 256 .read = some (.phys x, s2) → s2.readsPage x = some s3 →
      (∀ bs, s3.readNear x 256 b.taint = some bs →
        let r := Row.ofBytes bs
        (l = 0 → exec (.ldv vt base off hint l) s = .next (State.after { s3 with core := s3.core.putRow vt r } 4)) ∧
        (l ≠ 0 → exec (.ldv vt base off hint l) s = .next (s3.opened (.row vt) l.toNat (some (.row r)) id 4))) ∧
      (s3.readNear x 256 b.taint = none →
        s3.asks (.row vt) l (x.use (hintUse hint.toNat)) (.row (.phys (s3.keyHere x.pa)) (fillsL1 x hint b.taint)) arrives =
          some u →
        exec (.ldv vt base off hint l) s = .next u))) ∧
  (∀ (s s1 : State) (base : RSpec) (off : BitVec 5) (hint : BitVec 2) (b : Val),
    (Instr.pref base off hint).wf = true → s.Ready → s.src base = some (b, s1) →
    let va := effAddr b.bits (off.toNat * 256)
    ((b.poison = true ∨ va % 256 ≠ 0 ∨ 0xFFFFFF000000 ≤ va ∨ hint = 2) →
      exec (.pref base off hint) s = .next (s1.after 4)) ∧
    (b.poison = false → va % 256 = 0 → va < 0xFFFFFF000000 → hint ≠ 2 →
      (∀ (e : Bad) (s2 : State), s1.agentXlat s1.myCluster s1.myCtx s1.core.priv .read va 256 = (.error e, s2) → s2.Ready →
        exec (.pref base off hint) s = .next (s2.after 4)) ∧
      (∀ (x : Xlat) (s2 : State), s1.agentXlat s1.myCluster s1.myCtx s1.core.priv .read va 256 = (.ok x, s2) → s2.Ready →
        let key := s2.keyHere x.pa
        let missing := [key, key + 128].filter (fun k => hint == 1 || (s2.core.l1Hit k).isNone)
        let q (j k : Nat) : Req := {
          uid := s2.uid + j, core := s2.core.id, act := s2.core.cur.act.uid, kind := .pref k (hint != 1)
          served := false, slice := none, use := hintUse hint.toNat, after := s2.core.cur.act.fence }
        ((leafPol x.leaf ≠ 0 ∨ leafZero x.leaf = true) → exec (.pref base off hint) s = .next (s2.after 4)) ∧
        (leafPol x.leaf = 0 → leafZero x.leaf = false →
          exec (.pref base off hint) s = .next (State.after { s2 with
            uid := s2.uid + missing.length, reqs := s2.reqs ++ missing.zipIdx.map (fun p => q p.2 p.1) } 4))))) ∧
  (∀ s : State, s.Ready → exec .l1inv s = .next (State.after { s with core := { s.core with l1 := [] } } 4)) ∧
  (∀ s : State, s.Ready → exec .acq s = .next ((s.acquired true).after 4)) ∧
  (∀ (s s1 : State) (a : RSpec) (scope : BitVec 6) (v : Val), (Instr.icinv a scope).wf = true → s.Ready →
    s.src a = some (v, s1) → v.poison = false → s1.core.cur.act.heldStores = 0 → s1.core.storeBuf = [] →
    let drop (c : Core) : Core := if s1.inScope scope.toNat c.id then c.dropCode s1.myCtx (addr48 v.bits) else c
    exec (.icinv a scope) s = .next (State.after { s1 with core := drop s1.core, others := s1.others.map drop } 4)) ∧
  (∀ (s s1 s2 : State) (a b : RSpec) (m k : Val), (Instr.bankmode a b).wf = true → s.Ready →
    s.src a = some (m, s1) → s1.src b = some (k, s2) → m.poison = false → k.poison = false →
    let map := m.bits.toNat % 2 ^ 32
    let banks := (List.range 16).filter (fun i => k.bits.getLsbD i)
    let fifos := (s2.core.kern.map (fun k => k.actors.map (·.fbank))).getD []
    (∀ i ∈ banks, i ≠ 0 ∧ i ∉ fifos ∧ map / 4 ^ i % 4 ≠ 2) →
    (s2.core.cur.act.revocable = true →
      exec (.bankmode a b) s = .next ((s.keepTaken s2).takeTrap (simpleTrap cPROT 0) s.core.cur.pc 0x1C)) ∧
    (s2.core.cur.act.revocable = false → s2.PressFree →
      exec (.bankmode a b) s = .next (State.after { s2 with
        core := banks.foldl (fun c i => c.setBank i (map / 4 ^ i % 4)) s2.core } 4)))

/-- LDS of a full word reads it, in the core's own window at once and elsewhere at its home, and LDS.e then sets it empty:
neither is an irrevocable act, and both come after the core's stores to the word that have not left. Of an empty word either
waits at the word, an irrevocable act. STF stores a dword and sets its word full once the activation's earlier stores to it
are acknowledged; in the core's own window it then serves the LDS that wait there in order, until one empties the word. That
a store which the activation holds is over the full word that its LDS reads is the model's reading (log entry 101). -/
def Obligations.FullEmptyWords : Prop :=
  (∀ (s s1 : State) (d base : RSpec) (off : BitVec 5) (l : BitVec 4) (e : Bool) (b : Val) (la : Nat),
    let i : Instr := if e then .ldsE d base off l else .lds d base off l
    i.wf = true → s.Ready → s.src base = some (b, s1) → s1.ownAddr b (off.toNat * 8) 8 = some la →
    let s2 := s1.reading la 8
    let w : Target := .loc s1.core.id la
    s2.WordReady w →
    (s1.isFull w = true →
      let s3 := if e then s2.putFull w false else s2
      let v : Val := { bits := s1.core.lm.dword la, taint := b.taint, poison := readPoison 8 s1.core.lmPoison la 8 }
      s3.core.cur.act.revocable = s1.core.cur.act.revocable ∧
      (∀ t, l = 0 → s3.dst v d = some t → exec i s = .next (t.after 4)) ∧
      (∀ t, l ≠ 0 → s3.openable d = some t → exec i s = .next (t.opened (.reg d) l.toNat (some (.word v)) id 4))) ∧
    (∀ s3 t, s1.isFull w = false → s2.irrevocably = some s3 → s3.WordReady w →
      s3.awaitsWord d l { uid := 0, core := 0, act := 0, tgt := w, empties := e, taint := b.taint, use := .bypass } = some t →
      exec i s = .next t)) ∧
  (∀ (s s1 s2 : State) (d base : RSpec) (off : BitVec 5) (l : BitVec 4) (e : Bool) (b : Val) (pl : Place) (w : Target)
    (use : LineUse),
    let i : Instr := if e then .ldsE d base off l else .lds d base off l
    i.wf = true → s.Ready → s.src base = some (b, s1) → s1.address b (off.toNat * 8) 8 .read = some (pl, s2) →
    ((∃ id la, pl = .core id la ∧ w = .loc id la ∧ use = .bypass) ∨
      (∃ x, pl = .phys x ∧ leafQs x.leaf = true ∧ w = .phys (s2.keyHere x.pa) ∧ use = x.use .normal)) →
    let immutable := match pl with
      | .phys x => leafImm x.leaf
      | .here _ | .core _ _ => false
    let s3 := if immutable then s2 else s2.uncheck
    s3.WordReady w →
    (s3.isFull w = true →
      let r := s3.ldsRead use w (s3.core.ownAt w 8)
      let s4 := if e then r.2.putFull w false else r.2
      ∀ t, s4.late d l w (loaded r.1 false b.taint) = some t → exec i s = .next t) ∧
    (∀ s4 t, s3.isFull w = false → s3.irrevocably = some s4 → s4.WordReady w →
      s4.awaitsWord d l { uid := 0, core := 0, act := 0, tgt := w, empties := e, taint := b.taint, use := use } = some t →
      exec i s = .next t)) ∧
  (∀ (s s1 s2 s3 : State) (t base : RSpec) (off : BitVec 5) (hint : BitVec 2) (b v : Val) (la : Nat),
    (Instr.stf t base off hint).wf = true → s.Ready → s.src base = some (b, s1) →
    s1.ownAddr b (off.toNat * 8) 8 = some la → s1.src t = some (v, s2) →
    (∀ x ∈ s2.core.storeBuf, x.op.act = s2.core.cur.act.uid → x.op.touches (.loc s2.core.id la) 8 = false) →
    s2.numbered.storable la 8 = some s3 →
    let u := (s3.stored la (dwordBytes v.bits) (List.replicate 8 v.poison)).putFull (.loc s3.core.id la) true
    (s.ldsWait = [] → exec (.stf t base off hint) s = .next (u.after 4)) ∧
    (∀ q, s.ldsWait = [q] → q.tgt = .loc s3.core.id la → (u.coreOf q.core).unsentAt q.act q.uid q.tgt 8 = [] →
      let answered := State.answer { u with ldsWait := [] } q.core q.act q.uid none
        (.word { bits := v.bits, taint := q.taint, poison := v.poison })
      exec (.stf t base off hint) s =
        .next ((if q.empties then answered.putFull (.loc s3.core.id la) false else answered).after 4))) ∧
  (∀ (s s1 s2 s3 u : State) (t base : RSpec) (off : BitVec 5) (hint : BitVec 2) (b v : Val) (pl : Place),
    (Instr.stf t base off hint).wf = true → s.Ready → s.core.cur.act.sampled = false → s.src base = some (b, s1) →
    s1.address b (off.toNat * 8) 8 .write = some (pl, s2) → s2.src t = some (v, s3) →
    (match pl with
      | .here _ => False
      | .core id la => s3.core.slotBusy s3.core.cur.act.uid (.loc id la) = false
      | .phys x => leafQs x.leaf = true ∧ s3.core.slotBusy s3.core.cur.act.uid (.phys (s3.keyHere x.pa)) = false) →
    s3.storesTo pl (hintUse hint.toNat) (dwordBytes v.bits) (List.replicate 8 v.poison) true = some u →
    exec (.stf t base off hint) s = .next (u.after 4))

/-- An atomic takes its old value, with the word's poison and the operands' taint, to its destination, and the word becomes
what its member's row says; it is an irrevocable act, after its release, and an order that acquires empties the L1. On the
core's own window it executes at once; in another core's memory, or through a page, it sets out for its home with its
operands. Poisoned operands, and an address or target that is not allowed, take their fault.
That the core's own index in the cluster window leads to its own memory is the model's reading (log entry 17). That an
atomic leaves its word's poison as the operation does is the model's reading (log entry 30). What a fault leaves
consumed is the model's reading (log entry 85). -/
def Obligations.LocalAtomics : Prop :=
  (∀ (s s1 s2 s3 s4 : State) (i : Instr) (op : AtomOp) (d a : RSpec) (n : Nat) (sc o : BitVec 2) (l : BitVec 4) (x y w : Val)
    (la : Nat), Atomic i op d a n sc o l → i.wf = true → s.Ready → s.src a = some (x, s1) → x.poison = false →
    s1.src d = some (y, s2) → (op ≠ .ld → y.poison = false) →
    (if op = .cas then s2.src (nextReg d 1) = some (w, s2) ∧ w.poison = false else w = .clean 0) →
    s2.ownAddr x 0 n = some la → 0x400 ≤ la → s2.irrevocably = some s3 →
    (if o.getLsbD 1 then s3.releases (sc == 3) else some s3) = some s4 → s4.ordered = true →
    let old : Val := { bits := .ofNat 64 (leNat (s4.core.lm.bytes la n)), taint := x.taint || y.taint,
                       poison := readPoison 8 s4.core.lmPoison la n }
    let s5 := s4.atomed op la n y.bits w.bits
    (op = .st → exec i s = .next ((s5.acquired (o.getLsbD 0)).after 4)) ∧
    (∀ t, op ≠ .st → l = 0 → s5.dst old d = some t → exec i s = .next ((t.acquired (o.getLsbD 0)).after 4)) ∧
    (∀ t, op ≠ .st → l ≠ 0 → s5.openable d = some t →
      exec i s = .next (t.opened (.reg d) l.toNat (some (.word old)) id 4))) ∧
  (∀ (s s1 s2 s3 s4 s5 : State) (i : Instr) (op : AtomOp) (d a : RSpec) (n : Nat) (sc o : BitVec 2) (l : BitVec 4)
    (x y w : Val) (pl : Place), Atomic i op d a n sc o l → i.wf = true → s.Ready → s.src a = some (x, s1) →
    x.poison = false → s1.src d = some (y, s2) → (op ≠ .ld → y.poison = false) →
    (if op = .cas then s2.src (nextReg d 1) = some (w, s2) ∧ w.poison = false else w = .clean 0) →
    s2.address x 0 n (if op = .ld then .read else .both) = some (pl, s3) → atomBad op pl sc = false →
    s3.irrevocably = some s4 → (if o.getLsbD 1 then s4.releases (sc == 3) else some s4) = some s5 →
    let acq := o.getLsbD 0
    let taint := x.taint || y.taint
    (∀ id la, pl = .core id la → exec i s =
      .next (s5.sendsAtom d l op acq (.atomic (.loc id la) op n y.bits w.bits taint false))) ∧
    (∀ z, pl = .phys z → leafZero z.leaf = false → exec i s =
      .next (s5.sendsAtom d l op acq (.atomic (.phys (s3.keyHere z.pa)) op n y.bits w.bits taint (leafPol z.leaf != 0)))) ∧
    (∀ z t, pl = .phys z → leafZero z.leaf = true →
      (s5.acquired acq).yields d l { bits := 0, taint := taint, poison := false } = some t → exec i s = .next t)) ∧
  (∀ (s s1 s2 : State) (i : Instr) (op : AtomOp) (d a : RSpec) (n : Nat) (sc o : BitVec 2) (l : BitVec 4) (x y : Val),
    Atomic i op d a n sc o l → i.wf = true → s.Ready → s.src a = some (x, s1) → s1.src d = some (y, s2) →
    let k := if op = .ld then Access.read else .both
    let w := s2.src (nextReg d 1)
    let va := addr48 x.bits
    let clean := (op = .ld ∨ y.poison = false) ∧ (op = .cas → (w.map (fun v => v.1.poison)) = some false)
    let faults (u : State) (t : TrapInfo) : Prop :=
      exec i s = .next ((s.keepTaken u).takeTrap t s.core.cur.pc (encode i / 2 % 64))
    (x.poison = true → faults s1 (poisonTrap a)) ∧
    (x.poison = false → op ≠ .ld → y.poison = true → faults s2 (poisonTrap d)) ∧
    (x.poison = false → op = .cas → y.poison = false → (w.map (fun v => v.1.poison)) = some true →
      faults s2 (poisonTrap (nextReg d 1))) ∧
    (∀ t, x.poison = false → clean → s2.badAddress a x 0 n k false = some t → t.cause ≠ cWATCH → faults s2 t) ∧
    (∀ pl s3, x.poison = false → clean → va % n = 0 → s2.placeAt va n k = some (pl, s3) →
      (atomBad op pl sc = true → faults s2 (simpleTrap cPROT (.ofNat 64 va))) ∧
      (atomBad op pl sc = false → s2.watches va n k = true → faults s2 (simpleTrap cWATCH (.ofNat 64 va)))))

/-- REL goes on once its release need not wait, and FENCE empties the L1 as well; CLRT clears a register's taint and
nothing else. -/
def Obligations.OrderMajor : Prop :=
  (∀ (s t : State) (scope : BitVec 6), (Instr.rel scope).wf = true → s.Ready → s.releases (scope == 3) = some t →
    exec (.rel scope) s = .next (t.after 4)) ∧
  (∀ s t : State, s.Ready → s.releases true = some t → exec .fence s = .next ((t.acquired true).after 4)) ∧
  (∀ (s : State) (i : BitVec 5), s.Ready → exec (.clrt (.w i)) s = .next (State.after { s with core := { s.core with cur :=
    { s.core.cur with taint := s.core.cur.taint &&& ~~~((1 : BitVec 32) <<< i.toNat) } } } 4)) ∧
  (∀ s : State, s.Ready → exec (.clrt .z) s = .next (s.after 4))

/-- PHASEN arrives at the phase barrier of its domain: its token sets out, or a domain of one core completes, the core's
phase number rises, and `d` holds the generation arrived at. PHASE arrives once and waits until the core's copy is past
that generation; then it empties the L1 and gives the generation with its forced flag.
That the drain before an arrival waits where it stands is the model's choice (log entry 42). -/
def Obligations.PhaseArrival : Prop :=
  (∀ (s u t : State) (d : RSpec) (b : Barrier), (Instr.phasen d).wf = true → s.Ready → s.core.cur.phaseWait = none →
    phaseBarrier s = .ok b s → s.comes b = some u →
    u.dst { bits := s.core.phaseNo.setWidth 64, taint := false, poison := false } d = some t →
    exec (.phasen d) s = .next (t.after 4)) ∧
  (∀ (s u : State) (d : RSpec) (b c : Barrier) (g : BitVec 32), (Instr.phase d).wf = true → s.Ready →
    phaseBarrier s = .ok b s →
    (s.core.cur.phaseWait = some g ∧ u = s ∨
      s.core.cur.phaseWait = none ∧ g = s.core.phaseNo ∧ s.comes b = some u) →
    phaseBarrier u = .ok c u →
    let waits (w : Option (BitVec 32)) (x : State) : State :=
      { x with core := { x.core with cur := { x.core.cur with phaseWait := w } } }
    (genPast (c.copy u.core.id) g = false → exec (.phase d) s = .next (State.stall (waits (some g) u))) ∧
    (∀ t, genPast (c.copy u.core.id) g = true →
      (waits none (u.acquired true)).dst
        { bits := .ofNat 64 (g.toNat + (if c.forced g then 2 ^ 63 else 0)), taint := false, poison := false } d = some t →
      exec (.phase d) s = .next (t.after 4)))

/-- An elementwise lane instruction whose operands pass their checks reads its operands in order, gives every active
lane what its table row says, with the poison of the lanes it read, keeps the inactive lanes, and moves its pointers
on last; a current mask other than m0 makes the activation uncheckable.
That a pointer which the result itself writes is increased after it is the model's reading (log entry 96). -/
def Obligations.LanewiseResult : Prop :=
  ∀ (s s1 s2 s3 t u : State) (i : Instr) (v : VInstr) (rd : Bool) (g : LaneFn) (ra rb rc : Row),
    Lanewise i v rd g → i.wf = true → s.Ready → v.checks s = .ok () s → readL v.a s.maskSeen = .ok ra s1 →
    readL v.b s1 = .ok rb s2 → (if rd then readL v.d else pure .zero) s2 = .ok rc s3 →
    let w := s.core.press.laneW
    let f (p : Nat × Bool) (q : Nat × Bool) (r : Nat × Bool) (on : Bool) : Option (Nat × Bool) :=
      if on then some (g (laneFmt s.core.press.narrow) s.core.cur.rmode.toNat w p.1 q.1 r.1, p.2 || q.2 || r.2) else none
    let (on, mp) := s3.core.current s3.core.press.laneN
    let outs := (((ra.elems w).zip (rb.elems w)).zip ((rc.elems w).zip on)).map (fun x => f x.1.1 x.1.2 x.2.1 x.2.2)
    s3.core.press.laneW = w → putOut v.d w outs mp s3 = .ok () t →
    bumpPointers (lposts v.a ++ lposts v.b ++ lposts v.d) t = .ok () u → u.Ready →
    exec i s = .next (u.after i.len)

/-- VSEL writes every lane, from `a` where the mask bit is 1 and from `b` where it is 0. The permutations: broadcast of a lane, rotation by a register, shuffle by a row of lane numbers, the running sum, the
number of active lanes below each, the two interleavings; each writes its active lanes.
What poison the selecting operands leave is the model's reading (log entry 39). That a pointer which the result itself
writes is increased after it is the model's reading (log entry 96). -/
def Obligations.LaneMoves : Prop :=
  (∀ (s s1 s2 t u : State) (d a b : LSpec) (ra rb : Row), (Instr.vsel d a b).wf = true → s.Ready →
    (laneOp (.b .sel) d a b).checks s = .ok () s → readL a s.maskSeen = .ok ra s1 → readL b s1 = .ok rb s2 →
    let w := s.core.press.laneW
    let (on, mp) := s2.core.current s2.core.press.laneN
    let outs := ((ra.elems w).zip ((rb.elems w).zip on)).map (fun x => some (if x.2.2 then x.1 else x.2.1))
    s2.core.press.laneW = w → putOut d w outs mp s2 = .ok () t →
    bumpPointers (lposts a ++ lposts b ++ lposts d) t = .ok () u → u.Ready →
    exec (.vsel d a b) s = .next (u.after 4)) ∧
  ((∀ (s s1 s2 t u : State) (d a : LSpec) (q : RSpec) (row : Row) (x : Val), (Instr.vbcast d a q).wf = true → s.Ready →
    (laneOp (.p .bcast) d a .vz).checks s = .ok () s → readL a s.maskSeen = .ok row s1 → s1.Ready → s1.src q = some (x, s2) →
    x.poison = false → x.bits.toNat < s2.core.press.laneN →
    let l := (row.elems s.core.press.laneW).getD x.bits.toNat (0, false)
    putActive (laneOp (.p .bcast) d a .vz) (List.replicate s.core.press.laneN l) s2 = .ok () t →
    bumpPointers (lposts a ++ lposts .vz ++ lposts d) t = .ok () u → u.Ready → exec (.vbcast d a q) s = .next (u.after 4)) ∧
  (∀ (s s1 s2 t u : State) (d a : LSpec) (q : RSpec) (row : Row) (x : Val), (Instr.vrot d a q).wf = true → s.Ready →
    (laneOp (.p .rot) d a .vz).checks s = .ok () s → readL a s.maskSeen = .ok row s1 → s1.Ready → s1.src q = some (x, s2) →
    x.poison = false →
    let ls := row.elems s.core.press.laneW
    let k := x.bits.toNat % s.core.press.laneN
    putActive (laneOp (.p .rot) d a .vz) (ls.drop k ++ ls.take k) s2 = .ok () t →
    bumpPointers (lposts a ++ lposts .vz ++ lposts d) t = .ok () u → u.Ready → exec (.vrot d a q) s = .next (u.after 4)) ∧
  (∀ (s s1 s2 t u : State) (d a b : LSpec) (ra rb : Row), (Instr.vshuf d a b).wf = true → s.Ready →
    (laneOp (.p .shuf) d a b).checks s = .ok () s → readL a s.maskSeen = .ok ra s1 → readL b s1 = .ok rb s2 →
    let la := ra.elems s.core.press.laneW
    let ls := (rb.elems s.core.press.laneW).map (fun j =>
      ((la.getD j.1 (0, false)).1, (la.getD j.1 (0, false)).2 || j.2))
    putActive (laneOp (.p .shuf) d a b) ls s2 = .ok () t →
    bumpPointers (lposts a ++ lposts b ++ lposts d) t = .ok () u → u.Ready → exec (.vshuf d a b) s = .next (u.after 4)) ∧
  (∀ (s s1 t u : State) (d a : LSpec) (k : BitVec 7) (row : Row), (Instr.vscan d a k).wf = true → s.Ready →
    (laneOp (.p .scan) d a .vz).checks s = .ok () s → readL a s.maskSeen = .ok row s1 →
    let c := s.core
    let w := c.press.laneW
    let (on, mp) := c.current c.press.laneN
    let step := sumStep (laneFmt c.press.narrow) c.cur.rmode.toNat w k.toNat
    putOut d w (scanLanes step ((row.elems w).zip on) none) mp s1 = .ok () t →
    bumpPointers (lposts a ++ lposts .vz ++ lposts d) t = .ok () u → u.Ready → exec (.vscan d a k) s = .next (u.after 4)) ∧
  (∀ (s t u : State) (d : LSpec), (Instr.viota d).wf = true → s.Ready → (laneOp (.p .iota) d .vz .vz).checks s = .ok () s →
    let (on, _) := s.core.current s.core.press.laneN
    putActive (laneOp (.p .iota) d .vz .vz) ((countBelow 0 on).map (fun k => (k, false))) s.maskSeen = .ok () t →
    bumpPointers (lposts .vz ++ lposts .vz ++ lposts d) t = .ok () u → u.Ready → exec (.viota d) s = .next (u.after 4)) ∧
  (∀ (s s1 s2 t u : State) (d a b : LSpec) (ra rb : Row) (z : Bool), d.dest = true → a.source = true → b.source = true →
    s.Ready → (laneOp (.p (if z then .zip else .unzip)) d a b).checks s = .ok () s → readL a s.maskSeen = .ok ra s1 →
    readL b s1 = .ok rb s2 →
    let n := s.core.press.laneN
    let la := ra.elems s.core.press.laneW
    let lb := rb.elems s.core.press.laneW
    let ls := if z then interleave (la.take (n / 2)) (lb.take (n / 2)) else evens la ++ evens lb
    putActive (laneOp (.p (if z then .zip else .unzip)) d a b) ls s2 = .ok () t →
    bumpPointers (lposts a ++ lposts b ++ lposts d) t = .ok () u → u.Ready →
    exec (if z then .vzip d a b else .vunzip d a b) s = .next (u.after 4)))

/-- What the lane operand forms name: a tile row, zero, a register broadcast, a local row at a pointer with or without
post-increment, a row of 32 dwords of a channel; and where each result goes. Post-increment adds 256 to its pointer.
That a pointer which the result itself writes is increased after it is the model's reading (log entry 96). -/
def Obligations.LaneOperandForms : Prop :=
  (∀ (s : State) (i : BitVec 6), s.Ready → s.laneFree = true → laneCheck (.v i) false s = .ok () s ∧
    readL (.v i) s = .ok (s.core.press.tile.getD i.toNat .zero) s ∧ readL .vz s = .ok .zero s) ∧
  (∀ (s : State) (i : BitVec 3), s.Ready →
    let v := s.core.regVal (.ofNat 5 (16 + i.toNat))
    let w := s.core.press.laneW
    readL (.bcast i) s = .ok { bits := .ofNat 2048 (lanesNat w (List.replicate s.core.press.laneN (v.bits.toNat % 2 ^ w)))
                               pois := if v.poison then BitVec.allOnes 64 else 0 } s) ∧
  (∀ (s : State) (p : BitVec 3) (la : Nat) (dest : Bool), s.Ready → s.streamRow p dest = some la →
    laneCheck (.str p) dest s = .ok () s ∧ laneCheck (.post p) dest s = .ok () s ∧
    readL (.str p) s = .ok (Row.ofBytes (s.localBytes la 256)) (s.reading la 256) ∧
    readL (.post p) s = .ok (Row.ofBytes (s.localBytes la 256)) (s.reading la 256) ∧
    let v := s.core.regVal (ptrReg p)
    lposts (.post p) = [p] ∧ bumpPointers [p] s =
      .ok () { s with core := s.core.putReg (ptrReg p) { v with bits := v.bits + 256 } }) ∧
  (∀ (s u : State) (o : Dir), s.Ready → s.connected s.core.id o = true → s.irrevocably = some u →
    32 ≤ (s.core.fifoIn.getD o.num []).length → laneCheck (.vin o) false s = .ok () s ∧
    ∃ t, readL (.vin o) s = .ok (Row.ofBytes (((s.core.fifoIn.getD o.num []).take 32).flatMap
      (fun v => (dwordBytes v.bits).map (fun b => (b, v.poison))))) t ∧ t.core.lm = s.core.lm ∧
      t.core.fifoIn = modifyAt (fun q => q.drop 32) s.core.fifoIn o.num) ∧
  (∀ (s : State) (i : BitVec 6) (w : Nat) (outs : List OutLane) (mp : List Bool), s.Ready → s.laneFree = true →
    let old := s.core.press.tile.getD i.toNat .zero
    let m := mergeElems w 32 old.bits.toNat (natBools 64 old.pois.toNat) outs mp
    putOut (.v i) w outs mp s = .ok ()
      { s with core := s.core.putRow i { bits := .ofNat 2048 m.1, pois := .ofNat 64 (boolsNat m.2) } }) ∧
  (∀ (s t : State) (p : BitVec 3) (la w : Nat) (outs : List OutLane) (mp : List Bool), s.Ready →
    s.streamRow p true = some la → s.storable la 256 = some t →
    let old := s.localBytes la 256
    let m := mergeElems w 64 (leNat (old.map (·.1))) ((chunks 8 32 old).map (fun d => d.any (·.2))) outs mp
    putOut (.str p) w outs mp s = .ok ()
      { t with core := t.core.putLocal la (natLE 256 m.1) (m.2.flatMap (List.replicate 8)) }) ∧
  (∀ (s u : State) (o : Dir) (w : Nat) (outs : List OutLane) (mp : List Bool) (n : Nat), s.Ready →
    s.connected s.core.id o = true → neighbour s.core.id o = some n → s.irrevocably = some u →
    32 ≤ s.core.window.getD o.num 0 → outs.length = 2048 / w → mp.length = 2048 / w → (w = 16 ∨ w = 32) →
    ∃ t, putOut (.vout o) w outs mp s = .ok () t ∧ t.core.lm = s.core.lm ∧
      t.core.window.getD o.num 0 + 32 = s.core.window.getD o.num 0 ∧ t.parcels.length = u.parcels.length + 32)

/-- The mask members: AND, OR, XOR, NOT and ANDN of two masks with the OR of their poison; MSEL names the current mask;
MPOPC counts the bits of a mask, and MFIRST gives the lowest set one or the number of lanes.
That a pointer which the result itself writes is increased after it is the model's reading (log entry 96). -/
def Obligations.MaskMembers : Prop :=
  (∀ (s s1 s2 : State) (i : Instr) (op : MOp) (d a b : LSpec) (x y : Mask) (f : BitVec 128 → BitVec 128 → BitVec 128),
    ((i = .mand d a b ∧ op = .and ∧ f = fun p q => p &&& q) ∨ (i = .mor d a b ∧ op = .or ∧ f = fun p q => p ||| q) ∨
      (i = .mxor d a b ∧ op = .xor ∧ f = fun p q => p ^^^ q) ∨ (i = .mandn d a b ∧ op = .andn ∧ f = fun p q => p &&& ~~~q) ∨
      (i = .mnot d a ∧ op = .not ∧ b = .vz ∧ f = fun p _ => ~~~p)) → i.wf = true → s.Ready →
    (laneOp (.m op) d a b).checks s = .ok () s → readMask a s = .ok x s1 → readMask b s1 = .ok y s2 → s2.Ready →
    ∀ u, bumpPointers (lposts a ++ lposts b ++ lposts d)
        { s2 with core := s2.core.putMask (maskNum d) { bits := f x.bits y.bits, pois := x.pois ||| y.pois } } = .ok () u →
      u.Ready → exec i s = .next (u.after 4)) ∧
  (∀ (s : State) (k : BitVec 3), (Instr.msel (.m k)).wf = true → s.Ready → s.laneFree = true →
    exec (.msel (.m k)) s = .next (State.after { s with core := { s.core with cur := { s.core.cur with lmask := k } } } 4)) ∧
  (∀ (s s1 t u : State) (d : RSpec) (a : LSpec) (m : Mask), (Instr.mpopc d a).wf = true → s.Ready →
    (laneOp (.m .popc) .vz a .vz).checks s = .ok () s → readMask a s = .ok m s1 → s1.Ready →
    let n := s1.core.press.laneN
    s1.dst { bits := .ofNat 64 (popBits n m.bits.toNat), taint := false, poison := decide (m.pois.toNat % 2 ^ n ≠ 0) } d =
      some t → bumpPointers (lposts a) t = .ok () u → u.Ready → exec (.mpopc d a) s = .next (u.after 4)) ∧
  (∀ (s s1 t u : State) (d : RSpec) (a : LSpec) (m : Mask), (Instr.mfirst d a).wf = true → s.Ready →
    (laneOp (.m .first) .vz a .vz).checks s = .ok () s → readMask a s = .ok m s1 → s1.Ready →
    let n := s1.core.press.laneN
    let i := ctzBits n m.bits.toNat
    s1.dst { bits := .ofNat 64 i, taint := false, poison := decide (m.pois.toNat % 2 ^ min n (i + 1) ≠ 0) } d = some t →
    bumpPointers (lposts a) t = .ok () u → u.Ready → exec (.mfirst d a) s = .next (u.after 4))

/-- The conversions: a widening takes the 64 packed elements of its part to the 64 words of a row, a narrowing takes the
64 words to its part and keeps the rest of the destination, the others go word by word; in narrow mode those of 16
bits alone run, and the others take LANE with their function number.
That a pointer which the result itself writes is increased after it is the model's reading (log entry 96). -/
def Obligations.LaneConversions : Prop :=
  (∀ (s s1 t u : State) (i : Instr) (v : VInstr) (d a : LSpec) (p : Nat) (pk : Option Nat) (wd : Bool)
    (g : RMode → List Nat → Nat → Nat) (row : Row), Conversion i v d a p pk wd g → i.wf = true → s.Ready →
    v.checks s = .ok () s → readL a s.maskSeen = .ok row s1 →
    let c := s1.core
    let (on, mp) := c.current 64
    let src := if wd then ((row.elems (pk.getD 32)).drop (64 * p)).take 64 else row.elems 32
    let bad (x : Nat) : Bool := match v.op with
      | .x .f32cb4 => c.laneCbPois.getLsbD x
      | .x .cb4f32 => decide (c.laneCbPois ≠ 0)
      | _ => false
    let outs : List OutLane := (src.zip on).map (fun x =>
      if x.2 then some (g c.cur.rmode.toNat (codebook c.laneCb) x.1.1, x.1.2 || bad x.1.1) else none)
    let w := if wd then 32 else pk.getD 32
    (if w = 32 then putOut d 32 outs mp
      else putOut d w (placePart none (2048 / w) p outs) (placePart false (2048 / w) p mp)) s1 = .ok () t →
    bumpPointers (lposts a ++ lposts .vz ++ lposts d) t = .ok () u → u.Ready → exec i s = .next (u.after 4)) ∧
  (∀ (s : State) (i : Instr) (v : VInstr) (d a : LSpec) (p : Nat) (pk : Option Nat) (wd : Bool)
    (g : RMode → List Nat → Nat → Nat) (o : XOp), Conversion i v d a p pk wd g → v.op = .x o → i.wf = true → s.Ready →
    s.laneFree = true → s.core.press.narrow = true → pk ≠ some 16 →
    exec i s = .next (s.takeTrap (simpleTrap cLANE (.ofNat 64 o.func)) s.core.cur.pc 0x2D))

/-- Between rows and registers: VEXTR reads one lane, sign-extended, and the reductions fold the active lanes, each with
the taint of the registers read; VINS writes one lane and keeps the others.
Which lanes give a reduction its poison is the model's reading (log entry 39). That a pointer which the result itself
writes is increased after it is the model's reading (log entry 96). -/
def Obligations.LanesAndRegisters : Prop :=
  (∀ (s s1 s2 t u : State) (d : RSpec) (a : LSpec) (q : RSpec) (row : Row) (x : Val), (Instr.vextr d a q).wf = true →
    s.Ready → (laneOp (.p .extr) .vz a .vz).checks s = .ok () s → readL a s = .ok row s1 → s1.Ready →
    s1.src q = some (x, s2) → x.poison = false → x.bits.toNat < s2.core.press.laneN →
    let w := s.core.press.laneW
    let l := (row.elems w).getD x.bits.toNat (0, false)
    s2.dst { bits := sext (.ofNat 64 l.1) w, taint := x.taint || s2.laneTaint a, poison := l.2 } d = some t →
    bumpPointers (lposts a) t = .ok () u → u.Ready → exec (.vextr d a q) s = .next (u.after 4)) ∧
  (∀ (s s1 s2 t u : State) (d : LSpec) (a q : RSpec) (x y : Val), (Instr.vins d a q).wf = true → s.Ready →
    (laneOp (.p .ins) d .vz .vz).checks s = .ok () s → s.src a = some (x, s1) → s1.src q = some (y, s2) →
    y.poison = false → y.bits.toNat < s2.core.press.laneN →
    let w := s.core.press.laneW
    let n := s.core.press.laneN
    putOut d w ((List.replicate n none).set y.bits.toNat (some (x.bits.toNat % 2 ^ w, x.poison))) (List.replicate n false) s2 =
      .ok () t →
    bumpPointers (lposts d) t = .ok () u → u.Ready → exec (.vins d a q) s = .next (u.after 4)) ∧
  (∀ (s s1 t u : State) (i : Instr) (op : POp) (d : RSpec) (a : LSpec) (k : BitVec 7) (row : Row)
    (f : Fmt → RMode → Nat → List Nat → Word),
    ((i = .vredadd d a k ∧ op = .redadd ∧ f = fun fm m w xs => redAdd fm m w k.toNat xs) ∨
      (i = .vredmax d a k ∧ op = .redmax ∧ f = fun fm _ w xs => redExt true fm w k.toNat xs) ∨
      (i = .vredmin d a k ∧ op = .redmin ∧ f = fun fm _ w xs => redExt false fm w k.toNat xs)) → i.wf = true → s.Ready →
    (laneOp (.p op) .vz a .vz).checks s = .ok () s → readL a s.maskSeen = .ok row s1 → s1.Ready →
    let c := s.core
    let w := c.press.laneW
    let xs := ((row.elems w).zip (c.current c.press.laneN).1).filterMap (fun l => if l.2 then some l.1 else none)
    let r := f (laneFmt c.press.narrow) c.cur.rmode.toNat w (xs.map (·.1))
    s1.dst { bits := r, taint := s1.laneTaint a, poison := xs.any (·.2) } d = some t →
    bumpPointers (lposts a) t = .ok () u → u.Ready → exec i s = .next (u.after 4))

/-- The members on rind registers: the saturating sums and differences of scales and the larger and smaller of two, with
255 for a NaN scale in either source, a copy, 64 copies of a register's byte, the first 64 bytes of a tile row, and back;
each write raises its register's generation by one. KBIND records a rind register, its generation and an address in a tag, KUNBIND empties one, and KGEN reads a
generation. -/
def Obligations.ScaleMembers : Prop :=
  ((∀ (s t : State) (i : Instr) (kd ka kb : BitVec 4) (f : Nat → Nat → Int), ScaleOp i kd ka kb f → s.Ready →
    s.scaleFree = true → s.scalable = some t →
    let one (x y : Nat × Bool) : Nat × Bool :=
      (if x.1 = 255 ∨ y.1 = 255 then 255 else if f x.1 y.1 < 0 then 0 else if 254 < f x.1 y.1 then 254 else (f x.1 y.1).toNat,
        x.2 || y.2)
    exec i s = .next ((t.withRind kd.toNat ((s.scalesAt ka).zipWith one (s.scalesAt kb))).after 4)) ∧
  (∀ (s t : State) (kd ka : BitVec 4), s.Ready → s.scaleFree = true → s.scalable = some t →
    exec (.kmov kd ka) s = .next ((t.withRind kd.toNat (s.scalesAt ka)).after 4)) ∧
  (∀ (s s1 t : State) (kd : BitVec 4) (r : RSpec) (v : Val), (Instr.kset kd r).wf = true → s.Ready → s.scaleFree = true →
    s.src r = some (v, s1) → s1.scalable = some t →
    exec (.kset kd r) s = .next ((t.withRind kd.toNat (List.replicate 64 (v.bits.toNat % 256, v.poison))).after 4)) ∧
  (∀ (s t : State) (kd : BitVec 4) (vr : BitVec 6), s.Ready → s.scaleFree = true → s.scalable = some t →
    exec (.kfromv kd vr) s =
      .next ((t.withRind kd.toNat (((s.core.press.tile.getD vr.toNat .zero).elems 8).take 64)).after 4)) ∧
  (∀ (s : State) (ka : BitVec 4) (vr : BitVec 6), s.Ready → s.scaleFree = true →
    let old := s.core.press.tile.getD vr.toNat .zero
    let outs := ((s.scalesAt ka).map some) ++ List.replicate 192 none
    let m := mergeElems 8 32 old.bits.toNat (natBools 64 old.pois.toNat) outs (List.replicate 256 false)
    exec (.ktov vr ka) s = .next (State.after
      { s with core := s.core.putRow vr { bits := .ofNat 2048 m.1, pois := .ofNat 64 (boolsNat m.2) } } 4))) ∧
  ((∀ (s s1 t : State) (kd tag : BitVec 4) (r : RSpec) (v : Val), (Instr.kbind kd tag r).wf = true → s.Ready →
    s.scaleFree = true → s.src r = some (v, s1) → v.poison = false → s1.scalable = some t →
    let x : Tag := { valid := true, addr := v.bits.setWidth 17, reg := kd, gen := (s1.core.rind.getD kd.toNat .load).gen }
    exec (.kbind kd tag r) s = .next ((t.withTag tag.toNat x).after 4)) ∧
  (∀ (s t : State) (tag : BitVec 4), s.Ready → s.scaleFree = true → s.scalable = some t →
    exec (.kunbind tag) s = .next ((t.withTag tag.toNat .empty).after 4)) ∧
  (∀ (s t : State) (r : RSpec) (ka : BitVec 4), (Instr.kgen r ka).wf = true → s.Ready → s.scaleFree = true →
    s.dst { bits := (s.core.rind.getD ka.toNat .load).gen.setWidth 64, taint := false, poison := false } r = some t →
    exec (.kgen r ka) s = .next (t.after 4)))

/-- TTSET writes a tensor-table entry with its reserved bits zero, TTGET reads one into four registers, TTINV clears its
valid bit, and TCB loads the lane codebook from the 32 bytes before the entry's scale base, in the core's own window, and
copies them to local memory where its second operand is a register; a fault of that operand leaves the codebook set.
What a fault leaves consumed is the model's reading (log entry 85). -/
def Obligations.TensorTable : Prop :=
  (∀ (s s1 : State) (a b : RSpec) (v : Val) (ws : List Word), (Instr.ttset a b).wf = true → s.Ready → s.laneFree = true →
    s.src a = some (v, s1) → v.poison = false → s1.words b 4 = some ws →
    let e : BitVec 256 := .ofNat 256 ((ws.getD 0 0).toNat + (ws.getD 1 0).toNat * 2 ^ 64 + (ws.getD 2 0).toNat * 2 ^ 128 +
      (ws.getD 3 0).toNat * 2 ^ 192)
    (ttBad e = false → exec (.ttset a b) s = .next (State.after
      { s1 with core := { s1.core with tt := assocPut s1.core.tt (v.bits.toNat % 256) (ttClean e) } } 4)) ∧
    (ttBad e = true → exec (.ttset a b) s =
      .next ((s.keepTaken s1).takeTrap (simpleTrap cPROT (.ofNat 64 (v.bits.toNat % 256))) s.core.cur.pc (encode (.ttset a b) / 2 % 64)))) ∧
  (∀ (s s1 : State) (i : BitVec 5) (a : RSpec) (v : Val), (Instr.ttget (.w i) a).wf = true → s.Ready → s.laneFree = true →
    s.src a = some (v, s1) → v.poison = false →
    let e := ttClean (lookupD 0 s1.core.tt (v.bits.toNat % 256))
    exec (.ttget (.w i) a) s = .next (State.after (State.putRun s1.uncheck i ((List.range 4).map (fun j =>
      { bits := (e >>> (64 * j)).setWidth 64, taint := false, poison := false }))) 4)) ∧
  (∀ (s s1 : State) (a : RSpec) (v : Val), (Instr.ttinv a).wf = true → s.Ready → s.laneFree = true →
    s.src a = some (v, s1) → v.poison = false →
    let drop (x : Nat × BitVec 256) : Nat × BitVec 256 := if x.1 = v.bits.toNat % 256 then (x.1, x.2 &&& ~~~(128 : BitVec 256)) else x
    exec (.ttinv a) s = .next (State.after { s1 with core := { s1.core with tt := s1.core.tt.map drop } } 4)) ∧
  (∀ (s s1 : State) (a b : RSpec) (v : Val) (la : Nat), (Instr.tcb a b).wf = true → s.Ready → s.laneFree = true →
    s.src a = some (v, s1) → v.poison = false →
    let e := lookupD 0 s1.core.tt (v.bits.toNat % 256)
    ttValid e = true → ttFmt e = 2 →
    s1.ownAddr { bits := .ofNat 64 ((ttSbase e + 2 ^ 48 - 32) % 2 ^ 48), taint := false, poison := false } 0 32 = some la →
    let s2 := s1.reading la 32
    let bs := s2.localBytes la 32
    let u : State := { s2 with core := { s2.core with
      laneCb := .ofNat 256 (leNat (bs.map (·.1))), laneCbPois := cbPoison bs } }
    (b = .z → exec (.tcb a b) s = .next (u.after 4)) ∧
    (∀ (w : Val) (u2 : State), b ≠ .z → u.src b = some (w, u2) →
      let dst := w.bits.toNat % 2 ^ 17
      let faults (t : TrapInfo) : Prop := exec (.tcb a b) s = .next (u2.takeTrap t s.core.cur.pc (encode (.tcb a b) / 2 % 64))
      (w.poison = true → faults (poisonTrap b)) ∧
      (w.poison = false → dst % 32 ≠ 0 → faults (simpleTrap cALIGN (.ofNat 64 dst))) ∧
      (w.poison = false → dst % 32 = 0 → u2.core.scratch dst 32 = false → faults (simpleTrap cBANK (.ofNat 64 dst))) ∧
      (w.poison = false → dst % 32 = 0 → u2.core.scratch dst 32 = true → dst < 0x400 →
        faults (simpleTrap cPROT (.ofNat 64 dst))) ∧
      (∀ x y, w.poison = false → dst % 32 = 0 → u2.core.scratch dst 32 = true → u2.scalable = some x →
        x.storable dst 32 = some y →
        exec (.tcb a b) s = .next ((y.stored dst (bs.map (·.1)) (bs.map (·.2))).after 4))))

/-- TLD asks the home of its streams for a tile, or a narrow pair of them, and opens a write of its rind register and tag,
or of two; TST stores the local rows of its tile that lie within the tensor, and its scales.
That scales past the 64 of kd are not written for E below 128 is the model's reading (log entry 88). -/
def Obligations.TilesMoved : Prop :=
  (∀ (s s1 s2 s4 s5 : State) (kd tag : BitVec 4) (a b : RSpec) (l : BitVec 4) (tile : Tile) (dst : Nat) (taint : Bool)
    (xs : List (Nat × Xlat)), (Instr.tld kd tag a b l).wf = true → s.Ready → s.scaleFree = true →
    tileOperands a b s = .ok (tile, dst, taint) s1 →
    (tile.wide = true → kd.getLsbD 0 = false ∧ tag.getLsbD 0 = false) →
    tilePages a.bits .read tile.runs s1 = .ok xs s2 → s2.Ready → s2.scaleFree = true →
    (∀ x ∈ xs, (isPeerPA x.2.pa && takeOffset (x.2.pa % 2 ^ 38)) = false) →
    (if xs.all (fun x => leafImm x.2.leaf) then s2 else s2.uncheck).scalable = some s4 →
    (if s4.core.selfpress && s4.core.cur.act.ownsLocal dst (tile.nr * tile.rb) then some s4 else s4.irrevocably) = some s5 →
    let pages := xs.map (fun x => (x.1, if leafZero x.2.leaf then none else some (s5.keyHere x.2.pa, leafPol x.2.leaf == 0)))
    let q : Req := { uid := s5.uid, core := s5.core.id, act := s5.core.cur.act.uid
                     kind := .tile tile.e tile.ti tile.tj (.ofNat 17 dst) pages, served := false, slice := none
                     use := .stream, after := s5.core.cur.act.fence }
    exec (.tld kd tag a b l) s = .next (State.opened { s5 with reqs := s5.reqs ++ [q] } (.tld kd tag tile.wide) l.toNat none
      (fun sl => { sl with load := true }) 4)) ∧
  (∀ (s s1 s2 t : State) (kd : BitVec 4) (a b : RSpec) (tile : Tile) (dst : Nat) (taint : Bool) (xs : List (Nat × Xlat)),
    (Instr.tst kd a b).wf = true → s.Ready → s.scaleFree = true → tileOperands a b s = .ok (tile, dst, taint) s1 →
    (tile.ext = 128 → kd.getLsbD 0 = false) → tilePages a.bits .write tile.runs s1 = .ok xs s2 → s2.Ready →
    s2.core.cur.act.digested = false →
    s2.ordered = true → s2.core.cur.act.fence ≤ s2.uid →
    let rows := (List.range tile.nr).filter (fun i => (tile.rowBytes i).2 != 0)
    let u := if rows.all (fun i => s2.core.cur.act.ownsLocal (dst + i * tile.rb) tile.rb) then s2 else s2.uncheck
    let ks := s2.scalesAt kd ++ (if tile.ext = 128 then s2.scalesAt (kd + 1) else [])
    u.sendsStores (u.tileStores tile dst xs ks) = some t → exec (.tst kd a b) s = .next (t.after 4))

/-- KLD and KRESTORE read scales at their places and write them to rind registers, each of which rises by one generation;
KST and KSAVE store them, with KSAVE the generations and tags as well: through the core's own window, another core's, or
pages, piece by piece of 256 bytes. An area of KSAVE or KRESTORE that fails a check takes its first fault.
That the core's own index in the cluster window leads to its own memory is the model's reading (log entry 17). What a
fault leaves consumed is the model's reading (log entry 85). -/
def Obligations.ScalesInMemory : Prop :=
  (∀ (s s1 t : State) (kd : BitVec 4) (r : RSpec) (v : Val) (la : Nat), (Instr.kld kd r).wf = true → s.Ready →
    s.scaleFree = true → s.src r = some (v, s1) → s1.ownBlock v 64 64 = some la → (s1.reading la 64).scalable = some t →
    exec (.kld kd r) s = .next ((t.withRind kd.toNat ((s1.localBytes la 64).map (fun x => (x.1.toNat, x.2)))).after 4)) ∧
  (∀ (s s1 s2 s3 t : State) (kd : BitVec 4) (r : RSpec) (v : Val) (pl : Place) (bs : List (Byte × Bool)),
    (Instr.kld kd r).wf = true → s.Ready → s.scaleFree = true → s.src r = some (v, s1) →
    s1.address v 0 64 .read = some (pl, s2) → s2.readsNow pl 64 v.taint = some (bs, s3) → s3.scalable = some t →
    exec (.kld kd r) s = .next ((t.withRind kd.toNat (bs.map (fun x => (x.1.toNat, x.2)))).after 4)) ∧
  (∀ (s s1 t : State) (ka : BitVec 4) (r : RSpec) (v : Val) (la : Nat), (Instr.kst ka r).wf = true → s.Ready →
    s.scaleFree = true → s.src r = some (v, s1) → s1.ownBlock v 64 64 = some la → s1.numbered.storable la 64 = some t →
    let l := s1.scalesAt ka
    exec (.kst ka r) s = .next ((t.stored la (l.map (fun x => BitVec.ofNat 8 x.1)) (l.map (·.2))).after 4)) ∧
  (∀ (s s1 s2 t : State) (ka : BitVec 4) (r : RSpec) (v : Val) (pl : Place), (Instr.kst ka r).wf = true → s.Ready →
    s.scaleFree = true → s.core.cur.act.sampled = false → s.src r = some (v, s1) →
    s1.address v 0 64 .write = some (pl, s2) →
    let l := s1.scalesAt ka
    s2.storesTo pl .normal (l.map (fun x => BitVec.ofNat 8 x.1)) (l.map (·.2)) false = some t →
    exec (.kst ka r) s = .next (t.after 4)) ∧
  (∀ (s s1 u : State) (r : RSpec) (v : Val) (la : Nat), (Instr.ksave r).wf = true → s.Ready → s.scaleFree = true →
    s.src r = some (v, s1) → s1.ownBlock v 256 1184 = some la → s1.storable la 1184 = some u →
    ∃ t, exec (.ksave r) s = .next t ∧ t.core.cur.pc = s.core.cur.pc + 4 ∧ t.core.rind = s1.core.rind ∧
      t.core.tags = s1.core.tags ∧
      State.Holds t s1 la s1.core.rindArea) ∧
  (∀ (s s1 s2 t : State) (r : RSpec) (v : Val) (ps : List (Place × Nat × Nat)), (Instr.ksave r).wf = true → s.Ready →
    s.scaleFree = true → s.core.cur.act.sampled = false → s.src r = some (v, s1) → v.poison = false →
    let l := areaPieces (addr48 v.bits) 1184
    addr48 v.bits % 256 = 0 → State.areaAt r .write l s1 = .ok (ps, s2) → (∀ x ∈ l, s2.watches x.1 x.2 .write = false) →
    State.areaStore s2.uid ps s2.core.rindArea s2.numbered = some t →
    exec (.ksave r) s = .next (t.after 4)) ∧
  (∀ (s s1 u : State) (r : RSpec) (v : Val) (la : Nat), (Instr.krestore r).wf = true → s.Ready → s.scaleFree = true →
    s.src r = some (v, s1) → s1.ownBlock v 256 1184 = some la → (s1.reading la 1184).scalable = some u →
    s1.core.rind.length = 16 →
    ∃ t, exec (.krestore r) s = .next t ∧ t.core.cur.pc = s.core.cur.pc + 4 ∧ t.core.lm = s1.core.lm ∧
      (∀ k, k < 16 → (t.core.rind.getD k .load).list =
        ((s1.localBytes (la + 64 * k) 64).map (fun x => (x.1.toNat, x.2))) ∧
        (t.core.rind.getD k .load).gen = (s1.core.rind.getD k .load).gen + 1)) ∧
  (∀ (s s1 s2 s3 t : State) (r : RSpec) (v : Val) (ps : List (Place × Nat × Nat)) (bs : List (Byte × Bool)),
    (Instr.krestore r).wf = true → s.Ready → s.scaleFree = true → s.src r = some (v, s1) → v.poison = false →
    let l := areaPieces (addr48 v.bits) 1184
    addr48 v.bits % 256 = 0 → State.areaAt r .read l s1 = .ok (ps, s2) → (∀ x ∈ l, s2.watches x.1 x.2 .read = false) →
    State.areaRead v.taint ps s2 = some (bs, s3) → s3.scalable = some t →
    exec (.krestore r) s = .next (((List.range 16).foldl (fun u k =>
      u.withRind k (((bs.drop (64 * k)).take 64).map (fun x => (x.1.toNat, x.2)))) t).after 4)) ∧
  (∀ (s s1 : State) (i : Instr) (r : RSpec) (k : Access) (v : Val), (i = .ksave r ∧ k = .write ∨ i = .krestore r ∧ k = .read) →
    i.wf = true → s.Ready → s.scaleFree = true → s.src r = some (v, s1) →
    let va := addr48 v.bits
    let l := areaPieces va 1184
    let faults (t : TrapInfo) : Prop := exec i s = .next ((s.keepTaken s1).takeTrap t s.core.cur.pc (encode i / 2 % 64))
    (v.poison = true → faults (poisonTrap r)) ∧
    (v.poison = false → va % 256 ≠ 0 → faults (simpleTrap cALIGN (.ofNat 64 va))) ∧
    (∀ t, v.poison = false → va % 256 = 0 → State.areaAt r k l s1 = .error t → faults t) ∧
    (∀ ps s2 x, v.poison = false → va % 256 = 0 → State.areaAt r k l s1 = .ok (ps, s2) →
      l.find? (fun x => s2.watches x.1 x.2 k) = some x → faults (simpleTrap cWATCH (.ofNat 64 x.1))))

/-- PCMD writes the queue slot at TAIL from eight registers and pushes it, and a store of a slot's last bytes pushes it
too; PWAIT goes on once MARK has come or the queue is empty, with MARK; PFENCE once the queue is empty. -/
def Obligations.PressControl : Prop :=
  (∀ (s s1 t : State) (i : BitVec 5) (sel : RSpec) (v : Val), (Instr.pcmd (.w i) sel).wf = true → s.Ready →
    s.src sel = some (v, s1) → v.poison = false → s1.core.press.pend < 16 →
    s1.core.press.stAt s1.core.press.tail.toNat = .free → s1.core.checkElsewhere = false →
    (∀ th ∈ s1.core.threads, th.slots = []) → s1.scalable = some t →
    let k := s1.core.press.tail.toNat
    let vs := s1.regRun i 8
    let put (c : Core) : Core := (List.range 8).foldl (fun c j =>
      let x := vs.getD j (.clean 0)
      if v.bits.getLsbD j then c else c.putLocal (64 * k + 8 * j) (dwordBytes x.bits) (List.replicate 8 x.poison)) c
    exec (.pcmd (.w i) sel) s = .next (State.after { t with uid := t.uid + 1, core := (put t.core).push t.uid } 4)) ∧
  (∀ (s s1 s2 u : State) (t base : RSpec) (off : BitVec 5) (hint size : BitVec 2) (b v : Val) (la : Nat),
    (Instr.st t base off hint size).wf = true → s.Ready → s.src base = some (b, s1) →
    let n := 2 ^ size.toNat
    s1.ownAddr b (off.toNat * n) n = some la → la < 0x400 → s1.src t = some (v, s2) →
    s2.numbered.queued la n ((dwordBytes v.bits).take n) (List.replicate n v.poison) = some u →
    exec (.st t base off hint size) s = .next (u.after 4)) ∧
  (∀ (s s1 t : State) (d a : RSpec) (v : Val), (Instr.pwait d a).wf = true → s.Ready → s.src a = some (v, s1) →
    v.poison = false → let p := s1.core.press
    (p.pend = 0 ∨ (p.mark - v.bits.setWidth 16).toNat < 2 ^ 15) →
    s1.uncheck.dst { bits := p.mark.setWidth 64, taint := false, poison := false } d = some t →
    exec (.pwait d a) s = .next (t.after 4)) ∧
  (∀ s : State, s.Ready → s.core.press.pend = 0 → exec .pfence s = .next (s.after 4))

/-- A press command that a check refuses stops the press with its code, and starts nothing. FLIP exchanges the planes,
PMODE sets the mode and empties them, TZERO clears rows, PTABLE loads the codebooks and their products, PMARK only
starts, and LOADW reads a weight plane with its scales into the shadow plane.
That a command takes its whole effect at its start is the model's choice (log entry 26). -/
def Obligations.PressCommands : Prop :=
  (∀ (s : State) (i : Instr) (cmd : PressCmd) (k : Nat), Command i cmd → s.pressReady = some k → s.armed = [] →
    s.core.slotPoison k = false → decodePress s.core.press.narrow (s.core.slotDwords k) = .ok cmd →
    let c := s.core.stopCode (s.core.press.slots.getD k .empty) cmd
    c ≠ 0 → exec i s = .next (State.wake { s with core := { s.core with press := s.core.press.stopAt k c } })) ∧
  (∀ (s : State) (k : Nat), s.Begins k .flip →
    exec .flip s = .next (s.pressed k (fun p => { p with active := p.shadow, shadow := p.active }))) ∧
  (∀ (s : State) (k : Nat) (n i : Bool), s.Begins k (.pmode n i) → exec (.pmode n i) s =
    .next (s.pressed k (fun p => { p with narrow := n, integer := i, active := .empty, shadow := .empty }))) ∧
  (∀ (s : State) (k : Nat) (r : BitVec 6) (m : BitVec 7), s.Begins k (.tzero r m) →
    exec (.tzero r m) s = .next (s.pressed k (fun p => p.rowsFrom r.toNat m.toNat (fun _ => .zero)))) ∧
  (∀ (s : State) (k : Nat) (a a2 : BitVec 17), s.Begins k (.ptable a a2) →
    let x := s.localBytes a.toNat 32
    let y := s.localBytes a2.toNat 32
    let ca : BitVec 256 := .ofNat 256 (leNat (x.map (·.1)))
    let cw : BitVec 256 := .ofNat 256 (leNat (y.map (·.1)))
    exec (.ptable a a2) s = .next (s.pressed k (fun p => { p with ca := ca, cw := cw, caPois := cbPoison x, cwPois := cbPoison y
                                                                  pairTable := pairTableOf ca cw, pairPois := 0, pair := true }))) ∧
  (∀ (s : State) (k : Nat) (inc : BitVec 16), s.Begins k (.pmark inc) →
    exec (.pmark inc) s = .next (s.pressed k id)) ∧
  (∀ (s : State) (k : Nat) (f tg th : BitVec 4) (tv : Bool) (a : BitVec 17) (st : BitVec 16),
    s.Begins k (.loadw f tg th tv a st) →
    let sl := s.core.press.slots.getD k .empty
    let n := if s.core.press.narrow then 128 else 64
    let rows := (List.range 32).map (fun i => s.localBytes (a.toNat + i * st.toNat) (n * fmtBits f.toNat / 8))
    let ones : List Lane := List.replicate 64 (127, false)
    let scales := (if tv then s.scalesAt sl.tag.reg else ones) ++
      (if !s.core.press.narrow then [] else if tv then s.scalesAt sl.tagh.reg else ones)
    let plane : Plane := { valid := true, fmt := f
                           rows := rows.map (fun r => .ofNat 1024 (leNat (r.map (·.1))))
                           pois := rows.map (fun r => .ofNat 128 (boolsNat ((elemsOf (fmtBits f.toNat) r).map (·.2))))
                           scales := .ofNat 1024 (lanesNat 8 (scales.map (·.1)))
                           scalePois := .ofNat 128 (boolsNat (scales.map (·.2))) }
    exec (.loadw f tg th tv a st) s = .next (s.pressed k (fun p => { p with shadow := plane })))

/-- STREAM and STREAMT write row ROW0 + i of the tile with one press step of activation row i, which a STREAM reads from
a row of local memory and a STREAMT from a column; no other row, no plane and no local byte changes. One press step on
floats gives each element of its row the floating step of the old element, or −0 without ACC, the products of the
activation row and the element's column of weights, and the two scales: WindowSum, RoundF under RNE with the sticky bit,
and the special values.
That a command takes its whole effect at its start is the model's choice (log entry 26). -/
def Obligations.PressStreams : Prop :=
  (∀ (p : Press) (fmt r j : Nat) (acc : Bool) (x : List Lane) (sa : Lane), p.integer = false → p.tile.length = 64 →
    p.active.rows.length = 32 → p.active.pois.length = 32 → r < 64 → j < p.laneN →
    let f := if p.narrow then f16 else f32
    let a := if acc then (((p.tile.getD r .zero).elems p.laneW).getD j (0, false)).1 else f.zero true
    let ps := p.products fmt (x.map (·.1)) ((p.weightCols.getD j []).map (·.1))
    FloatStep f a ps sa.1 (p.colScales.getD j (127, false)).1
      (((((p.step p.weightCols fmt acc x sa r).tile.getD r .zero).elems p.laneW).getD j (0, false)).1)) ∧
  ∀ (s : State) (k : Nat) (f tg : BitVec 4) (tv acc : Bool) (r : BitVec 6) (m : BitVec 7) (a : BitVec 17) (st : BitVec 16),
    let p := s.core.press
    let sl := p.slots.getD k .empty
    let b := fmtBits f.toNat
    let sa (i : Nat) : Lane := if tv && fmtScaled f.toNat then (s.scalesAt sl.tag.reg).getD i (127, false) else (127, false)
    let runs (i : Instr) (x : Nat → List Lane) : Prop := ∃ t, exec i s = .next t ∧
      (∀ j, j < m.toNat → t.core.press.tile.getD (r.toNat + j) .zero =
        (p.step p.weightCols f.toNat acc (x j) (sa j) (r.toNat + j)).tile.getD (r.toNat + j) .zero) ∧
      (∀ j, (j < r.toNat ∨ r.toNat + m.toNat ≤ j) → t.core.press.tile.getD j .zero = p.tile.getD j .zero) ∧
      t.core.press.stAt k = .running ∧ t.core.press.active = p.active ∧ t.core.press.shadow = p.shadow ∧
      t.core.press.mark = p.mark ∧ t.core.lm = s.core.lm ∧ t.core.rind = s.core.rind
    (s.Begins k (.stream f tg tv acc r m a st) →
      runs (.stream f tg tv acc r m a st) (fun j => s.localElems b (a.toNat + j * st.toNat) (32 * b / 8))) ∧
    (s.Begins k (.streamt f tg tv acc r m a st) →
      runs (.streamt f tg tv acc r m a st) (fun j => (List.range 32).map (fun i =>
        (s.localElems b (a.toNat + i * st.toNat) ((m.toNat * b + 7) / 8)).getD j (0, false))))

/-- One press step on integers: in wide mode each element is the old one, or 0 without ACC, plus the exact sum of the
products, modulo 2^32; in narrow mode that exact value saturated to 16 bits, and OV is set where saturation changed a
value and never cleared. -/
def Obligations.IntegerSteps : Prop :=
  ∀ (p : Press) (fmt r : Nat) (acc : Bool) (x : List Lane) (sa : Lane), p.integer = true → p.tile.length = 64 →
    p.active.rows.length = 32 → p.active.pois.length = 32 → r < 64 →
    let cols := p.weightCols
    let old (j : Nat) : Int := if acc then
      toSigned (((p.tile.getD r .zero).elems p.laneW).getD j (0, false)).1 p.laneW else 0
    let sum (j : Nat) : Int := (List.zipWith (fun a w => inputInt fmt a.1 * inputInt p.active.fmt.toNat w.1) x
      (cols.getD j [])).foldl (· + ·) 0
    let q := p.step cols fmt acc x sa r
    let new (j : Nat) : Nat := (((q.tile.getD r .zero).elems p.laneW).getD j (0, false)).1
    (p.narrow = false → q.ov = p.ov ∧ ∀ j, j < 64 → new j = ((old j + sum j) % (2 ^ 32 : Int)).toNat) ∧
    (p.narrow = true →
      (∀ j, j < 128 → new j = ((max (-2 ^ 15) (min (2 ^ 15 - 1) (old j + sum j))) % (2 ^ 16 : Int)).toNat) ∧
      (q.ov = true ↔ (p.ov = true ∨ ∃ j, j < 128 ∧ ¬ (-2 ^ 15 ≤ old j + sum j ∧ old j + sum j ≤ 2 ^ 15 - 1))))

/-- TLOAD and TLOADT fill tile rows with converted elements of local memory, TDRAIN writes converted rows to local
memory and clears them where CLR says so, PSAVE writes the save area, and PRESTORE puts back an area that passes its
checks and stops with code 7 on one that does not.
That a command takes its whole effect at its start is the model's choice (log entry 26), and so is what poison and
fullness a transfer leaves (entry 45); that blocks of a plane which is not valid are ignored is its reading (entry
99). -/
def Obligations.PressTransfers : Prop :=
  (∀ (s : State) (k : Nat) (f : BitVec 4) (r : BitVec 6) (m : BitVec 7) (a : BitVec 17) (st : BitVec 16),
    s.Begins k (.tload f r m a st) → let p := s.core.press
    let b := tloadBits p.narrow f.toNat
    let row (i : Nat) : Row := rowOfLanes p.laneW ((s.localElems b (a.toNat + i * st.toNat) (p.laneN * b / 8)).map
      (fun x => (tloadElem p.laneW f.toNat x.1, x.2)))
    exec (.tload f r m a st) s = .next (s.pressed k (fun p => p.rowsFrom r.toNat m.toNat row))) ∧
  (∀ (s : State) (k : Nat) (f : BitVec 4) (r : BitVec 6) (m : BitVec 7) (a : BitVec 17) (st : BitVec 16),
    s.Begins k (.tloadt f r m a st) → let p := s.core.press
    let b := tloadBits false f.toNat
    let row (i : Nat) : Row := rowOfLanes 32 ((List.range 64).map (fun j =>
      let x := (s.localElems b (a.toNat + j * st.toNat) (m.toNat * b / 8)).getD i (0, false)
      (tloadElem 32 f.toNat x.1, x.2)))
    p.narrow = false →
    exec (.tloadt f r m a st) s = .next (s.pressed k (fun p => p.rowsFrom r.toNat m.toNat row))) ∧
  (∀ (s : State) (k : Nat) (f : BitVec 4) (clr : Bool) (r : BitVec 6) (m : BitVec 7) (a : BitVec 17) (st : BitVec 16)
    (a2 : BitVec 17), s.Begins k (.tdrain f clr r m a st a2) → s.ldsWait = [] → let p := s.core.press
    let w := p.laneN / 32
    let lanes (i : Nat) : List Lane := (p.tile.getD (r.toNat + i) .zero).elems p.laneW
    let blocks (i : Nat) := (chunks 32 8 (lanes i)).map (drainBlock p.narrow f.toNat)
    let data (i : Nat) : List (Byte × Bool) :=
      if a2 = 0 then bytesOf (tdrainBits p.narrow f.toNat) ((lanes i).map (fun x => (tdrainElem p.narrow f.toNat x.1, x.2)))
      else bytesOf 8 ((blocks i).flatMap (·.2))
    let scales (i : Nat) : List (Byte × Bool) :=
      if a2 = 0 then [] else (blocks i).map (fun b => (BitVec.ofNat 8 b.1.1, b.1.2))
    let put (x : Memory × NatSet) (la : Nat) (bs : List (Byte × Bool)) : Memory × NatSet :=
      (x.1.setBytes la (bs.map (·.1)), writePoison 8 x.2 la (bs.map (·.2)))
    let out := (List.range m.toNat).foldl (fun x i =>
      put (put x (a.toNat + i * st.toNat) (data i)) (a2.toNat + i * w) (scales i)) (s.core.lm, s.core.lmPoison)
    ∃ t, exec (.tdrain f clr r m a st a2) s = .next t ∧ t.core.lm = out.1 ∧ t.core.lmPoison = out.2 ∧
      t.core.press = (s.pressed k (fun p => if clr then p.rowsFrom r.toNat m.toNat (fun _ => .zero) else p)).core.press) ∧
  (∀ (s : State) (k : Nat) (a : BitVec 17), s.Begins k (.psave a) →
    ∃ t, exec (.psave a) s = .next t ∧ State.Holds t s a.toNat s.core.saveArea ∧
      t.core.press = (s.pressed k id).core.press) ∧
  (∀ (s : State) (k : Nat) (a : BitVec 17), s.Begins k (.prestore a) →
    let area := s.localBytes a.toNat 26112
    (badArea area = true → exec (.prestore a) s =
      .next (State.wake { s with core := { s.core with press := s.core.press.stopAt k 7 } })) ∧
    (badArea area = false → exec (.prestore a) s = .next (State.wake { s.startSlot k with
      core := (s.startSlot k).core.restoreArea area })))

/-- What else the press does: a bad slot stops it, a running command retires, with PMARK's increment to MARK, PSTATUS's
actions free or retry the stopped slot or clear OV; a window of the ramp limiter below its limit is made up with fillers
on the idle presses, lowest core first; fillers end; and while an average of the last 1,000 power reports exceeds its cap,
and through the window in which it comes below, no command starts.
Which presses run fillers is the model's choice (log entry 27), and so is when the power cap holds (entry 89). -/
def Obligations.PressEvents : Prop :=
  (∀ (s : State) (k code : Nat), s.pressReady = some k → s.armed = [] →
    (if s.core.slotPoison k then .error 9 else decodePress s.core.press.narrow (s.core.slotDwords k)) = .error code →
    exec .pressFault s = .next (State.wake { s with core := { s.core with press := s.core.press.stopAt k code } })) ∧
  (∀ (s : State) (k : BitVec 4), s.core.press.stAt k.toNat = .running →
    let inc : BitVec 16 := if cmdOp (s.core.cmdWord k.toNat) = 0x0B then .ofNat 16 (bitsAt ((s.core.slotDwords k.toNat).getD 1 0) 15 0) else 0
    ∃ t, exec (.pressRetire k) s = .next t ∧ t.core.press.stAt k.toNat = .free ∧
      t.core.press.pend = s.core.press.pend - 1 ∧ t.core.press.mark = s.core.press.mark + inc ∧
      t.core.press.tile = s.core.press.tile ∧ t.core.lm = s.core.lm) ∧
  (∀ (s : State) (k : Nat), s.core.press.stop = true → s.core.press.stoppedSlot = some k →
    (∀ th ∈ s.core.threads, th.slots = []) → s.core.cur.rep = none → let d0 := s.core.cmdWord k
    ∃ t, exec .retry s = .next t ∧ t.core.press.stop = false ∧ t.core.press.scode = 0 ∧
      t.core.press.stAt k = .pending ∧ (t.core.press.slots.getD k .empty).tag = s.core.tags.getD (bitsAt d0 15 12) .empty ∧
      t.core.press.pend = s.core.press.pend ∧ t.core.press.tile = s.core.press.tile) ∧
  (∀ (s : State) (k : Nat), s.core.press.stop = true → s.core.press.stoppedSlot = some k →
    ∃ t, exec .skip s = .next t ∧ t.core.press.stop = false ∧ t.core.press.scode = 0 ∧ t.core.press.stAt k = .free ∧
      t.core.press.pend = s.core.press.pend - 1 ∧ t.core.press.tile = s.core.press.tile) ∧
  (∀ s : State, s.core.press.running = [] → s.core.press.slots.length = 16 →
    ∃ t, exec .flush s = .next t ∧ t.core.press.pend = 0 ∧ t.core.press.stop = false ∧ t.core.press.scode = 0 ∧
      (∀ k, k < 16 → t.core.press.stAt k = .free) ∧ t.core.press.head = t.core.press.tail ∧
      t.core.press.tile = s.core.press.tile) ∧
  (∀ s : State, exec .ovClear s = .next (State.wake { s with core := { s.core with press := { s.core.press with ov := false } } })) ∧
  (∀ (s : State) (c : Nat),
    let r := s.ramp c
    let n := bitsAt (s.part ((s.partOfCluster c).getD 0)).rampDn 15 0
    let lack := r.prev - n - r.now
    let idle := ((List.range 128).map (128 * c + ·)).filter (fun x => s.corePresent x && (s.coreOf x).pressIdle)
    let below := (s.powerLog.map (·.1)).sum < 3300 * 1000 ∧ (s.powerLog.map (·.2)).sum < 3800 * 1000
    let u : State := if below then { s with powerHeld := s.powerHeld.del c } else s
    (n = 0 ∨ lack = 0 → exec (.rampWindow c) s = .next (State.wake (u.putRamp { cluster := c, now := 0, prev := r.now }))) ∧
    (n ≠ 0 → ∃ t, exec (.rampWindow c) s = .next t ∧
      (∀ x, (t.coreOf x).press.filler = ((idle.take lack).contains x || (s.coreOf x).press.filler)) ∧
      t.powerHeld = u.powerHeld ∧ t.ramp c = { cluster := c, now := 0, prev := if idle.take lack = [] then r.now else r.now + lack })) ∧
  (∀ (s : State) (c : Nat), (s.coreOf c).press.filler = true → ∃ t, exec (.fillerOperationEnd c) s = .next t ∧
    (t.coreOf c).press.filler = false ∧ t.mem = s.mem ∧ t.contexts = s.contexts) ∧
  (∀ (s : State) (pkg all : Nat),
    let log := ((pkg, all) :: s.powerLog).take 1000
    let past := 3300 * 1000 < (log.map (·.1)).sum ∨ 3800 * 1000 < (log.map (·.2)).sum
    exec (.powerReport (pkg, all)) s = .next (State.wake { s with
      powerLog := log, powerHeld := if past then List.range 128 else s.powerHeld })) ∧
  (∀ (s : State) (k : Nat), s.pressReady = some k → s.powerHeld.has (clusterOf s.core.id) = false)

/-- COPY hands its descriptor to a channel of the cluster with room and gives the sequence number, once the activation's
stores are acknowledged; BSEAL seals the open batch, BDRAIN reads and clears the error accumulator once few enough batches
are left, CWPTR reads the latest copy. -/
def Obligations.CopiesIssued : Prop :=
  (∀ (s s1 s2 t : State) (i : BitVec 5) (sel : RSpec) (v : Val) (dws : List Word), (Instr.copy (.w i) sel).wf = true →
    s.Ready → s.src sel = some (v, s1) → v.poison = false →
    s1.words (.w i) 8 = some dws → ((copyDesc dws).mesh = 0 → s1.copyProt (copyDesc dws).src = false ∧
      s1.copyProt (copyDesc dws).dst = false) → s1.irrevocably = some s2 →
    (∀ x ∈ s2.core.storeBuf, x.op.act ≠ s2.core.cur.act.uid) →
    let s3 : State := { s2 with core := s2.core.tryDrain }
    let ch := v.bits.toNat % 16
    let c := s3.channelAt (clusterOf s3.core.id) ch
    c.jobs.length < 32 → (s3.core.batches s3.core.curHi).sealedList.length ≤ 64 →
    (s3.copied ch dws).dst { bits := .ofNat 64 (c.nextSeq.toNat * 2 ^ 48 + ch), taint := false, poison := false } sel = some t →
    exec (.copy (.w i) sel) s = .next (t.after 4)) ∧
  (∀ (s t : State) (d : RSpec), (Instr.bseal d).wf = true → s.Ready →
    let c := s.uncheck.core
    (c.batches c.curHi).sealedList.length < 64 →
    State.dst { s.uncheck with core := c.sealBatch c.curHi }
      { bits := c.batchNo.setWidth 64, taint := false, poison := false } d = some t →
    exec (.bseal d) s = .next (t.after 4)) ∧
  (∀ (s s1 t : State) (d a : RSpec) (v : Val), (Instr.bdrain d a).wf = true → s.Ready → s.src a = some (v, s1) →
    v.poison = false →
    let u := s1.uncheck
    let b := u.core.batches u.core.curHi
    b.sealedList.length ≤ v.bits.toNat →
    let c := u.core.putBatches u.core.curHi { b with errCount := 0, errStatus := 0, errBatch := 0 }
    let r := if b.errCount = 0 then 0 else b.errCount + b.errStatus % 16 * 2 ^ 16 + b.errBatch.toNat * 2 ^ 20
    State.dst { u with core := c } { bits := .ofNat 64 r, taint := false, poison := false } d = some t →
    exec (.bdrain d a) s = .next (t.after 4)) ∧
  (∀ (s s1 t : State) (d a : RSpec) (v : Val), (Instr.cwptr d a).wf = true → s.Ready → s.src a = some (v, s1) →
    v.poison = false →
    let u := s1.uncheck
    let c := u.channelAt (clusterOf u.core.id) (v.bits.toNat % 16)
    let r := if (u.core.kern.map (·.loadedAt)).getD 0 < c.startedAt then c.lastSeq.toNat * 2 ^ 48 + c.lastDone.toNat else 0
    u.dst { bits := .ofNat 64 r, taint := false, poison := false } d = some t → exec (.cwptr d a) s = .next (t.after 4))

/-- CTAKE and CGIVE send a token and an antitoken into their counter's network, CSUM and CRESET a request to its input-0
cell, and the result is awaited in `d`; a failed counter takes only a CRESET, when cells for it are free. BARV sends a token
to a barrier and blocks until it is counted; on the phase barrier of its domain it is PHASEN; BARW goes on once the core's
copy is past a generation; BARG and BARP read the copy and its parity. Every member is an irrevocable act. BARV sends a token to a barrier and blocks until it is counted; on the phase barrier of its domain it is PHASEN; BARW
goes on once the core's copy is past a generation; BARG and BARP read the copy and its parity. Every member is an
irrevocable act.
That a slot which an error has struck counts as free again is the model's reading (log entry 90). -/
def Obligations.NetworksAsked : Prop :=
  (∀ (s s1 s2 : State) (i : Instr) (op : CntOp) (d a : RSpec) (l : BitVec 4) (v : Val) (c : Counter),
    ((i = .ctake d a l ∧ op = .take) ∨ (i = .cgive d a l ∧ op = .give) ∨ (i = .csum d a l ∧ op = .sum) ∨
      (i = .creset d a l ∧ op = .reset)) → i.wf = true → s.Ready → s.src a = some (v, s1) → v.poison = false →
    s1.counter? s1.myCtx (v.bits.toNat % 1024) = some c → (op = .give → c.nogive = false) →
    (c.failed = true → op = .reset ∧ s1.cellsFor s1.myPart s1.myCtx [c.logw] = true) → s1.irrevocably = some s2 →
    let h := v.bits.toNat % 1024
    let tok (anti : Bool) := s2.tokenTo s2.uid c.ctx (.counter h) anti c.logw true v.taint
    let ask (reset : Bool) : CellReq := { uid := s2.uid, ctx := c.ctx, handle := h, core := s2.core.id,
                                          act := s2.core.cur.act.uid, taint := v.taint, reset := reset }
    exec i s = .next (State.sent (match op with
      | .take => { s2 with tokens := s2.tokens ++ [tok false] }
      | .give => { s2 with tokens := s2.tokens ++ [tok true] }
      | .sum => { s2 with cellReqs := s2.cellReqs ++ [ask false] }
      | .reset => { s2 with cellReqs := s2.cellReqs ++ [ask true] }) d l.toNat)) ∧
  ((∀ (s s1 s2 : State) (d a : RSpec) (v : Val) (b : Barrier), (Instr.barv d a).wf = true → s.Ready →
    s.src a = some (v, s1) → v.poison = false → barrierAt (v.bits.toNat % 16) s1 = .ok b s1 → s1.irrevocably = some s2 →
    let once := decide (b.id.handle ≤ 1)
    let id := s2.core.id
    let tok := s2.tokenTo s2.uid b.ctx (.barrier b.id) false b.logw true false
    let u := State.modBarrier { s2 with tokens := s2.tokens ++ [tok] } b.ctx b.id
      (fun x => { x with arrived := if once then x.arrived.ins id else x.arrived })
    (s2.core.dom ≠ some { ctx := b.ctx, bar := b.id } →
      (once = true → b.arrived.has id = false ∧ b.owed.contains id = false) →
      exec (.barv d a) s = .next (u.opened (.reg d) 0 none (fun sl => { sl with block := true }) 4)) ∧
    (∀ (p : Barrier) (x t : State), s2.core.dom = some { ctx := b.ctx, bar := b.id } → s2.core.cur.phaseWait = none →
      phaseBarrier s2 = .ok p s2 → s2.comes p = some x →
      x.dst { bits := s2.core.phaseNo.setWidth 64, taint := false, poison := false } d = some t →
      exec (.barv d a) s = .next (t.after 4))) ∧
  (∀ (s s1 s2 s3 : State) (a c : RSpec) (v g : Val) (b : Barrier), (Instr.barw a c).wf = true → s.Ready →
    s.src a = some (v, s1) → v.poison = false → barrierAt (v.bits.toNat % 16) s1 = .ok b s1 → s1.irrevocably = some s2 →
    s2.src c = some (g, s3) → g.poison = false → (b.copy s.core.id - g.bits.setWidth 32 - 1).toNat < 2 ^ 31 →
    exec (.barw a c) s = .next (s3.after 4)) ∧
  (∀ (s s1 s2 t : State) (i : Instr) (d a : RSpec) (v : Val) (b : Barrier) (f : BitVec 32 → Word),
    ((i = .barg d a ∧ f = fun g => g.setWidth 64) ∨ (i = .barp d a ∧ f = fun g => .ofNat 64 (g.toNat % 2))) →
    i.wf = true → s.Ready → s.src a = some (v, s1) → v.poison = false →
    barrierAt (v.bits.toNat % 16) s1 = .ok b s1 → s1.irrevocably = some s2 →
    s2.dst { bits := f (b.copy s.core.id), taint := false, poison := false } d = some t → exec i s = .next (t.after 4)))

/-- SRD reads a special register, which holds what its table gives; SWR writes those that may be written, keeping the bits the register has, PSTATUS with its
actions, and takes PROT for the others, with the register's number; CRD reads a counter, a shared one as
the context is shown it, and takes PROT above 8; DACC reads a delay accumulator, TRCM sets the trace control. TLBINV removes the context's entries for an address, or all of them, once what they translated has reached its home;
ERRINJ arms an error on a dword of the core's own local memory or that of another core of its cluster, or on a granule of
global memory, in the slice or in memory; both in privileged mode.
That TLBINV by address removes entries of the own context alone is the model's reading (log entry 56), and so is that
it does not wait for stores that the activation itself holds (entry 71). What a fault leaves consumed is the model's
reading (log entry 85). -/
def Obligations.SpecialRegistersAndTools : Prop :=
  ((∀ (s t : State) (d : RSpec) (num : BitVec 12), (Instr.srd d num).wf = true → s.Ready →
    ((formSrd d num).priv = true → s.core.priv = true) →
    let u := if checkableReg num.toNat then s else s.uncheck
    u.dst { bits := u.special num.toNat, taint := false, poison := false } d = some t →
    exec (.srd d num) s = .next (t.after 4)) ∧
  (∀ (s : State) (num : BitVec 12), s.Ready → s.Contents num.toNat (s.special num.toNat)) ∧
  (∀ (s s1 : State) (a : RSpec) (num : BitVec 12) (v : Val), (Instr.swr a num).wf = true → s.Ready →
    ((formSwr a num).priv = true → s.core.priv = true) → s.src a = some (v, s1) → v.poison = false →
    let th (f : Thread → Thread) : State := { s1 with core := { s1.core with cur := f s1.core.cur } }
    let acts : Core := match bitsAt v.bits 29 28 with
      | 1 => s1.core.retry
      | 2 => { s1.core with press := s1.core.press.skip }
      | 3 => { s1.core with press := s1.core.press.flush }
      | _ => s1.core
    (num = 0x100 → exec (.swr a num) s = .next ((th (fun t => { t with rmode := v.bits.setWidth 2 })).after 4)) ∧
    (num = 0x101 → exec (.swr a num) s = .next ((th (fun t => { t with lmask := v.bits.setWidth 3 })).after 4)) ∧
    (num = 0x102 → (bitsAt v.bits 29 28 = 3 → s1.core.press.running = []) → s.scaleFree = true → exec (.swr a num) s = .next (State.after
      { s1 with core := { acts with press := { acts.press with ov := acts.press.ov && v.bits.getLsbD 0 } } } 4)) ∧
    (num = 0x202 → exec (.swr a num) s =
      .next (State.after { s1 with core := { s1.core with epc := v.bits.setWidth 48 &&& 0xFFFFFFFFFFFE } } 4)) ∧
    (num = 0x203 → exec (.swr a num) s = .next (State.after { s1 with core := { s1.core with cause := v.bits.setWidth 8 } } 4)) ∧
    (num = 0x204 → exec (.swr a num) s = .next (State.after { s1 with core := { s1.core with tval := v.bits } } 4)) ∧
    (num = 0x205 → exec (.swr a num) s =
      .next (State.after { s1 with core := { s1.core with tvec := v.bits.setWidth 48 &&& 0xFFFFFFFFFFFE } } 4)) ∧
    (num ∉ [0x100, 0x101, 0x102, 0x202, 0x203, 0x204, 0x205] → exec (.swr a num) s =
      .next ((s.keepTaken s1).takeTrap (simpleTrap cPROT (.ofNat 64 num.toNat)) s.core.cur.pc (encode (.swr a num) / 2 % 64)))) ∧
  (∀ (s s1 : State) (d a : RSpec) (v : Val), (Instr.crd d a).wf = true → s.Ready → s.src a = some (v, s1) →
    v.poison = false →
    let n := v.bits.toNat % 256
    let u := s1.uncheck
    (8 < n → exec (.crd d a) s =
      .next ((s.keepTaken s1).takeTrap (simpleTrap cPROT (.ofNat 64 n)) s.core.cur.pc (encode (.crd d a) / 2 % 64))) ∧
    (∀ (c : Context) (t : State), n ≤ 8 → u.ctx? u.myCtx = some c →
      ∀ r, u.Shows c n r → u.dst { bits := .ofNat 64 r, taint := false, poison := false } d = some t →
      exec (.crd d a) s = .next (t.after 4))) ∧
  (∀ (s s1 t : State) (d a : RSpec) (v : Val), (Instr.dacc d a).wf = true → s.Ready → s.src a = some (v, s1) →
    v.poison = false →
    let x := lookupD { sum := 0, count := 0 } s1.uncheck.core.delays (v.bits.toNat % 64)
    s1.uncheck.dst { bits := .ofNat 64 (x.sum + x.count * 2 ^ 40), taint := false, poison := false } d = some t →
    exec (.dacc d a) s = .next (t.after 4)) ∧
  (∀ (s s1 : State) (a : RSpec) (v : Val), (Instr.trcm a).wf = true → s.Ready → s.core.priv = true →
    s.src a = some (v, s1) → v.poison = false →
    exec (.trcm a) s = .next (State.after { s1 with core := { s1.core with trace := { s1.core.trace with
      ctl := v.bits.setWidth 16 &&& 0xFF07 } } } 4))) ∧
  ((∀ (s s1 s2 : State) (a b : RSpec) (v w : Val), (Instr.tlbinv a b).wf = true → s.Ready → s.core.priv = true →
    s.src a = some (v, s1) → s1.src b = some (w, s2) → v.poison = false → w.poison = false →
    let hit (e : TlbEntry) : Bool := decide (e.ctx = s2.myCtx) && (w.bits.getLsbD 0 || decide (e.vbase = addr48 v.bits / 2 ^ e.logSize))
    s2.homeReached s2.myPart (s2.tlb.filter hit) = true →
    exec (.tlbinv a b) s = .next (State.after { s2 with tlb := s2.tlb.filter (fun e => !hit e) } 4)) ∧
  (∀ (s s1 s2 s3 s4 : State) (a b : RSpec) (v w : Val) (tgt : Target), (Instr.errinj a b).wf = true → s.Ready →
    s.core.priv = true → s.src a = some (v, s1) → s1.src b = some (w, s2) → v.poison = false → w.poison = false →
    let va := addr48 v.bits
    let unit := w.bits.toNat / 4 % 4
    let kind := w.bits.toNat % 4
    (unit = 0 ∧ 0xFFFFFFFE0000 ≤ va ∧ tgt = .loc s2.core.id (va % 2 ^ 17 / 8 * 8) ∧ s3 = s2 ∨
      unit = 0 ∧ 0xFFFFFF000000 ≤ va ∧ va < 0xFFFFFFFE0000 ∧ s3 = s2 ∧ (∃ id, id = s2.core.id / 128 * 128 + va / 2 ^ 17 % 128 ∧
        s2.corePresent id = true ∧ (s2.coreOf id).quarantined = false ∧ tgt = .loc id (va % 2 ^ 17 / 8 * 8)) ∨
      (unit = 1 ∨ unit = 2) ∧ va < 0xFFFFFF000000 ∧ (∃ x, s2.translate s2.myCluster s2.myCtx true .write va 1 = (.ok x, s3) ∧
        ((isMainKey (s3.keyHere x.pa) = true ∧ outside (s3.keyHere x.pa) = false) ∨ (unit = 2 ∧ isSecondTier x.pa = true)) ∧
        tgt = .phys (s3.keyHere x.pa / 16 * 16))) →
    kind ≠ 3 → s3.irrevocably = some s4 → s3.Ready →
    let x : Armed := { tgt := tgt, unit := unit, kind := kind }
    exec (.errinj a b) s = .next (State.after { s4 with armed := s4.armed ++ [x] } 4)) ∧
  (∀ (s s1 s2 : State) (a b : RSpec) (v w : Val), (Instr.errinj a b).wf = true → s.Ready →
    s.core.priv = true → s.src a = some (v, s1) → s1.src b = some (w, s2) → v.poison = false → w.poison = false →
    (w.bits.toNat / 4 % 4 = 3 ∨ w.bits.toNat % 4 = 3) →
    exec (.errinj a b) s = .next ((s.keepTaken s2).takeTrap (simpleTrap cPROT 3) s.core.cur.pc (encode (.errinj a b) / 2 % 64))))

/-- A phased store merges into the ripening copies of its lines, new ones where there are none, and leaves memory alone
(R149); a direct one is performed at its home, with those that merged with it in the write-combining buffer (R131, R147);
an acknowledgement takes them out of the core's buffer and counts in a delay accumulator; and
forcing commits the oldest copy of a full set and marks its phase forced (R153).
That forcing may come at any time is the model's choice (log entry 44). -/
def Obligations.StoresArrive : Prop :=
  (∀ (s : State) (core k : Nat) (o : StoreOp) (d : Dom) (ph : BitVec 32), s.canSend core k = some o →
    o.cls = .phased d ph → o.nib = none → o.lines.all (s.ripeRoom d ph) = true → s.NoErrors →
    let there (line j : Nat) := inLine line j o.tgt.addr o.bytes.length
    let new (line j : Nat) : Byte := o.bytes.getD (128 * line + j - o.tgt.addr) 0
    ∃ t, exec (.phasedStoreInstall core k) s = .next t ∧ t.mem = s.mem ∧
      (((t.coreOf core).storeBuf[k]?).map (·.sent)) = some true ∧
      ∀ line ∈ o.lines,
        (s.ripening.find? (fun r => r.is line d ph) = none → ∃ r ∈ t.ripening, r.line = line ∧ r.dom = d ∧ r.phase = ph ∧
          ∀ j, j < 128 → r.mask.getD j false = there line j ∧ (there line j = true → r.data.getD j 0 = new line j)) ∧
        (∀ q, s.ripening.find? (fun r => r.is line d ph) = some q → q.mask.length = 128 → q.data.length = 128 →
          ∃ r ∈ t.ripening, r.line = line ∧ r.dom = d ∧ r.phase = ph ∧
          ∀ j, j < 128 → r.mask.getD j false = (q.mask.getD j false || there line j) ∧
            r.data.getD j 0 = if there line j then new line j else q.data.getD j 0)) ∧
  (∀ (s : State) (core k : Nat) (o : StoreOp) (d : Dom) (ph : BitVec 32) (hi : Bool) (b : Byte),
    s.canSend core k = some o → o.cls = .phased d ph → o.nib = some hi → o.bytes = [b] →
    o.lines.all (s.ripeRoom d ph) = true → s.NoErrors →
    let line := o.tgt.addr / 128
    let j := o.tgt.addr % 128
    ∀ q, s.ripening.find? (fun r => r.is line d ph) = some q → q.mask.length = 128 → q.data.length = 128 →
      (q.nibs.filter (fun x => x.1 == j)).length ≤ 1 →
      ∃ t, exec (.phasedStoreInstall core k) s = .next t ∧ t.mem = s.mem ∧
        ∃ r ∈ t.ripening, r.line = line ∧ r.dom = d ∧ r.phase = ph ∧
          (∀ x, r.byteOver j x = if hi then (q.byteOver j x &&& 0x0F) ||| (b &&& 0xF0)
            else (q.byteOver j x &&& 0xF0) ||| (b &&& 0x0F)) ∧
          ∀ i x, i ≠ j → r.byteOver i x = q.byteOver i x) ∧
  (∀ (s : State) (core k : Nat) (o : StoreOp), core < 16384 → s.canSend core k = some o → o.cls = .direct →
    let ks := (s.coreOf core).groupOf k
    let os := ks.filterMap (s.canSend core)
    os.length = ks.length →
    (∀ x ∈ o :: os, x.full = false ∧ (∃ key, x.tgt = .phys key ∧ outside key = false)) → s.NoErrors →
    let halves (x : StoreOp) (old : List Byte) : List Byte := match x.nib with
      | none => x.bytes
      | some true => old.zipWith (fun o n => (n &&& 0xF0) ||| (o &&& 0x0F)) x.bytes
      | some false => old.zipWith (fun o n => (o &&& 0xF0) ||| (n &&& 0x0F)) x.bytes
    ∃ t, exec (.directWriteArrival core k) s = .next t ∧
      t.mem = os.foldl (fun m x => m.setBytes x.tgt.addr (halves x (m.bytes x.tgt.addr x.bytes.length))) s.mem ∧
      t.ripening = s.ripening ∧
      ∀ j ∈ ks, (((t.coreOf core).storeBuf[j]?).map (·.sent)) = some true) ∧
  (∀ (s : State) (core k c la : Nat) (o : StoreOp), core < 16384 → s.canSend core k = some o → o.cls = .direct →
    o.tgt = .loc c la → (s.coreOf c).scratch la o.bytes.length = true → o.full = false →
    ∃ t, exec (.directWriteArrival core k) s = .next t ∧ t.LocalHolds s c la o.bytes ∧ t.mem = s.mem) ∧
  (∀ (s : State) (k key : Nat) (w : RowWrite), s.rowWrites[k]? = some w → w.tgt = .phys key → s.rowFirst k w = true →
    outside key = false →
    ∃ t, exec (.directWriteArrival 16384 k) s = .next t ∧ t.MemHolds s key w.bytes ∧
      t.rowWrites = removeAt s.rowWrites k) ∧
  (∀ (s : State) (core k key : Nat) (b : Buffered), (s.coreOf core).storeBuf[k]? = some b → b.sent = true →
    b.op.tgt = .phys key → isMainKey key = true →
    let n := homeSlice (s.slices (keyPart key)) (keyPA key) % 64
    ∃ t, exec (.storeAck core k) s = .next t ∧
      (t.coreOf core).storeBuf = (if b.group = 0 then removeAt (s.coreOf core).storeBuf k
        else (s.coreOf core).storeBuf.filter (fun x => x.group != b.group)) ∧
      (∃ delay, delay < 4096 ∧ let d := lookupD { sum := 0, count := 0 } (s.coreOf core).delays n
        lookupD { sum := 0, count := 0 } (t.coreOf core).delays n =
          { sum := min (d.sum + delay) (2 ^ 40 - 1), count := min (d.count + 1) (2 ^ 24 - 1) }) ∧ t.mem = s.mem) ∧
  (∀ (s : State) (k : Nat) (r : Ripe), s.ripening[k]? = some r → (s.ripeInSet r.line).head? = some r →
    s.waitsFor r.line = true →
    ∃ t, exec (.forcing k) s = .next t ∧ t.ripening = removeAt s.ripening k ∧ (r.dom, r.phase) ∈ t.forcedDoms ∧
      t.mem = (State.commitRipe { s with ripening := removeAt s.ripening k } r).mem ∧ t.core.forced = s.core.forced)

/-- A read is served at its home with the bytes that stand there (R150), an atomic executes there indivisibly (R163), and
a response brings the value to its slot (R45). A read that misses its slice allocates a line as its hint says (R131), a
zero line where every byte is zero (R127); a core of a domain reads of a ripening copy the granules that are its own or
many cores' (R150). A walk that succeeds fills the last-level TLB, and a poisoned entry is recorded (R353, R359); the oldest
record of a fault queue that has been written counts in TAILCNT (R333).
Which TLB a walk without an access fills is the model's choice (log entry 15), and so are what lies outside the device
(entry 18) and where the management fault queue keeps its tail (entry 10). -/
def Obligations.RequestsServed : Prop :=
  (∀ (s : State) (uid : Nat) (r : Req), s.req? uid = some r → r.kind.atSlice = true → s.readReady r = true →
    ∃ t, exec (.sliceRead uid) s = .next t ∧ t.req? uid = some { r with served := true, slice := s.sliceFor r } ∧
      t.ripening = s.ripening ∧ t.core.cur.pc = s.core.cur.pc) ∧
  (∀ (s : State) (uid key n : Nat) (r : Req) (sx taint : Bool), s.req? uid = some r → s.readReady r = true →
    r.kind = .load (.phys key) n sx taint false → isMainKey key = true → outside key = false → s.NoErrors →
    s.ripening = [] → r.core = s.core.id → s.core.unsentAt r.act r.uid (.phys key) n = [] →
    ∃ t, exec (.sliceRead uid) s = .next t ∧ t.mem = s.mem ∧
      ∀ sl ∈ t.core.cur.slots, sl.uid = r.uid → sl.value = some (.word (loaded (s.memBytes key n) sx taint))) ∧
  (∀ (s : State) (uid key n : Nat) (r : Req) (sx taint : Bool) (q : Ripe) (d : Dom), s.req? uid = some r →
    s.readReady r = true → r.kind = .load (.phys key) n sx taint false → isMainKey key = true → outside key = false →
    s.NoErrors → s.ripening = [q] → q.line = key / 128 → q.dom = d → s.core.dom = some d → r.core = s.core.id →
    s.core.unsentAt r.act r.uid (.phys key) n = [] → q.nibs = [] →
    0 < n → key % 16 + n ≤ 16 → q.data.length = 128 →
    let i := key % 128
    let mine : Bool := match q.writers.getD (i / 16) .none with
      | .none => false
      | .one w => w == r.core
      | .many => true
    let own (j : Nat) : Bool := mine && q.mask.getD (i + j) false
    ∃ t, exec (.sliceRead uid) s = .next t ∧ t.mem = s.mem ∧ t.ripening = s.ripening ∧
      ∀ sl ∈ t.core.cur.slots, sl.uid = r.uid → ∃ v, sl.value = some (.word v) ∧
        v.bits = (loaded ((List.range n).map (fun j =>
          (if own j then q.data.getD (i + j) 0 else s.mem.get (key + j), false))) sx taint).bits ∧ v.taint = taint) ∧
  (∀ (s : State) (uid key n : Nat) (r : Req) (sx taint : Bool), s.req? uid = some r → s.readReady r = true →
    r.kind = .load (.phys key) n sx taint false → isMainKey key = true → outside key = false → s.armed = [] →
    0 < n → key % 128 + n ≤ 128 → s.lineOf (key / 128) = none → s.lines.length + s.ripening.length < 16 →
    let zero : Bool := s.mem.all (fun c => c.1 / 128 != key / 128) && s.memPoison.all (fun u => u / 8 != key / 128)
    let new : CacheLine := { line := key / 128, dirty := false, zero := zero, damaged := []
                             kept := decide (r.use = .keep) && (zero || s.keptRoom (key / 128)) }
    ∃ t, exec (.sliceRead uid) s = .next t ∧
      t.lines = (match r.use with
        | .normal | .keep => s.lines ++ [new]
        | .stream => new :: s.lines
        | .bypass | .zfill _ | .through => s.lines)) ∧
  (∀ (s : State) (uid key n : Nat) (r : Req) (op : AtomOp) (v w : Word) (taint thru : Bool), s.req? uid = some r →
    r.kind = .atomic (.phys key) op n v w taint thru → r.served = false → isPeerPA (keyPA key) = false →
    s.atomReady r (.phys key) n = true → outside key = false → s.armed = [] → op ≠ .ld → r.core = s.core.id →
    let old := leNat (s.mem.bytes key n)
    ∃ t, exec (.atomicExecute uid) s = .next t ∧
      t.MemHolds s key (natLE n (atomTable op n old (v.toNat % 2 ^ (8 * n)) (w.toNat % 2 ^ (8 * n)))) ∧
      ∀ sl ∈ t.core.cur.slots, sl.uid = r.uid → sl.value = some (.word
        { bits := .ofNat 64 old, taint := taint, poison := readPoison 16 s.memPoison key n })) ∧
  (∀ (s : State) (uid delay : Nat) (r : Req), s.req? uid = some r → r.served = true →
    ∃ t, exec (.loadResponse uid delay) s = .next t ∧ t.reqs = s.reqs.filter (fun q => q.uid != r.uid) ∧
      t.mem = s.mem ∧ t.ripening = s.ripening ∧
      (r.core = s.core.id → r.slice = none → t.core.delays = s.core.delays) ∧
      ∀ n, r.core = s.core.id → r.slice = some n →
        let d := lookupD { sum := 0, count := 0 } s.core.delays (n % 64)
        lookupD { sum := 0, count := 0 } t.core.delays (n % 64) =
          { sum := min (d.sum + min delay 4095) (2 ^ 40 - 1), count := min (d.count + 1) (2 ^ 24 - 1) }) ∧
  (∀ (s : State) (delay : Nat) (r : Req) (sl : Slot) (i : BitVec 5) (v : Val), s.req? sl.uid = some r → r.served = true →
    r.core = s.core.id → r.uid = sl.uid → s.core.cur.slots = [sl] → s.core.susp = none → s.core.frame = none →
    s.core.cur.act.check = none → s.core.cur.act.wp.toNat % 8 = 0 → sl.rem = 0 → sl.cancelled = false →
    sl.value = some (.word v) → sl.dest = .reg (.w i) →
    ∃ t, exec (.loadResponse sl.uid delay) s = .next t ∧ t.core.cur.slots = [] ∧ t.core.regVal i = v) ∧
  (∀ (s s1 : State) (part va log : Nat) (c : Context) (leaf : BitVec 64), s.activeCtx part = some c →
    let unit := lastLevel (s.firstCluster part)
    s.tlbHit unit c.id va = none →
    walkFrom part va walkLevels (bitsAt (c.desc.getD 0 0) 47 12 * 4096) s = (.ok (leaf, log), s1) →
    (s1.leafReaches c leaf log va 1 = true → s1.tlb.length < 256 →
      exec (.pageWalk part va) s = .next (State.wake { s1 with tlb := s1.tlb ++
        [{ unit := unit, ctx := c.id, vbase := va / 2 ^ log, logSize := log, leaf := leaf }] })) ∧
    (s1.leafReaches c leaf log va 1 = false → exec (.pageWalk part va) s = .next s1.wake)) ∧
  (∀ (s s1 : State) (part va pa : Nat) (c : Context), s.activeCtx part = some c →
    s.tlbHit (lastLevel (s.firstCluster part)) c.id va = none →
    walkFrom part va walkLevels (bitsAt (c.desc.getD 0 0) 47 12 * 4096) s = (.error (.poison pa), s1) → s1.armed = [] →
    ∃ t, exec (.pageWalk part va) s = .next t ∧ t.tlb = s1.tlb ∧
      (t.ctx? c.id).map (·.tail) = (s1.ctx? c.id).map (·.tail + 1)) ∧
  (∀ (s : State) (n : Nat) (rest : List Nat), s.mfqPending = n :: rest →
    ∃ t, exec (.tailcntWrite .management) s = .next t ∧ t.mfqPending = rest ∧
      t.MemHolds s (pfKey (s.mfqBase.toNat % 2 ^ 48 - 64)) (dwordBytes (.ofNat 64 n))) ∧
  (∀ (s : State) (id n : Nat) (c : Context) (rest : List Nat), s.ctx? id = some c → c.pendingTail = n :: rest →
    ∃ t, exec (.tailcntWrite (.context id)) s = .next t ∧ (t.ctx? id) = some { c with pendingTail := rest } ∧
      t.MemHolds s (physKey c.part (addr48 (c.desc.getD 4 0) - 64)) (dwordBytes (.ofNat 64 n)))

/-- A message that arrives becomes an activation at the end of its core's queue, or waits in the input buffer, and while
that is full in the fabric (R96, R118); a token enters its consumer's ring and becomes full (R116), a reply sets its word full (R113), a channel dword enters the
receive FIFO and a credit opens the window by one (R104).
How many messages the fabric holds before a sender waits is the model's choice (log entry 75). -/
def Obligations.ParcelsArrive : Prop :=
  (∀ (s : State) (src k : Nat) (m : Msg), src < 16384 → (s.coreOf src).outbox[k]? = some m →
    ((s.coreOf src).outbox.take k).any m.follows = false → s.parcels.any (Parcel.ahead m) = false →
    (s.coreOf m.dst).inHi = [] → (s.coreOf m.dst).inLo = [] →
    let act : Act := { Act.make s.uid m.entry m.body m.hi none m.tag m.replyTo with redeliverable := true }
    let q : QEntry := { act := act, resume := none, extra := false }
    ∃ t, exec (.messageArrival src k) s = .next t ∧ (t.coreOf src).outbox = removeAt (s.coreOf src).outbox k ∧
      (m.hi = true → (s.coreOf m.dst).hq.length < 16 → (t.coreOf m.dst).hq = (s.coreOf m.dst).hq ++ [q] ∧
        (t.coreOf m.dst).inHi = []) ∧
      (m.hi = false → (s.coreOf m.dst).lq.length < 32 → (t.coreOf m.dst).lq = (s.coreOf m.dst).lq ++ [q] ∧
        (t.coreOf m.dst).inLo = []) ∧
      (m.hi = true → 16 ≤ (s.coreOf m.dst).hq.length → (t.coreOf m.dst).inHi = [m]) ∧
      (m.hi = false → 32 ≤ (s.coreOf m.dst).lq.length → (t.coreOf m.dst).inLo = [m])) ∧
  (∀ (s : State) (src k : Nat) (m : Msg), src < 16384 → (s.coreOf src).outbox[k]? = some m →
    ((s.coreOf src).outbox.take k).any m.follows = false → s.bufferRoom m = false →
    s.fabricMessages < Config.fabricRoom →
    ∃ t, exec (.messageArrival src k) s = .next t ∧ (t.coreOf src).outbox = removeAt (s.coreOf src).outbox k ∧
      t.parcels = s.parcels ++ [.msg m]) ∧
  (∀ (s : State) (k : Nat) (m : Msg), s.parcels[k]? = some (.msg m) → (s.parcels.take k).any (Parcel.ahead m) = false →
    s.bufferRoom m = true → (m.hi = true → 16 ≤ (s.coreOf m.dst).hq.length) → (m.hi = false → 32 ≤ (s.coreOf m.dst).lq.length) →
    ∃ t, exec (.messageArrival 16384 k) s = .next t ∧ t.parcels = removeAt s.parcels k ∧
      (t.coreOf m.dst).inBuf m.hi = (s.coreOf m.dst).inBuf m.hi ++ [m]) ∧
  (∀ (s : State) (k src dst actor : Nat) (dws : List PWord) (d : ActorDef) (a : ActorSt),
    s.parcels[k]? = some (.token src dst actor dws) →
    s.parcelFirst k (fun p => match p with
      | .token x y z _ => x == src && y == dst && z == actor
      | .reply _ _ _ | .chan _ _ _ | .credit _ _ | .msg _ => false) = true →
    dws.length = 8 → (s.coreOf dst).actorDef actor = some d → (s.coreOf dst).actors[actor]? = some a → s.ldsWait = [] →
    ∃ t, exec (.tokenWrite k) s = .next t ∧ t.parcels = removeAt s.parcels k ∧
      (t.coreOf dst).actors[actor]? = some { a with count := a.count + 1, reserved := a.reserved - 1 } ∧
      t.LocalHolds s dst (d.slotAddr (a.head + a.count)) (dws.flatMap (fun v => dwordBytes v.bits)) ∧
      ((s.coreOf dst).wf = true → ∀ j, j < 8 → t.isFull (.loc dst (d.slotAddr (a.head + a.count) + 8 * j)) = true)) ∧
  (∀ (s : State) (k dst : Nat) (la : BitVec 17) (v : PWord), s.parcels[k]? = some (.reply dst la v) → s.ldsWait = [] →
    ((s.coreOf dst).scratch la.toNat 8 = true → ∃ t, exec (.replyWrite k) s = .next t ∧
      t.parcels = removeAt s.parcels k ∧ t.LocalHolds s dst la.toNat (dwordBytes v.bits) ∧
      ((s.coreOf dst).wf = true → t.isFull (.loc dst la.toNat) = true)) ∧
    ((s.coreOf dst).scratch la.toNat 8 = false → exec (.replyWrite k) s =
      .next (State.wake { s with parcels := removeAt s.parcels k }))) ∧
  (∀ (s : State) (k dst : Nat) (d : Dir) (v : PWord), s.parcels[k]? = some (.chan dst d v) →
    s.parcelFirst k (fun p => match p with
      | .chan c f _ => c == dst && decide (f = d)
      | .token _ _ _ _ | .reply _ _ _ | .credit _ _ | .msg _ => false) = true →
    ∃ t, exec (.channelDwordArrival k) s = .next t ∧ t.parcels = removeAt s.parcels k ∧
      (t.coreOf dst).fifoIn = modifyAt (fun l => l ++ [v]) (s.coreOf dst).fifoIn d.num) ∧
  (∀ (s : State) (k dst : Nat) (d : Dir), s.parcels[k]? = some (.credit dst d) →
    ∃ t, exec (.channelCredit k) s = .next t ∧ t.parcels = removeAt s.parcels k ∧
      (t.coreOf dst).window = modifyAt (fun n => min 64 (n + 1)) (s.coreOf dst).window d.num)

/-- The next activation of a resting core is the first of HQ, else the first of LQ that can start, and it starts at its
entry in its slot (R98, R99); a suspended one resumes as it was; an actor whose conditions hold fires (R97); one rolled
back is queued again (R385). A fault from outside enters the handler (R338), and an error in a core's control state
rolls back, withdraws a check, or is a context error, and one in the ripening-copy state of a set is a context error of each
domain with a copy there (R384); an error in a line of the L1 drops it, and one in a scale poisons it (R378).
Passing over a high-priority entry that cannot start is the model's reading (log entry 13), and so are the cases of
entries 32 and 62. -/
def Obligations.ActivationsRun : Prop :=
  (∀ (s : State) (q : QEntry) (rest : List QEntry) (hi : Bool), s.Resting → s.canStart q = true → q.resume = none →
    q.act.actor = none → q.act.initial = false → q.act.check = none → q.act.hi = hi →
    (if hi then s.core.hq = q :: rest else s.core.hq = [] ∧ s.core.lq = q :: rest) →
    ∃ t, exec .activationStart s = .next t ∧ t.core.active = true ∧ t.core.curHi = hi ∧ t.core.cur.pc = q.act.entry ∧
      t.core.cur.act = s.inSlot q.act ∧ t.core.cur.slots = [] ∧ t.core.cur.loops = [] ∧ t.core.nStart = s.core.nStart + 1 ∧
      t.core.lm = s.core.lm ∧ (if hi then t.core.hq = rest ∧ t.core.wph = (s.inSlot q.act).wp
        else t.core.lq = rest ∧ t.core.wpl = (s.inSlot q.act).wp)) ∧
  (∀ (s : State) (th : Thread), s.resumable = true → s.core.susp = some th →
    ∃ t, exec .activationResume s = .next t ∧ t.core.active = true ∧ t.core.susp = none ∧ t.core.curHi = th.act.hi ∧
      t.core.cur = { th with slots := th.slots.map (fun sl => { sl with block := false }) } ∧ t.core.lm = s.core.lm) ∧
  (∀ (s : State) (i : Nat) (d : ActorDef) (k : KernInfo), s.core.actorDef i = some d → s.core.kern = some k →
    s.canFire s.core.id i = true → s.core.frozen = false →
    let a := { Act.make s.uid d.entry [] false (some i) (k.kid.setWidth 16) 0 with redeliverable := d.revocable }
    ∃ t, exec (.actorFiring i) s = .next t ∧ t.core.lq = s.core.lq ++ [{ act := a, resume := none, extra := false }] ∧
      t.core.hq = s.core.hq ∧ (t.core.actors[i]?.map (·.busy)) = some true) ∧
  (∀ (s : State) (a : Act) (rest : List Act), s.core.rolled = a :: rest → s.mayRun s.core.id = true → s.core.parked = [] →
    let press := s.core.rolled.foldl (fun p x => p.discard x.uid) s.core.press
    let u : State := { s with core := { s.core with press := press } }
    (u.core.owesCommands a = true → ∃ t, exec .redelivery s = .next t ∧ t.core.rolled = s.core.rolled ∧
      t.core.press = u.core.press ∧ t.core.hq = s.core.hq ∧ t.core.lq = s.core.lq ∧ t.core.freeGr = s.core.freeGr) ∧
    (u.core.owesCommands a = false →
      ((if a.initial then none else a.actor.bind u.core.actorDef).map (u.returnRolled a).2.consumerRoom).getD true = true →
      ∃ t, exec .redelivery s = .next t ∧ t.core.rolled = rest ∧ t.core.press = u.core.press ∧
        (a.actor = none → t.core.freeGr = a.extra.foldl NatSet.ins s.core.freeGr) ∧
        let q : Act := { a with extra := [], pushed := 0 }
        (if a.hi then (t.core.hq.head?.map (·.act)) = some q ∧ t.core.lq = s.core.lq
          else (t.core.lq.head?.map (·.act)) = some q ∧ t.core.hq = s.core.hq))) ∧
  (∀ (s : State) (c : BitVec 8) (v : BitVec 64), s.core.active = true → 0 < c.toNat → c.toNat < 16 → c.toNat ≠ cPOISON →
    s.core.cur.act.check = none → s.core.inHandler = false → s.core.tvec ≠ 0 →
    ∃ t, exec (.trapDelivery c v) s = .next t ∧ t.core.inHandler = true ∧ t.core.priv = true ∧ t.core.cause = c ∧
      t.core.tval = v ∧ t.core.epc = s.core.cur.pc ∧ t.core.cur.pc = s.core.tvec ∧ t.core.lm = s.core.lm) ∧
  (∀ (s : State) (k : Nat) (r : Ripe) (x : Context), s.ripening[k]? = some r → s.ctx? r.dom.ctx = some x →
    ∃ t, exec (.coreErr (.ripening k)) s = .next t ∧ (t.ctx? r.dom.ctx).map (·.st) = some .error) ∧
  (∀ s : State, s.core.active = true → let a := s.core.cur.act
    (a.isCheck = true → exec (.coreErr .control) s = .next (State.wake (s.endCheck a true))) ∧
    (a.isCheck = false → a.canRedeliver = true →
      exec (.coreErr .control) s = .next (State.wake ((s.recordCtx s.myCtx (s.actRec cERR 2 a)).rollback a))) ∧
    (a.isCheck = false → a.canRedeliver = false →
      exec (.coreErr .control) s = .next (State.wake (s.ctxError s.myCtx (s.actRec cERR 4 a))))) ∧
  (∀ (s : State) (i : Nat), i < s.core.l1.length → exec (.coreErr (.l1 i)) s =
    .next (State.wake (State.countCorrected { s with core := { s.core with l1 := removeAt s.core.l1 i } } s.myPart))) ∧
  (∀ (s : State) (k i : Nat), k < s.core.rind.length → i < 64 → ∃ t, exec (.coreErr (.scale k i)) s = .next t ∧
    ((t.core.rind.getD k .load).list.getD i (0, false)).2 = true ∧
    (∀ j, j < 64 → j ≠ i → (t.core.rind.getD k .load).list.getD j (0, false) = (s.core.rind.getD k .load).list.getD j (0, false)) ∧
    (t.core.rind.getD k .load).gen = (s.core.rind.getD k .load).gen ∧ t.core.tags = s.core.tags ∧ t.core.lm = s.core.lm)

/-- The counting fabric: a token passes a balancer (R251) or waits at a closed first layer (R263), exit counters give
values and count (R255), a sum is taken (R262), a reset closes and reopens (R263), an arrival at a barrier is counted or
held (R311), a full barrier completes with the next generation, and then writes the cores' copies of it one by one (R313),
and a failed cell marks its counter and poisons what is in flight (R265).
The class of a failed cell's record is the model's reading (log entry 23), a completion in one step its choice (entry
43), and what requests in flight at a failure answer, when FAILED clears and that a struck slot is free again its
readings (entries 73 and 90). -/
def Obligations.FabricSteps : Prop :=
  (∀ (s : State) (k logw : Nat) (t : Tok) (closed : Bool) (ts : List Bool), s.tokens[k]? = some t →
    s.netState t.ctx t.net = some (logw, closed, ts) → t.layer < layerCount logw →
    (t.layer = 0 → closed = false ∧ s.netSaved t.ctx = false) →
    let r := (network logw).pass logw ts t.layer t.wire t.anti
    ∃ u, exec (.balancerArrival k) s = .next u ∧
      u.tokens[k]? = some { t with layer := t.layer + 1, wire := r.2, waiting := false } ∧
      u.netState t.ctx t.net = some (logw, closed, r.1) ∧ u.tokens.length = s.tokens.length) ∧
  (∀ (s : State) (k logw : Nat) (t : Tok) (ts : List Bool), s.tokens[k]? = some t →
    s.netState t.ctx t.net = some (logw, true, ts) → 0 < layerCount logw → t.layer = 0 → t.waiting = false →
    s.netSaved t.ctx = false →
    exec (.balancerArrival k) s =
      .next (State.wake { s with tokens := removeAt s.tokens k ++ [{ t with waiting := true }] })) ∧
  (∀ (s : State) (k h : Nat) (t : Tok) (c : Counter), s.tokens[k]? = some t → t.net = .counter h →
    s.counter? t.ctx h = some c → layerCount c.logw ≤ t.layer →
    let i := (network c.logw).exitOf t.wire
    let n := c.counts.getD i 0
    let used := if t.anti then wrap48 (n - 1) else n
    let v : Int := c.base.toNat - c.start + i + 2 ^ c.logw * used
    exec (.exitCounterAct k) s = .next (State.wake (State.tokResult
      { s.modCounter t.ctx h (fun c => { c with counts := c.counts.set i (if t.anti then used else wrap48 (n + 1)) }) with
        tokens := removeAt s.tokens k } t (.ofNat 64 (i % 64 * 2 ^ 58 + wrapBits v 58)) (c.failed || t.pois)))) ∧
  (∀ (s : State) (uid : Nat) (r : CellReq) (c : Counter), s.cellReqs.find? (fun r => r.uid == uid) = some r →
    s.counter? r.ctx r.handle = some c →
    (r.reset = false → exec (.csumArrival uid) s = .next (State.wake ((s.dropCell uid).answer r.core r.act uid none (.word
      { bits := .ofInt 64 (c.counts.foldl (· + ·) 0 - c.start), taint := r.taint, poison := c.failed || r.pois })))) ∧
    (r.reset = true → c.closed = false → ∃ t, exec (.cresetClosure uid) s = .next t ∧
      t.counter? r.ctx r.handle = some { c with closed := true } ∧ t.cellReqs.head? = some r)) ∧
  (∀ (s : State) (ctx h : Nat) (r : CellReq) (c : Counter), s.counter? ctx h = some c → c.closed = true →
    s.cellReqs.find? (fun r => r.reset && r.ctx == ctx && r.handle == h) = some r → s.inside ctx (.counter h) = false →
    c.ctx = ctx → c.handle = h →
    let sum : Word := if c.failed && !r.pois then 0 else .ofInt 64 (c.counts.foldl (· + ·) 0 - c.start)
    let failed := c.failed && r.pois && !s.cellsFor (s.partOfCtx ctx) ctx [c.logw]
    let u := State.modCounter { s with cellReqs := eraseFirst (fun q => q.uid == r.uid) s.cellReqs } ctx h
      (fun c => { c with toggles := startToggles c.logw c.start, counts := startCounts c.logw c.start
                         closed := false, failed := failed })
    let v := u.reopen ctx (.counter h)
    exec (.cresetReopen ctx h) s = .next (State.wake (v.answer r.core r.act r.uid none (.word
      { bits := sum, taint := r.taint, poison := c.failed || r.pois }))) ∧
    (∀ x ∈ v.tokens, x.on ctx (.counter h) = true → x.waiting = false) ∧ v.tokens.length = s.tokens.length ∧
    (v.counter? ctx h).map (fun c => (c.counts, c.closed, c.failed)) = some (startCounts c.logw c.start, false, failed)) ∧
  (∀ (s : State) (ctx : Nat) (net : NetId) (x : Nat × Bool × List Bool) (c : Context), s.netState ctx net = some x →
    s.ctx? ctx = some c → c.st ≠ .saved → s.armed = [] → ∃ t, exec (.cellError ctx net) s = .next t ∧
      (∀ x ∈ t.tokens, x.on ctx net = true → x.pois = true) ∧
      (match net with
        | .counter h => (t.counter? ctx h).map (·.failed) = some true
        | .barrier b => (t.barrier? ctx b).map (·.failed) = some true) ∧
      (t.ctx? ctx).map (·.tail) = some (c.tail + 1)) ∧
  (∀ (s : State) (k : Nat) (t : Tok) (id : BarId) (b : Barrier), s.tokens[k]? = some t → t.net = .barrier id →
    s.barrier? t.ctx id = some b → b.ctx = t.ctx → b.id = id → layerCount b.logw ≤ t.layer → b.failed = false →
    let i := (network b.logw).exitOf t.wire
    ∃ u, exec (.barrierExit k) s = .next u ∧ u.tokens = removeAt s.tokens k ∧
      (b.counts.getD i 0 < quota b.n b.logw i →
        u.barrier? t.ctx id = some { b with counts := modifyAt (· + 1) b.counts i }) ∧
      (quota b.n b.logw i ≤ b.counts.getD i 0 →
        u.barrier? t.ctx id = some { b with heldToks := b.heldToks ++ [t] })) ∧
  (∀ (s : State) (ctx : Nat) (id : BarId) (b : Barrier), s.barrier? ctx id = some b → b.ctx = ctx → b.id = id →
    b.failed = false → b.owed = [] → b.full = true → s.inside ctx (.barrier id) = false → b.heldToks = [] →
    let d : Dom := { ctx := ctx, bar := id }
    ∃ t, exec (.barrierComplete ctx id) s = .next t ∧ t.barrier? ctx id = some { b with
        toggles := startToggles b.logw 0, counts := List.replicate (2 ^ b.logw) 0, gen := b.gen + 1
        forcedGens := (if s.forcedDoms.contains (d, b.gen) then [b.gen] else []) ++ b.forcedGens.filter (· != b.gen)
        arrived := [], owed := b.members } ∧
      (∀ r ∈ t.ripening, ¬ (r.dom = d ∧ r.phase = b.gen)) ∧ (∀ r ∈ t.ripening, r ∈ s.ripening)) ∧
  (∀ (s : State) (ctx : Nat) (id : BarId) (b : Barrier), s.barrier? ctx id = some b → b.ctx = ctx → b.id = id →
    b.failed = false → b.owed ≠ [] →
    ∃ t core, exec (.barrierComplete ctx id) s = .next t ∧ core ∈ b.owed ∧
      (t.barrier? ctx id).map (fun x => x.copy core) = some b.gen ∧
      (∀ c, c ≠ core → (t.barrier? ctx id).map (fun x => x.copy c) = some (b.copy c)) ∧
      ((t.coreOf core).dom = some { ctx := ctx, bar := id } → (t.coreOf core).forced = b.forced (b.gen - 1)) ∧
      (b.owed.length = 1 → ∀ x ∈ t.tokens, x.on ctx (.barrier id) = true → x.waiting = false))

/-- A channel issues the next row of its copy, or ends the copy with the status of what it cannot reach (R285, R288); a
row that arrives is written, dword by dword full, or fails the copy (R145); the copy at the head ends, and its origin
learns it (R290).
That the rows of one copy complete in order is the model's choice (log entry 28), and that a copy under way whose peer
has no port left ends with LINK its reading (entry 93). -/
def Obligations.CopiesRun : Prop :=
  (∀ (s s1 s2 : State) (cl ch : Nat) (j : CopyJob) (rest : List CopyJob) (src : Except Nat (List (Byte × Bool)))
    (bad : List Nat) (dst : Except Nat (Target × LineUse)),
    let c := s.channelAt cl ch
    let d := copyDesc j.desc
    let n := d.run j.next 255
    c.jobs = j :: rest → s.channelTurn cl ch = true → s.copyGather cl j d j.next n = ((src, bad), s1) →
    s1.copyTarget cl j bad d.dhint (d.dest j.next) (n * d.e) = (dst, s2) →
    (∀ (bs : List (Byte × Bool)) (t : Target) (use : LineUse), src = .ok bs → dst = .ok (t, use) →
      let w : RowWrite := { cluster := cl, ch := ch, job := j.uid, ctx := j.ctx, tgt := t, bytes := bs.map (·.1),
                            pois := bs.map (·.2), use := use }
      exec (.copyRowWrite cl ch) s = .next (State.wake { s2.putChannelLast { c with
        jobs := { j with next := j.next + n, issued := j.issued + 1 } :: rest } with rowWrites := s2.rowWrites ++ [w] })) ∧
    (∀ e : Nat, ((src = .error e ∧ ∀ f, dst = .error f → e ≤ f) ∨ (dst = .error e ∧ ∀ f, src = .error f → e ≤ f)) →
      let t := s2.putChannelLast { c with jobs := { j with status := some e } :: rest }
      (e ≠ 6 → exec (.copyRowWrite cl ch) s = .next t.wake) ∧
      (e = 6 → ∃ u, exec (.copyRowWrite cl ch) s = .next u ∧ u.channels = t.channels ∧ u.rowWrites = s2.rowWrites ∧
        (s2.armed = [] → ∀ x, s2.ctx? j.ctx = some x → (u.ctx? j.ctx).map (·.tail) = some (x.tail + 1))))) ∧
  (∀ (s : State) (cl : Nat) (j : CopyJob) (d : CopyDesc) (n : Nat) (a : Except Nat (List (Byte × Bool))) (bad : List Nat)
    (k : Nat) (s1 : State), s.copyGather cl j d n k = ((a, bad), s1) → bad.contains (d.source (n + k) / 4096) = true →
    (s.copyGather cl j d n (k + 1)).2 = s1 ∧ ∃ e, e ≤ 2 ∧ (s.copyGather cl j d n (k + 1)).1.1 = .error e) ∧
  (∀ (s : State) (k key : Nat) (w : RowWrite), s.rowWrites[k]? = some w → w.tgt = .phys key → s.rowFirst k w = true →
    isPeerPA (keyPA key) = true → (s.upPorts (s.partOfCtx w.ctx) (keyPA key)).isEmpty = true →
    ∃ t, exec (.directWriteArrival 16384 k) s = .next t ∧ t.hostOut = s.hostOut ∧
      (s.armed = [] → ∀ x, s.ctx? w.ctx = some x → (t.ctx? w.ctx).map (·.tail) = some (x.tail + 1)) ∧
      (∀ x ∈ t.rowWrites, x.job ≠ w.job) ∧
      ∀ c ∈ t.channels, c.cluster = w.cluster → c.ch = w.ch → ∀ j ∈ c.jobs, j.uid = w.job → j.status = some 6) ∧
  (∀ (s : State) (k i la : Nat) (w : RowWrite), s.rowWrites[k]? = some w → w.tgt = .loc i la → s.rowFirst k w = true →
    (0x400 ≤ la → (s.coreOf i).scratch la w.bytes.length = true → s.ldsWait = [] →
      ∃ t, exec (.copyRowArrival k) s = .next t ∧ t.LocalHolds s i la w.bytes ∧ t.rowWrites = removeAt s.rowWrites k ∧
        ((s.coreOf i).wf = true → ∀ j, j < w.bytes.length → t.isFull (.loc i (la + j)) = true)) ∧
    ((la < 0x400 ∨ (s.coreOf i).scratch la w.bytes.length = false) →
      ∃ t, exec (.copyRowArrival k) s = .next t ∧ t.core = { s.core with stalled := false, bufStalled := false } ∧
        t.mem = s.mem ∧ (∀ x ∈ t.rowWrites, x.job ≠ w.job) ∧
        ∀ c ∈ t.channels, c.cluster = w.cluster → c.ch = w.ch → ∀ j ∈ c.jobs, j.uid = w.job → j.status = some 5)) ∧
  (∀ (s : State) (cl ch i : Nat) (j : CopyJob) (rest : List CopyJob),
    (s.channelAt cl ch).jobs = j :: rest → s.rowWrites.any (fun w => w.job == j.uid) = false →
    ((copyDesc j.desc).count ≤ j.next ∨ j.status ≠ none) → j.core = some i →
    ∃ t, exec (.copyEnd cl ch) s = .next t ∧ (t.channelAt cl ch).jobs.length = rest.length ∧
      (t.coreOf i).batches j.hi = ((s.coreOf i).batches j.hi).ended j.uid (j.status.getD 0)) ∧
  (∀ (s : State) (cl ch num index : Nat) (j : CopyJob) (rest : List CopyJob) (q : Queue),
    (s.channelAt cl ch).jobs = j :: rest → s.rowWrites.any (fun w => w.job == j.uid) = false →
    (copyDesc j.desc).count ≤ j.next → j.status = none → j.core = none → j.pkt = some (num, index) →
    s.queue? j.ctx num = some q →
    ∃ t, exec (.copyEnd cl ch) s = .next t ∧ (t.channelAt cl ch).jobs.length = rest.length ∧
      t.queue? j.ctx num = some { q with pkts := q.pkts.filter (fun k => k.index != index) })

/-- The dispatcher consumes the packet at RD (R275) or puts the queue in ERROR for one that fails a check (R278), and
starts packets: NOP completes, LAUNCH takes the partition's next kernel id (R325), a copy enters its channel (R283), a
signal stores, adds, or stores and sets full (R281), and WAIT completes or holds the queue (R282).
The reasons of packets that the tables do not settle are the model's reading (log entry 48). -/
def Obligations.PacketsRun : Prop :=
  (∀ (s : State) (ctx num : Nat) (q : Queue), s.queue? ctx num = some q → s.ctxActive ctx = true →
    (q.st = .waiting ∨ q.st = .running) → q.unstarted = none → q.waiting = none → s.headFull q = true → s.armed = [] →
    let key := s.slotKey q q.rd
    let bs := s.memBytes key 64
    let p := dwordsOf (bs.map (·.1))
    let r := pktReason p (bs.any (·.2))
    ∃ t, exec (.packetConsume ctx num) s = .next t ∧ (NatSet.wf s.fullSlots = true → t.isFull (.phys key) = false) ∧
      (r = 0 → ∃ st, t.queue? ctx num = some { q with rd := q.rd + 1, st := st, pkts := q.pkts ++
        [{ index := q.rd, dws := p, started := false, key := key }] }) ∧
      (r ≠ 0 → t.queue? ctx num = some { q with rd := q.rd + 1, st := .error, reason := r })) ∧
  (∀ (s : State) (ctx num : Nat) (k : Pkt) (q : Queue), s.queue? ctx num = some q → s.startable ctx num 0 = some k →
    ∃ t, exec (.nopPacket ctx num) s = .next t ∧
      (t.queue? ctx num).map (·.pkts) = some (q.pkts.filter (fun x => x.index != k.index)) ∧ t.kernels = s.kernels) ∧
  (∀ (s : State) (ctx num : Nat) (k : Pkt), s.startable ctx num 1 = some k →
    let p := s.partOfCtx ctx
    let kid := (s.part p).launches
    p < s.partitions.length → ∃ t, exec (.launch ctx num) s = .next t ∧ t.kernels.length = s.kernels.length + 1 ∧
      (t.kernels.getLast?.map (fun x => (x.ctx, x.kid, x.queue, x.index, x.pkt))) = some (ctx, kid, num, k.index, k.dws) ∧
      (t.part p).launches = kid + 1 ∧
      (lKhdr k.dws % 256 ≠ 0 → s.kernel? ctx kid.toNat = none →
        (t.kernels.getLast?.map (fun x => (x.st, x.status))) = some (.failed, 1))) ∧
  (∀ (s : State) (ctx num : Nat) (k : Pkt), s.startable ctx num 2 = some k →
    let d := copyDesc k.dws
    (∀ cl, (s.clustersOf (s.partOfCtx ctx))[d.clus]? = some cl → (s.channelAt cl d.chan).jobs.length < 32 →
      ∃ t, exec (.copyPacket ctx num) s = .next t ∧
        (t.channelAt cl d.chan).jobs.length = (s.channelAt cl d.chan).jobs.length + 1 ∧
        ((t.channelAt cl d.chan).jobs.getLast?.map (fun j => (j.desc, j.core, j.pkt, j.seq))) =
          some (k.dws, none, some (num, k.index), (s.channelAt cl d.chan).nextSeq)) ∧
    ((s.clustersOf (s.partOfCtx ctx))[d.clus]? = none →
      ∃ t, exec (.copyPacket ctx num) s = .next t ∧ (t.queue? ctx num).map (fun q => (q.st, q.reason)) = some (.error, 5))) ∧
  (∀ (s s1 : State) (ctx num : Nat) (k : Pkt) (x : Xlat) (op : Nat) (i : Instr), s.startable ctx num 3 = some k →
    ((i = .signalStore ctx num ∧ op = 0) ∨ (i = .signalAdd ctx num ∧ op = 1) ∨ (i = .signalStoreFull ctx num ∧ op = 2)) →
    sigOp k.dws = op →
    (sigAddr k.dws % 8 ≠ 0 → ∃ t, exec i s = .next t ∧
      (t.queue? ctx num).map (fun q => (q.st, q.reason)) = some (.error, 4)) ∧
    (sigAddr k.dws % 8 = 0 → s.dispAtomic ctx (sigAddr k.dws) (op == 2) = (.ok x, s1) → s1.NoErrors → s1.ldsWait = [] →
      let key := keyOf (s1.partOfCtx ctx) x.pa
      let s2 := s1.started ctx num k.index true
      let v := k.dws.getD 2 0
      outside key = false → ∃ t, exec i s = .next t ∧ t.queues = s2.queues ∧
        t.mem = s2.mem.setBytes key (dwordBytes (if op = 1 then s2.mem.dword key + v else v)) ∧
        (op = 2 → t.isFull (.phys key) = true))) ∧
  (∀ (s s1 : State) (ctx num : Nat) (k : Pkt) (q : Queue) (i : Instr), s.queue? ctx num = some q →
    ((i = .wait ctx num ∧ s.startable ctx num 4 = some k ∧ s.atomicOk ctx (sigAddr k.dws) false = (true, s1)) ∨
      (i = .waitRetest ctx num ∧ q.waiting = some k ∧ s.ctxActive ctx = true ∧ q.st ≠ .error ∧ s1 = s)) →
    s1.queue? ctx num = some q →
    (∀ (bs : List Byte) (s2 : State), s1.dispRead ctx (sigAddr k.dws) 8 = (some bs, s2) →
      (waitHolds k.dws (.ofNat 64 (leNat bs)) = true → ∃ t, exec i s = .next t ∧
        (t.queue? ctx num).map (·.pkts) = some (q.pkts.filter (fun x => x.index != k.index))) ∧
      (waitHolds k.dws (.ofNat 64 (leNat bs)) = false → ∃ t, exec i s = .next t ∧
        (t.queue? ctx num).map (·.st) = some .held ∧ (t.queue? ctx num).map (·.pkts.length) = some q.pkts.length))) ∧
  (∀ (s s1 : State) (ctx num : Nat) (k : Pkt), s.startable ctx num 4 = some k →
    s.atomicOk ctx (sigAddr k.dws) false = (false, s1) →
    ∃ t, exec (.wait ctx num) s = .next t ∧
      (∀ q, s1.queue? ctx num = some q → (t.queue? ctx num).map (fun q => (q.st, q.reason)) = some (.error, 4)))

/-- Kernels become ready (R326) and older (R327), a cohort is placed where it fits and its cores loaded (R298, R300), it
starts with its barriers (R301, R304), ends with its cores free (R306), and a kernel completes with its packet (R330).
That an age tick may come at any time is the model's choice (log entry 44), and that a struck slot of a cell is free
again its reading (entry 90). -/
def Obligations.KernelsRun : Prop :=
  (∀ (s : State) (ctx kid : Nat) (k : Kernel), s.kernel? ctx kid = some k → k.st = .waiting → s.ctxActive ctx = true →
    (lWaddr k.pkt 0 = 0 → lWaddr k.pkt 1 = 0 → ∃ t, exec (.kernelEligibilityTest ctx kid) s = .next t ∧
      t.kernel? ctx kid = some { k with met0 := true, met1 := true, st := .ready, bonus := 0, order := s.uid }) ∧
    (∀ (bs : List Byte) (s1 : State), lWaddr k.pkt 1 = 0 → lWaddr k.pkt 0 ≠ 0 → k.met0 = false →
      s.dispRead k.ctx (lWaddr k.pkt 0) 8 = (some bs, s1) → leNat bs < lWval k.pkt 0 →
      ∃ t, exec (.kernelEligibilityTest ctx kid) s = .next t ∧
        ∃ x y, t.kernel? ctx kid = some { k with met0 := false, met1 := true, seen0 := x, seen1 := y })) ∧
  (∀ (s : State) (ctx kid : Nat) (k : Kernel), s.kernel? ctx kid = some k → k.open = true → k.bonus < 3 →
    s.ctxActive ctx = true →
    ∃ t, exec (.ageTick ctx kid) s = .next t ∧ (t.kernel? ctx kid).map (·.bonus) = some (k.bonus + 1)) ∧
  (∀ (s : State) (part : Nat) (c : Context) (k : Kernel) (groups : List (Nat × Nat × Nat)), s.activeCtx part = some c →
    s.kernels.filter (fun k => k.ctx == c.id && k.open) = [k] → s.kernel? c.id k.kid.toNat = some k →
    (s.fitOn k.part k.header s.sound).isSome = true → s.fitNow k = some groups → k.counters = [] → k.again = [] →
    k.reserved = false → (k.made = true ∨ s.cellsFor k.part k.ctx k.barrierLogs = true) →
    let ch : Cohort := { ctx := k.ctx, kid := k.kid, index := k.next, groups := groups, st := .loading }
    ∃ t, exec (.cohortPlace part) s = .next t ∧ t.cohorts = s.cohorts ++ [ch] ∧
      (t.kernel? c.id k.kid.toNat).map (fun x => (x.next, x.st, x.bonus)) =
        some (k.next + 1, if k.next + 1 = k.total then .draining else .running, 0) ∧
      ∀ i ∈ ch.cores k.header, ((t.coreOf i).kern.map (·.kid)) = some k.kid) ∧
  (∀ (s : State) (ctx kid n : Nat) (c : Cohort) (k : Kernel), s.cohorts.find? (fun x => x.is ctx kid n) = some c →
    s.kernel? ctx kid = some k → c.st = .loading → s.ctxActive ctx = true →
    ∃ t, exec (.cohortStart ctx kid n) s = .next t ∧ t.barriers = s.barriers ++ c.barriers k ∧
      t.cohorts.find? (fun x => x.is ctx kid n) = some { c with st := .running } ∧ t.mem = s.mem) ∧
  (∀ (s : State) (ctx kid n : Nat) (c : Cohort) (k : Kernel), s.cohorts.find? (fun x => x.is ctx kid n) = some c →
    s.kernel? ctx kid = some k → s.cohortEnds c = true →
    (∀ i ∈ c.cores k.header, s.quietCore i = true ∧ s.storesDone i = true) →
    ∃ t, exec (.cohortEnd ctx kid n) s = .next t ∧ t.cohorts = s.cohorts.filter (fun x => !x.is ctx kid n) ∧
      (∀ i ∈ c.cores k.header, (t.coreOf i).kern = none) ∧
      (t.kernel? ctx kid).map (·.ended) = some (k.ended + 1) ∧
      (∀ r ∈ t.ripening, ¬ (r.dom.ctx = ctx ∧ r.dom.bar.kid = kid ∧ r.dom.bar.cohort = n)) ∧
      (∀ b ∈ t.barriers, ¬ (b.ctx = ctx ∧ b.id.kid = kid ∧ b.id.cohort = n))) ∧
  (∀ (s : State) (ctx kid : Nat) (k : Kernel) (q : Queue), s.kernel? ctx kid = some k → s.ctxActive ctx = true →
    k.st = .draining →
    k.next = k.total → k.ended = k.next → lCkind k.pkt = 0 → s.queue? ctx k.queue = some q →
    ∃ t, exec (.kernelComplete ctx kid) s = .next t ∧
      t.kernels = s.kernels.filter (fun j => !(j.ctx == ctx && j.kid.toNat == kid)) ∧
      t.queue? ctx k.queue = some { q with pkts := q.pkts.filter (fun p => p.index != k.index) } ∧
      (∀ c ∈ t.counters, ¬ (c.ctx = ctx ∧ c.kid = some kid))) ∧
  (∀ (s : State) (ctx kid : Nat) (k : Kernel), s.kernel? ctx kid = some k → s.ctxActive ctx = true → k.st = .draining →
    k.next = k.total → k.ended = k.next → (lCkind k.pkt = 1 ∨ lCkind k.pkt = 2) → lCaddr k.pkt % 8 = 0 →
    (∀ (x : Xlat) (s1 : State), s.dispAtomic k.ctx (lCaddr k.pkt) (lCkind k.pkt == 2) = (.ok x, s1) → s1.NoErrors →
      s1.ldsWait = [] → let key := keyOf k.part x.pa
      outside key = false → ∃ t, exec (.kernelComplete ctx kid) s = .next t ∧
        t.kernels = s1.kernels.filter (fun j => !(j.ctx == ctx && j.kid.toNat == kid)) ∧
        t.mem = s1.mem.setBytes key (dwordBytes
          (if lCkind k.pkt = 1 then s1.mem.dword key + 1 else .ofNat 64 (1 + 256 * k.status))) ∧
        (lCkind k.pkt = 2 → t.isFull (.phys key) = true)) ∧
    (∀ (b : Bad) (s1 : State) (q : Queue), s.dispAtomic k.ctx (lCaddr k.pkt) (lCkind k.pkt == 2) = (.error b, s1) →
      s1.queue? ctx k.queue = some q → q.st ≠ .error → ∃ t, exec (.kernelComplete ctx kid) s = .next t ∧
        t.kernels = s1.kernels.filter (fun j => !(j.ctx == ctx && j.kid.toNat == kid)) ∧
        (t.queue? ctx k.queue).map (fun q => (q.st, q.reason)) = some (.error, 6)))

/-- A sample's check and its tiebreak start on a free core of the next cluster (R390, R392), a check that has not started
may time out, equal digests pass, and unequal ones raise the score of the core, or cores, the tiebreak finds wrong
(R392). A patrol read of a granule with nothing in it changes nothing, and a correctable error counts (R387).
That a time limit may pass at any time is the model's choice (log entry 44), and so is how the patrol engines of the
second-tier controllers share its memory (entry 76). -/
def Obligations.ChecksRun : Prop :=
  (∀ (s : State) (u i : Nat) (k : Check), s.check? u = some k → k.ended = true → k.outs = none → k.checker = none →
    s.checkCore (s.nextCluster (clusterOf k.core)) [k.core] = some i → (s.coreOf i).freeForRun = true →
    ∃ t, exec (.checkRunStart u) s = .next t ∧ t.RunsSample s k i ∧ (t.check? u).map (·.checker) = some (some i)) ∧
  (∀ (s : State) (u : Nat) (k : Check), s.check? u = some k → (s.waitsAt k).isSome = true → k.oHeld = [] →
    ∃ t, exec (.checkTimeout u) s = .next t ∧ t.checks = s.checks.filter (fun x => x.uid != u) ∧
      ∀ i, (t.coreOf i).suspicion = (s.coreOf i).suspicion) ∧
  (∀ (s : State) (u c i : Nat) (k : Check) (d : Word), s.check? u = some k → k.checker = some c → k.cDigest = some d →
    d ≠ k.oDigest → k.tie = none → k.outs = none →
    s.checkCore (s.nextCluster (clusterOf c)) [k.core, c] = some i → (s.coreOf i).freeForRun = true →
    ∃ t, exec (.tiebreakStart u) s = .next t ∧ t.RunsSample s k i ∧ (t.check? u).map (·.tie) = some (some i)) ∧
  (∀ (s : State) (u c : Nat) (k : Check), s.check? u = some k → k.ended = true → k.outs = none → k.checker = some c →
    k.cDigest = some k.oDigest → k.oHeld = [] →
    ∃ t, exec (.checkVerdict u) s = .next t ∧ (∀ x ∈ t.checks, x.uid ≠ u) ∧
      (t.coreOf c).suspicion ≤ (s.coreOf c).suspicion ∧ (t.coreOf k.core).suspicion ≤ (s.coreOf k.core).suspicion) ∧
  (∀ (s : State) (u c i : Nat) (k : Check) (d e : Word), s.check? u = some k → k.outs = none → k.checker = some c →
    k.cDigest = some d → d ≠ k.oDigest → k.tie = some i → k.tDigest = some e → c ≠ k.core →
    (s.coreOf c).suspicion < 65536 → (s.coreOf k.core).suspicion < 65536 →
    ∃ t, exec (.checkVerdict u) s = .next t ∧
      (k.ended = true → k.oHeld = [] → k.tHeld = [] → ∀ x ∈ t.checks, x.uid ≠ u) ∧
      (t.coreOf c).suspicion = min 65535 ((s.coreOf c).suspicion + (if e = k.oDigest then 64 else if e = d then 0 else 16)) ∧
      (t.coreOf k.core).suspicion = min 65535 ((s.coreOf k.core).suspicion +
        (if e = k.oDigest then 0 else if e = d then 64 else 16))) ∧
  (∀ (s : State) (part pa : Nat), part < 16 → (isSecondTier pa = true ∨ pa < s.mainBytes part) →
    s.patrolDue part pa = true →
    let u := keyOf part pa / 16
    (s.armed.find? (fun a => a.at 2 (.phys (16 * u))) = none →
      exec (.patrolRead part pa) s = .next (s.patrolled part pa).wake) ∧
    (∀ a, s.armed.find? (fun a => a.at 2 (.phys (16 * u))) = some a → a.kind = 0 →
      ∃ t, exec (.patrolRead part pa) s = .next t ∧ t.mem = s.mem ∧ t.armed.length + 1 = s.armed.length ∧
        t.patrols = (s.patrolled part pa).patrols ∧
        (∀ p, s.ownerOf part pa = some p → p < s.partitions.length →
          (t.part p).hypCorrected = (s.part p).hypCorrected + 1) ∧
        (s.ownerOf part pa = none → t.hypShared = s.hypShared + 1)))

/-- Reads and writes of the host at a take window (R365, R443), its active messages (R366), its posted writes (R364,
R147), its reads of BAR 4 and of both halves of a counter (R347), and what no function has (R22).
That a time limit may pass at any time is the model's choice (log entry 44), and so are the forms of entries 59 and
60. -/
def Obligations.HostAccess : Prop :=
  (∀ (s : State) (p req h : Nat) (c : Counter), s.powered = true → p < 16 → h < 0x400 → s.takeCounter p h = some c → c.failed = false →
    exec (.takeWindowRead p req (8 * h) 8) s = .next (State.wake { s with
      uid := s.uid + 1
      takes := s.takes ++ [{ uid := s.uid, part := p, requester := req, handle := h }]
      tokens := s.tokens ++ [{ uid := s.uid, ctx := c.ctx, net := .counter h, anti := false, layer := 0
                               wire := req % 2 ^ c.logw, core := none, act := 0, ret := true, taint := false
                               requester := req, waiting := false }] })) ∧
  (∀ (s : State) (p req off size : Nat), s.powered = true → p < 16 →
    (off < 0x2000 → (size ≠ 8 ∨ off % 8 ≠ 0 ∨ s.takeCounter p (off / 8) = none) →
      exec (.takeWindowRead p req off size) s = .next (s.answers (.allOnes req))) ∧
    (0x2000 ≤ off → exec (.takeWindowRead p req off size) s = .next (s.answers (.unsupported p)) ∧
      exec (.takeWindowWrite p req off) s = .next (s.answers (.unsupported p)))) ∧
  (∀ (s : State) (p req off : Nat), s.powered = true → p < 16 → off < 0x2000 →
    ∃ t, exec (.takeWindowWrite p req off) s = .next t ∧
    t.mfqTail = s.mfqTail + 1 ∧ t.hypShared = s.hypShared + 1 ∧ t.tokens = s.tokens ∧ t.counters = s.counters) ∧
  (∀ (s : State) (uid : Nat) (r : TakeRead) (k : Tok), s.takes.find? (fun r => r.uid == uid) = some r →
    s.tokens.find? (fun t => t.uid == uid) = some k → k.layer = 0 →
    (k.waiting = true ∨ s.netSaved k.ctx = true) → exec (.takeReadTimeout uid) s = .next (State.wake { s with
      takes := s.takes.filter (fun r => r.uid != uid), tokens := s.tokens.filter (fun t => t.uid != uid)
      hostOut := s.hostOut ++ [.abort r.requester] })) ∧
  (∀ (s : State) (p req : Nat) (bs : List Byte), s.powered = true → p < 16 → s.hostMsgBad p bs = none →
    ((s.coreOf (hostMsg bs).dst).inBuf (hostMsg bs).hi).length < 8 →
    exec (.hostActiveMessage p req bs) s = .next (State.wake (State.drainIn
      (s.modCore (hostMsg bs).dst (fun c => if (hostMsg bs).hi then { c with inHi := c.inHi ++ [hostMsg bs] }
        else { c with inLo := c.inLo ++ [hostMsg bs] })) (hostMsg bs).dst))) ∧
  (∀ (s : State) (p req cause detail : Nat) (bs : List Byte), s.powered = true → p < 16 →
    s.hostMsgBad p bs = some (cause, detail) →
    ∃ t, exec (.hostActiveMessage p req bs) s = .next t ∧ t.mfqTail = s.mfqTail + 1 ∧ t.hypShared = s.hypShared + 1 ∧
      t.core = { s.core with stalled := false, bufStalled := false }) ∧
  (∀ (s : State) (p req pa : Nat) (bs : List Byte), s.powered = true → p < 16 →
    (pa + bs.length ≤ s.mainBytes p → s.ldsWait = [] → ∃ t, exec (.hostPostedWrite p req pa bs) s = .next t ∧
      t.MemHolds s (physKey p pa) bs ∧ (NatSet.wf s.fullSlots = true → ∀ u, physKey p pa ≤ 64 * u →
        64 * u + 64 ≤ physKey p pa + bs.length → t.isFull (.phys (64 * u)) = true)) ∧
    (s.mainBytes p < pa + bs.length → exec (.hostPostedWrite p req pa bs) s = .next (s.answers (.unsupported p)))) ∧
  (∀ (s : State) (p o : Nat), s.powered = true → p < 16 → (2112 ≤ o ∧ o < 0x1000 ∨ 0x1048 ≤ o ∧ o < 0x2000 ∨ 0x2020 ≤ o) →
    exec (.unsupportedRequest p o) s = .next (s.answers (.unsupported p))) ∧
  (∀ (s : State) (p : Nat), s.powered = true → p < 16 → ∃ t, exec (.counterLowRead p 0) s = .next t ∧
    t.hostOut = s.hostOut ++ [.counterLow p (s.ts.setWidth 32)] ∧
    t.bar0Read p 0x1004 = some ((s.ts >>> 32).setWidth 32)) ∧
  (∀ (s : State) (p pa n : Nat), s.powered = true → s.armed = [] →
    (s.mainBytes p < pa + n → s.bar4Read p pa n = none) ∧
    (pa + n ≤ s.mainBytes p → ∃ t, s.bar4Read p pa n = some (s.memBytes (physKey p pa) n, t) ∧ t.mem = s.mem)) ∧
  (∀ (s : State) (p pa : Nat) (bs : List Byte), s.powered = true → p < 16 → pa + bs.length ≤ s.mainBytes p →
    pa % 64 = 0 → ∃ t, exec (.qslotSectionLoad p pa bs) s = .next t ∧ t.MemHolds s (physKey p pa) bs ∧
      (NatSet.wf s.fullSlots = true → ∀ j, j < bs.length → t.isFull (.phys (physKey p pa + j)) = false)) ∧
  (∀ (s : State) (p req off size : Nat) (bs : List Byte), s.powered = false →
    exec (.takeWindowRead p req off size) s = .next s ∧ exec (.takeWindowWrite p req off) s = .next s ∧
    exec (.hostActiveMessage p req bs) s = .next s ∧ exec (.hostPostedWrite p req off bs) s = .next s ∧
    s.bar0Read p off = none ∧ s.bar4Read p off size = none)

/-- What a peer window carries (R369, R370): loads, stores and atomics of a peer in main memory, accesses of this
device's own agents; flit replays, lanes and frames of the ports (R27, R370, R373), and what a router drops (R374).
Which port holds an access is the model's choice (log entry 33), what a peer answers is free (entry 18), and the cases
of entry 61 and the counts of a flit's replay (entry 77) are its reading. -/
def Obligations.LinksRun : Prop :=
  (∀ (s : State) (p pa n : Nat), s.powered = true → p < 16 → pa + n ≤ s.mainBytes p → pa < 0x3FFFFFE000 → s.armed = [] →
    ∃ t, exec (.peerAccess p (.load pa n)) s = .next t ∧ t.mem = s.mem ∧
      t.hostOut = s.hostOut ++ [.peerData p ((s.memBytes (physKey p pa) n).map (·.1))
        ((s.memBytes (physKey p pa) n).any (·.2))]) ∧
  (∀ (s : State) (p pa : Nat) (bs : List Byte), s.powered = true → p < 16 → pa + bs.length ≤ s.mainBytes p →
    pa < 0x3FFFFFE000 →
    s.ldsWait = [] →
    ∃ t, exec (.peerAccess p (.store pa bs)) s = .next t ∧ t.MemHolds s (physKey p pa) bs ∧ t.hostOut = s.hostOut) ∧
  (∀ (s : State) (p pa : Nat) (bs : List Byte), s.powered = true → p < 16 → 0x3FFFFFE000 ≤ pa → pa < 0x4000000000 →
    ∃ t, exec (.peerAccess p (.store pa bs)) s = .next t ∧ t.mfqTail = s.mfqTail + 1 ∧ t.counters = s.counters) ∧
  (∀ (s : State) (p pa size : Nat) (op : AtomOp) (v w : Word), s.powered = true → p < 16 → pa + size ≤ s.mainBytes p →
    pa < 0x3FFFFFE000 → (size = 4 ∨ size = 8) → pa % size = 0 → s.armed = [] → s.ldsWait = [] → op ≠ .ld →
    let old := leNat ((s.memBytes (physKey p pa) size).map (·.1))
    ∃ t, exec (.peerAccess p (.atomic op size pa v w)) s = .next t ∧
      t.MemHolds s (physKey p pa) (natLE size (atomTable op size old (v.toNat % 2 ^ (8 * size)) (w.toNat % 2 ^ (8 * size)))) ∧
      t.hostOut.getLast? = some (.peerData p (natLE size old) ((s.memBytes (physKey p pa) size).any (·.2)))) ∧
  (∀ (s : State) (p uid pa k : Nat) (r : Req) (rest : List Nat), s.powered = true → p < 16 → s.req? uid = some r → r.peer? = some pa →
    s.upPorts ((s.partOf r.core).getD 0) pa = k :: rest → s.readReady r = true →
    (∀ t op n v w taint thru, r.kind ≠ .atomic t op n v w taint thru) →
    ∃ t, exec (.peerAccess p (.carried uid)) s = .next t ∧ (∀ x, t.req? uid = some x → x.served = true)) ∧
  (∀ (s : State) (n : Nat) (q : Port), s.ports[n]? = some q → (q.st = .active ∨ q.st = .degraded) → q.replays < 15 →
    ∃ t, exec (.flitReplay n false) s = .next t ∧ t.ports[n]? = some { q with replays := q.replays + 1 } ∧
      (q.owner = none → t.hypShared = s.hypShared + 1) ∧ ∀ p, q.owner = some p → p < s.partitions.length →
        (t.part p).hypCorrected = (s.part p).hypCorrected + 1) ∧
  (∀ (s : State) (n : Nat) (e : Bool) (q : Port), s.ports[n]? = some q → (q.st = .active ∨ q.st = .degraded) →
    (e = true ∨ 15 ≤ q.replays) → ∃ t, exec (.flitReplay n e) s = .next t ∧
      let times := q.exhausted.filter (fun x => decide (s.ts.toNat < x + 1000000000))
      t.ports[n]? = some { q with replays := 0, exhausted := times ++ [s.ts.toNat]
                                  st := if 63 ≤ times.length then .quarantined else .down }) ∧
  (∀ (s : State) (n lanes : Nat) (q : Port), s.ports[n]? = some q → (q.st = .training ∨ q.st = .degraded) → 1 ≤ lanes →
    s.absentPorts.has n = false → ∃ t, exec (.laneTrained (.scaleUp n) lanes) s = .next t ∧
      t.ports[n]? = some (q.into (if lanes = 1 ∨ s.oneLane.has n = true then .degraded else .active))) ∧
  (∀ (s : State) (n lanes : Nat) (q : Port), s.ethPorts[n]? = some q → q.st = .training → 1 ≤ lanes →
    s.absentEth.has n = false → ∃ t, exec (.laneTrained (.ethernet n) lanes) s = .next t ∧
      t.ethPorts[n]? = some (q.into .active)) ∧
  (∀ (s : State) (id : PortId) (q : Port), s.port? id = some q → q.st = .training →
    exec (.trainingTimeout id) s = .next (State.wake (s.modPort id (fun q => q.into .down)))) ∧
  (∀ (s : State) (n : Nat) (q : Port), s.ports[n]? = some q →
    (q.st = .active → ∃ t, exec (.laneFailure (.scaleUp n)) s = .next t ∧ t.ports[n]? = some (q.into .degraded)) ∧
    (q.st = .degraded → ∃ t, exec (.laneFailure (.scaleUp n)) s = .next t ∧ t.ports[n]? = some (q.into .down))) ∧
  (∀ (s : State) (n : Nat) (q : Port), s.ethPorts[n]? = some q → q.st = .active →
    ∃ t, exec (.laneFailure (.ethernet n)) s = .next t ∧ t.ethPorts[n]? = some (q.into .down)) ∧
  (∀ (s : State) (n k : Nat) (ok : Bool) (q : Port), s.ethPorts[n]? = some q → q.st = .active →
    ∃ t, exec (.ethernetFrame n ok k) s = .next t ∧ t.ethDropped = s.ethDropped + (if ok then 0 else 1) ∧
      t.ethPorts = s.ethPorts ∧ ∀ p, q.owner = some p → p < s.partitions.length →
        (t.part p).bytesIn = (s.part p).bytesIn + k) ∧
  (∀ (s : State) (p d : Nat), p < 16 → s.partOf d ≠ some p → ∃ t, exec (.routerDrop p d) s = .next t ∧
    t.mfqTail = s.mfqTail + 1 ∧ t.parcels = s.parcels ∧ t.hypShared = s.hypShared + 1)

/-- The commands of a partition window that make, end, pre-empt and restore a context and its queues (R332, R333,
R341 to R345, R271, R272).
The width of the counter of QCREATE is free (log entry 29), and which device parts a save record holds is the model's
choice (entry 53); what becomes of operations on a counter that QDESTROY frees is its reading (entry 92). -/
def Obligations.ContextCommands : Prop :=
  (∀ (s : State) (p : Nat), s.Idle (.partition p) →
    let d := s.arg (.partition p)
    let id := bitsAt (d 1) 15 0
    let log := bitsAt (d 5) 4 0
    let save := addr48 (d 3)
    let fq := addr48 (d 4)
    (bitsAt (d 1) 19 16 = p → 1 ≤ id → id ≤ 65534 → save % 4096 = 0 → fq % 64 = 0 → 4 ≤ log → log ≤ 16 →
      bitsAt (d 6) 16 0 ≤ 65536 → bitsAt (d 7) 5 0 ≤ 48 →
      ((s.ctx? id ≠ none ∨ s.mainBytes p < save + s.saveSize p ∨ fq < 64 ∨ s.mainBytes p < fq + 64 * 2 ^ log) →
        exec (.create p) s = .next (s.onlyResult (.partition p) 1)) ∧
      (s.ctx? id = none → save + s.saveSize p ≤ s.mainBytes p → 64 ≤ fq → fq + 64 * 2 ^ log ≤ s.mainBytes p →
        ∃ t c, exec (.create p) s = .next t ∧ t.Completed s (.partition p) 0 ∧ t.contexts.getLast? = some c ∧
          t.contexts.map (fun x => (x.id, x.st)) = s.contexts.map (fun x => (x.id, x.st)) ++ [(id, c.st)] ∧
          c.id = id ∧ c.part = p ∧ c.desc = (List.range 8).map d ∧ c.tail = 0 ∧ c.corrected = 0 ∧
          t.MemHolds s (physKey p (fq - 64)) (List.replicate (64 + 64 * 2 ^ log) 0) ∧
          (c.st = .active ↔ ∀ x ∈ s.contexts, x.part = p → x.st = .saved) ∧ (c.st ≠ .active → c.st = .saved))) ∧
    ((bitsAt (d 1) 19 16 ≠ p ∨ id = 0 ∨ id = 65535 ∨ save % 4096 ≠ 0 ∨ fq % 64 ≠ 0 ∨ log < 4 ∨ 16 < log) →
      exec (.create p) s = .next (s.onlyResult (.partition p) 2))) ∧
  (∀ (s : State) (p ctx : Nat) (c : Context), s.Idle (.partition p) → 1 ≤ ctx → ctx ≤ 65534 → s.ctx? ctx = some c →
    c.part = p →
    ((c.st = .saved ∨ c.st = .error) → ∃ t, exec (.destroy p ctx) s = .next t ∧ t.Completed s (.partition p) 0 ∧
      t.ctx? ctx = none ∧ (∀ q ∈ t.queues, q.ctx ≠ ctx) ∧ (∀ k ∈ t.counters, k.ctx ≠ ctx) ∧
      (∀ k ∈ t.kernels, k.ctx ≠ ctx) ∧ (∀ b ∈ t.barriers, b.ctx ≠ ctx)) ∧
    ((c.st = .active ∨ c.st = .preempting ∨ c.st = .restoring) → exec (.destroy p ctx) s = .next (s.onlyResult (.partition p) 1))) ∧
  (∀ (s : State) (p ctx : Nat) (c : Context), s.Idle (.partition p) → 1 ≤ ctx → ctx ≤ 65534 → s.ctx? ctx = some c →
    c.part = p →
    (c.st = .active → ∃ t, exec (.preempt p ctx) s = .next t ∧ (t.window (.partition p)).map (·.busy) = some true ∧
      (t.ctx? ctx).map (·.st) = some .preempting) ∧
    (c.st ≠ .active → exec (.preempt p ctx) s = .next (s.onlyResult (.partition p) 1))) ∧
  (∀ (s : State) (i p : Nat) (c : Context), s.partOf i = some p → s.preempting p = some c →
    ((s.coreOf i).frozen = false →
      let mine := s.ldsWait.filter (fun r => r.core == i)
      exec (.corePreemptStop i) s = .next (State.wake
        (State.modCore { s with ldsWait := s.ldsWait.filter (fun r => r.core != i) } i
          (fun c => { c.tryDrain with frozen := true, withdrawn := c.withdrawn ++ mine })))) ∧
    ((s.coreOf i).frozen = true → (s.coreOf i).acked = false → s.settled i = true →
      exec (.corePreemptAck i) s = .next (State.wake (s.modCore i (fun c => { c with acked := true }))))) ∧
  (∀ (s : State) (p : Nat) (c : Context), s.preempting p = some c → s.ctx? c.id = some c →
    s.canCopyOut c (s.liveCores.filter (fun i => s.partOf i == some p)) = true → s.armed = [] →
    ∃ t, exec (.copyOut p) s = .next t ∧ t.Completed s (.partition p) 0 ∧
      (∃ x, t.ctx? c.id = some x ∧ x.st = .saved ∧ x.tail = c.tail + 1 ∧
        x.saved.map (·.cores) = some ((s.liveCores.filter (fun i => s.partOf i == some p)).map s.coreOf)) ∧
      t.ripening = s.ripening) ∧
  (∀ (s : State) (p ctx : Nat) (c : Context) (v : Saved), s.Idle (.partition p) → 1 ≤ ctx → ctx ≤ 65534 →
    s.ctx? ctx = some c → c.part = p → c.st = .saved → c.saved = some v →
    ((∃ x ∈ s.contexts, x.part = p ∧ x.st ≠ .saved) → exec (.restore p ctx) s = .next (s.onlyResult (.partition p) 1)) ∧
    ((∀ x ∈ s.contexts, x.part = p → x.st = .saved) →
      ((∀ x ∈ v.cores, s.mayReturn p x.id = true) → ∃ t, exec (.restore p ctx) s = .next t ∧
        (t.window (.partition p)).map (·.busy) = some true ∧ t.ctx? ctx = some { c with st := .restoring }) ∧
      ((∃ x ∈ v.cores, s.mayReturn p x.id = false) → ∃ t, exec (.restore p ctx) s = .next t ∧
        (t.window (.partition p)).map (fun m => (m.busy, m.result)) = some (false, 1) ∧
        (t.ctx? ctx).map (·.st) = some .error))) ∧
  (∀ (s : State) (p : Nat) (c : Context) (v : Saved), s.restoring p = some c → s.ctx? c.id = some c → c.saved = some v →
    (v.record = 0 ∨ (s.recordsStand c v).1 = true) →
    ∃ t, s.restoreTurn p = .next t ∧ t.Completed s (.partition p) 0 ∧ (t.ctx? c.id).map (·.st) = some .active) ∧
  (∀ (s : State) (p ctx n : Nat) (c : Context), s.Idle (.partition p) → 1 ≤ ctx → ctx ≤ 65534 → s.ctx? ctx = some c →
    c.part = p → c.st = .active → s.freeQueue ctx = some n →
    let d := s.arg (.partition p)
    let base := addr48 (d 0)
    let log := bitsAt (d 1) 4 0
    let ctl := addr48 (d 2)
    let h := bitsAt (d 3) 9 0
    4 ≤ log → log ≤ 16 → base % (64 * 2 ^ log) = 0 → base + 64 * 2 ^ log ≤ s.mainBytes p → ctl % 128 = 0 →
    ctl + 128 ≤ s.mainBytes p → s.counter? ctx h = none → s.cellsFor p ctx [queueWidth] = true →
    ∃ t, exec (.qcreate p ctx) s = .next t ∧ (t.window (.partition p)).map (fun m => (m.busy, m.result)) = some (false, 0) ∧
      t.queues = s.queues ++ [{ ctx := ctx, num := n, base := base, logq := log, ctl := ctl, handle := h, rd := 0
                                st := .waiting, reason := 0, pkts := [] }] ∧
      (∃ k, t.counters = s.counters ++ [k] ∧ k.ctx = ctx ∧ k.handle = h ∧ k.nogive = true ∧ k.base = 0)) ∧
  (∀ (s : State) (p ctx q : Nat) (c : Context) (x : Queue), s.Idle (.partition p) → 1 ≤ ctx → ctx ≤ 65534 → q ≤ 63 →
    s.ctx? ctx = some c → c.part = p → s.queue? ctx q = some x →
    (∃ t, exec (.qdestroy p ctx q) s = .next t ∧ t.Completed s (.partition p) 0 ∧ t.queue? ctx q = none ∧
      t.counter? ctx x.handle = none) ∧
    (c.st = .active → x.st = .error → ∃ t, exec (.qreset p ctx q) s = .next t ∧ t.Completed s (.partition p) 0 ∧
      t.queue? ctx q = some { x with st := .waiting, reason := 0 }) ∧
    (x.st ≠ .error → exec (.qreset p ctx q) s = .next (s.onlyResult (.partition p) 1)))

/-- The other commands of the management windows (R376, R377): stops (R402), CORERW (R403), parameters, watches (R406),
quarantine (R393), routes and windows (R367, R368), allotment (R19, R372, R374) and ports (R371).
The cases of commands that the tables do not settle are the model's choice (log entry 58), and so is the digest of a
layout (entry 94). -/
def Obligations.ManagementCommands : Prop :=
  (∀ (s : State) (p : Nat) (cs : List Nat), s.Idle (.partition p) → s.coreRect p (s.arg (.partition p) 0) = some cs →
    (∃ t, exec (.stop p) s = .next t ∧ t.Completed s (.partition p) 0 ∧ (∀ i ∈ cs, (t.coreOf i).stopReq = true) ∧
      t.mem = s.mem) ∧
    (∃ t, exec (.resume p) s = .next t ∧ t.Completed s (.partition p) 0)) ∧
  (∀ (s : State) (p : Nat), s.Idle (.partition p) → s.coreRect p (s.arg (.partition p) 0) = none →
    exec (.stop p) s = .next (s.onlyResult (.partition p) 2) ∧ exec (.resume p) s = .next (s.onlyResult (.partition p) 2)) ∧
  (∀ (s : State), s.core.atStop = true →
    ∃ t, exec (.coreStopped s.core.id) s = .next t ∧ t.core.stopped = true ∧ t.core.cur = s.core.cur) ∧
  (∀ (s : State) (p off n : Nat), s.Idle (.partition p) →
    let d := s.arg (.partition p)
    let i := (d 0).toNat
    s.corePresent i = true → s.partOf i = some p → (d 1).toNat = off → (d 2).toNat = n → 1 ≤ n → n ≤ 32 →
    off + n ≤ 0x20000 →
    ((s.coreOf i).stopped = false → exec (.corerwRead p) s = .next (s.onlyResult (.partition p) 1) ∧
      exec (.corerwWrite p) s = .next (s.onlyResult (.partition p) 1)) ∧
    ((s.coreOf i).stopped = true → s.armed = [] →
      (∃ t, exec (.corerwRead p) s = .next t ∧ ((s.window (.partition p)).map (·.arg.length) = some 8 →
        t.arg (.partition p) 4 = .ofNat 64 (leNat (((s.coreOf i).lm.bytes off n ++ List.replicate (32 - n) 0).take 8)))) ∧
      (∃ t, exec (.corerwWrite p) s = .next t ∧ t.Completed s (.partition p) 0 ∧
        t.LocalHolds s i off (((List.range 4).flatMap (fun j => natLE 8 (d (4 + j)).toNat)).take n)))) ∧
  (∀ (s : State) (p ctx : Nat) (c : Context), s.Idle (.partition p) → 1 ≤ ctx → ctx ≤ 65534 → s.ctx? ctx = some c →
    c.part = p →
    let v := s.arg (.partition p) 0
    (v.toNat ≤ 65536 → ∃ t, exec (.setparam p ctx 0 false) s = .next t ∧ t.Completed s (.partition p) 0 ∧
      t.ctx? ctx = some { c with checkrate := v }) ∧
    (65536 < v.toNat → exec (.setparam p ctx 0 false) s = .next (s.onlyResult (.partition p) 2)) ∧
    exec (.setparam p ctx 4 false) s = .next (s.onlyResult (.partition p) 1) ∧
    (p < s.partitions.length → ∃ t, exec (.setparam p ctx 4 true) s = .next t ∧ t.Completed s (.partition p) 0 ∧
      (t.part p).rampUp = (v.setWidth 16).setWidth 64)) ∧
  (∀ (s : State) (p : Nat), s.Idle (.partition p) →
    let d := s.arg (.partition p)
    let i := (d 0).toNat
    s.corePresent i = true → s.partOf i = some p →
    ((d 1).toNat < 2 → bitsAt (d 3) 4 0 ≤ 20 → addr48 (d 2) % (8 * 2 ^ bitsAt (d 3) 4 0) = 0 →
      ∃ t, exec (.watch p) s = .next t ∧ t.Completed s (.partition p) 0 ∧
        ((d 1).toNat < (s.coreOf i).watch.length → (t.coreOf i).watch[(d 1).toNat]? =
          some { base := (d 2).setWidth 48, m := bitsAt (d 3) 4 0, rd := (d 4).getLsbD 0, wr := (d 4).getLsbD 1 })) ∧
    ((s.coreOf i).quarantined = true → exec (.qrelease p) s = .next (State.wake (State.result
      (s.modCore i (fun c => { c with quarantined := false, dueQ := false, suspicion := 0 })) (.partition p) 0)))) ∧
  (∀ (s : State) (p : Nat), s.Idle (.partition p) → p < s.partitions.length →
    let d := s.arg (.partition p)
    (∃ t, exec (.route p) s = .next t ∧ t.Completed s (.partition p) 0 ∧
      ∀ e, lookupD e (t.part p).routes (bitsAt (d 0) 7 0) =
        { valid := (d 1).getLsbD 0, device := d 2, part := bitsAt (d 3) 3 0, ports := d 5 ++ d 4, slot := bitsAt (d 6) 7 0 }) ∧
    (∃ t, exec (.dmawin p) s = .next t ∧ t.Completed s (.partition p) 0 ∧
      t.part p = { s.part p with
        dma := (s.part p).dma.set (bitsAt (d 0) 2 0) { base := d 1, size := d 2, bus := d 3 } })) ∧
  (∀ (s : State) (q : Port), s.Idle .device →
    let d := s.arg .device
    let p := bitsAt (d 0) 3 0
    d 1 = 0 → s.ports[(d 2).toNat]? = some q →
    ((∀ c ∈ s.contexts, (c.part = p ∨ some c.part = q.owner) → c.st = .saved) →
      ∃ t, exec .allot s = .next t ∧ t.Completed s .device 0 ∧ t.ports[(d 2).toNat]? = some { q with owner := some p } ∧
        t.mr = if q.owner = some p then s.mr else modifyAt (fun m => extended m t.layoutDigest) s.mr 3) ∧
    ((∃ c ∈ s.contexts, c.part = p ∧ c.st ≠ .saved) → exec .allot s = .next (s.onlyResult .device 1))) ∧
  (∀ (s : State), s.Idle .device →
    let d := s.arg .device
    let p := bitsAt (d 0) 3 0
    (bitsAt (d 1) 3 0 % 8 + bitsAt (d 2) 3 0 ≤ 8 → bitsAt (d 1) 3 0 / 8 + bitsAt (d 3) 1 0 ≤ 2 → s.running p = false →
      (∀ i q, s.partitions[i]? = some q → i ≠ p → q.across = 0 ∨ q.rows = 0) →
      ∃ t, exec .rect s = .next t ∧ t.Completed s .device 0 ∧ (p < s.partitions.length → t.part p =
        { s.part p with first := bitsAt (d 1) 3 0, across := bitsAt (d 2) 3 0, rows := bitsAt (d 3) 1 0 }) ∧
        ((t.part p).first ≠ (s.part p).first → p < s.partitions.length →
          t.mr = modifyAt (fun m => extended m t.layoutDigest) s.mr 3)) ∧
    (bitsAt (d 1) 3 0 % 8 + bitsAt (d 2) 3 0 ≤ 8 → bitsAt (d 1) 3 0 / 8 + bitsAt (d 3) 1 0 ≤ 2 → s.running p = true →
      exec .rect s = .next (s.onlyResult .device 1))) ∧
  (∀ (s : State) (id : PortId) (q : Port), s.Idle .device → s.port? id = some q → s.portDead id = false →
    let move (st : PortSt) := State.wake (State.result (s.modPort id (fun q => { q with st := st, replays := 0 })) .device 0)
    (q.st ≠ .quarantined → exec (.portctlDisable id) s = .next (move .down)) ∧
    (q.st = .down → exec (.portctlEnable id) s = .next (move .training)) ∧
    exec (.portctlQuarantine id) s = .next (move .quarantined) ∧
    (q.st = .quarantined → exec (.portctlRelease id) s = .next (move .down)) ∧
    (q.st ≠ .quarantined → exec (.portctlRelease id) s = .next (s.onlyResult .device 1))) ∧
  (∀ (s : State) (w : Window) (v : Word) (j : Nat), s.window w ≠ none → j < 8 →
    exec (.mgmtRegisterWrite w (0x40 + 8 * j) v) s =
      .next (State.wake (s.modWindow w (fun m => { m with arg := m.arg.set j v }))) ∧
    (s.window .device ≠ none → exec (.mgmtRegisterWrite .device 0x118 v) s =
      .next (State.wake { s with mfqLog := (v.setWidth 5).setWidth 64 }))) ∧
  (∀ (s : State) (w : Window) (m : MgmtWin) (cmd : Nat), s.window w = some m →
    s.windowRead w 8 = some (.ofNat 64 ((if m.busy = true then 1 else 0) + m.result.toNat * 256)) ∧
    (∀ j, j < 8 → s.windowRead w (0x40 + 8 * j) = m.arg[j]?) ∧
    let op := cmd % 2 ^ 8
    let a := cmd / 2 ^ 32
    (m.busy = true → exec (.cmdWriteRejected w cmd) s =
      .next (State.wake (s.modWindow w (fun m => { m with result := 3 })))) ∧
    (m.busy = false → (0x22 < op ∨ (op = 0x0A ∧ 1 < a) ∨ (op = 0x22 ∧ 3 < (s.arg w 0).toNat)) →
      exec (.cmdWriteRejected w cmd) s = .next (s.onlyResult w 2)))

/-- Reset (R407), boot and recovery (R408, R409), measurement, attestation (R411), tenant keys (R412) and thermal
trips (R415).
The stages and images at boot, what outlasts a reset, and a key change are the model's reading (log entries 63 to 66),
and the digest of a layout its choice (entry 94). -/
def Obligations.PlatformEvents : Prop :=
  (∀ s : State, exec .deviceReset s = .next s.afterReset.wake) ∧
  (∀ s : State, s.afterReset.core = State.reset.core ∧ s.afterReset.mem = [] ∧ s.afterReset.contexts = [] ∧
    s.afterReset.mr = List.replicate 8 0 ∧ s.afterReset.boot = .stage 0 ∧ s.afterReset.svn = s.svn ∧
    s.afterReset.seed = s.seed ∧ s.afterReset.trips = s.trips ∧ s.afterReset.identity = none) ∧
  (∀ (s : State) (n : Nat) (im : Image), s.boot = .stage n → n ≤ 2 → s.takesImage n im = true →
    let begun : State := if n = 0 then { s with identity := some (identityOf s.seed), tripsRead := s.trips } else s
    (s.accepts im = true → ∃ t, exec (.bootStage im) s = .next t ∧ t.boot = .stage (max n (min im.stage 2)) ∧
      t.identity = begun.identity ∧ t.tripsRead = begun.tripsRead ∧
      t.mr = modifyAt (fun m => extended m im.digest)
        (if n = 0 then modifyAt (fun m => extended m Config.romDigest) s.mr 0 else s.mr) im.stage ∧
      s.svn.toNat ≤ t.svn.toNat) ∧
    (s.accepts im = false → exec (.bootStage im) s = .next (State.wake { begun with boot := .recovery }))) ∧
  (∀ (s : State) (n : Nat) (im : Image), s.boot = .stage n → n ≤ 2 → im.stage ≠ (if n = 2 then 4 else n + 1) →
    exec (.bootStage im) s = .next s) ∧
  (∀ seed : BitVec 384,
    let out := hkdf (List.replicate 32 0) (natLE 48 seed.toNat) [0x4A, 0x58, 0x49, 0x44] 72
    natLE 24 (identityOf seed).skSeed.toNat = out.take 24 ∧ natLE 24 (identityOf seed).skPrf.toNat = (out.drop 24).take 24 ∧
      natLE 24 (identityOf seed).pkSeed.toNat = (out.drop 48).take 24) ∧
  (∀ m d : BitVec 256, extended m d = sha256 (natLE 32 m.toNat ++ natLE 32 d.toNat)) ∧
  (∀ (s : State) (n : Nat) (mr : BitVec 3) (d : BitVec 256), s.boot = .stage n → exec (.measurementExtend mr d) s =
    .next (State.wake { s with mr := modifyAt (fun m => extended m d) s.mr mr.toNat })) ∧
  (∀ (s : State) (im : Image), s.boot = .recovery →
    exec (.recoveryImage im) s = .next (State.wake { s with recovered := some im })) ∧
  (∀ (s : State) (n fn p : Nat) (id : Identity) (nonce : BitVec 256), s.boot = .stage n → s.identity = some id → p < 16 →
    (fn = 0 ∨ fn = p + 1) →
    let body := s.report id p nonce 0
    exec (.attestationRequest fn p nonce false) s = .next (State.wake { s with
      hostOut := s.hostOut ++ [.report fn body (Config.slhSign id.skSeed id.skPrf id.pkSeed id.pkRoot body) none] })) ∧
  (∀ (s : State) (n p : Nat) (id : Identity) (nonce : BitVec 256), s.boot = .stage n → s.identity = some id →
    p < s.partitions.length → p < 16 →
    ∃ t, exec (.attestationRequest (p + 1) p nonce true) s = .next t ∧ t.kemCount = s.kemCount + 1 ∧
      (t.part p).kem = some s.kemCount ∧
      let key := Config.kemKey s.kemCount
      let body := s.report id p nonce (sha256 (natLE 1568 key))
      t.hostOut = s.hostOut ++ [.report (p + 1) body (Config.slhSign id.skSeed id.skPrf id.pkSeed id.pkRoot body) (some key)]) ∧
  (∀ (s : State) (id : Identity) (p : Nat) (nonce binding : BitVec 256), s.mr.length = 8 →
    let body := s.report id p nonce binding
    let quad (k : Nat) : Nat := leNat (((body.drop k).take 4).flatMap dwordBytes)
    body.length = 48 ∧ (body.getD 0 0).setWidth 32 = 0x5241584A#32 ∧ body.getD 1 0 = s.ts ∧ quad 2 = nonce.toNat ∧
      quad 6 = (sha256 (natLE 24 id.pkSeed.toNat ++ natLE 24 id.pkRoot.toNat)).toNat ∧
      (∀ i, i < 8 → quad (10 + 4 * i) = (s.mr.getD i 0).toNat) ∧ body.getD 43 0 = s.svn ∧ quad 44 = binding.toNat) ∧
  (∀ (s : State) (b p : Nat) (slot : KeySlot) (w : List Byte), s.boot = .stage b → p < s.partitions.length → p < 16 →
    (∀ (n : Nat) (key : BitVec 256), (s.part p).kem = some n → Config.unwrap n w = some key →
      ∃ t, exec (.keyDelivery p (slot, w) []) s = .next t ∧ (t.part p).kem = none ∧
        (t.part p).keys.find? (fun k => decide (k.1 = slot)) = some (slot, key) ∧
        (slot = .memory → (s.part p).keys.find? (fun k => decide (k.1 = slot)) = none →
          (∀ x ∈ t.lines, s.inMemoryOf p (128 * x.line) = false) ∧
          (∀ r ∈ t.ripening, s.inMemoryOf p (128 * r.line) = false) ∧
          ∀ x ∈ t.core.l1, s.inMemoryOf p (128 * x.line) = false)) ∧
    (((s.part p).kem = none ∨ ∃ n, (s.part p).kem = some n ∧ Config.unwrap n w = none) →
      exec (.keyDelivery p (slot, w) []) s = .next (s.answers (.keyError p)))) ∧
  (∀ (s : State) (b p n : Nat) (k : KeySlot × List Byte) (more : List (KeySlot × List Byte)), s.boot = .stage b →
    p < s.partitions.length → p < 16 → (s.part p).kem = some n → let ks := k :: more
    ∃ t, exec (.keyDelivery p k more) s = .next t ∧
      t.hostOut = s.hostOut ++ (ks.filter (fun k => (Config.unwrap n k.2).isNone)).map (fun _ => .keyError p) ∧
      (t.part p).kem = if ks.any (fun k => (Config.unwrap n k.2).isSome) then none else some n) ∧
  (∀ (s : State) (die : BitVec 2), s.boot ≠ .tripped → exec (.thermalTrip die) s =
    .next (State.wake { s.afterReset with boot := .tripped, trips := s.trips ++ [die] }))
end

