-- ==== Sys2Proof/Laws/Encoding.lean ====
section
/-! SUPPORT. Encodings: a specifier's value reads back as the specifier, a field of a sum of placed fields is its
part, and bytes that hold a word decode as the word does. -/

namespace Sys2Proof

theorem Dir.num_lt (d : Dir) : d.num < 4 := by cases d <;> decide

theorem dirOf_num (d : Dir) : dirOf d.num = d := by cases d <;> rfl

theorem RSpec.bits_lt (r : RSpec) : r.bits < 64 := by
  cases r with
  | w i => simp only [bits]; have := i.isLt; omega
  | out d => simp only [bits]; have := d.num_lt; omega
  | inp d => simp only [bits]; have := d.num_lt; omega
  | z => decide
  | inq => decide

theorem rspec_bits (r : RSpec) : rspec r.bits = some r := by
  cases r with
  | w i => simp [RSpec.bits, rspec, i.isLt]
  | out d => cases d <;> rfl
  | inp d => cases d <;> rfl
  | z => rfl
  | inq => rfl

theorem LSpec.bits_lt (r : LSpec) : r.bits < 128 := by
  cases r with
  | v i => simp only [bits]; have := i.isLt; omega
  | post i => simp only [bits]; have := i.isLt; omega
  | str i => simp only [bits]; have := i.isLt; omega
  | bcast i => simp only [bits]; have := i.isLt; omega
  | vz => decide
  | vout d => simp only [bits]; have := d.num_lt; omega
  | vin d => simp only [bits]; have := d.num_lt; omega
  | m i => simp only [bits]; have := i.isLt; omega

theorem lspec_bits (r : LSpec) : lspec r.bits = some r := by
  cases r with
  | v i => simp [LSpec.bits, lspec, i.isLt]
  | post i => revert i; decide
  | str i => revert i; decide
  | bcast i => revert i; decide
  | vz => rfl
  | vout d => cases d <;> rfl
  | vin d => cases d <;> rfl
  | m i => revert i; decide

theorem LSpec.compactBits_lt (r : LSpec) : r.compactBits < 32 := by
  cases r with
  | v i => simp only [compactBits]; split <;> omega
  | post i => simp only [compactBits]; have := i.isLt; omega
  | vin d => simp only [compactBits]; have := d.num_lt; omega
  | str _ => simp [compactBits]
  | bcast _ => simp [compactBits]
  | vz => decide
  | vout _ => simp [compactBits]
  | m _ => simp [compactBits]

theorem compactSpec_bits (r : LSpec) (h : r.compact = true) : compactSpec r.compactBits = some r := by
  cases r with
  | v i =>
    simp only [LSpec.compact, decide_eq_true_eq] at h
    simp [LSpec.compactBits, compactSpec, h]
  | post i => revert i; decide
  | vin d => cases d <;> rfl
  | str _ | bcast _ | vz | vout _ | m _ => simp [LSpec.compact] at h

theorem toNat_byte (n : Nat) : (BitVec.ofNat 8 n).toNat = n % 256 := by simp

/-- A word's four bytes decode as the word does, whatever follows them. -/
theorem decode_word {w : Nat} {i : Instr} (rest : List Byte) (odd : w % 2 = 1) (lt : w < 4294967296)
    (h : decodeWord w = some i) : decode (bytesOf 4 w ++ rest) = .ok (i, rest) := by
  have e1 : half (.ofNat 8 w) (.ofNat 8 (w / 256)) = w % 65536 := by simp only [half, toNat_byte]; omega
  have e2 : half (.ofNat 8 w) (.ofNat 8 (w / 256)) +
      65536 * half (.ofNat 8 (w / 256 / 256)) (.ofNat 8 (w / 256 / 256 / 256)) = w := by
    simp only [half, toNat_byte]; omega
  have e3 : ¬ half (.ofNat 8 w) (.ofNat 8 (w / 256)) % 2 = 0 := by rw [e1]; omega
  simp only [bytesOf, List.cons_append, List.nil_append, decode, if_neg e3, e2, h]

/-- The same for the two bytes of the compact form. -/
theorem decode_half {w : Nat} {i : Instr} (rest : List Byte) (even : w % 2 = 0) (lt : w < 65536)
    (h : decodeHalf w = some i) : decode (bytesOf 2 w ++ rest) = .ok (i, rest) := by
  have e1 : half (.ofNat 8 w) (.ofNat 8 (w / 256)) = w := by simp only [half, toNat_byte]; omega
  simp only [bytesOf, List.cons_append, List.nil_append, decode, e1, if_pos even, h]

end Sys2Proof
end

