-- ==== Sys2Proof/Laws/Lines.lean ====
section
/-! SUPPORT. While no store error stands, accesses change the lines that slices hold and nothing else. -/

namespace Sys2Proof.Machine

/-- Two states differ in the lines of slices at most, and none of the later ones is damaged. -/
def OnlyLines (s t : State) : Prop := ∃ ls, t = { s with lines := ls } ∧ ∀ x ∈ ls, x.damaged = []

theorem OnlyLines.refl {s : State} (h : s.NoErrors) : OnlyLines s s := ⟨s.lines, rfl, h.2⟩

theorem OnlyLines.trans {s t u : State} (h : OnlyLines s t) (k : OnlyLines t u) : OnlyLines s u := by
  obtain ⟨ls, rfl, -⟩ := h
  obtain ⟨ms, rfl, hm⟩ := k
  exact ⟨ms, rfl, hm⟩

theorem OnlyLines.noErrors {s t : State} (h : OnlyLines s t) (n : s.NoErrors) : t.NoErrors := by
  obtain ⟨ls, rfl, hl⟩ := h
  exact ⟨n.1, hl⟩

theorem OnlyLines.fold {α : Type} {f : State → α → State} (hf : ∀ s a, s.NoErrors → OnlyLines s (f s a)) (l : List α) :
    ∀ s : State, s.NoErrors → OnlyLines s (l.foldl f s) := by
  induction l with
  | nil => exact fun s h => .refl h
  | cons a l ih => exact fun s h => (hf s a h).trans (ih _ ((hf s a h).noErrors h))

theorem State.NoErrors.lineOf {s : State} (h : s.NoErrors) {l : Nat} {x : CacheLine} (hx : s.lineOf l = some x) :
    x.damaged = [] := h.2 x (List.mem_of_find?_eq_some hx)

theorem State.NoErrors.evict {s : State} (h : s.NoErrors) {x : CacheLine} (hx : x.damaged = []) :
    OnlyLines s (s.evict x) := by
  refine ⟨s.lines.filter (fun y => y.line != x.line), ?_, fun y hy => h.2 y (List.mem_of_mem_filter hy)⟩
  simp [State.evict, h.1, hx]

theorem State.NoErrors.makeRoom {s : State} (h : s.NoErrors) (l : Nat) (tag way : Bool) :
    OnlyLines s (s.makeRoom l tag way) := by
  have pick : ∀ p : List CacheLine, (∀ x ∈ p, x.damaged = []) → ∀ x, (p.find? (fun x => !x.kept) <|> p.head?) = some x →
      x.damaged = [] := by
    intro p hp x hx
    cases hf : p.find? (fun x => !x.kept) with
    | some y =>
      rw [hf] at hx
      cases hx
      exact hp x (List.mem_of_find?_eq_some hf)
    | none =>
      rw [hf] at hx
      exact hp x (List.mem_of_mem_head? hx)
  have set : ∀ x ∈ (s.inSet l).1, x.damaged = [] := fun x hx => h.2 x (List.mem_of_mem_filter hx)
  have ways : ∀ x ∈ (s.inSet l).1.filter (fun x => !x.zero), x.damaged = [] := fun x hx =>
    set x (List.mem_of_mem_filter hx)
  unfold State.makeRoom
  split
  · exact .refl h
  · dsimp only
    split
    · split
      · exact .refl h
      · rename_i x hx
        refine h.evict (pick _ ?_ x hx)
        split
        · exact ways
        · exact set
    · exact .refl h

theorem OnlyLines.set {s : State} {ls : List CacheLine} (h : ∀ x ∈ ls, x.damaged = []) :
    OnlyLines s { s with lines := ls } := ⟨ls, rfl, h⟩

theorem mem_updFirst {α : Type} {p : α → Bool} {f : α → α} {l : List α} {y : α} (h : y ∈ updFirst p f l) :
    y ∈ l ∨ ∃ x ∈ l, y = f x := by
  induction l with
  | nil => simp [updFirst] at h
  | cons a l ih =>
    unfold updFirst at h
    split at h <;> rcases List.mem_cons.1 h with rfl | h
    · exact .inr ⟨a, List.mem_cons_self, rfl⟩
    · exact .inl (List.mem_cons_of_mem _ h)
    · exact .inl List.mem_cons_self
    · rcases ih h with h | ⟨x, hx, e⟩
      · exact .inl (List.mem_cons_of_mem _ h)
      · exact .inr ⟨x, List.mem_cons_of_mem _ hx, e⟩

theorem State.keepLine_damaged (s : State) (x : CacheLine) : (s.keepLine x).damaged = x.damaged := by
  unfold State.keepLine
  split <;> rfl

theorem State.NoErrors.putLine {s : State} (h : s.NoErrors) (use : LineUse) {x : CacheLine} (hx : x.damaged = []) :
    OnlyLines s (s.putLine use x) := by
  have e : ∀ y : CacheLine, (y = x ∨ y = s.keepLine x) → y.damaged = [] := by
    rintro y (rfl | rfl)
    · exact hx
    · rw [s.keepLine_damaged, hx]
  unfold State.putLine
  dsimp only
  split <;> refine .set fun y hy => ?_
  · rcases List.mem_append.1 hy with hy | hy
    · exact h.2 y (List.mem_of_mem_filter hy)
    · refine e y ?_
      rw [List.mem_singleton.1 hy]
      split
      · exact .inr rfl
      · exact .inl rfl
  · rcases mem_updFirst hy with hy | ⟨z, -, rfl⟩
    · exact h.2 y hy
    · refine e _ ?_
      split
      · exact .inr rfl
      · exact .inl rfl

theorem State.NoErrors.addLine {s : State} (h : s.NoErrors) (use : LineUse) {x : CacheLine} (hx : x.damaged = []) :
    OnlyLines s (s.addLine use x) := by
  have hr := h.makeRoom x.line true (!x.zero)
  refine hr.trans ?_
  have hn := (hr.noErrors h).2
  unfold State.addLine
  dsimp only
  have last : ∀ z : CacheLine, z.damaged = [] → OnlyLines (s.makeRoom x.line true (!x.zero))
      { s.makeRoom x.line true (!x.zero) with lines := (s.makeRoom x.line true (!x.zero)).lines ++ [z] } := fun z hz =>
    .set fun y hy => by
      rcases List.mem_append.1 hy with hy | hy
      · exact hn y hy
      · rw [List.mem_singleton.1 hy]; exact hz
  split
  · exact last x hx
  · split
    · exact last _ (by rw [State.keepLine_damaged, hx])
    · refine .set fun y hy => ?_
      rcases List.mem_cons.1 hy with rfl | hy
      · exact hx
      · exact hn y hy

theorem State.NoErrors.hitLine {s : State} (h : s.NoErrors) (use : LineUse) {x : CacheLine} (hx : x.damaged = [])
    (zeros : Bool) (covered : List Nat) : OnlyLines s (s.hitLine use x zeros covered) := by
  unfold State.hitLine
  dsimp only
  split
  · have hr := h.makeRoom x.line false true
    exact hr.trans ((hr.noErrors h).putLine use (by simp [hx]))
  · exact h.putLine use (by simp [hx])

theorem State.NoErrors.hitLines {s : State} (h : s.NoErrors) (key : Nat) (bytes : List Byte) (pois : List Bool) :
    OnlyLines s (s.hitLines key bytes pois) := by
  refine OnlyLines.fold (fun s l hs => ?_) _ s h
  cases hx : s.lineOf l with
  | none => exact .refl hs
  | some x => exact hs.hitLine _ (hs.lineOf hx) _ _

theorem State.NoErrors.fillLine {s : State} (h : s.NoErrors) (use : LineUse) (l : Nat) : OnlyLines s (s.fillLine use l) := by
  unfold State.fillLine
  simp only [h.1, List.isEmpty_nil, if_true]
  exact h.addLine use rfl

theorem State.NoErrors.readLine {s : State} (h : s.NoErrors) (use : LineUse) (l : Nat) :
    OnlyLines s (State.readLine use s l) := by
  unfold State.readLine
  cases hx : s.lineOf l with
  | some x => exact h.putLine use (h.lineOf hx)
  | none => cases use <;> first | exact h.fillLine _ l | exact .refl h

theorem State.NoErrors.readLines {s : State} (h : s.NoErrors) (use : LineUse) (key n : Nat) :
    OnlyLines s (s.readLines use key n) := by
  unfold State.readLines
  split
  · exact OnlyLines.fold (fun s l hs => hs.readLine use l) _ s h
  · exact .refl h

theorem State.NoErrors.writeLine {s : State} (h : s.NoErrors) (use : LineUse) (l : Nat) (zeros : Bool) (covered : List Nat) :
    OnlyLines s (s.writeLine use l zeros covered) := by
  have alloc (use : LineUse) : OnlyLines s (let s := s.fillLine use l
      match s.lineOf l with
      | some x => s.hitLine use x zeros covered
      | none => s) := by
    have hf := h.fillLine use l
    have hn := hf.noErrors h
    refine hf.trans ?_
    dsimp only
    cases hx : (s.fillLine use l).lineOf l with
    | none => exact .refl hn
    | some x => exact hn.hitLine use (hn.lineOf hx) _ _
  unfold State.writeLine
  cases hx : s.lineOf l with
  | some x => exact h.hitLine use (h.lineOf hx) _ _
  | none =>
    cases use
    case normal | keep =>
      dsimp only
      split
      · exact h.addLine _ rfl
      · exact alloc _
    case zfill => exact h.addLine _ rfl
    all_goals exact .refl h

/-- While no store error stands, a write reaches the slices with no other effect than on their lines. -/
theorem State.NoErrors.writeLines {s : State} (h : s.NoErrors) (use : LineUse) (key : Nat) (bytes : List Byte)
    (pois : List Bool) : OnlyLines s (s.writeLines use key bytes pois) := by
  unfold State.writeLines
  split
  · exact OnlyLines.fold (fun s l hs => hs.writeLine use l _ _) _ s h
  · exact .refl h

/-- While no store error stands, a read finds nothing, and changes the lines of slices at most. -/
theorem State.NoErrors.meetPhys {s : State} (h : s.NoErrors) (use : LineUse) (p key n : Nat) :
    (s.meetPhys use p key n).1 = [] ∧ OnlyLines s (s.meetPhys use p key n).2 := by
  have hr := h.readLines use key n
  have e : s.meetPhys use p key n = ([], s.readLines use key n) := by
    unfold State.meetPhys
    simp [(hr.noErrors h).1]
  rw [e]
  exact ⟨rfl, hr⟩

end Sys2Proof.Machine
end

