-- ==== Sys2Proof/Laws/Memory.lean ====
section
/-! SUPPORT. Sets and memories: every operation keeps the canonical form, and what is read after a write. -/

namespace Sys2Proof.Machine

/-! ## Sets -/

namespace NatSet

theorem wf_iff {s : NatSet} : NatSet.wf s = true ↔ s.Pairwise (· < ·) := by simp [NatSet.wf]

theorem wf_nil : NatSet.wf [] = true := rfl

theorem has_of_lt : ∀ {s : NatSet} {x : Nat}, (∀ y ∈ s, x < y) → NatSet.has s x = false
  | [], _, _ => rfl
  | y :: ys, x, h => by
    have h1 := h y (by simp)
    simp only [NatSet.has, if_neg (show ¬ y = x by omega), if_pos h1]

theorem mem_ins {s : NatSet} {x z : Nat} : z ∈ NatSet.ins s x ↔ z = x ∨ z ∈ s := by
  induction s with
  | nil => simp [NatSet.ins]
  | cons y ys ih =>
    simp only [NatSet.ins]
    split
    · simp
    · split
      · subst_vars; simp
      · simp only [List.mem_cons, ih]; tauto

theorem mem_del {s : NatSet} {x z : Nat} (h : z ∈ NatSet.del s x) : z ∈ s := by
  induction s with
  | nil => simp [NatSet.del] at h
  | cons y ys ih =>
    simp only [NatSet.del] at h
    split at h
    · simp [h]
    · split at h
      · exact h
      · rcases List.mem_cons.mp h with h | h
        · simp [h]
        · simp [ih h]

theorem wf_ins {s : NatSet} (h : NatSet.wf s = true) (x : Nat) : NatSet.wf (NatSet.ins s x) = true := by
  rw [wf_iff] at *
  induction s with
  | nil => simp [NatSet.ins]
  | cons y ys ih =>
    have h1 := List.pairwise_cons.mp h
    simp only [NatSet.ins]
    split
    · refine List.pairwise_cons.mpr ⟨fun z hz => ?_, h⟩
      rcases List.mem_cons.mp hz with hz | hz
      · omega
      · have := h1.1 z hz; omega
    · split
      · exact h
      · refine List.pairwise_cons.mpr ⟨fun z hz => ?_, ih h1.2⟩
        rcases mem_ins.mp hz with hz | hz
        · omega
        · exact h1.1 z hz

theorem wf_del {s : NatSet} (h : NatSet.wf s = true) (x : Nat) : NatSet.wf (NatSet.del s x) = true := by
  rw [wf_iff] at *
  induction s with
  | nil => simp [NatSet.del]
  | cons y ys ih =>
    have h1 := List.pairwise_cons.mp h
    simp only [NatSet.del]
    split
    · exact h1.2
    · split
      · exact h
      · exact List.pairwise_cons.mpr ⟨fun z hz => h1.1 z (mem_del hz), ih h1.2⟩

theorem wf_put {s : NatSet} (h : NatSet.wf s = true) (x : Nat) (b : Bool) : NatSet.wf (s.put x b) = true := by
  cases b
  · exact wf_del h x
  · exact wf_ins h x

theorem wf_filter {s : NatSet} (h : NatSet.wf s = true) (p : Nat → Bool) : NatSet.wf (s.filter p) = true := by
  rw [wf_iff] at *
  exact h.filter p

theorem wf_foldl {α : Type} {f : NatSet → α → NatSet} (k : ∀ s a, NatSet.wf s = true → NatSet.wf (f s a) = true) :
    ∀ {l : List α} {s : NatSet}, NatSet.wf s = true → NatSet.wf (l.foldl f s) = true
  | [], _, h => h
  | a :: l, s, h => wf_foldl k (l := l) (k s a h)

/-- Membership is membership. -/
theorem has_iff {s : NatSet} (h : NatSet.wf s = true) (x : Nat) : NatSet.has s x = true ↔ x ∈ s := by
  rw [wf_iff] at h
  induction s with
  | nil => simp [NatSet.has]
  | cons y ys ih =>
    have h1 := List.pairwise_cons.mp h
    simp only [NatSet.has]
    split
    · subst_vars; simp
    · split
      · have : ∀ z ∈ ys, x < z := fun z hz => by have := h1.1 z hz; omega
        simp only [Bool.false_eq_true, List.mem_cons, false_iff, not_or]
        exact ⟨by omega, fun hz => absurd (this x hz) (by omega)⟩
      · rw [ih h1.2, List.mem_cons]
        constructor
        · exact Or.inr
        · rintro (h2 | h2)
          · omega
          · exact h2

theorem has_ins {s : NatSet} (h : NatSet.wf s = true) (x z : Nat) :
    NatSet.has (NatSet.ins s x) z = (decide (z = x) || NatSet.has s z) := by
  rw [Bool.eq_iff_iff, has_iff (wf_ins h x), mem_ins]
  simp [has_iff h]

theorem mem_del_iff {s : NatSet} (h : NatSet.wf s = true) {x z : Nat} : z ∈ NatSet.del s x ↔ z ≠ x ∧ z ∈ s := by
  rw [wf_iff] at h
  induction s with
  | nil => simp [NatSet.del]
  | cons y ys ih =>
    have h1 := List.pairwise_cons.mp h
    simp only [NatSet.del]
    split
    · subst_vars
      simp only [List.mem_cons]
      constructor
      · intro hz; have := h1.1 z hz; exact ⟨by omega, Or.inr hz⟩
      · rintro ⟨h2, h3 | h3⟩
        · exact absurd h3 h2
        · exact h3
    · split
      · simp only [List.mem_cons]
        constructor
        · rintro (hz | hz)
          · exact ⟨by omega, Or.inl hz⟩
          · have := h1.1 z hz; exact ⟨by omega, Or.inr hz⟩
        · exact fun hz => hz.2
      · simp only [List.mem_cons, ih h1.2]
        constructor
        · rintro (hz | hz)
          · exact ⟨by omega, Or.inl hz⟩
          · exact ⟨hz.1, Or.inr hz.2⟩
        · rintro ⟨h2, h3 | h3⟩
          · exact Or.inl h3
          · exact Or.inr ⟨h2, h3⟩

theorem has_del {s : NatSet} (h : NatSet.wf s = true) (x z : Nat) :
    NatSet.has (NatSet.del s x) z = (decide (z ≠ x) && NatSet.has s z) := by
  rw [Bool.eq_iff_iff, has_iff (wf_del h x), mem_del_iff h]
  simp [has_iff h]

theorem has_put {s : NatSet} (h : NatSet.wf s = true) (x z : Nat) (b : Bool) :
    NatSet.has (s.put x b) z = if z = x then b else NatSet.has s z := by
  cases b
  · by_cases e : z = x <;> simp [NatSet.put, has_del h, e]
  · by_cases e : z = x <;> simp [NatSet.put, has_ins h, e]

end NatSet

theorem wf_writePoison (u : Nat) {s : NatSet} (h : NatSet.wf s = true) (a : Nat) (pois : List Bool) :
    NatSet.wf (writePoison u s a pois) = true :=
  NatSet.wf_foldl (fun _ _ hs => NatSet.wf_put hs _ _) h

/-! ## Memories -/

namespace Memory

theorem wf_iff {m : Memory} : Memory.wf m = true ↔ m.Pairwise (fun x y => x.1 < y.1) ∧ ∀ c ∈ m, c.2 ≠ 0 := by
  simp [Memory.wf]

theorem wf_nil : Memory.wf [] = true := rfl

theorem get_nil (a : Nat) : Memory.get [] a = 0 := rfl

theorem get_of_lt : ∀ {m : Memory} {a : Nat}, (∀ c ∈ m, a < c.1) → Memory.get m a = 0
  | [], _, _ => rfl
  | c :: m, a, h => by
    have h1 := h c (by simp)
    simp only [Memory.get, if_neg (show ¬ c.1 = a by omega), if_pos h1]

theorem mem_set {m : Memory} {a : Nat} {b : Byte} {c : Host.Cell} (h : c ∈ Memory.set m a b) :
    (c = (a, b) ∧ b ≠ 0) ∨ c ∈ m := by
  induction m with
  | nil =>
    simp only [Memory.set] at h
    split at h <;> simp_all
  | cons d m ih =>
    simp only [Memory.set] at h
    split at h
    · split at h
      · exact Or.inr h
      · rcases List.mem_cons.mp h with h | h
        · exact Or.inl ⟨h, by assumption⟩
        · exact Or.inr h
    · split at h
      · split at h
        · exact Or.inr (List.mem_cons_of_mem _ h)
        · rcases List.mem_cons.mp h with h | h
          · exact Or.inl ⟨h, by assumption⟩
          · exact Or.inr (List.mem_cons_of_mem _ h)
      · rcases List.mem_cons.mp h with h | h
        · exact Or.inr (by simp [h])
        · rcases ih h with h | h
          · exact Or.inl h
          · exact Or.inr (List.mem_cons_of_mem _ h)

theorem wf_set {m : Memory} (h : Memory.wf m = true) (a : Nat) (b : Byte) : Memory.wf (Memory.set m a b) = true := by
  rw [wf_iff] at *
  refine ⟨?_, fun c hc => ?_⟩
  · induction m with
    | nil => simp only [Memory.set]; split <;> simp
    | cons d m ih =>
      have h1 := List.pairwise_cons.mp h.1
      simp only [Memory.set]
      split
      · split
        · exact h.1
        · refine List.pairwise_cons.mpr ⟨fun c hc => ?_, h.1⟩
          rcases List.mem_cons.mp hc with hc | hc
          · subst hc; assumption
          · have := h1.1 c hc; simp only; omega
      · split
        · split
          · exact h1.2
          · refine List.pairwise_cons.mpr ⟨fun c hc => ?_, h1.2⟩
            have := h1.1 c hc; simp only; omega
        · refine List.pairwise_cons.mpr ⟨fun c hc => ?_, ih ⟨h1.2, fun c hc => h.2 c (List.mem_cons_of_mem _ hc)⟩⟩
          rcases mem_set hc with ⟨hc, _⟩ | hc
          · subst hc; simp only; omega
          · exact h1.1 c hc
  · rcases mem_set hc with ⟨hc, hb⟩ | hc
    · subst hc; exact hb
    · exact h.2 c hc

theorem wf_setBytes {m : Memory} (h : Memory.wf m = true) (a : Nat) (bs : List Byte) :
    Memory.wf (m.setBytes a bs) = true := by
  induction bs generalizing m a with
  | nil => exact h
  | cons b bs ih => exact ih (wf_set h a b) (a + 1)

theorem wf_filter {m : Memory} (h : Memory.wf m = true) (p : Host.Cell → Bool) : Memory.wf (m.filter p) = true := by
  rw [wf_iff] at *
  exact ⟨h.1.filter p, fun c hc => h.2 c (List.mem_filter.mp hc).1⟩

/-- A byte reads as written, and every other byte as before. -/
theorem get_set {m : Memory} (h : Memory.wf m = true) (a : Nat) (b : Byte) (x : Nat) :
    Memory.get (Memory.set m a b) x = if x = a then b else Memory.get m x := by
  rw [wf_iff] at h
  induction m with
  | nil =>
    simp only [Memory.set]
    split
    · subst_vars; simp [Memory.get]
    · simp only [Memory.get]
      by_cases e : x = a
      · simp [e]
      · simp [e, show ¬ a = x by omega]
  | cons d m ih =>
    have h1 := List.pairwise_cons.mp h.1
    have low : x < d.1 → Memory.get m x = 0 := fun hx => get_of_lt (fun c hc => by have := h1.1 c hc; omega)
    have at_d : x = d.1 → Memory.get m x = 0 := fun hx => get_of_lt (fun c hc => by have := h1.1 c hc; omega)
    simp only [Memory.set]
    split
    · split
      · subst_vars
        simp only [Memory.get]
        by_cases e : x = a
        · subst e; simp [show ¬ d.1 = x by omega, show x < d.1 by omega]
        · simp [e]
      · simp only [Memory.get]
        by_cases e : x = a
        · simp [e]
        · simp only [show ¬ a = x by omega, if_false, e]
          by_cases e2 : x < a
          · simp [e2, show ¬ d.1 = x by omega, show x < d.1 by omega]
          · simp [e2]
    · split
      · split
        · subst_vars
          by_cases e : x = d.1
          · have z := at_d e; rw [e] at z; simp [e, z]
          · simp only [Memory.get, show ¬ d.1 = x by omega, if_false, e]
            by_cases e2 : x < d.1
            · simp [e2, low e2]
            · simp [e2]
        · subst_vars
          simp only [Memory.get]
          by_cases e : x = d.1
          · simp [e]
          · simp [e, show ¬ d.1 = x by omega]
      · simp only [Memory.get]
        have ih := ih ⟨h1.2, fun c hc => h.2 c (List.mem_cons_of_mem _ hc)⟩
        by_cases e : d.1 = x
        · simp [e, show ¬ x = a by omega]
        · simp only [e, if_false]
          by_cases e2 : x < d.1
          · simp [e2, show ¬ x = a by omega]
          · simp [e2, ih]

/-- Bytes read as written, and every other byte as before. -/
theorem get_setBytes {m : Memory} (h : Memory.wf m = true) (a : Nat) (bs : List Byte) (x : Nat) :
    Memory.get (m.setBytes a bs) x =
      if a ≤ x ∧ x < a + bs.length then bs.getD (x - a) 0 else Memory.get m x := by
  induction bs generalizing m a with
  | nil => simp only [Memory.setBytes, List.length_nil, Nat.add_zero]; rw [if_neg (by omega)]
  | cons b bs ih =>
    rw [Memory.setBytes, ih (wf_set h a b) (a + 1), get_set h]
    simp only [List.length_cons]
    by_cases e : x = a
    · subst e; rw [if_neg (by omega), if_pos rfl, if_pos (by omega)]; simp
    · rw [if_neg e]
      by_cases e2 : a + 1 ≤ x ∧ x < a + 1 + bs.length
      · rw [if_pos e2, if_pos (by omega)]
        rw [show x - a = (x - (a + 1)) + 1 by omega, List.getD_cons_succ]
      · rw [if_neg e2, if_neg (by omega)]

theorem bytes_length (m : Memory) (a n : Nat) : (m.bytes a n).length = n := by simp [Memory.bytes]

end Memory

/-! ## Bytes and numbers (R3) -/

theorem natLE_length (n v : Nat) : (natLE n v).length = n := by
  induction n generalizing v with
  | zero => rfl
  | succ n ih => simp [natLE, ih]

theorem leNat_natLE (n v : Nat) : leNat (natLE n v) = v % 256 ^ n := by
  induction n generalizing v with
  | zero => simp [natLE, leNat, Nat.mod_one]
  | succ n ih =>
    simp only [natLE, leNat, ih, BitVec.toNat_ofNat]
    rw [show (2 : Nat) ^ 8 = 256 from rfl, Nat.pow_succ, Nat.mul_comm (256 ^ n) 256, Nat.mod_mul]

theorem leNat_lt (bs : List Byte) : leNat bs < 256 ^ bs.length := by
  induction bs with
  | nil => simp [leNat]
  | cons b bs ih =>
    have := b.isLt
    simp only [leNat, List.length_cons, Nat.pow_succ]
    omega

end Sys2Proof.Machine
end

