-- ==== Sys2Proof/Laws/PerInstr.lean ====
section
/-! SUPPORT. The round trip of every instruction (R29, R46, R48): a well-formed instruction that has a word decodes from its
encoding, whatever bytes follow. A step without a word has no encoding. -/

set_option Elab.async false

namespace Sys2Proof.Laws.RoundTrip

/-- A well-formed instruction that has a word decodes from its encoding as itself. -/
def Statement (i : Instr) : Prop :=
  i.wf = true → i.len ≠ 0 → ∀ rest, decode (encodeBytes i ++ rest) = .ok (i, rest)

theorem of_word {w : Nat} {i : Instr} (odd : w % 2 = 1) (lt : w < 4294967296) (h : decodeWord w = some i)
    (he : encodeBytes i = bytesOf 4 w) : Statement i := by
  intro _ _ rest
  rw [he]
  exact decode_word rest odd lt h

theorem of_half {w : Nat} {i : Instr} (even : w % 2 = 0) (lt : w < 65536) (h : decodeHalf w = some i)
    (he : encodeBytes i = bytesOf 2 w) : Statement i := by
  intro _ _ rest
  rw [he]
  exact decode_half rest even lt h

theorem l_zero (l : BitVec 4) : (l.toNat == 0) = (l == 0) := by revert l; decide
theorem ord_zero (o : BitVec 2) : (o.toNat == 0) = (o == 0) := by revert o; decide
theorem ord_two (o : BitVec 2) : (o.toNat == 2) = (o == 2) := by revert o; decide

/-! ## Fields of a word, one lemma for each layout -/

theorem seg0 {c k0 k1 x0 x1 x2 : Nat} (hc : c = 1 + k0 * 2 + k1 * 33554432) (bk0 : k0 < 64) (bk1 : k1 < 128) (bx0 : x0 < 64) (bx1 : x1 < 64) (bx2 : x2 < 64) :
    (c + x0 * 128 + x1 * 8192 + x2 * 524288) % 2 = 1 ∧
    c + x0 * 128 + x1 * 8192 + x2 * 524288 < 4294967296 ∧
    fld (c + x0 * 128 + x1 * 8192 + x2 * 524288) 1 6 = k0 ∧
    fld (c + x0 * 128 + x1 * 8192 + x2 * 524288) 7 6 = x0 ∧
    fld (c + x0 * 128 + x1 * 8192 + x2 * 524288) 13 6 = x1 ∧
    fld (c + x0 * 128 + x1 * 8192 + x2 * 524288) 19 6 = x2 ∧
    fld (c + x0 * 128 + x1 * 8192 + x2 * 524288) 25 7 = k1 := by
  simp only [fld]
  refine ⟨?_, ?_, ?_, ?_, ?_, ?_, ?_⟩ <;> omega

theorem seg1 {c k0 k1 x0 x1 x2 x3 : Nat} (hc : c = 1 + k0 * 2 + k1 * 536870912) (bk0 : k0 < 64) (bk1 : k1 < 8) (bx0 : x0 < 64) (bx1 : x1 < 64) (bx2 : x2 < 64) (bx3 : x3 < 16) :
    (c + x0 * 128 + x1 * 8192 + x2 * 524288 + x3 * 33554432) % 2 = 1 ∧
    c + x0 * 128 + x1 * 8192 + x2 * 524288 + x3 * 33554432 < 4294967296 ∧
    fld (c + x0 * 128 + x1 * 8192 + x2 * 524288 + x3 * 33554432) 1 6 = k0 ∧
    fld (c + x0 * 128 + x1 * 8192 + x2 * 524288 + x3 * 33554432) 7 6 = x0 ∧
    fld (c + x0 * 128 + x1 * 8192 + x2 * 524288 + x3 * 33554432) 13 6 = x1 ∧
    fld (c + x0 * 128 + x1 * 8192 + x2 * 524288 + x3 * 33554432) 19 6 = x2 ∧
    fld (c + x0 * 128 + x1 * 8192 + x2 * 524288 + x3 * 33554432) 25 4 = x3 ∧
    fld (c + x0 * 128 + x1 * 8192 + x2 * 524288 + x3 * 33554432) 29 3 = k1 := by
  simp only [fld]
  refine ⟨?_, ?_, ?_, ?_, ?_, ?_, ?_, ?_⟩ <;> omega

theorem seg2 {c k0 k1 k2 x0 x1 : Nat} (hc : c = 1 + k0 * 2 + k1 * 524288 + k2 * 33554432) (bk0 : k0 < 64) (bk1 : k1 < 64) (bk2 : k2 < 128) (bx0 : x0 < 64) (bx1 : x1 < 64) :
    (c + x0 * 128 + x1 * 8192) % 2 = 1 ∧
    c + x0 * 128 + x1 * 8192 < 4294967296 ∧
    fld (c + x0 * 128 + x1 * 8192) 1 6 = k0 ∧
    fld (c + x0 * 128 + x1 * 8192) 7 6 = x0 ∧
    fld (c + x0 * 128 + x1 * 8192) 13 6 = x1 ∧
    fld (c + x0 * 128 + x1 * 8192) 19 6 = k1 ∧
    fld (c + x0 * 128 + x1 * 8192) 25 7 = k2 := by
  simp only [fld]
  refine ⟨?_, ?_, ?_, ?_, ?_, ?_, ?_⟩ <;> omega

theorem seg3 {c k0 k1 x0 x1 x2 x3 : Nat} (hc : c = 1 + k0 * 2 + k1 * 2147483648) (bk0 : k0 < 64) (bk1 : k1 < 2) (bx0 : x0 < 64) (bx1 : x1 < 64) (bx2 : x2 < 64) (bx3 : x3 < 64) :
    (c + x0 * 128 + x1 * 8192 + x2 * 524288 + x3 * 33554432) % 2 = 1 ∧
    c + x0 * 128 + x1 * 8192 + x2 * 524288 + x3 * 33554432 < 4294967296 ∧
    fld (c + x0 * 128 + x1 * 8192 + x2 * 524288 + x3 * 33554432) 1 6 = k0 ∧
    fld (c + x0 * 128 + x1 * 8192 + x2 * 524288 + x3 * 33554432) 7 6 = x0 ∧
    fld (c + x0 * 128 + x1 * 8192 + x2 * 524288 + x3 * 33554432) 13 6 = x1 ∧
    fld (c + x0 * 128 + x1 * 8192 + x2 * 524288 + x3 * 33554432) 19 6 = x2 ∧
    fld (c + x0 * 128 + x1 * 8192 + x2 * 524288 + x3 * 33554432) 25 6 = x3 ∧
    fld (c + x0 * 128 + x1 * 8192 + x2 * 524288 + x3 * 33554432) 31 1 = k1 := by
  simp only [fld]
  refine ⟨?_, ?_, ?_, ?_, ?_, ?_, ?_, ?_⟩ <;> omega

theorem seg4 {c k0 x0 x1 x2 : Nat} (hc : c = 1 + k0 * 2) (bk0 : k0 < 64) (bx0 : x0 < 64) (bx1 : x1 < 64) (bx2 : x2 < 8192) :
    (c + x0 * 128 + x1 * 8192 + x2 * 524288) % 2 = 1 ∧
    c + x0 * 128 + x1 * 8192 + x2 * 524288 < 4294967296 ∧
    fld (c + x0 * 128 + x1 * 8192 + x2 * 524288) 1 6 = k0 ∧
    fld (c + x0 * 128 + x1 * 8192 + x2 * 524288) 7 6 = x0 ∧
    fld (c + x0 * 128 + x1 * 8192 + x2 * 524288) 13 6 = x1 ∧
    fld (c + x0 * 128 + x1 * 8192 + x2 * 524288) 19 13 = x2 := by
  simp only [fld]
  refine ⟨?_, ?_, ?_, ?_, ?_, ?_⟩ <;> omega

theorem seg5 {c k0 k1 k2 x0 x1 x2 : Nat} (hc : c = 1 + k0 * 2 + k1 * 33554432 + k2 * 1073741824) (bk0 : k0 < 64) (bk1 : k1 < 32) (bk2 : k2 < 4) (bx0 : x0 < 64) (bx1 : x1 < 64) (bx2 : x2 < 64) :
    (c + x0 * 128 + x1 * 8192 + x2 * 524288) % 2 = 1 ∧
    c + x0 * 128 + x1 * 8192 + x2 * 524288 < 4294967296 ∧
    fld (c + x0 * 128 + x1 * 8192 + x2 * 524288) 1 6 = k0 ∧
    fld (c + x0 * 128 + x1 * 8192 + x2 * 524288) 7 6 = x0 ∧
    fld (c + x0 * 128 + x1 * 8192 + x2 * 524288) 13 6 = x1 ∧
    fld (c + x0 * 128 + x1 * 8192 + x2 * 524288) 19 6 = x2 ∧
    fld (c + x0 * 128 + x1 * 8192 + x2 * 524288) 25 5 = k1 ∧
    fld (c + x0 * 128 + x1 * 8192 + x2 * 524288) 30 2 = k2 := by
  simp only [fld]
  refine ⟨?_, ?_, ?_, ?_, ?_, ?_, ?_, ?_⟩ <;> omega

theorem seg6 {c k0 x0 x1 : Nat} (hc : c = 1 + k0 * 2) (bk0 : k0 < 64) (bx0 : x0 < 64) (bx1 : x1 < 524288) :
    (c + x0 * 128 + x1 * 8192) % 2 = 1 ∧
    c + x0 * 128 + x1 * 8192 < 4294967296 ∧
    fld (c + x0 * 128 + x1 * 8192) 1 6 = k0 ∧
    fld (c + x0 * 128 + x1 * 8192) 7 6 = x0 ∧
    fld (c + x0 * 128 + x1 * 8192) 13 19 = x1 := by
  simp only [fld]
  refine ⟨?_, ?_, ?_, ?_, ?_⟩ <;> omega

theorem seg7 {c k0 k1 x0 x1 x2 : Nat} (hc : c = 1 + k0 * 2 + k1 * 128) (bk0 : k0 < 64) (bk1 : k1 < 8) (bx0 : x0 < 64) (bx1 : x1 < 64) (bx2 : x2 < 1024) :
    (c + x0 * 1024 + x1 * 65536 + x2 * 4194304) % 2 = 1 ∧
    c + x0 * 1024 + x1 * 65536 + x2 * 4194304 < 4294967296 ∧
    fld (c + x0 * 1024 + x1 * 65536 + x2 * 4194304) 1 6 = k0 ∧
    fld (c + x0 * 1024 + x1 * 65536 + x2 * 4194304) 7 3 = k1 ∧
    fld (c + x0 * 1024 + x1 * 65536 + x2 * 4194304) 10 6 = x0 ∧
    fld (c + x0 * 1024 + x1 * 65536 + x2 * 4194304) 16 6 = x1 ∧
    fld (c + x0 * 1024 + x1 * 65536 + x2 * 4194304) 22 10 = x2 := by
  simp only [fld]
  refine ⟨?_, ?_, ?_, ?_, ?_, ?_, ?_⟩ <;> omega

theorem seg8 {c k0 x0 : Nat} (hc : c = 1 + k0 * 2) (bk0 : k0 < 64) (bx0 : x0 < 33554432) :
    (c + x0 * 128) % 2 = 1 ∧
    c + x0 * 128 < 4294967296 ∧
    fld (c + x0 * 128) 1 6 = k0 ∧
    fld (c + x0 * 128) 7 25 = x0 := by
  simp only [fld]
  refine ⟨?_, ?_, ?_, ?_⟩ <;> omega

theorem seg9 {c k0 k1 x0 x1 x2 : Nat} (hc : c = 1 + k0 * 2 + k1 * 8388608) (bk0 : k0 < 64) (bk1 : k1 < 512) (bx0 : x0 < 64) (bx1 : x1 < 16) (bx2 : x2 < 64) :
    (c + x0 * 128 + x1 * 8192 + x2 * 131072) % 2 = 1 ∧
    c + x0 * 128 + x1 * 8192 + x2 * 131072 < 4294967296 ∧
    fld (c + x0 * 128 + x1 * 8192 + x2 * 131072) 1 6 = k0 ∧
    fld (c + x0 * 128 + x1 * 8192 + x2 * 131072) 7 6 = x0 ∧
    fld (c + x0 * 128 + x1 * 8192 + x2 * 131072) 13 4 = x1 ∧
    fld (c + x0 * 128 + x1 * 8192 + x2 * 131072) 17 6 = x2 ∧
    fld (c + x0 * 128 + x1 * 8192 + x2 * 131072) 23 9 = k1 := by
  simp only [fld]
  refine ⟨?_, ?_, ?_, ?_, ?_, ?_, ?_⟩ <;> omega

theorem seg10 {c k0 k1 k2 k3 : Nat} (hc : c = 1 + k0 * 2 + k1 * 128 + k2 * 524288 + k3 * 33554432) (bk0 : k0 < 64) (bk1 : k1 < 4096) (bk2 : k2 < 64) (bk3 : k3 < 128) :
    (c) % 2 = 1 ∧
    c < 4294967296 ∧
    fld (c) 1 6 = k0 ∧
    fld (c) 7 12 = k1 ∧
    fld (c) 19 6 = k2 ∧
    fld (c) 25 7 = k3 := by
  simp only [fld]
  refine ⟨?_, ?_, ?_, ?_, ?_, ?_⟩ <;> omega

theorem seg11 {c k0 k1 k2 k3 x0 : Nat} (hc : c = 1 + k0 * 2 + k1 * 128 + k2 * 524288 + k3 * 33554432) (bk0 : k0 < 64) (bk1 : k1 < 64) (bk2 : k2 < 64) (bk3 : k3 < 128) (bx0 : x0 < 64) :
    (c + x0 * 8192) % 2 = 1 ∧
    c + x0 * 8192 < 4294967296 ∧
    fld (c + x0 * 8192) 1 6 = k0 ∧
    fld (c + x0 * 8192) 7 6 = k1 ∧
    fld (c + x0 * 8192) 13 6 = x0 ∧
    fld (c + x0 * 8192) 19 6 = k2 ∧
    fld (c + x0 * 8192) 25 7 = k3 := by
  simp only [fld]
  refine ⟨?_, ?_, ?_, ?_, ?_, ?_, ?_⟩ <;> omega

theorem seg12 {c k0 k1 k2 x0 : Nat} (hc : c = 1 + k0 * 2 + k1 * 8192 + k2 * 33554432) (bk0 : k0 < 64) (bk1 : k1 < 4096) (bk2 : k2 < 128) (bx0 : x0 < 64) :
    (c + x0 * 128) % 2 = 1 ∧
    c + x0 * 128 < 4294967296 ∧
    fld (c + x0 * 128) 1 6 = k0 ∧
    fld (c + x0 * 128) 7 6 = x0 ∧
    fld (c + x0 * 128) 13 12 = k1 ∧
    fld (c + x0 * 128) 25 7 = k2 := by
  simp only [fld]
  refine ⟨?_, ?_, ?_, ?_, ?_, ?_⟩ <;> omega

theorem seg13 {c k0 k1 k2 : Nat} (hc : c = 1 + k0 * 2 + k1 * 128 + k2 * 33554432) (bk0 : k0 < 64) (bk1 : k1 < 262144) (bk2 : k2 < 128) :
    (c) % 2 = 1 ∧
    c < 4294967296 ∧
    fld (c) 1 6 = k0 ∧
    fld (c) 7 18 = k1 ∧
    fld (c) 25 7 = k2 := by
  simp only [fld]
  refine ⟨?_, ?_, ?_, ?_, ?_⟩ <;> omega

theorem seg14 {c k0 x0 x1 x2 x3 x4 x5 : Nat} (hc : c = 1 + k0 * 2) (bk0 : k0 < 64) (bx0 : x0 < 64) (bx1 : x1 < 64) (bx2 : x2 < 16) (bx3 : x3 < 4) (bx4 : x4 < 4) (bx5 : x5 < 32) :
    (c + x0 * 128 + x1 * 8192 + x2 * 524288 + x3 * 8388608 + x4 * 33554432 + x5 * 134217728) % 2 = 1 ∧
    c + x0 * 128 + x1 * 8192 + x2 * 524288 + x3 * 8388608 + x4 * 33554432 + x5 * 134217728 < 4294967296 ∧
    fld (c + x0 * 128 + x1 * 8192 + x2 * 524288 + x3 * 8388608 + x4 * 33554432 + x5 * 134217728) 1 6 = k0 ∧
    fld (c + x0 * 128 + x1 * 8192 + x2 * 524288 + x3 * 8388608 + x4 * 33554432 + x5 * 134217728) 7 6 = x0 ∧
    fld (c + x0 * 128 + x1 * 8192 + x2 * 524288 + x3 * 8388608 + x4 * 33554432 + x5 * 134217728) 13 6 = x1 ∧
    fld (c + x0 * 128 + x1 * 8192 + x2 * 524288 + x3 * 8388608 + x4 * 33554432 + x5 * 134217728) 19 4 = x2 ∧
    fld (c + x0 * 128 + x1 * 8192 + x2 * 524288 + x3 * 8388608 + x4 * 33554432 + x5 * 134217728) 23 2 = x3 ∧
    fld (c + x0 * 128 + x1 * 8192 + x2 * 524288 + x3 * 8388608 + x4 * 33554432 + x5 * 134217728) 25 2 = x4 ∧
    fld (c + x0 * 128 + x1 * 8192 + x2 * 524288 + x3 * 8388608 + x4 * 33554432 + x5 * 134217728) 27 5 = x5 := by
  simp only [fld]
  refine ⟨?_, ?_, ?_, ?_, ?_, ?_, ?_, ?_, ?_⟩ <;> omega

theorem seg15 {c k0 k1 x0 x1 x2 x3 x4 : Nat} (hc : c = 1 + k0 * 2 + k1 * 524288) (bk0 : k0 < 64) (bk1 : k1 < 16) (bx0 : x0 < 64) (bx1 : x1 < 64) (bx2 : x2 < 4) (bx3 : x3 < 4) (bx4 : x4 < 32) :
    (c + x0 * 128 + x1 * 8192 + x2 * 8388608 + x3 * 33554432 + x4 * 134217728) % 2 = 1 ∧
    c + x0 * 128 + x1 * 8192 + x2 * 8388608 + x3 * 33554432 + x4 * 134217728 < 4294967296 ∧
    fld (c + x0 * 128 + x1 * 8192 + x2 * 8388608 + x3 * 33554432 + x4 * 134217728) 1 6 = k0 ∧
    fld (c + x0 * 128 + x1 * 8192 + x2 * 8388608 + x3 * 33554432 + x4 * 134217728) 7 6 = x0 ∧
    fld (c + x0 * 128 + x1 * 8192 + x2 * 8388608 + x3 * 33554432 + x4 * 134217728) 13 6 = x1 ∧
    fld (c + x0 * 128 + x1 * 8192 + x2 * 8388608 + x3 * 33554432 + x4 * 134217728) 19 4 = k1 ∧
    fld (c + x0 * 128 + x1 * 8192 + x2 * 8388608 + x3 * 33554432 + x4 * 134217728) 23 2 = x2 ∧
    fld (c + x0 * 128 + x1 * 8192 + x2 * 8388608 + x3 * 33554432 + x4 * 134217728) 25 2 = x3 ∧
    fld (c + x0 * 128 + x1 * 8192 + x2 * 8388608 + x3 * 33554432 + x4 * 134217728) 27 5 = x4 := by
  simp only [fld]
  refine ⟨?_, ?_, ?_, ?_, ?_, ?_, ?_, ?_, ?_⟩ <;> omega

theorem seg16 {c k0 k1 x0 x1 x2 x3 x4 : Nat} (hc : c = 1 + k0 * 2 + k1 * 8388608) (bk0 : k0 < 64) (bk1 : k1 < 4) (bx0 : x0 < 64) (bx1 : x1 < 64) (bx2 : x2 < 16) (bx3 : x3 < 4) (bx4 : x4 < 32) :
    (c + x0 * 128 + x1 * 8192 + x2 * 524288 + x3 * 33554432 + x4 * 134217728) % 2 = 1 ∧
    c + x0 * 128 + x1 * 8192 + x2 * 524288 + x3 * 33554432 + x4 * 134217728 < 4294967296 ∧
    fld (c + x0 * 128 + x1 * 8192 + x2 * 524288 + x3 * 33554432 + x4 * 134217728) 1 6 = k0 ∧
    fld (c + x0 * 128 + x1 * 8192 + x2 * 524288 + x3 * 33554432 + x4 * 134217728) 7 6 = x0 ∧
    fld (c + x0 * 128 + x1 * 8192 + x2 * 524288 + x3 * 33554432 + x4 * 134217728) 13 6 = x1 ∧
    fld (c + x0 * 128 + x1 * 8192 + x2 * 524288 + x3 * 33554432 + x4 * 134217728) 19 4 = x2 ∧
    fld (c + x0 * 128 + x1 * 8192 + x2 * 524288 + x3 * 33554432 + x4 * 134217728) 23 2 = k1 ∧
    fld (c + x0 * 128 + x1 * 8192 + x2 * 524288 + x3 * 33554432 + x4 * 134217728) 25 2 = x3 ∧
    fld (c + x0 * 128 + x1 * 8192 + x2 * 524288 + x3 * 33554432 + x4 * 134217728) 27 5 = x4 := by
  simp only [fld]
  refine ⟨?_, ?_, ?_, ?_, ?_, ?_, ?_, ?_, ?_⟩ <;> omega

theorem seg17 {c k0 k1 k2 x0 x1 x2 x3 : Nat} (hc : c = 1 + k0 * 2 + k1 * 524288 + k2 * 8388608) (bk0 : k0 < 64) (bk1 : k1 < 16) (bk2 : k2 < 4) (bx0 : x0 < 64) (bx1 : x1 < 64) (bx2 : x2 < 4) (bx3 : x3 < 32) :
    (c + x0 * 128 + x1 * 8192 + x2 * 33554432 + x3 * 134217728) % 2 = 1 ∧
    c + x0 * 128 + x1 * 8192 + x2 * 33554432 + x3 * 134217728 < 4294967296 ∧
    fld (c + x0 * 128 + x1 * 8192 + x2 * 33554432 + x3 * 134217728) 1 6 = k0 ∧
    fld (c + x0 * 128 + x1 * 8192 + x2 * 33554432 + x3 * 134217728) 7 6 = x0 ∧
    fld (c + x0 * 128 + x1 * 8192 + x2 * 33554432 + x3 * 134217728) 13 6 = x1 ∧
    fld (c + x0 * 128 + x1 * 8192 + x2 * 33554432 + x3 * 134217728) 19 4 = k1 ∧
    fld (c + x0 * 128 + x1 * 8192 + x2 * 33554432 + x3 * 134217728) 23 2 = k2 ∧
    fld (c + x0 * 128 + x1 * 8192 + x2 * 33554432 + x3 * 134217728) 25 2 = x2 ∧
    fld (c + x0 * 128 + x1 * 8192 + x2 * 33554432 + x3 * 134217728) 27 5 = x3 := by
  simp only [fld]
  refine ⟨?_, ?_, ?_, ?_, ?_, ?_, ?_, ?_, ?_⟩ <;> omega

theorem seg18 {c k0 k1 k2 k3 x0 x1 x2 : Nat} (hc : c = 1 + k0 * 2 + k1 * 128 + k2 * 524288 + k3 * 8388608) (bk0 : k0 < 64) (bk1 : k1 < 64) (bk2 : k2 < 16) (bk3 : k3 < 4) (bx0 : x0 < 64) (bx1 : x1 < 4) (bx2 : x2 < 32) :
    (c + x0 * 8192 + x1 * 33554432 + x2 * 134217728) % 2 = 1 ∧
    c + x0 * 8192 + x1 * 33554432 + x2 * 134217728 < 4294967296 ∧
    fld (c + x0 * 8192 + x1 * 33554432 + x2 * 134217728) 1 6 = k0 ∧
    fld (c + x0 * 8192 + x1 * 33554432 + x2 * 134217728) 7 6 = k1 ∧
    fld (c + x0 * 8192 + x1 * 33554432 + x2 * 134217728) 13 6 = x0 ∧
    fld (c + x0 * 8192 + x1 * 33554432 + x2 * 134217728) 19 4 = k2 ∧
    fld (c + x0 * 8192 + x1 * 33554432 + x2 * 134217728) 23 2 = k3 ∧
    fld (c + x0 * 8192 + x1 * 33554432 + x2 * 134217728) 25 2 = x1 ∧
    fld (c + x0 * 8192 + x1 * 33554432 + x2 * 134217728) 27 5 = x2 := by
  simp only [fld]
  refine ⟨?_, ?_, ?_, ?_, ?_, ?_, ?_, ?_, ?_⟩ <;> omega

theorem seg19 {c k0 k1 k2 x0 x1 : Nat} (hc : c = 1 + k0 * 2 + k1 * 128 + k2 * 33554432) (bk0 : k0 < 64) (bk1 : k1 < 64) (bk2 : k2 < 128) (bx0 : x0 < 64) (bx1 : x1 < 64) :
    (c + x0 * 8192 + x1 * 524288) % 2 = 1 ∧
    c + x0 * 8192 + x1 * 524288 < 4294967296 ∧
    fld (c + x0 * 8192 + x1 * 524288) 1 6 = k0 ∧
    fld (c + x0 * 8192 + x1 * 524288) 7 6 = k1 ∧
    fld (c + x0 * 8192 + x1 * 524288) 13 6 = x0 ∧
    fld (c + x0 * 8192 + x1 * 524288) 19 6 = x1 ∧
    fld (c + x0 * 8192 + x1 * 524288) 25 7 = k2 := by
  simp only [fld]
  refine ⟨?_, ?_, ?_, ?_, ?_, ?_, ?_⟩ <;> omega

theorem seg20 {c k0 k1 x0 x1 x2 x3 : Nat} (hc : c = 1 + k0 * 2 + k1 * 8388608) (bk0 : k0 < 64) (bk1 : k1 < 16) (bx0 : x0 < 64) (bx1 : x1 < 64) (bx2 : x2 < 16) (bx3 : x3 < 32) :
    (c + x0 * 128 + x1 * 8192 + x2 * 524288 + x3 * 134217728) % 2 = 1 ∧
    c + x0 * 128 + x1 * 8192 + x2 * 524288 + x3 * 134217728 < 4294967296 ∧
    fld (c + x0 * 128 + x1 * 8192 + x2 * 524288 + x3 * 134217728) 1 6 = k0 ∧
    fld (c + x0 * 128 + x1 * 8192 + x2 * 524288 + x3 * 134217728) 7 6 = x0 ∧
    fld (c + x0 * 128 + x1 * 8192 + x2 * 524288 + x3 * 134217728) 13 6 = x1 ∧
    fld (c + x0 * 128 + x1 * 8192 + x2 * 524288 + x3 * 134217728) 19 4 = x2 ∧
    fld (c + x0 * 128 + x1 * 8192 + x2 * 524288 + x3 * 134217728) 23 4 = k1 ∧
    fld (c + x0 * 128 + x1 * 8192 + x2 * 524288 + x3 * 134217728) 27 5 = x3 := by
  simp only [fld]
  refine ⟨?_, ?_, ?_, ?_, ?_, ?_, ?_, ?_⟩ <;> omega

theorem seg21 {c k0 k1 x0 x1 x2 x3 x4 x5 : Nat} (hc : c = 1 + k0 * 2 + k1 * 8388608) (bk0 : k0 < 64) (bk1 : k1 < 16) (bx0 : x0 < 64) (bx1 : x1 < 64) (bx2 : x2 < 16) (bx3 : x3 < 4) (bx4 : x4 < 4) (bx5 : x5 < 2) :
    (c + x0 * 128 + x1 * 8192 + x2 * 524288 + x3 * 134217728 + x4 * 536870912 + x5 * 2147483648) % 2 = 1 ∧
    c + x0 * 128 + x1 * 8192 + x2 * 524288 + x3 * 134217728 + x4 * 536870912 + x5 * 2147483648 < 4294967296 ∧
    fld (c + x0 * 128 + x1 * 8192 + x2 * 524288 + x3 * 134217728 + x4 * 536870912 + x5 * 2147483648) 1 6 = k0 ∧
    fld (c + x0 * 128 + x1 * 8192 + x2 * 524288 + x3 * 134217728 + x4 * 536870912 + x5 * 2147483648) 7 6 = x0 ∧
    fld (c + x0 * 128 + x1 * 8192 + x2 * 524288 + x3 * 134217728 + x4 * 536870912 + x5 * 2147483648) 13 6 = x1 ∧
    fld (c + x0 * 128 + x1 * 8192 + x2 * 524288 + x3 * 134217728 + x4 * 536870912 + x5 * 2147483648) 19 4 = x2 ∧
    fld (c + x0 * 128 + x1 * 8192 + x2 * 524288 + x3 * 134217728 + x4 * 536870912 + x5 * 2147483648) 23 4 = k1 ∧
    fld (c + x0 * 128 + x1 * 8192 + x2 * 524288 + x3 * 134217728 + x4 * 536870912 + x5 * 2147483648) 27 2 = x3 ∧
    fld (c + x0 * 128 + x1 * 8192 + x2 * 524288 + x3 * 134217728 + x4 * 536870912 + x5 * 2147483648) 29 2 = x4 ∧
    fld (c + x0 * 128 + x1 * 8192 + x2 * 524288 + x3 * 134217728 + x4 * 536870912 + x5 * 2147483648) 31 1 = x5 := by
  simp only [fld]
  refine ⟨?_, ?_, ?_, ?_, ?_, ?_, ?_, ?_, ?_, ?_⟩ <;> omega

theorem seg22 {c k0 k1 k2 x0 x1 x2 x3 x4 : Nat} (hc : c = 1 + k0 * 2 + k1 * 524288 + k2 * 8388608) (bk0 : k0 < 64) (bk1 : k1 < 16) (bk2 : k2 < 16) (bx0 : x0 < 64) (bx1 : x1 < 64) (bx2 : x2 < 4) (bx3 : x3 < 4) (bx4 : x4 < 2) :
    (c + x0 * 128 + x1 * 8192 + x2 * 134217728 + x3 * 536870912 + x4 * 2147483648) % 2 = 1 ∧
    c + x0 * 128 + x1 * 8192 + x2 * 134217728 + x3 * 536870912 + x4 * 2147483648 < 4294967296 ∧
    fld (c + x0 * 128 + x1 * 8192 + x2 * 134217728 + x3 * 536870912 + x4 * 2147483648) 1 6 = k0 ∧
    fld (c + x0 * 128 + x1 * 8192 + x2 * 134217728 + x3 * 536870912 + x4 * 2147483648) 7 6 = x0 ∧
    fld (c + x0 * 128 + x1 * 8192 + x2 * 134217728 + x3 * 536870912 + x4 * 2147483648) 13 6 = x1 ∧
    fld (c + x0 * 128 + x1 * 8192 + x2 * 134217728 + x3 * 536870912 + x4 * 2147483648) 19 4 = k1 ∧
    fld (c + x0 * 128 + x1 * 8192 + x2 * 134217728 + x3 * 536870912 + x4 * 2147483648) 23 4 = k2 ∧
    fld (c + x0 * 128 + x1 * 8192 + x2 * 134217728 + x3 * 536870912 + x4 * 2147483648) 27 2 = x2 ∧
    fld (c + x0 * 128 + x1 * 8192 + x2 * 134217728 + x3 * 536870912 + x4 * 2147483648) 29 2 = x3 ∧
    fld (c + x0 * 128 + x1 * 8192 + x2 * 134217728 + x3 * 536870912 + x4 * 2147483648) 31 1 = x4 := by
  simp only [fld]
  refine ⟨?_, ?_, ?_, ?_, ?_, ?_, ?_, ?_, ?_, ?_⟩ <;> omega

theorem seg23 {c k0 k1 x0 x1 x2 x3 x4 x5 : Nat} (hc : c = 1 + k0 * 2 + k1 * 268435456) (bk0 : k0 < 64) (bk1 : k1 < 16) (bx0 : x0 < 64) (bx1 : x1 < 64) (bx2 : x2 < 16) (bx3 : x3 < 4) (bx4 : x4 < 4) (bx5 : x5 < 2) :
    (c + x0 * 128 + x1 * 8192 + x2 * 524288 + x3 * 8388608 + x4 * 33554432 + x5 * 134217728) % 2 = 1 ∧
    c + x0 * 128 + x1 * 8192 + x2 * 524288 + x3 * 8388608 + x4 * 33554432 + x5 * 134217728 < 4294967296 ∧
    fld (c + x0 * 128 + x1 * 8192 + x2 * 524288 + x3 * 8388608 + x4 * 33554432 + x5 * 134217728) 1 6 = k0 ∧
    fld (c + x0 * 128 + x1 * 8192 + x2 * 524288 + x3 * 8388608 + x4 * 33554432 + x5 * 134217728) 7 6 = x0 ∧
    fld (c + x0 * 128 + x1 * 8192 + x2 * 524288 + x3 * 8388608 + x4 * 33554432 + x5 * 134217728) 13 6 = x1 ∧
    fld (c + x0 * 128 + x1 * 8192 + x2 * 524288 + x3 * 8388608 + x4 * 33554432 + x5 * 134217728) 19 4 = x2 ∧
    fld (c + x0 * 128 + x1 * 8192 + x2 * 524288 + x3 * 8388608 + x4 * 33554432 + x5 * 134217728) 23 2 = x3 ∧
    fld (c + x0 * 128 + x1 * 8192 + x2 * 524288 + x3 * 8388608 + x4 * 33554432 + x5 * 134217728) 25 2 = x4 ∧
    fld (c + x0 * 128 + x1 * 8192 + x2 * 524288 + x3 * 8388608 + x4 * 33554432 + x5 * 134217728) 27 1 = x5 ∧
    fld (c + x0 * 128 + x1 * 8192 + x2 * 524288 + x3 * 8388608 + x4 * 33554432 + x5 * 134217728) 28 4 = k1 := by
  simp only [fld]
  refine ⟨?_, ?_, ?_, ?_, ?_, ?_, ?_, ?_, ?_, ?_⟩ <;> omega

theorem seg24 {c k0 k1 k2 x0 : Nat} (hc : c = 1 + k0 * 2 + k1 * 128 + k2 * 33554432) (bk0 : k0 < 64) (bk1 : k1 < 4096) (bk2 : k2 < 128) (bx0 : x0 < 64) :
    (c + x0 * 524288) % 2 = 1 ∧
    c + x0 * 524288 < 4294967296 ∧
    fld (c + x0 * 524288) 1 6 = k0 ∧
    fld (c + x0 * 524288) 7 12 = k1 ∧
    fld (c + x0 * 524288) 19 6 = x0 ∧
    fld (c + x0 * 524288) 25 7 = k2 := by
  simp only [fld]
  refine ⟨?_, ?_, ?_, ?_, ?_, ?_⟩ <;> omega

theorem seg25 {c k0 k1 x0 x1 x2 : Nat} (hc : c = 1 + k0 * 2 + k1 * 268435456) (bk0 : k0 < 64) (bk1 : k1 < 16) (bx0 : x0 < 128) (bx1 : x1 < 128) (bx2 : x2 < 128) :
    (c + x0 * 128 + x1 * 16384 + x2 * 2097152) % 2 = 1 ∧
    c + x0 * 128 + x1 * 16384 + x2 * 2097152 < 4294967296 ∧
    fld (c + x0 * 128 + x1 * 16384 + x2 * 2097152) 1 6 = k0 ∧
    fld (c + x0 * 128 + x1 * 16384 + x2 * 2097152) 7 7 = x0 ∧
    fld (c + x0 * 128 + x1 * 16384 + x2 * 2097152) 14 7 = x1 ∧
    fld (c + x0 * 128 + x1 * 16384 + x2 * 2097152) 21 7 = x2 ∧
    fld (c + x0 * 128 + x1 * 16384 + x2 * 2097152) 28 4 = k1 := by
  simp only [fld]
  refine ⟨?_, ?_, ?_, ?_, ?_, ?_, ?_⟩ <;> omega

theorem seg26 {c k0 k1 k2 x0 x1 : Nat} (hc : c = 1 + k0 * 2 + k1 * 2097152 + k2 * 268435456) (bk0 : k0 < 64) (bk1 : k1 < 128) (bk2 : k2 < 16) (bx0 : x0 < 128) (bx1 : x1 < 128) :
    (c + x0 * 128 + x1 * 16384) % 2 = 1 ∧
    c + x0 * 128 + x1 * 16384 < 4294967296 ∧
    fld (c + x0 * 128 + x1 * 16384) 1 6 = k0 ∧
    fld (c + x0 * 128 + x1 * 16384) 7 7 = x0 ∧
    fld (c + x0 * 128 + x1 * 16384) 14 7 = x1 ∧
    fld (c + x0 * 128 + x1 * 16384) 21 7 = k1 ∧
    fld (c + x0 * 128 + x1 * 16384) 28 4 = k2 := by
  simp only [fld]
  refine ⟨?_, ?_, ?_, ?_, ?_, ?_, ?_⟩ <;> omega

theorem seg27 {c k0 k1 k2 k3 x0 : Nat} (hc : c = 1 + k0 * 2 + k1 * 128 + k2 * 2097152 + k3 * 268435456) (bk0 : k0 < 64) (bk1 : k1 < 128) (bk2 : k2 < 128) (bk3 : k3 < 16) (bx0 : x0 < 128) :
    (c + x0 * 16384) % 2 = 1 ∧
    c + x0 * 16384 < 4294967296 ∧
    fld (c + x0 * 16384) 1 6 = k0 ∧
    fld (c + x0 * 16384) 7 7 = k1 ∧
    fld (c + x0 * 16384) 14 7 = x0 ∧
    fld (c + x0 * 16384) 21 7 = k2 ∧
    fld (c + x0 * 16384) 28 4 = k3 := by
  simp only [fld]
  refine ⟨?_, ?_, ?_, ?_, ?_, ?_, ?_⟩ <;> omega

theorem seg28 {c k0 k1 k2 k3 x0 x1 : Nat} (hc : c = 1 + k0 * 2 + k1 * 8192 + k2 * 2097152 + k3 * 268435456) (bk0 : k0 < 64) (bk1 : k1 < 2) (bk2 : k2 < 128) (bk3 : k3 < 16) (bx0 : x0 < 64) (bx1 : x1 < 128) :
    (c + x0 * 128 + x1 * 16384) % 2 = 1 ∧
    c + x0 * 128 + x1 * 16384 < 4294967296 ∧
    fld (c + x0 * 128 + x1 * 16384) 1 6 = k0 ∧
    fld (c + x0 * 128 + x1 * 16384) 7 6 = x0 ∧
    fld (c + x0 * 128 + x1 * 16384) 13 1 = k1 ∧
    fld (c + x0 * 128 + x1 * 16384) 14 7 = x1 ∧
    fld (c + x0 * 128 + x1 * 16384) 21 7 = k2 ∧
    fld (c + x0 * 128 + x1 * 16384) 28 4 = k3 := by
  simp only [fld]
  refine ⟨?_, ?_, ?_, ?_, ?_, ?_, ?_, ?_⟩ <;> omega

theorem seg29 {c k0 k1 k2 x0 x1 x2 : Nat} (hc : c = 1 + k0 * 2 + k1 * 134217728 + k2 * 268435456) (bk0 : k0 < 64) (bk1 : k1 < 2) (bk2 : k2 < 16) (bx0 : x0 < 128) (bx1 : x1 < 128) (bx2 : x2 < 64) :
    (c + x0 * 128 + x1 * 16384 + x2 * 2097152) % 2 = 1 ∧
    c + x0 * 128 + x1 * 16384 + x2 * 2097152 < 4294967296 ∧
    fld (c + x0 * 128 + x1 * 16384 + x2 * 2097152) 1 6 = k0 ∧
    fld (c + x0 * 128 + x1 * 16384 + x2 * 2097152) 7 7 = x0 ∧
    fld (c + x0 * 128 + x1 * 16384 + x2 * 2097152) 14 7 = x1 ∧
    fld (c + x0 * 128 + x1 * 16384 + x2 * 2097152) 21 6 = x2 ∧
    fld (c + x0 * 128 + x1 * 16384 + x2 * 2097152) 27 1 = k1 ∧
    fld (c + x0 * 128 + x1 * 16384 + x2 * 2097152) 28 4 = k2 := by
  simp only [fld]
  refine ⟨?_, ?_, ?_, ?_, ?_, ?_, ?_, ?_⟩ <;> omega

theorem seg30 {c k0 k1 k2 k3 x0 x1 x2 : Nat} (hc : c = 1 + k0 * 2 + k1 * 8192 + k2 * 134217728 + k3 * 268435456) (bk0 : k0 < 64) (bk1 : k1 < 2) (bk2 : k2 < 2) (bk3 : k3 < 16) (bx0 : x0 < 64) (bx1 : x1 < 128) (bx2 : x2 < 64) :
    (c + x0 * 128 + x1 * 16384 + x2 * 2097152) % 2 = 1 ∧
    c + x0 * 128 + x1 * 16384 + x2 * 2097152 < 4294967296 ∧
    fld (c + x0 * 128 + x1 * 16384 + x2 * 2097152) 1 6 = k0 ∧
    fld (c + x0 * 128 + x1 * 16384 + x2 * 2097152) 7 6 = x0 ∧
    fld (c + x0 * 128 + x1 * 16384 + x2 * 2097152) 13 1 = k1 ∧
    fld (c + x0 * 128 + x1 * 16384 + x2 * 2097152) 14 7 = x1 ∧
    fld (c + x0 * 128 + x1 * 16384 + x2 * 2097152) 21 6 = x2 ∧
    fld (c + x0 * 128 + x1 * 16384 + x2 * 2097152) 27 1 = k2 ∧
    fld (c + x0 * 128 + x1 * 16384 + x2 * 2097152) 28 4 = k3 := by
  simp only [fld]
  refine ⟨?_, ?_, ?_, ?_, ?_, ?_, ?_, ?_, ?_⟩ <;> omega

theorem seg31 {c k0 k1 k2 k3 x0 x1 x2 : Nat} (hc : c = 1 + k0 * 2 + k1 * 1048576 + k2 * 134217728 + k3 * 268435456) (bk0 : k0 < 64) (bk1 : k1 < 2) (bk2 : k2 < 2) (bk3 : k3 < 16) (bx0 : x0 < 128) (bx1 : x1 < 64) (bx2 : x2 < 64) :
    (c + x0 * 128 + x1 * 16384 + x2 * 2097152) % 2 = 1 ∧
    c + x0 * 128 + x1 * 16384 + x2 * 2097152 < 4294967296 ∧
    fld (c + x0 * 128 + x1 * 16384 + x2 * 2097152) 1 6 = k0 ∧
    fld (c + x0 * 128 + x1 * 16384 + x2 * 2097152) 7 7 = x0 ∧
    fld (c + x0 * 128 + x1 * 16384 + x2 * 2097152) 14 6 = x1 ∧
    fld (c + x0 * 128 + x1 * 16384 + x2 * 2097152) 20 1 = k1 ∧
    fld (c + x0 * 128 + x1 * 16384 + x2 * 2097152) 21 6 = x2 ∧
    fld (c + x0 * 128 + x1 * 16384 + x2 * 2097152) 27 1 = k2 ∧
    fld (c + x0 * 128 + x1 * 16384 + x2 * 2097152) 28 4 = k3 := by
  simp only [fld]
  refine ⟨?_, ?_, ?_, ?_, ?_, ?_, ?_, ?_, ?_⟩ <;> omega

theorem seg32 {c k0 k1 k2 x0 x1 x2 : Nat} (hc : c = 1 + k0 * 2 + k1 * 8192 + k2 * 268435456) (bk0 : k0 < 64) (bk1 : k1 < 2) (bk2 : k2 < 16) (bx0 : x0 < 64) (bx1 : x1 < 128) (bx2 : x2 < 128) :
    (c + x0 * 128 + x1 * 16384 + x2 * 2097152) % 2 = 1 ∧
    c + x0 * 128 + x1 * 16384 + x2 * 2097152 < 4294967296 ∧
    fld (c + x0 * 128 + x1 * 16384 + x2 * 2097152) 1 6 = k0 ∧
    fld (c + x0 * 128 + x1 * 16384 + x2 * 2097152) 7 6 = x0 ∧
    fld (c + x0 * 128 + x1 * 16384 + x2 * 2097152) 13 1 = k1 ∧
    fld (c + x0 * 128 + x1 * 16384 + x2 * 2097152) 14 7 = x1 ∧
    fld (c + x0 * 128 + x1 * 16384 + x2 * 2097152) 21 7 = x2 ∧
    fld (c + x0 * 128 + x1 * 16384 + x2 * 2097152) 28 4 = k2 := by
  simp only [fld]
  refine ⟨?_, ?_, ?_, ?_, ?_, ?_, ?_, ?_⟩ <;> omega

theorem seg33 {c k0 k1 k2 x0 : Nat} (hc : c = 1 + k0 * 2 + k1 * 16384 + k2 * 268435456) (bk0 : k0 < 64) (bk1 : k1 < 16384) (bk2 : k2 < 16) (bx0 : x0 < 128) :
    (c + x0 * 128) % 2 = 1 ∧
    c + x0 * 128 < 4294967296 ∧
    fld (c + x0 * 128) 1 6 = k0 ∧
    fld (c + x0 * 128) 7 7 = x0 ∧
    fld (c + x0 * 128) 14 14 = k1 ∧
    fld (c + x0 * 128) 28 4 = k2 := by
  simp only [fld]
  refine ⟨?_, ?_, ?_, ?_, ?_, ?_⟩ <;> omega

theorem seg34 {c k0 x0 x1 : Nat} (hc : c = 0 + k0 * 2) (bk0 : k0 < 16) (bx0 : x0 < 64) (bx1 : x1 < 32) :
    (c + x0 * 32 + x1 * 2048) % 2 = 0 ∧
    c + x0 * 32 + x1 * 2048 < 65536 ∧
    fld (c + x0 * 32 + x1 * 2048) 1 4 = k0 ∧
    fld (c + x0 * 32 + x1 * 2048) 5 6 = x0 ∧
    fld (c + x0 * 32 + x1 * 2048) 11 5 = x1 := by
  simp only [fld]
  refine ⟨?_, ?_, ?_, ?_, ?_⟩ <;> omega

theorem seg35 {c k0 k1 k2 x0 x1 x2 : Nat} (hc : c = 1 + k0 * 2 + k1 * 524288 + k2 * 33554432) (bk0 : k0 < 64) (bk1 : k1 < 64) (bk2 : k2 < 128) (bx0 : x0 < 16) (bx1 : x1 < 16) (bx2 : x2 < 16) :
    (c + x0 * 128 + x1 * 2048 + x2 * 32768) % 2 = 1 ∧
    c + x0 * 128 + x1 * 2048 + x2 * 32768 < 4294967296 ∧
    fld (c + x0 * 128 + x1 * 2048 + x2 * 32768) 1 6 = k0 ∧
    fld (c + x0 * 128 + x1 * 2048 + x2 * 32768) 7 4 = x0 ∧
    fld (c + x0 * 128 + x1 * 2048 + x2 * 32768) 11 4 = x1 ∧
    fld (c + x0 * 128 + x1 * 2048 + x2 * 32768) 15 4 = x2 ∧
    fld (c + x0 * 128 + x1 * 2048 + x2 * 32768) 19 6 = k1 ∧
    fld (c + x0 * 128 + x1 * 2048 + x2 * 32768) 25 7 = k2 := by
  simp only [fld]
  refine ⟨?_, ?_, ?_, ?_, ?_, ?_, ?_, ?_⟩ <;> omega

theorem seg36 {c k0 k1 k2 x0 x1 : Nat} (hc : c = 1 + k0 * 2 + k1 * 32768 + k2 * 33554432) (bk0 : k0 < 64) (bk1 : k1 < 1024) (bk2 : k2 < 128) (bx0 : x0 < 16) (bx1 : x1 < 16) :
    (c + x0 * 128 + x1 * 2048) % 2 = 1 ∧
    c + x0 * 128 + x1 * 2048 < 4294967296 ∧
    fld (c + x0 * 128 + x1 * 2048) 1 6 = k0 ∧
    fld (c + x0 * 128 + x1 * 2048) 7 4 = x0 ∧
    fld (c + x0 * 128 + x1 * 2048) 11 4 = x1 ∧
    fld (c + x0 * 128 + x1 * 2048) 15 10 = k1 ∧
    fld (c + x0 * 128 + x1 * 2048) 25 7 = k2 := by
  simp only [fld]
  refine ⟨?_, ?_, ?_, ?_, ?_, ?_, ?_⟩ <;> omega

theorem seg37 {c k0 k1 k2 x0 x1 : Nat} (hc : c = 1 + k0 * 2 + k1 * 2048 + k2 * 33554432) (bk0 : k0 < 64) (bk1 : k1 < 256) (bk2 : k2 < 128) (bx0 : x0 < 16) (bx1 : x1 < 64) :
    (c + x0 * 128 + x1 * 524288) % 2 = 1 ∧
    c + x0 * 128 + x1 * 524288 < 4294967296 ∧
    fld (c + x0 * 128 + x1 * 524288) 1 6 = k0 ∧
    fld (c + x0 * 128 + x1 * 524288) 7 4 = x0 ∧
    fld (c + x0 * 128 + x1 * 524288) 11 8 = k1 ∧
    fld (c + x0 * 128 + x1 * 524288) 19 6 = x1 ∧
    fld (c + x0 * 128 + x1 * 524288) 25 7 = k2 := by
  simp only [fld]
  refine ⟨?_, ?_, ?_, ?_, ?_, ?_, ?_⟩ <;> omega

theorem seg38 {c k0 k1 k2 k3 x0 x1 : Nat} (hc : c = 1 + k0 * 2 + k1 * 128 + k2 * 32768 + k3 * 33554432) (bk0 : k0 < 64) (bk1 : k1 < 16) (bk2 : k2 < 16) (bk3 : k3 < 128) (bx0 : x0 < 16) (bx1 : x1 < 64) :
    (c + x0 * 2048 + x1 * 524288) % 2 = 1 ∧
    c + x0 * 2048 + x1 * 524288 < 4294967296 ∧
    fld (c + x0 * 2048 + x1 * 524288) 1 6 = k0 ∧
    fld (c + x0 * 2048 + x1 * 524288) 7 4 = k1 ∧
    fld (c + x0 * 2048 + x1 * 524288) 11 4 = x0 ∧
    fld (c + x0 * 2048 + x1 * 524288) 15 4 = k2 ∧
    fld (c + x0 * 2048 + x1 * 524288) 19 6 = x1 ∧
    fld (c + x0 * 2048 + x1 * 524288) 25 7 = k3 := by
  simp only [fld]
  refine ⟨?_, ?_, ?_, ?_, ?_, ?_, ?_, ?_⟩ <;> omega

theorem seg39 {c k0 k1 k2 x0 x1 x2 : Nat} (hc : c = 1 + k0 * 2 + k1 * 2048 + k2 * 33554432) (bk0 : k0 < 64) (bk1 : k1 < 16) (bk2 : k2 < 128) (bx0 : x0 < 16) (bx1 : x1 < 16) (bx2 : x2 < 64) :
    (c + x0 * 128 + x1 * 32768 + x2 * 524288) % 2 = 1 ∧
    c + x0 * 128 + x1 * 32768 + x2 * 524288 < 4294967296 ∧
    fld (c + x0 * 128 + x1 * 32768 + x2 * 524288) 1 6 = k0 ∧
    fld (c + x0 * 128 + x1 * 32768 + x2 * 524288) 7 4 = x0 ∧
    fld (c + x0 * 128 + x1 * 32768 + x2 * 524288) 11 4 = k1 ∧
    fld (c + x0 * 128 + x1 * 32768 + x2 * 524288) 15 4 = x1 ∧
    fld (c + x0 * 128 + x1 * 32768 + x2 * 524288) 19 6 = x2 ∧
    fld (c + x0 * 128 + x1 * 32768 + x2 * 524288) 25 7 = k2 := by
  simp only [fld]
  refine ⟨?_, ?_, ?_, ?_, ?_, ?_, ?_, ?_⟩ <;> omega

theorem seg40 {c k0 k1 k2 k3 x0 : Nat} (hc : c = 1 + k0 * 2 + k1 * 128 + k2 * 524288 + k3 * 33554432) (bk0 : k0 < 64) (bk1 : k1 < 256) (bk2 : k2 < 64) (bk3 : k3 < 128) (bx0 : x0 < 16) :
    (c + x0 * 32768) % 2 = 1 ∧
    c + x0 * 32768 < 4294967296 ∧
    fld (c + x0 * 32768) 1 6 = k0 ∧
    fld (c + x0 * 32768) 7 8 = k1 ∧
    fld (c + x0 * 32768) 15 4 = x0 ∧
    fld (c + x0 * 32768) 19 6 = k2 ∧
    fld (c + x0 * 32768) 25 7 = k3 := by
  simp only [fld]
  refine ⟨?_, ?_, ?_, ?_, ?_, ?_, ?_⟩ <;> omega

theorem seg41 {c k0 k1 x0 x1 x2 x3 x4 : Nat} (hc : c = 1 + k0 * 2 + k1 * 2147483648) (bk0 : k0 < 64) (bk1 : k1 < 2) (bx0 : x0 < 64) (bx1 : x1 < 64) (bx2 : x2 < 16) (bx3 : x3 < 16) (bx4 : x4 < 16) :
    (c + x0 * 128 + x1 * 8192 + x2 * 524288 + x3 * 8388608 + x4 * 134217728) % 2 = 1 ∧
    c + x0 * 128 + x1 * 8192 + x2 * 524288 + x3 * 8388608 + x4 * 134217728 < 4294967296 ∧
    fld (c + x0 * 128 + x1 * 8192 + x2 * 524288 + x3 * 8388608 + x4 * 134217728) 1 6 = k0 ∧
    fld (c + x0 * 128 + x1 * 8192 + x2 * 524288 + x3 * 8388608 + x4 * 134217728) 7 6 = x0 ∧
    fld (c + x0 * 128 + x1 * 8192 + x2 * 524288 + x3 * 8388608 + x4 * 134217728) 13 6 = x1 ∧
    fld (c + x0 * 128 + x1 * 8192 + x2 * 524288 + x3 * 8388608 + x4 * 134217728) 19 4 = x2 ∧
    fld (c + x0 * 128 + x1 * 8192 + x2 * 524288 + x3 * 8388608 + x4 * 134217728) 23 4 = x3 ∧
    fld (c + x0 * 128 + x1 * 8192 + x2 * 524288 + x3 * 8388608 + x4 * 134217728) 27 4 = x4 ∧
    fld (c + x0 * 128 + x1 * 8192 + x2 * 524288 + x3 * 8388608 + x4 * 134217728) 31 1 = k1 := by
  simp only [fld]
  refine ⟨?_, ?_, ?_, ?_, ?_, ?_, ?_, ?_, ?_⟩ <;> omega

theorem seg42 {c k0 k1 k2 k3 x0 x1 x2 : Nat} (hc : c = 1 + k0 * 2 + k1 * 524288 + k2 * 134217728 + k3 * 2147483648) (bk0 : k0 < 64) (bk1 : k1 < 16) (bk2 : k2 < 16) (bk3 : k3 < 2) (bx0 : x0 < 64) (bx1 : x1 < 64) (bx2 : x2 < 16) :
    (c + x0 * 128 + x1 * 8192 + x2 * 8388608) % 2 = 1 ∧
    c + x0 * 128 + x1 * 8192 + x2 * 8388608 < 4294967296 ∧
    fld (c + x0 * 128 + x1 * 8192 + x2 * 8388608) 1 6 = k0 ∧
    fld (c + x0 * 128 + x1 * 8192 + x2 * 8388608) 7 6 = x0 ∧
    fld (c + x0 * 128 + x1 * 8192 + x2 * 8388608) 13 6 = x1 ∧
    fld (c + x0 * 128 + x1 * 8192 + x2 * 8388608) 19 4 = k1 ∧
    fld (c + x0 * 128 + x1 * 8192 + x2 * 8388608) 23 4 = x2 ∧
    fld (c + x0 * 128 + x1 * 8192 + x2 * 8388608) 27 4 = k2 ∧
    fld (c + x0 * 128 + x1 * 8192 + x2 * 8388608) 31 1 = k3 := by
  simp only [fld]
  refine ⟨?_, ?_, ?_, ?_, ?_, ?_, ?_, ?_, ?_⟩ <;> omega

theorem seg43 {c k0 k1 x0 x1 : Nat} (hc : c = 1 + k0 * 2 + k1 * 524288) (bk0 : k0 < 64) (bk1 : k1 < 8192) (bx0 : x0 < 64) (bx1 : x1 < 64) :
    (c + x0 * 128 + x1 * 8192) % 2 = 1 ∧
    c + x0 * 128 + x1 * 8192 < 4294967296 ∧
    fld (c + x0 * 128 + x1 * 8192) 1 6 = k0 ∧
    fld (c + x0 * 128 + x1 * 8192) 7 6 = x0 ∧
    fld (c + x0 * 128 + x1 * 8192) 13 6 = x1 ∧
    fld (c + x0 * 128 + x1 * 8192) 19 13 = k1 := by
  simp only [fld]
  refine ⟨?_, ?_, ?_, ?_, ?_, ?_⟩ <;> omega

theorem seg44 {c k0 k1 k2 x0 x1 x2 : Nat} (hc : c = 1 + k0 * 2 + k1 * 8388608 + k2 * 33554432) (bk0 : k0 < 64) (bk1 : k1 < 4) (bk2 : k2 < 128) (bx0 : x0 < 64) (bx1 : x1 < 64) (bx2 : x2 < 16) :
    (c + x0 * 128 + x1 * 8192 + x2 * 524288) % 2 = 1 ∧
    c + x0 * 128 + x1 * 8192 + x2 * 524288 < 4294967296 ∧
    fld (c + x0 * 128 + x1 * 8192 + x2 * 524288) 1 6 = k0 ∧
    fld (c + x0 * 128 + x1 * 8192 + x2 * 524288) 7 6 = x0 ∧
    fld (c + x0 * 128 + x1 * 8192 + x2 * 524288) 13 6 = x1 ∧
    fld (c + x0 * 128 + x1 * 8192 + x2 * 524288) 19 4 = x2 ∧
    fld (c + x0 * 128 + x1 * 8192 + x2 * 524288) 23 2 = k1 ∧
    fld (c + x0 * 128 + x1 * 8192 + x2 * 524288) 25 7 = k2 := by
  simp only [fld]
  refine ⟨?_, ?_, ?_, ?_, ?_, ?_, ?_, ?_⟩ <;> omega

theorem seg45 {c k0 k1 k2 x0 x1 : Nat} (hc : c = 1 + k0 * 2 + k1 * 8192 + k2 * 33554432) (bk0 : k0 < 64) (bk1 : k1 < 64) (bk2 : k2 < 128) (bx0 : x0 < 64) (bx1 : x1 < 64) :
    (c + x0 * 128 + x1 * 524288) % 2 = 1 ∧
    c + x0 * 128 + x1 * 524288 < 4294967296 ∧
    fld (c + x0 * 128 + x1 * 524288) 1 6 = k0 ∧
    fld (c + x0 * 128 + x1 * 524288) 7 6 = x0 ∧
    fld (c + x0 * 128 + x1 * 524288) 13 6 = k1 ∧
    fld (c + x0 * 128 + x1 * 524288) 19 6 = x1 ∧
    fld (c + x0 * 128 + x1 * 524288) 25 7 = k2 := by
  simp only [fld]
  refine ⟨?_, ?_, ?_, ?_, ?_, ?_, ?_⟩ <;> omega

theorem seg46 {c k0 k1 x0 x1 : Nat} (hc : c = 1 + k0 * 2 + k1 * 33554432) (bk0 : k0 < 64) (bk1 : k1 < 128) (bx0 : x0 < 64) (bx1 : x1 < 4096) :
    (c + x0 * 128 + x1 * 8192) % 2 = 1 ∧
    c + x0 * 128 + x1 * 8192 < 4294967296 ∧
    fld (c + x0 * 128 + x1 * 8192) 1 6 = k0 ∧
    fld (c + x0 * 128 + x1 * 8192) 7 6 = x0 ∧
    fld (c + x0 * 128 + x1 * 8192) 13 12 = x1 ∧
    fld (c + x0 * 128 + x1 * 8192) 25 7 = k1 := by
  simp only [fld]
  refine ⟨?_, ?_, ?_, ?_, ?_, ?_⟩ <;> omega

/-! ## A word by its major opcode -/

theorem major0 {β : Type} (K : Interp β) {w : Nat} (h : fld w 1 6 = 0) : readWord K w =
    (readAlu K w) := by
  unfold readWord; rw [h]; rfl

theorem major1 {β : Type} (K : Interp β) {w : Nat} (h : fld w 1 6 = 1) : readWord K w =
    (readMulDiv K w) := by
  unfold readWord; rw [h]; rfl

theorem major2 {β : Type} (K : Interp β) {w : Nat} (h : fld w 1 6 = 2) : readWord K w =
    (readBits K w) := by
  unfold readWord; rw [h]; rfl

theorem major3 {β : Type} (K : Interp β) {w : Nat} (h : fld w 1 6 = 3) : readWord K w =
    (if fld w 31 1 = 0 then (rspec (fld w 7 6)).bind fun d => (rspec (fld w 13 6)).bind fun a => if d.writable && a.readable && decide (fld w 19 6 + fld w 25 6 + 1 ≤ 64) then some (K.extu d a (.ofNat 6 (fld w 19 6)) (.ofNat 6 (fld w 25 6))) else none else none) := by
  unfold readWord; rw [h]; rfl

theorem major4 {β : Type} (K : Interp β) {w : Nat} (h : fld w 1 6 = 4) : readWord K w =
    (if fld w 31 1 = 0 then (rspec (fld w 7 6)).bind fun d => (rspec (fld w 13 6)).bind fun a => if d.writable && a.readable && decide (fld w 19 6 + fld w 25 6 + 1 ≤ 64) then some (K.exts d a (.ofNat 6 (fld w 19 6)) (.ofNat 6 (fld w 25 6))) else none else none) := by
  unfold readWord; rw [h]; rfl

theorem major5 {β : Type} (K : Interp β) {w : Nat} (h : fld w 1 6 = 5) : readWord K w =
    (if fld w 31 1 = 0 then (rspec (fld w 7 6)).bind fun d => (rspec (fld w 13 6)).bind fun a => if d.inOut && a.readable && decide (fld w 19 6 + fld w 25 6 + 1 ≤ 64) then some (K.ins d a (.ofNat 6 (fld w 19 6)) (.ofNat 6 (fld w 25 6))) else none else none) := by
  unfold readWord; rw [h]; rfl

theorem major6 {β : Type} (K : Interp β) {w : Nat} (h : fld w 1 6 = 6) : readWord K w =
    ((rspec (fld w 7 6)).bind fun d => (rspec (fld w 13 6)).bind fun a => if d.writable && a.readable then some (K.addi d a (.ofNat 13 (fld w 19 13))) else none) := by
  unfold readWord; rw [h]; rfl

theorem major7 {β : Type} (K : Interp β) {w : Nat} (h : fld w 1 6 = 7) : readWord K w =
    ((rspec (fld w 7 6)).bind fun d => (rspec (fld w 13 6)).bind fun a => if d.writable && a.readable then some (K.andi d a (.ofNat 13 (fld w 19 13))) else none) := by
  unfold readWord; rw [h]; rfl

theorem major8 {β : Type} (K : Interp β) {w : Nat} (h : fld w 1 6 = 8) : readWord K w =
    ((rspec (fld w 7 6)).bind fun d => (rspec (fld w 13 6)).bind fun a => if d.writable && a.readable then some (K.ori d a (.ofNat 13 (fld w 19 13))) else none) := by
  unfold readWord; rw [h]; rfl

theorem major9 {β : Type} (K : Interp β) {w : Nat} (h : fld w 1 6 = 9) : readWord K w =
    ((rspec (fld w 7 6)).bind fun d => (rspec (fld w 13 6)).bind fun a => if d.writable && a.readable then some (K.xori d a (.ofNat 13 (fld w 19 13))) else none) := by
  unfold readWord; rw [h]; rfl

theorem major10 {β : Type} (K : Interp β) {w : Nat} (h : fld w 1 6 = 10) : readWord K w =
    ((rspec (fld w 7 6)).bind fun d => (rspec (fld w 13 6)).bind fun a => if d.writable && a.readable then some (K.slti d a (.ofNat 13 (fld w 19 13))) else none) := by
  unfold readWord; rw [h]; rfl

theorem major11 {β : Type} (K : Interp β) {w : Nat} (h : fld w 1 6 = 11) : readWord K w =
    ((rspec (fld w 7 6)).bind fun d => (rspec (fld w 13 6)).bind fun a => if d.writable && a.readable then some (K.sltui d a (.ofNat 13 (fld w 19 13))) else none) := by
  unfold readWord; rw [h]; rfl

theorem major12 {β : Type} (K : Interp β) {w : Nat} (h : fld w 1 6 = 12) : readWord K w =
    (readShiftI K w) := by
  unfold readWord; rw [h]; rfl

theorem major13 {β : Type} (K : Interp β) {w : Nat} (h : fld w 1 6 = 13) : readWord K w =
    ((rspec (fld w 7 6)).bind fun d => if d.writable then some (K.lih d (.ofNat 19 (fld w 13 19))) else none) := by
  unfold readWord; rw [h]; rfl

theorem major14 {β : Type} (K : Interp β) {w : Nat} (h : fld w 1 6 = 14) : readWord K w =
    ((rspec (fld w 7 6)).bind fun d => if d.inOut then some (K.lix d (.ofNat 19 (fld w 13 19))) else none) := by
  unfold readWord; rw [h]; rfl

theorem major15 {β : Type} (K : Interp β) {w : Nat} (h : fld w 1 6 = 15) : readWord K w =
    ((rspec (fld w 7 6)).bind fun d => if d.writable then some (K.addpc d (.ofNat 19 (fld w 13 19))) else none) := by
  unfold readWord; rw [h]; rfl

theorem major16 {β : Type} (K : Interp β) {w : Nat} (h : fld w 1 6 = 16) : readWord K w =
    (readBr K w) := by
  unfold readWord; rw [h]; rfl

theorem major17 {β : Type} (K : Interp β) {w : Nat} (h : fld w 1 6 = 17) : readWord K w =
    (some (K.j (.ofNat 25 (fld w 7 25)))) := by
  unfold readWord; rw [h]; rfl

theorem major18 {β : Type} (K : Interp β) {w : Nat} (h : fld w 1 6 = 18) : readWord K w =
    (some (K.jal (.ofNat 25 (fld w 7 25)))) := by
  unfold readWord; rw [h]; rfl

theorem major19 {β : Type} (K : Interp β) {w : Nat} (h : fld w 1 6 = 19) : readWord K w =
    ((rspec (fld w 7 6)).bind fun d => (rspec (fld w 13 6)).bind fun a => if d.writable && a.readable then some (K.jalr d a (.ofNat 13 (fld w 19 13))) else none) := by
  unfold readWord; rw [h]; rfl

theorem major20 {β : Type} (K : Interp β) {w : Nat} (h : fld w 1 6 = 20) : readWord K w =
    ((rspec (fld w 7 6)).bind fun c => if c.inOut && decide (3 ≤ fld w 13 19) then some (K.loop c (.ofNat 19 (fld w 13 19))) else none) := by
  unfold readWord; rw [h]; rfl

theorem major21 {β : Type} (K : Interp β) {w : Nat} (h : fld w 1 6 = 21) : readWord K w =
    (if fld w 23 9 = 0 then (rspec (fld w 7 6)).bind fun c => if c.inOut then some (K.rep (.ofNat 4 (fld w 13 4)) c (.ofNat 6 (fld w 17 6))) else none else none) := by
  unfold readWord; rw [h]; rfl

theorem major22 {β : Type} (K : Interp β) {w : Nat} (h : fld w 1 6 = 22) : readWord K w =
    (readAct K w) := by
  unfold readWord; rw [h]; rfl

theorem major23 {β : Type} (K : Interp β) {w : Nat} (h : fld w 1 6 = 23) : readWord K w =
    (readTraps K w) := by
  unfold readWord; rw [h]; rfl

theorem major24 {β : Type} (K : Interp β) {w : Nat} (h : fld w 1 6 = 24) : readWord K w =
    ((rspec (fld w 7 6)).bind fun t => (rspec (fld w 13 6)).bind fun base => if t.writable && base.readable then some (K.ld t base (.ofNat 5 (fld w 27 5)) (.ofNat 2 (fld w 25 2)) (.ofNat 2 (fld w 23 2)) (.ofNat 4 (fld w 19 4))) else none) := by
  unfold readWord; rw [h]; rfl

theorem major25 {β : Type} (K : Interp β) {w : Nat} (h : fld w 1 6 = 25) : readWord K w =
    ((rspec (fld w 7 6)).bind fun t => (rspec (fld w 13 6)).bind fun base => if t.writable && base.readable && decide (fld w 23 2 < 3) then some (K.ldu t base (.ofNat 5 (fld w 27 5)) (.ofNat 2 (fld w 25 2)) (.ofNat 2 (fld w 23 2)) (.ofNat 4 (fld w 19 4))) else none) := by
  unfold readWord; rw [h]; rfl

theorem major26 {β : Type} (K : Interp β) {w : Nat} (h : fld w 1 6 = 26) : readWord K w =
    (if fld w 19 4 = 0 then (rspec (fld w 7 6)).bind fun t => (rspec (fld w 13 6)).bind fun base => if t.readable && base.readable then some (K.st t base (.ofNat 5 (fld w 27 5)) (.ofNat 2 (fld w 25 2)) (.ofNat 2 (fld w 23 2))) else none else none) := by
  unfold readWord; rw [h]; rfl

theorem major27 {β : Type} (K : Interp β) {w : Nat} (h : fld w 1 6 = 27) : readWord K w =
    (readRow K w) := by
  unfold readWord; rw [h]; rfl

theorem major28 {β : Type} (K : Interp β) {w : Nat} (h : fld w 1 6 = 28) : readWord K w =
    (readCache K w) := by
  unfold readWord; rw [h]; rfl

theorem major29 {β : Type} (K : Interp β) {w : Nat} (h : fld w 1 6 = 29) : readWord K w =
    ((rspec (fld w 7 6)).bind fun t => (rspec (fld w 13 6)).bind fun base => if t.writable && base.readable then some (K.ldc t base (.ofNat 5 (fld w 27 5)) (.ofNat 2 (fld w 25 2)) (.ofNat 2 (fld w 23 2)) (.ofNat 4 (fld w 19 4))) else none) := by
  unfold readWord; rw [h]; rfl

theorem major30 {β : Type} (K : Interp β) {w : Nat} (h : fld w 1 6 = 30) : readWord K w =
    (readLds K w) := by
  unfold readWord; rw [h]; rfl

theorem major31 {β : Type} (K : Interp β) {w : Nat} (h : fld w 1 6 = 31) : readWord K w =
    (readStf K w) := by
  unfold readWord; rw [h]; rfl

theorem major32 {β : Type} (K : Interp β) {w : Nat} (h : fld w 1 6 = 32) : readWord K w =
    (readAtom K w) := by
  unfold readWord; rw [h]; rfl

theorem major33 {β : Type} (K : Interp β) {w : Nat} (h : fld w 1 6 = 33) : readWord K w =
    (if fld w 28 4 = 0 then (rspec (fld w 7 6)).bind fun d => (rspec (fld w 13 6)).bind fun a => if d.pair && a.readable && (fld w 19 4 == 0 || fld w 23 2 == 0 || fld w 23 2 == 2) then some (K.acas d a (.ofNat 1 (fld w 27 1)) (.ofNat 2 (fld w 25 2)) (.ofNat 2 (fld w 23 2)) (.ofNat 4 (fld w 19 4))) else none else none) := by
  unfold readWord; rw [h]; rfl

theorem major34 {β : Type} (K : Interp β) {w : Nat} (h : fld w 1 6 = 34) : readWord K w =
    (readOrder K w) := by
  unfold readWord; rw [h]; rfl

theorem major40 {β : Type} (K : Interp β) {w : Nat} (h : fld w 1 6 = 40) : readWord K w =
    (readVF K w) := by
  unfold readWord; rw [h]; rfl

theorem major41 {β : Type} (K : Interp β) {w : Nat} (h : fld w 1 6 = 41) : readWord K w =
    (readVI K w) := by
  unfold readWord; rw [h]; rfl

theorem major42 {β : Type} (K : Interp β) {w : Nat} (h : fld w 1 6 = 42) : readWord K w =
    (readVL K w) := by
  unfold readWord; rw [h]; rfl

theorem major43 {β : Type} (K : Interp β) {w : Nat} (h : fld w 1 6 = 43) : readWord K w =
    (readVC K w) := by
  unfold readWord; rw [h]; rfl

theorem major44 {β : Type} (K : Interp β) {w : Nat} (h : fld w 1 6 = 44) : readWord K w =
    (readVM K w) := by
  unfold readWord; rw [h]; rfl

theorem major45 {β : Type} (K : Interp β) {w : Nat} (h : fld w 1 6 = 45) : readWord K w =
    (readVX K w) := by
  unfold readWord; rw [h]; rfl

theorem major46 {β : Type} (K : Interp β) {w : Nat} (h : fld w 1 6 = 46) : readWord K w =
    (readVP K w) := by
  unfold readWord; rw [h]; rfl

theorem major48 {β : Type} (K : Interp β) {w : Nat} (h : fld w 1 6 = 48) : readWord K w =
    (readKop K w) := by
  unfold readWord; rw [h]; rfl

theorem major49 {β : Type} (K : Interp β) {w : Nat} (h : fld w 1 6 = 49) : readWord K w =
    (readTt K w) := by
  unfold readWord; rw [h]; rfl

theorem major50 {β : Type} (K : Interp β) {w : Nat} (h : fld w 1 6 = 50) : readWord K w =
    (readTld K w) := by
  unfold readWord; rw [h]; rfl

theorem major51 {β : Type} (K : Interp β) {w : Nat} (h : fld w 1 6 = 51) : readWord K w =
    (readKmem K w) := by
  unfold readWord; rw [h]; rfl

theorem major52 {β : Type} (K : Interp β) {w : Nat} (h : fld w 1 6 = 52) : readWord K w =
    (if fld w 19 13 = 0 then (rspec (fld w 7 6)).bind fun first => (rspec (fld w 13 6)).bind fun sel => if first.group8 && sel.readable then some (K.pcmd first sel) else none else none) := by
  unfold readWord; rw [h]; rfl

theorem major53 {β : Type} (K : Interp β) {w : Nat} (h : fld w 1 6 = 53) : readWord K w =
    (readPctl K w) := by
  unfold readWord; rw [h]; rfl

theorem major54 {β : Type} (K : Interp β) {w : Nat} (h : fld w 1 6 = 54) : readWord K w =
    (if fld w 19 13 = 0 then (rspec (fld w 7 6)).bind fun first => (rspec (fld w 13 6)).bind fun sel => if first.group8 && sel.inOut then some (K.copy first sel) else none else none) := by
  unfold readWord; rw [h]; rfl

theorem major55 {β : Type} (K : Interp β) {w : Nat} (h : fld w 1 6 = 55) : readWord K w =
    (readBatch K w) := by
  unfold readWord; rw [h]; rfl

theorem major56 {β : Type} (K : Interp β) {w : Nat} (h : fld w 1 6 = 56) : readWord K w =
    (readCnt K w) := by
  unfold readWord; rw [h]; rfl

theorem major57 {β : Type} (K : Interp β) {w : Nat} (h : fld w 1 6 = 57) : readWord K w =
    (readBar K w) := by
  unfold readWord; rw [h]; rfl

theorem major58 {β : Type} (K : Interp β) {w : Nat} (h : fld w 1 6 = 58) : readWord K w =
    (readMsg K w) := by
  unfold readWord; rw [h]; rfl

theorem major60 {β : Type} (K : Interp β) {w : Nat} (h : fld w 1 6 = 60) : readWord K w =
    (readSys K w) := by
  unfold readWord; rw [h]; rfl

/-! ## The instructions -/

theorem add (d : RSpec) (a : RSpec) (b : RSpec) : Statement (.add d a b) := by
  intro hw
  replace hw : (d.writable && a.readable && b.readable) = true := hw
  have ⟨odd, lt, s1, s7, s13, s19, s25⟩ := seg0 (c := 0x1) (k0 := 0) (k1 := 0) (x0 := d.bits) (x1 := a.bits) (x2 := b.bits) (by decide) (by decide) (by decide) d.bits_lt a.bits_lt b.bits_lt
  refine of_word odd lt ?_ rfl hw
  rw [decodeWord, major0 _ s1]
  unfold readAlu
  rw [s25]
  simp only [s7, s13, s19, rspec_bits d, rspec_bits a, rspec_bits b, Option.bind_some, hw, if_true, interpInstr]

theorem sub (d : RSpec) (a : RSpec) (b : RSpec) : Statement (.sub d a b) := by
  intro hw
  replace hw : (d.writable && a.readable && b.readable) = true := hw
  have ⟨odd, lt, s1, s7, s13, s19, s25⟩ := seg0 (c := 0x2000001) (k0 := 0) (k1 := 1) (x0 := d.bits) (x1 := a.bits) (x2 := b.bits) (by decide) (by decide) (by decide) d.bits_lt a.bits_lt b.bits_lt
  refine of_word odd lt ?_ rfl hw
  rw [decodeWord, major0 _ s1]
  unfold readAlu
  rw [s25]
  simp only [s7, s13, s19, rspec_bits d, rspec_bits a, rspec_bits b, Option.bind_some, hw, if_true, interpInstr]

theorem and (d : RSpec) (a : RSpec) (b : RSpec) : Statement (.and d a b) := by
  intro hw
  replace hw : (d.writable && a.readable && b.readable) = true := hw
  have ⟨odd, lt, s1, s7, s13, s19, s25⟩ := seg0 (c := 0x4000001) (k0 := 0) (k1 := 2) (x0 := d.bits) (x1 := a.bits) (x2 := b.bits) (by decide) (by decide) (by decide) d.bits_lt a.bits_lt b.bits_lt
  refine of_word odd lt ?_ rfl hw
  rw [decodeWord, major0 _ s1]
  unfold readAlu
  rw [s25]
  simp only [s7, s13, s19, rspec_bits d, rspec_bits a, rspec_bits b, Option.bind_some, hw, if_true, interpInstr]

theorem or (d : RSpec) (a : RSpec) (b : RSpec) : Statement (.or d a b) := by
  intro hw
  replace hw : (d.writable && a.readable && b.readable) = true := hw
  have ⟨odd, lt, s1, s7, s13, s19, s25⟩ := seg0 (c := 0x6000001) (k0 := 0) (k1 := 3) (x0 := d.bits) (x1 := a.bits) (x2 := b.bits) (by decide) (by decide) (by decide) d.bits_lt a.bits_lt b.bits_lt
  refine of_word odd lt ?_ rfl hw
  rw [decodeWord, major0 _ s1]
  unfold readAlu
  rw [s25]
  simp only [s7, s13, s19, rspec_bits d, rspec_bits a, rspec_bits b, Option.bind_some, hw, if_true, interpInstr]

theorem xor (d : RSpec) (a : RSpec) (b : RSpec) : Statement (.xor d a b) := by
  intro hw
  replace hw : (d.writable && a.readable && b.readable) = true := hw
  have ⟨odd, lt, s1, s7, s13, s19, s25⟩ := seg0 (c := 0x8000001) (k0 := 0) (k1 := 4) (x0 := d.bits) (x1 := a.bits) (x2 := b.bits) (by decide) (by decide) (by decide) d.bits_lt a.bits_lt b.bits_lt
  refine of_word odd lt ?_ rfl hw
  rw [decodeWord, major0 _ s1]
  unfold readAlu
  rw [s25]
  simp only [s7, s13, s19, rspec_bits d, rspec_bits a, rspec_bits b, Option.bind_some, hw, if_true, interpInstr]

theorem andn (d : RSpec) (a : RSpec) (b : RSpec) : Statement (.andn d a b) := by
  intro hw
  replace hw : (d.writable && a.readable && b.readable) = true := hw
  have ⟨odd, lt, s1, s7, s13, s19, s25⟩ := seg0 (c := 0xa000001) (k0 := 0) (k1 := 5) (x0 := d.bits) (x1 := a.bits) (x2 := b.bits) (by decide) (by decide) (by decide) d.bits_lt a.bits_lt b.bits_lt
  refine of_word odd lt ?_ rfl hw
  rw [decodeWord, major0 _ s1]
  unfold readAlu
  rw [s25]
  simp only [s7, s13, s19, rspec_bits d, rspec_bits a, rspec_bits b, Option.bind_some, hw, if_true, interpInstr]

theorem orn (d : RSpec) (a : RSpec) (b : RSpec) : Statement (.orn d a b) := by
  intro hw
  replace hw : (d.writable && a.readable && b.readable) = true := hw
  have ⟨odd, lt, s1, s7, s13, s19, s25⟩ := seg0 (c := 0xc000001) (k0 := 0) (k1 := 6) (x0 := d.bits) (x1 := a.bits) (x2 := b.bits) (by decide) (by decide) (by decide) d.bits_lt a.bits_lt b.bits_lt
  refine of_word odd lt ?_ rfl hw
  rw [decodeWord, major0 _ s1]
  unfold readAlu
  rw [s25]
  simp only [s7, s13, s19, rspec_bits d, rspec_bits a, rspec_bits b, Option.bind_some, hw, if_true, interpInstr]

theorem xnor (d : RSpec) (a : RSpec) (b : RSpec) : Statement (.xnor d a b) := by
  intro hw
  replace hw : (d.writable && a.readable && b.readable) = true := hw
  have ⟨odd, lt, s1, s7, s13, s19, s25⟩ := seg0 (c := 0xe000001) (k0 := 0) (k1 := 7) (x0 := d.bits) (x1 := a.bits) (x2 := b.bits) (by decide) (by decide) (by decide) d.bits_lt a.bits_lt b.bits_lt
  refine of_word odd lt ?_ rfl hw
  rw [decodeWord, major0 _ s1]
  unfold readAlu
  rw [s25]
  simp only [s7, s13, s19, rspec_bits d, rspec_bits a, rspec_bits b, Option.bind_some, hw, if_true, interpInstr]

theorem shl (d : RSpec) (a : RSpec) (b : RSpec) : Statement (.shl d a b) := by
  intro hw
  replace hw : (d.writable && a.readable && b.readable) = true := hw
  have ⟨odd, lt, s1, s7, s13, s19, s25⟩ := seg0 (c := 0x10000001) (k0 := 0) (k1 := 8) (x0 := d.bits) (x1 := a.bits) (x2 := b.bits) (by decide) (by decide) (by decide) d.bits_lt a.bits_lt b.bits_lt
  refine of_word odd lt ?_ rfl hw
  rw [decodeWord, major0 _ s1]
  unfold readAlu
  rw [s25]
  simp only [s7, s13, s19, rspec_bits d, rspec_bits a, rspec_bits b, Option.bind_some, hw, if_true, interpInstr]

theorem shr (d : RSpec) (a : RSpec) (b : RSpec) : Statement (.shr d a b) := by
  intro hw
  replace hw : (d.writable && a.readable && b.readable) = true := hw
  have ⟨odd, lt, s1, s7, s13, s19, s25⟩ := seg0 (c := 0x12000001) (k0 := 0) (k1 := 9) (x0 := d.bits) (x1 := a.bits) (x2 := b.bits) (by decide) (by decide) (by decide) d.bits_lt a.bits_lt b.bits_lt
  refine of_word odd lt ?_ rfl hw
  rw [decodeWord, major0 _ s1]
  unfold readAlu
  rw [s25]
  simp only [s7, s13, s19, rspec_bits d, rspec_bits a, rspec_bits b, Option.bind_some, hw, if_true, interpInstr]

theorem sra (d : RSpec) (a : RSpec) (b : RSpec) : Statement (.sra d a b) := by
  intro hw
  replace hw : (d.writable && a.readable && b.readable) = true := hw
  have ⟨odd, lt, s1, s7, s13, s19, s25⟩ := seg0 (c := 0x14000001) (k0 := 0) (k1 := 10) (x0 := d.bits) (x1 := a.bits) (x2 := b.bits) (by decide) (by decide) (by decide) d.bits_lt a.bits_lt b.bits_lt
  refine of_word odd lt ?_ rfl hw
  rw [decodeWord, major0 _ s1]
  unfold readAlu
  rw [s25]
  simp only [s7, s13, s19, rspec_bits d, rspec_bits a, rspec_bits b, Option.bind_some, hw, if_true, interpInstr]

theorem rol (d : RSpec) (a : RSpec) (b : RSpec) : Statement (.rol d a b) := by
  intro hw
  replace hw : (d.writable && a.readable && b.readable) = true := hw
  have ⟨odd, lt, s1, s7, s13, s19, s25⟩ := seg0 (c := 0x16000001) (k0 := 0) (k1 := 11) (x0 := d.bits) (x1 := a.bits) (x2 := b.bits) (by decide) (by decide) (by decide) d.bits_lt a.bits_lt b.bits_lt
  refine of_word odd lt ?_ rfl hw
  rw [decodeWord, major0 _ s1]
  unfold readAlu
  rw [s25]
  simp only [s7, s13, s19, rspec_bits d, rspec_bits a, rspec_bits b, Option.bind_some, hw, if_true, interpInstr]

theorem ror (d : RSpec) (a : RSpec) (b : RSpec) : Statement (.ror d a b) := by
  intro hw
  replace hw : (d.writable && a.readable && b.readable) = true := hw
  have ⟨odd, lt, s1, s7, s13, s19, s25⟩ := seg0 (c := 0x18000001) (k0 := 0) (k1 := 12) (x0 := d.bits) (x1 := a.bits) (x2 := b.bits) (by decide) (by decide) (by decide) d.bits_lt a.bits_lt b.bits_lt
  refine of_word odd lt ?_ rfl hw
  rw [decodeWord, major0 _ s1]
  unfold readAlu
  rw [s25]
  simp only [s7, s13, s19, rspec_bits d, rspec_bits a, rspec_bits b, Option.bind_some, hw, if_true, interpInstr]

theorem slt (d : RSpec) (a : RSpec) (b : RSpec) : Statement (.slt d a b) := by
  intro hw
  replace hw : (d.writable && a.readable && b.readable) = true := hw
  have ⟨odd, lt, s1, s7, s13, s19, s25⟩ := seg0 (c := 0x1a000001) (k0 := 0) (k1 := 13) (x0 := d.bits) (x1 := a.bits) (x2 := b.bits) (by decide) (by decide) (by decide) d.bits_lt a.bits_lt b.bits_lt
  refine of_word odd lt ?_ rfl hw
  rw [decodeWord, major0 _ s1]
  unfold readAlu
  rw [s25]
  simp only [s7, s13, s19, rspec_bits d, rspec_bits a, rspec_bits b, Option.bind_some, hw, if_true, interpInstr]

theorem sltu (d : RSpec) (a : RSpec) (b : RSpec) : Statement (.sltu d a b) := by
  intro hw
  replace hw : (d.writable && a.readable && b.readable) = true := hw
  have ⟨odd, lt, s1, s7, s13, s19, s25⟩ := seg0 (c := 0x1c000001) (k0 := 0) (k1 := 14) (x0 := d.bits) (x1 := a.bits) (x2 := b.bits) (by decide) (by decide) (by decide) d.bits_lt a.bits_lt b.bits_lt
  refine of_word odd lt ?_ rfl hw
  rw [decodeWord, major0 _ s1]
  unfold readAlu
  rw [s25]
  simp only [s7, s13, s19, rspec_bits d, rspec_bits a, rspec_bits b, Option.bind_some, hw, if_true, interpInstr]

theorem seq (d : RSpec) (a : RSpec) (b : RSpec) : Statement (.seq d a b) := by
  intro hw
  replace hw : (d.writable && a.readable && b.readable) = true := hw
  have ⟨odd, lt, s1, s7, s13, s19, s25⟩ := seg0 (c := 0x1e000001) (k0 := 0) (k1 := 15) (x0 := d.bits) (x1 := a.bits) (x2 := b.bits) (by decide) (by decide) (by decide) d.bits_lt a.bits_lt b.bits_lt
  refine of_word odd lt ?_ rfl hw
  rw [decodeWord, major0 _ s1]
  unfold readAlu
  rw [s25]
  simp only [s7, s13, s19, rspec_bits d, rspec_bits a, rspec_bits b, Option.bind_some, hw, if_true, interpInstr]

theorem sne (d : RSpec) (a : RSpec) (b : RSpec) : Statement (.sne d a b) := by
  intro hw
  replace hw : (d.writable && a.readable && b.readable) = true := hw
  have ⟨odd, lt, s1, s7, s13, s19, s25⟩ := seg0 (c := 0x20000001) (k0 := 0) (k1 := 16) (x0 := d.bits) (x1 := a.bits) (x2 := b.bits) (by decide) (by decide) (by decide) d.bits_lt a.bits_lt b.bits_lt
  refine of_word odd lt ?_ rfl hw
  rw [decodeWord, major0 _ s1]
  unfold readAlu
  rw [s25]
  simp only [s7, s13, s19, rspec_bits d, rspec_bits a, rspec_bits b, Option.bind_some, hw, if_true, interpInstr]

theorem min (d : RSpec) (a : RSpec) (b : RSpec) : Statement (.min d a b) := by
  intro hw
  replace hw : (d.writable && a.readable && b.readable) = true := hw
  have ⟨odd, lt, s1, s7, s13, s19, s25⟩ := seg0 (c := 0x22000001) (k0 := 0) (k1 := 17) (x0 := d.bits) (x1 := a.bits) (x2 := b.bits) (by decide) (by decide) (by decide) d.bits_lt a.bits_lt b.bits_lt
  refine of_word odd lt ?_ rfl hw
  rw [decodeWord, major0 _ s1]
  unfold readAlu
  rw [s25]
  simp only [s7, s13, s19, rspec_bits d, rspec_bits a, rspec_bits b, Option.bind_some, hw, if_true, interpInstr]

theorem max (d : RSpec) (a : RSpec) (b : RSpec) : Statement (.max d a b) := by
  intro hw
  replace hw : (d.writable && a.readable && b.readable) = true := hw
  have ⟨odd, lt, s1, s7, s13, s19, s25⟩ := seg0 (c := 0x24000001) (k0 := 0) (k1 := 18) (x0 := d.bits) (x1 := a.bits) (x2 := b.bits) (by decide) (by decide) (by decide) d.bits_lt a.bits_lt b.bits_lt
  refine of_word odd lt ?_ rfl hw
  rw [decodeWord, major0 _ s1]
  unfold readAlu
  rw [s25]
  simp only [s7, s13, s19, rspec_bits d, rspec_bits a, rspec_bits b, Option.bind_some, hw, if_true, interpInstr]

theorem minu (d : RSpec) (a : RSpec) (b : RSpec) : Statement (.minu d a b) := by
  intro hw
  replace hw : (d.writable && a.readable && b.readable) = true := hw
  have ⟨odd, lt, s1, s7, s13, s19, s25⟩ := seg0 (c := 0x26000001) (k0 := 0) (k1 := 19) (x0 := d.bits) (x1 := a.bits) (x2 := b.bits) (by decide) (by decide) (by decide) d.bits_lt a.bits_lt b.bits_lt
  refine of_word odd lt ?_ rfl hw
  rw [decodeWord, major0 _ s1]
  unfold readAlu
  rw [s25]
  simp only [s7, s13, s19, rspec_bits d, rspec_bits a, rspec_bits b, Option.bind_some, hw, if_true, interpInstr]

theorem maxu (d : RSpec) (a : RSpec) (b : RSpec) : Statement (.maxu d a b) := by
  intro hw
  replace hw : (d.writable && a.readable && b.readable) = true := hw
  have ⟨odd, lt, s1, s7, s13, s19, s25⟩ := seg0 (c := 0x28000001) (k0 := 0) (k1 := 20) (x0 := d.bits) (x1 := a.bits) (x2 := b.bits) (by decide) (by decide) (by decide) d.bits_lt a.bits_lt b.bits_lt
  refine of_word odd lt ?_ rfl hw
  rw [decodeWord, major0 _ s1]
  unfold readAlu
  rw [s25]
  simp only [s7, s13, s19, rspec_bits d, rspec_bits a, rspec_bits b, Option.bind_some, hw, if_true, interpInstr]

theorem shadd1 (d : RSpec) (a : RSpec) (b : RSpec) : Statement (.shadd1 d a b) := by
  intro hw
  replace hw : (d.writable && a.readable && b.readable) = true := hw
  have ⟨odd, lt, s1, s7, s13, s19, s25⟩ := seg0 (c := 0x2a000001) (k0 := 0) (k1 := 21) (x0 := d.bits) (x1 := a.bits) (x2 := b.bits) (by decide) (by decide) (by decide) d.bits_lt a.bits_lt b.bits_lt
  refine of_word odd lt ?_ rfl hw
  rw [decodeWord, major0 _ s1]
  unfold readAlu
  rw [s25]
  simp only [s7, s13, s19, rspec_bits d, rspec_bits a, rspec_bits b, Option.bind_some, hw, if_true, interpInstr]

theorem shadd2 (d : RSpec) (a : RSpec) (b : RSpec) : Statement (.shadd2 d a b) := by
  intro hw
  replace hw : (d.writable && a.readable && b.readable) = true := hw
  have ⟨odd, lt, s1, s7, s13, s19, s25⟩ := seg0 (c := 0x2c000001) (k0 := 0) (k1 := 22) (x0 := d.bits) (x1 := a.bits) (x2 := b.bits) (by decide) (by decide) (by decide) d.bits_lt a.bits_lt b.bits_lt
  refine of_word odd lt ?_ rfl hw
  rw [decodeWord, major0 _ s1]
  unfold readAlu
  rw [s25]
  simp only [s7, s13, s19, rspec_bits d, rspec_bits a, rspec_bits b, Option.bind_some, hw, if_true, interpInstr]

theorem shadd3 (d : RSpec) (a : RSpec) (b : RSpec) : Statement (.shadd3 d a b) := by
  intro hw
  replace hw : (d.writable && a.readable && b.readable) = true := hw
  have ⟨odd, lt, s1, s7, s13, s19, s25⟩ := seg0 (c := 0x2e000001) (k0 := 0) (k1 := 23) (x0 := d.bits) (x1 := a.bits) (x2 := b.bits) (by decide) (by decide) (by decide) d.bits_lt a.bits_lt b.bits_lt
  refine of_word odd lt ?_ rfl hw
  rw [decodeWord, major0 _ s1]
  unfold readAlu
  rw [s25]
  simp only [s7, s13, s19, rspec_bits d, rspec_bits a, rspec_bits b, Option.bind_some, hw, if_true, interpInstr]

theorem addw (d : RSpec) (a : RSpec) (b : RSpec) : Statement (.addw d a b) := by
  intro hw
  replace hw : (d.writable && a.readable && b.readable) = true := hw
  have ⟨odd, lt, s1, s7, s13, s19, s25⟩ := seg0 (c := 0x30000001) (k0 := 0) (k1 := 24) (x0 := d.bits) (x1 := a.bits) (x2 := b.bits) (by decide) (by decide) (by decide) d.bits_lt a.bits_lt b.bits_lt
  refine of_word odd lt ?_ rfl hw
  rw [decodeWord, major0 _ s1]
  unfold readAlu
  rw [s25]
  simp only [s7, s13, s19, rspec_bits d, rspec_bits a, rspec_bits b, Option.bind_some, hw, if_true, interpInstr]

theorem subw (d : RSpec) (a : RSpec) (b : RSpec) : Statement (.subw d a b) := by
  intro hw
  replace hw : (d.writable && a.readable && b.readable) = true := hw
  have ⟨odd, lt, s1, s7, s13, s19, s25⟩ := seg0 (c := 0x32000001) (k0 := 0) (k1 := 25) (x0 := d.bits) (x1 := a.bits) (x2 := b.bits) (by decide) (by decide) (by decide) d.bits_lt a.bits_lt b.bits_lt
  refine of_word odd lt ?_ rfl hw
  rw [decodeWord, major0 _ s1]
  unfold readAlu
  rw [s25]
  simp only [s7, s13, s19, rspec_bits d, rspec_bits a, rspec_bits b, Option.bind_some, hw, if_true, interpInstr]

theorem mul (d : RSpec) (a : RSpec) (b : RSpec) (l : BitVec 4) : Statement (.mul d a b l) := by
  intro hw
  replace hw : (d.writable && a.readable && b.readable) = true := hw
  have ⟨odd, lt, s1, s7, s13, s19, s25, s29⟩ := seg1 (c := 0x3) (k0 := 1) (k1 := 0) (x0 := d.bits) (x1 := a.bits) (x2 := b.bits) (x3 := l.toNat) (by decide) (by decide) (by decide) d.bits_lt a.bits_lt b.bits_lt l.isLt
  refine of_word odd lt ?_ rfl hw
  rw [decodeWord, major1 _ s1]
  unfold readMulDiv
  rw [s29]
  simp only [s7, s13, s19, s25, rspec_bits d, rspec_bits a, rspec_bits b, Option.bind_some, BitVec.ofNat_toNat, BitVec.setWidth_eq, hw, if_true, interpInstr]

theorem mulh (d : RSpec) (a : RSpec) (b : RSpec) (l : BitVec 4) : Statement (.mulh d a b l) := by
  intro hw
  replace hw : (d.writable && a.readable && b.readable) = true := hw
  have ⟨odd, lt, s1, s7, s13, s19, s25, s29⟩ := seg1 (c := 0x20000003) (k0 := 1) (k1 := 1) (x0 := d.bits) (x1 := a.bits) (x2 := b.bits) (x3 := l.toNat) (by decide) (by decide) (by decide) d.bits_lt a.bits_lt b.bits_lt l.isLt
  refine of_word odd lt ?_ rfl hw
  rw [decodeWord, major1 _ s1]
  unfold readMulDiv
  rw [s29]
  simp only [s7, s13, s19, s25, rspec_bits d, rspec_bits a, rspec_bits b, Option.bind_some, BitVec.ofNat_toNat, BitVec.setWidth_eq, hw, if_true, interpInstr]

theorem mulhu (d : RSpec) (a : RSpec) (b : RSpec) (l : BitVec 4) : Statement (.mulhu d a b l) := by
  intro hw
  replace hw : (d.writable && a.readable && b.readable) = true := hw
  have ⟨odd, lt, s1, s7, s13, s19, s25, s29⟩ := seg1 (c := 0x40000003) (k0 := 1) (k1 := 2) (x0 := d.bits) (x1 := a.bits) (x2 := b.bits) (x3 := l.toNat) (by decide) (by decide) (by decide) d.bits_lt a.bits_lt b.bits_lt l.isLt
  refine of_word odd lt ?_ rfl hw
  rw [decodeWord, major1 _ s1]
  unfold readMulDiv
  rw [s29]
  simp only [s7, s13, s19, s25, rspec_bits d, rspec_bits a, rspec_bits b, Option.bind_some, BitVec.ofNat_toNat, BitVec.setWidth_eq, hw, if_true, interpInstr]

theorem mulhsu (d : RSpec) (a : RSpec) (b : RSpec) (l : BitVec 4) : Statement (.mulhsu d a b l) := by
  intro hw
  replace hw : (d.writable && a.readable && b.readable) = true := hw
  have ⟨odd, lt, s1, s7, s13, s19, s25, s29⟩ := seg1 (c := 0x60000003) (k0 := 1) (k1 := 3) (x0 := d.bits) (x1 := a.bits) (x2 := b.bits) (x3 := l.toNat) (by decide) (by decide) (by decide) d.bits_lt a.bits_lt b.bits_lt l.isLt
  refine of_word odd lt ?_ rfl hw
  rw [decodeWord, major1 _ s1]
  unfold readMulDiv
  rw [s29]
  simp only [s7, s13, s19, s25, rspec_bits d, rspec_bits a, rspec_bits b, Option.bind_some, BitVec.ofNat_toNat, BitVec.setWidth_eq, hw, if_true, interpInstr]

theorem div (d : RSpec) (a : RSpec) (b : RSpec) (l : BitVec 4) : Statement (.div d a b l) := by
  intro hw
  replace hw : (d.writable && a.readable && b.readable) = true := hw
  have ⟨odd, lt, s1, s7, s13, s19, s25, s29⟩ := seg1 (c := 0x80000003) (k0 := 1) (k1 := 4) (x0 := d.bits) (x1 := a.bits) (x2 := b.bits) (x3 := l.toNat) (by decide) (by decide) (by decide) d.bits_lt a.bits_lt b.bits_lt l.isLt
  refine of_word odd lt ?_ rfl hw
  rw [decodeWord, major1 _ s1]
  unfold readMulDiv
  rw [s29]
  simp only [s7, s13, s19, s25, rspec_bits d, rspec_bits a, rspec_bits b, Option.bind_some, BitVec.ofNat_toNat, BitVec.setWidth_eq, hw, if_true, interpInstr]

theorem divu (d : RSpec) (a : RSpec) (b : RSpec) (l : BitVec 4) : Statement (.divu d a b l) := by
  intro hw
  replace hw : (d.writable && a.readable && b.readable) = true := hw
  have ⟨odd, lt, s1, s7, s13, s19, s25, s29⟩ := seg1 (c := 0xa0000003) (k0 := 1) (k1 := 5) (x0 := d.bits) (x1 := a.bits) (x2 := b.bits) (x3 := l.toNat) (by decide) (by decide) (by decide) d.bits_lt a.bits_lt b.bits_lt l.isLt
  refine of_word odd lt ?_ rfl hw
  rw [decodeWord, major1 _ s1]
  unfold readMulDiv
  rw [s29]
  simp only [s7, s13, s19, s25, rspec_bits d, rspec_bits a, rspec_bits b, Option.bind_some, BitVec.ofNat_toNat, BitVec.setWidth_eq, hw, if_true, interpInstr]

theorem rem (d : RSpec) (a : RSpec) (b : RSpec) (l : BitVec 4) : Statement (.rem d a b l) := by
  intro hw
  replace hw : (d.writable && a.readable && b.readable) = true := hw
  have ⟨odd, lt, s1, s7, s13, s19, s25, s29⟩ := seg1 (c := 0xc0000003) (k0 := 1) (k1 := 6) (x0 := d.bits) (x1 := a.bits) (x2 := b.bits) (x3 := l.toNat) (by decide) (by decide) (by decide) d.bits_lt a.bits_lt b.bits_lt l.isLt
  refine of_word odd lt ?_ rfl hw
  rw [decodeWord, major1 _ s1]
  unfold readMulDiv
  rw [s29]
  simp only [s7, s13, s19, s25, rspec_bits d, rspec_bits a, rspec_bits b, Option.bind_some, BitVec.ofNat_toNat, BitVec.setWidth_eq, hw, if_true, interpInstr]

theorem remu (d : RSpec) (a : RSpec) (b : RSpec) (l : BitVec 4) : Statement (.remu d a b l) := by
  intro hw
  replace hw : (d.writable && a.readable && b.readable) = true := hw
  have ⟨odd, lt, s1, s7, s13, s19, s25, s29⟩ := seg1 (c := 0xe0000003) (k0 := 1) (k1 := 7) (x0 := d.bits) (x1 := a.bits) (x2 := b.bits) (x3 := l.toNat) (by decide) (by decide) (by decide) d.bits_lt a.bits_lt b.bits_lt l.isLt
  refine of_word odd lt ?_ rfl hw
  rw [decodeWord, major1 _ s1]
  unfold readMulDiv
  rw [s29]
  simp only [s7, s13, s19, s25, rspec_bits d, rspec_bits a, rspec_bits b, Option.bind_some, BitVec.ofNat_toNat, BitVec.setWidth_eq, hw, if_true, interpInstr]

theorem clz (d : RSpec) (a : RSpec) : Statement (.clz d a) := by
  intro hw
  replace hw : (d.writable && a.readable) = true := hw
  have ⟨odd, lt, s1, s7, s13, s19, s25⟩ := seg2 (c := 0x5) (k0 := 2) (k1 := 0) (k2 := 0) (x0 := d.bits) (x1 := a.bits) (by decide) (by decide) (by decide) (by decide) d.bits_lt a.bits_lt
  refine of_word odd lt ?_ rfl hw
  rw [decodeWord, major2 _ s1]
  unfold readBits
  rw [s25]
  simp only [s7, s13, s19, rspec_bits d, rspec_bits a, Option.bind_some, hw, if_true, interpInstr]

theorem ctz (d : RSpec) (a : RSpec) : Statement (.ctz d a) := by
  intro hw
  replace hw : (d.writable && a.readable) = true := hw
  have ⟨odd, lt, s1, s7, s13, s19, s25⟩ := seg2 (c := 0x2000005) (k0 := 2) (k1 := 0) (k2 := 1) (x0 := d.bits) (x1 := a.bits) (by decide) (by decide) (by decide) (by decide) d.bits_lt a.bits_lt
  refine of_word odd lt ?_ rfl hw
  rw [decodeWord, major2 _ s1]
  unfold readBits
  rw [s25]
  simp only [s7, s13, s19, rspec_bits d, rspec_bits a, Option.bind_some, hw, if_true, interpInstr]

theorem popc (d : RSpec) (a : RSpec) : Statement (.popc d a) := by
  intro hw
  replace hw : (d.writable && a.readable) = true := hw
  have ⟨odd, lt, s1, s7, s13, s19, s25⟩ := seg2 (c := 0x4000005) (k0 := 2) (k1 := 0) (k2 := 2) (x0 := d.bits) (x1 := a.bits) (by decide) (by decide) (by decide) (by decide) d.bits_lt a.bits_lt
  refine of_word odd lt ?_ rfl hw
  rw [decodeWord, major2 _ s1]
  unfold readBits
  rw [s25]
  simp only [s7, s13, s19, rspec_bits d, rspec_bits a, Option.bind_some, hw, if_true, interpInstr]

theorem brev (d : RSpec) (a : RSpec) : Statement (.brev d a) := by
  intro hw
  replace hw : (d.writable && a.readable) = true := hw
  have ⟨odd, lt, s1, s7, s13, s19, s25⟩ := seg2 (c := 0x6000005) (k0 := 2) (k1 := 0) (k2 := 3) (x0 := d.bits) (x1 := a.bits) (by decide) (by decide) (by decide) (by decide) d.bits_lt a.bits_lt
  refine of_word odd lt ?_ rfl hw
  rw [decodeWord, major2 _ s1]
  unfold readBits
  rw [s25]
  simp only [s7, s13, s19, rspec_bits d, rspec_bits a, Option.bind_some, hw, if_true, interpInstr]

theorem bswap (d : RSpec) (a : RSpec) : Statement (.bswap d a) := by
  intro hw
  replace hw : (d.writable && a.readable) = true := hw
  have ⟨odd, lt, s1, s7, s13, s19, s25⟩ := seg2 (c := 0x8000005) (k0 := 2) (k1 := 0) (k2 := 4) (x0 := d.bits) (x1 := a.bits) (by decide) (by decide) (by decide) (by decide) d.bits_lt a.bits_lt
  refine of_word odd lt ?_ rfl hw
  rw [decodeWord, major2 _ s1]
  unfold readBits
  rw [s25]
  simp only [s7, s13, s19, rspec_bits d, rspec_bits a, Option.bind_some, hw, if_true, interpInstr]

theorem sextb (d : RSpec) (a : RSpec) : Statement (.sextb d a) := by
  intro hw
  replace hw : (d.writable && a.readable) = true := hw
  have ⟨odd, lt, s1, s7, s13, s19, s25⟩ := seg2 (c := 0xa000005) (k0 := 2) (k1 := 0) (k2 := 5) (x0 := d.bits) (x1 := a.bits) (by decide) (by decide) (by decide) (by decide) d.bits_lt a.bits_lt
  refine of_word odd lt ?_ rfl hw
  rw [decodeWord, major2 _ s1]
  unfold readBits
  rw [s25]
  simp only [s7, s13, s19, rspec_bits d, rspec_bits a, Option.bind_some, hw, if_true, interpInstr]

theorem sexth (d : RSpec) (a : RSpec) : Statement (.sexth d a) := by
  intro hw
  replace hw : (d.writable && a.readable) = true := hw
  have ⟨odd, lt, s1, s7, s13, s19, s25⟩ := seg2 (c := 0xc000005) (k0 := 2) (k1 := 0) (k2 := 6) (x0 := d.bits) (x1 := a.bits) (by decide) (by decide) (by decide) (by decide) d.bits_lt a.bits_lt
  refine of_word odd lt ?_ rfl hw
  rw [decodeWord, major2 _ s1]
  unfold readBits
  rw [s25]
  simp only [s7, s13, s19, rspec_bits d, rspec_bits a, Option.bind_some, hw, if_true, interpInstr]

theorem sextw (d : RSpec) (a : RSpec) : Statement (.sextw d a) := by
  intro hw
  replace hw : (d.writable && a.readable) = true := hw
  have ⟨odd, lt, s1, s7, s13, s19, s25⟩ := seg2 (c := 0xe000005) (k0 := 2) (k1 := 0) (k2 := 7) (x0 := d.bits) (x1 := a.bits) (by decide) (by decide) (by decide) (by decide) d.bits_lt a.bits_lt
  refine of_word odd lt ?_ rfl hw
  rw [decodeWord, major2 _ s1]
  unfold readBits
  rw [s25]
  simp only [s7, s13, s19, rspec_bits d, rspec_bits a, Option.bind_some, hw, if_true, interpInstr]

theorem extu (d : RSpec) (a : RSpec) (pos : BitVec 6) (len1 : BitVec 6) : Statement (.extu d a pos len1) := by
  intro hw
  replace hw : (d.writable && a.readable && decide (pos.toNat + len1.toNat + 1 ≤ 64)) = true := hw
  have ⟨odd, lt, s1, s7, s13, s19, s25, s31⟩ := seg3 (c := 0x7) (k0 := 3) (k1 := 0) (x0 := d.bits) (x1 := a.bits) (x2 := pos.toNat) (x3 := len1.toNat) (by decide) (by decide) (by decide) d.bits_lt a.bits_lt pos.isLt len1.isLt
  refine of_word odd lt ?_ rfl hw
  rw [decodeWord, major3 _ s1]
  simp only [s7, s13, s19, s25, s31, rspec_bits d, rspec_bits a, Option.bind_some, BitVec.ofNat_toNat, BitVec.setWidth_eq, hw, if_true, interpInstr]

theorem exts (d : RSpec) (a : RSpec) (pos : BitVec 6) (len1 : BitVec 6) : Statement (.exts d a pos len1) := by
  intro hw
  replace hw : (d.writable && a.readable && decide (pos.toNat + len1.toNat + 1 ≤ 64)) = true := hw
  have ⟨odd, lt, s1, s7, s13, s19, s25, s31⟩ := seg3 (c := 0x9) (k0 := 4) (k1 := 0) (x0 := d.bits) (x1 := a.bits) (x2 := pos.toNat) (x3 := len1.toNat) (by decide) (by decide) (by decide) d.bits_lt a.bits_lt pos.isLt len1.isLt
  refine of_word odd lt ?_ rfl hw
  rw [decodeWord, major4 _ s1]
  simp only [s7, s13, s19, s25, s31, rspec_bits d, rspec_bits a, Option.bind_some, BitVec.ofNat_toNat, BitVec.setWidth_eq, hw, if_true, interpInstr]

theorem ins (d : RSpec) (a : RSpec) (pos : BitVec 6) (len1 : BitVec 6) : Statement (.ins d a pos len1) := by
  intro hw
  replace hw : (d.inOut && a.readable && decide (pos.toNat + len1.toNat + 1 ≤ 64)) = true := hw
  have ⟨odd, lt, s1, s7, s13, s19, s25, s31⟩ := seg3 (c := 0xb) (k0 := 5) (k1 := 0) (x0 := d.bits) (x1 := a.bits) (x2 := pos.toNat) (x3 := len1.toNat) (by decide) (by decide) (by decide) d.bits_lt a.bits_lt pos.isLt len1.isLt
  refine of_word odd lt ?_ rfl hw
  rw [decodeWord, major5 _ s1]
  simp only [s7, s13, s19, s25, s31, rspec_bits d, rspec_bits a, Option.bind_some, BitVec.ofNat_toNat, BitVec.setWidth_eq, hw, if_true, interpInstr]

theorem addi (d : RSpec) (a : RSpec) (imm : BitVec 13) : Statement (.addi d a imm) := by
  intro hw
  replace hw : (d.writable && a.readable) = true := hw
  have ⟨odd, lt, s1, s7, s13, s19⟩ := seg4 (c := 0xd) (k0 := 6) (x0 := d.bits) (x1 := a.bits) (x2 := imm.toNat) (by decide) (by decide) d.bits_lt a.bits_lt imm.isLt
  refine of_word odd lt ?_ rfl hw
  rw [decodeWord, major6 _ s1]
  simp only [s7, s13, s19, rspec_bits d, rspec_bits a, Option.bind_some, BitVec.ofNat_toNat, BitVec.setWidth_eq, hw, if_true, interpInstr]

theorem andi (d : RSpec) (a : RSpec) (imm : BitVec 13) : Statement (.andi d a imm) := by
  intro hw
  replace hw : (d.writable && a.readable) = true := hw
  have ⟨odd, lt, s1, s7, s13, s19⟩ := seg4 (c := 0xf) (k0 := 7) (x0 := d.bits) (x1 := a.bits) (x2 := imm.toNat) (by decide) (by decide) d.bits_lt a.bits_lt imm.isLt
  refine of_word odd lt ?_ rfl hw
  rw [decodeWord, major7 _ s1]
  simp only [s7, s13, s19, rspec_bits d, rspec_bits a, Option.bind_some, BitVec.ofNat_toNat, BitVec.setWidth_eq, hw, if_true, interpInstr]

theorem ori (d : RSpec) (a : RSpec) (imm : BitVec 13) : Statement (.ori d a imm) := by
  intro hw
  replace hw : (d.writable && a.readable) = true := hw
  have ⟨odd, lt, s1, s7, s13, s19⟩ := seg4 (c := 0x11) (k0 := 8) (x0 := d.bits) (x1 := a.bits) (x2 := imm.toNat) (by decide) (by decide) d.bits_lt a.bits_lt imm.isLt
  refine of_word odd lt ?_ rfl hw
  rw [decodeWord, major8 _ s1]
  simp only [s7, s13, s19, rspec_bits d, rspec_bits a, Option.bind_some, BitVec.ofNat_toNat, BitVec.setWidth_eq, hw, if_true, interpInstr]

theorem xori (d : RSpec) (a : RSpec) (imm : BitVec 13) : Statement (.xori d a imm) := by
  intro hw
  replace hw : (d.writable && a.readable) = true := hw
  have ⟨odd, lt, s1, s7, s13, s19⟩ := seg4 (c := 0x13) (k0 := 9) (x0 := d.bits) (x1 := a.bits) (x2 := imm.toNat) (by decide) (by decide) d.bits_lt a.bits_lt imm.isLt
  refine of_word odd lt ?_ rfl hw
  rw [decodeWord, major9 _ s1]
  simp only [s7, s13, s19, rspec_bits d, rspec_bits a, Option.bind_some, BitVec.ofNat_toNat, BitVec.setWidth_eq, hw, if_true, interpInstr]

theorem slti (d : RSpec) (a : RSpec) (imm : BitVec 13) : Statement (.slti d a imm) := by
  intro hw
  replace hw : (d.writable && a.readable) = true := hw
  have ⟨odd, lt, s1, s7, s13, s19⟩ := seg4 (c := 0x15) (k0 := 10) (x0 := d.bits) (x1 := a.bits) (x2 := imm.toNat) (by decide) (by decide) d.bits_lt a.bits_lt imm.isLt
  refine of_word odd lt ?_ rfl hw
  rw [decodeWord, major10 _ s1]
  simp only [s7, s13, s19, rspec_bits d, rspec_bits a, Option.bind_some, BitVec.ofNat_toNat, BitVec.setWidth_eq, hw, if_true, interpInstr]

theorem sltui (d : RSpec) (a : RSpec) (imm : BitVec 13) : Statement (.sltui d a imm) := by
  intro hw
  replace hw : (d.writable && a.readable) = true := hw
  have ⟨odd, lt, s1, s7, s13, s19⟩ := seg4 (c := 0x17) (k0 := 11) (x0 := d.bits) (x1 := a.bits) (x2 := imm.toNat) (by decide) (by decide) d.bits_lt a.bits_lt imm.isLt
  refine of_word odd lt ?_ rfl hw
  rw [decodeWord, major11 _ s1]
  simp only [s7, s13, s19, rspec_bits d, rspec_bits a, Option.bind_some, BitVec.ofNat_toNat, BitVec.setWidth_eq, hw, if_true, interpInstr]

theorem shli (d : RSpec) (a : RSpec) (sh : BitVec 6) : Statement (.shli d a sh) := by
  intro hw
  replace hw : (d.writable && a.readable) = true := hw
  have ⟨odd, lt, s1, s7, s13, s19, s25, s30⟩ := seg5 (c := 0x19) (k0 := 12) (k1 := 0) (k2 := 0) (x0 := d.bits) (x1 := a.bits) (x2 := sh.toNat) (by decide) (by decide) (by decide) (by decide) d.bits_lt a.bits_lt sh.isLt
  refine of_word odd lt ?_ rfl hw
  rw [decodeWord, major12 _ s1]
  unfold readShiftI
  rw [s30]
  simp only [s7, s13, s19, s25, rspec_bits d, rspec_bits a, Option.bind_some, BitVec.ofNat_toNat, BitVec.setWidth_eq, hw, if_true, interpInstr]

theorem shri (d : RSpec) (a : RSpec) (sh : BitVec 6) : Statement (.shri d a sh) := by
  intro hw
  replace hw : (d.writable && a.readable) = true := hw
  have ⟨odd, lt, s1, s7, s13, s19, s25, s30⟩ := seg5 (c := 0x40000019) (k0 := 12) (k1 := 0) (k2 := 1) (x0 := d.bits) (x1 := a.bits) (x2 := sh.toNat) (by decide) (by decide) (by decide) (by decide) d.bits_lt a.bits_lt sh.isLt
  refine of_word odd lt ?_ rfl hw
  rw [decodeWord, major12 _ s1]
  unfold readShiftI
  rw [s30]
  simp only [s7, s13, s19, s25, rspec_bits d, rspec_bits a, Option.bind_some, BitVec.ofNat_toNat, BitVec.setWidth_eq, hw, if_true, interpInstr]

theorem srai (d : RSpec) (a : RSpec) (sh : BitVec 6) : Statement (.srai d a sh) := by
  intro hw
  replace hw : (d.writable && a.readable) = true := hw
  have ⟨odd, lt, s1, s7, s13, s19, s25, s30⟩ := seg5 (c := 0x80000019) (k0 := 12) (k1 := 0) (k2 := 2) (x0 := d.bits) (x1 := a.bits) (x2 := sh.toNat) (by decide) (by decide) (by decide) (by decide) d.bits_lt a.bits_lt sh.isLt
  refine of_word odd lt ?_ rfl hw
  rw [decodeWord, major12 _ s1]
  unfold readShiftI
  rw [s30]
  simp only [s7, s13, s19, s25, rspec_bits d, rspec_bits a, Option.bind_some, BitVec.ofNat_toNat, BitVec.setWidth_eq, hw, if_true, interpInstr]

theorem rori (d : RSpec) (a : RSpec) (sh : BitVec 6) : Statement (.rori d a sh) := by
  intro hw
  replace hw : (d.writable && a.readable) = true := hw
  have ⟨odd, lt, s1, s7, s13, s19, s25, s30⟩ := seg5 (c := 0xc0000019) (k0 := 12) (k1 := 0) (k2 := 3) (x0 := d.bits) (x1 := a.bits) (x2 := sh.toNat) (by decide) (by decide) (by decide) (by decide) d.bits_lt a.bits_lt sh.isLt
  refine of_word odd lt ?_ rfl hw
  rw [decodeWord, major12 _ s1]
  unfold readShiftI
  rw [s30]
  simp only [s7, s13, s19, s25, rspec_bits d, rspec_bits a, Option.bind_some, BitVec.ofNat_toNat, BitVec.setWidth_eq, hw, if_true, interpInstr]

theorem lih (d : RSpec) (imm : BitVec 19) : Statement (.lih d imm) := by
  intro hw
  replace hw : (d.writable) = true := hw
  have ⟨odd, lt, s1, s7, s13⟩ := seg6 (c := 0x1b) (k0 := 13) (x0 := d.bits) (x1 := imm.toNat) (by decide) (by decide) d.bits_lt imm.isLt
  refine of_word odd lt ?_ rfl hw
  rw [decodeWord, major13 _ s1]
  simp only [s7, s13, rspec_bits d, Option.bind_some, BitVec.ofNat_toNat, BitVec.setWidth_eq, hw, if_true, interpInstr]

theorem lix (d : RSpec) (imm : BitVec 19) : Statement (.lix d imm) := by
  intro hw
  replace hw : (d.inOut) = true := hw
  have ⟨odd, lt, s1, s7, s13⟩ := seg6 (c := 0x1d) (k0 := 14) (x0 := d.bits) (x1 := imm.toNat) (by decide) (by decide) d.bits_lt imm.isLt
  refine of_word odd lt ?_ rfl hw
  rw [decodeWord, major14 _ s1]
  simp only [s7, s13, rspec_bits d, Option.bind_some, BitVec.ofNat_toNat, BitVec.setWidth_eq, hw, if_true, interpInstr]

theorem addpc (d : RSpec) (imm : BitVec 19) : Statement (.addpc d imm) := by
  intro hw
  replace hw : (d.writable) = true := hw
  have ⟨odd, lt, s1, s7, s13⟩ := seg6 (c := 0x1f) (k0 := 15) (x0 := d.bits) (x1 := imm.toNat) (by decide) (by decide) d.bits_lt imm.isLt
  refine of_word odd lt ?_ rfl hw
  rw [decodeWord, major15 _ s1]
  simp only [s7, s13, rspec_bits d, Option.bind_some, BitVec.ofNat_toNat, BitVec.setWidth_eq, hw, if_true, interpInstr]

theorem beq (a : RSpec) (b : RSpec) (off : BitVec 10) : Statement (.beq a b off) := by
  intro hw
  replace hw : (a.readable && b.readable) = true := hw
  have ⟨odd, lt, s1, s7, s10, s16, s22⟩ := seg7 (c := 0x21) (k0 := 16) (k1 := 0) (x0 := a.bits) (x1 := b.bits) (x2 := off.toNat) (by decide) (by decide) (by decide) a.bits_lt b.bits_lt off.isLt
  refine of_word odd lt ?_ rfl hw
  rw [decodeWord, major16 _ s1]
  unfold readBr
  rw [s7]
  simp only [s10, s16, s22, rspec_bits a, rspec_bits b, Option.bind_some, BitVec.ofNat_toNat, BitVec.setWidth_eq, hw, if_true, interpInstr]

theorem bne (a : RSpec) (b : RSpec) (off : BitVec 10) : Statement (.bne a b off) := by
  intro hw
  replace hw : (a.readable && b.readable) = true := hw
  have ⟨odd, lt, s1, s7, s10, s16, s22⟩ := seg7 (c := 0xa1) (k0 := 16) (k1 := 1) (x0 := a.bits) (x1 := b.bits) (x2 := off.toNat) (by decide) (by decide) (by decide) a.bits_lt b.bits_lt off.isLt
  refine of_word odd lt ?_ rfl hw
  rw [decodeWord, major16 _ s1]
  unfold readBr
  rw [s7]
  simp only [s10, s16, s22, rspec_bits a, rspec_bits b, Option.bind_some, BitVec.ofNat_toNat, BitVec.setWidth_eq, hw, if_true, interpInstr]

theorem blt (a : RSpec) (b : RSpec) (off : BitVec 10) : Statement (.blt a b off) := by
  intro hw
  replace hw : (a.readable && b.readable) = true := hw
  have ⟨odd, lt, s1, s7, s10, s16, s22⟩ := seg7 (c := 0x121) (k0 := 16) (k1 := 2) (x0 := a.bits) (x1 := b.bits) (x2 := off.toNat) (by decide) (by decide) (by decide) a.bits_lt b.bits_lt off.isLt
  refine of_word odd lt ?_ rfl hw
  rw [decodeWord, major16 _ s1]
  unfold readBr
  rw [s7]
  simp only [s10, s16, s22, rspec_bits a, rspec_bits b, Option.bind_some, BitVec.ofNat_toNat, BitVec.setWidth_eq, hw, if_true, interpInstr]

theorem bge (a : RSpec) (b : RSpec) (off : BitVec 10) : Statement (.bge a b off) := by
  intro hw
  replace hw : (a.readable && b.readable) = true := hw
  have ⟨odd, lt, s1, s7, s10, s16, s22⟩ := seg7 (c := 0x1a1) (k0 := 16) (k1 := 3) (x0 := a.bits) (x1 := b.bits) (x2 := off.toNat) (by decide) (by decide) (by decide) a.bits_lt b.bits_lt off.isLt
  refine of_word odd lt ?_ rfl hw
  rw [decodeWord, major16 _ s1]
  unfold readBr
  rw [s7]
  simp only [s10, s16, s22, rspec_bits a, rspec_bits b, Option.bind_some, BitVec.ofNat_toNat, BitVec.setWidth_eq, hw, if_true, interpInstr]

theorem bltu (a : RSpec) (b : RSpec) (off : BitVec 10) : Statement (.bltu a b off) := by
  intro hw
  replace hw : (a.readable && b.readable) = true := hw
  have ⟨odd, lt, s1, s7, s10, s16, s22⟩ := seg7 (c := 0x221) (k0 := 16) (k1 := 4) (x0 := a.bits) (x1 := b.bits) (x2 := off.toNat) (by decide) (by decide) (by decide) a.bits_lt b.bits_lt off.isLt
  refine of_word odd lt ?_ rfl hw
  rw [decodeWord, major16 _ s1]
  unfold readBr
  rw [s7]
  simp only [s10, s16, s22, rspec_bits a, rspec_bits b, Option.bind_some, BitVec.ofNat_toNat, BitVec.setWidth_eq, hw, if_true, interpInstr]

theorem bgeu (a : RSpec) (b : RSpec) (off : BitVec 10) : Statement (.bgeu a b off) := by
  intro hw
  replace hw : (a.readable && b.readable) = true := hw
  have ⟨odd, lt, s1, s7, s10, s16, s22⟩ := seg7 (c := 0x2a1) (k0 := 16) (k1 := 5) (x0 := a.bits) (x1 := b.bits) (x2 := off.toNat) (by decide) (by decide) (by decide) a.bits_lt b.bits_lt off.isLt
  refine of_word odd lt ?_ rfl hw
  rw [decodeWord, major16 _ s1]
  unfold readBr
  rw [s7]
  simp only [s10, s16, s22, rspec_bits a, rspec_bits b, Option.bind_some, BitVec.ofNat_toNat, BitVec.setWidth_eq, hw, if_true, interpInstr]

theorem bbs (a : RSpec) (bit : BitVec 6) (off : BitVec 10) : Statement (.bbs a bit off) := by
  intro hw
  replace hw : (a.readable) = true := hw
  have ⟨odd, lt, s1, s7, s10, s16, s22⟩ := seg7 (c := 0x321) (k0 := 16) (k1 := 6) (x0 := a.bits) (x1 := bit.toNat) (x2 := off.toNat) (by decide) (by decide) (by decide) a.bits_lt bit.isLt off.isLt
  refine of_word odd lt ?_ rfl hw
  rw [decodeWord, major16 _ s1]
  unfold readBr
  rw [s7]
  simp only [s10, s16, s22, rspec_bits a, Option.bind_some, BitVec.ofNat_toNat, BitVec.setWidth_eq, hw, if_true, interpInstr]

theorem bbc (a : RSpec) (bit : BitVec 6) (off : BitVec 10) : Statement (.bbc a bit off) := by
  intro hw
  replace hw : (a.readable) = true := hw
  have ⟨odd, lt, s1, s7, s10, s16, s22⟩ := seg7 (c := 0x3a1) (k0 := 16) (k1 := 7) (x0 := a.bits) (x1 := bit.toNat) (x2 := off.toNat) (by decide) (by decide) (by decide) a.bits_lt bit.isLt off.isLt
  refine of_word odd lt ?_ rfl hw
  rw [decodeWord, major16 _ s1]
  unfold readBr
  rw [s7]
  simp only [s10, s16, s22, rspec_bits a, Option.bind_some, BitVec.ofNat_toNat, BitVec.setWidth_eq, hw, if_true, interpInstr]

theorem j (off : BitVec 25) : Statement (.j off) := by
  intro hw
  have ⟨odd, lt, s1, s7⟩ := seg8 (c := 0x23) (k0 := 17) (x0 := off.toNat) (by decide) (by decide) off.isLt
  refine of_word odd lt ?_ rfl hw
  rw [decodeWord, major17 _ s1]
  simp only [s7, BitVec.ofNat_toNat, BitVec.setWidth_eq, interpInstr]

theorem jal (off : BitVec 25) : Statement (.jal off) := by
  intro hw
  have ⟨odd, lt, s1, s7⟩ := seg8 (c := 0x25) (k0 := 18) (x0 := off.toNat) (by decide) (by decide) off.isLt
  refine of_word odd lt ?_ rfl hw
  rw [decodeWord, major18 _ s1]
  simp only [s7, BitVec.ofNat_toNat, BitVec.setWidth_eq, interpInstr]

theorem jalr (d : RSpec) (a : RSpec) (imm : BitVec 13) : Statement (.jalr d a imm) := by
  intro hw
  replace hw : (d.writable && a.readable) = true := hw
  have ⟨odd, lt, s1, s7, s13, s19⟩ := seg4 (c := 0x27) (k0 := 19) (x0 := d.bits) (x1 := a.bits) (x2 := imm.toNat) (by decide) (by decide) d.bits_lt a.bits_lt imm.isLt
  refine of_word odd lt ?_ rfl hw
  rw [decodeWord, major19 _ s1]
  simp only [s7, s13, s19, rspec_bits d, rspec_bits a, Option.bind_some, BitVec.ofNat_toNat, BitVec.setWidth_eq, hw, if_true, interpInstr]

theorem loop (c : RSpec) (fin : BitVec 19) : Statement (.loop c fin) := by
  intro hw
  replace hw : (c.inOut && decide (3 ≤ fin.toNat)) = true := hw
  have ⟨odd, lt, s1, s7, s13⟩ := seg6 (c := 0x29) (k0 := 20) (x0 := c.bits) (x1 := fin.toNat) (by decide) (by decide) c.bits_lt fin.isLt
  refine of_word odd lt ?_ rfl hw
  rw [decodeWord, major20 _ s1]
  simp only [s7, s13, rspec_bits c, Option.bind_some, BitVec.ofNat_toNat, BitVec.setWidth_eq, hw, if_true, interpInstr]

theorem rep (n1 : BitVec 4) (c : RSpec) (vs : BitVec 6) : Statement (.rep n1 c vs) := by
  intro hw
  replace hw : (c.inOut) = true := hw
  have ⟨odd, lt, s1, s7, s13, s17, s23⟩ := seg9 (c := 0x2b) (k0 := 21) (k1 := 0) (x0 := c.bits) (x1 := n1.toNat) (x2 := vs.toNat) (by decide) (by decide) (by decide) c.bits_lt n1.isLt vs.isLt
  refine of_word odd lt ?_ rfl hw
  rw [decodeWord, major21 _ s1]
  simp only [s7, s13, s17, s23, rspec_bits c, Option.bind_some, BitVec.ofNat_toNat, BitVec.setWidth_eq, hw, if_true, interpInstr]

theorem repBodyIssue : Statement .repBodyIssue := fun _ h => absurd rfl h

theorem endAct : Statement .endAct := by
  intro hw
  have ⟨odd, lt, s1, s7, s19, s25⟩ := seg10 (c := 0x2d) (k0 := 22) (k1 := 0) (k2 := 0) (k3 := 0) (by decide) (by decide) (by decide) (by decide) (by decide)
  refine of_word odd lt ?_ rfl hw
  rw [decodeWord, major22 _ s1]
  unfold readAct
  rw [s25, s19]
  simp only [s7, if_true, interpInstr]

theorem endAbort : Statement .endAbort := by
  intro hw
  have ⟨odd, lt, s1, s7, s19, s25⟩ := seg10 (c := 0x8002d) (k0 := 22) (k1 := 0) (k2 := 1) (k3 := 0) (by decide) (by decide) (by decide) (by decide) (by decide)
  refine of_word odd lt ?_ rfl hw
  rw [decodeWord, major22 _ s1]
  unfold readAct
  rw [s25, s19]
  simp only [s7, if_true, interpInstr]

theorem callat (d : RSpec) (a : RSpec) (b : RSpec) : Statement (.callat d a b) := by
  intro hw
  replace hw : (d.readable && a.readable && b.readable) = true := hw
  have ⟨odd, lt, s1, s7, s13, s19, s25⟩ := seg0 (c := 0x200002d) (k0 := 22) (k1 := 1) (x0 := d.bits) (x1 := a.bits) (x2 := b.bits) (by decide) (by decide) (by decide) d.bits_lt a.bits_lt b.bits_lt
  refine of_word odd lt ?_ rfl hw
  rw [decodeWord, major22 _ s1]
  unfold readAct
  rw [s25]
  simp only [s7, s13, s19, rspec_bits d, rspec_bits a, rspec_bits b, Option.bind_some, hw, if_true, interpInstr]

theorem reply (a : RSpec) : Statement (.reply a) := by
  intro hw
  replace hw : (a.readable) = true := hw
  have ⟨odd, lt, s1, s7, s13, s19, s25⟩ := seg11 (c := 0x400002d) (k0 := 22) (k1 := 0) (k2 := 0) (k3 := 2) (x0 := a.bits) (by decide) (by decide) (by decide) (by decide) (by decide) a.bits_lt
  refine of_word odd lt ?_ rfl hw
  rw [decodeWord, major22 _ s1]
  unfold readAct
  rw [s25]
  simp only [s7, s13, s19, rspec_bits a, Option.bind_some, hw, if_true, and_self, interpInstr]

theorem spawn (d : RSpec) (a : RSpec) : Statement (.spawn d a) := by
  intro hw
  replace hw : (d.writable && a.readable) = true := hw
  have ⟨odd, lt, s1, s7, s13, s19, s25⟩ := seg2 (c := 0x600002d) (k0 := 22) (k1 := 0) (k2 := 3) (x0 := d.bits) (x1 := a.bits) (by decide) (by decide) (by decide) (by decide) d.bits_lt a.bits_lt
  refine of_word odd lt ?_ rfl hw
  rw [decodeWord, major22 _ s1]
  unfold readAct
  rw [s25, s19]
  simp only [s7, s13, rspec_bits d, rspec_bits a, Option.bind_some, hw, if_true, interpInstr]

theorem spawnH (d : RSpec) (a : RSpec) : Statement (.spawnH d a) := by
  intro hw
  replace hw : (d.writable && a.readable) = true := hw
  have ⟨odd, lt, s1, s7, s13, s19, s25⟩ := seg2 (c := 0x608002d) (k0 := 22) (k1 := 1) (k2 := 3) (x0 := d.bits) (x1 := a.bits) (by decide) (by decide) (by decide) (by decide) d.bits_lt a.bits_lt
  refine of_word odd lt ?_ rfl hw
  rw [decodeWord, major22 _ s1]
  unfold readAct
  rw [s25, s19]
  simp only [s7, s13, rspec_bits d, rspec_bits a, Option.bind_some, hw, if_true, interpInstr]

theorem wclaim (d : RSpec) (a : RSpec) : Statement (.wclaim d a) := by
  intro hw
  replace hw : (d.writable && a.readable) = true := hw
  have ⟨odd, lt, s1, s7, s13, s19, s25⟩ := seg2 (c := 0x800002d) (k0 := 22) (k1 := 0) (k2 := 4) (x0 := d.bits) (x1 := a.bits) (by decide) (by decide) (by decide) (by decide) d.bits_lt a.bits_lt
  refine of_word odd lt ?_ rfl hw
  rw [decodeWord, major22 _ s1]
  unfold readAct
  rw [s25]
  simp only [s7, s13, s19, rspec_bits d, rspec_bits a, Option.bind_some, hw, if_true, interpInstr]

theorem wrel (a : RSpec) : Statement (.wrel a) := by
  intro hw
  replace hw : (a.readable) = true := hw
  have ⟨odd, lt, s1, s7, s13, s19, s25⟩ := seg11 (c := 0xa00002d) (k0 := 22) (k1 := 0) (k2 := 0) (k3 := 5) (x0 := a.bits) (by decide) (by decide) (by decide) (by decide) (by decide) a.bits_lt
  refine of_word odd lt ?_ rfl hw
  rw [decodeWord, major22 _ s1]
  unfold readAct
  rw [s25]
  simp only [s7, s13, s19, rspec_bits a, Option.bind_some, hw, if_true, and_self, interpInstr]

theorem apop (d : RSpec) : Statement (.apop d) := by
  intro hw
  replace hw : (d.group8) = true := hw
  have ⟨odd, lt, s1, s7, s13, s25⟩ := seg12 (c := 0xc00002d) (k0 := 22) (k1 := 0) (k2 := 6) (x0 := d.bits) (by decide) (by decide) (by decide) (by decide) d.bits_lt
  refine of_word odd lt ?_ rfl hw
  rw [decodeWord, major22 _ s1]
  unfold readAct
  rw [s25]
  simp only [s7, s13, rspec_bits d, Option.bind_some, hw, if_true, interpInstr]

theorem apush (a : RSpec) : Statement (.apush a) := by
  intro hw
  replace hw : (a.group8) = true := hw
  have ⟨odd, lt, s1, s7, s13, s19, s25⟩ := seg11 (c := 0xe00002d) (k0 := 22) (k1 := 0) (k2 := 0) (k3 := 7) (x0 := a.bits) (by decide) (by decide) (by decide) (by decide) (by decide) a.bits_lt
  refine of_word odd lt ?_ rfl hw
  rw [decodeWord, major22 _ s1]
  unfold readAct
  rw [s25]
  simp only [s7, s13, s19, rspec_bits a, Option.bind_some, hw, if_true, and_self, interpInstr]

theorem nop : Statement .nop := by
  intro hw
  have ⟨odd, lt, s1, s7, s25⟩ := seg13 (c := 0x2f) (k0 := 23) (k1 := 0) (k2 := 0) (by decide) (by decide) (by decide) (by decide)
  refine of_word odd lt ?_ rfl hw
  rw [decodeWord, major23 _ s1]
  unfold readTraps
  rw [s25]
  simp only [s7, if_true, interpInstr]

theorem trap (a : RSpec) : Statement (.trap a) := by
  intro hw
  replace hw : (a.readable) = true := hw
  have ⟨odd, lt, s1, s7, s13, s19, s25⟩ := seg11 (c := 0x200002f) (k0 := 23) (k1 := 0) (k2 := 0) (k3 := 1) (x0 := a.bits) (by decide) (by decide) (by decide) (by decide) (by decide) a.bits_lt
  refine of_word odd lt ?_ rfl hw
  rw [decodeWord, major23 _ s1]
  unfold readTraps
  rw [s25]
  simp only [s7, s13, s19, rspec_bits a, Option.bind_some, hw, if_true, and_self, interpInstr]

theorem brk : Statement .brk := by
  intro hw
  have ⟨odd, lt, s1, s7, s25⟩ := seg13 (c := 0x400002f) (k0 := 23) (k1 := 0) (k2 := 2) (by decide) (by decide) (by decide) (by decide)
  refine of_word odd lt ?_ rfl hw
  rw [decodeWord, major23 _ s1]
  unfold readTraps
  rw [s25]
  simp only [s7, if_true, interpInstr]

theorem rte : Statement .rte := by
  intro hw
  have ⟨odd, lt, s1, s7, s25⟩ := seg13 (c := 0x600002f) (k0 := 23) (k1 := 0) (k2 := 3) (by decide) (by decide) (by decide) (by decide)
  refine of_word odd lt ?_ rfl hw
  rw [decodeWord, major23 _ s1]
  unfold readTraps
  rw [s25]
  simp only [s7, if_true, interpInstr]

theorem idle : Statement .idle := by
  intro hw
  have ⟨odd, lt, s1, s7, s25⟩ := seg13 (c := 0x800002f) (k0 := 23) (k1 := 0) (k2 := 4) (by decide) (by decide) (by decide) (by decide)
  refine of_word odd lt ?_ rfl hw
  rw [decodeWord, major23 _ s1]
  unfold readTraps
  rw [s25]
  simp only [s7, if_true, interpInstr]

theorem ld (t : RSpec) (base : RSpec) (off : BitVec 5) (hint : BitVec 2) (size : BitVec 2) (l : BitVec 4) : Statement (.ld t base off hint size l) := by
  intro hw
  replace hw : (t.writable && base.readable) = true := hw
  have ⟨odd, lt, s1, s7, s13, s19, s23, s25, s27⟩ := seg14 (c := 0x31) (k0 := 24) (x0 := t.bits) (x1 := base.bits) (x2 := l.toNat) (x3 := size.toNat) (x4 := hint.toNat) (x5 := off.toNat) (by decide) (by decide) t.bits_lt base.bits_lt l.isLt size.isLt hint.isLt off.isLt
  refine of_word odd lt ?_ rfl hw
  rw [decodeWord, major24 _ s1]
  simp only [s7, s13, s19, s23, s25, s27, rspec_bits t, rspec_bits base, Option.bind_some, BitVec.ofNat_toNat, BitVec.setWidth_eq, hw, if_true, interpInstr]

theorem ldu (t : RSpec) (base : RSpec) (off : BitVec 5) (hint : BitVec 2) (size : BitVec 2) (l : BitVec 4) : Statement (.ldu t base off hint size l) := by
  intro hw
  replace hw : (t.writable && base.readable && decide (size.toNat < 3)) = true := hw
  have ⟨odd, lt, s1, s7, s13, s19, s23, s25, s27⟩ := seg14 (c := 0x33) (k0 := 25) (x0 := t.bits) (x1 := base.bits) (x2 := l.toNat) (x3 := size.toNat) (x4 := hint.toNat) (x5 := off.toNat) (by decide) (by decide) t.bits_lt base.bits_lt l.isLt size.isLt hint.isLt off.isLt
  refine of_word odd lt ?_ rfl hw
  rw [decodeWord, major25 _ s1]
  simp only [s7, s13, s19, s23, s25, s27, rspec_bits t, rspec_bits base, Option.bind_some, BitVec.ofNat_toNat, BitVec.setWidth_eq, hw, if_true, interpInstr]

theorem st (t : RSpec) (base : RSpec) (off : BitVec 5) (hint : BitVec 2) (size : BitVec 2) : Statement (.st t base off hint size) := by
  intro hw
  replace hw : (t.readable && base.readable) = true := hw
  have ⟨odd, lt, s1, s7, s13, s19, s23, s25, s27⟩ := seg15 (c := 0x35) (k0 := 26) (k1 := 0) (x0 := t.bits) (x1 := base.bits) (x2 := size.toNat) (x3 := hint.toNat) (x4 := off.toNat) (by decide) (by decide) (by decide) t.bits_lt base.bits_lt size.isLt hint.isLt off.isLt
  refine of_word odd lt ?_ rfl hw
  rw [decodeWord, major26 _ s1]
  simp only [s7, s13, s19, s23, s25, s27, rspec_bits t, rspec_bits base, Option.bind_some, BitVec.ofNat_toNat, BitVec.setWidth_eq, hw, if_true, interpInstr]

theorem ldv (vt : BitVec 6) (base : RSpec) (off : BitVec 5) (hint : BitVec 2) (l : BitVec 4) : Statement (.ldv vt base off hint l) := by
  intro hw
  replace hw : (base.readable) = true := hw
  have ⟨odd, lt, s1, s7, s13, s19, s23, s25, s27⟩ := seg16 (c := 0x37) (k0 := 27) (k1 := 0) (x0 := vt.toNat) (x1 := base.bits) (x2 := l.toNat) (x3 := hint.toNat) (x4 := off.toNat) (by decide) (by decide) (by decide) vt.isLt base.bits_lt l.isLt hint.isLt off.isLt
  refine of_word odd lt ?_ rfl hw
  rw [decodeWord, major27 _ s1]
  unfold readRow
  rw [s23]
  simp only [s7, s13, s19, s25, s27, rspec_bits base, Option.bind_some, BitVec.ofNat_toNat, BitVec.setWidth_eq, hw, if_true, interpInstr]

theorem stv (vt : BitVec 6) (base : RSpec) (off : BitVec 5) (hint : BitVec 2) : Statement (.stv vt base off hint) := by
  intro hw
  replace hw : (base.readable) = true := hw
  have ⟨odd, lt, s1, s7, s13, s19, s23, s25, s27⟩ := seg17 (c := 0x800037) (k0 := 27) (k1 := 0) (k2 := 1) (x0 := vt.toNat) (x1 := base.bits) (x2 := hint.toNat) (x3 := off.toNat) (by decide) (by decide) (by decide) (by decide) vt.isLt base.bits_lt hint.isLt off.isLt
  refine of_word odd lt ?_ rfl hw
  rw [decodeWord, major27 _ s1]
  unfold readRow
  rw [s23]
  simp only [s7, s13, s19, s25, s27, rspec_bits base, Option.bind_some, BitVec.ofNat_toNat, BitVec.setWidth_eq, hw, if_true, interpInstr]

theorem zfill (base : RSpec) (off : BitVec 5) (hint : BitVec 2) : Statement (.zfill base off hint) := by
  intro hw
  replace hw : (base.readable) = true := hw
  have ⟨odd, lt, s1, s7, s13, s19, s23, s25, s27⟩ := seg18 (c := 0x1000037) (k0 := 27) (k1 := 0) (k2 := 0) (k3 := 2) (x0 := base.bits) (x1 := hint.toNat) (x2 := off.toNat) (by decide) (by decide) (by decide) (by decide) (by decide) base.bits_lt hint.isLt off.isLt
  refine of_word odd lt ?_ rfl hw
  rw [decodeWord, major27 _ s1]
  unfold readRow
  rw [s23]
  simp only [s7, s13, s19, s25, s27, rspec_bits base, Option.bind_some, BitVec.ofNat_toNat, BitVec.setWidth_eq, hw, if_true, and_self, interpInstr]

theorem pref (base : RSpec) (off : BitVec 5) (hint : BitVec 2) : Statement (.pref base off hint) := by
  intro hw
  replace hw : (base.readable) = true := hw
  have ⟨odd, lt, s1, s7, s13, s19, s23, s25, s27⟩ := seg18 (c := 0x1800037) (k0 := 27) (k1 := 0) (k2 := 0) (k3 := 3) (x0 := base.bits) (x1 := hint.toNat) (x2 := off.toNat) (by decide) (by decide) (by decide) (by decide) (by decide) base.bits_lt hint.isLt off.isLt
  refine of_word odd lt ?_ rfl hw
  rw [decodeWord, major27 _ s1]
  unfold readRow
  rw [s23]
  simp only [s7, s13, s19, s25, s27, rspec_bits base, Option.bind_some, BitVec.ofNat_toNat, BitVec.setWidth_eq, hw, if_true, and_self, interpInstr]

theorem l1inv : Statement .l1inv := by
  intro hw
  have ⟨odd, lt, s1, s7, s25⟩ := seg13 (c := 0x39) (k0 := 28) (k1 := 0) (k2 := 0) (by decide) (by decide) (by decide) (by decide)
  refine of_word odd lt ?_ rfl hw
  rw [decodeWord, major28 _ s1]
  unfold readCache
  rw [s25]
  simp only [s7, if_true, interpInstr]

theorem icinv (a : RSpec) (scope : BitVec 6) : Statement (.icinv a scope) := by
  intro hw
  replace hw : (a.readable && decide (scope.toNat < 4)) = true := hw
  have ⟨odd, lt, s1, s7, s13, s19, s25⟩ := seg19 (c := 0x2000039) (k0 := 28) (k1 := 0) (k2 := 1) (x0 := a.bits) (x1 := scope.toNat) (by decide) (by decide) (by decide) (by decide) a.bits_lt scope.isLt
  refine of_word odd lt ?_ rfl hw
  rw [decodeWord, major28 _ s1]
  unfold readCache
  rw [s25]
  simp only [s7, s13, s19, rspec_bits a, Option.bind_some, BitVec.ofNat_toNat, BitVec.setWidth_eq, hw, if_true, interpInstr]

theorem bankmode (a : RSpec) (b : RSpec) : Statement (.bankmode a b) := by
  intro hw
  replace hw : (a.readable && b.readable) = true := hw
  have ⟨odd, lt, s1, s7, s13, s19, s25⟩ := seg19 (c := 0x4000039) (k0 := 28) (k1 := 0) (k2 := 2) (x0 := a.bits) (x1 := b.bits) (by decide) (by decide) (by decide) (by decide) a.bits_lt b.bits_lt
  refine of_word odd lt ?_ rfl hw
  rw [decodeWord, major28 _ s1]
  unfold readCache
  rw [s25]
  simp only [s7, s13, s19, rspec_bits a, rspec_bits b, Option.bind_some, hw, if_true, interpInstr]

theorem bankq (d : RSpec) : Statement (.bankq d) := by
  intro hw
  replace hw : (d.writable) = true := hw
  have ⟨odd, lt, s1, s7, s13, s25⟩ := seg12 (c := 0x6000039) (k0 := 28) (k1 := 0) (k2 := 3) (x0 := d.bits) (by decide) (by decide) (by decide) (by decide) d.bits_lt
  refine of_word odd lt ?_ rfl hw
  rw [decodeWord, major28 _ s1]
  unfold readCache
  rw [s25]
  simp only [s7, s13, rspec_bits d, Option.bind_some, hw, if_true, interpInstr]

theorem ldc (t : RSpec) (base : RSpec) (off : BitVec 5) (hint : BitVec 2) (size : BitVec 2) (l : BitVec 4) : Statement (.ldc t base off hint size l) := by
  intro hw
  replace hw : (t.writable && base.readable) = true := hw
  have ⟨odd, lt, s1, s7, s13, s19, s23, s25, s27⟩ := seg14 (c := 0x3b) (k0 := 29) (x0 := t.bits) (x1 := base.bits) (x2 := l.toNat) (x3 := size.toNat) (x4 := hint.toNat) (x5 := off.toNat) (by decide) (by decide) t.bits_lt base.bits_lt l.isLt size.isLt hint.isLt off.isLt
  refine of_word odd lt ?_ rfl hw
  rw [decodeWord, major29 _ s1]
  simp only [s7, s13, s19, s23, s25, s27, rspec_bits t, rspec_bits base, Option.bind_some, BitVec.ofNat_toNat, BitVec.setWidth_eq, hw, if_true, interpInstr]

theorem lds (t : RSpec) (base : RSpec) (off : BitVec 5) (l : BitVec 4) : Statement (.lds t base off l) := by
  intro hw
  replace hw : (t.writable && base.readable) = true := hw
  have ⟨odd, lt, s1, s7, s13, s19, s23, s27⟩ := seg20 (c := 0x180003d) (k0 := 30) (k1 := 3) (x0 := t.bits) (x1 := base.bits) (x2 := l.toNat) (x3 := off.toNat) (by decide) (by decide) (by decide) t.bits_lt base.bits_lt l.isLt off.isLt
  refine of_word odd lt ?_ rfl hw
  rw [decodeWord, major30 _ s1]
  unfold readLds
  rw [s23]
  simp only [s7, s13, s19, s27, rspec_bits t, rspec_bits base, Option.bind_some, BitVec.ofNat_toNat, BitVec.setWidth_eq, hw, if_true, interpInstr]

theorem ldsE (t : RSpec) (base : RSpec) (off : BitVec 5) (l : BitVec 4) : Statement (.ldsE t base off l) := by
  intro hw
  replace hw : (t.writable && base.readable) = true := hw
  have ⟨odd, lt, s1, s7, s13, s19, s23, s27⟩ := seg20 (c := 0x380003d) (k0 := 30) (k1 := 7) (x0 := t.bits) (x1 := base.bits) (x2 := l.toNat) (x3 := off.toNat) (by decide) (by decide) (by decide) t.bits_lt base.bits_lt l.isLt off.isLt
  refine of_word odd lt ?_ rfl hw
  rw [decodeWord, major30 _ s1]
  unfold readLds
  rw [s23]
  simp only [s7, s13, s19, s27, rspec_bits t, rspec_bits base, Option.bind_some, BitVec.ofNat_toNat, BitVec.setWidth_eq, hw, if_true, interpInstr]

theorem stf (t : RSpec) (base : RSpec) (off : BitVec 5) (hint : BitVec 2) : Statement (.stf t base off hint) := by
  intro hw
  replace hw : (t.readable && base.readable) = true := hw
  have ⟨odd, lt, s1, s7, s13, s19, s23, s25, s27⟩ := seg17 (c := 0x180003f) (k0 := 31) (k1 := 0) (k2 := 3) (x0 := t.bits) (x1 := base.bits) (x2 := hint.toNat) (x3 := off.toNat) (by decide) (by decide) (by decide) (by decide) t.bits_lt base.bits_lt hint.isLt off.isLt
  refine of_word odd lt ?_ rfl hw
  rw [decodeWord, major31 _ s1]
  unfold readStf
  rw [s23]
  simp only [s7, s13, s19, s25, s27, rspec_bits t, rspec_bits base, Option.bind_some, BitVec.ofNat_toNat, BitVec.setWidth_eq, hw, if_true, interpInstr]

theorem aadd (d : RSpec) (a : RSpec) (size : BitVec 1) (scope : BitVec 2) (ord : BitVec 2) (l : BitVec 4) : Statement (.aadd d a size scope ord l) := by
  intro hw
  replace hw : (d.inOut && a.readable && (l == 0 || ord == 0 || ord == 2)) = true := hw
  have ⟨odd, lt, s1, s7, s13, s19, s23, s27, s29, s31⟩ := seg21 (c := 0x41) (k0 := 32) (k1 := 0) (x0 := d.bits) (x1 := a.bits) (x2 := l.toNat) (x3 := ord.toNat) (x4 := scope.toNat) (x5 := size.toNat) (by decide) (by decide) (by decide) d.bits_lt a.bits_lt l.isLt ord.isLt scope.isLt size.isLt
  refine of_word odd lt ?_ rfl hw
  rw [decodeWord, major32 _ s1]
  unfold readAtom
  rw [s23]
  simp only [s7, s13, s19, s27, s29, s31, l_zero, ord_zero, ord_two, rspec_bits d, rspec_bits a, Option.bind_some, BitVec.ofNat_toNat, BitVec.setWidth_eq, hw, if_true, interpInstr]

theorem aand (d : RSpec) (a : RSpec) (size : BitVec 1) (scope : BitVec 2) (ord : BitVec 2) (l : BitVec 4) : Statement (.aand d a size scope ord l) := by
  intro hw
  replace hw : (d.inOut && a.readable && (l == 0 || ord == 0 || ord == 2)) = true := hw
  have ⟨odd, lt, s1, s7, s13, s19, s23, s27, s29, s31⟩ := seg21 (c := 0x800041) (k0 := 32) (k1 := 1) (x0 := d.bits) (x1 := a.bits) (x2 := l.toNat) (x3 := ord.toNat) (x4 := scope.toNat) (x5 := size.toNat) (by decide) (by decide) (by decide) d.bits_lt a.bits_lt l.isLt ord.isLt scope.isLt size.isLt
  refine of_word odd lt ?_ rfl hw
  rw [decodeWord, major32 _ s1]
  unfold readAtom
  rw [s23]
  simp only [s7, s13, s19, s27, s29, s31, l_zero, ord_zero, ord_two, rspec_bits d, rspec_bits a, Option.bind_some, BitVec.ofNat_toNat, BitVec.setWidth_eq, hw, if_true, interpInstr]

theorem aor (d : RSpec) (a : RSpec) (size : BitVec 1) (scope : BitVec 2) (ord : BitVec 2) (l : BitVec 4) : Statement (.aor d a size scope ord l) := by
  intro hw
  replace hw : (d.inOut && a.readable && (l == 0 || ord == 0 || ord == 2)) = true := hw
  have ⟨odd, lt, s1, s7, s13, s19, s23, s27, s29, s31⟩ := seg21 (c := 0x1000041) (k0 := 32) (k1 := 2) (x0 := d.bits) (x1 := a.bits) (x2 := l.toNat) (x3 := ord.toNat) (x4 := scope.toNat) (x5 := size.toNat) (by decide) (by decide) (by decide) d.bits_lt a.bits_lt l.isLt ord.isLt scope.isLt size.isLt
  refine of_word odd lt ?_ rfl hw
  rw [decodeWord, major32 _ s1]
  unfold readAtom
  rw [s23]
  simp only [s7, s13, s19, s27, s29, s31, l_zero, ord_zero, ord_two, rspec_bits d, rspec_bits a, Option.bind_some, BitVec.ofNat_toNat, BitVec.setWidth_eq, hw, if_true, interpInstr]

theorem axor (d : RSpec) (a : RSpec) (size : BitVec 1) (scope : BitVec 2) (ord : BitVec 2) (l : BitVec 4) : Statement (.axor d a size scope ord l) := by
  intro hw
  replace hw : (d.inOut && a.readable && (l == 0 || ord == 0 || ord == 2)) = true := hw
  have ⟨odd, lt, s1, s7, s13, s19, s23, s27, s29, s31⟩ := seg21 (c := 0x1800041) (k0 := 32) (k1 := 3) (x0 := d.bits) (x1 := a.bits) (x2 := l.toNat) (x3 := ord.toNat) (x4 := scope.toNat) (x5 := size.toNat) (by decide) (by decide) (by decide) d.bits_lt a.bits_lt l.isLt ord.isLt scope.isLt size.isLt
  refine of_word odd lt ?_ rfl hw
  rw [decodeWord, major32 _ s1]
  unfold readAtom
  rw [s23]
  simp only [s7, s13, s19, s27, s29, s31, l_zero, ord_zero, ord_two, rspec_bits d, rspec_bits a, Option.bind_some, BitVec.ofNat_toNat, BitVec.setWidth_eq, hw, if_true, interpInstr]

theorem amin (d : RSpec) (a : RSpec) (size : BitVec 1) (scope : BitVec 2) (ord : BitVec 2) (l : BitVec 4) : Statement (.amin d a size scope ord l) := by
  intro hw
  replace hw : (d.inOut && a.readable && (l == 0 || ord == 0 || ord == 2)) = true := hw
  have ⟨odd, lt, s1, s7, s13, s19, s23, s27, s29, s31⟩ := seg21 (c := 0x2000041) (k0 := 32) (k1 := 4) (x0 := d.bits) (x1 := a.bits) (x2 := l.toNat) (x3 := ord.toNat) (x4 := scope.toNat) (x5 := size.toNat) (by decide) (by decide) (by decide) d.bits_lt a.bits_lt l.isLt ord.isLt scope.isLt size.isLt
  refine of_word odd lt ?_ rfl hw
  rw [decodeWord, major32 _ s1]
  unfold readAtom
  rw [s23]
  simp only [s7, s13, s19, s27, s29, s31, l_zero, ord_zero, ord_two, rspec_bits d, rspec_bits a, Option.bind_some, BitVec.ofNat_toNat, BitVec.setWidth_eq, hw, if_true, interpInstr]

theorem amax (d : RSpec) (a : RSpec) (size : BitVec 1) (scope : BitVec 2) (ord : BitVec 2) (l : BitVec 4) : Statement (.amax d a size scope ord l) := by
  intro hw
  replace hw : (d.inOut && a.readable && (l == 0 || ord == 0 || ord == 2)) = true := hw
  have ⟨odd, lt, s1, s7, s13, s19, s23, s27, s29, s31⟩ := seg21 (c := 0x2800041) (k0 := 32) (k1 := 5) (x0 := d.bits) (x1 := a.bits) (x2 := l.toNat) (x3 := ord.toNat) (x4 := scope.toNat) (x5 := size.toNat) (by decide) (by decide) (by decide) d.bits_lt a.bits_lt l.isLt ord.isLt scope.isLt size.isLt
  refine of_word odd lt ?_ rfl hw
  rw [decodeWord, major32 _ s1]
  unfold readAtom
  rw [s23]
  simp only [s7, s13, s19, s27, s29, s31, l_zero, ord_zero, ord_two, rspec_bits d, rspec_bits a, Option.bind_some, BitVec.ofNat_toNat, BitVec.setWidth_eq, hw, if_true, interpInstr]

theorem aminu (d : RSpec) (a : RSpec) (size : BitVec 1) (scope : BitVec 2) (ord : BitVec 2) (l : BitVec 4) : Statement (.aminu d a size scope ord l) := by
  intro hw
  replace hw : (d.inOut && a.readable && (l == 0 || ord == 0 || ord == 2)) = true := hw
  have ⟨odd, lt, s1, s7, s13, s19, s23, s27, s29, s31⟩ := seg21 (c := 0x3000041) (k0 := 32) (k1 := 6) (x0 := d.bits) (x1 := a.bits) (x2 := l.toNat) (x3 := ord.toNat) (x4 := scope.toNat) (x5 := size.toNat) (by decide) (by decide) (by decide) d.bits_lt a.bits_lt l.isLt ord.isLt scope.isLt size.isLt
  refine of_word odd lt ?_ rfl hw
  rw [decodeWord, major32 _ s1]
  unfold readAtom
  rw [s23]
  simp only [s7, s13, s19, s27, s29, s31, l_zero, ord_zero, ord_two, rspec_bits d, rspec_bits a, Option.bind_some, BitVec.ofNat_toNat, BitVec.setWidth_eq, hw, if_true, interpInstr]

theorem amaxu (d : RSpec) (a : RSpec) (size : BitVec 1) (scope : BitVec 2) (ord : BitVec 2) (l : BitVec 4) : Statement (.amaxu d a size scope ord l) := by
  intro hw
  replace hw : (d.inOut && a.readable && (l == 0 || ord == 0 || ord == 2)) = true := hw
  have ⟨odd, lt, s1, s7, s13, s19, s23, s27, s29, s31⟩ := seg21 (c := 0x3800041) (k0 := 32) (k1 := 7) (x0 := d.bits) (x1 := a.bits) (x2 := l.toNat) (x3 := ord.toNat) (x4 := scope.toNat) (x5 := size.toNat) (by decide) (by decide) (by decide) d.bits_lt a.bits_lt l.isLt ord.isLt scope.isLt size.isLt
  refine of_word odd lt ?_ rfl hw
  rw [decodeWord, major32 _ s1]
  unfold readAtom
  rw [s23]
  simp only [s7, s13, s19, s27, s29, s31, l_zero, ord_zero, ord_two, rspec_bits d, rspec_bits a, Option.bind_some, BitVec.ofNat_toNat, BitVec.setWidth_eq, hw, if_true, interpInstr]

theorem axchg (d : RSpec) (a : RSpec) (size : BitVec 1) (scope : BitVec 2) (ord : BitVec 2) (l : BitVec 4) : Statement (.axchg d a size scope ord l) := by
  intro hw
  replace hw : (d.inOut && a.readable && (l == 0 || ord == 0 || ord == 2)) = true := hw
  have ⟨odd, lt, s1, s7, s13, s19, s23, s27, s29, s31⟩ := seg21 (c := 0x4000041) (k0 := 32) (k1 := 8) (x0 := d.bits) (x1 := a.bits) (x2 := l.toNat) (x3 := ord.toNat) (x4 := scope.toNat) (x5 := size.toNat) (by decide) (by decide) (by decide) d.bits_lt a.bits_lt l.isLt ord.isLt scope.isLt size.isLt
  refine of_word odd lt ?_ rfl hw
  rw [decodeWord, major32 _ s1]
  unfold readAtom
  rw [s23]
  simp only [s7, s13, s19, s27, s29, s31, l_zero, ord_zero, ord_two, rspec_bits d, rspec_bits a, Option.bind_some, BitVec.ofNat_toNat, BitVec.setWidth_eq, hw, if_true, interpInstr]

theorem afadd (d : RSpec) (a : RSpec) (size : BitVec 1) (scope : BitVec 2) (ord : BitVec 2) (l : BitVec 4) : Statement (.afadd d a size scope ord l) := by
  intro hw
  replace hw : (d.inOut && a.readable && (l == 0 || ord == 0 || ord == 2)) = true := hw
  have ⟨odd, lt, s1, s7, s13, s19, s23, s27, s29, s31⟩ := seg21 (c := 0x4800041) (k0 := 32) (k1 := 9) (x0 := d.bits) (x1 := a.bits) (x2 := l.toNat) (x3 := ord.toNat) (x4 := scope.toNat) (x5 := size.toNat) (by decide) (by decide) (by decide) d.bits_lt a.bits_lt l.isLt ord.isLt scope.isLt size.isLt
  refine of_word odd lt ?_ rfl hw
  rw [decodeWord, major32 _ s1]
  unfold readAtom
  rw [s23]
  simp only [s7, s13, s19, s27, s29, s31, l_zero, ord_zero, ord_two, rspec_bits d, rspec_bits a, Option.bind_some, BitVec.ofNat_toNat, BitVec.setWidth_eq, hw, if_true, interpInstr]

theorem afmin (d : RSpec) (a : RSpec) (size : BitVec 1) (scope : BitVec 2) (ord : BitVec 2) (l : BitVec 4) : Statement (.afmin d a size scope ord l) := by
  intro hw
  replace hw : (d.inOut && a.readable && (l == 0 || ord == 0 || ord == 2)) = true := hw
  have ⟨odd, lt, s1, s7, s13, s19, s23, s27, s29, s31⟩ := seg21 (c := 0x5000041) (k0 := 32) (k1 := 10) (x0 := d.bits) (x1 := a.bits) (x2 := l.toNat) (x3 := ord.toNat) (x4 := scope.toNat) (x5 := size.toNat) (by decide) (by decide) (by decide) d.bits_lt a.bits_lt l.isLt ord.isLt scope.isLt size.isLt
  refine of_word odd lt ?_ rfl hw
  rw [decodeWord, major32 _ s1]
  unfold readAtom
  rw [s23]
  simp only [s7, s13, s19, s27, s29, s31, l_zero, ord_zero, ord_two, rspec_bits d, rspec_bits a, Option.bind_some, BitVec.ofNat_toNat, BitVec.setWidth_eq, hw, if_true, interpInstr]

theorem afmax (d : RSpec) (a : RSpec) (size : BitVec 1) (scope : BitVec 2) (ord : BitVec 2) (l : BitVec 4) : Statement (.afmax d a size scope ord l) := by
  intro hw
  replace hw : (d.inOut && a.readable && (l == 0 || ord == 0 || ord == 2)) = true := hw
  have ⟨odd, lt, s1, s7, s13, s19, s23, s27, s29, s31⟩ := seg21 (c := 0x5800041) (k0 := 32) (k1 := 11) (x0 := d.bits) (x1 := a.bits) (x2 := l.toNat) (x3 := ord.toNat) (x4 := scope.toNat) (x5 := size.toNat) (by decide) (by decide) (by decide) d.bits_lt a.bits_lt l.isLt ord.isLt scope.isLt size.isLt
  refine of_word odd lt ?_ rfl hw
  rw [decodeWord, major32 _ s1]
  unfold readAtom
  rw [s23]
  simp only [s7, s13, s19, s27, s29, s31, l_zero, ord_zero, ord_two, rspec_bits d, rspec_bits a, Option.bind_some, BitVec.ofNat_toNat, BitVec.setWidth_eq, hw, if_true, interpInstr]

theorem ald (d : RSpec) (a : RSpec) (size : BitVec 1) (scope : BitVec 2) (ord : BitVec 2) (l : BitVec 4) : Statement (.ald d a size scope ord l) := by
  intro hw
  replace hw : (d.inOut && a.readable && (l == 0 || ord == 0 || ord == 2)) = true := hw
  have ⟨odd, lt, s1, s7, s13, s19, s23, s27, s29, s31⟩ := seg21 (c := 0x6000041) (k0 := 32) (k1 := 12) (x0 := d.bits) (x1 := a.bits) (x2 := l.toNat) (x3 := ord.toNat) (x4 := scope.toNat) (x5 := size.toNat) (by decide) (by decide) (by decide) d.bits_lt a.bits_lt l.isLt ord.isLt scope.isLt size.isLt
  refine of_word odd lt ?_ rfl hw
  rw [decodeWord, major32 _ s1]
  unfold readAtom
  rw [s23]
  simp only [s7, s13, s19, s27, s29, s31, l_zero, ord_zero, ord_two, rspec_bits d, rspec_bits a, Option.bind_some, BitVec.ofNat_toNat, BitVec.setWidth_eq, hw, if_true, interpInstr]

theorem ast (d : RSpec) (a : RSpec) (size : BitVec 1) (scope : BitVec 2) (ord : BitVec 2) : Statement (.ast d a size scope ord) := by
  intro hw
  replace hw : (d.inOut && a.readable) = true := hw
  have ⟨odd, lt, s1, s7, s13, s19, s23, s27, s29, s31⟩ := seg22 (c := 0x6800041) (k0 := 32) (k1 := 0) (k2 := 13) (x0 := d.bits) (x1 := a.bits) (x2 := ord.toNat) (x3 := scope.toNat) (x4 := size.toNat) (by decide) (by decide) (by decide) (by decide) d.bits_lt a.bits_lt ord.isLt scope.isLt size.isLt
  refine of_word odd lt ?_ rfl hw
  rw [decodeWord, major32 _ s1]
  unfold readAtom
  rw [s23]
  simp only [s7, s13, s19, s27, s29, s31, rspec_bits d, rspec_bits a, Option.bind_some, BitVec.ofNat_toNat, BitVec.setWidth_eq, hw, if_true, interpInstr]

theorem acas (d : RSpec) (a : RSpec) (size : BitVec 1) (scope : BitVec 2) (ord : BitVec 2) (l : BitVec 4) : Statement (.acas d a size scope ord l) := by
  intro hw
  replace hw : (d.pair && a.readable && (l == 0 || ord == 0 || ord == 2)) = true := hw
  have ⟨odd, lt, s1, s7, s13, s19, s23, s25, s27, s28⟩ := seg23 (c := 0x43) (k0 := 33) (k1 := 0) (x0 := d.bits) (x1 := a.bits) (x2 := l.toNat) (x3 := ord.toNat) (x4 := scope.toNat) (x5 := size.toNat) (by decide) (by decide) (by decide) d.bits_lt a.bits_lt l.isLt ord.isLt scope.isLt size.isLt
  refine of_word odd lt ?_ rfl hw
  rw [decodeWord, major33 _ s1]
  simp only [s7, s13, s19, s23, s25, s27, s28, l_zero, ord_zero, ord_two, rspec_bits d, rspec_bits a, Option.bind_some, BitVec.ofNat_toNat, BitVec.setWidth_eq, hw, if_true, interpInstr]

theorem phase (d : RSpec) : Statement (.phase d) := by
  intro hw
  replace hw : (d.inOut) = true := hw
  have ⟨odd, lt, s1, s7, s13, s25⟩ := seg12 (c := 0x45) (k0 := 34) (k1 := 0) (k2 := 0) (x0 := d.bits) (by decide) (by decide) (by decide) (by decide) d.bits_lt
  refine of_word odd lt ?_ rfl hw
  rw [decodeWord, major34 _ s1]
  unfold readOrder
  rw [s25]
  simp only [s7, s13, rspec_bits d, Option.bind_some, hw, if_true, interpInstr]

theorem rel (scope : BitVec 6) : Statement (.rel scope) := by
  intro hw
  replace hw : (decide (scope.toNat < 4)) = true := hw
  have ⟨odd, lt, s1, s7, s19, s25⟩ := seg24 (c := 0x2000045) (k0 := 34) (k1 := 0) (k2 := 1) (x0 := scope.toNat) (by decide) (by decide) (by decide) (by decide) scope.isLt
  refine of_word odd lt ?_ rfl hw
  rw [decodeWord, major34 _ s1]
  unfold readOrder
  rw [s25]
  simp only [s7, s19, BitVec.ofNat_toNat, BitVec.setWidth_eq, hw, if_true, interpInstr]

theorem acq : Statement .acq := by
  intro hw
  have ⟨odd, lt, s1, s7, s25⟩ := seg13 (c := 0x4000045) (k0 := 34) (k1 := 0) (k2 := 2) (by decide) (by decide) (by decide) (by decide)
  refine of_word odd lt ?_ rfl hw
  rw [decodeWord, major34 _ s1]
  unfold readOrder
  rw [s25]
  simp only [s7, if_true, interpInstr]

theorem fence : Statement .fence := by
  intro hw
  have ⟨odd, lt, s1, s7, s25⟩ := seg13 (c := 0x6000045) (k0 := 34) (k1 := 0) (k2 := 3) (by decide) (by decide) (by decide) (by decide)
  refine of_word odd lt ?_ rfl hw
  rw [decodeWord, major34 _ s1]
  unfold readOrder
  rw [s25]
  simp only [s7, if_true, interpInstr]

theorem clrt (d : RSpec) : Statement (.clrt d) := by
  intro hw
  replace hw : (d.inOut) = true := hw
  have ⟨odd, lt, s1, s7, s13, s25⟩ := seg12 (c := 0x8000045) (k0 := 34) (k1 := 0) (k2 := 4) (x0 := d.bits) (by decide) (by decide) (by decide) (by decide) d.bits_lt
  refine of_word odd lt ?_ rfl hw
  rw [decodeWord, major34 _ s1]
  unfold readOrder
  rw [s25]
  simp only [s7, s13, rspec_bits d, Option.bind_some, hw, if_true, interpInstr]

theorem phasen (d : RSpec) : Statement (.phasen d) := by
  intro hw
  replace hw : (d.inOut) = true := hw
  have ⟨odd, lt, s1, s7, s13, s25⟩ := seg12 (c := 0xa000045) (k0 := 34) (k1 := 0) (k2 := 5) (x0 := d.bits) (by decide) (by decide) (by decide) (by decide) d.bits_lt
  refine of_word odd lt ?_ rfl hw
  rw [decodeWord, major34 _ s1]
  unfold readOrder
  rw [s25]
  simp only [s7, s13, rspec_bits d, Option.bind_some, hw, if_true, interpInstr]

theorem vaddF (d : LSpec) (a : LSpec) (b : LSpec) : Statement (.vaddF d a b) := by
  intro hw
  replace hw : (d.dest && a.source && b.source) = true := hw
  have ⟨odd, lt, s1, s7, s14, s21, s28⟩ := seg25 (c := 0x51) (k0 := 40) (k1 := 0) (x0 := d.bits) (x1 := a.bits) (x2 := b.bits) (by decide) (by decide) (by decide) d.bits_lt a.bits_lt b.bits_lt
  refine of_word odd lt ?_ rfl hw
  rw [decodeWord, major40 _ s1]
  unfold readVF
  rw [s28]
  simp only [s7, s14, s21, lspec_bits d, lspec_bits a, lspec_bits b, Option.bind_some, hw, if_true, interpInstr]

theorem vsubF (d : LSpec) (a : LSpec) (b : LSpec) : Statement (.vsubF d a b) := by
  intro hw
  replace hw : (d.dest && a.source && b.source) = true := hw
  have ⟨odd, lt, s1, s7, s14, s21, s28⟩ := seg25 (c := 0x10000051) (k0 := 40) (k1 := 1) (x0 := d.bits) (x1 := a.bits) (x2 := b.bits) (by decide) (by decide) (by decide) d.bits_lt a.bits_lt b.bits_lt
  refine of_word odd lt ?_ rfl hw
  rw [decodeWord, major40 _ s1]
  unfold readVF
  rw [s28]
  simp only [s7, s14, s21, lspec_bits d, lspec_bits a, lspec_bits b, Option.bind_some, hw, if_true, interpInstr]

theorem vmulF (d : LSpec) (a : LSpec) (b : LSpec) : Statement (.vmulF d a b) := by
  intro hw
  replace hw : (d.dest && a.source && b.source) = true := hw
  have ⟨odd, lt, s1, s7, s14, s21, s28⟩ := seg25 (c := 0x20000051) (k0 := 40) (k1 := 2) (x0 := d.bits) (x1 := a.bits) (x2 := b.bits) (by decide) (by decide) (by decide) d.bits_lt a.bits_lt b.bits_lt
  refine of_word odd lt ?_ rfl hw
  rw [decodeWord, major40 _ s1]
  unfold readVF
  rw [s28]
  simp only [s7, s14, s21, lspec_bits d, lspec_bits a, lspec_bits b, Option.bind_some, hw, if_true, interpInstr]

theorem vfma (d : LSpec) (a : LSpec) (b : LSpec) : Statement (.vfma d a b) := by
  intro hw
  replace hw : (d.destRead && a.source && b.source) = true := hw
  have ⟨odd, lt, s1, s7, s14, s21, s28⟩ := seg25 (c := 0x30000051) (k0 := 40) (k1 := 3) (x0 := d.bits) (x1 := a.bits) (x2 := b.bits) (by decide) (by decide) (by decide) d.bits_lt a.bits_lt b.bits_lt
  refine of_word odd lt ?_ rfl hw
  rw [decodeWord, major40 _ s1]
  unfold readVF
  rw [s28]
  simp only [s7, s14, s21, lspec_bits d, lspec_bits a, lspec_bits b, Option.bind_some, hw, if_true, interpInstr]

theorem vfms (d : LSpec) (a : LSpec) (b : LSpec) : Statement (.vfms d a b) := by
  intro hw
  replace hw : (d.destRead && a.source && b.source) = true := hw
  have ⟨odd, lt, s1, s7, s14, s21, s28⟩ := seg25 (c := 0x40000051) (k0 := 40) (k1 := 4) (x0 := d.bits) (x1 := a.bits) (x2 := b.bits) (by decide) (by decide) (by decide) d.bits_lt a.bits_lt b.bits_lt
  refine of_word odd lt ?_ rfl hw
  rw [decodeWord, major40 _ s1]
  unfold readVF
  rw [s28]
  simp only [s7, s14, s21, lspec_bits d, lspec_bits a, lspec_bits b, Option.bind_some, hw, if_true, interpInstr]

theorem vmaxF (d : LSpec) (a : LSpec) (b : LSpec) : Statement (.vmaxF d a b) := by
  intro hw
  replace hw : (d.dest && a.source && b.source) = true := hw
  have ⟨odd, lt, s1, s7, s14, s21, s28⟩ := seg25 (c := 0x50000051) (k0 := 40) (k1 := 5) (x0 := d.bits) (x1 := a.bits) (x2 := b.bits) (by decide) (by decide) (by decide) d.bits_lt a.bits_lt b.bits_lt
  refine of_word odd lt ?_ rfl hw
  rw [decodeWord, major40 _ s1]
  unfold readVF
  rw [s28]
  simp only [s7, s14, s21, lspec_bits d, lspec_bits a, lspec_bits b, Option.bind_some, hw, if_true, interpInstr]

theorem vminF (d : LSpec) (a : LSpec) (b : LSpec) : Statement (.vminF d a b) := by
  intro hw
  replace hw : (d.dest && a.source && b.source) = true := hw
  have ⟨odd, lt, s1, s7, s14, s21, s28⟩ := seg25 (c := 0x60000051) (k0 := 40) (k1 := 6) (x0 := d.bits) (x1 := a.bits) (x2 := b.bits) (by decide) (by decide) (by decide) d.bits_lt a.bits_lt b.bits_lt
  refine of_word odd lt ?_ rfl hw
  rw [decodeWord, major40 _ s1]
  unfold readVF
  rw [s28]
  simp only [s7, s14, s21, lspec_bits d, lspec_bits a, lspec_bits b, Option.bind_some, hw, if_true, interpInstr]

theorem vnegF (d : LSpec) (a : LSpec) : Statement (.vnegF d a) := by
  intro hw
  replace hw : (d.dest && a.source) = true := hw
  have ⟨odd, lt, s1, s7, s14, s21, s28⟩ := seg26 (c := 0x70000051) (k0 := 40) (k1 := 0) (k2 := 7) (x0 := d.bits) (x1 := a.bits) (by decide) (by decide) (by decide) (by decide) d.bits_lt a.bits_lt
  refine of_word odd lt ?_ rfl hw
  rw [decodeWord, major40 _ s1]
  unfold readVF
  rw [s28]
  simp only [s7, s14, s21, lspec_bits d, lspec_bits a, Option.bind_some, hw, if_true, interpInstr]

theorem vabsF (d : LSpec) (a : LSpec) : Statement (.vabsF d a) := by
  intro hw
  replace hw : (d.dest && a.source) = true := hw
  have ⟨odd, lt, s1, s7, s14, s21, s28⟩ := seg26 (c := 0x80000051) (k0 := 40) (k1 := 0) (k2 := 8) (x0 := d.bits) (x1 := a.bits) (by decide) (by decide) (by decide) (by decide) d.bits_lt a.bits_lt
  refine of_word odd lt ?_ rfl hw
  rw [decodeWord, major40 _ s1]
  unfold readVF
  rw [s28]
  simp only [s7, s14, s21, lspec_bits d, lspec_bits a, Option.bind_some, hw, if_true, interpInstr]

theorem vrcp (d : LSpec) (a : LSpec) : Statement (.vrcp d a) := by
  intro hw
  replace hw : (d.dest && a.source) = true := hw
  have ⟨odd, lt, s1, s7, s14, s21, s28⟩ := seg26 (c := 0x90000051) (k0 := 40) (k1 := 0) (k2 := 9) (x0 := d.bits) (x1 := a.bits) (by decide) (by decide) (by decide) (by decide) d.bits_lt a.bits_lt
  refine of_word odd lt ?_ rfl hw
  rw [decodeWord, major40 _ s1]
  unfold readVF
  rw [s28]
  simp only [s7, s14, s21, lspec_bits d, lspec_bits a, Option.bind_some, hw, if_true, interpInstr]

theorem vrsq (d : LSpec) (a : LSpec) : Statement (.vrsq d a) := by
  intro hw
  replace hw : (d.dest && a.source) = true := hw
  have ⟨odd, lt, s1, s7, s14, s21, s28⟩ := seg26 (c := 0xa0000051) (k0 := 40) (k1 := 0) (k2 := 10) (x0 := d.bits) (x1 := a.bits) (by decide) (by decide) (by decide) (by decide) d.bits_lt a.bits_lt
  refine of_word odd lt ?_ rfl hw
  rw [decodeWord, major40 _ s1]
  unfold readVF
  rw [s28]
  simp only [s7, s14, s21, lspec_bits d, lspec_bits a, Option.bind_some, hw, if_true, interpInstr]

theorem vrcps (d : LSpec) (a : LSpec) (b : LSpec) : Statement (.vrcps d a b) := by
  intro hw
  replace hw : (d.dest && a.source && b.source) = true := hw
  have ⟨odd, lt, s1, s7, s14, s21, s28⟩ := seg25 (c := 0xb0000051) (k0 := 40) (k1 := 11) (x0 := d.bits) (x1 := a.bits) (x2 := b.bits) (by decide) (by decide) (by decide) d.bits_lt a.bits_lt b.bits_lt
  refine of_word odd lt ?_ rfl hw
  rw [decodeWord, major40 _ s1]
  unfold readVF
  rw [s28]
  simp only [s7, s14, s21, lspec_bits d, lspec_bits a, lspec_bits b, Option.bind_some, hw, if_true, interpInstr]

theorem vrsqs (d : LSpec) (a : LSpec) (b : LSpec) : Statement (.vrsqs d a b) := by
  intro hw
  replace hw : (d.dest && a.source && b.source) = true := hw
  have ⟨odd, lt, s1, s7, s14, s21, s28⟩ := seg25 (c := 0xc0000051) (k0 := 40) (k1 := 12) (x0 := d.bits) (x1 := a.bits) (x2 := b.bits) (by decide) (by decide) (by decide) d.bits_lt a.bits_lt b.bits_lt
  refine of_word odd lt ?_ rfl hw
  rw [decodeWord, major40 _ s1]
  unfold readVF
  rw [s28]
  simp only [s7, s14, s21, lspec_bits d, lspec_bits a, lspec_bits b, Option.bind_some, hw, if_true, interpInstr]

theorem vexp2 (d : LSpec) (a : LSpec) : Statement (.vexp2 d a) := by
  intro hw
  replace hw : (d.dest && a.source) = true := hw
  have ⟨odd, lt, s1, s7, s14, s21, s28⟩ := seg26 (c := 0xd0000051) (k0 := 40) (k1 := 0) (k2 := 13) (x0 := d.bits) (x1 := a.bits) (by decide) (by decide) (by decide) (by decide) d.bits_lt a.bits_lt
  refine of_word odd lt ?_ rfl hw
  rw [decodeWord, major40 _ s1]
  unfold readVF
  rw [s28]
  simp only [s7, s14, s21, lspec_bits d, lspec_bits a, Option.bind_some, hw, if_true, interpInstr]

theorem vlog2 (d : LSpec) (a : LSpec) : Statement (.vlog2 d a) := by
  intro hw
  replace hw : (d.dest && a.source) = true := hw
  have ⟨odd, lt, s1, s7, s14, s21, s28⟩ := seg26 (c := 0xe0000051) (k0 := 40) (k1 := 0) (k2 := 14) (x0 := d.bits) (x1 := a.bits) (by decide) (by decide) (by decide) (by decide) d.bits_lt a.bits_lt
  refine of_word odd lt ?_ rfl hw
  rw [decodeWord, major40 _ s1]
  unfold readVF
  rw [s28]
  simp only [s7, s14, s21, lspec_bits d, lspec_bits a, Option.bind_some, hw, if_true, interpInstr]

theorem vclamp (d : LSpec) (a : LSpec) (b : LSpec) : Statement (.vclamp d a b) := by
  intro hw
  replace hw : (d.destRead && a.source && b.source) = true := hw
  have ⟨odd, lt, s1, s7, s14, s21, s28⟩ := seg25 (c := 0xf0000051) (k0 := 40) (k1 := 15) (x0 := d.bits) (x1 := a.bits) (x2 := b.bits) (by decide) (by decide) (by decide) d.bits_lt a.bits_lt b.bits_lt
  refine of_word odd lt ?_ rfl hw
  rw [decodeWord, major40 _ s1]
  unfold readVF
  rw [s28]
  simp only [s7, s14, s21, lspec_bits d, lspec_bits a, lspec_bits b, Option.bind_some, hw, if_true, interpInstr]

theorem vaddI (d : LSpec) (a : LSpec) (b : LSpec) : Statement (.vaddI d a b) := by
  intro hw
  replace hw : (d.dest && a.source && b.source) = true := hw
  have ⟨odd, lt, s1, s7, s14, s21, s28⟩ := seg25 (c := 0x53) (k0 := 41) (k1 := 0) (x0 := d.bits) (x1 := a.bits) (x2 := b.bits) (by decide) (by decide) (by decide) d.bits_lt a.bits_lt b.bits_lt
  refine of_word odd lt ?_ rfl hw
  rw [decodeWord, major41 _ s1]
  unfold readVI
  rw [s28]
  simp only [s7, s14, s21, lspec_bits d, lspec_bits a, lspec_bits b, Option.bind_some, hw, if_true, interpInstr]

theorem vsubI (d : LSpec) (a : LSpec) (b : LSpec) : Statement (.vsubI d a b) := by
  intro hw
  replace hw : (d.dest && a.source && b.source) = true := hw
  have ⟨odd, lt, s1, s7, s14, s21, s28⟩ := seg25 (c := 0x10000053) (k0 := 41) (k1 := 1) (x0 := d.bits) (x1 := a.bits) (x2 := b.bits) (by decide) (by decide) (by decide) d.bits_lt a.bits_lt b.bits_lt
  refine of_word odd lt ?_ rfl hw
  rw [decodeWord, major41 _ s1]
  unfold readVI
  rw [s28]
  simp only [s7, s14, s21, lspec_bits d, lspec_bits a, lspec_bits b, Option.bind_some, hw, if_true, interpInstr]

theorem vmulI (d : LSpec) (a : LSpec) (b : LSpec) : Statement (.vmulI d a b) := by
  intro hw
  replace hw : (d.dest && a.source && b.source) = true := hw
  have ⟨odd, lt, s1, s7, s14, s21, s28⟩ := seg25 (c := 0x20000053) (k0 := 41) (k1 := 2) (x0 := d.bits) (x1 := a.bits) (x2 := b.bits) (by decide) (by decide) (by decide) d.bits_lt a.bits_lt b.bits_lt
  refine of_word odd lt ?_ rfl hw
  rw [decodeWord, major41 _ s1]
  unfold readVI
  rw [s28]
  simp only [s7, s14, s21, lspec_bits d, lspec_bits a, lspec_bits b, Option.bind_some, hw, if_true, interpInstr]

theorem vmulh (d : LSpec) (a : LSpec) (b : LSpec) : Statement (.vmulh d a b) := by
  intro hw
  replace hw : (d.dest && a.source && b.source) = true := hw
  have ⟨odd, lt, s1, s7, s14, s21, s28⟩ := seg25 (c := 0x30000053) (k0 := 41) (k1 := 3) (x0 := d.bits) (x1 := a.bits) (x2 := b.bits) (by decide) (by decide) (by decide) d.bits_lt a.bits_lt b.bits_lt
  refine of_word odd lt ?_ rfl hw
  rw [decodeWord, major41 _ s1]
  unfold readVI
  rw [s28]
  simp only [s7, s14, s21, lspec_bits d, lspec_bits a, lspec_bits b, Option.bind_some, hw, if_true, interpInstr]

theorem vmad (d : LSpec) (a : LSpec) (b : LSpec) : Statement (.vmad d a b) := by
  intro hw
  replace hw : (d.destRead && a.source && b.source) = true := hw
  have ⟨odd, lt, s1, s7, s14, s21, s28⟩ := seg25 (c := 0x40000053) (k0 := 41) (k1 := 4) (x0 := d.bits) (x1 := a.bits) (x2 := b.bits) (by decide) (by decide) (by decide) d.bits_lt a.bits_lt b.bits_lt
  refine of_word odd lt ?_ rfl hw
  rw [decodeWord, major41 _ s1]
  unfold readVI
  rw [s28]
  simp only [s7, s14, s21, lspec_bits d, lspec_bits a, lspec_bits b, Option.bind_some, hw, if_true, interpInstr]

theorem vmaxI (d : LSpec) (a : LSpec) (b : LSpec) : Statement (.vmaxI d a b) := by
  intro hw
  replace hw : (d.dest && a.source && b.source) = true := hw
  have ⟨odd, lt, s1, s7, s14, s21, s28⟩ := seg25 (c := 0x50000053) (k0 := 41) (k1 := 5) (x0 := d.bits) (x1 := a.bits) (x2 := b.bits) (by decide) (by decide) (by decide) d.bits_lt a.bits_lt b.bits_lt
  refine of_word odd lt ?_ rfl hw
  rw [decodeWord, major41 _ s1]
  unfold readVI
  rw [s28]
  simp only [s7, s14, s21, lspec_bits d, lspec_bits a, lspec_bits b, Option.bind_some, hw, if_true, interpInstr]

theorem vminI (d : LSpec) (a : LSpec) (b : LSpec) : Statement (.vminI d a b) := by
  intro hw
  replace hw : (d.dest && a.source && b.source) = true := hw
  have ⟨odd, lt, s1, s7, s14, s21, s28⟩ := seg25 (c := 0x60000053) (k0 := 41) (k1 := 6) (x0 := d.bits) (x1 := a.bits) (x2 := b.bits) (by decide) (by decide) (by decide) d.bits_lt a.bits_lt b.bits_lt
  refine of_word odd lt ?_ rfl hw
  rw [decodeWord, major41 _ s1]
  unfold readVI
  rw [s28]
  simp only [s7, s14, s21, lspec_bits d, lspec_bits a, lspec_bits b, Option.bind_some, hw, if_true, interpInstr]

theorem vabsI (d : LSpec) (a : LSpec) : Statement (.vabsI d a) := by
  intro hw
  replace hw : (d.dest && a.source) = true := hw
  have ⟨odd, lt, s1, s7, s14, s21, s28⟩ := seg26 (c := 0x70000053) (k0 := 41) (k1 := 0) (k2 := 7) (x0 := d.bits) (x1 := a.bits) (by decide) (by decide) (by decide) (by decide) d.bits_lt a.bits_lt
  refine of_word odd lt ?_ rfl hw
  rw [decodeWord, major41 _ s1]
  unfold readVI
  rw [s28]
  simp only [s7, s14, s21, lspec_bits d, lspec_bits a, Option.bind_some, hw, if_true, interpInstr]

theorem vshl (d : LSpec) (a : LSpec) (b : LSpec) : Statement (.vshl d a b) := by
  intro hw
  replace hw : (d.dest && a.source && b.source) = true := hw
  have ⟨odd, lt, s1, s7, s14, s21, s28⟩ := seg25 (c := 0x80000053) (k0 := 41) (k1 := 8) (x0 := d.bits) (x1 := a.bits) (x2 := b.bits) (by decide) (by decide) (by decide) d.bits_lt a.bits_lt b.bits_lt
  refine of_word odd lt ?_ rfl hw
  rw [decodeWord, major41 _ s1]
  unfold readVI
  rw [s28]
  simp only [s7, s14, s21, lspec_bits d, lspec_bits a, lspec_bits b, Option.bind_some, hw, if_true, interpInstr]

theorem vshr (d : LSpec) (a : LSpec) (b : LSpec) : Statement (.vshr d a b) := by
  intro hw
  replace hw : (d.dest && a.source && b.source) = true := hw
  have ⟨odd, lt, s1, s7, s14, s21, s28⟩ := seg25 (c := 0x90000053) (k0 := 41) (k1 := 9) (x0 := d.bits) (x1 := a.bits) (x2 := b.bits) (by decide) (by decide) (by decide) d.bits_lt a.bits_lt b.bits_lt
  refine of_word odd lt ?_ rfl hw
  rw [decodeWord, major41 _ s1]
  unfold readVI
  rw [s28]
  simp only [s7, s14, s21, lspec_bits d, lspec_bits a, lspec_bits b, Option.bind_some, hw, if_true, interpInstr]

theorem vsra (d : LSpec) (a : LSpec) (b : LSpec) : Statement (.vsra d a b) := by
  intro hw
  replace hw : (d.dest && a.source && b.source) = true := hw
  have ⟨odd, lt, s1, s7, s14, s21, s28⟩ := seg25 (c := 0xa0000053) (k0 := 41) (k1 := 10) (x0 := d.bits) (x1 := a.bits) (x2 := b.bits) (by decide) (by decide) (by decide) d.bits_lt a.bits_lt b.bits_lt
  refine of_word odd lt ?_ rfl hw
  rw [decodeWord, major41 _ s1]
  unfold readVI
  rw [s28]
  simp only [s7, s14, s21, lspec_bits d, lspec_bits a, lspec_bits b, Option.bind_some, hw, if_true, interpInstr]

theorem vadds (d : LSpec) (a : LSpec) (b : LSpec) : Statement (.vadds d a b) := by
  intro hw
  replace hw : (d.dest && a.source && b.source) = true := hw
  have ⟨odd, lt, s1, s7, s14, s21, s28⟩ := seg25 (c := 0xb0000053) (k0 := 41) (k1 := 11) (x0 := d.bits) (x1 := a.bits) (x2 := b.bits) (by decide) (by decide) (by decide) d.bits_lt a.bits_lt b.bits_lt
  refine of_word odd lt ?_ rfl hw
  rw [decodeWord, major41 _ s1]
  unfold readVI
  rw [s28]
  simp only [s7, s14, s21, lspec_bits d, lspec_bits a, lspec_bits b, Option.bind_some, hw, if_true, interpInstr]

theorem vsubs (d : LSpec) (a : LSpec) (b : LSpec) : Statement (.vsubs d a b) := by
  intro hw
  replace hw : (d.dest && a.source && b.source) = true := hw
  have ⟨odd, lt, s1, s7, s14, s21, s28⟩ := seg25 (c := 0xc0000053) (k0 := 41) (k1 := 12) (x0 := d.bits) (x1 := a.bits) (x2 := b.bits) (by decide) (by decide) (by decide) d.bits_lt a.bits_lt b.bits_lt
  refine of_word odd lt ?_ rfl hw
  rw [decodeWord, major41 _ s1]
  unfold readVI
  rw [s28]
  simp only [s7, s14, s21, lspec_bits d, lspec_bits a, lspec_bits b, Option.bind_some, hw, if_true, interpInstr]

theorem vmaxu (d : LSpec) (a : LSpec) (b : LSpec) : Statement (.vmaxu d a b) := by
  intro hw
  replace hw : (d.dest && a.source && b.source) = true := hw
  have ⟨odd, lt, s1, s7, s14, s21, s28⟩ := seg25 (c := 0xd0000053) (k0 := 41) (k1 := 13) (x0 := d.bits) (x1 := a.bits) (x2 := b.bits) (by decide) (by decide) (by decide) d.bits_lt a.bits_lt b.bits_lt
  refine of_word odd lt ?_ rfl hw
  rw [decodeWord, major41 _ s1]
  unfold readVI
  rw [s28]
  simp only [s7, s14, s21, lspec_bits d, lspec_bits a, lspec_bits b, Option.bind_some, hw, if_true, interpInstr]

theorem vminu (d : LSpec) (a : LSpec) (b : LSpec) : Statement (.vminu d a b) := by
  intro hw
  replace hw : (d.dest && a.source && b.source) = true := hw
  have ⟨odd, lt, s1, s7, s14, s21, s28⟩ := seg25 (c := 0xe0000053) (k0 := 41) (k1 := 14) (x0 := d.bits) (x1 := a.bits) (x2 := b.bits) (by decide) (by decide) (by decide) d.bits_lt a.bits_lt b.bits_lt
  refine of_word odd lt ?_ rfl hw
  rw [decodeWord, major41 _ s1]
  unfold readVI
  rw [s28]
  simp only [s7, s14, s21, lspec_bits d, lspec_bits a, lspec_bits b, Option.bind_some, hw, if_true, interpInstr]

theorem vnegI (d : LSpec) (a : LSpec) : Statement (.vnegI d a) := by
  intro hw
  replace hw : (d.dest && a.source) = true := hw
  have ⟨odd, lt, s1, s7, s14, s21, s28⟩ := seg26 (c := 0xf0000053) (k0 := 41) (k1 := 0) (k2 := 15) (x0 := d.bits) (x1 := a.bits) (by decide) (by decide) (by decide) (by decide) d.bits_lt a.bits_lt
  refine of_word odd lt ?_ rfl hw
  rw [decodeWord, major41 _ s1]
  unfold readVI
  rw [s28]
  simp only [s7, s14, s21, lspec_bits d, lspec_bits a, Option.bind_some, hw, if_true, interpInstr]

theorem vand (d : LSpec) (a : LSpec) (b : LSpec) : Statement (.vand d a b) := by
  intro hw
  replace hw : (d.dest && a.source && b.source) = true := hw
  have ⟨odd, lt, s1, s7, s14, s21, s28⟩ := seg25 (c := 0x55) (k0 := 42) (k1 := 0) (x0 := d.bits) (x1 := a.bits) (x2 := b.bits) (by decide) (by decide) (by decide) d.bits_lt a.bits_lt b.bits_lt
  refine of_word odd lt ?_ rfl hw
  rw [decodeWord, major42 _ s1]
  unfold readVL
  rw [s28]
  simp only [s7, s14, s21, lspec_bits d, lspec_bits a, lspec_bits b, Option.bind_some, hw, if_true, interpInstr]

theorem vor (d : LSpec) (a : LSpec) (b : LSpec) : Statement (.vor d a b) := by
  intro hw
  replace hw : (d.dest && a.source && b.source) = true := hw
  have ⟨odd, lt, s1, s7, s14, s21, s28⟩ := seg25 (c := 0x10000055) (k0 := 42) (k1 := 1) (x0 := d.bits) (x1 := a.bits) (x2 := b.bits) (by decide) (by decide) (by decide) d.bits_lt a.bits_lt b.bits_lt
  refine of_word odd lt ?_ rfl hw
  rw [decodeWord, major42 _ s1]
  unfold readVL
  rw [s28]
  simp only [s7, s14, s21, lspec_bits d, lspec_bits a, lspec_bits b, Option.bind_some, hw, if_true, interpInstr]

theorem vxor (d : LSpec) (a : LSpec) (b : LSpec) : Statement (.vxor d a b) := by
  intro hw
  replace hw : (d.dest && a.source && b.source) = true := hw
  have ⟨odd, lt, s1, s7, s14, s21, s28⟩ := seg25 (c := 0x20000055) (k0 := 42) (k1 := 2) (x0 := d.bits) (x1 := a.bits) (x2 := b.bits) (by decide) (by decide) (by decide) d.bits_lt a.bits_lt b.bits_lt
  refine of_word odd lt ?_ rfl hw
  rw [decodeWord, major42 _ s1]
  unfold readVL
  rw [s28]
  simp only [s7, s14, s21, lspec_bits d, lspec_bits a, lspec_bits b, Option.bind_some, hw, if_true, interpInstr]

theorem vandn (d : LSpec) (a : LSpec) (b : LSpec) : Statement (.vandn d a b) := by
  intro hw
  replace hw : (d.dest && a.source && b.source) = true := hw
  have ⟨odd, lt, s1, s7, s14, s21, s28⟩ := seg25 (c := 0x30000055) (k0 := 42) (k1 := 3) (x0 := d.bits) (x1 := a.bits) (x2 := b.bits) (by decide) (by decide) (by decide) d.bits_lt a.bits_lt b.bits_lt
  refine of_word odd lt ?_ rfl hw
  rw [decodeWord, major42 _ s1]
  unfold readVL
  rw [s28]
  simp only [s7, s14, s21, lspec_bits d, lspec_bits a, lspec_bits b, Option.bind_some, hw, if_true, interpInstr]

theorem vnot (d : LSpec) (a : LSpec) : Statement (.vnot d a) := by
  intro hw
  replace hw : (d.dest && a.source) = true := hw
  have ⟨odd, lt, s1, s7, s14, s21, s28⟩ := seg26 (c := 0x40000055) (k0 := 42) (k1 := 0) (k2 := 4) (x0 := d.bits) (x1 := a.bits) (by decide) (by decide) (by decide) (by decide) d.bits_lt a.bits_lt
  refine of_word odd lt ?_ rfl hw
  rw [decodeWord, major42 _ s1]
  unfold readVL
  rw [s28]
  simp only [s7, s14, s21, lspec_bits d, lspec_bits a, Option.bind_some, hw, if_true, interpInstr]

theorem vmov (d : LSpec) (a : LSpec) : Statement (.vmov d a) := by
  intro hw
  replace hw : (d.dest && a.source) = true := hw
  have ⟨odd, lt, s1, s7, s14, s21, s28⟩ := seg26 (c := 0x50000055) (k0 := 42) (k1 := 0) (k2 := 5) (x0 := d.bits) (x1 := a.bits) (by decide) (by decide) (by decide) (by decide) d.bits_lt a.bits_lt
  refine of_word odd lt ?_ rfl hw
  rw [decodeWord, major42 _ s1]
  unfold readVL
  rw [s28]
  simp only [s7, s14, s21, lspec_bits d, lspec_bits a, Option.bind_some, hw, if_true, interpInstr]

theorem vsel (d : LSpec) (a : LSpec) (b : LSpec) : Statement (.vsel d a b) := by
  intro hw
  replace hw : (d.dest && a.source && b.source) = true := hw
  have ⟨odd, lt, s1, s7, s14, s21, s28⟩ := seg25 (c := 0x60000055) (k0 := 42) (k1 := 6) (x0 := d.bits) (x1 := a.bits) (x2 := b.bits) (by decide) (by decide) (by decide) d.bits_lt a.bits_lt b.bits_lt
  refine of_word odd lt ?_ rfl hw
  rw [decodeWord, major42 _ s1]
  unfold readVL
  rw [s28]
  simp only [s7, s14, s21, lspec_bits d, lspec_bits a, lspec_bits b, Option.bind_some, hw, if_true, interpInstr]

theorem vpopc (d : LSpec) (a : LSpec) : Statement (.vpopc d a) := by
  intro hw
  replace hw : (d.dest && a.source) = true := hw
  have ⟨odd, lt, s1, s7, s14, s21, s28⟩ := seg26 (c := 0x70000055) (k0 := 42) (k1 := 0) (k2 := 7) (x0 := d.bits) (x1 := a.bits) (by decide) (by decide) (by decide) (by decide) d.bits_lt a.bits_lt
  refine of_word odd lt ?_ rfl hw
  rw [decodeWord, major42 _ s1]
  unfold readVL
  rw [s28]
  simp only [s7, s14, s21, lspec_bits d, lspec_bits a, Option.bind_some, hw, if_true, interpInstr]

theorem vclz (d : LSpec) (a : LSpec) : Statement (.vclz d a) := by
  intro hw
  replace hw : (d.dest && a.source) = true := hw
  have ⟨odd, lt, s1, s7, s14, s21, s28⟩ := seg26 (c := 0x80000055) (k0 := 42) (k1 := 0) (k2 := 8) (x0 := d.bits) (x1 := a.bits) (by decide) (by decide) (by decide) (by decide) d.bits_lt a.bits_lt
  refine of_word odd lt ?_ rfl hw
  rw [decodeWord, major42 _ s1]
  unfold readVL
  rw [s28]
  simp only [s7, s14, s21, lspec_bits d, lspec_bits a, Option.bind_some, hw, if_true, interpInstr]

theorem vceqF (d : LSpec) (a : LSpec) (b : LSpec) : Statement (.vceqF d a b) := by
  intro hw
  replace hw : (d.dest && a.source && b.source) = true := hw
  have ⟨odd, lt, s1, s7, s14, s21, s28⟩ := seg25 (c := 0x57) (k0 := 43) (k1 := 0) (x0 := d.bits) (x1 := a.bits) (x2 := b.bits) (by decide) (by decide) (by decide) d.bits_lt a.bits_lt b.bits_lt
  refine of_word odd lt ?_ rfl hw
  rw [decodeWord, major43 _ s1]
  unfold readVC
  rw [s28]
  simp only [s7, s14, s21, lspec_bits d, lspec_bits a, lspec_bits b, Option.bind_some, hw, if_true, interpInstr]

theorem vcneF (d : LSpec) (a : LSpec) (b : LSpec) : Statement (.vcneF d a b) := by
  intro hw
  replace hw : (d.dest && a.source && b.source) = true := hw
  have ⟨odd, lt, s1, s7, s14, s21, s28⟩ := seg25 (c := 0x10000057) (k0 := 43) (k1 := 1) (x0 := d.bits) (x1 := a.bits) (x2 := b.bits) (by decide) (by decide) (by decide) d.bits_lt a.bits_lt b.bits_lt
  refine of_word odd lt ?_ rfl hw
  rw [decodeWord, major43 _ s1]
  unfold readVC
  rw [s28]
  simp only [s7, s14, s21, lspec_bits d, lspec_bits a, lspec_bits b, Option.bind_some, hw, if_true, interpInstr]

theorem vcltF (d : LSpec) (a : LSpec) (b : LSpec) : Statement (.vcltF d a b) := by
  intro hw
  replace hw : (d.dest && a.source && b.source) = true := hw
  have ⟨odd, lt, s1, s7, s14, s21, s28⟩ := seg25 (c := 0x20000057) (k0 := 43) (k1 := 2) (x0 := d.bits) (x1 := a.bits) (x2 := b.bits) (by decide) (by decide) (by decide) d.bits_lt a.bits_lt b.bits_lt
  refine of_word odd lt ?_ rfl hw
  rw [decodeWord, major43 _ s1]
  unfold readVC
  rw [s28]
  simp only [s7, s14, s21, lspec_bits d, lspec_bits a, lspec_bits b, Option.bind_some, hw, if_true, interpInstr]

theorem vcleF (d : LSpec) (a : LSpec) (b : LSpec) : Statement (.vcleF d a b) := by
  intro hw
  replace hw : (d.dest && a.source && b.source) = true := hw
  have ⟨odd, lt, s1, s7, s14, s21, s28⟩ := seg25 (c := 0x30000057) (k0 := 43) (k1 := 3) (x0 := d.bits) (x1 := a.bits) (x2 := b.bits) (by decide) (by decide) (by decide) d.bits_lt a.bits_lt b.bits_lt
  refine of_word odd lt ?_ rfl hw
  rw [decodeWord, major43 _ s1]
  unfold readVC
  rw [s28]
  simp only [s7, s14, s21, lspec_bits d, lspec_bits a, lspec_bits b, Option.bind_some, hw, if_true, interpInstr]

theorem vcunF (d : LSpec) (a : LSpec) (b : LSpec) : Statement (.vcunF d a b) := by
  intro hw
  replace hw : (d.dest && a.source && b.source) = true := hw
  have ⟨odd, lt, s1, s7, s14, s21, s28⟩ := seg25 (c := 0x40000057) (k0 := 43) (k1 := 4) (x0 := d.bits) (x1 := a.bits) (x2 := b.bits) (by decide) (by decide) (by decide) d.bits_lt a.bits_lt b.bits_lt
  refine of_word odd lt ?_ rfl hw
  rw [decodeWord, major43 _ s1]
  unfold readVC
  rw [s28]
  simp only [s7, s14, s21, lspec_bits d, lspec_bits a, lspec_bits b, Option.bind_some, hw, if_true, interpInstr]

theorem vceqI (d : LSpec) (a : LSpec) (b : LSpec) : Statement (.vceqI d a b) := by
  intro hw
  replace hw : (d.dest && a.source && b.source) = true := hw
  have ⟨odd, lt, s1, s7, s14, s21, s28⟩ := seg25 (c := 0x80000057) (k0 := 43) (k1 := 8) (x0 := d.bits) (x1 := a.bits) (x2 := b.bits) (by decide) (by decide) (by decide) d.bits_lt a.bits_lt b.bits_lt
  refine of_word odd lt ?_ rfl hw
  rw [decodeWord, major43 _ s1]
  unfold readVC
  rw [s28]
  simp only [s7, s14, s21, lspec_bits d, lspec_bits a, lspec_bits b, Option.bind_some, hw, if_true, interpInstr]

theorem vcneI (d : LSpec) (a : LSpec) (b : LSpec) : Statement (.vcneI d a b) := by
  intro hw
  replace hw : (d.dest && a.source && b.source) = true := hw
  have ⟨odd, lt, s1, s7, s14, s21, s28⟩ := seg25 (c := 0x90000057) (k0 := 43) (k1 := 9) (x0 := d.bits) (x1 := a.bits) (x2 := b.bits) (by decide) (by decide) (by decide) d.bits_lt a.bits_lt b.bits_lt
  refine of_word odd lt ?_ rfl hw
  rw [decodeWord, major43 _ s1]
  unfold readVC
  rw [s28]
  simp only [s7, s14, s21, lspec_bits d, lspec_bits a, lspec_bits b, Option.bind_some, hw, if_true, interpInstr]

theorem vcltI (d : LSpec) (a : LSpec) (b : LSpec) : Statement (.vcltI d a b) := by
  intro hw
  replace hw : (d.dest && a.source && b.source) = true := hw
  have ⟨odd, lt, s1, s7, s14, s21, s28⟩ := seg25 (c := 0xa0000057) (k0 := 43) (k1 := 10) (x0 := d.bits) (x1 := a.bits) (x2 := b.bits) (by decide) (by decide) (by decide) d.bits_lt a.bits_lt b.bits_lt
  refine of_word odd lt ?_ rfl hw
  rw [decodeWord, major43 _ s1]
  unfold readVC
  rw [s28]
  simp only [s7, s14, s21, lspec_bits d, lspec_bits a, lspec_bits b, Option.bind_some, hw, if_true, interpInstr]

theorem vcleI (d : LSpec) (a : LSpec) (b : LSpec) : Statement (.vcleI d a b) := by
  intro hw
  replace hw : (d.dest && a.source && b.source) = true := hw
  have ⟨odd, lt, s1, s7, s14, s21, s28⟩ := seg25 (c := 0xb0000057) (k0 := 43) (k1 := 11) (x0 := d.bits) (x1 := a.bits) (x2 := b.bits) (by decide) (by decide) (by decide) d.bits_lt a.bits_lt b.bits_lt
  refine of_word odd lt ?_ rfl hw
  rw [decodeWord, major43 _ s1]
  unfold readVC
  rw [s28]
  simp only [s7, s14, s21, lspec_bits d, lspec_bits a, lspec_bits b, Option.bind_some, hw, if_true, interpInstr]

theorem vcltu (d : LSpec) (a : LSpec) (b : LSpec) : Statement (.vcltu d a b) := by
  intro hw
  replace hw : (d.dest && a.source && b.source) = true := hw
  have ⟨odd, lt, s1, s7, s14, s21, s28⟩ := seg25 (c := 0xc0000057) (k0 := 43) (k1 := 12) (x0 := d.bits) (x1 := a.bits) (x2 := b.bits) (by decide) (by decide) (by decide) d.bits_lt a.bits_lt b.bits_lt
  refine of_word odd lt ?_ rfl hw
  rw [decodeWord, major43 _ s1]
  unfold readVC
  rw [s28]
  simp only [s7, s14, s21, lspec_bits d, lspec_bits a, lspec_bits b, Option.bind_some, hw, if_true, interpInstr]

theorem vcleu (d : LSpec) (a : LSpec) (b : LSpec) : Statement (.vcleu d a b) := by
  intro hw
  replace hw : (d.dest && a.source && b.source) = true := hw
  have ⟨odd, lt, s1, s7, s14, s21, s28⟩ := seg25 (c := 0xd0000057) (k0 := 43) (k1 := 13) (x0 := d.bits) (x1 := a.bits) (x2 := b.bits) (by decide) (by decide) (by decide) d.bits_lt a.bits_lt b.bits_lt
  refine of_word odd lt ?_ rfl hw
  rw [decodeWord, major43 _ s1]
  unfold readVC
  rw [s28]
  simp only [s7, s14, s21, lspec_bits d, lspec_bits a, lspec_bits b, Option.bind_some, hw, if_true, interpInstr]

theorem mand (d : LSpec) (a : LSpec) (b : LSpec) : Statement (.mand d a b) := by
  intro hw
  replace hw : (d.maskDest && a.maskSource && b.maskSource) = true := hw
  have ⟨odd, lt, s1, s7, s14, s21, s28⟩ := seg25 (c := 0x59) (k0 := 44) (k1 := 0) (x0 := d.bits) (x1 := a.bits) (x2 := b.bits) (by decide) (by decide) (by decide) d.bits_lt a.bits_lt b.bits_lt
  refine of_word odd lt ?_ rfl hw
  rw [decodeWord, major44 _ s1]
  unfold readVM
  rw [s28]
  simp only [s7, s14, s21, lspec_bits d, lspec_bits a, lspec_bits b, Option.bind_some, hw, if_true, interpInstr]

theorem mor (d : LSpec) (a : LSpec) (b : LSpec) : Statement (.mor d a b) := by
  intro hw
  replace hw : (d.maskDest && a.maskSource && b.maskSource) = true := hw
  have ⟨odd, lt, s1, s7, s14, s21, s28⟩ := seg25 (c := 0x10000059) (k0 := 44) (k1 := 1) (x0 := d.bits) (x1 := a.bits) (x2 := b.bits) (by decide) (by decide) (by decide) d.bits_lt a.bits_lt b.bits_lt
  refine of_word odd lt ?_ rfl hw
  rw [decodeWord, major44 _ s1]
  unfold readVM
  rw [s28]
  simp only [s7, s14, s21, lspec_bits d, lspec_bits a, lspec_bits b, Option.bind_some, hw, if_true, interpInstr]

theorem mxor (d : LSpec) (a : LSpec) (b : LSpec) : Statement (.mxor d a b) := by
  intro hw
  replace hw : (d.maskDest && a.maskSource && b.maskSource) = true := hw
  have ⟨odd, lt, s1, s7, s14, s21, s28⟩ := seg25 (c := 0x20000059) (k0 := 44) (k1 := 2) (x0 := d.bits) (x1 := a.bits) (x2 := b.bits) (by decide) (by decide) (by decide) d.bits_lt a.bits_lt b.bits_lt
  refine of_word odd lt ?_ rfl hw
  rw [decodeWord, major44 _ s1]
  unfold readVM
  rw [s28]
  simp only [s7, s14, s21, lspec_bits d, lspec_bits a, lspec_bits b, Option.bind_some, hw, if_true, interpInstr]

theorem mnot (d : LSpec) (a : LSpec) : Statement (.mnot d a) := by
  intro hw
  replace hw : (d.maskDest && a.maskSource) = true := hw
  have ⟨odd, lt, s1, s7, s14, s21, s28⟩ := seg26 (c := 0x30000059) (k0 := 44) (k1 := 0) (k2 := 3) (x0 := d.bits) (x1 := a.bits) (by decide) (by decide) (by decide) (by decide) d.bits_lt a.bits_lt
  refine of_word odd lt ?_ rfl hw
  rw [decodeWord, major44 _ s1]
  unfold readVM
  rw [s28]
  simp only [s7, s14, s21, lspec_bits d, lspec_bits a, Option.bind_some, hw, if_true, interpInstr]

theorem mandn (d : LSpec) (a : LSpec) (b : LSpec) : Statement (.mandn d a b) := by
  intro hw
  replace hw : (d.maskDest && a.maskSource && b.maskSource) = true := hw
  have ⟨odd, lt, s1, s7, s14, s21, s28⟩ := seg25 (c := 0x40000059) (k0 := 44) (k1 := 4) (x0 := d.bits) (x1 := a.bits) (x2 := b.bits) (by decide) (by decide) (by decide) d.bits_lt a.bits_lt b.bits_lt
  refine of_word odd lt ?_ rfl hw
  rw [decodeWord, major44 _ s1]
  unfold readVM
  rw [s28]
  simp only [s7, s14, s21, lspec_bits d, lspec_bits a, lspec_bits b, Option.bind_some, hw, if_true, interpInstr]

theorem msel (a : LSpec) : Statement (.msel a) := by
  intro hw
  replace hw : (a.mask) = true := hw
  have ⟨odd, lt, s1, s7, s14, s21, s28⟩ := seg27 (c := 0x50000059) (k0 := 44) (k1 := 0) (k2 := 0) (k3 := 5) (x0 := a.bits) (by decide) (by decide) (by decide) (by decide) (by decide) a.bits_lt
  refine of_word odd lt ?_ rfl hw
  rw [decodeWord, major44 _ s1]
  unfold readVM
  rw [s28]
  simp only [s7, s14, s21, lspec_bits a, Option.bind_some, hw, if_true, and_self, interpInstr]

theorem mpopc (d : RSpec) (a : LSpec) : Statement (.mpopc d a) := by
  intro hw
  replace hw : (d.writable && a.maskSource) = true := hw
  have ⟨odd, lt, s1, s7, s13, s14, s21, s28⟩ := seg28 (c := 0x60000059) (k0 := 44) (k1 := 0) (k2 := 0) (k3 := 6) (x0 := d.bits) (x1 := a.bits) (by decide) (by decide) (by decide) (by decide) (by decide) d.bits_lt a.bits_lt
  refine of_word odd lt ?_ rfl hw
  rw [decodeWord, major44 _ s1]
  unfold readVM
  rw [s28]
  simp only [s7, s13, s14, s21, rspec_bits d, lspec_bits a, Option.bind_some, hw, if_true, and_self, interpInstr]

theorem mfirst (d : RSpec) (a : LSpec) : Statement (.mfirst d a) := by
  intro hw
  replace hw : (d.writable && a.maskSource) = true := hw
  have ⟨odd, lt, s1, s7, s13, s14, s21, s28⟩ := seg28 (c := 0x70000059) (k0 := 44) (k1 := 0) (k2 := 0) (k3 := 7) (x0 := d.bits) (x1 := a.bits) (by decide) (by decide) (by decide) (by decide) (by decide) d.bits_lt a.bits_lt
  refine of_word odd lt ?_ rfl hw
  rw [decodeWord, major44 _ s1]
  unfold readVM
  rw [s28]
  simp only [s7, s13, s14, s21, rspec_bits d, lspec_bits a, Option.bind_some, hw, if_true, and_self, interpInstr]

theorem vcvtF32F16 (d : LSpec) (a : LSpec) (p : BitVec 7) : Statement (.vcvtF32F16 d a p) := by
  intro hw
  replace hw : (d.dest && a.source && decide (p.toNat ≤ 1)) = true := hw
  have ⟨odd, lt, s1, s7, s14, s21, s28⟩ := seg25 (c := 0x5b) (k0 := 45) (k1 := 0) (x0 := d.bits) (x1 := a.bits) (x2 := p.toNat) (by decide) (by decide) (by decide) d.bits_lt a.bits_lt p.isLt
  refine of_word odd lt ?_ rfl hw
  rw [decodeWord, major45 _ s1]
  unfold readVX
  rw [s28]
  simp only [s7, s14, s21, lspec_bits d, lspec_bits a, Option.bind_some, BitVec.ofNat_toNat, BitVec.setWidth_eq, hw, if_true, interpInstr]

theorem vcvtF16F32 (d : LSpec) (a : LSpec) (p : BitVec 7) : Statement (.vcvtF16F32 d a p) := by
  intro hw
  replace hw : (d.destRead && a.source && decide (p.toNat ≤ 1)) = true := hw
  have ⟨odd, lt, s1, s7, s14, s21, s28⟩ := seg25 (c := 0x1000005b) (k0 := 45) (k1 := 1) (x0 := d.bits) (x1 := a.bits) (x2 := p.toNat) (by decide) (by decide) (by decide) d.bits_lt a.bits_lt p.isLt
  refine of_word odd lt ?_ rfl hw
  rw [decodeWord, major45 _ s1]
  unfold readVX
  rw [s28]
  simp only [s7, s14, s21, lspec_bits d, lspec_bits a, Option.bind_some, BitVec.ofNat_toNat, BitVec.setWidth_eq, hw, if_true, interpInstr]

theorem vcvtF32Bf16 (d : LSpec) (a : LSpec) (p : BitVec 7) : Statement (.vcvtF32Bf16 d a p) := by
  intro hw
  replace hw : (d.dest && a.source && decide (p.toNat ≤ 1)) = true := hw
  have ⟨odd, lt, s1, s7, s14, s21, s28⟩ := seg25 (c := 0x2000005b) (k0 := 45) (k1 := 2) (x0 := d.bits) (x1 := a.bits) (x2 := p.toNat) (by decide) (by decide) (by decide) d.bits_lt a.bits_lt p.isLt
  refine of_word odd lt ?_ rfl hw
  rw [decodeWord, major45 _ s1]
  unfold readVX
  rw [s28]
  simp only [s7, s14, s21, lspec_bits d, lspec_bits a, Option.bind_some, BitVec.ofNat_toNat, BitVec.setWidth_eq, hw, if_true, interpInstr]

theorem vcvtBf16F32 (d : LSpec) (a : LSpec) (p : BitVec 7) : Statement (.vcvtBf16F32 d a p) := by
  intro hw
  replace hw : (d.destRead && a.source && decide (p.toNat ≤ 1)) = true := hw
  have ⟨odd, lt, s1, s7, s14, s21, s28⟩ := seg25 (c := 0x3000005b) (k0 := 45) (k1 := 3) (x0 := d.bits) (x1 := a.bits) (x2 := p.toNat) (by decide) (by decide) (by decide) d.bits_lt a.bits_lt p.isLt
  refine of_word odd lt ?_ rfl hw
  rw [decodeWord, major45 _ s1]
  unfold readVX
  rw [s28]
  simp only [s7, s14, s21, lspec_bits d, lspec_bits a, Option.bind_some, BitVec.ofNat_toNat, BitVec.setWidth_eq, hw, if_true, interpInstr]

theorem vcvtF32E4m3 (d : LSpec) (a : LSpec) (p : BitVec 7) : Statement (.vcvtF32E4m3 d a p) := by
  intro hw
  replace hw : (d.dest && a.source && decide (p.toNat ≤ 3)) = true := hw
  have ⟨odd, lt, s1, s7, s14, s21, s28⟩ := seg25 (c := 0x4000005b) (k0 := 45) (k1 := 4) (x0 := d.bits) (x1 := a.bits) (x2 := p.toNat) (by decide) (by decide) (by decide) d.bits_lt a.bits_lt p.isLt
  refine of_word odd lt ?_ rfl hw
  rw [decodeWord, major45 _ s1]
  unfold readVX
  rw [s28]
  simp only [s7, s14, s21, lspec_bits d, lspec_bits a, Option.bind_some, BitVec.ofNat_toNat, BitVec.setWidth_eq, hw, if_true, interpInstr]

theorem vcvtE4m3F32 (d : LSpec) (a : LSpec) (p : BitVec 7) : Statement (.vcvtE4m3F32 d a p) := by
  intro hw
  replace hw : (d.destRead && a.source && decide (p.toNat ≤ 3)) = true := hw
  have ⟨odd, lt, s1, s7, s14, s21, s28⟩ := seg25 (c := 0x5000005b) (k0 := 45) (k1 := 5) (x0 := d.bits) (x1 := a.bits) (x2 := p.toNat) (by decide) (by decide) (by decide) d.bits_lt a.bits_lt p.isLt
  refine of_word odd lt ?_ rfl hw
  rw [decodeWord, major45 _ s1]
  unfold readVX
  rw [s28]
  simp only [s7, s14, s21, lspec_bits d, lspec_bits a, Option.bind_some, BitVec.ofNat_toNat, BitVec.setWidth_eq, hw, if_true, interpInstr]

theorem vcvtF32E5m2 (d : LSpec) (a : LSpec) (p : BitVec 7) : Statement (.vcvtF32E5m2 d a p) := by
  intro hw
  replace hw : (d.dest && a.source && decide (p.toNat ≤ 3)) = true := hw
  have ⟨odd, lt, s1, s7, s14, s21, s28⟩ := seg25 (c := 0x6000005b) (k0 := 45) (k1 := 6) (x0 := d.bits) (x1 := a.bits) (x2 := p.toNat) (by decide) (by decide) (by decide) d.bits_lt a.bits_lt p.isLt
  refine of_word odd lt ?_ rfl hw
  rw [decodeWord, major45 _ s1]
  unfold readVX
  rw [s28]
  simp only [s7, s14, s21, lspec_bits d, lspec_bits a, Option.bind_some, BitVec.ofNat_toNat, BitVec.setWidth_eq, hw, if_true, interpInstr]

theorem vcvtE5m2F32 (d : LSpec) (a : LSpec) (p : BitVec 7) : Statement (.vcvtE5m2F32 d a p) := by
  intro hw
  replace hw : (d.destRead && a.source && decide (p.toNat ≤ 3)) = true := hw
  have ⟨odd, lt, s1, s7, s14, s21, s28⟩ := seg25 (c := 0x7000005b) (k0 := 45) (k1 := 7) (x0 := d.bits) (x1 := a.bits) (x2 := p.toNat) (by decide) (by decide) (by decide) d.bits_lt a.bits_lt p.isLt
  refine of_word odd lt ?_ rfl hw
  rw [decodeWord, major45 _ s1]
  unfold readVX
  rw [s28]
  simp only [s7, s14, s21, lspec_bits d, lspec_bits a, Option.bind_some, BitVec.ofNat_toNat, BitVec.setWidth_eq, hw, if_true, interpInstr]

theorem vcvtI32F32 (d : LSpec) (a : LSpec) : Statement (.vcvtI32F32 d a) := by
  intro hw
  replace hw : (d.dest && a.source) = true := hw
  have ⟨odd, lt, s1, s7, s14, s21, s28⟩ := seg26 (c := 0x8000005b) (k0 := 45) (k1 := 0) (k2 := 8) (x0 := d.bits) (x1 := a.bits) (by decide) (by decide) (by decide) (by decide) d.bits_lt a.bits_lt
  refine of_word odd lt ?_ rfl hw
  rw [decodeWord, major45 _ s1]
  unfold readVX
  rw [s28]
  simp only [s7, s14, s21, lspec_bits d, lspec_bits a, Option.bind_some, hw, if_true, interpInstr]

theorem vcvtF32I32 (d : LSpec) (a : LSpec) : Statement (.vcvtF32I32 d a) := by
  intro hw
  replace hw : (d.dest && a.source) = true := hw
  have ⟨odd, lt, s1, s7, s14, s21, s28⟩ := seg26 (c := 0x9000005b) (k0 := 45) (k1 := 0) (k2 := 9) (x0 := d.bits) (x1 := a.bits) (by decide) (by decide) (by decide) (by decide) d.bits_lt a.bits_lt
  refine of_word odd lt ?_ rfl hw
  rw [decodeWord, major45 _ s1]
  unfold readVX
  rw [s28]
  simp only [s7, s14, s21, lspec_bits d, lspec_bits a, Option.bind_some, hw, if_true, interpInstr]

theorem vcvtI16I32 (d : LSpec) (a : LSpec) (p : BitVec 7) : Statement (.vcvtI16I32 d a p) := by
  intro hw
  replace hw : (d.destRead && a.source && decide (p.toNat ≤ 1)) = true := hw
  have ⟨odd, lt, s1, s7, s14, s21, s28⟩ := seg25 (c := 0xa000005b) (k0 := 45) (k1 := 10) (x0 := d.bits) (x1 := a.bits) (x2 := p.toNat) (by decide) (by decide) (by decide) d.bits_lt a.bits_lt p.isLt
  refine of_word odd lt ?_ rfl hw
  rw [decodeWord, major45 _ s1]
  unfold readVX
  rw [s28]
  simp only [s7, s14, s21, lspec_bits d, lspec_bits a, Option.bind_some, BitVec.ofNat_toNat, BitVec.setWidth_eq, hw, if_true, interpInstr]

theorem vcvtI32I16 (d : LSpec) (a : LSpec) (p : BitVec 7) : Statement (.vcvtI32I16 d a p) := by
  intro hw
  replace hw : (d.dest && a.source && decide (p.toNat ≤ 1)) = true := hw
  have ⟨odd, lt, s1, s7, s14, s21, s28⟩ := seg25 (c := 0xb000005b) (k0 := 45) (k1 := 11) (x0 := d.bits) (x1 := a.bits) (x2 := p.toNat) (by decide) (by decide) (by decide) d.bits_lt a.bits_lt p.isLt
  refine of_word odd lt ?_ rfl hw
  rw [decodeWord, major45 _ s1]
  unfold readVX
  rw [s28]
  simp only [s7, s14, s21, lspec_bits d, lspec_bits a, Option.bind_some, BitVec.ofNat_toNat, BitVec.setWidth_eq, hw, if_true, interpInstr]

theorem vcvtF32Cb4 (d : LSpec) (a : LSpec) (p : BitVec 7) : Statement (.vcvtF32Cb4 d a p) := by
  intro hw
  replace hw : (d.dest && a.source && decide (p.toNat ≤ 7)) = true := hw
  have ⟨odd, lt, s1, s7, s14, s21, s28⟩ := seg25 (c := 0xc000005b) (k0 := 45) (k1 := 12) (x0 := d.bits) (x1 := a.bits) (x2 := p.toNat) (by decide) (by decide) (by decide) d.bits_lt a.bits_lt p.isLt
  refine of_word odd lt ?_ rfl hw
  rw [decodeWord, major45 _ s1]
  unfold readVX
  rw [s28]
  simp only [s7, s14, s21, lspec_bits d, lspec_bits a, Option.bind_some, BitVec.ofNat_toNat, BitVec.setWidth_eq, hw, if_true, interpInstr]

theorem vcvtCb4F32 (d : LSpec) (a : LSpec) (p : BitVec 7) : Statement (.vcvtCb4F32 d a p) := by
  intro hw
  replace hw : (d.destRead && a.source && decide (p.toNat ≤ 7)) = true := hw
  have ⟨odd, lt, s1, s7, s14, s21, s28⟩ := seg25 (c := 0xd000005b) (k0 := 45) (k1 := 13) (x0 := d.bits) (x1 := a.bits) (x2 := p.toNat) (by decide) (by decide) (by decide) d.bits_lt a.bits_lt p.isLt
  refine of_word odd lt ?_ rfl hw
  rw [decodeWord, major45 _ s1]
  unfold readVX
  rw [s28]
  simp only [s7, s14, s21, lspec_bits d, lspec_bits a, Option.bind_some, BitVec.ofNat_toNat, BitVec.setWidth_eq, hw, if_true, interpInstr]

theorem vcvtI8I32 (d : LSpec) (a : LSpec) (p : BitVec 7) : Statement (.vcvtI8I32 d a p) := by
  intro hw
  replace hw : (d.destRead && a.source && decide (p.toNat ≤ 3)) = true := hw
  have ⟨odd, lt, s1, s7, s14, s21, s28⟩ := seg25 (c := 0xe000005b) (k0 := 45) (k1 := 14) (x0 := d.bits) (x1 := a.bits) (x2 := p.toNat) (by decide) (by decide) (by decide) d.bits_lt a.bits_lt p.isLt
  refine of_word odd lt ?_ rfl hw
  rw [decodeWord, major45 _ s1]
  unfold readVX
  rw [s28]
  simp only [s7, s14, s21, lspec_bits d, lspec_bits a, Option.bind_some, BitVec.ofNat_toNat, BitVec.setWidth_eq, hw, if_true, interpInstr]

theorem vcvtI32I8 (d : LSpec) (a : LSpec) (p : BitVec 7) : Statement (.vcvtI32I8 d a p) := by
  intro hw
  replace hw : (d.dest && a.source && decide (p.toNat ≤ 3)) = true := hw
  have ⟨odd, lt, s1, s7, s14, s21, s28⟩ := seg25 (c := 0xf000005b) (k0 := 45) (k1 := 15) (x0 := d.bits) (x1 := a.bits) (x2 := p.toNat) (by decide) (by decide) (by decide) d.bits_lt a.bits_lt p.isLt
  refine of_word odd lt ?_ rfl hw
  rw [decodeWord, major45 _ s1]
  unfold readVX
  rw [s28]
  simp only [s7, s14, s21, lspec_bits d, lspec_bits a, Option.bind_some, BitVec.ofNat_toNat, BitVec.setWidth_eq, hw, if_true, interpInstr]

theorem vbcast (d : LSpec) (a : LSpec) (b : RSpec) : Statement (.vbcast d a b) := by
  intro hw
  replace hw : (d.dest && a.source && b.readable) = true := hw
  have ⟨odd, lt, s1, s7, s14, s21, s27, s28⟩ := seg29 (c := 0x5d) (k0 := 46) (k1 := 0) (k2 := 0) (x0 := d.bits) (x1 := a.bits) (x2 := b.bits) (by decide) (by decide) (by decide) (by decide) d.bits_lt a.bits_lt b.bits_lt
  refine of_word odd lt ?_ rfl hw
  rw [decodeWord, major46 _ s1]
  unfold readVP
  rw [s28]
  simp only [s7, s14, s21, s27, lspec_bits d, lspec_bits a, rspec_bits b, Option.bind_some, hw, if_true, interpInstr]

theorem vextr (d : RSpec) (a : LSpec) (b : RSpec) : Statement (.vextr d a b) := by
  intro hw
  replace hw : (d.writable && a.source && b.readable) = true := hw
  have ⟨odd, lt, s1, s7, s13, s14, s21, s27, s28⟩ := seg30 (c := 0x1000005d) (k0 := 46) (k1 := 0) (k2 := 0) (k3 := 1) (x0 := d.bits) (x1 := a.bits) (x2 := b.bits) (by decide) (by decide) (by decide) (by decide) (by decide) d.bits_lt a.bits_lt b.bits_lt
  refine of_word odd lt ?_ rfl hw
  rw [decodeWord, major46 _ s1]
  unfold readVP
  rw [s28]
  simp only [s7, s13, s14, s21, s27, rspec_bits d, lspec_bits a, rspec_bits b, Option.bind_some, hw, if_true, and_self, interpInstr]

theorem vins (d : LSpec) (a : RSpec) (b : RSpec) : Statement (.vins d a b) := by
  intro hw
  replace hw : (d.destRead && a.readable && b.readable) = true := hw
  have ⟨odd, lt, s1, s7, s14, s20, s21, s27, s28⟩ := seg31 (c := 0x2000005d) (k0 := 46) (k1 := 0) (k2 := 0) (k3 := 2) (x0 := d.bits) (x1 := a.bits) (x2 := b.bits) (by decide) (by decide) (by decide) (by decide) (by decide) d.bits_lt a.bits_lt b.bits_lt
  refine of_word odd lt ?_ rfl hw
  rw [decodeWord, major46 _ s1]
  unfold readVP
  rw [s28]
  simp only [s7, s14, s20, s21, s27, lspec_bits d, rspec_bits a, rspec_bits b, Option.bind_some, hw, if_true, and_self, interpInstr]

theorem vrot (d : LSpec) (a : LSpec) (b : RSpec) : Statement (.vrot d a b) := by
  intro hw
  replace hw : (d.dest && a.source && b.readable) = true := hw
  have ⟨odd, lt, s1, s7, s14, s21, s27, s28⟩ := seg29 (c := 0x3000005d) (k0 := 46) (k1 := 0) (k2 := 3) (x0 := d.bits) (x1 := a.bits) (x2 := b.bits) (by decide) (by decide) (by decide) (by decide) d.bits_lt a.bits_lt b.bits_lt
  refine of_word odd lt ?_ rfl hw
  rw [decodeWord, major46 _ s1]
  unfold readVP
  rw [s28]
  simp only [s7, s14, s21, s27, lspec_bits d, lspec_bits a, rspec_bits b, Option.bind_some, hw, if_true, interpInstr]

theorem vshuf (d : LSpec) (a : LSpec) (b : LSpec) : Statement (.vshuf d a b) := by
  intro hw
  replace hw : (d.dest && a.source && b.source) = true := hw
  have ⟨odd, lt, s1, s7, s14, s21, s28⟩ := seg25 (c := 0x4000005d) (k0 := 46) (k1 := 4) (x0 := d.bits) (x1 := a.bits) (x2 := b.bits) (by decide) (by decide) (by decide) d.bits_lt a.bits_lt b.bits_lt
  refine of_word odd lt ?_ rfl hw
  rw [decodeWord, major46 _ s1]
  unfold readVP
  rw [s28]
  simp only [s7, s14, s21, lspec_bits d, lspec_bits a, lspec_bits b, Option.bind_some, hw, if_true, interpInstr]

theorem vscan (d : LSpec) (a : LSpec) (k : BitVec 7) : Statement (.vscan d a k) := by
  intro hw
  replace hw : (d.dest && a.source && decide (k.toNat ≤ 1)) = true := hw
  have ⟨odd, lt, s1, s7, s14, s21, s28⟩ := seg25 (c := 0x5000005d) (k0 := 46) (k1 := 5) (x0 := d.bits) (x1 := a.bits) (x2 := k.toNat) (by decide) (by decide) (by decide) d.bits_lt a.bits_lt k.isLt
  refine of_word odd lt ?_ rfl hw
  rw [decodeWord, major46 _ s1]
  unfold readVP
  rw [s28]
  simp only [s7, s14, s21, lspec_bits d, lspec_bits a, Option.bind_some, BitVec.ofNat_toNat, BitVec.setWidth_eq, hw, if_true, interpInstr]

theorem vredadd (d : RSpec) (a : LSpec) (k : BitVec 7) : Statement (.vredadd d a k) := by
  intro hw
  replace hw : (d.writable && a.source && decide (k.toNat ≤ 1)) = true := hw
  have ⟨odd, lt, s1, s7, s13, s14, s21, s28⟩ := seg32 (c := 0x6000005d) (k0 := 46) (k1 := 0) (k2 := 6) (x0 := d.bits) (x1 := a.bits) (x2 := k.toNat) (by decide) (by decide) (by decide) (by decide) d.bits_lt a.bits_lt k.isLt
  refine of_word odd lt ?_ rfl hw
  rw [decodeWord, major46 _ s1]
  unfold readVP
  rw [s28]
  simp only [s7, s13, s14, s21, rspec_bits d, lspec_bits a, Option.bind_some, BitVec.ofNat_toNat, BitVec.setWidth_eq, hw, if_true, interpInstr]

theorem vredmax (d : RSpec) (a : LSpec) (k : BitVec 7) : Statement (.vredmax d a k) := by
  intro hw
  replace hw : (d.writable && a.source && decide (k.toNat ≤ 2)) = true := hw
  have ⟨odd, lt, s1, s7, s13, s14, s21, s28⟩ := seg32 (c := 0x7000005d) (k0 := 46) (k1 := 0) (k2 := 7) (x0 := d.bits) (x1 := a.bits) (x2 := k.toNat) (by decide) (by decide) (by decide) (by decide) d.bits_lt a.bits_lt k.isLt
  refine of_word odd lt ?_ rfl hw
  rw [decodeWord, major46 _ s1]
  unfold readVP
  rw [s28]
  simp only [s7, s13, s14, s21, rspec_bits d, lspec_bits a, Option.bind_some, BitVec.ofNat_toNat, BitVec.setWidth_eq, hw, if_true, interpInstr]

theorem vredmin (d : RSpec) (a : LSpec) (k : BitVec 7) : Statement (.vredmin d a k) := by
  intro hw
  replace hw : (d.writable && a.source && decide (k.toNat ≤ 2)) = true := hw
  have ⟨odd, lt, s1, s7, s13, s14, s21, s28⟩ := seg32 (c := 0x8000005d) (k0 := 46) (k1 := 0) (k2 := 8) (x0 := d.bits) (x1 := a.bits) (x2 := k.toNat) (by decide) (by decide) (by decide) (by decide) d.bits_lt a.bits_lt k.isLt
  refine of_word odd lt ?_ rfl hw
  rw [decodeWord, major46 _ s1]
  unfold readVP
  rw [s28]
  simp only [s7, s13, s14, s21, rspec_bits d, lspec_bits a, Option.bind_some, BitVec.ofNat_toNat, BitVec.setWidth_eq, hw, if_true, interpInstr]

theorem viota (d : LSpec) : Statement (.viota d) := by
  intro hw
  replace hw : (d.dest) = true := hw
  have ⟨odd, lt, s1, s7, s14, s28⟩ := seg33 (c := 0x9000005d) (k0 := 46) (k1 := 0) (k2 := 9) (x0 := d.bits) (by decide) (by decide) (by decide) (by decide) d.bits_lt
  refine of_word odd lt ?_ rfl hw
  rw [decodeWord, major46 _ s1]
  unfold readVP
  rw [s28]
  simp only [s7, s14, lspec_bits d, Option.bind_some, hw, if_true, interpInstr]

theorem vzip (d : LSpec) (a : LSpec) (b : LSpec) : Statement (.vzip d a b) := by
  intro hw
  replace hw : (d.dest && a.source && b.source) = true := hw
  have ⟨odd, lt, s1, s7, s14, s21, s28⟩ := seg25 (c := 0xa000005d) (k0 := 46) (k1 := 10) (x0 := d.bits) (x1 := a.bits) (x2 := b.bits) (by decide) (by decide) (by decide) d.bits_lt a.bits_lt b.bits_lt
  refine of_word odd lt ?_ rfl hw
  rw [decodeWord, major46 _ s1]
  unfold readVP
  rw [s28]
  simp only [s7, s14, s21, lspec_bits d, lspec_bits a, lspec_bits b, Option.bind_some, hw, if_true, interpInstr]

theorem vunzip (d : LSpec) (a : LSpec) (b : LSpec) : Statement (.vunzip d a b) := by
  intro hw
  replace hw : (d.dest && a.source && b.source) = true := hw
  have ⟨odd, lt, s1, s7, s14, s21, s28⟩ := seg25 (c := 0xb000005d) (k0 := 46) (k1 := 11) (x0 := d.bits) (x1 := a.bits) (x2 := b.bits) (by decide) (by decide) (by decide) d.bits_lt a.bits_lt b.bits_lt
  refine of_word odd lt ?_ rfl hw
  rw [decodeWord, major46 _ s1]
  unfold readVP
  rw [s28]
  simp only [s7, s14, s21, lspec_bits d, lspec_bits a, lspec_bits b, Option.bind_some, hw, if_true, interpInstr]

theorem vaddFCompact (d : BitVec 6) (a : LSpec) : Statement (.vaddFCompact d a) := by
  intro hw
  replace hw : (a.compact) = true := hw
  have ⟨odd, lt, s1, s5, s11⟩ := seg34 (c := 0x0) (k0 := 0) (x0 := d.toNat) (x1 := a.compactBits) (by decide) (by decide) d.isLt a.compactBits_lt
  refine of_half odd lt ?_ rfl hw
  unfold decodeHalf readCompact
  rw [s1]
  simp only [s5, s11, compactSpec_bits a hw, Option.bind_some, BitVec.ofNat_toNat, BitVec.setWidth_eq, hw, if_true, interpInstr]

theorem vsubFCompact (d : BitVec 6) (a : LSpec) : Statement (.vsubFCompact d a) := by
  intro hw
  replace hw : (a.compact) = true := hw
  have ⟨odd, lt, s1, s5, s11⟩ := seg34 (c := 0x2) (k0 := 1) (x0 := d.toNat) (x1 := a.compactBits) (by decide) (by decide) d.isLt a.compactBits_lt
  refine of_half odd lt ?_ rfl hw
  unfold decodeHalf readCompact
  rw [s1]
  simp only [s5, s11, compactSpec_bits a hw, Option.bind_some, BitVec.ofNat_toNat, BitVec.setWidth_eq, hw, if_true, interpInstr]

theorem vmulFCompact (d : BitVec 6) (a : LSpec) : Statement (.vmulFCompact d a) := by
  intro hw
  replace hw : (a.compact) = true := hw
  have ⟨odd, lt, s1, s5, s11⟩ := seg34 (c := 0x4) (k0 := 2) (x0 := d.toNat) (x1 := a.compactBits) (by decide) (by decide) d.isLt a.compactBits_lt
  refine of_half odd lt ?_ rfl hw
  unfold decodeHalf readCompact
  rw [s1]
  simp only [s5, s11, compactSpec_bits a hw, Option.bind_some, BitVec.ofNat_toNat, BitVec.setWidth_eq, hw, if_true, interpInstr]

theorem vmaxFCompact (d : BitVec 6) (a : LSpec) : Statement (.vmaxFCompact d a) := by
  intro hw
  replace hw : (a.compact) = true := hw
  have ⟨odd, lt, s1, s5, s11⟩ := seg34 (c := 0x6) (k0 := 3) (x0 := d.toNat) (x1 := a.compactBits) (by decide) (by decide) d.isLt a.compactBits_lt
  refine of_half odd lt ?_ rfl hw
  unfold decodeHalf readCompact
  rw [s1]
  simp only [s5, s11, compactSpec_bits a hw, Option.bind_some, BitVec.ofNat_toNat, BitVec.setWidth_eq, hw, if_true, interpInstr]

theorem vminFCompact (d : BitVec 6) (a : LSpec) : Statement (.vminFCompact d a) := by
  intro hw
  replace hw : (a.compact) = true := hw
  have ⟨odd, lt, s1, s5, s11⟩ := seg34 (c := 0x8) (k0 := 4) (x0 := d.toNat) (x1 := a.compactBits) (by decide) (by decide) d.isLt a.compactBits_lt
  refine of_half odd lt ?_ rfl hw
  unfold decodeHalf readCompact
  rw [s1]
  simp only [s5, s11, compactSpec_bits a hw, Option.bind_some, BitVec.ofNat_toNat, BitVec.setWidth_eq, hw, if_true, interpInstr]

theorem vaddICompact (d : BitVec 6) (a : LSpec) : Statement (.vaddICompact d a) := by
  intro hw
  replace hw : (a.compact) = true := hw
  have ⟨odd, lt, s1, s5, s11⟩ := seg34 (c := 0xa) (k0 := 5) (x0 := d.toNat) (x1 := a.compactBits) (by decide) (by decide) d.isLt a.compactBits_lt
  refine of_half odd lt ?_ rfl hw
  unfold decodeHalf readCompact
  rw [s1]
  simp only [s5, s11, compactSpec_bits a hw, Option.bind_some, BitVec.ofNat_toNat, BitVec.setWidth_eq, hw, if_true, interpInstr]

theorem vsubICompact (d : BitVec 6) (a : LSpec) : Statement (.vsubICompact d a) := by
  intro hw
  replace hw : (a.compact) = true := hw
  have ⟨odd, lt, s1, s5, s11⟩ := seg34 (c := 0xc) (k0 := 6) (x0 := d.toNat) (x1 := a.compactBits) (by decide) (by decide) d.isLt a.compactBits_lt
  refine of_half odd lt ?_ rfl hw
  unfold decodeHalf readCompact
  rw [s1]
  simp only [s5, s11, compactSpec_bits a hw, Option.bind_some, BitVec.ofNat_toNat, BitVec.setWidth_eq, hw, if_true, interpInstr]

theorem vmaxICompact (d : BitVec 6) (a : LSpec) : Statement (.vmaxICompact d a) := by
  intro hw
  replace hw : (a.compact) = true := hw
  have ⟨odd, lt, s1, s5, s11⟩ := seg34 (c := 0xe) (k0 := 7) (x0 := d.toNat) (x1 := a.compactBits) (by decide) (by decide) d.isLt a.compactBits_lt
  refine of_half odd lt ?_ rfl hw
  unfold decodeHalf readCompact
  rw [s1]
  simp only [s5, s11, compactSpec_bits a hw, Option.bind_some, BitVec.ofNat_toNat, BitVec.setWidth_eq, hw, if_true, interpInstr]

theorem vminICompact (d : BitVec 6) (a : LSpec) : Statement (.vminICompact d a) := by
  intro hw
  replace hw : (a.compact) = true := hw
  have ⟨odd, lt, s1, s5, s11⟩ := seg34 (c := 0x10) (k0 := 8) (x0 := d.toNat) (x1 := a.compactBits) (by decide) (by decide) d.isLt a.compactBits_lt
  refine of_half odd lt ?_ rfl hw
  unfold decodeHalf readCompact
  rw [s1]
  simp only [s5, s11, compactSpec_bits a hw, Option.bind_some, BitVec.ofNat_toNat, BitVec.setWidth_eq, hw, if_true, interpInstr]

theorem vandCompact (d : BitVec 6) (a : LSpec) : Statement (.vandCompact d a) := by
  intro hw
  replace hw : (a.compact) = true := hw
  have ⟨odd, lt, s1, s5, s11⟩ := seg34 (c := 0x12) (k0 := 9) (x0 := d.toNat) (x1 := a.compactBits) (by decide) (by decide) d.isLt a.compactBits_lt
  refine of_half odd lt ?_ rfl hw
  unfold decodeHalf readCompact
  rw [s1]
  simp only [s5, s11, compactSpec_bits a hw, Option.bind_some, BitVec.ofNat_toNat, BitVec.setWidth_eq, hw, if_true, interpInstr]

theorem vorCompact (d : BitVec 6) (a : LSpec) : Statement (.vorCompact d a) := by
  intro hw
  replace hw : (a.compact) = true := hw
  have ⟨odd, lt, s1, s5, s11⟩ := seg34 (c := 0x14) (k0 := 10) (x0 := d.toNat) (x1 := a.compactBits) (by decide) (by decide) d.isLt a.compactBits_lt
  refine of_half odd lt ?_ rfl hw
  unfold decodeHalf readCompact
  rw [s1]
  simp only [s5, s11, compactSpec_bits a hw, Option.bind_some, BitVec.ofNat_toNat, BitVec.setWidth_eq, hw, if_true, interpInstr]

theorem vxorCompact (d : BitVec 6) (a : LSpec) : Statement (.vxorCompact d a) := by
  intro hw
  replace hw : (a.compact) = true := hw
  have ⟨odd, lt, s1, s5, s11⟩ := seg34 (c := 0x16) (k0 := 11) (x0 := d.toNat) (x1 := a.compactBits) (by decide) (by decide) d.isLt a.compactBits_lt
  refine of_half odd lt ?_ rfl hw
  unfold decodeHalf readCompact
  rw [s1]
  simp only [s5, s11, compactSpec_bits a hw, Option.bind_some, BitVec.ofNat_toNat, BitVec.setWidth_eq, hw, if_true, interpInstr]

theorem vmovCompact (d : BitVec 6) (a : LSpec) : Statement (.vmovCompact d a) := by
  intro hw
  replace hw : (a.compact) = true := hw
  have ⟨odd, lt, s1, s5, s11⟩ := seg34 (c := 0x18) (k0 := 12) (x0 := d.toNat) (x1 := a.compactBits) (by decide) (by decide) d.isLt a.compactBits_lt
  refine of_half odd lt ?_ rfl hw
  unfold decodeHalf readCompact
  rw [s1]
  simp only [s5, s11, compactSpec_bits a hw, Option.bind_some, BitVec.ofNat_toNat, BitVec.setWidth_eq, hw, if_true, interpInstr]

theorem vnegFCompact (d : BitVec 6) (a : LSpec) : Statement (.vnegFCompact d a) := by
  intro hw
  replace hw : (a.compact) = true := hw
  have ⟨odd, lt, s1, s5, s11⟩ := seg34 (c := 0x1a) (k0 := 13) (x0 := d.toNat) (x1 := a.compactBits) (by decide) (by decide) d.isLt a.compactBits_lt
  refine of_half odd lt ?_ rfl hw
  unfold decodeHalf readCompact
  rw [s1]
  simp only [s5, s11, compactSpec_bits a hw, Option.bind_some, BitVec.ofNat_toNat, BitVec.setWidth_eq, hw, if_true, interpInstr]

theorem vabsFCompact (d : BitVec 6) (a : LSpec) : Statement (.vabsFCompact d a) := by
  intro hw
  replace hw : (a.compact) = true := hw
  have ⟨odd, lt, s1, s5, s11⟩ := seg34 (c := 0x1c) (k0 := 14) (x0 := d.toNat) (x1 := a.compactBits) (by decide) (by decide) d.isLt a.compactBits_lt
  refine of_half odd lt ?_ rfl hw
  unfold decodeHalf readCompact
  rw [s1]
  simp only [s5, s11, compactSpec_bits a hw, Option.bind_some, BitVec.ofNat_toNat, BitVec.setWidth_eq, hw, if_true, interpInstr]

theorem vshlICompact (d : BitVec 6) (a : LSpec) : Statement (.vshlICompact d a) := by
  intro hw
  replace hw : (a.compact) = true := hw
  have ⟨odd, lt, s1, s5, s11⟩ := seg34 (c := 0x1e) (k0 := 15) (x0 := d.toNat) (x1 := a.compactBits) (by decide) (by decide) d.isLt a.compactBits_lt
  refine of_half odd lt ?_ rfl hw
  unfold decodeHalf readCompact
  rw [s1]
  simp only [s5, s11, compactSpec_bits a hw, Option.bind_some, BitVec.ofNat_toNat, BitVec.setWidth_eq, hw, if_true, interpInstr]

theorem kadd (kd : BitVec 4) (ka : BitVec 4) (kb : BitVec 4) : Statement (.kadd kd ka kb) := by
  intro hw
  have ⟨odd, lt, s1, s7, s11, s15, s19, s25⟩ := seg35 (c := 0x61) (k0 := 48) (k1 := 0) (k2 := 0) (x0 := kd.toNat) (x1 := ka.toNat) (x2 := kb.toNat) (by decide) (by decide) (by decide) (by decide) kd.isLt ka.isLt kb.isLt
  refine of_word odd lt ?_ rfl hw
  rw [decodeWord, major48 _ s1]
  unfold readKop
  rw [s25]
  simp only [s7, s11, s15, s19, BitVec.ofNat_toNat, BitVec.setWidth_eq, if_true, interpInstr]

theorem ksub (kd : BitVec 4) (ka : BitVec 4) (kb : BitVec 4) : Statement (.ksub kd ka kb) := by
  intro hw
  have ⟨odd, lt, s1, s7, s11, s15, s19, s25⟩ := seg35 (c := 0x2000061) (k0 := 48) (k1 := 0) (k2 := 1) (x0 := kd.toNat) (x1 := ka.toNat) (x2 := kb.toNat) (by decide) (by decide) (by decide) (by decide) kd.isLt ka.isLt kb.isLt
  refine of_word odd lt ?_ rfl hw
  rw [decodeWord, major48 _ s1]
  unfold readKop
  rw [s25]
  simp only [s7, s11, s15, s19, BitVec.ofNat_toNat, BitVec.setWidth_eq, if_true, interpInstr]

theorem kmax (kd : BitVec 4) (ka : BitVec 4) (kb : BitVec 4) : Statement (.kmax kd ka kb) := by
  intro hw
  have ⟨odd, lt, s1, s7, s11, s15, s19, s25⟩ := seg35 (c := 0x4000061) (k0 := 48) (k1 := 0) (k2 := 2) (x0 := kd.toNat) (x1 := ka.toNat) (x2 := kb.toNat) (by decide) (by decide) (by decide) (by decide) kd.isLt ka.isLt kb.isLt
  refine of_word odd lt ?_ rfl hw
  rw [decodeWord, major48 _ s1]
  unfold readKop
  rw [s25]
  simp only [s7, s11, s15, s19, BitVec.ofNat_toNat, BitVec.setWidth_eq, if_true, interpInstr]

theorem kmin (kd : BitVec 4) (ka : BitVec 4) (kb : BitVec 4) : Statement (.kmin kd ka kb) := by
  intro hw
  have ⟨odd, lt, s1, s7, s11, s15, s19, s25⟩ := seg35 (c := 0x6000061) (k0 := 48) (k1 := 0) (k2 := 3) (x0 := kd.toNat) (x1 := ka.toNat) (x2 := kb.toNat) (by decide) (by decide) (by decide) (by decide) kd.isLt ka.isLt kb.isLt
  refine of_word odd lt ?_ rfl hw
  rw [decodeWord, major48 _ s1]
  unfold readKop
  rw [s25]
  simp only [s7, s11, s15, s19, BitVec.ofNat_toNat, BitVec.setWidth_eq, if_true, interpInstr]

theorem kmov (kd : BitVec 4) (ka : BitVec 4) : Statement (.kmov kd ka) := by
  intro hw
  have ⟨odd, lt, s1, s7, s11, s15, s25⟩ := seg36 (c := 0x8000061) (k0 := 48) (k1 := 0) (k2 := 4) (x0 := kd.toNat) (x1 := ka.toNat) (by decide) (by decide) (by decide) (by decide) kd.isLt ka.isLt
  refine of_word odd lt ?_ rfl hw
  rw [decodeWord, major48 _ s1]
  unfold readKop
  rw [s25]
  simp only [s7, s11, s15, BitVec.ofNat_toNat, BitVec.setWidth_eq, if_true, interpInstr]

theorem kset (kd : BitVec 4) (r : RSpec) : Statement (.kset kd r) := by
  intro hw
  replace hw : (r.readable) = true := hw
  have ⟨odd, lt, s1, s7, s11, s19, s25⟩ := seg37 (c := 0xa000061) (k0 := 48) (k1 := 0) (k2 := 5) (x0 := kd.toNat) (x1 := r.bits) (by decide) (by decide) (by decide) (by decide) kd.isLt r.bits_lt
  refine of_word odd lt ?_ rfl hw
  rw [decodeWord, major48 _ s1]
  unfold readKop
  rw [s25]
  simp only [s7, s11, s19, rspec_bits r, Option.bind_some, BitVec.ofNat_toNat, BitVec.setWidth_eq, hw, if_true, interpInstr]

theorem kfromv (kd : BitVec 4) (vr : BitVec 6) : Statement (.kfromv kd vr) := by
  intro hw
  have ⟨odd, lt, s1, s7, s11, s19, s25⟩ := seg37 (c := 0xc000061) (k0 := 48) (k1 := 0) (k2 := 6) (x0 := kd.toNat) (x1 := vr.toNat) (by decide) (by decide) (by decide) (by decide) kd.isLt vr.isLt
  refine of_word odd lt ?_ rfl hw
  rw [decodeWord, major48 _ s1]
  unfold readKop
  rw [s25]
  simp only [s7, s11, s19, BitVec.ofNat_toNat, BitVec.setWidth_eq, if_true, interpInstr]

theorem ktov (vr : BitVec 6) (ka : BitVec 4) : Statement (.ktov vr ka) := by
  intro hw
  have ⟨odd, lt, s1, s7, s11, s15, s19, s25⟩ := seg38 (c := 0xe000061) (k0 := 48) (k1 := 0) (k2 := 0) (k3 := 7) (x0 := ka.toNat) (x1 := vr.toNat) (by decide) (by decide) (by decide) (by decide) (by decide) ka.isLt vr.isLt
  refine of_word odd lt ?_ rfl hw
  rw [decodeWord, major48 _ s1]
  unfold readKop
  rw [s25]
  simp only [s7, s11, s15, s19, BitVec.ofNat_toNat, BitVec.setWidth_eq, if_true, and_self, interpInstr]

theorem kbind (kd : BitVec 4) (tag : BitVec 4) (r : RSpec) : Statement (.kbind kd tag r) := by
  intro hw
  replace hw : (r.readable) = true := hw
  have ⟨odd, lt, s1, s7, s11, s15, s19, s25⟩ := seg39 (c := 0x10000061) (k0 := 48) (k1 := 0) (k2 := 8) (x0 := kd.toNat) (x1 := tag.toNat) (x2 := r.bits) (by decide) (by decide) (by decide) (by decide) kd.isLt tag.isLt r.bits_lt
  refine of_word odd lt ?_ rfl hw
  rw [decodeWord, major48 _ s1]
  unfold readKop
  rw [s25]
  simp only [s7, s11, s15, s19, rspec_bits r, Option.bind_some, BitVec.ofNat_toNat, BitVec.setWidth_eq, hw, if_true, interpInstr]

theorem kunbind (tag : BitVec 4) : Statement (.kunbind tag) := by
  intro hw
  have ⟨odd, lt, s1, s7, s15, s19, s25⟩ := seg40 (c := 0x12000061) (k0 := 48) (k1 := 0) (k2 := 0) (k3 := 9) (x0 := tag.toNat) (by decide) (by decide) (by decide) (by decide) (by decide) tag.isLt
  refine of_word odd lt ?_ rfl hw
  rw [decodeWord, major48 _ s1]
  unfold readKop
  rw [s25]
  simp only [s7, s15, s19, BitVec.ofNat_toNat, BitVec.setWidth_eq, if_true, and_self, interpInstr]

theorem kgen (r : RSpec) (ka : BitVec 4) : Statement (.kgen r ka) := by
  intro hw
  replace hw : (r.writable) = true := hw
  have ⟨odd, lt, s1, s7, s11, s15, s19, s25⟩ := seg38 (c := 0x14000061) (k0 := 48) (k1 := 0) (k2 := 0) (k3 := 10) (x0 := ka.toNat) (x1 := r.bits) (by decide) (by decide) (by decide) (by decide) (by decide) ka.isLt r.bits_lt
  refine of_word odd lt ?_ rfl hw
  rw [decodeWord, major48 _ s1]
  unfold readKop
  rw [s25]
  simp only [s7, s11, s15, s19, rspec_bits r, Option.bind_some, BitVec.ofNat_toNat, BitVec.setWidth_eq, hw, if_true, and_self, interpInstr]

theorem ttset (a : RSpec) (b : RSpec) : Statement (.ttset a b) := by
  intro hw
  replace hw : (a.readable && b.group4) = true := hw
  have ⟨odd, lt, s1, s7, s13, s19, s25⟩ := seg19 (c := 0x63) (k0 := 49) (k1 := 0) (k2 := 0) (x0 := a.bits) (x1 := b.bits) (by decide) (by decide) (by decide) (by decide) a.bits_lt b.bits_lt
  refine of_word odd lt ?_ rfl hw
  rw [decodeWord, major49 _ s1]
  unfold readTt
  rw [s25]
  simp only [s7, s13, s19, rspec_bits a, rspec_bits b, Option.bind_some, hw, if_true, interpInstr]

theorem ttget (d : RSpec) (a : RSpec) : Statement (.ttget d a) := by
  intro hw
  replace hw : (d.group4 && a.readable) = true := hw
  have ⟨odd, lt, s1, s7, s13, s19, s25⟩ := seg2 (c := 0x2000063) (k0 := 49) (k1 := 0) (k2 := 1) (x0 := d.bits) (x1 := a.bits) (by decide) (by decide) (by decide) (by decide) d.bits_lt a.bits_lt
  refine of_word odd lt ?_ rfl hw
  rw [decodeWord, major49 _ s1]
  unfold readTt
  rw [s25]
  simp only [s7, s13, s19, rspec_bits d, rspec_bits a, Option.bind_some, hw, if_true, interpInstr]

theorem ttinv (a : RSpec) : Statement (.ttinv a) := by
  intro hw
  replace hw : (a.readable) = true := hw
  have ⟨odd, lt, s1, s7, s13, s19, s25⟩ := seg11 (c := 0x4000063) (k0 := 49) (k1 := 0) (k2 := 0) (k3 := 2) (x0 := a.bits) (by decide) (by decide) (by decide) (by decide) (by decide) a.bits_lt
  refine of_word odd lt ?_ rfl hw
  rw [decodeWord, major49 _ s1]
  unfold readTt
  rw [s25]
  simp only [s7, s13, s19, rspec_bits a, Option.bind_some, hw, if_true, and_self, interpInstr]

theorem tcb (a : RSpec) (b : RSpec) : Statement (.tcb a b) := by
  intro hw
  replace hw : (a.readable && b.readable) = true := hw
  have ⟨odd, lt, s1, s7, s13, s19, s25⟩ := seg19 (c := 0x6000063) (k0 := 49) (k1 := 0) (k2 := 3) (x0 := a.bits) (x1 := b.bits) (by decide) (by decide) (by decide) (by decide) a.bits_lt b.bits_lt
  refine of_word odd lt ?_ rfl hw
  rw [decodeWord, major49 _ s1]
  unfold readTt
  rw [s25]
  simp only [s7, s13, s19, rspec_bits a, rspec_bits b, Option.bind_some, hw, if_true, interpInstr]

theorem tld (kd : BitVec 4) (tag : BitVec 4) (a : RSpec) (b : RSpec) (l : BitVec 4) : Statement (.tld kd tag a b l) := by
  intro hw
  replace hw : (a.readable && b.pair) = true := hw
  have ⟨odd, lt, s1, s7, s13, s19, s23, s27, s31⟩ := seg41 (c := 0x65) (k0 := 50) (k1 := 0) (x0 := a.bits) (x1 := b.bits) (x2 := l.toNat) (x3 := kd.toNat) (x4 := tag.toNat) (by decide) (by decide) (by decide) a.bits_lt b.bits_lt l.isLt kd.isLt tag.isLt
  refine of_word odd lt ?_ rfl hw
  rw [decodeWord, major50 _ s1]
  unfold readTld
  rw [s31]
  simp only [s7, s13, s19, s23, s27, rspec_bits a, rspec_bits b, Option.bind_some, BitVec.ofNat_toNat, BitVec.setWidth_eq, hw, if_true, interpInstr]

theorem tst (kd : BitVec 4) (a : RSpec) (b : RSpec) : Statement (.tst kd a b) := by
  intro hw
  replace hw : (a.readable && b.pair) = true := hw
  have ⟨odd, lt, s1, s7, s13, s19, s23, s27, s31⟩ := seg42 (c := 0x80000065) (k0 := 50) (k1 := 0) (k2 := 0) (k3 := 1) (x0 := a.bits) (x1 := b.bits) (x2 := kd.toNat) (by decide) (by decide) (by decide) (by decide) (by decide) a.bits_lt b.bits_lt kd.isLt
  refine of_word odd lt ?_ rfl hw
  rw [decodeWord, major50 _ s1]
  unfold readTld
  rw [s31]
  simp only [s7, s13, s19, s23, s27, rspec_bits a, rspec_bits b, Option.bind_some, BitVec.ofNat_toNat, BitVec.setWidth_eq, hw, if_true, and_self, interpInstr]

theorem kld (kd : BitVec 4) (r : RSpec) : Statement (.kld kd r) := by
  intro hw
  replace hw : (r.readable) = true := hw
  have ⟨odd, lt, s1, s7, s11, s19, s25⟩ := seg37 (c := 0x67) (k0 := 51) (k1 := 0) (k2 := 0) (x0 := kd.toNat) (x1 := r.bits) (by decide) (by decide) (by decide) (by decide) kd.isLt r.bits_lt
  refine of_word odd lt ?_ rfl hw
  rw [decodeWord, major51 _ s1]
  unfold readKmem
  rw [s25]
  simp only [s7, s11, s19, rspec_bits r, Option.bind_some, BitVec.ofNat_toNat, BitVec.setWidth_eq, hw, if_true, interpInstr]

theorem kst (ka : BitVec 4) (r : RSpec) : Statement (.kst ka r) := by
  intro hw
  replace hw : (r.readable) = true := hw
  have ⟨odd, lt, s1, s7, s11, s15, s19, s25⟩ := seg38 (c := 0x2000067) (k0 := 51) (k1 := 0) (k2 := 0) (k3 := 1) (x0 := ka.toNat) (x1 := r.bits) (by decide) (by decide) (by decide) (by decide) (by decide) ka.isLt r.bits_lt
  refine of_word odd lt ?_ rfl hw
  rw [decodeWord, major51 _ s1]
  unfold readKmem
  rw [s25]
  simp only [s7, s11, s15, s19, rspec_bits r, Option.bind_some, BitVec.ofNat_toNat, BitVec.setWidth_eq, hw, if_true, and_self, interpInstr]

theorem ksave (r : RSpec) : Statement (.ksave r) := by
  intro hw
  replace hw : (r.readable) = true := hw
  have ⟨odd, lt, s1, s7, s19, s25⟩ := seg24 (c := 0x4000067) (k0 := 51) (k1 := 0) (k2 := 2) (x0 := r.bits) (by decide) (by decide) (by decide) (by decide) r.bits_lt
  refine of_word odd lt ?_ rfl hw
  rw [decodeWord, major51 _ s1]
  unfold readKmem
  rw [s25]
  simp only [s7, s19, rspec_bits r, Option.bind_some, hw, if_true, interpInstr]

theorem krestore (r : RSpec) : Statement (.krestore r) := by
  intro hw
  replace hw : (r.readable) = true := hw
  have ⟨odd, lt, s1, s7, s19, s25⟩ := seg24 (c := 0x6000067) (k0 := 51) (k1 := 0) (k2 := 3) (x0 := r.bits) (by decide) (by decide) (by decide) (by decide) r.bits_lt
  refine of_word odd lt ?_ rfl hw
  rw [decodeWord, major51 _ s1]
  unfold readKmem
  rw [s25]
  simp only [s7, s19, rspec_bits r, Option.bind_some, hw, if_true, interpInstr]

theorem pcmd (first : RSpec) (sel : RSpec) : Statement (.pcmd first sel) := by
  intro hw
  replace hw : (first.group8 && sel.readable) = true := hw
  have ⟨odd, lt, s1, s7, s13, s19⟩ := seg43 (c := 0x69) (k0 := 52) (k1 := 0) (x0 := first.bits) (x1 := sel.bits) (by decide) (by decide) (by decide) first.bits_lt sel.bits_lt
  refine of_word odd lt ?_ rfl hw
  rw [decodeWord, major52 _ s1]
  simp only [s7, s13, s19, rspec_bits first, rspec_bits sel, Option.bind_some, hw, if_true, interpInstr]

theorem pwait (d : RSpec) (a : RSpec) : Statement (.pwait d a) := by
  intro hw
  replace hw : (d.writable && a.readable) = true := hw
  have ⟨odd, lt, s1, s7, s13, s19, s25⟩ := seg2 (c := 0x6b) (k0 := 53) (k1 := 0) (k2 := 0) (x0 := d.bits) (x1 := a.bits) (by decide) (by decide) (by decide) (by decide) d.bits_lt a.bits_lt
  refine of_word odd lt ?_ rfl hw
  rw [decodeWord, major53 _ s1]
  unfold readPctl
  rw [s25]
  simp only [s7, s13, s19, rspec_bits d, rspec_bits a, Option.bind_some, hw, if_true, interpInstr]

theorem pfence : Statement .pfence := by
  intro hw
  have ⟨odd, lt, s1, s7, s25⟩ := seg13 (c := 0x200006b) (k0 := 53) (k1 := 0) (k2 := 1) (by decide) (by decide) (by decide) (by decide)
  refine of_word odd lt ?_ rfl hw
  rw [decodeWord, major53 _ s1]
  unfold readPctl
  rw [s25]
  simp only [s7, if_true, interpInstr]

theorem pstat (d : RSpec) : Statement (.pstat d) := by
  intro hw
  replace hw : (d.writable) = true := hw
  have ⟨odd, lt, s1, s7, s13, s25⟩ := seg12 (c := 0x400006b) (k0 := 53) (k1 := 0) (k2 := 2) (x0 := d.bits) (by decide) (by decide) (by decide) (by decide) d.bits_lt
  refine of_word odd lt ?_ rfl hw
  rw [decodeWord, major53 _ s1]
  unfold readPctl
  rw [s25]
  simp only [s7, s13, rspec_bits d, Option.bind_some, hw, if_true, interpInstr]

theorem copy (first : RSpec) (sel : RSpec) : Statement (.copy first sel) := by
  intro hw
  replace hw : (first.group8 && sel.inOut) = true := hw
  have ⟨odd, lt, s1, s7, s13, s19⟩ := seg43 (c := 0x6d) (k0 := 54) (k1 := 0) (x0 := first.bits) (x1 := sel.bits) (by decide) (by decide) (by decide) first.bits_lt sel.bits_lt
  refine of_word odd lt ?_ rfl hw
  rw [decodeWord, major54 _ s1]
  simp only [s7, s13, s19, rspec_bits first, rspec_bits sel, Option.bind_some, hw, if_true, interpInstr]

theorem bseal (d : RSpec) : Statement (.bseal d) := by
  intro hw
  replace hw : (d.inOut) = true := hw
  have ⟨odd, lt, s1, s7, s13, s25⟩ := seg12 (c := 0x6f) (k0 := 55) (k1 := 0) (k2 := 0) (x0 := d.bits) (by decide) (by decide) (by decide) (by decide) d.bits_lt
  refine of_word odd lt ?_ rfl hw
  rw [decodeWord, major55 _ s1]
  unfold readBatch
  rw [s25]
  simp only [s7, s13, rspec_bits d, Option.bind_some, hw, if_true, interpInstr]

theorem bdrain (d : RSpec) (a : RSpec) : Statement (.bdrain d a) := by
  intro hw
  replace hw : (d.inOut && a.readable) = true := hw
  have ⟨odd, lt, s1, s7, s13, s19, s25⟩ := seg2 (c := 0x200006f) (k0 := 55) (k1 := 0) (k2 := 1) (x0 := d.bits) (x1 := a.bits) (by decide) (by decide) (by decide) (by decide) d.bits_lt a.bits_lt
  refine of_word odd lt ?_ rfl hw
  rw [decodeWord, major55 _ s1]
  unfold readBatch
  rw [s25]
  simp only [s7, s13, s19, rspec_bits d, rspec_bits a, Option.bind_some, hw, if_true, interpInstr]

theorem cwptr (d : RSpec) (a : RSpec) : Statement (.cwptr d a) := by
  intro hw
  replace hw : (d.inOut && a.readable) = true := hw
  have ⟨odd, lt, s1, s7, s13, s19, s25⟩ := seg2 (c := 0x400006f) (k0 := 55) (k1 := 0) (k2 := 2) (x0 := d.bits) (x1 := a.bits) (by decide) (by decide) (by decide) (by decide) d.bits_lt a.bits_lt
  refine of_word odd lt ?_ rfl hw
  rw [decodeWord, major55 _ s1]
  unfold readBatch
  rw [s25]
  simp only [s7, s13, s19, rspec_bits d, rspec_bits a, Option.bind_some, hw, if_true, interpInstr]

theorem ctake (d : RSpec) (a : RSpec) (l : BitVec 4) : Statement (.ctake d a l) := by
  intro hw
  replace hw : (d.inOut && a.readable) = true := hw
  have ⟨odd, lt, s1, s7, s13, s19, s23, s25⟩ := seg44 (c := 0x71) (k0 := 56) (k1 := 0) (k2 := 0) (x0 := d.bits) (x1 := a.bits) (x2 := l.toNat) (by decide) (by decide) (by decide) (by decide) d.bits_lt a.bits_lt l.isLt
  refine of_word odd lt ?_ rfl hw
  rw [decodeWord, major56 _ s1]
  unfold readCnt
  rw [s23]
  simp only [s7, s13, s19, s25, rspec_bits d, rspec_bits a, Option.bind_some, BitVec.ofNat_toNat, BitVec.setWidth_eq, hw, if_true, interpInstr]

theorem cgive (d : RSpec) (a : RSpec) (l : BitVec 4) : Statement (.cgive d a l) := by
  intro hw
  replace hw : (d.inOut && a.readable) = true := hw
  have ⟨odd, lt, s1, s7, s13, s19, s23, s25⟩ := seg44 (c := 0x800071) (k0 := 56) (k1 := 1) (k2 := 0) (x0 := d.bits) (x1 := a.bits) (x2 := l.toNat) (by decide) (by decide) (by decide) (by decide) d.bits_lt a.bits_lt l.isLt
  refine of_word odd lt ?_ rfl hw
  rw [decodeWord, major56 _ s1]
  unfold readCnt
  rw [s23]
  simp only [s7, s13, s19, s25, rspec_bits d, rspec_bits a, Option.bind_some, BitVec.ofNat_toNat, BitVec.setWidth_eq, hw, if_true, interpInstr]

theorem csum (d : RSpec) (a : RSpec) (l : BitVec 4) : Statement (.csum d a l) := by
  intro hw
  replace hw : (d.inOut && a.readable) = true := hw
  have ⟨odd, lt, s1, s7, s13, s19, s23, s25⟩ := seg44 (c := 0x1000071) (k0 := 56) (k1 := 2) (k2 := 0) (x0 := d.bits) (x1 := a.bits) (x2 := l.toNat) (by decide) (by decide) (by decide) (by decide) d.bits_lt a.bits_lt l.isLt
  refine of_word odd lt ?_ rfl hw
  rw [decodeWord, major56 _ s1]
  unfold readCnt
  rw [s23]
  simp only [s7, s13, s19, s25, rspec_bits d, rspec_bits a, Option.bind_some, BitVec.ofNat_toNat, BitVec.setWidth_eq, hw, if_true, interpInstr]

theorem creset (d : RSpec) (a : RSpec) (l : BitVec 4) : Statement (.creset d a l) := by
  intro hw
  replace hw : (d.inOut && a.readable) = true := hw
  have ⟨odd, lt, s1, s7, s13, s19, s23, s25⟩ := seg44 (c := 0x1800071) (k0 := 56) (k1 := 3) (k2 := 0) (x0 := d.bits) (x1 := a.bits) (x2 := l.toNat) (by decide) (by decide) (by decide) (by decide) d.bits_lt a.bits_lt l.isLt
  refine of_word odd lt ?_ rfl hw
  rw [decodeWord, major56 _ s1]
  unfold readCnt
  rw [s23]
  simp only [s7, s13, s19, s25, rspec_bits d, rspec_bits a, Option.bind_some, BitVec.ofNat_toNat, BitVec.setWidth_eq, hw, if_true, interpInstr]

theorem barv (d : RSpec) (a : RSpec) : Statement (.barv d a) := by
  intro hw
  replace hw : (d.inOut && a.readable) = true := hw
  have ⟨odd, lt, s1, s7, s13, s19, s25⟩ := seg2 (c := 0x73) (k0 := 57) (k1 := 0) (k2 := 0) (x0 := d.bits) (x1 := a.bits) (by decide) (by decide) (by decide) (by decide) d.bits_lt a.bits_lt
  refine of_word odd lt ?_ rfl hw
  rw [decodeWord, major57 _ s1]
  unfold readBar
  rw [s25]
  simp only [s7, s13, s19, rspec_bits d, rspec_bits a, Option.bind_some, hw, if_true, interpInstr]

theorem barw (a : RSpec) (b : RSpec) : Statement (.barw a b) := by
  intro hw
  replace hw : (a.readable && b.readable) = true := hw
  have ⟨odd, lt, s1, s7, s13, s19, s25⟩ := seg19 (c := 0x2000073) (k0 := 57) (k1 := 0) (k2 := 1) (x0 := a.bits) (x1 := b.bits) (by decide) (by decide) (by decide) (by decide) a.bits_lt b.bits_lt
  refine of_word odd lt ?_ rfl hw
  rw [decodeWord, major57 _ s1]
  unfold readBar
  rw [s25]
  simp only [s7, s13, s19, rspec_bits a, rspec_bits b, Option.bind_some, hw, if_true, interpInstr]

theorem barg (d : RSpec) (a : RSpec) : Statement (.barg d a) := by
  intro hw
  replace hw : (d.inOut && a.readable) = true := hw
  have ⟨odd, lt, s1, s7, s13, s19, s25⟩ := seg2 (c := 0x4000073) (k0 := 57) (k1 := 0) (k2 := 2) (x0 := d.bits) (x1 := a.bits) (by decide) (by decide) (by decide) (by decide) d.bits_lt a.bits_lt
  refine of_word odd lt ?_ rfl hw
  rw [decodeWord, major57 _ s1]
  unfold readBar
  rw [s25]
  simp only [s7, s13, s19, rspec_bits d, rspec_bits a, Option.bind_some, hw, if_true, interpInstr]

theorem barp (d : RSpec) (a : RSpec) : Statement (.barp d a) := by
  intro hw
  replace hw : (d.inOut && a.readable) = true := hw
  have ⟨odd, lt, s1, s7, s13, s19, s25⟩ := seg2 (c := 0x6000073) (k0 := 57) (k1 := 0) (k2 := 3) (x0 := d.bits) (x1 := a.bits) (by decide) (by decide) (by decide) (by decide) d.bits_lt a.bits_lt
  refine of_word odd lt ?_ rfl hw
  rw [decodeWord, major57 _ s1]
  unfold readBar
  rw [s25]
  simp only [s7, s13, s19, rspec_bits d, rspec_bits a, Option.bind_some, hw, if_true, interpInstr]

theorem msend (d : RSpec) (a : RSpec) (b : RSpec) : Statement (.msend d a b) := by
  intro hw
  replace hw : (d.isW && a.readable && b.readable) = true := hw
  have ⟨odd, lt, s1, s7, s13, s19, s25⟩ := seg0 (c := 0x75) (k0 := 58) (k1 := 0) (x0 := d.bits) (x1 := a.bits) (x2 := b.bits) (by decide) (by decide) (by decide) d.bits_lt a.bits_lt b.bits_lt
  refine of_word odd lt ?_ rfl hw
  rw [decodeWord, major58 _ s1]
  unfold readMsg
  rw [s25]
  simp only [s7, s13, s19, rspec_bits d, rspec_bits a, rspec_bits b, Option.bind_some, hw, if_true, interpInstr]

theorem mpoll (d : RSpec) : Statement (.mpoll d) := by
  intro hw
  replace hw : (d.writable) = true := hw
  have ⟨odd, lt, s1, s7, s13, s25⟩ := seg12 (c := 0x2000075) (k0 := 58) (k1 := 0) (k2 := 1) (x0 := d.bits) (by decide) (by decide) (by decide) (by decide) d.bits_lt
  refine of_word odd lt ?_ rfl hw
  rw [decodeWord, major58 _ s1]
  unfold readMsg
  rw [s25]
  simp only [s7, s13, rspec_bits d, Option.bind_some, hw, if_true, interpInstr]

theorem winrd (d : RSpec) (ch : BitVec 6) : Statement (.winrd d ch) := by
  intro hw
  replace hw : (d.writable && decide (ch.toNat < 4)) = true := hw
  have ⟨odd, lt, s1, s7, s13, s19, s25⟩ := seg45 (c := 0x4000075) (k0 := 58) (k1 := 0) (k2 := 2) (x0 := d.bits) (x1 := ch.toNat) (by decide) (by decide) (by decide) (by decide) d.bits_lt ch.isLt
  refine of_word odd lt ?_ rfl hw
  rw [decodeWord, major58 _ s1]
  unfold readMsg
  rw [s25]
  simp only [s7, s13, s19, rspec_bits d, Option.bind_some, BitVec.ofNat_toNat, BitVec.setWidth_eq, hw, if_true, interpInstr]

theorem srd (d : RSpec) (num : BitVec 12) : Statement (.srd d num) := by
  intro hw
  replace hw : (d.writable && srdNumber num) = true := hw
  have ⟨odd, lt, s1, s7, s13, s25⟩ := seg46 (c := 0x79) (k0 := 60) (k1 := 0) (x0 := d.bits) (x1 := num.toNat) (by decide) (by decide) (by decide) d.bits_lt num.isLt
  refine of_word odd lt ?_ rfl hw
  rw [decodeWord, major60 _ s1]
  unfold readSys
  rw [s25]
  simp only [s7, s13, rspec_bits d, Option.bind_some, BitVec.ofNat_toNat, BitVec.setWidth_eq, hw, if_true, interpInstr]

theorem swr (d : RSpec) (num : BitVec 12) : Statement (.swr d num) := by
  intro hw
  replace hw : (d.readable && swrNumber num) = true := hw
  have ⟨odd, lt, s1, s7, s13, s25⟩ := seg46 (c := 0x2000079) (k0 := 60) (k1 := 1) (x0 := d.bits) (x1 := num.toNat) (by decide) (by decide) (by decide) d.bits_lt num.isLt
  refine of_word odd lt ?_ rfl hw
  rw [decodeWord, major60 _ s1]
  unfold readSys
  rw [s25]
  simp only [s7, s13, rspec_bits d, Option.bind_some, BitVec.ofNat_toNat, BitVec.setWidth_eq, hw, if_true, interpInstr]

theorem crd (d : RSpec) (a : RSpec) : Statement (.crd d a) := by
  intro hw
  replace hw : (d.writable && a.readable) = true := hw
  have ⟨odd, lt, s1, s7, s13, s19, s25⟩ := seg2 (c := 0x4000079) (k0 := 60) (k1 := 0) (k2 := 2) (x0 := d.bits) (x1 := a.bits) (by decide) (by decide) (by decide) (by decide) d.bits_lt a.bits_lt
  refine of_word odd lt ?_ rfl hw
  rw [decodeWord, major60 _ s1]
  unfold readSys
  rw [s25]
  simp only [s7, s13, s19, rspec_bits d, rspec_bits a, Option.bind_some, hw, if_true, interpInstr]

theorem dacc (d : RSpec) (a : RSpec) : Statement (.dacc d a) := by
  intro hw
  replace hw : (d.writable && a.readable) = true := hw
  have ⟨odd, lt, s1, s7, s13, s19, s25⟩ := seg2 (c := 0x6000079) (k0 := 60) (k1 := 0) (k2 := 3) (x0 := d.bits) (x1 := a.bits) (by decide) (by decide) (by decide) (by decide) d.bits_lt a.bits_lt
  refine of_word odd lt ?_ rfl hw
  rw [decodeWord, major60 _ s1]
  unfold readSys
  rw [s25]
  simp only [s7, s13, s19, rspec_bits d, rspec_bits a, Option.bind_some, hw, if_true, interpInstr]

theorem trcm (a : RSpec) : Statement (.trcm a) := by
  intro hw
  replace hw : (a.readable) = true := hw
  have ⟨odd, lt, s1, s7, s13, s19, s25⟩ := seg11 (c := 0x8000079) (k0 := 60) (k1 := 0) (k2 := 0) (k3 := 4) (x0 := a.bits) (by decide) (by decide) (by decide) (by decide) (by decide) a.bits_lt
  refine of_word odd lt ?_ rfl hw
  rw [decodeWord, major60 _ s1]
  unfold readSys
  rw [s25]
  simp only [s7, s13, s19, rspec_bits a, Option.bind_some, hw, if_true, and_self, interpInstr]

theorem tlbinv (a : RSpec) (b : RSpec) : Statement (.tlbinv a b) := by
  intro hw
  replace hw : (a.readable && b.readable) = true := hw
  have ⟨odd, lt, s1, s7, s13, s19, s25⟩ := seg19 (c := 0xa000079) (k0 := 60) (k1 := 0) (k2 := 5) (x0 := a.bits) (x1 := b.bits) (by decide) (by decide) (by decide) (by decide) a.bits_lt b.bits_lt
  refine of_word odd lt ?_ rfl hw
  rw [decodeWord, major60 _ s1]
  unfold readSys
  rw [s25]
  simp only [s7, s13, s19, rspec_bits a, rspec_bits b, Option.bind_some, hw, if_true, interpInstr]

theorem errinj (a : RSpec) (b : RSpec) : Statement (.errinj a b) := by
  intro hw
  replace hw : (a.readable && b.readable) = true := hw
  have ⟨odd, lt, s1, s7, s13, s19, s25⟩ := seg19 (c := 0xc000079) (k0 := 60) (k1 := 0) (k2 := 6) (x0 := a.bits) (x1 := b.bits) (by decide) (by decide) (by decide) (by decide) a.bits_lt b.bits_lt
  refine of_word odd lt ?_ rfl hw
  rw [decodeWord, major60 _ s1]
  unfold readSys
  rw [s25]
  simp only [s7, s13, s19, rspec_bits a, rspec_bits b, Option.bind_some, hw, if_true, interpInstr]

theorem retry : Statement .retry := fun _ h => absurd rfl h

theorem skip : Statement .skip := fun _ h => absurd rfl h

theorem flush : Statement .flush := fun _ h => absurd rfl h

theorem ovClear : Statement .ovClear := fun _ h => absurd rfl h

theorem loadw (fmt : BitVec 4) (tag : BitVec 4) (tagh : BitVec 4) (tv : Bool) (addr : BitVec 17) (stride : BitVec 16) : Statement (.loadw fmt tag tagh tv addr stride) := fun _ h => absurd rfl h

theorem flip : Statement .flip := fun _ h => absurd rfl h

theorem stream (fmt : BitVec 4) (tag : BitVec 4) (tv : Bool) (acc : Bool) (row0 : BitVec 6) (m : BitVec 7) (addr : BitVec 17) (stride : BitVec 16) : Statement (.stream fmt tag tv acc row0 m addr stride) := fun _ h => absurd rfl h

theorem streamt (fmt : BitVec 4) (tag : BitVec 4) (tv : Bool) (acc : Bool) (row0 : BitVec 6) (m : BitVec 7) (addr : BitVec 17) (stride : BitVec 16) : Statement (.streamt fmt tag tv acc row0 m addr stride) := fun _ h => absurd rfl h

theorem tload (fmt : BitVec 4) (row0 : BitVec 6) (m : BitVec 7) (addr : BitVec 17) (stride : BitVec 16) : Statement (.tload fmt row0 m addr stride) := fun _ h => absurd rfl h

theorem tloadt (fmt : BitVec 4) (row0 : BitVec 6) (m : BitVec 7) (addr : BitVec 17) (stride : BitVec 16) : Statement (.tloadt fmt row0 m addr stride) := fun _ h => absurd rfl h

theorem tdrain (fmt : BitVec 4) (clr : Bool) (row0 : BitVec 6) (m : BitVec 7) (addr : BitVec 17) (stride : BitVec 16) (addr2 : BitVec 17) : Statement (.tdrain fmt clr row0 m addr stride addr2) := fun _ h => absurd rfl h

theorem tzero (row0 : BitVec 6) (m : BitVec 7) : Statement (.tzero row0 m) := fun _ h => absurd rfl h

theorem pmode (narrow : Bool) (integer : Bool) : Statement (.pmode narrow integer) := fun _ h => absurd rfl h

theorem ptable (addr : BitVec 17) (addr2 : BitVec 17) : Statement (.ptable addr addr2) := fun _ h => absurd rfl h

theorem pmark (inc : BitVec 16) : Statement (.pmark inc) := fun _ h => absurd rfl h

theorem psave (addr : BitVec 17) : Statement (.psave addr) := fun _ h => absurd rfl h

theorem prestore (addr : BitVec 17) : Statement (.prestore addr) := fun _ h => absurd rfl h

theorem pressFault : Statement .pressFault := fun _ h => absurd rfl h

theorem pressRetire (slot : BitVec 4) : Statement (.pressRetire slot) := fun _ h => absurd rfl h

theorem rampWindow (cluster : Nat) : Statement (.rampWindow cluster) := fun _ h => absurd rfl h

theorem powerReport (watts : Nat × Nat) : Statement (.powerReport watts) := fun _ h => absurd rfl h

theorem messageArrival (src : Nat) (k : Nat) : Statement (.messageArrival src k) := fun _ h => absurd rfl h

theorem activationStart : Statement .activationStart := fun _ h => absurd rfl h

theorem activationResume : Statement .activationResume := fun _ h => absurd rfl h

theorem actorFiring (actor : Nat) : Statement (.actorFiring actor) := fun _ h => absurd rfl h

theorem tokenWrite (k : Nat) : Statement (.tokenWrite k) := fun _ h => absurd rfl h

theorem replyWrite (k : Nat) : Statement (.replyWrite k) := fun _ h => absurd rfl h

theorem channelDwordArrival (k : Nat) : Statement (.channelDwordArrival k) := fun _ h => absurd rfl h

theorem channelCredit (k : Nat) : Statement (.channelCredit k) := fun _ h => absurd rfl h

theorem loadResponse (uid : Nat) (delay : Nat) : Statement (.loadResponse uid delay) := fun _ h => absurd rfl h

theorem storeAck (core : Nat) (k : Nat) : Statement (.storeAck core k) := fun _ h => absurd rfl h

theorem phasedStoreInstall (core : Nat) (k : Nat) : Statement (.phasedStoreInstall core k) := fun _ h => absurd rfl h

theorem sliceRead (uid : Nat) : Statement (.sliceRead uid) := fun _ h => absurd rfl h

theorem forcing (k : Nat) : Statement (.forcing k) := fun _ h => absurd rfl h

theorem atomicExecute (uid : Nat) : Statement (.atomicExecute uid) := fun _ h => absurd rfl h

theorem balancerArrival (k : Nat) : Statement (.balancerArrival k) := fun _ h => absurd rfl h

theorem exitCounterAct (k : Nat) : Statement (.exitCounterAct k) := fun _ h => absurd rfl h

theorem csumArrival (uid : Nat) : Statement (.csumArrival uid) := fun _ h => absurd rfl h

theorem cresetClosure (uid : Nat) : Statement (.cresetClosure uid) := fun _ h => absurd rfl h

theorem cresetReopen (ctx : Nat) (handle : Nat) : Statement (.cresetReopen ctx handle) := fun _ h => absurd rfl h

theorem cellError (ctx : Nat) (net : NetId) : Statement (.cellError ctx net) := fun _ h => absurd rfl h

theorem barrierExit (k : Nat) : Statement (.barrierExit k) := fun _ h => absurd rfl h

theorem barrierComplete (ctx : Nat) (bar : BarId) : Statement (.barrierComplete ctx bar) := fun _ h => absurd rfl h

theorem copyRowWrite (cluster : Nat) (ch : Nat) : Statement (.copyRowWrite cluster ch) := fun _ h => absurd rfl h

theorem copyRowArrival (k : Nat) : Statement (.copyRowArrival k) := fun _ h => absurd rfl h

theorem copyEnd (cluster : Nat) (ch : Nat) : Statement (.copyEnd cluster ch) := fun _ h => absurd rfl h

theorem packetConsume (ctx : Nat) (q : Nat) : Statement (.packetConsume ctx q) := fun _ h => absurd rfl h

theorem nopPacket (ctx : Nat) (q : Nat) : Statement (.nopPacket ctx q) := fun _ h => absurd rfl h

theorem launch (ctx : Nat) (q : Nat) : Statement (.launch ctx q) := fun _ h => absurd rfl h

theorem copyPacket (ctx : Nat) (q : Nat) : Statement (.copyPacket ctx q) := fun _ h => absurd rfl h

theorem signalStore (ctx : Nat) (q : Nat) : Statement (.signalStore ctx q) := fun _ h => absurd rfl h

theorem signalAdd (ctx : Nat) (q : Nat) : Statement (.signalAdd ctx q) := fun _ h => absurd rfl h

theorem signalStoreFull (ctx : Nat) (q : Nat) : Statement (.signalStoreFull ctx q) := fun _ h => absurd rfl h

theorem wait (ctx : Nat) (q : Nat) : Statement (.wait ctx q) := fun _ h => absurd rfl h

theorem waitRetest (ctx : Nat) (q : Nat) : Statement (.waitRetest ctx q) := fun _ h => absurd rfl h

theorem kernelEligibilityTest (ctx : Nat) (kid : Nat) : Statement (.kernelEligibilityTest ctx kid) := fun _ h => absurd rfl h

theorem ageTick (ctx : Nat) (kid : Nat) : Statement (.ageTick ctx kid) := fun _ h => absurd rfl h

theorem cohortPlace (part : Nat) : Statement (.cohortPlace part) := fun _ h => absurd rfl h

theorem cohortStart (ctx : Nat) (kid : Nat) (cohort : Nat) : Statement (.cohortStart ctx kid cohort) := fun _ h => absurd rfl h

theorem cohortEnd (ctx : Nat) (kid : Nat) (cohort : Nat) : Statement (.cohortEnd ctx kid cohort) := fun _ h => absurd rfl h

theorem kernelComplete (ctx : Nat) (kid : Nat) : Statement (.kernelComplete ctx kid) := fun _ h => absurd rfl h

theorem trapDelivery (cause : BitVec 8) (tval : BitVec 64) : Statement (.trapDelivery cause tval) := fun _ h => absurd rfl h

theorem redelivery : Statement .redelivery := fun _ h => absurd rfl h

theorem coreErr (site : ErrSite) : Statement (.coreErr site) := fun _ h => absurd rfl h

theorem tailcntWrite (queue : FqId) : Statement (.tailcntWrite queue) := fun _ h => absurd rfl h

theorem corePreemptStop (core : Nat) : Statement (.corePreemptStop core) := fun _ h => absurd rfl h

theorem corePreemptAck (core : Nat) : Statement (.corePreemptAck core) := fun _ h => absurd rfl h

theorem copyOut (part : Nat) : Statement (.copyOut part) := fun _ h => absurd rfl h

theorem checkRunStart (k : Nat) : Statement (.checkRunStart k) := fun _ h => absurd rfl h

theorem checkTimeout (k : Nat) : Statement (.checkTimeout k) := fun _ h => absurd rfl h

theorem checkVerdict (k : Nat) : Statement (.checkVerdict k) := fun _ h => absurd rfl h

theorem tiebreakStart (k : Nat) : Statement (.tiebreakStart k) := fun _ h => absurd rfl h

theorem patrolRead (part : Nat) (pa : Nat) : Statement (.patrolRead part pa) := fun _ h => absurd rfl h

theorem pageWalk (part : Nat) (va : Nat) : Statement (.pageWalk part va) := fun _ h => absurd rfl h

theorem takeWindowRead (part : Nat) (requester : Nat) (offset : Nat) (size : Nat) : Statement (.takeWindowRead part requester offset size) := fun _ h => absurd rfl h

theorem takeWindowWrite (part : Nat) (requester : Nat) (offset : Nat) : Statement (.takeWindowWrite part requester offset) := fun _ h => absurd rfl h

theorem takeReadTimeout (uid : Nat) : Statement (.takeReadTimeout uid) := fun _ h => absurd rfl h

theorem hostActiveMessage (part : Nat) (requester : Nat) (bytes : List (BitVec 8)) : Statement (.hostActiveMessage part requester bytes) := fun _ h => absurd rfl h

theorem hostPostedWrite (part : Nat) (requester : Nat) (pa : Nat) (bytes : List (BitVec 8)) : Statement (.hostPostedWrite part requester pa bytes) := fun _ h => absurd rfl h

theorem unsupportedRequest (part : Nat) (offset : Nat) : Statement (.unsupportedRequest part offset) := fun _ h => absurd rfl h

theorem counterLowRead (part : Nat) (counter : Nat) : Statement (.counterLowRead part counter) := fun _ h => absurd rfl h

theorem peerAccess (part : Nat) (op : PeerOp) : Statement (.peerAccess part op) := fun _ h => absurd rfl h

theorem flitReplay (port : Nat) (exhausted : Bool) : Statement (.flitReplay port exhausted) := fun _ h => absurd rfl h

theorem laneTrained (port : PortId) (lanes : Nat) : Statement (.laneTrained port lanes) := fun _ h => absurd rfl h

theorem trainingTimeout (port : PortId) : Statement (.trainingTimeout port) := fun _ h => absurd rfl h

theorem laneFailure (port : PortId) : Statement (.laneFailure port) := fun _ h => absurd rfl h

theorem ethernetFrame (port : Nat) (ok : Bool) (bytes : Nat) : Statement (.ethernetFrame port ok bytes) := fun _ h => absurd rfl h

theorem routerDrop (part : Nat) (dest : Nat) : Statement (.routerDrop part dest) := fun _ h => absurd rfl h

theorem create (part : Nat) : Statement (.create part) := fun _ h => absurd rfl h

theorem destroy (part : Nat) (ctx : Nat) : Statement (.destroy part ctx) := fun _ h => absurd rfl h

theorem preempt (part : Nat) (ctx : Nat) : Statement (.preempt part ctx) := fun _ h => absurd rfl h

theorem restore (part : Nat) (ctx : Nat) : Statement (.restore part ctx) := fun _ h => absurd rfl h

theorem qcreate (part : Nat) (ctx : Nat) : Statement (.qcreate part ctx) := fun _ h => absurd rfl h

theorem qdestroy (part : Nat) (ctx : Nat) (q : Nat) : Statement (.qdestroy part ctx q) := fun _ h => absurd rfl h

theorem qreset (part : Nat) (ctx : Nat) (q : Nat) : Statement (.qreset part ctx q) := fun _ h => absurd rfl h

theorem stop (part : Nat) : Statement (.stop part) := fun _ h => absurd rfl h

theorem coreStopped (core : Nat) : Statement (.coreStopped core) := fun _ h => absurd rfl h

theorem resume (part : Nat) : Statement (.resume part) := fun _ h => absurd rfl h

theorem corerwRead (part : Nat) : Statement (.corerwRead part) := fun _ h => absurd rfl h

theorem corerwWrite (part : Nat) : Statement (.corerwWrite part) := fun _ h => absurd rfl h

theorem setparam (part : Nat) (ctx : Nat) (param : Nat) (firmware : Bool) : Statement (.setparam part ctx param firmware) := fun _ h => absurd rfl h

theorem watch (part : Nat) : Statement (.watch part) := fun _ h => absurd rfl h

theorem qrelease (part : Nat) : Statement (.qrelease part) := fun _ h => absurd rfl h

theorem route (part : Nat) : Statement (.route part) := fun _ h => absurd rfl h

theorem dmawin (part : Nat) : Statement (.dmawin part) := fun _ h => absurd rfl h

theorem allot : Statement .allot := fun _ h => absurd rfl h

theorem rect : Statement .rect := fun _ h => absurd rfl h

theorem portctlDisable (port : PortId) : Statement (.portctlDisable port) := fun _ h => absurd rfl h

theorem portctlEnable (port : PortId) : Statement (.portctlEnable port) := fun _ h => absurd rfl h

theorem portctlQuarantine (port : PortId) : Statement (.portctlQuarantine port) := fun _ h => absurd rfl h

theorem portctlRelease (port : PortId) : Statement (.portctlRelease port) := fun _ h => absurd rfl h

theorem mgmtRegisterWrite (win : Window) (offset : Nat) (value : BitVec 64) : Statement (.mgmtRegisterWrite win offset value) := fun _ h => absurd rfl h

theorem deviceReset : Statement .deviceReset := fun _ h => absurd rfl h

theorem bootStage (image : Image) : Statement (.bootStage image) := fun _ h => absurd rfl h

theorem measurementExtend (mr : BitVec 3) (digest : BitVec 256) : Statement (.measurementExtend mr digest) := fun _ h => absurd rfl h

theorem recoveryImage (image : Image) : Statement (.recoveryImage image) := fun _ h => absurd rfl h

theorem attestationRequest (fn : Nat) (part : Nat) (nonce : BitVec 256) (bind : Bool) : Statement (.attestationRequest fn part nonce bind) := fun _ h => absurd rfl h

theorem keyDelivery (part : Nat) (key : KeySlot × List (BitVec 8)) (more : List (KeySlot × List (BitVec 8))) :
    Statement (.keyDelivery part key more) := fun _ h => absurd rfl h

theorem thermalTrip (die : BitVec 2) : Statement (.thermalTrip die) := fun _ h => absurd rfl h

theorem directWriteArrival (core : Nat) (k : Nat) : Statement (.directWriteArrival core k) := fun _ h => absurd rfl h

theorem fillerOperationEnd (core : Nat) : Statement (.fillerOperationEnd core) := fun _ h => absurd rfl h

theorem qslotSectionLoad (part : Nat) (pa : Nat) (bytes : List (BitVec 8)) : Statement (.qslotSectionLoad part pa bytes) := fun _ h => absurd rfl h

theorem cmdWriteRejected (win : Window) (cmd : Nat) : Statement (.cmdWriteRejected win cmd) := fun _ h => absurd rfl h

end Sys2Proof.Laws.RoundTrip
end

