-- ==== Sys2Proof/Laws/Run.lean ====
section
/-! SUPPORT. How meanings run: the effects of the monad one by one, what a core that can issue does with each shared
operation, and how an instruction that ran to its end leaves the machine. -/

namespace Sys2Proof.Machine

/-! ## The monad -/

theorem bind_run {α β : Type} (x : M α) (f : α → M β) (s : State) :
    (x >>= f) s = match x s with | .ok a t => f a t | .error e t => .error e t := by
  simp only [bind, EStateM.bind]
  cases x s <;> rfl

theorem bind_ok {α β : Type} {x : M α} {f : α → M β} {s t : State} {a : α} (h : x s = .ok a t) :
    (x >>= f) s = f a t := by rw [bind_run, h]

theorem bind_error {α β : Type} {x : M α} {f : α → M β} {s t : State} {e : Stop} (h : x s = .error e t) :
    (x >>= f) s = .error e t := by rw [bind_run, h]

@[simp] theorem pure_run {α : Type} (a : α) (s : State) : (pure a : M α) s = .ok a s := rfl
@[simp] theorem get_run (s : State) : (get : M State) s = .ok s s := rfl
@[simp] theorem set_run (t s : State) : (set t : M PUnit) s = .ok ⟨⟩ t := rfl
@[simp] theorem modify_run (f : State → State) (s : State) : (modify f : M PUnit) s = .ok ⟨⟩ (f s) := rfl
@[simp] theorem throw_run {α : Type} (e : Stop) (s : State) : (throw e : M α) s = .error e s := rfl
@[simp] theorem getC_run (s : State) : getC s = .ok s.core s := rfl
@[simp] theorem modC_run (f : Core → Core) (s : State) : modC f s = .ok () { s with core := f s.core } := rfl
@[simp] theorem modT_run (f : Thread → Thread) (s : State) :
    modT f s = .ok () { s with core := { s.core with cur := f s.core.cur } } := rfl
@[simp] theorem modA_run (f : Act → Act) (s : State) :
    modA f s = .ok () { s with core := { s.core with cur := { s.core.cur with act := f s.core.cur.act } } } := rfl
@[simp] theorem stateOf_run {α : Type} (f : State → α × State) (s : State) : stateOf f s = .ok (f s).1 (f s).2 := rfl
@[simp] theorem waitUntil_true (s : State) : waitUntil true s = .ok () s := rfl
@[simp] theorem faultIf_false (c v : Nat) (s : State) : faultIf false c v s = .ok () s := rfl

theorem map_run {α β : Type} (f : α → β) (x : M α) (s : State) :
    (f <$> x) s = match x s with | .ok a t => .ok (f a) t | .error e t => .error e t := by
  simp only [Functor.map, EStateM.map]
  cases x s <;> rfl

theorem waitUntil_run (b : Bool) (s : State) : waitUntil b s = if b then .ok () s else .error .wait s := by
  cases b <;> rfl

theorem consuming_ok {α : Type} {x : M α} {s t : State} {a : α} (h : x s = .ok a t) : consuming x s = .ok a t := by
  simp only [consuming, h]

theorem takeUid_run (s : State) : stateOf State.takeUid s = .ok s.uid { s with uid := s.uid + 1 } := rfl

/-! ## How an instruction ends -/

/-- An instruction that issues and runs to its end. -/
theorem run_ok {f : Form} {b : M Flow} {s s1 t : State} {fl : Flow} (h : issue f s = .ok () s1)
    (hb : b s1 = .ok fl t) : run f b s = .next (t.complete f fl) := by
  have : (do issue f; b : M Flow) s = .ok fl t := by rw [← hb]; exact bind_ok h
  simp only [run, this]

/-- A stop that waits for no commit stands as it is. -/
theorem faultBefore_self {α : Type} {b : M α} {s t : State} {e : Stop} (n : ∀ act, e ≠ .commit act) :
    faultBefore b s e t = (e, t) := by
  cases e with
  | commit a => exact absurd rfl (n a)
  | _ => rfl

/-- An instruction that stops, once issued or at issue, and waits for no commit. -/
theorem run_error {f : Form} {b : M Flow} {s t : State} {e : Stop} (h : (do issue f; b : M Flow) s = .error e t)
    (n : ∀ act, e ≠ .commit act) : run f b s = .next (s.stop t f e) := by
  simp only [run, h, faultBefore_self n]

theorem lowestFrom_none {n : Nat} : ∀ {l : List Nat}, (∀ r ∈ l, r < n) → lowestFrom n l = none
  | [], _ => rfl
  | x :: xs, h => by
    have h1 := h x (by simp)
    rw [lowestFrom, lowestFrom_none (fun r hr => h r (List.mem_cons_of_mem _ hr))]
    exact if_neg (by omega)

namespace State

/-! ## A core that can issue -/

theorem ReadyAt.regRange {n : Nat} {s : State} (h : s.ReadyAt n) {rs : List Nat} (rg : ∀ r ∈ rs, r < n) :
    Machine.regRange rs s = .ok () s := by
  simp only [Machine.regRange, bind_run, getC_run, h.limit, lowestFrom_none rg, pure_run]

theorem ReadyAt.issue {n : Nat} {s : State} (h : s.ReadyAt n) {f : Form} (ok : f.ok = true) (pr : f.priv = false ∨ s.core.priv = true)
    (rg : ∀ r ∈ f.regs, r < n) : Machine.issue f s = .ok () s := by
  have hp : (f.priv && !s.core.priv) = false := by rcases pr with pr | pr <;> simp [pr]
  simp [Machine.issue, bind_run, h.active, h.slots, ok, hp, h.regRange rg, h.rep]

theorem ReadyAt.owes {n : Nat} {s : State} (h : s.ReadyAt n) (p : Dest → Bool) : s.core.owes p = false := by
  have f := h.frame
  cases e : s.core.frame with
  | none => simp [Core.owes, Thread.owes, Thread.repOwes, h.slots, h.rep, e]
  | some fr => simp [Core.owes, Thread.owes, Thread.repOwes, h.slots, h.rep, e, f fr e]

theorem ReadyAt.cancelPending {n : Nat} {s : State} (h : s.ReadyAt n) (p : Dest → Bool) : s.core.cancelPending p = s.core := by
  have h1 := h.slots; have h2 := h.frame
  generalize s.core = c at *
  have e : ({ c.cur with slots := [] } : Thread) = c.cur := by rw [← h1]
  have g : c.frame.map (fun fr => { fr with th := { fr.th with
      slots := fr.th.slots.map (fun sl => if sl.rem = 0 then sl.cancelIf p else sl) } }) = c.frame := by
    cases k : c.frame with
    | none => rfl
    | some fr => have := h2 fr k; obtain ⟨hi, buf, th⟩ := fr; obtain ⟨⟩ := th; simp_all
  simp only [Core.cancelPending, Core.emptyTags, h1, g, List.map_nil, List.flatMap_nil, List.foldl_nil, e]

theorem ReadyAt.needs {n : Nat} {s : State} (h : s.ReadyAt n) (p : Dest → Bool) : Machine.needs p s = .ok () s := by
  simp [Machine.needs, bind_run, h.owes]

theorem ReadyAt.cancels {n : Nat} {s : State} (h : s.ReadyAt n) (p : Dest → Bool) : Machine.cancels p s = .ok () s := by
  simp [Machine.cancels, h.cancelPending]

theorem ReadyAt.isCheck {n : Nat} {s : State} (h : s.ReadyAt n) : s.core.cur.act.isCheck = false := by
  simp [Act.isCheck, h.check]

theorem ReadyAt.privateAt {n : Nat} {s : State} (h : s.ReadyAt n) (la : Nat) : s.core.privateAt la = false := by
  simp [Core.privateAt, h.isCheck]

theorem ReadyAt.readW {n : Nat} {s : State} (h : s.ReadyAt n) (i : BitVec 5) : Machine.readW i s = .ok (s.core.regVal i) s := by
  simp [Machine.readW, bind_run, map_run, h.needs, h.privateAt, meetLocal, h.armed]

theorem ReadyAt.writeW {n : Nat} {s : State} (h : s.ReadyAt n) (i : BitVec 5) (v : Val) :
    Machine.writeW i v s = .ok () { s with core := s.core.putReg i v } := by
  simp [Machine.writeW, bind_run, h.cancels]

/-- What a core that can issue shows of itself to its next instruction stays under a change of its other parts. -/
theorem ReadyAt.of {n : Nat} {s t : State} (h : s.ReadyAt n) (c : t.core.active = s.core.active) (sl : t.core.cur.slots = s.core.cur.slots)
    (r : t.core.cur.rep = s.core.cur.rep) (l : t.core.cur.loops = s.core.cur.loops) (f : t.core.frame = s.core.frame)
    (k : t.core.cur.act.check = none) (a : t.armed = s.armed) (m : t.core.kern = s.core.kern) : t.ReadyAt n :=
  ⟨c ▸ h.active, sl ▸ h.slots, r ▸ h.rep, l ▸ h.loops, fun fr e => h.frame fr (f ▸ e), k, a ▸ h.armed, by
    have := h.limit
    simp only [Core.regLimit, Core.workKern, Act.isCheck, h.check, k, Option.isSome_none, Bool.false_and] at this ⊢
    rw [m]; exact this⟩

end State

/-- A store that leaves its activation changes the store buffer and the L1 of its core only. -/
theorem Core.pushStore_eq (c : Core) (o : StoreOp) (g : Nat) : ∃ b l, c.pushStore o g = { c with storeBuf := b, l1 := l } :=
  ⟨_, _, rfl⟩

theorem Core.gather_eq (c : Core) (o : StoreOp) (n : Nat) : ∃ b l, c.gather o n = { c with storeBuf := b, l1 := l } := by
  simp only [Core.gather]
  split
  · exact Core.pushStore_eq ..
  · exact ⟨_, _, rfl⟩

theorem Core.gathers_eq (o : StoreOp) : ∀ (ls : List Nat) (c : Core), ∃ b l,
    ls.foldl (fun c x => c.gather (o.onLine (match o.tgt with | .phys k => k | .loc _ k => k) x) x) c =
      { c with storeBuf := b, l1 := l }
  | [], c => ⟨c.storeBuf, c.l1, rfl⟩
  | x :: xs, c => by
    obtain ⟨b, l, h⟩ := Core.gather_eq c (o.onLine (match o.tgt with | .phys k => k | .loc _ k => k) x) x
    obtain ⟨b2, l2, h2⟩ := Core.gathers_eq o xs (c.gather (o.onLine (match o.tgt with | .phys k => k | .loc _ k => k) x) x)
    exact ⟨b2, l2, by rw [List.foldl_cons, h2, h]⟩

theorem Core.sendStore_eq (c : Core) (o : StoreOp) : ∃ b l, c.sendStore o = { c with storeBuf := b, l1 := l } := by
  simp only [Core.sendStore]
  split
  · rename_i key e
    split
    · obtain ⟨b, l, h⟩ := Core.gathers_eq o (unitsOf 128 key o.bytes.length) c
      rw [e] at h
      exact ⟨b, l, h⟩
    · exact Core.pushStore_eq ..
  · exact Core.pushStore_eq ..

/-- A held output that leaves changes the store buffer, the L1 and the outbox of its core only. -/
theorem Core.emit_eq (c : Core) (h : Held) : ∃ b l o, (c.emit h).1 = { c with storeBuf := b, l1 := l, outbox := o } := by
  cases h with
  | store o => obtain ⟨b, l, e⟩ := Core.sendStore_eq c o; exact ⟨b, l, c.outbox, by simp only [Core.emit, e]⟩
  | token a d => simp only [Core.emit]; split <;> exact ⟨_, _, _, rfl⟩
  | _ => exact ⟨_, _, _, rfl⟩

/-- Getting ready for a held output changes the store buffer of its core only. -/
theorem Core.readyTo_eq (c : Core) (h : Held) : ∃ b, c.readyTo h = { c with storeBuf := b } := by
  have drain : ∃ b, c.tryDrain = { c with storeBuf := b } := by
    unfold Core.tryDrain
    split
    · exact ⟨_, rfl⟩
    · exact ⟨_, rfl⟩
  cases h with
  | store o =>
    simp only [Core.readyTo]
    split
    · exact drain
    · exact ⟨_, rfl⟩
  | msg m => exact ⟨_, rfl⟩
  | release y => exact drain
  | reply a d v => exact drain
  | token a d => exact drain

/-- A commit changes the store buffer, the L1, the outbox and what is on its way only, whatever leaves (R107). -/
theorem commitList_eq : ∀ (hs : List Held) (s : State), ∃ b l o p,
    (commitList hs s).2 = { s with core := { s.core with storeBuf := b, l1 := l, outbox := o }, parcels := p }
  | [], s => ⟨_, _, _, _, rfl⟩
  | h :: t, s => by
    obtain ⟨b0, e0⟩ := Core.readyTo_eq s.core h
    rw [commitList, e0]
    dsimp only
    split
    · exact ⟨_, _, _, _, rfl⟩
    · obtain ⟨b, l, o, e⟩ := Core.emit_eq { s.core with storeBuf := b0 } h
      obtain ⟨b2, l2, o2, p2, e2⟩ := commitList_eq t
        { s with core := (Core.emit { s.core with storeBuf := b0 } h).1,
                 parcels := s.parcels ++ (Core.emit { s.core with storeBuf := b0 } h).2 }
      exact ⟨b2, l2, o2, p2, by rw [e2, e]⟩

/-- A commit leaves all of the running activation but its held outputs and whether it is revocable (R107). -/
theorem State.commitSome_eq (s : State) : ∃ b l o p a, s.commitSome =
      { s with core := { s.core with storeBuf := b, l1 := l, outbox := o, cur := { s.core.cur with act := a } }, parcels := p } ∧
    ∃ hs r, a = { s.core.cur.act with held := hs, revocable := r } := by
  obtain ⟨b, l, o, p, e⟩ := commitList_eq s.core.cur.act.held s
  refine ⟨b, l, o, p, { s.core.cur.act with
    held := (commitList s.core.cur.act.held s).1
    revocable := s.core.cur.act.revocable &&
      (commitList s.core.cur.act.held s).1.length == s.core.cur.act.held.length }, ?_, _, _, rfl⟩
  simp only [State.commitSome]
  generalize commitList s.core.cur.act.held s = x at e
  obtain ⟨hs, t⟩ := x
  simp only at e
  subst e
  rfl

/-- Without a check, becoming uncheckable changes the activation only. -/
theorem State.uncheck_eq {s : State} (h : s.core.cur.act.check = none) : s.uncheck =
    { s with core := { s.core with cur := { s.core.cur with act :=
      { s.core.cur.act with checkable := false, sampled := false, check := none } } } } := by
  simp [State.uncheck, Act.isCheck, h]

namespace State

/-- An irrevocable act that can be made now goes on, on a core that can still issue (R106). -/
theorem ReadyAt.irrevocable {n : Nat} {s t : State} (h : s.ReadyAt n) (e : s.irrevocably = some t) :
    Machine.irrevocable s = .ok () t ∧ t.ReadyAt n ∧ t.core.fifoIn = s.core.fifoIn ∧ t.core.window = s.core.window ∧
      t.core.id = s.core.id := by
  simp only [irrevocably] at e
  split at e
  · rename_i k
    obtain ⟨b, l, o, p, a, c, hs, r, ha⟩ := s.commitSome_eq
    split at e
    · rename_i d
      have ck : s.commitSome.core.cur.act.check = none := by rw [c, ha]; exact h.check
      simp only [Option.some.injEq] at e
      have d' := List.isEmpty_iff.1 d
      refine ⟨?_, ?_⟩
      · subst e
        simp [Machine.irrevocable, commitHeld, bind_run, h.isCheck, k, d', Machine.uncheck]
      · rw [← e, uncheck_eq ck, c, ha]
        exact ⟨h.of rfl rfl rfl rfl rfl rfl rfl rfl, rfl, rfl, rfl⟩
    · simp at e
  · rename_i k
    simp only [Option.some.injEq] at e
    rw [← e]
    exact ⟨by simp [Machine.irrevocable, bind_run, h.isCheck, k], h, rfl, rfl, rfl⟩

end State

theorem modifyAt_congr {α : Type} {f g : α → α} {l : List α} : ∀ {n : Nat} {d : α},
    f (l.getD n d) = g (l.getD n d) → modifyAt f l n = modifyAt g l n := by
  induction l with
  | nil => intros; rfl
  | cons x l ih =>
    intro n d h
    cases n with
    | zero => simp_all [modifyAt]
    | succ n => simp only [modifyAt]; rw [ih (by simpa using h)]

namespace State

/-- A register operand that can be read reads as `src` says. -/
theorem ReadyAt.readR {n : Nat} {s t : State} (h : s.ReadyAt n) {r : RSpec} {v : Val} (e : s.src r = some (v, t)) :
    Machine.readR r s = .ok v t := by
  cases r with
  | w i => simp only [src, Option.some.injEq, Prod.mk.injEq] at e; rw [← e.1, ← e.2]; exact h.readW i
  | z => simp only [src, Option.some.injEq, Prod.mk.injEq] at e; rw [← e.1, ← e.2]; rfl
  | out d => simp [src] at e
  | inq =>
    simp only [src] at e
    simp only [Machine.readR, readInq, bind_run, getC_run]
    split at e <;> simp only [Option.some.injEq, Prod.mk.injEq] at e <;> rw [← e.1, ← e.2] <;>
      rename_i hb <;> simp [hb, bind_run]
  | inp d =>
    simp only [src] at e
    split at e
    · rename_i x rest m e1 e2
      split at e
      · rename_i c
        simp only [Option.map_eq_some_iff, Prod.mk.injEq] at e
        obtain ⟨u, k, rfl, rfl⟩ := e
        obtain ⟨i, -, fi, -, id⟩ := h.irrevocable k
        simp only [Machine.readR, chanCheck, takeChan, bind_run, getC_run, get_run, c, Bool.not_true, faultIf_false, e1,
          List.length_cons, Nat.le_add_left, decide_true, waitUntil_true, i, modC_run, modify_run, id, e2, pure_run,
          List.take_succ_cons, List.replicate_one]
        rw [modifyAt_congr (g := fun _ => rest) (d := []) (by rw [fi, e1]; rfl)]
      · simp at e
    · simp at e

/-- A register operand that can be written is written as `dst` says. -/
theorem ReadyAt.writeR {n : Nat} {s t : State} (h : s.ReadyAt n) {r : RSpec} {v : Val} (e : s.dst v r = some t) :
    Machine.writeR r v s = .ok () t := by
  cases r with
  | w i => simp only [dst, Option.some.injEq] at e; rw [← e]; exact h.writeW i v
  | z => simp only [dst, Option.some.injEq] at e; rw [← e]; rfl
  | inp d => simp [dst] at e
  | inq => simp [dst] at e
  | out d =>
    simp only [dst] at e
    split at e
    · rename_i m e2
      split at e
      · rename_i c
        simp only [Bool.and_eq_true, decide_eq_true_eq] at c
        simp only [Option.map_eq_some_iff] at e
        obtain ⟨u, k, rfl⟩ := e
        obtain ⟨i, r, -, wi, id⟩ := h.irrevocable k
        simp only [Machine.writeR, chanCheck, sendChan, bind_run, getC_run, get_run, c.1]
        simp only [Bool.not_true, faultIf_false, h.needs, List.length_singleton]
        have w : decide (1 ≤ s.core.window.getD d.num 0) = true := decide_eq_true c.2
        rw [w]
        have e3 : neighbour u.core.id d = some m := id ▸ e2
        simp only [waitUntil_true, i, modC_run, modify_run, e3, List.map_cons, List.map_nil]
        refine ReadyAt.cancels (n := n) ?_ _
        exact r.of rfl rfl rfl rfl rfl r.check rfl rfl
      · simp at e
    · simp at e

/-- Reading keeps the core able to issue. -/
theorem ReadyAt.src {n : Nat} {s t : State} (h : s.ReadyAt n) {r : RSpec} {v : Val} (e : s.src r = some (v, t)) : t.ReadyAt n := by
  cases r with
  | w i => simp only [State.src, Option.some.injEq, Prod.mk.injEq] at e; rw [← e.2]; exact h
  | z => simp only [State.src, Option.some.injEq, Prod.mk.injEq] at e; rw [← e.2]; exact h
  | out d => simp [State.src] at e
  | inq =>
    simp only [State.src] at e
    split at e <;> simp only [Option.some.injEq, Prod.mk.injEq] at e <;> rw [← e.2] <;>
      exact ⟨h.active, h.slots, h.rep, h.loops, h.frame, h.check, h.armed, h.limit⟩
  | inp d =>
    simp only [State.src] at e
    split at e
    · split at e
      · simp only [Option.map_eq_some_iff, Prod.mk.injEq] at e
        obtain ⟨u, k, -, rfl⟩ := e
        have r := (h.irrevocable k).2.1
        exact r.of rfl rfl rfl rfl rfl r.check rfl rfl
      · simp at e
    · simp at e

end State

theorem Core.putLocal_eq {c : Core} (h : c.cur.act.isCheck = false) (la : Nat) (bs : List Byte) (ps : List Bool) :
    c.putLocal la bs ps =
      { c with lm := c.lm.setBytes la bs, lmPoison := writePoison 8 c.lmPoison la ps } := by
  simp [Core.putLocal, Core.putPiece, Core.privateAt, h]

theorem Core.putReg_eq {c : Core} (h : c.cur.act.isCheck = false) (i : BitVec 5) (v : Val) :
    c.putReg i v =
      { c with
        lm := c.lm.setBytes (c.cur.act.regAddr i) (dwordBytes v.bits)
        lmPoison := writePoison 8 c.lmPoison (c.cur.act.regAddr i) (List.replicate 8 v.poison)
        cur := { c.cur with taint := setTaint c.cur.taint i v.taint } } := by
  simp [Core.putReg, Core.putLocal_eq h]

namespace State

/-- Writing keeps the core able to issue. -/
theorem ReadyAt.dst {n : Nat} {s t : State} (h : s.ReadyAt n) {r : RSpec} {v : Val} (e : s.dst v r = some t) : t.ReadyAt n := by
  cases r with
  | w i =>
    simp only [State.dst, Option.some.injEq] at e; rw [← e, Core.putReg_eq h.isCheck]
    exact ⟨h.active, h.slots, h.rep, h.loops, h.frame, h.check, h.armed, h.limit⟩
  | z => simp only [State.dst, Option.some.injEq] at e; rw [← e]; exact h
  | inp d => simp [State.dst] at e
  | inq => simp [State.dst] at e
  | out d =>
    simp only [State.dst] at e
    split at e
    · split at e
      · simp only [Option.map_eq_some_iff] at e
        obtain ⟨u, k, rfl⟩ := e
        have r := (h.irrevocable k).2.1
        exact r.of rfl rfl rfl rfl rfl r.check rfl rfl
      · simp at e
    · simp at e

/-! ## The end of an instruction on such a core -/

theorem putSlots_self {s : State} : s.putSlots s.core.cur.slots = s := rfl

theorem applyHeld_none {s : State} (h : s.core.cur.slots = []) : s.applyHeld = s := by
  have : s.putSlots [] = s := by rw [← h]; exact putSlots_self
  simp only [applyHeld, h, applyList, this]

theorem tick_none {s : State} (h : s.core.cur.slots = []) : s.tick none = s := by
  have : s.putSlots [] = s := by rw [← h]; exact putSlots_self
  have m : s.moveWindows = s := by
    simp only [moveWindows, h, List.map_nil, cancelOlder, this, Core.emptyTags, List.foldl_nil]
  simp only [tick, m, applyHeld_none h]

theorem endTests_none {s : State} (h : s.core.cur.loops = []) (n : Nat) : s.endTests n = s := by
  cases n <;> simp [endTests, h]

/-- No pending write, no loop: the next instruction follows. -/
theorem complete_next {s : State} (h : s.core.cur.slots = []) (l : s.core.cur.loops = []) (f : Form) :
    s.complete f (.next none) = s.after f.len := by
  simp only [complete]
  rw [tick_none (by exact h), endTests_none (by exact l)]
  rfl

theorem complete_goto {s : State} (l : s.core.cur.loops = []) (f : Form) (t : BitVec 48) :
    s.complete f (.goto t) = s.went t := by
  simp only [complete, jumpTo, l, popLoops, State.went]

theorem closeWindows_none {s : State} (h : s.core.cur.slots = []) : s.closeWindows = some s := by
  have : s.putSlots [] = s := by rw [← h]; exact putSlots_self
  simp only [closeWindows, h, List.map_nil, this, applyHeld_none h, List.all_nil, if_true]

theorem ReadyAt.endWindows {n : Nat} {s : State} (h : s.ReadyAt n) : Machine.endWindows s = .ok () s := by
  simp [Machine.endWindows, bind_run, closeWindows_none h.slots]

/-- An instruction of a core that can issue, run to its end with nothing pending. -/
theorem ReadyAt.run_next {n : Nat} {s t : State} (h : s.ReadyAt n) {f : Form} {b : M Flow} (ok : f.ok = true)
    (pr : f.priv = false ∨ s.core.priv = true) (rg : ∀ r ∈ f.regs, r < n) (hb : b s = .ok (.next none) t)
    (k : t.ReadyAt n) : run f b s = .next (t.after f.len) := by
  rw [run_ok (h.issue ok pr rg) hb, complete_next k.slots k.loops]

end State

end Sys2Proof.Machine
end

