-- ==== Sys2Proof/Laws/State.lean ====
section
/-! SUPPORT. What each named update of the state leaves in each field: the field it changes has the value the update
gives, every other one stays. -/

namespace Sys2Proof.Machine

/-! ### `advance` -/

@[simp] theorem State.advance_core (s : State) (len : Nat) : (s.advance len).core = { s.core with cur := { s.core.cur with pc := s.core.cur.pc + BitVec.ofNat 48 len } } := rfl
@[simp] theorem State.advance_others (s : State) (len : Nat) : (s.advance len).others = s.others := rfl
@[simp] theorem State.advance_mem (s : State) (len : Nat) : (s.advance len).mem = s.mem := rfl
@[simp] theorem State.advance_memPoison (s : State) (len : Nat) : (s.advance len).memPoison = s.memPoison := rfl
@[simp] theorem State.advance_fullSlots (s : State) (len : Nat) : (s.advance len).fullSlots = s.fullSlots := rfl
@[simp] theorem State.advance_lines (s : State) (len : Nat) : (s.advance len).lines = s.lines := rfl
@[simp] theorem State.advance_ripening (s : State) (len : Nat) : (s.advance len).ripening = s.ripening := rfl
@[simp] theorem State.advance_forcedDoms (s : State) (len : Nat) : (s.advance len).forcedDoms = s.forcedDoms := rfl
@[simp] theorem State.advance_armed (s : State) (len : Nat) : (s.advance len).armed = s.armed := rfl
@[simp] theorem State.advance_reqs (s : State) (len : Nat) : (s.advance len).reqs = s.reqs := rfl
@[simp] theorem State.advance_ldsWait (s : State) (len : Nat) : (s.advance len).ldsWait = s.ldsWait := rfl
@[simp] theorem State.advance_parcels (s : State) (len : Nat) : (s.advance len).parcels = s.parcels := rfl
@[simp] theorem State.advance_tlb (s : State) (len : Nat) : (s.advance len).tlb = s.tlb := rfl
@[simp] theorem State.advance_tokens (s : State) (len : Nat) : (s.advance len).tokens = s.tokens := rfl
@[simp] theorem State.advance_cellReqs (s : State) (len : Nat) : (s.advance len).cellReqs = s.cellReqs := rfl
@[simp] theorem State.advance_counters (s : State) (len : Nat) : (s.advance len).counters = s.counters := rfl
@[simp] theorem State.advance_barriers (s : State) (len : Nat) : (s.advance len).barriers = s.barriers := rfl
@[simp] theorem State.advance_queues (s : State) (len : Nat) : (s.advance len).queues = s.queues := rfl
@[simp] theorem State.advance_channels (s : State) (len : Nat) : (s.advance len).channels = s.channels := rfl
@[simp] theorem State.advance_rowWrites (s : State) (len : Nat) : (s.advance len).rowWrites = s.rowWrites := rfl
@[simp] theorem State.advance_kernels (s : State) (len : Nat) : (s.advance len).kernels = s.kernels := rfl
@[simp] theorem State.advance_cohorts (s : State) (len : Nat) : (s.advance len).cohorts = s.cohorts := rfl
@[simp] theorem State.advance_checks (s : State) (len : Nat) : (s.advance len).checks = s.checks := rfl
@[simp] theorem State.advance_contexts (s : State) (len : Nat) : (s.advance len).contexts = s.contexts := rfl
@[simp] theorem State.advance_partitions (s : State) (len : Nat) : (s.advance len).partitions = s.partitions := rfl
@[simp] theorem State.advance_mgmt (s : State) (len : Nat) : (s.advance len).mgmt = s.mgmt := rfl
@[simp] theorem State.advance_devWin (s : State) (len : Nat) : (s.advance len).devWin = s.devWin := rfl
@[simp] theorem State.advance_mfqBase (s : State) (len : Nat) : (s.advance len).mfqBase = s.mfqBase := rfl
@[simp] theorem State.advance_mfqLog (s : State) (len : Nat) : (s.advance len).mfqLog = s.mfqLog := rfl
@[simp] theorem State.advance_mfqTail (s : State) (len : Nat) : (s.advance len).mfqTail = s.mfqTail := rfl
@[simp] theorem State.advance_mfqLost (s : State) (len : Nat) : (s.advance len).mfqLost = s.mfqLost := rfl
@[simp] theorem State.advance_mfqPending (s : State) (len : Nat) : (s.advance len).mfqPending = s.mfqPending := rfl
@[simp] theorem State.advance_ports (s : State) (len : Nat) : (s.advance len).ports = s.ports := rfl
@[simp] theorem State.advance_ethPorts (s : State) (len : Nat) : (s.advance len).ethPorts = s.ethPorts := rfl
@[simp] theorem State.advance_tier2Owner (s : State) (len : Nat) : (s.advance len).tier2Owner = s.tier2Owner := rfl
@[simp] theorem State.advance_tier2Held (s : State) (len : Nat) : (s.advance len).tier2Held = s.tier2Held := rfl
@[simp] theorem State.advance_ramps (s : State) (len : Nat) : (s.advance len).ramps = s.ramps := rfl
@[simp] theorem State.advance_patrols (s : State) (len : Nat) : (s.advance len).patrols = s.patrols := rfl
@[simp] theorem State.advance_powerLog (s : State) (len : Nat) : (s.advance len).powerLog = s.powerLog := rfl
@[simp] theorem State.advance_powerHeld (s : State) (len : Nat) : (s.advance len).powerHeld = s.powerHeld := rfl
@[simp] theorem State.advance_mr (s : State) (len : Nat) : (s.advance len).mr = s.mr := rfl
@[simp] theorem State.advance_boot (s : State) (len : Nat) : (s.advance len).boot = s.boot := rfl
@[simp] theorem State.advance_recovered (s : State) (len : Nat) : (s.advance len).recovered = s.recovered := rfl
@[simp] theorem State.advance_svn (s : State) (len : Nat) : (s.advance len).svn = s.svn := rfl
@[simp] theorem State.advance_seed (s : State) (len : Nat) : (s.advance len).seed = s.seed := rfl
@[simp] theorem State.advance_certificate (s : State) (len : Nat) : (s.advance len).certificate = s.certificate := rfl
@[simp] theorem State.advance_identity (s : State) (len : Nat) : (s.advance len).identity = s.identity := rfl
@[simp] theorem State.advance_kemCount (s : State) (len : Nat) : (s.advance len).kemCount = s.kemCount := rfl
@[simp] theorem State.advance_trips (s : State) (len : Nat) : (s.advance len).trips = s.trips := rfl
@[simp] theorem State.advance_tripsRead (s : State) (len : Nat) : (s.advance len).tripsRead = s.tripsRead := rfl
@[simp] theorem State.advance_takes (s : State) (len : Nat) : (s.advance len).takes = s.takes := rfl
@[simp] theorem State.advance_latches (s : State) (len : Nat) : (s.advance len).latches = s.latches := rfl
@[simp] theorem State.advance_ethDropped (s : State) (len : Nat) : (s.advance len).ethDropped = s.ethDropped := rfl
@[simp] theorem State.advance_hypShared (s : State) (len : Nat) : (s.advance len).hypShared = s.hypShared := rfl
@[simp] theorem State.advance_absentCores (s : State) (len : Nat) : (s.advance len).absentCores = s.absentCores := rfl
@[simp] theorem State.advance_absentChannels (s : State) (len : Nat) : (s.advance len).absentChannels = s.absentChannels := rfl
@[simp] theorem State.advance_absentClusters (s : State) (len : Nat) : (s.advance len).absentClusters = s.absentClusters := rfl
@[simp] theorem State.advance_absentPorts (s : State) (len : Nat) : (s.advance len).absentPorts = s.absentPorts := rfl
@[simp] theorem State.advance_oneLane (s : State) (len : Nat) : (s.advance len).oneLane = s.oneLane := rfl
@[simp] theorem State.advance_absentEth (s : State) (len : Nat) : (s.advance len).absentEth = s.absentEth := rfl
@[simp] theorem State.advance_hostOut (s : State) (len : Nat) : (s.advance len).hostOut = s.hostOut := rfl
@[simp] theorem State.advance_ts (s : State) (len : Nat) : (s.advance len).ts = s.ts := rfl
@[simp] theorem State.advance_free (s : State) (len : Nat) : (s.advance len).free = s.free := rfl
@[simp] theorem State.advance_uid (s : State) (len : Nat) : (s.advance len).uid = s.uid := rfl
@[simp] theorem State.advance_agenda (s : State) (len : Nat) : (s.advance len).agenda = s.agenda := rfl

/-! ### `jumpTo` -/

@[simp] theorem State.jumpTo_core (s : State) (t : BitVec 48) : (s.jumpTo t).core = { s.core with cur := { s.core.cur with pc := t, loops := popLoops t s.core.cur.loops } } := rfl
@[simp] theorem State.jumpTo_others (s : State) (t : BitVec 48) : (s.jumpTo t).others = s.others := rfl
@[simp] theorem State.jumpTo_mem (s : State) (t : BitVec 48) : (s.jumpTo t).mem = s.mem := rfl
@[simp] theorem State.jumpTo_memPoison (s : State) (t : BitVec 48) : (s.jumpTo t).memPoison = s.memPoison := rfl
@[simp] theorem State.jumpTo_fullSlots (s : State) (t : BitVec 48) : (s.jumpTo t).fullSlots = s.fullSlots := rfl
@[simp] theorem State.jumpTo_lines (s : State) (t : BitVec 48) : (s.jumpTo t).lines = s.lines := rfl
@[simp] theorem State.jumpTo_ripening (s : State) (t : BitVec 48) : (s.jumpTo t).ripening = s.ripening := rfl
@[simp] theorem State.jumpTo_forcedDoms (s : State) (t : BitVec 48) : (s.jumpTo t).forcedDoms = s.forcedDoms := rfl
@[simp] theorem State.jumpTo_armed (s : State) (t : BitVec 48) : (s.jumpTo t).armed = s.armed := rfl
@[simp] theorem State.jumpTo_reqs (s : State) (t : BitVec 48) : (s.jumpTo t).reqs = s.reqs := rfl
@[simp] theorem State.jumpTo_ldsWait (s : State) (t : BitVec 48) : (s.jumpTo t).ldsWait = s.ldsWait := rfl
@[simp] theorem State.jumpTo_parcels (s : State) (t : BitVec 48) : (s.jumpTo t).parcels = s.parcels := rfl
@[simp] theorem State.jumpTo_tlb (s : State) (t : BitVec 48) : (s.jumpTo t).tlb = s.tlb := rfl
@[simp] theorem State.jumpTo_tokens (s : State) (t : BitVec 48) : (s.jumpTo t).tokens = s.tokens := rfl
@[simp] theorem State.jumpTo_cellReqs (s : State) (t : BitVec 48) : (s.jumpTo t).cellReqs = s.cellReqs := rfl
@[simp] theorem State.jumpTo_counters (s : State) (t : BitVec 48) : (s.jumpTo t).counters = s.counters := rfl
@[simp] theorem State.jumpTo_barriers (s : State) (t : BitVec 48) : (s.jumpTo t).barriers = s.barriers := rfl
@[simp] theorem State.jumpTo_queues (s : State) (t : BitVec 48) : (s.jumpTo t).queues = s.queues := rfl
@[simp] theorem State.jumpTo_channels (s : State) (t : BitVec 48) : (s.jumpTo t).channels = s.channels := rfl
@[simp] theorem State.jumpTo_rowWrites (s : State) (t : BitVec 48) : (s.jumpTo t).rowWrites = s.rowWrites := rfl
@[simp] theorem State.jumpTo_kernels (s : State) (t : BitVec 48) : (s.jumpTo t).kernels = s.kernels := rfl
@[simp] theorem State.jumpTo_cohorts (s : State) (t : BitVec 48) : (s.jumpTo t).cohorts = s.cohorts := rfl
@[simp] theorem State.jumpTo_checks (s : State) (t : BitVec 48) : (s.jumpTo t).checks = s.checks := rfl
@[simp] theorem State.jumpTo_contexts (s : State) (t : BitVec 48) : (s.jumpTo t).contexts = s.contexts := rfl
@[simp] theorem State.jumpTo_partitions (s : State) (t : BitVec 48) : (s.jumpTo t).partitions = s.partitions := rfl
@[simp] theorem State.jumpTo_mgmt (s : State) (t : BitVec 48) : (s.jumpTo t).mgmt = s.mgmt := rfl
@[simp] theorem State.jumpTo_devWin (s : State) (t : BitVec 48) : (s.jumpTo t).devWin = s.devWin := rfl
@[simp] theorem State.jumpTo_mfqBase (s : State) (t : BitVec 48) : (s.jumpTo t).mfqBase = s.mfqBase := rfl
@[simp] theorem State.jumpTo_mfqLog (s : State) (t : BitVec 48) : (s.jumpTo t).mfqLog = s.mfqLog := rfl
@[simp] theorem State.jumpTo_mfqTail (s : State) (t : BitVec 48) : (s.jumpTo t).mfqTail = s.mfqTail := rfl
@[simp] theorem State.jumpTo_mfqLost (s : State) (t : BitVec 48) : (s.jumpTo t).mfqLost = s.mfqLost := rfl
@[simp] theorem State.jumpTo_mfqPending (s : State) (t : BitVec 48) : (s.jumpTo t).mfqPending = s.mfqPending := rfl
@[simp] theorem State.jumpTo_ports (s : State) (t : BitVec 48) : (s.jumpTo t).ports = s.ports := rfl
@[simp] theorem State.jumpTo_ethPorts (s : State) (t : BitVec 48) : (s.jumpTo t).ethPorts = s.ethPorts := rfl
@[simp] theorem State.jumpTo_tier2Owner (s : State) (t : BitVec 48) : (s.jumpTo t).tier2Owner = s.tier2Owner := rfl
@[simp] theorem State.jumpTo_tier2Held (s : State) (t : BitVec 48) : (s.jumpTo t).tier2Held = s.tier2Held := rfl
@[simp] theorem State.jumpTo_ramps (s : State) (t : BitVec 48) : (s.jumpTo t).ramps = s.ramps := rfl
@[simp] theorem State.jumpTo_patrols (s : State) (t : BitVec 48) : (s.jumpTo t).patrols = s.patrols := rfl
@[simp] theorem State.jumpTo_powerLog (s : State) (t : BitVec 48) : (s.jumpTo t).powerLog = s.powerLog := rfl
@[simp] theorem State.jumpTo_powerHeld (s : State) (t : BitVec 48) : (s.jumpTo t).powerHeld = s.powerHeld := rfl
@[simp] theorem State.jumpTo_mr (s : State) (t : BitVec 48) : (s.jumpTo t).mr = s.mr := rfl
@[simp] theorem State.jumpTo_boot (s : State) (t : BitVec 48) : (s.jumpTo t).boot = s.boot := rfl
@[simp] theorem State.jumpTo_recovered (s : State) (t : BitVec 48) : (s.jumpTo t).recovered = s.recovered := rfl
@[simp] theorem State.jumpTo_svn (s : State) (t : BitVec 48) : (s.jumpTo t).svn = s.svn := rfl
@[simp] theorem State.jumpTo_seed (s : State) (t : BitVec 48) : (s.jumpTo t).seed = s.seed := rfl
@[simp] theorem State.jumpTo_certificate (s : State) (t : BitVec 48) : (s.jumpTo t).certificate = s.certificate := rfl
@[simp] theorem State.jumpTo_identity (s : State) (t : BitVec 48) : (s.jumpTo t).identity = s.identity := rfl
@[simp] theorem State.jumpTo_kemCount (s : State) (t : BitVec 48) : (s.jumpTo t).kemCount = s.kemCount := rfl
@[simp] theorem State.jumpTo_trips (s : State) (t : BitVec 48) : (s.jumpTo t).trips = s.trips := rfl
@[simp] theorem State.jumpTo_tripsRead (s : State) (t : BitVec 48) : (s.jumpTo t).tripsRead = s.tripsRead := rfl
@[simp] theorem State.jumpTo_takes (s : State) (t : BitVec 48) : (s.jumpTo t).takes = s.takes := rfl
@[simp] theorem State.jumpTo_latches (s : State) (t : BitVec 48) : (s.jumpTo t).latches = s.latches := rfl
@[simp] theorem State.jumpTo_ethDropped (s : State) (t : BitVec 48) : (s.jumpTo t).ethDropped = s.ethDropped := rfl
@[simp] theorem State.jumpTo_hypShared (s : State) (t : BitVec 48) : (s.jumpTo t).hypShared = s.hypShared := rfl
@[simp] theorem State.jumpTo_absentCores (s : State) (t : BitVec 48) : (s.jumpTo t).absentCores = s.absentCores := rfl
@[simp] theorem State.jumpTo_absentChannels (s : State) (t : BitVec 48) : (s.jumpTo t).absentChannels = s.absentChannels := rfl
@[simp] theorem State.jumpTo_absentClusters (s : State) (t : BitVec 48) : (s.jumpTo t).absentClusters = s.absentClusters := rfl
@[simp] theorem State.jumpTo_absentPorts (s : State) (t : BitVec 48) : (s.jumpTo t).absentPorts = s.absentPorts := rfl
@[simp] theorem State.jumpTo_oneLane (s : State) (t : BitVec 48) : (s.jumpTo t).oneLane = s.oneLane := rfl
@[simp] theorem State.jumpTo_absentEth (s : State) (t : BitVec 48) : (s.jumpTo t).absentEth = s.absentEth := rfl
@[simp] theorem State.jumpTo_hostOut (s : State) (t : BitVec 48) : (s.jumpTo t).hostOut = s.hostOut := rfl
@[simp] theorem State.jumpTo_ts (s : State) (t : BitVec 48) : (s.jumpTo t).ts = s.ts := rfl
@[simp] theorem State.jumpTo_free (s : State) (t : BitVec 48) : (s.jumpTo t).free = s.free := rfl
@[simp] theorem State.jumpTo_uid (s : State) (t : BitVec 48) : (s.jumpTo t).uid = s.uid := rfl
@[simp] theorem State.jumpTo_agenda (s : State) (t : BitVec 48) : (s.jumpTo t).agenda = s.agenda := rfl

/-! ### `stall` -/

@[simp] theorem State.stall_core (s : State) : (s.stall).core = { s.core with stalled := true } := rfl
@[simp] theorem State.stall_others (s : State) : (s.stall).others = s.others := rfl
@[simp] theorem State.stall_mem (s : State) : (s.stall).mem = s.mem := rfl
@[simp] theorem State.stall_memPoison (s : State) : (s.stall).memPoison = s.memPoison := rfl
@[simp] theorem State.stall_fullSlots (s : State) : (s.stall).fullSlots = s.fullSlots := rfl
@[simp] theorem State.stall_lines (s : State) : (s.stall).lines = s.lines := rfl
@[simp] theorem State.stall_ripening (s : State) : (s.stall).ripening = s.ripening := rfl
@[simp] theorem State.stall_forcedDoms (s : State) : (s.stall).forcedDoms = s.forcedDoms := rfl
@[simp] theorem State.stall_armed (s : State) : (s.stall).armed = s.armed := rfl
@[simp] theorem State.stall_reqs (s : State) : (s.stall).reqs = s.reqs := rfl
@[simp] theorem State.stall_ldsWait (s : State) : (s.stall).ldsWait = s.ldsWait := rfl
@[simp] theorem State.stall_parcels (s : State) : (s.stall).parcels = s.parcels := rfl
@[simp] theorem State.stall_tlb (s : State) : (s.stall).tlb = s.tlb := rfl
@[simp] theorem State.stall_tokens (s : State) : (s.stall).tokens = s.tokens := rfl
@[simp] theorem State.stall_cellReqs (s : State) : (s.stall).cellReqs = s.cellReqs := rfl
@[simp] theorem State.stall_counters (s : State) : (s.stall).counters = s.counters := rfl
@[simp] theorem State.stall_barriers (s : State) : (s.stall).barriers = s.barriers := rfl
@[simp] theorem State.stall_queues (s : State) : (s.stall).queues = s.queues := rfl
@[simp] theorem State.stall_channels (s : State) : (s.stall).channels = s.channels := rfl
@[simp] theorem State.stall_rowWrites (s : State) : (s.stall).rowWrites = s.rowWrites := rfl
@[simp] theorem State.stall_kernels (s : State) : (s.stall).kernels = s.kernels := rfl
@[simp] theorem State.stall_cohorts (s : State) : (s.stall).cohorts = s.cohorts := rfl
@[simp] theorem State.stall_checks (s : State) : (s.stall).checks = s.checks := rfl
@[simp] theorem State.stall_contexts (s : State) : (s.stall).contexts = s.contexts := rfl
@[simp] theorem State.stall_partitions (s : State) : (s.stall).partitions = s.partitions := rfl
@[simp] theorem State.stall_mgmt (s : State) : (s.stall).mgmt = s.mgmt := rfl
@[simp] theorem State.stall_devWin (s : State) : (s.stall).devWin = s.devWin := rfl
@[simp] theorem State.stall_mfqBase (s : State) : (s.stall).mfqBase = s.mfqBase := rfl
@[simp] theorem State.stall_mfqLog (s : State) : (s.stall).mfqLog = s.mfqLog := rfl
@[simp] theorem State.stall_mfqTail (s : State) : (s.stall).mfqTail = s.mfqTail := rfl
@[simp] theorem State.stall_mfqLost (s : State) : (s.stall).mfqLost = s.mfqLost := rfl
@[simp] theorem State.stall_mfqPending (s : State) : (s.stall).mfqPending = s.mfqPending := rfl
@[simp] theorem State.stall_ports (s : State) : (s.stall).ports = s.ports := rfl
@[simp] theorem State.stall_ethPorts (s : State) : (s.stall).ethPorts = s.ethPorts := rfl
@[simp] theorem State.stall_tier2Owner (s : State) : (s.stall).tier2Owner = s.tier2Owner := rfl
@[simp] theorem State.stall_tier2Held (s : State) : (s.stall).tier2Held = s.tier2Held := rfl
@[simp] theorem State.stall_ramps (s : State) : (s.stall).ramps = s.ramps := rfl
@[simp] theorem State.stall_patrols (s : State) : (s.stall).patrols = s.patrols := rfl
@[simp] theorem State.stall_powerLog (s : State) : (s.stall).powerLog = s.powerLog := rfl
@[simp] theorem State.stall_powerHeld (s : State) : (s.stall).powerHeld = s.powerHeld := rfl
@[simp] theorem State.stall_mr (s : State) : (s.stall).mr = s.mr := rfl
@[simp] theorem State.stall_boot (s : State) : (s.stall).boot = s.boot := rfl
@[simp] theorem State.stall_recovered (s : State) : (s.stall).recovered = s.recovered := rfl
@[simp] theorem State.stall_svn (s : State) : (s.stall).svn = s.svn := rfl
@[simp] theorem State.stall_seed (s : State) : (s.stall).seed = s.seed := rfl
@[simp] theorem State.stall_certificate (s : State) : (s.stall).certificate = s.certificate := rfl
@[simp] theorem State.stall_identity (s : State) : (s.stall).identity = s.identity := rfl
@[simp] theorem State.stall_kemCount (s : State) : (s.stall).kemCount = s.kemCount := rfl
@[simp] theorem State.stall_trips (s : State) : (s.stall).trips = s.trips := rfl
@[simp] theorem State.stall_tripsRead (s : State) : (s.stall).tripsRead = s.tripsRead := rfl
@[simp] theorem State.stall_takes (s : State) : (s.stall).takes = s.takes := rfl
@[simp] theorem State.stall_latches (s : State) : (s.stall).latches = s.latches := rfl
@[simp] theorem State.stall_ethDropped (s : State) : (s.stall).ethDropped = s.ethDropped := rfl
@[simp] theorem State.stall_hypShared (s : State) : (s.stall).hypShared = s.hypShared := rfl
@[simp] theorem State.stall_absentCores (s : State) : (s.stall).absentCores = s.absentCores := rfl
@[simp] theorem State.stall_absentChannels (s : State) : (s.stall).absentChannels = s.absentChannels := rfl
@[simp] theorem State.stall_absentClusters (s : State) : (s.stall).absentClusters = s.absentClusters := rfl
@[simp] theorem State.stall_absentPorts (s : State) : (s.stall).absentPorts = s.absentPorts := rfl
@[simp] theorem State.stall_oneLane (s : State) : (s.stall).oneLane = s.oneLane := rfl
@[simp] theorem State.stall_absentEth (s : State) : (s.stall).absentEth = s.absentEth := rfl
@[simp] theorem State.stall_hostOut (s : State) : (s.stall).hostOut = s.hostOut := rfl
@[simp] theorem State.stall_ts (s : State) : (s.stall).ts = s.ts := rfl
@[simp] theorem State.stall_free (s : State) : (s.stall).free = s.free := rfl
@[simp] theorem State.stall_uid (s : State) : (s.stall).uid = s.uid := rfl
@[simp] theorem State.stall_agenda (s : State) : (s.stall).agenda = s.agenda := rfl

/-! ### `putSlots` -/

@[simp] theorem State.putSlots_core (s : State) (l : List Slot) : (s.putSlots l).core = { s.core with cur := { s.core.cur with slots := l } } := rfl
@[simp] theorem State.putSlots_others (s : State) (l : List Slot) : (s.putSlots l).others = s.others := rfl
@[simp] theorem State.putSlots_mem (s : State) (l : List Slot) : (s.putSlots l).mem = s.mem := rfl
@[simp] theorem State.putSlots_memPoison (s : State) (l : List Slot) : (s.putSlots l).memPoison = s.memPoison := rfl
@[simp] theorem State.putSlots_fullSlots (s : State) (l : List Slot) : (s.putSlots l).fullSlots = s.fullSlots := rfl
@[simp] theorem State.putSlots_lines (s : State) (l : List Slot) : (s.putSlots l).lines = s.lines := rfl
@[simp] theorem State.putSlots_ripening (s : State) (l : List Slot) : (s.putSlots l).ripening = s.ripening := rfl
@[simp] theorem State.putSlots_forcedDoms (s : State) (l : List Slot) : (s.putSlots l).forcedDoms = s.forcedDoms := rfl
@[simp] theorem State.putSlots_armed (s : State) (l : List Slot) : (s.putSlots l).armed = s.armed := rfl
@[simp] theorem State.putSlots_reqs (s : State) (l : List Slot) : (s.putSlots l).reqs = s.reqs := rfl
@[simp] theorem State.putSlots_ldsWait (s : State) (l : List Slot) : (s.putSlots l).ldsWait = s.ldsWait := rfl
@[simp] theorem State.putSlots_parcels (s : State) (l : List Slot) : (s.putSlots l).parcels = s.parcels := rfl
@[simp] theorem State.putSlots_tlb (s : State) (l : List Slot) : (s.putSlots l).tlb = s.tlb := rfl
@[simp] theorem State.putSlots_tokens (s : State) (l : List Slot) : (s.putSlots l).tokens = s.tokens := rfl
@[simp] theorem State.putSlots_cellReqs (s : State) (l : List Slot) : (s.putSlots l).cellReqs = s.cellReqs := rfl
@[simp] theorem State.putSlots_counters (s : State) (l : List Slot) : (s.putSlots l).counters = s.counters := rfl
@[simp] theorem State.putSlots_barriers (s : State) (l : List Slot) : (s.putSlots l).barriers = s.barriers := rfl
@[simp] theorem State.putSlots_queues (s : State) (l : List Slot) : (s.putSlots l).queues = s.queues := rfl
@[simp] theorem State.putSlots_channels (s : State) (l : List Slot) : (s.putSlots l).channels = s.channels := rfl
@[simp] theorem State.putSlots_rowWrites (s : State) (l : List Slot) : (s.putSlots l).rowWrites = s.rowWrites := rfl
@[simp] theorem State.putSlots_kernels (s : State) (l : List Slot) : (s.putSlots l).kernels = s.kernels := rfl
@[simp] theorem State.putSlots_cohorts (s : State) (l : List Slot) : (s.putSlots l).cohorts = s.cohorts := rfl
@[simp] theorem State.putSlots_checks (s : State) (l : List Slot) : (s.putSlots l).checks = s.checks := rfl
@[simp] theorem State.putSlots_contexts (s : State) (l : List Slot) : (s.putSlots l).contexts = s.contexts := rfl
@[simp] theorem State.putSlots_partitions (s : State) (l : List Slot) : (s.putSlots l).partitions = s.partitions := rfl
@[simp] theorem State.putSlots_mgmt (s : State) (l : List Slot) : (s.putSlots l).mgmt = s.mgmt := rfl
@[simp] theorem State.putSlots_devWin (s : State) (l : List Slot) : (s.putSlots l).devWin = s.devWin := rfl
@[simp] theorem State.putSlots_mfqBase (s : State) (l : List Slot) : (s.putSlots l).mfqBase = s.mfqBase := rfl
@[simp] theorem State.putSlots_mfqLog (s : State) (l : List Slot) : (s.putSlots l).mfqLog = s.mfqLog := rfl
@[simp] theorem State.putSlots_mfqTail (s : State) (l : List Slot) : (s.putSlots l).mfqTail = s.mfqTail := rfl
@[simp] theorem State.putSlots_mfqLost (s : State) (l : List Slot) : (s.putSlots l).mfqLost = s.mfqLost := rfl
@[simp] theorem State.putSlots_mfqPending (s : State) (l : List Slot) : (s.putSlots l).mfqPending = s.mfqPending := rfl
@[simp] theorem State.putSlots_ports (s : State) (l : List Slot) : (s.putSlots l).ports = s.ports := rfl
@[simp] theorem State.putSlots_ethPorts (s : State) (l : List Slot) : (s.putSlots l).ethPorts = s.ethPorts := rfl
@[simp] theorem State.putSlots_tier2Owner (s : State) (l : List Slot) : (s.putSlots l).tier2Owner = s.tier2Owner := rfl
@[simp] theorem State.putSlots_tier2Held (s : State) (l : List Slot) : (s.putSlots l).tier2Held = s.tier2Held := rfl
@[simp] theorem State.putSlots_ramps (s : State) (l : List Slot) : (s.putSlots l).ramps = s.ramps := rfl
@[simp] theorem State.putSlots_patrols (s : State) (l : List Slot) : (s.putSlots l).patrols = s.patrols := rfl
@[simp] theorem State.putSlots_powerLog (s : State) (l : List Slot) : (s.putSlots l).powerLog = s.powerLog := rfl
@[simp] theorem State.putSlots_powerHeld (s : State) (l : List Slot) : (s.putSlots l).powerHeld = s.powerHeld := rfl
@[simp] theorem State.putSlots_mr (s : State) (l : List Slot) : (s.putSlots l).mr = s.mr := rfl
@[simp] theorem State.putSlots_boot (s : State) (l : List Slot) : (s.putSlots l).boot = s.boot := rfl
@[simp] theorem State.putSlots_recovered (s : State) (l : List Slot) : (s.putSlots l).recovered = s.recovered := rfl
@[simp] theorem State.putSlots_svn (s : State) (l : List Slot) : (s.putSlots l).svn = s.svn := rfl
@[simp] theorem State.putSlots_seed (s : State) (l : List Slot) : (s.putSlots l).seed = s.seed := rfl
@[simp] theorem State.putSlots_certificate (s : State) (l : List Slot) : (s.putSlots l).certificate = s.certificate := rfl
@[simp] theorem State.putSlots_identity (s : State) (l : List Slot) : (s.putSlots l).identity = s.identity := rfl
@[simp] theorem State.putSlots_kemCount (s : State) (l : List Slot) : (s.putSlots l).kemCount = s.kemCount := rfl
@[simp] theorem State.putSlots_trips (s : State) (l : List Slot) : (s.putSlots l).trips = s.trips := rfl
@[simp] theorem State.putSlots_tripsRead (s : State) (l : List Slot) : (s.putSlots l).tripsRead = s.tripsRead := rfl
@[simp] theorem State.putSlots_takes (s : State) (l : List Slot) : (s.putSlots l).takes = s.takes := rfl
@[simp] theorem State.putSlots_latches (s : State) (l : List Slot) : (s.putSlots l).latches = s.latches := rfl
@[simp] theorem State.putSlots_ethDropped (s : State) (l : List Slot) : (s.putSlots l).ethDropped = s.ethDropped := rfl
@[simp] theorem State.putSlots_hypShared (s : State) (l : List Slot) : (s.putSlots l).hypShared = s.hypShared := rfl
@[simp] theorem State.putSlots_absentCores (s : State) (l : List Slot) : (s.putSlots l).absentCores = s.absentCores := rfl
@[simp] theorem State.putSlots_absentChannels (s : State) (l : List Slot) : (s.putSlots l).absentChannels = s.absentChannels := rfl
@[simp] theorem State.putSlots_absentClusters (s : State) (l : List Slot) : (s.putSlots l).absentClusters = s.absentClusters := rfl
@[simp] theorem State.putSlots_absentPorts (s : State) (l : List Slot) : (s.putSlots l).absentPorts = s.absentPorts := rfl
@[simp] theorem State.putSlots_oneLane (s : State) (l : List Slot) : (s.putSlots l).oneLane = s.oneLane := rfl
@[simp] theorem State.putSlots_absentEth (s : State) (l : List Slot) : (s.putSlots l).absentEth = s.absentEth := rfl
@[simp] theorem State.putSlots_hostOut (s : State) (l : List Slot) : (s.putSlots l).hostOut = s.hostOut := rfl
@[simp] theorem State.putSlots_ts (s : State) (l : List Slot) : (s.putSlots l).ts = s.ts := rfl
@[simp] theorem State.putSlots_free (s : State) (l : List Slot) : (s.putSlots l).free = s.free := rfl
@[simp] theorem State.putSlots_uid (s : State) (l : List Slot) : (s.putSlots l).uid = s.uid := rfl
@[simp] theorem State.putSlots_agenda (s : State) (l : List Slot) : (s.putSlots l).agenda = s.agenda := rfl

/-! ### `putRep` -/

@[simp] theorem State.putRep_core (s : State) (r : Option RepBuf) : (s.putRep r).core = { s.core with cur := { s.core.cur with rep := r } } := rfl
@[simp] theorem State.putRep_others (s : State) (r : Option RepBuf) : (s.putRep r).others = s.others := rfl
@[simp] theorem State.putRep_mem (s : State) (r : Option RepBuf) : (s.putRep r).mem = s.mem := rfl
@[simp] theorem State.putRep_memPoison (s : State) (r : Option RepBuf) : (s.putRep r).memPoison = s.memPoison := rfl
@[simp] theorem State.putRep_fullSlots (s : State) (r : Option RepBuf) : (s.putRep r).fullSlots = s.fullSlots := rfl
@[simp] theorem State.putRep_lines (s : State) (r : Option RepBuf) : (s.putRep r).lines = s.lines := rfl
@[simp] theorem State.putRep_ripening (s : State) (r : Option RepBuf) : (s.putRep r).ripening = s.ripening := rfl
@[simp] theorem State.putRep_forcedDoms (s : State) (r : Option RepBuf) : (s.putRep r).forcedDoms = s.forcedDoms := rfl
@[simp] theorem State.putRep_armed (s : State) (r : Option RepBuf) : (s.putRep r).armed = s.armed := rfl
@[simp] theorem State.putRep_reqs (s : State) (r : Option RepBuf) : (s.putRep r).reqs = s.reqs := rfl
@[simp] theorem State.putRep_ldsWait (s : State) (r : Option RepBuf) : (s.putRep r).ldsWait = s.ldsWait := rfl
@[simp] theorem State.putRep_parcels (s : State) (r : Option RepBuf) : (s.putRep r).parcels = s.parcels := rfl
@[simp] theorem State.putRep_tlb (s : State) (r : Option RepBuf) : (s.putRep r).tlb = s.tlb := rfl
@[simp] theorem State.putRep_tokens (s : State) (r : Option RepBuf) : (s.putRep r).tokens = s.tokens := rfl
@[simp] theorem State.putRep_cellReqs (s : State) (r : Option RepBuf) : (s.putRep r).cellReqs = s.cellReqs := rfl
@[simp] theorem State.putRep_counters (s : State) (r : Option RepBuf) : (s.putRep r).counters = s.counters := rfl
@[simp] theorem State.putRep_barriers (s : State) (r : Option RepBuf) : (s.putRep r).barriers = s.barriers := rfl
@[simp] theorem State.putRep_queues (s : State) (r : Option RepBuf) : (s.putRep r).queues = s.queues := rfl
@[simp] theorem State.putRep_channels (s : State) (r : Option RepBuf) : (s.putRep r).channels = s.channels := rfl
@[simp] theorem State.putRep_rowWrites (s : State) (r : Option RepBuf) : (s.putRep r).rowWrites = s.rowWrites := rfl
@[simp] theorem State.putRep_kernels (s : State) (r : Option RepBuf) : (s.putRep r).kernels = s.kernels := rfl
@[simp] theorem State.putRep_cohorts (s : State) (r : Option RepBuf) : (s.putRep r).cohorts = s.cohorts := rfl
@[simp] theorem State.putRep_checks (s : State) (r : Option RepBuf) : (s.putRep r).checks = s.checks := rfl
@[simp] theorem State.putRep_contexts (s : State) (r : Option RepBuf) : (s.putRep r).contexts = s.contexts := rfl
@[simp] theorem State.putRep_partitions (s : State) (r : Option RepBuf) : (s.putRep r).partitions = s.partitions := rfl
@[simp] theorem State.putRep_mgmt (s : State) (r : Option RepBuf) : (s.putRep r).mgmt = s.mgmt := rfl
@[simp] theorem State.putRep_devWin (s : State) (r : Option RepBuf) : (s.putRep r).devWin = s.devWin := rfl
@[simp] theorem State.putRep_mfqBase (s : State) (r : Option RepBuf) : (s.putRep r).mfqBase = s.mfqBase := rfl
@[simp] theorem State.putRep_mfqLog (s : State) (r : Option RepBuf) : (s.putRep r).mfqLog = s.mfqLog := rfl
@[simp] theorem State.putRep_mfqTail (s : State) (r : Option RepBuf) : (s.putRep r).mfqTail = s.mfqTail := rfl
@[simp] theorem State.putRep_mfqLost (s : State) (r : Option RepBuf) : (s.putRep r).mfqLost = s.mfqLost := rfl
@[simp] theorem State.putRep_mfqPending (s : State) (r : Option RepBuf) : (s.putRep r).mfqPending = s.mfqPending := rfl
@[simp] theorem State.putRep_ports (s : State) (r : Option RepBuf) : (s.putRep r).ports = s.ports := rfl
@[simp] theorem State.putRep_ethPorts (s : State) (r : Option RepBuf) : (s.putRep r).ethPorts = s.ethPorts := rfl
@[simp] theorem State.putRep_tier2Owner (s : State) (r : Option RepBuf) : (s.putRep r).tier2Owner = s.tier2Owner := rfl
@[simp] theorem State.putRep_tier2Held (s : State) (r : Option RepBuf) : (s.putRep r).tier2Held = s.tier2Held := rfl
@[simp] theorem State.putRep_ramps (s : State) (r : Option RepBuf) : (s.putRep r).ramps = s.ramps := rfl
@[simp] theorem State.putRep_patrols (s : State) (r : Option RepBuf) : (s.putRep r).patrols = s.patrols := rfl
@[simp] theorem State.putRep_powerLog (s : State) (r : Option RepBuf) : (s.putRep r).powerLog = s.powerLog := rfl
@[simp] theorem State.putRep_powerHeld (s : State) (r : Option RepBuf) : (s.putRep r).powerHeld = s.powerHeld := rfl
@[simp] theorem State.putRep_mr (s : State) (r : Option RepBuf) : (s.putRep r).mr = s.mr := rfl
@[simp] theorem State.putRep_boot (s : State) (r : Option RepBuf) : (s.putRep r).boot = s.boot := rfl
@[simp] theorem State.putRep_recovered (s : State) (r : Option RepBuf) : (s.putRep r).recovered = s.recovered := rfl
@[simp] theorem State.putRep_svn (s : State) (r : Option RepBuf) : (s.putRep r).svn = s.svn := rfl
@[simp] theorem State.putRep_seed (s : State) (r : Option RepBuf) : (s.putRep r).seed = s.seed := rfl
@[simp] theorem State.putRep_certificate (s : State) (r : Option RepBuf) : (s.putRep r).certificate = s.certificate := rfl
@[simp] theorem State.putRep_identity (s : State) (r : Option RepBuf) : (s.putRep r).identity = s.identity := rfl
@[simp] theorem State.putRep_kemCount (s : State) (r : Option RepBuf) : (s.putRep r).kemCount = s.kemCount := rfl
@[simp] theorem State.putRep_trips (s : State) (r : Option RepBuf) : (s.putRep r).trips = s.trips := rfl
@[simp] theorem State.putRep_tripsRead (s : State) (r : Option RepBuf) : (s.putRep r).tripsRead = s.tripsRead := rfl
@[simp] theorem State.putRep_takes (s : State) (r : Option RepBuf) : (s.putRep r).takes = s.takes := rfl
@[simp] theorem State.putRep_latches (s : State) (r : Option RepBuf) : (s.putRep r).latches = s.latches := rfl
@[simp] theorem State.putRep_ethDropped (s : State) (r : Option RepBuf) : (s.putRep r).ethDropped = s.ethDropped := rfl
@[simp] theorem State.putRep_hypShared (s : State) (r : Option RepBuf) : (s.putRep r).hypShared = s.hypShared := rfl
@[simp] theorem State.putRep_absentCores (s : State) (r : Option RepBuf) : (s.putRep r).absentCores = s.absentCores := rfl
@[simp] theorem State.putRep_absentChannels (s : State) (r : Option RepBuf) : (s.putRep r).absentChannels = s.absentChannels := rfl
@[simp] theorem State.putRep_absentClusters (s : State) (r : Option RepBuf) : (s.putRep r).absentClusters = s.absentClusters := rfl
@[simp] theorem State.putRep_absentPorts (s : State) (r : Option RepBuf) : (s.putRep r).absentPorts = s.absentPorts := rfl
@[simp] theorem State.putRep_oneLane (s : State) (r : Option RepBuf) : (s.putRep r).oneLane = s.oneLane := rfl
@[simp] theorem State.putRep_absentEth (s : State) (r : Option RepBuf) : (s.putRep r).absentEth = s.absentEth := rfl
@[simp] theorem State.putRep_hostOut (s : State) (r : Option RepBuf) : (s.putRep r).hostOut = s.hostOut := rfl
@[simp] theorem State.putRep_ts (s : State) (r : Option RepBuf) : (s.putRep r).ts = s.ts := rfl
@[simp] theorem State.putRep_free (s : State) (r : Option RepBuf) : (s.putRep r).free = s.free := rfl
@[simp] theorem State.putRep_uid (s : State) (r : Option RepBuf) : (s.putRep r).uid = s.uid := rfl
@[simp] theorem State.putRep_agenda (s : State) (r : Option RepBuf) : (s.putRep r).agenda = s.agenda := rfl

/-! ### `stopSlot` -/

@[simp] theorem State.stopSlot_core (s : State) (k code : Nat) : (s.stopSlot k code).core = { s.core with press := s.core.press.stopAt k code } := rfl
@[simp] theorem State.stopSlot_others (s : State) (k code : Nat) : (s.stopSlot k code).others = s.others := rfl
@[simp] theorem State.stopSlot_mem (s : State) (k code : Nat) : (s.stopSlot k code).mem = s.mem := rfl
@[simp] theorem State.stopSlot_memPoison (s : State) (k code : Nat) : (s.stopSlot k code).memPoison = s.memPoison := rfl
@[simp] theorem State.stopSlot_fullSlots (s : State) (k code : Nat) : (s.stopSlot k code).fullSlots = s.fullSlots := rfl
@[simp] theorem State.stopSlot_lines (s : State) (k code : Nat) : (s.stopSlot k code).lines = s.lines := rfl
@[simp] theorem State.stopSlot_ripening (s : State) (k code : Nat) : (s.stopSlot k code).ripening = s.ripening := rfl
@[simp] theorem State.stopSlot_forcedDoms (s : State) (k code : Nat) : (s.stopSlot k code).forcedDoms = s.forcedDoms := rfl
@[simp] theorem State.stopSlot_armed (s : State) (k code : Nat) : (s.stopSlot k code).armed = s.armed := rfl
@[simp] theorem State.stopSlot_reqs (s : State) (k code : Nat) : (s.stopSlot k code).reqs = s.reqs := rfl
@[simp] theorem State.stopSlot_ldsWait (s : State) (k code : Nat) : (s.stopSlot k code).ldsWait = s.ldsWait := rfl
@[simp] theorem State.stopSlot_parcels (s : State) (k code : Nat) : (s.stopSlot k code).parcels = s.parcels := rfl
@[simp] theorem State.stopSlot_tlb (s : State) (k code : Nat) : (s.stopSlot k code).tlb = s.tlb := rfl
@[simp] theorem State.stopSlot_tokens (s : State) (k code : Nat) : (s.stopSlot k code).tokens = s.tokens := rfl
@[simp] theorem State.stopSlot_cellReqs (s : State) (k code : Nat) : (s.stopSlot k code).cellReqs = s.cellReqs := rfl
@[simp] theorem State.stopSlot_counters (s : State) (k code : Nat) : (s.stopSlot k code).counters = s.counters := rfl
@[simp] theorem State.stopSlot_barriers (s : State) (k code : Nat) : (s.stopSlot k code).barriers = s.barriers := rfl
@[simp] theorem State.stopSlot_queues (s : State) (k code : Nat) : (s.stopSlot k code).queues = s.queues := rfl
@[simp] theorem State.stopSlot_channels (s : State) (k code : Nat) : (s.stopSlot k code).channels = s.channels := rfl
@[simp] theorem State.stopSlot_rowWrites (s : State) (k code : Nat) : (s.stopSlot k code).rowWrites = s.rowWrites := rfl
@[simp] theorem State.stopSlot_kernels (s : State) (k code : Nat) : (s.stopSlot k code).kernels = s.kernels := rfl
@[simp] theorem State.stopSlot_cohorts (s : State) (k code : Nat) : (s.stopSlot k code).cohorts = s.cohorts := rfl
@[simp] theorem State.stopSlot_checks (s : State) (k code : Nat) : (s.stopSlot k code).checks = s.checks := rfl
@[simp] theorem State.stopSlot_contexts (s : State) (k code : Nat) : (s.stopSlot k code).contexts = s.contexts := rfl
@[simp] theorem State.stopSlot_partitions (s : State) (k code : Nat) : (s.stopSlot k code).partitions = s.partitions := rfl
@[simp] theorem State.stopSlot_mgmt (s : State) (k code : Nat) : (s.stopSlot k code).mgmt = s.mgmt := rfl
@[simp] theorem State.stopSlot_devWin (s : State) (k code : Nat) : (s.stopSlot k code).devWin = s.devWin := rfl
@[simp] theorem State.stopSlot_mfqBase (s : State) (k code : Nat) : (s.stopSlot k code).mfqBase = s.mfqBase := rfl
@[simp] theorem State.stopSlot_mfqLog (s : State) (k code : Nat) : (s.stopSlot k code).mfqLog = s.mfqLog := rfl
@[simp] theorem State.stopSlot_mfqTail (s : State) (k code : Nat) : (s.stopSlot k code).mfqTail = s.mfqTail := rfl
@[simp] theorem State.stopSlot_mfqLost (s : State) (k code : Nat) : (s.stopSlot k code).mfqLost = s.mfqLost := rfl
@[simp] theorem State.stopSlot_mfqPending (s : State) (k code : Nat) : (s.stopSlot k code).mfqPending = s.mfqPending := rfl
@[simp] theorem State.stopSlot_ports (s : State) (k code : Nat) : (s.stopSlot k code).ports = s.ports := rfl
@[simp] theorem State.stopSlot_ethPorts (s : State) (k code : Nat) : (s.stopSlot k code).ethPorts = s.ethPorts := rfl
@[simp] theorem State.stopSlot_tier2Owner (s : State) (k code : Nat) : (s.stopSlot k code).tier2Owner = s.tier2Owner := rfl
@[simp] theorem State.stopSlot_tier2Held (s : State) (k code : Nat) : (s.stopSlot k code).tier2Held = s.tier2Held := rfl
@[simp] theorem State.stopSlot_ramps (s : State) (k code : Nat) : (s.stopSlot k code).ramps = s.ramps := rfl
@[simp] theorem State.stopSlot_patrols (s : State) (k code : Nat) : (s.stopSlot k code).patrols = s.patrols := rfl
@[simp] theorem State.stopSlot_powerLog (s : State) (k code : Nat) : (s.stopSlot k code).powerLog = s.powerLog := rfl
@[simp] theorem State.stopSlot_powerHeld (s : State) (k code : Nat) : (s.stopSlot k code).powerHeld = s.powerHeld := rfl
@[simp] theorem State.stopSlot_mr (s : State) (k code : Nat) : (s.stopSlot k code).mr = s.mr := rfl
@[simp] theorem State.stopSlot_boot (s : State) (k code : Nat) : (s.stopSlot k code).boot = s.boot := rfl
@[simp] theorem State.stopSlot_recovered (s : State) (k code : Nat) : (s.stopSlot k code).recovered = s.recovered := rfl
@[simp] theorem State.stopSlot_svn (s : State) (k code : Nat) : (s.stopSlot k code).svn = s.svn := rfl
@[simp] theorem State.stopSlot_seed (s : State) (k code : Nat) : (s.stopSlot k code).seed = s.seed := rfl
@[simp] theorem State.stopSlot_certificate (s : State) (k code : Nat) : (s.stopSlot k code).certificate = s.certificate := rfl
@[simp] theorem State.stopSlot_identity (s : State) (k code : Nat) : (s.stopSlot k code).identity = s.identity := rfl
@[simp] theorem State.stopSlot_kemCount (s : State) (k code : Nat) : (s.stopSlot k code).kemCount = s.kemCount := rfl
@[simp] theorem State.stopSlot_trips (s : State) (k code : Nat) : (s.stopSlot k code).trips = s.trips := rfl
@[simp] theorem State.stopSlot_tripsRead (s : State) (k code : Nat) : (s.stopSlot k code).tripsRead = s.tripsRead := rfl
@[simp] theorem State.stopSlot_takes (s : State) (k code : Nat) : (s.stopSlot k code).takes = s.takes := rfl
@[simp] theorem State.stopSlot_latches (s : State) (k code : Nat) : (s.stopSlot k code).latches = s.latches := rfl
@[simp] theorem State.stopSlot_ethDropped (s : State) (k code : Nat) : (s.stopSlot k code).ethDropped = s.ethDropped := rfl
@[simp] theorem State.stopSlot_hypShared (s : State) (k code : Nat) : (s.stopSlot k code).hypShared = s.hypShared := rfl
@[simp] theorem State.stopSlot_absentCores (s : State) (k code : Nat) : (s.stopSlot k code).absentCores = s.absentCores := rfl
@[simp] theorem State.stopSlot_absentChannels (s : State) (k code : Nat) : (s.stopSlot k code).absentChannels = s.absentChannels := rfl
@[simp] theorem State.stopSlot_absentClusters (s : State) (k code : Nat) : (s.stopSlot k code).absentClusters = s.absentClusters := rfl
@[simp] theorem State.stopSlot_absentPorts (s : State) (k code : Nat) : (s.stopSlot k code).absentPorts = s.absentPorts := rfl
@[simp] theorem State.stopSlot_oneLane (s : State) (k code : Nat) : (s.stopSlot k code).oneLane = s.oneLane := rfl
@[simp] theorem State.stopSlot_absentEth (s : State) (k code : Nat) : (s.stopSlot k code).absentEth = s.absentEth := rfl
@[simp] theorem State.stopSlot_hostOut (s : State) (k code : Nat) : (s.stopSlot k code).hostOut = s.hostOut := rfl
@[simp] theorem State.stopSlot_ts (s : State) (k code : Nat) : (s.stopSlot k code).ts = s.ts := rfl
@[simp] theorem State.stopSlot_free (s : State) (k code : Nat) : (s.stopSlot k code).free = s.free := rfl
@[simp] theorem State.stopSlot_uid (s : State) (k code : Nat) : (s.stopSlot k code).uid = s.uid := rfl
@[simp] theorem State.stopSlot_agenda (s : State) (k code : Nat) : (s.stopSlot k code).agenda = s.agenda := rfl

/-! ### `giveBack` -/

@[simp] theorem State.giveBack_core (s : State) (gs : List Nat) : (s.giveBack gs).core = { s.core with freeGr := gs.foldl NatSet.ins s.core.freeGr } := rfl
@[simp] theorem State.giveBack_others (s : State) (gs : List Nat) : (s.giveBack gs).others = s.others := rfl
@[simp] theorem State.giveBack_mem (s : State) (gs : List Nat) : (s.giveBack gs).mem = s.mem := rfl
@[simp] theorem State.giveBack_memPoison (s : State) (gs : List Nat) : (s.giveBack gs).memPoison = s.memPoison := rfl
@[simp] theorem State.giveBack_fullSlots (s : State) (gs : List Nat) : (s.giveBack gs).fullSlots = s.fullSlots := rfl
@[simp] theorem State.giveBack_lines (s : State) (gs : List Nat) : (s.giveBack gs).lines = s.lines := rfl
@[simp] theorem State.giveBack_ripening (s : State) (gs : List Nat) : (s.giveBack gs).ripening = s.ripening := rfl
@[simp] theorem State.giveBack_forcedDoms (s : State) (gs : List Nat) : (s.giveBack gs).forcedDoms = s.forcedDoms := rfl
@[simp] theorem State.giveBack_armed (s : State) (gs : List Nat) : (s.giveBack gs).armed = s.armed := rfl
@[simp] theorem State.giveBack_reqs (s : State) (gs : List Nat) : (s.giveBack gs).reqs = s.reqs := rfl
@[simp] theorem State.giveBack_ldsWait (s : State) (gs : List Nat) : (s.giveBack gs).ldsWait = s.ldsWait := rfl
@[simp] theorem State.giveBack_parcels (s : State) (gs : List Nat) : (s.giveBack gs).parcels = s.parcels := rfl
@[simp] theorem State.giveBack_tlb (s : State) (gs : List Nat) : (s.giveBack gs).tlb = s.tlb := rfl
@[simp] theorem State.giveBack_tokens (s : State) (gs : List Nat) : (s.giveBack gs).tokens = s.tokens := rfl
@[simp] theorem State.giveBack_cellReqs (s : State) (gs : List Nat) : (s.giveBack gs).cellReqs = s.cellReqs := rfl
@[simp] theorem State.giveBack_counters (s : State) (gs : List Nat) : (s.giveBack gs).counters = s.counters := rfl
@[simp] theorem State.giveBack_barriers (s : State) (gs : List Nat) : (s.giveBack gs).barriers = s.barriers := rfl
@[simp] theorem State.giveBack_queues (s : State) (gs : List Nat) : (s.giveBack gs).queues = s.queues := rfl
@[simp] theorem State.giveBack_channels (s : State) (gs : List Nat) : (s.giveBack gs).channels = s.channels := rfl
@[simp] theorem State.giveBack_rowWrites (s : State) (gs : List Nat) : (s.giveBack gs).rowWrites = s.rowWrites := rfl
@[simp] theorem State.giveBack_kernels (s : State) (gs : List Nat) : (s.giveBack gs).kernels = s.kernels := rfl
@[simp] theorem State.giveBack_cohorts (s : State) (gs : List Nat) : (s.giveBack gs).cohorts = s.cohorts := rfl
@[simp] theorem State.giveBack_checks (s : State) (gs : List Nat) : (s.giveBack gs).checks = s.checks := rfl
@[simp] theorem State.giveBack_contexts (s : State) (gs : List Nat) : (s.giveBack gs).contexts = s.contexts := rfl
@[simp] theorem State.giveBack_partitions (s : State) (gs : List Nat) : (s.giveBack gs).partitions = s.partitions := rfl
@[simp] theorem State.giveBack_mgmt (s : State) (gs : List Nat) : (s.giveBack gs).mgmt = s.mgmt := rfl
@[simp] theorem State.giveBack_devWin (s : State) (gs : List Nat) : (s.giveBack gs).devWin = s.devWin := rfl
@[simp] theorem State.giveBack_mfqBase (s : State) (gs : List Nat) : (s.giveBack gs).mfqBase = s.mfqBase := rfl
@[simp] theorem State.giveBack_mfqLog (s : State) (gs : List Nat) : (s.giveBack gs).mfqLog = s.mfqLog := rfl
@[simp] theorem State.giveBack_mfqTail (s : State) (gs : List Nat) : (s.giveBack gs).mfqTail = s.mfqTail := rfl
@[simp] theorem State.giveBack_mfqLost (s : State) (gs : List Nat) : (s.giveBack gs).mfqLost = s.mfqLost := rfl
@[simp] theorem State.giveBack_mfqPending (s : State) (gs : List Nat) : (s.giveBack gs).mfqPending = s.mfqPending := rfl
@[simp] theorem State.giveBack_ports (s : State) (gs : List Nat) : (s.giveBack gs).ports = s.ports := rfl
@[simp] theorem State.giveBack_ethPorts (s : State) (gs : List Nat) : (s.giveBack gs).ethPorts = s.ethPorts := rfl
@[simp] theorem State.giveBack_tier2Owner (s : State) (gs : List Nat) : (s.giveBack gs).tier2Owner = s.tier2Owner := rfl
@[simp] theorem State.giveBack_tier2Held (s : State) (gs : List Nat) : (s.giveBack gs).tier2Held = s.tier2Held := rfl
@[simp] theorem State.giveBack_ramps (s : State) (gs : List Nat) : (s.giveBack gs).ramps = s.ramps := rfl
@[simp] theorem State.giveBack_patrols (s : State) (gs : List Nat) : (s.giveBack gs).patrols = s.patrols := rfl
@[simp] theorem State.giveBack_powerLog (s : State) (gs : List Nat) : (s.giveBack gs).powerLog = s.powerLog := rfl
@[simp] theorem State.giveBack_powerHeld (s : State) (gs : List Nat) : (s.giveBack gs).powerHeld = s.powerHeld := rfl
@[simp] theorem State.giveBack_mr (s : State) (gs : List Nat) : (s.giveBack gs).mr = s.mr := rfl
@[simp] theorem State.giveBack_boot (s : State) (gs : List Nat) : (s.giveBack gs).boot = s.boot := rfl
@[simp] theorem State.giveBack_recovered (s : State) (gs : List Nat) : (s.giveBack gs).recovered = s.recovered := rfl
@[simp] theorem State.giveBack_svn (s : State) (gs : List Nat) : (s.giveBack gs).svn = s.svn := rfl
@[simp] theorem State.giveBack_seed (s : State) (gs : List Nat) : (s.giveBack gs).seed = s.seed := rfl
@[simp] theorem State.giveBack_certificate (s : State) (gs : List Nat) : (s.giveBack gs).certificate = s.certificate := rfl
@[simp] theorem State.giveBack_identity (s : State) (gs : List Nat) : (s.giveBack gs).identity = s.identity := rfl
@[simp] theorem State.giveBack_kemCount (s : State) (gs : List Nat) : (s.giveBack gs).kemCount = s.kemCount := rfl
@[simp] theorem State.giveBack_trips (s : State) (gs : List Nat) : (s.giveBack gs).trips = s.trips := rfl
@[simp] theorem State.giveBack_tripsRead (s : State) (gs : List Nat) : (s.giveBack gs).tripsRead = s.tripsRead := rfl
@[simp] theorem State.giveBack_takes (s : State) (gs : List Nat) : (s.giveBack gs).takes = s.takes := rfl
@[simp] theorem State.giveBack_latches (s : State) (gs : List Nat) : (s.giveBack gs).latches = s.latches := rfl
@[simp] theorem State.giveBack_ethDropped (s : State) (gs : List Nat) : (s.giveBack gs).ethDropped = s.ethDropped := rfl
@[simp] theorem State.giveBack_hypShared (s : State) (gs : List Nat) : (s.giveBack gs).hypShared = s.hypShared := rfl
@[simp] theorem State.giveBack_absentCores (s : State) (gs : List Nat) : (s.giveBack gs).absentCores = s.absentCores := rfl
@[simp] theorem State.giveBack_absentChannels (s : State) (gs : List Nat) : (s.giveBack gs).absentChannels = s.absentChannels := rfl
@[simp] theorem State.giveBack_absentClusters (s : State) (gs : List Nat) : (s.giveBack gs).absentClusters = s.absentClusters := rfl
@[simp] theorem State.giveBack_absentPorts (s : State) (gs : List Nat) : (s.giveBack gs).absentPorts = s.absentPorts := rfl
@[simp] theorem State.giveBack_oneLane (s : State) (gs : List Nat) : (s.giveBack gs).oneLane = s.oneLane := rfl
@[simp] theorem State.giveBack_absentEth (s : State) (gs : List Nat) : (s.giveBack gs).absentEth = s.absentEth := rfl
@[simp] theorem State.giveBack_hostOut (s : State) (gs : List Nat) : (s.giveBack gs).hostOut = s.hostOut := rfl
@[simp] theorem State.giveBack_ts (s : State) (gs : List Nat) : (s.giveBack gs).ts = s.ts := rfl
@[simp] theorem State.giveBack_free (s : State) (gs : List Nat) : (s.giveBack gs).free = s.free := rfl
@[simp] theorem State.giveBack_uid (s : State) (gs : List Nat) : (s.giveBack gs).uid = s.uid := rfl
@[simp] theorem State.giveBack_agenda (s : State) (gs : List Nat) : (s.giveBack gs).agenda = s.agenda := rfl

/-! ### `dropCheck` -/

@[simp] theorem State.dropCheck_core (s : State) (uid : Nat) : (s.dropCheck uid).core = s.core := rfl
@[simp] theorem State.dropCheck_others (s : State) (uid : Nat) : (s.dropCheck uid).others = s.others := rfl
@[simp] theorem State.dropCheck_mem (s : State) (uid : Nat) : (s.dropCheck uid).mem = s.mem := rfl
@[simp] theorem State.dropCheck_memPoison (s : State) (uid : Nat) : (s.dropCheck uid).memPoison = s.memPoison := rfl
@[simp] theorem State.dropCheck_fullSlots (s : State) (uid : Nat) : (s.dropCheck uid).fullSlots = s.fullSlots := rfl
@[simp] theorem State.dropCheck_lines (s : State) (uid : Nat) : (s.dropCheck uid).lines = s.lines := rfl
@[simp] theorem State.dropCheck_ripening (s : State) (uid : Nat) : (s.dropCheck uid).ripening = s.ripening := rfl
@[simp] theorem State.dropCheck_forcedDoms (s : State) (uid : Nat) : (s.dropCheck uid).forcedDoms = s.forcedDoms := rfl
@[simp] theorem State.dropCheck_armed (s : State) (uid : Nat) : (s.dropCheck uid).armed = s.armed := rfl
@[simp] theorem State.dropCheck_reqs (s : State) (uid : Nat) : (s.dropCheck uid).reqs = s.reqs := rfl
@[simp] theorem State.dropCheck_ldsWait (s : State) (uid : Nat) : (s.dropCheck uid).ldsWait = s.ldsWait := rfl
@[simp] theorem State.dropCheck_parcels (s : State) (uid : Nat) : (s.dropCheck uid).parcels = s.parcels := rfl
@[simp] theorem State.dropCheck_tlb (s : State) (uid : Nat) : (s.dropCheck uid).tlb = s.tlb := rfl
@[simp] theorem State.dropCheck_tokens (s : State) (uid : Nat) : (s.dropCheck uid).tokens = s.tokens := rfl
@[simp] theorem State.dropCheck_cellReqs (s : State) (uid : Nat) : (s.dropCheck uid).cellReqs = s.cellReqs := rfl
@[simp] theorem State.dropCheck_counters (s : State) (uid : Nat) : (s.dropCheck uid).counters = s.counters := rfl
@[simp] theorem State.dropCheck_barriers (s : State) (uid : Nat) : (s.dropCheck uid).barriers = s.barriers := rfl
@[simp] theorem State.dropCheck_queues (s : State) (uid : Nat) : (s.dropCheck uid).queues = s.queues := rfl
@[simp] theorem State.dropCheck_channels (s : State) (uid : Nat) : (s.dropCheck uid).channels = s.channels := rfl
@[simp] theorem State.dropCheck_rowWrites (s : State) (uid : Nat) : (s.dropCheck uid).rowWrites = s.rowWrites := rfl
@[simp] theorem State.dropCheck_kernels (s : State) (uid : Nat) : (s.dropCheck uid).kernels = s.kernels := rfl
@[simp] theorem State.dropCheck_cohorts (s : State) (uid : Nat) : (s.dropCheck uid).cohorts = s.cohorts := rfl
@[simp] theorem State.dropCheck_checks (s : State) (uid : Nat) : (s.dropCheck uid).checks = s.checks.filter (fun k => k.uid != uid) := rfl
@[simp] theorem State.dropCheck_contexts (s : State) (uid : Nat) : (s.dropCheck uid).contexts = s.contexts := rfl
@[simp] theorem State.dropCheck_partitions (s : State) (uid : Nat) : (s.dropCheck uid).partitions = s.partitions := rfl
@[simp] theorem State.dropCheck_mgmt (s : State) (uid : Nat) : (s.dropCheck uid).mgmt = s.mgmt := rfl
@[simp] theorem State.dropCheck_devWin (s : State) (uid : Nat) : (s.dropCheck uid).devWin = s.devWin := rfl
@[simp] theorem State.dropCheck_mfqBase (s : State) (uid : Nat) : (s.dropCheck uid).mfqBase = s.mfqBase := rfl
@[simp] theorem State.dropCheck_mfqLog (s : State) (uid : Nat) : (s.dropCheck uid).mfqLog = s.mfqLog := rfl
@[simp] theorem State.dropCheck_mfqTail (s : State) (uid : Nat) : (s.dropCheck uid).mfqTail = s.mfqTail := rfl
@[simp] theorem State.dropCheck_mfqLost (s : State) (uid : Nat) : (s.dropCheck uid).mfqLost = s.mfqLost := rfl
@[simp] theorem State.dropCheck_mfqPending (s : State) (uid : Nat) : (s.dropCheck uid).mfqPending = s.mfqPending := rfl
@[simp] theorem State.dropCheck_ports (s : State) (uid : Nat) : (s.dropCheck uid).ports = s.ports := rfl
@[simp] theorem State.dropCheck_ethPorts (s : State) (uid : Nat) : (s.dropCheck uid).ethPorts = s.ethPorts := rfl
@[simp] theorem State.dropCheck_tier2Owner (s : State) (uid : Nat) : (s.dropCheck uid).tier2Owner = s.tier2Owner := rfl
@[simp] theorem State.dropCheck_tier2Held (s : State) (uid : Nat) : (s.dropCheck uid).tier2Held = s.tier2Held := rfl
@[simp] theorem State.dropCheck_ramps (s : State) (uid : Nat) : (s.dropCheck uid).ramps = s.ramps := rfl
@[simp] theorem State.dropCheck_patrols (s : State) (uid : Nat) : (s.dropCheck uid).patrols = s.patrols := rfl
@[simp] theorem State.dropCheck_powerLog (s : State) (uid : Nat) : (s.dropCheck uid).powerLog = s.powerLog := rfl
@[simp] theorem State.dropCheck_powerHeld (s : State) (uid : Nat) : (s.dropCheck uid).powerHeld = s.powerHeld := rfl
@[simp] theorem State.dropCheck_mr (s : State) (uid : Nat) : (s.dropCheck uid).mr = s.mr := rfl
@[simp] theorem State.dropCheck_boot (s : State) (uid : Nat) : (s.dropCheck uid).boot = s.boot := rfl
@[simp] theorem State.dropCheck_recovered (s : State) (uid : Nat) : (s.dropCheck uid).recovered = s.recovered := rfl
@[simp] theorem State.dropCheck_svn (s : State) (uid : Nat) : (s.dropCheck uid).svn = s.svn := rfl
@[simp] theorem State.dropCheck_seed (s : State) (uid : Nat) : (s.dropCheck uid).seed = s.seed := rfl
@[simp] theorem State.dropCheck_certificate (s : State) (uid : Nat) : (s.dropCheck uid).certificate = s.certificate := rfl
@[simp] theorem State.dropCheck_identity (s : State) (uid : Nat) : (s.dropCheck uid).identity = s.identity := rfl
@[simp] theorem State.dropCheck_kemCount (s : State) (uid : Nat) : (s.dropCheck uid).kemCount = s.kemCount := rfl
@[simp] theorem State.dropCheck_trips (s : State) (uid : Nat) : (s.dropCheck uid).trips = s.trips := rfl
@[simp] theorem State.dropCheck_tripsRead (s : State) (uid : Nat) : (s.dropCheck uid).tripsRead = s.tripsRead := rfl
@[simp] theorem State.dropCheck_takes (s : State) (uid : Nat) : (s.dropCheck uid).takes = s.takes := rfl
@[simp] theorem State.dropCheck_latches (s : State) (uid : Nat) : (s.dropCheck uid).latches = s.latches := rfl
@[simp] theorem State.dropCheck_ethDropped (s : State) (uid : Nat) : (s.dropCheck uid).ethDropped = s.ethDropped := rfl
@[simp] theorem State.dropCheck_hypShared (s : State) (uid : Nat) : (s.dropCheck uid).hypShared = s.hypShared := rfl
@[simp] theorem State.dropCheck_absentCores (s : State) (uid : Nat) : (s.dropCheck uid).absentCores = s.absentCores := rfl
@[simp] theorem State.dropCheck_absentChannels (s : State) (uid : Nat) : (s.dropCheck uid).absentChannels = s.absentChannels := rfl
@[simp] theorem State.dropCheck_absentClusters (s : State) (uid : Nat) : (s.dropCheck uid).absentClusters = s.absentClusters := rfl
@[simp] theorem State.dropCheck_absentPorts (s : State) (uid : Nat) : (s.dropCheck uid).absentPorts = s.absentPorts := rfl
@[simp] theorem State.dropCheck_oneLane (s : State) (uid : Nat) : (s.dropCheck uid).oneLane = s.oneLane := rfl
@[simp] theorem State.dropCheck_absentEth (s : State) (uid : Nat) : (s.dropCheck uid).absentEth = s.absentEth := rfl
@[simp] theorem State.dropCheck_hostOut (s : State) (uid : Nat) : (s.dropCheck uid).hostOut = s.hostOut := rfl
@[simp] theorem State.dropCheck_ts (s : State) (uid : Nat) : (s.dropCheck uid).ts = s.ts := rfl
@[simp] theorem State.dropCheck_free (s : State) (uid : Nat) : (s.dropCheck uid).free = s.free := rfl
@[simp] theorem State.dropCheck_uid (s : State) (uid : Nat) : (s.dropCheck uid).uid = s.uid := rfl
@[simp] theorem State.dropCheck_agenda (s : State) (uid : Nat) : (s.dropCheck uid).agenda = s.agenda := rfl

/-! ### `modCheck` -/

@[simp] theorem State.modCheck_core (s : State) (uid : Nat) (f : Check → Check) : (s.modCheck uid f).core = s.core := rfl
@[simp] theorem State.modCheck_others (s : State) (uid : Nat) (f : Check → Check) : (s.modCheck uid f).others = s.others := rfl
@[simp] theorem State.modCheck_mem (s : State) (uid : Nat) (f : Check → Check) : (s.modCheck uid f).mem = s.mem := rfl
@[simp] theorem State.modCheck_memPoison (s : State) (uid : Nat) (f : Check → Check) : (s.modCheck uid f).memPoison = s.memPoison := rfl
@[simp] theorem State.modCheck_fullSlots (s : State) (uid : Nat) (f : Check → Check) : (s.modCheck uid f).fullSlots = s.fullSlots := rfl
@[simp] theorem State.modCheck_lines (s : State) (uid : Nat) (f : Check → Check) : (s.modCheck uid f).lines = s.lines := rfl
@[simp] theorem State.modCheck_ripening (s : State) (uid : Nat) (f : Check → Check) : (s.modCheck uid f).ripening = s.ripening := rfl
@[simp] theorem State.modCheck_forcedDoms (s : State) (uid : Nat) (f : Check → Check) : (s.modCheck uid f).forcedDoms = s.forcedDoms := rfl
@[simp] theorem State.modCheck_armed (s : State) (uid : Nat) (f : Check → Check) : (s.modCheck uid f).armed = s.armed := rfl
@[simp] theorem State.modCheck_reqs (s : State) (uid : Nat) (f : Check → Check) : (s.modCheck uid f).reqs = s.reqs := rfl
@[simp] theorem State.modCheck_ldsWait (s : State) (uid : Nat) (f : Check → Check) : (s.modCheck uid f).ldsWait = s.ldsWait := rfl
@[simp] theorem State.modCheck_parcels (s : State) (uid : Nat) (f : Check → Check) : (s.modCheck uid f).parcels = s.parcels := rfl
@[simp] theorem State.modCheck_tlb (s : State) (uid : Nat) (f : Check → Check) : (s.modCheck uid f).tlb = s.tlb := rfl
@[simp] theorem State.modCheck_tokens (s : State) (uid : Nat) (f : Check → Check) : (s.modCheck uid f).tokens = s.tokens := rfl
@[simp] theorem State.modCheck_cellReqs (s : State) (uid : Nat) (f : Check → Check) : (s.modCheck uid f).cellReqs = s.cellReqs := rfl
@[simp] theorem State.modCheck_counters (s : State) (uid : Nat) (f : Check → Check) : (s.modCheck uid f).counters = s.counters := rfl
@[simp] theorem State.modCheck_barriers (s : State) (uid : Nat) (f : Check → Check) : (s.modCheck uid f).barriers = s.barriers := rfl
@[simp] theorem State.modCheck_queues (s : State) (uid : Nat) (f : Check → Check) : (s.modCheck uid f).queues = s.queues := rfl
@[simp] theorem State.modCheck_channels (s : State) (uid : Nat) (f : Check → Check) : (s.modCheck uid f).channels = s.channels := rfl
@[simp] theorem State.modCheck_rowWrites (s : State) (uid : Nat) (f : Check → Check) : (s.modCheck uid f).rowWrites = s.rowWrites := rfl
@[simp] theorem State.modCheck_kernels (s : State) (uid : Nat) (f : Check → Check) : (s.modCheck uid f).kernels = s.kernels := rfl
@[simp] theorem State.modCheck_cohorts (s : State) (uid : Nat) (f : Check → Check) : (s.modCheck uid f).cohorts = s.cohorts := rfl
@[simp] theorem State.modCheck_checks (s : State) (uid : Nat) (f : Check → Check) : (s.modCheck uid f).checks = updFirst (fun k => k.uid == uid) f s.checks := rfl
@[simp] theorem State.modCheck_contexts (s : State) (uid : Nat) (f : Check → Check) : (s.modCheck uid f).contexts = s.contexts := rfl
@[simp] theorem State.modCheck_partitions (s : State) (uid : Nat) (f : Check → Check) : (s.modCheck uid f).partitions = s.partitions := rfl
@[simp] theorem State.modCheck_mgmt (s : State) (uid : Nat) (f : Check → Check) : (s.modCheck uid f).mgmt = s.mgmt := rfl
@[simp] theorem State.modCheck_devWin (s : State) (uid : Nat) (f : Check → Check) : (s.modCheck uid f).devWin = s.devWin := rfl
@[simp] theorem State.modCheck_mfqBase (s : State) (uid : Nat) (f : Check → Check) : (s.modCheck uid f).mfqBase = s.mfqBase := rfl
@[simp] theorem State.modCheck_mfqLog (s : State) (uid : Nat) (f : Check → Check) : (s.modCheck uid f).mfqLog = s.mfqLog := rfl
@[simp] theorem State.modCheck_mfqTail (s : State) (uid : Nat) (f : Check → Check) : (s.modCheck uid f).mfqTail = s.mfqTail := rfl
@[simp] theorem State.modCheck_mfqLost (s : State) (uid : Nat) (f : Check → Check) : (s.modCheck uid f).mfqLost = s.mfqLost := rfl
@[simp] theorem State.modCheck_mfqPending (s : State) (uid : Nat) (f : Check → Check) : (s.modCheck uid f).mfqPending = s.mfqPending := rfl
@[simp] theorem State.modCheck_ports (s : State) (uid : Nat) (f : Check → Check) : (s.modCheck uid f).ports = s.ports := rfl
@[simp] theorem State.modCheck_ethPorts (s : State) (uid : Nat) (f : Check → Check) : (s.modCheck uid f).ethPorts = s.ethPorts := rfl
@[simp] theorem State.modCheck_tier2Owner (s : State) (uid : Nat) (f : Check → Check) : (s.modCheck uid f).tier2Owner = s.tier2Owner := rfl
@[simp] theorem State.modCheck_tier2Held (s : State) (uid : Nat) (f : Check → Check) : (s.modCheck uid f).tier2Held = s.tier2Held := rfl
@[simp] theorem State.modCheck_ramps (s : State) (uid : Nat) (f : Check → Check) : (s.modCheck uid f).ramps = s.ramps := rfl
@[simp] theorem State.modCheck_patrols (s : State) (uid : Nat) (f : Check → Check) : (s.modCheck uid f).patrols = s.patrols := rfl
@[simp] theorem State.modCheck_powerLog (s : State) (uid : Nat) (f : Check → Check) : (s.modCheck uid f).powerLog = s.powerLog := rfl
@[simp] theorem State.modCheck_powerHeld (s : State) (uid : Nat) (f : Check → Check) : (s.modCheck uid f).powerHeld = s.powerHeld := rfl
@[simp] theorem State.modCheck_mr (s : State) (uid : Nat) (f : Check → Check) : (s.modCheck uid f).mr = s.mr := rfl
@[simp] theorem State.modCheck_boot (s : State) (uid : Nat) (f : Check → Check) : (s.modCheck uid f).boot = s.boot := rfl
@[simp] theorem State.modCheck_recovered (s : State) (uid : Nat) (f : Check → Check) : (s.modCheck uid f).recovered = s.recovered := rfl
@[simp] theorem State.modCheck_svn (s : State) (uid : Nat) (f : Check → Check) : (s.modCheck uid f).svn = s.svn := rfl
@[simp] theorem State.modCheck_seed (s : State) (uid : Nat) (f : Check → Check) : (s.modCheck uid f).seed = s.seed := rfl
@[simp] theorem State.modCheck_certificate (s : State) (uid : Nat) (f : Check → Check) : (s.modCheck uid f).certificate = s.certificate := rfl
@[simp] theorem State.modCheck_identity (s : State) (uid : Nat) (f : Check → Check) : (s.modCheck uid f).identity = s.identity := rfl
@[simp] theorem State.modCheck_kemCount (s : State) (uid : Nat) (f : Check → Check) : (s.modCheck uid f).kemCount = s.kemCount := rfl
@[simp] theorem State.modCheck_trips (s : State) (uid : Nat) (f : Check → Check) : (s.modCheck uid f).trips = s.trips := rfl
@[simp] theorem State.modCheck_tripsRead (s : State) (uid : Nat) (f : Check → Check) : (s.modCheck uid f).tripsRead = s.tripsRead := rfl
@[simp] theorem State.modCheck_takes (s : State) (uid : Nat) (f : Check → Check) : (s.modCheck uid f).takes = s.takes := rfl
@[simp] theorem State.modCheck_latches (s : State) (uid : Nat) (f : Check → Check) : (s.modCheck uid f).latches = s.latches := rfl
@[simp] theorem State.modCheck_ethDropped (s : State) (uid : Nat) (f : Check → Check) : (s.modCheck uid f).ethDropped = s.ethDropped := rfl
@[simp] theorem State.modCheck_hypShared (s : State) (uid : Nat) (f : Check → Check) : (s.modCheck uid f).hypShared = s.hypShared := rfl
@[simp] theorem State.modCheck_absentCores (s : State) (uid : Nat) (f : Check → Check) : (s.modCheck uid f).absentCores = s.absentCores := rfl
@[simp] theorem State.modCheck_absentChannels (s : State) (uid : Nat) (f : Check → Check) : (s.modCheck uid f).absentChannels = s.absentChannels := rfl
@[simp] theorem State.modCheck_absentClusters (s : State) (uid : Nat) (f : Check → Check) : (s.modCheck uid f).absentClusters = s.absentClusters := rfl
@[simp] theorem State.modCheck_absentPorts (s : State) (uid : Nat) (f : Check → Check) : (s.modCheck uid f).absentPorts = s.absentPorts := rfl
@[simp] theorem State.modCheck_oneLane (s : State) (uid : Nat) (f : Check → Check) : (s.modCheck uid f).oneLane = s.oneLane := rfl
@[simp] theorem State.modCheck_absentEth (s : State) (uid : Nat) (f : Check → Check) : (s.modCheck uid f).absentEth = s.absentEth := rfl
@[simp] theorem State.modCheck_hostOut (s : State) (uid : Nat) (f : Check → Check) : (s.modCheck uid f).hostOut = s.hostOut := rfl
@[simp] theorem State.modCheck_ts (s : State) (uid : Nat) (f : Check → Check) : (s.modCheck uid f).ts = s.ts := rfl
@[simp] theorem State.modCheck_free (s : State) (uid : Nat) (f : Check → Check) : (s.modCheck uid f).free = s.free := rfl
@[simp] theorem State.modCheck_uid (s : State) (uid : Nat) (f : Check → Check) : (s.modCheck uid f).uid = s.uid := rfl
@[simp] theorem State.modCheck_agenda (s : State) (uid : Nat) (f : Check → Check) : (s.modCheck uid f).agenda = s.agenda := rfl

/-! ### `modCtx` -/

@[simp] theorem State.modCtx_core (s : State) (id : Nat) (f : Context → Context) : (s.modCtx id f).core = s.core := rfl
@[simp] theorem State.modCtx_others (s : State) (id : Nat) (f : Context → Context) : (s.modCtx id f).others = s.others := rfl
@[simp] theorem State.modCtx_mem (s : State) (id : Nat) (f : Context → Context) : (s.modCtx id f).mem = s.mem := rfl
@[simp] theorem State.modCtx_memPoison (s : State) (id : Nat) (f : Context → Context) : (s.modCtx id f).memPoison = s.memPoison := rfl
@[simp] theorem State.modCtx_fullSlots (s : State) (id : Nat) (f : Context → Context) : (s.modCtx id f).fullSlots = s.fullSlots := rfl
@[simp] theorem State.modCtx_lines (s : State) (id : Nat) (f : Context → Context) : (s.modCtx id f).lines = s.lines := rfl
@[simp] theorem State.modCtx_ripening (s : State) (id : Nat) (f : Context → Context) : (s.modCtx id f).ripening = s.ripening := rfl
@[simp] theorem State.modCtx_forcedDoms (s : State) (id : Nat) (f : Context → Context) : (s.modCtx id f).forcedDoms = s.forcedDoms := rfl
@[simp] theorem State.modCtx_armed (s : State) (id : Nat) (f : Context → Context) : (s.modCtx id f).armed = s.armed := rfl
@[simp] theorem State.modCtx_reqs (s : State) (id : Nat) (f : Context → Context) : (s.modCtx id f).reqs = s.reqs := rfl
@[simp] theorem State.modCtx_ldsWait (s : State) (id : Nat) (f : Context → Context) : (s.modCtx id f).ldsWait = s.ldsWait := rfl
@[simp] theorem State.modCtx_parcels (s : State) (id : Nat) (f : Context → Context) : (s.modCtx id f).parcels = s.parcels := rfl
@[simp] theorem State.modCtx_tlb (s : State) (id : Nat) (f : Context → Context) : (s.modCtx id f).tlb = s.tlb := rfl
@[simp] theorem State.modCtx_tokens (s : State) (id : Nat) (f : Context → Context) : (s.modCtx id f).tokens = s.tokens := rfl
@[simp] theorem State.modCtx_cellReqs (s : State) (id : Nat) (f : Context → Context) : (s.modCtx id f).cellReqs = s.cellReqs := rfl
@[simp] theorem State.modCtx_counters (s : State) (id : Nat) (f : Context → Context) : (s.modCtx id f).counters = s.counters := rfl
@[simp] theorem State.modCtx_barriers (s : State) (id : Nat) (f : Context → Context) : (s.modCtx id f).barriers = s.barriers := rfl
@[simp] theorem State.modCtx_queues (s : State) (id : Nat) (f : Context → Context) : (s.modCtx id f).queues = s.queues := rfl
@[simp] theorem State.modCtx_channels (s : State) (id : Nat) (f : Context → Context) : (s.modCtx id f).channels = s.channels := rfl
@[simp] theorem State.modCtx_rowWrites (s : State) (id : Nat) (f : Context → Context) : (s.modCtx id f).rowWrites = s.rowWrites := rfl
@[simp] theorem State.modCtx_kernels (s : State) (id : Nat) (f : Context → Context) : (s.modCtx id f).kernels = s.kernels := rfl
@[simp] theorem State.modCtx_cohorts (s : State) (id : Nat) (f : Context → Context) : (s.modCtx id f).cohorts = s.cohorts := rfl
@[simp] theorem State.modCtx_checks (s : State) (id : Nat) (f : Context → Context) : (s.modCtx id f).checks = s.checks := rfl
@[simp] theorem State.modCtx_contexts (s : State) (id : Nat) (f : Context → Context) : (s.modCtx id f).contexts = updFirst (fun c => c.id == id) f s.contexts := rfl
@[simp] theorem State.modCtx_partitions (s : State) (id : Nat) (f : Context → Context) : (s.modCtx id f).partitions = s.partitions := rfl
@[simp] theorem State.modCtx_mgmt (s : State) (id : Nat) (f : Context → Context) : (s.modCtx id f).mgmt = s.mgmt := rfl
@[simp] theorem State.modCtx_devWin (s : State) (id : Nat) (f : Context → Context) : (s.modCtx id f).devWin = s.devWin := rfl
@[simp] theorem State.modCtx_mfqBase (s : State) (id : Nat) (f : Context → Context) : (s.modCtx id f).mfqBase = s.mfqBase := rfl
@[simp] theorem State.modCtx_mfqLog (s : State) (id : Nat) (f : Context → Context) : (s.modCtx id f).mfqLog = s.mfqLog := rfl
@[simp] theorem State.modCtx_mfqTail (s : State) (id : Nat) (f : Context → Context) : (s.modCtx id f).mfqTail = s.mfqTail := rfl
@[simp] theorem State.modCtx_mfqLost (s : State) (id : Nat) (f : Context → Context) : (s.modCtx id f).mfqLost = s.mfqLost := rfl
@[simp] theorem State.modCtx_mfqPending (s : State) (id : Nat) (f : Context → Context) : (s.modCtx id f).mfqPending = s.mfqPending := rfl
@[simp] theorem State.modCtx_ports (s : State) (id : Nat) (f : Context → Context) : (s.modCtx id f).ports = s.ports := rfl
@[simp] theorem State.modCtx_ethPorts (s : State) (id : Nat) (f : Context → Context) : (s.modCtx id f).ethPorts = s.ethPorts := rfl
@[simp] theorem State.modCtx_tier2Owner (s : State) (id : Nat) (f : Context → Context) : (s.modCtx id f).tier2Owner = s.tier2Owner := rfl
@[simp] theorem State.modCtx_tier2Held (s : State) (id : Nat) (f : Context → Context) : (s.modCtx id f).tier2Held = s.tier2Held := rfl
@[simp] theorem State.modCtx_ramps (s : State) (id : Nat) (f : Context → Context) : (s.modCtx id f).ramps = s.ramps := rfl
@[simp] theorem State.modCtx_patrols (s : State) (id : Nat) (f : Context → Context) : (s.modCtx id f).patrols = s.patrols := rfl
@[simp] theorem State.modCtx_powerLog (s : State) (id : Nat) (f : Context → Context) : (s.modCtx id f).powerLog = s.powerLog := rfl
@[simp] theorem State.modCtx_powerHeld (s : State) (id : Nat) (f : Context → Context) : (s.modCtx id f).powerHeld = s.powerHeld := rfl
@[simp] theorem State.modCtx_mr (s : State) (id : Nat) (f : Context → Context) : (s.modCtx id f).mr = s.mr := rfl
@[simp] theorem State.modCtx_boot (s : State) (id : Nat) (f : Context → Context) : (s.modCtx id f).boot = s.boot := rfl
@[simp] theorem State.modCtx_recovered (s : State) (id : Nat) (f : Context → Context) : (s.modCtx id f).recovered = s.recovered := rfl
@[simp] theorem State.modCtx_svn (s : State) (id : Nat) (f : Context → Context) : (s.modCtx id f).svn = s.svn := rfl
@[simp] theorem State.modCtx_seed (s : State) (id : Nat) (f : Context → Context) : (s.modCtx id f).seed = s.seed := rfl
@[simp] theorem State.modCtx_certificate (s : State) (id : Nat) (f : Context → Context) : (s.modCtx id f).certificate = s.certificate := rfl
@[simp] theorem State.modCtx_identity (s : State) (id : Nat) (f : Context → Context) : (s.modCtx id f).identity = s.identity := rfl
@[simp] theorem State.modCtx_kemCount (s : State) (id : Nat) (f : Context → Context) : (s.modCtx id f).kemCount = s.kemCount := rfl
@[simp] theorem State.modCtx_trips (s : State) (id : Nat) (f : Context → Context) : (s.modCtx id f).trips = s.trips := rfl
@[simp] theorem State.modCtx_tripsRead (s : State) (id : Nat) (f : Context → Context) : (s.modCtx id f).tripsRead = s.tripsRead := rfl
@[simp] theorem State.modCtx_takes (s : State) (id : Nat) (f : Context → Context) : (s.modCtx id f).takes = s.takes := rfl
@[simp] theorem State.modCtx_latches (s : State) (id : Nat) (f : Context → Context) : (s.modCtx id f).latches = s.latches := rfl
@[simp] theorem State.modCtx_ethDropped (s : State) (id : Nat) (f : Context → Context) : (s.modCtx id f).ethDropped = s.ethDropped := rfl
@[simp] theorem State.modCtx_hypShared (s : State) (id : Nat) (f : Context → Context) : (s.modCtx id f).hypShared = s.hypShared := rfl
@[simp] theorem State.modCtx_absentCores (s : State) (id : Nat) (f : Context → Context) : (s.modCtx id f).absentCores = s.absentCores := rfl
@[simp] theorem State.modCtx_absentChannels (s : State) (id : Nat) (f : Context → Context) : (s.modCtx id f).absentChannels = s.absentChannels := rfl
@[simp] theorem State.modCtx_absentClusters (s : State) (id : Nat) (f : Context → Context) : (s.modCtx id f).absentClusters = s.absentClusters := rfl
@[simp] theorem State.modCtx_absentPorts (s : State) (id : Nat) (f : Context → Context) : (s.modCtx id f).absentPorts = s.absentPorts := rfl
@[simp] theorem State.modCtx_oneLane (s : State) (id : Nat) (f : Context → Context) : (s.modCtx id f).oneLane = s.oneLane := rfl
@[simp] theorem State.modCtx_absentEth (s : State) (id : Nat) (f : Context → Context) : (s.modCtx id f).absentEth = s.absentEth := rfl
@[simp] theorem State.modCtx_hostOut (s : State) (id : Nat) (f : Context → Context) : (s.modCtx id f).hostOut = s.hostOut := rfl
@[simp] theorem State.modCtx_ts (s : State) (id : Nat) (f : Context → Context) : (s.modCtx id f).ts = s.ts := rfl
@[simp] theorem State.modCtx_free (s : State) (id : Nat) (f : Context → Context) : (s.modCtx id f).free = s.free := rfl
@[simp] theorem State.modCtx_uid (s : State) (id : Nat) (f : Context → Context) : (s.modCtx id f).uid = s.uid := rfl
@[simp] theorem State.modCtx_agenda (s : State) (id : Nat) (f : Context → Context) : (s.modCtx id f).agenda = s.agenda := rfl

/-! ### `modPart` -/

@[simp] theorem State.modPart_core (s : State) (p : Nat) (f : Partition → Partition) : (s.modPart p f).core = s.core := rfl
@[simp] theorem State.modPart_others (s : State) (p : Nat) (f : Partition → Partition) : (s.modPart p f).others = s.others := rfl
@[simp] theorem State.modPart_mem (s : State) (p : Nat) (f : Partition → Partition) : (s.modPart p f).mem = s.mem := rfl
@[simp] theorem State.modPart_memPoison (s : State) (p : Nat) (f : Partition → Partition) : (s.modPart p f).memPoison = s.memPoison := rfl
@[simp] theorem State.modPart_fullSlots (s : State) (p : Nat) (f : Partition → Partition) : (s.modPart p f).fullSlots = s.fullSlots := rfl
@[simp] theorem State.modPart_lines (s : State) (p : Nat) (f : Partition → Partition) : (s.modPart p f).lines = s.lines := rfl
@[simp] theorem State.modPart_ripening (s : State) (p : Nat) (f : Partition → Partition) : (s.modPart p f).ripening = s.ripening := rfl
@[simp] theorem State.modPart_forcedDoms (s : State) (p : Nat) (f : Partition → Partition) : (s.modPart p f).forcedDoms = s.forcedDoms := rfl
@[simp] theorem State.modPart_armed (s : State) (p : Nat) (f : Partition → Partition) : (s.modPart p f).armed = s.armed := rfl
@[simp] theorem State.modPart_reqs (s : State) (p : Nat) (f : Partition → Partition) : (s.modPart p f).reqs = s.reqs := rfl
@[simp] theorem State.modPart_ldsWait (s : State) (p : Nat) (f : Partition → Partition) : (s.modPart p f).ldsWait = s.ldsWait := rfl
@[simp] theorem State.modPart_parcels (s : State) (p : Nat) (f : Partition → Partition) : (s.modPart p f).parcels = s.parcels := rfl
@[simp] theorem State.modPart_tlb (s : State) (p : Nat) (f : Partition → Partition) : (s.modPart p f).tlb = s.tlb := rfl
@[simp] theorem State.modPart_tokens (s : State) (p : Nat) (f : Partition → Partition) : (s.modPart p f).tokens = s.tokens := rfl
@[simp] theorem State.modPart_cellReqs (s : State) (p : Nat) (f : Partition → Partition) : (s.modPart p f).cellReqs = s.cellReqs := rfl
@[simp] theorem State.modPart_counters (s : State) (p : Nat) (f : Partition → Partition) : (s.modPart p f).counters = s.counters := rfl
@[simp] theorem State.modPart_barriers (s : State) (p : Nat) (f : Partition → Partition) : (s.modPart p f).barriers = s.barriers := rfl
@[simp] theorem State.modPart_queues (s : State) (p : Nat) (f : Partition → Partition) : (s.modPart p f).queues = s.queues := rfl
@[simp] theorem State.modPart_channels (s : State) (p : Nat) (f : Partition → Partition) : (s.modPart p f).channels = s.channels := rfl
@[simp] theorem State.modPart_rowWrites (s : State) (p : Nat) (f : Partition → Partition) : (s.modPart p f).rowWrites = s.rowWrites := rfl
@[simp] theorem State.modPart_kernels (s : State) (p : Nat) (f : Partition → Partition) : (s.modPart p f).kernels = s.kernels := rfl
@[simp] theorem State.modPart_cohorts (s : State) (p : Nat) (f : Partition → Partition) : (s.modPart p f).cohorts = s.cohorts := rfl
@[simp] theorem State.modPart_checks (s : State) (p : Nat) (f : Partition → Partition) : (s.modPart p f).checks = s.checks := rfl
@[simp] theorem State.modPart_contexts (s : State) (p : Nat) (f : Partition → Partition) : (s.modPart p f).contexts = s.contexts := rfl
@[simp] theorem State.modPart_partitions (s : State) (p : Nat) (f : Partition → Partition) : (s.modPart p f).partitions = modifyAt f s.partitions p := rfl
@[simp] theorem State.modPart_mgmt (s : State) (p : Nat) (f : Partition → Partition) : (s.modPart p f).mgmt = s.mgmt := rfl
@[simp] theorem State.modPart_devWin (s : State) (p : Nat) (f : Partition → Partition) : (s.modPart p f).devWin = s.devWin := rfl
@[simp] theorem State.modPart_mfqBase (s : State) (p : Nat) (f : Partition → Partition) : (s.modPart p f).mfqBase = s.mfqBase := rfl
@[simp] theorem State.modPart_mfqLog (s : State) (p : Nat) (f : Partition → Partition) : (s.modPart p f).mfqLog = s.mfqLog := rfl
@[simp] theorem State.modPart_mfqTail (s : State) (p : Nat) (f : Partition → Partition) : (s.modPart p f).mfqTail = s.mfqTail := rfl
@[simp] theorem State.modPart_mfqLost (s : State) (p : Nat) (f : Partition → Partition) : (s.modPart p f).mfqLost = s.mfqLost := rfl
@[simp] theorem State.modPart_mfqPending (s : State) (p : Nat) (f : Partition → Partition) : (s.modPart p f).mfqPending = s.mfqPending := rfl
@[simp] theorem State.modPart_ports (s : State) (p : Nat) (f : Partition → Partition) : (s.modPart p f).ports = s.ports := rfl
@[simp] theorem State.modPart_ethPorts (s : State) (p : Nat) (f : Partition → Partition) : (s.modPart p f).ethPorts = s.ethPorts := rfl
@[simp] theorem State.modPart_tier2Owner (s : State) (p : Nat) (f : Partition → Partition) : (s.modPart p f).tier2Owner = s.tier2Owner := rfl
@[simp] theorem State.modPart_tier2Held (s : State) (p : Nat) (f : Partition → Partition) : (s.modPart p f).tier2Held = s.tier2Held := rfl
@[simp] theorem State.modPart_ramps (s : State) (p : Nat) (f : Partition → Partition) : (s.modPart p f).ramps = s.ramps := rfl
@[simp] theorem State.modPart_patrols (s : State) (p : Nat) (f : Partition → Partition) : (s.modPart p f).patrols = s.patrols := rfl
@[simp] theorem State.modPart_powerLog (s : State) (p : Nat) (f : Partition → Partition) : (s.modPart p f).powerLog = s.powerLog := rfl
@[simp] theorem State.modPart_powerHeld (s : State) (p : Nat) (f : Partition → Partition) : (s.modPart p f).powerHeld = s.powerHeld := rfl
@[simp] theorem State.modPart_mr (s : State) (p : Nat) (f : Partition → Partition) : (s.modPart p f).mr = s.mr := rfl
@[simp] theorem State.modPart_boot (s : State) (p : Nat) (f : Partition → Partition) : (s.modPart p f).boot = s.boot := rfl
@[simp] theorem State.modPart_recovered (s : State) (p : Nat) (f : Partition → Partition) : (s.modPart p f).recovered = s.recovered := rfl
@[simp] theorem State.modPart_svn (s : State) (p : Nat) (f : Partition → Partition) : (s.modPart p f).svn = s.svn := rfl
@[simp] theorem State.modPart_seed (s : State) (p : Nat) (f : Partition → Partition) : (s.modPart p f).seed = s.seed := rfl
@[simp] theorem State.modPart_certificate (s : State) (p : Nat) (f : Partition → Partition) : (s.modPart p f).certificate = s.certificate := rfl
@[simp] theorem State.modPart_identity (s : State) (p : Nat) (f : Partition → Partition) : (s.modPart p f).identity = s.identity := rfl
@[simp] theorem State.modPart_kemCount (s : State) (p : Nat) (f : Partition → Partition) : (s.modPart p f).kemCount = s.kemCount := rfl
@[simp] theorem State.modPart_trips (s : State) (p : Nat) (f : Partition → Partition) : (s.modPart p f).trips = s.trips := rfl
@[simp] theorem State.modPart_tripsRead (s : State) (p : Nat) (f : Partition → Partition) : (s.modPart p f).tripsRead = s.tripsRead := rfl
@[simp] theorem State.modPart_takes (s : State) (p : Nat) (f : Partition → Partition) : (s.modPart p f).takes = s.takes := rfl
@[simp] theorem State.modPart_latches (s : State) (p : Nat) (f : Partition → Partition) : (s.modPart p f).latches = s.latches := rfl
@[simp] theorem State.modPart_ethDropped (s : State) (p : Nat) (f : Partition → Partition) : (s.modPart p f).ethDropped = s.ethDropped := rfl
@[simp] theorem State.modPart_hypShared (s : State) (p : Nat) (f : Partition → Partition) : (s.modPart p f).hypShared = s.hypShared := rfl
@[simp] theorem State.modPart_absentCores (s : State) (p : Nat) (f : Partition → Partition) : (s.modPart p f).absentCores = s.absentCores := rfl
@[simp] theorem State.modPart_absentChannels (s : State) (p : Nat) (f : Partition → Partition) : (s.modPart p f).absentChannels = s.absentChannels := rfl
@[simp] theorem State.modPart_absentClusters (s : State) (p : Nat) (f : Partition → Partition) : (s.modPart p f).absentClusters = s.absentClusters := rfl
@[simp] theorem State.modPart_absentPorts (s : State) (p : Nat) (f : Partition → Partition) : (s.modPart p f).absentPorts = s.absentPorts := rfl
@[simp] theorem State.modPart_oneLane (s : State) (p : Nat) (f : Partition → Partition) : (s.modPart p f).oneLane = s.oneLane := rfl
@[simp] theorem State.modPart_absentEth (s : State) (p : Nat) (f : Partition → Partition) : (s.modPart p f).absentEth = s.absentEth := rfl
@[simp] theorem State.modPart_hostOut (s : State) (p : Nat) (f : Partition → Partition) : (s.modPart p f).hostOut = s.hostOut := rfl
@[simp] theorem State.modPart_ts (s : State) (p : Nat) (f : Partition → Partition) : (s.modPart p f).ts = s.ts := rfl
@[simp] theorem State.modPart_free (s : State) (p : Nat) (f : Partition → Partition) : (s.modPart p f).free = s.free := rfl
@[simp] theorem State.modPart_uid (s : State) (p : Nat) (f : Partition → Partition) : (s.modPart p f).uid = s.uid := rfl
@[simp] theorem State.modPart_agenda (s : State) (p : Nat) (f : Partition → Partition) : (s.modPart p f).agenda = s.agenda := rfl

/-! ### `modCounter` -/

@[simp] theorem State.modCounter_core (s : State) (ctx handle : Nat) (f : Counter → Counter) : (s.modCounter ctx handle f).core = s.core := rfl
@[simp] theorem State.modCounter_others (s : State) (ctx handle : Nat) (f : Counter → Counter) : (s.modCounter ctx handle f).others = s.others := rfl
@[simp] theorem State.modCounter_mem (s : State) (ctx handle : Nat) (f : Counter → Counter) : (s.modCounter ctx handle f).mem = s.mem := rfl
@[simp] theorem State.modCounter_memPoison (s : State) (ctx handle : Nat) (f : Counter → Counter) : (s.modCounter ctx handle f).memPoison = s.memPoison := rfl
@[simp] theorem State.modCounter_fullSlots (s : State) (ctx handle : Nat) (f : Counter → Counter) : (s.modCounter ctx handle f).fullSlots = s.fullSlots := rfl
@[simp] theorem State.modCounter_lines (s : State) (ctx handle : Nat) (f : Counter → Counter) : (s.modCounter ctx handle f).lines = s.lines := rfl
@[simp] theorem State.modCounter_ripening (s : State) (ctx handle : Nat) (f : Counter → Counter) : (s.modCounter ctx handle f).ripening = s.ripening := rfl
@[simp] theorem State.modCounter_forcedDoms (s : State) (ctx handle : Nat) (f : Counter → Counter) : (s.modCounter ctx handle f).forcedDoms = s.forcedDoms := rfl
@[simp] theorem State.modCounter_armed (s : State) (ctx handle : Nat) (f : Counter → Counter) : (s.modCounter ctx handle f).armed = s.armed := rfl
@[simp] theorem State.modCounter_reqs (s : State) (ctx handle : Nat) (f : Counter → Counter) : (s.modCounter ctx handle f).reqs = s.reqs := rfl
@[simp] theorem State.modCounter_ldsWait (s : State) (ctx handle : Nat) (f : Counter → Counter) : (s.modCounter ctx handle f).ldsWait = s.ldsWait := rfl
@[simp] theorem State.modCounter_parcels (s : State) (ctx handle : Nat) (f : Counter → Counter) : (s.modCounter ctx handle f).parcels = s.parcels := rfl
@[simp] theorem State.modCounter_tlb (s : State) (ctx handle : Nat) (f : Counter → Counter) : (s.modCounter ctx handle f).tlb = s.tlb := rfl
@[simp] theorem State.modCounter_tokens (s : State) (ctx handle : Nat) (f : Counter → Counter) : (s.modCounter ctx handle f).tokens = s.tokens := rfl
@[simp] theorem State.modCounter_cellReqs (s : State) (ctx handle : Nat) (f : Counter → Counter) : (s.modCounter ctx handle f).cellReqs = s.cellReqs := rfl
@[simp] theorem State.modCounter_counters (s : State) (ctx handle : Nat) (f : Counter → Counter) : (s.modCounter ctx handle f).counters = updFirst (·.is ctx handle) f s.counters := rfl
@[simp] theorem State.modCounter_barriers (s : State) (ctx handle : Nat) (f : Counter → Counter) : (s.modCounter ctx handle f).barriers = s.barriers := rfl
@[simp] theorem State.modCounter_queues (s : State) (ctx handle : Nat) (f : Counter → Counter) : (s.modCounter ctx handle f).queues = s.queues := rfl
@[simp] theorem State.modCounter_channels (s : State) (ctx handle : Nat) (f : Counter → Counter) : (s.modCounter ctx handle f).channels = s.channels := rfl
@[simp] theorem State.modCounter_rowWrites (s : State) (ctx handle : Nat) (f : Counter → Counter) : (s.modCounter ctx handle f).rowWrites = s.rowWrites := rfl
@[simp] theorem State.modCounter_kernels (s : State) (ctx handle : Nat) (f : Counter → Counter) : (s.modCounter ctx handle f).kernels = s.kernels := rfl
@[simp] theorem State.modCounter_cohorts (s : State) (ctx handle : Nat) (f : Counter → Counter) : (s.modCounter ctx handle f).cohorts = s.cohorts := rfl
@[simp] theorem State.modCounter_checks (s : State) (ctx handle : Nat) (f : Counter → Counter) : (s.modCounter ctx handle f).checks = s.checks := rfl
@[simp] theorem State.modCounter_contexts (s : State) (ctx handle : Nat) (f : Counter → Counter) : (s.modCounter ctx handle f).contexts = s.contexts := rfl
@[simp] theorem State.modCounter_partitions (s : State) (ctx handle : Nat) (f : Counter → Counter) : (s.modCounter ctx handle f).partitions = s.partitions := rfl
@[simp] theorem State.modCounter_mgmt (s : State) (ctx handle : Nat) (f : Counter → Counter) : (s.modCounter ctx handle f).mgmt = s.mgmt := rfl
@[simp] theorem State.modCounter_devWin (s : State) (ctx handle : Nat) (f : Counter → Counter) : (s.modCounter ctx handle f).devWin = s.devWin := rfl
@[simp] theorem State.modCounter_mfqBase (s : State) (ctx handle : Nat) (f : Counter → Counter) : (s.modCounter ctx handle f).mfqBase = s.mfqBase := rfl
@[simp] theorem State.modCounter_mfqLog (s : State) (ctx handle : Nat) (f : Counter → Counter) : (s.modCounter ctx handle f).mfqLog = s.mfqLog := rfl
@[simp] theorem State.modCounter_mfqTail (s : State) (ctx handle : Nat) (f : Counter → Counter) : (s.modCounter ctx handle f).mfqTail = s.mfqTail := rfl
@[simp] theorem State.modCounter_mfqLost (s : State) (ctx handle : Nat) (f : Counter → Counter) : (s.modCounter ctx handle f).mfqLost = s.mfqLost := rfl
@[simp] theorem State.modCounter_mfqPending (s : State) (ctx handle : Nat) (f : Counter → Counter) : (s.modCounter ctx handle f).mfqPending = s.mfqPending := rfl
@[simp] theorem State.modCounter_ports (s : State) (ctx handle : Nat) (f : Counter → Counter) : (s.modCounter ctx handle f).ports = s.ports := rfl
@[simp] theorem State.modCounter_ethPorts (s : State) (ctx handle : Nat) (f : Counter → Counter) : (s.modCounter ctx handle f).ethPorts = s.ethPorts := rfl
@[simp] theorem State.modCounter_tier2Owner (s : State) (ctx handle : Nat) (f : Counter → Counter) : (s.modCounter ctx handle f).tier2Owner = s.tier2Owner := rfl
@[simp] theorem State.modCounter_tier2Held (s : State) (ctx handle : Nat) (f : Counter → Counter) : (s.modCounter ctx handle f).tier2Held = s.tier2Held := rfl
@[simp] theorem State.modCounter_ramps (s : State) (ctx handle : Nat) (f : Counter → Counter) : (s.modCounter ctx handle f).ramps = s.ramps := rfl
@[simp] theorem State.modCounter_patrols (s : State) (ctx handle : Nat) (f : Counter → Counter) : (s.modCounter ctx handle f).patrols = s.patrols := rfl
@[simp] theorem State.modCounter_powerLog (s : State) (ctx handle : Nat) (f : Counter → Counter) : (s.modCounter ctx handle f).powerLog = s.powerLog := rfl
@[simp] theorem State.modCounter_powerHeld (s : State) (ctx handle : Nat) (f : Counter → Counter) : (s.modCounter ctx handle f).powerHeld = s.powerHeld := rfl
@[simp] theorem State.modCounter_mr (s : State) (ctx handle : Nat) (f : Counter → Counter) : (s.modCounter ctx handle f).mr = s.mr := rfl
@[simp] theorem State.modCounter_boot (s : State) (ctx handle : Nat) (f : Counter → Counter) : (s.modCounter ctx handle f).boot = s.boot := rfl
@[simp] theorem State.modCounter_recovered (s : State) (ctx handle : Nat) (f : Counter → Counter) : (s.modCounter ctx handle f).recovered = s.recovered := rfl
@[simp] theorem State.modCounter_svn (s : State) (ctx handle : Nat) (f : Counter → Counter) : (s.modCounter ctx handle f).svn = s.svn := rfl
@[simp] theorem State.modCounter_seed (s : State) (ctx handle : Nat) (f : Counter → Counter) : (s.modCounter ctx handle f).seed = s.seed := rfl
@[simp] theorem State.modCounter_certificate (s : State) (ctx handle : Nat) (f : Counter → Counter) : (s.modCounter ctx handle f).certificate = s.certificate := rfl
@[simp] theorem State.modCounter_identity (s : State) (ctx handle : Nat) (f : Counter → Counter) : (s.modCounter ctx handle f).identity = s.identity := rfl
@[simp] theorem State.modCounter_kemCount (s : State) (ctx handle : Nat) (f : Counter → Counter) : (s.modCounter ctx handle f).kemCount = s.kemCount := rfl
@[simp] theorem State.modCounter_trips (s : State) (ctx handle : Nat) (f : Counter → Counter) : (s.modCounter ctx handle f).trips = s.trips := rfl
@[simp] theorem State.modCounter_tripsRead (s : State) (ctx handle : Nat) (f : Counter → Counter) : (s.modCounter ctx handle f).tripsRead = s.tripsRead := rfl
@[simp] theorem State.modCounter_takes (s : State) (ctx handle : Nat) (f : Counter → Counter) : (s.modCounter ctx handle f).takes = s.takes := rfl
@[simp] theorem State.modCounter_latches (s : State) (ctx handle : Nat) (f : Counter → Counter) : (s.modCounter ctx handle f).latches = s.latches := rfl
@[simp] theorem State.modCounter_ethDropped (s : State) (ctx handle : Nat) (f : Counter → Counter) : (s.modCounter ctx handle f).ethDropped = s.ethDropped := rfl
@[simp] theorem State.modCounter_hypShared (s : State) (ctx handle : Nat) (f : Counter → Counter) : (s.modCounter ctx handle f).hypShared = s.hypShared := rfl
@[simp] theorem State.modCounter_absentCores (s : State) (ctx handle : Nat) (f : Counter → Counter) : (s.modCounter ctx handle f).absentCores = s.absentCores := rfl
@[simp] theorem State.modCounter_absentChannels (s : State) (ctx handle : Nat) (f : Counter → Counter) : (s.modCounter ctx handle f).absentChannels = s.absentChannels := rfl
@[simp] theorem State.modCounter_absentClusters (s : State) (ctx handle : Nat) (f : Counter → Counter) : (s.modCounter ctx handle f).absentClusters = s.absentClusters := rfl
@[simp] theorem State.modCounter_absentPorts (s : State) (ctx handle : Nat) (f : Counter → Counter) : (s.modCounter ctx handle f).absentPorts = s.absentPorts := rfl
@[simp] theorem State.modCounter_oneLane (s : State) (ctx handle : Nat) (f : Counter → Counter) : (s.modCounter ctx handle f).oneLane = s.oneLane := rfl
@[simp] theorem State.modCounter_absentEth (s : State) (ctx handle : Nat) (f : Counter → Counter) : (s.modCounter ctx handle f).absentEth = s.absentEth := rfl
@[simp] theorem State.modCounter_hostOut (s : State) (ctx handle : Nat) (f : Counter → Counter) : (s.modCounter ctx handle f).hostOut = s.hostOut := rfl
@[simp] theorem State.modCounter_ts (s : State) (ctx handle : Nat) (f : Counter → Counter) : (s.modCounter ctx handle f).ts = s.ts := rfl
@[simp] theorem State.modCounter_free (s : State) (ctx handle : Nat) (f : Counter → Counter) : (s.modCounter ctx handle f).free = s.free := rfl
@[simp] theorem State.modCounter_uid (s : State) (ctx handle : Nat) (f : Counter → Counter) : (s.modCounter ctx handle f).uid = s.uid := rfl
@[simp] theorem State.modCounter_agenda (s : State) (ctx handle : Nat) (f : Counter → Counter) : (s.modCounter ctx handle f).agenda = s.agenda := rfl

/-! ### `modBarrier` -/

@[simp] theorem State.modBarrier_core (s : State) (ctx : Nat) (id : BarId) (f : Barrier → Barrier) : (s.modBarrier ctx id f).core = s.core := rfl
@[simp] theorem State.modBarrier_others (s : State) (ctx : Nat) (id : BarId) (f : Barrier → Barrier) : (s.modBarrier ctx id f).others = s.others := rfl
@[simp] theorem State.modBarrier_mem (s : State) (ctx : Nat) (id : BarId) (f : Barrier → Barrier) : (s.modBarrier ctx id f).mem = s.mem := rfl
@[simp] theorem State.modBarrier_memPoison (s : State) (ctx : Nat) (id : BarId) (f : Barrier → Barrier) : (s.modBarrier ctx id f).memPoison = s.memPoison := rfl
@[simp] theorem State.modBarrier_fullSlots (s : State) (ctx : Nat) (id : BarId) (f : Barrier → Barrier) : (s.modBarrier ctx id f).fullSlots = s.fullSlots := rfl
@[simp] theorem State.modBarrier_lines (s : State) (ctx : Nat) (id : BarId) (f : Barrier → Barrier) : (s.modBarrier ctx id f).lines = s.lines := rfl
@[simp] theorem State.modBarrier_ripening (s : State) (ctx : Nat) (id : BarId) (f : Barrier → Barrier) : (s.modBarrier ctx id f).ripening = s.ripening := rfl
@[simp] theorem State.modBarrier_forcedDoms (s : State) (ctx : Nat) (id : BarId) (f : Barrier → Barrier) : (s.modBarrier ctx id f).forcedDoms = s.forcedDoms := rfl
@[simp] theorem State.modBarrier_armed (s : State) (ctx : Nat) (id : BarId) (f : Barrier → Barrier) : (s.modBarrier ctx id f).armed = s.armed := rfl
@[simp] theorem State.modBarrier_reqs (s : State) (ctx : Nat) (id : BarId) (f : Barrier → Barrier) : (s.modBarrier ctx id f).reqs = s.reqs := rfl
@[simp] theorem State.modBarrier_ldsWait (s : State) (ctx : Nat) (id : BarId) (f : Barrier → Barrier) : (s.modBarrier ctx id f).ldsWait = s.ldsWait := rfl
@[simp] theorem State.modBarrier_parcels (s : State) (ctx : Nat) (id : BarId) (f : Barrier → Barrier) : (s.modBarrier ctx id f).parcels = s.parcels := rfl
@[simp] theorem State.modBarrier_tlb (s : State) (ctx : Nat) (id : BarId) (f : Barrier → Barrier) : (s.modBarrier ctx id f).tlb = s.tlb := rfl
@[simp] theorem State.modBarrier_tokens (s : State) (ctx : Nat) (id : BarId) (f : Barrier → Barrier) : (s.modBarrier ctx id f).tokens = s.tokens := rfl
@[simp] theorem State.modBarrier_cellReqs (s : State) (ctx : Nat) (id : BarId) (f : Barrier → Barrier) : (s.modBarrier ctx id f).cellReqs = s.cellReqs := rfl
@[simp] theorem State.modBarrier_counters (s : State) (ctx : Nat) (id : BarId) (f : Barrier → Barrier) : (s.modBarrier ctx id f).counters = s.counters := rfl
@[simp] theorem State.modBarrier_barriers (s : State) (ctx : Nat) (id : BarId) (f : Barrier → Barrier) : (s.modBarrier ctx id f).barriers = updFirst (·.is ctx id) f s.barriers := rfl
@[simp] theorem State.modBarrier_queues (s : State) (ctx : Nat) (id : BarId) (f : Barrier → Barrier) : (s.modBarrier ctx id f).queues = s.queues := rfl
@[simp] theorem State.modBarrier_channels (s : State) (ctx : Nat) (id : BarId) (f : Barrier → Barrier) : (s.modBarrier ctx id f).channels = s.channels := rfl
@[simp] theorem State.modBarrier_rowWrites (s : State) (ctx : Nat) (id : BarId) (f : Barrier → Barrier) : (s.modBarrier ctx id f).rowWrites = s.rowWrites := rfl
@[simp] theorem State.modBarrier_kernels (s : State) (ctx : Nat) (id : BarId) (f : Barrier → Barrier) : (s.modBarrier ctx id f).kernels = s.kernels := rfl
@[simp] theorem State.modBarrier_cohorts (s : State) (ctx : Nat) (id : BarId) (f : Barrier → Barrier) : (s.modBarrier ctx id f).cohorts = s.cohorts := rfl
@[simp] theorem State.modBarrier_checks (s : State) (ctx : Nat) (id : BarId) (f : Barrier → Barrier) : (s.modBarrier ctx id f).checks = s.checks := rfl
@[simp] theorem State.modBarrier_contexts (s : State) (ctx : Nat) (id : BarId) (f : Barrier → Barrier) : (s.modBarrier ctx id f).contexts = s.contexts := rfl
@[simp] theorem State.modBarrier_partitions (s : State) (ctx : Nat) (id : BarId) (f : Barrier → Barrier) : (s.modBarrier ctx id f).partitions = s.partitions := rfl
@[simp] theorem State.modBarrier_mgmt (s : State) (ctx : Nat) (id : BarId) (f : Barrier → Barrier) : (s.modBarrier ctx id f).mgmt = s.mgmt := rfl
@[simp] theorem State.modBarrier_devWin (s : State) (ctx : Nat) (id : BarId) (f : Barrier → Barrier) : (s.modBarrier ctx id f).devWin = s.devWin := rfl
@[simp] theorem State.modBarrier_mfqBase (s : State) (ctx : Nat) (id : BarId) (f : Barrier → Barrier) : (s.modBarrier ctx id f).mfqBase = s.mfqBase := rfl
@[simp] theorem State.modBarrier_mfqLog (s : State) (ctx : Nat) (id : BarId) (f : Barrier → Barrier) : (s.modBarrier ctx id f).mfqLog = s.mfqLog := rfl
@[simp] theorem State.modBarrier_mfqTail (s : State) (ctx : Nat) (id : BarId) (f : Barrier → Barrier) : (s.modBarrier ctx id f).mfqTail = s.mfqTail := rfl
@[simp] theorem State.modBarrier_mfqLost (s : State) (ctx : Nat) (id : BarId) (f : Barrier → Barrier) : (s.modBarrier ctx id f).mfqLost = s.mfqLost := rfl
@[simp] theorem State.modBarrier_mfqPending (s : State) (ctx : Nat) (id : BarId) (f : Barrier → Barrier) : (s.modBarrier ctx id f).mfqPending = s.mfqPending := rfl
@[simp] theorem State.modBarrier_ports (s : State) (ctx : Nat) (id : BarId) (f : Barrier → Barrier) : (s.modBarrier ctx id f).ports = s.ports := rfl
@[simp] theorem State.modBarrier_ethPorts (s : State) (ctx : Nat) (id : BarId) (f : Barrier → Barrier) : (s.modBarrier ctx id f).ethPorts = s.ethPorts := rfl
@[simp] theorem State.modBarrier_tier2Owner (s : State) (ctx : Nat) (id : BarId) (f : Barrier → Barrier) : (s.modBarrier ctx id f).tier2Owner = s.tier2Owner := rfl
@[simp] theorem State.modBarrier_tier2Held (s : State) (ctx : Nat) (id : BarId) (f : Barrier → Barrier) : (s.modBarrier ctx id f).tier2Held = s.tier2Held := rfl
@[simp] theorem State.modBarrier_ramps (s : State) (ctx : Nat) (id : BarId) (f : Barrier → Barrier) : (s.modBarrier ctx id f).ramps = s.ramps := rfl
@[simp] theorem State.modBarrier_patrols (s : State) (ctx : Nat) (id : BarId) (f : Barrier → Barrier) : (s.modBarrier ctx id f).patrols = s.patrols := rfl
@[simp] theorem State.modBarrier_powerLog (s : State) (ctx : Nat) (id : BarId) (f : Barrier → Barrier) : (s.modBarrier ctx id f).powerLog = s.powerLog := rfl
@[simp] theorem State.modBarrier_powerHeld (s : State) (ctx : Nat) (id : BarId) (f : Barrier → Barrier) : (s.modBarrier ctx id f).powerHeld = s.powerHeld := rfl
@[simp] theorem State.modBarrier_mr (s : State) (ctx : Nat) (id : BarId) (f : Barrier → Barrier) : (s.modBarrier ctx id f).mr = s.mr := rfl
@[simp] theorem State.modBarrier_boot (s : State) (ctx : Nat) (id : BarId) (f : Barrier → Barrier) : (s.modBarrier ctx id f).boot = s.boot := rfl
@[simp] theorem State.modBarrier_recovered (s : State) (ctx : Nat) (id : BarId) (f : Barrier → Barrier) : (s.modBarrier ctx id f).recovered = s.recovered := rfl
@[simp] theorem State.modBarrier_svn (s : State) (ctx : Nat) (id : BarId) (f : Barrier → Barrier) : (s.modBarrier ctx id f).svn = s.svn := rfl
@[simp] theorem State.modBarrier_seed (s : State) (ctx : Nat) (id : BarId) (f : Barrier → Barrier) : (s.modBarrier ctx id f).seed = s.seed := rfl
@[simp] theorem State.modBarrier_certificate (s : State) (ctx : Nat) (id : BarId) (f : Barrier → Barrier) : (s.modBarrier ctx id f).certificate = s.certificate := rfl
@[simp] theorem State.modBarrier_identity (s : State) (ctx : Nat) (id : BarId) (f : Barrier → Barrier) : (s.modBarrier ctx id f).identity = s.identity := rfl
@[simp] theorem State.modBarrier_kemCount (s : State) (ctx : Nat) (id : BarId) (f : Barrier → Barrier) : (s.modBarrier ctx id f).kemCount = s.kemCount := rfl
@[simp] theorem State.modBarrier_trips (s : State) (ctx : Nat) (id : BarId) (f : Barrier → Barrier) : (s.modBarrier ctx id f).trips = s.trips := rfl
@[simp] theorem State.modBarrier_tripsRead (s : State) (ctx : Nat) (id : BarId) (f : Barrier → Barrier) : (s.modBarrier ctx id f).tripsRead = s.tripsRead := rfl
@[simp] theorem State.modBarrier_takes (s : State) (ctx : Nat) (id : BarId) (f : Barrier → Barrier) : (s.modBarrier ctx id f).takes = s.takes := rfl
@[simp] theorem State.modBarrier_latches (s : State) (ctx : Nat) (id : BarId) (f : Barrier → Barrier) : (s.modBarrier ctx id f).latches = s.latches := rfl
@[simp] theorem State.modBarrier_ethDropped (s : State) (ctx : Nat) (id : BarId) (f : Barrier → Barrier) : (s.modBarrier ctx id f).ethDropped = s.ethDropped := rfl
@[simp] theorem State.modBarrier_hypShared (s : State) (ctx : Nat) (id : BarId) (f : Barrier → Barrier) : (s.modBarrier ctx id f).hypShared = s.hypShared := rfl
@[simp] theorem State.modBarrier_absentCores (s : State) (ctx : Nat) (id : BarId) (f : Barrier → Barrier) : (s.modBarrier ctx id f).absentCores = s.absentCores := rfl
@[simp] theorem State.modBarrier_absentChannels (s : State) (ctx : Nat) (id : BarId) (f : Barrier → Barrier) : (s.modBarrier ctx id f).absentChannels = s.absentChannels := rfl
@[simp] theorem State.modBarrier_absentClusters (s : State) (ctx : Nat) (id : BarId) (f : Barrier → Barrier) : (s.modBarrier ctx id f).absentClusters = s.absentClusters := rfl
@[simp] theorem State.modBarrier_absentPorts (s : State) (ctx : Nat) (id : BarId) (f : Barrier → Barrier) : (s.modBarrier ctx id f).absentPorts = s.absentPorts := rfl
@[simp] theorem State.modBarrier_oneLane (s : State) (ctx : Nat) (id : BarId) (f : Barrier → Barrier) : (s.modBarrier ctx id f).oneLane = s.oneLane := rfl
@[simp] theorem State.modBarrier_absentEth (s : State) (ctx : Nat) (id : BarId) (f : Barrier → Barrier) : (s.modBarrier ctx id f).absentEth = s.absentEth := rfl
@[simp] theorem State.modBarrier_hostOut (s : State) (ctx : Nat) (id : BarId) (f : Barrier → Barrier) : (s.modBarrier ctx id f).hostOut = s.hostOut := rfl
@[simp] theorem State.modBarrier_ts (s : State) (ctx : Nat) (id : BarId) (f : Barrier → Barrier) : (s.modBarrier ctx id f).ts = s.ts := rfl
@[simp] theorem State.modBarrier_free (s : State) (ctx : Nat) (id : BarId) (f : Barrier → Barrier) : (s.modBarrier ctx id f).free = s.free := rfl
@[simp] theorem State.modBarrier_uid (s : State) (ctx : Nat) (id : BarId) (f : Barrier → Barrier) : (s.modBarrier ctx id f).uid = s.uid := rfl
@[simp] theorem State.modBarrier_agenda (s : State) (ctx : Nat) (id : BarId) (f : Barrier → Barrier) : (s.modBarrier ctx id f).agenda = s.agenda := rfl

/-! ### `modKernel` -/

@[simp] theorem State.modKernel_core (s : State) (ctx kid : Nat) (f : Kernel → Kernel) : (s.modKernel ctx kid f).core = s.core := rfl
@[simp] theorem State.modKernel_others (s : State) (ctx kid : Nat) (f : Kernel → Kernel) : (s.modKernel ctx kid f).others = s.others := rfl
@[simp] theorem State.modKernel_mem (s : State) (ctx kid : Nat) (f : Kernel → Kernel) : (s.modKernel ctx kid f).mem = s.mem := rfl
@[simp] theorem State.modKernel_memPoison (s : State) (ctx kid : Nat) (f : Kernel → Kernel) : (s.modKernel ctx kid f).memPoison = s.memPoison := rfl
@[simp] theorem State.modKernel_fullSlots (s : State) (ctx kid : Nat) (f : Kernel → Kernel) : (s.modKernel ctx kid f).fullSlots = s.fullSlots := rfl
@[simp] theorem State.modKernel_lines (s : State) (ctx kid : Nat) (f : Kernel → Kernel) : (s.modKernel ctx kid f).lines = s.lines := rfl
@[simp] theorem State.modKernel_ripening (s : State) (ctx kid : Nat) (f : Kernel → Kernel) : (s.modKernel ctx kid f).ripening = s.ripening := rfl
@[simp] theorem State.modKernel_forcedDoms (s : State) (ctx kid : Nat) (f : Kernel → Kernel) : (s.modKernel ctx kid f).forcedDoms = s.forcedDoms := rfl
@[simp] theorem State.modKernel_armed (s : State) (ctx kid : Nat) (f : Kernel → Kernel) : (s.modKernel ctx kid f).armed = s.armed := rfl
@[simp] theorem State.modKernel_reqs (s : State) (ctx kid : Nat) (f : Kernel → Kernel) : (s.modKernel ctx kid f).reqs = s.reqs := rfl
@[simp] theorem State.modKernel_ldsWait (s : State) (ctx kid : Nat) (f : Kernel → Kernel) : (s.modKernel ctx kid f).ldsWait = s.ldsWait := rfl
@[simp] theorem State.modKernel_parcels (s : State) (ctx kid : Nat) (f : Kernel → Kernel) : (s.modKernel ctx kid f).parcels = s.parcels := rfl
@[simp] theorem State.modKernel_tlb (s : State) (ctx kid : Nat) (f : Kernel → Kernel) : (s.modKernel ctx kid f).tlb = s.tlb := rfl
@[simp] theorem State.modKernel_tokens (s : State) (ctx kid : Nat) (f : Kernel → Kernel) : (s.modKernel ctx kid f).tokens = s.tokens := rfl
@[simp] theorem State.modKernel_cellReqs (s : State) (ctx kid : Nat) (f : Kernel → Kernel) : (s.modKernel ctx kid f).cellReqs = s.cellReqs := rfl
@[simp] theorem State.modKernel_counters (s : State) (ctx kid : Nat) (f : Kernel → Kernel) : (s.modKernel ctx kid f).counters = s.counters := rfl
@[simp] theorem State.modKernel_barriers (s : State) (ctx kid : Nat) (f : Kernel → Kernel) : (s.modKernel ctx kid f).barriers = s.barriers := rfl
@[simp] theorem State.modKernel_queues (s : State) (ctx kid : Nat) (f : Kernel → Kernel) : (s.modKernel ctx kid f).queues = s.queues := rfl
@[simp] theorem State.modKernel_channels (s : State) (ctx kid : Nat) (f : Kernel → Kernel) : (s.modKernel ctx kid f).channels = s.channels := rfl
@[simp] theorem State.modKernel_rowWrites (s : State) (ctx kid : Nat) (f : Kernel → Kernel) : (s.modKernel ctx kid f).rowWrites = s.rowWrites := rfl
@[simp] theorem State.modKernel_kernels (s : State) (ctx kid : Nat) (f : Kernel → Kernel) : (s.modKernel ctx kid f).kernels = updFirst (fun k => k.ctx == ctx && k.kid.toNat == kid) f s.kernels := rfl
@[simp] theorem State.modKernel_cohorts (s : State) (ctx kid : Nat) (f : Kernel → Kernel) : (s.modKernel ctx kid f).cohorts = s.cohorts := rfl
@[simp] theorem State.modKernel_checks (s : State) (ctx kid : Nat) (f : Kernel → Kernel) : (s.modKernel ctx kid f).checks = s.checks := rfl
@[simp] theorem State.modKernel_contexts (s : State) (ctx kid : Nat) (f : Kernel → Kernel) : (s.modKernel ctx kid f).contexts = s.contexts := rfl
@[simp] theorem State.modKernel_partitions (s : State) (ctx kid : Nat) (f : Kernel → Kernel) : (s.modKernel ctx kid f).partitions = s.partitions := rfl
@[simp] theorem State.modKernel_mgmt (s : State) (ctx kid : Nat) (f : Kernel → Kernel) : (s.modKernel ctx kid f).mgmt = s.mgmt := rfl
@[simp] theorem State.modKernel_devWin (s : State) (ctx kid : Nat) (f : Kernel → Kernel) : (s.modKernel ctx kid f).devWin = s.devWin := rfl
@[simp] theorem State.modKernel_mfqBase (s : State) (ctx kid : Nat) (f : Kernel → Kernel) : (s.modKernel ctx kid f).mfqBase = s.mfqBase := rfl
@[simp] theorem State.modKernel_mfqLog (s : State) (ctx kid : Nat) (f : Kernel → Kernel) : (s.modKernel ctx kid f).mfqLog = s.mfqLog := rfl
@[simp] theorem State.modKernel_mfqTail (s : State) (ctx kid : Nat) (f : Kernel → Kernel) : (s.modKernel ctx kid f).mfqTail = s.mfqTail := rfl
@[simp] theorem State.modKernel_mfqLost (s : State) (ctx kid : Nat) (f : Kernel → Kernel) : (s.modKernel ctx kid f).mfqLost = s.mfqLost := rfl
@[simp] theorem State.modKernel_mfqPending (s : State) (ctx kid : Nat) (f : Kernel → Kernel) : (s.modKernel ctx kid f).mfqPending = s.mfqPending := rfl
@[simp] theorem State.modKernel_ports (s : State) (ctx kid : Nat) (f : Kernel → Kernel) : (s.modKernel ctx kid f).ports = s.ports := rfl
@[simp] theorem State.modKernel_ethPorts (s : State) (ctx kid : Nat) (f : Kernel → Kernel) : (s.modKernel ctx kid f).ethPorts = s.ethPorts := rfl
@[simp] theorem State.modKernel_tier2Owner (s : State) (ctx kid : Nat) (f : Kernel → Kernel) : (s.modKernel ctx kid f).tier2Owner = s.tier2Owner := rfl
@[simp] theorem State.modKernel_tier2Held (s : State) (ctx kid : Nat) (f : Kernel → Kernel) : (s.modKernel ctx kid f).tier2Held = s.tier2Held := rfl
@[simp] theorem State.modKernel_ramps (s : State) (ctx kid : Nat) (f : Kernel → Kernel) : (s.modKernel ctx kid f).ramps = s.ramps := rfl
@[simp] theorem State.modKernel_patrols (s : State) (ctx kid : Nat) (f : Kernel → Kernel) : (s.modKernel ctx kid f).patrols = s.patrols := rfl
@[simp] theorem State.modKernel_powerLog (s : State) (ctx kid : Nat) (f : Kernel → Kernel) : (s.modKernel ctx kid f).powerLog = s.powerLog := rfl
@[simp] theorem State.modKernel_powerHeld (s : State) (ctx kid : Nat) (f : Kernel → Kernel) : (s.modKernel ctx kid f).powerHeld = s.powerHeld := rfl
@[simp] theorem State.modKernel_mr (s : State) (ctx kid : Nat) (f : Kernel → Kernel) : (s.modKernel ctx kid f).mr = s.mr := rfl
@[simp] theorem State.modKernel_boot (s : State) (ctx kid : Nat) (f : Kernel → Kernel) : (s.modKernel ctx kid f).boot = s.boot := rfl
@[simp] theorem State.modKernel_recovered (s : State) (ctx kid : Nat) (f : Kernel → Kernel) : (s.modKernel ctx kid f).recovered = s.recovered := rfl
@[simp] theorem State.modKernel_svn (s : State) (ctx kid : Nat) (f : Kernel → Kernel) : (s.modKernel ctx kid f).svn = s.svn := rfl
@[simp] theorem State.modKernel_seed (s : State) (ctx kid : Nat) (f : Kernel → Kernel) : (s.modKernel ctx kid f).seed = s.seed := rfl
@[simp] theorem State.modKernel_certificate (s : State) (ctx kid : Nat) (f : Kernel → Kernel) : (s.modKernel ctx kid f).certificate = s.certificate := rfl
@[simp] theorem State.modKernel_identity (s : State) (ctx kid : Nat) (f : Kernel → Kernel) : (s.modKernel ctx kid f).identity = s.identity := rfl
@[simp] theorem State.modKernel_kemCount (s : State) (ctx kid : Nat) (f : Kernel → Kernel) : (s.modKernel ctx kid f).kemCount = s.kemCount := rfl
@[simp] theorem State.modKernel_trips (s : State) (ctx kid : Nat) (f : Kernel → Kernel) : (s.modKernel ctx kid f).trips = s.trips := rfl
@[simp] theorem State.modKernel_tripsRead (s : State) (ctx kid : Nat) (f : Kernel → Kernel) : (s.modKernel ctx kid f).tripsRead = s.tripsRead := rfl
@[simp] theorem State.modKernel_takes (s : State) (ctx kid : Nat) (f : Kernel → Kernel) : (s.modKernel ctx kid f).takes = s.takes := rfl
@[simp] theorem State.modKernel_latches (s : State) (ctx kid : Nat) (f : Kernel → Kernel) : (s.modKernel ctx kid f).latches = s.latches := rfl
@[simp] theorem State.modKernel_ethDropped (s : State) (ctx kid : Nat) (f : Kernel → Kernel) : (s.modKernel ctx kid f).ethDropped = s.ethDropped := rfl
@[simp] theorem State.modKernel_hypShared (s : State) (ctx kid : Nat) (f : Kernel → Kernel) : (s.modKernel ctx kid f).hypShared = s.hypShared := rfl
@[simp] theorem State.modKernel_absentCores (s : State) (ctx kid : Nat) (f : Kernel → Kernel) : (s.modKernel ctx kid f).absentCores = s.absentCores := rfl
@[simp] theorem State.modKernel_absentChannels (s : State) (ctx kid : Nat) (f : Kernel → Kernel) : (s.modKernel ctx kid f).absentChannels = s.absentChannels := rfl
@[simp] theorem State.modKernel_absentClusters (s : State) (ctx kid : Nat) (f : Kernel → Kernel) : (s.modKernel ctx kid f).absentClusters = s.absentClusters := rfl
@[simp] theorem State.modKernel_absentPorts (s : State) (ctx kid : Nat) (f : Kernel → Kernel) : (s.modKernel ctx kid f).absentPorts = s.absentPorts := rfl
@[simp] theorem State.modKernel_oneLane (s : State) (ctx kid : Nat) (f : Kernel → Kernel) : (s.modKernel ctx kid f).oneLane = s.oneLane := rfl
@[simp] theorem State.modKernel_absentEth (s : State) (ctx kid : Nat) (f : Kernel → Kernel) : (s.modKernel ctx kid f).absentEth = s.absentEth := rfl
@[simp] theorem State.modKernel_hostOut (s : State) (ctx kid : Nat) (f : Kernel → Kernel) : (s.modKernel ctx kid f).hostOut = s.hostOut := rfl
@[simp] theorem State.modKernel_ts (s : State) (ctx kid : Nat) (f : Kernel → Kernel) : (s.modKernel ctx kid f).ts = s.ts := rfl
@[simp] theorem State.modKernel_free (s : State) (ctx kid : Nat) (f : Kernel → Kernel) : (s.modKernel ctx kid f).free = s.free := rfl
@[simp] theorem State.modKernel_uid (s : State) (ctx kid : Nat) (f : Kernel → Kernel) : (s.modKernel ctx kid f).uid = s.uid := rfl
@[simp] theorem State.modKernel_agenda (s : State) (ctx kid : Nat) (f : Kernel → Kernel) : (s.modKernel ctx kid f).agenda = s.agenda := rfl

/-! ### `dropCell` -/

@[simp] theorem State.dropCell_core (s : State) (uid : Nat) : (s.dropCell uid).core = s.core := rfl
@[simp] theorem State.dropCell_others (s : State) (uid : Nat) : (s.dropCell uid).others = s.others := rfl
@[simp] theorem State.dropCell_mem (s : State) (uid : Nat) : (s.dropCell uid).mem = s.mem := rfl
@[simp] theorem State.dropCell_memPoison (s : State) (uid : Nat) : (s.dropCell uid).memPoison = s.memPoison := rfl
@[simp] theorem State.dropCell_fullSlots (s : State) (uid : Nat) : (s.dropCell uid).fullSlots = s.fullSlots := rfl
@[simp] theorem State.dropCell_lines (s : State) (uid : Nat) : (s.dropCell uid).lines = s.lines := rfl
@[simp] theorem State.dropCell_ripening (s : State) (uid : Nat) : (s.dropCell uid).ripening = s.ripening := rfl
@[simp] theorem State.dropCell_forcedDoms (s : State) (uid : Nat) : (s.dropCell uid).forcedDoms = s.forcedDoms := rfl
@[simp] theorem State.dropCell_armed (s : State) (uid : Nat) : (s.dropCell uid).armed = s.armed := rfl
@[simp] theorem State.dropCell_reqs (s : State) (uid : Nat) : (s.dropCell uid).reqs = s.reqs := rfl
@[simp] theorem State.dropCell_ldsWait (s : State) (uid : Nat) : (s.dropCell uid).ldsWait = s.ldsWait := rfl
@[simp] theorem State.dropCell_parcels (s : State) (uid : Nat) : (s.dropCell uid).parcels = s.parcels := rfl
@[simp] theorem State.dropCell_tlb (s : State) (uid : Nat) : (s.dropCell uid).tlb = s.tlb := rfl
@[simp] theorem State.dropCell_tokens (s : State) (uid : Nat) : (s.dropCell uid).tokens = s.tokens := rfl
@[simp] theorem State.dropCell_cellReqs (s : State) (uid : Nat) : (s.dropCell uid).cellReqs = eraseFirst (fun r => r.uid == uid) s.cellReqs := rfl
@[simp] theorem State.dropCell_counters (s : State) (uid : Nat) : (s.dropCell uid).counters = s.counters := rfl
@[simp] theorem State.dropCell_barriers (s : State) (uid : Nat) : (s.dropCell uid).barriers = s.barriers := rfl
@[simp] theorem State.dropCell_queues (s : State) (uid : Nat) : (s.dropCell uid).queues = s.queues := rfl
@[simp] theorem State.dropCell_channels (s : State) (uid : Nat) : (s.dropCell uid).channels = s.channels := rfl
@[simp] theorem State.dropCell_rowWrites (s : State) (uid : Nat) : (s.dropCell uid).rowWrites = s.rowWrites := rfl
@[simp] theorem State.dropCell_kernels (s : State) (uid : Nat) : (s.dropCell uid).kernels = s.kernels := rfl
@[simp] theorem State.dropCell_cohorts (s : State) (uid : Nat) : (s.dropCell uid).cohorts = s.cohorts := rfl
@[simp] theorem State.dropCell_checks (s : State) (uid : Nat) : (s.dropCell uid).checks = s.checks := rfl
@[simp] theorem State.dropCell_contexts (s : State) (uid : Nat) : (s.dropCell uid).contexts = s.contexts := rfl
@[simp] theorem State.dropCell_partitions (s : State) (uid : Nat) : (s.dropCell uid).partitions = s.partitions := rfl
@[simp] theorem State.dropCell_mgmt (s : State) (uid : Nat) : (s.dropCell uid).mgmt = s.mgmt := rfl
@[simp] theorem State.dropCell_devWin (s : State) (uid : Nat) : (s.dropCell uid).devWin = s.devWin := rfl
@[simp] theorem State.dropCell_mfqBase (s : State) (uid : Nat) : (s.dropCell uid).mfqBase = s.mfqBase := rfl
@[simp] theorem State.dropCell_mfqLog (s : State) (uid : Nat) : (s.dropCell uid).mfqLog = s.mfqLog := rfl
@[simp] theorem State.dropCell_mfqTail (s : State) (uid : Nat) : (s.dropCell uid).mfqTail = s.mfqTail := rfl
@[simp] theorem State.dropCell_mfqLost (s : State) (uid : Nat) : (s.dropCell uid).mfqLost = s.mfqLost := rfl
@[simp] theorem State.dropCell_mfqPending (s : State) (uid : Nat) : (s.dropCell uid).mfqPending = s.mfqPending := rfl
@[simp] theorem State.dropCell_ports (s : State) (uid : Nat) : (s.dropCell uid).ports = s.ports := rfl
@[simp] theorem State.dropCell_ethPorts (s : State) (uid : Nat) : (s.dropCell uid).ethPorts = s.ethPorts := rfl
@[simp] theorem State.dropCell_tier2Owner (s : State) (uid : Nat) : (s.dropCell uid).tier2Owner = s.tier2Owner := rfl
@[simp] theorem State.dropCell_tier2Held (s : State) (uid : Nat) : (s.dropCell uid).tier2Held = s.tier2Held := rfl
@[simp] theorem State.dropCell_ramps (s : State) (uid : Nat) : (s.dropCell uid).ramps = s.ramps := rfl
@[simp] theorem State.dropCell_patrols (s : State) (uid : Nat) : (s.dropCell uid).patrols = s.patrols := rfl
@[simp] theorem State.dropCell_powerLog (s : State) (uid : Nat) : (s.dropCell uid).powerLog = s.powerLog := rfl
@[simp] theorem State.dropCell_powerHeld (s : State) (uid : Nat) : (s.dropCell uid).powerHeld = s.powerHeld := rfl
@[simp] theorem State.dropCell_mr (s : State) (uid : Nat) : (s.dropCell uid).mr = s.mr := rfl
@[simp] theorem State.dropCell_boot (s : State) (uid : Nat) : (s.dropCell uid).boot = s.boot := rfl
@[simp] theorem State.dropCell_recovered (s : State) (uid : Nat) : (s.dropCell uid).recovered = s.recovered := rfl
@[simp] theorem State.dropCell_svn (s : State) (uid : Nat) : (s.dropCell uid).svn = s.svn := rfl
@[simp] theorem State.dropCell_seed (s : State) (uid : Nat) : (s.dropCell uid).seed = s.seed := rfl
@[simp] theorem State.dropCell_certificate (s : State) (uid : Nat) : (s.dropCell uid).certificate = s.certificate := rfl
@[simp] theorem State.dropCell_identity (s : State) (uid : Nat) : (s.dropCell uid).identity = s.identity := rfl
@[simp] theorem State.dropCell_kemCount (s : State) (uid : Nat) : (s.dropCell uid).kemCount = s.kemCount := rfl
@[simp] theorem State.dropCell_trips (s : State) (uid : Nat) : (s.dropCell uid).trips = s.trips := rfl
@[simp] theorem State.dropCell_tripsRead (s : State) (uid : Nat) : (s.dropCell uid).tripsRead = s.tripsRead := rfl
@[simp] theorem State.dropCell_takes (s : State) (uid : Nat) : (s.dropCell uid).takes = s.takes := rfl
@[simp] theorem State.dropCell_latches (s : State) (uid : Nat) : (s.dropCell uid).latches = s.latches := rfl
@[simp] theorem State.dropCell_ethDropped (s : State) (uid : Nat) : (s.dropCell uid).ethDropped = s.ethDropped := rfl
@[simp] theorem State.dropCell_hypShared (s : State) (uid : Nat) : (s.dropCell uid).hypShared = s.hypShared := rfl
@[simp] theorem State.dropCell_absentCores (s : State) (uid : Nat) : (s.dropCell uid).absentCores = s.absentCores := rfl
@[simp] theorem State.dropCell_absentChannels (s : State) (uid : Nat) : (s.dropCell uid).absentChannels = s.absentChannels := rfl
@[simp] theorem State.dropCell_absentClusters (s : State) (uid : Nat) : (s.dropCell uid).absentClusters = s.absentClusters := rfl
@[simp] theorem State.dropCell_absentPorts (s : State) (uid : Nat) : (s.dropCell uid).absentPorts = s.absentPorts := rfl
@[simp] theorem State.dropCell_oneLane (s : State) (uid : Nat) : (s.dropCell uid).oneLane = s.oneLane := rfl
@[simp] theorem State.dropCell_absentEth (s : State) (uid : Nat) : (s.dropCell uid).absentEth = s.absentEth := rfl
@[simp] theorem State.dropCell_hostOut (s : State) (uid : Nat) : (s.dropCell uid).hostOut = s.hostOut := rfl
@[simp] theorem State.dropCell_ts (s : State) (uid : Nat) : (s.dropCell uid).ts = s.ts := rfl
@[simp] theorem State.dropCell_free (s : State) (uid : Nat) : (s.dropCell uid).free = s.free := rfl
@[simp] theorem State.dropCell_uid (s : State) (uid : Nat) : (s.dropCell uid).uid = s.uid := rfl
@[simp] theorem State.dropCell_agenda (s : State) (uid : Nat) : (s.dropCell uid).agenda = s.agenda := rfl

/-! ### `takeParcel` -/

@[simp] theorem State.takeParcel_core (s : State) (k : Nat) : (s.takeParcel k).core = s.core := rfl
@[simp] theorem State.takeParcel_others (s : State) (k : Nat) : (s.takeParcel k).others = s.others := rfl
@[simp] theorem State.takeParcel_mem (s : State) (k : Nat) : (s.takeParcel k).mem = s.mem := rfl
@[simp] theorem State.takeParcel_memPoison (s : State) (k : Nat) : (s.takeParcel k).memPoison = s.memPoison := rfl
@[simp] theorem State.takeParcel_fullSlots (s : State) (k : Nat) : (s.takeParcel k).fullSlots = s.fullSlots := rfl
@[simp] theorem State.takeParcel_lines (s : State) (k : Nat) : (s.takeParcel k).lines = s.lines := rfl
@[simp] theorem State.takeParcel_ripening (s : State) (k : Nat) : (s.takeParcel k).ripening = s.ripening := rfl
@[simp] theorem State.takeParcel_forcedDoms (s : State) (k : Nat) : (s.takeParcel k).forcedDoms = s.forcedDoms := rfl
@[simp] theorem State.takeParcel_armed (s : State) (k : Nat) : (s.takeParcel k).armed = s.armed := rfl
@[simp] theorem State.takeParcel_reqs (s : State) (k : Nat) : (s.takeParcel k).reqs = s.reqs := rfl
@[simp] theorem State.takeParcel_ldsWait (s : State) (k : Nat) : (s.takeParcel k).ldsWait = s.ldsWait := rfl
@[simp] theorem State.takeParcel_parcels (s : State) (k : Nat) : (s.takeParcel k).parcels = removeAt s.parcels k := rfl
@[simp] theorem State.takeParcel_tlb (s : State) (k : Nat) : (s.takeParcel k).tlb = s.tlb := rfl
@[simp] theorem State.takeParcel_tokens (s : State) (k : Nat) : (s.takeParcel k).tokens = s.tokens := rfl
@[simp] theorem State.takeParcel_cellReqs (s : State) (k : Nat) : (s.takeParcel k).cellReqs = s.cellReqs := rfl
@[simp] theorem State.takeParcel_counters (s : State) (k : Nat) : (s.takeParcel k).counters = s.counters := rfl
@[simp] theorem State.takeParcel_barriers (s : State) (k : Nat) : (s.takeParcel k).barriers = s.barriers := rfl
@[simp] theorem State.takeParcel_queues (s : State) (k : Nat) : (s.takeParcel k).queues = s.queues := rfl
@[simp] theorem State.takeParcel_channels (s : State) (k : Nat) : (s.takeParcel k).channels = s.channels := rfl
@[simp] theorem State.takeParcel_rowWrites (s : State) (k : Nat) : (s.takeParcel k).rowWrites = s.rowWrites := rfl
@[simp] theorem State.takeParcel_kernels (s : State) (k : Nat) : (s.takeParcel k).kernels = s.kernels := rfl
@[simp] theorem State.takeParcel_cohorts (s : State) (k : Nat) : (s.takeParcel k).cohorts = s.cohorts := rfl
@[simp] theorem State.takeParcel_checks (s : State) (k : Nat) : (s.takeParcel k).checks = s.checks := rfl
@[simp] theorem State.takeParcel_contexts (s : State) (k : Nat) : (s.takeParcel k).contexts = s.contexts := rfl
@[simp] theorem State.takeParcel_partitions (s : State) (k : Nat) : (s.takeParcel k).partitions = s.partitions := rfl
@[simp] theorem State.takeParcel_mgmt (s : State) (k : Nat) : (s.takeParcel k).mgmt = s.mgmt := rfl
@[simp] theorem State.takeParcel_devWin (s : State) (k : Nat) : (s.takeParcel k).devWin = s.devWin := rfl
@[simp] theorem State.takeParcel_mfqBase (s : State) (k : Nat) : (s.takeParcel k).mfqBase = s.mfqBase := rfl
@[simp] theorem State.takeParcel_mfqLog (s : State) (k : Nat) : (s.takeParcel k).mfqLog = s.mfqLog := rfl
@[simp] theorem State.takeParcel_mfqTail (s : State) (k : Nat) : (s.takeParcel k).mfqTail = s.mfqTail := rfl
@[simp] theorem State.takeParcel_mfqLost (s : State) (k : Nat) : (s.takeParcel k).mfqLost = s.mfqLost := rfl
@[simp] theorem State.takeParcel_mfqPending (s : State) (k : Nat) : (s.takeParcel k).mfqPending = s.mfqPending := rfl
@[simp] theorem State.takeParcel_ports (s : State) (k : Nat) : (s.takeParcel k).ports = s.ports := rfl
@[simp] theorem State.takeParcel_ethPorts (s : State) (k : Nat) : (s.takeParcel k).ethPorts = s.ethPorts := rfl
@[simp] theorem State.takeParcel_tier2Owner (s : State) (k : Nat) : (s.takeParcel k).tier2Owner = s.tier2Owner := rfl
@[simp] theorem State.takeParcel_tier2Held (s : State) (k : Nat) : (s.takeParcel k).tier2Held = s.tier2Held := rfl
@[simp] theorem State.takeParcel_ramps (s : State) (k : Nat) : (s.takeParcel k).ramps = s.ramps := rfl
@[simp] theorem State.takeParcel_patrols (s : State) (k : Nat) : (s.takeParcel k).patrols = s.patrols := rfl
@[simp] theorem State.takeParcel_powerLog (s : State) (k : Nat) : (s.takeParcel k).powerLog = s.powerLog := rfl
@[simp] theorem State.takeParcel_powerHeld (s : State) (k : Nat) : (s.takeParcel k).powerHeld = s.powerHeld := rfl
@[simp] theorem State.takeParcel_mr (s : State) (k : Nat) : (s.takeParcel k).mr = s.mr := rfl
@[simp] theorem State.takeParcel_boot (s : State) (k : Nat) : (s.takeParcel k).boot = s.boot := rfl
@[simp] theorem State.takeParcel_recovered (s : State) (k : Nat) : (s.takeParcel k).recovered = s.recovered := rfl
@[simp] theorem State.takeParcel_svn (s : State) (k : Nat) : (s.takeParcel k).svn = s.svn := rfl
@[simp] theorem State.takeParcel_seed (s : State) (k : Nat) : (s.takeParcel k).seed = s.seed := rfl
@[simp] theorem State.takeParcel_certificate (s : State) (k : Nat) : (s.takeParcel k).certificate = s.certificate := rfl
@[simp] theorem State.takeParcel_identity (s : State) (k : Nat) : (s.takeParcel k).identity = s.identity := rfl
@[simp] theorem State.takeParcel_kemCount (s : State) (k : Nat) : (s.takeParcel k).kemCount = s.kemCount := rfl
@[simp] theorem State.takeParcel_trips (s : State) (k : Nat) : (s.takeParcel k).trips = s.trips := rfl
@[simp] theorem State.takeParcel_tripsRead (s : State) (k : Nat) : (s.takeParcel k).tripsRead = s.tripsRead := rfl
@[simp] theorem State.takeParcel_takes (s : State) (k : Nat) : (s.takeParcel k).takes = s.takes := rfl
@[simp] theorem State.takeParcel_latches (s : State) (k : Nat) : (s.takeParcel k).latches = s.latches := rfl
@[simp] theorem State.takeParcel_ethDropped (s : State) (k : Nat) : (s.takeParcel k).ethDropped = s.ethDropped := rfl
@[simp] theorem State.takeParcel_hypShared (s : State) (k : Nat) : (s.takeParcel k).hypShared = s.hypShared := rfl
@[simp] theorem State.takeParcel_absentCores (s : State) (k : Nat) : (s.takeParcel k).absentCores = s.absentCores := rfl
@[simp] theorem State.takeParcel_absentChannels (s : State) (k : Nat) : (s.takeParcel k).absentChannels = s.absentChannels := rfl
@[simp] theorem State.takeParcel_absentClusters (s : State) (k : Nat) : (s.takeParcel k).absentClusters = s.absentClusters := rfl
@[simp] theorem State.takeParcel_absentPorts (s : State) (k : Nat) : (s.takeParcel k).absentPorts = s.absentPorts := rfl
@[simp] theorem State.takeParcel_oneLane (s : State) (k : Nat) : (s.takeParcel k).oneLane = s.oneLane := rfl
@[simp] theorem State.takeParcel_absentEth (s : State) (k : Nat) : (s.takeParcel k).absentEth = s.absentEth := rfl
@[simp] theorem State.takeParcel_hostOut (s : State) (k : Nat) : (s.takeParcel k).hostOut = s.hostOut := rfl
@[simp] theorem State.takeParcel_ts (s : State) (k : Nat) : (s.takeParcel k).ts = s.ts := rfl
@[simp] theorem State.takeParcel_free (s : State) (k : Nat) : (s.takeParcel k).free = s.free := rfl
@[simp] theorem State.takeParcel_uid (s : State) (k : Nat) : (s.takeParcel k).uid = s.uid := rfl
@[simp] theorem State.takeParcel_agenda (s : State) (k : Nat) : (s.takeParcel k).agenda = s.agenda := rfl

/-! ### `markServed` -/

@[simp] theorem State.markServed_core (s : State) (uid : Nat) (slice : Option Nat) : (s.markServed uid slice).core = s.core := rfl
@[simp] theorem State.markServed_others (s : State) (uid : Nat) (slice : Option Nat) : (s.markServed uid slice).others = s.others := rfl
@[simp] theorem State.markServed_mem (s : State) (uid : Nat) (slice : Option Nat) : (s.markServed uid slice).mem = s.mem := rfl
@[simp] theorem State.markServed_memPoison (s : State) (uid : Nat) (slice : Option Nat) : (s.markServed uid slice).memPoison = s.memPoison := rfl
@[simp] theorem State.markServed_fullSlots (s : State) (uid : Nat) (slice : Option Nat) : (s.markServed uid slice).fullSlots = s.fullSlots := rfl
@[simp] theorem State.markServed_lines (s : State) (uid : Nat) (slice : Option Nat) : (s.markServed uid slice).lines = s.lines := rfl
@[simp] theorem State.markServed_ripening (s : State) (uid : Nat) (slice : Option Nat) : (s.markServed uid slice).ripening = s.ripening := rfl
@[simp] theorem State.markServed_forcedDoms (s : State) (uid : Nat) (slice : Option Nat) : (s.markServed uid slice).forcedDoms = s.forcedDoms := rfl
@[simp] theorem State.markServed_armed (s : State) (uid : Nat) (slice : Option Nat) : (s.markServed uid slice).armed = s.armed := rfl
@[simp] theorem State.markServed_reqs (s : State) (uid : Nat) (slice : Option Nat) : (s.markServed uid slice).reqs = updFirst (fun r => r.uid == uid) (fun r => { r with served := true, slice := slice }) s.reqs := rfl
@[simp] theorem State.markServed_ldsWait (s : State) (uid : Nat) (slice : Option Nat) : (s.markServed uid slice).ldsWait = s.ldsWait := rfl
@[simp] theorem State.markServed_parcels (s : State) (uid : Nat) (slice : Option Nat) : (s.markServed uid slice).parcels = s.parcels := rfl
@[simp] theorem State.markServed_tlb (s : State) (uid : Nat) (slice : Option Nat) : (s.markServed uid slice).tlb = s.tlb := rfl
@[simp] theorem State.markServed_tokens (s : State) (uid : Nat) (slice : Option Nat) : (s.markServed uid slice).tokens = s.tokens := rfl
@[simp] theorem State.markServed_cellReqs (s : State) (uid : Nat) (slice : Option Nat) : (s.markServed uid slice).cellReqs = s.cellReqs := rfl
@[simp] theorem State.markServed_counters (s : State) (uid : Nat) (slice : Option Nat) : (s.markServed uid slice).counters = s.counters := rfl
@[simp] theorem State.markServed_barriers (s : State) (uid : Nat) (slice : Option Nat) : (s.markServed uid slice).barriers = s.barriers := rfl
@[simp] theorem State.markServed_queues (s : State) (uid : Nat) (slice : Option Nat) : (s.markServed uid slice).queues = s.queues := rfl
@[simp] theorem State.markServed_channels (s : State) (uid : Nat) (slice : Option Nat) : (s.markServed uid slice).channels = s.channels := rfl
@[simp] theorem State.markServed_rowWrites (s : State) (uid : Nat) (slice : Option Nat) : (s.markServed uid slice).rowWrites = s.rowWrites := rfl
@[simp] theorem State.markServed_kernels (s : State) (uid : Nat) (slice : Option Nat) : (s.markServed uid slice).kernels = s.kernels := rfl
@[simp] theorem State.markServed_cohorts (s : State) (uid : Nat) (slice : Option Nat) : (s.markServed uid slice).cohorts = s.cohorts := rfl
@[simp] theorem State.markServed_checks (s : State) (uid : Nat) (slice : Option Nat) : (s.markServed uid slice).checks = s.checks := rfl
@[simp] theorem State.markServed_contexts (s : State) (uid : Nat) (slice : Option Nat) : (s.markServed uid slice).contexts = s.contexts := rfl
@[simp] theorem State.markServed_partitions (s : State) (uid : Nat) (slice : Option Nat) : (s.markServed uid slice).partitions = s.partitions := rfl
@[simp] theorem State.markServed_mgmt (s : State) (uid : Nat) (slice : Option Nat) : (s.markServed uid slice).mgmt = s.mgmt := rfl
@[simp] theorem State.markServed_devWin (s : State) (uid : Nat) (slice : Option Nat) : (s.markServed uid slice).devWin = s.devWin := rfl
@[simp] theorem State.markServed_mfqBase (s : State) (uid : Nat) (slice : Option Nat) : (s.markServed uid slice).mfqBase = s.mfqBase := rfl
@[simp] theorem State.markServed_mfqLog (s : State) (uid : Nat) (slice : Option Nat) : (s.markServed uid slice).mfqLog = s.mfqLog := rfl
@[simp] theorem State.markServed_mfqTail (s : State) (uid : Nat) (slice : Option Nat) : (s.markServed uid slice).mfqTail = s.mfqTail := rfl
@[simp] theorem State.markServed_mfqLost (s : State) (uid : Nat) (slice : Option Nat) : (s.markServed uid slice).mfqLost = s.mfqLost := rfl
@[simp] theorem State.markServed_mfqPending (s : State) (uid : Nat) (slice : Option Nat) : (s.markServed uid slice).mfqPending = s.mfqPending := rfl
@[simp] theorem State.markServed_ports (s : State) (uid : Nat) (slice : Option Nat) : (s.markServed uid slice).ports = s.ports := rfl
@[simp] theorem State.markServed_ethPorts (s : State) (uid : Nat) (slice : Option Nat) : (s.markServed uid slice).ethPorts = s.ethPorts := rfl
@[simp] theorem State.markServed_tier2Owner (s : State) (uid : Nat) (slice : Option Nat) : (s.markServed uid slice).tier2Owner = s.tier2Owner := rfl
@[simp] theorem State.markServed_tier2Held (s : State) (uid : Nat) (slice : Option Nat) : (s.markServed uid slice).tier2Held = s.tier2Held := rfl
@[simp] theorem State.markServed_ramps (s : State) (uid : Nat) (slice : Option Nat) : (s.markServed uid slice).ramps = s.ramps := rfl
@[simp] theorem State.markServed_patrols (s : State) (uid : Nat) (slice : Option Nat) : (s.markServed uid slice).patrols = s.patrols := rfl
@[simp] theorem State.markServed_powerLog (s : State) (uid : Nat) (slice : Option Nat) : (s.markServed uid slice).powerLog = s.powerLog := rfl
@[simp] theorem State.markServed_powerHeld (s : State) (uid : Nat) (slice : Option Nat) : (s.markServed uid slice).powerHeld = s.powerHeld := rfl
@[simp] theorem State.markServed_mr (s : State) (uid : Nat) (slice : Option Nat) : (s.markServed uid slice).mr = s.mr := rfl
@[simp] theorem State.markServed_boot (s : State) (uid : Nat) (slice : Option Nat) : (s.markServed uid slice).boot = s.boot := rfl
@[simp] theorem State.markServed_recovered (s : State) (uid : Nat) (slice : Option Nat) : (s.markServed uid slice).recovered = s.recovered := rfl
@[simp] theorem State.markServed_svn (s : State) (uid : Nat) (slice : Option Nat) : (s.markServed uid slice).svn = s.svn := rfl
@[simp] theorem State.markServed_seed (s : State) (uid : Nat) (slice : Option Nat) : (s.markServed uid slice).seed = s.seed := rfl
@[simp] theorem State.markServed_certificate (s : State) (uid : Nat) (slice : Option Nat) : (s.markServed uid slice).certificate = s.certificate := rfl
@[simp] theorem State.markServed_identity (s : State) (uid : Nat) (slice : Option Nat) : (s.markServed uid slice).identity = s.identity := rfl
@[simp] theorem State.markServed_kemCount (s : State) (uid : Nat) (slice : Option Nat) : (s.markServed uid slice).kemCount = s.kemCount := rfl
@[simp] theorem State.markServed_trips (s : State) (uid : Nat) (slice : Option Nat) : (s.markServed uid slice).trips = s.trips := rfl
@[simp] theorem State.markServed_tripsRead (s : State) (uid : Nat) (slice : Option Nat) : (s.markServed uid slice).tripsRead = s.tripsRead := rfl
@[simp] theorem State.markServed_takes (s : State) (uid : Nat) (slice : Option Nat) : (s.markServed uid slice).takes = s.takes := rfl
@[simp] theorem State.markServed_latches (s : State) (uid : Nat) (slice : Option Nat) : (s.markServed uid slice).latches = s.latches := rfl
@[simp] theorem State.markServed_ethDropped (s : State) (uid : Nat) (slice : Option Nat) : (s.markServed uid slice).ethDropped = s.ethDropped := rfl
@[simp] theorem State.markServed_hypShared (s : State) (uid : Nat) (slice : Option Nat) : (s.markServed uid slice).hypShared = s.hypShared := rfl
@[simp] theorem State.markServed_absentCores (s : State) (uid : Nat) (slice : Option Nat) : (s.markServed uid slice).absentCores = s.absentCores := rfl
@[simp] theorem State.markServed_absentChannels (s : State) (uid : Nat) (slice : Option Nat) : (s.markServed uid slice).absentChannels = s.absentChannels := rfl
@[simp] theorem State.markServed_absentClusters (s : State) (uid : Nat) (slice : Option Nat) : (s.markServed uid slice).absentClusters = s.absentClusters := rfl
@[simp] theorem State.markServed_absentPorts (s : State) (uid : Nat) (slice : Option Nat) : (s.markServed uid slice).absentPorts = s.absentPorts := rfl
@[simp] theorem State.markServed_oneLane (s : State) (uid : Nat) (slice : Option Nat) : (s.markServed uid slice).oneLane = s.oneLane := rfl
@[simp] theorem State.markServed_absentEth (s : State) (uid : Nat) (slice : Option Nat) : (s.markServed uid slice).absentEth = s.absentEth := rfl
@[simp] theorem State.markServed_hostOut (s : State) (uid : Nat) (slice : Option Nat) : (s.markServed uid slice).hostOut = s.hostOut := rfl
@[simp] theorem State.markServed_ts (s : State) (uid : Nat) (slice : Option Nat) : (s.markServed uid slice).ts = s.ts := rfl
@[simp] theorem State.markServed_free (s : State) (uid : Nat) (slice : Option Nat) : (s.markServed uid slice).free = s.free := rfl
@[simp] theorem State.markServed_uid (s : State) (uid : Nat) (slice : Option Nat) : (s.markServed uid slice).uid = s.uid := rfl
@[simp] theorem State.markServed_agenda (s : State) (uid : Nat) (slice : Option Nat) : (s.markServed uid slice).agenda = s.agenda := rfl

/-! ### `putBytes` -/

@[simp] theorem State.putBytes_core (s : State) (key : Nat) (bytes : List Byte) (pois : List Bool) : (s.putBytes key bytes pois).core = s.core := rfl
@[simp] theorem State.putBytes_others (s : State) (key : Nat) (bytes : List Byte) (pois : List Bool) : (s.putBytes key bytes pois).others = s.others := rfl
@[simp] theorem State.putBytes_mem (s : State) (key : Nat) (bytes : List Byte) (pois : List Bool) : (s.putBytes key bytes pois).mem = s.mem.setBytes key bytes := rfl
@[simp] theorem State.putBytes_memPoison (s : State) (key : Nat) (bytes : List Byte) (pois : List Bool) : (s.putBytes key bytes pois).memPoison = writePoison 16 s.memPoison key pois := rfl
@[simp] theorem State.putBytes_fullSlots (s : State) (key : Nat) (bytes : List Byte) (pois : List Bool) : (s.putBytes key bytes pois).fullSlots = s.fullSlots := rfl
@[simp] theorem State.putBytes_lines (s : State) (key : Nat) (bytes : List Byte) (pois : List Bool) : (s.putBytes key bytes pois).lines = s.lines := rfl
@[simp] theorem State.putBytes_ripening (s : State) (key : Nat) (bytes : List Byte) (pois : List Bool) : (s.putBytes key bytes pois).ripening = s.ripening := rfl
@[simp] theorem State.putBytes_forcedDoms (s : State) (key : Nat) (bytes : List Byte) (pois : List Bool) : (s.putBytes key bytes pois).forcedDoms = s.forcedDoms := rfl
@[simp] theorem State.putBytes_armed (s : State) (key : Nat) (bytes : List Byte) (pois : List Bool) : (s.putBytes key bytes pois).armed = s.armed := rfl
@[simp] theorem State.putBytes_reqs (s : State) (key : Nat) (bytes : List Byte) (pois : List Bool) : (s.putBytes key bytes pois).reqs = s.reqs := rfl
@[simp] theorem State.putBytes_ldsWait (s : State) (key : Nat) (bytes : List Byte) (pois : List Bool) : (s.putBytes key bytes pois).ldsWait = s.ldsWait := rfl
@[simp] theorem State.putBytes_parcels (s : State) (key : Nat) (bytes : List Byte) (pois : List Bool) : (s.putBytes key bytes pois).parcels = s.parcels := rfl
@[simp] theorem State.putBytes_tlb (s : State) (key : Nat) (bytes : List Byte) (pois : List Bool) : (s.putBytes key bytes pois).tlb = s.tlb := rfl
@[simp] theorem State.putBytes_tokens (s : State) (key : Nat) (bytes : List Byte) (pois : List Bool) : (s.putBytes key bytes pois).tokens = s.tokens := rfl
@[simp] theorem State.putBytes_cellReqs (s : State) (key : Nat) (bytes : List Byte) (pois : List Bool) : (s.putBytes key bytes pois).cellReqs = s.cellReqs := rfl
@[simp] theorem State.putBytes_counters (s : State) (key : Nat) (bytes : List Byte) (pois : List Bool) : (s.putBytes key bytes pois).counters = s.counters := rfl
@[simp] theorem State.putBytes_barriers (s : State) (key : Nat) (bytes : List Byte) (pois : List Bool) : (s.putBytes key bytes pois).barriers = s.barriers := rfl
@[simp] theorem State.putBytes_queues (s : State) (key : Nat) (bytes : List Byte) (pois : List Bool) : (s.putBytes key bytes pois).queues = s.queues := rfl
@[simp] theorem State.putBytes_channels (s : State) (key : Nat) (bytes : List Byte) (pois : List Bool) : (s.putBytes key bytes pois).channels = s.channels := rfl
@[simp] theorem State.putBytes_rowWrites (s : State) (key : Nat) (bytes : List Byte) (pois : List Bool) : (s.putBytes key bytes pois).rowWrites = s.rowWrites := rfl
@[simp] theorem State.putBytes_kernels (s : State) (key : Nat) (bytes : List Byte) (pois : List Bool) : (s.putBytes key bytes pois).kernels = s.kernels := rfl
@[simp] theorem State.putBytes_cohorts (s : State) (key : Nat) (bytes : List Byte) (pois : List Bool) : (s.putBytes key bytes pois).cohorts = s.cohorts := rfl
@[simp] theorem State.putBytes_checks (s : State) (key : Nat) (bytes : List Byte) (pois : List Bool) : (s.putBytes key bytes pois).checks = s.checks := rfl
@[simp] theorem State.putBytes_contexts (s : State) (key : Nat) (bytes : List Byte) (pois : List Bool) : (s.putBytes key bytes pois).contexts = s.contexts := rfl
@[simp] theorem State.putBytes_partitions (s : State) (key : Nat) (bytes : List Byte) (pois : List Bool) : (s.putBytes key bytes pois).partitions = s.partitions := rfl
@[simp] theorem State.putBytes_mgmt (s : State) (key : Nat) (bytes : List Byte) (pois : List Bool) : (s.putBytes key bytes pois).mgmt = s.mgmt := rfl
@[simp] theorem State.putBytes_devWin (s : State) (key : Nat) (bytes : List Byte) (pois : List Bool) : (s.putBytes key bytes pois).devWin = s.devWin := rfl
@[simp] theorem State.putBytes_mfqBase (s : State) (key : Nat) (bytes : List Byte) (pois : List Bool) : (s.putBytes key bytes pois).mfqBase = s.mfqBase := rfl
@[simp] theorem State.putBytes_mfqLog (s : State) (key : Nat) (bytes : List Byte) (pois : List Bool) : (s.putBytes key bytes pois).mfqLog = s.mfqLog := rfl
@[simp] theorem State.putBytes_mfqTail (s : State) (key : Nat) (bytes : List Byte) (pois : List Bool) : (s.putBytes key bytes pois).mfqTail = s.mfqTail := rfl
@[simp] theorem State.putBytes_mfqLost (s : State) (key : Nat) (bytes : List Byte) (pois : List Bool) : (s.putBytes key bytes pois).mfqLost = s.mfqLost := rfl
@[simp] theorem State.putBytes_mfqPending (s : State) (key : Nat) (bytes : List Byte) (pois : List Bool) : (s.putBytes key bytes pois).mfqPending = s.mfqPending := rfl
@[simp] theorem State.putBytes_ports (s : State) (key : Nat) (bytes : List Byte) (pois : List Bool) : (s.putBytes key bytes pois).ports = s.ports := rfl
@[simp] theorem State.putBytes_ethPorts (s : State) (key : Nat) (bytes : List Byte) (pois : List Bool) : (s.putBytes key bytes pois).ethPorts = s.ethPorts := rfl
@[simp] theorem State.putBytes_tier2Owner (s : State) (key : Nat) (bytes : List Byte) (pois : List Bool) : (s.putBytes key bytes pois).tier2Owner = s.tier2Owner := rfl
@[simp] theorem State.putBytes_tier2Held (s : State) (key : Nat) (bytes : List Byte) (pois : List Bool) : (s.putBytes key bytes pois).tier2Held = s.tier2Held := rfl
@[simp] theorem State.putBytes_ramps (s : State) (key : Nat) (bytes : List Byte) (pois : List Bool) : (s.putBytes key bytes pois).ramps = s.ramps := rfl
@[simp] theorem State.putBytes_patrols (s : State) (key : Nat) (bytes : List Byte) (pois : List Bool) : (s.putBytes key bytes pois).patrols = s.patrols := rfl
@[simp] theorem State.putBytes_powerLog (s : State) (key : Nat) (bytes : List Byte) (pois : List Bool) : (s.putBytes key bytes pois).powerLog = s.powerLog := rfl
@[simp] theorem State.putBytes_powerHeld (s : State) (key : Nat) (bytes : List Byte) (pois : List Bool) : (s.putBytes key bytes pois).powerHeld = s.powerHeld := rfl
@[simp] theorem State.putBytes_mr (s : State) (key : Nat) (bytes : List Byte) (pois : List Bool) : (s.putBytes key bytes pois).mr = s.mr := rfl
@[simp] theorem State.putBytes_boot (s : State) (key : Nat) (bytes : List Byte) (pois : List Bool) : (s.putBytes key bytes pois).boot = s.boot := rfl
@[simp] theorem State.putBytes_recovered (s : State) (key : Nat) (bytes : List Byte) (pois : List Bool) : (s.putBytes key bytes pois).recovered = s.recovered := rfl
@[simp] theorem State.putBytes_svn (s : State) (key : Nat) (bytes : List Byte) (pois : List Bool) : (s.putBytes key bytes pois).svn = s.svn := rfl
@[simp] theorem State.putBytes_seed (s : State) (key : Nat) (bytes : List Byte) (pois : List Bool) : (s.putBytes key bytes pois).seed = s.seed := rfl
@[simp] theorem State.putBytes_certificate (s : State) (key : Nat) (bytes : List Byte) (pois : List Bool) : (s.putBytes key bytes pois).certificate = s.certificate := rfl
@[simp] theorem State.putBytes_identity (s : State) (key : Nat) (bytes : List Byte) (pois : List Bool) : (s.putBytes key bytes pois).identity = s.identity := rfl
@[simp] theorem State.putBytes_kemCount (s : State) (key : Nat) (bytes : List Byte) (pois : List Bool) : (s.putBytes key bytes pois).kemCount = s.kemCount := rfl
@[simp] theorem State.putBytes_trips (s : State) (key : Nat) (bytes : List Byte) (pois : List Bool) : (s.putBytes key bytes pois).trips = s.trips := rfl
@[simp] theorem State.putBytes_tripsRead (s : State) (key : Nat) (bytes : List Byte) (pois : List Bool) : (s.putBytes key bytes pois).tripsRead = s.tripsRead := rfl
@[simp] theorem State.putBytes_takes (s : State) (key : Nat) (bytes : List Byte) (pois : List Bool) : (s.putBytes key bytes pois).takes = s.takes := rfl
@[simp] theorem State.putBytes_latches (s : State) (key : Nat) (bytes : List Byte) (pois : List Bool) : (s.putBytes key bytes pois).latches = s.latches := rfl
@[simp] theorem State.putBytes_ethDropped (s : State) (key : Nat) (bytes : List Byte) (pois : List Bool) : (s.putBytes key bytes pois).ethDropped = s.ethDropped := rfl
@[simp] theorem State.putBytes_hypShared (s : State) (key : Nat) (bytes : List Byte) (pois : List Bool) : (s.putBytes key bytes pois).hypShared = s.hypShared := rfl
@[simp] theorem State.putBytes_absentCores (s : State) (key : Nat) (bytes : List Byte) (pois : List Bool) : (s.putBytes key bytes pois).absentCores = s.absentCores := rfl
@[simp] theorem State.putBytes_absentChannels (s : State) (key : Nat) (bytes : List Byte) (pois : List Bool) : (s.putBytes key bytes pois).absentChannels = s.absentChannels := rfl
@[simp] theorem State.putBytes_absentClusters (s : State) (key : Nat) (bytes : List Byte) (pois : List Bool) : (s.putBytes key bytes pois).absentClusters = s.absentClusters := rfl
@[simp] theorem State.putBytes_absentPorts (s : State) (key : Nat) (bytes : List Byte) (pois : List Bool) : (s.putBytes key bytes pois).absentPorts = s.absentPorts := rfl
@[simp] theorem State.putBytes_oneLane (s : State) (key : Nat) (bytes : List Byte) (pois : List Bool) : (s.putBytes key bytes pois).oneLane = s.oneLane := rfl
@[simp] theorem State.putBytes_absentEth (s : State) (key : Nat) (bytes : List Byte) (pois : List Bool) : (s.putBytes key bytes pois).absentEth = s.absentEth := rfl
@[simp] theorem State.putBytes_hostOut (s : State) (key : Nat) (bytes : List Byte) (pois : List Bool) : (s.putBytes key bytes pois).hostOut = s.hostOut := rfl
@[simp] theorem State.putBytes_ts (s : State) (key : Nat) (bytes : List Byte) (pois : List Bool) : (s.putBytes key bytes pois).ts = s.ts := rfl
@[simp] theorem State.putBytes_free (s : State) (key : Nat) (bytes : List Byte) (pois : List Bool) : (s.putBytes key bytes pois).free = s.free := rfl
@[simp] theorem State.putBytes_uid (s : State) (key : Nat) (bytes : List Byte) (pois : List Bool) : (s.putBytes key bytes pois).uid = s.uid := rfl
@[simp] theorem State.putBytes_agenda (s : State) (key : Nat) (bytes : List Byte) (pois : List Bool) : (s.putBytes key bytes pois).agenda = s.agenda := rfl

/-! ### `putRamp` -/

@[simp] theorem State.putRamp_core (s : State) (r : Ramp) : (s.putRamp r).core = s.core := rfl
@[simp] theorem State.putRamp_others (s : State) (r : Ramp) : (s.putRamp r).others = s.others := rfl
@[simp] theorem State.putRamp_mem (s : State) (r : Ramp) : (s.putRamp r).mem = s.mem := rfl
@[simp] theorem State.putRamp_memPoison (s : State) (r : Ramp) : (s.putRamp r).memPoison = s.memPoison := rfl
@[simp] theorem State.putRamp_fullSlots (s : State) (r : Ramp) : (s.putRamp r).fullSlots = s.fullSlots := rfl
@[simp] theorem State.putRamp_lines (s : State) (r : Ramp) : (s.putRamp r).lines = s.lines := rfl
@[simp] theorem State.putRamp_ripening (s : State) (r : Ramp) : (s.putRamp r).ripening = s.ripening := rfl
@[simp] theorem State.putRamp_forcedDoms (s : State) (r : Ramp) : (s.putRamp r).forcedDoms = s.forcedDoms := rfl
@[simp] theorem State.putRamp_armed (s : State) (r : Ramp) : (s.putRamp r).armed = s.armed := rfl
@[simp] theorem State.putRamp_reqs (s : State) (r : Ramp) : (s.putRamp r).reqs = s.reqs := rfl
@[simp] theorem State.putRamp_ldsWait (s : State) (r : Ramp) : (s.putRamp r).ldsWait = s.ldsWait := rfl
@[simp] theorem State.putRamp_parcels (s : State) (r : Ramp) : (s.putRamp r).parcels = s.parcels := rfl
@[simp] theorem State.putRamp_tlb (s : State) (r : Ramp) : (s.putRamp r).tlb = s.tlb := rfl
@[simp] theorem State.putRamp_tokens (s : State) (r : Ramp) : (s.putRamp r).tokens = s.tokens := rfl
@[simp] theorem State.putRamp_cellReqs (s : State) (r : Ramp) : (s.putRamp r).cellReqs = s.cellReqs := rfl
@[simp] theorem State.putRamp_counters (s : State) (r : Ramp) : (s.putRamp r).counters = s.counters := rfl
@[simp] theorem State.putRamp_barriers (s : State) (r : Ramp) : (s.putRamp r).barriers = s.barriers := rfl
@[simp] theorem State.putRamp_queues (s : State) (r : Ramp) : (s.putRamp r).queues = s.queues := rfl
@[simp] theorem State.putRamp_channels (s : State) (r : Ramp) : (s.putRamp r).channels = s.channels := rfl
@[simp] theorem State.putRamp_rowWrites (s : State) (r : Ramp) : (s.putRamp r).rowWrites = s.rowWrites := rfl
@[simp] theorem State.putRamp_kernels (s : State) (r : Ramp) : (s.putRamp r).kernels = s.kernels := rfl
@[simp] theorem State.putRamp_cohorts (s : State) (r : Ramp) : (s.putRamp r).cohorts = s.cohorts := rfl
@[simp] theorem State.putRamp_checks (s : State) (r : Ramp) : (s.putRamp r).checks = s.checks := rfl
@[simp] theorem State.putRamp_contexts (s : State) (r : Ramp) : (s.putRamp r).contexts = s.contexts := rfl
@[simp] theorem State.putRamp_partitions (s : State) (r : Ramp) : (s.putRamp r).partitions = s.partitions := rfl
@[simp] theorem State.putRamp_mgmt (s : State) (r : Ramp) : (s.putRamp r).mgmt = s.mgmt := rfl
@[simp] theorem State.putRamp_devWin (s : State) (r : Ramp) : (s.putRamp r).devWin = s.devWin := rfl
@[simp] theorem State.putRamp_mfqBase (s : State) (r : Ramp) : (s.putRamp r).mfqBase = s.mfqBase := rfl
@[simp] theorem State.putRamp_mfqLog (s : State) (r : Ramp) : (s.putRamp r).mfqLog = s.mfqLog := rfl
@[simp] theorem State.putRamp_mfqTail (s : State) (r : Ramp) : (s.putRamp r).mfqTail = s.mfqTail := rfl
@[simp] theorem State.putRamp_mfqLost (s : State) (r : Ramp) : (s.putRamp r).mfqLost = s.mfqLost := rfl
@[simp] theorem State.putRamp_mfqPending (s : State) (r : Ramp) : (s.putRamp r).mfqPending = s.mfqPending := rfl
@[simp] theorem State.putRamp_ports (s : State) (r : Ramp) : (s.putRamp r).ports = s.ports := rfl
@[simp] theorem State.putRamp_ethPorts (s : State) (r : Ramp) : (s.putRamp r).ethPorts = s.ethPorts := rfl
@[simp] theorem State.putRamp_tier2Owner (s : State) (r : Ramp) : (s.putRamp r).tier2Owner = s.tier2Owner := rfl
@[simp] theorem State.putRamp_tier2Held (s : State) (r : Ramp) : (s.putRamp r).tier2Held = s.tier2Held := rfl
@[simp] theorem State.putRamp_ramps (s : State) (r : Ramp) : (s.putRamp r).ramps = if s.ramps.any (fun x => x.cluster == r.cluster) then updFirst (fun x => x.cluster == r.cluster) (fun _ => r) s.ramps else s.ramps ++ [r] := rfl
@[simp] theorem State.putRamp_patrols (s : State) (r : Ramp) : (s.putRamp r).patrols = s.patrols := rfl
@[simp] theorem State.putRamp_powerLog (s : State) (r : Ramp) : (s.putRamp r).powerLog = s.powerLog := rfl
@[simp] theorem State.putRamp_powerHeld (s : State) (r : Ramp) : (s.putRamp r).powerHeld = s.powerHeld := rfl
@[simp] theorem State.putRamp_mr (s : State) (r : Ramp) : (s.putRamp r).mr = s.mr := rfl
@[simp] theorem State.putRamp_boot (s : State) (r : Ramp) : (s.putRamp r).boot = s.boot := rfl
@[simp] theorem State.putRamp_recovered (s : State) (r : Ramp) : (s.putRamp r).recovered = s.recovered := rfl
@[simp] theorem State.putRamp_svn (s : State) (r : Ramp) : (s.putRamp r).svn = s.svn := rfl
@[simp] theorem State.putRamp_seed (s : State) (r : Ramp) : (s.putRamp r).seed = s.seed := rfl
@[simp] theorem State.putRamp_certificate (s : State) (r : Ramp) : (s.putRamp r).certificate = s.certificate := rfl
@[simp] theorem State.putRamp_identity (s : State) (r : Ramp) : (s.putRamp r).identity = s.identity := rfl
@[simp] theorem State.putRamp_kemCount (s : State) (r : Ramp) : (s.putRamp r).kemCount = s.kemCount := rfl
@[simp] theorem State.putRamp_trips (s : State) (r : Ramp) : (s.putRamp r).trips = s.trips := rfl
@[simp] theorem State.putRamp_tripsRead (s : State) (r : Ramp) : (s.putRamp r).tripsRead = s.tripsRead := rfl
@[simp] theorem State.putRamp_takes (s : State) (r : Ramp) : (s.putRamp r).takes = s.takes := rfl
@[simp] theorem State.putRamp_latches (s : State) (r : Ramp) : (s.putRamp r).latches = s.latches := rfl
@[simp] theorem State.putRamp_ethDropped (s : State) (r : Ramp) : (s.putRamp r).ethDropped = s.ethDropped := rfl
@[simp] theorem State.putRamp_hypShared (s : State) (r : Ramp) : (s.putRamp r).hypShared = s.hypShared := rfl
@[simp] theorem State.putRamp_absentCores (s : State) (r : Ramp) : (s.putRamp r).absentCores = s.absentCores := rfl
@[simp] theorem State.putRamp_absentChannels (s : State) (r : Ramp) : (s.putRamp r).absentChannels = s.absentChannels := rfl
@[simp] theorem State.putRamp_absentClusters (s : State) (r : Ramp) : (s.putRamp r).absentClusters = s.absentClusters := rfl
@[simp] theorem State.putRamp_absentPorts (s : State) (r : Ramp) : (s.putRamp r).absentPorts = s.absentPorts := rfl
@[simp] theorem State.putRamp_oneLane (s : State) (r : Ramp) : (s.putRamp r).oneLane = s.oneLane := rfl
@[simp] theorem State.putRamp_absentEth (s : State) (r : Ramp) : (s.putRamp r).absentEth = s.absentEth := rfl
@[simp] theorem State.putRamp_hostOut (s : State) (r : Ramp) : (s.putRamp r).hostOut = s.hostOut := rfl
@[simp] theorem State.putRamp_ts (s : State) (r : Ramp) : (s.putRamp r).ts = s.ts := rfl
@[simp] theorem State.putRamp_free (s : State) (r : Ramp) : (s.putRamp r).free = s.free := rfl
@[simp] theorem State.putRamp_uid (s : State) (r : Ramp) : (s.putRamp r).uid = s.uid := rfl
@[simp] theorem State.putRamp_agenda (s : State) (r : Ramp) : (s.putRamp r).agenda = s.agenda := rfl

/-! ### `extend` -/

@[simp] theorem State.extend_core (s : State) (i : Nat) (digest : BitVec 256) : (s.extend i digest).core = s.core := rfl
@[simp] theorem State.extend_others (s : State) (i : Nat) (digest : BitVec 256) : (s.extend i digest).others = s.others := rfl
@[simp] theorem State.extend_mem (s : State) (i : Nat) (digest : BitVec 256) : (s.extend i digest).mem = s.mem := rfl
@[simp] theorem State.extend_memPoison (s : State) (i : Nat) (digest : BitVec 256) : (s.extend i digest).memPoison = s.memPoison := rfl
@[simp] theorem State.extend_fullSlots (s : State) (i : Nat) (digest : BitVec 256) : (s.extend i digest).fullSlots = s.fullSlots := rfl
@[simp] theorem State.extend_lines (s : State) (i : Nat) (digest : BitVec 256) : (s.extend i digest).lines = s.lines := rfl
@[simp] theorem State.extend_ripening (s : State) (i : Nat) (digest : BitVec 256) : (s.extend i digest).ripening = s.ripening := rfl
@[simp] theorem State.extend_forcedDoms (s : State) (i : Nat) (digest : BitVec 256) : (s.extend i digest).forcedDoms = s.forcedDoms := rfl
@[simp] theorem State.extend_armed (s : State) (i : Nat) (digest : BitVec 256) : (s.extend i digest).armed = s.armed := rfl
@[simp] theorem State.extend_reqs (s : State) (i : Nat) (digest : BitVec 256) : (s.extend i digest).reqs = s.reqs := rfl
@[simp] theorem State.extend_ldsWait (s : State) (i : Nat) (digest : BitVec 256) : (s.extend i digest).ldsWait = s.ldsWait := rfl
@[simp] theorem State.extend_parcels (s : State) (i : Nat) (digest : BitVec 256) : (s.extend i digest).parcels = s.parcels := rfl
@[simp] theorem State.extend_tlb (s : State) (i : Nat) (digest : BitVec 256) : (s.extend i digest).tlb = s.tlb := rfl
@[simp] theorem State.extend_tokens (s : State) (i : Nat) (digest : BitVec 256) : (s.extend i digest).tokens = s.tokens := rfl
@[simp] theorem State.extend_cellReqs (s : State) (i : Nat) (digest : BitVec 256) : (s.extend i digest).cellReqs = s.cellReqs := rfl
@[simp] theorem State.extend_counters (s : State) (i : Nat) (digest : BitVec 256) : (s.extend i digest).counters = s.counters := rfl
@[simp] theorem State.extend_barriers (s : State) (i : Nat) (digest : BitVec 256) : (s.extend i digest).barriers = s.barriers := rfl
@[simp] theorem State.extend_queues (s : State) (i : Nat) (digest : BitVec 256) : (s.extend i digest).queues = s.queues := rfl
@[simp] theorem State.extend_channels (s : State) (i : Nat) (digest : BitVec 256) : (s.extend i digest).channels = s.channels := rfl
@[simp] theorem State.extend_rowWrites (s : State) (i : Nat) (digest : BitVec 256) : (s.extend i digest).rowWrites = s.rowWrites := rfl
@[simp] theorem State.extend_kernels (s : State) (i : Nat) (digest : BitVec 256) : (s.extend i digest).kernels = s.kernels := rfl
@[simp] theorem State.extend_cohorts (s : State) (i : Nat) (digest : BitVec 256) : (s.extend i digest).cohorts = s.cohorts := rfl
@[simp] theorem State.extend_checks (s : State) (i : Nat) (digest : BitVec 256) : (s.extend i digest).checks = s.checks := rfl
@[simp] theorem State.extend_contexts (s : State) (i : Nat) (digest : BitVec 256) : (s.extend i digest).contexts = s.contexts := rfl
@[simp] theorem State.extend_partitions (s : State) (i : Nat) (digest : BitVec 256) : (s.extend i digest).partitions = s.partitions := rfl
@[simp] theorem State.extend_mgmt (s : State) (i : Nat) (digest : BitVec 256) : (s.extend i digest).mgmt = s.mgmt := rfl
@[simp] theorem State.extend_devWin (s : State) (i : Nat) (digest : BitVec 256) : (s.extend i digest).devWin = s.devWin := rfl
@[simp] theorem State.extend_mfqBase (s : State) (i : Nat) (digest : BitVec 256) : (s.extend i digest).mfqBase = s.mfqBase := rfl
@[simp] theorem State.extend_mfqLog (s : State) (i : Nat) (digest : BitVec 256) : (s.extend i digest).mfqLog = s.mfqLog := rfl
@[simp] theorem State.extend_mfqTail (s : State) (i : Nat) (digest : BitVec 256) : (s.extend i digest).mfqTail = s.mfqTail := rfl
@[simp] theorem State.extend_mfqLost (s : State) (i : Nat) (digest : BitVec 256) : (s.extend i digest).mfqLost = s.mfqLost := rfl
@[simp] theorem State.extend_mfqPending (s : State) (i : Nat) (digest : BitVec 256) : (s.extend i digest).mfqPending = s.mfqPending := rfl
@[simp] theorem State.extend_ports (s : State) (i : Nat) (digest : BitVec 256) : (s.extend i digest).ports = s.ports := rfl
@[simp] theorem State.extend_ethPorts (s : State) (i : Nat) (digest : BitVec 256) : (s.extend i digest).ethPorts = s.ethPorts := rfl
@[simp] theorem State.extend_tier2Owner (s : State) (i : Nat) (digest : BitVec 256) : (s.extend i digest).tier2Owner = s.tier2Owner := rfl
@[simp] theorem State.extend_tier2Held (s : State) (i : Nat) (digest : BitVec 256) : (s.extend i digest).tier2Held = s.tier2Held := rfl
@[simp] theorem State.extend_ramps (s : State) (i : Nat) (digest : BitVec 256) : (s.extend i digest).ramps = s.ramps := rfl
@[simp] theorem State.extend_patrols (s : State) (i : Nat) (digest : BitVec 256) : (s.extend i digest).patrols = s.patrols := rfl
@[simp] theorem State.extend_powerLog (s : State) (i : Nat) (digest : BitVec 256) : (s.extend i digest).powerLog = s.powerLog := rfl
@[simp] theorem State.extend_powerHeld (s : State) (i : Nat) (digest : BitVec 256) : (s.extend i digest).powerHeld = s.powerHeld := rfl
@[simp] theorem State.extend_mr (s : State) (i : Nat) (digest : BitVec 256) : (s.extend i digest).mr = modifyAt (fun m => extended m digest) s.mr i := rfl
@[simp] theorem State.extend_boot (s : State) (i : Nat) (digest : BitVec 256) : (s.extend i digest).boot = s.boot := rfl
@[simp] theorem State.extend_recovered (s : State) (i : Nat) (digest : BitVec 256) : (s.extend i digest).recovered = s.recovered := rfl
@[simp] theorem State.extend_svn (s : State) (i : Nat) (digest : BitVec 256) : (s.extend i digest).svn = s.svn := rfl
@[simp] theorem State.extend_seed (s : State) (i : Nat) (digest : BitVec 256) : (s.extend i digest).seed = s.seed := rfl
@[simp] theorem State.extend_certificate (s : State) (i : Nat) (digest : BitVec 256) : (s.extend i digest).certificate = s.certificate := rfl
@[simp] theorem State.extend_identity (s : State) (i : Nat) (digest : BitVec 256) : (s.extend i digest).identity = s.identity := rfl
@[simp] theorem State.extend_kemCount (s : State) (i : Nat) (digest : BitVec 256) : (s.extend i digest).kemCount = s.kemCount := rfl
@[simp] theorem State.extend_trips (s : State) (i : Nat) (digest : BitVec 256) : (s.extend i digest).trips = s.trips := rfl
@[simp] theorem State.extend_tripsRead (s : State) (i : Nat) (digest : BitVec 256) : (s.extend i digest).tripsRead = s.tripsRead := rfl
@[simp] theorem State.extend_takes (s : State) (i : Nat) (digest : BitVec 256) : (s.extend i digest).takes = s.takes := rfl
@[simp] theorem State.extend_latches (s : State) (i : Nat) (digest : BitVec 256) : (s.extend i digest).latches = s.latches := rfl
@[simp] theorem State.extend_ethDropped (s : State) (i : Nat) (digest : BitVec 256) : (s.extend i digest).ethDropped = s.ethDropped := rfl
@[simp] theorem State.extend_hypShared (s : State) (i : Nat) (digest : BitVec 256) : (s.extend i digest).hypShared = s.hypShared := rfl
@[simp] theorem State.extend_absentCores (s : State) (i : Nat) (digest : BitVec 256) : (s.extend i digest).absentCores = s.absentCores := rfl
@[simp] theorem State.extend_absentChannels (s : State) (i : Nat) (digest : BitVec 256) : (s.extend i digest).absentChannels = s.absentChannels := rfl
@[simp] theorem State.extend_absentClusters (s : State) (i : Nat) (digest : BitVec 256) : (s.extend i digest).absentClusters = s.absentClusters := rfl
@[simp] theorem State.extend_absentPorts (s : State) (i : Nat) (digest : BitVec 256) : (s.extend i digest).absentPorts = s.absentPorts := rfl
@[simp] theorem State.extend_oneLane (s : State) (i : Nat) (digest : BitVec 256) : (s.extend i digest).oneLane = s.oneLane := rfl
@[simp] theorem State.extend_absentEth (s : State) (i : Nat) (digest : BitVec 256) : (s.extend i digest).absentEth = s.absentEth := rfl
@[simp] theorem State.extend_hostOut (s : State) (i : Nat) (digest : BitVec 256) : (s.extend i digest).hostOut = s.hostOut := rfl
@[simp] theorem State.extend_ts (s : State) (i : Nat) (digest : BitVec 256) : (s.extend i digest).ts = s.ts := rfl
@[simp] theorem State.extend_free (s : State) (i : Nat) (digest : BitVec 256) : (s.extend i digest).free = s.free := rfl
@[simp] theorem State.extend_uid (s : State) (i : Nat) (digest : BitVec 256) : (s.extend i digest).uid = s.uid := rfl
@[simp] theorem State.extend_agenda (s : State) (i : Nat) (digest : BitVec 256) : (s.extend i digest).agenda = s.agenda := rfl

/-! ### `went` -/

@[simp] theorem State.went_core (s : State) (pc : BitVec 48) : (s.went pc).core = { s.core with nInstr := s.core.nInstr + 1, cur := { s.core.cur with pc := pc } } := rfl
@[simp] theorem State.went_others (s : State) (pc : BitVec 48) : (s.went pc).others = s.others := rfl
@[simp] theorem State.went_mem (s : State) (pc : BitVec 48) : (s.went pc).mem = s.mem := rfl
@[simp] theorem State.went_memPoison (s : State) (pc : BitVec 48) : (s.went pc).memPoison = s.memPoison := rfl
@[simp] theorem State.went_fullSlots (s : State) (pc : BitVec 48) : (s.went pc).fullSlots = s.fullSlots := rfl
@[simp] theorem State.went_lines (s : State) (pc : BitVec 48) : (s.went pc).lines = s.lines := rfl
@[simp] theorem State.went_ripening (s : State) (pc : BitVec 48) : (s.went pc).ripening = s.ripening := rfl
@[simp] theorem State.went_forcedDoms (s : State) (pc : BitVec 48) : (s.went pc).forcedDoms = s.forcedDoms := rfl
@[simp] theorem State.went_armed (s : State) (pc : BitVec 48) : (s.went pc).armed = s.armed := rfl
@[simp] theorem State.went_reqs (s : State) (pc : BitVec 48) : (s.went pc).reqs = s.reqs := rfl
@[simp] theorem State.went_ldsWait (s : State) (pc : BitVec 48) : (s.went pc).ldsWait = s.ldsWait := rfl
@[simp] theorem State.went_parcels (s : State) (pc : BitVec 48) : (s.went pc).parcels = s.parcels := rfl
@[simp] theorem State.went_tlb (s : State) (pc : BitVec 48) : (s.went pc).tlb = s.tlb := rfl
@[simp] theorem State.went_tokens (s : State) (pc : BitVec 48) : (s.went pc).tokens = s.tokens := rfl
@[simp] theorem State.went_cellReqs (s : State) (pc : BitVec 48) : (s.went pc).cellReqs = s.cellReqs := rfl
@[simp] theorem State.went_counters (s : State) (pc : BitVec 48) : (s.went pc).counters = s.counters := rfl
@[simp] theorem State.went_barriers (s : State) (pc : BitVec 48) : (s.went pc).barriers = s.barriers := rfl
@[simp] theorem State.went_queues (s : State) (pc : BitVec 48) : (s.went pc).queues = s.queues := rfl
@[simp] theorem State.went_channels (s : State) (pc : BitVec 48) : (s.went pc).channels = s.channels := rfl
@[simp] theorem State.went_rowWrites (s : State) (pc : BitVec 48) : (s.went pc).rowWrites = s.rowWrites := rfl
@[simp] theorem State.went_kernels (s : State) (pc : BitVec 48) : (s.went pc).kernels = s.kernels := rfl
@[simp] theorem State.went_cohorts (s : State) (pc : BitVec 48) : (s.went pc).cohorts = s.cohorts := rfl
@[simp] theorem State.went_checks (s : State) (pc : BitVec 48) : (s.went pc).checks = s.checks := rfl
@[simp] theorem State.went_contexts (s : State) (pc : BitVec 48) : (s.went pc).contexts = s.contexts := rfl
@[simp] theorem State.went_partitions (s : State) (pc : BitVec 48) : (s.went pc).partitions = s.partitions := rfl
@[simp] theorem State.went_mgmt (s : State) (pc : BitVec 48) : (s.went pc).mgmt = s.mgmt := rfl
@[simp] theorem State.went_devWin (s : State) (pc : BitVec 48) : (s.went pc).devWin = s.devWin := rfl
@[simp] theorem State.went_mfqBase (s : State) (pc : BitVec 48) : (s.went pc).mfqBase = s.mfqBase := rfl
@[simp] theorem State.went_mfqLog (s : State) (pc : BitVec 48) : (s.went pc).mfqLog = s.mfqLog := rfl
@[simp] theorem State.went_mfqTail (s : State) (pc : BitVec 48) : (s.went pc).mfqTail = s.mfqTail := rfl
@[simp] theorem State.went_mfqLost (s : State) (pc : BitVec 48) : (s.went pc).mfqLost = s.mfqLost := rfl
@[simp] theorem State.went_mfqPending (s : State) (pc : BitVec 48) : (s.went pc).mfqPending = s.mfqPending := rfl
@[simp] theorem State.went_ports (s : State) (pc : BitVec 48) : (s.went pc).ports = s.ports := rfl
@[simp] theorem State.went_ethPorts (s : State) (pc : BitVec 48) : (s.went pc).ethPorts = s.ethPorts := rfl
@[simp] theorem State.went_tier2Owner (s : State) (pc : BitVec 48) : (s.went pc).tier2Owner = s.tier2Owner := rfl
@[simp] theorem State.went_tier2Held (s : State) (pc : BitVec 48) : (s.went pc).tier2Held = s.tier2Held := rfl
@[simp] theorem State.went_ramps (s : State) (pc : BitVec 48) : (s.went pc).ramps = s.ramps := rfl
@[simp] theorem State.went_patrols (s : State) (pc : BitVec 48) : (s.went pc).patrols = s.patrols := rfl
@[simp] theorem State.went_powerLog (s : State) (pc : BitVec 48) : (s.went pc).powerLog = s.powerLog := rfl
@[simp] theorem State.went_powerHeld (s : State) (pc : BitVec 48) : (s.went pc).powerHeld = s.powerHeld := rfl
@[simp] theorem State.went_mr (s : State) (pc : BitVec 48) : (s.went pc).mr = s.mr := rfl
@[simp] theorem State.went_boot (s : State) (pc : BitVec 48) : (s.went pc).boot = s.boot := rfl
@[simp] theorem State.went_recovered (s : State) (pc : BitVec 48) : (s.went pc).recovered = s.recovered := rfl
@[simp] theorem State.went_svn (s : State) (pc : BitVec 48) : (s.went pc).svn = s.svn := rfl
@[simp] theorem State.went_seed (s : State) (pc : BitVec 48) : (s.went pc).seed = s.seed := rfl
@[simp] theorem State.went_certificate (s : State) (pc : BitVec 48) : (s.went pc).certificate = s.certificate := rfl
@[simp] theorem State.went_identity (s : State) (pc : BitVec 48) : (s.went pc).identity = s.identity := rfl
@[simp] theorem State.went_kemCount (s : State) (pc : BitVec 48) : (s.went pc).kemCount = s.kemCount := rfl
@[simp] theorem State.went_trips (s : State) (pc : BitVec 48) : (s.went pc).trips = s.trips := rfl
@[simp] theorem State.went_tripsRead (s : State) (pc : BitVec 48) : (s.went pc).tripsRead = s.tripsRead := rfl
@[simp] theorem State.went_takes (s : State) (pc : BitVec 48) : (s.went pc).takes = s.takes := rfl
@[simp] theorem State.went_latches (s : State) (pc : BitVec 48) : (s.went pc).latches = s.latches := rfl
@[simp] theorem State.went_ethDropped (s : State) (pc : BitVec 48) : (s.went pc).ethDropped = s.ethDropped := rfl
@[simp] theorem State.went_hypShared (s : State) (pc : BitVec 48) : (s.went pc).hypShared = s.hypShared := rfl
@[simp] theorem State.went_absentCores (s : State) (pc : BitVec 48) : (s.went pc).absentCores = s.absentCores := rfl
@[simp] theorem State.went_absentChannels (s : State) (pc : BitVec 48) : (s.went pc).absentChannels = s.absentChannels := rfl
@[simp] theorem State.went_absentClusters (s : State) (pc : BitVec 48) : (s.went pc).absentClusters = s.absentClusters := rfl
@[simp] theorem State.went_absentPorts (s : State) (pc : BitVec 48) : (s.went pc).absentPorts = s.absentPorts := rfl
@[simp] theorem State.went_oneLane (s : State) (pc : BitVec 48) : (s.went pc).oneLane = s.oneLane := rfl
@[simp] theorem State.went_absentEth (s : State) (pc : BitVec 48) : (s.went pc).absentEth = s.absentEth := rfl
@[simp] theorem State.went_hostOut (s : State) (pc : BitVec 48) : (s.went pc).hostOut = s.hostOut := rfl
@[simp] theorem State.went_ts (s : State) (pc : BitVec 48) : (s.went pc).ts = s.ts := rfl
@[simp] theorem State.went_free (s : State) (pc : BitVec 48) : (s.went pc).free = s.free := rfl
@[simp] theorem State.went_uid (s : State) (pc : BitVec 48) : (s.went pc).uid = s.uid := rfl
@[simp] theorem State.went_agenda (s : State) (pc : BitVec 48) : (s.went pc).agenda = s.agenda := rfl

/-! ### `issued` -/

@[simp] theorem State.issued_core (s : State) : (s.issued).core = { s.core with nInstr := s.core.nInstr + 1 } := rfl
@[simp] theorem State.issued_others (s : State) : (s.issued).others = s.others := rfl
@[simp] theorem State.issued_mem (s : State) : (s.issued).mem = s.mem := rfl
@[simp] theorem State.issued_memPoison (s : State) : (s.issued).memPoison = s.memPoison := rfl
@[simp] theorem State.issued_fullSlots (s : State) : (s.issued).fullSlots = s.fullSlots := rfl
@[simp] theorem State.issued_lines (s : State) : (s.issued).lines = s.lines := rfl
@[simp] theorem State.issued_ripening (s : State) : (s.issued).ripening = s.ripening := rfl
@[simp] theorem State.issued_forcedDoms (s : State) : (s.issued).forcedDoms = s.forcedDoms := rfl
@[simp] theorem State.issued_armed (s : State) : (s.issued).armed = s.armed := rfl
@[simp] theorem State.issued_reqs (s : State) : (s.issued).reqs = s.reqs := rfl
@[simp] theorem State.issued_ldsWait (s : State) : (s.issued).ldsWait = s.ldsWait := rfl
@[simp] theorem State.issued_parcels (s : State) : (s.issued).parcels = s.parcels := rfl
@[simp] theorem State.issued_tlb (s : State) : (s.issued).tlb = s.tlb := rfl
@[simp] theorem State.issued_tokens (s : State) : (s.issued).tokens = s.tokens := rfl
@[simp] theorem State.issued_cellReqs (s : State) : (s.issued).cellReqs = s.cellReqs := rfl
@[simp] theorem State.issued_counters (s : State) : (s.issued).counters = s.counters := rfl
@[simp] theorem State.issued_barriers (s : State) : (s.issued).barriers = s.barriers := rfl
@[simp] theorem State.issued_queues (s : State) : (s.issued).queues = s.queues := rfl
@[simp] theorem State.issued_channels (s : State) : (s.issued).channels = s.channels := rfl
@[simp] theorem State.issued_rowWrites (s : State) : (s.issued).rowWrites = s.rowWrites := rfl
@[simp] theorem State.issued_kernels (s : State) : (s.issued).kernels = s.kernels := rfl
@[simp] theorem State.issued_cohorts (s : State) : (s.issued).cohorts = s.cohorts := rfl
@[simp] theorem State.issued_checks (s : State) : (s.issued).checks = s.checks := rfl
@[simp] theorem State.issued_contexts (s : State) : (s.issued).contexts = s.contexts := rfl
@[simp] theorem State.issued_partitions (s : State) : (s.issued).partitions = s.partitions := rfl
@[simp] theorem State.issued_mgmt (s : State) : (s.issued).mgmt = s.mgmt := rfl
@[simp] theorem State.issued_devWin (s : State) : (s.issued).devWin = s.devWin := rfl
@[simp] theorem State.issued_mfqBase (s : State) : (s.issued).mfqBase = s.mfqBase := rfl
@[simp] theorem State.issued_mfqLog (s : State) : (s.issued).mfqLog = s.mfqLog := rfl
@[simp] theorem State.issued_mfqTail (s : State) : (s.issued).mfqTail = s.mfqTail := rfl
@[simp] theorem State.issued_mfqLost (s : State) : (s.issued).mfqLost = s.mfqLost := rfl
@[simp] theorem State.issued_mfqPending (s : State) : (s.issued).mfqPending = s.mfqPending := rfl
@[simp] theorem State.issued_ports (s : State) : (s.issued).ports = s.ports := rfl
@[simp] theorem State.issued_ethPorts (s : State) : (s.issued).ethPorts = s.ethPorts := rfl
@[simp] theorem State.issued_tier2Owner (s : State) : (s.issued).tier2Owner = s.tier2Owner := rfl
@[simp] theorem State.issued_tier2Held (s : State) : (s.issued).tier2Held = s.tier2Held := rfl
@[simp] theorem State.issued_ramps (s : State) : (s.issued).ramps = s.ramps := rfl
@[simp] theorem State.issued_patrols (s : State) : (s.issued).patrols = s.patrols := rfl
@[simp] theorem State.issued_powerLog (s : State) : (s.issued).powerLog = s.powerLog := rfl
@[simp] theorem State.issued_powerHeld (s : State) : (s.issued).powerHeld = s.powerHeld := rfl
@[simp] theorem State.issued_mr (s : State) : (s.issued).mr = s.mr := rfl
@[simp] theorem State.issued_boot (s : State) : (s.issued).boot = s.boot := rfl
@[simp] theorem State.issued_recovered (s : State) : (s.issued).recovered = s.recovered := rfl
@[simp] theorem State.issued_svn (s : State) : (s.issued).svn = s.svn := rfl
@[simp] theorem State.issued_seed (s : State) : (s.issued).seed = s.seed := rfl
@[simp] theorem State.issued_certificate (s : State) : (s.issued).certificate = s.certificate := rfl
@[simp] theorem State.issued_identity (s : State) : (s.issued).identity = s.identity := rfl
@[simp] theorem State.issued_kemCount (s : State) : (s.issued).kemCount = s.kemCount := rfl
@[simp] theorem State.issued_trips (s : State) : (s.issued).trips = s.trips := rfl
@[simp] theorem State.issued_tripsRead (s : State) : (s.issued).tripsRead = s.tripsRead := rfl
@[simp] theorem State.issued_takes (s : State) : (s.issued).takes = s.takes := rfl
@[simp] theorem State.issued_latches (s : State) : (s.issued).latches = s.latches := rfl
@[simp] theorem State.issued_ethDropped (s : State) : (s.issued).ethDropped = s.ethDropped := rfl
@[simp] theorem State.issued_hypShared (s : State) : (s.issued).hypShared = s.hypShared := rfl
@[simp] theorem State.issued_absentCores (s : State) : (s.issued).absentCores = s.absentCores := rfl
@[simp] theorem State.issued_absentChannels (s : State) : (s.issued).absentChannels = s.absentChannels := rfl
@[simp] theorem State.issued_absentClusters (s : State) : (s.issued).absentClusters = s.absentClusters := rfl
@[simp] theorem State.issued_absentPorts (s : State) : (s.issued).absentPorts = s.absentPorts := rfl
@[simp] theorem State.issued_oneLane (s : State) : (s.issued).oneLane = s.oneLane := rfl
@[simp] theorem State.issued_absentEth (s : State) : (s.issued).absentEth = s.absentEth := rfl
@[simp] theorem State.issued_hostOut (s : State) : (s.issued).hostOut = s.hostOut := rfl
@[simp] theorem State.issued_ts (s : State) : (s.issued).ts = s.ts := rfl
@[simp] theorem State.issued_free (s : State) : (s.issued).free = s.free := rfl
@[simp] theorem State.issued_uid (s : State) : (s.issued).uid = s.uid := rfl
@[simp] theorem State.issued_agenda (s : State) : (s.issued).agenda = s.agenda := rfl

/-! ### `withLoops` -/

@[simp] theorem State.withLoops_core (s : State) (l : List LoopEntry) : (s.withLoops l).core = { s.core with cur := { s.core.cur with loops := l } } := rfl
@[simp] theorem State.withLoops_others (s : State) (l : List LoopEntry) : (s.withLoops l).others = s.others := rfl
@[simp] theorem State.withLoops_mem (s : State) (l : List LoopEntry) : (s.withLoops l).mem = s.mem := rfl
@[simp] theorem State.withLoops_memPoison (s : State) (l : List LoopEntry) : (s.withLoops l).memPoison = s.memPoison := rfl
@[simp] theorem State.withLoops_fullSlots (s : State) (l : List LoopEntry) : (s.withLoops l).fullSlots = s.fullSlots := rfl
@[simp] theorem State.withLoops_lines (s : State) (l : List LoopEntry) : (s.withLoops l).lines = s.lines := rfl
@[simp] theorem State.withLoops_ripening (s : State) (l : List LoopEntry) : (s.withLoops l).ripening = s.ripening := rfl
@[simp] theorem State.withLoops_forcedDoms (s : State) (l : List LoopEntry) : (s.withLoops l).forcedDoms = s.forcedDoms := rfl
@[simp] theorem State.withLoops_armed (s : State) (l : List LoopEntry) : (s.withLoops l).armed = s.armed := rfl
@[simp] theorem State.withLoops_reqs (s : State) (l : List LoopEntry) : (s.withLoops l).reqs = s.reqs := rfl
@[simp] theorem State.withLoops_ldsWait (s : State) (l : List LoopEntry) : (s.withLoops l).ldsWait = s.ldsWait := rfl
@[simp] theorem State.withLoops_parcels (s : State) (l : List LoopEntry) : (s.withLoops l).parcels = s.parcels := rfl
@[simp] theorem State.withLoops_tlb (s : State) (l : List LoopEntry) : (s.withLoops l).tlb = s.tlb := rfl
@[simp] theorem State.withLoops_tokens (s : State) (l : List LoopEntry) : (s.withLoops l).tokens = s.tokens := rfl
@[simp] theorem State.withLoops_cellReqs (s : State) (l : List LoopEntry) : (s.withLoops l).cellReqs = s.cellReqs := rfl
@[simp] theorem State.withLoops_counters (s : State) (l : List LoopEntry) : (s.withLoops l).counters = s.counters := rfl
@[simp] theorem State.withLoops_barriers (s : State) (l : List LoopEntry) : (s.withLoops l).barriers = s.barriers := rfl
@[simp] theorem State.withLoops_queues (s : State) (l : List LoopEntry) : (s.withLoops l).queues = s.queues := rfl
@[simp] theorem State.withLoops_channels (s : State) (l : List LoopEntry) : (s.withLoops l).channels = s.channels := rfl
@[simp] theorem State.withLoops_rowWrites (s : State) (l : List LoopEntry) : (s.withLoops l).rowWrites = s.rowWrites := rfl
@[simp] theorem State.withLoops_kernels (s : State) (l : List LoopEntry) : (s.withLoops l).kernels = s.kernels := rfl
@[simp] theorem State.withLoops_cohorts (s : State) (l : List LoopEntry) : (s.withLoops l).cohorts = s.cohorts := rfl
@[simp] theorem State.withLoops_checks (s : State) (l : List LoopEntry) : (s.withLoops l).checks = s.checks := rfl
@[simp] theorem State.withLoops_contexts (s : State) (l : List LoopEntry) : (s.withLoops l).contexts = s.contexts := rfl
@[simp] theorem State.withLoops_partitions (s : State) (l : List LoopEntry) : (s.withLoops l).partitions = s.partitions := rfl
@[simp] theorem State.withLoops_mgmt (s : State) (l : List LoopEntry) : (s.withLoops l).mgmt = s.mgmt := rfl
@[simp] theorem State.withLoops_devWin (s : State) (l : List LoopEntry) : (s.withLoops l).devWin = s.devWin := rfl
@[simp] theorem State.withLoops_mfqBase (s : State) (l : List LoopEntry) : (s.withLoops l).mfqBase = s.mfqBase := rfl
@[simp] theorem State.withLoops_mfqLog (s : State) (l : List LoopEntry) : (s.withLoops l).mfqLog = s.mfqLog := rfl
@[simp] theorem State.withLoops_mfqTail (s : State) (l : List LoopEntry) : (s.withLoops l).mfqTail = s.mfqTail := rfl
@[simp] theorem State.withLoops_mfqLost (s : State) (l : List LoopEntry) : (s.withLoops l).mfqLost = s.mfqLost := rfl
@[simp] theorem State.withLoops_mfqPending (s : State) (l : List LoopEntry) : (s.withLoops l).mfqPending = s.mfqPending := rfl
@[simp] theorem State.withLoops_ports (s : State) (l : List LoopEntry) : (s.withLoops l).ports = s.ports := rfl
@[simp] theorem State.withLoops_ethPorts (s : State) (l : List LoopEntry) : (s.withLoops l).ethPorts = s.ethPorts := rfl
@[simp] theorem State.withLoops_tier2Owner (s : State) (l : List LoopEntry) : (s.withLoops l).tier2Owner = s.tier2Owner := rfl
@[simp] theorem State.withLoops_tier2Held (s : State) (l : List LoopEntry) : (s.withLoops l).tier2Held = s.tier2Held := rfl
@[simp] theorem State.withLoops_ramps (s : State) (l : List LoopEntry) : (s.withLoops l).ramps = s.ramps := rfl
@[simp] theorem State.withLoops_patrols (s : State) (l : List LoopEntry) : (s.withLoops l).patrols = s.patrols := rfl
@[simp] theorem State.withLoops_powerLog (s : State) (l : List LoopEntry) : (s.withLoops l).powerLog = s.powerLog := rfl
@[simp] theorem State.withLoops_powerHeld (s : State) (l : List LoopEntry) : (s.withLoops l).powerHeld = s.powerHeld := rfl
@[simp] theorem State.withLoops_mr (s : State) (l : List LoopEntry) : (s.withLoops l).mr = s.mr := rfl
@[simp] theorem State.withLoops_boot (s : State) (l : List LoopEntry) : (s.withLoops l).boot = s.boot := rfl
@[simp] theorem State.withLoops_recovered (s : State) (l : List LoopEntry) : (s.withLoops l).recovered = s.recovered := rfl
@[simp] theorem State.withLoops_svn (s : State) (l : List LoopEntry) : (s.withLoops l).svn = s.svn := rfl
@[simp] theorem State.withLoops_seed (s : State) (l : List LoopEntry) : (s.withLoops l).seed = s.seed := rfl
@[simp] theorem State.withLoops_certificate (s : State) (l : List LoopEntry) : (s.withLoops l).certificate = s.certificate := rfl
@[simp] theorem State.withLoops_identity (s : State) (l : List LoopEntry) : (s.withLoops l).identity = s.identity := rfl
@[simp] theorem State.withLoops_kemCount (s : State) (l : List LoopEntry) : (s.withLoops l).kemCount = s.kemCount := rfl
@[simp] theorem State.withLoops_trips (s : State) (l : List LoopEntry) : (s.withLoops l).trips = s.trips := rfl
@[simp] theorem State.withLoops_tripsRead (s : State) (l : List LoopEntry) : (s.withLoops l).tripsRead = s.tripsRead := rfl
@[simp] theorem State.withLoops_takes (s : State) (l : List LoopEntry) : (s.withLoops l).takes = s.takes := rfl
@[simp] theorem State.withLoops_latches (s : State) (l : List LoopEntry) : (s.withLoops l).latches = s.latches := rfl
@[simp] theorem State.withLoops_ethDropped (s : State) (l : List LoopEntry) : (s.withLoops l).ethDropped = s.ethDropped := rfl
@[simp] theorem State.withLoops_hypShared (s : State) (l : List LoopEntry) : (s.withLoops l).hypShared = s.hypShared := rfl
@[simp] theorem State.withLoops_absentCores (s : State) (l : List LoopEntry) : (s.withLoops l).absentCores = s.absentCores := rfl
@[simp] theorem State.withLoops_absentChannels (s : State) (l : List LoopEntry) : (s.withLoops l).absentChannels = s.absentChannels := rfl
@[simp] theorem State.withLoops_absentClusters (s : State) (l : List LoopEntry) : (s.withLoops l).absentClusters = s.absentClusters := rfl
@[simp] theorem State.withLoops_absentPorts (s : State) (l : List LoopEntry) : (s.withLoops l).absentPorts = s.absentPorts := rfl
@[simp] theorem State.withLoops_oneLane (s : State) (l : List LoopEntry) : (s.withLoops l).oneLane = s.oneLane := rfl
@[simp] theorem State.withLoops_absentEth (s : State) (l : List LoopEntry) : (s.withLoops l).absentEth = s.absentEth := rfl
@[simp] theorem State.withLoops_hostOut (s : State) (l : List LoopEntry) : (s.withLoops l).hostOut = s.hostOut := rfl
@[simp] theorem State.withLoops_ts (s : State) (l : List LoopEntry) : (s.withLoops l).ts = s.ts := rfl
@[simp] theorem State.withLoops_free (s : State) (l : List LoopEntry) : (s.withLoops l).free = s.free := rfl
@[simp] theorem State.withLoops_uid (s : State) (l : List LoopEntry) : (s.withLoops l).uid = s.uid := rfl
@[simp] theorem State.withLoops_agenda (s : State) (l : List LoopEntry) : (s.withLoops l).agenda = s.agenda := rfl

/-! ### `withBuffer` -/

@[simp] theorem State.withBuffer_core (s : State) (b : RepBuf) : (s.withBuffer b).core = { s.core with bufStalled := false, cur := { s.core.cur with rep := some b } } := rfl
@[simp] theorem State.withBuffer_others (s : State) (b : RepBuf) : (s.withBuffer b).others = s.others := rfl
@[simp] theorem State.withBuffer_mem (s : State) (b : RepBuf) : (s.withBuffer b).mem = s.mem := rfl
@[simp] theorem State.withBuffer_memPoison (s : State) (b : RepBuf) : (s.withBuffer b).memPoison = s.memPoison := rfl
@[simp] theorem State.withBuffer_fullSlots (s : State) (b : RepBuf) : (s.withBuffer b).fullSlots = s.fullSlots := rfl
@[simp] theorem State.withBuffer_lines (s : State) (b : RepBuf) : (s.withBuffer b).lines = s.lines := rfl
@[simp] theorem State.withBuffer_ripening (s : State) (b : RepBuf) : (s.withBuffer b).ripening = s.ripening := rfl
@[simp] theorem State.withBuffer_forcedDoms (s : State) (b : RepBuf) : (s.withBuffer b).forcedDoms = s.forcedDoms := rfl
@[simp] theorem State.withBuffer_armed (s : State) (b : RepBuf) : (s.withBuffer b).armed = s.armed := rfl
@[simp] theorem State.withBuffer_reqs (s : State) (b : RepBuf) : (s.withBuffer b).reqs = s.reqs := rfl
@[simp] theorem State.withBuffer_ldsWait (s : State) (b : RepBuf) : (s.withBuffer b).ldsWait = s.ldsWait := rfl
@[simp] theorem State.withBuffer_parcels (s : State) (b : RepBuf) : (s.withBuffer b).parcels = s.parcels := rfl
@[simp] theorem State.withBuffer_tlb (s : State) (b : RepBuf) : (s.withBuffer b).tlb = s.tlb := rfl
@[simp] theorem State.withBuffer_tokens (s : State) (b : RepBuf) : (s.withBuffer b).tokens = s.tokens := rfl
@[simp] theorem State.withBuffer_cellReqs (s : State) (b : RepBuf) : (s.withBuffer b).cellReqs = s.cellReqs := rfl
@[simp] theorem State.withBuffer_counters (s : State) (b : RepBuf) : (s.withBuffer b).counters = s.counters := rfl
@[simp] theorem State.withBuffer_barriers (s : State) (b : RepBuf) : (s.withBuffer b).barriers = s.barriers := rfl
@[simp] theorem State.withBuffer_queues (s : State) (b : RepBuf) : (s.withBuffer b).queues = s.queues := rfl
@[simp] theorem State.withBuffer_channels (s : State) (b : RepBuf) : (s.withBuffer b).channels = s.channels := rfl
@[simp] theorem State.withBuffer_rowWrites (s : State) (b : RepBuf) : (s.withBuffer b).rowWrites = s.rowWrites := rfl
@[simp] theorem State.withBuffer_kernels (s : State) (b : RepBuf) : (s.withBuffer b).kernels = s.kernels := rfl
@[simp] theorem State.withBuffer_cohorts (s : State) (b : RepBuf) : (s.withBuffer b).cohorts = s.cohorts := rfl
@[simp] theorem State.withBuffer_checks (s : State) (b : RepBuf) : (s.withBuffer b).checks = s.checks := rfl
@[simp] theorem State.withBuffer_contexts (s : State) (b : RepBuf) : (s.withBuffer b).contexts = s.contexts := rfl
@[simp] theorem State.withBuffer_partitions (s : State) (b : RepBuf) : (s.withBuffer b).partitions = s.partitions := rfl
@[simp] theorem State.withBuffer_mgmt (s : State) (b : RepBuf) : (s.withBuffer b).mgmt = s.mgmt := rfl
@[simp] theorem State.withBuffer_devWin (s : State) (b : RepBuf) : (s.withBuffer b).devWin = s.devWin := rfl
@[simp] theorem State.withBuffer_mfqBase (s : State) (b : RepBuf) : (s.withBuffer b).mfqBase = s.mfqBase := rfl
@[simp] theorem State.withBuffer_mfqLog (s : State) (b : RepBuf) : (s.withBuffer b).mfqLog = s.mfqLog := rfl
@[simp] theorem State.withBuffer_mfqTail (s : State) (b : RepBuf) : (s.withBuffer b).mfqTail = s.mfqTail := rfl
@[simp] theorem State.withBuffer_mfqLost (s : State) (b : RepBuf) : (s.withBuffer b).mfqLost = s.mfqLost := rfl
@[simp] theorem State.withBuffer_mfqPending (s : State) (b : RepBuf) : (s.withBuffer b).mfqPending = s.mfqPending := rfl
@[simp] theorem State.withBuffer_ports (s : State) (b : RepBuf) : (s.withBuffer b).ports = s.ports := rfl
@[simp] theorem State.withBuffer_ethPorts (s : State) (b : RepBuf) : (s.withBuffer b).ethPorts = s.ethPorts := rfl
@[simp] theorem State.withBuffer_tier2Owner (s : State) (b : RepBuf) : (s.withBuffer b).tier2Owner = s.tier2Owner := rfl
@[simp] theorem State.withBuffer_tier2Held (s : State) (b : RepBuf) : (s.withBuffer b).tier2Held = s.tier2Held := rfl
@[simp] theorem State.withBuffer_ramps (s : State) (b : RepBuf) : (s.withBuffer b).ramps = s.ramps := rfl
@[simp] theorem State.withBuffer_patrols (s : State) (b : RepBuf) : (s.withBuffer b).patrols = s.patrols := rfl
@[simp] theorem State.withBuffer_powerLog (s : State) (b : RepBuf) : (s.withBuffer b).powerLog = s.powerLog := rfl
@[simp] theorem State.withBuffer_powerHeld (s : State) (b : RepBuf) : (s.withBuffer b).powerHeld = s.powerHeld := rfl
@[simp] theorem State.withBuffer_mr (s : State) (b : RepBuf) : (s.withBuffer b).mr = s.mr := rfl
@[simp] theorem State.withBuffer_boot (s : State) (b : RepBuf) : (s.withBuffer b).boot = s.boot := rfl
@[simp] theorem State.withBuffer_recovered (s : State) (b : RepBuf) : (s.withBuffer b).recovered = s.recovered := rfl
@[simp] theorem State.withBuffer_svn (s : State) (b : RepBuf) : (s.withBuffer b).svn = s.svn := rfl
@[simp] theorem State.withBuffer_seed (s : State) (b : RepBuf) : (s.withBuffer b).seed = s.seed := rfl
@[simp] theorem State.withBuffer_certificate (s : State) (b : RepBuf) : (s.withBuffer b).certificate = s.certificate := rfl
@[simp] theorem State.withBuffer_identity (s : State) (b : RepBuf) : (s.withBuffer b).identity = s.identity := rfl
@[simp] theorem State.withBuffer_kemCount (s : State) (b : RepBuf) : (s.withBuffer b).kemCount = s.kemCount := rfl
@[simp] theorem State.withBuffer_trips (s : State) (b : RepBuf) : (s.withBuffer b).trips = s.trips := rfl
@[simp] theorem State.withBuffer_tripsRead (s : State) (b : RepBuf) : (s.withBuffer b).tripsRead = s.tripsRead := rfl
@[simp] theorem State.withBuffer_takes (s : State) (b : RepBuf) : (s.withBuffer b).takes = s.takes := rfl
@[simp] theorem State.withBuffer_latches (s : State) (b : RepBuf) : (s.withBuffer b).latches = s.latches := rfl
@[simp] theorem State.withBuffer_ethDropped (s : State) (b : RepBuf) : (s.withBuffer b).ethDropped = s.ethDropped := rfl
@[simp] theorem State.withBuffer_hypShared (s : State) (b : RepBuf) : (s.withBuffer b).hypShared = s.hypShared := rfl
@[simp] theorem State.withBuffer_absentCores (s : State) (b : RepBuf) : (s.withBuffer b).absentCores = s.absentCores := rfl
@[simp] theorem State.withBuffer_absentChannels (s : State) (b : RepBuf) : (s.withBuffer b).absentChannels = s.absentChannels := rfl
@[simp] theorem State.withBuffer_absentClusters (s : State) (b : RepBuf) : (s.withBuffer b).absentClusters = s.absentClusters := rfl
@[simp] theorem State.withBuffer_absentPorts (s : State) (b : RepBuf) : (s.withBuffer b).absentPorts = s.absentPorts := rfl
@[simp] theorem State.withBuffer_oneLane (s : State) (b : RepBuf) : (s.withBuffer b).oneLane = s.oneLane := rfl
@[simp] theorem State.withBuffer_absentEth (s : State) (b : RepBuf) : (s.withBuffer b).absentEth = s.absentEth := rfl
@[simp] theorem State.withBuffer_hostOut (s : State) (b : RepBuf) : (s.withBuffer b).hostOut = s.hostOut := rfl
@[simp] theorem State.withBuffer_ts (s : State) (b : RepBuf) : (s.withBuffer b).ts = s.ts := rfl
@[simp] theorem State.withBuffer_free (s : State) (b : RepBuf) : (s.withBuffer b).free = s.free := rfl
@[simp] theorem State.withBuffer_uid (s : State) (b : RepBuf) : (s.withBuffer b).uid = s.uid := rfl
@[simp] theorem State.withBuffer_agenda (s : State) (b : RepBuf) : (s.withBuffer b).agenda = s.agenda := rfl

/-! ### `withTag` -/

@[simp] theorem State.withTag_core (s : State) (t : Nat) (x : Tag) : (s.withTag t x).core = { s.core with tags := s.core.tags.set t x } := rfl
@[simp] theorem State.withTag_others (s : State) (t : Nat) (x : Tag) : (s.withTag t x).others = s.others := rfl
@[simp] theorem State.withTag_mem (s : State) (t : Nat) (x : Tag) : (s.withTag t x).mem = s.mem := rfl
@[simp] theorem State.withTag_memPoison (s : State) (t : Nat) (x : Tag) : (s.withTag t x).memPoison = s.memPoison := rfl
@[simp] theorem State.withTag_fullSlots (s : State) (t : Nat) (x : Tag) : (s.withTag t x).fullSlots = s.fullSlots := rfl
@[simp] theorem State.withTag_lines (s : State) (t : Nat) (x : Tag) : (s.withTag t x).lines = s.lines := rfl
@[simp] theorem State.withTag_ripening (s : State) (t : Nat) (x : Tag) : (s.withTag t x).ripening = s.ripening := rfl
@[simp] theorem State.withTag_forcedDoms (s : State) (t : Nat) (x : Tag) : (s.withTag t x).forcedDoms = s.forcedDoms := rfl
@[simp] theorem State.withTag_armed (s : State) (t : Nat) (x : Tag) : (s.withTag t x).armed = s.armed := rfl
@[simp] theorem State.withTag_reqs (s : State) (t : Nat) (x : Tag) : (s.withTag t x).reqs = s.reqs := rfl
@[simp] theorem State.withTag_ldsWait (s : State) (t : Nat) (x : Tag) : (s.withTag t x).ldsWait = s.ldsWait := rfl
@[simp] theorem State.withTag_parcels (s : State) (t : Nat) (x : Tag) : (s.withTag t x).parcels = s.parcels := rfl
@[simp] theorem State.withTag_tlb (s : State) (t : Nat) (x : Tag) : (s.withTag t x).tlb = s.tlb := rfl
@[simp] theorem State.withTag_tokens (s : State) (t : Nat) (x : Tag) : (s.withTag t x).tokens = s.tokens := rfl
@[simp] theorem State.withTag_cellReqs (s : State) (t : Nat) (x : Tag) : (s.withTag t x).cellReqs = s.cellReqs := rfl
@[simp] theorem State.withTag_counters (s : State) (t : Nat) (x : Tag) : (s.withTag t x).counters = s.counters := rfl
@[simp] theorem State.withTag_barriers (s : State) (t : Nat) (x : Tag) : (s.withTag t x).barriers = s.barriers := rfl
@[simp] theorem State.withTag_queues (s : State) (t : Nat) (x : Tag) : (s.withTag t x).queues = s.queues := rfl
@[simp] theorem State.withTag_channels (s : State) (t : Nat) (x : Tag) : (s.withTag t x).channels = s.channels := rfl
@[simp] theorem State.withTag_rowWrites (s : State) (t : Nat) (x : Tag) : (s.withTag t x).rowWrites = s.rowWrites := rfl
@[simp] theorem State.withTag_kernels (s : State) (t : Nat) (x : Tag) : (s.withTag t x).kernels = s.kernels := rfl
@[simp] theorem State.withTag_cohorts (s : State) (t : Nat) (x : Tag) : (s.withTag t x).cohorts = s.cohorts := rfl
@[simp] theorem State.withTag_checks (s : State) (t : Nat) (x : Tag) : (s.withTag t x).checks = s.checks := rfl
@[simp] theorem State.withTag_contexts (s : State) (t : Nat) (x : Tag) : (s.withTag t x).contexts = s.contexts := rfl
@[simp] theorem State.withTag_partitions (s : State) (t : Nat) (x : Tag) : (s.withTag t x).partitions = s.partitions := rfl
@[simp] theorem State.withTag_mgmt (s : State) (t : Nat) (x : Tag) : (s.withTag t x).mgmt = s.mgmt := rfl
@[simp] theorem State.withTag_devWin (s : State) (t : Nat) (x : Tag) : (s.withTag t x).devWin = s.devWin := rfl
@[simp] theorem State.withTag_mfqBase (s : State) (t : Nat) (x : Tag) : (s.withTag t x).mfqBase = s.mfqBase := rfl
@[simp] theorem State.withTag_mfqLog (s : State) (t : Nat) (x : Tag) : (s.withTag t x).mfqLog = s.mfqLog := rfl
@[simp] theorem State.withTag_mfqTail (s : State) (t : Nat) (x : Tag) : (s.withTag t x).mfqTail = s.mfqTail := rfl
@[simp] theorem State.withTag_mfqLost (s : State) (t : Nat) (x : Tag) : (s.withTag t x).mfqLost = s.mfqLost := rfl
@[simp] theorem State.withTag_mfqPending (s : State) (t : Nat) (x : Tag) : (s.withTag t x).mfqPending = s.mfqPending := rfl
@[simp] theorem State.withTag_ports (s : State) (t : Nat) (x : Tag) : (s.withTag t x).ports = s.ports := rfl
@[simp] theorem State.withTag_ethPorts (s : State) (t : Nat) (x : Tag) : (s.withTag t x).ethPorts = s.ethPorts := rfl
@[simp] theorem State.withTag_tier2Owner (s : State) (t : Nat) (x : Tag) : (s.withTag t x).tier2Owner = s.tier2Owner := rfl
@[simp] theorem State.withTag_tier2Held (s : State) (t : Nat) (x : Tag) : (s.withTag t x).tier2Held = s.tier2Held := rfl
@[simp] theorem State.withTag_ramps (s : State) (t : Nat) (x : Tag) : (s.withTag t x).ramps = s.ramps := rfl
@[simp] theorem State.withTag_patrols (s : State) (t : Nat) (x : Tag) : (s.withTag t x).patrols = s.patrols := rfl
@[simp] theorem State.withTag_powerLog (s : State) (t : Nat) (x : Tag) : (s.withTag t x).powerLog = s.powerLog := rfl
@[simp] theorem State.withTag_powerHeld (s : State) (t : Nat) (x : Tag) : (s.withTag t x).powerHeld = s.powerHeld := rfl
@[simp] theorem State.withTag_mr (s : State) (t : Nat) (x : Tag) : (s.withTag t x).mr = s.mr := rfl
@[simp] theorem State.withTag_boot (s : State) (t : Nat) (x : Tag) : (s.withTag t x).boot = s.boot := rfl
@[simp] theorem State.withTag_recovered (s : State) (t : Nat) (x : Tag) : (s.withTag t x).recovered = s.recovered := rfl
@[simp] theorem State.withTag_svn (s : State) (t : Nat) (x : Tag) : (s.withTag t x).svn = s.svn := rfl
@[simp] theorem State.withTag_seed (s : State) (t : Nat) (x : Tag) : (s.withTag t x).seed = s.seed := rfl
@[simp] theorem State.withTag_certificate (s : State) (t : Nat) (x : Tag) : (s.withTag t x).certificate = s.certificate := rfl
@[simp] theorem State.withTag_identity (s : State) (t : Nat) (x : Tag) : (s.withTag t x).identity = s.identity := rfl
@[simp] theorem State.withTag_kemCount (s : State) (t : Nat) (x : Tag) : (s.withTag t x).kemCount = s.kemCount := rfl
@[simp] theorem State.withTag_trips (s : State) (t : Nat) (x : Tag) : (s.withTag t x).trips = s.trips := rfl
@[simp] theorem State.withTag_tripsRead (s : State) (t : Nat) (x : Tag) : (s.withTag t x).tripsRead = s.tripsRead := rfl
@[simp] theorem State.withTag_takes (s : State) (t : Nat) (x : Tag) : (s.withTag t x).takes = s.takes := rfl
@[simp] theorem State.withTag_latches (s : State) (t : Nat) (x : Tag) : (s.withTag t x).latches = s.latches := rfl
@[simp] theorem State.withTag_ethDropped (s : State) (t : Nat) (x : Tag) : (s.withTag t x).ethDropped = s.ethDropped := rfl
@[simp] theorem State.withTag_hypShared (s : State) (t : Nat) (x : Tag) : (s.withTag t x).hypShared = s.hypShared := rfl
@[simp] theorem State.withTag_absentCores (s : State) (t : Nat) (x : Tag) : (s.withTag t x).absentCores = s.absentCores := rfl
@[simp] theorem State.withTag_absentChannels (s : State) (t : Nat) (x : Tag) : (s.withTag t x).absentChannels = s.absentChannels := rfl
@[simp] theorem State.withTag_absentClusters (s : State) (t : Nat) (x : Tag) : (s.withTag t x).absentClusters = s.absentClusters := rfl
@[simp] theorem State.withTag_absentPorts (s : State) (t : Nat) (x : Tag) : (s.withTag t x).absentPorts = s.absentPorts := rfl
@[simp] theorem State.withTag_oneLane (s : State) (t : Nat) (x : Tag) : (s.withTag t x).oneLane = s.oneLane := rfl
@[simp] theorem State.withTag_absentEth (s : State) (t : Nat) (x : Tag) : (s.withTag t x).absentEth = s.absentEth := rfl
@[simp] theorem State.withTag_hostOut (s : State) (t : Nat) (x : Tag) : (s.withTag t x).hostOut = s.hostOut := rfl
@[simp] theorem State.withTag_ts (s : State) (t : Nat) (x : Tag) : (s.withTag t x).ts = s.ts := rfl
@[simp] theorem State.withTag_free (s : State) (t : Nat) (x : Tag) : (s.withTag t x).free = s.free := rfl
@[simp] theorem State.withTag_uid (s : State) (t : Nat) (x : Tag) : (s.withTag t x).uid = s.uid := rfl
@[simp] theorem State.withTag_agenda (s : State) (t : Nat) (x : Tag) : (s.withTag t x).agenda = s.agenda := rfl

/-! ### `stored` -/

@[simp] theorem State.stored_core (s : State) (la : Nat) (bytes : List Byte) (pois : List Bool) : (s.stored la bytes pois).core = s.core.putLocal la bytes pois := rfl
@[simp] theorem State.stored_others (s : State) (la : Nat) (bytes : List Byte) (pois : List Bool) : (s.stored la bytes pois).others = s.others := rfl
@[simp] theorem State.stored_mem (s : State) (la : Nat) (bytes : List Byte) (pois : List Bool) : (s.stored la bytes pois).mem = s.mem := rfl
@[simp] theorem State.stored_memPoison (s : State) (la : Nat) (bytes : List Byte) (pois : List Bool) : (s.stored la bytes pois).memPoison = s.memPoison := rfl
@[simp] theorem State.stored_fullSlots (s : State) (la : Nat) (bytes : List Byte) (pois : List Bool) : (s.stored la bytes pois).fullSlots = s.fullSlots := rfl
@[simp] theorem State.stored_lines (s : State) (la : Nat) (bytes : List Byte) (pois : List Bool) : (s.stored la bytes pois).lines = s.lines := rfl
@[simp] theorem State.stored_ripening (s : State) (la : Nat) (bytes : List Byte) (pois : List Bool) : (s.stored la bytes pois).ripening = s.ripening := rfl
@[simp] theorem State.stored_forcedDoms (s : State) (la : Nat) (bytes : List Byte) (pois : List Bool) : (s.stored la bytes pois).forcedDoms = s.forcedDoms := rfl
@[simp] theorem State.stored_armed (s : State) (la : Nat) (bytes : List Byte) (pois : List Bool) : (s.stored la bytes pois).armed = s.armed := rfl
@[simp] theorem State.stored_reqs (s : State) (la : Nat) (bytes : List Byte) (pois : List Bool) : (s.stored la bytes pois).reqs = s.reqs := rfl
@[simp] theorem State.stored_ldsWait (s : State) (la : Nat) (bytes : List Byte) (pois : List Bool) : (s.stored la bytes pois).ldsWait = s.ldsWait := rfl
@[simp] theorem State.stored_parcels (s : State) (la : Nat) (bytes : List Byte) (pois : List Bool) : (s.stored la bytes pois).parcels = s.parcels := rfl
@[simp] theorem State.stored_tlb (s : State) (la : Nat) (bytes : List Byte) (pois : List Bool) : (s.stored la bytes pois).tlb = s.tlb := rfl
@[simp] theorem State.stored_tokens (s : State) (la : Nat) (bytes : List Byte) (pois : List Bool) : (s.stored la bytes pois).tokens = s.tokens := rfl
@[simp] theorem State.stored_cellReqs (s : State) (la : Nat) (bytes : List Byte) (pois : List Bool) : (s.stored la bytes pois).cellReqs = s.cellReqs := rfl
@[simp] theorem State.stored_counters (s : State) (la : Nat) (bytes : List Byte) (pois : List Bool) : (s.stored la bytes pois).counters = s.counters := rfl
@[simp] theorem State.stored_barriers (s : State) (la : Nat) (bytes : List Byte) (pois : List Bool) : (s.stored la bytes pois).barriers = s.barriers := rfl
@[simp] theorem State.stored_queues (s : State) (la : Nat) (bytes : List Byte) (pois : List Bool) : (s.stored la bytes pois).queues = s.queues := rfl
@[simp] theorem State.stored_channels (s : State) (la : Nat) (bytes : List Byte) (pois : List Bool) : (s.stored la bytes pois).channels = s.channels := rfl
@[simp] theorem State.stored_rowWrites (s : State) (la : Nat) (bytes : List Byte) (pois : List Bool) : (s.stored la bytes pois).rowWrites = s.rowWrites := rfl
@[simp] theorem State.stored_kernels (s : State) (la : Nat) (bytes : List Byte) (pois : List Bool) : (s.stored la bytes pois).kernels = s.kernels := rfl
@[simp] theorem State.stored_cohorts (s : State) (la : Nat) (bytes : List Byte) (pois : List Bool) : (s.stored la bytes pois).cohorts = s.cohorts := rfl
@[simp] theorem State.stored_checks (s : State) (la : Nat) (bytes : List Byte) (pois : List Bool) : (s.stored la bytes pois).checks = s.checks := rfl
@[simp] theorem State.stored_contexts (s : State) (la : Nat) (bytes : List Byte) (pois : List Bool) : (s.stored la bytes pois).contexts = s.contexts := rfl
@[simp] theorem State.stored_partitions (s : State) (la : Nat) (bytes : List Byte) (pois : List Bool) : (s.stored la bytes pois).partitions = s.partitions := rfl
@[simp] theorem State.stored_mgmt (s : State) (la : Nat) (bytes : List Byte) (pois : List Bool) : (s.stored la bytes pois).mgmt = s.mgmt := rfl
@[simp] theorem State.stored_devWin (s : State) (la : Nat) (bytes : List Byte) (pois : List Bool) : (s.stored la bytes pois).devWin = s.devWin := rfl
@[simp] theorem State.stored_mfqBase (s : State) (la : Nat) (bytes : List Byte) (pois : List Bool) : (s.stored la bytes pois).mfqBase = s.mfqBase := rfl
@[simp] theorem State.stored_mfqLog (s : State) (la : Nat) (bytes : List Byte) (pois : List Bool) : (s.stored la bytes pois).mfqLog = s.mfqLog := rfl
@[simp] theorem State.stored_mfqTail (s : State) (la : Nat) (bytes : List Byte) (pois : List Bool) : (s.stored la bytes pois).mfqTail = s.mfqTail := rfl
@[simp] theorem State.stored_mfqLost (s : State) (la : Nat) (bytes : List Byte) (pois : List Bool) : (s.stored la bytes pois).mfqLost = s.mfqLost := rfl
@[simp] theorem State.stored_mfqPending (s : State) (la : Nat) (bytes : List Byte) (pois : List Bool) : (s.stored la bytes pois).mfqPending = s.mfqPending := rfl
@[simp] theorem State.stored_ports (s : State) (la : Nat) (bytes : List Byte) (pois : List Bool) : (s.stored la bytes pois).ports = s.ports := rfl
@[simp] theorem State.stored_ethPorts (s : State) (la : Nat) (bytes : List Byte) (pois : List Bool) : (s.stored la bytes pois).ethPorts = s.ethPorts := rfl
@[simp] theorem State.stored_tier2Owner (s : State) (la : Nat) (bytes : List Byte) (pois : List Bool) : (s.stored la bytes pois).tier2Owner = s.tier2Owner := rfl
@[simp] theorem State.stored_tier2Held (s : State) (la : Nat) (bytes : List Byte) (pois : List Bool) : (s.stored la bytes pois).tier2Held = s.tier2Held := rfl
@[simp] theorem State.stored_ramps (s : State) (la : Nat) (bytes : List Byte) (pois : List Bool) : (s.stored la bytes pois).ramps = s.ramps := rfl
@[simp] theorem State.stored_patrols (s : State) (la : Nat) (bytes : List Byte) (pois : List Bool) : (s.stored la bytes pois).patrols = s.patrols := rfl
@[simp] theorem State.stored_powerLog (s : State) (la : Nat) (bytes : List Byte) (pois : List Bool) : (s.stored la bytes pois).powerLog = s.powerLog := rfl
@[simp] theorem State.stored_powerHeld (s : State) (la : Nat) (bytes : List Byte) (pois : List Bool) : (s.stored la bytes pois).powerHeld = s.powerHeld := rfl
@[simp] theorem State.stored_mr (s : State) (la : Nat) (bytes : List Byte) (pois : List Bool) : (s.stored la bytes pois).mr = s.mr := rfl
@[simp] theorem State.stored_boot (s : State) (la : Nat) (bytes : List Byte) (pois : List Bool) : (s.stored la bytes pois).boot = s.boot := rfl
@[simp] theorem State.stored_recovered (s : State) (la : Nat) (bytes : List Byte) (pois : List Bool) : (s.stored la bytes pois).recovered = s.recovered := rfl
@[simp] theorem State.stored_svn (s : State) (la : Nat) (bytes : List Byte) (pois : List Bool) : (s.stored la bytes pois).svn = s.svn := rfl
@[simp] theorem State.stored_seed (s : State) (la : Nat) (bytes : List Byte) (pois : List Bool) : (s.stored la bytes pois).seed = s.seed := rfl
@[simp] theorem State.stored_certificate (s : State) (la : Nat) (bytes : List Byte) (pois : List Bool) : (s.stored la bytes pois).certificate = s.certificate := rfl
@[simp] theorem State.stored_identity (s : State) (la : Nat) (bytes : List Byte) (pois : List Bool) : (s.stored la bytes pois).identity = s.identity := rfl
@[simp] theorem State.stored_kemCount (s : State) (la : Nat) (bytes : List Byte) (pois : List Bool) : (s.stored la bytes pois).kemCount = s.kemCount := rfl
@[simp] theorem State.stored_trips (s : State) (la : Nat) (bytes : List Byte) (pois : List Bool) : (s.stored la bytes pois).trips = s.trips := rfl
@[simp] theorem State.stored_tripsRead (s : State) (la : Nat) (bytes : List Byte) (pois : List Bool) : (s.stored la bytes pois).tripsRead = s.tripsRead := rfl
@[simp] theorem State.stored_takes (s : State) (la : Nat) (bytes : List Byte) (pois : List Bool) : (s.stored la bytes pois).takes = s.takes := rfl
@[simp] theorem State.stored_latches (s : State) (la : Nat) (bytes : List Byte) (pois : List Bool) : (s.stored la bytes pois).latches = s.latches := rfl
@[simp] theorem State.stored_ethDropped (s : State) (la : Nat) (bytes : List Byte) (pois : List Bool) : (s.stored la bytes pois).ethDropped = s.ethDropped := rfl
@[simp] theorem State.stored_hypShared (s : State) (la : Nat) (bytes : List Byte) (pois : List Bool) : (s.stored la bytes pois).hypShared = s.hypShared := rfl
@[simp] theorem State.stored_absentCores (s : State) (la : Nat) (bytes : List Byte) (pois : List Bool) : (s.stored la bytes pois).absentCores = s.absentCores := rfl
@[simp] theorem State.stored_absentChannels (s : State) (la : Nat) (bytes : List Byte) (pois : List Bool) : (s.stored la bytes pois).absentChannels = s.absentChannels := rfl
@[simp] theorem State.stored_absentClusters (s : State) (la : Nat) (bytes : List Byte) (pois : List Bool) : (s.stored la bytes pois).absentClusters = s.absentClusters := rfl
@[simp] theorem State.stored_absentPorts (s : State) (la : Nat) (bytes : List Byte) (pois : List Bool) : (s.stored la bytes pois).absentPorts = s.absentPorts := rfl
@[simp] theorem State.stored_oneLane (s : State) (la : Nat) (bytes : List Byte) (pois : List Bool) : (s.stored la bytes pois).oneLane = s.oneLane := rfl
@[simp] theorem State.stored_absentEth (s : State) (la : Nat) (bytes : List Byte) (pois : List Bool) : (s.stored la bytes pois).absentEth = s.absentEth := rfl
@[simp] theorem State.stored_hostOut (s : State) (la : Nat) (bytes : List Byte) (pois : List Bool) : (s.stored la bytes pois).hostOut = s.hostOut := rfl
@[simp] theorem State.stored_ts (s : State) (la : Nat) (bytes : List Byte) (pois : List Bool) : (s.stored la bytes pois).ts = s.ts := rfl
@[simp] theorem State.stored_free (s : State) (la : Nat) (bytes : List Byte) (pois : List Bool) : (s.stored la bytes pois).free = s.free := rfl
@[simp] theorem State.stored_uid (s : State) (la : Nat) (bytes : List Byte) (pois : List Bool) : (s.stored la bytes pois).uid = s.uid := rfl
@[simp] theorem State.stored_agenda (s : State) (la : Nat) (bytes : List Byte) (pois : List Bool) : (s.stored la bytes pois).agenda = s.agenda := rfl

/-! ### `putChannelLast` -/

@[simp] theorem State.putChannelLast_core (s : State) (c : Channel) : (s.putChannelLast c).core = s.core := rfl
@[simp] theorem State.putChannelLast_others (s : State) (c : Channel) : (s.putChannelLast c).others = s.others := rfl
@[simp] theorem State.putChannelLast_mem (s : State) (c : Channel) : (s.putChannelLast c).mem = s.mem := rfl
@[simp] theorem State.putChannelLast_memPoison (s : State) (c : Channel) : (s.putChannelLast c).memPoison = s.memPoison := rfl
@[simp] theorem State.putChannelLast_fullSlots (s : State) (c : Channel) : (s.putChannelLast c).fullSlots = s.fullSlots := rfl
@[simp] theorem State.putChannelLast_lines (s : State) (c : Channel) : (s.putChannelLast c).lines = s.lines := rfl
@[simp] theorem State.putChannelLast_ripening (s : State) (c : Channel) : (s.putChannelLast c).ripening = s.ripening := rfl
@[simp] theorem State.putChannelLast_forcedDoms (s : State) (c : Channel) : (s.putChannelLast c).forcedDoms = s.forcedDoms := rfl
@[simp] theorem State.putChannelLast_armed (s : State) (c : Channel) : (s.putChannelLast c).armed = s.armed := rfl
@[simp] theorem State.putChannelLast_reqs (s : State) (c : Channel) : (s.putChannelLast c).reqs = s.reqs := rfl
@[simp] theorem State.putChannelLast_ldsWait (s : State) (c : Channel) : (s.putChannelLast c).ldsWait = s.ldsWait := rfl
@[simp] theorem State.putChannelLast_parcels (s : State) (c : Channel) : (s.putChannelLast c).parcels = s.parcels := rfl
@[simp] theorem State.putChannelLast_tlb (s : State) (c : Channel) : (s.putChannelLast c).tlb = s.tlb := rfl
@[simp] theorem State.putChannelLast_tokens (s : State) (c : Channel) : (s.putChannelLast c).tokens = s.tokens := rfl
@[simp] theorem State.putChannelLast_cellReqs (s : State) (c : Channel) : (s.putChannelLast c).cellReqs = s.cellReqs := rfl
@[simp] theorem State.putChannelLast_counters (s : State) (c : Channel) : (s.putChannelLast c).counters = s.counters := rfl
@[simp] theorem State.putChannelLast_barriers (s : State) (c : Channel) : (s.putChannelLast c).barriers = s.barriers := rfl
@[simp] theorem State.putChannelLast_queues (s : State) (c : Channel) : (s.putChannelLast c).queues = s.queues := rfl
@[simp] theorem State.putChannelLast_channels (s : State) (c : Channel) : (s.putChannelLast c).channels = s.channels.filter (fun x => !(x.cluster == c.cluster && x.ch == c.ch)) ++ [c] := rfl
@[simp] theorem State.putChannelLast_rowWrites (s : State) (c : Channel) : (s.putChannelLast c).rowWrites = s.rowWrites := rfl
@[simp] theorem State.putChannelLast_kernels (s : State) (c : Channel) : (s.putChannelLast c).kernels = s.kernels := rfl
@[simp] theorem State.putChannelLast_cohorts (s : State) (c : Channel) : (s.putChannelLast c).cohorts = s.cohorts := rfl
@[simp] theorem State.putChannelLast_checks (s : State) (c : Channel) : (s.putChannelLast c).checks = s.checks := rfl
@[simp] theorem State.putChannelLast_contexts (s : State) (c : Channel) : (s.putChannelLast c).contexts = s.contexts := rfl
@[simp] theorem State.putChannelLast_partitions (s : State) (c : Channel) : (s.putChannelLast c).partitions = s.partitions := rfl
@[simp] theorem State.putChannelLast_mgmt (s : State) (c : Channel) : (s.putChannelLast c).mgmt = s.mgmt := rfl
@[simp] theorem State.putChannelLast_devWin (s : State) (c : Channel) : (s.putChannelLast c).devWin = s.devWin := rfl
@[simp] theorem State.putChannelLast_mfqBase (s : State) (c : Channel) : (s.putChannelLast c).mfqBase = s.mfqBase := rfl
@[simp] theorem State.putChannelLast_mfqLog (s : State) (c : Channel) : (s.putChannelLast c).mfqLog = s.mfqLog := rfl
@[simp] theorem State.putChannelLast_mfqTail (s : State) (c : Channel) : (s.putChannelLast c).mfqTail = s.mfqTail := rfl
@[simp] theorem State.putChannelLast_mfqLost (s : State) (c : Channel) : (s.putChannelLast c).mfqLost = s.mfqLost := rfl
@[simp] theorem State.putChannelLast_mfqPending (s : State) (c : Channel) : (s.putChannelLast c).mfqPending = s.mfqPending := rfl
@[simp] theorem State.putChannelLast_ports (s : State) (c : Channel) : (s.putChannelLast c).ports = s.ports := rfl
@[simp] theorem State.putChannelLast_ethPorts (s : State) (c : Channel) : (s.putChannelLast c).ethPorts = s.ethPorts := rfl
@[simp] theorem State.putChannelLast_tier2Owner (s : State) (c : Channel) : (s.putChannelLast c).tier2Owner = s.tier2Owner := rfl
@[simp] theorem State.putChannelLast_tier2Held (s : State) (c : Channel) : (s.putChannelLast c).tier2Held = s.tier2Held := rfl
@[simp] theorem State.putChannelLast_ramps (s : State) (c : Channel) : (s.putChannelLast c).ramps = s.ramps := rfl
@[simp] theorem State.putChannelLast_patrols (s : State) (c : Channel) : (s.putChannelLast c).patrols = s.patrols := rfl
@[simp] theorem State.putChannelLast_powerLog (s : State) (c : Channel) : (s.putChannelLast c).powerLog = s.powerLog := rfl
@[simp] theorem State.putChannelLast_powerHeld (s : State) (c : Channel) : (s.putChannelLast c).powerHeld = s.powerHeld := rfl
@[simp] theorem State.putChannelLast_mr (s : State) (c : Channel) : (s.putChannelLast c).mr = s.mr := rfl
@[simp] theorem State.putChannelLast_boot (s : State) (c : Channel) : (s.putChannelLast c).boot = s.boot := rfl
@[simp] theorem State.putChannelLast_recovered (s : State) (c : Channel) : (s.putChannelLast c).recovered = s.recovered := rfl
@[simp] theorem State.putChannelLast_svn (s : State) (c : Channel) : (s.putChannelLast c).svn = s.svn := rfl
@[simp] theorem State.putChannelLast_seed (s : State) (c : Channel) : (s.putChannelLast c).seed = s.seed := rfl
@[simp] theorem State.putChannelLast_certificate (s : State) (c : Channel) : (s.putChannelLast c).certificate = s.certificate := rfl
@[simp] theorem State.putChannelLast_identity (s : State) (c : Channel) : (s.putChannelLast c).identity = s.identity := rfl
@[simp] theorem State.putChannelLast_kemCount (s : State) (c : Channel) : (s.putChannelLast c).kemCount = s.kemCount := rfl
@[simp] theorem State.putChannelLast_trips (s : State) (c : Channel) : (s.putChannelLast c).trips = s.trips := rfl
@[simp] theorem State.putChannelLast_tripsRead (s : State) (c : Channel) : (s.putChannelLast c).tripsRead = s.tripsRead := rfl
@[simp] theorem State.putChannelLast_takes (s : State) (c : Channel) : (s.putChannelLast c).takes = s.takes := rfl
@[simp] theorem State.putChannelLast_latches (s : State) (c : Channel) : (s.putChannelLast c).latches = s.latches := rfl
@[simp] theorem State.putChannelLast_ethDropped (s : State) (c : Channel) : (s.putChannelLast c).ethDropped = s.ethDropped := rfl
@[simp] theorem State.putChannelLast_hypShared (s : State) (c : Channel) : (s.putChannelLast c).hypShared = s.hypShared := rfl
@[simp] theorem State.putChannelLast_absentCores (s : State) (c : Channel) : (s.putChannelLast c).absentCores = s.absentCores := rfl
@[simp] theorem State.putChannelLast_absentChannels (s : State) (c : Channel) : (s.putChannelLast c).absentChannels = s.absentChannels := rfl
@[simp] theorem State.putChannelLast_absentClusters (s : State) (c : Channel) : (s.putChannelLast c).absentClusters = s.absentClusters := rfl
@[simp] theorem State.putChannelLast_absentPorts (s : State) (c : Channel) : (s.putChannelLast c).absentPorts = s.absentPorts := rfl
@[simp] theorem State.putChannelLast_oneLane (s : State) (c : Channel) : (s.putChannelLast c).oneLane = s.oneLane := rfl
@[simp] theorem State.putChannelLast_absentEth (s : State) (c : Channel) : (s.putChannelLast c).absentEth = s.absentEth := rfl
@[simp] theorem State.putChannelLast_hostOut (s : State) (c : Channel) : (s.putChannelLast c).hostOut = s.hostOut := rfl
@[simp] theorem State.putChannelLast_ts (s : State) (c : Channel) : (s.putChannelLast c).ts = s.ts := rfl
@[simp] theorem State.putChannelLast_free (s : State) (c : Channel) : (s.putChannelLast c).free = s.free := rfl
@[simp] theorem State.putChannelLast_uid (s : State) (c : Channel) : (s.putChannelLast c).uid = s.uid := rfl
@[simp] theorem State.putChannelLast_agenda (s : State) (c : Channel) : (s.putChannelLast c).agenda = s.agenda := rfl

/-! ### `patrolled` -/

@[simp] theorem State.patrolled_core (s : State) (part pa : Nat) : (s.patrolled part pa).core = s.core := rfl
@[simp] theorem State.patrolled_others (s : State) (part pa : Nat) : (s.patrolled part pa).others = s.others := rfl
@[simp] theorem State.patrolled_mem (s : State) (part pa : Nat) : (s.patrolled part pa).mem = s.mem := rfl
@[simp] theorem State.patrolled_memPoison (s : State) (part pa : Nat) : (s.patrolled part pa).memPoison = s.memPoison := rfl
@[simp] theorem State.patrolled_fullSlots (s : State) (part pa : Nat) : (s.patrolled part pa).fullSlots = s.fullSlots := rfl
@[simp] theorem State.patrolled_lines (s : State) (part pa : Nat) : (s.patrolled part pa).lines = s.lines := rfl
@[simp] theorem State.patrolled_ripening (s : State) (part pa : Nat) : (s.patrolled part pa).ripening = s.ripening := rfl
@[simp] theorem State.patrolled_forcedDoms (s : State) (part pa : Nat) : (s.patrolled part pa).forcedDoms = s.forcedDoms := rfl
@[simp] theorem State.patrolled_armed (s : State) (part pa : Nat) : (s.patrolled part pa).armed = s.armed := rfl
@[simp] theorem State.patrolled_reqs (s : State) (part pa : Nat) : (s.patrolled part pa).reqs = s.reqs := rfl
@[simp] theorem State.patrolled_ldsWait (s : State) (part pa : Nat) : (s.patrolled part pa).ldsWait = s.ldsWait := rfl
@[simp] theorem State.patrolled_parcels (s : State) (part pa : Nat) : (s.patrolled part pa).parcels = s.parcels := rfl
@[simp] theorem State.patrolled_tlb (s : State) (part pa : Nat) : (s.patrolled part pa).tlb = s.tlb := rfl
@[simp] theorem State.patrolled_tokens (s : State) (part pa : Nat) : (s.patrolled part pa).tokens = s.tokens := rfl
@[simp] theorem State.patrolled_cellReqs (s : State) (part pa : Nat) : (s.patrolled part pa).cellReqs = s.cellReqs := rfl
@[simp] theorem State.patrolled_counters (s : State) (part pa : Nat) : (s.patrolled part pa).counters = s.counters := rfl
@[simp] theorem State.patrolled_barriers (s : State) (part pa : Nat) : (s.patrolled part pa).barriers = s.barriers := rfl
@[simp] theorem State.patrolled_queues (s : State) (part pa : Nat) : (s.patrolled part pa).queues = s.queues := rfl
@[simp] theorem State.patrolled_channels (s : State) (part pa : Nat) : (s.patrolled part pa).channels = s.channels := rfl
@[simp] theorem State.patrolled_rowWrites (s : State) (part pa : Nat) : (s.patrolled part pa).rowWrites = s.rowWrites := rfl
@[simp] theorem State.patrolled_kernels (s : State) (part pa : Nat) : (s.patrolled part pa).kernels = s.kernels := rfl
@[simp] theorem State.patrolled_cohorts (s : State) (part pa : Nat) : (s.patrolled part pa).cohorts = s.cohorts := rfl
@[simp] theorem State.patrolled_checks (s : State) (part pa : Nat) : (s.patrolled part pa).checks = s.checks := rfl
@[simp] theorem State.patrolled_contexts (s : State) (part pa : Nat) : (s.patrolled part pa).contexts = s.contexts := rfl
@[simp] theorem State.patrolled_partitions (s : State) (part pa : Nat) : (s.patrolled part pa).partitions = s.partitions := rfl
@[simp] theorem State.patrolled_mgmt (s : State) (part pa : Nat) : (s.patrolled part pa).mgmt = s.mgmt := rfl
@[simp] theorem State.patrolled_devWin (s : State) (part pa : Nat) : (s.patrolled part pa).devWin = s.devWin := rfl
@[simp] theorem State.patrolled_mfqBase (s : State) (part pa : Nat) : (s.patrolled part pa).mfqBase = s.mfqBase := rfl
@[simp] theorem State.patrolled_mfqLog (s : State) (part pa : Nat) : (s.patrolled part pa).mfqLog = s.mfqLog := rfl
@[simp] theorem State.patrolled_mfqTail (s : State) (part pa : Nat) : (s.patrolled part pa).mfqTail = s.mfqTail := rfl
@[simp] theorem State.patrolled_mfqLost (s : State) (part pa : Nat) : (s.patrolled part pa).mfqLost = s.mfqLost := rfl
@[simp] theorem State.patrolled_mfqPending (s : State) (part pa : Nat) : (s.patrolled part pa).mfqPending = s.mfqPending := rfl
@[simp] theorem State.patrolled_ports (s : State) (part pa : Nat) : (s.patrolled part pa).ports = s.ports := rfl
@[simp] theorem State.patrolled_ethPorts (s : State) (part pa : Nat) : (s.patrolled part pa).ethPorts = s.ethPorts := rfl
@[simp] theorem State.patrolled_tier2Owner (s : State) (part pa : Nat) : (s.patrolled part pa).tier2Owner = s.tier2Owner := rfl
@[simp] theorem State.patrolled_tier2Held (s : State) (part pa : Nat) : (s.patrolled part pa).tier2Held = s.tier2Held := rfl
@[simp] theorem State.patrolled_ramps (s : State) (part pa : Nat) : (s.patrolled part pa).ramps = s.ramps := rfl
@[simp] theorem State.patrolled_patrols (s : State) (part pa : Nat) : (s.patrolled part pa).patrols = assocPut s.patrols (s.patrolEngine part pa) (pa / 16 * 16 + 16) := rfl
@[simp] theorem State.patrolled_powerLog (s : State) (part pa : Nat) : (s.patrolled part pa).powerLog = s.powerLog := rfl
@[simp] theorem State.patrolled_powerHeld (s : State) (part pa : Nat) : (s.patrolled part pa).powerHeld = s.powerHeld := rfl
@[simp] theorem State.patrolled_mr (s : State) (part pa : Nat) : (s.patrolled part pa).mr = s.mr := rfl
@[simp] theorem State.patrolled_boot (s : State) (part pa : Nat) : (s.patrolled part pa).boot = s.boot := rfl
@[simp] theorem State.patrolled_recovered (s : State) (part pa : Nat) : (s.patrolled part pa).recovered = s.recovered := rfl
@[simp] theorem State.patrolled_svn (s : State) (part pa : Nat) : (s.patrolled part pa).svn = s.svn := rfl
@[simp] theorem State.patrolled_seed (s : State) (part pa : Nat) : (s.patrolled part pa).seed = s.seed := rfl
@[simp] theorem State.patrolled_certificate (s : State) (part pa : Nat) : (s.patrolled part pa).certificate = s.certificate := rfl
@[simp] theorem State.patrolled_identity (s : State) (part pa : Nat) : (s.patrolled part pa).identity = s.identity := rfl
@[simp] theorem State.patrolled_kemCount (s : State) (part pa : Nat) : (s.patrolled part pa).kemCount = s.kemCount := rfl
@[simp] theorem State.patrolled_trips (s : State) (part pa : Nat) : (s.patrolled part pa).trips = s.trips := rfl
@[simp] theorem State.patrolled_tripsRead (s : State) (part pa : Nat) : (s.patrolled part pa).tripsRead = s.tripsRead := rfl
@[simp] theorem State.patrolled_takes (s : State) (part pa : Nat) : (s.patrolled part pa).takes = s.takes := rfl
@[simp] theorem State.patrolled_latches (s : State) (part pa : Nat) : (s.patrolled part pa).latches = s.latches := rfl
@[simp] theorem State.patrolled_ethDropped (s : State) (part pa : Nat) : (s.patrolled part pa).ethDropped = s.ethDropped := rfl
@[simp] theorem State.patrolled_hypShared (s : State) (part pa : Nat) : (s.patrolled part pa).hypShared = s.hypShared := rfl
@[simp] theorem State.patrolled_absentCores (s : State) (part pa : Nat) : (s.patrolled part pa).absentCores = s.absentCores := rfl
@[simp] theorem State.patrolled_absentChannels (s : State) (part pa : Nat) : (s.patrolled part pa).absentChannels = s.absentChannels := rfl
@[simp] theorem State.patrolled_absentClusters (s : State) (part pa : Nat) : (s.patrolled part pa).absentClusters = s.absentClusters := rfl
@[simp] theorem State.patrolled_absentPorts (s : State) (part pa : Nat) : (s.patrolled part pa).absentPorts = s.absentPorts := rfl
@[simp] theorem State.patrolled_oneLane (s : State) (part pa : Nat) : (s.patrolled part pa).oneLane = s.oneLane := rfl
@[simp] theorem State.patrolled_absentEth (s : State) (part pa : Nat) : (s.patrolled part pa).absentEth = s.absentEth := rfl
@[simp] theorem State.patrolled_hostOut (s : State) (part pa : Nat) : (s.patrolled part pa).hostOut = s.hostOut := rfl
@[simp] theorem State.patrolled_ts (s : State) (part pa : Nat) : (s.patrolled part pa).ts = s.ts := rfl
@[simp] theorem State.patrolled_free (s : State) (part pa : Nat) : (s.patrolled part pa).free = s.free := rfl
@[simp] theorem State.patrolled_uid (s : State) (part pa : Nat) : (s.patrolled part pa).uid = s.uid := rfl
@[simp] theorem State.patrolled_agenda (s : State) (part pa : Nat) : (s.patrolled part pa).agenda = s.agenda := rfl

/-! ### `countShared` -/

@[simp] theorem State.countShared_core (s : State) : (s.countShared).core = s.core := rfl
@[simp] theorem State.countShared_others (s : State) : (s.countShared).others = s.others := rfl
@[simp] theorem State.countShared_mem (s : State) : (s.countShared).mem = s.mem := rfl
@[simp] theorem State.countShared_memPoison (s : State) : (s.countShared).memPoison = s.memPoison := rfl
@[simp] theorem State.countShared_fullSlots (s : State) : (s.countShared).fullSlots = s.fullSlots := rfl
@[simp] theorem State.countShared_lines (s : State) : (s.countShared).lines = s.lines := rfl
@[simp] theorem State.countShared_ripening (s : State) : (s.countShared).ripening = s.ripening := rfl
@[simp] theorem State.countShared_forcedDoms (s : State) : (s.countShared).forcedDoms = s.forcedDoms := rfl
@[simp] theorem State.countShared_armed (s : State) : (s.countShared).armed = s.armed := rfl
@[simp] theorem State.countShared_reqs (s : State) : (s.countShared).reqs = s.reqs := rfl
@[simp] theorem State.countShared_ldsWait (s : State) : (s.countShared).ldsWait = s.ldsWait := rfl
@[simp] theorem State.countShared_parcels (s : State) : (s.countShared).parcels = s.parcels := rfl
@[simp] theorem State.countShared_tlb (s : State) : (s.countShared).tlb = s.tlb := rfl
@[simp] theorem State.countShared_tokens (s : State) : (s.countShared).tokens = s.tokens := rfl
@[simp] theorem State.countShared_cellReqs (s : State) : (s.countShared).cellReqs = s.cellReqs := rfl
@[simp] theorem State.countShared_counters (s : State) : (s.countShared).counters = s.counters := rfl
@[simp] theorem State.countShared_barriers (s : State) : (s.countShared).barriers = s.barriers := rfl
@[simp] theorem State.countShared_queues (s : State) : (s.countShared).queues = s.queues := rfl
@[simp] theorem State.countShared_channels (s : State) : (s.countShared).channels = s.channels := rfl
@[simp] theorem State.countShared_rowWrites (s : State) : (s.countShared).rowWrites = s.rowWrites := rfl
@[simp] theorem State.countShared_kernels (s : State) : (s.countShared).kernels = s.kernels := rfl
@[simp] theorem State.countShared_cohorts (s : State) : (s.countShared).cohorts = s.cohorts := rfl
@[simp] theorem State.countShared_checks (s : State) : (s.countShared).checks = s.checks := rfl
@[simp] theorem State.countShared_contexts (s : State) : (s.countShared).contexts = s.contexts := rfl
@[simp] theorem State.countShared_partitions (s : State) : (s.countShared).partitions = s.partitions := rfl
@[simp] theorem State.countShared_mgmt (s : State) : (s.countShared).mgmt = s.mgmt := rfl
@[simp] theorem State.countShared_devWin (s : State) : (s.countShared).devWin = s.devWin := rfl
@[simp] theorem State.countShared_mfqBase (s : State) : (s.countShared).mfqBase = s.mfqBase := rfl
@[simp] theorem State.countShared_mfqLog (s : State) : (s.countShared).mfqLog = s.mfqLog := rfl
@[simp] theorem State.countShared_mfqTail (s : State) : (s.countShared).mfqTail = s.mfqTail := rfl
@[simp] theorem State.countShared_mfqLost (s : State) : (s.countShared).mfqLost = s.mfqLost := rfl
@[simp] theorem State.countShared_mfqPending (s : State) : (s.countShared).mfqPending = s.mfqPending := rfl
@[simp] theorem State.countShared_ports (s : State) : (s.countShared).ports = s.ports := rfl
@[simp] theorem State.countShared_ethPorts (s : State) : (s.countShared).ethPorts = s.ethPorts := rfl
@[simp] theorem State.countShared_tier2Owner (s : State) : (s.countShared).tier2Owner = s.tier2Owner := rfl
@[simp] theorem State.countShared_tier2Held (s : State) : (s.countShared).tier2Held = s.tier2Held := rfl
@[simp] theorem State.countShared_ramps (s : State) : (s.countShared).ramps = s.ramps := rfl
@[simp] theorem State.countShared_patrols (s : State) : (s.countShared).patrols = s.patrols := rfl
@[simp] theorem State.countShared_powerLog (s : State) : (s.countShared).powerLog = s.powerLog := rfl
@[simp] theorem State.countShared_powerHeld (s : State) : (s.countShared).powerHeld = s.powerHeld := rfl
@[simp] theorem State.countShared_mr (s : State) : (s.countShared).mr = s.mr := rfl
@[simp] theorem State.countShared_boot (s : State) : (s.countShared).boot = s.boot := rfl
@[simp] theorem State.countShared_recovered (s : State) : (s.countShared).recovered = s.recovered := rfl
@[simp] theorem State.countShared_svn (s : State) : (s.countShared).svn = s.svn := rfl
@[simp] theorem State.countShared_seed (s : State) : (s.countShared).seed = s.seed := rfl
@[simp] theorem State.countShared_certificate (s : State) : (s.countShared).certificate = s.certificate := rfl
@[simp] theorem State.countShared_identity (s : State) : (s.countShared).identity = s.identity := rfl
@[simp] theorem State.countShared_kemCount (s : State) : (s.countShared).kemCount = s.kemCount := rfl
@[simp] theorem State.countShared_trips (s : State) : (s.countShared).trips = s.trips := rfl
@[simp] theorem State.countShared_tripsRead (s : State) : (s.countShared).tripsRead = s.tripsRead := rfl
@[simp] theorem State.countShared_takes (s : State) : (s.countShared).takes = s.takes := rfl
@[simp] theorem State.countShared_latches (s : State) : (s.countShared).latches = s.latches := rfl
@[simp] theorem State.countShared_ethDropped (s : State) : (s.countShared).ethDropped = s.ethDropped := rfl
@[simp] theorem State.countShared_hypShared (s : State) : (s.countShared).hypShared = s.hypShared + 1 := rfl
@[simp] theorem State.countShared_absentCores (s : State) : (s.countShared).absentCores = s.absentCores := rfl
@[simp] theorem State.countShared_absentChannels (s : State) : (s.countShared).absentChannels = s.absentChannels := rfl
@[simp] theorem State.countShared_absentClusters (s : State) : (s.countShared).absentClusters = s.absentClusters := rfl
@[simp] theorem State.countShared_absentPorts (s : State) : (s.countShared).absentPorts = s.absentPorts := rfl
@[simp] theorem State.countShared_oneLane (s : State) : (s.countShared).oneLane = s.oneLane := rfl
@[simp] theorem State.countShared_absentEth (s : State) : (s.countShared).absentEth = s.absentEth := rfl
@[simp] theorem State.countShared_hostOut (s : State) : (s.countShared).hostOut = s.hostOut := rfl
@[simp] theorem State.countShared_ts (s : State) : (s.countShared).ts = s.ts := rfl
@[simp] theorem State.countShared_free (s : State) : (s.countShared).free = s.free := rfl
@[simp] theorem State.countShared_uid (s : State) : (s.countShared).uid = s.uid := rfl
@[simp] theorem State.countShared_agenda (s : State) : (s.countShared).agenda = s.agenda := rfl

/-! ### `noteCounters` -/

@[simp] theorem State.noteCounters_core (s : State) : (s.noteCounters).core = s.core := rfl
@[simp] theorem State.noteCounters_others (s : State) : (s.noteCounters).others = s.others := rfl
@[simp] theorem State.noteCounters_mem (s : State) : (s.noteCounters).mem = s.mem := rfl
@[simp] theorem State.noteCounters_memPoison (s : State) : (s.noteCounters).memPoison = s.memPoison := rfl
@[simp] theorem State.noteCounters_fullSlots (s : State) : (s.noteCounters).fullSlots = s.fullSlots := rfl
@[simp] theorem State.noteCounters_lines (s : State) : (s.noteCounters).lines = s.lines := rfl
@[simp] theorem State.noteCounters_ripening (s : State) : (s.noteCounters).ripening = s.ripening := rfl
@[simp] theorem State.noteCounters_forcedDoms (s : State) : (s.noteCounters).forcedDoms = s.forcedDoms := rfl
@[simp] theorem State.noteCounters_armed (s : State) : (s.noteCounters).armed = s.armed := rfl
@[simp] theorem State.noteCounters_reqs (s : State) : (s.noteCounters).reqs = s.reqs := rfl
@[simp] theorem State.noteCounters_ldsWait (s : State) : (s.noteCounters).ldsWait = s.ldsWait := rfl
@[simp] theorem State.noteCounters_parcels (s : State) : (s.noteCounters).parcels = s.parcels := rfl
@[simp] theorem State.noteCounters_tlb (s : State) : (s.noteCounters).tlb = s.tlb := rfl
@[simp] theorem State.noteCounters_tokens (s : State) : (s.noteCounters).tokens = s.tokens := rfl
@[simp] theorem State.noteCounters_cellReqs (s : State) : (s.noteCounters).cellReqs = s.cellReqs := rfl
@[simp] theorem State.noteCounters_counters (s : State) : (s.noteCounters).counters = s.counters := rfl
@[simp] theorem State.noteCounters_barriers (s : State) : (s.noteCounters).barriers = s.barriers := rfl
@[simp] theorem State.noteCounters_queues (s : State) : (s.noteCounters).queues = s.queues := rfl
@[simp] theorem State.noteCounters_channels (s : State) : (s.noteCounters).channels = s.channels := rfl
@[simp] theorem State.noteCounters_rowWrites (s : State) : (s.noteCounters).rowWrites = s.rowWrites := rfl
@[simp] theorem State.noteCounters_kernels (s : State) : (s.noteCounters).kernels = s.kernels := rfl
@[simp] theorem State.noteCounters_cohorts (s : State) : (s.noteCounters).cohorts = s.cohorts := rfl
@[simp] theorem State.noteCounters_checks (s : State) : (s.noteCounters).checks = s.checks := rfl
@[simp] theorem State.noteCounters_contexts (s : State) : (s.noteCounters).contexts = s.contexts := rfl
@[simp] theorem State.noteCounters_partitions (s : State) : (s.noteCounters).partitions = s.partitions.map (·.note s.ts.toNat) := rfl
@[simp] theorem State.noteCounters_mgmt (s : State) : (s.noteCounters).mgmt = s.mgmt := rfl
@[simp] theorem State.noteCounters_devWin (s : State) : (s.noteCounters).devWin = s.devWin := rfl
@[simp] theorem State.noteCounters_mfqBase (s : State) : (s.noteCounters).mfqBase = s.mfqBase := rfl
@[simp] theorem State.noteCounters_mfqLog (s : State) : (s.noteCounters).mfqLog = s.mfqLog := rfl
@[simp] theorem State.noteCounters_mfqTail (s : State) : (s.noteCounters).mfqTail = s.mfqTail := rfl
@[simp] theorem State.noteCounters_mfqLost (s : State) : (s.noteCounters).mfqLost = s.mfqLost := rfl
@[simp] theorem State.noteCounters_mfqPending (s : State) : (s.noteCounters).mfqPending = s.mfqPending := rfl
@[simp] theorem State.noteCounters_ports (s : State) : (s.noteCounters).ports = s.ports := rfl
@[simp] theorem State.noteCounters_ethPorts (s : State) : (s.noteCounters).ethPorts = s.ethPorts := rfl
@[simp] theorem State.noteCounters_tier2Owner (s : State) : (s.noteCounters).tier2Owner = s.tier2Owner := rfl
@[simp] theorem State.noteCounters_tier2Held (s : State) : (s.noteCounters).tier2Held = s.tier2Held := rfl
@[simp] theorem State.noteCounters_ramps (s : State) : (s.noteCounters).ramps = s.ramps := rfl
@[simp] theorem State.noteCounters_patrols (s : State) : (s.noteCounters).patrols = s.patrols := rfl
@[simp] theorem State.noteCounters_powerLog (s : State) : (s.noteCounters).powerLog = s.powerLog := rfl
@[simp] theorem State.noteCounters_powerHeld (s : State) : (s.noteCounters).powerHeld = s.powerHeld := rfl
@[simp] theorem State.noteCounters_mr (s : State) : (s.noteCounters).mr = s.mr := rfl
@[simp] theorem State.noteCounters_boot (s : State) : (s.noteCounters).boot = s.boot := rfl
@[simp] theorem State.noteCounters_recovered (s : State) : (s.noteCounters).recovered = s.recovered := rfl
@[simp] theorem State.noteCounters_svn (s : State) : (s.noteCounters).svn = s.svn := rfl
@[simp] theorem State.noteCounters_seed (s : State) : (s.noteCounters).seed = s.seed := rfl
@[simp] theorem State.noteCounters_certificate (s : State) : (s.noteCounters).certificate = s.certificate := rfl
@[simp] theorem State.noteCounters_identity (s : State) : (s.noteCounters).identity = s.identity := rfl
@[simp] theorem State.noteCounters_kemCount (s : State) : (s.noteCounters).kemCount = s.kemCount := rfl
@[simp] theorem State.noteCounters_trips (s : State) : (s.noteCounters).trips = s.trips := rfl
@[simp] theorem State.noteCounters_tripsRead (s : State) : (s.noteCounters).tripsRead = s.tripsRead := rfl
@[simp] theorem State.noteCounters_takes (s : State) : (s.noteCounters).takes = s.takes := rfl
@[simp] theorem State.noteCounters_latches (s : State) : (s.noteCounters).latches = s.latches := rfl
@[simp] theorem State.noteCounters_ethDropped (s : State) : (s.noteCounters).ethDropped = s.ethDropped := rfl
@[simp] theorem State.noteCounters_hypShared (s : State) : (s.noteCounters).hypShared = s.hypShared := rfl
@[simp] theorem State.noteCounters_absentCores (s : State) : (s.noteCounters).absentCores = s.absentCores := rfl
@[simp] theorem State.noteCounters_absentChannels (s : State) : (s.noteCounters).absentChannels = s.absentChannels := rfl
@[simp] theorem State.noteCounters_absentClusters (s : State) : (s.noteCounters).absentClusters = s.absentClusters := rfl
@[simp] theorem State.noteCounters_absentPorts (s : State) : (s.noteCounters).absentPorts = s.absentPorts := rfl
@[simp] theorem State.noteCounters_oneLane (s : State) : (s.noteCounters).oneLane = s.oneLane := rfl
@[simp] theorem State.noteCounters_absentEth (s : State) : (s.noteCounters).absentEth = s.absentEth := rfl
@[simp] theorem State.noteCounters_hostOut (s : State) : (s.noteCounters).hostOut = s.hostOut := rfl
@[simp] theorem State.noteCounters_ts (s : State) : (s.noteCounters).ts = s.ts := rfl
@[simp] theorem State.noteCounters_free (s : State) : (s.noteCounters).free = s.free := rfl
@[simp] theorem State.noteCounters_uid (s : State) : (s.noteCounters).uid = s.uid := rfl
@[simp] theorem State.noteCounters_agenda (s : State) : (s.noteCounters).agenda = s.agenda := rfl

end Sys2Proof.Machine
end

