-- ==== Sys2Proof/Laws/Step.lean ====
section
/-! SUPPORT. A step runs the instruction that the decoder reads: the meanings in the place of the instructions are the
meanings of the instructions. -/

namespace Sys2Proof.Machine

theorem map_bind {α β γ : Type} (o : Option α) (f : α → Option β) (g : β → γ) :
    (o.bind f).map g = o.bind (fun a => (f a).map g) := by cases o <;> rfl

theorem map_ite {α β : Type} (c : Prop) [Decidable c] (a b : Option α) (g : α → β) :
    (if c then a else b).map g = if c then a.map g else b.map g := by split <;> rfl

theorem readCompact_exec (w : Nat) : readCompact execInterp w = (readCompact interpInstr w).map exec := by
  unfold readCompact
  repeat' split
  all_goals try simp only [map_bind, map_ite]
  all_goals rfl

theorem readAlu_exec (w : Nat) : readAlu execInterp w = (readAlu interpInstr w).map exec := by
  unfold readAlu
  repeat' split
  all_goals try simp only [map_bind, map_ite]
  all_goals rfl

theorem readMulDiv_exec (w : Nat) : readMulDiv execInterp w = (readMulDiv interpInstr w).map exec := by
  unfold readMulDiv
  repeat' split
  all_goals try simp only [map_bind, map_ite]
  all_goals rfl

theorem readBits_exec (w : Nat) : readBits execInterp w = (readBits interpInstr w).map exec := by
  unfold readBits
  repeat' split
  all_goals try simp only [map_bind, map_ite]
  all_goals rfl

theorem readShiftI_exec (w : Nat) : readShiftI execInterp w = (readShiftI interpInstr w).map exec := by
  unfold readShiftI
  repeat' split
  all_goals try simp only [map_bind, map_ite]
  all_goals rfl

theorem readBr_exec (w : Nat) : readBr execInterp w = (readBr interpInstr w).map exec := by
  unfold readBr
  repeat' split
  all_goals try simp only [map_bind, map_ite]
  all_goals rfl

theorem readAct_exec (w : Nat) : readAct execInterp w = (readAct interpInstr w).map exec := by
  unfold readAct
  repeat' split
  all_goals try simp only [map_bind, map_ite]
  all_goals rfl

theorem readTraps_exec (w : Nat) : readTraps execInterp w = (readTraps interpInstr w).map exec := by
  unfold readTraps
  repeat' split
  all_goals try simp only [map_bind, map_ite]
  all_goals rfl

theorem readRow_exec (w : Nat) : Sys2Proof.readRow execInterp w = (Sys2Proof.readRow interpInstr w).map exec := by
  unfold Sys2Proof.readRow
  repeat' split
  all_goals try simp only [map_bind, map_ite]
  all_goals rfl

theorem readCache_exec (w : Nat) : readCache execInterp w = (readCache interpInstr w).map exec := by
  unfold readCache
  repeat' split
  all_goals try simp only [map_bind, map_ite]
  all_goals rfl

theorem readLds_exec (w : Nat) : readLds execInterp w = (readLds interpInstr w).map exec := by
  unfold readLds
  repeat' split
  all_goals try simp only [map_bind, map_ite]
  all_goals rfl

theorem readStf_exec (w : Nat) : readStf execInterp w = (readStf interpInstr w).map exec := by
  unfold readStf
  repeat' split
  all_goals try simp only [map_bind, map_ite]
  all_goals rfl

theorem readAtom_exec (w : Nat) : readAtom execInterp w = (readAtom interpInstr w).map exec := by
  unfold readAtom
  repeat' split
  all_goals try simp only [map_bind, map_ite]
  all_goals rfl

theorem readOrder_exec (w : Nat) : readOrder execInterp w = (readOrder interpInstr w).map exec := by
  unfold readOrder
  repeat' split
  all_goals try simp only [map_bind, map_ite]
  all_goals rfl

theorem readVF_exec (w : Nat) : readVF execInterp w = (readVF interpInstr w).map exec := by
  unfold readVF
  repeat' split
  all_goals try simp only [map_bind, map_ite]
  all_goals rfl

theorem readVI_exec (w : Nat) : readVI execInterp w = (readVI interpInstr w).map exec := by
  unfold readVI
  repeat' split
  all_goals try simp only [map_bind, map_ite]
  all_goals rfl

theorem readVL_exec (w : Nat) : readVL execInterp w = (readVL interpInstr w).map exec := by
  unfold readVL
  repeat' split
  all_goals try simp only [map_bind, map_ite]
  all_goals rfl

theorem readVC_exec (w : Nat) : readVC execInterp w = (readVC interpInstr w).map exec := by
  unfold readVC
  repeat' split
  all_goals try simp only [map_bind, map_ite]
  all_goals rfl

theorem readVM_exec (w : Nat) : readVM execInterp w = (readVM interpInstr w).map exec := by
  unfold readVM
  repeat' split
  all_goals try simp only [map_bind, map_ite]
  all_goals rfl

theorem readVX_exec (w : Nat) : readVX execInterp w = (readVX interpInstr w).map exec := by
  unfold readVX
  repeat' split
  all_goals try simp only [map_bind, map_ite]
  all_goals rfl

theorem readVP_exec (w : Nat) : readVP execInterp w = (readVP interpInstr w).map exec := by
  unfold readVP
  repeat' split
  all_goals try simp only [map_bind, map_ite]
  all_goals rfl

theorem readKop_exec (w : Nat) : readKop execInterp w = (readKop interpInstr w).map exec := by
  unfold readKop
  repeat' split
  all_goals try simp only [map_bind, map_ite]
  all_goals rfl

theorem readTt_exec (w : Nat) : readTt execInterp w = (readTt interpInstr w).map exec := by
  unfold readTt
  repeat' split
  all_goals try simp only [map_bind, map_ite]
  all_goals rfl

theorem readTld_exec (w : Nat) : readTld execInterp w = (readTld interpInstr w).map exec := by
  unfold readTld
  repeat' split
  all_goals try simp only [map_bind, map_ite]
  all_goals rfl

theorem readKmem_exec (w : Nat) : readKmem execInterp w = (readKmem interpInstr w).map exec := by
  unfold readKmem
  repeat' split
  all_goals try simp only [map_bind, map_ite]
  all_goals rfl

theorem readPctl_exec (w : Nat) : readPctl execInterp w = (readPctl interpInstr w).map exec := by
  unfold readPctl
  repeat' split
  all_goals try simp only [map_bind, map_ite]
  all_goals rfl

theorem readBatch_exec (w : Nat) : readBatch execInterp w = (readBatch interpInstr w).map exec := by
  unfold readBatch
  repeat' split
  all_goals try simp only [map_bind, map_ite]
  all_goals rfl

theorem readCnt_exec (w : Nat) : readCnt execInterp w = (readCnt interpInstr w).map exec := by
  unfold readCnt
  repeat' split
  all_goals try simp only [map_bind, map_ite]
  all_goals rfl

theorem readBar_exec (w : Nat) : readBar execInterp w = (readBar interpInstr w).map exec := by
  unfold readBar
  repeat' split
  all_goals try simp only [map_bind, map_ite]
  all_goals rfl

theorem readMsg_exec (w : Nat) : readMsg execInterp w = (readMsg interpInstr w).map exec := by
  unfold readMsg
  repeat' split
  all_goals try simp only [map_bind, map_ite]
  all_goals rfl

theorem readSys_exec (w : Nat) : readSys execInterp w = (readSys interpInstr w).map exec := by
  unfold readSys
  repeat' split
  all_goals try simp only [map_bind, map_ite]
  all_goals rfl

theorem readWord_exec (w : Nat) : readWord execInterp w = (readWord interpInstr w).map exec := by
  unfold readWord
  split
  all_goals first
    | exact readAlu_exec w
    | exact readMulDiv_exec w
    | exact readBits_exec w
    | exact readShiftI_exec w
    | exact readBr_exec w
    | exact readAct_exec w
    | exact readTraps_exec w
    | exact readRow_exec w
    | exact readCache_exec w
    | exact readLds_exec w
    | exact readStf_exec w
    | exact readAtom_exec w
    | exact readOrder_exec w
    | exact readVF_exec w
    | exact readVI_exec w
    | exact readVL_exec w
    | exact readVC_exec w
    | exact readVM_exec w
    | exact readVX_exec w
    | exact readVP_exec w
    | exact readKop_exec w
    | exact readTt_exec w
    | exact readTld_exec w
    | exact readKmem_exec w
    | exact readPctl_exec w
    | exact readBatch_exec w
    | exact readCnt_exec w
    | exact readBar_exec w
    | exact readMsg_exec w
    | exact readSys_exec w
    | rfl
    | (simp only [map_bind, map_ite]; rfl)

/-- Running an encoding is running the instruction it decodes to. -/
theorem runWord_eq (w : Nat) :
    runWord w = (if w % 2 = 0 then decodeHalf w else decodeWord w).map exec := by
  simp only [runWord, decodeHalf, decodeWord]
  split
  · exact readCompact_exec w
  · exact readWord_exec w

/-- Without queues and kernels the dispatchers have nothing to notice, and only the clock moves on. -/
theorem notice_quiet (s : State) (hq : s.queues = []) (hk : s.kernels = []) : s.notice = s := by
  simp [State.notice, State.noticeSlots, State.noticeWrites, State.noticeWaits, hq, hk]

theorem clock_quiet (s : State) (hq : s.queues = []) (hk : s.kernels = []) : s.clock = s.tickClock := by
  rw [State.clock, notice_quiet s hq hk]

end Sys2Proof.Machine
end

