-- ==== Sys2Proof/Tests/Slice0.lean ====
section
/-! SUPPORT. The model's own tests: words of the spec's encodings, terms that well-formedness refuses, values from the
spec's examples, single steps, and states that meet the hypotheses of the statements. -/

-- One theorem at a time: many kernel evaluations at once would need a thread, and its stack, each.
set_option Elab.async false

namespace Sys2Proof.Tests

open Sys2Proof Sys2Proof.Machine

/-! ## States for the tests -/

/-- A core of partition 0 with an activation that can issue, as `withFetchWord` places one. -/
def live : State := State.reset.placePart.placeKernel.placeThread

/-- The same with a change to the core. -/
def onCore (f : Core → Core) (s : State) : State := { s with core := f s.core }

/-- The same with a change to the running activation. -/
def onAct (f : Act → Act) : State → State := onCore (fun c => { c with cur := { c.cur with act := f c.cur.act } })

/-- A register with a value. -/
def reg (i : BitVec 5) (v : Word) : State → State := onCore (·.putReg i (.clean v))

/-- A register with a poisoned value. -/
def bad (i : BitVec 5) : State → State := onCore (·.putReg i { bits := 5, taint := false, poison := true })

/-- The activation irrevocable. -/
def opened : State → State := onAct (fun a => { a with revocable := false })

/-- Privileged mode. -/
def priv : State → State := onCore (fun c => { c with priv := true })

/-- What `State.Ready` says, as a test. -/
def readyB (s : State) : Bool :=
  s.core.active && s.core.cur.slots.isEmpty && s.core.cur.rep.isNone && s.core.cur.loops.isEmpty && s.core.frame.isNone &&
    s.core.cur.act.check.isNone && s.armed.isEmpty && decide (s.core.regLimit = 32)

theorem ready_of {s : State} (h : readyB s = true) : s.Ready := by
  simp only [readyB, Bool.and_eq_true, List.isEmpty_iff, Option.isNone_iff_eq_none, decide_eq_true_eq] at h
  obtain ⟨⟨⟨⟨⟨⟨⟨a, b⟩, c⟩, d⟩, e⟩, f⟩, g⟩, i⟩ := h
  exact ⟨a, b, c, d, fun fr h => by simp [e] at h, f, g, i⟩

/-- A result that is a value in a state, with a property of both. -/
def okAnd {α : Type} (r : EStateM.Result Stop State α) (p : α → State → Bool) : Bool :=
  match r with
  | .ok a t => p a t
  | .error _ _ => false

theorem ok_of {α : Type} {r : EStateM.Result Stop State α} {p : α → State → Bool} (h : okAnd r p = true) :
    ∃ a t, r = .ok a t ∧ p a t = true := by
  cases r with
  | ok a t => exact ⟨a, t, rfl, h⟩
  | error e t => simp [okAnd] at h

/-- A property of the state after a step. -/
def next (r : Host.Outcome State Fault Refusal) (p : State → Bool) : Bool :=
  match r with
  | .next t => p t
  | .fault _ => false
  | .refused _ => false

/-! ## Witnesses: states and operands that meet the hypotheses of each clause -/

/-- `withFetchWord` after reset, as the core has its turn. -/
def placed (w : Nat) : State := (State.reset.withFetchWord 32 w).atTurn []

theorem placed_code : ((placed 0x00102181).codeWord 0x10000).1 = .word 0x00102181 ∧
    ((placed 0xFFFFFFFF).codeWord 0x10000).1 = .word 0xFFFFFFFF := by decide

theorem placed_turn : (placed 0x00102181).core.active = true ∧ (placed 0x00102181).core.frozen = false ∧
    (placed 0x00102181).core.pressFault = none ∧ (placed 0x00102181).core.testDue = false ∧
    (placed 0x00102181).core.cur.pc.toNat = 0x10000 ∧ (placed 0xFFFFFFFF).core.active = true ∧
    (placed 0xFFFFFFFF).core.frozen = false ∧ (placed 0xFFFFFFFF).core.pressFault = none ∧
    (placed 0xFFFFFFFF).core.testDue = false ∧ (placed 0xFFFFFFFF).core.cur.pc.toNat = 0x10000 := by decide

theorem with_rest {α β : Type} {x : α × β} {a : α} (h : x.1 = a) : ∃ t, x = (a, t) := ⟨x.2, by rw [← h]⟩

theorem wit_StepRunsDecoded_word : (State.reset.withFetchWord 32 0x00102181).agenda = .integer :: [] ∧
    (∃ t, (placed 0x00102181).codeWord 0x10000 = (.word 0x00102181, t)) ∧
    decoded 0x00102181 = some (.add (.w 3) (.w 1) (.w 2)) :=
  ⟨rfl, with_rest placed_code.1, rfl⟩

theorem wit_StepRunsDecoded_ill : (State.reset.withFetchWord 32 0xFFFFFFFF).agenda = .integer :: [] ∧
    (∃ t, (placed 0xFFFFFFFF).codeWord 0x10000 = (.word 0xFFFFFFFF, t)) ∧ decoded 0xFFFFFFFF = none :=
  ⟨rfl, with_rest placed_code.2, rfl⟩

theorem wit_StepRunsDecoded_bad : ∃ (s : State) (rest : List Turn) (b : Bad) (va : Nat) (t : State),
    s.agenda = .integer :: rest ∧ (s.atTurn rest).core.active = true ∧ (s.atTurn rest).core.frozen = false ∧
    (s.atTurn rest).core.pressFault = none ∧ (s.atTurn rest).core.testDue = false ∧
    (s.atTurn rest).codeWord (s.atTurn rest).core.cur.pc.toNat = (.bad b va, t) :=
  ⟨{ live with
      agenda := [.integer], core := { live.core with cur := { live.core.cur with pc := 0xFFFFFFFE0000 } } }, [], _, _, _,
    rfl, rfl, rfl, rfl, rfl, rfl⟩

theorem wit_StepRunsDecoded_event : ∃ (s : State) (rest : List Turn) (i : Instr), s.agenda = .event i :: rest ∧ i.len = 0 :=
  ⟨{ live with agenda := [.event .skip] }, [], .skip, rfl, rfl⟩

theorem wit_StepRunsDecoded_placed : ∃ (w : Nat) (i : Instr), w < 2 ^ 32 ∧ (w % 2 = 0 → w < 2 ^ 16) ∧ decoded w = some i :=
  ⟨0x00102181, _, by decide, by decide, rfl⟩

theorem wit_EncodingRoundTrip : (Instr.add (.w 3) (.w 1) (.w 31)).wf = true ∧ (Instr.add (.w 3) (.w 1) (.w 31)).len ≠ 0 := by
  decide

theorem wit_MemoryStaysCanonical : ∃ s t : State, s.memWf = true ∧ step s = .next t :=
  ⟨{ State.reset with agenda := [.focus 1] }, _, rfl, rfl⟩

/-- What `State.Issues` says holds in `live`. -/
theorem live_issues : live.Issues := ⟨rfl, rfl, rfl, rfl⟩

/-- `live` with a kernel of 16 registers. -/
def few : State := onCore (fun c => { c with kern := c.kern.map (fun k => { k with regs := 16 }) }) live

theorem wit_IssueFaults : (Instr.add .inq .z .z).len ≠ 0 ∧ (Instr.add .inq .z .z).wf = false ∧ live.Issues ∧ Privileged .rte ∧
    Instr.rte.wf = true ∧ live.core.priv = false ∧ live.core.inHandler = false ∧ Privileged .idle ∧ Instr.idle.wf = true ∧
    Instr.idle ≠ .rte := ⟨by decide, rfl, live_issues, .rte, rfl, rfl, rfl, .idle, rfl, by decide⟩

/-- A core that has a handler. -/
def vectored : State := onCore (fun c => { c with tvec := 0x8000 }) (bad 3 (reg 2 7 (reg 1 5 live)))

/-- Its handler, in user mode. -/
def dropped : State := onCore (fun c => { c with priv := false }) (vectored.startHandler (simpleTrap cBRK 0) 0x10000)

theorem wit_IssueFaults_rte : dropped.Issues ∧ dropped.core.priv = false ∧ dropped.core.inHandler = true ∧
    dropped.core.frame.isSome = true := ⟨⟨rfl, rfl, rfl, rfl⟩, rfl, rfl, rfl⟩

theorem wit_IssueFaults_regs : Binary (.add (.w 16) (.w 15) (.w 31)) (.w 16) (.w 15) (.w 31) (fun x y => x + y) ∧
    (Instr.add (.w 16) (.w 15) (.w 31)).wf = true ∧ few.Issues ∧
    LowestFrom few.core.regLimit 16 ((RSpec.w 16).regs ++ (RSpec.w 15).regs ++ (RSpec.w 31).regs) ∧
    Unary (.clz (.w 31) (.w 16)) (.w 31) (.w 16) (fun x => .ofNat 64 (clzBits 64 x.toNat)) ∧
    (Instr.clz (.w 31) (.w 16)).wf = true ∧ LowestFrom few.core.regLimit 16 ((RSpec.w 31).regs ++ (RSpec.w 16).regs) :=
  ⟨.add .., rfl, ⟨rfl, rfl, rfl, rfl⟩, by unfold LowestFrom; decide, .clz .., rfl, by unfold LowestFrom; decide⟩

/-- Registers 1 and 2 with values, 3 poisoned. -/
def three : State := bad 3 (reg 2 7 (reg 1 5 live))

theorem three_ready : three.Ready := ready_of rfl

theorem wit_PoisonConsumed_branch : ∃ (s s1 s2 : State) (i : Instr) (a b : RSpec) (off : BitVec 10)
    (p : Word → Word → Bool) (x y : Val), Branch i a b off p ∧ i.wf = true ∧ s.Ready ∧ s.src a = some (x, s1) ∧
    x.poison = false ∧ s1.src b = some (y, s2) ∧ y.poison = true :=
  ⟨three, three, three, _, .w 1, .w 3, 4, _, _, _, .beq .., rfl, three_ready, rfl, rfl, rfl, rfl⟩

theorem wit_PoisonConsumed_first : ∃ (s s1 : State) (i : Instr) (a b : RSpec) (off : BitVec 10)
    (p : Word → Word → Bool) (x : Val), Branch i a b off p ∧ i.wf = true ∧ s.Ready ∧ s.src a = some (x, s1) ∧
    x.poison = true := ⟨three, three, _, .w 3, .w 1, 4, _, _, .beq .., rfl, three_ready, rfl, rfl⟩

theorem wit_PoisonConsumed_jalr : ∃ (s1 : State) (x : Val), (Instr.jalr .z (.w 3) 0).wf = true ∧ three.Ready ∧
    three.src (.w 3) = some (x, s1) ∧ x.poison = true ∧ (Instr.loop (.w 3) 8).wf = true :=
  ⟨_, _, rfl, three_ready, rfl, rfl, rfl⟩

/-- An activation at the end of a loop whose count is poisoned. -/
def atEnd : State := onCore (fun c => { c with tvec := 0x8000, cur := { c.cur with
  pc := 0x10010, loops := [{ start := 0x10000, stop := 0x10010, c := .w 3 }] } }) three

theorem wit_PoisonConsumed_end : ∃ (s : State) (e : LoopEntry) (i : BitVec 5), s.core.active = true ∧
    s.core.frozen = false ∧ s.core.pressFault = none ∧ s.core.cur.slots = [] ∧ s.core.frame = none ∧
    s.core.cur.act.check = none ∧ s.armed = [] ∧ s.core.cur.loops = [e] ∧ e.c = .w i ∧ s.core.cur.pc = e.stop ∧
    (s.core.regVal i).poison = true ∧ s.core.tvec ≠ 0 ∧ s.core.inHandler = false ∧
    s.core.cur.act.canRedeliver = false ∧ s.core.cur.act.redeliv = false :=
  ⟨atEnd, _, 3, rfl, rfl, rfl, rfl, rfl, rfl, rfl, rfl, rfl, rfl, rfl, by decide, rfl, rfl, rfl⟩

theorem wit_TwoSourceResult : ∃ (s s1 s2 s3 : State) (i : Instr) (d a b : RSpec) (f : Word → Word → Word) (x y : Val),
    Binary i d a b f ∧ i.wf = true ∧ s.Ready ∧ s.src a = some (x, s1) ∧ s1.src b = some (y, s2) ∧
    s2.dst { bits := f x.bits y.bits, taint := x.taint || y.taint, poison := x.poison || y.poison } d = some s3 :=
  ⟨three, three, three, _, _, .w 31, .w 1, .w 3, _, _, _, .sub .., rfl, three_ready, rfl, rfl, rfl⟩

theorem wit_OneSourceResult : ∃ (s s1 s2 : State) (i : Instr) (d a : RSpec) (f : Word → Word) (x : Val),
    Unary i d a f ∧ i.wf = true ∧ s.Ready ∧ s.src a = some (x, s1) ∧
    s1.dst { bits := f x.bits, taint := x.taint, poison := x.poison } d = some s2 :=
  ⟨three, _, _, _, .z, .inq, _, _, .clz .., rfl, three_ready, rfl, rfl⟩

theorem wit_OneSourceResult_constant : ∃ (s s1 : State) (i : Instr) (d : RSpec) (f : BitVec 48 → Word),
    Constant i d f ∧ i.wf = true ∧ s.Ready ∧ s.dst { bits := f s.core.cur.pc, taint := false, poison := false } d = some s1 :=
  ⟨three, _, _, .w 0, _, .addpc _ 0x7FFFF, rfl, three_ready, rfl⟩

theorem wit_MulDivResult : ∃ (s s1 s2 s3 : State) (i : Instr) (d a b : RSpec) (f : Word → Word → Word) (x y : Val),
    MulDiv i d a b 0 f ∧ i.wf = true ∧ s.Ready ∧ s.src a = some (x, s1) ∧ s1.src b = some (y, s2) ∧
    s2.dst { bits := f x.bits y.bits, taint := x.taint || y.taint, poison := x.poison || y.poison } d = some s3 :=
  ⟨three, three, three, _, _, .w 4, .w 1, .w 5, _, _, _, .div .., rfl, three_ready, rfl, rfl, rfl⟩

theorem wit_MulDivResult_window : MulDiv (.rem .z (.w 1) (.w 2) 15) .z (.w 1) (.w 2) 15
      (fun x y => if y = 0 then x else .ofInt 64 (x.toInt.tmod y.toInt)) ∧
    (Instr.rem .z (.w 1) (.w 2) 15).wf = true ∧ three.src (.w 1) = some (.clean 5, three) ∧
    three.src (.w 2) = some (.clean 7, three) ∧ (15 : BitVec 4) ≠ 0 ∧ three.openable .z = some three :=
  ⟨.rem .., rfl, rfl, rfl, by decide, rfl⟩

theorem wit_BranchesAndJumps : ∃ (s s1 s2 : State) (i : Instr) (a b : RSpec) (off : BitVec 10)
    (p : Word → Word → Bool) (x y : Val), Branch i a b off p ∧ i.wf = true ∧ s.Ready ∧ s.src a = some (x, s1) ∧
    s1.src b = some (y, s2) ∧ x.poison = false ∧ y.poison = false :=
  ⟨three, three, three, _, .w 1, .w 2, 0x200, _, _, _, .bltu .., rfl, three_ready, rfl, rfl, rfl, rfl⟩

theorem wit_BranchesAndJumps_poison : ∃ (s s1 s2 : State) (i : Instr) (a b : RSpec) (off : BitVec 10)
    (p : Word → Word → Bool) (x y : Val), Branch i a b off p ∧ i.wf = true ∧ s.Ready ∧ s.src a = some (x, s1) ∧
    s1.src b = some (y, s2) ∧ x.poison = true :=
  ⟨three, three, three, _, .w 3, .z, 0x200, _, _, _, .bbs _ 63 _, rfl, three_ready, rfl, rfl, rfl⟩

theorem wit_BranchesAndJumps_jal : ∃ t, three.Ready ∧
    three.dst { bits := (three.core.cur.pc + 4).setWidth 64, taint := false, poison := false } (.w 31) = some t :=
  ⟨_, three_ready, rfl⟩

theorem wit_BranchesAndJumps_jalr : ∃ (s s1 t : State) (d a : RSpec) (imm : BitVec 13) (x : Val),
    (Instr.jalr d a imm).wf = true ∧ s.Ready ∧ s.src a = some (x, s1) ∧ x.poison = false ∧
    ((x.bits + imm.signExtend 64 * 2).setWidth 48).getLsbD 0 = false ∧
    s1.dst { bits := (s.core.cur.pc + 4).setWidth 64, taint := false, poison := false } d = some t :=
  ⟨three, three, _, .z, .z, 0x1000, _, rfl, three_ready, rfl, rfl, rfl, rfl⟩

theorem wit_BranchesAndJumps_odd : ∃ (s s1 : State) (d a : RSpec) (imm : BitVec 13) (x : Val),
    (Instr.jalr d a imm).wf = true ∧ s.Ready ∧ s.src a = some (x, s1) ∧ x.poison = false ∧
    ((x.bits + imm.signExtend 64 * 2).setWidth 48).getLsbD 0 = true :=
  ⟨three, three, .z, .w 1, 1, _, rfl, three_ready, rfl, rfl, rfl⟩

theorem wit_LoopAndRep_zero : (Instr.loop .z 0x7FFFF).wf = true ∧ three.Ready ∧ three.src .z = some (.clean 0, three) :=
  ⟨rfl, three_ready, rfl⟩

theorem wit_LoopAndRep_enter : (Instr.loop (.w 1) 0x7FFFF).wf = true ∧ three.src (.w 1) = some (.clean 5, three) ∧
    (5 : Word) ≠ 0 ∧ three.core.cur.pc.toNat + 2 * (0x7FFFF : BitVec 19).toNat < 2 ^ 48 := ⟨rfl, rfl, by decide, by decide⟩

/-- Four loops open. -/
def nested : State := onCore (fun c => { c with cur := { c.cur with
  loops := List.replicate 4 { start := 0x10000, stop := 0x20000, c := .w 2 } } }) three

theorem wit_LoopAndRep_full : (Instr.loop (.w 1) 8).wf = true ∧ nested.Issues ∧ (nested.core.regVal 1).bits ≠ 0 ∧
    loopFits nested.core.cur.loops (nested.core.cur.pc + 4) (nested.ahead ((8 : BitVec 19).setWidth 48)) = false :=
  ⟨rfl, ⟨rfl, rfl, rfl, rfl⟩, by decide, by decide⟩

theorem wit_TrapsMajor_idle : ∃ s : State, s.Ready ∧ s.core.priv = true ∧
    (s.core.hq ≠ [] ∨ s.core.lq ≠ [] ∨ s.core.stopReq = true) :=
  ⟨priv (onCore (fun c => { c with stopReq := true }) live), ready_of rfl, rfl, .inr (.inr rfl)⟩

theorem wit_TrapsMajor_trap : ∃ x s1, (Instr.trap (.w 3)).wf = true ∧ vectored.Ready ∧ vectored.src (.w 3) = some (x, s1) ∧
    vectored.core.tvec ≠ 0 ∧ vectored.core.inHandler = false := ⟨_, _, rfl, ready_of rfl, rfl, by decide, rfl⟩

theorem wit_TrapsMajor_rte : ∃ (s : State) (fr : TrapFrame), s.core.active = true ∧ s.core.cur.slots = [] ∧
    s.core.inHandler = true ∧ s.core.frame = some fr ∧ s.core.priv = true ∧ dropped.core.active = true ∧
    dropped.core.priv = false ∧ dropped.armed = [] :=
  ⟨vectored.startHandler (simpleTrap cBRK 0) 0x10000, _, rfl, rfl, rfl, rfl, rfl, rfl, rfl, rfl⟩

theorem wit_TrapsMajor_rte_out : live.Ready ∧ live.core.priv = false ∧ (priv live).Ready ∧ (priv live).core.priv = true :=
  ⟨ready_of rfl, rfl, ready_of rfl, rfl⟩

theorem wit_ActivationEnds : live.core.active = true ∧ live.armed = [] ∧ (∀ t ∈ live.core.threads, t.slots = []) ∧
    live.core.cur.rep = none ∧ live.core.cur.act.isCheck = false ∧ live.core.cur.act.sampled = false ∧
    live.commitSome.core.cur.act.held = [] := ⟨rfl, rfl, by decide, rfl, rfl, rfl, rfl⟩

/-- A sampled activation and a check run. -/
def sampledAct : State := onAct (fun a => { a with sampled := true, check := some 7 }) live
def checkAct : State := onAct (fun a => { a with check := some 7 }) live

theorem wit_ActivationEnds_sampled : (∀ t ∈ sampledAct.core.threads, t.slots = []) ∧ sampledAct.core.cur.act.sampled = true ∧
    sampledAct.checkQueueFull = false ∧ sampledAct.core.heldSample = false ∧ sampledAct.commitSome.core.cur.act.held = [] ∧
    (∀ t ∈ checkAct.core.threads, t.slots = []) ∧ checkAct.core.cur.act.isCheck = true :=
  ⟨by decide, rfl, by decide, rfl, rfl, by decide, rfl⟩

/-- Some bytes of memory where the core runs. -/
def codeAt (bytes : List Byte) (s : State) : State := s.placeBytes bytes

/-- REP at the PC with one lane instruction after it. -/
def atRep : State :=
  codeAt (encodeBytes (.rep 0 (.w 1) 1) ++ encodeBytes (.vaddF (.v 1) (.v 2) (.v 3))) (bad 3 (reg 1 5 live))

theorem atRep_captures : okAnd (capture 1 (atRep.core.cur.pc + 4) atRep) (fun x t => readyB t &&
    x.1 == [{ addr := 0x10004, ins := laneOp (.f .add) (.v 1) (.v 2) (.v 3) }] &&
    t.core.regVal 1 == .clean 5 && (t.core.regVal 3).poison) = true := by decide

theorem wit_LoopAndRep_rep : (Instr.rep 0 (.w 1) 1).wf = true ∧ atRep.Ready ∧
    ∃ x t, capture (0 + 1) (atRep.core.cur.pc + 4) atRep = .ok x t ∧ t.Ready ∧ t.src (.w 1) = some (.clean 5, t) ∧
      (Val.clean 5).poison = false ∧ (∃ u, t.dst { Val.clean 5 with bits := 0 } (.w 1) = some u) ∧
      ∃ y, t.src (.w 3) = some (y, t) ∧ y.poison = true := by
  obtain ⟨x, t, e, h⟩ := ok_of atRep_captures
  simp only [Bool.and_eq_true, beq_iff_eq] at h
  exact ⟨rfl, ready_of rfl, x, t, e, ready_of h.1.1.1, congrArg (fun v => some (v, t)) h.1.2, rfl, ⟨_, rfl⟩, _, rfl, h.2⟩

/-- A repetition buffer with one pass left. -/
def buffered : State := live.withBuffer
  { body := [{ addr := 0x10004, ins := laneOp (.b .mov) (.v 1) .vz .vz }], vstride := 1, passes := 2, pass := 1, next := 0, lmask := 0 }

theorem wit_LoopAndRep_issue : ∃ (b : RepBuf) (x : RepSlot), buffered.core.active = true ∧ buffered.core.cur.rep = some b ∧
    b.body[b.next]? = some x ∧ ∃ t, (x.ins.shift ((b.pass : Int) * b.vstride)).effect
      { buffered with core := { buffered.core with cur := { buffered.core.cur with lmask := b.lmask } } } = .ok () t := by
  refine ⟨_, _, rfl, rfl, rfl, ?_⟩
  have h : okAnd (((laneOp (.b .mov) (.v 1) .vz .vz).shift 1).effect buffered) (fun _ _ => true) = true := by decide
  obtain ⟨u, t, e, -⟩ := ok_of h
  exact ⟨t, e⟩

/-- An irrevocable activation with a destination word, an entry, a reply address and a dword of 8 and pointers. -/
def sender : State := reg 4 0x100000 (reg 3 0x800 (reg 2 0x8000 (reg 1 0 (opened live))))

theorem sender_ready : sender.Ready := ready_of rfl

theorem wit_MessagesSent : ∃ dw e : Val, (Instr.callat .z (.w 1) (.w 2)).wf = true ∧ (Instr.callat (.w 3) (.w 1) (.w 2)).wf = true ∧
    sender.Ready ∧ sender.core.cur.act.sampled = false ∧ sender.src (.w 1) = some (dw, sender) ∧
    sender.src (.w 2) = some (e, sender) ∧ dw.poison = false ∧ e.poison = false ∧ e.bits.getLsbD 0 = false ∧
    sender.mayMessage (bitsAt dw.bits 13 0) = true ∧ sender.holdRoom = some sender ∧ sender.netRoom = true ∧
    (sender.core.regVal 3).poison = false ∧ bitsAt (sender.core.regVal 3).bits 16 0 % 8 = 0 ∧
    sender.core.scratch (bitsAt (sender.core.regVal 3).bits 16 0) 8 = true :=
  ⟨_, _, rfl, rfl, sender_ready, rfl, rfl, rfl, rfl, rfl, rfl, by decide, rfl, rfl, rfl, rfl, by decide⟩

theorem wit_MessagesSent_msend : ∃ dw e : Val, (Instr.msend (.w 24) (.w 4) (.w 2)).wf = true ∧
    sender.src (.w 4) = some (dw, sender) ∧ sender.src (.w 2) = some (e, sender) ∧ dw.poison = false ∧
    sender.mayMessage (bitsAt dw.bits 13 0) = true ∧ bitsAt dw.bits 20 17 = 8 ∧ (24 : BitVec 5).toNat + 8 ≤ 32 :=
  ⟨_, _, rfl, rfl, rfl, rfl, by decide, rfl, by decide⟩

/-- A core that replies for a caller, and one whose activation is revocable. -/
def called (s : State) : State := onAct (fun a => { a with replyTo := 0x8000000000000000 + 0x800 * 2 ^ 14 }) s
def revoking : State := onAct (fun a => { a with revocable := true }) sender

theorem wit_RepliesAndSpawns : ∃ (v w : Val) (t : State), (Instr.reply (.w 1)).wf = true ∧ (called sender).Ready ∧
    (called sender).core.cur.act.sampled = false ∧ (called sender).core.cur.act.replyTo.msb = true ∧
    (called sender).holdRoom = some (called sender) ∧ (called sender).src (.w 1) = some (v, called sender) ∧
    (called sender).core.cur.act.revocable = false ∧ (called sender).releases false = some t ∧
    (called revoking).Ready ∧ (called revoking).core.cur.act.replyTo.msb = true ∧
    (called revoking).holdRoom = some (called revoking) ∧ (called revoking).src (.w 1) = some (w, called revoking) ∧
    (called revoking).core.cur.act.revocable = true ∧ sender.core.cur.act.replyTo.msb = false :=
  ⟨_, _, _, rfl, ready_of rfl, rfl, by decide, rfl, rfl, rfl, rfl, ready_of rfl, by decide, rfl, rfl, rfl, rfl⟩

/-- The same with both queues full. -/
def crowded : State := onCore (fun c => { c with
  hq := List.replicate 16 { act := .blank, resume := none, extra := false }
  lq := List.replicate 32 { act := .blank, resume := none, extra := false } }) sender

theorem wit_RepliesAndSpawns_spawn : ∃ e t, (RSpec.w 5).writable = true ∧ (RSpec.w 2).readable = true ∧ sender.Ready ∧
    sender.irrevocably = some sender ∧ sender.src (.w 2) = some (e, sender) ∧ e.poison = false ∧ e.bits.getLsbD 0 = false ∧
    sender.dst { bits := bit true, taint := false, poison := false } (.w 5) = some t ∧ sender.core.lq.length < 32 :=
  ⟨_, _, rfl, rfl, sender_ready, rfl, rfl, rfl, rfl, rfl, by decide⟩

theorem wit_RepliesAndSpawns_full : ∃ e t, crowded.Ready ∧ crowded.irrevocably = some crowded ∧ crowded.src (.w 2) = some (e, crowded) ∧
    e.poison = false ∧ e.bits.getLsbD 0 = false ∧ 16 ≤ crowded.core.hq.length ∧ 32 ≤ crowded.core.lq.length ∧
    crowded.dst { bits := bit false, taint := false, poison := false } (.w 5) = some t :=
  ⟨_, _, ready_of rfl, rfl, rfl, rfl, rfl, by decide, by decide, rfl⟩

/-- A pool of granules, and one granule claimed. -/
def rich : State := onAct (fun a => { a with extra := [40] }) (onCore (fun c => { c with
  freeGr := (List.range 10).map (· + 41) }) (reg 2 (.ofNat 64 (packGranules [40])) (reg 1 8 live)))

theorem wit_LarderClaims : ∃ t, (Instr.wclaim (.w 5) .z).wf = true ∧ rich.Ready ∧ rich.src .z = some (.clean 0, rich) ∧
    rich.dst { bits := 0, taint := false, poison := false } (.w 5) = some t := ⟨_, rfl, ready_of rfl, rfl, rfl⟩

theorem wit_LarderClaims_some : ∃ (v : Val) (k : KernInfo), (Instr.wclaim .z (.w 1)).wf = true ∧
    rich.src (.w 1) = some (v, rich) ∧ v.poison = false ∧ rich.core.kern = some k ∧ rich.core.parked = [] ∧
    0 < v.bits.toNat ∧ v.bits.toNat ≤ 8 ∧
    rich.core.cur.act.slot + rich.core.cur.act.extra.length + v.bits.toNat ≤ k.wsmax ∧
    v.bits.toNat ≤ rich.core.freeGr.length :=
  ⟨_, _, rfl, rfl, rfl, rfl, rfl, by decide, by decide, by decide, by decide⟩

/-- The same with a pool that holds too few. -/
def poor : State := onCore (fun c => { c with freeGr := [] }) rich

theorem wit_LarderClaims_parks : ∃ (v : Val) (k : KernInfo), poor.Ready ∧ poor.src (.w 1) = some (v, poor) ∧
    v.poison = false ∧ poor.core.kern = some k ∧ 0 < v.bits.toNat ∧ v.bits.toNat ≤ 8 ∧
    poor.core.cur.act.slot + poor.core.cur.act.extra.length + v.bits.toNat ≤ k.wsmax ∧
    poor.core.freeGr.length < v.bits.toNat ∧ poor.openable .z = some poor ∧
    rich.src (.w 2) ≠ none ∧ 8 < (rich.core.regVal 2).bits.toNat :=
  ⟨_, _, ready_of rfl, rfl, rfl, rfl, by decide, by decide, by decide, by decide, rfl, by decide, by decide⟩

theorem wit_LarderClaims_bad : ∃ v : Val, (Instr.wrel (.w 1)).wf = true ∧ rich.src (.w 1) = some (v, rich) ∧
    v.poison = false ∧ badGranule rich.core.cur.act.extra (unpackGranules 8 (v.bits.toNat % 2 ^ 56)) [] = some 8 :=
  ⟨_, rfl, rfl, rfl, by decide⟩

theorem wit_LarderClaims_wrel : ∃ v : Val, (Instr.wrel (.w 2)).wf = true ∧ rich.src (.w 2) = some (v, rich) ∧
    v.poison = false ∧ (unpackGranules 8 (v.bits.toNat % 2 ^ 56)).Nodup ∧
    unpackGranules 8 (v.bits.toNat % 2 ^ 56) = [40] ∧
    (∀ g ∈ unpackGranules 8 (v.bits.toNat % 2 ^ 56), g ∈ rich.core.cur.act.extra) :=
  ⟨_, rfl, rfl, rfl, by decide, by decide, by decide⟩

/-- An actor that consumes one token, produces one, and sends to itself. -/
def actor0 : ActorDef :=
  { entry := 0x8000, crank := 0xFF, cons := 0, p := 1, c := 1, depth := 2, fstart := 0x1000, fbank := 0, base := 0
    revocable := true, checkable := false, selfpress := true, slotBase := 16 }

/-- A core that runs a firing of it. -/
def firing : State := onAct (fun a => { a with actor := some 0 }) (onCore (fun c => { c with
  kern := c.kern.map (fun k => { k with actors := [actor0] }),
  actors := [{ head := 0, count := 1, reserved := 0, busy := true, held := 0 }] }) sender)

theorem wit_TokensMoved : ∃ (def0 : ActorDef) (st : ActorSt) (dst cons : Nat), (Instr.apop (.w 24)).wf = true ∧
    (Instr.apush (.w 24)).wf = true ∧ firing.Ready ∧ (firing.releases false).isSome = true ∧
    firing.core.cur.act.revocable = false ∧ firing.core.cur.act.held = [] ∧ firing.core.cur.act.sampled = false ∧
    firing.core.cur.act.actor = some 0 ∧ firing.core.runActor = some def0 ∧ firing.core.actors[0]? = some st ∧
    firing.core.cur.act.initial = false ∧ firing.core.cur.act.popped < def0.c ∧
    firing.core.runConsumer def0 = some (dst, cons) ∧ firing.core.cur.act.pushed < def0.p :=
  ⟨_, _, _, _, rfl, rfl, ready_of rfl, rfl, rfl, rfl, rfl, rfl, rfl, rfl, rfl, by decide, rfl, by decide⟩

theorem wit_OccupancyRead : ∃ t u v w : State, (Instr.mpoll (.w 1)).wf = true ∧ live.Ready ∧
    live.uncheck.dst { bits := 0, taint := false, poison := false } (.w 1) = some t ∧ (Instr.winrd (.w 1) 3).wf = true ∧
    (3 : BitVec 6).toNat = Dir.w.num ∧ live.uncheck.dst { bits := 64, taint := false, poison := false } .z = some u ∧
    4 ≤ (4 : BitVec 6).toNat ∧ 4 ≤ (63 : BitVec 6).toNat ∧ (Instr.bankq (.w 1)).wf = true ∧ (Instr.pstat (.w 1)).wf = true ∧
    live.uncheck.dst { bits := live.core.press.status, taint := false, poison := false } (.w 1) = some v ∧
    live.uncheck.dst (.clean (.ofNat 64 (live.core.bankModes.toNat + live.pendingBanks * 2 ^ 32))) (.w 1) = some w :=
  ⟨_, _, _, _, rfl, ready_of rfl, rfl, rfl, rfl, rfl, by decide, by decide, rfl, rfl, rfl, rfl⟩

/-- Addresses in the core's own window: owned memory, its last row, and a press queue slot. -/
def local0 : State := reg 3 0xFFFFFFFE0000 (reg 2 0xFFFFFFFFFF00 (reg 1 0xFFFFFFFE0700 live))

theorem local0_ready : local0.Ready := ready_of rfl

theorem wit_LocalLoads : ∃ b u, Load (.ld (.w 4) (.w 1) 31 0 3 0) (.w 4) (.w 1) 31 3 0 true false ∧
    (Instr.ld (.w 4) (.w 1) 31 0 3 0).wf = true ∧ local0.Ready ∧ local0.src (.w 1) = some (b, local0) ∧
    local0.ownAddr b (31 * 8) 8 = some 0x7F8 ∧
    (local0.reading 0x7F8 8).dst (loaded ((local0.reading 0x7F8 8).localBytes 0x7F8 8) true (b.taint || false)) (.w 4) =
      some u ∧ (local0.reading 0x7F8 8).openable (.w 4) = some (local0.reading 0x7F8 8) :=
  ⟨_, _, .ld .., rfl, local0_ready, rfl, by decide, rfl, rfl⟩

theorem wit_LocalLoads_other : ∃ b, Load (.ldc (.w 4) (.w 2) 31 0 0 7) (.w 4) (.w 2) 31 0 7 true true ∧
    (Instr.ldc (.w 4) (.w 2) 31 0 0 7).wf = true ∧ local0.src (.w 2) = some (b, local0) ∧
    local0.ownAddr b 31 1 = some 0x1FF1F ∧ (7 : BitVec 4) ≠ 0 ∧
    (local0.reading 0x1FF1F 1).openable (.w 4) = some (local0.reading 0x1FF1F 1) :=
  ⟨_, .ldc .., rfl, rfl, by decide, by decide, rfl⟩

theorem pressFree_live : local0.PressFree := by
  intro sl h
  rw [show local0.core.press.slots = List.replicate 16 .empty from rfl] at h
  rw [List.eq_of_mem_replicate h]
  rfl

theorem wit_LocalStores : ∃ b v, (Instr.st (.w 1) (.w 1) 31 0 3).wf = true ∧ local0.Ready ∧ local0.PressFree ∧
    local0.src (.w 1) = some (b, local0) ∧ local0.ownAddr b (31 * 8) 8 = some 0x7F8 ∧
    local0.src (.w 1) = some (v, local0) ∧ (local0.numbered.storable 0x7F8 8).isSome = true ∧ (Instr.stv 63 (.w 1) 0 0).wf = true ∧
    (Instr.zfill (.w 1) 0 0).wf = true ∧ local0.ownAddr b 0 256 = some 0x700 ∧ (local0.numbered.storable 0x700 256).isSome = true ∧
    (Instr.ldv 63 (.w 1) 0 0 0).wf = true :=
  ⟨_, _, rfl, local0_ready, pressFree_live, rfl, by decide, rfl, rfl, rfl, rfl, by decide, rfl, rfl⟩

/-- A page of context 1 that may be read, written and fetched, cached write-back. -/
def page (vbase frame : Nat) : TlbEntry := { unit := 0, ctx := 1, vbase := vbase, logSize := 12, leaf := .ofNat 64 (4096 * frame + 0x3B) }

/-- Virtual page 0x20 stands in physical page 2. -/
def mapped : State := { (reg 2 0xFFFFFF000000 (reg 1 0x20F00 live)) with tlb := [page 0x20 2] }

theorem wit_RowsAndCaches_pref : ∃ (b : Val) (x : Xlat) (t : State), (Instr.pref (.w 1) 0 3).wf = true ∧ mapped.Ready ∧
    mapped.src (.w 1) = some (b, mapped) ∧ b.poison = false ∧ effAddr b.bits (0 * 256) % 256 = 0 ∧
    effAddr b.bits (0 * 256) < 0xFFFFFF000000 ∧
    mapped.agentXlat mapped.myCluster mapped.myCtx mapped.core.priv .read 0x20F00 256 = (.ok x, t) ∧ t.Ready ∧ leafPol x.leaf = 0 ∧
    leafZero x.leaf = false :=
  ⟨_, _, _, rfl, ready_of rfl, rfl, rfl, by decide, by decide, rfl, ready_of rfl, by decide, by decide⟩

theorem wit_RowsAndCaches_beyond : ∃ b : Val, (Instr.pref (.w 2) 0 1).wf = true ∧ mapped.src (.w 2) = some (b, mapped) ∧
    0xFFFFFF000000 ≤ effAddr b.bits (0 * 256) := ⟨_, rfl, rfl, by decide⟩

theorem wit_RowsAndCaches_icinv : ∃ v : Val, (Instr.icinv (.w 1) 2).wf = true ∧ mapped.core.storeBuf = [] ∧
    mapped.core.cur.act.heldStores = 0 ∧ mapped.src (.w 1) = some (v, mapped) ∧ v.poison = false := ⟨_, rfl, rfl, rfl, rfl, rfl⟩

theorem wit_RowsAndCaches_bad : ∃ (b : Val) (e : Bad) (t : State), (Instr.pref (.w 1) 1 3).wf = true ∧
    mapped.src (.w 1) = some (b, mapped) ∧
    mapped.agentXlat mapped.myCluster mapped.myCtx mapped.core.priv .read 0x21000 256 = (.error e, t) ∧ t.Ready :=
  ⟨_, _, _, rfl, rfl, rfl, ready_of rfl⟩

/-- Bank modes for banks 1 and 15. -/
def banks : State := reg 2 0x8002 (reg 1 0x40000004 (opened local0))

theorem wit_RowsAndCaches_bankmode : ∃ m k : Val, (Instr.bankmode (.w 1) (.w 2)).wf = true ∧ banks.Ready ∧ banks.PressFree ∧
    banks.core.cur.act.revocable = false ∧ banks.src (.w 1) = some (m, banks) ∧ banks.src (.w 2) = some (k, banks) ∧
    m.poison = false ∧ k.poison = false ∧ (List.range 16).filter (fun i => k.bits.getLsbD i) = [1, 15] ∧
    (∀ i ∈ (List.range 16).filter (fun i => k.bits.getLsbD i),
      i ≠ 0 ∧ i ∉ ((banks.core.kern.map (fun k => k.actors.map (·.fbank))).getD []) ∧
      m.bits.toNat % 2 ^ 32 / 4 ^ i % 4 ≠ 2) :=
  ⟨_, _, rfl, ready_of rfl, pressFree_live, rfl, rfl, rfl, rfl, rfl, by decide, by decide⟩

/-- An irrevocable activation with addresses in its own window. -/
def owner : State := opened local0

theorem owner_ready : owner.Ready := ready_of rfl

theorem wit_FullEmptyWords : ∃ b t, (Instr.ldsE (.w 4) (.w 1) 31 0).wf = true ∧ (Instr.lds (.w 4) (.w 1) 31 5).wf = true ∧
    owner.Ready ∧ owner.src (.w 1) = some (b, owner) ∧ owner.ownAddr b (31 * 8) 8 = some 0x7F8 ∧
    owner.isFull (.loc owner.core.id 0x7F8) = true ∧ owner.core.cur.act.ownsLocal 0x7F8 8 = true ∧
    (owner.reading 0x7F8 8).core.ownAt (.loc (owner.reading 0x7F8 8).core.id 0x7F8) 8 = [] ∧
    ((owner.reading 0x7F8 8).putFull (.loc (owner.reading 0x7F8 8).core.id 0x7F8) false).dst
      { bits := owner.core.lm.dword 0x7F8, taint := b.taint, poison := readPoison 8 owner.core.lmPoison 0x7F8 8 } (.w 4) =
      some t ∧ (owner.reading 0x7F8 8).openable (.w 4) = some (owner.reading 0x7F8 8) :=
  ⟨_, _, rfl, rfl, owner_ready, rfl, by decide, by decide, by decide, rfl, rfl, rfl⟩

/-- The word at 0x7F8 empty. -/
def hollow : State := owner.putFull (.loc owner.core.id 0x7F8) false

theorem wit_FullEmptyWords_waits : ∃ b, hollow.Ready ∧ hollow.src (.w 1) = some (b, hollow) ∧
    hollow.ownAddr b (31 * 8) 8 = some 0x7F8 ∧ hollow.isFull (.loc hollow.core.id 0x7F8) = false ∧
    (hollow.reading 0x7F8 8).irrevocably = some (hollow.reading 0x7F8 8) ∧
    (hollow.reading 0x7F8 8).openable (.w 4) = some (hollow.reading 0x7F8 8) :=
  ⟨_, ready_of rfl, rfl, by decide, by decide, rfl, rfl⟩

theorem wit_FullEmptyWords_stf : ∃ b v t, (Instr.stf (.w 2) (.w 1) 31 0).wf = true ∧ owner.ldsWait = [] ∧
    owner.src (.w 1) = some (b, owner) ∧ owner.ownAddr b (31 * 8) 8 = some 0x7F8 ∧ owner.src (.w 2) = some (v, owner) ∧
    owner.core.storeBuf = [] ∧ owner.numbered.storable 0x7F8 8 = some t :=
  ⟨_, _, _, rfl, rfl, rfl, by decide, rfl, rfl, rfl⟩

theorem wit_LocalAtomics : ∃ x y w : Val, Atomic (.acas (.w 4) (.w 1) 1 2 3 0) .cas (.w 4) (.w 1) 8 2 3 0 ∧
    (Instr.acas (.w 4) (.w 1) 1 2 3 0).wf = true ∧ owner.src (.w 1) = some (x, owner) ∧ owner.src (.w 4) = some (y, owner) ∧
    y.poison = false ∧ owner.src (nextReg (.w 4) 1) = some (w, owner) ∧ w.poison = false ∧
    owner.ownAddr x 0 8 = some 0x700 ∧ 0x400 ≤ 0x700 ∧
    Atomic (.ast (.w 4) (.w 1) 0 1 1) .st (.w 4) (.w 1) 4 1 1 0 ∧ (Instr.ast (.w 4) (.w 1) 0 1 1).wf = true ∧
    owner.ownAddr x 0 4 = some 0x700 ∧ Atomic (.aadd (.w 4) (.w 1) 0 1 2 9) .add (.w 4) (.w 1) 4 1 2 9 ∧
    (Instr.aadd (.w 4) (.w 1) 0 1 2 9).wf = true ∧
    owner.irrevocably = some owner ∧ (∃ t, owner.releases true = some t ∧
      (t.atomed .cas 0x700 8 y.bits w.bits).dst (.clean 0) (.w 4) ≠ none) ∧
    (owner.atomed .add 0x700 4 y.bits 0).openable (.w 4) = some (owner.atomed .add 0x700 4 y.bits 0) :=
  ⟨_, _, _, .acas .., rfl, rfl, rfl, rfl, rfl, rfl, by decide, by decide, .ast .., rfl, by decide, .aadd .., rfl, rfl,
    ⟨_, rfl, fun h => by cases h⟩, rfl⟩

theorem wit_OrderMajor : ∃ t u, (Instr.rel 3).wf = true ∧ owner.Ready ∧ owner.releases ((3 : BitVec 6) == 3) = some t ∧
    owner.releases true = some u := ⟨_, _, rfl, owner_ready, rfl, rfl⟩

/-- The phase barrier of the domain, with two parties, at a generation. -/
def bar0 (g : BitVec 32) : Barrier :=
  { ctx := 1, id := { kid := 0, cohort := 0, handle := 0, group := 0 }, n := 2, logw := 1, toggles := startToggles 1 0
    counts := [0, 0], heldToks := [], gen := g, forcedGens := [], failed := false, members := [0, 1], arrived := [] }

/-- A core with it. -/
def phased : State := { owner with barriers := [bar0 0] }

theorem wit_PhaseArrival : ∃ u t, (Instr.phasen (.w 4)).wf = true ∧ (Instr.phase (.w 4)).wf = true ∧ phased.Ready ∧
    phased.core.cur.phaseWait = none ∧ phaseBarrier phased = .ok (bar0 0) phased ∧ phased.comes (bar0 0) = some u ∧
    u.dst { bits := phased.core.phaseNo.setWidth 64, taint := false, poison := false } (.w 4) = some t ∧
    (∃ c, phaseBarrier u = .ok c u ∧ genPast (c.copy u.core.id) phased.core.phaseNo = false) :=
  ⟨_, _, rfl, rfl, ready_of rfl, rfl, rfl, rfl, rfl, _, rfl, by decide⟩

/-- Past its arrival in the last generation before the number wraps. -/
def waiting : State := onCore (fun c => { c with cur := { c.cur with phaseWait := some 0xFFFFFFFF } }) phased

theorem wit_PhaseArrival_past : ∃ t : State, (Instr.phase .z).wf = true ∧ waiting.Ready ∧
    waiting.core.cur.phaseWait = some 0xFFFFFFFF ∧ phaseBarrier waiting = .ok (bar0 0) waiting ∧
    genPast ((bar0 0).copy waiting.core.id) 0xFFFFFFFF = true ∧ (waiting.acquired true).dst (.clean 0) .z = some t :=
  ⟨_, rfl, ready_of rfl, rfl, rfl, by decide, rfl⟩

/-- A row of lanes 1, 2, 3 and so on in tile row 1, and pointers at owned memory. -/
def lanes : State := onCore (fun c => { c with
    tvec := 0x8000
    press := { c.press with tile := (List.replicate 64 .zero).set 1 { bits := .ofNat 2048 (lanesNat 32 (List.range 64)), pois := 0 } } })
  (reg 24 0x600 (reg 25 0x700 (reg 16 3 (reg 1 2 (opened live)))))

theorem lanes_ready : lanes.Ready := ready_of rfl

/-! For the lanes, `okAnd r p` says that a computation answers a value and a state that meet `p`. -/

/-- A write of lanes, the pointers moved on, and the core ready. -/
def putsOut (d : LSpec) (w : Nat) (outs : List OutLane) (mp : List Bool) (ps : List (BitVec 3)) (s : State) : Bool :=
  okAnd (putOut d w outs mp s) (fun _ t => okAnd (bumpPointers ps t) (fun _ u => readyB u))

/-- The same for lanes of which the active ones are written. -/
def putsActive (v : VInstr) (ls : List Lane) (ps : List (BitVec 3)) (s : State) : Bool :=
  okAnd (putActive v ls s) (fun _ t => okAnd (bumpPointers ps t) (fun _ u => readyB u))

theorem wit_LanewiseResult : Lanewise (.vmad (.v 2) (.post 1) (.bcast 0)) (laneOp (.i .mad) (.v 2) (.post 1) (.bcast 0)) true
      (fun _ _ w x y z => (x * y + z) % 2 ^ w) ∧ (Instr.vmad (.v 2) (.post 1) (.bcast 0)).wf = true ∧ lanes.Ready ∧
    (laneOp (.i .mad) (.v 2) (.post 1) (.bcast 0)).checks lanes = .ok () lanes :=
  ⟨.vmad .., rfl, lanes_ready, rfl⟩

theorem wit_LanewiseResult_run : okAnd (readL (.post 1) lanes) (fun ra s1 => okAnd (readL (.bcast 0) s1) (fun rb s2 =>
    okAnd (readL (.v 2) s2) (fun rc s3 => s3.core.press.laneW == 32 && putsOut (.v 2) 32
      ((((ra.elems 32).zip (rb.elems 32)).zip ((rc.elems 32).zip (s3.core.current s3.core.press.laneN).1)).map (fun x =>
        if x.2.2 then some ((x.1.1.1 * x.1.2.1 + x.2.1.1) % 2 ^ 32, x.1.1.2 || x.1.2.2 || x.2.1.2) else none))
      (s3.core.current s3.core.press.laneN).2 [1] s3))) = true := by decide

/-- The mask register 1 selects the even lanes, and is the current mask. -/
def masked : State := onCore (fun c => { c with
  masksLo := c.masksLo.set 1 { bits := 0x55555555555555555555555555555555, pois := 0 }, cur := { c.cur with lmask := 1 } }) lanes

theorem masked_ready : masked.Ready := ready_of rfl

theorem wit_LaneMoves_vsel : (Instr.vsel (.v 2) (.v 1) .vz).wf = true ∧ masked.Ready ∧
    (laneOp (.b .sel) (.v 2) (.v 1) .vz).checks masked = .ok () masked ∧
    okAnd (readL (.v 1) masked) (fun ra s1 => okAnd (readL .vz s1) (fun rb s2 => s2.core.press.laneW == 32 &&
      putsOut (.v 2) 32 (((ra.elems 32).zip ((rb.elems 32).zip (s2.core.current s2.core.press.laneN).1)).map
        (fun x => some (if x.2.2 then x.1 else x.2.1))) (s2.core.current s2.core.press.laneN).2 [] s2)) = true :=
  ⟨rfl, masked_ready, rfl, by decide⟩

theorem wit_LaneMoves_vbcast : (Instr.vbcast (.v 2) (.v 1) (.w 1)).wf = true ∧
    (laneOp (.p .bcast) (.v 2) (.v 1) .vz).checks masked = .ok () masked ∧ okAnd (readL (.v 1) masked) (fun row s1 =>
      readyB s1 && !(s1.core.regVal 1).poison && decide ((s1.core.regVal 1).bits.toNat < s1.core.press.laneN) &&
      putsActive (laneOp (.p .bcast) (.v 2) (.v 1) .vz) (List.replicate 64 ((row.elems 32).getD 2 (0, false))) [] s1) = true :=
  ⟨rfl, rfl, by decide⟩

theorem wit_LaneMoves_vrot : (Instr.vrot (.v 2) (.str 1) (.w 1)).wf = true ∧
    (laneOp (.p .rot) (.v 2) (.str 1) .vz).checks masked = .ok () masked ∧ okAnd (readL (.str 1) masked) (fun row s1 =>
      readyB s1 && !(s1.core.regVal 1).poison &&
      putsActive (laneOp (.p .rot) (.v 2) (.str 1) .vz) ((row.elems 32).drop 2 ++ (row.elems 32).take 2) [] s1) = true :=
  ⟨rfl, rfl, by decide⟩

theorem wit_LaneMoves_vshuf : (Instr.vshuf (.post 0) (.v 1) (.v 1)).wf = true ∧
    (laneOp (.p .shuf) (.post 0) (.v 1) (.v 1)).checks masked = .ok () masked ∧
    okAnd (readL (.v 1) masked) (fun ra s1 => okAnd (readL (.v 1) s1) (fun rb s2 =>
      putsActive (laneOp (.p .shuf) (.post 0) (.v 1) (.v 1)) ((rb.elems 32).map (fun j =>
        (((ra.elems 32).getD j.1 (0, false)).1, ((ra.elems 32).getD j.1 (0, false)).2 || j.2))) [0] s2)) = true :=
  ⟨rfl, rfl, by decide⟩

theorem wit_LaneMoves_vscan : (Instr.vscan (.v 2) (.v 1) 1).wf = true ∧
    (laneOp (.p .scan) (.v 2) (.v 1) .vz).checks masked = .ok () masked ∧ okAnd (readL (.v 1) masked) (fun row s1 =>
      putsOut (.v 2) 32 (scanLanes (sumStep (laneFmt false) 0 32 1) ((row.elems 32).zip (masked.core.current 64).1) none)
        (masked.core.current 64).2 [] s1) = true := ⟨rfl, rfl, by decide⟩

theorem wit_LaneMoves_viota : (Instr.viota (.v 2)).wf = true ∧
    (laneOp (.p .iota) (.v 2) .vz .vz).checks masked = .ok () masked ∧ putsActive (laneOp (.p .iota) (.v 2) .vz .vz)
      ((countBelow 0 (masked.core.current 64).1).map (fun k => (k, false))) [] masked = true := ⟨rfl, rfl, by decide⟩

theorem wit_LaneMoves_vzip : (LSpec.v 2).dest = true ∧ (LSpec.v 1).source = true ∧ LSpec.vz.source = true ∧
    (laneOp (.p .zip) (.v 2) (.v 1) .vz).checks masked = .ok () masked ∧
    okAnd (readL (.v 1) masked) (fun ra s1 => okAnd (readL .vz s1) (fun rb s2 =>
      putsActive (laneOp (.p .zip) (.v 2) (.v 1) .vz) (interleave ((ra.elems 32).take 32) ((rb.elems 32).take 32)) [] s2 &&
      putsActive (laneOp (.p .unzip) (.v 2) (.v 1) .vz) (evens (ra.elems 32) ++ evens (rb.elems 32)) [] s2)) = true :=
  ⟨rfl, rfl, rfl, rfl, by decide⟩

/-- Two cores of a partition, the one in focus with a row of 32 dwords from the east and an open window. -/
def channelled : State := onCore (fun c => { c with fifoIn := [[], List.replicate 32 { bits := 1, poison := false }, [], []] })
  (opened lanes)

theorem wit_LaneOperandForms : lanes.Ready ∧ lanes.laneFree = true ∧ lanes.streamRow 0 true = some 0x600 ∧
    lanes.storable 0x600 256 = some lanes ∧ channelled.irrevocably = some channelled ∧ channelled.Ready ∧ channelled.connected channelled.core.id .e = true ∧
    32 ≤ (channelled.core.fifoIn.getD Dir.e.num []).length ∧
    neighbour channelled.core.id .e = some 1 ∧ 32 ≤ channelled.core.window.getD Dir.e.num 0 :=
  ⟨lanes_ready, rfl, by decide, rfl, rfl, ready_of rfl, by decide, by decide, by decide, by decide⟩

theorem wit_MaskMembers : (Instr.mandn (.m 2) (.m 1) (.m 0)).wf = true ∧ masked.Ready ∧ masked.laneFree = true ∧
    (laneOp (.m .andn) (.m 2) (.m 1) (.m 0)).checks masked = .ok () masked ∧
    okAnd (readMask (.m 1) masked) (fun x s1 => okAnd (readMask (.m 0) s1) (fun y s2 => readyB s2 &&
      okAnd (bumpPointers [] { s2 with core := s2.core.putMask (maskNum (.m 2)) { bits := x.bits &&& ~~~y.bits, pois := x.pois ||| y.pois } })
        (fun _ u => readyB u))) = true ∧ (Instr.msel (.m 7)).wf = true := ⟨rfl, masked_ready, rfl, rfl, by decide, rfl⟩

theorem wit_MaskMembers_counts : (Instr.mpopc (.w 4) (.v 1)).wf = true ∧ (Instr.mfirst (.w 4) (.v 1)).wf = true ∧
    (laneOp (.m .popc) .vz (.v 1) .vz).checks masked = .ok () masked ∧
    (laneOp (.m .first) .vz (.v 1) .vz).checks masked = .ok () masked ∧
    okAnd (readMask (.v 1) masked) (fun _ s1 => readyB s1 && okAnd (bumpPointers [] (onCore (·.putReg 4 (.clean 0)) s1))
      (fun _ u => readyB u)) = true := ⟨rfl, rfl, rfl, rfl, by decide⟩

theorem wit_LaneConversions : Conversion (.vcvtI32I8 (.v 2) (.v 1) 3)
      { op := .x .i32i8, d := .v 2, a := .v 1, b := .vz, r := .z, q := .z, k := 3 } (.v 2) (.v 1) 3 (some 8) true
      (fun _ _ x => extInt 8 x) ∧ (Instr.vcvtI32I8 (.v 2) (.v 1) 3).wf = true ∧
    (VInstr.checks { op := .x .i32i8, d := .v 2, a := .v 1, b := .vz, r := .z, q := .z, k := 3 }) masked = .ok () masked ∧
    okAnd (readL (.v 1) masked) (fun row s1 => putsOut (.v 2) 32
      (((((row.elems 8).drop (64 * 3)).take 64).zip (s1.core.current 64).1).map (fun x =>
        if x.2 then some (extInt 8 x.1.1, x.1.2 || false) else none)) (s1.core.current 64).2 [] s1) = true :=
  ⟨.vcvtI32I8 .., rfl, rfl, by decide⟩

theorem wit_LaneConversions_narrow : ∃ s : State, Conversion (.vcvtF32I32 (.v 2) (.v 1)) (laneOp (.x .f32i32) (.v 2) (.v 1) .vz) (.v 2) (.v 1) 0
      none false (fun m _ x => fromI32 m x) ∧ (Instr.vcvtF32I32 (.v 2) (.v 1)).wf = true ∧ s.Ready ∧ s.laneFree = true ∧
      s.core.press.narrow = true :=
  ⟨onCore (fun c => { c with press := { c.press with narrow := true } }) masked, .vcvtF32I32 .., rfl, ready_of rfl, rfl, rfl⟩

theorem wit_LanesAndRegisters : (Instr.vextr (.w 4) (.v 1) (.w 1)).wf = true ∧
    (laneOp (.p .extr) .vz (.v 1) .vz).checks masked = .ok () masked ∧ (Instr.vins (.v 2) (.w 1) (.w 1)).wf = true ∧
    (laneOp (.p .ins) (.v 2) .vz .vz).checks masked = .ok () masked ∧ (masked.core.regVal 1) = .clean 2 ∧
    okAnd (readL (.v 1) masked) (fun _ s1 => readyB s1 && decide (s1.core.regVal 1 = .clean 2) &&
      decide (2 < s1.core.press.laneN) && okAnd (bumpPointers [] (onCore (·.putReg 4 (.clean 0)) s1)) (fun _ u => readyB u)) = true ∧
    putsOut (.v 2) 32 ((List.replicate 64 none).set 2 (some (2, false))) (List.replicate 64 false) [] masked = true :=
  ⟨rfl, rfl, rfl, rfl, by decide, by decide, by decide⟩

theorem wit_LanesAndRegisters_red : (Instr.vredmax (.w 4) (.post 0) 2).wf = true ∧
    (laneOp (.p .redmax) .vz (.post 0) .vz).checks masked = .ok () masked ∧
    okAnd (readL (.post 0) masked) (fun _ s1 => readyB s1 && okAnd (bumpPointers [0] (onCore (·.putReg 4 (.clean 0)) s1))
      (fun _ u => readyB u)) = true := ⟨rfl, rfl, by decide⟩

/-! ## Scales, tiles and the press -/

/-- A tensor of one row of 32 bytes at 0x20000, a codebook, a row of dwords, and places in the core's own window. -/
def scaled : State := { onCore (fun c => { c with
      tt := [(0, 32 * 2 ^ 44 + 2 ^ 24 + 0x83 + 0x20000 * 2 ^ 64 + 32 * 2 ^ 128),
             (1, 2 ^ 44 + 2 ^ 24 + 0x82 + 0xFFFFFFFE0720 * 2 ^ 192)] })
    (reg 4 1 (reg 5 0xFFFFFFFE0800 (reg 8 0x0000200001000083 (reg 12 0x87 (reg 3 0x800 (opened live)))))) with
  tlb := [page 0x20 2] }

theorem scaled_ready : scaled.Ready := ready_of rfl

theorem wit_ScaleMembers : ScaleOp (.kadd 15 0 15) 15 0 15 (fun x y => x + y - 127) ∧ scaled.Ready ∧ scaled.laneFree = true ∧
    scaled.scalable = some scaled ∧ (Instr.kset 1 (.w 4)).wf = true ∧ scaled.src (.w 4) = some (.clean 1, scaled) ∧
    (Instr.kbind 1 15 (.w 4)).wf = true ∧ (Instr.kgen (.w 4) 15).wf = true ∧
    ∃ t, scaled.dst { bits := (scaled.core.rind.getD 15 .load).gen.setWidth 64, taint := false, poison := false } (.w 4) = some t :=
  ⟨.kadd .., scaled_ready, rfl, rfl, rfl, rfl, rfl, rfl, _, rfl⟩

theorem wit_TensorTable : ∃ (v : Val) (ws : List Word), (Instr.ttset (.w 4) (.w 8)).wf = true ∧ scaled.Ready ∧
    scaled.laneFree = true ∧ scaled.src (.w 4) = some (v, scaled) ∧ v.poison = false ∧ scaled.words (.w 8) 4 = some ws ∧
    ttBad (.ofNat 256 (ws.getD 0 0).toNat) = false ∧ (ws.drop 1).all (· == 0) = true ∧
    (Instr.ttget (.w 28) (.w 4)).wf = true ∧ (Instr.ttinv (.w 4)).wf = true :=
  ⟨_, _, rfl, scaled_ready, rfl, rfl, rfl, rfl, by decide +kernel, by decide +kernel, rfl, rfl⟩

theorem wit_TensorTable_bad : ∃ ws : List Word, (Instr.ttset (.w 4) (.w 12)).wf = true ∧ scaled.words (.w 12) 4 = some ws ∧
    ttBad (.ofNat 256 (ws.getD 0 0).toNat) = true ∧ (ws.drop 1).all (· == 0) = true := ⟨_, rfl, rfl, by decide +kernel, by decide +kernel⟩

theorem wit_TensorTable_tcb : (Instr.tcb (.w 4) .z).wf = true ∧ (Val.clean 1).taint = false ∧
    ttValid (lookupD 0 scaled.core.tt 1) = true ∧ ttFmt (lookupD 0 scaled.core.tt 1) = 2 ∧
    scaled.ownAddr (.clean (.ofNat 64 ((ttSbase (lookupD 0 scaled.core.tt 1) + 2 ^ 48 - 32) % 2 ^ 48))) 0 32 = some 0x700 :=
  ⟨rfl, rfl, by decide +kernel, by decide +kernel, by decide +kernel⟩

theorem tile_run : okAnd (tileOperands (.w 0) (.w 2) scaled) (fun x t => readyB t && !t.core.cur.act.revocable &&
    t.core.cur.act.held.isEmpty && t.laneFree && !x.1.wide && decide (x.1.ext < 128) && fmtBits (ttFmt x.1.e) == 8 &&
    !fmtScaled (ttFmt x.1.e) && x.1.rowBytes 0 == (0x20000, 32) && x.1.runs == [(0x20000, 32)] &&
    okAnd (tilePages 0 .read [(0x20000, 32)] t) (fun ps u => readyB u && u.laneFree && u.core.storeBuf.isEmpty &&
      !u.core.cur.act.revocable && u.core.cur.act.held.isEmpty && ps.all (fun p => !isPeerPA p.2.pa)) &&
    okAnd (tilePages 0 .write [(0x20000, 32)] t) (fun ps u => readyB u && !u.core.cur.act.digested &&
      u.core.storeBuf.isEmpty && u.core.scratch x.2.1 x.1.rb && decide (ps.map (·.1) = [0x20000 / 4096]))) = true := by decide +kernel

theorem wit_TilesMoved : (Instr.tld 14 14 (.w 0) (.w 2) 15).wf = true ∧ (Instr.tst 15 (.w 0) (.w 2)).wf = true ∧ scaled.Ready ∧
    scaled.laneFree = true ∧ (RSpec.w 0).bits = 0 := ⟨rfl, rfl, scaled_ready, rfl, rfl⟩

theorem wit_ScalesInMemory : ∃ v : Val, (Instr.kld 15 (.w 5)).wf = true ∧ (Instr.kst 15 (.w 5)).wf = true ∧
    (Instr.ksave (.w 5)).wf = true ∧ (Instr.krestore (.w 5)).wf = true ∧ scaled.src (.w 5) = some (v, scaled) ∧
    scaled.ownBlock v 64 64 = some 0x800 ∧ (scaled.reading 0x800 64).scalable = some (scaled.reading 0x800 64) ∧
    scaled.numbered.storable 0x800 64 = some scaled.numbered ∧ scaled.ownBlock v 256 1184 = some 0x800 ∧
    scaled.storable 0x800 1184 = some scaled ∧
    (scaled.reading 0x800 1184).scalable = some (scaled.reading 0x800 1184) ∧ scaled.core.rind.length = 16 :=
  ⟨_, rfl, rfl, rfl, rfl, rfl, by decide, rfl, rfl, by decide, rfl, rfl, rfl⟩

theorem wit_PressControl : ∃ v t, (Instr.pcmd (.w 24) (.w 4)).wf = true ∧ scaled.Ready ∧ scaled.src (.w 4) = some (v, scaled) ∧
    v.poison = false ∧ scaled.laneFree = true ∧ scaled.core.press.pend < 16 ∧
    scaled.core.press.stAt scaled.core.press.tail.toNat = .free ∧ scaled.core.checkElsewhere = false ∧
    (∀ th ∈ scaled.core.threads, th.slots = []) ∧ scaled.scalable = some scaled ∧ (Instr.pwait (.w 4) (.w 4)).wf = true ∧ scaled.core.press.pend = 0 ∧
    scaled.uncheck.dst { bits := scaled.core.press.mark.setWidth 64, taint := false, poison := false } (.w 4) = some t :=
  ⟨_, _, rfl, scaled_ready, rfl, rfl, rfl, by decide, rfl, rfl, by decide, rfl, rfl, rfl, rfl⟩

/-- An address in the last dword of queue slot 0. -/
def filling : State := reg 5 0xFFFFFFFE0038 (opened live)

theorem wit_PressControl_queue : ∃ b v u, (Instr.st (.w 5) (.w 5) 0 0 3).wf = true ∧ filling.Ready ∧
    filling.src (.w 5) = some (b, filling) ∧ filling.ownAddr b (0 * 8) 8 = some 0x38 ∧ filling.src (.w 5) = some (v, filling) ∧
    filling.numbered.queued 0x38 8 ((dwordBytes v.bits).take 8) (List.replicate 8 v.poison) = some u :=
  ⟨_, _, _, rfl, ready_of rfl, rfl, by decide, rfl, rfl⟩

/-- A command in slot 0 of the press queue. -/
def command (d0 d1 d2 : Nat) : State := onCore (fun c => { c with
  lm := Memory.setBytes [] 0 (natLE 8 d0 ++ natLE 8 d1 ++ natLE 8 d2)
  press := { c.press with
    pend := 1, tail := 1, slots := c.press.slots.set 0 { PSlot.empty with st := .pending }
    active := { c.press.active with valid := true, fmt := 0, rows := List.replicate 32 0, pois := List.replicate 32 0 } } })
  live

theorem wit_PressCommands_stop : Command (.tzero 60 10) (.tzero 60 10) ∧
    (command (0x08 + 60 * 2 ^ 22 + 10 * 2 ^ 28) 0 0).pressReady = some 0 ∧
    (command (0x08 + 60 * 2 ^ 22 + 10 * 2 ^ 28) 0 0).core.slotPoison 0 = false ∧
    decodePress false ((command (0x08 + 60 * 2 ^ 22 + 10 * 2 ^ 28) 0 0).core.slotDwords 0) = .ok (.tzero 60 10) ∧
    (command (0x08 + 60 * 2 ^ 22 + 10 * 2 ^ 28) 0 0).core.stopCode
      ((command (0x08 + 60 * 2 ^ 22 + 10 * 2 ^ 28) 0 0).core.press.slots.getD 0 .empty) (.tzero 60 10) ≠ 0 :=
  ⟨.tzero .., by decide, by decide, by decide, by decide⟩

theorem wit_PressCommands_flip : (command 0x02 0 0).Begins 0 .flip :=
  ⟨by decide, rfl, by decide, by decide, by decide, rfl⟩

theorem wit_PressCommands_pmode : (command 0x309 0 0).Begins 0 (.pmode true true) :=
  ⟨by decide, rfl, by decide, by decide, by decide, rfl⟩

theorem wit_PressCommands_tzero : (command (0x08 + 63 * 2 ^ 22 + 2 ^ 28) 0 0).Begins 0 (.tzero 63 1) :=
  ⟨by decide, rfl, by decide, by decide, by decide, rfl⟩

theorem wit_PressCommands_ptable : (command 0x0A 0x400 0x1FFE0).Begins 0 (.ptable 0x400 0x1FFE0) :=
  ⟨by decide, rfl, by decide, by decide, by decide, rfl⟩

theorem wit_PressCommands_pmark : (command 0x0B 0xFFFF 0).Begins 0 (.pmark 0xFFFF) :=
  ⟨by decide, rfl, by decide, by decide, by decide, rfl⟩

theorem wit_PressCommands_loadw : (command 0x001 (0x800 + 64 * 2 ^ 32) 0).Begins 0 (.loadw 0 0 0 false 0x800 64) :=
  ⟨by decide, rfl, by decide, by decide, by decide, rfl⟩

theorem wit_PressStreams : (command (0x200003 + 64 * 2 ^ 28) (0x800 + 32 * 2 ^ 32) 0).Begins 0
      (.stream 0 0 false true 0 64 0x800 32) ∧
    (command (0x004 + 64 * 2 ^ 28) (0x800 + 256 * 2 ^ 32) 0).Begins 0 (.streamt 0 0 false false 0 64 0x800 256) :=
  ⟨⟨by decide, rfl, by decide, by decide, by decide, rfl⟩, ⟨by decide, rfl, by decide, by decide, by decide, rfl⟩⟩

theorem wit_IntegerSteps : ∃ p : Press, p.integer = true ∧ p.tile.length = 64 ∧ p.active.rows.length = 32 ∧
    p.active.pois.length = 32 ∧ 63 < 64 ∧ p.narrow = false ∧ { p with narrow := true }.narrow = true :=
  ⟨{ (command 2 0 0).core.press with integer := true }, rfl, rfl, rfl, rfl, by decide, rfl, rfl⟩

theorem wit_PressTransfers : (command (0x005 + 64 * 2 ^ 28) (0x800 + 256 * 2 ^ 32) 0).Begins 0 (.tload 0 0 64 0x800 256) ∧
    (command (0x006 + 64 * 2 ^ 28) (0x800 + 256 * 2 ^ 32) 0).Begins 0 (.tloadt 0 0 64 0x800 256) ∧
    (command (0x007 + 2 ^ 21 + 63 * 2 ^ 22 + 2 ^ 28) (0x800 + 256 * 2 ^ 32) 0).Begins 0 (.tdrain 0 true 63 1 0x800 256 0) ∧
    (command 0x0C 0x800 0).Begins 0 (.psave 0x800) ∧ (command 0x0D 0x800 0).Begins 0 (.prestore 0x800) :=
  ⟨⟨by decide, rfl, by decide, by decide, by decide, rfl⟩, ⟨by decide, rfl, by decide, by decide, by decide, rfl⟩,
    ⟨by decide, rfl, by decide, by decide, by decide, rfl⟩, ⟨by decide, rfl, by decide, by decide, by decide, rfl⟩,
    ⟨by decide, rfl, by decide, by decide, by decide, rfl⟩⟩

theorem wit_PressEvents : (command 0xFF 0 0).pressReady = some 0 ∧
    (decodePress false ((command 0xFF 0 0).core.slotDwords 0)).toOption = none ∧
    ∃ s : State, s.core.press.stAt 0 = .running :=
  ⟨by decide, by decide, (command 0x0B 1 0).startSlot 0, by decide⟩

/-- The press stopped at slot 0. -/
def stopped : State := onCore (fun c => { c with press := c.press.stopAt 0 3 }) (command 0x0B 1 0)

theorem wit_PressEvents_stop : stopped.core.press.stop = true ∧ stopped.core.press.stoppedSlot = some 0 ∧
    stopped.core.cur.slots = [] ∧ stopped.core.frame = none ∧ stopped.core.press.running = [] ∧
    stopped.core.press.slots.length = 16 ∧ bitsAt (stopped.part ((stopped.partOfCluster 0).getD 0)).rampDn 15 0 = 0 ∧
    ((onCore (fun c => { c with press := { c.press with filler := true } }) live).coreOf 0).press.filler = true := by decide

theorem leNat_zeros (n : Nat) : leNat (List.replicate n 0#8) = 0 := by
  induction n with
  | zero => rfl
  | succ n ih => simp [List.replicate_succ, leNat, ih]

theorem piece_zeros (n off k : Nat) : (piece (List.replicate n (0#8, false)) off k) =
    List.replicate (min k (n - off)) (0#8, false) := by
  simp [piece, List.drop_replicate, List.take_replicate]

theorem badArea_zeros : badArea (List.replicate 26112 (0#8, false)) = false := by
  simp only [badArea, areaFlags, piece_zeros, List.map_replicate, leNat_zeros, List.drop_replicate]
  decide +kernel

theorem area_zeros : (command 0x0D 0x800 0).localBytes 0x800 26112 = List.replicate 26112 (0, false) := by
  rw [List.eq_replicate_iff]
  refine ⟨by simp [State.localBytes], fun x h => ?_⟩
  obtain ⟨j, -, rfl⟩ := List.mem_map.1 h
  have m : (command 0x0D 0x800 0).core.lm = [(0, 0x0D), (9, 0x08)] := by decide
  have i : (command 0x0D 0x800 0).core.cur.act.isCheck = false := rfl
  have p : (command 0x0D 0x800 0).core.lmPoison = [] := rfl
  have g : Memory.get [(0, 0x0D), (9, 0x08)] (0x800 + j) = 0 := by
    simp only [Memory.get]
    rw [if_neg (by omega), if_neg (by omega), if_neg (by omega), if_neg (by omega)]
  simpa [Core.byteAt, Core.viewMem, Core.viewPois, Core.privateAt, m, i, p, NatSet.has] using g

/-- A save area as it stands in empty memory, and one with a flag that has no meaning. -/
theorem wit_PressTransfers_area : badArea ((command 0x0D 0x800 0).localBytes 0x800 26112) = false ∧
    badArea (List.replicate 0x65E0 (0, false) ++ (0x40, false) :: List.replicate 31 (0, false)) = true := by
  refine ⟨by rw [area_zeros]; exact badArea_zeros, ?_⟩
  simp only [badArea, areaFlags, piece, List.drop_append, List.drop_replicate, List.length_replicate]
  decide +kernel

/-! ## Copies, counters, barriers and special registers -/

/-- A copy of one byte between places of the core's own memory, in w8 to w15, by channel 15. -/
def copier : State := reg 4 15 (reg 9 0xFFFFFFFE0800 (reg 10 0xFFFFFFFE0900 (reg 11 1 (opened live))))

theorem copier_ready : copier.Ready := ready_of rfl

theorem wit_CopiesIssued : ∃ (v : Val) (dws : List Word) (t : State), (Instr.copy (.w 8) (.w 4)).wf = true ∧ copier.Ready ∧
    copier.irrevocably = some copier ∧ copier.core.storeBuf = [] ∧ copier.src (.w 4) = some (v, copier) ∧ v.poison = false ∧
    copier.words (.w 8) 8 = some dws ∧ dws = [0, 0xFFFFFFFE0800, 0xFFFFFFFE0900, 1, 0, 0, 0, 0] ∧
    copier.copyProt (copyDesc dws).src = false ∧ copier.copyProt (copyDesc dws).dst = false ∧
    (copier.channelAt (clusterOf copier.core.id) (v.bits.toNat % 16)).jobs.length < 32 ∧
    (copier.core.batches copier.core.curHi).sealedList.length ≤ 64 ∧ (copier.copied 15 dws).dst (.clean 15) (.w 4) = some t :=
  ⟨_, _, _, rfl, copier_ready, rfl, rfl, rfl, rfl, rfl, by decide, by decide, by decide, by decide, by decide,
    rfl⟩

theorem wit_CopiesIssued_batches : ∃ t u : State, (Instr.bseal (.w 4)).wf = true ∧ (Instr.bdrain (.w 4) .z).wf = true ∧
    (Instr.cwptr (.w 4) (.w 4)).wf = true ∧
    (copier.uncheck.core.batches copier.uncheck.core.curHi).sealedList.length < 64 ∧
    (onCore (fun c => c.sealBatch c.curHi) copier.uncheck).dst (.clean 0) (.w 4) = some t ∧
    (copier.uncheck.core.batches copier.uncheck.core.curHi).sealedList.length ≤ (Val.clean 0).bits.toNat ∧
    copier.uncheck.dst (.clean 0) (.w 4) = some u := ⟨_, _, rfl, rfl, rfl, by decide, rfl, by decide, rfl⟩

/-- A counter of width 2, as its creation leaves it. -/
def count0 : Counter :=
  { ctx := 1, handle := 1023, logw := 1, start := 1, base := 0, nogive := false, toggles := startToggles 1 1
    counts := startCounts 1 1, failed := false, closed := false, kid := some 0 }

/-- A core that names it, and a barrier of two parties at handle 15. -/
def counting : State := { reg 4 1023 (reg 5 15 (reg 6 0xFFFFFFFF copier)) with
  counters := [count0], barriers := [bar0 0, { bar0 0 with id := { kid := 0, cohort := 0, handle := 15, group := 0 } }] }

/-- The same with the counter failed, which a CRESET may still reach. -/
theorem wit_NetworksAsked_failed : ∃ c, ({ counting with counters := [{ count0 with failed := true }] } : State).counter?
      counting.myCtx 1023 = some c ∧ c.failed = true ∧
    ({ counting with counters := [{ count0 with failed := true }] } : State).cellsFor counting.myPart counting.myCtx [c.logw] = true :=
  ⟨_, rfl, rfl, by decide⟩

theorem wit_NetworksAsked : ∃ (v : Val) (c : Counter), (Instr.cgive (.w 7) (.w 4) 15).wf = true ∧ counting.Ready ∧ counting.irrevocably = some counting ∧
    counting.src (.w 4) = some (v, counting) ∧ v.poison = false ∧
    counting.counter? counting.myCtx (v.bits.toNat % 1024) = some c ∧ c.nogive = false ∧ c.failed = false ∧
    (Instr.ctake (.w 7) (.w 4) 0).wf = true ∧ (Instr.csum (.w 7) (.w 4) 0).wf = true ∧ (Instr.creset (.w 7) (.w 4) 0).wf = true :=
  ⟨_, _, rfl, ready_of rfl, rfl, rfl, rfl, rfl, rfl, rfl, rfl, rfl, rfl⟩

theorem wit_NetworksAsked_barriers : ∃ (v g : Val) (b : Barrier) (t : State), (Instr.barv (.w 7) (.w 5)).wf = true ∧
    counting.src (.w 5) = some (v, counting) ∧ v.poison = false ∧ barrierAt (v.bits.toNat % 16) counting = .ok b counting ∧
    counting.core.dom ≠ some { ctx := b.ctx, bar := b.id } ∧ 1 < b.id.handle ∧ (Instr.barw (.w 5) (.w 6)).wf = true ∧
    counting.src (.w 6) = some (g, counting) ∧ g.poison = false ∧
    (b.copy counting.core.id - g.bits.setWidth 32 - 1).toNat < 2 ^ 31 ∧ (Instr.barg (.w 7) (.w 5)).wf = true ∧
    (Instr.barp (.w 7) (.w 5)).wf = true ∧ counting.dst (.clean 0) (.w 7) = some t :=
  ⟨_, _, _, _, rfl, rfl, rfl, rfl, by decide, by decide, rfl, rfl, rfl, by decide, rfl, rfl, rfl⟩

/-- BARV on the phase barrier of the core's domain, and on one that only takes each core once. -/
theorem wit_NetworksAsked_phase : ∃ (x t : State), (Instr.barv (.w 7) .z).wf = true ∧
    barrierAt ((0 : Word).toNat % 16) counting = .ok (bar0 0) counting ∧
    counting.core.dom = some { ctx := (bar0 0).ctx, bar := (bar0 0).id } ∧ counting.core.cur.phaseWait = none ∧
    phaseBarrier counting = .ok (bar0 0) counting ∧ counting.comes (bar0 0) = some x ∧
    x.dst { bits := counting.core.phaseNo.setWidth 64, taint := false, poison := false } (.w 7) = some t ∧
    (bar0 0).arrived.has counting.core.id = false ∧ (bar0 0).owed.contains counting.core.id = false :=
  ⟨_, _, rfl, rfl, rfl, rfl, rfl, rfl, rfl, by decide, by decide⟩

/-- The barrier of a group in a kernel of two groups, which takes each core once and is no phase barrier. -/
def grouped : State := onCore (fun c => { c with kern := c.kern.map (fun k => { k with groups := 2 }) }) counting

theorem wit_NetworksAsked_group : barrierAt ((0 : Word).toNat % 16) grouped = .ok (bar0 0) grouped ∧
    grouped.core.dom ≠ some { ctx := (bar0 0).ctx, bar := (bar0 0).id } ∧ (bar0 0).id.handle ≤ 1 := ⟨rfl, by decide, by decide⟩

theorem wit_SpecialRegistersAndTools : ∃ t u : State, (Instr.srd (.w 4) 0x102).wf = true ∧ (formSrd (.w 4) 0x102).priv = false ∧
    (priv counting).Ready ∧ (formSrd (.w 4) 0x20C).priv = true ∧ (priv counting).core.priv = true ∧
    (Instr.srd (.w 4) 0x20C).wf = true ∧ (priv counting).uncheck.dst (.clean 0) (.w 4) = some t ∧
    (Instr.swr (.w 4) 0x100).wf = true ∧ (Instr.swr (.w 4) 0x102).wf = true ∧ (Instr.swr (.w 4) 0x205).wf = true ∧
    (Instr.swr (.w 4) 0x20C).wf = true ∧ bitsAt (1023 : Word) 29 28 = 0 ∧
    (0x20C : BitVec 12) ∉ [0x100, 0x101, 0x102, 0x202, 0x203, 0x204, 0x205] ∧ counting.src (.w 4) = some (.clean 1023, counting) ∧
    (Instr.trcm (.w 4)).wf = true ∧ (Instr.dacc (.w 7) (.w 4)).wf = true ∧ counting.uncheck.dst (.clean 0) (.w 7) = some u :=
  ⟨_, _, rfl, by decide, ready_of rfl, by decide, rfl, rfl, rfl, rfl, rfl, rfl, rfl, by decide, by decide, rfl, rfl, rfl, rfl⟩

theorem wit_SpecialRegistersAndTools_crd : ∃ c, (Instr.crd (.w 7) (.w 11)).wf = true ∧
    counting.src (.w 11) = some (.clean 1, counting) ∧ (1 : Word).toNat % 256 ≤ 8 ∧
    counting.uncheck.ctx? counting.uncheck.myCtx = some c := ⟨_, rfl, rfl, by decide, rfl⟩

theorem wit_SpecialRegistersAndTools_tools : ∃ v w : Val, (Instr.tlbinv (.w 4) .z).wf = true ∧ (priv counting).Ready ∧
    (priv counting).core.priv = true ∧ (priv counting).src (.w 4) = some (v, priv counting) ∧ v.poison = false ∧
    (priv counting).core.cur.act.heldStores = 0 ∧
    State.homeReached (onCore Core.drainWc (priv counting)) (priv counting).myPart ((priv counting).tlb.filter (fun e =>
      decide (e.ctx = (priv counting).myCtx) && ((0 : Word).getLsbD 0 || decide (e.vbase = addr48 v.bits / 2 ^ e.logSize)))) = true ∧
    (Instr.errinj (.w 9) .z).wf = true ∧ (priv counting).irrevocably = some (priv counting) ∧
    (priv counting).src (.w 9) = some (w, priv counting) ∧
    (0 : Word).toNat / 4 % 4 = 0 ∧ (0 : Word).toNat % 4 ≠ 3 ∧ 0xFFFFFFFE0000 ≤ addr48 w.bits :=
  ⟨_, _, rfl, ready_of rfl, rfl, rfl, rfl, rfl, by decide, rfl, rfl, rfl, by decide, by decide, by decide⟩

/-- ERRINJ on a granule of memory, on another core of the cluster, and with a reserved kind. -/
theorem wit_SpecialRegistersAndTools_errinj : ∃ x : Xlat,
    (priv mapped).translate (priv mapped).myCluster (priv mapped).myCtx true .write 0x20F00 1 = (.ok x, priv mapped) ∧
    (priv mapped).src (.w 1) = some (.clean 0x20F00, priv mapped) ∧ isMainKey ((priv mapped).keyHere x.pa) = true ∧
    outside ((priv mapped).keyHere x.pa) = false ∧ (4 : Word).toNat / 4 % 4 = 1 ∧ (8 : Word).toNat / 4 % 4 = 2 ∧
    (12 : Word).toNat / 4 % 4 = 3 ∧ mapped.corePresent (0 / 128 * 128 + 0xFFFFFF020000 / 2 ^ 17 % 128) = true ∧
    (mapped.coreOf 1).quarantined = false := ⟨_, rfl, rfl, by decide, by decide, by decide, by decide, by decide, by decide, rfl⟩

/-! ## Stores, requests and parcels -/

/-- The phase domain of core 0's group. -/
def dom0 : Dom := { ctx := 1, bar := { kid := 0, cohort := 0, handle := 0, group := 0 } }

/-- A store of eight bytes, at the end of a line, in a phase. -/
def store (cls : WClass) (tgt : Target) : StoreOp :=
  { tgt := tgt, bytes := [1, 2, 3, 4, 5, 6, 7, 8], pois := List.replicate 8 false, full := false, cls := cls, writer := 0
    act := 1, seq := 1 }

/-- A core with one store in its buffer. -/
def storing (sent : Bool) (o : StoreOp) : State := onCore (fun c => { c with
  storeBuf := [{ op := o, sent := sent, wc := false }] }) live

theorem wit_StoresArrive : (storing false (store (.phased dom0 7) (.phys 0x2078))).canSend 0 0 =
      some (store (.phased dom0 7) (.phys 0x2078)) ∧ (store (.phased dom0 7) (.phys 0x2078)).lines = [0x40] ∧
    (store (.phased dom0 7) (.phys 0x2078)).lines.all
      ((storing false (store (.phased dom0 7) (.phys 0x2078))).ripeRoom dom0 7) = true ∧
    ((storing false (store .direct (.phys 0x2078))).coreOf 0).groupOf 0 = [0] ∧
    (storing false (store .direct (.phys 0x2078))).canSend 0 0 = some (store .direct (.phys 0x2078)) ∧
    outside 0x2078 = false ∧ (storing false (store .direct (.loc 0 0x1FFF8))).canSend 0 0 =
      some (store .direct (.loc 0 0x1FFF8)) ∧
    ((storing false (store .direct (.loc 0 0x1FFF8))).coreOf 0).scratch 0x1FFF8 8 = true := by decide

/-- Two stores that merged in the write-combining buffer leave it as one write. -/
def combined : State := onCore (fun c => { c with storeBuf := [
    { op := store .direct (.phys 0x2078), sent := false, wc := false, group := 5 },
    { op := store .direct (.phys 0x2070), sent := false, wc := false, group := 5 }] }) live

theorem wit_StoresArrive_combined : combined.canSend 0 0 = some (store .direct (.phys 0x2078)) ∧
    (combined.coreOf 0).groupOf 0 = [0, 1] ∧ ([0, 1].filterMap (combined.canSend 0)).length = 2 ∧
    outside 0x2070 = false := by decide

theorem wit_StoresArrive_row : ∃ (s : State) (w : RowWrite), s.rowWrites[0]? = some w ∧ w.tgt = .phys 0x2078 ∧
    s.rowFirst 0 w = true ∧ outside 0x2078 = false :=
  ⟨{ live with rowWrites := [{ cluster := 0, ch := 0, job := 5, ctx := 1, tgt := .phys 0x2078, bytes := [1], pois := [false] }] },
    _, rfl, rfl, rfl, rfl⟩

theorem wit_StoresArrive_ack : ∃ b, ((storing true (store .direct (.phys 0x2078))).coreOf 0).storeBuf[0]? = some b ∧
    b.sent = true ∧ b.op.tgt = .phys 0x2078 ∧ isMainKey 0x2078 = true := ⟨_, rfl, rfl, rfl, by decide⟩

/-- A full set: eight ripening copies of one line in eight phases, and a store of a ninth. -/
def ripe (p : Nat) : Ripe :=
  { line := 0x40, dom := dom0, phase := .ofNat 32 p, mask := List.replicate 128 false, data := List.replicate 128 0
    writers := List.replicate 8 .none, pois := List.replicate 8 false }
def fullSet : State := { storing false (store (.phased dom0 8) (.phys 0x2078)) with ripening := (List.range 8).map ripe }

theorem fullSet_all : fullSet.ripeInSet 0x40 = fullSet.ripening := by
  simp [State.ripeInSet, fullSet, ripe]

theorem wit_StoresArrive_forcing : fullSet.ripening[0]? = some (ripe 0) ∧ (fullSet.ripeInSet (ripe 0).line).head? = some (ripe 0) ∧
    fullSet.waitsFor (ripe 0).line = true := by
  refine ⟨rfl, (congrArg _ fullSet_all).trans rfl, ?_⟩
  have c : fullSet.canSend 0 0 = some (store (.phased dom0 8) (.phys 0x2078)) := by decide
  have l : (store (.phased dom0 8) (.phys 0x2078)).lines = [0x40] := by decide
  have r : fullSet.ripeRoom dom0 8 0x40 = false := by
    simp only [State.ripeRoom, fullSet_all]
    decide
  refine List.any_eq_true.2 ⟨0, by decide, List.any_eq_true.2 ⟨0, by decide, ?_⟩⟩
  rw [c]
  show (store (.phased dom0 8) (.phys 0x2078)).lines.any _ = true
  rw [l]
  simpa [ripe] using r

theorem wit_ActivationsRun_ripe : fullSet.ripening[0]? = some (ripe 0) ∧ ∃ x, fullSet.ctx? (ripe 0).dom.ctx = some x :=
  ⟨rfl, _, rfl⟩

/-- A request under way of the core in focus. -/
def asked (k : ReqKind) (served : Bool) : State :=
  { live with reqs := [{ uid := 7, core := 0, act := 1, kind := k, served := served, slice := none }] }

theorem wit_RequestsServed : ∃ r q : Req, (asked (.load (.phys 0x2078) 8 true false false) false).req? 7 = some r ∧
    r.kind.atSlice = true ∧ (asked (.load (.phys 0x2078) 8 true false false) false).readReady r = true ∧
    isMainKey 0x2078 = true ∧ outside 0x2078 = false ∧ r.core = 0 ∧
    (asked (.atomic (.phys 0x2078) .add 8 1 0 false false) false).req? 7 = some q ∧ q.served = false ∧
    isPeerPA (keyPA 0x2078) = false ∧
    (asked (.atomic (.phys 0x2078) .add 8 1 0 false false) false).atomReady q (.phys 0x2078) 8 = true :=
  ⟨_, _, rfl, by decide, by decide, by decide, by decide, rfl, rfl, rfl, by decide, by decide⟩

theorem wit_clean : (storing false (store (.phased dom0 7) (.phys 0x2078))).NoErrors ∧
    (asked (.load (.phys 0x2078) 8 true false false) false).NoErrors :=
  ⟨⟨rfl, List.forall_mem_nil _⟩, rfl, List.forall_mem_nil _⟩

theorem wit_RequestsServed_line : let s := asked (.load (.phys 0x2078) 8 true false false) false
    s.lineOf (0x2078 / 128) = none ∧ s.lines.length + s.ripening.length < 16 ∧ 0x2078 % 128 + 8 ≤ 128 := by decide

/-- Table 6.5: a normal read allocates, a stream read as the next victim, a bypass read not at all (R131); here over a
line that stands already. -/
theorem test_line_allocated :
    (State.readLines (State.readLines live .normal 0x2000 8) .stream 0x2080 8).lines.map (·.line) = [0x41, 0x40] ∧
    (State.readLines live .bypass 0x2000 8).lines = [] := by decide

/-- R127: ZFILL makes both lines zero lines without a read; a store of a byte that is not zero takes a data way. -/
theorem test_zero_line :
    (State.writeLines live (.zfill 0) 0x2000 (List.replicate 256 0) (List.replicate 256 false)).lines.map (fun x => (x.zero, x.dirty)) =
      [(true, true), (true, true)] ∧
    (State.hitLines (State.readLines live .normal 0x2000 8) 0x2000 [1] [false]).lines.map (fun x => (x.zero, x.dirty)) =
      [(false, true)] := by decide +kernel

/-- A load that its home has served, and its slot. -/
def answered : State := onCore (fun c => { c with cur := { c.cur with slots := [
    { uid := 7, dest := .reg (.w 4), rem := 0, counted := false, value := some (.word (.clean 9)), here := false
      cancelled := false, acq := false, load := true, ldc := false, block := false }] } })
  (asked (.load (.phys 0x2078) 8 true false false) true)

theorem wit_RequestsServed_response : ∃ (r : Req) (sl : Slot) (v : Val), answered.req? sl.uid = some r ∧ r.served = true ∧
    r.core = answered.core.id ∧ r.uid = sl.uid ∧ answered.core.cur.slots = [sl] ∧ answered.core.susp = none ∧
    answered.core.frame = none ∧ answered.core.cur.act.check = none ∧ answered.core.cur.act.wp.toNat % 8 = 0 ∧ sl.rem = 0 ∧
    sl.cancelled = false ∧ sl.value = some (.word v) ∧ sl.dest = .reg (.w 4) :=
  ⟨_, _, _, rfl, rfl, rfl, rfl, rfl, rfl, rfl, rfl, by decide, rfl, rfl, rfl, rfl⟩

/-- A context whose page table maps the first GiB. -/
def paged : State := { live with
  contexts := [{ Context.plain 1 0 with desc := [0x10000], pendingTail := [5] }]
  mem := (live.mem.setBytes 0x10000 [1, 0x10, 1]).setBytes 0x11000 [0x3B]
  mfqPending := [5] }

theorem wit_RequestsServed_walk : ∃ c, paged.activeCtx 0 = some c ∧ paged.tlbHit (lastLevel (paged.firstCluster 0)) c.id 0x3FFFFFFF = none ∧
    (walkFrom 0 0x3FFFFFFF walkLevels (bitsAt (c.desc.getD 0 0) 47 12 * 4096) paged).1.toOption = some (0x3B, 30) ∧ paged.mfqPending = 5 :: [] ∧ paged.ctx? 1 = some c ∧
    c.pendingTail = 5 :: [] := ⟨_, rfl, rfl, by decide, rfl, rfl, rfl⟩

/-- A message to core 1 in the outbox of the core in focus. -/
def mailing (hi : Bool) : State := onCore (fun c => { c with
  outbox := [{ src := 0, dst := 1, hi := hi, entry := 0x8000, body := [], tag := 0, replyTo := 0 }] }) live

/-- The same with the queues of core 1 full. -/
def jammed (hi : Bool) : State := { mailing hi with others := [{ Core.reset 1 with
  hq := List.replicate 16 { act := .blank, resume := none, extra := false }
  lq := List.replicate 32 { act := .blank, resume := none, extra := false } }] }

theorem wit_ParcelsArrive : (∀ hi, ∃ m, ((mailing hi).coreOf 0).outbox[0]? = some m ∧ m.hi = hi ∧
      (((mailing hi).coreOf 0).outbox.take 0).any m.follows = false ∧ (mailing hi).parcels.any (Parcel.ahead m) = false ∧
      ((mailing hi).coreOf m.dst).inHi = [] ∧ ((mailing hi).coreOf m.dst).inLo = [] ∧
      ((mailing hi).coreOf m.dst).hq.length < 16 ∧ ((mailing hi).coreOf m.dst).lq.length < 32) ∧
    (∀ hi, ∃ m, ((jammed hi).coreOf 0).outbox[0]? = some m ∧ m.hi = hi ∧ (jammed hi).parcels.any (Parcel.ahead m) = false ∧
      ((jammed hi).coreOf m.dst).inHi = [] ∧
      ((jammed hi).coreOf m.dst).inLo = [] ∧ 16 ≤ ((jammed hi).coreOf m.dst).hq.length ∧
      32 ≤ ((jammed hi).coreOf m.dst).lq.length) := by
  constructor <;> intro hi <;> cases hi <;> first
    | exact ⟨_, rfl, rfl, rfl, rfl, rfl, rfl, by decide, by decide⟩
    | exact ⟨_, rfl, rfl, rfl, rfl, rfl, by decide, by decide⟩

/-- A message with no room in the input buffer stays in the fabric, and leaves it when there is room. -/
def letter : Msg := { src := 0, dst := 1, hi := true, entry := 0x8000, body := [], tag := 0, replyTo := 0 }
def blocked : State := { mailing true with others := [{ Core.reset 1 with
  hq := List.replicate 16 { act := .blank, resume := none, extra := false }, inHi := List.replicate 8 letter }] }

theorem wit_ParcelsArrive_fabric (h : 0 < Config.fabricRoom) : (blocked.coreOf 0).outbox[0]? = some letter ∧
    ((blocked.coreOf 0).outbox.take 0).any letter.follows = false ∧ blocked.bufferRoom letter = false ∧
    blocked.fabricMessages < Config.fabricRoom := ⟨rfl, rfl, by decide, h⟩

theorem wit_ParcelsArrive_leaves : ({ jammed true with parcels := [.msg letter] } : State).parcels[0]? = some (.msg letter) ∧
    ([] : List Parcel).any (Parcel.ahead letter) = false ∧ (jammed true).bufferRoom letter = true ∧
    16 ≤ ((jammed true).coreOf 1).hq.length := by decide

/-- The state `firing` with a token for its actor, and other parcels. -/
def carried (p : Parcel) : State := { firing with parcels := [p] }

theorem wit_ParcelsArrive_token : ∃ d a, (carried (.token 1 0 0 (List.replicate 8 ⟨1, false⟩))).parcels[0]? =
      some (.token 1 0 0 (List.replicate 8 ⟨1, false⟩)) ∧
    (carried (.token 1 0 0 [])).parcelFirst 0 (fun _ => true) = true ∧ (List.replicate 8 (PWord.mk 1 false)).length = 8 ∧
    ((carried (.token 1 0 0 [])).coreOf 0).actorDef 0 = some d ∧ ((carried (.token 1 0 0 [])).coreOf 0).actors[0]? = some a ∧
    (carried (.token 1 0 0 [])).ldsWait = [] ∧ (Core.reset 0).wf = true := ⟨_, _, rfl, rfl, rfl, rfl, rfl, rfl, by decide⟩

theorem wit_ParcelsArrive_others : (carried (.reply 0 0x1FFF8 ⟨1, false⟩)).parcels[0]? = some (.reply 0 0x1FFF8 ⟨1, false⟩) ∧
    ((carried (.reply 0 0x1FFF8 ⟨1, false⟩)).coreOf 0).scratch 0x1FFF8 8 = true ∧
    ((carried (.reply 0 0x1FFFF ⟨1, false⟩)).coreOf 0).scratch 0x1FFFF 8 = false ∧
    (carried (.chan 0 .e ⟨1, false⟩)).parcels[0]? = some (.chan 0 .e ⟨1, false⟩) ∧
    (carried (.credit 0 .w)).parcels[0]? = some (.credit 0 .w) := by decide

/-! ## Activations -/

/-- A resting core with an entry in one queue. -/
def queued (hi : Bool) : State := onCore (fun c => { c with
  active := false
  hq := if hi then [{ act := { Act.blank with hi := true, entry := 0x8000 }, resume := none, extra := false }] else []
  lq := [{ act := { Act.blank with entry := 0x9000 }, resume := none, extra := false }] }) live

theorem wit_ActivationsRun : (queued true).Resting ∧ (queued false).Resting ∧ ∃ q q' : QEntry,
    (queued true).canStart q = true ∧ q.resume = none ∧ q.act.actor = none ∧ q.act.initial = false ∧ q.act.check = none ∧
    q.act.hi = true ∧ (queued true).core.hq = q :: [] ∧ (queued false).canStart q' = true ∧ q'.resume = none ∧
    q'.act.actor = none ∧ q'.act.initial = false ∧ q'.act.check = none ∧ q'.act.hi = false ∧
    (queued false).core.hq = [] ∧ (queued false).core.lq = q' :: [] :=
  ⟨⟨rfl, rfl, rfl, rfl, rfl, rfl, rfl, rfl, rfl⟩, ⟨rfl, rfl, rfl, rfl, rfl, rfl, rfl, rfl, rfl⟩,
    { act := { Act.blank with hi := true, entry := 0x8000 }, resume := none, extra := false },
    { act := { Act.blank with entry := 0x9000 }, resume := none, extra := false },
    by decide, rfl, rfl, rfl, rfl, rfl, rfl, by decide, rfl, rfl, rfl, rfl, rfl, rfl, rfl⟩

/-- A core that has suspended its activation, one that can fire an actor, and one that has rolled an activation back. -/
def suspended : State := onCore (fun c => { c with active := false, susp := some c.cur }) live
def fireable : State := onCore (fun c => { c with
  active := false, actors := [{ head := 0, count := 1, reserved := 0, busy := false, held := 0 }] }) firing
def rolledBack : State := onCore (fun c => { c with rolled := [{ c.cur.act with redeliv := true, actor := none }] }) live

theorem wit_ActivationsRun_others : ∃ (th : Thread) (d : ActorDef) (k : KernInfo) (a : Act), suspended.resumable = true ∧
    suspended.core.susp = some th ∧ fireable.core.actorDef 0 = some d ∧ fireable.core.kern = some k ∧
    fireable.canFire fireable.core.id 0 = true ∧ fireable.core.frozen = false ∧ rolledBack.core.rolled = a :: [] ∧
    rolledBack.core.owesCommands a = false ∧ a.actor = none ∧ rolledBack.mayRun rolledBack.core.id = true ∧
    rolledBack.core.parked = [] ∧ rolledBack.core.press.discard a.uid = rolledBack.core.press :=
  ⟨_, _, _, _, by decide, rfl, rfl, rfl, by decide, rfl, rfl, by decide, rfl, rfl, rfl, rfl⟩

theorem wit_ActivationsRun_trap : vectored.core.active = true ∧ 0 < (15 : BitVec 8).toNat ∧ (15 : BitVec 8).toNat < 16 ∧
    (15 : BitVec 8).toNat ≠ cPOISON ∧ vectored.core.cur.act.check = none ∧ vectored.core.inHandler = false ∧
    vectored.core.tvec ≠ 0 := by decide

theorem wit_ActivationsRun_err : (onAct (fun a => { a with check := some 3 }) live).core.cur.act.isCheck = true ∧
    live.core.cur.act.isCheck = false ∧ live.core.inHandler = false ∧
    (onAct (fun a => { a with redeliverable := true }) live).core.cur.act.canRedeliver = true ∧
    live.core.cur.act.canRedeliver = false := by decide

/-- A line in the L1, and the 16 rind registers of 64 scales. -/
theorem wit_ActivationsRun_units : 0 < (onCore (fun c => { c with l1 := [{
      bank := 0, line := 0x40, bytes := List.replicate 128 0, pois := List.replicate 8 false }] }) live).core.l1.length ∧ 15 < live.core.rind.length := by decide

/-- A token in a network, and an arrival at a barrier. -/
def token (net : NetId) (layer : Nat) : Tok :=
  { uid := 9, ctx := 1, net := net, anti := false, layer := layer, wire := 0, core := some 0, act := 1, ret := true
    taint := false, requester := 0, waiting := false }
def fabric (t : Tok) (closed : Bool) : State :=
  { counting with tokens := [t], counters := [{ count0 with closed := closed }] }

theorem wit_FabricSteps : (fabric (token (.counter 1023) 0) false).netState 1 (.counter 1023) = some (1, false, startToggles 1 1) ∧
    0 < layerCount 1 ∧ (fabric (token (.counter 1023) 0) false).netSaved 1 = false ∧
    (fabric (token (.counter 1023) 0) true).netState 1 (.counter 1023) = some (1, true, startToggles 1 1) ∧
    (fabric (token (.counter 1023) 0) true).netSaved 1 = false ∧
    layerCount count0.logw ≤ (token (.counter 1023) 1).layer ∧
    (fabric (token (.counter 1023) 1) false).counter? 1 1023 = some count0 := by decide

/-- A CSUM or a CRESET at a counter. -/
def cell (reset : Bool) : CellReq := { uid := 9, ctx := 1, handle := 1023, core := 0, act := 1, taint := false, reset := reset }

theorem wit_FabricSteps_cells : (∀ reset, ({ counting with cellReqs := [cell reset] }.cellReqs.find? (fun r => r.uid == 9)) =
      some (cell reset)) ∧ counting.counter? 1 1023 = some count0 ∧ count0.closed = false ∧
    ({ counting with cellReqs := [cell true], counters := [{ count0 with closed := true }] } : State).counter? 1 1023 =
      some { count0 with closed := true } ∧
    [cell true].find? (fun r => r.reset && r.ctx == 1 && r.handle == 1023) = some (cell true) ∧
    counting.inside 1 (.counter 1023) = false ∧ (counting.ctx? 1).map (·.st) ≠ some .saved ∧ (counting.netState 1 (.counter 1023)).isSome = true ∧
    (counting.netState 1 (.barrier (bar0 0).id)).isSome = true ∧ (counting.ctx? 1).isSome = true := by decide

theorem wit_FabricSteps_barrier : counting.barrier? 1 (bar0 0).id = some (bar0 0) ∧
    layerCount (bar0 0).logw ≤ (token (.barrier (bar0 0).id) 1).layer ∧ (bar0 0).failed = false ∧
    (bar0 0).counts.getD ((network 1).exitOf 0) 0 < quota 2 1 ((network 1).exitOf 0) ∧
    quota 2 1 ((network 1).exitOf 0) ≤ [1, 1].getD ((network 1).exitOf 0) 0 ∧
    ({ bar0 0 with counts := [1, 1] } : Barrier).full = true ∧ counting.inside 1 (.barrier (bar0 0).id) = false := by decide


theorem wit_FabricSteps_copies : ({ counting with barriers := [{ bar0 1 with owed := [0, 1] }] } : State).barrier? 1 (bar0 0).id =
      some { bar0 1 with owed := [0, 1] } ∧ ({ bar0 1 with owed := [0, 1] } : Barrier).owed ≠ [] := by decide

/-! ## Copies under way, packets and kernels -/

/-- A device with partition 0, an ACTIVE context and a page of it. -/
def device : State := { State.reset.placePart with contexts := [Context.plain 1 0], tlb := [page 0x20 2, page 0x30 3] }

/-- A copy of one byte by core 0, `next` elements issued. -/
def job (src : Word) (next : Nat) : CopyJob :=
  { uid := 5, desc := [0, src, 0xFFFFFFFE0900, 1, 0, 0, 0, 0], core := some 0, hi := false, ctx := 1, pkt := none, seq := 0
    next := next, issued := next, done := 0, status := none, priv := false }

/-- Channel 3 of cluster 0 with a copy. -/
def copying (j : CopyJob) : State := { device with channels := [{ cluster := 0, ch := 3, jobs := [j], nextSeq := 1, lastSeq := 0
                                                                  lastDone := 0, startedAt := 0 }] }

theorem wit_CopiesRun : ∃ (s1 s2 : State) (bs : List (Byte × Bool)) (t : Target) (use : LineUse),
    ((copying (job 0xFFFFFFFE0800 0)).channelAt 0 3).jobs = job 0xFFFFFFFE0800 0 :: [] ∧
    (copying (job 0xFFFFFFFE0800 0)).channelTurn 0 3 = true ∧ (copyDesc (job 0xFFFFFFFE0800 0).desc).run 0 255 = 1 ∧
    (copying (job 0xFFFFFFFE0800 0)).copyGather 0 (job 0xFFFFFFFE0800 0) (copyDesc (job 0xFFFFFFFE0800 0).desc) 0 1 = ((.ok bs, []), s1) ∧
    s1.copyTarget 0 (job 0xFFFFFFFE0800 0) [] (copyDesc (job 0xFFFFFFFE0800 0).desc).dhint
      ((copyDesc (job 0xFFFFFFFE0800 0).desc).dest 0) 1 = (.ok (t, use), s2) :=
  ⟨_, _, _, _, _, rfl, by decide, by decide, rfl, rfl⟩

/-- A source that no page maps, with a destination that can be reached. -/
theorem wit_CopiesRun_error : ∃ (s1 s2 : State) (e : Nat) (bad : List Nat) (x : Target × LineUse),
    (copying (job 0x99999 0)).channelTurn 0 3 = true ∧ (copyDesc (job 0x99999 0).desc).run 0 255 = 1 ∧
    (copying (job 0x99999 0)).copyGather 0 (job 0x99999 0) (copyDesc (job 0x99999 0).desc) 0 1 = ((.error e, bad), s1) ∧
    bad.contains ((copyDesc (job 0x99999 0).desc).source 0 / 4096) = true ∧
    s1.copyTarget 0 (job 0x99999 0) bad (copyDesc (job 0x99999 0).desc).dhint ((copyDesc (job 0x99999 0).desc).dest 0) 1 =
      (.ok x, s2) ∧ ∀ f, (.ok x : Except Nat (Target × LineUse)) = .error f → e ≤ f :=
  ⟨_, _, _, _, _, by decide, by decide, rfl, by decide, rfl, fun _ h => by cases h⟩

/-- A row of a peer's memory on its way, with no port up. -/
def peerRow : RowWrite := { cluster := 0, ch := 3, job := 5, ctx := 1, tgt := .phys (keyOf 0 0xC00000000000), bytes := [1], pois := [false] }

theorem wit_CopiesRun_link : ({ copying (job 0 1) with rowWrites := [peerRow] } : State).rowFirst 0 peerRow = true ∧
    isPeerPA (keyPA peerRow.tgt.addr) = true ∧
    ((copying (job 0 1)).upPorts ((copying (job 0 1)).partOfCtx 1) (keyPA peerRow.tgt.addr)).isEmpty = true := by decide +kernel

/-- A row write to a core's memory. -/
def rowTo (la : Nat) : RowWrite :=
  { cluster := 0, ch := 3, job := 5, ctx := 1, tgt := .loc 0 la, bytes := [1, 2], pois := [false, false] }

theorem wit_CopiesRun_rows : ({ copying (job 0 1) with rowWrites := [rowTo 0x400] } : State).rowFirst 0 (rowTo 0x400) = true ∧
    (rowTo 0x400).tgt = .loc 0 0x400 ∧ ((copying (job 0 1)).coreOf 0).scratch 0x400 (rowTo 0x400).bytes.length = true ∧
    (copying (job 0 1)).ldsWait = [] ∧ (rowTo 0x3FF).tgt = .loc 0 0x3FF ∧ 0x3FF < 0x400 ∧
    ((copying (job 0 1)).coreOf 0).scratch 0x1FFFF 2 = false ∧ (Core.reset 0).wf = true := by decide

/-- A queue of 16 slots, with the packets given. -/
def queue (st : QSt) (pkts : List Pkt) : Queue :=
  { ctx := 1, num := 63, base := 0x10000, logq := 4, ctl := 0x20000, handle := 5, rd := 0, st := st, reason := 0, pkts := pkts }
def queueing (q : Queue) : State := { device with queues := [q] }

theorem wit_CopiesRun_end : ((copying (job 0 1)).channelAt 0 3).jobs = job 0 1 :: [] ∧
    (copying (job 0 1)).rowWrites.any (fun w => w.job == (job 0 1).uid) = false ∧ (copyDesc (job 0 1).desc).count ≤ (job 0 1).next ∧
    (job 0 1).core = some 0 ∧
    (copying { job 0 1 with core := none, pkt := some (63, 0) }).rowWrites.any (fun w => w.job == 5) = false ∧
    ({ copying { job 0 1 with core := none, pkt := some (63, 0) } with queues := [queue .running []] } : State).queue? 1 63 =
      some (queue .running []) := by decide

/-- A packet that has been consumed. -/
def pkt (started : Bool) (dws : List Word) : Pkt := { index := 0, dws := dws, started := started, key := 0x10000 }

/-- A queue with a full slot at RD, and the dwords of its packet. -/
def filled : State := { queueing (queue .waiting []) with fullSlots := [0x400] }

theorem wit_PacketsRun : filled.queue? 1 63 = some (queue .waiting []) ∧ filled.ctxActive 1 = true ∧
    (queue .waiting []).unstarted = none ∧ (queue .waiting []).waiting = none ∧ filled.headFull (queue .waiting []) = true ∧
    filled.armed = [] ∧ NatSet.wf filled.fullSlots = true ∧
    pktReason (dwordsOf ((filled.memBytes (filled.slotKey (queue .waiting []) 0) 64).map (·.1)))
      ((filled.memBytes (filled.slotKey (queue .waiting []) 0) 64).any (·.2)) = 0 ∧
    pktReason [5] false ≠ 0 := by decide

/-- One packet ready to start. -/
def starting (dws : List Word) : State := queueing (queue .running [pkt false dws])

theorem wit_PacketsRun_start : (starting [0]).queue? 1 63 = some (queue .running [pkt false [0]]) ∧
    (starting [0]).startable 1 63 0 = some (pkt false [0]) ∧ (starting [1]).startable 1 63 1 = some (pkt false [1]) ∧
    (starting [1]).partOfCtx 1 < (starting [1]).partitions.length ∧ lKhdr [1, 0x101] % 256 ≠ 0 ∧
    (starting [1]).kernel? 1 ((starting [1]).part ((starting [1]).partOfCtx 1)).launches.toNat = none ∧
    (starting [2]).startable 1 63 2 = some (pkt false [2]) ∧
    ((starting [2]).clustersOf ((starting [2]).partOfCtx 1))[(copyDesc [2]).clus]? = some 0 ∧
    ((starting [2]).channelAt 0 (copyDesc [2]).chan).jobs.length < 32 ∧
    ((starting [2]).clustersOf ((starting [2]).partOfCtx 1))[(copyDesc [2 + 255 * 2 ^ 28]).clus]? = none := by decide

/-- SIGNAL and WAIT on a dword of page 0x20. -/
def signal (op : Word) : State := starting [3 + op * 2 ^ 16, 0x20FF8, 7]
def waitOn (va v : Word) (started : Bool) : State := queueing (queue .running [pkt started [4, va, v, 0xFFFFFFFFFFFFFFFF]])

theorem wit_PacketsRun_signal : ∃ (s1 s2 : State) (x y : Xlat), (signal 0).startable 1 63 3 = some (pkt false [3, 0x20FF8, 7]) ∧
    sigOp [3 + 1 * 2 ^ 16] = 1 ∧ sigOp [3 + 2 * 2 ^ 16] = 2 ∧ sigAddr [3, 0x20FF4] % 8 ≠ 0 ∧ sigAddr [3, 0x20FF8] % 8 = 0 ∧
    (signal 0).dispAtomic 1 0x20FF8 false = (.ok x, s1) ∧ s1.NoErrors ∧ s1.ldsWait = [] ∧ outside (keyOf 0 x.pa) = false ∧
    ({ signal 2 with tlb := [{ page 0x20 2 with leaf := .ofNat 64 (0x203B + 2 ^ 59) }] } : State).dispAtomic 1 0x20FF8 true =
      (.ok y, s2) :=
  ⟨_, _, _, _, by decide, by decide, by decide, by decide, by decide, rfl, ⟨rfl, List.forall_mem_nil _⟩, rfl, by decide, rfl⟩

/-- A WAIT whose dword has been found readable. -/
def awaiting : State := ((waitOn 0x20FF8 0 false).atomicOk 1 0x20FF8 false).2

theorem wit_PacketsRun_wait : (waitOn 0x20FF8 0 false).startable 1 63 4 =
      some (pkt false [4, 0x20FF8, 0, 0xFFFFFFFFFFFFFFFF]) ∧ ((waitOn 0x20FF8 0 false).atomicOk 1 0x20FF8 false).1 = true ∧
    awaiting.queue? 1 63 = (waitOn 0x20FF8 0 false).queue? 1 63 ∧
    (awaiting.dispRead 1 0x20FF8 8).1 = some (List.replicate 8 0) ∧
    waitHolds [4, 0x20FF8, 0, 0xFFFFFFFFFFFFFFFF] (.ofNat 64 (leNat (List.replicate 8 0))) = true ∧
    waitHolds [4, 0x20FF8, 1, 0xFFFFFFFFFFFFFFFF] (.ofNat 64 (leNat (List.replicate 8 0))) = false ∧
    (queue .held [pkt true [4, 0x20FF8, 0, 0xFFFFFFFFFFFFFFFF]]).waiting = some (pkt true [4, 0x20FF8, 0, 0xFFFFFFFFFFFFFFFF]) ∧
    ((waitOn 0x20FF4 0 false).startable 1 63 4).isSome = true ∧ ((waitOn 0x20FF4 0 false).atomicOk 1 0x20FF4 false).1 = false := by
  decide

/-- A kernel of one cohort of one core. -/
def kernel (st : KSt) (pkt : List Word) (next ended : Nat) : Kernel :=
  { ctx := 1, part := 0, kid := 7, queue := 63, index := 0, pkt := pkt
    header := [0, 2 ^ 48 + 2 ^ 40 + 2 ^ 32 + 2 ^ 24 + 64 * 2 ^ 16 + 32] ++ List.replicate 30 0, actors := [], entries := []
    tensors := [], counters := [], st := st, met0 := false, met1 := false, next := next, ended := ended, status := 0, bonus := 2
    order := 0, made := true, reserved := false, again := [] }

/-- A device with it. -/
def launching (k : Kernel) : State := { device with kernels := [k] }

/-- A packet that waits on nothing, or on the dword at 0x20FF8 to reach 1. -/
def free0 : List Word := [1, 0x1000, 2 ^ 16 + 1, 0, 0, 0, 0, 0]
def bound0 : List Word := [1, 0x1000, 2 ^ 16 + 1, 0, 0, 0x20FF8, 0, 1]

theorem wit_KernelsRun : (launching (kernel .waiting free0 0 0)).kernel? 1 7 = some (kernel .waiting free0 0 0) ∧
    (launching (kernel .waiting free0 0 0)).ctxActive 1 = true ∧ lWaddr free0 0 = 0 ∧ lWaddr free0 1 = 0 ∧
    lWaddr bound0 1 = 0 ∧ lWaddr bound0 0 ≠ 0 ∧ (kernel .waiting bound0 0 0).met0 = false ∧
    ((launching (kernel .waiting bound0 0 0)).dispRead 1 (lWaddr bound0 0) 8).1 = some (List.replicate 8 0) ∧
    leNat (List.replicate 8 0) < lWval bound0 0 ∧
    (kernel .ready free0 0 0).open = true ∧ (kernel .ready free0 0 0).bonus < 3 := by decide

theorem wit_KernelsRun_place : ∃ c, device.activeCtx 0 = some c ∧
    (launching (kernel .ready free0 0 0)).kernels.filter (fun k => k.ctx == c.id && k.open) = [kernel .ready free0 0 0] ∧
    (launching (kernel .ready free0 0 0)).kernel? c.id 7 = some (kernel .ready free0 0 0) ∧
    ((launching (kernel .ready free0 0 0)).fitOn 0 (kernel .ready free0 0 0).header (launching (kernel .ready free0 0 0)).sound).isSome =
      true ∧ (launching (kernel .ready free0 0 0)).fitNow (kernel .ready free0 0 0) = some [(0, 0, 0)] :=
  ⟨_, rfl, by decide, by decide, by decide, by decide⟩

/-- Its cohort. -/
def cohort (st : ChSt) : Cohort := { ctx := 1, kid := 7, index := 0, groups := [(0, 0, 0)], st := st }

theorem wit_KernelsRun_made : (kernel .ready free0 0 0).made = true ∧ (kernel .ready free0 0 0).counters = [] ∧
    (kernel .ready free0 0 0).again = [] ∧ (kernel .ready free0 0 0).reserved = false ∧
    (launching { kernel .ready free0 0 0 with made := false }).cellsFor 0 1 (kernel .ready free0 0 0).barrierLogs = true := by decide

theorem wit_KernelsRun_cohort : [cohort .loading].find? (fun x => x.is 1 7 0) = some (cohort .loading) ∧
    [cohort .running].find? (fun x => x.is 1 7 0) = some (cohort .running) ∧
    (launching (kernel .draining free0 1 0)).cohortEnds (cohort .running) = true ∧
    (∀ i ∈ (cohort .running).cores (kernel .draining free0 1 0).header,
      (launching (kernel .draining free0 1 0)).quietCore i = true ∧ (launching (kernel .draining free0 1 0)).storesDone i = true) ∧
    (cohort .running).cores (kernel .draining free0 1 0).header = [0] ∧ (kernel .draining free0 1 1).next = (kernel .draining free0 1 1).total ∧
    (kernel .draining free0 1 1).ended = (kernel .draining free0 1 1).next ∧ lCkind free0 = 0 ∧
    (launching (kernel .draining free0 1 1)).ctxActive 1 = true ∧
    (queueing (queue .running [])).queue? 1 63 = some (queue .running []) := by decide

/-! ## Checks, the host and the links -/

/-- A sample whose original ran on core 0. -/
def sample (checker : Option Nat) (c : Option Word) (tie : Option Nat) (t : Option Word) : Check :=
  { uid := 3, ctx := 1, core := 0, act := { Act.blank with entry := 0x8000 }, inputs := [], inPois := [], tokens := [], tt := []
    kern := some (.plain 1 0 0), oHeld := [], oDigest := 5, ended := true, checker := checker, cDigest := c, tie := tie
    tDigest := t, tHeld := [], grants := [], savedPress := none, savedRind := [], savedTags := [], savedTt := [], savedCb := 0
    savedCbPois := 0 }
def checking (k : Check) : State := { device with checks := [k] }

theorem wit_ChecksRun : (checking (sample none none none none)).check? 3 = some (sample none none none none) ∧
    (checking (sample none none none none)).checkCore ((checking (sample none none none none)).nextCluster (clusterOf 0)) [0] =
      some 128 ∧ ((checking (sample none none none none)).coreOf 128).freeForRun = true ∧
    (checking (sample (some 128) (some 6) none none)).checkCore ((checking (sample (some 128) (some 6) none none)).nextCluster
      (clusterOf 128)) [0, 128] = some 2048 ∧
    ((checking (sample (some 128) (some 6) none none)).coreOf 2048).freeForRun = true ∧ (6 : Word) ≠ 5 ∧
    (sample (some 128) (some 5) none none).cDigest = some (sample (some 128) (some 5) none none).oDigest ∧
    (checking (sample (some 128) (some 6) (some 256) (some 6))).check? 3 = some (sample (some 128) (some 6) (some 256) (some 6)) ∧
    ((checking (sample none none none none)).coreOf 128).suspicion < 65536 := by decide

theorem wit_ChecksRun_waits : ((checking (sample none none none none)).waitsAt (sample none none none none)).isSome = true ∧
    (sample none none none none).outs = none ∧ (sample (some 128) (some 6) (some 256) (some 6)).outs = none ∧
    (sample none none none none).oHeld = [] := by decide

/-- The patrol engine of partition 0 has come to 0x3FF0. -/
theorem wit_ChecksRun_due : ({ device with patrols := [(device.patrolEngine 0 0x3FF0, 0x3FF0)] } : State).patrolDue 0 0x3FF0 = true := by
  decide

theorem wit_ChecksRun_patrol : ∃ a : Armed, (15 : Nat) < 16 ∧ isSecondTier 0x100000000000 = true ∧
    0x3FF0 < device.mainBytes 0 ∧ isSecondTier 0x3FF0 = false ∧
    ({ device with armed := [a] } : State).armed.find? (fun a => a.at 2 (.phys (16 * (keyOf 0 0x3FF0 / 16)))) = some a ∧
    a.kind = 0 ∧ device.armed.find? (fun a => a.at 2 (.phys (16 * (keyOf 0 0x3FF0 / 16)))) = none ∧
    0 < device.partitions.length :=
  ⟨{ tgt := .phys 0x3FF0, unit := 2, kind := 0 }, by decide, by decide, by decide, by decide, by decide, rfl, by decide,
    by decide⟩

/-- A device whose context has a counter, and a read of a take window waiting at it. -/
def hosted : State := { device with
  counters := [count0], takes := [{ uid := 9, part := 0, requester := 3, handle := 1023 }]
  tokens := [{ token (.counter 1023) 0 with core := none, waiting := true }] }

/-- An active message of 32 bytes to core 0, which serves a kernel. -/
def greeting : List Byte := [0, 0x80] ++ List.replicate 30 0
def serving : State := onCore (fun c => { c with kern := some (.plain 1 0 0) }) device

theorem wit_HostAccess : 15 < 16 ∧ 0x3FF < 0x400 ∧ hosted.takeCounter 0 1023 = some count0 ∧ count0.failed = false ∧
    0x1FF8 < 0x2000 ∧ hosted.takeCounter 15 (0x1FF8 / 8) = none ∧ 0x2000 ≤ 0x2000 ∧
    (hosted.takes.find? (fun r => r.uid == 9)).isSome = true ∧
    hosted.tokens.find? (fun t => t.uid == 9) = some { token (.counter 1023) 0 with core := none, waiting := true } ∧
    serving.hostMsgBad 0 greeting = none ∧ ((serving.coreOf (hostMsg greeting).dst).inBuf (hostMsg greeting).hi).length < 8 ∧
    (serving.hostMsgBad 0 (greeting.drop 1)).isSome = true := by decide

theorem wit_HostAccess_memory : device.mainBytes 0 - 64 + (List.replicate 64 (0 : Byte)).length ≤ device.mainBytes 0 ∧
    64 ≤ device.mainBytes 0 ∧ device.ldsWait = [] ∧ device.mainBytes 15 < 0 + [(0 : Byte)].length ∧
    (2112 ≤ 2112 ∧ 2112 < 0x1000) ∧ (0x1048 ≤ 0x1048 ∧ 0x1048 < 0x2000) ∧ 0x2020 ≤ 0x2020 ∧ 128 % 64 = 0 ∧
    128 + (List.replicate 64 (0 : Byte)).length ≤ device.mainBytes 0 := by decide

/-- A port in each state, and a route over port 2. -/
def port (st : PortSt) : Port := { st := st, replays := 15, exhausted := [], owner := some 0 }
def ported : State := { device with
  ports := [port .active, { port .degraded with replays := 0 }, port .active, port .training, port .quarantined, port .down] ++
    List.replicate 122 .reset
  ethPorts := [port .training, port .active] ++ List.replicate 10 .reset
  partitions := device.partitions.set 0 { device.part 0 with
    routes := [(255, { valid := true, device := 1, part := 0, ports := 4, slot := 0 })] }
  reqs := [{ uid := 7, core := 0, act := 1, kind := .load (.phys (0xC00000000000 + 255 * 2 ^ 38)) 8 false false false, served := false
             slice := none }] }

theorem wit_LinksRun : 0x3FFFFFDFF8 < 0x3FFFFFE000 ∧ 0xFFF8 + 8 ≤ ported.mainBytes 0 ∧ ported.armed = [] ∧ ported.ldsWait = [] ∧
    0xFFF8 % 8 = 0 ∧ AtomOp.add ≠ .ld ∧ (ported.req? 7).bind Req.peer? = some (0xC00000000000 + 255 * 2 ^ 38) ∧
    0x3FFFFFE000 ≤ 0x3FFFFFFFF8 ∧ 0x3FFFFFFFF8 < 0x4000000000 ∧
    ((ported.req? 7).map ported.readReady) = some true := by decide

/-- A route over port 2, and over the Ethernet port where the device it names has an address there. -/
theorem wit_LinksRun_route : ∃ rest, ported.upPorts ((ported.partOf 0).getD 0) (0xC00000000000 + 255 * 2 ^ 38) = 2 :: rest :=
  ⟨_, rfl⟩

theorem wit_LinksRun_ports : ported.ports[0]? = some (port .active) ∧ 15 ≤ (port .active).replays ∧
    ported.ports[1]? = some { port .degraded with replays := 0 } ∧ ported.ports[3]? = some (port .training) ∧
    ported.absentPorts.has 3 = false ∧ ported.ethPorts[0]? = some (port .training) ∧ ported.absentEth.has 0 = false ∧
    ported.ethPorts[1]? = some (port .active) ∧ (port .training).st = .training ∧ ported.port? (.ethernet 0) = some (port .training) ∧
    ported.partOf 16383 ≠ some 0 := by decide

/-! ## Commands -/

/-- A device whose windows hold an argument block. -/
def commanded (arg : List Word) : State :=
  { device with mgmt := List.replicate 16 { MgmtWin.reset with arg := arg }, devWin := { MgmtWin.reset with arg := arg } }

theorem idle_any (arg : List Word) (w : Window) (h : ∀ p, w = .partition p → p < 16) : (commanded arg).Idle w := by
  cases w with
  | device => exact ⟨_, rfl, rfl⟩
  | partition p =>
    refine ⟨{ MgmtWin.reset with arg := arg }, ?_, rfl⟩
    show (List.replicate 16 _)[p]? = _
    rw [List.getElem?_replicate, if_pos (h p rfl)]

/-- Arguments of CREATE for context 65534 with a fault queue of 16 records. -/
def creating : State := commanded [0, 65534, 0, 0x1000000, 0x100000, 4, 65536, 48]

theorem wit_ContextCommands : creating.Idle (.partition 0) ∧ bitsAt (creating.arg (.partition 0) 1) 19 16 = 0 ∧
    bitsAt (creating.arg (.partition 0) 1) 15 0 = 65534 ∧ addr48 (creating.arg (.partition 0) 3) % 4096 = 0 ∧
    addr48 (creating.arg (.partition 0) 4) % 64 = 0 ∧ bitsAt (creating.arg (.partition 0) 5) 4 0 = 4 ∧
    bitsAt (creating.arg (.partition 0) 6) 16 0 ≤ 65536 ∧ bitsAt (creating.arg (.partition 0) 7) 5 0 ≤ 48 ∧
    creating.ctx? 65534 = none ∧ 64 ≤ addr48 (creating.arg (.partition 0) 4) ∧
    addr48 (creating.arg (.partition 0) 4) + 64 * 2 ^ 4 ≤ creating.mainBytes 0 ∧
    (commanded [0, 1, 0, 0x1000000, 0x100000, 4, 0, 0]).ctx? 1 ≠ none ∧
    bitsAt ((commanded [0, 0, 0, 0, 0, 0, 0, 0]).arg (.partition 0) 1) 15 0 = 0 :=
  ⟨idle_any _ _ (by intro p h; cases h; decide), by decide⟩

/-- How many bytes the device adds to a save area is its own choice: for any that leaves room, CREATE has room. -/
theorem wit_ContextCommands_room (h : (Config.saveLen 0).toNat ≤ 2 ^ 30) :
    addr48 (creating.arg (.partition 0) 3) + creating.saveSize 0 ≤ creating.mainBytes 0 := by
  have a : addr48 (creating.arg (.partition 0) 3) = 0x1000000 := by decide
  have b : (creating.coresOf 0).length = 1024 := by decide +kernel
  have c : creating.mainBytes 0 = 2 ^ 34 := by decide +kernel
  unfold State.saveSize
  rw [a, b, c]
  omega

/-- The device with its context in a state. -/
def inState (arg : List Word) (st : CtxSt) : State := { commanded arg with
  contexts := [{ Context.plain 1 0 with st := st, saved := some { cores := [], ripening := [], forced := [], channels := []
                                                                  ldsWait := [], record := 0 } }] }

theorem wit_ContextCommands_states : (∀ st, (inState [] st).Idle (.partition 0) ∧ ((inState [] st).ctx? 1).map (·.st) = some st ∧
      ((inState [] st).ctx? 1).map (·.part) = some 0) ∧ (inState [] .preempting).partOf 0 = some 0 ∧
    ((inState [] .preempting).preempting 0).isSome = true ∧ ((inState [] .preempting).coreOf 0).frozen = false ∧
    ((inState [] .preempting).coreOf 0).acked = false ∧ (inState [] .preempting).settled 0 = true ∧
    (∀ x ∈ (inState [] .saved).contexts, x.part = 0 → x.st = .saved) ∧
    (∃ x ∈ (inState [] .active).contexts, x.part = 0 ∧ x.st ≠ .saved) ∧
    (((inState [] .saved).ctx? 1).bind (·.saved)).isSome = true :=
  ⟨fun st => ⟨⟨_, rfl, rfl⟩, rfl, rfl⟩, rfl, rfl, rfl, rfl, rfl, by decide, by decide, rfl⟩

/-- Every core of the partition has acknowledged a pre-emption. -/
def acknowledged : State := { inState [] .preempting with
  core := { Core.reset 0 with frozen := true, acked := true } }

theorem wit_ContextCommands_copyOut : ∃ c, acknowledged.preempting 0 = some c ∧ acknowledged.ctx? c.id = some c ∧
    acknowledged.canCopyOut c (acknowledged.liveCores.filter (fun i => acknowledged.partOf i == some 0)) = true :=
  ⟨_, rfl, rfl, by decide⟩

/-- A context being restored, whose cores may return. -/
theorem wit_ContextCommands_restore : ∃ (c : Context) (v : Saved), (inState [] .restoring).restoring 0 = some c ∧
    (inState [] .restoring).ctx? c.id = some c ∧ c.saved = some v ∧ v.record = 0 ∧
    (∀ x ∈ [Core.reset 0], (inState [] .saved).mayReturn 0 x.id = true) ∧
    (inState [] .saved).mayReturn 0 16383 = false :=
  ⟨_, _, rfl, rfl, rfl, rfl, by decide, by decide⟩

/-- Arguments of QCREATE. -/
def queueArg : State := inState [0x10000, 4, 0x20000, 1023, 0, 0, 0, 0] .active

theorem wit_ContextCommands_qcreate : queueArg.freeQueue 1 = some 0 ∧ bitsAt (queueArg.arg (.partition 0) 1) 4 0 = 4 ∧
    addr48 (queueArg.arg (.partition 0) 0) % (64 * 2 ^ 4) = 0 ∧
    addr48 (queueArg.arg (.partition 0) 0) + 64 * 2 ^ 4 ≤ queueArg.mainBytes 0 ∧
    addr48 (queueArg.arg (.partition 0) 2) % 128 = 0 ∧ addr48 (queueArg.arg (.partition 0) 2) + 128 ≤ queueArg.mainBytes 0 ∧
    bitsAt (queueArg.arg (.partition 0) 3) 9 0 = 1023 ∧ queueArg.counter? 1 1023 = none ∧
    queueArg.cellsFor 0 1 [queueWidth] = true := by
  refine ⟨by decide, by decide, by decide, by decide, by decide, by decide, by decide, by decide, ?_⟩
  have h : ∀ n, n < 6 → queueArg.cellsFor 0 1 [n + 1] = true := by decide
  exact h _ (Nat.mod_lt _ (by decide))

theorem wit_ContextCommands_queues : ({ queueArg with queues := [queue .error []] } : State).queue? 1 63 = some (queue .error []) ∧
    (queue .error []).st = .error ∧ (queue .held []).st ≠ .error := by decide

theorem wit_ManagementCommands : (commanded [255 * 2 ^ 32 + 63 * 2 ^ 48]).coreRect 0 (255 * 2 ^ 32 + 63 * 2 ^ 48) ≠ none ∧
    (commanded [1]).coreRect 0 1 = none ∧ (onCore (fun c => { c with stopReq := true }) device).core.atStop = true := by
  decide +kernel

/-- A core that stands STOPPED, and arguments of CORERW. -/
def halted (arg : List Word) : State := onCore (fun c => { c with stopped := true, quarantined := true }) (commanded arg)

theorem wit_ManagementCommands_corerw : (halted [0, 0x1FFE0, 32]).corePresent 0 = true ∧ (halted [0, 0x1FFE0, 32]).partOf 0 = some 0 ∧
    0x1FFE0 + 32 ≤ 0x20000 ∧ ((halted [0, 0x1FFE0, 32]).coreOf 0).stopped = true ∧ (halted [0, 0x1FFE0, 32]).armed = [] ∧
    ((commanded [0, 0x1FFE0, 32]).coreOf 0).stopped = false ∧ ((halted []).coreOf 0).quarantined = true ∧
    (List.replicate 8 (0 : Word)).length = 8 ∧ (65536 : Word).toNat ≤ 65536 ∧ 65536 < (65537 : Word).toNat := by decide

theorem wit_ManagementCommands_watch : (1 : Word).toNat < 2 ∧ bitsAt (20 : Word) 4 0 ≤ 20 ∧
    addr48 (0x800000 : Word) % (8 * 2 ^ 20) = 0 ∧ 1 < (device.coreOf 0).watch.length ∧ 0 < device.partitions.length := by decide

theorem wit_ManagementCommands_allot : ({ inState [0, 0, 5] .saved with ports := ported.ports } : State).ports[5]? = some (port .down) ∧
    (∀ c ∈ (inState [0, 0, 5] .saved).contexts, (c.part = 0 ∨ some c.part = (port .down).owner) → c.st = .saved) ∧
    (∃ c ∈ (inState [0, 0, 5] .active).contexts, c.part = 0 ∧ c.st ≠ .saved) := by decide

theorem wit_ManagementCommands_rect : bitsAt (15 : Word) 3 0 % 8 + bitsAt (1 : Word) 3 0 ≤ 8 ∧
    bitsAt (15 : Word) 3 0 / 8 + bitsAt (1 : Word) 1 0 ≤ 2 ∧ (inState [0, 15, 1, 1] .saved).running 0 = false ∧
    (∀ i q, (inState [0, 15, 1, 1] .saved).partitions[i]? = some q → i ≠ 0 → q.across = 0 ∨ q.rows = 0) ∧
    (inState [0, 15, 1, 1] .active).running 0 = true := by
  refine ⟨by decide, by decide, by decide, ?_, by decide⟩
  have h : ∀ i, i < 16 → i ≠ 0 → ((inState [0, 15, 1, 1] .saved).partitions.getD i .reset).across = 0 := by decide
  intro i q e n
  have l : i < 16 := (List.getElem?_eq_some_iff.1 e).1
  have := h i l n
  rw [List.getD_eq_getElem?_getD, e] at this
  exact .inl this

theorem wit_ManagementCommands_ports : ported.port? (.scaleUp 4) = some (port .quarantined) ∧ ported.portDead (.scaleUp 4) = false ∧
    ported.port? (.scaleUp 5) = some (port .down) ∧ ported.Idle .device ∧ ported.window .device ≠ none ∧ (7 : Nat) < 8 ∧
    (device.window (.partition 15)).map (·.busy) = some false ∧ 0x22 < 0x23 :=
  ⟨by decide, by decide, by decide, ⟨_, rfl, rfl⟩, by decide, by decide, by decide, by decide⟩

/-! ## The platform -/

/-- An image for a stage. -/
def image (stage : Nat) : Image := { stage := stage, digest := 0, signature := 0, version := 0 }

/-- The last boot stage that takes images, with no version refused; and RECOVERY. -/
def booting (n : Nat) : State := { State.reset with boot := .stage n, svn := 0 }

theorem wit_PlatformEvents : (booting 0).boot = .stage 0 ∧ (booting 2).boot = .stage 2 ∧ (booting 0).takesImage 0 (image 1) = true ∧
    (booting 2).takesImage 2 (image 4) = true ∧ 0 < State.reset.partitions.length ∧
    ({ State.reset with boot := .recovery } : State).boot = .recovery ∧ (booting 0).boot ≠ .tripped :=
  ⟨rfl, rfl, rfl, rfl, by decide, rfl, by decide⟩

/-- Whether a signature verifies, and whether wrapped key material opens, are the device's to say: both cases can stand. -/
theorem wit_PlatformEvents_accepts (h : Config.signatureOk 0 0 = true) : (booting 2).accepts (image 4) = true := by
  simpa [State.accepts, image, booting] using h

theorem wit_PlatformEvents_refuses (h : Config.signatureOk 0 0 = false) : (booting 2).accepts (image 4) = false := by
  have g : Config.signatureOk (image 4).digest (image 4).signature = false := h
  simp [State.accepts, g]

theorem wit_PlatformEvents_old : ({ booting 2 with svn := 1 } : State).accepts (image 4) = false := by
  simp [State.accepts, image]

theorem wit_PlatformEvents_keys : (State.reset.part 0).kem = none ∧
    (({ State.reset with partitions := State.reset.partitions.set 0 { Partition.reset with kem := some 0 } } : State).part 0).kem =
      some 0 := by decide

/-! ## Windows, loops and the places of an access -/

/-- A loop that ends after the instruction at the PC, its count in w5, with the windows given. -/
def looping (v : Val) (sl : List Slot) : State := onCore (fun c => { c with cur := { c.cur with
  slots := sl, loops := [{ start := 0x20000, stop := c.cur.pc + 4, c := .w 5 }] } }) (onCore (·.putReg 5 v) live)

/-- The window of a load of w`d`, with a tainted value. -/
def window (d : BitVec 5) (rem : Nat) (here cancelled : Bool) : Slot :=
  { uid := 77, dest := .reg (.w d), rem := rem, counted := true, value := some (.word { bits := 99, taint := true, poison := false })
    here := here, cancelled := cancelled, acq := false, load := true, ldc := false, block := false }

/-- The core with windows open. -/
def windowed (sl : List Slot) : State := onCore (fun c => { c with cur := { c.cur with slots := sl } }) live

/-- Open windows alone hold nothing back there. -/
theorem windowed_flows (sl : List Slot) (h : ∀ x ∈ sl, x.block = false) : (windowed sl).Flows :=
  ⟨rfl, rfl, (fun _ h => by cases h), rfl, rfl, rfl, h⟩

theorem wit_LoopAndRep_end : (looping (.clean 3) []).Flows ∧ (looping (.clean 3) []).core.cur.slots = [] ∧
    ((looping (.clean 3) []).core.regVal 5).poison = false ∧ ((looping (.clean 3) []).core.regVal 5).bits ≠ 1 ∧
    ((looping (.clean 1) []).core.regVal 5).bits = 1 ∧
    ((looping { bits := 5, taint := false, poison := true } []).core.regVal 5).poison = true ∧
    ∃ e, (looping (.clean 3) []).core.cur.loops = e :: [] ∧ e.stop = (looping (.clean 3) []).core.cur.pc + 4 ∧ e.c = .w 5 :=
  ⟨⟨rfl, rfl, (fun _ h => by cases h), rfl, rfl, rfl, fun _ h => by cases h⟩, rfl, rfl, by decide, by decide, rfl, _, rfl, rfl, rfl⟩

theorem wit_LoopAndRep_windows : (∀ n, (windowed [window 7 n true false]).Flows) ∧ (window 7 9 true false).Holds 7
      { bits := 99, taint := true, poison := false } ∧ 2 ≤ (window 7 9 true false).rem ∧ (window 7 1 true false).rem ≤ 1 ∧
    (window 7 0 false false).rem = 0 ∧ (window 7 0 false false).here = false ∧ (window 7 0 false true).cancelled = true ∧
    Unary (.popc (.w 8) (.w 7)) (.w 8) (.w 7) (fun x => .ofNat 64 (popBits 64 x.toNat)) ∧ (Instr.popc (.w 8) (.w 7)).wf = true ∧
    (looping (.clean 3) [window 7 2 true false]).Flows :=
  ⟨fun _ => windowed_flows _ (by simp [window]), ⟨rfl, rfl, rfl, rfl⟩, by decide, by decide, rfl, rfl, rfl, .popc .., rfl,
    ⟨rfl, rfl, (fun _ h => by cases h), rfl, rfl, rfl, by decide⟩⟩

theorem wit_LoopAndRep_carriers : (windowed [window 7 3 true false, window 8 3 false false, window 7 4 true true,
      window 9 5 true false]).Flows ∧ [window 8 3 false false, window 7 4 true true, window 9 5 true false].length = 3 ∧
    (∀ x ∈ [window 7 3 true false, window 8 3 false false, window 7 4 true true, window 9 5 true false],
      x.counted = true ∧ x.rem ≠ 0) ∧ (Instr.mul (.w 10) (.w 11) (.w 12) 3).wf = true :=
  ⟨windowed_flows _ (by decide), rfl, by decide, rfl⟩

/-- Addresses in page 0x20 and in the window of core 3. -/
def onPage : State := reg 1 0x20700 (opened mapped)
def atOther : State := reg 1 0xFFFFFF060800 (opened mapped)

/-- The same page as one of zeros, and as one of queue slots, full and empty. -/
def leafed (bits : Nat) : State := { onPage with tlb := [{ page 0x20 2 with leaf := .ofNat 64 (4096 * 2 + 0x3B + bits) }] }
def slotPage (full : Bool) : State := (leafed (2 ^ 59)).putFull (.phys (onPage.keyHere 0x2700)) full

theorem wit_LocalLoads_core : ∃ (b : Val) (t u : State), (Instr.ldc (.w 4) (.w 1) 3 1 2 5).wf = true ∧ atOther.Ready ∧
    atOther.src (.w 1) = some (b, atOther) ∧ atOther.address b (3 * 4) 4 .read = some (.core 3 0x80C, t) ∧
    t.uncheck.asks (.reg (.w 4)) 5 .bypass (.load (.loc 3 0x80C) 4 true true false)
      (fun sl => { sl with load := true, ldc := true }) = some u := ⟨_, _, _, rfl, ready_of rfl, rfl, rfl, rfl⟩

/-- A property of what the address in w1 names, where it is a page. -/
def named (s : State) (n : Nat) (k : Access) (p : Xlat → State → Bool) : Bool :=
  match s.address (s.core.regVal 1) 0 n k with
  | some (.phys x, t) => p x t
  | some (.here _, _) | some (.core _ _, _) | none => false

theorem paged_of {s : State} {n : Nat} {k : Access} {p : Xlat → State → Bool} (h : named s n k p = true) :
    ∃ x t, s.address (s.core.regVal 1) 0 n k = some (.phys x, t) ∧ p x t = true := by
  unfold named at h
  split at h
  · exact ⟨_, _, by assumption, h⟩
  · cases h
  · cases h
  · cases h

/-- What a read of `n` bytes of the page finds near. -/
def nearly (n : Nat) (p : Option (List (Byte × Bool)) → Bool) (x : Xlat) (t : State) : Bool :=
  match t.readsPage x with
  | some u => p (u.readNear x n false)
  | none => false

theorem nearly_of {n : Nat} {p : Option (List (Byte × Bool)) → Bool} {x : Xlat} {t : State} (h : nearly n p x t = true) :
    ∃ u, t.readsPage x = some u ∧ p (u.readNear x n false) = true := by
  unfold nearly at h
  split at h
  · exact ⟨_, by assumption, h⟩
  · cases h

theorem wit_LocalLoads_page : (Instr.ld (.w 4) (.w 1) 0 0 3 3).wf = true ∧ (Instr.ldv 63 (.w 1) 0 0 5).wf = true ∧
    onPage.Ready ∧ onPage.src (.w 1) = some (onPage.core.regVal 1, onPage) ∧ ∀ n ∈ [8, 256], ∃ x t u,
      onPage.address (onPage.core.regVal 1) 0 n .read = some (.phys x, t) ∧ t.readsPage x = some u ∧
      u.readNear x n false = none := by
  refine ⟨rfl, rfl, ready_of rfl, rfl, fun n hn => ?_⟩
  have h : ∀ n ∈ [8, 256], named onPage n .read (nearly n (·.isNone)) = true := by decide +kernel
  obtain ⟨x, t, e, h⟩ := paged_of (h n hn)
  obtain ⟨u, f, g⟩ := nearly_of h
  exact ⟨x, t, u, e, f, Option.isNone_iff_eq_none.1 g⟩

theorem wit_LocalLoads_near : (leafed (2 ^ 58)).Ready ∧ ∃ x t u,
    (leafed (2 ^ 58)).address ((leafed (2 ^ 58)).core.regVal 1) 0 8 .read = some (.phys x, t) ∧ t.readsPage x = some u ∧
    u.readNear x 8 false = some (List.replicate 8 (0, false)) := by
  have h : named (leafed (2 ^ 58)) 8 .read (nearly 8 (· == some (List.replicate 8 (0, false)))) = true := by decide +kernel
  obtain ⟨x, t, e, h⟩ := paged_of h
  obtain ⟨u, f, g⟩ := nearly_of h
  exact ⟨ready_of rfl, x, t, u, e, f, eq_of_beq g⟩

/-- A poisoned base, an address that is not aligned, a page that is not mapped, and a page that is none of queue slots. -/
theorem wit_LocalLoads_faults : ∃ b, Addressed (.ld (.w 4) (.w 1) 0 0 3 3) (.w 1) 0 8 .read false ∧
    Addressed (.lds (.w 4) (.w 1) 0 3) (.w 1) 0 8 .read true ∧ onPage.laneFree = true ∧ onPage.src (.w 1) = some (b, onPage) ∧
    onPage.badAddress (.w 1) { b with poison := true } 0 8 .read false = some (poisonTrap (.w 1)) ∧
    onPage.badAddress (.w 1) (.clean 0x20701) 0 8 .read false = some (simpleTrap cALIGN 0x20701) ∧
    onPage.badAddress (.w 1) (.clean 0x27700) 0 8 .read false = some (simpleTrap cPAGE 0x27700) ∧
    onPage.badAddress (.w 1) b 0 8 .read true = some (simpleTrap cPROT 0x20700) :=
  ⟨_, .ld .., .lds .., rfl, rfl, by decide, by decide, by decide +kernel, by decide +kernel⟩

theorem wit_LocalStores_page : ∃ (b v : Val) (pl : Place) (t u : State), (Instr.st (.w 2) (.w 1) 0 0 3).wf = true ∧
    onPage.Ready ∧ onPage.core.cur.act.sampled = false ∧ onPage.src (.w 1) = some (b, onPage) ∧
    onPage.address b 0 8 .write = some (pl, t) ∧ t.src (.w 2) = some (v, t) ∧
    t.storesTo pl (hintUse 0) ((dwordBytes v.bits).take 8) (List.replicate 8 v.poison) false = some u :=
  ⟨_, _, _, _, _, rfl, ready_of rfl, rfl, rfl, rfl, rfl, rfl⟩

theorem wit_LocalStores_rows : ∃ (b : Val) (pl : Place) (t u v : State), (Instr.stv 63 (.w 1) 0 1).wf = true ∧
    (Instr.zfill (.w 1) 0 3).wf = true ∧ atOther.Ready ∧ atOther.PressFree ∧ atOther.core.cur.act.sampled = false ∧
    atOther.src (.w 1) = some (b, atOther) ∧ atOther.address b 0 256 .write = some (pl, t) ∧
    t.storesTo pl (hintUse 1) (atOther.core.press.tile.getD 63 .zero).bytes
      (atOther.core.press.tile.getD 63 .zero).bytePois false = some u ∧
    t.storesTo pl (.zfill 3) (List.replicate 256 0) (List.replicate 256 false) false = some v :=
  ⟨_, _, _, _, _, rfl, rfl, ready_of rfl, pressFree_live, rfl, rfl, rfl, rfl, rfl⟩

theorem wit_RowsAndCaches_rows : ∃ (b : Val) (t u : State), (Instr.ldv 63 (.w 1) 0 0 5).wf = true ∧
    atOther.src (.w 1) = some (b, atOther) ∧ atOther.address b 0 256 .read = some (.core 3 0x800, t) ∧
    t.uncheck.asks (.row 63) 5 .bypass (.row (.loc 3 0x800) false) (fun sl => { sl with load := true }) = some u :=
  ⟨_, _, _, rfl, rfl, rfl, rfl⟩

theorem wit_FullEmptyWords_slots : ∃ (b : Val) (x : Xlat) (t : State), (Instr.ldsE (.w 4) (.w 1) 0 3).wf = true ∧
    (slotPage true).Ready ∧ (slotPage true).src (.w 1) = some (b, slotPage true) ∧
    (slotPage true).address b 0 8 .read = some (.phys x, t) ∧ leafQs x.leaf = true ∧ leafImm x.leaf = false ∧
    (t.uncheck.ordered = true ∧ t.uncheck.core.storeBuf = []) ∧ t.uncheck.isFull (.phys (t.keyHere x.pa)) = true ∧
    (t.uncheck.late (.w 4) 3 (.phys (t.keyHere x.pa)) (.clean 0)).isSome = true :=
  ⟨_, _, _, rfl, ready_of rfl, rfl, rfl, by decide, by decide, ⟨rfl, rfl⟩, by decide, rfl⟩

theorem wit_FullEmptyWords_empty : ∃ (b : Val) (x : Xlat) (t u : State), (slotPage false).src (.w 1) = some (b, slotPage false) ∧
    (slotPage false).Ready ∧ (slotPage false).address b 0 8 .read = some (.phys x, t) ∧
    t.uncheck.isFull (.phys (t.keyHere x.pa)) = false ∧ t.uncheck.irrevocably = some u ∧ u.ordered = true ∧
    u.core.storeBuf = [] ∧ (u.openable (.w 4)).isSome = true ∧ (Instr.stf (.w 4) (.w 1) 0 3).wf = true ∧
    (slotPage false).core.slotBusy (slotPage false).core.cur.act.uid (.phys (t.keyHere x.pa)) = false :=
  ⟨_, _, _, _, rfl, ready_of rfl, rfl, by decide, rfl, rfl, rfl, rfl, rfl, by decide⟩

/-- An LDS of core 5 that waits on the word of an STF. -/
def awaited (e : Bool) : State := { owner with ldsWait := [{
  uid := 40, core := 5, act := 2, tgt := .loc owner.core.id 0x7F8, empties := e, taint := false, use := .bypass }] }

theorem wit_FullEmptyWords_served : ∃ q, (awaited true).ldsWait = [q] ∧ q.tgt = .loc (awaited true).core.id 0x7F8 ∧
    (awaited true).Ready ∧ ((awaited true).coreOf q.core).unsentAt q.act q.uid q.tgt 8 = [] :=
  ⟨_, rfl, rfl, ready_of rfl, by decide +kernel⟩

theorem wit_LocalAtomics_page : ∃ (x y : Val) (z : Xlat) (t u v : State), Atomic (.aadd (.w 4) (.w 1) 1 2 0 3) .add (.w 4) (.w 1) 8 2 0 3 ∧
    (Instr.aadd (.w 4) (.w 1) 1 2 0 3).wf = true ∧ onPage.Ready ∧ onPage.src (.w 1) = some (x, onPage) ∧
    onPage.src (.w 4) = some (y, onPage) ∧ y.poison = false ∧ onPage.address x 0 8 .both = some (.phys z, t) ∧
    atomBad .add (.phys z) 2 = false ∧ leafZero z.leaf = false ∧ t.irrevocably = some t ∧
    (leafed (2 ^ 58)).address x 0 8 .read = some (.phys { z with leaf := .ofNat 64 (0x203B + 2 ^ 58) }, u) ∧
    atOther.address (.clean 0xFFFFFF060800) 0 8 .both = some (.core 3 0x800, v) :=
  ⟨_, _, _, _, _, _, .aadd .., rfl, ready_of rfl, rfl, rfl, rfl, rfl, by decide, by decide, rfl, rfl, rfl⟩

theorem wit_LocalAtomics_faults : onPage.badAddress (.w 1) (.clean 0x20701) 0 8 .both false = some (simpleTrap cALIGN 0x20701) ∧
    cALIGN ≠ cWATCH ∧ (∃ t, onPage.placeAt 0xFFFFFFFE0200 8 .both = some (.here 0x200, t)) ∧ 0xFFFFFFFE0200 % 8 = 0 ∧
    atomBad .add (.here 0x200) 2 = true ∧ atomBad .add (.here 0x400) 2 = false :=
  ⟨by decide, by decide, ⟨_, rfl⟩, rfl, by decide, by decide⟩

theorem wit_ScalesInMemory_places : (Instr.kld 3 (.w 1)).wf = true ∧ (Instr.kst 3 (.w 1)).wf = true ∧ onPage.scaleFree = true ∧
    (∃ x t y, onPage.address (onPage.core.regVal 1) 0 64 .read = some (.phys x, t) ∧ t.readsNow (.phys x) 64 false = some y) ∧
    ∃ x t u, onPage.address (onPage.core.regVal 1) 0 64 .write = some (.phys x, t) ∧ t.storesTo (.phys x) .normal
      ((t.scalesAt 3).map (fun x => BitVec.ofNat 8 x.1)) ((t.scalesAt 3).map (·.2)) false = some u := by
  have r : named onPage 64 .read (fun x t => (t.readsNow (.phys x) 64 false).isSome) = true := by decide +kernel
  have w : named onPage 64 .write (fun x t => (t.storesTo (.phys x) .normal
    ((t.scalesAt 3).map (fun x => BitVec.ofNat 8 x.1)) ((t.scalesAt 3).map (·.2)) false).isSome) = true := by decide +kernel
  obtain ⟨x, t, e, h⟩ := paged_of r
  obtain ⟨x', t', e', h'⟩ := paged_of w
  obtain ⟨y, hy⟩ := Option.isSome_iff_exists.1 h
  obtain ⟨u, hu⟩ := Option.isSome_iff_exists.1 h'
  exact ⟨rfl, rfl, rfl, ⟨x, t, y, e, hy⟩, x', t', u, e', hu⟩

/-- An area of KSAVE on two pages, and one whose second page is not mapped. -/
theorem wit_ScalesInMemory_area : (match State.areaAt (.w 1) .write (areaPieces 0x20E00 1184)
      { onPage with tlb := [page 0x20 2, page 0x21 3] } with
      | .ok (ps, t) => ps.length == 5 && (areaPieces 0x20E00 1184).all (fun x => !t.watches x.1 x.2 .write)
      | .error _ => false) = true ∧
    (match State.areaAt (.w 1) .write (areaPieces 0x20E00 1184) onPage with
      | .ok _ => false
      | .error t => decide (t = simpleTrap cPAGE 0x21000)) = true := by decide +kernel

/-! ## Further cases of statements above -/

/-- A register group, a link register and a body of REP that reach past w15; SRD and SWR past the user numbers. -/
theorem wit_IssueFaults_general : (Instr.apop (.w 12)).len ≠ 0 ∧ (Instr.jal 8).wf = true ∧ (Instr.jal 8).priv = false ∧
    LowestFrom few.core.regLimit 31 (Instr.jal 8).regs ∧ (Instr.lih (.w 20) 5).wf = true ∧
    LowestFrom few.core.regLimit 20 (Instr.lih (.w 20) 5).regs ∧ few.Issues ∧ few.core.cur.loops = [] ∧
    (0x200 : BitVec 12).toNat = 0x200 ∧ (Instr.srd (.w 1) 0x200).wf = true ∧ (Instr.swr (.w 1) 0x201).wf = true ∧
    live.core.priv = false ∧ live.Issues :=
  ⟨by decide, rfl, rfl, by unfold LowestFrom; decide, rfl, by unfold LowestFrom; decide, ⟨rfl, rfl, rfl, rfl⟩, rfl, rfl, rfl,
    rfl, rfl, live_issues⟩

/-- An APUSH of an actor without a consumer. -/
def alone : State := onCore (fun c => { c with
  kern := c.kern.map (fun k => { k with actors := [{ actor0 with cons := 0xFF }] }) }) firing

theorem wit_TokensMoved_none : ∃ def0 : ActorDef, (Instr.apush (.w 24)).wf = true ∧ alone.Ready ∧
    alone.core.cur.act.actor = some 0 ∧ alone.core.runActor = some def0 ∧ alone.core.runConsumer def0 = none :=
  ⟨_, rfl, ready_of rfl, rfl, rfl, rfl⟩

/-- A store of half a byte, over a ripening copy that holds the byte. -/
def half (cls : WClass) (hi : Bool) : StoreOp := { store cls (.phys 0x2078) with bytes := [0xA5], pois := [false], nib := some hi }
def halving (hi : Bool) : State := { storing false (half (.phased dom0 7) hi) with ripening := [{ ripe 7 with mask := List.replicate 128 true }] }

theorem wit_StoresArrive_half (hi : Bool) : (halving hi).canSend 0 0 = some (half (.phased dom0 7) hi) ∧
    (half (.phased dom0 7) hi).nib = some hi ∧ (half (.phased dom0 7) hi).lines = [0x40] ∧ (halving hi).NoErrors ∧
    (storing false (half .direct hi)).canSend 0 0 = some (half .direct hi) ∧
    ∃ q, (halving hi).ripening.find? (fun r => r.is (0x2078 / 128) dom0 7) = some q ∧ q.mask.length = 128 ∧
      q.data.length = 128 ∧ (q.nibs.filter (fun x => x.1 == 0x2078 % 128)).length ≤ 1 := by
  cases hi <;> exact ⟨by decide, rfl, by decide, ⟨rfl, List.forall_mem_nil _⟩, by decide, _, rfl, rfl, rfl, by decide⟩

theorem wit_StoresArrive_room (hi : Bool) :
    (half (.phased dom0 7) hi).lines.all ((halving hi).ripeRoom dom0 7) = true := by
  cases hi <;> decide

/-- A kernel that ends with a completion write. -/
def closing (ckind addr : Nat) : State := { launching (kernel .draining
  [1, 0x1000, 2 ^ 16 + 1, 0, .ofNat 64 (2 ^ 62 * ckind + addr), 0, 0, 0] 1 1) with queues := [queue .running [pkt true [1]]] }

/-- What the completion write finds at its address. -/
def completes (ckind addr : Nat) (qs : Bool) (p : Xlat → State → Bool) (q : Bad → State → Bool) : Bool :=
  let s := closing ckind addr
  let s : State := if qs then { s with tlb := [{ page 0x20 2 with leaf := .ofNat 64 (4096 * 2 + 0x3B + 2 ^ 59) }] } else s
  match s.dispAtomic 1 addr (ckind == 2) with
  | (.ok x, t) => p x t
  | (.error b, t) => q b t

theorem wit_KernelsRun_write : ∃ k : Kernel, (closing 1 0x20FF8).kernel? 1 7 = some k ∧ (closing 1 0x20FF8).ctxActive 1 = true ∧
    k.st = .draining ∧ k.next = k.total ∧ k.ended = k.next ∧ lCkind k.pkt = 1 ∧ lCaddr k.pkt % 8 = 0 ∧
    completes 1 0x20FF8 false (fun x t => t.armed.isEmpty && t.lines.isEmpty && t.ldsWait.isEmpty && !outside (keyOf 0 x.pa))
      (fun _ _ => false) = true ∧
    completes 2 0x20FF8 true (fun x t => t.armed.isEmpty && t.lines.isEmpty && t.ldsWait.isEmpty && !outside (keyOf 0 x.pa))
      (fun _ _ => false) = true ∧
    completes 1 0x50FF8 false (fun _ _ => false) (fun _ t => (t.queue? 1 63).any (fun q => decide (q.st ≠ .error))) = true :=
  ⟨_, rfl, by decide, by decide, by decide, by decide, by decide, by decide, by decide, by decide, by decide⟩

theorem wit_HostAccess_power : device.powered = true ∧ hosted.powered = true ∧ serving.powered = true ∧
    ({ device with boot := .tripped } : State).powered = false := by decide

/-- The boot after stage 0, its identity in place, and key material that has come. -/
def stage (n : Nat) : State := { booting n with identity := some (identityOf (booting n).seed) }
def keyed : State := { booting 2 with partitions := State.reset.partitions.set 0 { Partition.reset with kem := some 0 } }

theorem wit_PlatformEvents_identity : (stage 2).boot = .stage 2 ∧ (∃ id, (stage 2).identity = some id) ∧
    (1 < (stage 2).partitions.length ∧ 1 < 16) ∧ (stage 2).mr.length = 8 ∧ (booting 1).takesImage 1 (image 2) = true ∧
    (image 2).stage ≠ 0 + 1 ∧ keyed.boot = .stage 2 ∧ (keyed.part 0).kem = some 0 ∧
    (keyed.part 0).keys.find? (fun k => decide (k.1 = .memory)) = none :=
  ⟨rfl, ⟨_, rfl⟩, by decide, rfl, rfl, by decide, rfl, rfl, rfl⟩

theorem wit_FabricSteps_armed : hosted.armed = [] ∧ paged.armed = [] := ⟨rfl, rfl⟩

theorem wit_PressStreams_step : ∃ p : Press, p.integer = false ∧ p.narrow = true ∧ p.tile.length = 64 ∧
    p.active.rows.length = 32 ∧ p.active.pois.length = 32 ∧ 127 < p.laneN ∧ 63 < 64 :=
  ⟨{ (command 2 0 0).core.press with narrow := true }, rfl, rfl, rfl, rfl, rfl, by decide, by decide⟩

/-- FIPS 180-4's example of one block, the three bytes `abc` (R407). -/
theorem test_sha256 : leNat (natLE 32 (sha256 [0x61, 0x62, 0x63]).toNat).reverse =
    0xBA7816BF8F01CFEA414140DE5DAE2223B00361A396177A9CB410FF61F20015AD := by decide +kernel

/-! ## Well-formedness: for each check, a term that it refuses -/

/-- A message dword is no second source, a channel input no destination, and a channel output no source (R35). -/
theorem test_wf_specifiers : (Instr.add .z (.inp .n) (.out .e)).wf = false ∧ (Instr.add (.inp .n) .z .z).wf = false ∧
    (Instr.add .z (.out .s) .z).wf = false ∧ (Instr.loop .inq 4).wf = false ∧ (Instr.lix (.out .n) 0).wf = false := by decide

/-- A field past bit 63 (Table 4.5), a register group that does not start in its place, and a pair past w31 (R36). -/
theorem test_wf_ranges : (Instr.extu .z .z 63 1).wf = false ∧ (Instr.extu .z .z 63 0).wf = true ∧
    (Instr.apush (.w 4)).wf = false ∧ (Instr.ttset .z (.w 30)).wf = false ∧ (Instr.acas (.w 31) .z 1 2 3 0).wf = false := by decide

/-- Numbers and scopes that no table has (R50, R142, R173), and L with an acquire order (R170). -/
theorem test_wf_numbers : (Instr.srd .z 0x00B).wf = false ∧ (Instr.swr .z 0x003).wf = false ∧ (Instr.rel 4).wf = false ∧
    (Instr.icinv .z 4).wf = false ∧ (Instr.aadd .z .z 1 2 1 1).wf = false := by decide

/-- A mask is no row source and a row no mask destination (R195); m0 is not written. -/
theorem test_wf_lanes : (Instr.vaddF (.v 1) (.m 1) (.v 2)).wf = false ∧ (Instr.mand (.v 1) (.v 2) (.v 3)).wf = false ∧
    (Instr.mand (.m 0) (.v 2) (.v 3)).wf = false ∧ (Instr.vaddF (.bcast 1) (.v 1) (.v 2)).wf = false := by decide

/-! ## Values from the spec's examples -/

/-- The digest of chapter 19's example: one output, a dword store of 1 at 0x8_0000_1000. -/
theorem test_digest : fold64 0 0x800001000 1 = 0x2FE94F8AA0001000 ∧ fold64 0 0x800001000 3 = 0x8FBBEE8FE0001000 := by decide

/-- Table 5.4: the granules 58 to 60, and 58 to 62, as WCLAIM gives them. -/
theorem test_granules : packGranules [58, 59, 60] = 0xF1DBA ∧ packGranules [58, 59, 60, 61, 62] = 0x3E7AF1DBA ∧
    unpackGranules 8 0xF1DBA = [58, 59, 60] := by decide

/-- Table 8.10, lanes 0 to 3 and 5: estimates of reciprocals and their refinement, to nearest even and upwards (R61). -/
theorem test_reciprocals : f32.rcp 0x40400000 = 0x3EAAB000 ∧ f32.rcp 0x40800000 = 0x3E800000 ∧ f32.rcp 0 = 0x7F800000 ∧
    f32.rcp 0xFF800000 = 0x80000000 ∧ f32.rcp 0x7F800001 = 0x7FC00001 ∧ f32.rcps 0 0x40400000 0x3EAAB000 = 0x3EAAAAAA ∧
    f32.rcps 2 0x40400000 0x3EAAB000 = 0x3EAAAAAB ∧ f32.rcp 1 = 0x7F800000 := by decide +kernel

/-- Table 3.5: NaN of E4M3 widens to FP32, and a narrowing saturates at 448. -/
theorem test_e4m3 : e4m3.widen 0x7F = 0x7FC00000 ∧ e4m3.widen 0xFF = 0xFFC00000 ∧ e4m3.narrow 0 0x7F800000 = 0x7E ∧
    e4m3.narrow 0 0xFF800000 = 0xFE := by decide +kernel

/-- Chapter 17's walk: the tables of Table 17.6 in memory give 0x0810_0D47, which a user may read and not write. -/
theorem test_walk : let s : State := { live with
      contexts := [{ Context.plain 1 0 with desc := [0x100000] }]
      mem := ((live.mem.setBytes 0x100000 (natLE 8 0x101001)).setBytes 0x101000 (natLE 8 0x102001)).setBytes 0x102800
        (natLE 8 0x100000000800000B) }
    (s.translate 0 1 false .read 0x20100D47 1).1.toOption.map (·.pa) = some 0x08100D47 ∧
    (s.translate 0 1 false .write 0x20100D47 1).1.toOption.isNone = true ∧
    (s.translate 0 1 false .exec 0x20100D47 1).1.toOption.isNone = true := by decide +kernel

/-- Chapter 10's tile: rows 96 to 127 and columns 320 to 383 of a tensor of 1,024-byte rows at 0x2000_0000. -/
theorem test_tile : let e : BitVec 256 := 1024 * 2 ^ 44 + 1024 * 2 ^ 24 + 63 * 2 ^ 8 + 0x90 + 0x20000000 * 2 ^ 64 +
      (1024 * 2 ^ 40 + 1024) * 2 ^ 128 + 0x20100000 * 2 ^ 192
    let t : Tile := { e := e, ti := 3, tj := 5 }
    t.rowBytes 0 = (0x20018140, 64) ∧ t.nr = 32 ∧ t.scaleAddr 7 = some 0x20100D47 := by decide +kernel

/-! ## Single steps -/

/-- Chapter 2's constant: three LIX bring w2 from 0x4F to 0x9E37_79B9_7F4A_7C15. -/
theorem test_lix : next (exec (.lix (.w 2) 0x0DDE6) (reg 2 0x4F live)) (fun a => next (exec (.lix (.w 2) 0x72FE9) a) (fun b =>
    next (exec (.lix (.w 2) 0x27C15) b) (fun c => c.core.regVal 2 == .clean 0x9E3779B97F4A7C15))) = true := by decide +kernel

/-- Table 4.4: the quotient that does not fit, and a division by zero. -/
theorem test_div : next (exec (.div (.w 3) (.w 1) (.w 2) 0) (reg 1 0x8000000000000000 (reg 2 0xFFFFFFFFFFFFFFFF live)))
      (fun t => t.core.regVal 3 == .clean 0x8000000000000000) = true ∧
    next (exec (.rem (.w 3) (.w 1) .z 0) (reg 1 7 live)) (fun t => t.core.regVal 3 == .clean 7) = true := by decide +kernel

/-- SRAI by 7 of the greatest negative number, and MULH (Tables 4.3 and 4.6). -/
theorem test_srai_mulh : next (exec (.srai (.w 4) (.w 4) 7) (reg 4 0x8000000000000000 live))
      (fun t => t.core.regVal 4 == .clean 0xFF00000000000000) = true ∧
    next (exec (.mulh (.w 4) (.w 4) (.w 4) 0) (reg 4 0xFFFFFFFFFFFFFFFF live)) (fun t => t.core.regVal 4 == .clean 0) = true := by
  decide +kernel

/-- A result with L = 1 arrives after the next instruction (R40). -/
theorem test_lookahead : next (exec (.mul (.w 3) (.w 1) (.w 1) 1) (reg 1 3 live)) (fun a =>
    a.core.regVal 3 == .clean 0 && next (exec .nop a) (fun b => b.core.regVal 3 == .clean 9)) = true := by decide +kernel

/-- BBS on bit 63, and JAL's link (R82, R83). -/
theorem test_branches : next (exec (.bbs (.w 1) 63 0x3FC) (reg 1 0x8000000000000000 live)) (fun t => t.core.cur.pc == 0xFFF8) = true ∧
    next (exec (.jal 4) live) (fun t => t.core.cur.pc == 0x10008 && t.core.regVal 31 == .clean 0x10004) = true := by decide +kernel

/-- Chapter 16's fault: a dword load at 0x1_0014 takes ALIGN with that address in TVAL, at itself (R136, R338). -/
theorem test_align : next (exec (.ld (.w 5) (.w 2) 2 0 3 0) (reg 2 0x10004 vectored)) (fun t =>
    t.core.inHandler && t.core.tval == 0x10014 && t.core.cause == .ofNat 8 cALIGN && t.core.epc == 0x10000 &&
      t.core.cur.pc == 0x8000) = true := by decide +kernel

/-- Stored bytes are little-endian, and a load extends their sign (R3, R138). -/
theorem test_store_load : next (exec (.st (.w 2) (.w 1) 0 0 1) (reg 2 0x80FF (reg 1 0xFFFFFFFE0700 live))) (fun a =>
    a.core.lm.get 0x700 == 0xFF && a.core.lm.get 0x701 == 0x80 && next (exec (.ld (.w 3) (.w 1) 1 0 0 0) a) (fun b =>
      b.core.regVal 3 == .clean 0xFFFFFFFFFFFFFF80)) = true := by decide +kernel

/-- ACAS swaps where the old value is the expected one (Table 7.5). -/
theorem test_acas : next (exec (.acas (.w 4) (.w 1) 1 2 3 0) (reg 4 0 (reg 5 9 owner))) (fun t =>
    t.core.regVal 4 == .clean 0 && t.core.lm.dword 0x700 == 9) = true ∧
    next (exec (.acas (.w 4) (.w 1) 1 2 3 0) (reg 4 1 (reg 5 9 owner))) (fun t =>
      t.core.regVal 4 == .clean 0 && t.core.lm.dword 0x700 == 0) = true := by decide +kernel

/-- VADD.i wraps a lane (Table 8.4). -/
theorem test_vadd : next (exec (.vaddI (.v 2) (.v 1) (.bcast 0)) (reg 16 0xFFFFFFFF lanes)) (fun t =>
    (((t.core.press.tile.getD 2 .zero).elems 32).take 4).map (·.1) == [0xFFFFFFFF, 0, 1, 2]) = true := by decide +kernel

/-- KADD of scales 120 and 130 gives 123 (chapter 10). -/
theorem test_kadd : next (exec (.kadd 7 6 0) ((live.withRind 6 (List.replicate 64 (120, false))).withRind 0
    (List.replicate 64 (130, false)))) (fun t => (t.core.rind.getD 7 .load).list.getD 7 (0, false) == (123, false)) = true := by
  decide +kernel

/-- A press step on integers in narrow mode saturates and sets OV (R223). -/
theorem test_press :
    let p : Press := { (command 2 0 0).core.press with
      integer := true, narrow := true
      active := { valid := true, fmt := 3, rows := List.replicate 32 (.ofNat 1024 (lanesNat 8 (List.replicate 128 127)))
                  pois := List.replicate 32 0, scales := 0, scalePois := 0 } }
    let q := p.step p.weightCols 3 true (List.replicate 32 (127, false)) (127, false) 0
    q.ov = true ∧ (((q.tile.getD 0 .zero).elems 16).take 2).map (·.1) = [0x7FFF, 0x7FFF] := by decide +kernel

/-- The first token of a counter of width 2 leaves at exit 0 with value 0, and the second at exit 1 with value 1 (R255). -/
theorem test_counter : let c : Counter := { count0 with start := 0, toggles := startToggles 1 0, counts := startCounts 1 0 }
    let s : State := { counting with
      counters := [c], tokens := [{ token (.counter 1023) 0 with uid := 1 }, { token (.counter 1023) 0 with uid := 2 }] }
    next (exec (.balancerArrival 0) s) (fun a => next (exec (.balancerArrival 1) a) (fun b =>
      b.tokens.map (fun t => (network 1).exitOf t.wire) == [0, 1])) = true := by decide +kernel

/-- A privileged instruction in user mode reaches the handler with its encoding in TVAL (R50). -/
theorem test_priv : next (exec .idle vectored) (fun t => t.core.cause == .ofNat 8 cPRIV && t.core.tval == 0x0800002F) = true := by
  decide +kernel

/-- CREATE of a context that exists completes with RESULT 1 (R377). -/
theorem test_create : next (exec (.create 0) (commanded [0, 1, 0, 0x1000000, 0x100000, 4, 0, 0])) (fun t =>
    (t.window (.partition 0)).map (·.result) == some 1) = true := by decide +kernel

/-- A step that fetches: the word of chapter 2's ADDI, placed after reset, gives w2 0x4F. -/
theorem test_step : next (step (State.reset.withFetchWord 32 0x027D010D)) (fun t =>
    t.core.regVal 2 == .clean 0x4F && t.core.cur.pc == 0x10004) = true := by decide +kernel

/-! ## Words of the encoding tables -/

/-- Words of major 0x00, written out from the fields that the tables give each member. -/
theorem test_decode_major_00 :
    decodeTableWord 32 0xD22181 = some (.add (.w 3) (.w 17) (.w 26)) ∧
    decodeTableWord 32 0x2D22181 = some (.sub (.w 3) (.w 17) (.w 26)) ∧
    decodeTableWord 32 0x4D22181 = some (.and (.w 3) (.w 17) (.w 26)) ∧
    decodeTableWord 32 0x6D22181 = some (.or (.w 3) (.w 17) (.w 26)) ∧
    decodeTableWord 32 0x8D22181 = some (.xor (.w 3) (.w 17) (.w 26)) ∧
    decodeTableWord 32 0xAD22181 = some (.andn (.w 3) (.w 17) (.w 26)) ∧
    decodeTableWord 32 0xCD22181 = some (.orn (.w 3) (.w 17) (.w 26)) ∧
    decodeTableWord 32 0xED22181 = some (.xnor (.w 3) (.w 17) (.w 26)) ∧
    decodeTableWord 32 0x10D22181 = some (.shl (.w 3) (.w 17) (.w 26)) ∧
    decodeTableWord 32 0x12D22181 = some (.shr (.w 3) (.w 17) (.w 26)) ∧
    decodeTableWord 32 0x14D22181 = some (.sra (.w 3) (.w 17) (.w 26)) ∧
    decodeTableWord 32 0x16D22181 = some (.rol (.w 3) (.w 17) (.w 26)) ∧
    decodeTableWord 32 0x18D22181 = some (.ror (.w 3) (.w 17) (.w 26)) ∧
    decodeTableWord 32 0x1AD22181 = some (.slt (.w 3) (.w 17) (.w 26)) ∧
    decodeTableWord 32 0x1CD22181 = some (.sltu (.w 3) (.w 17) (.w 26)) ∧
    decodeTableWord 32 0x1ED22181 = some (.seq (.w 3) (.w 17) (.w 26)) ∧
    decodeTableWord 32 0x20D22181 = some (.sne (.w 3) (.w 17) (.w 26)) ∧
    decodeTableWord 32 0x22D22181 = some (.min (.w 3) (.w 17) (.w 26)) ∧
    decodeTableWord 32 0x24D22181 = some (.max (.w 3) (.w 17) (.w 26)) ∧
    decodeTableWord 32 0x26D22181 = some (.minu (.w 3) (.w 17) (.w 26)) ∧
    decodeTableWord 32 0x28D22181 = some (.maxu (.w 3) (.w 17) (.w 26)) ∧
    decodeTableWord 32 0x2AD22181 = some (.shadd1 (.w 3) (.w 17) (.w 26)) ∧
    decodeTableWord 32 0x2CD22181 = some (.shadd2 (.w 3) (.w 17) (.w 26)) ∧
    decodeTableWord 32 0x2ED22181 = some (.shadd3 (.w 3) (.w 17) (.w 26)) ∧
    decodeTableWord 32 0x30D22181 = some (.addw (.w 3) (.w 17) (.w 26)) ∧
    decodeTableWord 32 0x32D22181 = some (.subw (.w 3) (.w 17) (.w 26)) := by
  refine ⟨?_, ?_, ?_, ?_, ?_, ?_, ?_, ?_, ?_, ?_, ?_, ?_, ?_, ?_, ?_, ?_, ?_, ?_, ?_, ?_, ?_, ?_, ?_, ?_, ?_, ?_⟩ <;> rfl

/-- Words of major 0x01, written out from the fields that the tables give each member. -/
theorem test_decode_major_01 :
    decodeTableWord 32 0xAD22183 = some (.mul (.w 3) (.w 17) (.w 26) 5) ∧
    decodeTableWord 32 0x2AD22183 = some (.mulh (.w 3) (.w 17) (.w 26) 5) ∧
    decodeTableWord 32 0x4AD22183 = some (.mulhu (.w 3) (.w 17) (.w 26) 5) ∧
    decodeTableWord 32 0x6AD22183 = some (.mulhsu (.w 3) (.w 17) (.w 26) 5) ∧
    decodeTableWord 32 0x8AD22183 = some (.div (.w 3) (.w 17) (.w 26) 5) ∧
    decodeTableWord 32 0xAAD22183 = some (.divu (.w 3) (.w 17) (.w 26) 5) ∧
    decodeTableWord 32 0xCAD22183 = some (.rem (.w 3) (.w 17) (.w 26) 5) ∧
    decodeTableWord 32 0xEAD22183 = some (.remu (.w 3) (.w 17) (.w 26) 5) := by
  refine ⟨?_, ?_, ?_, ?_, ?_, ?_, ?_, ?_⟩ <;> rfl

/-- Words of major 0x02, written out from the fields that the tables give each member. -/
theorem test_decode_major_02 :
    decodeTableWord 32 0x22185 = some (.clz (.w 3) (.w 17)) ∧
    decodeTableWord 32 0x2022185 = some (.ctz (.w 3) (.w 17)) ∧
    decodeTableWord 32 0x4022185 = some (.popc (.w 3) (.w 17)) ∧
    decodeTableWord 32 0x6022185 = some (.brev (.w 3) (.w 17)) ∧
    decodeTableWord 32 0x8022185 = some (.bswap (.w 3) (.w 17)) ∧
    decodeTableWord 32 0xA022185 = some (.sextb (.w 3) (.w 17)) ∧
    decodeTableWord 32 0xC022185 = some (.sexth (.w 3) (.w 17)) ∧
    decodeTableWord 32 0xE022185 = some (.sextw (.w 3) (.w 17)) := by
  refine ⟨?_, ?_, ?_, ?_, ?_, ?_, ?_, ?_⟩ <;> rfl

/-- Words of major 0x03, written out from the fields that the tables give each member. -/
theorem test_decode_major_03 :
    decodeTableWord 32 0x3CA22187 = some (.extu (.w 3) (.w 17) 20 30) := rfl

/-- Words of major 0x04, written out from the fields that the tables give each member. -/
theorem test_decode_major_04 :
    decodeTableWord 32 0x3CA22189 = some (.exts (.w 3) (.w 17) 20 30) := rfl

/-- Words of major 0x05, written out from the fields that the tables give each member. -/
theorem test_decode_major_05 :
    decodeTableWord 32 0x3CA2218B = some (.ins (.w 3) (.w 17) 20 30) := rfl

/-- Words of major 0x06, written out from the fields that the tables give each member. -/
theorem test_decode_major_06 :
    decodeTableWord 32 0x91A2218D = some (.addi (.w 3) (.w 17) 4660) := rfl

/-- Words of major 0x07, written out from the fields that the tables give each member. -/
theorem test_decode_major_07 :
    decodeTableWord 32 0x91A2218F = some (.andi (.w 3) (.w 17) 4660) := rfl

/-- Words of major 0x08, written out from the fields that the tables give each member. -/
theorem test_decode_major_08 :
    decodeTableWord 32 0x91A22191 = some (.ori (.w 3) (.w 17) 4660) := rfl

/-- Words of major 0x09, written out from the fields that the tables give each member. -/
theorem test_decode_major_09 :
    decodeTableWord 32 0x91A22193 = some (.xori (.w 3) (.w 17) 4660) := rfl

/-- Words of major 0x0A, written out from the fields that the tables give each member. -/
theorem test_decode_major_0a :
    decodeTableWord 32 0x91A22195 = some (.slti (.w 3) (.w 17) 4660) := rfl

/-- Words of major 0x0B, written out from the fields that the tables give each member. -/
theorem test_decode_major_0b :
    decodeTableWord 32 0x91A22197 = some (.sltui (.w 3) (.w 17) 4660) := rfl

/-- Words of major 0x0C, written out from the fields that the tables give each member. -/
theorem test_decode_major_0c :
    decodeTableWord 32 0x12A2199 = some (.shli (.w 3) (.w 17) 37) ∧
    decodeTableWord 32 0x412A2199 = some (.shri (.w 3) (.w 17) 37) ∧
    decodeTableWord 32 0x812A2199 = some (.srai (.w 3) (.w 17) 37) ∧
    decodeTableWord 32 0xC12A2199 = some (.rori (.w 3) (.w 17) 37) := by
  refine ⟨?_, ?_, ?_, ?_⟩ <;> rfl

/-- Words of major 0x0D, written out from the fields that the tables give each member. -/
theorem test_decode_major_0d :
    decodeTableWord 32 0xB579A19B = some (.lih (.w 3) 371661) := rfl

/-- Words of major 0x0E, written out from the fields that the tables give each member. -/
theorem test_decode_major_0e :
    decodeTableWord 32 0xB579A19D = some (.lix (.w 3) 371661) := rfl

/-- Words of major 0x0F, written out from the fields that the tables give each member. -/
theorem test_decode_major_0f :
    decodeTableWord 32 0xB579A19F = some (.addpc (.w 3) 371661) := rfl

/-- Words of major 0x10, written out from the fields that the tables give each member. -/
theorem test_decode_major_10 :
    decodeTableWord 32 0xA9510C21 = some (.beq (.w 3) (.w 17) 677) ∧
    decodeTableWord 32 0xA9510CA1 = some (.bne (.w 3) (.w 17) 677) ∧
    decodeTableWord 32 0xA9510D21 = some (.blt (.w 3) (.w 17) 677) ∧
    decodeTableWord 32 0xA9510DA1 = some (.bge (.w 3) (.w 17) 677) ∧
    decodeTableWord 32 0xA9510E21 = some (.bltu (.w 3) (.w 17) 677) ∧
    decodeTableWord 32 0xA9510EA1 = some (.bgeu (.w 3) (.w 17) 677) ∧
    decodeTableWord 32 0xA9650F21 = some (.bbs (.w 3) 37 677) ∧
    decodeTableWord 32 0xA9650FA1 = some (.bbc (.w 3) 37 677) := by
  refine ⟨?_, ?_, ?_, ?_, ?_, ?_, ?_, ?_⟩ <;> rfl

/-- Words of major 0x11, written out from the fields that the tables give each member. -/
theorem test_decode_major_11 :
    decodeTableWord 32 0xD5E6F7A3 = some (.j 28036591) := rfl

/-- Words of major 0x12, written out from the fields that the tables give each member. -/
theorem test_decode_major_12 :
    decodeTableWord 32 0xD5E6F7A5 = some (.jal 28036591) := rfl

/-- Words of major 0x13, written out from the fields that the tables give each member. -/
theorem test_decode_major_13 :
    decodeTableWord 32 0x91A221A7 = some (.jalr (.w 3) (.w 17) 4660) := rfl

/-- Words of major 0x14, written out from the fields that the tables give each member. -/
theorem test_decode_major_14 :
    decodeTableWord 32 0x2581A9 = some (.loop (.w 3) 300) := rfl

/-- Words of major 0x15, written out from the fields that the tables give each member. -/
theorem test_decode_major_15 :
    decodeTableWord 32 0x4AC1AB = some (.rep 6 (.w 3) 37) := rfl

/-- Words of major 0x16, written out from the fields that the tables give each member. -/
theorem test_decode_major_16 :
    decodeTableWord 32 0x2D = some .endAct ∧
    decodeTableWord 32 0x8002D = some .endAbort ∧
    decodeTableWord 32 0x2D221AD = some (.callat (.w 3) (.w 17) (.w 26)) ∧
    decodeTableWord 32 0x400602D = some (.reply (.w 3)) ∧
    decodeTableWord 32 0x60221AD = some (.spawn (.w 3) (.w 17)) ∧
    decodeTableWord 32 0x60A21AD = some (.spawnH (.w 3) (.w 17)) ∧
    decodeTableWord 32 0x80221AD = some (.wclaim (.w 3) (.w 17)) ∧
    decodeTableWord 32 0xA00602D = some (.wrel (.w 3)) ∧
    decodeTableWord 32 0xC00082D = some (.apop (.w 16)) ∧
    decodeTableWord 32 0xE02002D = some (.apush (.w 16)) := by
  refine ⟨?_, ?_, ?_, ?_, ?_, ?_, ?_, ?_, ?_, ?_⟩ <;> rfl

/-- Words of major 0x17, written out from the fields that the tables give each member. -/
theorem test_decode_major_17 :
    decodeTableWord 32 0x2F = some .nop ∧
    decodeTableWord 32 0x200602F = some (.trap (.w 3)) ∧
    decodeTableWord 32 0x400002F = some .brk ∧
    decodeTableWord 32 0x600002F = some .rte ∧
    decodeTableWord 32 0x800002F = some .idle := by
  refine ⟨?_, ?_, ?_, ?_, ?_⟩ <;> rfl

/-- Words of major 0x18, written out from the fields that the tables give each member. -/
theorem test_decode_major_18 :
    decodeTableWord 32 0x9B2A21B1 = some (.ld (.w 3) (.w 17) 19 1 2 5) := rfl

/-- Words of major 0x19, written out from the fields that the tables give each member. -/
theorem test_decode_major_19 :
    decodeTableWord 32 0x9B2A21B3 = some (.ldu (.w 3) (.w 17) 19 1 2 5) := rfl

/-- Words of major 0x1A, written out from the fields that the tables give each member. -/
theorem test_decode_major_1a :
    decodeTableWord 32 0x9B0221B5 = some (.st (.w 3) (.w 17) 19 1 2) := rfl

/-- Words of major 0x1B, written out from the fields that the tables give each member. -/
theorem test_decode_major_1b :
    decodeTableWord 32 0x9A2872B7 = some (.ldv 37 (.w 3) 19 1 5) ∧
    decodeTableWord 32 0x9A8072B7 = some (.stv 37 (.w 3) 19 1) ∧
    decodeTableWord 32 0x9B006037 = some (.zfill (.w 3) 19 1) ∧
    decodeTableWord 32 0x9B806037 = some (.pref (.w 3) 19 1) := by
  refine ⟨?_, ?_, ?_, ?_⟩ <;> rfl

/-- Words of major 0x1C, written out from the fields that the tables give each member. -/
theorem test_decode_major_1c :
    decodeTableWord 32 0x39 = some .l1inv ∧
    decodeTableWord 32 0x2106039 = some (.icinv (.w 3) 2) ∧
    decodeTableWord 32 0x4886039 = some (.bankmode (.w 3) (.w 17)) ∧
    decodeTableWord 32 0x60001B9 = some (.bankq (.w 3)) := by
  refine ⟨?_, ?_, ?_, ?_⟩ <;> rfl

/-- Words of major 0x1D, written out from the fields that the tables give each member. -/
theorem test_decode_major_1d :
    decodeTableWord 32 0x9B2A21BB = some (.ldc (.w 3) (.w 17) 19 1 2 5) := rfl

/-- Words of major 0x1E, written out from the fields that the tables give each member. -/
theorem test_decode_major_1e :
    decodeTableWord 32 0x99AA21BD = some (.lds (.w 3) (.w 17) 19 5) ∧
    decodeTableWord 32 0x9BAA21BD = some (.ldsE (.w 3) (.w 17) 19 5) := by
  refine ⟨?_, ?_⟩ <;> rfl

/-- Words of major 0x1F, written out from the fields that the tables give each member. -/
theorem test_decode_major_1f :
    decodeTableWord 32 0x9B8221BF = some (.stf (.w 3) (.w 17) 19 1) := rfl

/-- Words of major 0x20, written out from the fields that the tables give each member. -/
theorem test_decode_major_20 :
    decodeTableWord 32 0xD02A21C1 = some (.aadd (.w 3) (.w 17) 1 2 2 5) ∧
    decodeTableWord 32 0xD0AA21C1 = some (.aand (.w 3) (.w 17) 1 2 2 5) ∧
    decodeTableWord 32 0xD12A21C1 = some (.aor (.w 3) (.w 17) 1 2 2 5) ∧
    decodeTableWord 32 0xD1AA21C1 = some (.axor (.w 3) (.w 17) 1 2 2 5) ∧
    decodeTableWord 32 0xD22A21C1 = some (.amin (.w 3) (.w 17) 1 2 2 5) ∧
    decodeTableWord 32 0xD2AA21C1 = some (.amax (.w 3) (.w 17) 1 2 2 5) ∧
    decodeTableWord 32 0xD32A21C1 = some (.aminu (.w 3) (.w 17) 1 2 2 5) ∧
    decodeTableWord 32 0xD3AA21C1 = some (.amaxu (.w 3) (.w 17) 1 2 2 5) ∧
    decodeTableWord 32 0xD42A21C1 = some (.axchg (.w 3) (.w 17) 1 2 2 5) ∧
    decodeTableWord 32 0xD4AA21C1 = some (.afadd (.w 3) (.w 17) 1 2 2 5) ∧
    decodeTableWord 32 0xD52A21C1 = some (.afmin (.w 3) (.w 17) 1 2 2 5) ∧
    decodeTableWord 32 0xD5AA21C1 = some (.afmax (.w 3) (.w 17) 1 2 2 5) ∧
    decodeTableWord 32 0xD62A21C1 = some (.ald (.w 3) (.w 17) 1 2 2 5) ∧
    decodeTableWord 32 0xCE8221C1 = some (.ast (.w 3) (.w 17) 1 2 1) := by
  refine ⟨?_, ?_, ?_, ?_, ?_, ?_, ?_, ?_, ?_, ?_, ?_, ?_, ?_, ?_⟩ <;> rfl

/-- Words of major 0x21, written out from the fields that the tables give each member. -/
theorem test_decode_major_21 :
    decodeTableWord 32 0xC806543 = some (.acas (.w 10) (.w 3) 1 2 1 0) := rfl

/-- Words of major 0x22, written out from the fields that the tables give each member. -/
theorem test_decode_major_22 :
    decodeTableWord 32 0x1C5 = some (.phase (.w 3)) ∧
    decodeTableWord 32 0x2180045 = some (.rel 3) ∧
    decodeTableWord 32 0x4000045 = some .acq ∧
    decodeTableWord 32 0x6000045 = some .fence ∧
    decodeTableWord 32 0x80001C5 = some (.clrt (.w 3)) ∧
    decodeTableWord 32 0xA0001C5 = some (.phasen (.w 3)) := by
  refine ⟨?_, ?_, ?_, ?_, ?_, ?_⟩ <;> rfl

/-- Words of major 0x28, written out from the fields that the tables give each member. -/
theorem test_decode_major_28 :
    decodeTableWord 32 0xB124351 = some (.vaddF (.v 6) (.str 1) .vz) ∧
    decodeTableWord 32 0x1B124351 = some (.vsubF (.v 6) (.str 1) .vz) ∧
    decodeTableWord 32 0x2B124351 = some (.vmulF (.v 6) (.str 1) .vz) ∧
    decodeTableWord 32 0x3B124351 = some (.vfma (.v 6) (.str 1) .vz) ∧
    decodeTableWord 32 0x4B124351 = some (.vfms (.v 6) (.str 1) .vz) ∧
    decodeTableWord 32 0x5B124351 = some (.vmaxF (.v 6) (.str 1) .vz) ∧
    decodeTableWord 32 0x6B124351 = some (.vminF (.v 6) (.str 1) .vz) ∧
    decodeTableWord 32 0x70124351 = some (.vnegF (.v 6) (.str 1)) ∧
    decodeTableWord 32 0x80124351 = some (.vabsF (.v 6) (.str 1)) ∧
    decodeTableWord 32 0x90124351 = some (.vrcp (.v 6) (.str 1)) ∧
    decodeTableWord 32 0xA0124351 = some (.vrsq (.v 6) (.str 1)) ∧
    decodeTableWord 32 0xBB124351 = some (.vrcps (.v 6) (.str 1) .vz) ∧
    decodeTableWord 32 0xCB124351 = some (.vrsqs (.v 6) (.str 1) .vz) ∧
    decodeTableWord 32 0xD0124351 = some (.vexp2 (.v 6) (.str 1)) ∧
    decodeTableWord 32 0xE0124351 = some (.vlog2 (.v 6) (.str 1)) ∧
    decodeTableWord 32 0xFB124351 = some (.vclamp (.v 6) (.str 1) .vz) := by
  refine ⟨?_, ?_, ?_, ?_, ?_, ?_, ?_, ?_, ?_, ?_, ?_, ?_, ?_, ?_, ?_, ?_⟩ <;> rfl

/-- Words of major 0x29, written out from the fields that the tables give each member. -/
theorem test_decode_major_29 :
    decodeTableWord 32 0xB124353 = some (.vaddI (.v 6) (.str 1) .vz) ∧
    decodeTableWord 32 0x1B124353 = some (.vsubI (.v 6) (.str 1) .vz) ∧
    decodeTableWord 32 0x2B124353 = some (.vmulI (.v 6) (.str 1) .vz) ∧
    decodeTableWord 32 0x3B124353 = some (.vmulh (.v 6) (.str 1) .vz) ∧
    decodeTableWord 32 0x4B124353 = some (.vmad (.v 6) (.str 1) .vz) ∧
    decodeTableWord 32 0x5B124353 = some (.vmaxI (.v 6) (.str 1) .vz) ∧
    decodeTableWord 32 0x6B124353 = some (.vminI (.v 6) (.str 1) .vz) ∧
    decodeTableWord 32 0x70124353 = some (.vabsI (.v 6) (.str 1)) ∧
    decodeTableWord 32 0x8B124353 = some (.vshl (.v 6) (.str 1) .vz) ∧
    decodeTableWord 32 0x9B124353 = some (.vshr (.v 6) (.str 1) .vz) ∧
    decodeTableWord 32 0xAB124353 = some (.vsra (.v 6) (.str 1) .vz) ∧
    decodeTableWord 32 0xBB124353 = some (.vadds (.v 6) (.str 1) .vz) ∧
    decodeTableWord 32 0xCB124353 = some (.vsubs (.v 6) (.str 1) .vz) ∧
    decodeTableWord 32 0xDB124353 = some (.vmaxu (.v 6) (.str 1) .vz) ∧
    decodeTableWord 32 0xEB124353 = some (.vminu (.v 6) (.str 1) .vz) ∧
    decodeTableWord 32 0xF0124353 = some (.vnegI (.v 6) (.str 1)) := by
  refine ⟨?_, ?_, ?_, ?_, ?_, ?_, ?_, ?_, ?_, ?_, ?_, ?_, ?_, ?_, ?_, ?_⟩ <;> rfl

/-- Words of major 0x2A, written out from the fields that the tables give each member. -/
theorem test_decode_major_2a :
    decodeTableWord 32 0xB124355 = some (.vand (.v 6) (.str 1) .vz) ∧
    decodeTableWord 32 0x1B124355 = some (.vor (.v 6) (.str 1) .vz) ∧
    decodeTableWord 32 0x2B124355 = some (.vxor (.v 6) (.str 1) .vz) ∧
    decodeTableWord 32 0x3B124355 = some (.vandn (.v 6) (.str 1) .vz) ∧
    decodeTableWord 32 0x40124355 = some (.vnot (.v 6) (.str 1)) ∧
    decodeTableWord 32 0x50124355 = some (.vmov (.v 6) (.str 1)) ∧
    decodeTableWord 32 0x6B124355 = some (.vsel (.v 6) (.str 1) .vz) ∧
    decodeTableWord 32 0x70124355 = some (.vpopc (.v 6) (.str 1)) ∧
    decodeTableWord 32 0x80124355 = some (.vclz (.v 6) (.str 1)) := by
  refine ⟨?_, ?_, ?_, ?_, ?_, ?_, ?_, ?_, ?_⟩ <;> rfl

/-- Words of major 0x2B, written out from the fields that the tables give each member. -/
theorem test_decode_major_2b :
    decodeTableWord 32 0xB124357 = some (.vceqF (.v 6) (.str 1) .vz) ∧
    decodeTableWord 32 0x1B124357 = some (.vcneF (.v 6) (.str 1) .vz) ∧
    decodeTableWord 32 0x2B124357 = some (.vcltF (.v 6) (.str 1) .vz) ∧
    decodeTableWord 32 0x3B124357 = some (.vcleF (.v 6) (.str 1) .vz) ∧
    decodeTableWord 32 0x4B124357 = some (.vcunF (.v 6) (.str 1) .vz) ∧
    decodeTableWord 32 0x8B124357 = some (.vceqI (.v 6) (.str 1) .vz) ∧
    decodeTableWord 32 0x9B124357 = some (.vcneI (.v 6) (.str 1) .vz) ∧
    decodeTableWord 32 0xAB124357 = some (.vcltI (.v 6) (.str 1) .vz) ∧
    decodeTableWord 32 0xBB124357 = some (.vcleI (.v 6) (.str 1) .vz) ∧
    decodeTableWord 32 0xCB124357 = some (.vcltu (.v 6) (.str 1) .vz) ∧
    decodeTableWord 32 0xDB124357 = some (.vcleu (.v 6) (.str 1) .vz) := by
  refine ⟨?_, ?_, ?_, ?_, ?_, ?_, ?_, ?_, ?_, ?_, ?_⟩ <;> rfl

/-- Words of major 0x2C, written out from the fields that the tables give each member. -/
theorem test_decode_major_2c :
    decodeTableWord 32 0xB1274D9 = some (.mand (.m 1) (.str 1) .vz) ∧
    decodeTableWord 32 0x1B1274D9 = some (.mor (.m 1) (.str 1) .vz) ∧
    decodeTableWord 32 0x2B1274D9 = some (.mxor (.m 1) (.str 1) .vz) ∧
    decodeTableWord 32 0x301274D9 = some (.mnot (.m 1) (.str 1)) ∧
    decodeTableWord 32 0x4B1274D9 = some (.mandn (.m 1) (.str 1) .vz) ∧
    decodeTableWord 32 0x501A8059 = some (.msel (.m 2)) ∧
    decodeTableWord 32 0x601241D9 = some (.mpopc (.w 3) (.str 1)) ∧
    decodeTableWord 32 0x701241D9 = some (.mfirst (.w 3) (.str 1)) := by
  refine ⟨?_, ?_, ?_, ?_, ?_, ?_, ?_, ?_⟩ <;> rfl

/-- Words of major 0x2D, written out from the fields that the tables give each member. -/
theorem test_decode_major_2d :
    decodeTableWord 32 0x32435B = some (.vcvtF32F16 (.v 6) (.str 1) 1) ∧
    decodeTableWord 32 0x1032435B = some (.vcvtF16F32 (.v 6) (.str 1) 1) ∧
    decodeTableWord 32 0x2032435B = some (.vcvtF32Bf16 (.v 6) (.str 1) 1) ∧
    decodeTableWord 32 0x3032435B = some (.vcvtBf16F32 (.v 6) (.str 1) 1) ∧
    decodeTableWord 32 0x4032435B = some (.vcvtF32E4m3 (.v 6) (.str 1) 1) ∧
    decodeTableWord 32 0x5032435B = some (.vcvtE4m3F32 (.v 6) (.str 1) 1) ∧
    decodeTableWord 32 0x6032435B = some (.vcvtF32E5m2 (.v 6) (.str 1) 1) ∧
    decodeTableWord 32 0x7032435B = some (.vcvtE5m2F32 (.v 6) (.str 1) 1) ∧
    decodeTableWord 32 0x8012435B = some (.vcvtI32F32 (.v 6) (.str 1)) ∧
    decodeTableWord 32 0x9012435B = some (.vcvtF32I32 (.v 6) (.str 1)) ∧
    decodeTableWord 32 0xA032435B = some (.vcvtI16I32 (.v 6) (.str 1) 1) ∧
    decodeTableWord 32 0xB032435B = some (.vcvtI32I16 (.v 6) (.str 1) 1) ∧
    decodeTableWord 32 0xC032435B = some (.vcvtF32Cb4 (.v 6) (.str 1) 1) ∧
    decodeTableWord 32 0xD032435B = some (.vcvtCb4F32 (.v 6) (.str 1) 1) ∧
    decodeTableWord 32 0xE032435B = some (.vcvtI8I32 (.v 6) (.str 1) 1) ∧
    decodeTableWord 32 0xF032435B = some (.vcvtI32I8 (.v 6) (.str 1) 1) := by
  refine ⟨?_, ?_, ?_, ?_, ?_, ?_, ?_, ?_, ?_, ?_, ?_, ?_, ?_, ?_, ?_, ?_⟩ <;> rfl

/-- Words of major 0x2E, written out from the fields that the tables give each member. -/
theorem test_decode_major_2e :
    decodeTableWord 32 0x72435D = some (.vbcast (.v 6) (.str 1) (.w 3)) ∧
    decodeTableWord 32 0x123241DD = some (.vextr (.w 3) (.str 1) (.w 17)) ∧
    decodeTableWord 32 0x2220C35D = some (.vins (.v 6) (.w 3) (.w 17)) ∧
    decodeTableWord 32 0x3072435D = some (.vrot (.v 6) (.str 1) (.w 3)) ∧
    decodeTableWord 32 0x4B12435D = some (.vshuf (.v 6) (.str 1) .vz) ∧
    decodeTableWord 32 0x5032435D = some (.vscan (.v 6) (.str 1) 1) ∧
    decodeTableWord 32 0x603241DD = some (.vredadd (.w 3) (.str 1) 1) ∧
    decodeTableWord 32 0x703241DD = some (.vredmax (.w 3) (.str 1) 1) ∧
    decodeTableWord 32 0x803241DD = some (.vredmin (.w 3) (.str 1) 1) ∧
    decodeTableWord 32 0x9000035D = some (.viota (.v 6)) ∧
    decodeTableWord 32 0xAB12435D = some (.vzip (.v 6) (.str 1) .vz) ∧
    decodeTableWord 32 0xBB12435D = some (.vunzip (.v 6) (.str 1) .vz) := by
  refine ⟨?_, ?_, ?_, ?_, ?_, ?_, ?_, ?_, ?_, ?_, ?_, ?_⟩ <;> rfl

/-- Words of major 0x30, written out from the fields that the tables give each member. -/
theorem test_decode_major_30 :
    decodeTableWord 32 0x33361 = some (.kadd 6 6 6) ∧
    decodeTableWord 32 0x2033361 = some (.ksub 6 6 6) ∧
    decodeTableWord 32 0x4033361 = some (.kmax 6 6 6) ∧
    decodeTableWord 32 0x6033361 = some (.kmin 6 6 6) ∧
    decodeTableWord 32 0x8003361 = some (.kmov 6 6) ∧
    decodeTableWord 32 0xA180361 = some (.kset 6 (.w 3)) ∧
    decodeTableWord 32 0xD280361 = some (.kfromv 6 37) ∧
    decodeTableWord 32 0xF283061 = some (.ktov 37 6) ∧
    decodeTableWord 32 0x101B0361 = some (.kbind 6 6 (.w 3)) ∧
    decodeTableWord 32 0x12030061 = some (.kunbind 6) ∧
    decodeTableWord 32 0x14183061 = some (.kgen (.w 3) 6) := by
  refine ⟨?_, ?_, ?_, ?_, ?_, ?_, ?_, ?_, ?_, ?_, ?_⟩ <;> rfl

/-- Words of major 0x31, written out from the fields that the tables give each member. -/
theorem test_decode_major_31 :
    decodeTableWord 32 0x606063 = some (.ttset (.w 3) (.w 12)) ∧
    decodeTableWord 32 0x2006663 = some (.ttget (.w 12) (.w 3)) ∧
    decodeTableWord 32 0x4006063 = some (.ttinv (.w 3)) ∧
    decodeTableWord 32 0x6886063 = some (.tcb (.w 3) (.w 17)) := by
  refine ⟨?_, ?_, ?_, ?_⟩ <;> rfl

/-- Words of major 0x32, written out from the fields that the tables give each member. -/
theorem test_decode_major_32 :
    decodeTableWord 32 0x332A21E5 = some (.tld 6 6 (.w 3) (.w 17) 5) ∧
    decodeTableWord 32 0x830221E5 = some (.tst 6 (.w 3) (.w 17)) := by
  refine ⟨?_, ?_⟩ <;> rfl

/-- Words of major 0x33, written out from the fields that the tables give each member. -/
theorem test_decode_major_33 :
    decodeTableWord 32 0x180367 = some (.kld 6 (.w 3)) ∧
    decodeTableWord 32 0x2183067 = some (.kst 6 (.w 3)) ∧
    decodeTableWord 32 0x4180067 = some (.ksave (.w 3)) ∧
    decodeTableWord 32 0x6180067 = some (.krestore (.w 3)) := by
  refine ⟨?_, ?_, ?_, ?_⟩ <;> rfl

/-- Words of major 0x34, written out from the fields that the tables give each member. -/
theorem test_decode_major_34 :
    decodeTableWord 32 0x6869 = some (.pcmd (.w 16) (.w 3)) := rfl

/-- Words of major 0x35, written out from the fields that the tables give each member. -/
theorem test_decode_major_35 :
    decodeTableWord 32 0x221EB = some (.pwait (.w 3) (.w 17)) ∧
    decodeTableWord 32 0x200006B = some .pfence ∧
    decodeTableWord 32 0x40001EB = some (.pstat (.w 3)) := by
  refine ⟨?_, ?_, ?_⟩ <;> rfl

/-- Words of major 0x36, written out from the fields that the tables give each member. -/
theorem test_decode_major_36 :
    decodeTableWord 32 0x686D = some (.copy (.w 16) (.w 3)) := rfl

/-- Words of major 0x37, written out from the fields that the tables give each member. -/
theorem test_decode_major_37 :
    decodeTableWord 32 0x1EF = some (.bseal (.w 3)) ∧
    decodeTableWord 32 0x20221EF = some (.bdrain (.w 3) (.w 17)) ∧
    decodeTableWord 32 0x40221EF = some (.cwptr (.w 3) (.w 17)) := by
  refine ⟨?_, ?_, ?_⟩ <;> rfl

/-- Words of major 0x38, written out from the fields that the tables give each member. -/
theorem test_decode_major_38 :
    decodeTableWord 32 0x2A21F1 = some (.ctake (.w 3) (.w 17) 5) ∧
    decodeTableWord 32 0xAA21F1 = some (.cgive (.w 3) (.w 17) 5) ∧
    decodeTableWord 32 0x12A21F1 = some (.csum (.w 3) (.w 17) 5) ∧
    decodeTableWord 32 0x1AA21F1 = some (.creset (.w 3) (.w 17) 5) := by
  refine ⟨?_, ?_, ?_, ?_⟩ <;> rfl

/-- Words of major 0x39, written out from the fields that the tables give each member. -/
theorem test_decode_major_39 :
    decodeTableWord 32 0x221F3 = some (.barv (.w 3) (.w 17)) ∧
    decodeTableWord 32 0x2886073 = some (.barw (.w 3) (.w 17)) ∧
    decodeTableWord 32 0x40221F3 = some (.barg (.w 3) (.w 17)) ∧
    decodeTableWord 32 0x60221F3 = some (.barp (.w 3) (.w 17)) := by
  refine ⟨?_, ?_, ?_, ?_⟩ <;> rfl

/-- Words of major 0x3A, written out from the fields that the tables give each member. -/
theorem test_decode_major_3a :
    decodeTableWord 32 0xD221F5 = some (.msend (.w 3) (.w 17) (.w 26)) ∧
    decodeTableWord 32 0x20001F5 = some (.mpoll (.w 3)) ∧
    decodeTableWord 32 0x41001F5 = some (.winrd (.w 3) 2) := by
  refine ⟨?_, ?_, ?_⟩ <;> rfl

/-- Words of major 0x3C, written out from the fields that the tables give each member. -/
theorem test_decode_major_3c :
    decodeTableWord 32 0x4061F9 = some (.srd (.w 3) 0x203) ∧
    decodeTableWord 32 0x24061F9 = some (.swr (.w 3) 0x203) ∧
    decodeTableWord 32 0x40221F9 = some (.crd (.w 3) (.w 17)) ∧
    decodeTableWord 32 0x60221F9 = some (.dacc (.w 3) (.w 17)) ∧
    decodeTableWord 32 0x8006079 = some (.trcm (.w 3)) ∧
    decodeTableWord 32 0xA886079 = some (.tlbinv (.w 3) (.w 17)) ∧
    decodeTableWord 32 0xC886079 = some (.errinj (.w 3) (.w 17)) := by
  refine ⟨?_, ?_, ?_, ?_, ?_, ?_, ?_⟩ <;> rfl

/-- Words of the compact form, written out from the fields that the tables give each member. -/
theorem test_decode_compact :
    decodeTableWord 16 0x8CA0 = some (.vaddFCompact 37 (.post 1)) ∧
    decodeTableWord 16 0x8CA2 = some (.vsubFCompact 37 (.post 1)) ∧
    decodeTableWord 16 0x8CA4 = some (.vmulFCompact 37 (.post 1)) ∧
    decodeTableWord 16 0x8CA6 = some (.vmaxFCompact 37 (.post 1)) ∧
    decodeTableWord 16 0x8CA8 = some (.vminFCompact 37 (.post 1)) ∧
    decodeTableWord 16 0x8CAA = some (.vaddICompact 37 (.post 1)) ∧
    decodeTableWord 16 0x8CAC = some (.vsubICompact 37 (.post 1)) ∧
    decodeTableWord 16 0x8CAE = some (.vmaxICompact 37 (.post 1)) ∧
    decodeTableWord 16 0x8CB0 = some (.vminICompact 37 (.post 1)) ∧
    decodeTableWord 16 0x8CB2 = some (.vandCompact 37 (.post 1)) ∧
    decodeTableWord 16 0x8CB4 = some (.vorCompact 37 (.post 1)) ∧
    decodeTableWord 16 0x8CB6 = some (.vxorCompact 37 (.post 1)) ∧
    decodeTableWord 16 0x8CB8 = some (.vmovCompact 37 (.post 1)) ∧
    decodeTableWord 16 0x8CBA = some (.vnegFCompact 37 (.post 1)) ∧
    decodeTableWord 16 0x8CBC = some (.vabsFCompact 37 (.post 1)) ∧
    decodeTableWord 16 0x8CBE = some (.vshlICompact 37 (.post 1)) := by
  refine ⟨?_, ?_, ?_, ?_, ?_, ?_, ?_, ?_, ?_, ?_, ?_, ?_, ?_, ?_, ?_, ?_⟩ <;> rfl

end Sys2Proof.Tests
end

section
/-! SUPPORT. Cores found by id, and windows: what an update of one leaves of the others, how a command of an idle window
answers, and how a port or an entry of a list reads after its update. -/

namespace Sys2Proof.Machine

/-! ## Lists -/

theorem modifyAt_getElem?_self {α : Type} (f : α → α) : ∀ (l : List α) (n : Nat), (modifyAt f l n)[n]? = l[n]?.map f
  | [], _ => rfl
  | _ :: _, 0 => rfl
  | _ :: l, n + 1 => modifyAt_getElem?_self f l n

theorem modifyAt_eq_self {α : Type} {f : α → α} {x : α} (hf : f x = x) :
    ∀ {l : List α} {n : Nat}, l[n]? = some x → modifyAt f l n = l
  | y :: l, 0, h => by
    obtain rfl : y = x := by simpa using h
    rw [modifyAt, hf]
  | y :: l, n + 1, h => by rw [modifyAt, modifyAt_eq_self hf (by simpa using h)]

theorem find?_updFirst {α : Type} {p : α → Bool} {f : α → α} {x : α} (hf : p (f x) = true) :
    ∀ {l : List α}, l.find? p = some x → (updFirst p f l).find? p = some (f x)
  | y :: l, h => by
    by_cases hy : p y = true
    · obtain rfl : y = x := by simpa [hy] using h
      simp [updFirst, hy, hf]
    · have hl : l.find? p = some x := by simpa [hy] using h
      simp [updFirst, hy, find?_updFirst hf hl]

theorem lookupD_assocPut {α : Type} (d v : α) (x : Nat) : ∀ l : List (Nat × α), lookupD d (assocPut l x v) x = v
  | [] => by simp [assocPut, lookupD]
  | (k, u) :: l => by
    unfold assocPut
    split
    · simp [lookupD]
    · split
      · simp [lookupD]
      · next h => simp [lookupD, Ne.symm h, lookupD_assocPut d v x l]

/-! ## Cores by id -/

theorem State.coreOf_focus (s : State) : s.coreOf s.core.id = s.core := if_pos rfl

@[simp] theorem State.coreOf_id (s : State) (i : Nat) : (s.coreOf i).id = i := by
  unfold State.coreOf
  split
  · assumption
  · split
    · next h => simpa using List.find?_some h
    · rfl

theorem find?_insertCore_self (c : Core) : ∀ l : List Core, (insertCore l c).find? (fun x => x.id == c.id) = some c
  | [] => by simp [insertCore]
  | x :: l => by
    unfold insertCore
    split
    · simp
    · split
      · simp
      · next h => simp [Ne.symm h, find?_insertCore_self c l]

/-- A core that is put in place is found under its id. -/
theorem State.coreOf_putCore (s : State) {c : Core} {i : Nat} (h : c.id = i) : (s.putCore c).coreOf i = c := by
  subst h
  unfold State.putCore
  split
  · exact if_pos rfl
  · next h => simp [State.coreOf, h, find?_insertCore_self]

theorem State.coreOf_modCore (s : State) {i : Nat} {f : Core → Core} (h : (f (s.coreOf i)).id = i) :
    (s.modCore i f).coreOf i = f (s.coreOf i) := s.coreOf_putCore h

theorem find?_insertCore_ne {c : Core} {i : Nat} (h : c.id ≠ i) :
    ∀ l : List Core, (insertCore l c).find? (fun x => x.id == i) = l.find? (fun x => x.id == i)
  | [] => by simp [insertCore, h]
  | x :: l => by
    unfold insertCore
    split
    · simp [h]
    · split
      · next e => simp [h, ← e]
      · simp [List.find?_cons, find?_insertCore_ne h l]

/-- Every other core stays. -/
theorem State.coreOf_putCore_ne (s : State) {c : Core} {i : Nat} (h : c.id ≠ i) : (s.putCore c).coreOf i = s.coreOf i := by
  unfold State.putCore
  split
  · next e => simp [State.coreOf, h, e]
  · simp [State.coreOf, find?_insertCore_ne h]

theorem State.coreOf_modCore_ne (s : State) {i j : Nat} {f : Core → Core} (hf : (f (s.coreOf i)).id = i) (h : i ≠ j) :
    (s.modCore i f).coreOf j = s.coreOf j := s.coreOf_putCore_ne (by rwa [hf])

/-- Waiting cores look again, and nothing else of a core changes. -/
theorem State.coreOf_wake (s : State) (i : Nat) :
    s.wake.coreOf i = { s.coreOf i with stalled := false, bufStalled := false } := by
  have h : (s.others.map fun c => { c with stalled := false, bufStalled := false }).find? (fun c => c.id == i) =
      (s.others.find? (fun c => c.id == i)).map fun c => { c with stalled := false, bufStalled := false } := by
    rw [List.find?_map]; rfl
  simp only [State.coreOf, State.wake, h]
  split
  · rfl
  · cases s.others.find? (fun c => c.id == i) <;> rfl

/-- A change of a partition reads back. -/
theorem State.part_modPart (s : State) {p : Nat} (hp : p < s.partitions.length) (f : Partition → Partition) :
    (s.modPart p f).part p = f (s.part p) := by
  simp [State.part, State.modPart, List.getD_eq_getElem?_getD, modifyAt_getElem?_self, hp]

/-! ## What changes cores only -/

/-- Two states differ in their cores, and in the count of identity numbers, at most. -/
def OnlyCores (s t : State) : Prop := ∃ c os u, t = { s with core := c, others := os, uid := u }

theorem OnlyCores.refl (s : State) : OnlyCores s s := ⟨_, _, _, rfl⟩

theorem OnlyCores.trans {s t u : State} (h : OnlyCores s t) (k : OnlyCores t u) : OnlyCores s u := by
  obtain ⟨_, _, _, rfl⟩ := h
  obtain ⟨_, _, _, rfl⟩ := k
  exact ⟨_, _, _, rfl⟩

theorem OnlyCores.fold {α : Type} {f : State → α → State} (hf : ∀ s a, OnlyCores s (f s a)) :
    ∀ (l : List α) (s : State), OnlyCores s (l.foldl f s)
  | [], s => .refl s
  | a :: l, s => (hf s a).trans (OnlyCores.fold hf l _)

theorem State.putCore_onlyCores (s : State) (c : Core) : OnlyCores s (s.putCore c) := by
  unfold State.putCore
  split <;> exact ⟨_, _, _, rfl⟩

theorem State.modCore_onlyCores (s : State) (i : Nat) (f : Core → Core) : OnlyCores s (s.modCore i f) :=
  s.putCore_onlyCores _

theorem State.refocus_onlyCores (s : State) (i : Nat) : OnlyCores s (s.refocus i) := by
  unfold State.refocus
  split
  · exact .refl s
  · exact ⟨_, _, _, rfl⟩

theorem State.onCore_onlyCores {f : State → State} (hf : ∀ s, OnlyCores s (f s)) (s : State) (i : Nat) :
    OnlyCores s (s.onCore i f) :=
  ((s.refocus_onlyCores i).trans (hf _)).trans (State.refocus_onlyCores _ _)

theorem OnlyCores.mem {s t : State} (h : OnlyCores s t) : t.mem = s.mem := by
  obtain ⟨_, _, _, rfl⟩ := h
  rfl

/-! ## Windows and their commands (R376) -/

theorem State.window_modWindow (s : State) (w : Window) (f : MgmtWin → MgmtWin) :
    (s.modWindow w f).window w = (s.window w).map f := by
  cases w <;> cases h : s.boot <;> simp [State.window, State.modWindow, h, modifyAt_getElem?_self]

/-- A window shows the same in two states whose window registers and boot stage agree. -/
theorem State.window_congr {s t : State} (hb : t.boot = s.boot) (hm : t.mgmt = s.mgmt) (hd : t.devWin = s.devWin)
    (w : Window) : t.window w = s.window w := by
  simp only [State.window, hb, hm, hd]

theorem State.result_completed {s t : State} {w : Window} (h : t.window w = s.window w) (r : BitVec 8) :
    (t.result w r).wake.Completed s w r := by
  show (t.modWindow w _).window w = _
  rw [State.window_modWindow, h]

theorem OnlyCores.window {s t : State} (h : OnlyCores s t) (w : Window) : t.window w = s.window w := by
  obtain ⟨_, _, _, rfl⟩ := h
  rfl

theorem State.arg_of_window {s : State} {w : Window} {m : MgmtWin} (h : s.window w = some m) :
    (fun j => m.arg.getD j 0) = s.arg w := by
  funext j
  simp [State.arg, h]

section
variable {s : State} {w : Window} {f : (Nat → Word) → State → Answer} (h : s.Idle w)
include h

/-- How a command of an idle window answers, by what it makes of the argument block. -/
theorem State.Idle.command : s.command w f = match f (s.arg w) s with
    | .done t => happens (t.result w 0)
    | .refused => happens (s.result w 1)
    | .failed t => happens (t.result w 1)
    | .bad => happens (s.result w 2)
    | .pending t => happens (t.modWindow w (fun m => { m with busy := true })) := by
  obtain ⟨m, hm, hb⟩ := h
  simp only [State.command, hm, hb, ← State.arg_of_window hm]
  rfl

theorem State.Idle.command_done {t : State} (e : f (s.arg w) s = .done t) :
    s.command w f = .next (t.result w 0).wake := by rw [h.command, e]; rfl

theorem State.Idle.command_refused (e : f (s.arg w) s = .refused) : s.command w f = .next (s.onlyResult w 1) := by
  rw [h.command, e]; rfl

theorem State.Idle.command_bad (e : f (s.arg w) s = .bad) : s.command w f = .next (s.onlyResult w 2) := by
  rw [h.command, e]; rfl

/-- A command that is done completes its window with RESULT 0 when it leaves the window's registers alone. -/
theorem State.Idle.command_completes {t : State} {P : State → Prop} (e : f (s.arg w) s = .done t)
    (k : t.window w = s.window w) (hP : P (t.result w 0).wake) :
    ∃ u, s.command w f = .next u ∧ u.Completed s w 0 ∧ P u :=
  ⟨_, h.command_done e, State.result_completed k 0, hP⟩

theorem State.Idle.command_completed {t : State} (e : f (s.arg w) s = .done t) (k : t.window w = s.window w) :
    ∃ u, s.command w f = .next u ∧ u.Completed s w 0 :=
  ⟨_, h.command_done e, State.result_completed k 0⟩

end

end Sys2Proof.Machine
end

section
/-! SUPPORT. The management commands, each with what it leaves. -/

namespace Sys2Proof.Machine

/-! ## Stops (R402) -/

theorem State.trace_onlyCores (s : State) (kind detail entry tag actid addr : Nat) :
    OnlyCores s (s.trace kind detail entry tag actid addr) := ⟨_, _, _, rfl⟩

theorem State.putGrant_onlyCores (s : State) (th : Thread) (r : RSpec) (x : Nat) : OnlyCores s (s.putGrant th r x).2 := by
  cases r <;> exact ⟨_, _, _, rfl⟩

theorem State.grantParked_onlyCores : ∀ (ps : List Parked) (s : State), OnlyCores s (State.grantParked ps s)
  | [], s => .refl s
  | p :: ps, s => by
    unfold State.grantParked
    split
    · exact .refl s
    · exact (s.putGrant_onlyCores p.th p.d (packGranules (s.core.freeGr.take p.n))).trans
        (OnlyCores.trans ⟨_, _, _, rfl⟩ (State.grantParked_onlyCores ps _))

theorem State.clearStop_onlyCores (s : State) : OnlyCores s s.clearStop := by
  unfold State.clearStop
  split
  · exact .refl s
  · refine OnlyCores.trans ?_ (State.grantParked_onlyCores _ _)
    dsimp only
    split
    · exact OnlyCores.trans (s.trace_onlyCores 7 0 0 0 0 0) ⟨_, _, _, rfl⟩
    · exact ⟨_, _, _, rfl⟩

/-- A core that is asked to stop. -/
def Core.askStop (c : Core) : Core := { c with stopReq := true, stalled := false }

theorem State.askStop_stopReq (s : State) (i j : Nat) (h : i = j ∨ (s.coreOf j).stopReq = true) :
    ((s.modCore i Core.askStop).coreOf j).stopReq = true := by
  by_cases e : i = j
  · subst e
    rw [s.coreOf_modCore (by exact s.coreOf_id i)]
    rfl
  · rw [s.coreOf_modCore_ne (by exact s.coreOf_id i) e]
    exact h.resolve_left e

theorem State.foldl_askStop_stopReq (j : Nat) : ∀ (cs : List Nat) (s : State), (j ∈ cs ∨ (s.coreOf j).stopReq = true) →
    ((cs.foldl (fun s i => s.modCore i Core.askStop) s).coreOf j).stopReq = true
  | [], s, h => h.resolve_left List.not_mem_nil
  | i :: cs, s, h => by
    refine State.foldl_askStop_stopReq j cs _ ?_
    rcases h with h | h
    · rcases List.mem_cons.1 h with rfl | h
      · exact .inr (s.askStop_stopReq _ _ (.inl rfl))
      · exact .inl h
    · exact .inr (s.askStop_stopReq _ _ (.inr h))

section
variable {s : State} {p : Nat} {cs : List Nat} (h : s.Idle (.partition p))
include h

theorem State.Idle.exec_stop (hc : s.coreRect p (s.arg (.partition p) 0) = some cs) :
    ∃ t, exec (.stop p) s = .next t ∧ t.Completed s (.partition p) 0 ∧ (∀ i ∈ cs, (t.coreOf i).stopReq = true) ∧
      t.mem = s.mem := by
  have only := OnlyCores.fold (fun s i => s.modCore_onlyCores i Core.askStop) cs s
  change ∃ t, execStop p s = .next t ∧ _
  refine h.command_completes (by simp only [hc]; rfl) (only.window _) ⟨fun i hi => ?_, ?_⟩
  · rw [State.coreOf_wake]
    exact State.foldl_askStop_stopReq i cs s (.inl hi)
  · exact only.mem

theorem State.Idle.exec_resume (hc : s.coreRect p (s.arg (.partition p) 0) = some cs) :
    ∃ t, exec (.resume p) s = .next t ∧ t.Completed s (.partition p) 0 := by
  change ∃ t, execResume p s = .next t ∧ _
  exact h.command_completed (by simp only [hc])
    ((OnlyCores.fold (State.onCore_onlyCores State.clearStop_onlyCores) cs s).window _)

theorem State.Idle.exec_stop_bad (hc : s.coreRect p (s.arg (.partition p) 0) = none) :
    exec (.stop p) s = .next (s.onlyResult (.partition p) 2) ∧
      exec (.resume p) s = .next (s.onlyResult (.partition p) 2) := by
  change execStop p s = _ ∧ execResume p s = _
  exact ⟨h.command_bad (by simp only [hc]), h.command_bad (by simp only [hc])⟩

end

/-- The core in focus comes to its stop with what it ran as it was. -/
theorem exec_coreStopped {s : State} (h : s.core.atStop = true) :
    ∃ t, exec (.coreStopped s.core.id) s = .next t ∧ t.core.stopped = true ∧ t.core.cur = s.core.cur := by
  have e : exec (.coreStopped s.core.id) s =
      happens ((s.onCore s.core.id (fun s => s.trace 6 0 0 0 0 0)).modCore s.core.id (fun c => { c with stopped := true })) := by
    show execCoreStopped _ _ = _
    simp [execCoreStopped, State.coreOf_focus, h]
  refine ⟨_, e, ?_⟩
  simp [State.onCore, State.refocus, State.trace, State.modCore, State.coreOf, State.putCore, State.wake]

/-! ## CORERW (R403) -/

theorem dwordsOf_getD_zero {bs : List Byte} (h : 8 ≤ bs.length) :
    (dwordsOf bs).getD 0 0 = .ofNat 64 (leNat (bs.take 8)) := by
  obtain ⟨k, hk⟩ : ∃ k, bs.length / 8 = k + 1 := ⟨bs.length / 8 - 1, by omega⟩
  have : bs.isEmpty = false := by cases bs <;> simp_all
  simp [dwordsOf, hk, chunks, this]

/-- The four dwords that CORERW returns stand in ARG d4 to d7. -/
theorem State.arg_setArgs (s : State) (p : Nat) (v : Nat → Word) (h : (s.window (.partition p)).map (·.arg.length) = some 8) :
    ((List.range 4).foldl (fun s j => s.setArg p (4 + j) (v j)) s).arg (.partition p) 4 = v 0 := by
  obtain ⟨m, hm, hl⟩ := Option.map_eq_some_iff.1 h
  have hl : m.arg.length = 8 := hl
  simp [List.range_succ, State.setArg, State.arg, State.window_modWindow, hm, hl]

theorem State.arg_result (s : State) (w : Window) (r : BitVec 8) : (s.result w r).wake.arg w = s.arg w := by
  funext j
  show ((((s.modWindow w _).window w).map _).getD 0) = _
  rw [State.window_modWindow, Option.map_map]
  rfl

/-- What CORERW names in local memory. -/
theorem State.coreRw_local {s : State} {p n : Nat} {d : Nat → Word} (hp : s.corePresent (d 0).toNat = true)
    (hq : s.partOf (d 0).toNat = some p) (hn : (d 2).toNat = n) (h1 : 1 ≤ n) (h32 : n ≤ 32) (hend : (d 1).toNat + n ≤ 0x20000) :
    s.coreRw p d = some ((d 0).toNat, .local, (d 1).toNat, n) := by
  have hr : regionOf (d 1).toNat n = some (.local, (d 1).toNat) := by
    unfold regionOf
    rw [if_neg (by omega), if_pos hend]
  simp [State.coreRw, State.ownCore, hp, hq, hn, hr]

/-- Local memory with bytes written from an address on, without poison. -/
def Core.withLocal (c : Core) (la : Nat) (bytes : List Byte) : Core :=
  { c with lm := c.lm.setBytes la bytes, lmPoison := writePoison 8 c.lmPoison la (List.replicate bytes.length false) }

theorem Core.putRegion_local (c : Core) (la : Nat) (bytes : List Byte) :
    c.putRegion .local la bytes = some (c.withLocal la bytes) := rfl

theorem State.localHolds {s t : State} {i la : Nat} {bytes : List Byte}
    (h : (t.coreOf i).lm = (s.coreOf i).lm.setBytes la bytes) : t.LocalHolds s i la bytes := by
  intro wf
  have wf : (s.coreOf i).lm.wf = true := by simp_all [Core.wf]
  refine ⟨fun j hj => ?_, fun x hx => ?_⟩ <;> rw [h, Memory.get_setBytes wf]
  · rw [if_pos ⟨by omega, by omega⟩, Nat.add_sub_cancel_left]
  · rw [if_neg (by omega)]

section
variable {s : State} {p i off n : Nat} (h : s.Idle (.partition p))
  (hd : s.coreRw p (s.arg (.partition p)) = some (i, .local, off, n))
include h hd

theorem State.Idle.exec_corerw_running (hs : (s.coreOf i).stopped = false) :
    exec (.corerwRead p) s = .next (s.onlyResult (.partition p) 1) ∧
      exec (.corerwWrite p) s = .next (s.onlyResult (.partition p) 1) := by
  change execCorerwRead p s = _ ∧ execCorerwWrite p s = _
  exact ⟨h.command_refused (by simp [hd, hs]), h.command_refused (by simp [hd, hs])⟩

theorem State.Idle.exec_corerwRead (hs : (s.coreOf i).stopped = true) (ha : s.armed = []) :
    ∃ t, exec (.corerwRead p) s = .next t ∧ ((s.window (.partition p)).map (·.arg.length) = some 8 →
      t.arg (.partition p) 4 = .ofNat 64 (leNat (((s.coreOf i).lm.bytes off n ++ List.replicate (32 - n) 0).take 8))) := by
  change ∃ t, execCorerwRead p s = .next t ∧ _
  let dws := dwordsOf ((s.coreOf i).lm.bytes off n ++ List.replicate (32 - n) 0)
  refine ⟨_, h.command_done (t := (List.range 4).foldl (fun s j => s.setArg p (4 + j) (dws.getD j 0)) s) ?_, fun hw => ?_⟩
  · simp [hd, hs, State.meetLocal, ha, Core.regionBytes, dws]
  · rw [State.arg_result, s.arg_setArgs p (fun j => dws.getD j 0) hw]
    exact dwordsOf_getD_zero (by simp [Memory.bytes_length]; omega)

theorem State.Idle.exec_corerwWrite (hs : (s.coreOf i).stopped = true) :
    ∃ t, exec (.corerwWrite p) s = .next t ∧ t.Completed s (.partition p) 0 ∧
      t.LocalHolds s i off (((List.range 4).flatMap (fun j => natLE 8 (s.arg (.partition p) (4 + j)).toNat)).take n) := by
  let bytes := ((List.range 4).flatMap (fun j => dwordBytes (s.arg (.partition p) (4 + j)))).take n
  change ∃ t, execCorerwWrite p s = .next t ∧ _
  refine h.command_completes (t := s.putCore ((s.coreOf i).withLocal off bytes)) ?_ ((s.putCore_onlyCores _).window _)
    (State.localHolds ?_)
  · simp only [hd, hs, Core.putRegion_local, bytes]
    rfl
  · rw [State.coreOf_wake]
    exact congrArg Core.lm (s.coreOf_putCore (c := (s.coreOf i).withLocal off bytes) (s.coreOf_id i))

end

/-! ## Parameters, watches, quarantine (R377, R393, R406) -/

section
variable {s : State} {p ctx : Nat} {c : Context} (h : s.Idle (.partition p)) (lo : 1 ≤ ctx) (hi : ctx ≤ 65534)
  (hc : s.ctx? ctx = some c) (hp : c.part = p)
include h lo hi hc hp

theorem State.Idle.exec_setparam_checkrate (hv : (s.arg (.partition p) 0).toNat ≤ 65536) :
    ∃ t, exec (.setparam p ctx 0 false) s = .next t ∧ t.Completed s (.partition p) 0 ∧
      t.ctx? ctx = some { c with checkrate := s.arg (.partition p) 0 } := by
  change ∃ t, execSetparam p ctx 0 false s = .next t ∧ _
  refine h.command_completes (t := s.modCtx ctx (fun _ => { c with checkrate := s.arg (.partition p) 0 })) ?_ rfl ?_
  · simp [ctxId, lo, hi, State.ctxIn, hc, hp, Context.setParam, hv]
  · have hf : s.contexts.find? (fun c => c.id == ctx) = some c := hc
    have hid : (c.id == ctx) = true := by simpa using List.find?_some hf
    exact find?_updFirst (f := fun _ => { c with checkrate := s.arg (.partition p) 0 }) hid hf

theorem State.Idle.exec_setparam_range (hv : 65536 < (s.arg (.partition p) 0).toNat) :
    exec (.setparam p ctx 0 false) s = .next (s.onlyResult (.partition p) 2) := by
  change execSetparam p ctx 0 false s = _
  exact h.command_bad (by simp [ctxId, lo, hi, State.ctxIn, hc, hp, Context.setParam, Nat.not_le.2 hv])

end

section
variable {s : State} {p : Nat} (h : s.Idle (.partition p))
include h

theorem State.Idle.exec_setparam_ramp_refused (ctx : Nat) :
    exec (.setparam p ctx 4 false) s = .next (s.onlyResult (.partition p) 1) := by
  change execSetparam p ctx 4 false s = _
  exact h.command_refused (by simp)

theorem State.Idle.exec_setparam_rampUp (ctx : Nat) (hp : p < s.partitions.length) :
    ∃ t, exec (.setparam p ctx 4 true) s = .next t ∧ t.Completed s (.partition p) 0 ∧
      (t.part p).rampUp = ((s.arg (.partition p) 0).setWidth 16).setWidth 64 := by
  change ∃ t, execSetparam p ctx 4 true s = .next t ∧ _
  refine h.command_completes rfl rfl ?_
  refine (congrArg Partition.rampUp (s.part_modPart hp _)).trans ?_
  simp [bitsAt, BitVec.toNat_eq]

theorem State.Idle.exec_watch (hi : s.ownCore p (s.arg (.partition p) 0).toNat = true)
    (hj : (s.arg (.partition p) 1).toNat < 2) (hm : bitsAt (s.arg (.partition p) 3) 4 0 ≤ 20)
    (hb : addr48 (s.arg (.partition p) 2) % (8 * 2 ^ bitsAt (s.arg (.partition p) 3) 4 0) = 0) :
    let d := s.arg (.partition p)
    let i := (d 0).toNat
    ∃ t, exec (.watch p) s = .next t ∧ t.Completed s (.partition p) 0 ∧
      ((d 1).toNat < (s.coreOf i).watch.length → (t.coreOf i).watch[(d 1).toNat]? =
        some { base := (d 2).setWidth 48, m := bitsAt (d 3) 4 0, rd := (d 4).getLsbD 0, wr := (d 4).getLsbD 1 }) := by
  intro d i
  let w : WatchCmp :=
    { base := .ofNat 48 (addr48 (d 2)), m := bitsAt (d 3) 4 0, rd := (d 4).getLsbD 0, wr := (d 4).getLsbD 1 }
  change ∃ t, execWatch p s = .next t ∧ _
  refine h.command_completes (t := s.modCore i (fun c => { c with watch := c.watch.set (d 1).toNat w })) ?_
    ((s.modCore_onlyCores _ _).window _) fun hl => ?_
  · simp only [hi, hb]
    rw [if_neg (by simp; omega)]
  · rw [State.coreOf_wake]
    refine (congrArg (fun c : Core => c.watch[(d 1).toNat]?) (s.coreOf_modCore (s.coreOf_id i))).trans ?_
    have hbase : BitVec.ofNat 48 (addr48 (d 2)) = (d 2).setWidth 48 := by simp [addr48, BitVec.toNat_eq]
    simp [hl, w, hbase]

theorem State.Idle.exec_qrelease (hi : s.ownCore p (s.arg (.partition p) 0).toNat = true)
    (hq : (s.coreOf (s.arg (.partition p) 0).toNat).quarantined = true) :
    exec (.qrelease p) s = .next (State.wake (State.result (s.modCore (s.arg (.partition p) 0).toNat
      (fun c => { c with quarantined := false, dueQ := false, suspicion := 0 })) (.partition p) 0)) := by
  change execQrelease p s = _
  exact h.command_done (by simp [hi, hq])

/-! ## Routes and windows (R367, R368) -/

theorem State.Idle.exec_route (hp : p < s.partitions.length) :
    let d := s.arg (.partition p)
    ∃ t, exec (.route p) s = .next t ∧ t.Completed s (.partition p) 0 ∧
      ∀ e, lookupD e (t.part p).routes (bitsAt (d 0) 7 0) = { valid := (d 1).getLsbD 0, device := d 2
                                                              part := bitsAt (d 3) 3 0, ports := d 5 ++ d 4
                                                              slot := bitsAt (d 6) 7 0 } := by
  intro d
  change ∃ t, execRoute p s = .next t ∧ _
  refine h.command_completes rfl rfl fun e => ?_
  refine (congrArg (fun q : Partition => lookupD e q.routes _) (s.part_modPart hp _)).trans ?_
  have hports : BitVec.ofNat 128 ((d 4).toNat + (d 5).toNat * 2 ^ 64) = d 5 ++ d 4 := by
    apply BitVec.eq_of_toNat_eq
    have h4 := (d 4).isLt
    have h5 := (d 5).isLt
    rw [BitVec.toNat_append, BitVec.toNat_ofNat, ← Nat.shiftLeft_add_eq_or_of_lt h4, Nat.shiftLeft_eq]
    omega
  exact (lookupD_assocPut ..).trans (by rw [hports])

theorem State.Idle.exec_dmawin (hp : p < s.partitions.length) :
    let d := s.arg (.partition p)
    ∃ t, exec (.dmawin p) s = .next t ∧ t.Completed s (.partition p) 0 ∧ t.part p =
      { s.part p with dma := (s.part p).dma.set (bitsAt (d 0) 2 0) { base := d 1, size := d 2, bus := d 3 } } := by
  intro d
  change ∃ t, execDmawin p s = .next t ∧ _
  exact h.command_completes rfl rfl (s.part_modPart hp _)

end

/-! ## Allotment (R19, R372, R374) -/

/-- Measuring a layout leaves all but the measurement registers. -/
theorem State.relaid_eq (s t : State) : s.relaid t = { t with mr := (s.relaid t).mr } := by
  unfold State.relaid
  split <;> rfl

/-- A layout that differs is measured with its digest (Table 21.1). -/
theorem State.relaid_mr {s t : State}
    (h : s.partitions.map (fun p => (p.first, p.across, p.rows)) ≠ t.partitions.map (fun p => (p.first, p.across, p.rows)) ∨
      s.ports.map (·.owner) ≠ t.ports.map (·.owner)) :
    (s.relaid t).mr = modifyAt (fun m => extended m t.layoutDigest) t.mr 3 := by
  unfold State.relaid
  rw [if_neg (by tauto)]
  rfl

theorem State.relaid_self (s : State) : s.relaid s = s := if_pos ⟨rfl, rfl, rfl, rfl⟩

theorem State.layoutDigest_relaid (s t : State) : (s.relaid t).layoutDigest = t.layoutDigest := by
  rw [State.relaid_eq]
  rfl

theorem State.relaid_window (s t : State) (w : Window) : (s.relaid t).window w = t.window w := by
  rw [State.relaid_eq]
  rfl

/-- Whether a port's new owner changes the layout. -/
theorem ports_owner_ne {ports : List Port} {n : Nat} {q : Port} {o : Option Nat} (hq : ports[n]? = some q) (h : q.owner ≠ o) :
    ports.map (·.owner) ≠ (modifyAt (fun q => { q with owner := o }) ports n).map (·.owner) := by
  intro e
  have := congrArg (·[n]?) e
  simp [modifyAt_getElem?_self, hq] at this
  exact h this

/-- A partition without columns or rows owns no granule. -/
theorem Partition.owns_empty {q : Partition} (hq : q.across = 0 ∨ q.rows = 0) (g : Nat) : q.owns g = false := by
  simp only [Partition.owns, decide_eq_false_iff_not]
  omega

section
variable {s : State} (h : s.Idle .device)
include h

theorem State.Idle.exec_allot_port {q : Port} (h1 : s.arg .device 1 = 0)
    (hq : s.ports[(s.arg .device 2).toNat]? = some q)
    (hs : ∀ c ∈ s.contexts, (c.part = bitsAt (s.arg .device 0) 3 0 ∨ some c.part = q.owner) → c.st = .saved) :
    let d := s.arg .device
    let p := bitsAt (d 0) 3 0
    ∃ t, exec .allot s = .next t ∧ t.Completed s .device 0 ∧ t.ports[(d 2).toNat]? = some { q with owner := some p } ∧
      t.mr = if q.owner = some p then s.mr else modifyAt (fun m => extended m t.layoutDigest) s.mr 3 := by
  intro d p
  let new : State := { s with ports := modifyAt (fun q => { q with owner := some p }) s.ports (d 2).toNat }
  have saved : s.allSaved p = true := by
    simp only [State.allSaved, List.all_eq_true]
    intro c hc
    by_cases e : c.part = p
    · simp [hs c hc (.inl e)]
    · simp [e]
  have owners : (q.owner.map s.allSaved).getD true = true := by
    cases ho : q.owner with
    | none => rfl
    | some o =>
      simp only [Option.map_some, Option.getD_some, State.allSaved, List.all_eq_true]
      intro c hc
      by_cases e : c.part = o
      · simp [hs c hc (.inr (by rw [ho, e]))]
      · simp [e]
  change ∃ t, execAllot s = .next t ∧ _
  refine h.command_completes (t := s.relaid new) ?_ (s.relaid_window new _) ⟨?_, ?_⟩
  · have answer : s.allotPort p (some q) new = .done (s.relaid new) := if_pos (by simp [saved, owners])
    rw [← answer, ← hq]
    simp only [h1]
    rfl
  · change (s.relaid new).ports[(d 2).toNat]? = _
    rw [State.relaid_eq]
    exact (modifyAt_getElem?_self _ _ _).trans (by rw [hq]; rfl)
  · change (s.relaid new).mr = if _ then _ else modifyAt (fun m => extended m (s.relaid new).layoutDigest) s.mr 3
    rw [State.layoutDigest_relaid]
    split
    · next ho =>
      have same : modifyAt (fun q : Port => { q with owner := some p }) s.ports (d 2).toNat = s.ports :=
        modifyAt_eq_self (by rw [← ho]) hq
      simp only [new, same, State.relaid_self]
    · next ho => exact State.relaid_mr (.inr (ports_owner_ne hq ho))

theorem State.Idle.exec_allot_refused {q : Port} (h1 : s.arg .device 1 = 0)
    (hq : s.ports[(s.arg .device 2).toNat]? = some q)
    (hs : ∃ c ∈ s.contexts, c.part = bitsAt (s.arg .device 0) 3 0 ∧ c.st ≠ .saved) :
    exec .allot s = .next (s.onlyResult .device 1) := by
  obtain ⟨c, hc, hp, hst⟩ := hs
  have : s.allSaved (bitsAt (s.arg .device 0) 3 0) = false := by
    simp only [State.allSaved, List.all_eq_false]
    exact ⟨c, hc, by simp [hp, hst]⟩
  have answer (t : State) : s.allotPort (bitsAt (s.arg .device 0) 3 0) (some q) t = .refused := if_neg (by simp [this])
  change execAllot s = _
  refine h.command_refused ?_
  rw [← answer, ← hq]
  simp only [h1]
  rfl

theorem State.Idle.exec_rect
    (hx : bitsAt (s.arg .device 1) 3 0 % 8 + bitsAt (s.arg .device 2) 3 0 ≤ 8)
    (hy : bitsAt (s.arg .device 1) 3 0 / 8 + bitsAt (s.arg .device 3) 1 0 ≤ 2)
    (hr : s.running (bitsAt (s.arg .device 0) 3 0) = false)
    (ho : ∀ i q, s.partitions[i]? = some q → i ≠ bitsAt (s.arg .device 0) 3 0 → q.across = 0 ∨ q.rows = 0) :
    let d := s.arg .device
    let p := bitsAt (d 0) 3 0
    ∃ t, exec .rect s = .next t ∧ t.Completed s .device 0 ∧ (p < s.partitions.length → t.part p =
      { s.part p with first := bitsAt (d 1) 3 0, across := bitsAt (d 2) 3 0, rows := bitsAt (d 3) 1 0 }) ∧
      ((t.part p).first ≠ (s.part p).first → p < s.partitions.length →
        t.mr = modifyAt (fun m => extended m t.layoutDigest) s.mr 3) := by
  intro d p
  let f (q : Partition) : Partition :=
    { q with first := bitsAt (d 1) 3 0, across := bitsAt (d 2) 3 0, rows := bitsAt (d 3) 1 0 }
  let new := s.modPart p f
  have part (hp : p < s.partitions.length) : (s.relaid new).part p = f (s.part p) := by
    rw [State.relaid_eq]
    exact s.part_modPart hp f
  have free : s.partitions.zipIdx.any (fun (q, i) => i != p && ((List.range 16).filter (f .reset).owns).any q.owns) = false := by
    simp only [List.any_eq_false, Prod.forall, List.mem_zipIdx_iff_getElem?]
    intro q i hq
    by_cases e : i = p
    · simp [e]
    · simp [funext (Partition.owns_empty (ho i q hq e))]
  change ∃ t, execRect s = .next t ∧ _
  refine h.command_completes (t := s.relaid new) ?_ (s.relaid_window new _) ⟨part, fun hne hp => ?_⟩
  · show (if _ then _ else if _ then _ else _) = _
    rw [if_neg (by simp only [not_or]; omega), if_neg (by rw [hr]; exact Bool.eq_false_iff.1 free)]
  · change (s.relaid new).mr = modifyAt (fun m => extended m (s.relaid new).layoutDigest) s.mr 3
    rw [State.layoutDigest_relaid]
    refine State.relaid_mr (.inl fun e => hne ?_)
    have layout := congrArg (·[p]?) e
    simp only [new, State.modPart, List.getElem?_map, modifyAt_getElem?_self, List.getElem?_eq_getElem hp, Option.map_some,
      Option.some.injEq, Prod.mk.injEq] at layout
    have hpart : s.part p = s.partitions[p] := by simp [State.part, hp]
    rw [hpart]
    exact (congrArg Partition.first (part hp)).trans layout.1.symm

theorem State.Idle.exec_rect_refused
    (hx : bitsAt (s.arg .device 1) 3 0 % 8 + bitsAt (s.arg .device 2) 3 0 ≤ 8)
    (hy : bitsAt (s.arg .device 1) 3 0 / 8 + bitsAt (s.arg .device 3) 1 0 ≤ 2)
    (hr : s.running (bitsAt (s.arg .device 0) 3 0) = true) : exec .rect s = .next (s.onlyResult .device 1) := by
  change execRect s = _
  refine h.command_refused ?_
  show (if _ then _ else if _ then _ else _) = _
  rw [if_neg (by simp only [not_or]; omega), if_pos (by rw [hr]; rfl)]

/-! ## Ports (R27, R371) -/

theorem State.Idle.portctl {id : PortId} {q : Port} (hq : s.port? id = some q) (ok : Port → Bool) (st : PortSt) :
    s.portctl id ok st = if ok q then
      .next (State.wake (State.result (s.modPort id (fun q => { q with st := st, replays := 0 })) .device 0))
    else .next (s.onlyResult .device 1) := by
  unfold State.portctl
  split
  · next hok => exact h.command_done (by simp [hq, hok])
  · next hok => exact h.command_refused (by simp [hq, hok])

theorem State.Idle.exec_portctl {id : PortId} {q : Port} (hq : s.port? id = some q) (hd : s.portDead id = false) :
    let move (st : PortSt) := State.wake (State.result (s.modPort id (fun q => { q with st := st, replays := 0 })) .device 0)
    (q.st ≠ .quarantined → exec (.portctlDisable id) s = .next (move .down)) ∧
    (q.st = .down → exec (.portctlEnable id) s = .next (move .training)) ∧
    exec (.portctlQuarantine id) s = .next (move .quarantined) ∧
    (q.st = .quarantined → exec (.portctlRelease id) s = .next (move .down)) ∧
    (q.st ≠ .quarantined → exec (.portctlRelease id) s = .next (s.onlyResult .device 1)) := by
  refine ⟨fun hs => ?_, fun hs => ?_, ?_, fun hs => ?_, fun hs => ?_⟩
  · exact (h.portctl hq _ _).trans (if_pos (by simp [hs]))
  · exact (h.portctl hq _ _).trans (if_pos (by simp [hs, hd]))
  · exact (h.portctl hq _ _).trans (if_pos (by simp [hd]))
  · exact (h.portctl hq _ _).trans (if_pos (by simp [hs]))
  · exact (h.portctl hq _ _).trans (if_neg (by simp [hs]))

end

/-! ## The windows' other registers (R376) -/

theorem exec_mgmtRegisterWrite_arg {s : State} {w : Window} {j : Nat} (v : Word) (h : s.window w ≠ none) (hj : j < 8) :
    exec (.mgmtRegisterWrite w (0x40 + 8 * j) v) s =
      .next (State.wake (s.modWindow w (fun m => { m with arg := m.arg.set j v }))) := by
  have hw : (s.window w).isNone = false := by rwa [Option.isNone_eq_false_iff, Option.isSome_iff_ne_none]
  have hj' : (0x40 + 8 * j - 0x40) / 8 = j := by omega
  change execMgmtRegisterWrite w (0x40 + 8 * j) v s = _
  unfold execMgmtRegisterWrite
  rw [hw, if_neg (by decide), if_pos (by omega), hj']
  rfl

theorem exec_mgmtRegisterWrite_mfqLog {s : State} (v : Word) (h : s.window .device ≠ none) :
    exec (.mgmtRegisterWrite .device 0x118 v) s =
      .next (State.wake { s with mfqLog := (v.setWidth 5).setWidth 64 }) := by
  have hw : (s.window .device).isNone = false := by rwa [Option.isNone_eq_false_iff, Option.isSome_iff_ne_none]
  have hv : BitVec.ofNat 64 (bitsAt v 4 0) = (v.setWidth 5).setWidth 64 := by simp [bitsAt, BitVec.toNat_eq]
  change execMgmtRegisterWrite .device 0x118 v s = _
  unfold execMgmtRegisterWrite
  rw [hw, ← hv]
  rfl

section
variable {s : State} {w : Window} {m : MgmtWin} (h : s.window w = some m)
include h

theorem State.windowRead_status :
    s.windowRead w 8 = some (.ofNat 64 ((if m.busy = true then 1 else 0) + m.result.toNat * 256)) := by
  simp [State.windowRead, h]

theorem State.windowRead_arg {j : Nat} (hj : j < 8) : s.windowRead w (0x40 + 8 * j) = m.arg[j]? := by
  have hj' : (0x40 + 8 * j - 0x40) / 8 = j := by omega
  simp only [State.windowRead, h]
  rw [if_neg (by omega), if_pos (by omega), hj']

theorem exec_cmdWriteRejected_busy {cmd : Nat} (hb : m.busy = true) : exec (.cmdWriteRejected w cmd) s =
    .next (State.wake (s.modWindow w (fun m => { m with result := 3 }))) := by
  change execCmdWriteRejected w cmd s = _
  simp only [execCmdWriteRejected, h, hb]
  rfl

theorem exec_cmdWriteRejected_unknown {cmd : Nat} (hb : m.busy = false)
    (hc : 0x22 < cmd % 2 ^ 8 ∨ (cmd % 2 ^ 8 = 0x0A ∧ 1 < cmd / 2 ^ 32) ∨ (cmd % 2 ^ 8 = 0x22 ∧ 3 < (s.arg w 0).toNat)) :
    exec (.cmdWriteRejected w cmd) s = .next (s.onlyResult w 2) := by
  have harg : m.arg.getD 0 0 = s.arg w 0 := congrFun (State.arg_of_window h) 0
  have known : m.names w cmd = false := by
    cases w <;> simp only [MgmtWin.names, harg, Bool.and_eq_false_iff, decide_eq_false_iff_not, Bool.or_eq_false_iff,
      bne_eq_false_iff_eq] <;> omega
  change execCmdWriteRejected w cmd s = _
  simp only [execCmdWriteRejected, h, hb, known]
  rfl

end

end Sys2Proof.Machine

open Sys2Proof Sys2Proof.Machine

/-- Settles O59: the commands one by one. -/
theorem managementCommands : Obligations.ManagementCommands := by
  unfold Obligations.ManagementCommands
  refine ⟨fun s p cs h hc => ⟨h.exec_stop hc, h.exec_resume hc⟩, fun s p h hc => h.exec_stop_bad hc,
    fun s h => exec_coreStopped h, ?corerw, ?setparam, ?watch, fun s p h hp => ⟨h.exec_route hp, h.exec_dmawin hp⟩,
    fun s q h h1 hq => ⟨h.exec_allot_port h1 hq, h.exec_allot_refused h1 hq⟩,
    fun s h => ⟨h.exec_rect, h.exec_rect_refused⟩, fun s id q h hq hd => h.exec_portctl hq hd,
    fun s w v j hw hj => ⟨exec_mgmtRegisterWrite_arg v hw hj, exec_mgmtRegisterWrite_mfqLog v⟩,
    fun s w m cmd h => ⟨State.windowRead_status h, fun j hj => State.windowRead_arg h hj, exec_cmdWriteRejected_busy h,
      exec_cmdWriteRejected_unknown h⟩⟩
  case corerw =>
    rintro s p off n h d i hi hp rfl hn h1 h32 hend
    have hd := State.coreRw_local hi hp hn h1 h32 hend
    exact ⟨h.exec_corerw_running hd, fun hs ha => ⟨h.exec_corerwRead hd hs ha, h.exec_corerwWrite hd hs⟩⟩
  case setparam =>
    intro s p ctx c h lo hi hc hp v
    exact ⟨h.exec_setparam_checkrate lo hi hc hp, h.exec_setparam_range lo hi hc hp, h.exec_setparam_ramp_refused ctx,
      h.exec_setparam_rampUp ctx⟩
  case watch =>
    intro s p h d i hi hp
    have own : s.ownCore p i = true := by simp [State.ownCore, hi, hp]
    exact ⟨h.exec_watch own, h.exec_qrelease own⟩
end

section
/-! SUPPORT. The host's accesses, and what direct writes and reads of an agent that allocates nothing change. -/

namespace Sys2Proof.Machine

/-! ## Sets -/

namespace NatSet

theorem mem_foldl_ins {z : Nat} : ∀ {l : List Nat} {s : NatSet}, z ∈ l.foldl NatSet.ins s ↔ z ∈ l ∨ z ∈ s
  | [], s => by simp
  | x :: l, s => by
    rw [List.foldl_cons, mem_foldl_ins, mem_ins, List.mem_cons]
    tauto

theorem mem_foldl_del {z : Nat} : ∀ {l : List Nat} {s : NatSet}, NatSet.wf s = true →
    (z ∈ l.foldl NatSet.del s ↔ z ∉ l ∧ z ∈ s)
  | [], s, _ => by simp
  | x :: l, s, h => by
    rw [List.foldl_cons, mem_foldl_del (wf_del h x), mem_del_iff h, List.mem_cons]
    tauto

theorem has_foldl_ins {l : List Nat} {s : NatSet} {z : Nat} (h : NatSet.wf s = true) (hz : z ∈ l) :
    NatSet.has (l.foldl NatSet.ins s) z = true :=
  (has_iff (wf_foldl (fun _ a hs => wf_ins hs a) h) z).2 (mem_foldl_ins.2 (.inl hz))

theorem has_foldl_del {l : List Nat} {s : NatSet} {z : Nat} (h : NatSet.wf s = true) (hz : z ∈ l) :
    NatSet.has (l.foldl NatSet.del s) z = false := by
  rw [Bool.eq_false_iff, ne_eq, has_iff (wf_foldl (fun _ a hs => wf_del hs a) h), mem_foldl_del h]
  exact fun k => k.1 hz

end NatSet

/-- The units that a run of bytes touches are those of its bytes. -/
theorem mem_unitsOf {u a n x : Nat} (lo : a ≤ x) (hi : x < a + n) : x / u ∈ unitsOf u a n := by
  have h1 : a / u ≤ x / u := Nat.div_le_div_right lo
  have h2 : x / u ≤ (a + n - 1) / u := Nat.div_le_div_right (by omega)
  unfold unitsOf
  rw [if_neg (by omega), List.mem_map]
  exact ⟨x / u - a / u, List.mem_range.2 (by omega), by omega⟩

/-! ## What reaching the slices leaves -/

/-- Two states agree in the full bits of queue slots and in who waits for a word. -/
def SameSlots (s t : State) : Prop := t.fullSlots = s.fullSlots ∧ t.ldsWait = s.ldsWait

theorem SameSlots.refl (s : State) : SameSlots s s := ⟨rfl, rfl⟩

theorem SameSlots.trans {s t u : State} (h : SameSlots s t) (k : SameSlots t u) : SameSlots s u :=
  ⟨k.1.trans h.1, k.2.trans h.2⟩

theorem SameSlots.fold {α : Type} {f : State → α → State} (hf : ∀ s a, SameSlots s (f s a)) :
    ∀ (l : List α) (s : State), SameSlots s (l.foldl f s)
  | [], s => .refl s
  | a :: l, s => (hf s a).trans (SameSlots.fold hf l _)

theorem State.countCorrected_slots (s : State) (p : Nat) : SameSlots s (s.countCorrected p) := by
  unfold State.countCorrected
  dsimp only
  split <;> exact ⟨rfl, rfl⟩

theorem State.disarm_slots (s : State) (unit : Nat) (t : Target) : SameSlots s (s.disarm unit t).2 := by
  unfold State.disarm
  split <;> exact ⟨rfl, rfl⟩

theorem State.damage_slots (s : State) (u : Nat) : SameSlots s (s.damage u) := by
  constructor <;> dsimp only [State.damage, State.takeFree]

/-- A record takes the next place of the management fault queue: memory at its slot, and the queue's own numbers. -/
theorem State.recordMgmt_eq (s : State) (r : Rec) : ∃ mem pois, s.recordMgmt r = { s with
    mem := mem, memPoison := pois, mfqTail := s.mfqTail + 1, mfqLost := 0, mfqPending := s.mfqPending ++ [s.mfqTail + 1] } := by
  simp only [State.recordMgmt, State.putBytes]
  exact ⟨_, _, rfl⟩

theorem State.recordMgmt_slots (s : State) (r : Rec) : SameSlots s (s.recordMgmt r) := by
  obtain ⟨_, _, e⟩ := s.recordMgmt_eq r
  rw [e]
  exact ⟨rfl, rfl⟩

theorem State.leaveGranule_slots (x : CacheLine) (p : Nat) (bad : Bool) (s : State) (u : Nat) :
    SameSlots s (State.leaveGranule x p (bad, s) u).2 := by
  have met := s.disarm_slots 1 (.phys (16 * u))
  unfold State.leaveGranule
  rcases hd : s.disarm 1 (.phys (16 * u)) with ⟨_ | kind, t⟩ <;> rw [hd] at met <;> refine met.trans ?_
  · simp only [hd]
    exact .refl t
  · match kind with
    | 0 =>
      simp only [hd]
      split
      · exact t.countCorrected_slots p
      · exact .refl t
    | 1 =>
      simp only [hd]
      split
      · exact t.damage_slots u
      · exact .refl t
    | k + 2 =>
      simp only [hd]
      split <;> exact ⟨rfl, rfl⟩

theorem State.foldl_leaveGranule_slots (x : CacheLine) (p : Nat) : ∀ (l : List Nat) (acc : Bool × State),
    SameSlots acc.2 (l.foldl (State.leaveGranule x p) acc).2
  | [], acc => .refl acc.2
  | u :: l, acc => (State.leaveGranule_slots x p acc.1 acc.2 u).trans (State.foldl_leaveGranule_slots x p l _)

theorem State.evict_slots (s : State) (x : CacheLine) : SameSlots s (s.evict x) := by
  have leave (t : State) (b : Bool) : SameSlots t (if t.armed.isEmpty then (b, t)
      else ((List.range 8).map (8 * x.line + ·)).foldl (State.leaveGranule x (keyPart (128 * x.line))) (b, t)).2 := by
    split
    · exact .refl t
    · exact State.foldl_leaveGranule_slots x _ _ (b, t)
  unfold State.evict
  extract_lets p pa under s1 found
  refine SameSlots.trans (t := s1) ⟨rfl, rfl⟩ ?_
  have left := leave s1 found
  split
  next bad t e =>
    rw [e] at left
    refine left.trans ?_
    split
    · exact .refl t
    · exact SameSlots.trans (t := t.takeFree.2) ⟨rfl, rfl⟩ (State.recordMgmt_slots _ _)

theorem State.makeRoom_slots (s : State) (line : Nat) (tag way : Bool) : SameSlots s (s.makeRoom line tag way) := by
  unfold State.makeRoom
  split
  · exact .refl s
  · dsimp only
    split
    · split
      · exact .refl s
      · exact s.evict_slots _
    · exact .refl s

theorem State.putLine_slots (s : State) (use : LineUse) (x : CacheLine) : SameSlots s (s.putLine use x) := by
  unfold State.putLine
  dsimp only
  split <;> exact ⟨rfl, rfl⟩

theorem State.hitLine_slots (s : State) (use : LineUse) (x : CacheLine) (zeros : Bool) (covered : List Nat) :
    SameSlots s (s.hitLine use x zeros covered) := by
  unfold State.hitLine
  dsimp only
  split
  · exact (s.makeRoom_slots _ _ _).trans (State.putLine_slots _ _ _)
  · exact s.putLine_slots _ _

/-- A write that allocates nothing leaves full bits and waiting requests alone. -/
theorem State.directWrite_slots (s : State) (key : Nat) (bytes : List Byte) : SameSlots s (s.directWrite key bytes) := by
  refine SameSlots.trans (SameSlots.fold (fun s l => ?_) _ s) ⟨rfl, rfl⟩
  split
  · exact .refl s
  · exact s.hitLine_slots _ _ _ _

/-! ## Direct writes and reads of memory (R147) -/

/-- Bytes written to a memory read back. -/
theorem State.memHolds {s t : State} {key : Nat} {bytes : List Byte}
    (h : s.NoErrors → t.mem = s.mem.setBytes key bytes) : t.MemHolds s key bytes := by
  intro wf ok
  have wf : s.mem.wf = true := wf
  refine ⟨fun j hj => ?_, fun x hx => ?_⟩ <;> rw [h ok, Memory.get_setBytes wf]
  · rw [if_pos ⟨by omega, by omega⟩, Nat.add_sub_cancel_left]
  · rw [if_neg (by omega)]

theorem State.NoErrors.directWrite_mem {s : State} (h : s.NoErrors) (key : Nat) (bytes : List Byte) :
    (s.directWrite key bytes).mem = s.mem.setBytes key bytes := by
  obtain ⟨ls, e, -⟩ := h.hitLines key bytes (List.replicate bytes.length false)
  simp [State.directWrite, State.putBytes, e]

/-- A word nobody waits for is set full, and nothing else happens. -/
theorem State.fill_slot {s : State} (h : s.ldsWait = []) (u : Nat) :
    s.fill (.phys (64 * u)) = { s with fullSlots := NatSet.ins s.fullSlots u } := by
  simp [State.fill, State.putFull, h, State.serveWaiters, NatSet.put]

theorem State.foldl_fill_slots : ∀ (us : List Nat) {s : State}, s.ldsWait = [] →
    us.foldl (fun s u => s.fill (.phys (64 * u))) s = { s with fullSlots := us.foldl NatSet.ins s.fullSlots }
  | [], _, _ => rfl
  | u :: us, s, h => by
    rw [List.foldl_cons, State.fill_slot h]
    exact State.foldl_fill_slots us h

/-- The slots that a run of bytes covers whole. -/
def slotsWithin (key n : Nat) : List Nat :=
  (unitsOf 64 key n).filter (fun u => decide (key ≤ 64 * u ∧ 64 * u + 64 ≤ key + n))

theorem mem_slotsWithin {key n u : Nat} (lo : key ≤ 64 * u) (hi : 64 * u + 64 ≤ key + n) : u ∈ slotsWithin key n := by
  have := mem_unitsOf (u := 64) lo (show 64 * u < key + n by omega)
  rw [Nat.mul_div_cancel_left u (by decide)] at this
  simpa [slotsWithin, lo, hi] using this

/-- A write from outside, while nobody waits for a word: a direct write, and the slots it covers whole are full. -/
theorem State.outsideWrite_eq {s : State} (h : s.ldsWait = []) (p pa : Nat) (bytes : List Byte) :
    s.outsideWrite p pa bytes = { s.directWrite (physKey p pa) bytes with
      fullSlots := (slotsWithin (physKey p pa) bytes.length).foldl NatSet.ins s.fullSlots } := by
  obtain ⟨full, waits⟩ := s.directWrite_slots (physKey p pa) bytes
  rw [← full]
  exact State.foldl_fill_slots _ (waits.trans h)

/-- A read that allocates nothing uses the lines it meets, and changes nothing else. -/
theorem State.readLines_bypass (s : State) (key n : Nat) : ∃ ls, s.readLines .bypass key n = { s with lines := ls } := by
  have one (s : State) (l : Nat) : ∃ ls, State.readLine .bypass s l = { s with lines := ls } := by
    unfold State.readLine
    split <;> exact ⟨_, rfl⟩
  have all : ∀ (us : List Nat) (s : State), ∃ ls, us.foldl (State.readLine .bypass) s = { s with lines := ls } := by
    intro us
    induction us with
    | nil => exact fun s => ⟨_, rfl⟩
    | cons u us ih =>
      intro s
      obtain ⟨ls, e⟩ := one s u
      obtain ⟨ms, e'⟩ := ih (State.readLine .bypass s u)
      exact ⟨ms, by rw [List.foldl_cons, e', e]⟩
  unfold State.readLines
  split
  · exact all _ s
  · exact ⟨_, rfl⟩

/-- While no error is armed, a reader that allocates nothing gets the bytes as they stand (R150). -/
theorem State.readPhys_eq {s : State} (h : s.armed = []) (p key n : Nat) :
    ∃ ls, s.readPhys p key n = (s.memBytes key n, { s with lines := ls }) := by
  obtain ⟨ls, e⟩ := s.readLines_bypass key n
  refine ⟨ls, ?_⟩
  simp [State.readPhys, State.meetPhys, e, h, State.memBytes, State.seeByte]

/-! ## The host (R364 to R366, R443) -/

/-- A dropped access leaves a record in the management fault queue and a count with the hypervisor. -/
theorem State.hostRecord_eq (s : State) (part requester cause detail : Nat) :
    ∃ mem pois, s.hostRecord part requester cause detail = { s with
      mem := mem, memPoison := pois, hypShared := s.hypShared + 1, mfqTail := s.mfqTail + 1, mfqLost := 0
      mfqPending := s.mfqPending ++ [s.mfqTail + 1] } := by
  unfold State.hostRecord
  extract_lets ctx
  exact s.countShared.recordMgmt_eq _

/-- The high half of a counter reads as the latch (R347). -/
theorem State.bar0Read_latch {s : State} {p : Nat} (hs : s.powered = true) :
    s.bar0Read p 0x1004 = some (lookupD 0 s.latches p) := by simp [State.bar0Read, hs]

/-- Counter 0 of every function is the time (R346). -/
theorem State.vfCounter_zero (s : State) (p : Nat) : s.vfCounter p 0 = s.ts.toNat := by
  unfold State.vfCounter
  split <;> rfl

section
variable {s : State} {p : Nat} (hs : s.powered = true) (hp : p < 16)
include hs hp

/-- A function of a powered device answers (R415). -/
theorem State.answersTo : (decide (16 ≤ p) || !s.powered) = false := by simp [hs, hp]

theorem exec_takeWindowRead_token {h : Nat} {c : Counter} (req : Nat) (hh : h < 0x400)
    (hc : s.takeCounter p h = some c) (hf : c.failed = false) :
    exec (.takeWindowRead p req (8 * h) 8) s = .next (State.wake { s with
      uid := s.uid + 1
      takes := s.takes ++ [{ uid := s.uid, part := p, requester := req, handle := h }]
      tokens := s.tokens ++ [{ uid := s.uid, ctx := c.ctx, net := .counter h, anti := false, layer := 0
                               wire := req % 2 ^ c.logw, core := none, act := 0, ret := true, taint := false
                               requester := req, waiting := false }] }) := by
  have hdiv : 8 * h / 8 = h := by omega
  change execTakeWindowRead p req (8 * h) 8 s = _
  unfold execTakeWindowRead
  rw [State.answersTo hs hp, if_neg (by decide), if_neg (by omega), if_neg (by omega), hdiv]
  simp only [State.takeRead, hc, hf]
  rfl

theorem exec_takeWindowRead_ones {off size : Nat} (req : Nat) (ho : off < 0x2000)
    (h : size ≠ 8 ∨ off % 8 ≠ 0 ∨ s.takeCounter p (off / 8) = none) :
    exec (.takeWindowRead p req off size) s = .next (s.answers (.allOnes req)) := by
  change execTakeWindowRead p req off size s = _
  unfold execTakeWindowRead
  rw [State.answersTo hs hp, if_neg (by decide), if_neg (by omega)]
  split
  · rfl
  · next hn =>
    have hc : s.takeCounter p (off / 8) = none := by tauto
    simp only [State.takeRead, hc]
    rfl

theorem exec_takeWindow_unsupported {off : Nat} (req size : Nat) (ho : 0x2000 ≤ off) :
    exec (.takeWindowRead p req off size) s = .next (s.answers (.unsupported p)) ∧
      exec (.takeWindowWrite p req off) s = .next (s.answers (.unsupported p)) := by
  change execTakeWindowRead p req off size s = _ ∧ execTakeWindowWrite p req off s = _
  unfold execTakeWindowRead execTakeWindowWrite
  rw [State.answersTo hs hp, if_neg (by decide), if_pos ho, if_neg (by decide), if_pos ho]
  exact ⟨rfl, rfl⟩

theorem exec_takeWindowWrite {off : Nat} (req : Nat) (ho : off < 0x2000) :
    ∃ t, exec (.takeWindowWrite p req off) s = .next t ∧
      t.mfqTail = s.mfqTail + 1 ∧ t.hypShared = s.hypShared + 1 ∧ t.tokens = s.tokens ∧ t.counters = s.counters := by
  obtain ⟨_, _, e⟩ := s.hostRecord_eq p req 1 (off / 8)
  change ∃ t, execTakeWindowWrite p req off s = .next t ∧ _
  unfold execTakeWindowWrite State.takeWrite
  rw [State.answersTo hs hp, if_neg (by decide), if_neg (by omega), e]
  exact ⟨_, rfl, rfl, rfl, rfl, rfl⟩

theorem exec_hostActiveMessage_delivered {bs : List Byte} (req : Nat) (hb : s.hostMsgBad p bs = none)
    (room : ((s.coreOf (hostMsg bs).dst).inBuf (hostMsg bs).hi).length < 8) :
    exec (.hostActiveMessage p req bs) s = .next (State.wake (State.drainIn
      (s.modCore (hostMsg bs).dst (fun c => if (hostMsg bs).hi then { c with inHi := c.inHi ++ [hostMsg bs] }
        else { c with inLo := c.inLo ++ [hostMsg bs] })) (hostMsg bs).dst)) := by
  change execHostActiveMessage p req bs s = _
  unfold execHostActiveMessage
  rw [State.answersTo hs hp, if_neg (by decide), hb]
  exact if_neg (by omega)

theorem exec_hostActiveMessage_dropped {bs : List Byte} {cause detail : Nat} (req : Nat)
    (hb : s.hostMsgBad p bs = some (cause, detail)) :
    ∃ t, exec (.hostActiveMessage p req bs) s = .next t ∧ t.mfqTail = s.mfqTail + 1 ∧ t.hypShared = s.hypShared + 1 ∧
      t.core = { s.core with stalled := false, bufStalled := false } := by
  obtain ⟨_, _, e⟩ := s.hostRecord_eq p req cause detail
  change ∃ t, execHostActiveMessage p req bs s = .next t ∧ _
  unfold execHostActiveMessage
  rw [State.answersTo hs hp, if_neg (by decide), hb]
  dsimp only
  rw [e]
  exact ⟨_, rfl, rfl, rfl, rfl⟩

theorem exec_hostPostedWrite {pa : Nat} {bs : List Byte} (req : Nat) (hm : pa + bs.length ≤ s.mainBytes p)
    (hw : s.ldsWait = []) :
    ∃ t, exec (.hostPostedWrite p req pa bs) s = .next t ∧
      t.MemHolds s (physKey p pa) bs ∧ (NatSet.wf s.fullSlots = true → ∀ u, physKey p pa ≤ 64 * u →
        64 * u + 64 ≤ physKey p pa + bs.length → t.isFull (.phys (64 * u)) = true) := by
  change ∃ t, execHostPostedWrite p req pa bs s = .next t ∧ _
  unfold execHostPostedWrite
  rw [State.answersTo hs hp, if_neg (by decide), if_neg (by omega), State.outsideWrite_eq hw]
  refine ⟨_, rfl, State.memHolds fun ok => ok.directWrite_mem _ _, fun wf u lo hi => ?_⟩
  have slot : 64 * u / 64 = u := by omega
  show NatSet.has _ (64 * u / 64) = true
  rw [slot]
  exact NatSet.has_foldl_ins wf (mem_slotsWithin lo hi)

theorem exec_hostPostedWrite_unsupported {pa : Nat} {bs : List Byte} (req : Nat) (hm : s.mainBytes p < pa + bs.length) :
    exec (.hostPostedWrite p req pa bs) s = .next (s.answers (.unsupported p)) := by
  change execHostPostedWrite p req pa bs s = _
  unfold execHostPostedWrite
  rw [State.answersTo hs hp, if_neg (by decide), if_pos hm]
  rfl

theorem exec_unsupportedRequest {o : Nat}
    (ho : 2112 ≤ o ∧ o < 0x1000 ∨ 0x1048 ≤ o ∧ o < 0x2000 ∨ 0x2020 ≤ o) :
    exec (.unsupportedRequest p o) s = .next (s.answers (.unsupported p)) := by
  have listed : barListed o = false := by
    simp only [barListed, Bool.or_eq_false_iff, decide_eq_false_iff_not]
    omega
  change execUnsupportedRequest p o s = _
  unfold execUnsupportedRequest
  rw [State.answersTo hs hp, listed]
  rfl

theorem exec_counterLowRead_zero : ∃ t, exec (.counterLowRead p 0) s = .next t ∧
    t.hostOut = s.hostOut ++ [.counterLow p (s.ts.setWidth 32)] ∧
    t.bar0Read p 0x1004 = some ((s.ts >>> 32).setWidth 32) := by
  have low : BitVec.ofNat 32 s.ts.toNat = s.ts.setWidth 32 := rfl
  have high : BitVec.ofNat 32 (s.ts.toNat / 2 ^ 32) = (s.ts >>> 32).setWidth 32 := by
    simp [BitVec.toNat_eq, Nat.shiftRight_eq_div_pow]
  change ∃ t, execCounterLowRead p 0 s = .next t ∧ _
  unfold execCounterLowRead
  rw [State.answersTo hs hp, State.vfCounter_zero]
  dsimp only
  rw [low, high]
  refine ⟨_, rfl, rfl, ?_⟩
  refine (State.bar0Read_latch ?_).trans (congrArg some (lookupD_assocPut _ _ _ _))
  exact hs

theorem exec_qslotSectionLoad {pa : Nat} {bs : List Byte} (hm : pa + bs.length ≤ s.mainBytes p) (ha : pa % 64 = 0) :
    ∃ t, exec (.qslotSectionLoad p pa bs) s = .next t ∧ t.MemHolds s (physKey p pa) bs ∧
      (NatSet.wf s.fullSlots = true → ∀ j, j < bs.length → t.isFull (.phys (physKey p pa + j)) = false) := by
  obtain ⟨full, -⟩ := s.directWrite_slots (physKey p pa) bs
  change ∃ t, execQslotSectionLoad p pa bs s = .next t ∧ _
  unfold execQslotSectionLoad
  rw [State.answersTo hs hp, if_neg (by simp [ha]; omega)]
  refine ⟨_, rfl, State.memHolds fun ok => ok.directWrite_mem _ _, fun wf j hj => ?_⟩
  exact NatSet.has_foldl_del (by rwa [full]) (mem_unitsOf (by omega) (by omega))

end

theorem exec_takeReadTimeout {s : State} {uid : Nat} {r : TakeRead} {k : Tok}
    (hr : s.takes.find? (fun r => r.uid == uid) = some r) (hk : s.tokens.find? (fun t => t.uid == uid) = some k)
    (hl : k.layer = 0) (hw : k.waiting = true ∨ s.netSaved k.ctx = true) :
    exec (.takeReadTimeout uid) s = .next (State.wake { s with
      takes := s.takes.filter (fun r => r.uid != uid), tokens := s.tokens.filter (fun t => t.uid != uid)
      hostOut := s.hostOut ++ [.abort r.requester] }) := by
  change execTakeReadTimeout uid s = _
  unfold execTakeReadTimeout
  rw [hr, hk]
  exact if_pos ⟨hl, by simpa using hw⟩

theorem State.bar4Read_of_powered {s : State} (hs : s.powered = true) (ha : s.armed = []) (p pa n : Nat) :
    (s.mainBytes p < pa + n → s.bar4Read p pa n = none) ∧
    (pa + n ≤ s.mainBytes p → ∃ t, s.bar4Read p pa n = some (s.memBytes (physKey p pa) n, t) ∧ t.mem = s.mem) := by
  refine ⟨fun h => by simp [State.bar4Read, h], fun h => ?_⟩
  obtain ⟨ls, e⟩ := State.readPhys_eq ha p (physKey p pa) n
  exact ⟨{ s with lines := ls }, by simp [State.bar4Read, hs, Nat.not_lt.2 h, e], rfl⟩

/-- Without power nothing answers (R415). -/
theorem exec_host_unpowered {s : State} (hs : s.powered = false) (p req off size : Nat) (bs : List Byte) :
    exec (.takeWindowRead p req off size) s = .next s ∧ exec (.takeWindowWrite p req off) s = .next s ∧
      exec (.hostActiveMessage p req bs) s = .next s ∧ exec (.hostPostedWrite p req off bs) s = .next s ∧
      s.bar0Read p off = none ∧ s.bar4Read p off size = none := by
  have off16 : (decide (16 ≤ p) || !s.powered) = true := by simp [hs]
  exact ⟨if_pos off16, if_pos off16, if_pos off16, if_pos off16, by simp [State.bar0Read, hs], by simp [State.bar4Read, hs]⟩

end Sys2Proof.Machine

open Sys2Proof Sys2Proof.Machine

/-- Settles O56: each access of the host, with the update of the state that it makes. -/
theorem hostAccess : Obligations.HostAccess := by
  unfold Obligations.HostAccess
  exact ⟨fun s p req h c hs hp hh hc hf => exec_takeWindowRead_token hs hp req hh hc hf,
    fun s p req off size hs hp =>
      ⟨exec_takeWindowRead_ones hs hp req, exec_takeWindow_unsupported hs hp req size⟩,
    fun s p req off hs hp => exec_takeWindowWrite hs hp req,
    fun s uid r k => exec_takeReadTimeout,
    fun s p req bs hs hp => exec_hostActiveMessage_delivered hs hp req,
    fun s p req cause detail bs hs hp => exec_hostActiveMessage_dropped hs hp req,
    fun s p req pa bs hs hp => ⟨exec_hostPostedWrite hs hp req, exec_hostPostedWrite_unsupported hs hp req⟩,
    fun s p o hs hp => exec_unsupportedRequest hs hp,
    fun s p hs hp => exec_counterLowRead_zero hs hp,
    fun s p pa n hs ha => State.bar4Read_of_powered hs ha p pa n,
    fun s p pa bs hs hp => exec_qslotSectionLoad hs hp,
    fun s p req off size bs hs => exec_host_unpowered hs p req off size bs⟩
end

section
/-! SUPPORT. The state that refutes the atomics of a peer: a slice full of damaged lines over a set of poison out of order. -/

namespace Sys2Proof.Machine

/-- Two lines of one set: R126 leaves the set of a line open, and there are more lines than sets. Each of these lines has
slice 0 for its home, whatever the number of slices. -/
theorem exists_lines_of_one_set : ∃ a b, a < 512 ∧ b < 512 ∧ a ≠ b ∧
    ∀ s : State, s.setOf (513 * a) = s.setOf (513 * b) := by
  obtain ⟨a, ha, b, hb, ne, e⟩ := Finset.exists_ne_map_eq_of_card_lt_of_maps_to (s := Finset.range 512) (t := Finset.range 256)
    (f := fun a => Config.sliceSet (513 * a) % 256) (by simp) (fun a _ => by simp [Nat.mod_lt])
  have home (n a : Nat) (h : a < 512) : homeSlice n (keyPA (513 * a * 128)) = 0 := by
    have h0 : keyPA (513 * a * 128) / 128 = 513 * a := by simp only [keyPA]; omega
    have h1 : 513 * a % 512 = a := by omega
    have h2 : 513 * a / 2 ^ 9 % 512 = a := by omega
    have h3 : 513 * a / 2 ^ 18 = 0 := Nat.div_eq_of_lt (by omega)
    have h4 : 513 * a / 2 ^ 27 = 0 := Nat.div_eq_of_lt (by omega)
    have h5 : 513 * a / 2 ^ 36 = 0 := Nat.div_eq_of_lt (by omega)
    simp only [homeSlice, h0, h1, h2, h3, h4, h5]
    simp
  have part (a : Nat) (h : a < 512) : keyPart (513 * a * 128) = 0 := by simp only [keyPart]; omega
  simp only [Finset.mem_range] at ha hb
  exact ⟨a, b, ha, hb, ne, fun s => by simp only [State.setOf, home _ a ha, home _ b hb, part a ha, part b hb, e]⟩

/-- A partition that owns the first granule. -/
def oneGranule : Partition := { Partition.reset with across := 1, rows := 1 }

/-- A device of one partition whose slice holds 16 damaged dirty copies of one line, and whose set of poisoned granules is
out of order: the first granule of the management fault queue stands in it before the first granule of `line`. -/
def crowded (line other : Nat) : State :=
  { State.reset with
    partitions := [oneGranule]
    lines := List.replicate 16 { line := other, dirty := true, kept := false, zero := false, damaged := [8 * other] }
    memPoison := [17 * 2 ^ 44, 8 * line] }

/-- Looked up in the set as it stands, no granule of the line is poisoned. -/
theorem crowded_unpoisoned {a b : Nat} (ha : a < 512) : (crowded (513 * a) b).memPoison.has (8 * (513 * a)) = false := by
  show NatSet.has [17 * 2 ^ 44, 8 * (513 * a)] (8 * (513 * a)) = false
  unfold NatSet.has
  rw [if_neg (by omega), if_pos (by omega)]

theorem NatSet.del_of_lt {x u : Nat} (h : u < x) : NatSet.del [u] x = [u] := by
  rw [NatSet.del, if_neg (by omega), if_neg (by omega), NatSet.del]

/-- A clean write of four whole granules takes them out of the poison, one after the other (R134). -/
theorem writePoison_record (s : NatSet) (k : Nat) : writePoison 16 s (16 * k) (List.replicate 64 false) =
    (((s.del k).del (k + 1)).del (k + 2)).del (k + 3) := by
  have units : unitsOf 16 (16 * k) 64 = [k, k + 1, k + 2, k + 3] := by
    have n : (16 * k + 64 - 1) / 16 - 16 * k / 16 + 1 = 4 := by omega
    have first : 16 * k / 16 = k := by omega
    rw [unitsOf, if_neg (by decide), n, first]
    rfl
  have lo {j : Nat} (h : k ≤ j) : max (16 * k) (j * 16) = j * 16 := by omega
  have hi {j : Nat} (h : j ≤ k + 3) : min (16 * k + 64) ((j + 1) * 16) = (j + 1) * 16 := by omega
  have whole (j : Nat) : (j + 1) * 16 - j * 16 = 16 := by omega
  have clean (a n : Nat) : (((List.replicate 64 false).drop a).take n).any id = false := by
    rw [List.drop_replicate, List.take_replicate]
    simp [List.any_replicate]
  have one {j : Nat} (h : k ≤ j) (h' : j ≤ k + 3) (s : NatSet) :
      s.put j (poisonWrite (s.has j) (decide (min (16 * k + 64) ((j + 1) * 16) - max (16 * k) (j * 16) = 16)) false) = s.del j := by
    rw [lo h, hi h', whole]
    rfl
  simp only [writePoison, List.length_replicate, units, List.foldl_cons, List.foldl_nil, clean]
  rw [one, one, one, one] <;> omega

theorem State.recordMgmt_poison {s : State} {u : Nat} (hb : s.mfqBase = 0) (hl : s.mfqLog = 0) (hu : u < 17 * 2 ^ 44)
    (hp : s.memPoison = [17 * 2 ^ 44, u]) (r : Rec) : (s.recordMgmt r).memPoison = [u] := by
  have len : ∀ ovf, ((r.dwords s.ts ovf).flatMap dwordBytes).length = 64 := by
    intro ovf
    simp [Rec.dwords, dwordBytes, natLE_length]
  have key : pfKey (s.mfqBase.toNat % 2 ^ 48 + 64 * (s.mfqTail % 2 ^ (s.mfqLog.toNat % 32))) = 17 * 2 ^ 48 := by
    simp [hb, hl, pfKey, physKey, Nat.mod_one]
  have first : NatSet.del [17 * 2 ^ 44, u] (17 * 2 ^ 44) = [u] := if_pos rfl
  simp only [State.recordMgmt, State.putBytes, key, len, hp]
  rw [show 17 * 2 ^ 48 = 16 * (17 * 2 ^ 44) by decide, writePoison_record, first, NatSet.del_of_lt (by omega),
    NatSet.del_of_lt (by omega), NatSet.del_of_lt (by omega)]


/-! ## The access -/

theorem crowded_mainBytes (line other : Nat) : (crowded line other).mainBytes 0 = 2 ^ 34 := by
  have channels : ((List.range 64).filter (fun c => oneGranule.owns (c / 4) && !NatSet.has [] c)).length = 4 := by decide
  exact congrArg (4 * 2 ^ 30 * ·) channels

section
variable {line other : Nat}

/-- A read of another line of the set makes room by the oldest of the copies. -/
theorem crowded_makeRoom (own : (crowded line other).setOf other = (crowded line other).setOf line) :
    (crowded line other).makeRoom line true true = (crowded line other).evict
      { line := other, dirty := true, kept := false, zero := false, damaged := [8 * other] } := by
  have same : ∀ x ∈ (crowded line other).lines, (crowded line other).setOf x.line = (crowded line other).setOf line := by
    intro x hx
    rw [(List.mem_replicate.1 hx).2]
    exact own
  have set : (crowded line other).inSet line = ((crowded line other).lines, 0) := by
    rw [State.inSet, List.filter_eq_self.2 (fun x hx => decide_eq_true (same x hx))]
    rfl
  rw [State.makeRoom, if_neg (by show ¬ 16 < 16; omega), set]
  rfl

variable (hl : line < 2 ^ 18)
include hl

/-- That copy is damaged, and its record takes the granule that stands before those of `line` out of the set. -/
theorem crowded_evict : ((crowded line other).evict
      { line := other, dirty := true, kept := false, zero := false, damaged := [8 * other] }).memPoison = [8 * line] ∧
    ((crowded line other).evict
      { line := other, dirty := true, kept := false, zero := false, damaged := [8 * other] }).armed = [] := by
  unfold State.evict
  extract_lets p pa under s1 found
  change (State.recordMgmt s1.takeFree.2 _).memPoison = _ ∧ (State.recordMgmt s1.takeFree.2 _).armed = _
  refine ⟨State.recordMgmt_poison rfl rfl (by omega) rfl _, ?_⟩
  obtain ⟨_, _, e⟩ := s1.takeFree.2.recordMgmt_eq _
  rw [e]
  rfl

variable (own : (crowded line other).setOf other = (crowded line other).setOf line) (ne : other ≠ line)
include own ne

theorem crowded_readLines : ((crowded line other).readLines .normal (128 * line) 8).armed = [] ∧
    ((crowded line other).readLines .normal (128 * line) 8).memPoison = [8 * line] := by
  have main : isMainKey (128 * line) = true := by
    have low : 128 * line / 2 ^ 48 < 16 := by omega
    have pa : 128 * line % 2 ^ 48 < 0x100000000000 := by omega
    simp only [isMainKey, keyPart, keyPA, Bool.and_eq_true]
    exact ⟨decide_eq_true low, decide_eq_true pa⟩
  have units : unitsOf 128 (128 * line) 8 = [line] := by
    have n : (128 * line + 8 - 1) / 128 - 128 * line / 128 + 1 = 1 := by omega
    have first : 128 * line / 128 = line := by omega
    rw [unitsOf, if_neg (by decide), n, first]
    rfl
  have absent : (crowded line other).lineOf line = none := by
    simp [State.lineOf, crowded, ne]
  have filled : (crowded line other).fillLine .normal line = (crowded line other).addLine .normal
      { line := line, dirty := false, kept := false, zero := false, damaged := [] } := by
    have poisoned : (crowded line other).memPoison.all (fun u => u / 8 != line) = false := by
      simp [crowded]
    have unarmed : (crowded line other).armed.isEmpty = true := rfl
    simp only [State.fillLine, unarmed, if_true, poisoned, Bool.and_false]
  rw [State.readLines, if_pos main, units, List.foldl_cons, List.foldl_nil, State.readLine, absent]
  dsimp only
  rw [filled]
  change ((crowded line other).makeRoom line true true).armed = [] ∧
    ((crowded line other).makeRoom line true true).memPoison = [8 * line]
  rw [crowded_makeRoom own]
  exact (crowded_evict hl).symm

end

/-! ## The access -/

/-- An atomic of a peer in main memory answers with the poison that memory shows once the access has reached the slices. -/
theorem exec_peerAccess_atomic {s : State} {pa : Nat} (hs : s.powered = true) (h : s.mainBytes 0 = 2 ^ 34)
    (hpa : pa + 8 ≤ 2 ^ 34) (ha : pa % 8 = 0) (armed : (s.readLines .normal pa 8).armed = []) :
    ∃ t bytes, exec (.peerAccess 0 (.atomic .add 8 pa 0 0)) s = .next t ∧ t.hostOut.getLast? = some (.peerData 0 bytes
      ((List.range 8).any (fun j => (s.readLines .normal pa 8).memPoison.has ((pa + j) / 16)))) := by
  have key : physKey 0 pa = pa := by simp [physKey]
  have inside : outside pa = false := by
    have low : ¬ 0x800000000000 ≤ pa % 2 ^ 48 := by omega
    exact decide_eq_false low
  have met : s.meetPhys .normal 0 pa 8 = ([], s.readLines .normal pa 8) := by simp [State.meetPhys, armed]
  have answer : (s.atomic 0 (.phys pa) .add 8 0 0 false).1.2 =
      (List.range 8).any (fun j => (s.readLines .normal pa 8).memPoison.has ((pa + j) / 16)) := by
    simp [State.atomic, State.atomGet, inside, met, State.seeByte, List.any_map, Function.comp_def]
  have served : s.peerAtomic 0 .add 8 pa 0 0 = some ((s.atomic 0 (.phys pa) .add 8 0 0 false).2.reply
      (.peerData 0 (natLE 8 (s.atomic 0 (.phys pa) .add 8 0 0 false).1.1) (s.atomic 0 (.phys pa) .add 8 0 0 false).1.2)) := by
    unfold State.peerAtomic
    rw [if_neg (by simp only [takeOffset, decide_eq_true_eq]; omega), if_neg (by simp [h, ha]; omega), key]
    rfl
  change ∃ t bytes, execPeerAccess 0 (.atomic .add 8 pa 0 0) s = .next t ∧ _
  unfold execPeerAccess
  rw [State.answersTo hs (by decide), if_neg (by decide)]
  dsimp only
  rw [served, ← answer]
  exact ⟨_, natLE 8 (s.atomic 0 (.phys pa) .add 8 0 0 false).1.1, rfl, List.getLast?_concat⟩

end Sys2Proof.Machine

open Sys2Proof Sys2Proof.Machine

/-- Refutes O57: its clause on the atomics of a peer asks for the poison of the bytes as they stand in any state without armed
errors. In `crowded`, where the set of poisoned granules is out of order, the read makes room by a damaged line; the record of
that (R126, R386) takes its own granules out of the set, and the accessed granule, hidden behind one of them, shows as
poisoned. -/
theorem not_linksRun : ¬ Obligations.LinksRun := by
  unfold Obligations.LinksRun
  rintro ⟨-, -, -, atomics, -⟩
  obtain ⟨a, b, ha, hb, ne, own⟩ := exists_lines_of_one_set
  have hl : 513 * b < 2 ^ 18 := by omega
  let s := crowded (513 * b) (513 * a)
  obtain ⟨armed, poison⟩ := crowded_readLines hl (own s) (by omega)
  obtain ⟨t, bytes, run, out⟩ := exec_peerAccess_atomic (s := s) (pa := 128 * (513 * b)) rfl (crowded_mainBytes _ _)
    (by omega) (by omega) armed
  obtain ⟨t', run', -, out'⟩ := atomics s 0 (128 * (513 * b)) 8 .add 0 0 rfl (by decide)
    (by rw [crowded_mainBytes]; omega) (by omega) (.inr rfl) (by omega) rfl rfl (by decide)
  obtain rfl : t = t' := by simpa using run.symm.trans run'
  have same := out.symm.trans out'
  simp only [Option.some.injEq, HostOut.peerData.injEq, true_and] at same
  have granule : ∀ j, j < 8 → (128 * (513 * b) + j) / 16 = 8 * (513 * b) := by omega
  have served : (List.range 8).any (fun j =>
      (s.readLines .normal (128 * (513 * b)) 8).memPoison.has ((128 * (513 * b) + j) / 16)) = true := by
    rw [List.any_eq_true]
    exact ⟨0, by decide, by rw [poison, granule 0 (by decide)]; exact if_pos rfl⟩
  have stood : (s.memBytes (physKey 0 (128 * (513 * b))) 8).any (·.2) = false := by
    have key : physKey 0 (128 * (513 * b)) = 128 * (513 * b) := by simp [physKey]
    rw [State.memBytes, key, List.any_map, List.any_eq_false]
    intro j hj
    have clear : s.memPoison.has ((128 * (513 * b) + j) / 16) = false := by
      rw [granule j (List.mem_range.1 hj)]
      exact crowded_unpoisoned hb
    simp [clear]
  exact Bool.noConfusion (served.symm.trans (same.2.trans stood))
end

section
/-! SUPPORT. Lanes of rows as numbers, and one step of the press lane by lane. -/

namespace Sys2Proof.Machine

/-! ## Lanes and numbers -/

@[simp] theorem natLanes_length (w : Nat) : ∀ n x, (natLanes w n x).length = n
  | 0, _ => rfl
  | n + 1, x => by rw [natLanes, List.length_cons, natLanes_length w n]

@[simp] theorem natBools_length : ∀ n x, (natBools n x).length = n
  | 0, _ => rfl
  | n + 1, x => by rw [natBools, List.length_cons, natBools_length n]

theorem natLanes_lanesNat (w : Nat) : ∀ l, natLanes w l.length (lanesNat w l) = l.map (· % 2 ^ w)
  | [] => rfl
  | x :: l => by
    have h : x % 2 ^ w < 2 ^ w := Nat.mod_lt _ (Nat.two_pow_pos w)
    simp only [List.length_cons, natLanes, lanesNat, List.map_cons, Nat.add_mul_mod_self_left, Nat.mod_mod,
      Nat.add_mul_div_left _ _ (Nat.two_pow_pos w), Nat.div_eq_of_lt h, Nat.zero_add, natLanes_lanesNat w l]

theorem lanesNat_lt (w : Nat) : ∀ l, lanesNat w l < 2 ^ (w * l.length)
  | [] => Nat.one_pos
  | x :: l => by
    have h : x % 2 ^ w < 2 ^ w := Nat.mod_lt _ (Nat.two_pow_pos w)
    calc x % 2 ^ w + 2 ^ w * lanesNat w l
      _ < 2 ^ w * (lanesNat w l + 1) := by rw [Nat.mul_succ]; omega
      _ ≤ 2 ^ w * 2 ^ (w * l.length) := Nat.mul_le_mul_left _ (lanesNat_lt w l)
      _ = 2 ^ (w * (l.length + 1)) := by rw [← pow_add, Nat.mul_succ, Nat.add_comm]

/-! ## Rows and lanes (R175, R176) -/

theorem Row.elems_map_fst (r : Row) {w : Nat} (h : w ∣ 32) : (r.elems w).map (·.1) = natLanes w (2048 / w) r.bits.toNat := by
  obtain ⟨k, hk⟩ := h
  have w0 : 0 < w := Nat.pos_of_ne_zero fun e => by simp [e] at hk
  have units : 2048 / w = 64 * k := Nat.div_eq_of_eq_mul_right w0 (by rw [Nat.mul_left_comm, ← hk])
  have each : 32 / w = k := Nat.div_eq_of_eq_mul_right w0 hk
  refine List.map_fst_zip (le_of_eq ?_)
  simp only [List.length_flatMap, List.length_replicate, List.map_const', List.sum_replicate, smul_eq_mul,
    natLanes_length, natBools_length, units, each]

theorem Row.elems_length (r : Row) {w : Nat} (h : w ∣ 32) : (r.elems w).length = 2048 / w := by
  rw [← List.length_map (·.1), r.elems_map_fst h, natLanes_length]

theorem toNat_ofNat_lanesNat {w n : Nat} {l : List Nat} (h : w * l.length = n) :
    (BitVec.ofNat n (lanesNat w l)).toNat = lanesNat w l := by
  rw [BitVec.toNat_ofNat, Nat.mod_eq_of_lt (h ▸ lanesNat_lt w l)]

theorem Row.elems_rowOfLanes {w : Nat} (h : w ∣ 32) {l : List Lane} (hl : l.length = 2048 / w) :
    ((rowOfLanes w l).elems w).map (·.1) = l.map (·.1 % 2 ^ w) := by
  have fits : w * (l.map (·.1)).length = 2048 := by
    rw [List.length_map, hl, Nat.mul_div_cancel' (h.trans (by decide : 32 ∣ 2048))]
  rw [Row.elems_map_fst _ h, rowOfLanes, toNat_ofNat_lanesNat fits, ← hl, ← List.length_map (·.1), natLanes_lanesNat,
    List.map_map]
  rfl

theorem Press.laneW_dvd (p : Press) : p.laneW ∣ 32 := by
  unfold Press.laneW
  split <;> decide

theorem Press.laneN_eq (p : Press) : p.laneN = 2048 / p.laneW := by
  unfold Press.laneN Press.laneW
  split <;> rfl

/-! ## The active plane by column -/

theorem columns_length {α : Type} {n : Nat} : ∀ {rows : List (List α)}, (∀ r ∈ rows, r.length = n) → (columns n rows).length = n
  | [], _ => List.length_replicate
  | r :: rows, h => by
    have ih := columns_length fun x hx => h x (List.mem_cons_of_mem r hx)
    rw [columns, List.foldr_cons, List.length_zipWith, h r List.mem_cons_self]
    exact (congrArg _ ih).trans (Nat.min_self n)

theorem Press.weightCols_length (p : Press) : p.weightCols.length = p.laneN := by
  refine columns_length fun r hr => ?_
  obtain ⟨i, hi, rfl⟩ := List.mem_iff_getElem.1 hr
  simp

theorem Press.colScales_length (p : Press) : p.colScales.length = p.laneN := by
  unfold Press.colScales
  split <;> simp

/-! ## One step of the press (R224) -/

/-- Lane `j` of one press step: its bits, and whether it saturated. -/
def Press.laneStep (p : Press) (cols : List (List Lane)) (fmt : Nat) (acc : Bool) (x : List Lane) (sa : Lane) (t j : Nat) :
    Nat × Bool :=
  p.stepElem fmt (if acc then (((p.tile.getD t .zero).elems p.laneW).getD j (0, false)).1 else p.overStart) (x.map (·.1))
    ((cols.getD j []).map (·.1)) sa.1 (p.colScales.getD j (127, false)).1

theorem Press.step_eq (p : Press) {cols : List (List Lane)} (h : cols.length = p.laneN) (fmt : Nat) (acc : Bool)
    (x : List Lane) (sa : Lane) (t : Nat) : ∃ out : List (Lane × Bool),
    out.map (fun o => (o.1.1, o.2)) = (List.range p.laneN).map (p.laneStep cols fmt acc x sa t) ∧
    p.step cols fmt acc x sa t = { p with
      tile := p.tile.set t (rowOfLanes p.laneW (out.map (·.1))), ov := p.ov || out.any (·.2) } := by
  refine ⟨_, ?_, rfl⟩
  have len : ((p.tile.getD t .zero).elems p.laneW).length = p.laneN := by rw [Row.elems_length _ p.laneW_dvd, p.laneN_eq]
  unfold Press.laneStep
  generalize (p.tile.getD t .zero).elems p.laneW = old at len
  refine List.ext_getElem (by simp [len, h, p.colScales_length]) fun j hj _ => ?_
  have hj : j < p.laneN := by simpa [len, h, p.colScales_length] using hj
  simp [len, h, p.colScales_length, hj]

section
variable (p : Press) {cols : List (List Lane)} (h : cols.length = p.laneN) (fmt : Nat) (acc : Bool) (x : List Lane)
  (sa : Lane) {t : Nat}
include h

theorem Press.step_lane (ht : t < p.tile.length) {j : Nat} (hj : j < p.laneN) :
    ((((p.step cols fmt acc x sa t).tile.getD t .zero).elems p.laneW).getD j (0, false)).1 =
      (p.laneStep cols fmt acc x sa t j).1 % 2 ^ p.laneW := by
  obtain ⟨out, lanes, e⟩ := p.step_eq h fmt acc x sa t
  have len : (out.map (·.1)).length = 2048 / p.laneW := by simpa [p.laneN_eq] using congrArg List.length lanes
  have row : (p.step cols fmt acc x sa t).tile.getD t .zero = rowOfLanes p.laneW (out.map (·.1)) := by
    simp [e, List.getD_eq_getElem?_getD, ht]
  have bits := congrArg (List.map fun o => o.1 % 2 ^ p.laneW) lanes
  simp only [List.map_map] at bits
  rw [row, ← List.getD_map (f := fun l : Lane => l.1), Row.elems_rowOfLanes p.laneW_dvd len, List.map_map]
  refine (congrArg (·.getD j 0) bits).trans ?_
  simp [List.getD_eq_getElem?_getD, hj]

theorem Press.step_ov : (p.step cols fmt acc x sa t).ov = true ↔
    p.ov = true ∨ ∃ j, j < p.laneN ∧ (p.laneStep cols fmt acc x sa t j).2 = true := by
  obtain ⟨out, lanes, e⟩ := p.step_eq h fmt acc x sa t
  have any : out.any (·.2) = (List.range p.laneN).any fun j => (p.laneStep cols fmt acc x sa t j).2 := by
    simpa [List.any_map, Function.comp_def] using congrArg (List.any · (·.2)) lanes
  simp [e, any]

end

/-! ## On integers (R69) -/

theorem wrapBits_mod (x : Int) (n : Nat) : wrapBits x n % 2 ^ n = wrapBits x n := by
  refine Nat.mod_eq_of_lt ?_
  have : x % (2 ^ n : Int) < 2 ^ n := Int.emod_lt_of_pos x (by positivity)
  rw [wrapBits, Int.toNat_lt' (by positivity)]
  exact_mod_cast this

theorem satBits_eq (x : Int) : satBits x 16 = max (-2 ^ 15) (min (2 ^ 15 - 1) x) := by
  unfold satBits sat
  norm_num
  split
  · omega
  · split <;> omega

/-- Saturation changes the values out of range. -/
theorem satBits_ne_iff (x : Int) : satBits x 16 ≠ x ↔ ¬ (-2 ^ 15 ≤ x ∧ x ≤ 2 ^ 15 - 1) := by
  rw [satBits_eq]
  omega

/-- The exact value of lane `j` after a press step on integers: the old element, or 0 without ACC, and the products. -/
def Press.exactLane (p : Press) (cols : List (List Lane)) (fmt : Nat) (acc : Bool) (x : List Lane) (t j : Nat) : Int :=
  (if acc then toSigned (((p.tile.getD t .zero).elems p.laneW).getD j (0, false)).1 p.laneW else 0) +
    (List.zipWith (fun a w => inputInt fmt a.1 * inputInt p.active.fmt.toNat w.1) x (cols.getD j [])).foldl (· + ·) 0

section
variable {p : Press} (hi : p.integer = true) (cols : List (List Lane)) (fmt : Nat) (acc : Bool) (x : List Lane) (sa : Lane)
  (t j : Nat)
include hi

theorem Press.toSigned_overStart (w : Nat) : toSigned p.overStart w = 0 := by
  simp [Press.overStart, hi, toSigned]

theorem Press.laneStep_wide (hn : p.narrow = false) :
    p.laneStep cols fmt acc x sa t j = (wrapBits (p.exactLane cols fmt acc x t j) 32, false) := by
  have w : p.laneW = 32 := if_neg (by simp [hn])
  simp only [Press.laneStep, Press.stepElem, Press.exactLane, pressStepI32, List.zipWith_map, hi, hn, w,
    apply_ite (toSigned · 32), Press.toSigned_overStart hi]
  rfl

theorem Press.laneStep_narrow (hn : p.narrow = true) : p.laneStep cols fmt acc x sa t j =
    (wrapBits (satBits (p.exactLane cols fmt acc x t j) 16) 16,
      satBits (p.exactLane cols fmt acc x t j) 16 != p.exactLane cols fmt acc x t j) := by
  have w : p.laneW = 16 := if_pos hn
  simp only [Press.laneStep, Press.stepElem, Press.exactLane, pressStepI16, List.zipWith_map, hi, hn, w,
    apply_ite (toSigned · 16), Press.toSigned_overStart hi]
  rfl

end

end Sys2Proof.Machine

open Sys2Proof Sys2Proof.Machine

/-- Settles O41: each lane of the row that a step writes is that lane's step, and OV collects their saturations. -/
theorem integerSteps : Obligations.IntegerSteps := by
  unfold Obligations.IntegerSteps
  intro p fmt r acc x sa hi ht _ _ hr cols old sum q new
  have lane (j : Nat) (hj : j < p.laneN) : new j = (p.laneStep cols fmt acc x sa r j).1 % 2 ^ p.laneW :=
    p.step_lane p.weightCols_length fmt acc x sa (ht ▸ hr) hj
  have ov := p.step_ov p.weightCols_length fmt acc x sa (t := r)
  have value (j : Nat) : p.exactLane cols fmt acc x r j = old j + sum j := rfl
  refine ⟨fun hn => ⟨?_, fun j hj => ?_⟩, fun hn => ⟨fun j hj => ?_, ?_⟩⟩
  · refine Bool.eq_iff_iff.2 (ov.trans ?_)
    simp [Press.laneStep_wide hi _ _ _ _ _ _ _ hn]
  · have w : p.laneW = 32 := if_neg (by simp [hn])
    have n : p.laneN = 64 := if_neg (by simp [hn])
    rw [lane j (n ▸ hj), Press.laneStep_wide hi _ _ _ _ _ _ _ hn, w, wrapBits_mod, value]
    rfl
  · have w : p.laneW = 16 := if_pos hn
    have n : p.laneN = 128 := if_pos hn
    rw [lane j (n ▸ hj), Press.laneStep_narrow hi _ _ _ _ _ _ _ hn, w, wrapBits_mod, satBits_eq, value]
    rfl
  · have n : p.laneN = 128 := if_pos hn
    simp only [Press.laneStep_narrow hi _ _ _ _ _ _ _ hn, n, bne_iff_ne, satBits_ne_iff] at ov
    exact ov
end

section
/-! SUPPORT. The conversions of lanes: what they show at issue, what they write, and how they end. -/

namespace Sys2Proof.Machine

/-! ## What a fault leaves -/

/-- Where nothing is armed, nothing is found. -/
theorem State.keepFound_of_unarmed {s : State} (h : s.armed = []) (t : State) : s.keepFound t = s := by
  rw [State.keepFound, h, List.foldl_nil]

@[simp] theorem State.keepTaken_self (s : State) : s.keepTaken s = s := by
  simp [State.keepTaken]

/-! ## Conversions at issue -/

theorem LSpec.regs_lt (a : LSpec) : ∀ r ∈ a.regs, r < 32 := by
  intro r hr
  cases a <;> simp only [LSpec.regs, List.mem_singleton, List.not_mem_nil] at hr <;> omega

/-- What an instruction shows at issue: its word and what it names. -/
def formOf (i : Instr) : Form := { enc := encode i, ok := i.wf, priv := i.priv, regs := i.regs, chans := i.chans }

section
variable {i : Instr} {v : VInstr} {d a : LSpec} {p : Nat} {pk : Option Nat} {wd : Bool} {g : RMode → List Nat → Nat → Nat}
  (h : Conversion i v d a p pk wd g)
include h

/-- A conversion is one member of VX, with these operands, this width and this result. -/
theorem Conversion.member : ∃ o : XOp, v = { op := .x o, d := d, a := a, b := .vz, r := .z, q := .z, k := p } ∧
    o.conv = { packed := pk, widen := wd } ∧ ∀ m cb x, o.result m cb x = g m cb x := by
  cases h <;> exact ⟨_, rfl, rfl, fun _ _ _ => rfl⟩

/-- Packed elements are smaller than a word. -/
theorem Conversion.packed_ne : pk ≠ some 32 := by
  cases h <;> decide

/-- What a conversion writes are words where its packed side is the source, or where it has none. -/
theorem Conversion.writes_words : (wd || pk.isNone) = decide ((if wd then 32 else pk.getD 32) = 32) := by
  cases wd with
  | true => rfl
  | false =>
    cases pk with
    | none => rfl
    | some w => simpa using h.packed_ne

theorem Conversion.exec_eq (s : State) : exec i s = run (formOf i) (laneIssue v) s := by
  cases h <;> rfl

theorem Conversion.priv : i.priv = false := by
  cases h <;> rfl

theorem Conversion.regs_lt : ∀ r ∈ i.regs, r < 32 := by
  have named : i.regs = d.regs ++ a.regs := by cases h <;> rfl
  intro r hr
  rw [named, List.mem_append] at hr
  exact hr.elim (LSpec.regs_lt d r) (LSpec.regs_lt a r)

theorem Conversion.encode_eq : ∃ n x y z, encode i = n + x * 128 + y * 16384 + z * 2097152 ∧ n % 128 = 0x5B := by
  cases h with
  | vcvtI32F32 | vcvtF32I32 => exact ⟨_, _, _, 0, (Nat.add_zero _).symm, rfl⟩
  | _ => exact ⟨_, _, _, _, rfl, rfl⟩

/-- A conversion is a word of four bytes, of major VX. -/
theorem Conversion.word : (formOf i).len = 4 ∧ (formOf i).major = 0x2D := by
  obtain ⟨n, x, y, z, e, hn⟩ := h.encode_eq
  have odd : (formOf i).enc % 2 = 1 := by simp only [formOf, e]; omega
  have major : (formOf i).enc / 2 % 64 = 0x2D := by simp only [formOf, e]; omega
  exact ⟨if_neg (by omega), (if_pos odd).trans major⟩

end

/-! ## What a conversion writes (R197 to R199) -/

/-- The poison that the lane codebook gives a converted element: that of its entry, or of any where all are searched. -/
def XOp.bookPoison (o : XOp) (c : Core) (x : Nat) : Bool :=
  match o with
  | .f32cb4 => c.laneCbPois.getLsbD x
  | .cb4f32 => c.laneCbPois != 0
  | _ => false

/-- The 64 elements that a conversion makes of its part of a row, none where the current mask has a 0. -/
def XOp.outs (o : XOp) (c : Core) (part : Nat) (row : Row) : List OutLane :=
  let src := if o.conv.widen then ((row.elems (o.conv.packed.getD 32)).drop (64 * part)).take 64 else row.elems 32
  (src.zip (c.current 64).1).map fun x =>
    if x.2 then some (o.result c.cur.rmode.toNat (codebook c.laneCb) x.1.1, x.1.2 || o.bookPoison c x.1.1) else none

theorem convert_eq {o : XOp} {v : VInstr} {row : Row} {s s1 : State} (h : readL v.a s = .ok row s1) :
    convert o v s = (let outs := o.outs s1.core v.k row
      let mp := (s1.core.current 64).2
      let w := o.conv.packed.getD 32
      if o.conv.widen || o.conv.packed.isNone then putOut v.d 32 outs mp
      else putOut v.d w (placePart none (2048 / w) v.k outs) (placePart false (2048 / w) v.k mp)) s1 := by
  rw [convert, bind_ok h, bind_ok (getC_run s1)]
  dsimp only [XOp.outs, Core.current]
  cases o.conv.widen <;> rfl

theorem maskRead_current (s : State) : maskRead s.core.cur.lmask.toNat s = .ok () s.maskSeen := by
  have zero : s.core.cur.lmask.toNat = 0 ↔ s.core.cur.lmask = 0 := BitVec.toNat_inj (y := 0)
  unfold maskRead State.maskSeen
  simp only [zero]
  split <;> rfl

/-- A conversion that passes its checks and writes its result moves its pointers on last. -/
theorem VInstr.effect_conversion {v : VInstr} {o : XOp} {s t u : State} (hv : v.op = .x o) (hc : v.checks s = .ok () s)
    (hx : convert o v s.maskSeen = .ok () t) (hp : bumpPointers (lposts v.a ++ lposts v.b ++ lposts v.d) t = .ok () u) :
    v.effect s = .ok () u := by
  have masked : v.masked = true := by rw [VInstr.masked, hv]
  rw [VInstr.effect, bind_ok hc, bind_ok (getC_run s), masked]
  simp only [if_true, hv]
  rw [bind_ok (maskRead_current s), bind_ok hx, hp]

/-- A press without commands has no mode still to set. -/
theorem modeSettled_free {s : State} (h : s.laneFree = true) : modeSettled s = .ok () s := by
  have free : s.core.busySlots = [] := List.isEmpty_iff.1 h
  simp [modeSettled, bind_run, free]

/-- In narrow mode a conversion that is not of 16 bits takes LANE (R198). -/
theorem VInstr.effect_narrow {v : VInstr} {o : XOp} {s : State} (hv : v.op = .x o) (hf : s.laneFree = true)
    (hn : s.core.press.narrow = true) (ho : o.narrowOk = false) :
    v.effect s = .error (.trap (simpleTrap cLANE (.ofNat 64 o.func))) s := by
  refine bind_error ?_
  rw [VInstr.checks, bind_ok (modeSettled_free hf), hv]
  dsimp only
  rw [bind_ok (getC_run s), hn, ho]
  rfl

section
variable {i : Instr} {v : VInstr} {d a : LSpec} {p : Nat} {pk : Option Nat} {wd : Bool} {g : RMode → List Nat → Nat → Nat}
  (h : Conversion i v d a p pk wd g) (hw : i.wf = true)
include h hw

/-- A conversion whose effect runs to its end is followed by the next instruction. -/
theorem Conversion.exec_ok {s u : State} (hs : s.Ready) (he : v.effect s = .ok () u) (hu : u.Ready) :
    exec i s = .next (u.after 4) := by
  have runs : laneIssue v s = .ok (.next none) u := bind_ok he
  rw [h.exec_eq, hs.run_next hw (.inl h.priv) h.regs_lt runs hu, h.word.1]

/-- A conversion that takes a fault in the state it began in leaves nothing but that fault. -/
theorem Conversion.exec_trap {s : State} (hs : s.Ready) {t : TrapInfo} (he : v.effect s = .error (.trap t) s) :
    exec i s = .next (s.takeTrap t s.core.cur.pc 0x2D) := by
  have issues : issue (formOf i) s = .ok () s := hs.issue hw (.inl h.priv) h.regs_lt
  have stops := (bind_ok (f := fun _ => laneIssue v) issues).trans (bind_error he)
  rw [h.exec_eq, run_error stops (by simp), State.stop, State.keepFound_of_unarmed hs.armed, State.keepTaken_self, h.word.2]

end

end Sys2Proof.Machine

open Sys2Proof Sys2Proof.Machine

/-- Settles O32: what the member of VX writes is, for each conversion, what its row of Table 8.8 says; in narrow mode its
check comes before any other. -/
theorem laneConversions : Obligations.LaneConversions := by
  unfold Obligations.LaneConversions
  refine ⟨fun s s1 t u i v d a p pk wd g row h wf hs checked read => ?written,
    fun s i v d a p pk wd g o h hv wf hs free narrow h16 => ?refused⟩
  case written =>
    extract_lets c src bad w
    rcases mask : c.current 64 with ⟨on, mp⟩
    dsimp -zeta only
    extract_lets outs
    intro put bumped hu
    refine h.exec_ok wf hs ?_ hu
    obtain ⟨o, rfl, conv, result⟩ := h.member
    have poison (x : Nat) : bad x = o.bookPoison c x := by
      cases o with
      | cb4f32 => simp [bad, XOp.bookPoison, bne, beq_eq_decide]
      | _ => rfl
    have made : o.outs c p row = outs := by
      simp only [XOp.outs, conv, mask, result, ← poison]
      rfl
    have words : (wd || pk.isNone) = decide (w = 32) := h.writes_words
    have width (n : w ≠ 32) : pk.getD 32 = w := by
      cases wd with
      | true => exact absurd rfl n
      | false => rfl
    refine VInstr.effect_conversion rfl checked ((convert_eq read).trans (Eq.trans ?_ put)) bumped
    dsimp only
    rw [made, mask, conv]
    simp only [words, decide_eq_true_eq]
    split
    · rfl
    · next n => rw [width n]
  case refused =>
    refine h.exec_trap wf hs (VInstr.effect_narrow hv free narrow ?_)
    obtain ⟨o, rfl, conv, -⟩ := h.member
    obtain rfl := LaneOp.x.inj hv
    simp [XOp.narrowOk, conv, h16]
end

section
/-! SUPPORT. The integer majors: the member that each instruction is, what it does on a core that can issue, and the pending
write that a carrier opens. -/

namespace Sys2Proof.Machine

/-! ## Issue -/

theorem RSpec.regs_lt (a : RSpec) : ∀ r ∈ a.regs, r < 32 := by
  cases a with
  | w i => simpa [RSpec.regs] using i.isLt
  | _ => exact fun _ => nofun

/-- An odd encoding is a word of four bytes, and its major opcode stands beside the low bit (R29, R30). -/
theorem formOf_word {i : Instr} (odd : encode i % 2 = 1) : (formOf i).len = 4 ∧ (formOf i).major = encode i / 2 % 64 :=
  ⟨if_neg (by simp only [formOf]; omega), if_pos odd⟩

/-- An unprivileged instruction of a core that can issue whose meaning runs to its end: the next one follows. -/
theorem State.ReadyAt.exec_next {n : Nat} {s t : State} {i : Instr} {b : M Flow} (h : s.ReadyAt n)
    (runs : exec i s = run (formOf i) b s) (hw : i.wf = true) (pr : i.priv = false) (odd : encode i % 2 = 1)
    (rg : ∀ r ∈ i.regs, r < n) (hb : b s = .ok (.next none) t) (k : t.ReadyAt n) : exec i s = .next (t.after 4) := by
  rw [runs, h.run_next hw (.inl pr) rg hb k, (formOf_word odd).1]

/-! ## Values (Tables 4.1, 4.2, 4.6) -/

theorem aluRol_eq (x y : Word) : aluRol x y = x.rotateLeft (y.toNat % 64) :=
  congrArg x.rotateLeft (Nat.mod_mod ..)

theorem aluRor_eq (x y : Word) : aluRor x y = x.rotateLeft ((64 - y.toNat % 64) % 64) :=
  congrArg x.rotateLeft (Nat.mod_mod ..)

theorem aluSne_eq (x y : Word) : aluSne x y = bit (decide (x ≠ y)) :=
  congrArg bit (decide_not (p := x = y)).symm

theorem aluMin_eq (x y : Word) : aluMin x y = if x.toInt < y.toInt then x else y := by
  have eq_of : x.toInt = y.toInt → x = y := BitVec.eq_of_toInt_eq
  simp only [aluMin, BitVec.sle, decide_eq_true_eq]
  grind

theorem aluMax_eq (x y : Word) : aluMax x y = if x.toInt < y.toInt then y else x := by
  simp only [aluMax, BitVec.sle, decide_eq_true_eq]
  grind

theorem aluMinu_eq (x y : Word) : aluMinu x y = if x.toNat < y.toNat then x else y := by
  have eq_of : x.toNat = y.toNat → x = y := BitVec.eq_of_toNat_eq
  simp only [aluMinu, BitVec.ule, decide_eq_true_eq]
  grind

theorem aluMaxu_eq (x y : Word) : aluMaxu x y = if x.toNat < y.toNat then y else x := by
  simp only [aluMaxu, BitVec.ule, decide_eq_true_eq]
  grind

theorem aluSlt_imm (x : Word) (imm : BitVec 13) : aluSlt x (imm13 imm) = bit (decide (x.toInt < imm.toInt)) := by
  rw [← BitVec.toInt_signExtend_of_le (by decide : 13 ≤ 64)]
  rfl

theorem mulHighU_eq (x y : Word) : mulHighU x y = .ofNat 64 (x.toNat * y.toNat / 2 ^ 64) := by
  rw [mulHighU, highHalf, ← BitVec.ofInt_natCast]
  norm_cast

/-! ## Two sources (Tables 4.1, 4.5) -/

/-- INS reads the register it writes as its second source (R78). -/
theorem insert_eq_alu (d a : RSpec) (pos len : Nat) :
    insert d a pos len = alu (fun x old => fieldIns old x pos len) d a d := by
  have swap (x old : Val) : old.map2 (fieldIns · · pos len) x = x.map2 (fun x old => fieldIns old x pos len) old := by
    simp only [Val.map2, Bool.or_comm]
  simp only [insert, alu, swap]

section
variable {i : Instr} {d a b : RSpec} {f : Word → Word → Word} (h : Binary i d a b f)
include h

/-- An instruction of two sources is `alu` of the value that its row gives. -/
theorem Binary.exec_eq (s : State) : exec i s = run (formOf i) (alu f d a b) s := by
  have member : ∃ g, exec i s = run (formOf i) (alu g d a b) s ∧ ∀ x y, g x y = f x y := by
    cases h with
    | rol => exact ⟨aluRol, rfl, aluRol_eq⟩
    | ror => exact ⟨aluRor, rfl, aluRor_eq⟩
    | sne => exact ⟨aluSne, rfl, aluSne_eq⟩
    | min => exact ⟨aluMin, rfl, aluMin_eq⟩
    | max => exact ⟨aluMax, rfl, aluMax_eq⟩
    | minu => exact ⟨aluMinu, rfl, aluMinu_eq⟩
    | maxu => exact ⟨aluMaxu, rfl, aluMaxu_eq⟩
    | ins d a pos len1 => exact ⟨_, congrArg (run _ · s) (insert_eq_alu ..), fun _ _ => rfl⟩
    | _ => exact ⟨_, rfl, fun _ _ => rfl⟩
  obtain ⟨g, e, same⟩ := member
  rw [e, funext₂ same]

theorem Binary.priv : i.priv = false := by
  cases h <;> rfl

theorem Binary.odd : encode i % 2 = 1 := by
  cases h <;> simp only [encode] <;> omega

end

/-- Two operands that can be read, and one that can be written with the result. -/
theorem State.ReadyAt.alu {n : Nat} {s s1 s2 s3 : State} (h : s.ReadyAt n) {d a b : RSpec} {x y : Val}
    (ha : s.src a = some (x, s1)) (hb : s1.src b = some (y, s2)) (f : Word → Word → Word)
    (hd : s2.dst (x.map2 f y) d = some s3) : Machine.alu f d a b s = .ok (.next none) s3 := by
  have h1 := h.src ha
  rw [Machine.alu, bind_ok (h.readR ha), bind_ok (h1.readR hb)]
  exact bind_ok ((h1.src hb).writeR hd)

/-! ## One source and none (Tables 4.4 to 4.7) -/

section
variable {i : Instr} {d a : RSpec} {f : Word → Word} (h : Unary i d a f)
include h

/-- An instruction of one source is `unary` of the value that its row gives. -/
theorem Unary.exec_eq (s : State) : exec i s = run (formOf i) (unary f d a) s := by
  have member : ∃ g, exec i s = run (formOf i) (unary g d a) s ∧ ∀ x, g x = f x := by
    cases h with
    | slti d a imm => exact ⟨_, rfl, fun x => aluSlt_imm x imm⟩
    | _ => exact ⟨_, rfl, fun _ => rfl⟩
  obtain ⟨g, e, same⟩ := member
  rw [e, funext same]

theorem Unary.priv : i.priv = false := by
  cases h <;> rfl

theorem Unary.odd : encode i % 2 = 1 := by
  cases h <;> simp only [encode] <;> omega

end

theorem State.ReadyAt.unary {n : Nat} {s s1 s2 : State} (h : s.ReadyAt n) {d a : RSpec} {x : Val}
    (ha : s.src a = some (x, s1)) (f : Word → Word) (hd : s1.dst (x.map f) d = some s2) :
    Machine.unary f d a s = .ok (.next none) s2 := by
  rw [Machine.unary, bind_ok (h.readR ha)]
  exact bind_ok ((h.src ha).writeR hd)

section
variable {i : Instr} {d : RSpec} {f : BitVec 48 → Word} (h : Constant i d f)
include h

/-- A constant builder writes its constant. -/
theorem Constant.exec_eq (s : State) :
    ∃ b, exec i s = run (formOf i) b s ∧ b s = andNext (writeR d (.clean (f s.core.cur.pc))) s := by
  cases h <;> exact ⟨_, rfl, rfl⟩

theorem Constant.priv : i.priv = false := by
  cases h <;> rfl

theorem Constant.odd : encode i % 2 = 1 := by
  cases h <;> simp only [encode] <;> omega

end

end Sys2Proof.Machine

open Sys2Proof Sys2Proof.Machine

/-- Settles O8: every instruction of two sources is `alu` of its row's value. -/
theorem twoSourceResult : Obligations.TwoSourceResult := by
  unfold Obligations.TwoSourceResult
  intro s s1 s2 s3 i d a b f x y n h hw hs rg ha hb hd
  exact hs.exec_next (h.exec_eq s) hw h.priv h.odd rg (hs.alu ha hb f hd) (((hs.src ha).src hb).dst hd)

/-- Settles O9: every instruction of one source is `unary` of its row's value, and a constant builder writes its constant. -/
theorem oneSourceResult : Obligations.OneSourceResult := by
  unfold Obligations.OneSourceResult
  refine ⟨fun s s1 s2 i d a f x n h hw hs rg ha hd => ?_, fun s s1 i d f n h hw hs rg hd => ?_⟩
  · exact hs.exec_next (h.exec_eq s) hw h.priv h.odd rg (hs.unary ha f hd) ((hs.src ha).dst hd)
  · obtain ⟨b, runs, eq⟩ := h.exec_eq s
    exact hs.exec_next runs hw h.priv h.odd rg (eq.trans (bind_ok (hs.writeR hd))) (hs.dst hd)
end

section
/-! SUPPORT. Multiply and divide: their word, and the pending write of a result with a window. -/

namespace Sys2Proof.Machine

/-! ## A pending write (R39, R40) -/

/-- The pending write that the next carrier of a machine opens. -/
def State.pending (s : State) (d : Dest) (l : Nat) (v : Option Payload) : Slot :=
  { uid := s.uid, dest := d, rem := l, counted := decide (l ≠ 0), value := v, here := v.isSome,
    cancelled := false, acq := false, load := false, ldc := false, block := false }

theorem newSlot_run (d : Dest) (l : Nat) (v : Option Payload) (s : State) :
    newSlot d l v s = .ok (s.pending d l v) { s with uid := s.uid + 1 } := rfl

theorem State.ReadyAt.takeSlot {n : Nat} {s : State} (h : s.ReadyAt n) (l : Nat) : Machine.takeSlot l s = .ok () s := by
  unfold Machine.takeSlot
  split
  · rfl
  · simp [bind_run, h.slots]

/-- A destination where a pending write can open lets it open, on a core that can still issue. -/
theorem State.ReadyAt.openable {n : Nat} {s t : State} (h : s.ReadyAt n) {r : RSpec} (e : s.openable r = some t) :
    t.ReadyAt n ∧ ∀ (l : BitVec 4) (v : Val), l ≠ 0 → Machine.carry r l v s =
      .ok (.next (some (t.pending (.reg r) l.toNat (some (.word v))))) { t with uid := t.uid + 1 } := by
  cases r with
  | w i | z =>
    cases e
    exact ⟨h, fun l v hl => by rw [Machine.carry, if_neg hl]; rfl⟩
  | inp d | inq => cases e
  | out o =>
    obtain ⟨con, e⟩ : s.connected s.core.id o = true ∧ s.irrevocably = some t := by
      simpa [State.openable] using e
    obtain ⟨act, ready, -⟩ := h.irrevocable e
    have check : chanCheck o (32 + o.num) s = .ok () s := by simp [chanCheck, bind_run, con]
    refine ⟨ready, fun l v hl => ?_⟩
    rw [Machine.carry, if_neg hl]
    exact (bind_ok check).trans ((bind_ok act).trans rfl)

/-- A result without a window is written at once. -/
theorem State.ReadyAt.carry_now {n : Nat} {s t : State} (h : s.ReadyAt n) {r : RSpec} {v : Val} (e : s.dst v r = some t) :
    Machine.carry r 0 v s = .ok (.next none) t := by
  rw [Machine.carry, if_pos rfl, bind_ok (h.writeR e), pure_run]

/-- A window that opens on a core without others and without loops: the next instruction follows. -/
theorem State.complete_opens {s : State} (h : s.core.cur.slots = []) (l : s.core.cur.loops = []) {sl : Slot} (hr : sl.rem ≠ 0)
    (hc : sl.cancelled = false) (f : Form) : s.complete f (.next (some sl)) = (s.withSlots [sl]).after f.len := by
  have waits : sl.ready = false := by simp [Slot.ready, hr]
  have opens (u : State) (hu : u.core.cur.slots = []) : u.tick (some sl) = u.withSlots [sl] := by
    have opened : u.openSlot sl = u.withSlots [sl] := by
      simp only [State.openSlot, hu, List.nil_append, cancelOlder, beq_eq_false_iff_ne.2 hr, Bool.false_and]
      rfl
    have held : (u.withSlots [sl]).applyHeld = u.withSlots [sl] := by
      have : (u.withSlots [sl]).core.cur.slots = [sl] := rfl
      simp only [State.applyHeld, this, applyList, hc, waits, Bool.false_and]
      rfl
    have before := State.tick_none hu
    simp only [State.tick] at before ⊢
    rw [before, opened, held]
  change State.endTests 3 ((s.issued.tick (some sl)).advance f.len) = _
  rw [opens s.issued h]
  exact State.endTests_none (s := (s.issued.withSlots [sl]).advance f.len) l 3

/-! ## MULDIV (Table 4.2) -/

theorem encode_muldiv (d a b : RSpec) (l : BitVec 4) :
    let w (k : Nat) : Nat := 0x03 + d.bits * 2 ^ 7 + a.bits * 2 ^ 13 + b.bits * 2 ^ 19 + l.toNat * 2 ^ 25 + k * 2 ^ 29
    encode (.mul d a b l) = w 0 ∧ encode (.mulh d a b l) = w 1 ∧ encode (.mulhu d a b l) = w 2 ∧
    encode (.mulhsu d a b l) = w 3 ∧ encode (.div d a b l) = w 4 ∧ encode (.divu d a b l) = w 5 ∧
    encode (.rem d a b l) = w 6 ∧ encode (.remu d a b l) = w 7 := by
  simp only [encode]
  omega

section
variable {i : Instr} {d a b : RSpec} {l : BitVec 4} {f : Word → Word → Word} (h : MulDiv i d a b l f)
include h

/-- A member of MULDIV is `muldiv` of the value that its row gives. -/
theorem MulDiv.exec_eq (s : State) : exec i s = run (formOf i) (muldiv f d a b l) s := by
  have member : ∃ g, exec i s = run (formOf i) (muldiv g d a b l) s ∧ ∀ x y, g x y = f x y := by
    cases h with
    | mulhu => exact ⟨mulHighU, rfl, mulHighU_eq⟩
    | _ => exact ⟨_, rfl, fun _ _ => rfl⟩
  obtain ⟨g, e, same⟩ := member
  rw [e, funext₂ same]

theorem MulDiv.priv : i.priv = false := by
  cases h <;> rfl

theorem MulDiv.odd : encode i % 2 = 1 := by
  cases h <;> simp only [encode] <;> omega

end

/-- Multiply and divide read their operands, and carry the result to its destination. -/
theorem State.ReadyAt.muldiv {n : Nat} {s s1 s2 : State} (h : s.ReadyAt n) {a b : RSpec} {x y : Val}
    (ha : s.src a = some (x, s1)) (hb : s1.src b = some (y, s2)) (f : Word → Word → Word) (d : RSpec) (l : BitVec 4) :
    Machine.muldiv f d a b l s = Machine.carry d l (x.map2 f y) s2 := by
  rw [Machine.muldiv, bind_ok (h.takeSlot _), bind_ok (h.readR ha), bind_ok ((h.src ha).readR hb)]

end Sys2Proof.Machine

open Sys2Proof Sys2Proof.Machine

/-- Settles O10: every member of MULDIV carries its row's value, at once or in a pending write. -/
theorem mulDivResult : Obligations.MulDivResult := by
  unfold Obligations.MulDivResult
  refine ⟨encode_muldiv, fun s s1 s2 i d a b l f x y n h hw hs rg ha hb => ?_⟩
  intro v
  have carries : muldiv f d a b l s = carry d l v s2 := hs.muldiv ha hb f d l
  have ready : s2.ReadyAt n := (hs.src ha).src hb
  refine ⟨fun s3 hl hd => ?now, fun s3 hl hd => ?later⟩
  case now =>
    subst hl
    exact hs.exec_next (h.exec_eq s) hw h.priv h.odd rg (carries.trans (ready.carry_now hd)) (ready.dst hd)
  case later =>
    obtain ⟨k, opens⟩ := ready.openable hd
    have open' : l.toNat ≠ 0 := fun e => hl (BitVec.eq_of_toNat_eq e)
    rw [h.exec_eq, run_ok (hs.issue hw (.inl h.priv) rg) (carries.trans (opens l v hl)),
      State.complete_opens (by exact k.slots) (by exact k.loops) open' rfl, (formOf_word h.odd).1]
    rfl
end

section
/-! SUPPORT. Control: operands whose poison is consumed, what a fault leaves, and where branches and jumps lead. -/

namespace Sys2Proof.Machine

/-! ## Consumed operands (R73) -/

namespace State

theorem ReadyAt.irrevocably_pc {n : Nat} {s t : State} (h : s.ReadyAt n) (e : s.irrevocably = some t) :
    t.core.cur.pc = s.core.cur.pc := by
  obtain ⟨b, l, o, p, a, c, hs, r, ha⟩ := s.commitSome_eq
  have check : s.commitSome.core.cur.act.check = none := by rw [c, ha]; exact h.check
  simp only [irrevocably] at e
  split at e
  · split at e
    · cases e
      rw [uncheck_eq check, c]
    · cases e
  · cases e
    rfl

/-- Reading an operand leaves the PC. -/
theorem ReadyAt.src_pc {n : Nat} {s t : State} (h : s.ReadyAt n) {r : RSpec} {v : Val} (e : s.src r = some (v, t)) :
    t.core.cur.pc = s.core.cur.pc := by
  cases r with
  | w i | z => exact congrArg (·.core.cur.pc) (Prod.mk.inj (Option.some.inj e)).2.symm
  | out d => cases e
  | inq =>
    simp only [State.src] at e
    split at e <;> exact congrArg (·.core.cur.pc) (Prod.mk.inj (Option.some.inj e)).2.symm
  | inp d =>
    simp only [State.src] at e
    split at e
    · split at e
      · obtain ⟨u, k, same⟩ := Option.map_eq_some_iff.1 e
        exact (congrArg (·.core.cur.pc) (Prod.mk.inj same).2.symm).trans (h.irrevocably_pc k)
      · cases e
    · cases e

theorem ReadyAt.readClean {n : Nat} {s t : State} (h : s.ReadyAt n) {r : RSpec} {v : Val} (e : s.src r = some (v, t))
    (clean : v.poison = false) : Machine.readClean r s = .ok v t := by
  rw [Machine.readClean, bind_ok (h.readR e), clean]
  rfl

theorem ReadyAt.readClean_poison {n : Nat} {s t : State} (h : s.ReadyAt n) {r : RSpec} {v : Val} (e : s.src r = some (v, t))
    (bad : v.poison = true) : Machine.readClean r s = .error (.trap (poisonTrap r)) t := by
  rw [Machine.readClean, bind_ok (h.readR e), bad]
  rfl

/-- A machine with its operands put back has nothing taken that a fault would keep. -/
theorem keepTaken_untaken (s t : State) : s.keepTaken (t.untaken s) = s := by
  simp [keepTaken, untaken]

/-- A fault leaves what the instruction took until then, and is taken at its own address. -/
theorem run_trap {s t : State} {f : Form} {b : M Flow} {tr : TrapInfo} (armed : s.armed = [])
    (h : (do issue f; b : M Flow) s = .error (.trap tr) t) :
    run f b s = .next ((s.keepTaken t).takeTrap tr s.core.cur.pc f.major) := by
  rw [run_error h (by simp), stop, keepFound_of_unarmed armed]

/-- Consumed poison is the only effect of its instruction (R73). -/
theorem run_consumed {s t : State} {f : Form} {b : M Flow} {tr : TrapInfo} (armed : s.armed = [])
    (h : (do issue f; b : M Flow) s = .error (.trap tr) (t.untaken s)) :
    run f b s = .next (s.takeTrap tr s.core.cur.pc f.major) := by
  rw [run_trap armed h, keepTaken_untaken]

/-- A fault in the state in which the instruction began is its only effect. -/
theorem run_fault {s : State} {f : Form} {b : M Flow} {tr : TrapInfo} (armed : s.armed = [])
    (h : (do issue f; b : M Flow) s = .error (.trap tr) s) :
    run f b s = .next (s.takeTrap tr s.core.cur.pc f.major) := by
  rw [run_trap armed h, keepTaken_self]

end State

theorem consuming_poison {α : Type} {x : M α} {s t : State} {r : RSpec} (h : x s = .error (.trap (poisonTrap r)) t) :
    consuming x s = .error (.trap (poisonTrap r)) (t.untaken s) := by
  simp only [consuming, h]
  rfl

theorem consuming_map {α β : Type} (f : α → β) (x : M α) : consuming (f <$> x) = f <$> consuming x := by
  funext s
  simp only [consuming, map_run]
  cases x s with
  | ok a t => rfl
  | error e t => cases e <;> rfl

/-! ## Branches (R82) -/

/-- A branch on a bit is one on two operands, the second of which is `z`. -/
theorem branchBit_eq_branch (v : Bool) (a : RSpec) (bit : BitVec 6) (off : BitVec 10) :
    branchBit v a bit off = branch (fun x _ => x.getLsbD bit.toNat == v) a .z off := by
  have pair : (do return (← readClean a, ← readClean .z) : M (Val × Val)) = (fun x => (x, Val.clean 0)) <$> readClean a := rfl
  rw [branch, pair, consuming_map, bind_map_left]
  rfl

section
variable {i : Instr} {a b : RSpec} {off : BitVec 10} {p : Word → Word → Bool} (h : Branch i a b off p)
include h

/-- A branch is `branch` on the condition of its row. -/
theorem Branch.exec_eq (s : State) : exec i s = run (formOf i) (branch p a b off) s := by
  have member : ∃ q, exec i s = run (formOf i) (branch q a b off) s ∧ ∀ x y, q x y = p x y := by
    cases h with
    | bne => exact ⟨_, rfl, fun x y => (decide_not (p := x = y)).symm⟩
    | bbs a bit => exact ⟨_, congrArg (run _ · s) (branchBit_eq_branch true ..), fun x _ => beq_true _⟩
    | bbc a bit => exact ⟨_, congrArg (run _ · s) (branchBit_eq_branch false ..), fun x _ => beq_false _⟩
    | _ => exact ⟨_, rfl, fun _ _ => rfl⟩
  obtain ⟨q, e, same⟩ := member
  rw [e, funext₂ same]

theorem Branch.priv : i.priv = false := by
  cases h <;> rfl

theorem Branch.odd : encode i % 2 = 1 := by
  cases h <;> simp only [encode] <;> omega

theorem Branch.regs_lt : ∀ r ∈ i.regs, r < 32 := by
  have named : ∀ r ∈ i.regs, r ∈ a.regs ∨ r ∈ b.regs := by
    cases h with
    | bbs | bbc => exact fun r hr => .inl hr
    | _ => exact fun r hr => List.mem_append.1 hr
  exact fun r hr => (named r hr).elim (RSpec.regs_lt a r) (RSpec.regs_lt b r)

theorem Branch.issue {s : State} (hw : i.wf = true) (hs : s.Ready) : issue (formOf i) s = .ok () s :=
  hs.issue hw (.inl h.priv) h.regs_lt

end

namespace State

theorem ReadyAt.branchIf {n : Nat} {s : State} (h : s.ReadyAt n) (taken : Bool) (off : BitVec 10) :
    Machine.branchIf taken off s = .ok (if taken then .goto (s.ahead (off.signExtend 48)) else .next none) s := by
  cases taken with
  | false => rfl
  | true => exact bind_ok h.endWindows

variable {s s1 s2 : State} {n : Nat} (h : s.ReadyAt n) {a b : RSpec} {x y : Val} (ha : s.src a = some (x, s1))
  (p : Word → Word → Bool) (off : BitVec 10)
include h ha

theorem ReadyAt.branch (hb : s1.src b = some (y, s2)) (cx : x.poison = false) (cy : y.poison = false) :
    Machine.branch p a b off s =
      .ok (if p x.bits y.bits then .goto (s.ahead (off.signExtend 48)) else .next none) s2 := by
  have h1 := h.src ha
  have pair : (do return (← Machine.readClean a, ← Machine.readClean b) : M (Val × Val)) s = .ok (x, y) s2 :=
    (bind_ok (h.readClean ha cx)).trans (bind_ok (h1.readClean hb cy))
  have there : s2.ahead (off.signExtend 48) = s.ahead (off.signExtend 48) := by
    rw [ahead, ahead, h1.src_pc hb, h.src_pc ha]
  rw [Machine.branch, bind_ok (consuming_ok pair), ← there]
  exact (h1.src hb).branchIf ..

theorem ReadyAt.branch_poison (bad : x.poison = true) :
    Machine.branch p a b off s = .error (.trap (poisonTrap a)) (s1.untaken s) :=
  bind_error (consuming_poison (bind_error (h.readClean_poison ha bad)))

end State

/-! ## Jumps (R83) -/

/-- A jump of a core that can issue goes to its target. -/
theorem State.ReadyAt.exec_goto {s t : State} {i : Instr} {b : M Flow} {pc : BitVec 48} (h : s.Ready)
    (runs : exec i s = run (formOf i) b s) (hw : i.wf = true) (pr : i.priv = false) (rg : ∀ r ∈ i.regs, r < 32)
    (hb : b s = .ok (.goto pc) t) (k : t.Ready) : exec i s = .next (t.went pc) := by
  rw [runs, run_ok (h.issue hw (.inl pr) rg) hb, State.complete_goto k.loops]

theorem exec_j {s : State} (h : s.Ready) (off : BitVec 25) : exec (.j off) s = .next (s.went (s.ahead (off.signExtend 48))) :=
  h.exec_goto (b := jump off) rfl rfl rfl (fun _ => nofun) (bind_ok h.endWindows) h

theorem exec_jal {s t : State} (h : s.Ready) (off : BitVec 25)
    (hd : s.dst s.core.link (.w 31) = some t) :
    exec (.jal off) s = .next (t.went (s.ahead (off.signExtend 48))) := by
  have link : jumpLink off s = .ok (.goto (s.ahead (off.signExtend 48))) t :=
    (bind_ok h.endWindows).trans (bind_ok (h.writeR hd))
  exact h.exec_goto rfl rfl rfl (by decide : ∀ r ∈ [31], r < 32) link (h.dst hd)

/-- The target of JALR (R83). -/
def jalrTarget (x : Word) (imm : BitVec 13) : BitVec 48 := (x + imm.signExtend 64 * 2).setWidth 48

theorem jalrTarget_toNat (x : Word) (imm : BitVec 13) : (x + imm13 imm * 2).toNat % 2 ^ 48 = (jalrTarget x imm).toNat :=
  (BitVec.toNat_setWidth ..).symm

theorem jalrTarget_odd (x : Word) (imm : BitVec 13) :
    (jalrTarget x imm).getLsbD 0 = ((jalrTarget x imm).toNat % 2 == 1) := by
  rw [BitVec.getLsbD, Nat.testBit_zero]
  rfl

section
variable {s s1 : State} {d a : RSpec} {imm : BitVec 13} {x : Val} (h : s.Ready) (hw : (Instr.jalr d a imm).wf = true)
  (ha : s.src a = some (x, s1))
include h hw

theorem issue_jalr : issue (formOf (.jalr d a imm)) s = .ok () s :=
  h.issue hw (.inl rfl) fun r hr => (List.mem_append.1 hr).elim (RSpec.regs_lt d r) (RSpec.regs_lt a r)

omit h hw in
theorem jalr_major : (formOf (.jalr d a imm)).major = 0x13 := by
  have e : encode (.jalr d a imm) = 0x27 + d.bits * 128 + a.bits * 8192 + imm.toNat * 524288 := rfl
  rw [(formOf_word (by omega)).2]
  omega

include ha

theorem exec_jalr {t : State} (clean : x.poison = false) (even : (jalrTarget x.bits imm).getLsbD 0 = false)
    (hd : s1.dst s.core.link d = some t) :
    exec (.jalr d a imm) s = .next (t.went (jalrTarget x.bits imm)) := by
  have k := h.src ha
  have aligned : ((jalrTarget x.bits imm).toNat % 2 == 1) = false := by
    rw [← jalrTarget_odd, even]
  have body : jumpReg d a imm s = .ok (.goto (jalrTarget x.bits imm)) t := by
    rw [jumpReg, bind_ok (getC_run s), bind_ok (consuming_ok (h.readClean ha clean)), jalrTarget_toNat, aligned,
      bind_ok (faultIf_false ..), bind_ok k.endWindows, bind_ok (k.writeR hd), BitVec.ofNat_toNat, BitVec.setWidth_eq]
    rfl
  rw [show exec (.jalr d a imm) s = run (formOf (.jalr d a imm)) (jumpReg d a imm) s from rfl,
    run_ok (issue_jalr h hw) body, State.complete_goto (k.dst hd).loops]

theorem exec_jalr_odd (clean : x.poison = false) (odd : (jalrTarget x.bits imm).getLsbD 0 = true) :
    exec (.jalr d a imm) s = .next ((s.keepTaken s1).takeTrap (simpleTrap cALIGN ((jalrTarget x.bits imm).setWidth 64))
      s.core.cur.pc 0x13) := by
  have body : jumpReg d a imm s = .error (.trap (simpleTrap cALIGN ((jalrTarget x.bits imm).setWidth 64))) s1 := by
    rw [jumpReg, bind_ok (getC_run s), bind_ok (consuming_ok (h.readClean ha clean)), jalrTarget_toNat, ← jalrTarget_odd, odd,
      ← BitVec.ofNat_toNat]
    exact bind_error rfl
  rw [show exec (.jalr d a imm) s = run (formOf (.jalr d a imm)) (jumpReg d a imm) s from rfl,
    State.run_trap h.armed ((bind_ok (issue_jalr h hw)).trans body), jalr_major]

end

end Sys2Proof.Machine

open Sys2Proof Sys2Proof.Machine

/-- Settles O11: operands, condition and target of each branch and jump. -/
theorem branchesAndJumps : Obligations.BranchesAndJumps := by
  unfold Obligations.BranchesAndJumps
  refine ⟨fun s s1 s2 i a b off p x y h hw hs ha hb => ⟨fun cx cy => ?_, fun bad => ?_⟩, fun s off hs => exec_j hs off,
    fun s t off hs hd => exec_jal hs off hd, fun s s1 d a imm x hw hs ha clean => ⟨?_, ?_⟩⟩
  · rw [h.exec_eq, run_ok (h.issue hw hs) (hs.branch ha p off hb cx cy)]
    have k := (hs.src ha).src hb
    split
    · exact congrArg _ (State.complete_goto k.loops ..)
    · rw [State.complete_next k.slots k.loops, (formOf_word h.odd).1]
  · have consumed : (do issue (formOf i); branch p a b off : M Flow) s = .error (.trap (poisonTrap a)) (s1.untaken s) :=
      (bind_ok (h.issue hw hs)).trans (hs.branch_poison ha p off bad)
    rw [h.exec_eq, State.run_consumed hs.armed consumed, (formOf_word h.odd).2]
  · exact fun t even hd => exec_jalr hs hw ha clean even hd
  · exact fun odd => exec_jalr_odd hs hw ha clean odd
end

section
/-! SUPPORT. The TRAPS major: what TRAP, BRK and IDLE leave, the entry into a handler, and the return from it. -/

namespace Sys2Proof.Machine

/-! ## Traps (R93, R338) -/

namespace State

/-- Outside a handler, with a handler's address in TVEC, a fault that is no consumption of poison enters the handler. -/
theorem takeTrap_enters {s : State} {t : TrapInfo} (check : s.core.cur.act.check = none) (cause : t.cause ≠ cPOISON)
    (vec : s.core.tvec ≠ 0) (out : s.core.inHandler = false) (pc : BitVec 48) (major : Nat) : s.takeTrap t pc major =
      (s.traceAct 4 t.cause s.core.cur.act (t.epc.getD pc).toNat).startHandler t (t.epc.getD pc) := by
  simp only [takeTrap, Act.isCheck, check, cause, vec, out, Option.isSome_none, decide_false, Bool.false_and, Bool.or_false,
    Bool.false_eq_true, if_false]

/-- An instruction that completes and takes a fault past itself, with no window open. -/
theorem complete_trap {s : State} (h : s.core.cur.slots = []) (f : Form) (t : TrapInfo) :
    s.complete f (.trap t) = (s.after f.len).takeTrap t (s.after f.len).core.cur.pc f.major := by
  change ((s.issued.tick none).advance f.len).takeTrap t ((s.issued.tick none).advance f.len).core.cur.pc f.major = _
  rw [tick_none (s := s.issued) h]
  rfl

end State

section
variable {s : State} (h : s.Ready)
include h

theorem exec_nop : exec .nop s = .next (s.after 4) :=
  h.run_next rfl (.inl rfl) (fun _ => nofun) rfl h

theorem exec_idle (priv : s.core.priv = true) (work : s.core.hq ≠ [] ∨ s.core.lq ≠ [] ∨ s.core.stopReq = true) :
    exec .idle s = .next (s.after 4) := by
  have wakes : (!s.core.hq.isEmpty || !s.core.lq.isEmpty || s.core.stopReq) = true := by
    simpa [or_assoc] using work
  have body : idle s = .ok (.next none) s := by
    rw [idle, bind_ok (getC_run s), wakes]
    rfl
  exact h.run_next rfl (.inr priv) (fun _ => nofun) body h

theorem exec_trap {s1 : State} {a : RSpec} {x : Val} (hw : (Instr.trap a).wf = true) (ha : s.src a = some (x, s1)) :
    exec (.trap a) s = .next ((s1.after 4).takeTrap (simpleTrap cTRAP x.bits) (s1.after 4).core.cur.pc 0x17) := by
  have enc : encode (.trap a) = 0x200002f + a.bits * 8192 := rfl
  obtain ⟨len, major⟩ := formOf_word (i := .trap a) (by omega)
  have body : trapTo a s = .ok (.trap (simpleTrap cTRAP x.bits)) s1 := bind_ok (h.readR ha)
  rw [show exec (.trap a) s = run (formOf (.trap a)) (trapTo a) s from rfl,
    run_ok (h.issue hw (.inl rfl) (RSpec.regs_lt a)) body, State.complete_trap (h.src ha).slots, len, major, enc]
  congr 2
  omega

theorem exec_brk : exec .brk s = .next (s.takeTrap (simpleTrap cBRK 0) s.core.cur.pc 0x17) :=
  State.run_fault h.armed (bind_ok (h.issue (f := formBrk) rfl (.inl rfl) (fun _ => nofun)))

end

/-! ## The return (R339) -/

theorem Core.rteForm_major (c : Core) : c.rteForm.major = 0x17 := (by decide : formRte.major = 0x17)

/-- RTE that faults at issue. -/
theorem exec_rte_fault {s : State} {t : TrapInfo} (armed : s.armed = [])
    (h : issue s.core.rteForm s = .error (.trap t) s) : exec .rte s = .next (s.takeTrap t s.core.cur.pc 0x17) := by
  rw [← s.core.rteForm_major]
  exact State.run_fault armed (bind_error h)

section
variable {s : State} (active : s.core.active = true) (slots : s.core.cur.slots = [])
include active slots

/-- Outside a handler RTE is illegal before anything else. -/
theorem issue_rte_outside (out : s.core.inHandler = false ∨ s.core.frame = none) :
    issue s.core.rteForm s = .error (.trap (simpleTrap cILL (.ofNat 64 (encode .rte)))) s := by
  have ok : s.core.rteForm.ok = false := by
    rcases out with out | out <;> simp [Core.rteForm, out]
  simp only [issue, bind_run, getC_run, active, slots, List.all_nil, Bool.and_true, waitUntil_true, ok]
  rfl

variable (handler : s.core.inHandler = true) {fr : TrapFrame} (frame : s.core.frame = some fr)
include handler frame

theorem issue_rte_user (user : s.core.priv = false) :
    issue s.core.rteForm s = .error (.trap (simpleTrap cPRIV (.ofNat 64 (encode .rte)))) s := by
  have ok : s.core.rteForm.ok = true := by simp [Core.rteForm, handler, frame]
  simp only [issue, bind_run, getC_run, active, slots, List.all_nil, Bool.and_true, waitUntil_true, ok, user]
  rfl

/-- RTE waits for no repetition buffer, as it names no register, and no register is out of its range. -/
theorem issue_rte (priv : s.core.priv = true) : issue s.core.rteForm s = .ok () s := by
  have ok : s.core.rteForm.ok = true := by simp [Core.rteForm, handler, frame]
  have goes : s.core.rteForm.waits = false := (by decide : formRte.waits = false)
  have free (b : RepBuf) : b.blocks [] [] = false := by simp [RepBuf.blocks]
  have named : s.core.rteForm.regs = [] ∧ s.core.rteForm.chans = [] := ⟨rfl, rfl⟩
  simp only [issue, bind_run, getC_run, active, slots, List.all_nil, Bool.and_true, waitUntil_true, ok, priv, Bool.not_true,
    Bool.and_false, faultIf_false, named, regRange, lowestFrom, pure_run, goes]
  cases s.core.cur.rep with
  | none => rfl
  | some b => simp [free]

theorem exec_rte (priv : s.core.priv = true) : exec .rte s = .next ((s.returnFrom fr).suspend).issued := by
  have windows : endWindows s = .ok () s := by simp [endWindows, bind_run, State.closeWindows_none slots]
  have body : returnTrap s = .ok .done (s.returnFrom fr).suspend := by
    rw [returnTrap, bind_ok (getC_run s), frame]
    exact bind_ok windows
  exact run_ok (issue_rte active slots handler frame priv) body

end

end Sys2Proof.Machine

open Sys2Proof Sys2Proof.Machine

/-- Settles O13: each member of the TRAPS major, and the entry that its trap makes outside a handler. -/
theorem trapsMajor : Obligations.TrapsMajor := by
  unfold Obligations.TrapsMajor
  refine ⟨⟨fun s hs => exec_nop hs, fun s hs priv work => exec_idle hs priv work, fun s s1 a x hw hs ha => ?trap,
    fun s hs => ?brk⟩, fun s fr active slots handler frame => ?rte, fun s active slots armed out => ?outside⟩
  case trap =>
    have taken := exec_trap hs hw ha
    refine ⟨taken, fun vec out => taken.trans (congrArg _ ?_)⟩
    exact State.takeTrap_enters (s := s1.after 4) (hs.src ha).check (by decide : cTRAP ≠ cPOISON) vec out _ _
  case brk =>
    have taken := exec_brk hs
    exact ⟨taken, fun vec out => taken.trans (congrArg _ (State.takeTrap_enters hs.check (by decide : cBRK ≠ cPOISON) vec out _ _))⟩
  case rte =>
    refine ⟨exec_rte active slots handler frame, fun user armed => ?_⟩
    exact exec_rte_fault armed (issue_rte_user active slots handler frame user)
  case outside =>
    exact exec_rte_fault armed (issue_rte_outside active slots out)
end

section
/-! SUPPORT. The states that refute the poisoned counts of end tests: one whose count the repetition buffer still writes, and
one whose poisoned inner count ends its loop where an outer loop ends too. -/

namespace Sys2Proof.Machine

/-- An end test whose count is still to be written waits (R86, R180). -/
theorem State.endTest_owed {s : State} {i : BitVec 5} (h : s.core.owes (Dest.isReg (.w i)) = true) (e : LoopEntry)
    (rest : List LoopEntry) : s.endTest e rest i = s := if_pos h

/-- A due end test that waits is all of the turn. -/
theorem State.integerTurn_owed {s : State} {e : LoopEntry} {i : BitVec 5} (run : s.mayIssue = true)
    (press : s.core.pressFault = none) (loops : s.core.cur.loops = [e]) (count : e.c = .w i) (due : s.core.cur.pc = e.stop)
    (owed : s.core.owes (Dest.isReg (.w i)) = true) : s.integerTurn = .next s.stall := by
  have test : s.core.testDue = true := by simp [Core.testDue, loops, due]
  have waits : s.endTests 3 = s := by simp [State.endTests, loops, due, count, State.endTest_owed owed]
  simp [State.integerTurn, run, press, test, State.dueTests, waits]

/-- A core of no kernel runs an activation at 0x10010, whose count w5 is poisoned and whose w6 is 3. -/
def counting (loops : List LoopEntry) (rep : Option RepBuf) (tvec : BitVec 48) : State :=
  let cur : Thread := { Thread.blank with pc := 0x10010, loops := loops, rep := rep }
  let c : Core := { State.reset.core with active := true, cur := cur, tvec := tvec }
  { State.reset with
    core := (c.putReg 5 { bits := 5, taint := false, poison := true }).putReg 6 { bits := 3, taint := false, poison := false } }

/-- A loop whose count a mask population of the repetition buffer has still to write. -/
def awaitedCount : State :=
  counting [{ start := 0x10000, stop := 0x10010, c := .w 5 }]
    (some { body := [{ addr := 0x10004, ins := { laneOp (.m .popc) .vz (.m 1) .vz with r := .w 5 } }]
            vstride := 0, passes := 1, pass := 0, next := 0, lmask := 0 }) 0x8000

/-- Two loops that end after the instruction at the PC, on a core that has neither a handler nor a context. -/
def nestedEnds : State :=
  counting [{ start := 0x10008, stop := 0x10014, c := .w 5 }, { start := 0x10000, stop := 0x10014, c := .w 6 }] none 0

theorem nestedEnds_flows : nestedEnds.Flows := ⟨rfl, rfl, fun _ => nofun, rfl, rfl, rfl, fun _ => nofun⟩

/-- The poisoned inner count ends nothing there, as no context stands to take the error, and the outer test follows. -/
theorem exec_nop_nestedEnds : ∃ t, exec .nop nestedEnds = .next t ∧ t.core.cur.pc = 0x10000 := ⟨_, rfl, by decide⟩

end Sys2Proof.Machine

open Sys2Proof Sys2Proof.Machine

/-- Refutes O7: its clause on a due end test says nothing of the repetition buffer. In `awaitedCount` an instruction of the buffer
has still to write the count (R180), so that the test waits, where the statement has the poison that stands there now taken. -/
theorem not_poisonConsumed : ¬ Obligations.PoisonConsumed := by
  unfold Obligations.PoisonConsumed
  rintro ⟨-, -, -, -, test, -⟩
  have taken := test awaitedCount _ 5 rfl rfl rfl rfl rfl rfl rfl rfl rfl (by decide) (by decide) rfl rfl rfl
  have waits : awaitedCount.integerTurn = .next awaitedCount.stall := State.integerTurn_owed rfl rfl rfl rfl rfl rfl
  rw [waits, Host.Outcome.next.injEq] at taken
  have handler := congrArg (·.core.inHandler) taken
  exact absurd handler (by decide)

/-- Refutes O12: its clause on a poisoned count says nothing of the loops outside. In `nestedEnds` no context takes the error
of the trap, the activation runs on, and the outer loop, which ends there too, makes its own test (log entry 35): the PC goes
back to its start, where the statement leaves it at the end. -/
theorem not_loopAndRep : ¬ Obligations.LoopAndRep := by
  unfold Obligations.LoopAndRep
  rintro ⟨-, -, -, test, -⟩
  have trapped := (test nestedEnds _ _ 5 nestedEnds_flows rfl rfl rfl rfl).2.2 (by decide)
  obtain ⟨t, run, pc⟩ := exec_nop_nestedEnds
  rw [run, Host.Outcome.next.injEq] at trapped
  rw [trapped] at pc
  exact absurd pc (by decide)
end
section
/-! SUPPORT. What reading operands and irrevocable acts leave of the running activation, and the reads of occupancy. -/

namespace Sys2Proof.Machine

/-! ## What an irrevocable act leaves (R106, R107) -/

namespace State

/-- The activation becomes uncheckable, and the core can still issue (R108). -/
theorem ReadyAt.unchecked {n : Nat} {s : State} (h : s.ReadyAt n) : s.uncheck.ReadyAt n := by
  rw [uncheck_eq h.check]
  exact h.of rfl rfl rfl rfl rfl rfl rfl rfl

/-- An irrevocable act sends held outputs, and changes of the rest the running activation only. -/
theorem ReadyAt.irrevocably_eq {n : Nat} {s t : State} (h : s.ReadyAt n) (e : s.irrevocably = some t) :
    ∃ b l o p a, t = { s with
        core := { s.core with storeBuf := b, l1 := l, outbox := o, cur := { s.core.cur with act := a } }, parcels := p } ∧
      a.draining = false ∧ (s.core.cur.act.sampled = false → a.sampled = false) := by
  obtain ⟨b, l, o, p, a, c, hs, r, ha⟩ := s.commitSome_eq
  have check : s.commitSome.core.cur.act.check = none := by rw [c, ha]; exact h.check
  simp only [irrevocably] at e
  split at e
  next keeps =>
    split at e
    · cases e
      refine ⟨b, l, o, p, { a with checkable := false, sampled := false, check := none, revocable := false },
        by rw [uncheck_eq check, c], ?_, fun _ => rfl⟩
      next sent =>
        have sent : a.held = [] := by
          rw [c] at sent
          exact List.isEmpty_iff.1 sent
        simp [Act.draining, sent]
    · cases e
  next keeps =>
    cases e
    refine ⟨s.core.storeBuf, s.core.l1, s.core.outbox, s.parcels, s.core.cur.act, rfl, ?_, id⟩
    simp_all [Act.keeps, Act.draining]

/-- Reading an operand samples no activation. -/
theorem ReadyAt.src_unsampled {n : Nat} {s t : State} (h : s.ReadyAt n) {r : RSpec} {v : Val} (e : s.src r = some (v, t))
    (plain : s.core.cur.act.sampled = false) : t.core.cur.act.sampled = false := by
  cases r with
  | w i | z => rwa [← (Prod.mk.inj (Option.some.inj e)).2]
  | out d => cases e
  | inq =>
    simp only [State.src] at e
    split at e <;> rw [← (Prod.mk.inj (Option.some.inj e)).2] <;> exact plain
  | inp d =>
    simp only [State.src] at e
    split at e
    · split at e
      · obtain ⟨u, k, same⟩ := Option.map_eq_some_iff.1 e
        obtain ⟨_, _, _, _, a, rfl, -, still⟩ := h.irrevocably_eq k
        rw [← (Prod.mk.inj same).2]
        exact still plain
      · cases e
    · cases e

end State

/-! ## What is the same of an uncheckable activation's machine (R108) -/

namespace State

variable {s : State} (h : s.core.cur.act.check = none)
include h

theorem uncheck_quarantined (i : Nat) : (s.uncheck.coreOf i).quarantined = (s.coreOf i).quarantined := by
  rw [uncheck_eq h]
  simp only [coreOf]
  split <;> rfl

theorem uncheck_connected (i : Nat) (d : Dir) : s.uncheck.connected i d = s.connected i d := by
  simp only [connected, uncheck_quarantined h]
  rw [uncheck_eq h]
  rfl

theorem uncheck_copyWindow (core va : Nat) : s.uncheck.copyWindow core va = s.copyWindow core va := by
  simp only [copyWindow, uncheck_quarantined h]
  rw [uncheck_eq h]
  rfl

theorem uncheck_banksFrom (core : Nat) (j : CopyJob) (d : CopyDesc) : ∀ (k n : Nat) (l : NatSet),
    s.uncheck.banksFrom core j d k n l = s.banksFrom core j d k n l
  | 0, _, _ => rfl
  | k + 1, n, l => by
    have bank : s.uncheck.bankOf core j d n = s.bankOf core j d n := by
      simp only [bankOf, uncheck_copyWindow h]
    rw [banksFrom, banksFrom, bank, uncheck_banksFrom]

theorem uncheck_pendingBanks : s.uncheck.pendingBanks = s.pendingBanks := by
  have due (core : Nat) (j : CopyJob) : s.uncheck.banksDue core j = s.banksDue core j := by
    simp only [banksDue, uncheck_banksFrom h, badDesc, badRectangle, uncheck_quarantined h]
    rw [uncheck_eq h]
    rfl
  simp only [pendingBanks, funext (due _)]
  rw [uncheck_eq h]

end State

/-! ## Occupancy (R119, R146, R232) -/

/-- An instruction that makes its activation uncheckable and then writes a value known at issue. -/
theorem State.ReadyAt.exec_observes {s t : State} (h : s.Ready) {i : Instr} {b : M Flow} {d : RSpec} {v : Word}
    (runs : exec i s = run (formOf i) b s) (hw : i.wf = true) (pr : i.priv = false) (odd : encode i % 2 = 1)
    (named : i.regs = d.regs) (hb : b s = andNext (Machine.writeR d (.clean v)) s.uncheck)
    (hd : s.uncheck.dst (Val.clean v) d = some t) : exec i s = .next (t.after 4) :=
  h.exec_next runs hw pr odd (named ▸ RSpec.regs_lt d) (hb.trans (bind_ok (h.unchecked.writeR hd))) (h.unchecked.dst hd)

theorem dirOf_num (o : Dir) : dirOf o.num = o := by
  cases o <;> rfl

section
variable {s : State} (h : s.Ready) (d : RSpec)
include h

theorem winrd_run (ch : BitVec 6) (o : Dir) (named : ch.toNat = o.num) : winrd d ch s = andNext (writeR d (.clean (.ofNat 64
    (if s.connected s.core.id o then s.core.window.getD o.num 0 else 0)))) s.uncheck := by
  change andNext (writeR d (.clean (.ofNat 64 (if s.uncheck.connected s.uncheck.core.id (dirOf ch.toNat) then _ else 0)))) _ = _
  rw [named, dirOf_num, State.uncheck_connected h.check]
  rw [State.uncheck_eq h.check]

/-- WINRD of a number that names no channel is illegal. -/
theorem exec_winrd_ill (ch : BitVec 6) (none : 4 ≤ ch.toNat) : exec (.winrd d ch) s =
    .next (s.takeTrap (simpleTrap cILL (.ofNat 64 (encode (.winrd d ch)))) s.core.cur.pc 0x3A) := by
  have enc : encode (.winrd d ch) = 0x4000075 + d.bits * 128 + ch.toNat * 524288 := rfl
  have bad : (formOf (.winrd d ch)).ok = false := by
    simp [formOf, Instr.wf]
    omega
  have refused : issue (formOf (.winrd d ch)) s = .error (.trap (simpleTrap cILL (.ofNat 64 (encode (.winrd d ch))))) s := by
    simp only [issue, bind_run, getC_run, h.active, h.slots, List.all_nil, Bool.and_true, waitUntil_true, bad]
    rfl
  have major : (formOf (.winrd d ch)).major = 0x3A := by
    rw [(formOf_word (by omega)).2]
    omega
  rw [← major]
  exact State.run_fault h.armed (b := winrd d ch) (bind_error refused)

end

end Sys2Proof.Machine

open Sys2Proof Sys2Proof.Machine

/-- Settles O20: each of the four writes what it reads, of the state in which the activation is uncheckable. -/
theorem occupancyRead : Obligations.OccupancyRead := by
  unfold Obligations.OccupancyRead
  refine ⟨fun s t d hw hs => ?mpoll, fun s t d ch o hw hs named => ?winrd, fun s d ch hs none => exec_winrd_ill hs d ch none,
    fun s t d hw hs => ?bankq, fun s t d hw hs => ?pstat⟩
  case mpoll =>
    intro c hd
    have odd : encode (.mpoll d) % 2 = 1 := by simp only [encode]; omega
    refine hs.exec_observes (b := mpoll d) rfl hw rfl odd rfl ?_ hd
    rw [show mpoll d s = andNext _ s.uncheck from rfl, State.uncheck_eq hs.check]
  case winrd =>
    intro n hd
    have odd : encode (.winrd d ch) % 2 = 1 := by simp only [encode]; omega
    exact hs.exec_observes rfl hw rfl odd rfl (winrd_run hs d ch o named) hd
  case bankq =>
    intro hd
    have odd : encode (.bankq d) % 2 = 1 := by simp only [encode]; omega
    refine hs.exec_observes (b := bankQuery d) rfl hw rfl odd rfl ?_ hd
    rw [show bankQuery d s = andNext _ s.uncheck from rfl, State.uncheck_pendingBanks hs.check, State.uncheck_eq hs.check]
  case pstat =>
    intro hd
    have odd : encode (.pstat d) % 2 = 1 := by simp only [encode]; omega
    refine hs.exec_observes (b := pstat d) rfl hw rfl odd rfl ?_ hd
    rw [show pstat d s = andNext _ s.uncheck from rfl, State.uncheck_eq hs.check]
end
section
/-! SUPPORT. Messages: room in the hold buffer, the reply word of a CALLAT, and runs of registers. -/

namespace Sys2Proof.Machine

/-! ## Runs of registers -/

theorem State.ReadyAt.readRun {n : Nat} {s : State} (h : s.ReadyAt n) (i : BitVec 5) : ∀ (m k : Nat), Machine.readRun (.w i) m k s =
    .ok ((List.range m).map (fun j => s.core.regVal (.ofNat 5 (i.toNat + (k + j))))) s
  | 0, _ => rfl
  | m + 1, k => by
    rw [Machine.readRun, nextReg, Machine.readR, bind_ok (h.readW _), bind_ok (h.readRun i m (k + 1)), List.range_succ_eq_map]
    simp [Nat.add_assoc, Nat.add_comm 1]

theorem State.ReadyAt.readRegs {n : Nat} {s : State} (h : s.ReadyAt n) (i : BitVec 5) (m : Nat) :
    Machine.readRun (.w i) m 0 s = .ok (s.regRun i m) s := by
  rw [h.readRun]
  simp [State.regRun]

/-! ## Outputs (R107, R118) -/

namespace State

/-- An activation that is no check run and not sampled digests nothing (R391). -/
theorem ReadyAt.undigested {n : Nat} {s : State} (h : s.ReadyAt n) (plain : s.core.cur.act.sampled = false) :
    s.core.cur.act.digested = false := by
  simp [Act.digested, h.isCheck, plain]

theorem poisonedOutput_undigested {s : State} (h : s.core.cur.act.digested = false) (p : Bool) :
    poisonedOutput p s = .ok () s := by
  simp [poisonedOutput, bind_run, h]

/-- Where nothing of an earlier commit is left behind, nothing has to leave first. -/
theorem drainHeld_none {s : State} (h : s.core.cur.act.draining = false) : drainHeld s = .ok () s := by
  simp [drainHeld, bind_run, h]

/-- The hold buffer with room for one more message, at once or once the activation is irrevocable (R107). -/
theorem ReadyAt.messageRoom {n : Nat} {s t : State} (h : s.ReadyAt n) (e : s.holdRoom = some t) :
    Machine.messageRoom s = .ok () t ∧ t.ReadyAt n ∧ (s.core.cur.act.sampled = false → t.core.cur.act.sampled = false) := by
  simp only [holdRoom] at e
  by_cases full : (s.core.cur.act.revocable && decide (8 ≤ s.core.cur.act.heldMessages)) = true
  · obtain ⟨acts, ready, -⟩ := h.irrevocable (by simpa [full] using e)
    obtain ⟨_, _, _, _, a, rfl, sent, plain⟩ := h.irrevocably_eq (by simpa [full] using e)
    refine ⟨?_, ready, plain⟩
    have full : (s.core.cur.act.revocable && !s.core.cur.act.isCheck && decide (8 ≤ s.core.cur.act.heldMessages)) = true := by
      simpa [h.isCheck] using full
    rw [Machine.messageRoom, bind_ok (getC_run s), full]
    exact (bind_ok acts).trans (drainHeld_none sent)
  · have room : (s.core.cur.act.revocable && !s.core.cur.act.isCheck && decide (8 ≤ s.core.cur.act.heldMessages)) = false := by
      simpa [h.isCheck] using full
    have leads : Machine.messageRoom s = drainHeld s := by
      rw [Machine.messageRoom, bind_ok (getC_run s), room]
      rfl
    rw [leads]
    cases left : s.core.cur.act.draining with
    | false =>
      cases (show some s = some t by simpa [full, left] using e)
      exact ⟨drainHeld_none left, h, id⟩
    | true =>
      have e : s.irrevocably = some t := by simpa [left] using e
      obtain ⟨acts, ready, -⟩ := h.irrevocable e
      obtain ⟨_, _, _, _, a, rfl, sent, plain⟩ := h.irrevocably_eq e
      refine ⟨?_, ready, plain⟩
      rw [drainHeld, bind_ok (getC_run s), left]
      exact acts

/-- A message that finds room is sent, or held. -/
theorem ReadyAt.sendMessage {n : Nat} {s : State} (h : s.ReadyAt n) (plain : s.core.cur.act.sampled = false)
    (room : s.netRoom = true) (m : Msg) : Machine.sendMessage m s = .ok () (s.sends m) := by
  have quiet := h.undigested plain
  rw [Machine.sendMessage, bind_ok (poisonedOutput_undigested quiet _)]
  simp only [bind_run, getC_run, quiet, Bool.false_eq_true, if_false, sends]
  cases keeps : s.core.cur.act.keeps with
  | true => rfl
  | false =>
    have few : decide (s.core.outbox.length < 4) = true := by simpa [netRoom, keeps] using room
    simp only [Bool.false_eq_true, if_false, bind_run, getC_run, few, waitUntil_true]
    rfl

/-- Sending leaves a core that can issue so. -/
theorem ReadyAt.sends {n : Nat} {s : State} (h : s.ReadyAt n) (m : Msg) : (s.sends m).ReadyAt n := by
  unfold State.sends
  split
  · exact h.of rfl rfl rfl rfl rfl h.check rfl rfl
  · exact h.of rfl rfl rfl rfl rfl h.check rfl rfl

/-- The message with its body from a run of registers, sent once the hold buffer has room. -/
theorem ReadyAt.sendsRegs {n : Nat} {s : State} (h : s.ReadyAt n) (plain : s.core.cur.act.sampled = false)
    (room : s.netRoom = true) (dw e : Word) (i : BitVec 5) (m : Nat) (replyTo : BitVec 64) :
    (do
      let body ← Machine.readRun (.w i) m 0
      Machine.sendMessage (← newMessage dw e body replyTo)
      pure (.next none) : M Flow) s = .ok (.next none) (s.sends (s.message dw e (s.regRun i m) replyTo)) := by
  have made : newMessage dw e (s.regRun i m) replyTo s = .ok (s.message dw e (s.regRun i m) replyTo) s := rfl
  rw [bind_ok (h.readRegs i m), bind_ok made]
  exact bind_ok (h.sendMessage plain room _)

/-! ## Destination and entry (R112) -/

/-- Operands that name a core the activation may send to, and an even entry. -/
theorem ReadyAt.messageTo {n : Nat} {s s1 s2 : State} (h : s.ReadyAt n) {a b : RSpec} {dw e : Val}
    (ha : s.src a = some (dw, s1)) (hb : s1.src b = some (e, s2)) (cd : dw.poison = false) (ce : e.poison = false)
    (even : e.bits.getLsbD 0 = false) (may : s2.mayMessage (bitsAt dw.bits 13 0) = true) :
    Machine.messageTo a b s = .ok (dw.bits, e.bits) s2 := by
  simp only [Machine.messageTo, bind_run, h.readR ha, (h.src ha).readR hb, cd, ce, even, may, Bool.false_eq_true, if_false,
    pure_run, faultIf_false, get_run, Bool.not_true]

/-! ## The reply word (R112) -/

/-- The full bit of a word of the core in focus. -/
theorem putFull_own (s : State) (la : Nat) (full : Bool) : s.putFull (.loc s.core.id la) full =
    { s with core := { s.core with lmEmpty := s.core.lmEmpty.put (la / 8) (!full) } } := by
  simp [putFull, modCore, coreOf, putCore]

/-- A call that will be answered at a word sets it empty, and notes what a rollback has to fill again (R112, R385). -/
def awaitsReply (s : State) (ra : Nat) : State :=
  let x := s.core.cur.act
  let t := s.putFull (.loc s.core.id ra) false
  if x.revocable = true ∧ s.isFull (.loc s.core.id ra) = true then
    { t with core := { t.core with cur := { t.core.cur with act := { x with emptied := x.emptied ++ [ra] } } } }
  else t

theorem awaitsReply_eq (s : State) (ra : Nat) : ∃ em, s.awaitsReply ra = { s with core := { s.core with
    lmEmpty := s.core.lmEmpty.put (ra / 8) true, cur := { s.core.cur with act := { s.core.cur.act with emptied := em } } } } := by
  simp only [awaitsReply, putFull_own, Bool.not_false]
  split <;> exact ⟨_, rfl⟩

theorem ReadyAt.replyWord {n : Nat} {s : State} (h : s.ReadyAt n) (ra : Nat) : Machine.replyWord (some ra) s =
    .ok (.ofNat 64 (2 ^ 63 + ra * 2 ^ 14 + s.core.workId)) (s.awaitsReply ra) := by
  simp only [Machine.replyWord, bind_run, get_run, h.isCheck, Bool.false_eq_true, if_false, modify_run, awaitsReply, putFull_own]
  by_cases c : s.core.cur.act.revocable = true ∧ s.isFull (.loc s.core.id ra) = true <;> simp [c, map_run]

theorem ReadyAt.replyPlace {n : Nat} {s : State} (h : s.ReadyAt n) {i : BitVec 5} (clean : (s.core.regVal i).poison = false)
    (aligned : bitsAt (s.core.regVal i).bits 16 0 % 8 = 0)
    (scratch : s.core.scratch (bitsAt (s.core.regVal i).bits 16 0) 8 = true) :
    Machine.replyPlace (.w i) s = .ok (some (bitsAt (s.core.regVal i).bits 16 0)) s := by
  rw [Machine.replyPlace, if_neg nofun]
  simp only [Machine.readR, bind_run, h.readW, clean, Bool.false_eq_true, if_false, pure_run, aligned, bne_self_eq_false,
    faultIf_false, getC_run, scratch, Bool.not_true]

end State

/-! ## CALLAT and MSEND -/

theorem RSpec.regs_pair_lt (a b : RSpec) : ∀ r ∈ a.regs ++ b.regs, r < 32 := fun r hr =>
  (List.mem_append.1 hr).elim (RSpec.regs_lt a r) (RSpec.regs_lt b r)

theorem callat_regs_lt (d a b : RSpec) : ∀ r ∈ (Instr.callat d a b).regs, r < 32 := by
  intro r hr
  obtain hr | hr := List.mem_append.1 (show r ∈ (d.regs ++ a.regs ++ b.regs) ++ [4, 5, 6, 7] from hr)
  · rw [List.append_assoc] at hr
    exact (List.mem_append.1 hr).elim (RSpec.regs_lt d r) (RSpec.regs_pair_lt a b r)
  · exact (by decide : ∀ r ∈ [4, 5, 6, 7], r < 32) r hr

theorem msend_regs_lt (d a b : RSpec) : ∀ r ∈ (Instr.msend d a b).regs, r < 32 := by
  intro r hr
  have hr : r ∈ d.regs ++ a.regs ++ b.regs := hr
  rw [List.append_assoc] at hr
  exact (List.mem_append.1 hr).elim (RSpec.regs_lt d r) (RSpec.regs_pair_lt a b r)

section
variable {s s1 s2 s3 : State} {a b : RSpec} {dw e : Val} (h : s.Ready) (plain : s.core.cur.act.sampled = false)
  (ha : s.src a = some (dw, s1)) (hb : s1.src b = some (e, s2)) (addressed : messageTo a b s = .ok (dw.bits, e.bits) s2)
  (hold : s2.holdRoom = some s3) (room : s3.netRoom = true)
include h plain ha hb addressed hold room

/-- CALLAT without a reply register. -/
theorem exec_callat_z (hw : (Instr.callat .z a b).wf = true) :
    exec (.callat .z a b) s = .next ((s3.sends (s3.message dw.bits e.bits (s3.regRun 4 4) 0)).after 4) := by
  have k1 := h.src ha
  obtain ⟨roomy, ready, still⟩ := (k1.src hb).messageRoom hold
  have quiet := still (k1.src_unsampled hb (h.src_unsampled ha plain))
  have body : callAt .z a b s = .ok (.next none) (s3.sends (s3.message dw.bits e.bits (s3.regRun 4 4) 0)) := by
    rw [callAt, bind_ok addressed]
    exact (bind_ok (show replyPlace .z s2 = .ok none s2 from rfl)).trans ((bind_ok roomy).trans
      ((bind_ok rfl).trans (ready.sendsRegs quiet room ..)))
  have odd : encode (.callat .z a b) % 2 = 1 := by simp only [encode]; omega
  exact h.exec_next rfl hw rfl odd (callat_regs_lt _ _ _) body (ready.sends _)

/-- CALLAT with a reply register. -/
theorem exec_callat_w {i : BitVec 5} (hw : (Instr.callat (.w i) a b).wf = true) (clean : (s2.core.regVal i).poison = false)
    (aligned : bitsAt (s2.core.regVal i).bits 16 0 % 8 = 0)
    (scratch : s2.core.scratch (bitsAt (s2.core.regVal i).bits 16 0) 8 = true) :
    let ra := bitsAt (s2.core.regVal i).bits 16 0
    let u := s3.awaitsReply ra
    exec (.callat (.w i) a b) s = .next ((u.sends (u.message dw.bits e.bits (u.regRun 4 4)
      (.ofNat 64 (2 ^ 63 + ra * 2 ^ 14 + u.core.workId)))).after 4) := by
  intro ra u
  have k1 := h.src ha
  have k2 := k1.src hb
  obtain ⟨roomy, ready, still⟩ := k2.messageRoom hold
  have quiet := still (k1.src_unsampled hb (h.src_unsampled ha plain))
  obtain ⟨em, eq⟩ := s3.awaitsReply_eq ra
  have k4 : u.Ready := by
    rw [show u = _ from eq]
    exact ready.of rfl rfl rfl rfl rfl ready.check rfl rfl
  have quiet4 : u.core.cur.act.sampled = false := by rw [show u = _ from eq]; exact quiet
  have room4 : u.netRoom = true := by rw [show u = _ from eq]; exact room
  have id4 : u.core.workId = s3.core.workId := by rw [show u = _ from eq]; rfl
  have body : callAt (.w i) a b s = .ok (.next none) (u.sends (u.message dw.bits e.bits (u.regRun 4 4)
      (.ofNat 64 (2 ^ 63 + ra * 2 ^ 14 + u.core.workId)))) := by
    rw [callAt, bind_ok addressed, id4]
    exact (bind_ok (k2.replyPlace clean aligned scratch)).trans ((bind_ok roomy).trans
      ((bind_ok (ready.replyWord ra)).trans (k4.sendsRegs quiet4 room4 ..)))
  have odd : encode (.callat (.w i) a b) % 2 = 1 := by simp only [encode]; omega
  exact h.exec_next rfl hw rfl odd (callat_regs_lt _ _ _) body (k4.sends _)

/-- MSEND of up to eight registers. -/
theorem exec_msend {i : BitVec 5} (hw : (Instr.msend (.w i) a b).wf = true) (few : bitsAt dw.bits 20 17 ≤ 8)
    (last : i.toNat + bitsAt dw.bits 20 17 ≤ 32) : exec (.msend (.w i) a b) s =
      .next ((s3.sends (s3.message dw.bits e.bits (s3.regRun i (bitsAt dw.bits 20 17)) 0)).after 4) := by
  have k1 := h.src ha
  have k2 := k1.src hb
  obtain ⟨roomy, ready, still⟩ := k2.messageRoom hold
  have quiet := still (k1.src_unsampled hb (h.src_unsampled ha plain))
  have inRange : ∀ r ∈ (List.range (bitsAt dw.bits 20 17)).map ((RSpec.w i).bits + ·), r < 32 := by
    intro r hr
    obtain ⟨j, hj, rfl⟩ := List.mem_map.1 hr
    have := List.mem_range.1 hj
    have : (RSpec.w i).bits = i.toNat := rfl
    omega
  have legal : (decide (8 < bitsAt dw.bits 20 17) || decide (32 < (RSpec.w i).bits + bitsAt dw.bits 20 17)) = false := by
    have : (RSpec.w i).bits = i.toNat := rfl
    simp
    omega
  have free : bodyFree ((List.range (bitsAt dw.bits 20 17)).map ((RSpec.w i).bits + ·)) s2 = .ok () s2 := by
    simp [bodyFree, bind_run, k2.rep]
  have body : msend (.w i) a b s =
      .ok (.next none) (s3.sends (s3.message dw.bits e.bits (s3.regRun i (bitsAt dw.bits 20 17)) 0)) := by
    rw [msend, bind_ok addressed]
    dsimp only
    rw [legal, bind_ok (faultIf_false ..), bind_ok (k2.regRange inRange), bind_ok free, bind_ok roomy]
    exact ready.sendsRegs quiet room ..
  have odd : encode (.msend (.w i) a b) % 2 = 1 := by simp only [encode]; omega
  exact h.exec_next rfl hw rfl odd (msend_regs_lt _ _ _) body (ready.sends _)

end

end Sys2Proof.Machine

open Sys2Proof Sys2Proof.Machine

/-- Settles O16: the operands are read and checked, the hold buffer makes room, and the message is sent or held. -/
theorem messagesSent : Obligations.MessagesSent := by
  unfold Obligations.MessagesSent
  refine ⟨fun s s1 s2 s3 a b dw e hw hs plain ha hb cd ce even may hold room => ?_,
    fun s s1 s2 s3 i a b dw e hw hs plain ha hb cd ce even may clean => ?_,
    fun s s1 s2 s3 i a b dw e hw hs plain ha hb cd ce even may => ?_⟩
  · exact exec_callat_z hs plain ha hb (hs.messageTo ha hb cd ce even may) hold room hw
  · intro ra aligned scratch hold room
    exact exec_callat_w hs plain ha hb (hs.messageTo ha hb cd ce even may) hold room hw clean aligned scratch
  · intro n few last hold room
    exact exec_msend hs plain ha hb (hs.messageTo ha hb cd ce even may) hold room hw few last
end
section
/-! SUPPORT. The states that refute the ends of activations and the full-empty words: a store buffer without room for what
gathers to be combined, and a list of empty words that names one word twice. -/

namespace Sys2Proof.Machine

/-- A store of one byte to physical memory. -/
def byteStore : StoreOp :=
  { tgt := .phys 0x1000, bytes := [1], pois := [false], full := false, cls := .direct, writer := 0, act := 0, seq := 0 }

/-- A core whose store buffer has sixteen stores on their way while one more gathers in the write-combining buffer. -/
def crowdedBuffer : State :=
  let onWay : Buffered := { op := byteStore, sent := true, wc := false }
  let gathers : Buffered := { op := byteStore, sent := false, wc := true, group := 1 }
  { State.reset with core := { State.reset.core with active := true, storeBuf := gathers :: List.replicate 16 onWay } }

/-- END waits there, as the write-combining buffer finds no room to drain (R131, R137). -/
theorem exec_endAct_crowdedBuffer : ∃ t, exec .endAct crowdedBuffer = .next t ∧ t.core.active = true := ⟨_, rfl, by decide⟩

/-- An LDS of another activation waits for the word at 0x400. -/
def waitingLds : LdsReq := { uid := 7, core := 0, act := 9, tgt := .loc 0 0x400, empties := false, taint := false }

/-- A core with that LDS, whose list of empty words names the word twice; w5 points to the word. -/
def emptyTwice : State :=
  let c : Core := { State.reset.core with active := true, lmEmpty := [0x80, 0x80] }
  { State.reset with
    core := c.putReg 5 { bits := 0xFFFFFFFE0400, taint := false, poison := false }
    ldsWait := [waitingLds] }

theorem emptyTwice_ready : emptyTwice.Ready := ⟨rfl, rfl, rfl, rfl, fun _ => nofun, rfl, rfl, rfl⟩

/-- STF takes one of the two away, and the word stays empty: nobody is served. -/
theorem exec_stf_emptyTwice :
    ∃ t, exec (.stf .z (.w 5) 0 0) emptyTwice = .next t ∧ t.ldsWait = [waitingLds] := ⟨_, rfl, by decide⟩

end Sys2Proof.Machine

open Sys2Proof Sys2Proof.Machine

/-- Refutes O15: its clause on an activation that is not sampled says nothing of the write-combining buffer. In `crowdedBuffer`
nothing is held, and END still waits until the store buffer has room for what gathers (R131, R137), where the statement has the
activation ended. -/
theorem not_activationEnds : ¬ Obligations.ActivationEnds := by
  unfold Obligations.ActivationEnds
  intro h
  obtain ⟨-, ends, -⟩ := h crowdedBuffer rfl rfl (by decide) rfl
  have ended := ends rfl rfl rfl
  obtain ⟨t, run, active⟩ := exec_endAct_crowdedBuffer
  rw [run, Host.Outcome.next.injEq] at ended
  rw [ended] at active
  exact absurd active (by decide)

/-- Refutes O24: its clause on the LDS that waits at a word does not ask that the set of empty words is in its canonical form
(log entry 3). In `emptyTwice` the word is listed twice, STF removes it once, and the LDS waits on, where the statement has it
served. -/
theorem not_fullEmptyWords : ¬ Obligations.FullEmptyWords := by
  unfold Obligations.FullEmptyWords
  rintro ⟨-, -, own, -⟩
  obtain ⟨-, served⟩ := own emptyTwice emptyTwice emptyTwice emptyTwice.numbered .z (.w 5) 0 0 (emptyTwice.core.regVal 5)
    (.clean 0) 0x400 rfl emptyTwice_ready rfl (by decide) rfl (fun _ => nofun) rfl
  have answered := served waitingLds rfl rfl rfl
  obtain ⟨t, run, waits⟩ := exec_stf_emptyTwice
  rw [run, Host.Outcome.next.injEq] at answered
  rw [answered] at waits
  exact absurd waits (by decide)
end
section
/-! SUPPORT. Tokens: what APOP reads and writes, and the release that APUSH makes. -/

namespace Sys2Proof.Machine

namespace State

/-! ## Runs of registers -/

/-- Writing a run of registers leaves a core that can issue so. -/
theorem ReadyAt.writeRun {n : Nat} (i : BitVec 5) : ∀ (vs : List Val) (k : Nat) {s : State}, s.ReadyAt n →
    Machine.writeRun (.w i) vs k s = .ok () (s.putRun (.ofNat 5 (i.toNat + k)) vs) ∧
      (s.putRun (.ofNat 5 (i.toNat + k)) vs).ReadyAt n
  | [], _, _, h => ⟨rfl, h⟩
  | v :: vs, k, s, h => by
    have put : s.dst v (.w (.ofNat 5 (i.toNat + k))) = some { s with core := s.core.putReg (.ofNat 5 (i.toNat + k)) v } := rfl
    have next : BitVec.ofNat 5 (i.toNat + (k + 1)) = BitVec.ofNat 5 (i.toNat + k) + 1 := by
      rw [← Nat.add_assoc, BitVec.ofNat_add]
      rfl
    obtain ⟨rest, ready⟩ := ReadyAt.writeRun i vs (k + 1) (h.dst put)
    rw [next] at rest ready
    exact ⟨(bind_ok (h.writeR put)).trans rest, ready⟩

theorem ReadyAt.writeRegs {n : Nat} {s : State} (h : s.ReadyAt n) (i : BitVec 5) (vs : List Val) :
    Machine.writeRun (.w i) vs 0 s = .ok () (s.putRun i vs) ∧ (s.putRun i vs).ReadyAt n := by
  simpa using ReadyAt.writeRun i vs 0 h

/-! ## Tokens (R116) -/

/-- The `k`-th token of the running activation stands in the ring of its actor. -/
theorem ReadyAt.tokenDwords {n : Nat} {s : State} (h : s.ReadyAt n) {x : Nat} {st : ActorSt} (d : ActorDef)
    (there : s.core.actors[x]? = some st) (k : Nat) :
    let la := d.slotAddr (st.head + st.held + k)
    Machine.tokenDwords d x k s = .ok ((List.range 8).map (fun j =>
      { bits := s.core.lm.dword (la + 8 * j), poison := readPoison 8 s.core.lmPoison (la + 8 * j) 8 })) s := by
  intro la
  have place : s.tokenPlace d x k = some (s.core.id, la) := by simp [tokenPlace, h.isCheck, there, la]
  have met : s.meetLocal s.core.id la 64 = s := by simp [meetLocal, h.armed]
  simp only [Machine.tokenDwords, bind_run, get_run, place, modify_run, met, coreOf_focus]
  rfl

theorem fenced_heldStores {s : State} (held : s.core.cur.act.held = []) :
    ¬ 0 < ({ s with core := s.core.drainWc }.fenced).core.cur.act.heldStores := by
  change ¬ 0 < Act.heldStores { s.core.cur.act with fence := s.uid }
  simp [Act.heldStores, held]

/-- A release of an activation that holds no output (R156). -/
theorem release_of_releases {s t : State} (held : s.core.cur.act.held = []) {system : Bool} (e : s.releases system = some t) :
    Machine.release system s = .ok () t := by
  simp only [releases] at e
  split at e
  next can =>
    simp only [Bool.and_eq_true] at can
    obtain ⟨⟨fits, stores⟩, atomics⟩ := can
    rw [if_neg (fenced_heldStores held)] at e
    cases e
    have held : ({ s with core := s.core.drainWc }.fenced).core.cur.act.held = [] := held
    simp only [Machine.release, bind_run, getC_run, fits, Bool.not_true, Bool.false_eq_true, if_false, modC_run,
      modify_run, get_run, held, List.any_nil]
    simp [stores, atomics]
  next => cases e

/-- A release drains the write-combining buffer, and moves the fence. -/
theorem releases_eq {s t : State} (held : s.core.cur.act.held = []) {system : Bool} (e : s.releases system = some t) :
    t = { s with core := s.core.drainWc }.fenced := by
  simp only [releases] at e
  split at e
  · rw [if_neg (fenced_heldStores held)] at e
    cases e
    rfl
  · cases e

end State

/-! ## APOP and APUSH -/

theorem RSpec.run_lt {i : BitVec 5} (h : (RSpec.w i).group8 = true) : ∀ r ∈ (RSpec.w i).run 8, r < 32 := by
  have first : i.toNat % 8 = 0 := by simpa [RSpec.group8] using h
  intro r hr
  obtain ⟨j, hj, rfl⟩ := List.mem_map.1 (show r ∈ (List.range 8).map (i.toNat + ·) from hr)
  have := List.mem_range.1 hj
  omega

theorem apop_word (d : RSpec) : encode (.apop d) % 2 = 1 ∧ (formOf (.apop d)).major = 0x16 := by
  have enc : encode (.apop d) = 0xc00002d + d.bits * 128 := rfl
  refine ⟨by omega, ?_⟩
  rw [(formOf_word (by omega)).2]
  omega

theorem apush_word (a : RSpec) : encode (.apush a) % 2 = 1 ∧ (formOf (.apush a)).major = 0x16 := by
  have enc : encode (.apush a) = 0xe00002d + a.bits * 8192 := rfl
  refine ⟨by omega, ?_⟩
  rw [(formOf_word (by omega)).2]
  omega

section
variable {s : State} (h : s.Ready) {i : BitVec 5}
include h

/-- APOP that faults. -/
theorem exec_apop_fault (hw : (Instr.apop (.w i)).wf = true) {v : Nat} (body : apop (.w i) s = fault cPROT v s) :
    exec (.apop (.w i)) s = .next (s.takeTrap (simpleTrap cPROT (.ofNat 64 v)) s.core.cur.pc 0x16) := by
  rw [← (apop_word (.w i)).2]
  exact State.run_fault h.armed ((bind_ok (h.issue (f := formOf (.apop (.w i))) hw (.inl rfl) (RSpec.run_lt hw))).trans body)

/-- APUSH that faults. -/
theorem exec_apush_fault (hw : (Instr.apush (.w i)).wf = true) {v : Nat} (body : apush (.w i) s = fault cPROT v s) :
    exec (.apush (.w i)) s = .next (s.takeTrap (simpleTrap cPROT (.ofNat 64 v)) s.core.cur.pc 0x16) := by
  rw [← (apush_word (.w i)).2]
  exact State.run_fault h.armed ((bind_ok (h.issue (f := formOf (.apush (.w i))) hw (.inl rfl) (RSpec.run_lt hw))).trans body)

/-- APOP of the activation's next token. -/
theorem exec_apop_token (hw : (Instr.apop (.w i)).wf = true) {x : Nat} {d : ActorDef} (actor : s.core.cur.act.actor = some x)
    (runs : s.core.runActor = some d) {st : ActorSt} (there : s.core.actors[x]? = some st)
    (more : s.core.cur.act.popped < if s.core.cur.act.initial then 0 else d.c) :
    let la := d.slotAddr (st.head + st.held + s.core.cur.act.popped)
    let vs : List Val := (List.range 8).map (fun j =>
      { bits := s.core.lm.dword (la + 8 * j), taint := false, poison := readPoison 8 s.core.lmPoison (la + 8 * j) 8 })
    exec (.apop (.w i)) s = .next (State.after (State.putRun { s with core := { s.core with cur := { s.core.cur with act :=
      { s.core.cur.act with popped := s.core.cur.act.popped + 1 } } } } i vs) 4) := by
  intro la vs
  have ready : State.Ready { s with core := { s.core with cur := { s.core.cur with act :=
      { s.core.cur.act with popped := s.core.cur.act.popped + 1 } } } } := h.of rfl rfl rfl rfl rfl h.check rfl rfl
  obtain ⟨writes, after⟩ := ready.writeRegs i vs
  have same : vs = ((List.range 8).map (fun j => ({
      bits := s.core.lm.dword (la + 8 * j), poison := readPoison 8 s.core.lmPoison (la + 8 * j) 8 } : PWord))).map
        (fun v => { bits := v.bits, taint := false, poison := v.poison }) := by
    rw [List.map_map]
    rfl
  have left : decide ((if s.core.cur.act.initial then 0 else d.c) ≤ s.core.cur.act.popped) = false := by
    simpa using more
  have body : apop (.w i) s = .ok (.next none) (State.putRun { s with core := { s.core with cur := { s.core.cur with act :=
      { s.core.cur.act with popped := s.core.cur.act.popped + 1 } } } } i vs) := by
    generalize popped : EStateM.Result.ok (Flow.next none) _ = r
    rw [apop, bind_ok (getC_run s)]
    simp only [actor, runs, left]
    rw [bind_ok (faultIf_false ..), bind_ok (h.tokenDwords d there _), bind_ok (modA_run ..)]
    rw [same] at writes
    refine (bind_ok writes).trans ?_
    rw [← same]
    exact popped
  exact h.exec_next rfl hw rfl (apop_word _).1 (RSpec.run_lt hw) body after

section
variable (hw : (Instr.apush (.w i)).wf = true) (plain : s.core.cur.act.sampled = false) {x : Nat} {d : ActorDef}
  (actor : s.core.cur.act.actor = some x) (runs : s.core.runActor = some d) {dst cons : Nat}
  (consumer : s.core.runConsumer d = some (dst, cons)) (more : s.core.cur.act.pushed < d.p)
include hw plain actor runs consumer more

/-- APUSH of an irrevocable activation. -/
theorem exec_apush_sends (sent : s.core.cur.act.revocable = false) (held : s.core.cur.act.held = []) {t : State}
    (e : s.releases false = some t) : exec (.apush (.w i)) s = .next (State.after { t with
      core := { t.core with cur := { t.core.cur with act := { t.core.cur.act with pushed := s.core.cur.act.pushed + 1 } } },
      parcels := t.parcels ++ [.token t.core.id dst cons ((s.regRun i 8).map Val.strip)] } 4) := by
  have eq := State.releases_eq held e
  have ready : t.Ready := by
    rw [eq]
    exact h.of rfl rfl rfl rfl rfl h.check rfl rfl
  have same : t.regRun i 8 = s.regRun i 8 := by rw [eq]; rfl
  have quiet : t.core.cur.act.digested = false := ready.undigested (by rw [eq]; exact plain)
  have count : t.core.cur.act.pushed = s.core.cur.act.pushed := by rw [eq]; rfl
  have left : decide (d.p ≤ s.core.cur.act.pushed) = false := by simpa using more
  have drained : s.core.cur.act.draining = false := by simp [Act.draining, held]
  have body : apush (.w i) s = .ok (.next none) { t with
      core := { t.core with cur := { t.core.cur with act := { t.core.cur.act with pushed := s.core.cur.act.pushed + 1 } } },
      parcels := t.parcels ++ [.token t.core.id dst cons ((s.regRun i 8).map Val.strip)] } := by
    rw [apush, bind_ok (getC_run s)]
    simp only [actor, runs, consumer, left]
    rw [bind_ok (faultIf_false ..), bind_ok (State.drainHeld_none drained), sent]
    refine (bind_ok (State.release_of_releases held e)).trans ((bind_ok (ready.readRegs i 8)).trans ?_)
    rw [bind_ok (State.poisonedOutput_undigested quiet _), same, ← count]
    simp only [Act.digested, plain, h.isCheck, Bool.or_false, Bool.false_eq_true, if_false]
    rfl
  exact h.exec_next rfl hw rfl (apush_word _).1 (RSpec.run_lt hw) body (ready.of rfl rfl rfl rfl rfl ready.check rfl rfl)

/-- APUSH of a revocable activation. -/
theorem exec_apush_holds (revocable : s.core.cur.act.revocable = true) : exec (.apush (.w i)) s = .next (State.after
    { s with core := { s.core with cur := { s.core.cur with act := { s.core.cur.act with
      pushed := s.core.cur.act.pushed + 1
      held := s.core.cur.act.held ++ [.token x ((s.regRun i 8).map Val.strip)] } } } } 4) := by
  have left : decide (d.p ≤ s.core.cur.act.pushed) = false := by simpa using more
  have drained : s.core.cur.act.draining = false := by simp [Act.draining, revocable]
  have body : apush (.w i) s = .ok (.next none) { s with core := { s.core with cur := { s.core.cur with act :=
      { s.core.cur.act with
        pushed := s.core.cur.act.pushed + 1
        held := s.core.cur.act.held ++ [.token x ((s.regRun i 8).map Val.strip)] } } } } := by
    generalize pushed : EStateM.Result.ok (Flow.next none) _ = r
    rw [apush, bind_ok (getC_run s)]
    simp only [actor, runs, consumer, left]
    rw [bind_ok (faultIf_false ..), bind_ok (State.drainHeld_none drained), revocable]
    refine (bind_ok (h.readRegs i 8)).trans ?_
    rw [bind_ok (State.poisonedOutput_undigested (h.undigested plain) _)]
    simp only [Act.digested, plain, h.isCheck, Bool.or_false, Bool.false_eq_true, if_false, if_true]
    exact pushed
  exact h.exec_next rfl hw rfl (apush_word _).1 (RSpec.run_lt hw) body (h.of rfl rfl rfl rfl rfl h.check rfl rfl)

end

end

end Sys2Proof.Machine

open Sys2Proof Sys2Proof.Machine

/-- Settles O19: the tests for PROT in their order, then the token read, sent or held. -/
theorem tokensMoved : Obligations.TokensMoved := by
  unfold Obligations.TokensMoved
  refine ⟨fun s i x d hw hs actor runs => ?pop, fun s i x d dst cons hw hs plain actor runs consumer => ?push,
    fun s i x d hw hs actor runs alone => ?alone, fun s i hs none => ⟨fun hw => ?_, fun hw => ?_⟩⟩
  case pop =>
    intro n
    refine ⟨fun past => exec_apop_fault hs hw ?_, fun st there more => exec_apop_token hs hw actor runs there more⟩
    rw [apop, bind_ok (getC_run s)]
    simp only [actor, runs, n, decide_eq_true past]
    exact bind_error rfl
  case push =>
    intro a dws
    refine ⟨fun past => exec_apush_fault hs hw ?_,
      fun t more sent held e => exec_apush_sends hs hw plain actor runs consumer more sent held e,
      fun more revocable => exec_apush_holds hs hw plain actor runs consumer more revocable⟩
    rw [apush, bind_ok (getC_run s)]
    simp only [actor, runs, consumer, a, decide_eq_true past]
    exact bind_error rfl
  case alone =>
    refine exec_apush_fault hs hw ?_
    rw [apush, bind_ok (getC_run s)]
    simp only [actor, runs, alone]
  · refine exec_apop_fault hs hw ?_
    rw [apop, bind_ok (getC_run s)]
    simp only [none]
  · refine exec_apush_fault hs hw ?_
    rw [apush, bind_ok (getC_run s)]
    simp only [none]
end
section
/-! SUPPORT. What comes in at a core: messages from the fabric through the input buffers into the queues, and dwords that set
their words full. -/

namespace Sys2Proof.Machine

/-! ## Cores after a change of one -/

/-- What a change of one core leaves of it stays of every core. -/
theorem State.coreOf_modCore_same {α : Type} (p : Core → α) (s : State) {i : Nat} {f : Core → Core}
    (hf : (f (s.coreOf i)).id = i) (same : p (f (s.coreOf i)) = p (s.coreOf i)) (j : Nat) :
    p ((s.modCore i f).coreOf j) = p (s.coreOf j) := by
  by_cases e : i = j
  · subst e
    rw [s.coreOf_modCore hf, same]
  · rw [s.coreOf_modCore_ne hf e]

theorem State.wake_parcels (s : State) : s.wake.parcels = s.parcels := rfl

theorem Core.inBuf_look (c : Core) (a b hi : Bool) : Core.inBuf { c with stalled := a, bufStalled := b } hi = c.inBuf hi := rfl

theorem State.modCore_uid (s : State) (i : Nat) (f : Core → Core) : (s.modCore i f).uid = s.uid := by
  unfold State.modCore State.putCore
  split <;> rfl

/-! ## From the input buffer into the queue (R96, R98) -/

/-- A core that takes a message from the input buffer of a priority into a queue, which leaves `ms` in the buffer. -/
def Core.accept (c : Core) (hi : Bool) (m : Msg) (ms : List Msg) (uid : Nat) : Core :=
  (if hi then { c with inHi := ms } else { c with inLo := ms }).enqueue (m.act uid)

/-- The activation that the message becomes takes the next identity. -/
def State.accept (s : State) (hi : Bool) (core : Nat) (m : Msg) (ms : List Msg) : State :=
  State.modCore { s with uid := s.uid + 1 } core (fun c => c.accept hi m ms s.uid)

theorem State.drainBuf_cons (s : State) (hi : Bool) (core : Nat) (m : Msg) (ms : List Msg) :
    State.drainBuf hi core (m :: ms) s =
      if (s.coreOf core).queueRoom hi then State.drainBuf hi core ms (s.accept hi core m ms) else s := by
  rw [State.drainBuf]
  cases (s.coreOf core).queueRoom hi <;> rfl

/-- What holds as long as messages are taken holds at the end. -/
theorem State.drainBuf_keeps {P : State → Prop} {hi : Bool} {core : Nat}
    (step : ∀ s m ms, P s → P (s.accept hi core m ms)) : ∀ (ms : List Msg) {s : State}, P s → P (State.drainBuf hi core ms s)
  | [], _, h => h
  | m :: ms, s, h => by
    rw [State.drainBuf_cons]
    split
    · exact State.drainBuf_keeps step ms (step s m ms h)
    · exact h

theorem State.drainBuf_full {s : State} {hi : Bool} {core : Nat} (full : (s.coreOf core).queueRoom hi = false) (ms : List Msg) :
    State.drainBuf hi core ms s = s := by
  cases ms with
  | nil => rfl
  | cons m ms => rw [State.drainBuf_cons, full]; rfl

theorem Core.accept_keeps (c : Core) (hi : Bool) (m : Msg) (ms : List Msg) (uid : Nat) :
    (c.accept hi m ms uid).id = c.id ∧ (c.accept hi m ms uid).outbox = c.outbox ∧
      (c.accept hi m ms uid).inBuf hi = ms ∧ (c.accept hi m ms uid).inBuf (!hi) = c.inBuf (!hi) ∧
      c.hq.length ≤ (c.accept hi m ms uid).hq.length ∧ c.lq.length ≤ (c.accept hi m ms uid).lq.length := by
  unfold Core.accept Core.enqueue
  cases hi <;> dsimp only <;> split <;> simp [Core.inBuf]

section
variable (s : State) (hi : Bool) (core : Nat) (m : Msg) (ms : List Msg)

theorem State.coreOf_accept : (s.accept hi core m ms).coreOf core = (s.coreOf core).accept hi m ms s.uid :=
  State.coreOf_modCore _ (((s.coreOf core).accept_keeps hi m ms s.uid).1.trans (s.coreOf_id core))

/-- What taking a message leaves of its core stays of every core. -/
theorem State.coreOf_accept_same {α : Type} (p : Core → α) (same : p ((s.coreOf core).accept hi m ms s.uid) = p (s.coreOf core))
    (j : Nat) : p ((s.accept hi core m ms).coreOf j) = p (s.coreOf j) :=
  State.coreOf_modCore_same p { s with uid := s.uid + 1 }
    (((s.coreOf core).accept_keeps hi m ms s.uid).1.trans (s.coreOf_id core)) same j

theorem State.accept_onlyCores : OnlyCores s (s.accept hi core m ms) :=
  OnlyCores.trans ⟨_, _, _, rfl⟩ (State.modCore_onlyCores _ _ _)

end

theorem State.drainIn_onlyCores (s : State) (core : Nat) : OnlyCores s (s.drainIn core) := by
  have one (hi : Bool) (ms : List Msg) (t : State) : OnlyCores t (State.drainBuf hi core ms t) :=
    State.drainBuf_keeps (P := OnlyCores t) (fun u m ms h => h.trans (u.accept_onlyCores hi core m ms)) ms (.refl t)
  exact (one true _ s).trans (one false _ _)

theorem State.drainIn_outbox (s : State) (core j : Nat) : ((s.drainIn core).coreOf j).outbox = (s.coreOf j).outbox := by
  have one (hi : Bool) (ms : List Msg) (t : State) :
      ((State.drainBuf hi core ms t).coreOf j).outbox = (t.coreOf j).outbox :=
    State.drainBuf_keeps (P := fun u => (u.coreOf j).outbox = (t.coreOf j).outbox)
      (fun u m ms h => (u.coreOf_accept_same hi core m ms Core.outbox ((u.coreOf core).accept_keeps hi m ms u.uid).2.1 j).trans h)
      ms rfl
  exact (one false _ _).trans (one true _ s)

/-- Taking messages of one priority leaves the input buffer of the other. -/
theorem State.drainBuf_other (s : State) (hi : Bool) (core : Nat) (ms : List Msg) :
    ((State.drainBuf hi core ms s).coreOf core).inBuf (!hi) = (s.coreOf core).inBuf (!hi) :=
  State.drainBuf_keeps (P := fun u => (u.coreOf core).inBuf (!hi) = (s.coreOf core).inBuf (!hi))
    (fun u m ms h => by rw [u.coreOf_accept, ((u.coreOf core).accept_keeps hi m ms u.uid).2.2.2.1, h]) ms rfl

/-- A full queue stays so while messages are taken. -/
theorem State.drainBuf_queueRoom {s : State} (hi low : Bool) {core : Nat} (ms : List Msg)
    (full : (s.coreOf core).queueRoom low = false) : ((State.drainBuf hi core ms s).coreOf core).queueRoom low = false := by
  refine State.drainBuf_keeps (P := fun u => (u.coreOf core).queueRoom low = false) (fun u m ms h => ?_) ms full
  obtain ⟨-, -, -, -, high, lower⟩ := (u.coreOf core).accept_keeps hi m ms u.uid
  rw [u.coreOf_accept]
  cases low <;> simp only [Core.queueRoom, if_true, Bool.false_eq_true, if_false, decide_eq_false_iff_not] at h ⊢ <;> omega

/-! ## Delivery (R96) -/

/-- A core whose input buffer a message enters. -/
def Core.receive (c : Core) (m : Msg) : Core :=
  if m.hi then { c with inHi := c.inHi ++ [m] } else { c with inLo := c.inLo ++ [m] }

def State.receive (s : State) (m : Msg) : State := s.modCore m.dst (fun c => c.receive m)

theorem State.deliver_eq (s : State) (m : Msg) : s.deliver m = (s.receive m).drainIn m.dst := rfl

theorem Core.receive_keeps (c : Core) (m : Msg) : (c.receive m).id = c.id ∧ (c.receive m).outbox = c.outbox ∧
    (c.receive m).hq = c.hq ∧ (c.receive m).lq = c.lq ∧ (c.receive m).inBuf m.hi = c.inBuf m.hi ++ [m] ∧
    (c.receive m).inBuf (!m.hi) = c.inBuf (!m.hi) := by
  unfold Core.receive
  cases m.hi <;> exact ⟨rfl, rfl, rfl, rfl, rfl, rfl⟩

theorem State.coreOf_receive (s : State) (m : Msg) : (s.receive m).coreOf m.dst = (s.coreOf m.dst).receive m :=
  State.coreOf_modCore _ (((s.coreOf m.dst).receive_keeps m).1.trans (s.coreOf_id _))

theorem State.deliver_onlyCores (s : State) (m : Msg) : OnlyCores s (s.deliver m) :=
  (s.modCore_onlyCores _ _).trans (State.drainIn_onlyCores _ _)

theorem State.deliver_outbox (s : State) (m : Msg) (j : Nat) : ((s.deliver m).coreOf j).outbox = (s.coreOf j).outbox := by
  obtain ⟨id, out, -⟩ := (s.coreOf m.dst).receive_keeps m
  rw [State.deliver_eq, State.drainIn_outbox]
  exact s.coreOf_modCore_same Core.outbox (id.trans (s.coreOf_id _)) out j

/-- A message that comes to empty input buffers goes into its queue, or stays in its buffer. -/
theorem State.deliver_empty {s : State} {m : Msg} (high : (s.coreOf m.dst).inHi = []) (low : (s.coreOf m.dst).inLo = []) :
    s.deliver m = if (s.coreOf m.dst).queueRoom m.hi then (s.receive m).accept m.hi m.dst m [] else s.receive m := by
  obtain ⟨-, -, hq, lq, inn, other⟩ := (s.coreOf m.dst).receive_keeps m
  have room : ((s.receive m).coreOf m.dst).queueRoom m.hi = (s.coreOf m.dst).queueRoom m.hi := by
    rw [s.coreOf_receive]
    simp only [Core.queueRoom, hq, lq]
  rw [State.deliver_eq, State.drainIn]
  rw [← s.coreOf_receive] at inn other
  cases hi : m.hi with
  | true =>
    rw [hi] at inn other room
    have inHi : ((s.receive m).coreOf m.dst).inHi = [m] := by simpa [Core.inBuf, high] using inn
    have inLo : ((s.receive m).coreOf m.dst).inLo = [] := by simpa [Core.inBuf, low] using other
    rw [inHi, State.drainBuf_cons, room]
    split
    · have rest : (((s.receive m).accept true m.dst m []).coreOf m.dst).inLo = [] := by
        rw [State.coreOf_accept]
        exact (((s.receive m).coreOf m.dst).accept_keeps true m [] _).2.2.2.1.trans inLo
      simp only [State.drainBuf, rest]
    · simp only [inLo, State.drainBuf]
  | false =>
    rw [hi] at inn other room
    have inHi : ((s.receive m).coreOf m.dst).inHi = [] := by simpa [Core.inBuf, high] using other
    have inLo : ((s.receive m).coreOf m.dst).inLo = [m] := by simpa [Core.inBuf, low] using inn
    rw [inHi]
    simp only [State.drainBuf, inLo]
    rw [room]
    cases (s.coreOf m.dst).queueRoom false <;> rfl

/-- A message that comes to empty input buffers is the last of its queue when that has room. -/
theorem State.coreOf_deliver_room {s : State} {m : Msg} (high : (s.coreOf m.dst).inHi = []) (low : (s.coreOf m.dst).inLo = [])
    (room : (s.coreOf m.dst).queueRoom m.hi = true) :
    ∃ u, (s.deliver m).coreOf m.dst = ((s.coreOf m.dst).receive m).accept m.hi m [] u ∧ u = s.uid := by
  rw [State.deliver_empty high low, if_pos room, State.coreOf_accept, State.coreOf_receive]
  exact ⟨_, rfl, State.modCore_uid ..⟩

section
variable {s : State} {m : Msg} (high : (s.coreOf m.dst).inHi = []) (low : (s.coreOf m.dst).inLo = [])
include high low

/-- A message of high priority that comes to empty input buffers. -/
theorem State.deliver_high (hi : m.hi = true) :
    ((s.coreOf m.dst).hq.length < 16 → ((s.deliver m).coreOf m.dst).hq = (s.coreOf m.dst).hq ++
      [{ act := m.act s.uid, resume := none, extra := false }] ∧ ((s.deliver m).coreOf m.dst).inHi = []) ∧
    (16 ≤ (s.coreOf m.dst).hq.length → ((s.deliver m).coreOf m.dst).inHi = [m]) := by
  have first (u : Nat) : (m.act u).hi = true := hi
  refine ⟨fun few => ?_, fun many => ?_⟩
  · have room : (s.coreOf m.dst).queueRoom m.hi = true := by simp [Core.queueRoom, hi, few]
    obtain ⟨u, into, rfl⟩ := State.coreOf_deliver_room high low room
    rw [into]
    simp [Core.accept, Core.enqueue, Core.receive, hi, first]
  · have full : (s.coreOf m.dst).queueRoom m.hi = false := by simp [Core.queueRoom, hi, many]
    rw [State.deliver_empty high low, full]
    simp [State.coreOf_receive, Core.receive, hi, high]

/-- A message of low priority that comes to empty input buffers. -/
theorem State.deliver_low (lo : m.hi = false) :
    ((s.coreOf m.dst).lq.length < 32 → ((s.deliver m).coreOf m.dst).lq = (s.coreOf m.dst).lq ++
      [{ act := m.act s.uid, resume := none, extra := false }] ∧ ((s.deliver m).coreOf m.dst).inLo = []) ∧
    (32 ≤ (s.coreOf m.dst).lq.length → ((s.deliver m).coreOf m.dst).inLo = [m]) := by
  have second (u : Nat) : (m.act u).hi = false := lo
  refine ⟨fun few => ?_, fun many => ?_⟩
  · have room : (s.coreOf m.dst).queueRoom m.hi = true := by simp [Core.queueRoom, lo, few]
    obtain ⟨u, into, rfl⟩ := State.coreOf_deliver_room high low room
    rw [into]
    simp [Core.accept, Core.enqueue, Core.receive, lo, second]
  · have full : (s.coreOf m.dst).queueRoom m.hi = false := by simp [Core.queueRoom, lo, many]
    rw [State.deliver_empty high low, full]
    simp [State.coreOf_receive, Core.receive, lo, low]

end

/-- A message for a full queue stays at the end of its input buffer. -/
theorem State.deliver_full {s : State} {m : Msg} (full : (s.coreOf m.dst).queueRoom m.hi = false) :
    ((s.deliver m).coreOf m.dst).inBuf m.hi = (s.coreOf m.dst).inBuf m.hi ++ [m] := by
  obtain ⟨-, -, hq, lq, inn, -⟩ := (s.coreOf m.dst).receive_keeps m
  have room : ((s.receive m).coreOf m.dst).queueRoom m.hi = false := by
    rw [s.coreOf_receive, ← full]
    simp only [Core.queueRoom, hq, lq]
  rw [State.deliver_eq, State.drainIn, ← inn, ← s.coreOf_receive]
  cases hi : m.hi with
  | true =>
    rw [hi] at room
    rw [State.drainBuf_full room]
    exact State.drainBuf_other _ false _ _
  | false =>
    rw [hi] at room
    rw [State.drainBuf_full (State.drainBuf_queueRoom true false _ room)]
    exact State.drainBuf_other _ true _ _

/-! ## Messages on their way (R96, R118) -/

/-- Message `k` leaves the outbox of a core. -/
def State.takeOut (s : State) (src k : Nat) : State := s.modCore src (fun c => { c with outbox := removeAt c.outbox k })

section
variable {s : State} {src k : Nat} {m : Msg}

theorem State.takeOut_outbox : ((s.takeOut src k).coreOf src).outbox = removeAt (s.coreOf src).outbox k := by
  rw [State.takeOut, State.coreOf_modCore _ (by exact s.coreOf_id src)]

/-- What is not the outbox stays as a message leaves. -/
theorem State.coreOf_takeOut {α : Type} (p : Core → α) (same : ∀ (c : Core) out, p { c with outbox := out } = p c) (j : Nat) :
    p ((s.takeOut src k).coreOf j) = p (s.coreOf j) :=
  s.coreOf_modCore_same p (by exact s.coreOf_id src) (same _ _) j

variable (lt : src < 16384) (there : (s.coreOf src).outbox[k]? = some m)
  (first : ((s.coreOf src).outbox.take k).any m.follows = false)
include lt there first

theorem exec_messageArrival_out : exec (.messageArrival src k) s =
    if !s.parcels.any (Parcel.ahead m) && s.bufferRoom m then happens ((s.takeOut src k).deliver m)
    else if s.fabricMessages < Config.fabricRoom then
      happens { s.takeOut src k with parcels := (s.takeOut src k).parcels ++ [.msg m] }
    else nothing s := by
  change execMessageArrival src k s = _
  rw [execMessageArrival, if_pos (by omega), sendOut]
  dsimp only
  rw [there]
  dsimp only
  rw [first]
  rfl

end

theorem exec_messageArrival_fabric {s : State} {k : Nat} {m : Msg} (there : s.parcels[k]? = some (.msg m))
    (first : (s.parcels.take k).any (Parcel.ahead m) = false) (room : s.bufferRoom m = true) :
    exec (.messageArrival 16384 k) s = happens (State.deliver (s.takeParcel k) m) := by
  change execMessageArrival 16384 k s = _
  rw [execMessageArrival, if_neg (by simp), there]
  dsimp only
  rw [first, room]
  rfl

/-! ## Dwords that come full (R113, R116) -/

/-- A core with a dword written and its word set full. -/
def Core.filled (c : Core) (la : Nat) (v : PWord) : Core :=
  { c with
    lm := c.lm.setBytes la (dwordBytes v.bits)
    lmPoison := writePoison 8 c.lmPoison la (List.replicate 8 v.poison)
    lmEmpty := c.lmEmpty.del (la / 8) }

section
variable {s : State} (h : s.ldsWait = []) (core la : Nat) (v : PWord)
include h

theorem State.fillDword_onlyCores : OnlyCores s (s.fillDword core la v) := by
  have wrote : OnlyCores s (s.writeLocal core la (dwordBytes v.bits) (List.replicate 8 v.poison)) := s.modCore_onlyCores _ _
  have full := wrote.trans (State.modCore_onlyCores _ core (fun c => { c with lmEmpty := c.lmEmpty.put (la / 8) (!true) }))
  obtain ⟨c, os, u, e⟩ := full
  refine ⟨c, os, u, ?_⟩
  simp only [State.fillDword, State.fill, State.putFull]
  rw [e]
  simp only [h, State.serveWaiters]

theorem State.fillDword_eq : s.fillDword core la v =
    (s.writeLocal core la (dwordBytes v.bits) (List.replicate 8 v.poison)).putFull (.loc core la) true := by
  have waits : ((s.writeLocal core la (dwordBytes v.bits) (List.replicate 8 v.poison)).putFull (.loc core la) true).ldsWait = [] := by
    obtain ⟨_, _, _, e⟩ := (s.modCore_onlyCores core _).trans (State.modCore_onlyCores _ core
      (fun c => { c with lmEmpty := c.lmEmpty.put (la / 8) (!true) }))
    simp only [State.writeLocal, State.putFull]
    rw [e]
    exact h
  simp only [State.fillDword, State.fill, waits, State.serveWaiters]

theorem State.coreOf_fillDword : (s.fillDword core la v).coreOf core = (s.coreOf core).filled la v := by
  have wrote := s.coreOf_modCore (i := core) (f := fun c => { c with
    lm := c.lm.setBytes la (dwordBytes v.bits)
    lmPoison := writePoison 8 c.lmPoison la (List.replicate 8 v.poison) }) (by exact s.coreOf_id core)
  rw [State.fillDword_eq h, State.putFull, State.coreOf_modCore _ (by exact State.coreOf_id _ core), State.writeLocal, wrote]
  rfl

end

theorem Memory.setBytes_append : ∀ (m : Memory) (a : Nat) (xs ys : List Byte),
    m.setBytes a (xs ++ ys) = (m.setBytes a xs).setBytes (a + xs.length) ys
  | _, _, [], _ => rfl
  | m, a, x :: xs, ys => by
    rw [List.cons_append, Memory.setBytes, Memory.setBytes, Memory.setBytes_append, List.length_cons, Nat.add_assoc, Nat.add_comm 1]

theorem Core.wf_lmEmpty {c : Core} (wf : c.wf = true) : NatSet.wf c.lmEmpty = true := by
  simp only [Core.wf, Bool.and_eq_true] at wf
  exact wf.2

/-- Dwords from number `k` on that come full at a core, one after the other. -/
def State.fillDwords (s : State) (core la k : Nat) (dws : List PWord) : State :=
  (dws.zipIdx k).foldl (fun s (v, j) => s.fillDword core (la + 8 * j) v) s

/-- What dwords that come full leave: their bytes, and no empty word of theirs; the actors' states stay. -/
theorem State.fillDwords_spec (core la : Nat) : ∀ (dws : List PWord) (k : Nat) {s : State}, s.ldsWait = [] →
    let t := s.fillDwords core la k dws
    OnlyCores s t ∧ (t.coreOf core).lm = (s.coreOf core).lm.setBytes (la + 8 * k) (dws.flatMap (fun v => dwordBytes v.bits)) ∧
      (t.coreOf core).lmEmpty =
        ((List.range' k dws.length).map (fun j => (la + 8 * j) / 8)).foldl NatSet.del (s.coreOf core).lmEmpty ∧
      (t.coreOf core).actors = (s.coreOf core).actors
  | [], _, s, _ => ⟨.refl s, rfl, rfl, rfl⟩
  | v :: dws, k, s, h => by
    have first := State.fillDword_onlyCores h core (la + 8 * k) v
    have waits : (s.fillDword core (la + 8 * k) v).ldsWait = [] := by
      obtain ⟨_, _, _, e⟩ := first
      rw [e]
      exact h
    obtain ⟨only, lm, empty, actors⟩ := State.fillDwords_spec core la dws (k + 1) waits
    rw [State.coreOf_fillDword h] at lm empty actors
    refine ⟨first.trans only, lm.trans ?_, empty, actors⟩
    have eight : (dwordBytes v.bits).length = 8 := natLE_length ..
    rw [List.flatMap_cons, Memory.setBytes_append, eight]
    rfl

/-! ## The steps that bring them -/

/-- A token of which parcel `k` is the first of its way. -/
theorem exec_tokenWrite {s : State} {k src dst actor : Nat} {dws : List PWord} {d : ActorDef} {a : ActorSt}
    (there : s.parcels[k]? = some (.token src dst actor dws))
    (first : s.parcelFirst k (fun p => match p with
      | .token x y z _ => x == src && y == dst && z == actor
      | .reply _ _ _ | .chan _ _ _ | .credit _ _ | .msg _ => false) = true)
    (declared : (s.coreOf dst).actorDef actor = some d) (state : (s.coreOf dst).actors[actor]? = some a) :
    exec (.tokenWrite k) s = happens (((s.takeParcel k).fillDwords dst (d.slotAddr (a.head + a.count)) 0 dws).modActor dst actor
      (fun a => { a with count := a.count + 1, reserved := a.reserved - 1 })) := by
  have declared : ((s.takeParcel k).coreOf dst).actorDef actor = some d := declared
  have state : ((s.takeParcel k).coreOf dst).actors[actor]? = some a := state
  change execTokenWrite k s = _
  rw [execTokenWrite, there]
  refine (if_neg fun later => absurd (later.symm.trans (congrArg not first)) (by decide)).trans ?_
  simp only [declared, state]
  rfl

/-- What a token leaves as it arrives. -/
theorem exec_tokenWrite_spec {s : State} {k src dst actor : Nat} {dws : List PWord} {d : ActorDef} {a : ActorSt}
    (there : s.parcels[k]? = some (.token src dst actor dws))
    (first : s.parcelFirst k (fun p => match p with
      | .token x y z _ => x == src && y == dst && z == actor
      | .reply _ _ _ | .chan _ _ _ | .credit _ _ | .msg _ => false) = true)
    (eight : dws.length = 8) (declared : (s.coreOf dst).actorDef actor = some d) (state : (s.coreOf dst).actors[actor]? = some a)
    (waits : s.ldsWait = []) :
    ∃ t, exec (.tokenWrite k) s = .next t ∧ t.parcels = removeAt s.parcels k ∧
      (t.coreOf dst).actors[actor]? = some { a with count := a.count + 1, reserved := a.reserved - 1 } ∧
      t.LocalHolds s dst (d.slotAddr (a.head + a.count)) (dws.flatMap (fun v => dwordBytes v.bits)) ∧
      ((s.coreOf dst).wf = true → ∀ j, j < 8 → t.isFull (.loc dst (d.slotAddr (a.head + a.count) + 8 * j)) = true) := by
  obtain ⟨only, lm, empty, actors⟩ := State.fillDwords_spec dst (d.slotAddr (a.head + a.count)) dws 0
    (show (s.takeParcel k).ldsWait = [] from waits)
  refine ⟨_, exec_tokenWrite there first declared state, ?_, ?_, State.localHolds ?_, fun wf j hj => ?_⟩
  · obtain ⟨_, _, _, e⟩ := only.trans (State.modCore_onlyCores _ dst _)
    exact congrArg State.parcels e
  · rw [State.coreOf_wake, State.modActor, State.coreOf_modCore _ (by exact State.coreOf_id _ dst)]
    exact (modifyAt_getElem?_self ..).trans (by rw [actors]; exact congrArg (Option.map _) state)
  · rw [State.coreOf_wake, State.modActor, State.coreOf_modCore _ (by exact State.coreOf_id _ dst)]
    exact lm
  · have wf : NatSet.wf (s.coreOf dst).lmEmpty = true := Core.wf_lmEmpty wf
    have named : (d.slotAddr (a.head + a.count) + 8 * j) / 8 ∈
        (List.range' 0 dws.length).map (fun j => (d.slotAddr (a.head + a.count) + 8 * j) / 8) :=
      List.mem_map_of_mem (List.mem_range'_1.2 ⟨j.zero_le, by omega⟩)
    rw [State.isFull, State.coreOf_wake, State.modActor, State.coreOf_modCore _ (by exact State.coreOf_id _ dst)]
    change (!NatSet.has (State.coreOf _ dst).lmEmpty _) = true
    rw [empty, show ((s.takeParcel k).coreOf dst).lmEmpty = (s.coreOf dst).lmEmpty from rfl,
      NatSet.has_foldl_del wf named]
    rfl

section
variable {s : State} {k dst : Nat} {la : BitVec 17} {v : PWord} (there : s.parcels[k]? = some (.reply dst la v))
include there

theorem exec_replyWrite : exec (.replyWrite k) s = if (s.coreOf dst).scratch la.toNat 8 then
    happens ((s.takeParcel k).fillDword dst la.toNat v) else happens (s.takeParcel k) := by
  change execReplyWrite k s = _
  rw [execReplyWrite, there]
  rfl

/-- A reply to a word in a scratch bank. -/
theorem exec_replyWrite_spec (waits : s.ldsWait = []) (scratch : (s.coreOf dst).scratch la.toNat 8 = true) :
    ∃ t, exec (.replyWrite k) s = .next t ∧ t.parcels = removeAt s.parcels k ∧
      t.LocalHolds s dst la.toNat (dwordBytes v.bits) ∧ ((s.coreOf dst).wf = true → t.isFull (.loc dst la.toNat) = true) := by
  have waits : (s.takeParcel k).ldsWait = [] := waits
  have wrote := State.coreOf_fillDword waits dst la.toNat v
  refine ⟨_, (exec_replyWrite there).trans (if_pos scratch), ?_, State.localHolds ?_, fun wf => ?_⟩
  · obtain ⟨_, _, _, e⟩ := State.fillDword_onlyCores waits dst la.toNat v
    exact congrArg State.parcels e
  · rw [State.coreOf_wake, wrote]
    rfl
  · have wf : NatSet.wf (s.coreOf dst).lmEmpty = true := Core.wf_lmEmpty wf
    rw [State.isFull, State.coreOf_wake, wrote]
    change (!NatSet.has (NatSet.del (s.coreOf dst).lmEmpty _) _) = true
    simp [NatSet.has_del wf]

end

/-! ## Messages in their three places -/

section
variable {s : State} {src k : Nat} {m : Msg} (lt : src < 16384) (there : (s.coreOf src).outbox[k]? = some m)
  (first : ((s.coreOf src).outbox.take k).any m.follows = false)
include lt there first

/-- A message that nothing keeps in the fabric, and that finds the input buffers empty. -/
theorem exec_messageArrival_queued (free : s.parcels.any (Parcel.ahead m) = false) (high : (s.coreOf m.dst).inHi = [])
    (low : (s.coreOf m.dst).inLo = []) :
    exec (.messageArrival src k) s = happens ((s.takeOut src k).deliver m) := by
  have room : s.bufferRoom m = true := by cases hi : m.hi <;> simp [State.bufferRoom, Core.inBuf, hi, high, low]
  rw [exec_messageArrival_out lt there first, free, room]
  rfl

/-- A message for a full input buffer enters the fabric. -/
theorem exec_messageArrival_waits (full : s.bufferRoom m = false) (few : s.fabricMessages < Config.fabricRoom) :
    ∃ t, exec (.messageArrival src k) s = .next t ∧ (t.coreOf src).outbox = removeAt (s.coreOf src).outbox k ∧
      t.parcels = s.parcels ++ [.msg m] := by
  have waits : exec (.messageArrival src k) s =
      happens { s.takeOut src k with parcels := (s.takeOut src k).parcels ++ [.msg m] } := by
    rw [exec_messageArrival_out lt there first, full, Bool.and_false, if_neg Bool.false_ne_true, if_pos few]
  refine ⟨_, waits, ?_, ?_⟩
  · rw [State.coreOf_wake]
    exact State.takeOut_outbox
  · obtain ⟨_, _, _, e⟩ := s.modCore_onlyCores src (fun c => { c with outbox := removeAt c.outbox k })
    exact congrArg (·.parcels ++ [Parcel.msg m]) e

end

/-- A message in the fabric whose queue is full enters its input buffer. -/
theorem exec_messageArrival_buffered {s : State} {k : Nat} {m : Msg} (there : s.parcels[k]? = some (.msg m))
    (first : (s.parcels.take k).any (Parcel.ahead m) = false) (room : s.bufferRoom m = true)
    (full : (s.coreOf m.dst).queueRoom m.hi = false) :
    ∃ t, exec (.messageArrival 16384 k) s = .next t ∧ t.parcels = removeAt s.parcels k ∧
      (t.coreOf m.dst).inBuf m.hi = (s.coreOf m.dst).inBuf m.hi ++ [m] := by
  refine ⟨_, exec_messageArrival_fabric there first room, ?_, ?_⟩
  · obtain ⟨_, _, _, e⟩ := (s.takeParcel k).deliver_onlyCores m
    rw [State.wake_parcels, e]
    rfl
  · have kept := State.deliver_full (s := s.takeParcel k) (m := m) full
    rw [State.coreOf_wake]
    exact (Core.inBuf_look ..).trans kept

/-! ## Channels (R104) -/

/-- A dword of a channel of which parcel `k` is the first of its way. -/
theorem exec_channelDwordArrival {s : State} {k dst : Nat} {d : Dir} {v : PWord} (there : s.parcels[k]? = some (.chan dst d v))
    (first : s.parcelFirst k (fun p => match p with
      | .chan c f _ => c == dst && decide (f = d)
      | .token _ _ _ _ | .reply _ _ _ | .credit _ _ | .msg _ => false) = true) :
    ∃ t, exec (.channelDwordArrival k) s = .next t ∧ t.parcels = removeAt s.parcels k ∧
      (t.coreOf dst).fifoIn = modifyAt (fun l => l ++ [v]) (s.coreOf dst).fifoIn d.num := by
  let f (c : Core) : Core := { c with fifoIn := modifyAt (fun l => l ++ [v]) c.fifoIn d.num }
  have entered : exec (.channelDwordArrival k) s = happens ((s.takeParcel k).modCore dst f) := by
    change execChannelDwordArrival k s = _
    rw [execChannelDwordArrival, there]
    exact if_neg fun later => absurd (later.symm.trans (congrArg not first)) (by decide)
  refine ⟨_, entered, ?_, ?_⟩
  · obtain ⟨_, _, _, e⟩ := (s.takeParcel k).modCore_onlyCores dst f
    exact congrArg State.parcels e
  · rw [State.coreOf_wake, State.coreOf_modCore _ (by exact State.coreOf_id _ dst)]
    rfl

theorem exec_channelCredit {s : State} {k dst : Nat} {d : Dir} (there : s.parcels[k]? = some (.credit dst d)) :
    ∃ t, exec (.channelCredit k) s = .next t ∧ t.parcels = removeAt s.parcels k ∧
      (t.coreOf dst).window = modifyAt (fun n => min 64 (n + 1)) (s.coreOf dst).window d.num := by
  let f (c : Core) : Core := { c with window := modifyAt (fun n => min 64 (n + 1)) c.window d.num }
  have opened : exec (.channelCredit k) s = happens ((s.takeParcel k).modCore dst f) := by
    change execChannelCredit k s = _
    rw [execChannelCredit, there]
  refine ⟨_, opened, ?_, ?_⟩
  · obtain ⟨_, _, _, e⟩ := (s.takeParcel k).modCore_onlyCores dst f
    exact congrArg State.parcels e
  · rw [State.coreOf_wake, State.coreOf_modCore _ (by exact State.coreOf_id _ dst)]
    rfl

end Sys2Proof.Machine

open Sys2Proof Sys2Proof.Machine

/-- Settles O49: a message is delivered to its input buffer, from which the queue takes it; dwords that come full are written;
and a channel's dword and credit change one list of their core. -/
theorem parcelsArrive : Obligations.ParcelsArrive := by
  unfold Obligations.ParcelsArrive
  refine ⟨fun s src k m lt there first free high low => ?queued,
    fun s src k m lt there first full few => exec_messageArrival_waits lt there first full few,
    fun s k m there first room fullHigh fullLow => ?buffered,
    fun s k src dst actor dws d a there first eight declared state waits =>
      exec_tokenWrite_spec there first eight declared state waits,
    fun s k dst la v there waits => ⟨fun scratch => exec_replyWrite_spec there waits scratch,
      fun left => (exec_replyWrite there).trans (if_neg (by rw [left]; decide))⟩,
    fun s k dst d v there first => exec_channelDwordArrival there first, fun s k dst d there => exec_channelCredit there⟩
  case queued =>
    have uid : (s.takeOut src k).uid = s.uid := State.modCore_uid ..
    have hq : ((s.takeOut src k).coreOf m.dst).hq = (s.coreOf m.dst).hq := State.coreOf_takeOut Core.hq (fun _ _ => rfl) _
    have lq : ((s.takeOut src k).coreOf m.dst).lq = (s.coreOf m.dst).lq := State.coreOf_takeOut Core.lq (fun _ _ => rfl) _
    have inHi := (State.coreOf_takeOut (s := s) (src := src) (k := k) Core.inHi (fun _ _ => rfl) m.dst).trans high
    have inLo := (State.coreOf_takeOut (s := s) (src := src) (k := k) Core.inLo (fun _ _ => rfl) m.dst).trans low
    have goesHigh := State.deliver_high inHi inLo
    have goesLow := State.deliver_low inHi inLo
    rw [uid, hq] at goesHigh
    rw [uid, lq] at goesLow
    intro act q
    refine ⟨_, exec_messageArrival_queued lt there first free high low, ?_, ?_⟩ <;> simp only [State.coreOf_wake]
    · rw [State.deliver_outbox, State.takeOut_outbox]
    · exact ⟨fun hi => (goesHigh hi).1, fun lo => (goesLow lo).1, fun hi => (goesHigh hi).2, fun lo => (goesLow lo).2⟩
  case buffered =>
    have full : (s.coreOf m.dst).queueRoom m.hi = false := by
      cases hi : m.hi with
      | true => simpa [Core.queueRoom] using fullHigh hi
      | false => simpa [Core.queueRoom] using fullLow hi
    exact exec_messageArrival_buffered there first room full
end
section
/-! SUPPORT. The states of contexts: what leaves them, through records and the slices, and what a context error makes of
them. -/

namespace Sys2Proof.Machine

/-! ## Contexts by id -/

theorem find?_updFirst_id {f : Context → Context} (kept : ∀ c, (f c).id = c.id) (n i : Nat) : ∀ l : List Context,
    (updFirst (fun c => c.id == n) f l).find? (fun c => c.id == i) =
      if i = n then (l.find? (fun c => c.id == i)).map f else l.find? (fun c => c.id == i)
  | [] => by simp [updFirst]
  | x :: l => by
    by_cases first : x.id = n
    · by_cases e : i = n
      · simp [updFirst, first, kept, e]
      · simp [updFirst, first, kept, e, Ne.symm e]
    · have rest := find?_updFirst_id kept n i l
      by_cases e : i = n
      · subst e
        simpa [updFirst, first] using rest
      · simp only [if_neg e] at rest ⊢
        simp [updFirst, first, List.find?_cons, rest]

/-- The state of a context, if there is one with that id. -/
def State.ctxSt (s : State) (i : Nat) : Option CtxSt := (s.ctx? i).map (·.st)

/-- Two states agree in the contexts that there are, and in the states of these. -/
def SameCtx (s t : State) : Prop := ∀ i, t.ctxSt i = s.ctxSt i

theorem SameCtx.refl (s : State) : SameCtx s s := fun _ => rfl

theorem SameCtx.trans {s t u : State} (h : SameCtx s t) (k : SameCtx t u) : SameCtx s u := fun i => (k i).trans (h i)

theorem SameCtx.of {s t : State} (h : t.contexts = s.contexts) : SameCtx s t := fun i => by
  unfold State.ctxSt State.ctx?
  rw [h]

theorem SameCtx.fold {α : Type} {f : State → α → State} (hf : ∀ s a, SameCtx s (f s a)) :
    ∀ (l : List α) (s : State), SameCtx s (l.foldl f s)
  | [], s => .refl s
  | a :: l, s => (hf s a).trans (SameCtx.fold hf l _)

/-- The same of a walk that carries something else along. -/
theorem SameCtx.fold_snd {α β : Type} {f : β × State → α → β × State} (hf : ∀ b s a, SameCtx s (f (b, s) a).2) :
    ∀ (l : List α) (b : β) (s : State), SameCtx s (l.foldl f (b, s)).2
  | [], _, s => .refl s
  | a :: l, b, s => (hf b s a).trans (SameCtx.fold_snd hf l _ _)

theorem OnlyCores.sameCtx {s t : State} (h : OnlyCores s t) : SameCtx s t := by
  obtain ⟨_, _, _, rfl⟩ := h
  exact .of rfl

namespace State

/-- A change that keeps ids and states. -/
theorem modCtx_same (s : State) (n : Nat) {f : Context → Context} (id : ∀ c, (f c).id = c.id) (st : ∀ c, (f c).st = c.st) :
    SameCtx s (s.modCtx n f) := by
  intro i
  have found : (s.modCtx n f).ctx? i = _ := find?_updFirst_id id n i s.contexts
  unfold ctxSt
  rw [found]
  split
  · rw [Option.map_map]
    exact congrArg (fun g => (s.ctx? i).map g) (funext st)
  · rfl

/-- A change of one context's state. -/
theorem ctxSt_modCtx (s : State) (n : Nat) {f : Context → Context} (id : ∀ c, (f c).id = c.id) {x : CtxSt} (st : ∀ c, (f c).st = x)
    (i : Nat) : (s.modCtx n f).ctxSt i = if i = n then (s.ctxSt i).map (fun _ => x) else s.ctxSt i := by
  have found : (s.modCtx n f).ctx? i = _ := find?_updFirst_id id n i s.contexts
  unfold ctxSt
  rw [found]
  split
  · rw [Option.map_map, Option.map_map]
    exact congrArg (fun g => (s.ctx? i).map g) (funext st)
  · rfl

/-! ## Records and the slices (R126, R333, R382) -/

theorem countCorrected_same (s : State) (p : Nat) : SameCtx s (s.countCorrected p) := by
  unfold countCorrected
  dsimp only
  split
  · exact .of rfl
  · exact SameCtx.trans (t := s.modPart p (fun q => { q with hypCorrected := q.hypCorrected + 1 })) (.of rfl)
      (modCtx_same _ _ (fun _ => rfl) (fun _ => rfl))

theorem disarm_same (s : State) (unit : Nat) (t : Target) : SameCtx s (s.disarm unit t).2 := by
  unfold disarm
  split <;> exact .of rfl

theorem damage_same (s : State) (u : Nat) : SameCtx s (s.damage u) := .of rfl

theorem recordMgmt_same (s : State) (r : Rec) : SameCtx s (s.recordMgmt r) := by
  obtain ⟨_, _, e⟩ := s.recordMgmt_eq r
  rw [e]
  exact .of rfl

theorem leaveGranule_same (x : CacheLine) (p : Nat) (bad : Bool) (s : State) (u : Nat) :
    SameCtx s (leaveGranule x p (bad, s) u).2 := by
  have met := s.disarm_same 1 (.phys (16 * u))
  unfold leaveGranule
  dsimp only
  split
  next t e =>
    rw [e] at met
    exact met
  next t e =>
    rw [e] at met
    refine met.trans ?_
    dsimp only
    split
    · exact t.countCorrected_same p
    · exact .refl t
  next t e =>
    rw [e] at met
    refine met.trans ?_
    split
    · exact t.damage_same u
    · exact .refl t
  next t _ _ e =>
    rw [e] at met
    refine met.trans ?_
    dsimp only
    split <;> exact .of rfl

theorem evict_same (s : State) (x : CacheLine) : SameCtx s (s.evict x) := by
  have leave (t : State) (b : Bool) : SameCtx t (if t.armed.isEmpty then (b, t)
      else ((List.range 8).map (8 * x.line + ·)).foldl (leaveGranule x (keyPart (128 * x.line))) (b, t)).2 := by
    split
    · exact .refl t
    · exact SameCtx.fold_snd (leaveGranule_same x _) _ b t
  unfold evict
  extract_lets p pa under s1 found
  refine SameCtx.trans (t := s1) (.of rfl) ?_
  have left := leave s1 found
  split
  next bad t e =>
    rw [e] at left
    refine left.trans ?_
    split
    · exact .refl t
    · exact SameCtx.trans (t := t.takeFree.2) (.of rfl) (recordMgmt_same _ _)

theorem makeRoom_same (s : State) (line : Nat) (tag way : Bool) : SameCtx s (s.makeRoom line tag way) := by
  unfold makeRoom
  split
  · exact .refl s
  · dsimp only
    split
    · split
      · exact .refl s
      · exact s.evict_same _
    · exact .refl s

theorem putLine_same (s : State) (use : LineUse) (x : CacheLine) : SameCtx s (s.putLine use x) := by
  unfold putLine
  dsimp only
  split <;> exact .of rfl

theorem hitLine_same (s : State) (use : LineUse) (x : CacheLine) (zeros : Bool) (covered : List Nat) :
    SameCtx s (s.hitLine use x zeros covered) := by
  unfold hitLine
  dsimp only
  split
  · exact (s.makeRoom_same _ _ _).trans (putLine_same _ _ _)
  · exact s.putLine_same _ _

theorem directWrite_same (s : State) (key : Nat) (bytes : List Byte) : SameCtx s (s.directWrite key bytes) := by
  refine SameCtx.trans (SameCtx.fold (fun s l => ?_) _ s) (.of rfl)
  split
  · exact .refl s
  · exact s.hitLine_same _ _ _ _

theorem recordInto_same (s : State) (c : Context) (r : Rec) (valid : Bool) : SameCtx s (s.recordInto c r valid) :=
  (s.directWrite_same _ _).trans (modCtx_same _ _ (fun _ => rfl) (fun _ => rfl))

theorem recordFound_same (s : State) (n : Nat) (r : Rec) : SameCtx s (s.recordFound n r) := by
  unfold recordFound
  split
  · exact .refl s
  · exact s.recordInto_same _ _ _

theorem recordFoundIn_same (s : State) (p : Nat) (r : Rec) : SameCtx s (s.recordFoundIn p r) := by
  unfold recordFoundIn
  split
  · exact s.recordMgmt_same _
  · exact s.recordFound_same _ _

theorem meetMemory_same (s : State) (p u : Nat) : SameCtx s (s.meetMemory p u) := by
  have met := s.disarm_same 2 (.phys (16 * u))
  unfold meetMemory
  dsimp only
  split
  next t e =>
    rw [e] at met
    exact met
  next t e =>
    rw [e] at met
    exact met.trans (t.countCorrected_same p)
  next t e =>
    rw [e] at met
    exact met.trans ((SameCtx.trans (t := t.takeFree.2) (.of rfl) (damage_same _ u)).trans (recordFoundIn_same _ _ _))
  next t e =>
    rw [e] at met
    exact met.trans (.of rfl)
  next t _ _ _ e =>
    rw [e] at met
    exact met.trans (t.damage_same u)

theorem meetSlice_same (s : State) (p u : Nat) : SameCtx s (s.meetSlice p u).2 := by
  have met := s.disarm_same 1 (.phys (16 * u))
  unfold meetSlice
  dsimp only
  split
  next t e =>
    rw [e] at met
    exact met
  next t e =>
    rw [e] at met
    exact met.trans (t.countCorrected_same p)
  next t e =>
    rw [e] at met
    have recorded (r : Rec) : SameCtx t (t.takeFree.2.recordFoundIn p r) :=
      SameCtx.trans (t := t.takeFree.2) (.of rfl) (recordFoundIn_same _ _ _)
    refine met.trans ?_
    split
    · split
      · exact (recorded _).trans ((damage_same _ u).trans (putLine_same _ _ _))
      · exact (recorded _).trans (.of rfl)
    · exact recorded _
  next t _ _ e =>
    rw [e] at met
    exact met.trans (.of rfl)

theorem meetGranule_same (s : State) (p u : Nat) : SameCtx s (s.meetGranule p u).2 := by
  unfold meetGranule
  split
  · exact s.meetSlice_same p u
  · split
    · exact .refl s
    · exact s.meetMemory_same p u

theorem meetPhys_same (s : State) (p key n : Nat) : SameCtx s (s.meetPhys .bypass p key n).2 := by
  obtain ⟨ls, e⟩ := s.readLines_bypass key n
  have lines : SameCtx s (s.readLines .bypass key n) := by
    rw [e]
    exact .of rfl
  unfold meetPhys
  dsimp only
  split
  · exact lines
  · exact lines.trans ((SameCtx.fold_snd (fun ov t u => t.meetGranule_same p u) _ _ _).trans (.of rfl))

theorem readValid_same (s : State) (p key : Nat) : SameCtx s (s.readValid p key).2 := by
  unfold readValid
  split
  · exact .refl s
  · exact s.meetPhys_same p key 8

theorem recordAfter_same (n : Nat) (r : Rec) : ∀ (k : Nat) (s : State), SameCtx s (recordAfter n r k s)
  | 0, s => s.recordFound_same n r
  | k + 1, s => by
    unfold recordAfter
    split
    · exact .refl s
    next c _ =>
      refine (s.readValid_same c.part (faultSlot c)).trans ?_
      dsimp only
      split
      · exact .refl _
      · split
        · exact recordInto_same _ _ _ _
        · exact recordAfter_same n r k _

/-- A record of a context leaves the states of all (R333). -/
theorem recordCtx_same (s : State) (n : Nat) (r : Rec) : SameCtx s (s.recordCtx n r) := recordAfter_same n r _ s

/-! ## Context errors (R340) -/

theorem queueError_same (s : State) (ctx num reason : Nat) : SameCtx s (s.queueError ctx num reason) := by
  unfold queueError modQueue
  split
  · exact .refl s
  · unfold putQueue
    extract_lets n key t u
    have first : SameCtx s u := by
      refine SameCtx.trans (t := t) (.of rfl) ?_
      unfold u
      split
      · exact .refl t
      · exact t.directWrite_same _ _
    refine first.trans ?_
    split
    · exact .refl u
    · exact u.directWrite_same _ _

theorem clearCore_same (s : State) (core : Nat) : SameCtx s (s.clearCore core) := by
  unfold clearCore
  dsimp only
  exact (putCore_onlyCores s _).sameCtx.trans (.of rfl)

theorem failObjects_same (s : State) (n : Nat) : SameCtx s (s.failObjects n) := by
  unfold failObjects
  exact (SameCtx.fold (fun t (q : Queue) => t.queueError_same n q.num 7) _ s).trans (.of rfl)

/-- A context error puts one context into ERROR. -/
theorem ctxSt_ctxError (s : State) (n : Nat) (r : Rec) (i : Nat) :
    (s.ctxError n r).ctxSt i = if i = n then (s.ctxSt i).map (fun _ => .error) else s.ctxSt i := by
  unfold ctxError
  split
  next none =>
    split
    next e =>
      subst e
      simp [ctxSt, none]
    next => rfl
  next x there =>
    split
    next already =>
      split
      next e =>
        subst e
        simp [ctxSt, there, already]
      next => rfl
    next =>
      refine (((SameCtx.fold clearCore_same _ _).trans (failObjects_same _ n)) i).trans ?_
      rw [ctxSt_modCtx (f := fun c => { c with st := .error }) _ _ (fun _ => rfl) (fun _ => rfl), s.recordCtx_same _ _ i]

/-- Context errors of several contexts. -/
theorem ctxSt_foldl_ctxError (r : Rec) (i : Nat) : ∀ (ids : List Nat) (s : State),
    (ids.foldl (fun s n => s.ctxError n r) s).ctxSt i = if i ∈ ids then (s.ctxSt i).map (fun _ => .error) else s.ctxSt i
  | [], _ => by simp
  | n :: ids, s => by
    rw [List.foldl_cons, ctxSt_foldl_ctxError r i ids, ctxSt_ctxError]
    by_cases e : i = n
    · rw [if_pos e, if_pos (List.mem_cons.2 (.inl e))]
      split
      · rw [Option.map_map]
        rfl
      · rfl
    · simp only [List.mem_cons, e, false_or, if_false]

end State

/-- An error in the ripening-copy state of a set: the contexts with a copy there are in ERROR. -/
theorem exec_coreErr_ripening {s : State} {k : Nat} {r : Ripe} {x : Context} (there : s.ripening[k]? = some r)
    (ctx : s.ctx? r.dom.ctx = some x) :
    ∃ t, exec (.coreErr (.ripening k)) s = .next t ∧ (t.ctx? r.dom.ctx).map (·.st) = some .error := by
  have met : exec (.coreErr (.ripening k)) s = happens (s.setErr r.line) := by
    change execCoreErr (.ripening k) s = _
    rw [execCoreErr, there]
  refine ⟨_, met, ?_⟩
  change (s.setErr r.line).ctxSt r.dom.ctx = some .error
  have copy : r ∈ s.ripening.filter (fun y => decide (s.setOf y.line = s.setOf r.line)) :=
    List.mem_filter.2 ⟨List.mem_of_getElem? there, decide_eq_true rfl⟩
  have struck : r.dom.ctx ∈ (s.ripening.filter (fun y => decide (s.setOf y.line = s.setOf r.line))).foldl
      (fun l y => NatSet.ins l y.dom.ctx) [] := by
    rw [← List.foldl_map (f := fun y : Ripe => y.dom.ctx) (g := NatSet.ins)]
    exact NatSet.mem_foldl_ins.2 (.inl (List.mem_map_of_mem copy))
  unfold State.setErr
  dsimp only
  rw [State.ctxSt_foldl_ctxError, if_pos struck, State.ctxSt, ctx]
  rfl

end Sys2Proof.Machine
end
section
/-! SUPPORT. How activations start, fire and come back: what these steps change of the core in focus. -/

namespace Sys2Proof.Machine

/-- A change of one element of a list leaves its length. -/
theorem isSome_modifyAt {α : Type} (f : α → α) (n : Nat) : ∀ (l : List α) (m : Nat), (modifyAt f l m)[n]?.isSome = l[n]?.isSome
  | [], _ => rfl
  | x :: l, 0 => by cases n <;> rfl
  | x :: l, m + 1 => by
    cases n with
    | zero => rfl
    | succ n => simpa [modifyAt] using isSome_modifyAt f n l m

/-- A core on which an activation starts, with its trace unit as the event leaves it. -/
def Core.started (c : Core) (u : Trace) (a : Act) (entry : BitVec 48) : Core :=
  Core.runThread { c with trace := u, nStart := c.nStart + 1 } { Thread.blank with act := a, pc := entry }

/-- A core of one of whose queues `rest` remains. -/
def Core.without (c : Core) (hi : Bool) (rest : List QEntry) : Core :=
  { c with hq := if hi then rest else c.hq, lq := if hi then c.lq else rest }

/-- A thread takes its priority context, and nothing else of the core changes. -/
theorem Core.runThread_eq (c : Core) (t : Thread) : c.runThread t = { c with
    active := true, curHi := t.act.hi, cur := t
    wph := if t.act.hi then t.act.wp else c.wph, wpl := if t.act.hi then c.wpl else t.act.wp } := by
  unfold Core.runThread
  dsimp only
  split <;> rfl

namespace State

/-! ## Tracing and actors -/

/-- An event that a trace may record changes the trace unit of its core only (R400). -/
theorem traceAct_eq (s : State) (kind detail : Nat) (a : Act) (addr : Nat) :
    ∃ u, s.traceAct kind detail a addr = { s with core := { s.core with trace := u } } := by
  unfold traceAct trace
  split
  · exact ⟨_, rfl⟩
  · exact ⟨_, rfl⟩

/-- A change of an actor's state, as the core in focus sees it. -/
theorem modActor_core (s : State) (core i : Nat) (f : ActorSt → ActorSt) : (s.modActor core i f).core =
    if s.core.id = core then { s.core with actors := modifyAt f s.core.actors i } else s.core := by
  have id : (s.coreOf core).id = core := s.coreOf_id core
  unfold modActor modCore putCore
  dsimp only
  rw [id]
  split
  next focus => rw [← focus, s.coreOf_focus]
  next => rfl

/-- Reserving slots at a consumer changes states of actors only (R97). -/
theorem reserve_core (s : State) (d : ActorDef) : ∃ as, (s.reserve d).core = { s.core with actors := as } ∧
    ∀ i : Nat, as[i]?.isSome = s.core.actors[i]?.isSome := by
  unfold reserve
  split
  · exact ⟨_, rfl, fun _ => rfl⟩
  · rw [modActor_core]
    split
    · exact ⟨_, rfl, fun i => isSome_modifyAt ..⟩
    · exact ⟨_, rfl, fun _ => rfl⟩

theorem unreserve_core (s : State) (a : Act) : ∃ as, (s.unreserve a).core = { s.core with actors := as } := by
  unfold unreserve
  split
  · exact ⟨_, rfl⟩
  · split
    · exact ⟨_, rfl⟩
    · rw [modActor_core]
      split <;> exact ⟨_, rfl⟩

/-! ## Starts (R98, R99) -/

/-- The next entry to start is the first of its queue. -/
theorem Resting.nextEntry {s : State} (h : s.Resting) {q : QEntry} {rest : List QEntry} {hi : Bool} (can : s.canStart q = true)
    (queued : if hi then s.core.hq = q :: rest else s.core.hq = [] ∧ s.core.lq = q :: rest) :
    s.nextEntry = some (hi, 0) := by
  have idle : (s.core.active || s.core.stopReq || s.core.frozen || s.core.frame.isSome || !s.mayRun s.core.id) = false := by
    rw [h.active, h.stop, h.frozen, h.frame, h.runs]
    rfl
  unfold State.nextEntry
  dsimp only
  rw [idle, if_neg Bool.false_ne_true]
  cases hi with
  | true =>
    have first : s.core.hq = q :: rest := queued
    rw [first, List.findIdx?_cons, can]
    rfl
  | false =>
    obtain ⟨none, first⟩ : s.core.hq = [] ∧ s.core.lq = q :: rest := queued
    rw [none, first, h.susp, h.low, List.findIdx?_cons, can]
    rfl

/-- The activation of a message starts: its thread runs in its slot, and an event may be traced. -/
theorem startAct_message {s : State} {a : Act} (actor : a.actor = none) (first : a.initial = false) :
    ∃ u, s.startAct a = { s with core := s.core.started u (s.inSlot a) a.entry } := by
  have slot : (s.inSlot a).actor = none ∧ (s.inSlot a).initial = false ∧ (s.inSlot a).entry = a.entry := by
    unfold inSlot
    split <;> exact ⟨actor, first, rfl⟩
  obtain ⟨slotActor, slotFirst, entry⟩ := slot
  obtain ⟨u, traced⟩ := s.traceAct_eq 1 0 (s.inSlot a) 0
  refine ⟨u, ?_⟩
  simp only [startAct, slotFirst, Bool.false_eq_true, if_false, setBusy, slotActor, sample, Option.bind_none, traced, entry]
  rfl

/-- With nothing in the input buffers, no queue takes a message. -/
theorem drainIn_empty {s : State} (high : s.core.inHi = []) (low : s.core.inLo = []) : s.drainIn s.core.id = s := by
  simp only [drainIn, coreOf_focus, high, drainBuf, low]

theorem inSlot_without (s : State) (hi : Bool) (rest : List QEntry) (a : Act) :
    State.inSlot { s with core := s.core.without hi rest } a = s.inSlot a := by
  rfl

/-- The first entry of a queue leaves it and starts. -/
theorem Resting.startNext {s : State} (h : s.Resting) {q : QEntry} {rest : List QEntry} {hi : Bool} (can : s.canStart q = true)
    (fresh : q.resume = none) (actor : q.act.actor = none) (first : q.act.initial = false)
    (queued : if hi then s.core.hq = q :: rest else s.core.hq = [] ∧ s.core.lq = q :: rest) :
    ∃ u, s.startNext = some { s with
      core := (s.core.without hi rest).started u (s.inSlot q.act) q.act.entry } := by
  have stays : s.suspend = s := by simp [suspend, h.active]
  have taken : s.core.dequeue hi 0 =
      (some q, s.core.without hi rest) := by
    unfold Core.dequeue Core.without
    cases hi with
    | true =>
      have first : s.core.hq = q :: rest := queued
      simp [first, removeAt]
    | false =>
      obtain ⟨-, first⟩ : s.core.hq = [] ∧ s.core.lq = q :: rest := queued
      simp [first, removeAt]
  obtain ⟨u, started⟩ := startAct_message (s := { s with core := s.core.without hi rest }) actor first
  refine ⟨u, ?_⟩
  unfold State.startNext
  dsimp only
  rw [stays, h.nextEntry can queued]
  dsimp only
  rw [taken]
  dsimp only
  rw [fresh]
  dsimp only
  rw [started, State.inSlot_without]
  refine congrArg some (drainIn_empty ?_ ?_) <;> rw [Core.started, Core.runThread_eq]
  · exact h.inHi
  · exact h.inLo

end State

/-- The first entry of a queue starts. -/
theorem exec_activationStart {s : State} (h : s.Resting) {q : QEntry} {rest : List QEntry} {hi : Bool}
    (can : s.canStart q = true) (fresh : q.resume = none) (actor : q.act.actor = none) (first : q.act.initial = false)
    (prio : q.act.hi = hi) (queued : if hi then s.core.hq = q :: rest else s.core.hq = [] ∧ s.core.lq = q :: rest) :
    ∃ t, exec .activationStart s = .next t ∧ t.core.active = true ∧ t.core.curHi = hi ∧ t.core.cur.pc = q.act.entry ∧
      t.core.cur.act = s.inSlot q.act ∧ t.core.cur.slots = [] ∧ t.core.cur.loops = [] ∧ t.core.nStart = s.core.nStart + 1 ∧
      t.core.lm = s.core.lm ∧ (if hi then t.core.hq = rest ∧ t.core.wph = (s.inSlot q.act).wp
        else t.core.lq = rest ∧ t.core.wpl = (s.inSlot q.act).wp) := by
  obtain ⟨u, starts⟩ := h.startNext can fresh actor first queued
  have starts : exec .activationStart s =
      happens { s with core := (s.core.without hi rest).started u (s.inSlot q.act) q.act.entry } := by
    change execActivationStart s = _
    rw [execActivationStart, starts]
  have slot : (s.inSlot q.act).hi = hi := by
    unfold State.inSlot
    split <;> exact prio
  refine ⟨_, starts, ?_⟩
  rw [Core.started, Core.runThread_eq]
  refine ⟨rfl, slot, rfl, rfl, rfl, rfl, rfl, rfl, ?_⟩
  cases hi with
  | true => exact ⟨rfl, if_pos slot⟩
  | false => exact ⟨rfl, if_neg (by simp [slot])⟩

/-- A suspended thread as it runs on: no slot of its own blocks it. -/
def Thread.resumed (th : Thread) : Thread := { th with slots := th.slots.map (fun sl => { sl with block := false }) }

/-- The suspended thread runs on. -/
theorem exec_activationResume {s : State} (free : s.resumable = true) {th : Thread} (waits : s.core.susp = some th) :
    ∃ t, exec .activationResume s = .next t ∧ t.core.active = true ∧ t.core.susp = none ∧ t.core.curHi = th.act.hi ∧
      t.core.cur = { th with slots := th.slots.map (fun sl => { sl with block := false }) } ∧ t.core.lm = s.core.lm := by
  have resumes : exec .activationResume s = happens { s with
      core := Core.runThread { s.core with susp := none } th.resumed } := by
    change execActivationResume s = _
    rw [execActivationResume, free, waits]
    rfl
  rw [Core.runThread_eq] at resumes
  exact ⟨_, resumes, rfl, rfl, rfl, rfl, rfl⟩

/-! ## Firing (R97) -/

theorem exec_actorFiring {s : State} {i : Nat} {d : ActorDef} {k : KernInfo} (declared : s.core.actorDef i = some d)
    (kern : s.core.kern = some k) (fires : s.canFire s.core.id i = true) (runs : s.core.frozen = false) :
    let a := { Act.make s.uid d.entry [] false (some i) (k.kid.setWidth 16) 0 with redeliverable := d.revocable }
    ∃ t, exec (.actorFiring i) s = .next t ∧ t.core.lq = s.core.lq ++ [{ act := a, resume := none, extra := false }] ∧
      t.core.hq = s.core.hq ∧ (t.core.actors[i]?.map (·.busy)) = some true := by
  intro a
  obtain ⟨as, reserved, there⟩ := State.reserve_core { s with uid := s.uid + 1 } d
  have busy : ((State.reserve { s with uid := s.uid + 1 } d).setBusy a true).core =
      { s.core with actors := modifyAt (fun t => { t with busy := true }) as i } := by
    change (State.modActor (State.reserve { s with uid := s.uid + 1 } d)
      (State.reserve { s with uid := s.uid + 1 } d).core.id i _).core = _
    rw [State.modActor_core, if_pos rfl, reserved]
  have fired : exec (.actorFiring i) s = happens { (State.reserve { s with uid := s.uid + 1 } d).setBusy a true with
      core := ((State.reserve { s with uid := s.uid + 1 } d).setBusy a true).core.enqueue a } := by
    change execActorFiring i s = _
    rw [execActorFiring, declared, kern]
    dsimp only
    rw [fires, runs]
    rfl
  have stands : s.core.actors[i]?.isSome = true := by
    cases none : s.core.actors[i]? with
    | none => simp [State.canFire, s.coreOf_focus, declared, none] at fires
    | some x => rfl
  rw [busy] at fired
  refine ⟨_, fired, rfl, rfl, ?_⟩
  change ((modifyAt (fun t => { t with busy := true }) as i)[i]?).map (·.busy) = some true
  rw [modifyAt_getElem?_self]
  obtain ⟨x, hx⟩ := Option.isSome_iff_exists.1 ((there i).trans stands)
  rw [hx]
  rfl

/-! ## Redelivery (R385) -/

/-- What an activation that was rolled back owns is given back: granules, and reserved slots of actors. -/
theorem State.returnRolled_eq {s : State} (alone : s.core.parked = []) (a : Act) :
    (∃ p, (s.returnRolled a).1 = { a with extra := [], pushed := p }) ∧ ∃ as rolled, (s.returnRolled a).2.core =
      { s.core with freeGr := a.extra.foldl NatSet.ins s.core.freeGr, actors := as, rolled := rolled } := by
  refine ⟨⟨_, rfl⟩, ?_⟩
  obtain ⟨as, freed⟩ := (s.giveBack a.extra).unreserve_core a
  have none : ∀ rolled, State.testParked { (s.giveBack a.extra).unreserve a with
      core := { ((s.giveBack a.extra).unreserve a).core with rolled := rolled } } =
      { (s.giveBack a.extra).unreserve a with core := { ((s.giveBack a.extra).unreserve a).core with rolled := rolled } } := by
    intro rolled
    have parked : ((s.giveBack a.extra).unreserve a).core.parked = [] := by
      rw [freed]
      exact alone
    unfold State.testParked
    dsimp only
    rw [parked, State.grantParked]
  unfold State.returnRolled
  dsimp only
  rw [none, freed]
  exact ⟨as, _, rfl⟩

/-- An activation without a handler's frame that goes to the head of its queue. -/
theorem Core.pushFront_keeps (c : Core) (a : Act) :
    let d := c.pushFront { act := a, resume := none, extra := false }
    d.rolled = c.rolled ∧ d.press = c.press ∧ d.freeGr = c.freeGr ∧
      if a.hi then d.hq.head?.map (·.act) = some a ∧ d.lq = c.lq else d.lq.head?.map (·.act) = some a ∧ d.hq = c.hq := by
  have high : QEntry.high { act := a, resume := none, extra := false } = a.hi := Bool.or_false _
  unfold Core.pushFront
  rw [high]
  cases a.hi <;> exact ⟨rfl, rfl, rfl, rfl, rfl⟩

/-- Slots reserved for a firing, if it is one (R97). -/
def State.reserveFor (s : State) : Option ActorDef → State
  | some d => s.reserve d
  | none => s

theorem State.reserveFor_core (s : State) : ∀ d, ∃ as, (s.reserveFor d).core = { s.core with actors := as }
  | none => ⟨_, rfl⟩
  | some d => let ⟨as, e, _⟩ := s.reserve_core d; ⟨as, e⟩

/-- The press of a core once the commands of the activations rolled back are discarded. -/
def State.discarded (s : State) : State :=
  { s with core := { s.core with press := s.core.rolled.foldl (fun p x => p.discard x.uid) s.core.press } }

theorem State.mayRun_discarded (s : State) : s.discarded.mayRun s.discarded.core.id = s.mayRun s.core.id := by
  unfold State.mayRun
  rw [s.discarded.coreOf_focus, s.coreOf_focus]
  rfl

section
variable {s : State} {a : Act} {rest : List Act} (rolled : s.core.rolled = a :: rest)
include rolled

/-- While the press still has a command of the activation to retire, the discarded ones are all that goes. -/
theorem exec_redelivery_owes (owes : s.discarded.core.owesCommands a = true) :
    ∃ t, exec .redelivery s = .next t ∧ t.core.rolled = s.core.rolled ∧ t.core.press = s.discarded.core.press ∧
      t.core.hq = s.core.hq ∧ t.core.lq = s.core.lq ∧ t.core.freeGr = s.core.freeGr := by
  have answer : exec .redelivery s =
      if s.discarded.core.press = s.core.press then nothing s.discarded else happens s.discarded := by
    change execRedelivery s = _
    unfold execRedelivery
    split
    next none => simp [rolled] at none
    next b bs there =>
      obtain ⟨rfl, rfl⟩ : a = b ∧ rest = bs := by simpa [rolled] using there
      exact if_pos (Bool.or_eq_true_iff.2 (.inl owes))
  rw [answer]
  split
  · exact ⟨_, rfl, rfl, rfl, rfl, rfl, rfl⟩
  · exact ⟨_, rfl, rfl, rfl, rfl, rfl, rfl⟩

/-- Once nothing is owed, what the activation owns is given back, and it is queued when its consumer has room. -/
theorem exec_redelivery_returns (runs : s.mayRun s.core.id = true) (owes : s.discarded.core.owesCommands a = false) :
    exec .redelivery s =
      let r := s.discarded.returnRolled a
      let d := if a.initial then none else a.actor.bind r.2.core.actorDef
      if !(d.map r.2.consumerRoom).getD true then (if r.2.core = s.core then nothing r.2 else happens r.2)
      else happens { r.2.reserveFor d with
        core := Core.pushFront { (r.2.reserveFor d).core with rolled := rest }
          { act := { r.1 with pushed := 0 }, resume := none, extra := false } } := by
  have goes : ¬(s.discarded.core.owesCommands a || !s.discarded.mayRun s.discarded.core.id) = true := by
    rw [owes, State.mayRun_discarded, runs]
    decide
  change execRedelivery s = _
  unfold execRedelivery
  split
  next none => simp [rolled] at none
  next b bs there =>
    obtain ⟨rfl, rfl⟩ : a = b ∧ rest = bs := by simpa [rolled] using there
    refine (if_neg goes).trans ?_
    have same (r : Act × State) (d : Option ActorDef) :
        (if !(match d with | some x => r.2.consumerRoom x | none => true) then
          (if r.2.core = s.core then nothing r.2 else happens r.2)
        else happens { (match d with | some x => r.2.reserve x | none => r.2) with
          core := Core.pushFront { (match d with | some x => r.2.reserve x | none => r.2).core with rolled := rest }
            { act := { r.1 with pushed := 0 }, resume := none, extra := false } }) =
        if !(d.map r.2.consumerRoom).getD true then (if r.2.core = s.core then nothing r.2 else happens r.2)
        else happens { r.2.reserveFor d with
          core := Core.pushFront { (r.2.reserveFor d).core with rolled := rest }
            { act := { r.1 with pushed := 0 }, resume := none, extra := false } } := by
      cases d <;> rfl
    exact same (s.discarded.returnRolled a) _

/-- Once nothing is owed, the activation is at the head of its queue again, when its consumer has room. -/
theorem exec_redelivery_queues (runs : s.mayRun s.core.id = true) (alone : s.core.parked = [])
    (owes : s.discarded.core.owesCommands a = false)
    (room : ((if a.initial then none else a.actor.bind s.discarded.core.actorDef).map
      (s.discarded.returnRolled a).2.consumerRoom).getD true = true) :
    ∃ t, exec .redelivery s = .next t ∧ t.core.rolled = rest ∧ t.core.press = s.discarded.core.press ∧
      t.core.freeGr = a.extra.foldl NatSet.ins s.core.freeGr ∧
      let q : Act := { a with extra := [], pushed := 0 }
      (if a.hi then (t.core.hq.head?.map (·.act)) = some q ∧ t.core.lq = s.core.lq
        else (t.core.lq.head?.map (·.act)) = some q ∧ t.core.hq = s.core.hq) := by
  obtain ⟨⟨p, back⟩, as, left, core⟩ := State.returnRolled_eq (s := s.discarded) alone a
  have defs : (s.discarded.returnRolled a).2.core.actorDef = s.discarded.core.actorDef := by
    rw [core]
    rfl
  have queued := exec_redelivery_returns rolled runs owes
  dsimp only at queued
  rw [defs, room, back] at queued
  generalize (if a.initial then none else a.actor.bind s.discarded.core.actorDef) = d at queued
  obtain ⟨bs, reserved⟩ := (s.discarded.returnRolled a).2.reserveFor_core d
  rw [core] at reserved
  generalize (s.discarded.returnRolled a).2.reserveFor d = u at queued reserved
  obtain ⟨hq, lq, free, press⟩ : u.core.hq = s.core.hq ∧ u.core.lq = s.core.lq ∧
      u.core.freeGr = a.extra.foldl NatSet.ins s.core.freeGr ∧ u.core.press = s.discarded.core.press := by
    rw [reserved]
    exact ⟨rfl, rfl, rfl, rfl⟩
  obtain ⟨list, pressed, pool, front⟩ := Core.pushFront_keeps { u.core with rolled := rest }
    { a with extra := [], pushed := 0 }
  refine ⟨_, queued, list, pressed.trans press, pool.trans free, ?_⟩
  rw [← hq, ← lq]
  exact front

end

/-! ## Faults and errors from outside (R338, R378, R384) -/

theorem exec_trapDelivery {s : State} {c : BitVec 8} {v : BitVec 64} (active : s.core.active = true) (pos : 0 < c.toNat)
    (small : c.toNat < 16) (clean : c.toNat ≠ cPOISON) (check : s.core.cur.act.check = none)
    (out : s.core.inHandler = false) (vec : s.core.tvec ≠ 0) :
    ∃ t, exec (.trapDelivery c v) s = .next t ∧ t.core.inHandler = true ∧ t.core.priv = true ∧ t.core.cause = c ∧
      t.core.tval = v ∧ t.core.epc = s.core.cur.pc ∧ t.core.cur.pc = s.core.tvec ∧ t.core.lm = s.core.lm := by
  let t : TrapInfo := { cause := c.toNat, tval := v, spec := v.toNat % 128, major := none, epc := none, buf := false }
  obtain ⟨u, traced⟩ := s.traceAct_eq 4 t.cause s.core.cur.act s.core.cur.pc.toNat
  have enters := (State.takeTrap_enters (t := t) check clean vec out s.core.cur.pc 0).trans
    (congrArg (fun x : State => x.startHandler t s.core.cur.pc) traced)
  have delivered : exec (.trapDelivery c v) s = happens (s.takeTrap t s.core.cur.pc 0) := by
    change execTrapDelivery c v s = _
    unfold execTrapDelivery
    exact if_neg (by simp [active]; omega)
  rw [enters] at delivered
  have cause : BitVec.ofNat 8 c.toNat = c := by simp
  exact ⟨_, delivered, rfl, rfl, cause, rfl, rfl, rfl, rfl⟩

section
variable {s : State} (active : s.core.active = true)
include active

theorem exec_coreErr_control : exec (.coreErr .control) s = happens s.controlErr := by
  change execCoreErr .control s = _
  exact if_pos active

end

/-- An error in a line of the L1. -/
theorem exec_coreErr_l1 {s : State} {i : Nat} (there : i < s.core.l1.length) : exec (.coreErr (.l1 i)) s =
    happens (State.countCorrected { s with core := { s.core with l1 := removeAt s.core.l1 i } } s.myPart) := by
  change execCoreErr (.l1 i) s = _
  exact if_neg (by simp [State.cached, there])

end Sys2Proof.Machine
end
section
/-! SUPPORT. Lanes and flags of a register by number, and one lane replaced. -/

namespace Sys2Proof.Machine

theorem natLanes_getElem? (w : Nat) : ∀ (n x j : Nat), j < n → (natLanes w n x)[j]? = some (x / 2 ^ (w * j) % 2 ^ w)
  | n + 1, x, 0, _ => by simp [natLanes]
  | n + 1, x, j + 1, h => by
    rw [natLanes, List.getElem?_cons_succ, natLanes_getElem? w n _ j (by omega), Nat.div_div_eq_div_mul, ← Nat.pow_add,
      Nat.mul_add, Nat.mul_one, Nat.add_comm w]

theorem natBools_getElem? : ∀ (n x j : Nat), j < n → (natBools n x)[j]? = some (x.testBit j)
  | n + 1, x, 0, _ => by simp [natBools, Nat.testBit_zero]; rfl
  | n + 1, x, j + 1, h => by
    rw [natBools, List.getElem?_cons_succ, natBools_getElem? n _ j (by omega), Nat.testBit_succ]

/-- Bits outside the field that is replaced stay. -/
theorem putField_getLsbD {n : Nat} (x : BitVec n) {pos w b : Nat} (v : Word) (out : b < pos ∨ pos + w ≤ b) :
    (putField x pos w v).getLsbD b = x.getLsbD b := by
  have field : ∀ y, y < 2 ^ w → (y * 2 ^ pos).testBit b = false := by
    intro y hy
    rw [Nat.testBit_mul_two_pow]
    rcases out with low | high
    · simp [Nat.not_le.2 low]
    · rw [Nat.testBit_lt_two_pow (Nat.lt_of_lt_of_le hy (Nat.pow_le_pow_right (by decide) (by omega)))]
      exact Bool.and_false _
  have mask := field (2 ^ w - 1) (Nat.sub_lt (Nat.two_pow_pos w) Nat.one_pos)
  have value := field (v.toNat % 2 ^ w) (Nat.mod_lt _ (Nat.two_pow_pos w))
  simp only [putField, BitVec.getLsbD_or, BitVec.getLsbD_and, BitVec.getLsbD_not, BitVec.getLsbD_ofNat, mask, value]
  by_cases h : b < n
  · simp [h]
  · simp [h, BitVec.getLsbD_of_ge x b (by omega)]

/-! ## Scales (R233, R378) -/

/-- Scale `j` of a rind register, with its poison. -/
theorem Rind.list_getD (r : Rind) {j : Nat} (h : j < 64) :
    r.list.getD j (0, false) = (r.scales.toNat / 2 ^ (8 * j) % 2 ^ 8, r.pois.getLsbD j) := by
  have lane := natLanes_getElem? 8 64 r.scales.toNat j h
  have flag := natBools_getElem? 64 r.pois.toNat j h
  rw [List.getD_eq_getElem?_getD, Rind.list, (List.getElem?_zip_eq_some (z := (_, _))).2 ⟨lane, flag⟩]
  rfl

/-- A rind register in which one scale is damaged. -/
def Rind.harmed (r : Rind) (i : Nat) (x : Word) : Rind :=
  { r with scales := putField r.scales (8 * (i % 64)) 8 x, pois := r.pois ||| 1 <<< (i % 64) }

theorem Rind.harmed_list {r : Rind} {i : Nat} (x : Word) (h : i < 64) :
    ((r.harmed i x).list.getD i (0, false)).2 = true ∧
      ∀ j, j < 64 → j ≠ i → (r.harmed i x).list.getD j (0, false) = r.list.getD j (0, false) := by
  have place : i % 64 = i := Nat.mod_eq_of_lt h
  have flag (j : Nat) (hj : j < 64) : (r.harmed i x).pois.getLsbD j = (r.pois.getLsbD j || decide (j = i)) := by
    simp only [Rind.harmed, place, BitVec.getLsbD_or, BitVec.natCast_eq_ofNat, BitVec.getLsbD_ofNat, Nat.one_shiftLeft,
      Nat.testBit_two_pow, hj, decide_true, Bool.true_and, eq_comm]
  refine ⟨by rw [Rind.list_getD _ h]; simp [flag i h], fun j hj ne => ?_⟩
  have same : (r.harmed i x).scales.toNat / 2 ^ (8 * j) % 2 ^ 8 = r.scales.toNat / 2 ^ (8 * j) % 2 ^ 8 := by
    refine Nat.eq_of_testBit_eq fun b => ?_
    rw [Nat.testBit_mod_two_pow, Nat.testBit_mod_two_pow, Nat.testBit_div_two_pow, Nat.testBit_div_two_pow]
    by_cases hb : b < 8
    · rw [← BitVec.getLsbD, ← BitVec.getLsbD, Rind.harmed, place]
      exact congrArg _ (putField_getLsbD _ _ (by omega))
    · simp [hb]
  rw [Rind.list_getD _ hj, Rind.list_getD _ hj, same, flag j hj, decide_eq_false ne, Bool.or_false]

/-- An error in a scale of the core in focus. -/
theorem exec_coreErr_scale {s : State} {k i : Nat} (there : k < s.core.rind.length) (small : i < 64) :
    ∃ t, exec (.coreErr (.scale k i)) s = .next t ∧ ((t.core.rind.getD k .load).list.getD i (0, false)).2 = true ∧
      (∀ j, j < 64 → j ≠ i →
        (t.core.rind.getD k .load).list.getD j (0, false) = (s.core.rind.getD k .load).list.getD j (0, false)) ∧
      (t.core.rind.getD k .load).gen = (s.core.rind.getD k .load).gen ∧ t.core.tags = s.core.tags ∧ t.core.lm = s.core.lm := by
  let x := s.takeFree.1
  have harmed : exec (.coreErr (.scale k i)) s =
      happens { s.takeFree.2 with core := { s.core with rind := modifyAt (fun r => r.harmed i x) s.core.rind k } } := rfl
  have register : (modifyAt (fun r => r.harmed i x) s.core.rind k).getD k .load = (s.core.rind.getD k .load).harmed i x := by
    rw [List.getD_eq_getElem?_getD, List.getD_eq_getElem?_getD, modifyAt_getElem?_self, List.getElem?_eq_getElem there]
    rfl
  obtain ⟨poisoned, others⟩ := Rind.harmed_list (r := s.core.rind.getD k .load) x small
  rw [← register] at poisoned others
  have gen := congrArg Rind.gen register
  exact ⟨_, harmed, poisoned, others, gen, rfl, rfl⟩

end Sys2Proof.Machine

open Sys2Proof Sys2Proof.Machine

/-- Settles O50: a start, a resumption, a firing and a redelivery change the core in focus as its queues and actors say; a
context error reaches every context with a copy in the set; and the other errors change one register or line. -/
theorem activationsRun : Obligations.ActivationsRun := by
  unfold Obligations.ActivationsRun
  refine ⟨fun s q rest hi hs can fresh actor first _ prio queued => exec_activationStart hs can fresh actor first prio queued,
    fun s th free waits => exec_activationResume free waits,
    fun s i d k declared kern fires runs => exec_actorFiring declared kern fires runs,
    fun s a rest rolled runs alone => ⟨fun owes => exec_redelivery_owes rolled owes, fun owes room => ?back⟩,
    fun s c v active pos small clean check out vec => exec_trapDelivery active pos small clean check out vec,
    fun s k r x there ctx => exec_coreErr_ripening there ctx, fun s active => ?control,
    fun s i there => exec_coreErr_l1 there, fun s k i there small => exec_coreErr_scale there small⟩
  case back =>
    obtain ⟨t, run, list, press, free, front⟩ := exec_redelivery_queues rolled runs alone owes room
    exact ⟨t, run, list, press, fun _ => free, front⟩
  case control =>
    refine ⟨fun check => ?_, fun work may => ?_, fun work final => ?_⟩ <;>
      refine (exec_coreErr_control active).trans (congrArg happens ?_) <;> unfold State.controlErr <;> dsimp only
    · rw [if_pos check]
    · rw [if_neg (by simp [work]), if_pos may]
    · rw [if_neg (by simp [work]), if_neg (by simp [final])]
end

section
/-! SUPPORT. The device's memory stays in its one canonical form: a function that leaves `mem` alone, or changes it by
`Memory.setBytes` only, keeps it; so does what is composed of such functions. -/

namespace Sys2Proof.Machine

/-! ## Effects and outcomes whose memory is canonical -/

/-- The device's memory is in its one canonical form (log entry 3). -/
def State.Canonical (s : State) : Prop := s.memWf = true

/-- The state in which an effect ends or stops. -/
def endState {α : Type} : EStateM.Result Stop State α → State
  | .ok _ t => t
  | .error _ t => t

/-- An effect that leaves the memory canonical where it was, whether it runs to its end or stops. -/
def Keeps {α : Type} (x : M α) : Prop := ∀ s : State, s.Canonical → (endState (x s)).Canonical

/-- A step that, when it goes on, goes on in a state whose memory is canonical. -/
def Lands (o : Out) : Prop := ∀ t, o = .next t → t.Canonical

/-- Where there is a state, its memory is canonical. -/
def Yields (o : Option State) : Prop := ∀ t, o = some t → t.Canonical

/-- Where there is an outcome, it lands in a canonical memory. -/
def LandsIf (x : Option Out) : Prop := ∀ o, x = some o → Lands o

/-- Each of some steps lands in a canonical memory from one. -/
def LandsAll (l : List (State → Out)) : Prop := ∀ f ∈ l, ∀ s : State, s.Canonical → Lands (f s)

/-- A command answers with a canonical memory, where it answers with a state. -/
def Answers : Answer → Prop
  | .done t | .failed t | .pending t => t.Canonical
  | .refused | .bad => True

namespace State.Canonical

variable {s t : State}

/-- Only the memory counts. -/
theorem sameMem (h : s.Canonical) (e : t.mem = s.mem) : t.Canonical := by
  unfold State.Canonical memWf; rw [e]; exact h

theorem withCore {c : Core} (h : s.Canonical) : State.Canonical { s with core := c } := h.sameMem rfl

theorem withLdsWait {l : List LdsReq} (h : s.Canonical) : State.Canonical { s with ldsWait := l } := h.sameMem rfl

theorem withContexts {l : List Context} (h : s.Canonical) : State.Canonical { s with contexts := l } := h.sameMem rfl

theorem setBytes {a : Nat} {bs : List Byte} (h : s.Canonical) (e : t.mem = s.mem.setBytes a bs) : t.Canonical := by
  unfold State.Canonical memWf; rw [e]; exact Memory.wf_setBytes h a bs

theorem ite {c : Prop} [Decidable c] (h : s.Canonical) (k : t.Canonical) : (if c then s else t).Canonical := by
  split
  · exact h
  · exact k

theorem iteSnd {α : Type} {c : Prop} [Decidable c] {p q : α × State} (h : p.2.Canonical) (k : q.2.Canonical) :
    (if c then p else q).2.Canonical := by
  split
  · exact h
  · exact k

/-- The state that a function answers beside its value. -/
theorem ofEq {α : Type} {p : α × State} {a : α} (h : p.2.Canonical) (e : p = (a, t)) : t.Canonical := by
  rw [e] at h; exact h

theorem foldl {α : Type} {f : State → α → State} {l : List α} (h : s.Canonical)
    (k : ∀ s a, s.Canonical → (f s a).Canonical) : (l.foldl f s).Canonical := by
  induction l generalizing s with
  | nil => exact h
  | cons a l ih => exact ih (k s a h)

theorem foldlSnd {α β : Type} {f : β × State → α → β × State} {l : List α} {p : β × State} (h : p.2.Canonical)
    (k : ∀ p a, p.2.Canonical → (f p a).2.Canonical) : (l.foldl f p).2.Canonical := by
  induction l generalizing p with
  | nil => exact h
  | cons a l ih => exact ih (k p a h)

end State.Canonical

namespace Lands

theorem next {s : State} (h : s.Canonical) : Lands (.next s) := by
  rintro t ⟨⟩; exact h

theorem fault {e : Fault} : Lands (.fault e) := fun _ e => nomatch e

theorem ite {c : Prop} [Decidable c] {x y : Out} (h : Lands x) (k : Lands y) : Lands (if c then x else y) := by
  split
  · exact h
  · exact k

end Lands

namespace Yields

theorem none : Yields none := fun _ e => nomatch e

theorem some {s : State} (h : s.Canonical) : Yields (some s) := by
  rintro t ⟨⟩; exact h

theorem ofSome {x : Option State} {s : State} (h : Yields x) (e : x = Option.some s) : s.Canonical := h s e

theorem orElse {x y : Option State} (h : Yields x) (k : Yields y) : Yields (x <|> y) := by
  cases x with
  | none => exact k
  | some s => exact h

theorem ite {c : Prop} [Decidable c] {x y : Option State} (h : Yields x) (k : Yields y) : Yields (if c then x else y) := by
  split
  · exact h
  · exact k

theorem map {x : Option State} {f : State → State} (h : Yields x) (k : ∀ s, s.Canonical → (f s).Canonical) :
    Yields (x.map f) := by
  cases x with
  | none => exact none
  | some s => exact some (k s (h s rfl))

end Yields

namespace Answers

theorem done {s : State} (h : s.Canonical) : Answers (.done s) := h
theorem failed {s : State} (h : s.Canonical) : Answers (.failed s) := h
theorem pending {s : State} (h : s.Canonical) : Answers (.pending s) := h
theorem refused : Answers .refused := trivial
theorem bad : Answers .bad := trivial

theorem ite {c : Prop} [Decidable c] {x y : Answer} (h : Answers x) (k : Answers y) : Answers (if c then x else y) := by
  split
  · exact h
  · exact k

end Answers

namespace LandsIf

theorem none : LandsIf none := fun _ e => nomatch e

theorem some {o : Out} (h : Lands o) : LandsIf (some o) := by
  rintro t ⟨⟩; exact h

theorem ite {c : Prop} [Decidable c] {x y : Option Out} (h : LandsIf x) (k : LandsIf y) : LandsIf (if c then x else y) := by
  split
  · exact h
  · exact k

theorem orElse {x y : Option Out} (h : LandsIf x) (k : LandsIf y) : LandsIf (x <|> y) := by
  cases x with
  | none => exact k
  | some o => exact h

theorem map {α : Type} {f : α → Out} {x : Option α} (h : ∀ a, Lands (f a)) : LandsIf (x.map f) := by
  cases x with
  | none => exact none
  | some a => exact some (h a)

theorem mapNext {x : Option State} (h : Yields x) : LandsIf (x.map .next) := by
  cases x with
  | none => exact none
  | some s => exact some (.next (h s rfl))

theorem getD {x : Option Out} {o : Out} (h : LandsIf x) (k : Lands o) : Lands (x.getD o) := by
  cases x with
  | none => exact k
  | some p => exact h p rfl

end LandsIf

namespace LandsAll

theorem nil : LandsAll [] := fun _ m => nomatch m

theorem cons {f : State → Out} {l : List (State → Out)} (h : ∀ s, s.Canonical → Lands (f s)) (k : LandsAll l) :
    LandsAll (f :: l)
  | _, .head _ => h
  | g, .tail _ m => k g m

theorem append {l m : List (State → Out)} (h : LandsAll l) (k : LandsAll m) : LandsAll (l ++ m) := fun f hf =>
  (List.mem_append.1 hf).elim (h f) (k f)

theorem map {α : Type} {g : α → State → Out} {l : List α} (h : ∀ a s, s.Canonical → Lands (g a s)) :
    LandsAll (l.map g) := fun f hf => by
  obtain ⟨a, -, rfl⟩ := List.mem_map.1 hf
  exact h a

theorem flatMap {α : Type} {g : α → List (State → Out)} {l : List α} (h : ∀ a, LandsAll (g a)) :
    LandsAll (l.flatMap g) := fun f hf => by
  obtain ⟨a, -, m⟩ := List.mem_flatMap.1 hf
  exact h a f m

end LandsAll

namespace Keeps

theorem ok {α : Type} {x : M α} (h : Keeps x) {s t : State} {a : α} (k : s.Canonical) (e : x s = .ok a t) : t.Canonical := by
  have := h s k; rw [e] at this; exact this

theorem error {α : Type} {x : M α} (h : Keeps x) {s t : State} {a : Stop} (k : s.Canonical) (e : x s = .error a t) :
    t.Canonical := by
  have := h s k; rw [e] at this; exact this

theorem bind {α β : Type} {x : M α} {f : α → M β} (hx : Keeps x) (hf : ∀ a, Keeps (f a)) : Keeps (x >>= f) := by
  intro s h
  rw [bind_run]
  cases e : x s with
  | ok a t => exact hf a t (hx.ok h e)
  | error a t => exact hx.error h e

theorem pure {α : Type} {a : α} : Keeps (pure a : M α) := fun _ h => h
theorem throw {α : Type} {e : Stop} : Keeps (throw e : M α) := fun _ h => h

/-- What the state holds when it is read can be used behind it. -/
theorem get {α : Type} {f : State → M α} (hf : ∀ s, s.Canonical → Keeps (f s)) : Keeps (get >>= f) :=
  fun s h => hf s h s h

theorem set {s : State} (h : s.Canonical) : Keeps (set s : M PUnit) := fun _ _ => h
theorem modify {f : State → State} (hf : ∀ s, s.Canonical → (f s).Canonical) : Keeps (modify f : M PUnit) := hf
theorem getC : Keeps getC := fun _ h => h
theorem modC {f : Core → Core} : Keeps (modC f) := fun _ h => h.sameMem rfl
theorem modT {f : Thread → Thread} : Keeps (modT f) := fun _ h => h.sameMem rfl
theorem modA {f : Act → Act} : Keeps (modA f) := fun _ h => h.sameMem rfl

theorem stateOf {α : Type} {f : State → α × State} (hf : ∀ s, s.Canonical → (f s).2.Canonical) : Keeps (stateOf f) :=
  fun s h => hf s h

theorem ite {α : Type} {c : Prop} [Decidable c] {x y : M α} (h : Keeps x) (k : Keeps y) : Keeps (if c then x else y) := by
  split
  · exact h
  · exact k

/-- Several ways that go on alike. -/
theorem join {α β γ : Type} {f : α → M β} {x : M γ} (h : (∀ a, Keeps (f a)) → Keeps x) (hf : ∀ a, Keeps (f a)) : Keeps x :=
  h hf

theorem forIn {α β : Type} {f : α → β → M (ForInStep β)} (hf : ∀ a b, Keeps (f a b)) :
    ∀ {l : List α} {b : β}, Keeps (forIn l b f)
  | [], _ => pure
  | a :: l, b => by
    rw [List.forIn_cons]
    refine bind (hf a b) fun r => ?_
    cases r with
    | done b => exact pure
    | yield b => exact forIn hf

theorem mapM {α β : Type} {f : α → M β} (hf : ∀ a, Keeps (f a)) : ∀ {l : List α}, Keeps (l.mapM f)
  | [] => pure
  | a :: l => by
    rw [List.mapM_cons]
    exact bind (hf a) fun _ => bind (mapM hf) fun _ => pure

theorem fault {α : Type} {c v : Nat} : Keeps (fault c v : M α) := throw
theorem poisonFault {α : Type} {v : Nat} : Keeps (poisonFault v : M α) := throw
theorem stall {α : Type} : Keeps (stall : M α) := throw
theorem waitUntil {b : Bool} : Keeps (waitUntil b) := ite pure stall
theorem faultIf {b : Bool} {c v : Nat} : Keeps (faultIf b c v) := ite fault pure

/-- An effect that ends where another does. -/
theorem ofEndState {α β : Type} {x : M α} {y : M β} (hx : Keeps x) (e : ∀ s, endState (y s) = endState (x s)) : Keeps y :=
  fun s h => (e s).symm ▸ hx s h

theorem standing {α : Type} {x : M α} (hx : Keeps x) : Keeps (standing x) := hx.ofEndState fun s => by
  unfold Machine.standing
  split
  · next e => rw [e]; rfl
  · rfl

end Keeps

/-! ## What each function of the model keeps

One lemma for each function that answers with a state, in the order of the model's files. -/

section

variable {s : State}

/-! ### The state -/

theorem State.Canonical.reset : State.reset.Canonical := Memory.wf_nil

/-! ### Cores and partitions -/

theorem State.Canonical.modPart {p f} (h : s.Canonical) : (s.modPart p f).Canonical := h.sameMem rfl

theorem State.Canonical.putCore {c} (h : s.Canonical) : (s.putCore c).Canonical := .ite h.withCore (h.sameMem rfl)

theorem State.Canonical.modCore {id f} (h : s.Canonical) : (s.modCore id f).Canonical := h.putCore

theorem State.Canonical.refocus {id} (h : s.Canonical) : (s.refocus id).Canonical := .ite h (h.sameMem rfl)

theorem State.Canonical.onCore {id f} (h : s.Canonical) (hf : ∀ s, s.Canonical → (f s).Canonical) :
    (s.onCore id f).Canonical := (hf _ h.refocus).refocus

theorem State.Canonical.modCtx {id f} (h : s.Canonical) : (s.modCtx id f).Canonical := h.sameMem rfl

theorem State.Canonical.takeFree (h : s.Canonical) : s.takeFree.2.Canonical := h.sameMem rfl

theorem State.Canonical.takeUid (h : s.Canonical) : s.takeUid.2.Canonical := h.sameMem rfl

/-! ### Records and lines of slices -/

theorem State.Canonical.putBytes {key bytes pois} (h : s.Canonical) : (s.putBytes key bytes pois).Canonical :=
  h.setBytes rfl

theorem State.Canonical.serve {core uid v} (h : s.Canonical) : (s.serve core uid v).Canonical := h.modCore

theorem State.Canonical.answer {core act uid slice v} (h : s.Canonical) : (s.answer core act uid slice v).Canonical :=
  h.serve.sameMem rfl

theorem State.Canonical.recordMgmt {r} (h : s.Canonical) : (s.recordMgmt r).Canonical := by
  dsimp only [State.recordMgmt, State.Canonical, State.memWf]
  exact h.putBytes

theorem State.Canonical.countCorrected {p} (h : s.Canonical) : (s.countCorrected p).Canonical := by
  unfold State.countCorrected
  dsimp only
  split
  · exact h.modPart
  · exact h.modPart.modCtx

theorem State.Canonical.countShared (h : s.Canonical) : s.countShared.Canonical := h.sameMem rfl

theorem State.Canonical.countPort {owner} (h : s.Canonical) : (s.countPort owner).Canonical := by
  unfold State.countPort
  split
  · exact h.countShared
  · exact h.countCorrected

theorem State.Canonical.disarm {unit t} (h : s.Canonical) : (s.disarm unit t).2.Canonical := by
  unfold State.disarm
  split
  · exact h
  · exact h.sameMem rfl

theorem State.Canonical.damage {u} (h : s.Canonical) : (s.damage u).Canonical := h.takeFree.takeFree.setBytes rfl

theorem State.Canonical.leaveGranule {x p acc u} (h : acc.2.Canonical) :
    (State.leaveGranule x p acc u).2.Canonical := by
  unfold State.leaveGranule
  split
  split
  · next e => exact h.disarm.ofEq e
  · next e => exact .ite (h.disarm.ofEq e).countCorrected (h.disarm.ofEq e)
  · next e => exact .iteSnd (h.disarm.ofEq e).damage (h.disarm.ofEq e)
  · next e => exact .ite ((h.disarm.ofEq e).sameMem rfl) (h.disarm.ofEq e)

theorem State.Canonical.evict {x} (h : s.Canonical) : (s.evict x).Canonical := by
  have left : ∀ {l : List Nat} {acc : Bool × State}, acc.2.Canonical → (l.foldl (State.leaveGranule x (keyPart (128 * x.line))) acc).2.Canonical :=
    fun k => k.foldlSnd fun _ _ k => k.leaveGranule
  exact .ite (.iteSnd (h.sameMem rfl) (left (h.sameMem rfl)))
    (.recordMgmt (.takeFree (.iteSnd (h.sameMem rfl) (left (h.sameMem rfl)))))

theorem State.Canonical.makeRoom {line tag way} (h : s.Canonical) : (s.makeRoom line tag way).Canonical :=
  .ite h <| .ite (by dsimp only; split; exacts [h, h.evict]) h

theorem State.Canonical.putLine {use x} (h : s.Canonical) : (s.putLine use x).Canonical :=
  .ite (h.sameMem rfl) (h.sameMem rfl)

theorem State.Canonical.addLine {use x} (h : s.Canonical) : (s.addLine use x).Canonical :=
  .ite (h.makeRoom.sameMem rfl) <| .ite (h.makeRoom.sameMem rfl) (h.makeRoom.sameMem rfl)

theorem State.Canonical.hitLine {use x zeros covered} (h : s.Canonical) : (s.hitLine use x zeros covered).Canonical :=
  .putLine <| .ite h.makeRoom h

theorem State.Canonical.hitLines {key bytes pois} (h : s.Canonical) : (s.hitLines key bytes pois).Canonical :=
  h.foldl fun _ _ h2 => by split; exacts [h2, h2.hitLine]

theorem State.Canonical.directWrite {key bytes} (h : s.Canonical) : (s.directWrite key bytes).Canonical :=
  h.hitLines.putBytes

theorem State.Canonical.recordInto {c r valid} (h : s.Canonical) : (s.recordInto c r valid).Canonical :=
  h.directWrite.modCtx

theorem State.Canonical.recordFound {id r} (h : s.Canonical) : (s.recordFound id r).Canonical := by
  unfold State.recordFound
  split
  · exact h
  · exact h.recordInto

theorem State.Canonical.recordFoundIn {p r} (h : s.Canonical) : (s.recordFoundIn p r).Canonical := by
  unfold State.recordFoundIn
  split
  · exact h.recordMgmt
  · exact h.recordFound

theorem State.Canonical.poisonLocal {core u} (h : s.Canonical) : (s.poisonLocal core u).Canonical := h.modCore

theorem State.Canonical.meetDword {core u} (h : s.Canonical) : (s.meetDword core u).Canonical := by
  unfold State.meetDword
  split
  · next e2 => exact h.disarm.ofEq e2
  · next e3 => exact (h.disarm.ofEq e3).countCorrected
  · next e4 => exact (h.disarm.ofEq e4).takeFree.takeFree.modCore.poisonLocal.recordFoundIn
  · next e5 => exact (h.disarm.ofEq e5).poisonLocal

theorem State.Canonical.meetLocal {core la n} (h : s.Canonical) : (s.meetLocal core la n).Canonical :=
  .ite h (h.foldl fun _ _ h2 => h2.meetDword)

theorem State.Canonical.meetUnit {core off} (h : s.Canonical) : (s.meetUnit core off).Canonical := by
  unfold State.meetUnit
  dsimp only
  split
  · next e2 => exact h.disarm.ofEq e2
  · next e3 => exact (h.disarm.ofEq e3).countCorrected
  · next e4 => exact (h.disarm.ofEq e4).takeFree.takeFree.modCore.recordFoundIn
  · next e5 => exact (h.disarm.ofEq e5).modCore

theorem State.Canonical.meetTile {core row} (h : s.Canonical) : (s.meetTile core row).Canonical :=
  .ite h (h.foldl fun _ _ h2 => h2.meetUnit)

theorem State.Canonical.meetCore {core} (h : s.Canonical) : (s.meetCore core).Canonical :=
  h.foldl fun _ _ h2 => by split; exacts [.ite h2 <| .ite h2.meetUnit h2.meetDword, h2]

theorem State.Canonical.meetMemory {p u} (h : s.Canonical) : (s.meetMemory p u).Canonical := by
  unfold State.meetMemory
  dsimp only
  split
  · next e2 => exact h.disarm.ofEq e2
  · next e3 => exact (h.disarm.ofEq e3).countCorrected
  · next e4 => exact (h.disarm.ofEq e4).takeFree.damage.recordFoundIn
  · next e5 => exact (h.disarm.ofEq e5).sameMem rfl
  · next e6 => exact (h.disarm.ofEq e6).damage

theorem State.Canonical.meetSlice {p u} (h : s.Canonical) : (s.meetSlice p u).2.Canonical := by
  unfold State.meetSlice
  dsimp only
  split
  · next e => exact h.disarm.ofEq e
  · next e => exact (h.disarm.ofEq e).countCorrected
  · next e =>
    have k := h.disarm.ofEq e
    split
    · exact .iteSnd k.takeFree.recordFoundIn.damage.putLine k.takeFree.recordFoundIn.takeFree.takeFree
    · exact k.takeFree.recordFoundIn
  · next e => exact (h.disarm.ofEq e).sameMem rfl

theorem State.Canonical.fillLine {use l} (h : s.Canonical) : (s.fillLine use l).Canonical :=
  .addLine <| .ite h (h.foldl fun _ _ h2 => h2.meetMemory)

theorem State.Canonical.readLine {use l} (h : s.Canonical) : (s.readLine use l).Canonical := by
  unfold State.readLine
  split
  · exact h.putLine
  · split
    · exact h.fillLine
    · exact h.fillLine
    · exact h.fillLine
    · exact h
    · exact h
    · exact h

theorem State.Canonical.readLines {use key n} (h : s.Canonical) : (s.readLines use key n).Canonical :=
  .ite (h.foldl fun _ _ h2 => h2.readLine) h

theorem State.Canonical.writeLine {use l zeros covered} (h : s.Canonical) :
    (s.writeLine use l zeros covered).Canonical := by
  unfold State.writeLine
  split
  · exact h.hitLine
  · split
    · exact h
    · exact h
    · exact h
    · exact h.addLine
    · exact .ite h.addLine (by dsimp only; split; exacts [h.fillLine.hitLine, h.fillLine])
    · exact .ite h.addLine (by dsimp only; split; exacts [h.fillLine.hitLine, h.fillLine])

theorem State.Canonical.writeLines {use key bytes pois} (h : s.Canonical) :
    (s.writeLines use key bytes pois).Canonical :=
  .ite (h.foldl fun _ _ h2 => h2.writeLine) h

theorem State.Canonical.meetGranule {p u} (h : s.Canonical) : (s.meetGranule p u).2.Canonical :=
  .iteSnd h.meetSlice <| .iteSnd h h.meetMemory

theorem State.Canonical.dropServed {ov} (h : s.Canonical) : (s.dropServed ov).Canonical := h.sameMem rfl

theorem State.Canonical.meetPhys {use p key n} (h : s.Canonical) : (s.meetPhys use p key n).2.Canonical :=
  .iteSnd h.readLines <| .dropServed (h.readLines.foldlSnd fun _ _ h2 => h2.meetGranule)

theorem State.Canonical.readPhys {p key n} (h : s.Canonical) : (s.readPhys p key n).2.Canonical := h.meetPhys

theorem State.Canonical.readValid {p key} (h : s.Canonical) : (s.readValid p key).2.Canonical := .iteSnd h h.meetPhys

theorem State.Canonical.recordAfter {id r n} {s : State} (h : s.Canonical) :
    (State.recordAfter id r n s).Canonical := by
  induction n generalizing s with
  | zero => exact h.recordFound
  | succ n ih =>
    unfold State.recordAfter
    split
    · exact h
    · split
      next e =>
      have k := h.readValid.ofEq e
      split
      · exact k
      · exact .ite k.recordInto (ih k)

theorem State.Canonical.recordCtx {id r} (h : s.Canonical) : (s.recordCtx id r).Canonical := h.recordAfter

theorem State.Canonical.putFull {t full} (h : s.Canonical) : (s.putFull t full).Canonical := by
  unfold State.putFull
  split
  · exact h.modCore
  · exact h.sameMem rfl

theorem State.Canonical.ldsValue {q} (h : s.Canonical) : (s.ldsValue q).2.Canonical := by
  unfold State.ldsValue
  dsimp only
  split
  · exact h.meetLocal
  · exact h.meetPhys

theorem State.Canonical.serveWaiters {t qs} {s : State} (h : s.Canonical) : (State.serveWaiters t qs s).Canonical := by
  induction qs generalizing s with
  | nil => exact h
  | cons q qs ih =>
    unfold State.serveWaiters
    split
    · split
      next e =>
      have k := h.ldsValue.ofEq e
      exact ih (.ite (.putFull (.withLdsWait k.answer)) (.withLdsWait k.answer))
    · exact ih h

theorem State.Canonical.fill {t} (h : s.Canonical) : (s.fill t).Canonical := h.putFull.serveWaiters

theorem State.Canonical.writeLocal {core la bytes pois} (h : s.Canonical) :
    (s.writeLocal core la bytes pois).Canonical :=
  h.modCore

theorem State.Canonical.fillDword {core la v} (h : s.Canonical) : (s.fillDword core la v).Canonical := h.writeLocal.fill

theorem State.Canonical.trace {kind detail entry tag actid addr} (h : s.Canonical) :
    (s.trace kind detail entry tag actid addr).Canonical :=
  h.withCore

theorem State.Canonical.drainTrace (h : s.Canonical) : s.drainTrace.Canonical := by
  unfold State.drainTrace
  split
  · exact h
  · dsimp only
    split
    · exact h.withCore
    · exact .ite h.withCore h.withCore.withCore.directWrite.modCtx

/-! ### Steps, stops and held outputs -/

theorem State.Canonical.fenced (h : s.Canonical) : s.fenced.Canonical := h.withCore

theorem State.Canonical.commitList {hs} {s : State} (h : s.Canonical) : (Machine.commitList hs s).2.Canonical := by
  obtain ⟨b, l, o, p, e⟩ := commitList_eq hs s
  rw [e]
  exact h.sameMem rfl

theorem State.Canonical.commitSome (h : s.Canonical) : s.commitSome.Canonical := h.commitList.withCore

theorem State.Canonical.dropCheck {uid} (h : s.Canonical) : (s.dropCheck uid).Canonical := h.sameMem rfl

theorem State.Canonical.uncheck (h : s.Canonical) : s.uncheck.Canonical :=
  .ite h <| .withCore (by split; exacts [h, h.dropCheck])

theorem Keeps.uncheck : Keeps Machine.uncheck := .modify fun _ h2 => h2.uncheck

theorem Keeps.commitHeld {act} : Keeps (Machine.commitHeld act) := .get fun _ h2 => .ite (.set h2.commitSome) .throw

theorem Keeps.irrevocable : Keeps Machine.irrevocable :=
  .bind .getC fun _ => .ite .fault <| .ite (.bind .commitHeld fun _ => .bind .uncheck fun _ => .modA) .pure

theorem State.Canonical.actDone (h : s.Canonical) : s.actDone.Canonical := h.commitSome.uncheck.withCore

theorem State.Canonical.afterWait {after} (h : s.Canonical) : (s.afterWait after).Canonical := .ite h.actDone h

theorem State.Canonical.commitPart {act} (h : s.Canonical) : (s.commitPart act).Canonical :=
  .ite h.commitSome.uncheck h.commitSome

theorem Keeps.drainHeld : Keeps Machine.drainHeld := .bind .getC fun _ => .ite .irrevocable .pure

theorem Keeps.digest {x a} : Keeps (Machine.digest x a) := .modA

theorem Keeps.needs {p} : Keeps (Machine.needs p) := .bind .getC fun _ => .ite .stall .pure

theorem Keeps.needsShared {p} : Keeps (Machine.needsShared p) := .bind .getC fun _ => .waitUntil

theorem Keeps.cancels {p} : Keeps (Machine.cancels p) := .modC

theorem Keeps.readBytes {la n} : Keeps (Machine.readBytes la n) :=
  .bind .getC fun _ =>
  .join (fun k2 => .ite (.bind (.modify fun _ h3 => h3.meetLocal) k2) (k2 ())) fun _ => .bind .getC fun _ => .pure

theorem Keeps.inOrder : Keeps Machine.inOrder := .get fun _ _ => .waitUntil

/-! ### Batches -/

theorem State.Canonical.sealAtEnd (h : s.Canonical) : s.sealAtEnd.Canonical := h.withCore

/-! ### Register operands -/

theorem Keeps.readW {i} : Keeps (Machine.readW i) :=
  .bind .needs fun _ =>
  .bind .getC fun _ =>
  .bind .getC fun _ =>
  .join (fun k2 => .ite (.bind (.modify fun _ h3 => h3.meetLocal) k2) (k2 ())) fun _ => .bind .getC fun _ => .pure

theorem Keeps.writeW {i v} : Keeps (Machine.writeW i v) := .bind .cancels fun _ => .modC

theorem Keeps.chanCheck {d spec} : Keeps (Machine.chanCheck d spec) := .get fun _ _ => .faultIf

theorem Keeps.takeChan {d n} : Keeps (Machine.takeChan d n) :=
  .bind .getC fun _ =>
  .bind .waitUntil fun _ =>
  .bind .irrevocable fun _ => .bind .modC fun _ => .bind (.modify fun _ h2 => h2.sameMem rfl) fun _ => .pure

theorem Keeps.sendChan {d vs} : Keeps (Machine.sendChan d vs) :=
  .bind .getC fun _ =>
  .bind .waitUntil fun _ => .bind .irrevocable fun _ => .bind .modC fun _ => .modify fun _ h2 => h2.sameMem rfl

theorem Keeps.readInq : Keeps Machine.readInq :=
  .bind .getC fun _ => by dsimp only; split; exacts [.bind .modA fun _ => .pure, .bind .modA fun _ => .pure]

theorem Keeps.readR {a} : Keeps (Machine.readR a) := by
  unfold Machine.readR
  split
  · exact .readW
  · exact .bind .chanCheck fun _ => .bind .takeChan fun _ => by split; exacts [.pure, .stall]
  · exact .pure
  · exact .readInq
  · exact .fault

theorem Keeps.writeR {r v} : Keeps (Machine.writeR r v) := by
  unfold Machine.writeR
  split
  · exact .writeW
  · exact .bind .chanCheck fun _ => .bind .needs fun _ => .bind .sendChan fun _ => .cancels
  · exact .pure
  · exact .fault
  · exact .fault

theorem Keeps.readClean {r} : Keeps (Machine.readClean r) :=
  .bind .readR fun _ => .join (fun k2 => .ite (.bind .poisonFault k2) (k2 ())) fun _ => .pure

theorem Keeps.consuming {α : Type} {x : M α} (hx : Keeps x) : Keeps (Machine.consuming x) := by
  intro s h
  have k := hx s h
  unfold Machine.consuming
  split
  · next e => rw [e] at k; exact .ite (k.sameMem rfl) k
  · exact k

theorem Keeps.readRun {r n k} : Keeps (Machine.readRun r n k) := by
  induction n generalizing k with
  | zero => exact .pure
  | succ n ih => exact .bind .readR fun _ => .bind ih fun _ => .pure

theorem Keeps.writeRun {r vs k} : Keeps (Machine.writeRun r vs k) := by
  induction vs generalizing k with
  | nil => exact .pure
  | cons v vs ih => exact .bind .writeR fun _ => ih

theorem Keeps.rowFree {r} : Keeps (Machine.rowFree r) := .bind .getC fun _ => .waitUntil

theorem Keeps.modeSettled : Keeps Machine.modeSettled := .bind .getC fun _ => .waitUntil

theorem Keeps.readRow {v} : Keeps (Machine.readRow v) :=
  .bind .needs fun _ =>
  .bind .rowFree fun _ => .bind (.modify fun _ h2 => h2.meetTile) fun _ => .bind .getC fun _ => .pure

theorem Keeps.writeRow {v r} : Keeps (Machine.writeRow v r) := .bind .rowFree fun _ => .bind .cancels fun _ => .modC

theorem Keeps.streamCheck {p dest} : Keeps (Machine.streamCheck p dest) :=
  .bind .readW fun _ =>
  .join (fun k2 => .ite (.bind .poisonFault k2) (k2 ())) fun _ =>
  .bind .faultIf fun _ => .bind .getC fun _ => .bind .faultIf fun _ => .bind .faultIf fun _ => .pure

theorem Keeps.laneCheck {a dest} : Keeps (Machine.laneCheck a dest) := by
  unfold Machine.laneCheck
  split
  · exact .bind .streamCheck fun _ => .pure
  · exact .bind .streamCheck fun _ => .pure
  · exact .chanCheck
  · exact .chanCheck
  · exact .pure
  · exact .pure
  · exact .pure
  · exact .pure

theorem Keeps.localRead {la n} : Keeps (Machine.localRead la n) := .bind .getC fun _ => .ite .uncheck .pure

theorem Keeps.readL {a} : Keeps (Machine.readL a) := by
  unfold Machine.readL
  split
  · exact .readRow
  · exact .bind .readW fun _ =>
      .bind .getC fun _ =>
      .bind (.forIn fun _ _ => .bind .needs fun _ => .pure) fun _ =>
      .bind .localRead fun _ => .bind .readBytes fun _ => .pure
  · exact .bind .readW fun _ =>
      .bind .getC fun _ =>
      .bind (.forIn fun _ _ => .bind .needs fun _ => .pure) fun _ =>
      .bind .localRead fun _ => .bind .readBytes fun _ => .pure
  · exact .bind .readW fun _ => .bind .getC fun _ => .pure
  · exact .pure
  · exact .bind .takeChan fun _ => .pure
  · exact .pure
  · exact .pure

theorem Keeps.bumpPointers : ∀ {ps}, Keeps (Machine.bumpPointers ps)
  | [] => .pure
  | p :: ps => by
    have rest : Keeps (Machine.bumpPointers ps) := .bumpPointers
    unfold Machine.bumpPointers
    exact .ite rest (.bind .readW fun _ => .bind .writeW fun _ => rest)

/-! ### Queues of the context -/

theorem State.Canonical.putQueue {q f} (h : s.Canonical) : (s.putQueue q f).Canonical :=
  .ite (.ite (h.sameMem rfl) <| .directWrite (h.sameMem rfl)) <|
  .directWrite <| .ite (h.sameMem rfl) <| .directWrite (h.sameMem rfl)

theorem State.Canonical.modQueue {ctx num f} (h : s.Canonical) : (s.modQueue ctx num f).Canonical := by
  unfold State.modQueue
  split
  · exact h
  · exact h.putQueue

theorem State.Canonical.noticeSlots (h : s.Canonical) : s.noticeSlots.Canonical := h.foldl fun _ _ h2 => h2.putQueue

theorem State.Canonical.queueError {ctx num reason} (h : s.Canonical) : (s.queueError ctx num reason).Canonical :=
  h.modQueue

theorem State.Canonical.queueRecord {ctx num reason key status} (h : s.Canonical) :
    (s.queueRecord ctx num reason key status).Canonical :=
  h.recordCtx

theorem State.Canonical.packetDone {ctx num index} (h : s.Canonical) : (s.packetDone ctx num index).Canonical :=
  h.modQueue

/-! ### Starts and ends of activations -/

theorem State.Canonical.traceAct {kind detail a addr} (h : s.Canonical) : (s.traceAct kind detail a addr).Canonical :=
  .ite h h.trace

theorem State.Canonical.modActor {core i f} (h : s.Canonical) : (s.modActor core i f).Canonical := h.modCore

theorem State.Canonical.reserve {d} (h : s.Canonical) : (s.reserve d).Canonical := by
  unfold State.reserve
  split
  · exact h
  · exact h.modActor

theorem State.Canonical.unreserve {a} (h : s.Canonical) : (s.unreserve a).Canonical := by
  unfold State.unreserve
  split
  · exact h
  · split
    · exact h
    · exact h.modActor

theorem State.Canonical.eatTokens {core a sampled} (h : s.Canonical) : (s.eatTokens core a sampled).Canonical := by
  unfold State.eatTokens
  split
  · exact h
  · split
    · exact h
    · exact h.modActor

theorem State.Canonical.consume {a} (h : s.Canonical) : (s.consume a).Canonical :=
  .ite h.eatTokens (by split; exacts [h, by split; exacts [h, h.modActor]])

theorem State.Canonical.setBusy {a b} (h : s.Canonical) : (s.setBusy a b).Canonical := by
  unfold State.setBusy
  split
  · exact h
  · exact h.modActor

theorem State.Canonical.putGrant {th r x} (h : s.Canonical) : (s.putGrant th r x).2.Canonical := by
  unfold State.putGrant
  split
  · exact h.withCore
  · exact h.takeUid
  · exact h
  · exact h
  · exact h

theorem State.Canonical.grantParked {ps} {s : State} (h : s.Canonical) : (State.grantParked ps s).Canonical := by
  induction ps generalizing s with
  | nil => exact h
  | cons p ps ih => exact .ite h (ih (h.putGrant.sameMem rfl))

theorem State.Canonical.testParked (h : s.Canonical) : s.testParked.Canonical := h.grantParked

theorem State.Canonical.giveBack {gs} (h : s.Canonical) : (s.giveBack gs).Canonical := h.withCore

theorem State.Canonical.freeContext (h : s.Canonical) : s.freeContext.Canonical := h.withCore

theorem State.Canonical.emitFrom {core act hs} {s : State} (h : s.Canonical) :
    (State.emitFrom core act hs s).2.Canonical := by
  induction hs generalizing s with
  | nil => exact h
  | cons x hs ih => exact .iteSnd h.modCore (ih (h.modCore.putCore.sameMem rfl))

theorem State.Canonical.drainSample {k outs} (h : s.Canonical) : (s.drainSample k outs).Canonical :=
  .ite h.emitFrom.dropCheck (h.emitFrom.sameMem rfl)

theorem State.Canonical.settle {k outs} (h : s.Canonical) : (s.settle k outs).Canonical :=
  .ite h.dropCheck <| .ite h <| .drainSample <| .ite h.eatTokens h

theorem State.Canonical.withdraw {uid} (h : s.Canonical) : (s.withdraw uid).Canonical := by
  unfold State.withdraw
  split
  · exact h
  · exact h.settle

theorem State.Canonical.leaveCheck {k} (h : s.Canonical) : (s.leaveCheck k).Canonical := h.freeContext.withCore

theorem State.Canonical.tieRoom {uid} (h : s.Canonical) : (s.tieRoom uid).Canonical := by
  unfold State.tieRoom
  split
  · exact h
  · split
    · exact h
    · exact .ite h.withdraw h

theorem State.Canonical.endCheck {a withdrawn} (h : s.Canonical) : (s.endCheck a withdrawn).Canonical := by
  unfold State.endCheck
  split
  · exact h.freeContext
  · next k _ =>
    have left := State.Canonical.leaveCheck (k := k) (s := { s with reqs := s.reqs.filter (fun r => r.act != a.uid) }) h
    exact .ite left.withdraw (.tieRoom (left.sameMem rfl))

theorem State.Canonical.finishAct {abort} (h : s.Canonical) : (s.finishAct abort).Canonical :=
  .ite h.endCheck <|
  .testParked <|
  .freeContext <|
  .withCore <|
  .sealAtEnd <| .giveBack <| .setBusy <| .unreserve <| .consume <| .ite (h.traceAct.sameMem rfl) h.traceAct

theorem State.Canonical.endSampled (h : s.Canonical) : s.endSampled.Canonical := by
  unfold State.endSampled
  dsimp only
  split
  · exact h
  · exact .ite (h.sameMem rfl) (h.sameMem rfl)

theorem State.Canonical.rollback {a} (h : s.Canonical) : (s.rollback a).Canonical :=
  .freeContext <| .withCore <| .foldl (by split; exacts [h, h.dropCheck]) fun _ _ h4 => h4.fill

theorem State.Canonical.returnRolled {a} (h : s.Canonical) : (s.returnRolled a).2.Canonical :=
  h.giveBack.unreserve.withCore.testParked

theorem State.Canonical.clearCore {id} (h : s.Canonical) : (s.clearCore id).Canonical := h.putCore.sameMem rfl

theorem State.Canonical.failObjects {id} (h : s.Canonical) : (s.failObjects id).Canonical :=
  .sameMem (h.foldl fun _ _ h2 => h2.queueError) rfl

theorem State.Canonical.ctxError {id r} (h : s.Canonical) : (s.ctxError id r).Canonical := by
  unfold State.ctxError
  split
  · exact h
  · exact .ite h <| .failObjects (h.recordCtx.modCtx.foldl fun _ _ h4 => h4.clearCore)

/-! ### Pending writes, loops and the run of a form -/

theorem State.Canonical.applyValue {d v} (h : s.Canonical) : (s.applyValue d v).Canonical := by
  unfold State.applyValue
  split
  · exact h.withCore
  · exact h.sameMem rfl
  · exact h.withCore
  · exact h.withCore
  · exact h
  · exact h
  · exact h

theorem State.Canonical.applyList {kept sls} {s : State} (h : s.Canonical) :
    (Machine.applyList kept sls s).2.Canonical := by
  induction sls generalizing kept s with
  | nil => exact h
  | cons sl sls ih =>
    unfold Machine.applyList
    exact .iteSnd (ih h) (.iteSnd (by split; exacts [ih h.applyValue, ih h]) (ih h))

theorem State.Canonical.putSlots {l} (h : s.Canonical) : (s.putSlots l).Canonical := h.withCore

theorem State.Canonical.applyHeld (h : s.Canonical) : s.applyHeld.Canonical := h.applyList.putSlots

theorem State.Canonical.moveWindows (h : s.Canonical) : s.moveWindows.Canonical := h.putSlots.withCore

theorem State.Canonical.openSlot {sl} (h : s.Canonical) : (s.openSlot sl).Canonical := h.putSlots.withCore

theorem Yields.closeWindows (h : s.Canonical) : Yields s.closeWindows := .ite (.some h.putSlots.applyHeld) .none

theorem Keeps.endWindows : Keeps Machine.endWindows :=
  .get fun _ h2 =>
  by
    split
    · next e3 => exact .set ((Yields.closeWindows h2).ofSome e3)
    · exact .stall

theorem State.Canonical.tick {own} (h : s.Canonical) : (s.tick own).Canonical := by
  unfold State.tick
  dsimp only
  split
  · exact h.moveWindows.applyHeld
  · exact h.moveWindows.applyHeld.openSlot.applyHeld

theorem State.Canonical.onThread {t f} (h : s.Canonical) (hf : ∀ s, s.Canonical → (f s).Canonical) :
    (s.onThread t f).2.Canonical :=
  (hf { s with core := { s.core with cur := t } } (h.sameMem rfl)).sameMem rfl

theorem State.Canonical.applyBehind {th fr} (h : s.Canonical) : (s.applyBehind th fr).2.2.Canonical :=
  h.onThread fun _ h => h.applyHeld

theorem State.Canonical.applyParked {ps} {s : State} (h : s.Canonical) : (Machine.applyParked ps s).2.Canonical := by
  induction ps generalizing s with
  | nil => exact h
  | cons p ps ih =>
    unfold Machine.applyParked
    split
    · exact ih h
    · exact ih h.applyBehind

theorem State.Canonical.applyQueued {es} {s : State} (h : s.Canonical) : (Machine.applyQueued es s).2.Canonical := by
  induction es generalizing s with
  | nil => exact h
  | cons e es ih =>
    unfold Machine.applyQueued
    split
    · exact ih h.applyBehind
    · exact ih h
    · exact ih h

theorem State.Canonical.applyAll (h : s.Canonical) : s.applyAll.Canonical := by
  unfold State.applyAll
  extract_lets s0
  split
  next e =>
  have parked := h.applyHeld.applyParked.ofEq e
  split
  next e =>
  have queued := parked.applyQueued.ofEq e
  extract_lets c1 s1 s2
  have k2 : s2.Canonical := by
    dsimp only [s2]
    split
    · exact queued.sameMem rfl
    · exact State.Canonical.withCore (.onThread (queued.sameMem rfl) fun _ k => k.applyHeld)
  split
  · exact k2
  · exact State.Canonical.withCore k2.applyBehind

theorem State.Canonical.arriveSlot {uid} (h : s.Canonical) : (s.arriveSlot uid).Canonical := h.withCore.applyAll

theorem Keeps.takeSlot {l} : Keeps (Machine.takeSlot l) :=
  .ite .pure <|
  .bind .getC fun _ =>
  .ite .pure <| .bind .waitUntil fun _ => .bind (.modify fun _ h2 => h2.putSlots.applyHeld) fun _ => .throw

theorem Keeps.newSlot {d l v} : Keeps (Machine.newSlot d l v) := .bind (.stateOf fun _ h2 => h2.takeUid) fun _ => .pure

theorem State.Canonical.jumpTo {t} (h : s.Canonical) : (s.jumpTo t).Canonical := h.withCore

theorem State.Canonical.advance {len} (h : s.Canonical) : (s.advance len).Canonical := h.withCore

theorem State.Canonical.startHandler {t epc} (h : s.Canonical) : (s.startHandler t epc).Canonical := h.withCore

theorem State.Canonical.takeTrap {t pc major} (h : s.Canonical) : (s.takeTrap t pc major).Canonical :=
  .ite h.endCheck <|
  .ite h.recordCtx.rollback <| .ite h.ctxError <| .startHandler <| .ite h.traceAct.recordCtx h.traceAct

theorem State.Canonical.returnFrom {fr} (h : s.Canonical) : (s.returnFrom fr).Canonical := h.withCore

theorem State.Canonical.endTest {e rest i} (h : s.Canonical) : (s.endTest e rest i).Canonical :=
  .ite h <|
  .ite h.meetLocal.withCore.takeTrap <|
  .ite
    h.meetLocal.withCore.withCore
    (by
        split
        · exact h
        · next e3 => exact ((Yields.closeWindows h.meetLocal.withCore).ofSome e3).withCore)

theorem State.Canonical.endTests {n} {s : State} (h : s.Canonical) : (State.endTests n s).Canonical := by
  induction n generalizing s with
  | zero => exact h
  | succ n ih =>
    unfold State.endTests
    split
    · exact h
    · refine .ite ?_ (.ite h (ih (h.sameMem rfl)))
      split
      · exact .ite (ih h.endTest) h.endTest
      · exact h
      · exact h
      · exact h
      · exact h

theorem Keeps.regRange {regs} : Keeps (Machine.regRange regs) := .bind .getC fun _ => by split; exacts [.fault, .pure]

theorem Keeps.bodyFree {regs} : Keeps (Machine.bodyFree regs) :=
  .bind .getC fun _ => by split; exacts [.waitUntil, .pure]

theorem Keeps.issue {f} : Keeps (Machine.issue f) :=
  .bind .getC fun _ =>
  .bind .waitUntil fun _ =>
  .bind .faultIf fun _ => .bind .faultIf fun _ => .bind .regRange fun _ => by split; exacts [.waitUntil, .pure]

theorem State.Canonical.complete {f fl} (h : s.Canonical) : (s.complete f fl).Canonical := by
  unfold State.complete
  dsimp only
  split
  · exact h.withCore.tick.advance.endTests
  · exact h.withCore.withCore.endTests
  · exact h.withCore.jumpTo
  · exact h.withCore.tick.advance.takeTrap
  · exact h.withCore

theorem State.Canonical.keepFound {after} (h : s.Canonical) : (s.keepFound after).Canonical :=
  h.foldl fun _ _ h2 =>
    .ite h2 (by split; exacts [.ite h2.meetUnit h2.meetDword, .ite h2.meetSlice.dropServed h2.meetMemory])

theorem State.Canonical.keepTaken {after} (h : s.Canonical) : (s.keepTaken after).Canonical :=
  .ite (h.sameMem rfl) (h.sameMem rfl)

theorem State.Canonical.stall (h : s.Canonical) : s.stall.Canonical := h.withCore

theorem State.Canonical.stop {after f e} (h : s.Canonical) (k : after.Canonical) : (s.stop after f e).Canonical := by
  unfold State.stop
  split
  · exact h.keepFound.keepTaken.takeTrap
  · exact k.takeTrap
  · exact h.afterWait.sameMem rfl
  · exact k.sameMem rfl
  · exact k
  · exact h.commitPart.sameMem rfl
  · exact h.afterWait.sameMem rfl

theorem State.Canonical.faultBefore {α : Type} {x : M α} {e after} (h : s.Canonical) (hx : Keeps x) (k : after.Canonical) :
    (Machine.faultBefore x s e after).2.Canonical := by
  unfold Machine.faultBefore
  split
  · dsimp only
    split
    · next e => exact hx.error h.withCore e
    · exact k
  all_goals exact k

theorem Lands.run {f body} (h : s.Canonical) (hb : Keeps body) : Lands (Machine.run f body s) := by
  have whole : Keeps (do issue f; body) := .bind .issue fun _ => hb
  unfold Machine.run
  dsimp only
  split
  · next e => exact .next (whole.ok h e).complete
  · next e => exact .next (h.stop (h.faultBefore whole (whole.error h e)))

theorem Keeps.andNext {x} (hx : Keeps x) : Keeps (Machine.andNext x) := .bind hx fun _ => .pure

theorem Keeps.carry {r l v} : Keeps (Machine.carry r l v) :=
  .ite
    (.bind .writeR fun _ => .pure)
    (by
        dsimp only
        split
        · exact .bind .chanCheck fun _ => .bind .irrevocable fun _ => .bind .newSlot fun _ => .pure
        · exact .bind .newSlot fun _ => .pure
        · exact .bind .newSlot fun _ => .pure
        · exact .bind .newSlot fun _ => .pure
        · exact .bind .newSlot fun _ => .pure)

/-! ### Pages -/

theorem State.Canonical.sendOut {key bytes} (h : s.Canonical) : (s.sendOut key bytes).Canonical :=
  .ite (h.sameMem rfl) (by split; exacts [h, h.sameMem rfl])

/-- What a recursion on a list's structure does at a list with a head. -/
theorem brecOn_cons {α : Type} {γ : Type} (a : α) (l : List α)
    (f : (l : List α) → List.below (motive := fun _ => γ) l → γ) :
    ∃ r, List.brecOn (motive := fun _ => γ) (a :: l) f = f (a :: l) ⟨List.brecOn (motive := fun _ => γ) l f, r⟩ := ⟨_, rfl⟩

section
variable {P : State → Prop} (reads : ∀ {s : State} p key n, P s → P (s.readPhys p key n).2)
include reads

/-- One level of a page walk keeps what a read and the rest of the walk keep. The kernel does not evaluate the equations
of `walkFrom`, so the walk is taken by the functional that it recurses with. -/
theorem walkLevel_keeps {p va low ok levels table f} (rest : ∀ t {s : State}, P s → P (f.1 t s).2) (h : P s) :
    P (walkFrom._f p va ((low, ok) :: levels) f table s).2 := by
  have either {α : Type} {c : Prop} [Decidable c] {x y : α × State} (hx : P x.2) (hy : P y.2) :
      P (if c then x else y).2 := by split <;> assumption
  change P (if table + 4096 > s.mainBytes p then _ else _ : Except Bad (BitVec 64 × Nat) × State).2
  extract_lets at0
  split
  · exact h
  · split
    next e =>
    have k := reads p (physKey p at0) 8 h
    rw [e] at k
    exact either k (either k (either (either k k) (either k (rest _ k))))

/-- A page walk keeps what its reads keep. -/
theorem walkFrom_keeps {p va levels table} (h : P s) : P (walkFrom p va levels table s).2 := by
  delta Machine.walkFrom
  induction levels generalizing table s with
  | nil => exact h
  | cons l levels ih =>
    obtain ⟨low, ok⟩ := l
    obtain ⟨r, e⟩ := brecOn_cons (low, ok) levels (walkFrom._f p va)
    rw [e]
    exact walkLevel_keeps reads (fun _ _ k => ih k) h

end

theorem State.Canonical.walkFrom {p va levels table} (h : s.Canonical) :
    (Machine.walkFrom p va levels table s).2.Canonical :=
  walkFrom_keeps (fun _ _ _ k => k.readPhys) h

theorem State.Canonical.leafOf {cl c va} (h : s.Canonical) : (s.leafOf cl c va).2.Canonical := by
  unfold State.leafOf
  split
  · exact h
  · exact h.walkFrom

theorem State.Canonical.tlbPut {p e} (h : s.Canonical) : (s.tlbPut p e).Canonical :=
  .ite (h.sameMem rfl) (h.takeFree.sameMem rfl)

theorem State.Canonical.tlbFill {cl c va leaf log} (h : s.Canonical) : (s.tlbFill cl c va leaf log).Canonical :=
  .ite h <| .ite h.tlbPut h.tlbPut.tlbPut

theorem State.Canonical.walkRecord {c pa} (h : s.Canonical) : (s.walkRecord c pa).Canonical :=
  h.takeFree.takeFree.takeFree.recordCtx

theorem State.Canonical.translate {cl ctx priv k va n} (h : s.Canonical) :
    (s.translate cl ctx priv k va n).2.Canonical := by
  unfold State.translate
  split
  · exact h
  · split
    · next e4 => exact h.leafOf.ofEq e4
    · next e5 => exact .iteSnd (h.leafOf.ofEq e5) <| .iteSnd (h.leafOf.ofEq e5) (h.leafOf.ofEq e5).tlbFill

theorem State.Canonical.agentXlat {cl ctx priv k va n} (h : s.Canonical) :
    (s.agentXlat cl ctx priv k va n).2.Canonical := by
  unfold State.agentXlat
  split
  · split
    · exact (h.translate.ofEq ‹_›).walkRecord
    · exact h.translate.ofEq ‹_›
  · exact h.translate

theorem Keeps.xlat {va n k spec} : Keeps (Machine.xlat va n k spec) :=
  .bind (.stateOf fun _ h2 => h2.translate) fun _ => by split; exacts [.pure, .fault, .fault, .throw]

/-! ### Press pushes -/

theorem Keeps.settleRows {d0} : Keeps (Machine.settleRows d0) :=
  .bind (.modify fun _ h2 => h2.withCore.applyAll) fun _ => .bind .getC fun _ => .waitUntil

theorem Keeps.pushWaits {d0 narrow} : Keeps (Machine.pushWaits d0 narrow) :=
  .bind .settleRows fun _ => .bind (.forIn fun _ _ => .bind .needsShared fun _ => .pure) fun _ => .pure

theorem Keeps.pushTail : Keeps Machine.pushTail := .bind (.stateOf fun _ h2 => h2.takeUid) fun _ => .modC

theorem Keeps.pushesWait {ds narrow} : Keeps (Machine.pushesWait ds narrow) := by
  induction ds generalizing narrow with
  | nil => exact .pure
  | cons d ds ih => exact .bind .pushWaits fun _ => ih

theorem Keeps.windowWaits {la bytes} : Keeps (Machine.windowWaits la bytes) :=
  .bind .getC fun _ =>
  .bind .waitUntil fun _ =>
  .bind .waitUntil fun _ => .ite (.bind .pushesWait fun _ => .ite .irrevocable .pure) .irrevocable

theorem Keeps.pushCovered {la n ss} : Keeps (Machine.pushCovered la n ss) := by
  induction ss with
  | nil => exact .pure
  | cons x ss ih =>
    exact .bind .getC fun _ => .join (fun k => .ite (.bind .pushTail k) (k ())) fun _ => ih

/-! ### Loads and stores -/

theorem Keeps.locate {va n k spec} : Keeps (Machine.locate va n k spec) :=
  .ite (.bind .xlat fun _ => .pure) <|
  .get fun _ _ =>
  .ite (.bind .faultIf fun _ => .pure) <| .bind .faultIf fun _ => .bind .faultIf fun _ => .bind .faultIf fun _ => .pure

theorem Keeps.watched {va n rd wr} : Keeps (Machine.watched va n rd wr) := .bind .getC fun _ => .faultIf

theorem Keeps.watchedFor {va n k} : Keeps (Machine.watchedFor va n k) := by
  unfold Machine.watchedFor
  split
  · exact .watched
  · exact .watched
  · exact .watched
  · exact .watched

theorem Keeps.accessReady {tainted} : Keeps (Machine.accessReady tainted) := .bind .getC fun _ => .waitUntil

theorem State.Canonical.homeRun {use p dom core key n} (h : s.Canonical) :
    (s.homeRun use p dom core key n).2.Canonical :=
  h.meetPhys

theorem State.Canonical.homeRead {use p dom core key n own} (h : s.Canonical) :
    (s.homeRead use p dom core key n own).2.Canonical := by
  unfold State.homeRead
  split
  next e =>
  exact h.homeRun.ofEq e

theorem State.Canonical.linkRecord {p ctx port pa poison} (h : s.Canonical) :
    (s.linkRecord p ctx port pa poison).Canonical :=
  h.takeFree.recordCtx

theorem State.Canonical.freeBytes {n} (h : s.Canonical) : (s.freeBytes n).2.Canonical :=
  h.foldlSnd fun _ _ h2 => h2.takeFree

theorem State.Canonical.outsideFor {p ctx key n} (h : s.Canonical) : (s.outsideFor p ctx key n).2.Canonical :=
  .iteSnd h.linkRecord h.freeBytes

theorem State.Canonical.outsideRead {core key n} (h : s.Canonical) : (s.outsideRead core key n).2.Canonical :=
  h.outsideFor

theorem State.Canonical.linkTraffic {p} (h : s.Canonical) : (s.linkTraffic p).Canonical := h.takeFree.modPart

theorem State.Canonical.linkSend {p pa} (h : s.Canonical) : (s.linkSend p pa).Canonical := by
  unfold State.linkSend
  split
  · exact h
  · exact .ite h.linkTraffic h

theorem Keeps.acquire : Keeps Machine.acquire := .modify fun _ h2 => h2.withCore.fenced

theorem Keeps.release {system} : Keeps (Machine.release system) :=
  .bind .getC fun _ =>
  .join (fun k2 => .ite (.bind .throw k2) (k2 ())) fun _ =>
  .bind .modC fun _ =>
  .bind (.modify fun _ h3 => h3.fenced) fun _ =>
  .get fun _ _ => .join (fun k5 => .ite (.bind .modA k5) (k5 ())) fun _ => .ite .throw .pure

theorem Keeps.poisonedOutput {p} : Keeps (Machine.poisonedOutput p) :=
  .bind .getC fun _ => .ite (.ite .fault .uncheck) .pure

theorem Keeps.digestStore {va bytes} : Keeps (Machine.digestStore va bytes) :=
  .bind .getC fun _ =>
  .ite (.ite .digest <| .bind (.forIn fun _ _ => .bind .digest fun _ => .pure) fun _ => .pure) .pure

theorem Keeps.request {d l use kind f} : Keeps (Machine.request d l use kind f) := by
  unfold Machine.request
  dsimp only
  split
  · exact .bind .chanCheck fun _ =>
      .bind .irrevocable fun _ => .bind .newSlot fun _ => .bind (.modify fun _ h11 => h11.sameMem rfl) fun _ => .pure
  · exact .bind .newSlot fun _ => .bind (.modify fun _ h13 => h13.sameMem rfl) fun _ => .pure
  · exact .bind .newSlot fun _ => .bind (.modify fun _ h15 => h15.sameMem rfl) fun _ => .pure
  · exact .bind .newSlot fun _ => .bind (.modify fun _ h17 => h17.sameMem rfl) fun _ => .pure
  · exact .bind .newSlot fun _ => .bind (.modify fun _ h19 => h19.sameMem rfl) fun _ => .pure
  · exact .bind .newSlot fun _ => .bind (.modify fun _ h21 => h21.sameMem rfl) fun _ => .pure
  · exact .bind .newSlot fun _ => .bind (.modify fun _ h23 => h23.sameMem rfl) fun _ => .pure

theorem Keeps.bufferStore {o} : Keeps (Machine.bufferStore o) :=
  .bind .getC fun _ =>
  .join (fun k2 => .ite (.bind .irrevocable k2) (k2 ())) fun _ =>
  .bind .drainHeld fun _ => .bind .getC fun _ => .ite .modA <| .bind .getC fun _ => .bind .waitUntil fun _ => .modC

theorem Keeps.newStore {seq tgt use bytes pois full cls combines} :
    Keeps (Machine.newStore seq tgt use bytes pois full cls combines) :=
  .bind .getC fun _ => .pure

theorem Keeps.storeHere {la bytes pois full} : Keeps (Machine.storeHere la bytes pois full) :=
  .bind .getC fun _ =>
  .ite .pure <|
  .join (fun k2 => .ite (.bind .windowWaits k2) <| .ite (.bind .irrevocable k2) (k2 ())) fun _ =>
  .bind .inOrder fun _ =>
  .bind (.forIn fun _ _ => .join (fun k3 => .ite (.bind .needs k3) (k3 ())) fun _ => .bind .cancels fun _ => .pure) fun _ =>
  .bind .modC fun _ =>
  .join (fun k4 => .ite (.bind .getC fun _ => .ite (.bind .modC k4) <| .bind (.modify fun _ h5 => h5.fill) k4) (k4 ())) fun _ =>
  .pushCovered

theorem Keeps.storePart {seq pl want va bytes pois full} :
    Keeps (Machine.storePart seq pl want va bytes pois full) := by
  unfold Machine.storePart
  split
  · exact .storeHere
  · exact .bind .getC fun _ => .ite .pure <| .bind .irrevocable fun _ => .bind .newStore fun _ => .bufferStore
  · exact .bind .poisonedOutput fun _ =>
      .bind .digestStore fun _ => .get fun _ _ => .bind .newStore fun _ => .bufferStore

theorem Keeps.storeTo {pl want va bytes pois full} : Keeps (Machine.storeTo pl want va bytes pois full) :=
  .bind (.stateOf fun _ h2 => h2.takeUid) fun _ => .storePart

theorem Keeps.globalRead {x} : Keeps (Machine.globalRead x) :=
  .join (fun k2 => .ite (.bind .irrevocable k2) (k2 ())) fun _ => .ite .uncheck .pure

theorem Keeps.sourceOf {x n hint home} : Keeps (Machine.sourceOf x n hint home) :=
  .bind .globalRead fun _ =>
  .get fun _ _ => .ite .pure (by dsimp only; split; exacts [.ite .pure (by split; exacts [.pure, .pure]), .pure])

theorem Keeps.readHere {la n} : Keeps (Machine.readHere la n) :=
  .bind .getC fun _ =>
  .bind (.forIn fun _ _ => .bind .needs fun _ => .pure) fun _ =>
  .bind .inOrder fun _ => .bind .localRead fun _ => .readBytes

/-! ### Scheduling -/

theorem State.Canonical.suspend (h : s.Canonical) : s.suspend.Canonical := .ite h.withCore h

/-! ### Activations and messages -/

theorem Keeps.endTrappedWindows : Keeps Machine.endTrappedWindows :=
  .get fun _ h2 => by split; exacts [.pure, .ite (.ite (.set h2.withCore.applyAll) .stall) .pure]

theorem Keeps.endActivation : Keeps Machine.endActivation :=
  .bind .endWindows fun _ =>
  .bind .endTrappedWindows fun _ =>
  .bind .getC fun _ =>
  .join (fun k2 =>
      .ite
        (.get fun _ _ =>
          .join (fun k4 => .ite (.bind .uncheck k4) (k4 ())) fun _ =>
          .bind .getC fun _ =>
          .join (fun k5 => .ite (.bind .commitHeld k5) (k5 ())) fun _ =>
          .bind .getC fun _ => .bind .waitUntil fun _ => .bind (.modify fun _ h6 => h6.endSampled) k2)
        (k2 ())) fun _ =>
  .bind (.modify fun _ h7 => h7.finishAct) fun _ => .pure

theorem Keeps.endAborted : Keeps Machine.endAborted :=
  .bind .endWindows fun _ =>
  .bind .endTrappedWindows fun _ =>
  .bind .uncheck fun _ =>
  .bind .getC fun _ =>
  .join (fun k2 => .ite (.bind .getC fun _ => .bind .waitUntil k2) (k2 ())) fun _ =>
  .bind .modA fun _ => .bind (.modify fun _ h3 => h3.finishAct) fun _ => .pure

theorem Keeps.messageTo {a b} : Keeps (Machine.messageTo a b) :=
  .bind .readR fun _ =>
  .bind .readR fun _ =>
  .join (fun k2 => .ite (.bind .poisonFault k2) (k2 ())) fun _ =>
  .join (fun k3 => .ite (.bind .poisonFault k3) (k3 ())) fun _ =>
  .bind .faultIf fun _ => .get fun _ _ => .bind .faultIf fun _ => .pure

theorem Keeps.messageRoom : Keeps Machine.messageRoom :=
  .bind .getC fun _ => .join (fun k2 => .ite (.bind .irrevocable k2) (k2 ())) fun _ => .drainHeld

theorem Keeps.sendMessage {m} : Keeps (Machine.sendMessage m) :=
  .bind .poisonedOutput fun _ =>
  .bind .getC fun _ =>
  .join (fun k2 => .ite (.bind .digest fun _ => .bind (.forIn fun _ _ => .bind .digest fun _ => .pure) k2) (k2 ())) fun _ =>
  .bind .getC fun _ => .ite .modA <| .bind .getC fun _ => .bind .waitUntil fun _ => .modC

theorem Keeps.newMessage {dw e body replyTo} : Keeps (Machine.newMessage dw e body replyTo) :=
  .bind .getC fun _ => .pure

theorem Keeps.replyPlace {d} : Keeps (Machine.replyPlace d) :=
  .ite .pure <|
  .bind .readR fun _ =>
  .join (fun k2 => .ite (.bind .poisonFault k2) (k2 ())) fun _ =>
  .bind .faultIf fun _ => .bind .getC fun _ => .bind .faultIf fun _ => .pure

theorem Keeps.replyWord {a} : Keeps (Machine.replyWord a) := by
  unfold Machine.replyWord
  split
  · exact .pure
  · exact .get fun _ _ =>
      .join (fun k5 =>
          .ite (.ite (.bind .modC k5) (k5 ())) <|
          .bind (.modify fun _ h6 => h6.putFull) fun _ => .ite (.bind .modA k5) (k5 ())) fun _ =>
      .pure

theorem Keeps.callAt {d a b} : Keeps (Machine.callAt d a b) :=
  .bind .messageTo fun _ =>
  .bind .replyPlace fun _ =>
  .bind .messageRoom fun _ =>
  .bind .replyWord fun _ => .bind .readRun fun _ => .bind .newMessage fun _ => .bind .sendMessage fun _ => .pure

theorem Keeps.msend {d a b} : Keeps (Machine.msend d a b) :=
  .bind .messageTo fun _ =>
  .bind .faultIf fun _ =>
  .bind .regRange fun _ =>
  .bind .bodyFree fun _ =>
  .bind .messageRoom fun _ => .bind .readRun fun _ => .bind .newMessage fun _ => .bind .sendMessage fun _ => .pure

theorem Keeps.replyValue {a} : Keeps (Machine.replyValue a) :=
  .bind .getC fun _ =>
  .bind .faultIf fun _ =>
  .bind .messageRoom fun _ =>
  .bind .readR fun _ =>
  .bind .getC fun _ =>
  .join (fun k2 => .ite (.bind .release k2) (k2 ())) fun _ =>
  .bind .poisonedOutput fun _ =>
  .bind .getC fun _ =>
  .join (fun k3 => .ite (.bind .digest k3) (k3 ())) fun _ =>
  .bind .modA fun _ =>
  .join (fun k4 => .ite (.bind .modA k4) <| .bind (.modify fun _ h5 => h5.sameMem rfl) k4) fun _ => .pure

theorem Keeps.spawn {d a hi} : Keeps (Machine.spawn d a hi) :=
  .bind .readClean fun _ =>
  .bind .faultIf fun _ =>
  .bind .irrevocable fun _ =>
  .bind .readRun fun _ =>
  .bind .getC fun _ =>
  .bind .writeR fun _ =>
  .join (fun k2 => .ite (.bind (.stateOf fun _ h3 => h3.takeUid) fun _ => .bind .modC k2) (k2 ())) fun _ => .pure

theorem Keeps.grantNow {d gs} : Keeps (Machine.grantNow d gs) := .bind .modA fun _ => .bind .writeR fun _ => .pure

theorem Keeps.parkClaim {d n} : Keeps (Machine.parkClaim d n) := by
  unfold Machine.parkClaim
  dsimp only
  split
  · exact .bind .chanCheck fun _ =>
      .bind .irrevocable fun _ =>
      .bind .endWindows fun _ => .bind (.modify fun _ h9 => h9.withCore.freeContext) fun _ => .pure
  · exact .bind .endWindows fun _ => .bind (.modify fun _ h11 => h11.withCore.freeContext) fun _ => .pure
  · exact .bind .endWindows fun _ => .bind (.modify fun _ h13 => h13.withCore.freeContext) fun _ => .pure
  · exact .bind .endWindows fun _ => .bind (.modify fun _ h15 => h15.withCore.freeContext) fun _ => .pure
  · exact .bind .endWindows fun _ => .bind (.modify fun _ h17 => h17.withCore.freeContext) fun _ => .pure

theorem State.Canonical.imageTakes {gs} (h : s.Canonical) : (s.imageTakes gs).Canonical :=
  h.withCore.foldl fun _ _ h2 => h2.takeFree.withCore

theorem Keeps.wclaim {d a} : Keeps (Machine.wclaim d a) :=
  .bind .readClean fun _ =>
  .ite (.bind .writeR fun _ => .pure) <|
  .bind .getC fun _ =>
  .bind .faultIf fun _ =>
  .ite (by split; exacts [.bind (.modify fun _ h3 => h3.imageTakes) fun _ => .grantNow, .fault]) <|
  .ite (.bind .modC fun _ => .grantNow) .parkClaim

theorem Keeps.wrel {a} : Keeps (Machine.wrel a) :=
  .bind .readClean fun _ =>
  .bind .getC fun _ =>
  by
    split
    · exact .fault
    · exact .bind .modA fun _ =>
        .bind .getC fun _ =>
        .join (fun k4 => .ite (.bind (.modify fun _ h5 => h5.giveBack.testParked) k4) (k4 ())) fun _ => .pure

theorem Keeps.tokenDwords {d i k} : Keeps (Machine.tokenDwords d i k) :=
  .get fun _ _ => by split; exacts [.pure, .bind (.modify fun _ h5 => h5.meetLocal) fun _ => .get fun _ _ => .pure]

theorem Keeps.apop {d} : Keeps (Machine.apop d) :=
  .bind .getC fun _ =>
  by
    dsimp only
    split
    · exact .bind .faultIf fun _ => .bind .tokenDwords fun _ => .bind .modA fun _ => .bind .writeRun fun _ => .pure
    · exact .fault

theorem Keeps.apush {a} : Keeps (Machine.apush a) :=
  .bind .getC fun _ =>
  by
    dsimp only
    split
    · split
      · exact .fault
      · exact .bind .faultIf fun _ =>
          .bind .drainHeld fun _ =>
          .join (fun k5 => .ite (.bind .release k5) (k5 ())) fun _ =>
          .bind .readRun fun _ =>
          .bind .poisonedOutput fun _ =>
          .join (fun k6 => .ite (.bind (.forIn fun _ _ => .bind .digest fun _ => .pure) k6) (k6 ())) fun _ =>
          .bind .modA fun _ =>
          .join (fun k7 => .ite (.bind .modA k7) <| .bind (.modify fun _ h8 => h8.sameMem rfl) k7) fun _ => .pure
    · exact .fault

theorem Keeps.mpoll {d} : Keeps (Machine.mpoll d) := .bind .uncheck fun _ => .bind .getC fun _ => .andNext .writeR

theorem Keeps.winrd {d ch} : Keeps (Machine.winrd d ch) := .bind .uncheck fun _ => .get fun _ _ => .andNext .writeR

/-! ### Slices and homes -/

theorem State.Canonical.commitLine {r} (h : s.Canonical) : (s.commitLine r).Canonical :=
  .ite h (by split; exacts [h.hitLine, h.writeLine])

theorem State.Canonical.commitRipe {r} (h : s.Canonical) : (s.commitRipe r).Canonical :=
  h.commitLine.foldl fun _ _ h2 => .ite h2 (h2.setBytes rfl)

theorem State.Canonical.commitAll {p} (h : s.Canonical) : (s.commitAll p).Canonical :=
  .foldl (h.sameMem rfl) fun _ _ h2 => h2.commitRipe

theorem State.Canonical.installLine {o d phase line} (h : s.Canonical) : (s.installLine o d phase line).Canonical :=
  .ite (.sameMem (by split; exacts [h.putLine, h]) rfl) <| .sameMem (.makeRoom (by split; exacts [h.putLine, h])) rfl

theorem State.Canonical.markSent {core k} (h : s.Canonical) : (s.markSent core k).Canonical := h.modCore

theorem State.Canonical.wake (h : s.Canonical) : s.wake.Canonical := h.sameMem rfl

theorem Lands.happens (h : s.Canonical) : Lands (Machine.happens s) := .next h.wake

theorem Lands.nothing (h : s.Canonical) : Lands (Machine.nothing s) := .next h

theorem Lands.execPhasedStoreInstall {core k} (h : s.Canonical) : Lands (Machine.execPhasedStoreInstall core k s) := by
  unfold Machine.execPhasedStoreInstall
  split
  · exact .nothing h
  · split
    · exact .nothing h
    · exact .ite (.happens <| .markSent (h.foldl fun _ _ h6 => h6.installLine)) <| .nothing h

theorem Lands.execStoreAck {core k} (h : s.Canonical) : Lands (Machine.execStoreAck core k s) := by
  unfold Machine.execStoreAck
  split
  · exact .nothing h
  · exact .ite
        (.nothing h)
        (by
            dsimp only
            split
            · exact .happens h.modCore
            · exact .ite (.happens h.modCore.takeFree.modCore) <| .happens h.modCore)

theorem Lands.execForcing {k} (h : s.Canonical) : Lands (Machine.execForcing k s) := by
  unfold Machine.execForcing
  split
  · exact .nothing h
  · next r _ =>
    have left := State.Canonical.commitRipe (r := r) (s := { s with ripening := removeAt s.ripening k }) h
    exact .ite (.happens (left.sameMem rfl)) (.nothing h)

theorem State.Canonical.countTier2 {p t} (h : s.Canonical) : (s.countTier2 p t).Canonical := by
  unfold State.countTier2
  split
  · exact h
  · exact .ite h.modPart h

theorem State.Canonical.perform {o} (h : s.Canonical) : (s.perform o).Canonical := by
  unfold State.perform
  split
  · exact .ite h <| .ite h.writeLocal.fill h.writeLocal
  · exact .ite (by split; exacts [h.sendOut, h.freeBytes.sendOut]) <|
      .ite h.writeLines.putBytes.fill h.writeLines.putBytes

theorem State.Canonical.modRowJob {w f g} (h : s.Canonical) : (s.modRowJob w f g).Canonical := h.sameMem rfl

theorem State.Canonical.rowDone {w} (h : s.Canonical) : (s.rowDone w).Canonical := h.modRowJob

theorem State.Canonical.rowFails {w status} (h : s.Canonical) : (s.rowFails w status).Canonical :=
  .modRowJob (h.sameMem rfl)

theorem State.Canonical.rowLands {k w key} (h : s.Canonical) : (s.rowLands k w key).Canonical :=
  .ite h.rowFails.linkRecord <|
  .ite (.sendOut <| .ite (.linkSend <| .rowDone (h.sameMem rfl)) <| .rowDone (h.sameMem rfl)) <|
  .putBytes <| .writeLines <| .rowDone (h.sameMem rfl)

theorem Lands.execDirectWriteArrival {core k} (h : s.Canonical) : Lands (Machine.execDirectWriteArrival core k s) :=
  .ite
    (by split; exacts [by split; exacts [.ite (.nothing h) <| .happens h.rowLands.countTier2, .nothing h], .nothing h])
    (by
        split
        · exact .nothing h
        · split
          · exact .ite (.nothing h) <|
              .ite (.nothing h) <|
              .happens <| .foldl (.countTier2 (h.foldl fun _ _ h9 => h9.perform)) fun _ _ h10 => h10.markSent
          · exact .happens h.perform.markSent
          · exact .nothing h)

theorem State.Canonical.fillLines {core start bs ps} (h : s.Canonical) : (s.fillLines core start bs ps).Canonical :=
  h.putCore

theorem State.Canonical.readFor {use core t n fill own} (h : s.Canonical) :
    (s.readFor use core t n fill own).2.Canonical := by
  unfold State.readFor
  split
  · exact h.meetLocal
  · exact .iteSnd h.outsideRead <| .iteSnd h.homeRead h.homeRun.fillLines

theorem Keeps.readNow {pl n hint home} : Keeps (Machine.readNow pl n hint home) := by
  unfold Machine.readNow
  split
  · exact .readHere
  · exact .bind .uncheck fun _ => .bind .inOrder fun _ => .bind .getC fun _ => .stateOf fun _ h4 => h4.readFor
  · exact .bind .sourceOf fun _ => by split; exacts [.pure, .bind .inOrder fun _ => .stateOf fun _ h8 => h8.readFor]

theorem State.Canonical.atomPut {t size new thru} (h : s.Canonical) : (s.atomPut t size new thru).Canonical := by
  unfold State.atomPut
  split
  · exact h.modCore
  · exact h.writeLines.setBytes rfl

theorem State.Canonical.atomGet {use p t size writes} (h : s.Canonical) :
    (s.atomGet use p t size writes).2.Canonical := by
  unfold State.atomGet
  split
  · exact h.meetLocal
  · exact .iteSnd h.freeBytes <| .ite (h.meetPhys.foldl fun _ _ h4 => h4.setBytes rfl) h.meetPhys

theorem State.Canonical.atomic {p t op size v w thru} (h : s.Canonical) :
    (s.atomic p t op size v w thru).2.Canonical := by
  unfold State.atomic
  split
  next e =>
  have k := h.atomGet.ofEq e
  refine .countTier2 (.ite k ?_)
  split
  · exact k.atomPut
  · exact .ite k.sendOut k.atomPut

theorem State.Canonical.markServed {uid slice} (h : s.Canonical) : (s.markServed uid slice).Canonical := h.sameMem rfl

theorem State.Canonical.runAtomic {r t op n v w taint thru} (h : s.Canonical) :
    (s.runAtomic r t op n v w taint thru).Canonical :=
  h.atomic.serve.markServed

theorem Lands.execAtomicExecute {uid} (h : s.Canonical) : Lands (Machine.execAtomicExecute uid s) := by
  unfold Machine.execAtomicExecute
  split
  · exact .nothing h
  · exact .ite
        (.nothing h)
        (by split; exacts [.ite (.nothing h) <| .happens h.runAtomic, .nothing h, .nothing h, .nothing h, .nothing h])

/-! ### Copies -/

theorem State.Canonical.putChannel {c} (h : s.Canonical) : (s.putChannel c).Canonical := h.sameMem rfl

theorem State.Canonical.acceptCopy {cluster ch j} (h : s.Canonical) : (s.acceptCopy cluster ch j).Canonical :=
  h.putChannel

theorem State.Canonical.copyXlat {cl j k va n} (h : s.Canonical) : (s.copyXlat cl j k va n).2.Canonical := by
  unfold State.copyXlat
  split
  · next e2 => exact h.agentXlat.ofEq e2
  · next e3 => exact h.agentXlat.ofEq e3
  · next e4 => exact h.agentXlat.ofEq e4
  · next e5 => exact h.agentXlat.ofEq e5

theorem State.Canonical.copyRead {cl j hint va n} (h : s.Canonical) : (s.copyRead cl j hint va n).2.Canonical := by
  unfold State.copyRead
  split
  · split
    · exact h
    · split
      · exact h
      · exact .iteSnd h h.readFor
  · split
    · next e => exact h.copyXlat.ofEq e
    · next e =>
      have k := h.copyXlat.ofEq e
      refine .iteSnd k (.iteSnd (.ite k.freeBytes.linkSend k.freeBytes) (.countTier2 ?_))
      split
      · exact k.homeRead
      · exact k.homeRead

theorem State.Canonical.copyGather {cl j c n k} (h : s.Canonical) : (s.copyGather cl j c n k).2.Canonical := by
  induction k with
  | zero => exact h
  | succ k ih => exact .iteSnd ih ih.copyRead

theorem State.Canonical.copyTarget {cl j bad hint t n} (h : s.Canonical) :
    (s.copyTarget cl j bad hint t n).2.Canonical := by
  unfold State.copyTarget
  split
  · exact h
  · exact .iteSnd (by split; exacts [h, by split; exacts [h, h]]) <|
      .iteSnd
        h
        (by
            split
            · next e8 => exact h.copyXlat.ofEq e8
            · next e9 => exact h.copyXlat.ofEq e9)

theorem State.Canonical.copyFails {t c j rest k e} (h : t.Canonical) : (s.copyFails t c j rest k e).Canonical :=
  .ite (.linkRecord (h.sameMem rfl)) (h.sameMem rfl)

theorem Lands.execCopyRowWrite {cluster ch} (h : s.Canonical) : Lands (Machine.execCopyRowWrite cluster ch s) := by
  unfold Machine.execCopyRowWrite
  dsimp only
  split
  · exact .nothing h
  · refine .ite (.nothing h) ?_
    split
    · exact .happens (.copyFails h.copyGather.copyTarget)
    · exact .happens (.sameMem h.copyGather.copyTarget rfl)

theorem Lands.execCopyRowArrival {k} (h : s.Canonical) : Lands (Machine.execCopyRowArrival k s) := by
  unfold Machine.execCopyRowArrival
  split
  · exact .nothing h
  · split
    · exact .nothing h
    · exact .ite (.nothing h) <|
        .ite (.happens h.rowFails) <|
        .happens <| .foldl (.writeLocal <| .rowDone (h.sameMem rfl)) fun _ _ h6 => h6.fill

theorem State.Canonical.copyOver {j status} (h : s.Canonical) : (s.copyOver j status).Canonical := by
  unfold State.copyOver
  split
  · exact h.modCore
  · exact .ite h.packetDone h.packetDone.queueRecord.queueError
  · exact h

theorem Lands.execCopyEnd {cluster ch} (h : s.Canonical) : Lands (Machine.execCopyEnd cluster ch s) := by
  unfold Machine.execCopyEnd
  dsimp only
  split
  · exact .nothing h
  · exact .ite (.nothing h) <| .happens h.putChannel.copyOver

theorem Keeps.storesAcked : Keeps Machine.storesAcked := .bind .modC fun _ => .bind .getC fun _ => .ite .throw .pure

theorem Keeps.copyInstr {first sel} : Keeps (Machine.copyInstr first sel) :=
  .bind .readClean fun _ =>
  .bind (.mapM fun _ => .readClean) fun _ =>
  .get fun _ _ =>
  .join (fun k3 => .ite (.bind .faultIf fun _ => .bind .faultIf k3) (k3 ())) fun _ =>
  .bind .irrevocable fun _ =>
  .bind .storesAcked fun _ =>
  .get fun _ _ =>
  .bind .waitUntil fun _ =>
  .bind (.stateOf fun _ h5 => h5.takeUid) fun _ =>
  .bind (.modify fun _ h6 => h6.acceptCopy) fun _ => .bind .modC fun _ => .andNext .writeR

theorem Keeps.bseal {d} : Keeps (Machine.bseal d) :=
  .bind .uncheck fun _ => .bind .getC fun _ => .bind .waitUntil fun _ => .bind .modC fun _ => .andNext .writeR

theorem Keeps.bdrain {d a} : Keeps (Machine.bdrain d a) :=
  .bind .readClean fun _ =>
  .bind .uncheck fun _ => .bind .getC fun _ => .bind .waitUntil fun _ => .bind .modC fun _ => .andNext .writeR

theorem Keeps.cwptr {d a} : Keeps (Machine.cwptr d a) :=
  .bind .readClean fun _ => .bind .uncheck fun _ => .get fun _ _ => .andNext .writeR

/-! ### The fabric and counters -/

theorem State.Canonical.modCounter {ctx handle f} (h : s.Canonical) : (s.modCounter ctx handle f).Canonical :=
  h.sameMem rfl

theorem State.Canonical.modBarrier {ctx id f} (h : s.Canonical) : (s.modBarrier ctx id f).Canonical := h.sameMem rfl

theorem State.Canonical.putToggles {ctx net ts} (h : s.Canonical) : (s.putToggles ctx net ts).Canonical := by
  unfold State.putToggles
  split
  · exact h.modCounter
  · exact h.modBarrier

theorem State.Canonical.reopen {ctx net} (h : s.Canonical) : (s.reopen ctx net).Canonical := by
  unfold State.reopen
  split
  · exact h
  · exact .putToggles (h.sameMem rfl)

theorem Lands.execBalancerArrival {k} (h : s.Canonical) : Lands (Machine.execBalancerArrival k s) := by
  unfold Machine.execBalancerArrival
  split
  · exact .nothing h
  · split
    · exact .nothing h
    · exact .ite (.nothing h) <|
        .ite (.ite (.nothing h) <| .happens (h.sameMem rfl)) <| .happens (h.putToggles.sameMem rfl)

theorem State.Canonical.tokResult {t bits poison} (h : s.Canonical) : (s.tokResult t bits poison).Canonical := by
  unfold State.tokResult
  split
  · exact .ite h.answer h
  · exact .ite (h.sameMem rfl) h

theorem Lands.execExitCounterAct {k} (h : s.Canonical) : Lands (Machine.execExitCounterAct k s) := by
  unfold Machine.execExitCounterAct
  split
  · exact .nothing h
  · split
    · exact .nothing h
    · split
      · exact .nothing h
      · exact .ite (.nothing h) (.happens (.tokResult (.sameMem h rfl)))

theorem State.Canonical.countTok {t b i} (h : s.Canonical) : (s.countTok t b i).Canonical :=
  .ite h.tokResult <| .ite h.modBarrier.tokResult h.modBarrier

theorem Lands.execBarrierExit {k} (h : s.Canonical) : Lands (Machine.execBarrierExit k s) := by
  unfold Machine.execBarrierExit
  split
  · exact .nothing h
  · split
    · exact .nothing h
    · split
      · exact .nothing h
      · exact .ite (.nothing h) <| .happens <| .countTok (h.sameMem rfl)

theorem State.Canonical.writeCopy {b core} (h : s.Canonical) : (s.writeCopy b core).Canonical := h.modBarrier.modCore

theorem State.Canonical.completeBarrier {b} (h : s.Canonical) : (s.completeBarrier b).Canonical :=
  .foldl (.modBarrier (h.commitAll.sameMem rfl)) fun _ _ h2 => h2.tokResult

theorem Lands.execBarrierComplete {ctx bar} (h : s.Canonical) : Lands (Machine.execBarrierComplete ctx bar s) := by
  unfold Machine.execBarrierComplete
  split
  · exact .nothing h
  · exact .ite (.nothing h) <|
      .ite (.ite (.happens h.completeBarrier) <| .nothing h) <|
      .happens <| .ite h.takeFree.writeCopy.reopen h.takeFree.writeCopy

theorem State.Canonical.dropCell {uid} (h : s.Canonical) : (s.dropCell uid).Canonical := h.sameMem rfl

theorem Lands.execCsumArrival {uid} (h : s.Canonical) : Lands (Machine.execCsumArrival uid s) := by
  unfold Machine.execCsumArrival
  split
  · exact .nothing h
  · split
    · exact .nothing h
    · exact .ite (.nothing h) <| .happens h.dropCell.answer

theorem Lands.execCresetClosure {uid} (h : s.Canonical) : Lands (Machine.execCresetClosure uid s) := by
  unfold Machine.execCresetClosure
  split
  · exact .nothing h
  · split
    · exact .nothing h
    · exact .ite (.nothing h) (.happens (.modCounter (.sameMem (h.dropCell (uid := uid)) rfl)))

theorem Lands.execCresetReopen {ctx handle} (h : s.Canonical) : Lands (Machine.execCresetReopen ctx handle s) := by
  unfold Machine.execCresetReopen
  split
  · exact .ite (.nothing h) <| .happens h.dropCell.modCounter.reopen.answer
  · exact .nothing h

theorem State.Canonical.failNet {ctx net} (h : s.Canonical) : (s.failNet ctx net).Canonical := by
  unfold State.failNet
  dsimp only
  split
  · exact .modCounter (h.sameMem rfl)
  · exact .foldl (.modBarrier (h.sameMem rfl)) fun _ _ h4 => h4.tokResult

theorem Lands.execCellError {ctx net} (h : s.Canonical) : Lands (Machine.execCellError ctx net s) := by
  unfold Machine.execCellError
  split
  · exact .ite (.nothing h) <| .happens h.takeFree.takeFree.failNet.recordCtx
  · exact .nothing h

/-! ### Memory instructions -/

theorem Keeps.address {base off unit} : Keeps (Machine.address base off unit) :=
  .bind .readClean fun _ => .bind .accessReady fun _ => .bind .faultIf fun _ => .pure

theorem Keeps.place {va n k base} : Keeps (Machine.place va n k base) :=
  .bind .locate fun _ => .bind .watchedFor fun _ => .pure

theorem Keeps.loadInstr {t base off hint size l sx ldc} : Keeps (Machine.loadInstr t base off hint size l sx ldc) :=
  .bind .takeSlot fun _ =>
  .bind .address fun _ =>
  .bind .place fun _ =>
  by
    split
    · exact .bind .readHere fun _ => .carry
    · exact .bind .uncheck fun _ => .request
    · exact .bind .sourceOf fun _ => by split; exacts [.carry, .request]

theorem Keeps.storeInstr {t base off hint size} : Keeps (Machine.storeInstr t base off hint size) :=
  .bind .address fun _ => .bind .place fun _ => .bind .readR fun _ => .andNext .storeTo

theorem Keeps.loadRow {vt base off hint l} : Keeps (Machine.loadRow vt base off hint l) :=
  .bind .takeSlot fun _ =>
  .bind .address fun _ =>
  .bind .place fun _ =>
  .bind .modeSettled fun _ =>
  .bind .rowFree fun _ =>
  by
    dsimp only
    split
    · exact .bind .readHere fun _ => .ite (.andNext .writeRow) <| .bind .newSlot fun _ => .pure
    · exact .bind .uncheck fun _ => .request
    · exact .bind .sourceOf fun _ =>
        by split; exacts [.ite (.andNext .writeRow) <| .bind .newSlot fun _ => .pure, .request]

theorem Keeps.storeRow {vt base off hint} : Keeps (Machine.storeRow vt base off hint) :=
  .bind .address fun _ => .bind .place fun _ => .bind .modeSettled fun _ => .bind .readRow fun _ => .andNext .storeTo

theorem Keeps.zeroFill {base off hint} : Keeps (Machine.zeroFill base off hint) :=
  .bind .address fun _ => .bind .place fun _ => .andNext .storeTo

theorem State.Canonical.askLine {x hint key} (h : s.Canonical) : (s.askLine x hint key).Canonical :=
  h.takeUid.sameMem rfl

theorem Keeps.prefetch {base off hint} : Keeps (Machine.prefetch base off hint) :=
  .bind (by split; exacts [.get fun _ _ => .get fun _ _ => .ite .readR .pure, .readR, .readR, .readR, .readR]) fun _ =>
  .ite .pure <|
  .bind (.stateOf fun _ h9 => h9.agentXlat) fun _ =>
  by
    split
    · exact .pure
    · exact .get fun _ _ =>
        .join (fun k13 =>
            .ite
              (.bind
                  (.forIn fun _ _ =>
                    .bind .getC fun _ => .ite (.bind (.modify fun _ h14 => h14.askLine) fun _ => .pure) .pure)
                  k13)
              (k13 ())) fun _ =>
        .pure

theorem Keeps.icinv {a scope} : Keeps (Machine.icinv a scope) :=
  .bind .readClean fun _ =>
  .bind .getC fun _ =>
  .join (fun k2 => .ite (.bind .irrevocable k2) (k2 ())) fun _ =>
  .bind .getC fun _ =>
  .join (fun k3 => .ite (.bind .throw k3) (k3 ())) fun _ =>
  .get fun _ _ => .bind (.modify fun _ h5 => h5.sameMem rfl) fun _ => .pure

theorem Keeps.bankMode {a b} : Keeps (Machine.bankMode a b) :=
  .bind .readR fun _ =>
  .bind .readR fun _ =>
  .join (fun k2 => .ite (.bind .poisonFault k2) (k2 ())) fun _ =>
  .join (fun k3 => .ite (.bind .poisonFault k3) (k3 ())) fun _ =>
  .bind .faultIf fun _ =>
  .bind .getC fun _ =>
  by
    dsimp only
    split
    · exact .bind .fault fun _ => .bind .faultIf fun _ => .bind .waitUntil fun _ => .bind .modC fun _ => .pure
    · exact .bind .faultIf fun _ => .bind .waitUntil fun _ => .bind .modC fun _ => .pure

theorem Keeps.bankQuery {d} : Keeps (Machine.bankQuery d) := .bind .uncheck fun _ => .get fun _ _ => .andNext .writeR

theorem Keeps.fullPlace {va k base} : Keeps (Machine.fullPlace va k base) :=
  .bind .locate fun _ =>
  by
    dsimp only
    split
    · exact .bind .faultIf fun _ => .bind .watchedFor fun _ => .pure
    · exact .bind .watchedFor fun _ => .pure
    · exact .bind .watchedFor fun _ => .pure

theorem State.Canonical.ldsRead {use t own} (h : s.Canonical) : (s.ldsRead use t own).2.Canonical := by
  unfold State.ldsRead
  split
  · exact h.meetLocal
  · exact h.homeRead

theorem Keeps.wordReady {t} : Keeps (Machine.wordReady t) := .bind .inOrder fun _ => .bind .getC fun _ => .waitUntil

theorem Keeps.emptyWord {pl} : Keeps (Machine.emptyWord pl) :=
  .get fun _ _ =>
  by
    split
    · exact .ite .modC <| .ite (.modify fun _ h4 => h4.putFull) .pure
    · exact .ite (.modify fun _ h6 => h6.putFull) .pure
    · exact .ite (.modify fun _ h8 => h8.putFull) .pure

theorem Keeps.lateSlot {t l tgt v} : Keeps (Machine.lateSlot t l tgt v) := by
  cases v with
  | none => cases t with
    | out d => exact .bind .chanCheck fun _ => .bind .irrevocable fun _ => .bind .newSlot fun _ => .pure
    | w _ | inp _ | z | inq => exact .bind .newSlot fun _ => .pure
  | some _ => cases t with
    | out d =>
      exact .bind .chanCheck fun _ => .bind .irrevocable fun _ => .bind .newSlot fun _ =>
        .bind (.modify fun _ k => k.sameMem rfl) fun _ => .pure
    | w _ | inp _ | z | inq => exact .bind .newSlot fun _ => .bind (.modify fun _ k => k.sameMem rfl) fun _ => .pure

theorem Keeps.ldsInstr {t base off l empties} : Keeps (Machine.ldsInstr t base off l empties) :=
  .bind .takeSlot fun _ =>
  .bind .address fun _ =>
  .bind .fullPlace fun _ =>
  .get fun _ _ =>
  by
    dsimp only
    split
    · exact .bind (.forIn fun _ _ => .bind .needs fun _ => .pure) fun _ =>
        .bind .localRead fun _ =>
        .bind .wordReady fun _ =>
        .ite (by
            split
            · exact .bind .readBytes fun _ => .join (fun k9 => .ite (.bind .emptyWord k9) (k9 ())) fun _ => .carry
            · exact .bind (.stateOf fun _ h11 => h11.ldsRead) fun _ =>
                .join (fun k12 => .ite (.bind .emptyWord k12) (k12 ())) fun _ => .bind .lateSlot fun _ => .pure
            · exact .bind (.stateOf fun _ h14 => h14.ldsRead) fun _ =>
                .join (fun k15 => .ite (.bind .emptyWord k15) (k15 ())) fun _ => .bind .lateSlot fun _ => .pure) <|
        .bind .irrevocable fun _ =>
        .bind .wordReady fun _ => .bind .lateSlot fun _ => .bind (.modify fun _ h16 => h16.sameMem rfl) fun _ => .pure
    · exact .bind .uncheck fun _ =>
        .bind .wordReady fun _ =>
        .ite (by
            split
            · exact .bind .readBytes fun _ => .join (fun k19 => .ite (.bind .emptyWord k19) (k19 ())) fun _ => .carry
            · exact .bind (.stateOf fun _ h21 => h21.ldsRead) fun _ =>
                .join (fun k22 => .ite (.bind .emptyWord k22) (k22 ())) fun _ => .bind .lateSlot fun _ => .pure
            · exact .bind (.stateOf fun _ h24 => h24.ldsRead) fun _ =>
                .join (fun k25 => .ite (.bind .emptyWord k25) (k25 ())) fun _ => .bind .lateSlot fun _ => .pure) <|
        .bind .irrevocable fun _ =>
        .bind .wordReady fun _ => .bind .lateSlot fun _ => .bind (.modify fun _ h26 => h26.sameMem rfl) fun _ => .pure
    · exact .ite (.bind .uncheck fun _ =>
          .bind .wordReady fun _ =>
          .ite (by
              split
              · exact .bind .readBytes fun _ => .join (fun k29 => .ite (.bind .emptyWord k29) (k29 ())) fun _ => .carry
              · exact .bind (.stateOf fun _ h31 => h31.ldsRead) fun _ =>
                  .join (fun k32 => .ite (.bind .emptyWord k32) (k32 ())) fun _ => .bind .lateSlot fun _ => .pure
              · exact .bind (.stateOf fun _ h34 => h34.ldsRead) fun _ =>
                  .join (fun k35 => .ite (.bind .emptyWord k35) (k35 ())) fun _ => .bind .lateSlot fun _ => .pure) <|
          .bind .irrevocable fun _ =>
          .bind .wordReady fun _ =>
          .bind .lateSlot fun _ => .bind (.modify fun _ h36 => h36.sameMem rfl) fun _ => .pure) <|
        .bind .wordReady fun _ =>
        .ite (by
            split
            · exact .bind .readBytes fun _ => .join (fun k38 => .ite (.bind .emptyWord k38) (k38 ())) fun _ => .carry
            · exact .bind (.stateOf fun _ h40 => h40.ldsRead) fun _ =>
                .join (fun k41 => .ite (.bind .emptyWord k41) (k41 ())) fun _ => .bind .lateSlot fun _ => .pure
            · exact .bind (.stateOf fun _ h43 => h43.ldsRead) fun _ =>
                .join (fun k44 => .ite (.bind .emptyWord k44) (k44 ())) fun _ => .bind .lateSlot fun _ => .pure) <|
        .bind .irrevocable fun _ =>
        .bind .wordReady fun _ => .bind .lateSlot fun _ => .bind (.modify fun _ h45 => h45.sameMem rfl) fun _ => .pure

theorem Keeps.stfInstr {t base off hint} : Keeps (Machine.stfInstr t base off hint) :=
  .bind .address fun _ =>
  .bind .fullPlace fun _ =>
  .bind .readR fun _ =>
  .bind .getC fun _ => .get fun _ _ => .join (fun k3 => .ite (.bind .throw k3) (k3 ())) fun _ => .andNext .storeTo

/-! ### Scales and tiles -/

theorem Keeps.saveSettled : Keeps Machine.saveSettled := .bind .getC fun _ => .waitUntil

theorem Keeps.beforeScaleWrite {ks ts} : Keeps (Machine.beforeScaleWrite ks ts) :=
  .bind .getC fun _ => .bind .needsShared fun _ => .bind .waitUntil fun _ => .ite .irrevocable .pure

theorem Keeps.cancelScales {ks ts} : Keeps (Machine.cancelScales ks ts) :=
  .bind (.forIn fun _ _ => .bind .cancels fun _ => .pure) fun _ =>
  .bind (.forIn fun _ _ => .bind .cancels fun _ => .pure) fun _ => .pure

theorem Keeps.readRind {k} : Keeps (Machine.readRind k) := .bind .needsShared fun _ => .bind .getC fun _ => .pure

theorem Keeps.writeRindM {k l} : Keeps (Machine.writeRindM k l) := .bind .cancelScales fun _ => .modC

theorem Keeps.kop2 {f kd ka kb} : Keeps (Machine.kop2 f kd ka kb) :=
  .bind .saveSettled fun _ =>
  .bind .readRind fun _ => .bind .readRind fun _ => .bind .beforeScaleWrite fun _ => .andNext .writeRindM

theorem Keeps.kmov {kd ka} : Keeps (Machine.kmov kd ka) :=
  .bind .saveSettled fun _ => .bind .readRind fun _ => .bind .beforeScaleWrite fun _ => .andNext .writeRindM

theorem Keeps.kset {kd r} : Keeps (Machine.kset kd r) :=
  .bind .saveSettled fun _ => .bind .readR fun _ => .bind .beforeScaleWrite fun _ => .andNext .writeRindM

theorem Keeps.kfromv {kd vr} : Keeps (Machine.kfromv kd vr) :=
  .bind .saveSettled fun _ => .bind .readRow fun _ => .bind .beforeScaleWrite fun _ => .andNext .writeRindM

theorem Keeps.ktov {vr ka} : Keeps (Machine.ktov vr ka) :=
  .bind .saveSettled fun _ => .bind .readRind fun _ => .bind .readRow fun _ => .andNext .writeRow

theorem Keeps.kbind {kd tag r} : Keeps (Machine.kbind kd tag r) :=
  .bind .saveSettled fun _ =>
  .bind .readClean fun _ =>
  .bind .readRind fun _ => .bind .beforeScaleWrite fun _ => .bind .cancelScales fun _ => .bind .modC fun _ => .pure

theorem Keeps.kunbind {tag} : Keeps (Machine.kunbind tag) :=
  .bind .saveSettled fun _ => .bind .beforeScaleWrite fun _ => .bind .cancelScales fun _ => .bind .modC fun _ => .pure

theorem Keeps.kgen {r ka} : Keeps (Machine.kgen r ka) :=
  .bind .saveSettled fun _ => .bind .readRind fun _ => .andNext .writeR

theorem Keeps.ttRead {x} : Keeps (Machine.ttRead x) :=
  .get fun _ h2 =>
  by
    dsimp only
    split
    · exact .pure
    · exact .ite (.bind (.set h2.withCore) fun _ => .pure) <| .bind (.set (h2.sameMem rfl)) fun _ => .pure

theorem Keeps.ttset {a b} : Keeps (Machine.ttset a b) :=
  .bind .saveSettled fun _ =>
  .bind .readClean fun _ =>
  .bind .readClean fun _ =>
  .bind .readClean fun _ =>
  .bind .readClean fun _ => .bind .readClean fun _ => .bind .faultIf fun _ => .bind .modC fun _ => .pure

theorem Keeps.ttget {d a} : Keeps (Machine.ttget d a) :=
  .bind .saveSettled fun _ =>
  .bind .readClean fun _ => .bind .uncheck fun _ => .bind .getC fun _ => .bind .writeRun fun _ => .pure

theorem Keeps.ttinv {a} : Keeps (Machine.ttinv a) :=
  .bind .saveSettled fun _ => .bind .readClean fun _ => .bind .modC fun _ => .pure

theorem Keeps.codebookCopy {b bs} : Keeps (Machine.codebookCopy b bs) :=
  .ite .pure <|
  .bind .readClean fun _ =>
  .bind .faultIf fun _ =>
  .bind .getC fun _ =>
  .bind .faultIf fun _ =>
  .bind .faultIf fun _ =>
  .bind .getC fun _ => .join (fun k2 => .ite (.bind .irrevocable k2) (k2 ())) fun _ => .storeHere

theorem Keeps.tcb {a b} : Keeps (Machine.tcb a b) :=
  .bind .saveSettled fun _ =>
  .bind .readClean fun _ =>
  .bind .ttRead fun _ =>
  .bind .faultIf fun _ =>
  .bind .accessReady fun _ =>
  .bind .faultIf fun _ =>
  .bind .locate fun _ =>
  .bind .watched fun _ => .bind .readNow fun _ => .bind .modC fun _ => .bind (.standing .codebookCopy) fun _ => .pure

theorem Keeps.tileOperands {a b} : Keeps (Machine.tileOperands a b) :=
  .bind .readClean fun _ =>
  .bind .readClean fun _ =>
  .bind .readClean fun _ =>
  .bind .ttRead fun _ =>
  .bind .faultIf fun _ =>
  .bind .faultIf fun _ => .bind .faultIf fun _ => .bind .getC fun _ => .bind .faultIf fun _ => .pure

theorem Keeps.runPages {spec k rs ps} : Keeps (Machine.runPages spec k rs ps) := by
  induction rs generalizing ps with
  | nil => exact .pure
  | cons r rs ih =>
    exact .bind (.mapM fun _ => .bind .faultIf fun _ => .bind .xlat fun _ => .pure) fun _ => ih

theorem Keeps.tilePages {spec k runs} : Keeps (Machine.tilePages spec k runs) :=
  .bind .runPages fun _ => .bind (.forIn fun _ _ => .bind .watchedFor fun _ => .pure) fun _ => .pure

theorem State.Canonical.readVirtual {want core pages own va n} (h : s.Canonical) :
    (s.readVirtual want core pages own va n).2.Canonical := by
  refine h.foldlSnd fun ⟨_, _⟩ _ k => ?_
  dsimp only
  split
  · exact k
  · exact k.readFor

theorem State.Canonical.tileRow {core t pages own i} (h : s.Canonical) : (s.tileRow core t pages own i).2.Canonical :=
  h.readVirtual

theorem State.Canonical.tileScales {core t pages own first} (h : s.Canonical) :
    (s.tileScales core t pages own first).2.Canonical := by
  refine h.foldlSnd fun ⟨_, _⟩ _ k => ?_
  dsimp only
  split
  · exact k
  · exact k.readVirtual

theorem State.Canonical.serveTile {r t dst pages} (h : s.Canonical) : (s.serveTile r t dst pages).Canonical :=
  .serve <| .tileScales <| .tileScales <| .modCore (h.foldlSnd fun _ _ h2 => h2.tileRow)

theorem Keeps.tld {kd tag a b l} : Keeps (Machine.tld kd tag a b l) :=
  .bind .takeSlot fun _ =>
  .bind .saveSettled fun _ =>
  .bind .tileOperands fun _ =>
  .bind .faultIf fun _ =>
  .bind .accessReady fun _ =>
  .bind .tilePages fun _ =>
  .bind (.forIn fun _ _ => .bind .globalRead fun _ => .pure) fun _ =>
  .bind .beforeScaleWrite fun _ =>
  .bind .getC fun _ => .join (fun k2 => .ite (.bind .irrevocable k2) (k2 ())) fun _ => .get fun _ _ => .request

theorem Keeps.tilePiece {seq xs nib va bs} : Keeps (Machine.tilePiece seq xs nib va bs) :=
  .bind (.forIn fun _ _ => by dsimp only; split; exacts [.pure, .get fun _ _ => .bind .bufferStore fun _ => .pure]) fun _ =>
  .pure

theorem Keeps.tileRowOut {t dst i} : Keeps (Machine.tileRowOut t dst i) := .bind .readHere fun _ => .pure

theorem Keeps.tileStore {seq xs edges va bs} : Keeps (Machine.tileStore seq xs edges va bs) :=
  .bind .poisonedOutput fun _ =>
  .bind .digestStore fun _ =>
  .join (fun k2 => .ite (.bind .tilePiece k2) (k2 ())) fun _ =>
  .join (fun k3 => .ite (.bind .tilePiece k3) (k3 ())) fun _ => .ite .tilePiece .pure

theorem Keeps.tst {kd a b} : Keeps (Machine.tst kd a b) :=
  .bind .saveSettled fun _ =>
  .bind .tileOperands fun _ =>
  .bind .faultIf fun _ =>
  .bind .accessReady fun _ =>
  .bind .readRind fun _ =>
  .bind (.ite (.bind .readRind fun _ => .pure) .pure) fun _ =>
  .bind .tilePages fun _ =>
  .bind (.stateOf fun _ h2 => h2.takeUid) fun _ =>
  .bind (.forIn fun _ _ => .ite (.bind .tileRowOut fun _ => .bind .tileStore fun _ => .pure) .pure) fun _ =>
  .bind (.forIn fun _ _ => .bind .tileStore fun _ => .pure) fun _ => .pure

theorem Keeps.kmemPlaces {r unit n k} : Keeps (Machine.kmemPlaces r unit n k) :=
  .bind .saveSettled fun _ =>
  .bind .readClean fun _ =>
  .bind .accessReady fun _ =>
  .bind .faultIf fun _ =>
  .bind (.mapM fun _ => .bind .locate fun _ => .pure) fun _ =>
  .bind (.forIn fun _ _ => .bind .watchedFor fun _ => .pure) fun _ => .pure

theorem Keeps.kmemRead {ps taint} : Keeps (Machine.kmemRead ps taint) := .bind (.mapM fun _ => .readNow) fun _ => .pure

theorem Keeps.kmemWrite {ps bs} : Keeps (Machine.kmemWrite ps bs) :=
  .bind (.stateOf fun _ h2 => h2.takeUid) fun _ =>
  .bind (.forIn fun _ _ => .bind .storePart fun _ => .pure) fun _ => .pure

theorem Keeps.kld {kd r} : Keeps (Machine.kld kd r) :=
  .bind .kmemPlaces fun _ => .bind .kmemRead fun _ => .bind .beforeScaleWrite fun _ => .andNext .writeRindM

theorem Keeps.kst {ka r} : Keeps (Machine.kst ka r) :=
  .bind .kmemPlaces fun _ => .bind .readRind fun _ => .andNext .kmemWrite

theorem Keeps.ksave {r} : Keeps (Machine.ksave r) :=
  .bind .kmemPlaces fun _ =>
  .bind (.forIn fun _ _ => .bind .needsShared fun _ => .bind .needsShared fun _ => .pure) fun _ =>
  .bind .getC fun _ => .andNext .kmemWrite

theorem Keeps.krestore {r} : Keeps (Machine.krestore r) :=
  .bind .kmemPlaces fun _ =>
  .bind .kmemRead fun _ =>
  .bind .beforeScaleWrite fun _ => .bind (.forIn fun _ _ => .bind .writeRindM fun _ => .pure) fun _ => .pure

/-! ### The press -/

theorem State.Canonical.putRamp {r} (h : s.Canonical) : (s.putRamp r).Canonical := h.sameMem rfl

theorem State.Canonical.pressMeet {la n} (h : s.Canonical) : (s.pressMeet la n).Canonical :=
  .ite h (h.foldl fun _ _ h2 => .ite h2 h2.meetDword)

theorem State.Canonical.startSlot {k} (h : s.Canonical) : (s.startSlot k).Canonical :=
  .withCore <| .putRamp <| .ite h h.trace

theorem State.Canonical.stopSlot {k code} (h : s.Canonical) : (s.stopSlot k code).Canonical := h.withCore

theorem State.Canonical.readNext {k r t} (h : s.Canonical) (e : s.readNext = some (k, r, t)) : t.Canonical := by
  unfold State.readNext at e
  split at e
  · exact nomatch e
  · obtain ⟨-, -, rfl⟩ := e
    exact h.pressMeet

theorem Lands.startCommand {cmd effect} (h : s.Canonical) : Lands (Machine.startCommand cmd effect s) := by
  unfold Machine.startCommand
  split
  · exact .nothing h
  · next e =>
    have k := h.readNext e
    split
    · exact .nothing h
    · exact .ite (.nothing h) <| .ite (.happens (k.sameMem rfl)) <|
        .happens (State.Canonical.withCore (.startSlot (.foldl (.foldl k fun _ _ h => h.pressMeet) fun _ _ h => h.meetTile)))

theorem Lands.execPressFault (h : s.Canonical) : Lands (Machine.execPressFault s) := by
  unfold Machine.execPressFault
  split
  · next e => exact .happens ((h.readNext e).sameMem rfl)
  · exact .nothing h

theorem Lands.execLoadw {fmt tag tagh tv addr stride} (h : s.Canonical) :
    Lands (Machine.execLoadw fmt tag tagh tv addr stride s) :=
  .startCommand h

theorem Lands.execFlip (h : s.Canonical) : Lands (Machine.execFlip s) :=
  .startCommand h

theorem Lands.execStream {fmt tag tv acc row0 m addr stride} (h : s.Canonical) :
    Lands (Machine.execStream fmt tag tv acc row0 m addr stride s) :=
  .startCommand h

theorem Lands.execStreamt {fmt tag tv acc row0 m addr stride} (h : s.Canonical) :
    Lands (Machine.execStreamt fmt tag tv acc row0 m addr stride s) :=
  .startCommand h

theorem Lands.execTload {fmt row0 m addr stride} (h : s.Canonical) :
    Lands (Machine.execTload fmt row0 m addr stride s) :=
  .startCommand h

theorem Lands.execTloadt {fmt row0 m addr stride} (h : s.Canonical) :
    Lands (Machine.execTloadt fmt row0 m addr stride s) :=
  .startCommand h

theorem State.Canonical.wakeWaiters {spans} (h : s.Canonical) : (s.wakeWaiters spans).Canonical :=
  h.foldl fun _ _ h2 => h2.foldl fun _ _ h3 => .ite h3 h3.serveWaiters

theorem Lands.execTdrain {fmt clr row0 m addr stride addr2} (h : s.Canonical) :
    Lands (Machine.execTdrain fmt clr row0 m addr stride addr2 s) := by
  unfold Machine.execTdrain
  split
  · next e =>
    have k := Lands.startCommand h _ e
    exact .ite (.next k) (.next k.wakeWaiters)
  · exact .startCommand h

theorem Lands.execTzero {row0 m} (h : s.Canonical) : Lands (Machine.execTzero row0 m s) :=
  .startCommand h

theorem Lands.execPmode {narrow integer} (h : s.Canonical) : Lands (Machine.execPmode narrow integer s) :=
  .startCommand h

theorem Lands.execPtable {addr addr2} (h : s.Canonical) : Lands (Machine.execPtable addr addr2 s) :=
  .startCommand h

theorem Lands.execPmark {inc} (h : s.Canonical) : Lands (Machine.execPmark inc s) :=
  .startCommand h

theorem Lands.execPsave {addr} (h : s.Canonical) : Lands (Machine.execPsave addr s) :=
  .startCommand h

theorem Lands.execPrestore {addr} (h : s.Canonical) : Lands (Machine.execPrestore addr s) := by
  unfold Machine.execPrestore
  split
  · next e =>
    have k := h.readNext e
    exact .ite (.nothing h) <| .ite (.happens k.stopSlot) <|
      .ite (.happens k.pressMeet.stopSlot) (.happens k.pressMeet.startSlot.withCore)
  · exact .nothing h

theorem Lands.execPressRetire {slot} (h : s.Canonical) : Lands (Machine.execPressRetire slot s) :=
  .ite (.nothing h) <| .happens h.withCore

theorem Keeps.retryTags : Keeps Machine.retryTags :=
  .bind .getC fun _ =>
  by split; exacts [.pure, .bind (.forIn fun _ _ => .bind .needsShared fun _ => .pure) fun _ => .pure]

theorem Keeps.pressRetry : Keeps Machine.pressRetry := .bind .getC fun _ => .ite (.bind .retryTags fun _ => .modC) .pure

theorem Keeps.pressSkip : Keeps Machine.pressSkip := .modC

theorem Keeps.pressFlush : Keeps Machine.pressFlush := .bind .getC fun _ => .bind .waitUntil fun _ => .modC

theorem Keeps.pressOvClear : Keeps Machine.pressOvClear := .modC

theorem Lands.pressEvent {act} (h : s.Canonical) (ha : Keeps act) : Lands (Machine.pressEvent act s) := by
  unfold Machine.pressEvent
  split
  · next e => exact .happens (ha.ok h e)
  · exact .nothing h

theorem Lands.execRetry (h : s.Canonical) : Lands (Machine.execRetry s) := .pressEvent h .pressRetry

theorem Lands.execSkip (h : s.Canonical) : Lands (Machine.execSkip s) := .pressEvent h .pressSkip

theorem Lands.execFlush (h : s.Canonical) : Lands (Machine.execFlush s) := .pressEvent h .pressFlush

theorem Lands.execOvClear (h : s.Canonical) : Lands (Machine.execOvClear s) := .pressEvent h .pressOvClear

theorem Keeps.writePstatus {v} : Keeps (Machine.writePstatus v) := by
  unfold Machine.writePstatus
  dsimp only
  split
  · exact .bind .pressRetry fun _ => .ite .pressOvClear .pure
  · exact .bind .pressSkip fun _ => .ite .pressOvClear .pure
  · exact .bind .pressFlush fun _ => .ite .pressOvClear .pure
  · exact .ite .pressOvClear .pure

theorem Keeps.pcmd {first sel} : Keeps (Machine.pcmd first sel) := by
  have put (x : Option Val × Nat) (c : Core) : Keeps (do
      match x.1 with
      | none => Pure.pure ()
      | some v => Machine.modC (fun d => d.putLocal (64 * c.press.tail.toNat + 8 * x.2) (dwordBytes v.bits) (List.replicate 8 v.poison))
      Pure.pure (ForInStep.yield PUnit.unit) : M (ForInStep PUnit)) := by
    cases x.1 with
    | none => exact .bind .pure fun _ => .pure
    | some _ => exact .bind .modC fun _ => .pure
  exact .bind .readClean fun _ =>
    .bind .getC fun c =>
    .bind .waitUntil fun _ =>
    .bind (.mapM fun _ => .ite .pure <| .bind .readR fun _ => .pure) fun _ =>
    .bind .pushWaits fun _ =>
    .join (fun k => .ite (.bind .irrevocable k) (k ())) fun _ =>
    .bind (.forIn fun x _ => put x c) fun _ =>
    .bind .pushTail fun _ => .pure

theorem Keeps.pwait {d a} : Keeps (Machine.pwait d a) :=
  .bind .readClean fun _ => .bind .uncheck fun _ => .bind .getC fun _ => .bind .waitUntil fun _ => .andNext .writeR

theorem Keeps.pfence : Keeps Machine.pfence := .bind .getC fun _ => .bind .waitUntil fun _ => .pure

theorem Keeps.pstat {d} : Keeps (Machine.pstat d) := .bind .uncheck fun _ => .bind .getC fun _ => .andNext .writeR

theorem Lands.execRampWindow {cluster} (h : s.Canonical) : Lands (Machine.execRampWindow cluster s) :=
  .happens <| .putRamp <| .ite (.sameMem (h.foldl fun _ _ h2 => h2.modCore) rfl) (h.foldl fun _ _ h3 => h3.modCore)

theorem Lands.execFillerOperationEnd {core} (h : s.Canonical) : Lands (Machine.execFillerOperationEnd core s) :=
  .ite (.nothing h) <| .happens h.modCore

theorem Lands.execPowerReport {watts} (h : s.Canonical) : Lands (Machine.execPowerReport watts s) :=
  .happens <| .ite (h.sameMem rfl) (h.sameMem rfl)

/-! ### Kernels -/

theorem State.Canonical.dispRead {ctx va n} (h : s.Canonical) : (s.dispRead ctx va n).2.Canonical := by
  unfold State.dispRead
  refine .iteSnd h ?_
  split
  · next e => exact h.agentXlat.ofEq e
  · next e =>
    have k := h.agentXlat.ofEq e
    exact .iteSnd k (.iteSnd k.outsideFor k.homeRead)

theorem State.Canonical.dispTable {ctx va size n} (h : s.Canonical) : (s.dispTable ctx va size n).2.Canonical := by
  induction n with
  | zero => exact h
  | succ n ih =>
    unfold State.dispTable
    split
    · exact ih.ofEq ‹_›
    · split
      · exact (ih.ofEq ‹_›).dispRead.ofEq ‹_›
      · exact (ih.ofEq ‹_›).dispRead.ofEq ‹_›

theorem State.Canonical.dispAtomic {ctx va qs} (h : s.Canonical) : (s.dispAtomic ctx va qs).2.Canonical :=
  .iteSnd
    h
    (by
        split
        · next e2 => exact h.agentXlat.ofEq e2
        · next e3 => exact .iteSnd (h.agentXlat.ofEq e3) (h.agentXlat.ofEq e3))

theorem State.Canonical.atomicOk {ctx va qs} (h : s.Canonical) : (s.atomicOk ctx va qs).2.Canonical :=
  .iteSnd
    h
    (by
        split
        · next e2 => exact h.dispAtomic.ofEq e2
        · next e3 => exact h.dispAtomic.ofEq e3)

theorem State.Canonical.modKernel {ctx kid f} (h : s.Canonical) : (s.modKernel ctx kid f).Canonical := h.sameMem rfl

theorem State.Canonical.kernelRecord {k reason} (h : s.Canonical) : (s.kernelRecord k reason).Canonical := h.recordCtx

theorem State.Canonical.kernelFails {k status reason} (h : s.Canonical) : (s.kernelFails k status reason).Canonical :=
  h.kernelRecord.modKernel

theorem State.Canonical.headerTable {k off size n} (h : s.Canonical) : (s.headerTable k off size n).2.Canonical :=
  .iteSnd h h.dispTable

theorem State.Canonical.readKernel {k} (h : s.Canonical) : (s.readKernel k).2.Canonical := by
  unfold State.readKernel
  refine .iteSnd h ?_
  split
  · next e => exact h.dispTable.ofEq e
  · next e =>
    have h1 := h.dispTable.ofEq e
    extract_lets
    split
    · next e => exact h1.headerTable.ofEq e
    · next e =>
      have h2 := h1.headerTable.ofEq e
      split
      · next e => exact h2.headerTable.ofEq e
      · next e =>
        have h3 := h2.headerTable.ofEq e
        split
        · next e => exact h3.headerTable.ofEq e
        · next e =>
          have h4 := h3.headerTable.ofEq e
          split
          · next e => exact h4.headerTable.ofEq e
          · next e => exact h4.headerTable.ofEq e

theorem State.Canonical.launchAddrs {k} (h : s.Canonical) : (s.launchAddrs k).2.Canonical := by
  unfold State.launchAddrs
  generalize e : (if lWaddr k.pkt 0 = 0 then _ else _ : Bool × State) = p
  obtain ⟨w0, t⟩ := p
  have h1 := State.Canonical.ofEq (.iteSnd h h.atomicOk) e
  dsimp only
  generalize e : (if lWaddr k.pkt 1 = 0 then _ else _ : Bool × State) = p
  obtain ⟨w1, u⟩ := p
  have h2 := State.Canonical.ofEq (.iteSnd h1 h1.atomicOk) e
  dsimp only
  split
  · exact h2
  · exact h2
  · exact h2.atomicOk

theorem State.Canonical.waitMet {k i} (h : s.Canonical) : (s.waitMet k i).2.Canonical :=
  .iteSnd
    h
    (by
        split
        · next e2 => exact h.dispRead.ofEq e2
        · next e3 => exact h.dispRead.ofEq e3)

theorem State.Canonical.testKernel {k} (h : s.Canonical) : (s.testKernel k).Canonical :=
  .ite (.modKernel <| .takeUid <| .iteSnd (.iteSnd h h.waitMet) <| .waitMet <| .iteSnd h h.waitMet) <|
  .modKernel <| .iteSnd (.iteSnd h h.waitMet) <| .waitMet <| .iteSnd h h.waitMet

theorem Lands.tested {t} (h : t.Canonical) : Lands (Machine.tested s t) := by
  unfold Machine.tested
  split
  · next e => exact .nothing (e ▸ h)
  · exact .happens h

theorem State.Canonical.noticeWrites (h : s.Canonical) : s.noticeWrites.Canonical :=
  h.foldl fun _ _ h2 => h2.testKernel

theorem State.Canonical.launchKernel {ctx queue index pkt} (h : s.Canonical) :
    (s.launchKernel ctx queue index pkt).Canonical :=
  .ite (.kernelFails (h.modPart.readKernel.launchAddrs.sameMem rfl)) <|
  .testKernel (h.modPart.readKernel.launchAddrs.sameMem rfl)

theorem Lands.execKernelEligibilityTest {ctx kid} (h : s.Canonical) :
    Lands (Machine.execKernelEligibilityTest ctx kid s) := by
  unfold Machine.execKernelEligibilityTest
  split
  · exact .nothing h
  · exact .ite (.tested h.testKernel) <| .nothing h

theorem State.Canonical.reserveIfDue {k} (h : s.Canonical) : (s.reserveIfDue k).Canonical := .ite h.modKernel h

theorem Lands.execAgeTick {ctx kid} (h : s.Canonical) : Lands (Machine.execAgeTick ctx kid s) := by
  unfold Machine.execAgeTick
  split
  · exact .nothing h
  · exact .ite (.happens h.modKernel.reserveIfDue) <| .nothing h

theorem State.Canonical.evictCheck {core} (h : s.Canonical) : (s.evictCheck core).Canonical := by
  unfold State.evictCheck
  dsimp only
  split
  · exact h
  · split
    · exact h
    · exact .withdraw <| .putCore (h.sameMem rfl)

theorem State.Canonical.emptyChannels {core} (h : s.Canonical) : (s.emptyChannels core).Canonical :=
  .foldl (h.sameMem rfl) fun _ _ h2 => h2.modCore

theorem State.Canonical.loadCore {k i core} (h : s.Canonical) : (s.loadCore k i core).Canonical :=
  h.evictCheck.emptyChannels.modCore

theorem State.Canonical.loadGroups {k cohort mates now g l} {s : State} (h : s.Canonical) :
    (s.loadGroups k cohort mates now g l).Canonical := by
  induction l generalizing g s with
  | nil => exact h
  | cons x l ih => exact ih (h.foldl fun _ _ h => h.loadCore)

theorem State.Canonical.makeCounters {k} (h : s.Canonical) : (s.makeCounters k).Canonical := h.sameMem rfl

theorem State.Canonical.placeCohort {k groups} (h : s.Canonical) : (s.placeCohort k groups).Canonical :=
  .ite h.kernelFails <| .modKernel <| .modPart <| .sameMem (.loadGroups <| .takeUid <| .ite h h.makeCounters) rfl

theorem State.Canonical.failUnplaceable {ks} (h : s.Canonical) : (s.failUnplaceable ks).Canonical :=
  h.foldl fun _ _ h2 => .ite h2.kernelFails h2

theorem Lands.execCohortPlace {part} (h : s.Canonical) : Lands (Machine.execCohortPlace part s) := by
  unfold Machine.execCohortPlace
  split
  · exact .nothing h
  · dsimp only
    split
    · exact .ite (.nothing h) <| .happens (h.failUnplaceable.foldl fun _ _ h5 => h5.reserveIfDue)
    · split
      · exact .ite (.nothing h) <| .happens (h.failUnplaceable.foldl fun _ _ h8 => h8.reserveIfDue)
      · exact .happens <|
          .foldl (.placeCohort (h.failUnplaceable.foldl fun _ _ h10 => h10.reserveIfDue)) fun _ _ h11 =>
          h11.reserveIfDue

theorem State.Canonical.startCore {k core rank} (h : s.Canonical) : (s.startCore k core rank).Canonical :=
  h.foldl fun _ _ h2 => h2.takeUid.modCore

theorem Lands.execCohortStart {ctx kid cohort} (h : s.Canonical) :
    Lands (Machine.execCohortStart ctx kid cohort s) := by
  unfold Machine.execCohortStart
  split
  · exact .ite (.nothing h) <| .happens <| .foldl (h.sameMem rfl) fun _ _ h3 => h3.foldl fun _ _ h4 => h4.startCore
  · exact .nothing h

theorem State.Canonical.settleDue {core} (h : s.Canonical) : (s.settleDue core).Canonical := h.modCore

theorem State.Canonical.endCohort {ctx kid cohort cores} (h : s.Canonical) :
    (s.endCohort ctx kid cohort cores).Canonical :=
  .modKernel <| .foldl (h.commitAll.sameMem rfl) fun _ _ h2 => h2.modCore.settleDue

theorem Lands.execCohortEnd {ctx kid cohort} (h : s.Canonical) : Lands (Machine.execCohortEnd ctx kid cohort s) := by
  unfold Machine.execCohortEnd
  split
  · exact .ite (.happens h.endCohort) <| .nothing h
  · exact .nothing h

theorem State.Canonical.dispStf {t v} (h : s.Canonical) : (s.dispStf t v).Canonical := h.perform

theorem State.Canonical.signalKernel {k} (h : s.Canonical) : (s.signalKernel k).2.Canonical := by
  unfold State.signalKernel
  dsimp only
  refine .iteSnd h ?_
  split
  · next e => exact h.dispAtomic.ofEq e
  · next e => exact h.dispAtomic.ofEq e
  · next e => exact h.dispAtomic.ofEq e
  · next e =>
    have k := h.dispAtomic.ofEq e
    split
    · dsimp only
      exact k.atomic
    · exact k.dispStf

theorem Lands.execKernelComplete {ctx kid} (h : s.Canonical) : Lands (Machine.execKernelComplete ctx kid s) := by
  unfold Machine.execKernelComplete
  split
  · exact .nothing h
  · refine .ite (.nothing h) (.ite (.nothing h) ?_)
    split
    next e =>
    have k := h.signalKernel.ofEq e
    dsimp only
    split
    · exact .happens (.packetDone (.sameMem k rfl))
    · exact .happens (.queueError (.recordCtx (.packetDone (.sameMem k rfl))))

/-! ### Packets -/

theorem Lands.execPacketConsume {ctx num} (h : s.Canonical) : Lands (Machine.execPacketConsume ctx num s) := by
  unfold Machine.execPacketConsume
  split
  · exact .nothing h
  · next q _ =>
    refine .ite (.nothing h) ?_
    extract_lets p key
    split
    next e =>
    have k := (h.readPhys.ofEq e).putFull (t := .phys key) (full := false)
    exact .ite (.happens k.modQueue.queueRecord.queueError) (.happens k.modQueue)

theorem State.Canonical.started {ctx num index complete} (h : s.Canonical) :
    (s.started ctx num index complete).Canonical := by
  unfold State.started
  split
  · exact h
  · exact h.modQueue

theorem State.Canonical.refusePacket {ctx num k} (h : s.Canonical) : (s.refusePacket ctx num k).Canonical :=
  h.packetDone.queueRecord.queueError

theorem Lands.execNopPacket {ctx num} (h : s.Canonical) : Lands (Machine.execNopPacket ctx num s) := by
  unfold Machine.execNopPacket
  split
  · exact .nothing h
  · exact .happens h.started

theorem Lands.execLaunch {ctx num} (h : s.Canonical) : Lands (Machine.execLaunch ctx num s) := by
  unfold Machine.execLaunch
  split
  · exact .nothing h
  · exact .happens h.started.launchKernel

theorem Lands.execCopyPacket {ctx num} (h : s.Canonical) : Lands (Machine.execCopyPacket ctx num s) := by
  unfold Machine.execCopyPacket
  split
  · exact .nothing h
  · dsimp only
    split
    · exact .happens h.started.queueRecord.queueError
    · exact .ite (.nothing h) <| .happens h.takeUid.started.acceptCopy

theorem Lands.signal {ctx num op act} (h : s.Canonical)
    (ha : ∀ s p t thru v, s.Canonical → (act s p t thru v).Canonical) : Lands (s.signal ctx num op act) := by
  unfold State.signal
  split
  · exact .nothing h
  · refine .ite (.nothing h) <| .ite (.happens h.refusePacket) ?_
    split
    · exact .happens (h.dispAtomic.ofEq ‹_›).refusePacket
    · exact .happens (ha _ _ _ _ _ (h.dispAtomic.ofEq ‹_›).started)

theorem Lands.execSignalStore {ctx num} (h : s.Canonical) : Lands (Machine.execSignalStore ctx num s) :=
  .signal h fun _ _ _ _ _ h2 => h2.atomic

theorem Lands.execSignalAdd {ctx num} (h : s.Canonical) : Lands (Machine.execSignalAdd ctx num s) :=
  .signal h fun _ _ _ _ _ h2 => h2.atomic

theorem Lands.execSignalStoreFull {ctx num} (h : s.Canonical) : Lands (Machine.execSignalStoreFull ctx num s) :=
  .signal h fun _ _ _ _ _ h2 => h2.dispStf

theorem State.Canonical.waitTest {ctx k} (h : s.Canonical) : (s.waitTest ctx k).2.Canonical := by
  unfold State.waitTest
  split
  · next e2 => exact h.dispRead.ofEq e2
  · next e3 => exact h.dispRead.ofEq e3

theorem State.Canonical.testWait {ctx num k} (h : s.Canonical) : (s.testWait ctx num k).Canonical :=
  h.waitTest.started.modQueue

theorem State.Canonical.noticeWaits (h : s.Canonical) : s.noticeWaits.Canonical :=
  h.foldl fun _ _ h2 => by split; exacts [h2, h2.testWait]

theorem Lands.execWait {ctx num} (h : s.Canonical) : Lands (Machine.execWait ctx num s) := by
  unfold Machine.execWait
  split
  · exact .nothing h
  · split
    · next e4 => exact .happens (h.atomicOk.ofEq e4).refusePacket
    · next e5 => exact .happens (h.atomicOk.ofEq e5).testWait

theorem Lands.execWaitRetest {ctx num} (h : s.Canonical) : Lands (Machine.execWaitRetest ctx num s) := by
  unfold Machine.execWaitRetest
  split
  · exact .nothing h
  · split
    · exact .nothing h
    · exact .ite (.tested h.testWait) <| .nothing h

/-! ### Traffic -/

theorem State.Canonical.serveRead {r} (h : s.Canonical) : (s.serveRead r).Canonical := by
  unfold State.serveRead
  split
  · exact h.readFor.serve.countTier2
  · exact h.readFor.serve.countTier2
  · exact h.readFor.countTier2
  · exact h.serveTile
  · exact h

theorem Lands.execSliceRead {uid} (h : s.Canonical) : Lands (Machine.execSliceRead uid s) := by
  unfold Machine.execSliceRead
  split
  · exact .nothing h
  · exact .ite (.happens h.serveRead.markServed) <| .nothing h

theorem State.Canonical.waited {core} (h : s.Canonical) : (s.waited core).Canonical := h.takeFree.modCore

theorem State.Canonical.respond {r delay} (h : s.Canonical) : (s.respond r delay).Canonical := by
  unfold State.respond
  dsimp only
  refine .onCore (.waited ?_) fun _ k => k.arriveSlot
  split
  · exact .modCore (h.sameMem rfl)
  · exact h.sameMem rfl

theorem Lands.execLoadResponse {uid delay} (h : s.Canonical) : Lands (Machine.execLoadResponse uid delay s) := by
  unfold Machine.execLoadResponse
  split
  · exact .nothing h
  · exact .ite (.happens h.respond) <| .ite (.happens h.serveRead.respond) <| .nothing h

theorem State.Canonical.drainBuf {hi core} : ∀ {ms} {s : State}, s.Canonical → (State.drainBuf hi core ms s).Canonical
  | [], _, h => h
  | _ :: _, _, h => .ite h (.drainBuf (.modCore h.takeUid))

theorem State.Canonical.drainIn {core} (h : s.Canonical) : (s.drainIn core).Canonical := h.drainBuf.drainBuf

theorem State.Canonical.deliver {m} (h : s.Canonical) : (s.deliver m).Canonical := h.modCore.drainIn

theorem Lands.sendOut {src k} (h : s.Canonical) : Lands (Machine.sendOut src k s) := by
  unfold Machine.sendOut
  dsimp only
  split
  · exact .nothing h
  · exact .ite (.nothing h) <|
      .ite (.happens h.modCore.deliver) <| .ite (.happens (h.modCore.sameMem rfl)) <| .nothing h

theorem Lands.execMessageArrival {src k} (h : s.Canonical) : Lands (Machine.execMessageArrival src k s) :=
  .ite (.sendOut h) (by split; exacts [.ite (.nothing h) <| .happens <| .deliver (h.sameMem rfl), .nothing h])

theorem State.Canonical.takeParcel {k} (h : s.Canonical) : (s.takeParcel k).Canonical := h.sameMem rfl

theorem Lands.execTokenWrite {k} (h : s.Canonical) : Lands (Machine.execTokenWrite k s) := by
  unfold Machine.execTokenWrite
  split
  · exact .ite
        (.nothing h)
        (by
            dsimp only
            split
            · exact .happens <| .modActor (h.takeParcel.foldl fun _ _ h4 => h4.fillDword)
            · exact .happens h.takeParcel)
  · exact .nothing h

theorem Lands.execReplyWrite {k} (h : s.Canonical) : Lands (Machine.execReplyWrite k s) := by
  unfold Machine.execReplyWrite
  split
  · exact .ite (.happens h.takeParcel.fillDword) <| .happens h.takeParcel
  · exact .nothing h

theorem Lands.execChannelDwordArrival {k} (h : s.Canonical) : Lands (Machine.execChannelDwordArrival k s) := by
  unfold Machine.execChannelDwordArrival
  split
  · exact .ite (.nothing h) <| .happens h.takeParcel.modCore
  · exact .nothing h

theorem Lands.execChannelCredit {k} (h : s.Canonical) : Lands (Machine.execChannelCredit k s) := by
  unfold Machine.execChannelCredit
  split
  · exact .happens h.takeParcel.modCore
  · exact .nothing h

theorem State.Canonical.retain {a d} (h : s.Canonical) : (s.retain a d).2.Canonical := h.takeUid.meetLocal.sameMem rfl

theorem State.Canonical.sample {a} (h : s.Canonical) : (s.sample a).2.Canonical := by
  unfold State.sample
  split
  · exact h
  · exact .iteSnd h <| .iteSnd h.withCore.retain h.withCore

theorem State.Canonical.startAct {a} (h : s.Canonical) : (s.startAct a).Canonical :=
  .withCore <| .traceAct <| .sample <| .setBusy (by split; exacts [h.reserve, h])

theorem State.Canonical.resumeClaim {t frame} (h : s.Canonical) : (s.resumeClaim t frame).Canonical := by
  unfold State.resumeClaim
  split
  · exact h.withCore
  · exact h.withCore.applyAll

theorem Yields.startNext (h : s.Canonical) : Yields s.startNext := by
  unfold State.startNext
  dsimp only
  split
  · exact .none
  · split
    · exact .none
    · refine .some (.drainIn ?_)
      split
      · exact h.suspend.withCore.resumeClaim
      · exact h.suspend.withCore.startAct

theorem Lands.execActivationStart (h : s.Canonical) : Lands (Machine.execActivationStart s) := by
  unfold Machine.execActivationStart
  split
  · exact .nothing h
  · next e3 => exact .happens ((Yields.startNext h).ofSome e3)

theorem Lands.execActivationResume (h : s.Canonical) : Lands (Machine.execActivationResume s) :=
  .ite (.nothing h) (by split; exacts [.nothing h, .happens h.withCore])

theorem Lands.execActorFiring {actor} (h : s.Canonical) : Lands (Machine.execActorFiring actor s) := by
  unfold Machine.execActorFiring
  split
  · exact .ite (.nothing h) <| .happens h.takeUid.reserve.setBusy.withCore
  · exact .nothing h

theorem Lands.execRedelivery (h : s.Canonical) : Lands (Machine.execRedelivery s) := by
  unfold Machine.execRedelivery
  split
  · exact .nothing h
  · exact .ite (.ite (.nothing h.withCore) <| .happens h.withCore) <|
      .ite (.ite (.nothing h.withCore.returnRolled) <| .happens h.withCore.returnRolled) <|
      .happens <| .withCore (by split; exacts [h.withCore.returnRolled.reserve, h.withCore.returnRolled])

/-! ### Contexts -/

theorem State.Canonical.modWindow {w f} (h : s.Canonical) : (s.modWindow w f).Canonical := by
  unfold State.modWindow
  split
  · exact h.sameMem rfl
  · exact h.sameMem rfl

theorem State.Canonical.result {w r} (h : s.Canonical) : (s.result w r).Canonical := h.modWindow

theorem Lands.command {w f} (h : s.Canonical) (hf : ∀ d s, s.Canonical → Answers (f d s)) : Lands (s.command w f) := by
  unfold State.command
  split
  · exact .nothing h
  · next m _ =>
    refine .ite (.happens h.modWindow) ?_
    have k := hf (fun j => m.arg.getD j 0) s h
    split
    · next e => rw [e] at k; exact .happens (State.Canonical.result k)
    · exact .happens h.result
    · next e => rw [e] at k; exact .happens (State.Canonical.result k)
    · exact .happens h.result
    · next e => rw [e] at k; exact .happens (State.Canonical.modWindow k)

theorem State.Canonical.setArg {part j v} (h : s.Canonical) : (s.setArg part j v).Canonical := h.modWindow

theorem State.Canonical.passTo {part ctx} (h : s.Canonical) : (s.passTo part ctx).Canonical := h.sameMem rfl

theorem Lands.execCreate {part} (h : s.Canonical) : Lands (Machine.execCreate part s) :=
  .command h fun _ _ k => .ite .bad <| .ite .refused <| .ite (.done (.withContexts k.directWrite)) <|
    .done (.withContexts (.passTo (.foldl k.directWrite fun _ _ k => k.modCore)))

theorem State.Canonical.dropObjects {ctx} (h : s.Canonical) : (s.dropObjects ctx).Canonical := by
  unfold State.dropObjects
  dsimp only
  refine .foldl ?_ fun _ _ k => k.modCore
  exact State.Canonical.sameMem (State.Canonical.foldl h fun _ _ k => k.directWrite) rfl

theorem Lands.execDestroy {part ctx} (h : s.Canonical) : Lands (Machine.execDestroy part ctx s) :=
  .command h fun _ _ h2 =>
  .ite .bad (by split; exacts [.refused, .done <| .foldl (h2.dropObjects.sameMem rfl) fun _ _ h5 => h5.settleDue])

theorem Lands.execQcreate {part ctx} (h : s.Canonical) : Lands (Machine.execQcreate part ctx s) :=
  .command h fun _ _ h2 =>
  .ite
    .bad
    (by
        split
        · exact .refused
        · split
          · exact .refused
          · exact .ite .refused <| .done <| .setArg <| .directWrite <| .directWrite (h2.sameMem rfl))

theorem Lands.execQdestroy {part ctx q} (h : s.Canonical) : Lands (Machine.execQdestroy part ctx q s) := by
  refine .command h fun _ _ k => .ite .bad ?_
  split
  · exact .done (.directWrite (.sameMem k rfl))
  · exact .refused

theorem Lands.execQreset {part ctx q} (h : s.Canonical) : Lands (Machine.execQreset part ctx q s) :=
  .command h fun _ _ h2 => .ite .bad (by split; exacts [.ite .refused <| .done h2.modQueue, .refused])

theorem State.Canonical.unplace {ctx} (h : s.Canonical) : (s.unplace ctx).Canonical :=
  h.foldl fun _ _ h2 => by split; exacts [h2, .modKernel <| .sameMem (h2.foldl fun _ _ h5 => h5.modCore.settleDue) rfl]

theorem State.Canonical.withdrawAll {ctx} (h : s.Canonical) : (s.withdrawAll ctx).Canonical :=
  .foldl (h.foldl fun _ _ h2 => .ite h2.evictCheck h2) fun _ _ h3 => h3.modCore.withdraw

theorem Lands.execPreempt {part ctx} (h : s.Canonical) : Lands (Machine.execPreempt part ctx s) :=
  .command h fun _ _ h2 => .ite .bad (by split; exacts [.refused, .pending h2.unplace.withdrawAll.modCtx])

theorem Lands.execCorePreemptStop {core} (h : s.Canonical) : Lands (Machine.execCorePreemptStop core s) :=
  .ite (.nothing h) <| .happens <| .modCore (h.sameMem rfl)

theorem Lands.execCorePreemptAck {core} (h : s.Canonical) : Lands (Machine.execCorePreemptAck core s) :=
  .ite (.nothing h) <| .ite (.ite (.happens h.modCore) <| .nothing h) <| .ite (.nothing h) <| .happens h.modCore

theorem State.Canonical.writeRecords {c n} (h : s.Canonical) : (s.writeRecords c n).Canonical :=
  .directWrite (h.foldl fun _ _ h2 => h2.directWrite)

theorem Lands.execCopyOut {part} (h : s.Canonical) : Lands (Machine.execCopyOut part s) := by
  unfold Machine.execCopyOut
  split
  · exact .ite (.happens h.result) <| .nothing h
  · exact .ite (.nothing h) <|
      .happens <|
      .result <|
      .recordCtx <|
      .takeFree <|
      .foldl (.sameMem
          (.foldl (.modCtx <| .writeRecords (h.takeUid.takeUid.foldl fun _ _ h4 => h4.meetCore)) fun _ _ h5 =>
            h5.directWrite)
          rfl) fun _ _ h6 =>
      h6.modCore

theorem State.Canonical.recordStands {p key want} (h : s.Canonical) : (s.recordStands p key want).2.Canonical :=
  .iteSnd h h.readPhys

theorem State.Canonical.recordsStand {c v} (h : s.Canonical) : (s.recordsStand c v).2.Canonical := by
  refine h.foldlSnd fun acc x k => ?_
  split
  split
  extract_lets
  split
  next e =>
  exact State.Canonical.ofEq (.recordStands k) e

theorem State.Canonical.returnCore {x} (h : s.Canonical) : (s.returnCore x).Canonical := h.modCore

theorem Lands.execRestore {part ctx} (h : s.Canonical) : Lands (Machine.execRestore part ctx s) :=
  .command h fun _ _ h2 =>
  .ite
    .bad
    (by
        split
        · exact .refused
        · split
          · exact .refused
          · exact .ite .refused <| .ite (.failed h2.ctxError) <| .pending h2.modCtx)

theorem State.Canonical.putBack {c v} (h : s.Canonical) : (s.putBack c v).Canonical := by
  unfold State.putBack
  dsimp only
  refine .foldl (.foldl (.foldl (.modCtx ?_) fun _ _ k => k.directWrite) fun _ _ k => k.serveWaiters) fun _ _ k =>
    k.onCore fun _ k => k.testParked
  exact State.Canonical.sameMem (State.Canonical.foldl (State.Canonical.foldl h.passTo fun _ _ k => k.returnCore) fun _ r k =>
    (k.makeRoom (line := r.line) (tag := true) (way := true)).sameMem rfl) rfl

theorem Lands.restoreTurn {part} (h : s.Canonical) : Lands (s.restoreTurn part) := by
  unfold State.restoreTurn
  split
  · exact .nothing h
  · split
    · exact .nothing h
    · exact .ite (.happens <| .result <| .putBack <| .iteSnd h h.recordsStand) <|
        .happens <| .result <| .ctxError <| .iteSnd h h.recordsStand

/-! ### Fetch -/

theorem State.Canonical.codeHalf {va} (h : s.Canonical) : (s.codeHalf va).2.Canonical := by
  unfold State.codeHalf
  refine .iteSnd h ?_
  split
  · next e => exact h.translate.ofEq e
  · next e =>
    have k := h.translate.ofEq e
    extract_lets key
    split
    · exact k
    · split
      · exact .iteSnd k.outsideRead k.outsideRead
      · split
        · split
          next e =>
          have k := k.homeRead.ofEq e
          exact .iteSnd k (.ite k k.withCore)
        · split
          next e =>
          have k := k.homeRead.ofEq e
          exact .iteSnd k k

theorem State.Canonical.codeWord {va} (h : s.Canonical) : (s.codeWord va).2.Canonical := by
  unfold State.codeWord
  split
  · next e => exact h.codeHalf.ofEq e
  · next e =>
    have k := h.codeHalf.ofEq e
    split
    · exact k
    · extract_lets
      split
      · next e => exact k.codeHalf.ofEq e
      · next e => exact k.codeHalf.ofEq e

/-! ### Lane operands -/

theorem Keeps.putTile {i w outs mp} : Keeps (Machine.putTile i w outs mp) :=
  .join (fun k2 => .ite (.bind (.bind .getC fun _ => .pure) k2) <| .bind .readRow k2) fun _ => .writeRow

theorem Keeps.putStream {p w outs mp} : Keeps (Machine.putStream p w outs mp) :=
  .bind .readW fun _ =>
  .bind .getC fun _ =>
  .join (fun k2 => .ite (.bind .irrevocable k2) (k2 ())) fun _ =>
  .bind (.forIn fun _ _ =>
    .ite
      (.bind .getC fun _ =>
        .bind (.forIn fun _ _ =>
          .join (fun k3 => .ite (.bind .needs k3) (k3 ())) fun _ => .bind .cancels fun _ => .pure) fun _ =>
        .pure)
      .pure) fun _ =>
  .bind .getC fun _ => .modC

theorem Keeps.putChan {d w outs mp} : Keeps (Machine.putChan d w outs mp) :=
  .bind .needs fun _ => .bind .sendChan fun _ => .cancels

theorem Keeps.putOut {d w outs mp} : Keeps (Machine.putOut d w outs mp) := by
  unfold Machine.putOut
  split
  · exact .putTile
  · exact .putStream
  · exact .putStream
  · exact .putChan
  · exact .pure
  · exact .pure
  · exact .pure
  · exact .pure

theorem Keeps.readLanes {v readsD} : Keeps (Machine.readLanes v readsD) :=
  .bind .getC fun _ =>
  .bind .readL fun _ => .bind .readL fun _ => .join (fun k2 => .ite (.bind .readL k2) <| .bind .pure k2) fun _ => .pure

theorem Keeps.elementwise {v readsD f} : Keeps (Machine.elementwise v readsD f) :=
  .bind .readLanes fun _ => .bind .getC fun _ => .putOut

theorem Keeps.vsel {v} : Keeps (Machine.vsel v) := .bind .readLanes fun _ => .bind .getC fun _ => .putOut

theorem Keeps.maskRead {m} : Keeps (Machine.maskRead m) := .ite .pure .uncheck

theorem Keeps.readMask {a} : Keeps (Machine.readMask a) :=
  .bind .getC fun _ =>
  by
    split
    · exact .bind .maskRead fun _ => .pure
    · exact .bind .readL fun _ => .pure
    · exact .bind .readL fun _ => .pure
    · exact .bind .readL fun _ => .pure
    · exact .bind .readL fun _ => .pure
    · exact .bind .readL fun _ => .pure
    · exact .bind .readL fun _ => .pure
    · exact .bind .readL fun _ => .pure

theorem Keeps.maskMember {o v} : Keeps (Machine.maskMember o v) := by
  unfold Machine.maskMember
  split
  · exact .modT
  · exact .bind .readMask fun _ => .bind .getC fun _ => .writeR
  · exact .bind .readMask fun _ => .bind .getC fun _ => .writeR
  · exact .bind .readMask fun _ => .bind .readMask fun _ => .modC
  · exact .bind .readMask fun _ => .bind .readMask fun _ => .modC
  · exact .bind .readMask fun _ => .bind .readMask fun _ => .modC
  · exact .bind .readMask fun _ => .bind .readMask fun _ => .modC
  · exact .bind .readMask fun _ => .bind .readMask fun _ => .modC

theorem Keeps.convert {o v} : Keeps (Machine.convert o v) :=
  .bind .readL fun _ => .bind .getC fun _ => .ite .putOut .putOut

theorem Keeps.laneIndex {q} : Keeps (Machine.laneIndex q) :=
  .bind .readClean fun _ => .bind .getC fun _ => .bind .faultIf fun _ => .pure

theorem Keeps.laneTaint {a} : Keeps (Machine.laneTaint a) := by
  unfold Machine.laneTaint
  split
  · exact .bind .readW fun _ => .pure
  · exact .bind .readW fun _ => .pure
  · exact .bind .readW fun _ => .pure
  · exact .pure
  · exact .pure
  · exact .pure
  · exact .pure
  · exact .pure

theorem Keeps.putActive {v ls} : Keeps (Machine.putActive v ls) := .bind .getC fun _ => .putOut

theorem Keeps.permute {o v} : Keeps (Machine.permute o v) := by
  refine .bind .getC fun _ => ?_
  cases o with
  | bcast => exact .bind .readL fun _ => .bind .laneIndex fun _ => .putActive
  | extr => exact .bind .readL fun _ => .bind .laneIndex fun _ => .bind .laneTaint fun _ => .writeR
  | ins => exact .bind .readR fun _ => .bind .laneIndex fun _ => .putOut
  | rot => exact .bind .readL fun _ => .bind .readClean fun _ => .putActive
  | shuf | zip | unzip => exact .bind .readL fun _ => .bind .readL fun _ => .putActive
  | scan => exact .bind .readL fun _ => .putOut
  | redadd | redmax | redmin => exact .bind .readL fun _ => .bind .laneTaint fun _ => .writeR
  | iota => exact .putActive

theorem Keeps.checks {v} : Keeps (Machine.VInstr.checks v) :=
  .bind .modeSettled fun _ =>
  by
    dsimp only
    split
    · exact .bind .getC fun _ => .bind .faultIf fun _ => .bind .laneCheck fun _ => .bind .laneCheck fun _ => .laneCheck
    · exact .bind .laneCheck fun _ => .bind .laneCheck fun _ => .laneCheck
    · exact .bind .laneCheck fun _ => .bind .laneCheck fun _ => .laneCheck
    · exact .bind .laneCheck fun _ => .bind .laneCheck fun _ => .laneCheck
    · exact .bind .laneCheck fun _ => .bind .laneCheck fun _ => .laneCheck
    · exact .bind .laneCheck fun _ => .bind .laneCheck fun _ => .laneCheck
    · exact .bind .laneCheck fun _ => .bind .laneCheck fun _ => .laneCheck

theorem Keeps.effect {v} : Keeps (Machine.VInstr.effect v) :=
  .bind .checks fun _ =>
  .bind .getC fun _ =>
  .join (fun k2 => .ite (.bind .maskRead k2) (k2 ())) fun _ =>
  by
    dsimp only
    split
    · exact .bind .elementwise fun _ => .bumpPointers
    · exact .bind .elementwise fun _ => .bumpPointers
    · exact .bind .vsel fun _ => .bumpPointers
    · exact .bind .elementwise fun _ => .bumpPointers
    · exact .bind .elementwise fun _ => .bumpPointers
    · exact .bind .maskMember fun _ => .bumpPointers
    · exact .bind .convert fun _ => .bumpPointers
    · exact .bind .permute fun _ => .bumpPointers

theorem Keeps.laneIssue {v} : Keeps (Machine.laneIssue v) := .andNext .effect

/-! ### Control -/

theorem Keeps.branchIf {taken off} : Keeps (Machine.branchIf taken off) :=
  .ite (.bind .getC fun _ => .bind .endWindows fun _ => .pure) .pure

theorem Keeps.branch {p a b off} : Keeps (Machine.branch p a b off) :=
  .bind (.consuming <| .bind .readClean fun _ => .bind .readClean fun _ => .pure) fun _ => .branchIf

theorem Keeps.branchBit {v a bit off} : Keeps (Machine.branchBit v a bit off) :=
  .bind (.consuming .readClean) fun _ => .branchIf

theorem Keeps.jump {off} : Keeps (Machine.jump off) := .bind .getC fun _ => .bind .endWindows fun _ => .pure

theorem Keeps.jumpLink {off} : Keeps (Machine.jumpLink off) :=
  .bind .getC fun _ => .bind .endWindows fun _ => .bind .writeW fun _ => .pure

theorem Keeps.jumpReg {d a imm} : Keeps (Machine.jumpReg d a imm) :=
  .bind .getC fun _ =>
  .bind (.consuming .readClean) fun _ =>
  .bind .faultIf fun _ => .bind .endWindows fun _ => .bind .writeR fun _ => .pure

theorem Keeps.loopEnter {c fin} : Keeps (Machine.loopEnter c fin) :=
  .bind .endWindows fun _ =>
  .bind .getC fun _ =>
  .bind .faultIf fun _ =>
  .bind .regRange fun _ =>
  .bind .bodyFree fun _ => .bind (.consuming .readClean) fun _ => .ite .pure <| .bind .modT fun _ => .pure

theorem Keeps.capture {n va} : Keeps (Machine.capture n va) := by
  induction n generalizing va with
  | zero => exact .pure
  | succ n ih =>
    refine .bind (.stateOf fun _ h => h.codeWord) fun _ => ?_
    split
    · exact .fault
    · split
      · exact .fault
      · exact .bind ih fun _ => .pure

theorem Keeps.repeatBody {n1 c vs} : Keeps (Machine.repeatBody n1 c vs) :=
  .bind .getC fun _ =>
  .bind .capture fun _ =>
  .bind .regRange fun _ =>
  .bind .endWindows fun _ =>
  .bind (.consuming .readClean) fun _ =>
  .bind .writeR fun _ =>
  .join (fun k2 => .ite (.bind .getC fun _ => .bind .modT fun _ => .bind .modC k2) (k2 ())) fun _ => .pure

theorem State.Canonical.putRep {r} (h : s.Canonical) : (s.putRep r).Canonical := h.withCore

theorem State.Canonical.withMask {m} (h : s.Canonical) : (s.withMask m).Canonical := h.withCore

theorem State.Canonical.afterSlot {b m} (h : s.Canonical) : (s.afterSlot b m).Canonical := by
  unfold State.afterSlot
  split
  · exact h.putRep.withMask
  · exact h.putRep

theorem Lands.execRepBodyIssue (h : s.Canonical) : Lands (Machine.execRepBodyIssue s) := by
  unfold Machine.execRepBodyIssue
  split
  · exact .next h
  · split
    · exact .next (h.sameMem rfl)
    · refine .ite (.next h) ?_
      dsimp only
      split
      · next e =>
        exact .next (.withCore (.afterSlot (Keeps.effect.ok (s := (s.putRep none).withMask _) (h.sameMem rfl) e)))
      · next e =>
        split
        · exact .next h.keepFound.keepTaken.takeTrap
        · exact .next (h.commitPart.sameMem rfl)
        · exact .next (h.afterWait.sameMem rfl)

theorem Keeps.trapTo {a} : Keeps (Machine.trapTo a) := .bind .readR fun _ => .pure

theorem Keeps.returnTrap : Keeps Machine.returnTrap :=
  .bind .getC fun _ =>
  by
    split
    · exact .bind .endWindows fun _ => .bind (.modify fun _ h3 => h3.returnFrom.suspend) fun _ => .pure
    · exact .fault

theorem Keeps.idle : Keeps Machine.idle := .bind .getC fun _ => .bind .waitUntil fun _ => .pure

/-! ### Digests -/

theorem State.Canonical.extend {i digest} (h : s.Canonical) : (s.extend i digest).Canonical := h.sameMem rfl

theorem State.Canonical.relaid {t} (h : t.Canonical) : (s.relaid t).Canonical := .ite h (h.sameMem rfl)

/-! ### Management -/

theorem Lands.execStop {part} (h : s.Canonical) : Lands (Machine.execStop part s) :=
  .command h fun _ _ h2 => by split; exacts [.bad, .done (h2.foldl fun _ _ h5 => h5.modCore)]

theorem Lands.execCoreStopped {core} (h : s.Canonical) : Lands (Machine.execCoreStopped core s) :=
  .ite (.nothing h) <| .happens <| .modCore (h.onCore fun _ h2 => h2.trace)

theorem State.Canonical.clearStop (h : s.Canonical) : s.clearStop.Canonical :=
  .ite h <| .testParked <| .withCore <| .ite h.trace h

theorem Lands.execResume {part} (h : s.Canonical) : Lands (Machine.execResume part s) :=
  .command h fun _ _ h2 => by split; exacts [.bad, .done (h2.foldl fun _ _ h5 => h5.onCore fun _ h6 => h6.clearStop)]

theorem Lands.execCorerwRead {part} (h : s.Canonical) : Lands (Machine.execCorerwRead part s) :=
  .command h fun _ _ h2 =>
  by split; exacts [.bad, .ite .refused <| .done <| .foldl (.ite h2.meetLocal h2) fun _ _ h5 => h5.setArg]

theorem Lands.execCorerwWrite {part} (h : s.Canonical) : Lands (Machine.execCorerwWrite part s) :=
  .command h fun _ _ h2 =>
  by split; exacts [.bad, .ite .refused (by dsimp only; split; exacts [.bad, .done h2.putCore])]

theorem Lands.execSetparam {part ctx param firmware} (h : s.Canonical) :
    Lands (Machine.execSetparam part ctx param firmware s) :=
  .command h fun _ _ h2 =>
  .ite .bad <|
  .ite (.ite .refused <| .done h2.modPart) <|
  .ite .bad (by split; exacts [.refused, by split; exacts [.bad, .done h2.modCtx]])

theorem Lands.execWatch {part} (h : s.Canonical) : Lands (Machine.execWatch part s) :=
  .command h fun _ _ h2 => .ite .bad <| .done h2.modCore

theorem Lands.execQrelease {part} (h : s.Canonical) : Lands (Machine.execQrelease part s) :=
  .command h fun _ _ h2 => .ite .bad <| .ite .refused <| .done h2.modCore

theorem Lands.execRoute {part} (h : s.Canonical) : Lands (Machine.execRoute part s) :=
  .command h fun _ _ h2 => .done h2.modPart

theorem Lands.execDmawin {part} (h : s.Canonical) : Lands (Machine.execDmawin part s) :=
  .command h fun _ _ h2 => .done h2.modPart

theorem Answers.allotPort {p port f} (k : f.Canonical) : Answers (s.allotPort p port f) := by
  unfold State.allotPort
  split
  · exact .bad
  · exact .ite (.done (.relaid k)) .refused

theorem State.Canonical.garble {granules mine} (h : s.Canonical) : (s.garble granules mine).Canonical :=
  .foldl (h.sameMem rfl) fun _ _ h2 => h2.takeFree.takeFree.setBytes rfl

theorem State.Canonical.takeTier2 {p g} (h : s.Canonical) : (s.takeTier2 p g).Canonical := by
  unfold State.takeTier2
  dsimp only
  split
  · exact h.sameMem rfl
  · exact .ite (h.sameMem rfl) <| .garble (h.sameMem rfl)

theorem Lands.execAllot (h : s.Canonical) : Lands (Machine.execAllot s) :=
  .command h fun _ _ h2 =>
  by
    dsimp only
    split
    · exact .allotPort (h2.sameMem rfl)
    · exact .allotPort (h2.sameMem rfl)
    · exact .ite .bad <| .ite .refused <| .done <| .foldl (.relaid (h2.sameMem rfl)) fun _ _ h6 => h6.takeTier2
    · exact .bad

theorem Lands.execRect (h : s.Canonical) : Lands (Machine.execRect s) :=
  .command h fun _ _ h2 => .ite .bad <| .ite .refused <| .done h2.modPart.relaid

theorem State.Canonical.modPort {id f} (h : s.Canonical) : (s.modPort id f).Canonical := by
  unfold State.modPort
  split
  · exact h.sameMem rfl
  · exact h.sameMem rfl

theorem Lands.portctl {id ok st} (h : s.Canonical) : Lands (s.portctl id ok st) :=
  .command h fun _ _ h2 => by split; exacts [.bad, .ite (.done h2.modPort) .refused]

theorem Lands.execPortctlDisable {port} (h : s.Canonical) : Lands (Machine.execPortctlDisable port s) := .portctl h

theorem Lands.execPortctlEnable {port} (h : s.Canonical) : Lands (Machine.execPortctlEnable port s) := .portctl h

theorem Lands.execPortctlQuarantine {port} (h : s.Canonical) : Lands (Machine.execPortctlQuarantine port s) :=
  .portctl h

theorem Lands.execPortctlRelease {port} (h : s.Canonical) : Lands (Machine.execPortctlRelease port s) := .portctl h

theorem Lands.execMgmtRegisterWrite {win offset value} (h : s.Canonical) :
    Lands (Machine.execMgmtRegisterWrite win offset value s) :=
  .ite (.nothing h) <|
  .ite
    (.happens h.modWindow)
    (by split; exacts [.nothing h, .ite (.happens (h.sameMem rfl)) <| .ite (.happens (h.sameMem rfl)) <| .nothing h])

theorem Lands.execCmdWriteRejected {win cmd} (h : s.Canonical) : Lands (Machine.execCmdWriteRejected win cmd s) := by
  unfold Machine.execCmdWriteRejected
  split
  · exact .nothing h
  · exact .ite (.happens h.modWindow) <| .ite (.nothing h) <| .happens h.result

/-! ### The platform -/

theorem State.Canonical.afterReset : s.afterReset.Canonical := State.Canonical.reset.sameMem rfl

theorem Lands.execDeviceReset : Lands (Machine.execDeviceReset s) := .happens State.Canonical.afterReset

theorem State.Canonical.stageZero (h : s.Canonical) : s.stageZero.Canonical := h.sameMem rfl

theorem Lands.execMeasurementExtend {mr digest} (h : s.Canonical) : Lands (Machine.execMeasurementExtend mr digest s) :=
  .ite (.nothing h) <| .happens h.extend

theorem State.Canonical.raise {im} (h : s.Canonical) : (s.raise im).Canonical :=
  .ite (h.takeFree.sameMem rfl) h.takeFree

theorem Lands.execBootStage {image} (h : s.Canonical) : Lands (Machine.execBootStage image s) := by
  unfold Machine.execBootStage
  split
  · exact .nothing h
  · exact .nothing h
  · next n _ =>
    refine .ite (.nothing h) ?_
    extract_lets t u
    have k : t.Canonical := .ite h.stageZero h
    refine .ite (.happens (k.sameMem rfl)) ?_
    have k : u.Canonical := .extend (.ite k.extend k)
    exact .happens (.raise (k.sameMem rfl))

theorem Lands.execRecoveryImage {image} (h : s.Canonical) : Lands (Machine.execRecoveryImage image s) :=
  .ite (.happens (h.sameMem rfl)) <| .nothing h

theorem Lands.execAttestationRequest {fn part nonce bind} (h : s.Canonical) :
    Lands (Machine.execAttestationRequest fn part nonce bind s) := by
  refine .ite (.nothing h) ?_
  split
  · exact .nothing h
  · split
    · exact .happens (h.sameMem rfl)
    · exact .happens (.sameMem h rfl)

theorem State.Canonical.unreadable {part} (h : s.Canonical) : (s.unreadable part).Canonical := h.garble

theorem State.Canonical.putKey {part slot key} (h : s.Canonical) : (s.putKey part slot key).Canonical :=
  .ite h.modPart.unreadable h.modPart

theorem State.Canonical.deliverKey {part kem slot wrapped} (h : s.Canonical) :
    (s.deliverKey part kem slot wrapped).Canonical := by
  unfold State.deliverKey
  split
  · exact h.sameMem rfl
  · exact h.putKey

theorem Lands.execKeyDelivery {part key more} (h : s.Canonical) : Lands (Machine.execKeyDelivery part key more s) :=
  .ite (.nothing h) <|
  .happens <| .ite (.modPart (h.foldl fun _ _ h2 => h2.deliverKey)) (h.foldl fun _ _ h3 => h3.deliverKey)

theorem Lands.execThermalTrip {die} (h : s.Canonical) : Lands (Machine.execThermalTrip die s) :=
  .ite (.nothing h) (.happens (.sameMem (State.Canonical.afterReset (s := s)) rfl))

/-! ### Atomics and ordering -/

theorem Keeps.atomTarget {op pl va scope} : Keeps (Machine.atomTarget op pl va scope) :=
  .get fun _ _ =>
  by split; exacts [.bind .faultIf fun _ => .pure, .pure, .bind .faultIf fun _ => .bind .faultIf fun _ => .pure]

theorem Keeps.atomHere {op d l la n v w taint} : Keeps (Machine.atomHere op d l la n v w taint) :=
  .bind .getC fun _ =>
  .bind (.forIn fun _ _ => .bind .needs fun _ => .ite (.bind .cancels fun _ => .pure) .pure) fun _ =>
  .bind .inOrder fun _ => .get fun _ _ => .bind (.stateOf fun _ h3 => h3.atomic) fun _ => .ite .pure .carry

theorem Keeps.atomAway {op d l acq kind} : Keeps (Machine.atomAway op d l acq kind) :=
  .bind .newSlot fun _ =>
  .bind (.modify fun _ h2 => h2.sameMem rfl) fun _ =>
  .join (fun k3 => .ite (.bind (.modify fun _ h4 => h4.fenced) k3) (k3 ())) fun _ => .ite .pure .pure

theorem Keeps.atom {op d a size scope ord l} : Keeps (Machine.atom op d a size scope ord l) :=
  .bind .takeSlot fun _ =>
  .bind .readClean fun _ =>
  .bind .readR fun _ =>
  .join (fun k2 => .ite (.bind .poisonFault k2) (k2 ())) fun _ =>
  .bind (.ite .readClean .pure) fun _ =>
  .bind .accessReady fun _ =>
  .bind .faultIf fun _ =>
  .bind .locate fun _ =>
  .bind .atomTarget fun _ =>
  .bind .watched fun _ =>
  .bind .irrevocable fun _ =>
  .join (fun k3 => .ite (.bind .release k3) (k3 ())) fun _ =>
  by
    dsimp only
    split
    · exact .bind .atomHere fun _ => .join (fun k5 => .ite (.bind .acquire k5) (k5 ())) fun _ => .pure
    · exact .atomAway
    · exact .ite (.join (fun k8 => .ite (.bind .acquire k8) (k8 ())) fun _ => .carry) .atomAway

theorem Keeps.cntFault {α : Type} {x r} : Keeps (Machine.cntFault x r : M α) := .fault

theorem Keeps.barrierAt {x} : Keeps (Machine.barrierAt x) :=
  .get fun _ _ => by split; exacts [.cntFault, by split; exacts [.cntFault, .ite .cntFault .pure]]

theorem Keeps.arrive {b uid ret phase} : Keeps (Machine.arrive b uid ret phase) :=
  .get fun _ _ =>
  .bind .waitUntil fun _ =>
  .ite (.modify fun _ h3 =>
    by dsimp only; split; exacts [h3.tokResult.completeBarrier, h3.tokResult.completeBarrier.writeCopy]) <|
  .modify fun _ h6 => .modBarrier (h6.sameMem rfl)

theorem Keeps.phaseBarrier : Keeps Machine.phaseBarrier := .bind .getC fun _ => by split; exacts [.cntFault, .barrierAt]

theorem Keeps.phaseArrive : Keeps Machine.phaseArrive :=
  .bind .phaseBarrier fun _ =>
  .bind .getC fun _ =>
  by
    split
    · exact .pure
    · exact .bind .irrevocable fun _ =>
        .bind .getC fun _ =>
        .bind .release fun _ =>
        .bind .getC fun _ =>
        .bind .waitUntil fun _ =>
        .get fun _ _ => .bind .waitUntil fun _ => .bind .arrive fun _ => .bind .modC fun _ => .pure

theorem Keeps.phaseFull {d} : Keeps (Machine.phaseFull d) :=
  .bind .phaseArrive fun _ =>
  .bind .modT fun _ =>
  .bind .phaseBarrier fun _ =>
  .bind .getC fun _ =>
  .join (fun k2 => .ite (.bind .throw k2) (k2 ())) fun _ =>
  .bind .acquire fun _ => .bind .modT fun _ => .bind .writeR fun _ => .pure

theorem Keeps.phaseNow {d} : Keeps (Machine.phaseNow d) := .bind .phaseArrive fun _ => .bind .writeR fun _ => .pure

theorem Keeps.fence : Keeps Machine.fence :=
  .bind .getC fun _ => .bind .waitUntil fun _ => .bind .release fun _ => .andNext .acquire

theorem Keeps.clearTaint {d} : Keeps (Machine.clearTaint d) := by
  unfold Machine.clearTaint
  dsimp only
  split
  · exact .bind .modT fun _ => .pure
  · exact .pure
  · exact .pure
  · exact .pure
  · exact .pure

theorem Keeps.counterAt {op x} : Keeps (Machine.counterAt op x) :=
  .get fun _ _ =>
  by
    split
    · exact .cntFault
    · exact .join (fun k5 => .ite (.bind .cntFault k5) (k5 ())) fun _ =>
        .join (fun k6 => .ite (.ite (.bind .cntFault k6) <| .ite (.bind .cntFault k6) (k6 ())) (k6 ())) fun _ => .pure

theorem Keeps.cnt {op d a l} : Keeps (Machine.cnt op d a l) :=
  .bind .takeSlot fun _ =>
  .bind .readClean fun _ =>
  .bind .counterAt fun _ =>
  .bind .irrevocable fun _ =>
  .bind .newSlot fun _ =>
  .bind (.modify fun _ h2 =>
    by dsimp only; split; exacts [h2.sameMem rfl, h2.sameMem rfl, h2.sameMem rfl, h2.sameMem rfl]) fun _ =>
  .pure

theorem Keeps.barHandle {a} : Keeps (Machine.barHandle a) :=
  .bind .readClean fun _ => .bind .barrierAt fun _ => .bind .irrevocable fun _ => .pure

theorem Keeps.barv {d a} : Keeps (Machine.barv d a) :=
  .bind .barHandle fun _ => .bind .getC fun _ => .ite .phaseNow <| .bind .newSlot fun _ => .bind .arrive fun _ => .pure

theorem Keeps.barw {a b} : Keeps (Machine.barw a b) :=
  .bind .barHandle fun _ => .bind (.standing .readClean) fun _ => .bind .getC fun _ => .bind .waitUntil fun _ => .pure

theorem Keeps.barg {d a} : Keeps (Machine.barg d a) :=
  .bind .barHandle fun _ => .andNext <| .bind .getC fun _ => .writeR

theorem Keeps.barp {d a} : Keeps (Machine.barp d a) :=
  .bind .barHandle fun _ => .andNext <| .bind .getC fun _ => .writeR

/-! ### System instructions -/

theorem Keeps.srd {d num} : Keeps (Machine.srd d num) :=
  .join (fun k2 => .ite (.bind .uncheck k2) (k2 ())) fun _ => .get fun _ _ => .andNext .writeR

theorem Keeps.swr {d num} : Keeps (Machine.swr d num) :=
  .bind .readClean fun _ =>
  by
    dsimp only
    split
    · exact .bind .modT fun _ => .pure
    · exact .bind .modT fun _ => .pure
    · exact .bind .writePstatus fun _ => .pure
    · exact .bind .modC fun _ => .pure
    · exact .bind .modC fun _ => .pure
    · exact .bind .modC fun _ => .pure
    · exact .bind .modC fun _ => .pure
    · exact .bind .fault fun _ => .pure

theorem Keeps.crd {d a} : Keeps (Machine.crd d a) :=
  .bind .readClean fun _ =>
  .bind .faultIf fun _ => .bind .uncheck fun _ => .get fun _ _ => by split; exacts [.andNext .writeR, .andNext .writeR]

theorem Keeps.dacc {d a} : Keeps (Machine.dacc d a) :=
  .bind .readClean fun _ => .bind .uncheck fun _ => .bind .getC fun _ => .andNext .writeR

theorem Keeps.trcm {a} : Keeps (Machine.trcm a) := .bind .readClean fun _ => .bind .modC fun _ => .pure

theorem Keeps.tlbinv {a b} : Keeps (Machine.tlbinv a b) :=
  .bind .readClean fun _ =>
  .bind .readClean fun _ =>
  .get fun _ _ =>
  .join (fun k3 => .ite (.ite (.bind .throw k3) <| .bind .stall k3) (k3 ())) fun _ =>
  .bind (.modify fun _ h4 => h4.sameMem rfl) fun _ => .pure

theorem Keeps.errUnit {spec va unit} : Keeps (Machine.errUnit spec va unit) :=
  .get fun _ _ =>
  .ite (.bind .faultIf fun _ => .bind .faultIf fun _ => .pure) <|
  .bind .faultIf fun _ => .bind .xlat fun _ => .bind .faultIf fun _ => .pure

theorem Keeps.errinj {a b} : Keeps (Machine.errinj a b) :=
  .bind .readClean fun _ =>
  .bind .readClean fun _ =>
  .bind .faultIf fun _ =>
  .bind .faultIf fun _ =>
  .bind .errUnit fun _ => .bind .irrevocable fun _ => .bind (.modify fun _ h2 => h2.sameMem rfl) fun _ => .pure

theorem Lands.execTrapDelivery {cause tval} (h : s.Canonical) : Lands (Machine.execTrapDelivery cause tval s) :=
  .ite (.nothing h) <| .happens h.takeTrap

theorem State.Canonical.setErr {line} (h : s.Canonical) : (s.setErr line).Canonical := h.foldl fun _ _ h2 => h2.ctxError

theorem State.Canonical.controlErr (h : s.Canonical) : s.controlErr.Canonical :=
  .ite h.endCheck <| .ite h.recordCtx.rollback h.ctxError

theorem State.Canonical.laneRecord (h : s.Canonical) : s.laneRecord.Canonical :=
  h.takeFree.takeFree.takeFree.recordMgmt

theorem Lands.execCoreErr {site} (h : s.Canonical) : Lands (Machine.execCoreErr site s) := by
  unfold Machine.execCoreErr
  split
  · exact .ite (.happens h.controlErr) <| .nothing h
  · split
    · exact .nothing h
    · exact .happens h.setErr
  · exact .happens h.countCorrected
  · exact .happens <| .ite h.countShared.laneRecord h.countShared
  · exact .ite (.nothing h) <| .happens (h.sameMem rfl)
  · exact .ite (.nothing h) <| .happens <| .countCorrected (h.sameMem rfl)
  · exact .ite (.nothing h) <| .happens <| .countCorrected (h.sameMem rfl)
  · exact .ite (.nothing h) <| .happens <| .countCorrected (h.sameMem rfl)
  · exact .happens h.takeFree.withCore
  · exact .happens h.takeFree.withCore
  · exact .happens h.takeFree.withCore
  · exact .happens h.takeFree.withCore
  · exact .happens h.takeFree.withCore
  · exact .happens h.takeFree.withCore

theorem Lands.execPageWalk {part va} (h : s.Canonical) : Lands (Machine.execPageWalk part va s) := by
  unfold Machine.execPageWalk
  split
  · exact .nothing h
  · exact .ite
        (.nothing h)
        (by
            split
            · next e4 => exact .happens (h.walkFrom.ofEq e4).walkRecord
            · next e5 => exact .happens (h.walkFrom.ofEq e5)
            · next e6 => exact .happens (h.walkFrom.ofEq e6)
            · next e7 => exact .ite (.happens (h.walkFrom.ofEq e7)) <| .happens (h.walkFrom.ofEq e7).tlbPut)

theorem Lands.execTailcntWrite {queue} (h : s.Canonical) : Lands (Machine.execTailcntWrite queue s) := by
  unfold Machine.execTailcntWrite
  split
  · split
    · exact .nothing h
    · exact .happens <| .directWrite (h.sameMem rfl)
  · split
    · exact .nothing h
    · split
      · exact .nothing h
      · exact .happens h.modCtx.directWrite

/-! ### Links and peers -/

theorem State.Canonical.reply {o} (h : s.Canonical) : (s.reply o).Canonical := h.sameMem rfl

theorem State.Canonical.hostRecord {part requester cause detail} (h : s.Canonical) :
    (s.hostRecord part requester cause detail).Canonical :=
  h.countShared.recordMgmt

theorem State.Canonical.takeWrite {part requester offset} (h : s.Canonical) :
    (s.takeWrite part requester offset).Canonical :=
  h.hostRecord

theorem State.Canonical.takeRead {part requester x} (h : s.Canonical) : (s.takeRead part requester x).Canonical := by
  unfold State.takeRead
  split
  · exact h.reply
  · exact .ite h.reply (h.takeUid.sameMem rfl)

theorem Lands.execTakeWindowRead {part requester offset size} (h : s.Canonical) :
    Lands (Machine.execTakeWindowRead part requester offset size s) :=
  .ite (.nothing h) <| .ite (.happens h.reply) <| .ite (.happens h.reply) <| .happens h.takeRead

theorem Lands.execTakeWindowWrite {part requester offset} (h : s.Canonical) :
    Lands (Machine.execTakeWindowWrite part requester offset s) :=
  .ite (.nothing h) <| .ite (.happens h.reply) <| .happens h.takeWrite

theorem Lands.execTakeReadTimeout {uid} (h : s.Canonical) : Lands (Machine.execTakeReadTimeout uid s) := by
  unfold Machine.execTakeReadTimeout
  split
  · exact .ite (.happens <| .reply (h.sameMem rfl)) <| .nothing h
  · exact .nothing h

theorem Lands.execHostActiveMessage {part requester bytes} (h : s.Canonical) :
    Lands (Machine.execHostActiveMessage part requester bytes s) :=
  .ite (.nothing h) (by split; exacts [.happens h.hostRecord, .ite (.nothing h) <| .happens h.modCore.drainIn])

theorem State.Canonical.outsideWrite {part pa bytes} (h : s.Canonical) : (s.outsideWrite part pa bytes).Canonical :=
  h.directWrite.foldl fun _ _ h2 => h2.fill

theorem Lands.execHostPostedWrite {part _requester pa bytes} (h : s.Canonical) :
    Lands (Machine.execHostPostedWrite part _requester pa bytes s) :=
  .ite (.nothing h) <| .ite (.happens h.reply) <| .happens h.outsideWrite

theorem Lands.execQslotSectionLoad {part pa bytes} (h : s.Canonical) :
    Lands (Machine.execQslotSectionLoad part pa bytes s) :=
  .ite (.nothing h) <| .happens (h.directWrite.sameMem rfl)

theorem Lands.execUnsupportedRequest {part offset} (h : s.Canonical) :
    Lands (Machine.execUnsupportedRequest part offset s) :=
  .ite (.nothing h) <| .happens h.reply

theorem Lands.execCounterLowRead {part counter} (h : s.Canonical) : Lands (Machine.execCounterLowRead part counter s) :=
  .ite (.nothing h) <| .happens <| .reply (h.sameMem rfl)

theorem State.Canonical.carried {p pa} (h : s.Canonical) : (s.carried p pa).Canonical :=
  .linkSend (by split; exacts [h, h.sameMem rfl])

theorem State.Canonical.loseReq {r port pa} (h : s.Canonical) : (s.loseReq r port pa).Canonical := by
  unfold State.loseReq
  dsimp only
  split
  · exact .markServed (by split; exacts [h.serve, h.serve, h.serve, h, h])
  · exact .linkRecord <| .markServed (by split; exacts [h.serve, h.serve, h.serve, h, h])
  · exact .linkRecord <| .markServed (by split; exacts [h.serve, h.serve, h.serve, h, h])
  · exact .linkRecord <| .markServed (by split; exacts [h.serve, h.serve, h.serve, h, h])
  · exact .linkRecord <| .markServed (by split; exacts [h.serve, h.serve, h.serve, h, h])

theorem State.Canonical.losePort {port} (h : s.Canonical) : (s.losePort port).Canonical := by
  refine .foldl (.foldl (h.foldl fun _ _ k => k.loseReq) fun _ _ k => k.rowFails.linkRecord) fun _ _ k => ?_
  refine k.foldl fun _ ⟨_, _⟩ k => ?_
  dsimp only
  split
  · exact k
  · exact .ite k.markSent.linkRecord k

theorem Yields.carryReq {r pa} (h : s.Canonical) : Yields (s.carryReq r pa) :=
  .ite
    (.some h.loseReq)
    (by
        split
        · exact .ite .none <| .some h.runAtomic.carried
        · exact .ite .none <| .some h.serveRead.markServed.carried
        · exact .ite .none <| .some h.serveRead.markServed.carried
        · exact .ite .none <| .some h.serveRead.markServed.carried
        · exact .none)

theorem Yields.carry {uid} (h : s.Canonical) : Yields (s.carry uid) := by
  unfold State.carry
  split
  · exact .carryReq h
  · split
    · exact .none
    · exact .ite .none <| .ite (.some h.markSent.linkRecord) <| .some h.perform.markSent.carried

theorem Yields.peerLoad {part pa size} (h : s.Canonical) : Yields (s.peerLoad part pa size) := by
  unfold State.peerLoad
  split
  · exact .ite .none <| .ite (.some h.takeFree.reply) <| .some h.takeFree.takeRead
  · split
    · exact .none
    · split
      next e =>
      exact .some (h.readPhys.ofEq e).reply

theorem Yields.peerWrite {part pa bytes} (h : s.Canonical) : Yields (s.peerWrite part pa bytes) :=
  .ite (.ite (.some h.takeFree.takeWrite) .none) <| .ite .none <| .some h.outsideWrite

theorem Yields.peerAtomic {part op size pa v w} (h : s.Canonical) : Yields (s.peerAtomic part op size pa v w) := by
  unfold State.peerAtomic
  split
  · exact .map (.peerWrite h) fun _ k => k.reply
  · split
    · exact .none
    · split
      next e =>
      exact .some (h.atomic.ofEq e).reply

theorem Lands.execPeerAccess {part op} (h : s.Canonical) : Lands (Machine.execPeerAccess part op s) := by
  unfold Machine.execPeerAccess
  refine .ite (.nothing h) ?_
  dsimp only
  split
  · exact .nothing h
  · next e =>
    refine .happens (Yields.ofSome ?_ e)
    cases op with
    | carried _ => exact .carry h
    | load _ _ => exact .map (.peerLoad h) fun _ k => k.linkTraffic
    | store _ _ => exact .map (.peerWrite h) fun _ k => k.linkTraffic
    | atomic _ _ _ _ _ => exact .map (.peerAtomic h) fun _ k => k.linkTraffic

theorem State.Canonical.exhaust {port} (h : s.Canonical) : (s.exhaust port).Canonical := h.losePort.sameMem rfl

theorem Lands.execFlitReplay {port exhausted} (h : s.Canonical) : Lands (Machine.execFlitReplay port exhausted s) := by
  unfold Machine.execFlitReplay
  split
  · exact .nothing h
  · exact .ite (.nothing h) <| .ite (.happens h.countPort.exhaust) <| .happens (h.countPort.sameMem rfl)

theorem Lands.execLaneTrained {port lanes} (h : s.Canonical) : Lands (Machine.execLaneTrained port lanes s) := by
  unfold Machine.execLaneTrained
  split
  · exact .nothing h
  · exact .ite (.nothing h) <| .happens h.modPort

theorem Lands.execTrainingTimeout {port} (h : s.Canonical) : Lands (Machine.execTrainingTimeout port s) := by
  unfold Machine.execTrainingTimeout
  split
  · exact .nothing h
  · exact .ite (.nothing h) <| .happens h.modPort

theorem Lands.execLaneFailure {port} (h : s.Canonical) : Lands (Machine.execLaneFailure port s) := by
  unfold Machine.execLaneFailure
  dsimp only
  split
  · exact .nothing h
  · split
    · exact .happens h.modPort
    · exact .happens h.losePort.modPort
    · exact .happens h.losePort.modPort
    · exact .nothing h
    · exact .nothing h
    · exact .nothing h
    · exact .nothing h

theorem Lands.execEthernetFrame {port ok bytes} (h : s.Canonical) :
    Lands (Machine.execEthernetFrame port ok bytes s) := by
  unfold Machine.execEthernetFrame
  split
  · exact .nothing h
  · exact .ite (.nothing h) <|
      .happens <| .ite (by split; exacts [h.modPart, h]) <| .sameMem (.countPort (by split; exacts [h.modPart, h])) rfl

theorem Lands.execRouterDrop {part dest} (h : s.Canonical) : Lands (Machine.execRouterDrop part dest s) :=
  .ite (.nothing h) <| .happens h.takeFree.takeFree.countShared.recordMgmt

/-! ### Checks and the patrol -/

theorem State.Canonical.modCheck {uid f} (h : s.Canonical) : (s.modCheck uid f).Canonical := h.sameMem rfl

theorem State.Canonical.startRun {k core} (h : s.Canonical) : (s.startRun k core).Canonical :=
  h.takeUid.modCheck.modCore

theorem Lands.execCheckRunStart {k} (h : s.Canonical) : Lands (Machine.execCheckRunStart k s) := by
  unfold Machine.execCheckRunStart
  split
  · exact .nothing h
  · exact .ite (.nothing h) (by split; exacts [.nothing h, .ite (.nothing h) <| .happens h.startRun.modCheck])

theorem Lands.execCheckTimeout {k} (h : s.Canonical) : Lands (Machine.execCheckTimeout k s) := by
  unfold Machine.execCheckTimeout
  split
  · exact .nothing h
  · exact .ite (.nothing h) <| .happens h.withdraw

theorem Lands.execTiebreakStart {k} (h : s.Canonical) : Lands (Machine.execTiebreakStart k s) := by
  unfold Machine.execTiebreakStart
  split
  · exact .nothing h
  · split
    · exact .ite (.nothing h) (by split; exacts [.nothing h, .ite (.nothing h) <| .happens h.startRun.modCheck])
    · exact .nothing h

theorem State.Canonical.suspect {core n} (h : s.Canonical) : (s.suspect core n).Canonical := h.modCore

theorem State.Canonical.decide3 {k check tie cd td} (h : s.Canonical) : (s.decide3 k check tie cd td).Canonical :=
  .ite h.suspect.recordCtx.settle <|
  .ite h.suspect.recordCtx.settle <|
  .ite h.suspect.suspect.recordCtx.settle.ctxError h.suspect.suspect.recordCtx.settle

theorem Lands.execCheckVerdict {k} (h : s.Canonical) : Lands (Machine.execCheckVerdict k s) := by
  unfold Machine.execCheckVerdict
  split
  · exact .nothing h
  · split
    · exact .ite (.nothing h) <| .happens h.drainSample
    · split
      · exact .ite (.happens h.modCore.modCore.settle) (by split; exacts [.happens h.decide3, .nothing h])
      · exact .nothing h

theorem State.Canonical.patrolled {part pa} (h : s.Canonical) : (s.patrolled part pa).Canonical := h.sameMem rfl

theorem Lands.execPatrolRead {part pa} (h : s.Canonical) : Lands (Machine.execPatrolRead part pa s) := by
  unfold Machine.execPatrolRead
  refine .ite (.nothing h) ?_
  extract_lets t u dirty clean under
  split
  next e =>
  have k := h.patrolled.disarm.ofEq e
  split
  · exact .happens k
  · refine .happens ?_
    split
    · exact k.countCorrected
    · exact k.countShared
  · exact .happens (.recordMgmt (.ite k.takeFree (.ite (k.takeFree.sameMem rfl) k.takeFree.damage)))
  · exact .happens (.ite k (.ite (k.sameMem rfl) (k.sameMem rfl)))

/-! ### Scalar instructions -/

theorem Keeps.alu {f d a b} : Keeps (Machine.alu f d a b) :=
  .bind .readR fun _ => .bind .readR fun _ => .andNext .writeR

theorem Keeps.muldiv {f d a b l} : Keeps (Machine.muldiv f d a b l) :=
  .bind .takeSlot fun _ => .bind .readR fun _ => .bind .readR fun _ => .carry

theorem Keeps.unary {f d a} : Keeps (Machine.unary f d a) := .bind .readR fun _ => .andNext .writeR

theorem Keeps.insert {d a pos len} : Keeps (Machine.insert d a pos len) :=
  .bind .readR fun _ => .bind .readR fun _ => .andNext .writeR

theorem Keeps.lixBody {d imm} : Keeps (Machine.lixBody d imm) := .bind .readR fun _ => .andNext .writeR

theorem Keeps.addpcBody {d imm} : Keeps (Machine.addpcBody d imm) := .bind .getC fun _ => .andNext .writeR

/-! ### Every instruction and event -/

theorem Lands.exec {i} (h : s.Canonical) : Lands (Machine.exec i s) := by
  cases i with
  | add => exact .run h .alu
  | sub => exact .run h .alu
  | and => exact .run h .alu
  | or => exact .run h .alu
  | xor => exact .run h .alu
  | andn => exact .run h .alu
  | orn => exact .run h .alu
  | xnor => exact .run h .alu
  | shl => exact .run h .alu
  | shr => exact .run h .alu
  | sra => exact .run h .alu
  | rol => exact .run h .alu
  | ror => exact .run h .alu
  | slt => exact .run h .alu
  | sltu => exact .run h .alu
  | seq => exact .run h .alu
  | sne => exact .run h .alu
  | min => exact .run h .alu
  | max => exact .run h .alu
  | minu => exact .run h .alu
  | maxu => exact .run h .alu
  | shadd1 => exact .run h .alu
  | shadd2 => exact .run h .alu
  | shadd3 => exact .run h .alu
  | addw => exact .run h .alu
  | subw => exact .run h .alu
  | mul => exact .run h .muldiv
  | mulh => exact .run h .muldiv
  | mulhu => exact .run h .muldiv
  | mulhsu => exact .run h .muldiv
  | div => exact .run h .muldiv
  | divu => exact .run h .muldiv
  | rem => exact .run h .muldiv
  | remu => exact .run h .muldiv
  | clz => exact .run h .unary
  | ctz => exact .run h .unary
  | popc => exact .run h .unary
  | brev => exact .run h .unary
  | bswap => exact .run h .unary
  | sextb => exact .run h .unary
  | sexth => exact .run h .unary
  | sextw => exact .run h .unary
  | extu => exact .run h .unary
  | exts => exact .run h .unary
  | ins => exact .run h .insert
  | addi => exact .run h .unary
  | andi => exact .run h .unary
  | ori => exact .run h .unary
  | xori => exact .run h .unary
  | slti => exact .run h .unary
  | sltui => exact .run h .unary
  | shli => exact .run h .unary
  | shri => exact .run h .unary
  | srai => exact .run h .unary
  | rori => exact .run h .unary
  | lih => exact .run h <| .andNext .writeR
  | lix => exact .run h .lixBody
  | addpc => exact .run h .addpcBody
  | beq => exact .run h .branch
  | bne => exact .run h .branch
  | blt => exact .run h .branch
  | bge => exact .run h .branch
  | bltu => exact .run h .branch
  | bgeu => exact .run h .branch
  | bbs => exact .run h .branchBit
  | bbc => exact .run h .branchBit
  | j => exact .run h .jump
  | jal => exact .run h .jumpLink
  | jalr => exact .run h .jumpReg
  | loop => exact .run h .loopEnter
  | rep => exact .run h .repeatBody
  | repBodyIssue => exact .execRepBodyIssue h
  | endAct => exact .run h .endActivation
  | endAbort => exact .run h .endAborted
  | callat => exact .run h .callAt
  | reply => exact .run h .replyValue
  | spawn => exact .run h .spawn
  | spawnH => exact .run h .spawn
  | wclaim => exact .run h .wclaim
  | wrel => exact .run h .wrel
  | apop => exact .run h .apop
  | apush => exact .run h .apush
  | nop => exact .run h .pure
  | trap => exact .run h .trapTo
  | brk => exact .run h .fault
  | rte => exact .run h .returnTrap
  | idle => exact .run h .idle
  | ld => exact .run h .loadInstr
  | ldu => exact .run h .loadInstr
  | st => exact .run h .storeInstr
  | ldv => exact .run h .loadRow
  | stv => exact .run h .storeRow
  | zfill => exact .run h .zeroFill
  | pref => exact .run h .prefetch
  | l1inv => exact .run h <| .andNext .modC
  | icinv => exact .run h .icinv
  | bankmode => exact .run h .bankMode
  | bankq => exact .run h .bankQuery
  | ldc => exact .run h .loadInstr
  | lds => exact .run h .ldsInstr
  | ldsE => exact .run h .ldsInstr
  | stf => exact .run h .stfInstr
  | aadd => exact .run h .atom
  | aand => exact .run h .atom
  | aor => exact .run h .atom
  | axor => exact .run h .atom
  | amin => exact .run h .atom
  | amax => exact .run h .atom
  | aminu => exact .run h .atom
  | amaxu => exact .run h .atom
  | axchg => exact .run h .atom
  | afadd => exact .run h .atom
  | afmin => exact .run h .atom
  | afmax => exact .run h .atom
  | ald => exact .run h .atom
  | ast => exact .run h .atom
  | acas => exact .run h .atom
  | phase => exact .run h .phaseFull
  | rel => exact .run h <| .andNext .release
  | acq => exact .run h <| .andNext .acquire
  | fence => exact .run h .fence
  | clrt => exact .run h .clearTaint
  | phasen => exact .run h .phaseNow
  | vaddF => exact .run h .laneIssue
  | vsubF => exact .run h .laneIssue
  | vmulF => exact .run h .laneIssue
  | vfma => exact .run h .laneIssue
  | vfms => exact .run h .laneIssue
  | vmaxF => exact .run h .laneIssue
  | vminF => exact .run h .laneIssue
  | vnegF => exact .run h .laneIssue
  | vabsF => exact .run h .laneIssue
  | vrcp => exact .run h .laneIssue
  | vrsq => exact .run h .laneIssue
  | vrcps => exact .run h .laneIssue
  | vrsqs => exact .run h .laneIssue
  | vexp2 => exact .run h .laneIssue
  | vlog2 => exact .run h .laneIssue
  | vclamp => exact .run h .laneIssue
  | vaddI => exact .run h .laneIssue
  | vsubI => exact .run h .laneIssue
  | vmulI => exact .run h .laneIssue
  | vmulh => exact .run h .laneIssue
  | vmad => exact .run h .laneIssue
  | vmaxI => exact .run h .laneIssue
  | vminI => exact .run h .laneIssue
  | vabsI => exact .run h .laneIssue
  | vshl => exact .run h .laneIssue
  | vshr => exact .run h .laneIssue
  | vsra => exact .run h .laneIssue
  | vadds => exact .run h .laneIssue
  | vsubs => exact .run h .laneIssue
  | vmaxu => exact .run h .laneIssue
  | vminu => exact .run h .laneIssue
  | vnegI => exact .run h .laneIssue
  | vand => exact .run h .laneIssue
  | vor => exact .run h .laneIssue
  | vxor => exact .run h .laneIssue
  | vandn => exact .run h .laneIssue
  | vnot => exact .run h .laneIssue
  | vmov => exact .run h .laneIssue
  | vsel => exact .run h .laneIssue
  | vpopc => exact .run h .laneIssue
  | vclz => exact .run h .laneIssue
  | vceqF => exact .run h .laneIssue
  | vcneF => exact .run h .laneIssue
  | vcltF => exact .run h .laneIssue
  | vcleF => exact .run h .laneIssue
  | vcunF => exact .run h .laneIssue
  | vceqI => exact .run h .laneIssue
  | vcneI => exact .run h .laneIssue
  | vcltI => exact .run h .laneIssue
  | vcleI => exact .run h .laneIssue
  | vcltu => exact .run h .laneIssue
  | vcleu => exact .run h .laneIssue
  | mand => exact .run h .laneIssue
  | mor => exact .run h .laneIssue
  | mxor => exact .run h .laneIssue
  | mnot => exact .run h .laneIssue
  | mandn => exact .run h .laneIssue
  | msel => exact .run h .laneIssue
  | mpopc => exact .run h .laneIssue
  | mfirst => exact .run h .laneIssue
  | vcvtF32F16 => exact .run h .laneIssue
  | vcvtF16F32 => exact .run h .laneIssue
  | vcvtF32Bf16 => exact .run h .laneIssue
  | vcvtBf16F32 => exact .run h .laneIssue
  | vcvtF32E4m3 => exact .run h .laneIssue
  | vcvtE4m3F32 => exact .run h .laneIssue
  | vcvtF32E5m2 => exact .run h .laneIssue
  | vcvtE5m2F32 => exact .run h .laneIssue
  | vcvtI32F32 => exact .run h .laneIssue
  | vcvtF32I32 => exact .run h .laneIssue
  | vcvtI16I32 => exact .run h .laneIssue
  | vcvtI32I16 => exact .run h .laneIssue
  | vcvtF32Cb4 => exact .run h .laneIssue
  | vcvtCb4F32 => exact .run h .laneIssue
  | vcvtI8I32 => exact .run h .laneIssue
  | vcvtI32I8 => exact .run h .laneIssue
  | vbcast => exact .run h .laneIssue
  | vextr => exact .run h .laneIssue
  | vins => exact .run h .laneIssue
  | vrot => exact .run h .laneIssue
  | vshuf => exact .run h .laneIssue
  | vscan => exact .run h .laneIssue
  | vredadd => exact .run h .laneIssue
  | vredmax => exact .run h .laneIssue
  | vredmin => exact .run h .laneIssue
  | viota => exact .run h .laneIssue
  | vzip => exact .run h .laneIssue
  | vunzip => exact .run h .laneIssue
  | vaddFCompact => exact .run h .laneIssue
  | vsubFCompact => exact .run h .laneIssue
  | vmulFCompact => exact .run h .laneIssue
  | vmaxFCompact => exact .run h .laneIssue
  | vminFCompact => exact .run h .laneIssue
  | vaddICompact => exact .run h .laneIssue
  | vsubICompact => exact .run h .laneIssue
  | vmaxICompact => exact .run h .laneIssue
  | vminICompact => exact .run h .laneIssue
  | vandCompact => exact .run h .laneIssue
  | vorCompact => exact .run h .laneIssue
  | vxorCompact => exact .run h .laneIssue
  | vmovCompact => exact .run h .laneIssue
  | vnegFCompact => exact .run h .laneIssue
  | vabsFCompact => exact .run h .laneIssue
  | vshlICompact => exact .run h .laneIssue
  | kadd => exact .run h .kop2
  | ksub => exact .run h .kop2
  | kmax => exact .run h .kop2
  | kmin => exact .run h .kop2
  | kmov => exact .run h .kmov
  | kset => exact .run h .kset
  | kfromv => exact .run h .kfromv
  | ktov => exact .run h .ktov
  | kbind => exact .run h .kbind
  | kunbind => exact .run h .kunbind
  | kgen => exact .run h .kgen
  | ttset => exact .run h .ttset
  | ttget => exact .run h .ttget
  | ttinv => exact .run h .ttinv
  | tcb => exact .run h .tcb
  | tld => exact .run h .tld
  | tst => exact .run h .tst
  | kld => exact .run h .kld
  | kst => exact .run h .kst
  | ksave => exact .run h .ksave
  | krestore => exact .run h .krestore
  | pcmd => exact .run h .pcmd
  | pwait => exact .run h .pwait
  | pfence => exact .run h .pfence
  | pstat => exact .run h .pstat
  | copy => exact .run h .copyInstr
  | bseal => exact .run h .bseal
  | bdrain => exact .run h .bdrain
  | cwptr => exact .run h .cwptr
  | ctake => exact .run h .cnt
  | cgive => exact .run h .cnt
  | csum => exact .run h .cnt
  | creset => exact .run h .cnt
  | barv => exact .run h .barv
  | barw => exact .run h .barw
  | barg => exact .run h .barg
  | barp => exact .run h .barp
  | msend => exact .run h .msend
  | mpoll => exact .run h .mpoll
  | winrd => exact .run h .winrd
  | srd => exact .run h .srd
  | swr => exact .run h .swr
  | crd => exact .run h .crd
  | dacc => exact .run h .dacc
  | trcm => exact .run h .trcm
  | tlbinv => exact .run h .tlbinv
  | errinj => exact .run h .errinj
  | retry => exact .execRetry h
  | skip => exact .execSkip h
  | flush => exact .execFlush h
  | ovClear => exact .execOvClear h
  | loadw => exact .execLoadw h
  | flip => exact .execFlip h
  | stream => exact .execStream h
  | streamt => exact .execStreamt h
  | tload => exact .execTload h
  | tloadt => exact .execTloadt h
  | tdrain => exact .execTdrain h
  | tzero => exact .execTzero h
  | pmode => exact .execPmode h
  | ptable => exact .execPtable h
  | pmark => exact .execPmark h
  | psave => exact .execPsave h
  | prestore => exact .execPrestore h
  | pressFault => exact .execPressFault h
  | pressRetire => exact .execPressRetire h
  | rampWindow => exact .execRampWindow h
  | powerReport => exact .execPowerReport h
  | messageArrival => exact .execMessageArrival h
  | activationStart => exact .execActivationStart h
  | activationResume => exact .execActivationResume h
  | actorFiring => exact .execActorFiring h
  | tokenWrite => exact .execTokenWrite h
  | replyWrite => exact .execReplyWrite h
  | channelDwordArrival => exact .execChannelDwordArrival h
  | channelCredit => exact .execChannelCredit h
  | loadResponse => exact .execLoadResponse h
  | storeAck => exact .execStoreAck h
  | phasedStoreInstall => exact .execPhasedStoreInstall h
  | sliceRead => exact .execSliceRead h
  | forcing => exact .execForcing h
  | atomicExecute => exact .execAtomicExecute h
  | balancerArrival => exact .execBalancerArrival h
  | exitCounterAct => exact .execExitCounterAct h
  | csumArrival => exact .execCsumArrival h
  | cresetClosure => exact .execCresetClosure h
  | cresetReopen => exact .execCresetReopen h
  | cellError => exact .execCellError h
  | barrierExit => exact .execBarrierExit h
  | barrierComplete => exact .execBarrierComplete h
  | copyRowWrite => exact .execCopyRowWrite h
  | copyRowArrival => exact .execCopyRowArrival h
  | copyEnd => exact .execCopyEnd h
  | packetConsume => exact .execPacketConsume h
  | nopPacket => exact .execNopPacket h
  | launch => exact .execLaunch h
  | copyPacket => exact .execCopyPacket h
  | signalStore => exact .execSignalStore h
  | signalAdd => exact .execSignalAdd h
  | signalStoreFull => exact .execSignalStoreFull h
  | wait => exact .execWait h
  | waitRetest => exact .execWaitRetest h
  | kernelEligibilityTest => exact .execKernelEligibilityTest h
  | ageTick => exact .execAgeTick h
  | cohortPlace => exact .execCohortPlace h
  | cohortStart => exact .execCohortStart h
  | cohortEnd => exact .execCohortEnd h
  | kernelComplete => exact .execKernelComplete h
  | trapDelivery => exact .execTrapDelivery h
  | redelivery => exact .execRedelivery h
  | coreErr => exact .execCoreErr h
  | tailcntWrite => exact .execTailcntWrite h
  | corePreemptStop => exact .execCorePreemptStop h
  | corePreemptAck => exact .execCorePreemptAck h
  | copyOut => exact .execCopyOut h
  | checkRunStart => exact .execCheckRunStart h
  | checkTimeout => exact .execCheckTimeout h
  | checkVerdict => exact .execCheckVerdict h
  | tiebreakStart => exact .execTiebreakStart h
  | patrolRead => exact .execPatrolRead h
  | pageWalk => exact .execPageWalk h
  | takeWindowRead => exact .execTakeWindowRead h
  | takeWindowWrite => exact .execTakeWindowWrite h
  | takeReadTimeout => exact .execTakeReadTimeout h
  | hostActiveMessage => exact .execHostActiveMessage h
  | hostPostedWrite _ r => exact .execHostPostedWrite (_requester := r) h
  | unsupportedRequest => exact .execUnsupportedRequest h
  | counterLowRead => exact .execCounterLowRead h
  | peerAccess => exact .execPeerAccess h
  | flitReplay => exact .execFlitReplay h
  | laneTrained => exact .execLaneTrained h
  | trainingTimeout => exact .execTrainingTimeout h
  | laneFailure => exact .execLaneFailure h
  | ethernetFrame => exact .execEthernetFrame h
  | routerDrop => exact .execRouterDrop h
  | create => exact .execCreate h
  | destroy => exact .execDestroy h
  | preempt => exact .execPreempt h
  | restore => exact .execRestore h
  | qcreate => exact .execQcreate h
  | qdestroy => exact .execQdestroy h
  | qreset => exact .execQreset h
  | stop => exact .execStop h
  | coreStopped => exact .execCoreStopped h
  | resume => exact .execResume h
  | corerwRead => exact .execCorerwRead h
  | corerwWrite => exact .execCorerwWrite h
  | setparam => exact .execSetparam h
  | watch => exact .execWatch h
  | qrelease => exact .execQrelease h
  | route => exact .execRoute h
  | dmawin => exact .execDmawin h
  | allot => exact .execAllot h
  | rect => exact .execRect h
  | portctlDisable => exact .execPortctlDisable h
  | portctlEnable => exact .execPortctlEnable h
  | portctlQuarantine => exact .execPortctlQuarantine h
  | portctlRelease => exact .execPortctlRelease h
  | mgmtRegisterWrite => exact .execMgmtRegisterWrite h
  | deviceReset => exact .execDeviceReset
  | bootStage => exact .execBootStage h
  | measurementExtend => exact .execMeasurementExtend h
  | recoveryImage => exact .execRecoveryImage h
  | attestationRequest => exact .execAttestationRequest h
  | keyDelivery => exact .execKeyDelivery h
  | thermalTrip => exact .execThermalTrip h
  | directWriteArrival => exact .execDirectWriteArrival h
  | fillerOperationEnd => exact .execFillerOperationEnd h
  | qslotSectionLoad => exact .execQslotSectionLoad h
  | cmdWriteRejected => exact .execCmdWriteRejected h

/-! ### Turns -/

theorem State.Canonical.fetchFault {b va} (h : s.Canonical) : (s.fetchFault b va).Canonical := h.takeTrap

theorem State.Canonical.illegal {w} (h : s.Canonical) : (s.illegal w).Canonical := h.takeTrap

theorem Lands.runWord {w f} (h : s.Canonical) (e : Machine.runWord w = some f) : Lands (f s) := by
  rw [runWord_eq] at e
  obtain ⟨i, -, rfl⟩ := Option.map_eq_some_iff.1 e
  exact .exec h

theorem Lands.runNext (h : s.Canonical) : Lands s.runNext := by
  unfold State.runNext
  split
  · next e => exact .next (h.codeWord.ofEq e).fetchFault
  · next e =>
    split
    · exact .next (h.codeWord.ofEq e).illegal
    · next f ef => exact .runWord (h.codeWord.ofEq e) ef

theorem State.Canonical.dueTests (h : s.Canonical) : s.dueTests.Canonical := .ite h.stall h.endTests

theorem Lands.integerTurn (h : s.Canonical) : Lands s.integerTurn :=
  .ite (.next h) (by split; exacts [.next h.withCore.takeTrap, .ite (.next h.dueTests) <| .runNext h])

theorem Lands.pressTurn (h : s.Canonical) : Lands s.pressTurn := by
  unfold State.pressTurn
  split
  · exact .nothing h
  · exact .execPressFault h
  · split
    · exact .startCommand h
    · exact .startCommand h
    · exact .startCommand h
    · exact .startCommand h
    · exact .startCommand h
    · exact .startCommand h
    · exact .execTdrain h
    · exact .startCommand h
    · exact .startCommand h
    · exact .startCommand h
    · exact .startCommand h
    · exact .startCommand h
    · exact .execPrestore h

theorem Lands.at_ {core f} (h : s.Canonical) (hf : ∀ s, s.Canonical → Lands (f s)) : Lands (Machine.at_ core f s) :=
  hf _ h.refocus

theorem LandsAll.memoryEvents : LandsAll s.memoryEvents :=
  .append
    (.append
      (.append
        (.flatMap fun _ =>
          .cons (fun _ h => .execSliceRead h) <| .cons (fun _ h => .execAtomicExecute h) <|
          .cons (fun _ h => .execPeerAccess h) <| .cons (fun _ h => .execLoadResponse (h.sameMem rfl)) .nil)
        (.flatMap fun _ => .flatMap fun _ =>
          .cons (fun _ h => .execPhasedStoreInstall h) <| .cons (fun _ h => .execDirectWriteArrival h) <|
          .cons (fun _ h => .execPeerAccess h) <| .cons (fun _ h => .execStoreAck h) .nil))
      (.flatMap fun _ => .cons (fun _ h => .execCopyRowArrival h) <| .cons (fun _ h => .execDirectWriteArrival h) .nil))
    (.map fun _ _ h => .execForcing h)

theorem LandsAll.fabricEvents : LandsAll s.fabricEvents :=
  .append
    (.append
      (.append
        (.append
          (.append
            (.flatMap fun _ => .map fun _ _ h => .execMessageArrival h)
            (.flatMap fun _ =>
              .cons (fun _ h => .execMessageArrival h) <| .cons (fun _ h => .execTokenWrite h) <|
              .cons (fun _ h => .execReplyWrite h) <| .cons (fun _ h => .execChannelDwordArrival h) <|
              .cons (fun _ h => .execChannelCredit h) .nil))
          (.flatMap fun _ =>
            .cons (fun _ h => .execBalancerArrival h) <| .cons (fun _ h => .execExitCounterAct h) <|
            .cons (fun _ h => .execBarrierExit h) .nil))
        (.flatMap fun _ => .cons (fun _ h => .execCsumArrival h) <| .cons (fun _ h => .execCresetClosure h) .nil))
      (.map fun _ _ h => .execCresetReopen h))
    (.map fun _ _ h => .execBarrierComplete h)

theorem LandsAll.coreEvents : LandsAll s.coreEvents :=
  .flatMap fun _ =>
    .append
      (.append
        (.append
          (.append
            (.cons (fun _ h => .at_ h fun _ h => .pressTurn h) .nil)
            (.map fun _ _ h => .at_ h fun _ h => .execPressRetire h))
          (.cons (fun _ h => .execFillerOperationEnd h) <| .cons (fun _ h => .at_ h fun _ h => .execRedelivery h) <|
            .cons (fun _ h => .at_ h fun _ h => .execActivationStart h) <|
            .cons (fun _ h => .at_ h fun _ h => .execActivationResume h) .nil))
        (.map fun _ _ h => .at_ h fun _ h => .execActorFiring h))
      (.cons (fun _ h => .execCoreStopped h) <| .cons (fun _ h => .execCorePreemptStop h) <|
        .cons (fun _ h => .execCorePreemptAck h) .nil)

theorem LandsAll.engineEvents : LandsAll s.engineEvents :=
  .append
    (.append
      (.append
        (.append
          (.append
            (.append
              (.append
                (.append
                  (.append
                    (.append
                      (.flatMap fun _ => .cons (fun _ h => .execCopyRowWrite h) <| .cons (fun _ h => .execCopyEnd h) .nil)
                      (.flatMap fun _ =>
                        .cons (fun _ h => .execPacketConsume h) <| .cons (fun _ h => .execNopPacket h) <|
                        .cons (fun _ h => .execLaunch h) <| .cons (fun _ h => .execCopyPacket h) <|
                        .cons (fun _ h => .execSignalStore h) <| .cons (fun _ h => .execSignalAdd h) <|
                        .cons (fun _ h => .execSignalStoreFull h) <| .cons (fun _ h => .execWait h) <|
                        .cons (fun _ h => .execWaitRetest h) .nil))
                    (.map fun _ _ h => .execKernelEligibilityTest h))
                  (.map fun _ _ h => .execCohortPlace h))
                (.flatMap fun _ => .cons (fun _ h => .execCohortStart h) <| .cons (fun _ h => .execCohortEnd h) .nil))
              (.map fun _ _ h => .execKernelComplete h))
            (.map fun _ _ h => .execCopyOut h))
          (.map fun _ _ h => .restoreTurn h))
        (.flatMap fun _ =>
          .cons (fun _ h => .execCheckVerdict h) <| .cons (fun _ h => .execTiebreakStart h) <|
          .cons (fun _ h => .execCheckRunStart h) .nil))
      (.map fun _ _ h => .execTailcntWrite h))
    (.map fun _ _ h => .execAgeTick h)

theorem Yields.firstChange {l} (h : s.Canonical) (hl : LandsAll l) : Yields (Machine.firstChange s l) := by
  induction l with
  | nil => exact .none
  | cons f fs ih =>
    have rest := ih fun g hg => hl g (.tail _ hg)
    unfold Machine.firstChange
    split
    · next e => exact .ite rest (.some (hl f (.head _) s h _ e))
    · exact rest
    · exact rest

theorem Yields.agents (h : s.Canonical) : Yields s.agents :=
  .orElse (.firstChange h .memoryEvents) <| .orElse (.firstChange h .fabricEvents) <|
  .orElse (.firstChange h .coreEvents) (.firstChange h .engineEvents)

theorem LandsIf.coreTurn (h : s.Canonical) : LandsIf s.coreTurn :=
  .ite .none <| .ite (.some (.execRepBodyIssue h.suspend)) (.some (.integerTurn h.suspend))

theorem Lands.freeTurn {n} (h : s.Canonical) : Lands (s.freeTurn n) := by
  have agents : LandsIf (s.agents.map .next) := .mapNext (.agents h)
  have other : LandsIf (s.nextCore.map fun i => .next (s.refocus i)) := .map fun _ => .next h.refocus
  exact LandsIf.getD (.orElse (.ite other (.ite agents .none)) <| .orElse (.coreTurn h) <| .orElse agents other) (.next h)

theorem Lands.turn {t} (h : s.Canonical) : Lands (s.turn t) := by
  unfold State.turn
  split
  · exact .ite (.exec h) .fault
  · exact .integerTurn h.suspend
  · exact .next h.refocus

theorem State.Canonical.notice (h : s.Canonical) : s.notice.Canonical := h.noticeSlots.noticeWrites.noticeWaits

theorem State.Canonical.noteCounters (h : s.Canonical) : s.noteCounters.Canonical := h.sameMem rfl

theorem State.Canonical.tickClock (h : s.Canonical) : s.tickClock.Canonical :=
  .drainTrace (h.noteCounters.sameMem rfl)

theorem State.Canonical.clock (h : s.Canonical) : s.clock.Canonical := h.notice.tickClock

/-! ### The step -/

theorem Lands.step (h : s.Canonical) : Lands (Machine.step s) := by
  unfold Machine.step
  dsimp only
  split
  · exact .turn (h.clock.sameMem rfl)
  · exact .freeTurn h.clock

end

end Sys2Proof.Machine

open Sys2Proof Sys2Proof.Machine

/-- Settles O4: a step composes functions each of which keeps the memory canonical. -/
theorem memoryStaysCanonical : Obligations.MemoryStaysCanonical := by
  unfold Obligations.MemoryStaysCanonical
  exact fun _ t canonical stepped => Lands.step canonical t stepped
end

section
/-! SUPPORT. Where an address leads on a core that can issue: the page walk leaves the core as it stands, and an access
finds the place that `placeAt` names, or takes the fault that `badPlace` names. -/

namespace Sys2Proof.Machine

/-! ## Page walks (R125 to R127) -/

/-- The core in focus, the errors and the traffic stand as they did. -/
structure Walked (s t : State) : Prop where
  core : t.core = s.core
  armed : t.armed = s.armed
  parcels : t.parcels = s.parcels

theorem Walked.refl (s : State) : Walked s s := ⟨rfl, rfl, rfl⟩

theorem Walked.trans {s t u : State} (h : Walked s t) (k : Walked t u) : Walked s u :=
  ⟨k.core.trans h.core, k.armed.trans h.armed, k.parcels.trans h.parcels⟩

theorem Walked.tlbPut (s : State) (p : Nat) (e : TlbEntry) : Walked s (s.tlbPut p e) := by
  unfold State.tlbPut
  dsimp only
  split <;> exact ⟨rfl, rfl, rfl⟩

theorem Walked.tlbFill (s : State) (cl : Nat) (c : Context) (va : Nat) (leaf : BitVec 64) (log : Nat) :
    Walked s (s.tlbFill cl c va leaf log) := by
  unfold State.tlbFill
  dsimp only
  split
  · exact .refl s
  · split
    · exact .tlbPut ..
    · exact (Walked.tlbPut ..).trans (.tlbPut ..)

/-- With no error armed, the walk of a page table leaves the core as it stands. -/
theorem Walked.leafOf {s : State} (h : s.armed = []) (cl : Nat) (c : Context) (va : Nat) : Walked s (s.leafOf cl c va).2 := by
  unfold State.leafOf
  split
  · exact .refl s
  · refine walkFrom_keeps (P := Walked s) (fun p key n k => ?_) (.refl s)
    obtain ⟨ls, e⟩ := State.readPhys_eq (k.armed.trans h) p key n
    rw [e]
    exact k.trans ⟨rfl, rfl, rfl⟩

theorem Walked.translate {s : State} (h : s.armed = []) (cl ctx : Nat) (priv : Bool) (k : Access) (va n : Nat) :
    Walked s (s.translate cl ctx priv k va n).2 := by
  unfold State.translate
  split
  · exact .refl s
  · next c _ =>
    have walked := Walked.leafOf h cl c va
    split
    · next e => rw [e] at walked; exact walked
    · next e =>
      rw [e] at walked
      dsimp only
      split
      · exact walked
      · split
        · exact walked
        · exact walked.trans (.tlbFill ..)

namespace State

/-- A walk keeps the core able to issue. -/
theorem ReadyAt.walked {n : Nat} {s t : State} (h : s.ReadyAt n) (w : Walked s t) : t.ReadyAt n :=
  h.of (by rw [w.core]) (by rw [w.core]) (by rw [w.core]) (by rw [w.core]) (by rw [w.core]) (by rw [w.core]; exact h.check)
    w.armed (by rw [w.core])

/-- A fault keeps as much taken after a walk as before it. -/
theorem keepTaken_walked (s : State) {t u : State} (w : Walked t u) : s.keepTaken u = s.keepTaken t := by
  simp only [keepTaken, w.core, w.parcels]

/-! ## Places (R120 to R122, R361) -/

theorem placeAt_walked {s t : State} (h : s.armed = []) {va n : Nat} {k : Access} {pl : Place}
    (e : s.placeAt va n k = some (pl, t)) : Walked s t := by
  simp only [placeAt] at e
  split at e
  · have walked := Walked.translate h s.myCluster s.myCtx s.core.priv k va n
    split at e
    · next e' => cases e; rw [e'] at walked; exact walked
    · cases e
  · split at e
    · split at e <;> cases e
      exact .refl s
    · split at e <;> cases e
      exact .refl s

/-- An access finds the place that its address names. -/
theorem locate_placeAt {s t : State} {va n : Nat} {k : Access} {pl : Place} (e : s.placeAt va n k = some (pl, t)) (spec : Nat) :
    locate va n k spec s = .ok pl t := by
  unfold locate isGlobal
  simp only [placeAt] at e
  by_cases global : va < 0xFFFFFF000000
  · simp only [global, if_true] at e
    split at e
    · next e' =>
      cases e
      simp [global, bind_run, xlat, e']
    · cases e
  · simp only [global, if_false] at e
    simp only [global, decide_false, Bool.false_eq_true, if_false, bind_run, get_run, ← named.eq_1]
    generalize va % 2 ^ 17 = la at *
    split at e
    · next own =>
      split at e
      · next ok => cases e; simp [own, ok, bind_run]
      · cases e
    · next other =>
      split at e
      · next ok =>
        cases e
        simp only [Bool.and_eq_true, Bool.not_eq_true', decide_eq_true_eq] at ok
        obtain ⟨⟨⟨present, serves⟩, past⟩, banks⟩ := ok
        simp [other, present, serves, Nat.not_lt.2 past, banks, bind_run, map_run]
      · cases e

/-- An access that cannot reach its place takes the fault on the way to it, and leaves what the walk leaves. -/
theorem locate_badPlace {s : State} (h : s.armed = []) {r : RSpec} {va n : Nat} {k : Access} {tr : TrapInfo}
    (e : s.badPlace r va n k = some tr) : ∃ t, locate va n k r.bits s = .error (.trap tr) t ∧ Walked s t := by
  unfold locate isGlobal
  simp only [badPlace] at e
  by_cases global : va < 0xFFFFFF000000
  · simp only [global, if_true] at e
    have walked := Walked.translate h s.myCluster s.myCtx s.core.priv k va n
    refine ⟨_, ?_, walked⟩
    simp only [global, decide_true, if_true, bind_run, xlat, stateOf_run]
    split at e <;> cases e <;> next e' => simp only [e', fault, throw_run]; rfl
  · refine ⟨s, ?_, .refl s⟩
    simp only [global, if_false] at e
    simp only [global, decide_false, Bool.false_eq_true, if_false, bind_run, get_run, ← named.eq_1]
    generalize va % 2 ^ 17 = la at *
    split at e
    · next own =>
      split at e
      · cases e
      · next bad => cases e; simp [own, bad, bind_run, faultIf, fault, simpleTrap]
    · next other =>
      simp only [other, if_false]
      split at e
      · next away => cases e; simp [away, bind_run, faultIf, fault, simpleTrap]
      · next there =>
        simp only [Bool.not_eq_true] at there
        split at e
        · next low => cases e; simp [there, low, bind_run, faultIf, fault, simpleTrap]
        · next past =>
          split at e
          · cases e
          · next bad => cases e; simp [there, past, bad, bind_run, map_run, faultIf, fault, simpleTrap]

/-- An address either reaches its place or has a fault on the way to it. -/
theorem badPlace_none {s : State} {r : RSpec} {va n : Nat} {k : Access} :
    s.badPlace r va n k = none ↔ ∃ pl t, s.placeAt va n k = some (pl, t) := by
  simp only [placeAt, badPlace]
  generalize va % 2 ^ 17 = la
  split
  · cases s.translate s.myCluster s.myCtx s.core.priv k va n with
    | mk a t =>
      cases a with
      | ok x => simp
      | error b => cases b <;> simp
  · split
    · split <;> simp [*]
    · next other =>
      by_cases serves : s.corePresent (s.named va) = true ∧ (s.coreOf (s.named va)).quarantined = false
      · by_cases past : la < 0x400
        · simp [serves, past, Nat.not_le.2 past]
        · by_cases banks : (s.coreOf (s.named va)).scratch la n = true <;> simp [serves, past, Nat.not_lt.1 past, banks]
      · rw [not_and, Bool.not_eq_false] at serves
        by_cases there : s.corePresent (s.named va) = true
        · simp [there, serves there]
        · simp [there]

/-! ## Watch comparators (R406) -/

/-- An access to read or to write, or both, is watched as its kind says. -/
theorem watchedFor_eq {k : Access} (h : k ≠ .exec) (va n : Nat) :
    watchedFor va n k = watched va n (k != .write) (k == .write || k == .both) := by
  cases k with
  | exec => exact absurd rfl h
  | read | write | both => rfl

theorem ReadyAt.watchedFor {m : Nat} {s : State} (h : s.ReadyAt m) {k : Access} (hk : k ≠ .exec) (va n : Nat) :
    Machine.watchedFor va n k s = if s.watches va n k then .error (.trap (simpleTrap cWATCH (.ofNat 64 va))) s else .ok () s := by
  rw [watchedFor_eq hk]
  have same : (isGlobal va && !s.core.cur.act.isCheck &&
      s.core.watch.any (fun w => w.covers va n (k != .write) (k == .write || k == .both))) = s.watches va n k := by
    rw [h.isCheck, Bool.not_false, Bool.and_true]
    rfl
  rw [watched, bind_ok (getC_run s), same]
  cases s.watches va n k <;> rfl

/-- A watch covers the same accesses after a walk. -/
theorem watches_walked {s t : State} (w : Walked s t) (va n : Nat) (k : Access) : t.watches va n k = s.watches va n k := by
  simp only [watches, w.core]

/-! ## The addresses of instructions (R135, R136, R139) -/

theorem ReadyAt.accessReady {n : Nat} {s : State} (h : s.ReadyAt n) (tainted : Bool) : Machine.accessReady tainted s = .ok () s := by
  simp [Machine.accessReady, bind_run, h.slots]

section
variable {m : Nat} {s s1 : State} (h : s.ReadyAt m) {base : RSpec} {b : Val} (hb : s.src base = some (b, s1))
include h hb

theorem ReadyAt.address (clean : b.poison = false) {off : BitVec 5} {unit : Nat}
    (aligned : effAddr b.bits (off.toNat * unit) % unit = 0) :
    Machine.address base off unit s = .ok (effAddr b.bits (off.toNat * unit), b.taint) s1 := by
  rw [Machine.address, bind_ok (h.readClean hb clean), bind_ok ((h.src hb).accessReady _)]
  simp [bind_run, aligned]

theorem ReadyAt.address_poison (bad : b.poison = true) (off : BitVec 5) (unit : Nat) :
    Machine.address base off unit s = .error (.trap (poisonTrap base)) s1 := by
  rw [Machine.address, bind_error (h.readClean_poison hb bad)]

theorem ReadyAt.address_unaligned (clean : b.poison = false) {off : BitVec 5} {unit : Nat}
    (unaligned : effAddr b.bits (off.toNat * unit) % unit ≠ 0) : Machine.address base off unit s =
      .error (.trap (simpleTrap cALIGN (.ofNat 64 (effAddr b.bits (off.toNat * unit))))) s1 := by
  rw [Machine.address, bind_ok (h.readClean hb clean), bind_ok ((h.src hb).accessReady _)]
  simp [bind_run, unaligned, faultIf, fault, simpleTrap]

end

/-- What an address that passes its checks says of itself. -/
theorem address_some {s t : State} {b : Val} {off n : Nat} {k : Access} {pl : Place}
    (e : s.address b off n k = some (pl, t)) :
    b.poison = false ∧ effAddr b.bits off % n = 0 ∧ s.watches (effAddr b.bits off) n k = false ∧
      s.placeAt (effAddr b.bits off) n k = some (pl, t) := by
  simp only [address] at e
  split at e
  · cases e
  · next ok =>
    simp only [Bool.or_eq_true, decide_eq_true_eq, not_or, Bool.not_eq_true, not_not] at ok
    exact ⟨ok.1.1, ok.1.2, ok.2, e⟩

/-- The place of an access that passes its checks. -/
theorem ReadyAt.place {m : Nat} {s t : State} (h : s.ReadyAt m) {va n : Nat} {k : Access} (hk : k ≠ .exec) {pl : Place}
    (e : s.placeAt va n k = some (pl, t)) (free : s.watches va n k = false) (base : RSpec) :
    Machine.place va n k base s = .ok pl t ∧ t.ReadyAt m := by
  have walked := placeAt_walked h.armed e
  have ready := h.walked walked
  refine ⟨?_, ready⟩
  rw [Machine.place, bind_ok (locate_placeAt e _), bind_ok (a := ()) (t := t)]
  · rfl
  · rw [ready.watchedFor hk, watches_walked walked, free]
    rfl

end State

end Sys2Proof.Machine
end

section
/-! SUPPORT. The faults of an address: what each instruction with one address takes, and what it leaves. -/

namespace Sys2Proof.Machine

namespace State

/-! ## The faults of an address (R48, R136, R169, R406) -/

/-- The fault of an access past its alignment: on the way to its place, of a page without queue slots, or a watch. -/
def badReach (s : State) (r : RSpec) (va n : Nat) (k : Access) (qs : Bool) (t : TrapInfo) : Prop :=
  s.badPlace r va n k = some t ∨ ∃ x u, s.placeAt va n k = some (.phys x, u) ∧
    (qs = true ∧ leafQs x.leaf = false ∧ t = simpleTrap cPROT (.ofNat 64 va) ∨
      (qs = true → leafQs x.leaf = true) ∧ s.watches va n k = true ∧ t = simpleTrap cWATCH (.ofNat 64 va))

theorem badAddress_some {s : State} {r : RSpec} {b : Val} {off n : Nat} {k : Access} {qs : Bool} {t : TrapInfo}
    (e : s.badAddress r b off n k qs = some t) :
    b.poison = true ∧ t = poisonTrap r ∨
    b.poison = false ∧ effAddr b.bits off % n ≠ 0 ∧ t = simpleTrap cALIGN (.ofNat 64 (effAddr b.bits off)) ∨
    b.poison = false ∧ effAddr b.bits off % n = 0 ∧ s.badReach r (effAddr b.bits off) n k qs t := by
  simp only [badAddress] at e
  split at e
  · next bad => exact .inl ⟨bad, (Option.some.inj e).symm⟩
  · next clean =>
    have clean := Bool.eq_false_iff.2 clean
    split at e
    · next unaligned => exact .inr (.inl ⟨clean, unaligned, (Option.some.inj e).symm⟩)
    · next aligned =>
      refine .inr (.inr ⟨clean, not_not.1 aligned, ?_⟩)
      split at e
      · next bad => exact .inl (bad.trans e)
      · next x u good there =>
        refine .inr ⟨x, u, there, ?_⟩
        split at e
        · next none =>
          simp only [Bool.and_eq_true, Bool.not_eq_true'] at none
          exact .inl ⟨none.1, none.2, (Option.some.inj e).symm⟩
        · next slots =>
          simp only [Bool.and_eq_true, Bool.not_eq_true', not_and, Bool.not_eq_false] at slots
          split at e
          · next watch => exact .inr ⟨slots, watch, (Option.some.inj e).symm⟩
          · cases e
      · cases e

section
variable {m : Nat} {s : State} (h : s.ReadyAt m) {base : RSpec} {va n : Nat} {k : Access} {t : TrapInfo}
include h

/-- An access that cannot reach its place, or is watched there, takes its fault. -/
theorem ReadyAt.place_bad (hk : k ≠ .exec) (bad : s.badReach base va n k false t) :
    ∃ u, Machine.place va n k base s = .error (.trap t) u ∧ Walked s u := by
  rcases bad with bad | ⟨x, u, there, ⟨⟨⟩, -⟩ | ⟨-, watch, rfl⟩⟩
  · obtain ⟨u, fails, walked⟩ := locate_badPlace h.armed bad
    exact ⟨u, bind_error fails, walked⟩
  · have walked := placeAt_walked h.armed there
    refine ⟨u, ?_, walked⟩
    rw [Machine.place, bind_ok (locate_placeAt there _), bind_error]
    rw [(h.walked walked).watchedFor hk, watches_walked walked, watch]
    rfl

/-- So does one that only a queue-slot page will do for. -/
theorem ReadyAt.fullPlace_bad (hk : k ≠ .exec) (bad : s.badReach base va 8 k true t) :
    ∃ u, fullPlace va k base s = .error (.trap t) u ∧ Walked s u := by
  rcases bad with bad | ⟨x, u, there, faults⟩
  · obtain ⟨u, fails, walked⟩ := locate_badPlace h.armed bad
    exact ⟨u, bind_error fails, walked⟩
  · have walked := placeAt_walked h.armed there
    refine ⟨u, ?_, walked⟩
    rw [fullPlace, bind_ok (locate_placeAt there _)]
    rcases faults with ⟨-, none, rfl⟩ | ⟨slots, watch, rfl⟩
    · exact bind_error (by rw [none]; rfl)
    · refine (bind_ok (by rw [slots rfl]; rfl)).trans (bind_error ?_)
      rw [(h.walked walked).watchedFor hk, watches_walked walked, watch]
      rfl

end

/-- An address that fails a check stops the instruction there, whatever follows. -/
theorem ReadyAt.address_bad {m : Nat} {s s1 : State} (h : s.ReadyAt m) {base : RSpec} {b : Val}
    (hb : s.src base = some (b, s1)) {off : BitVec 5} {n : Nat} {k : Access} {qs : Bool} {t : TrapInfo}
    (e : s1.badAddress base b (off.toNat * n) n k qs = some t) {α β : Type} {body : M β} {g : Nat × Bool → M β}
    (starts : body s = (Machine.address base off n >>= g) s) {reach : M α} {rest : α → M β}
    (split : g (effAddr b.bits (off.toNat * n), b.taint) = reach >>= rest)
    (bad : s1.badReach base (effAddr b.bits (off.toNat * n)) n k qs t → ∃ u, reach s1 = .error (.trap t) u ∧ Walked s1 u) :
    ∃ u, body s = .error (.trap t) u ∧ Walked s1 u := by
  rw [starts]
  rcases badAddress_some e with ⟨poisoned, rfl⟩ | ⟨clean, unaligned, rfl⟩ | ⟨clean, aligned, fails⟩
  · exact ⟨s1, bind_error (h.address_poison hb poisoned off n), .refl s1⟩
  · exact ⟨s1, bind_error (h.address_unaligned hb clean unaligned), .refl s1⟩
  · obtain ⟨u, stops, walked⟩ := bad fails
    refine ⟨u, ?_, walked⟩
    rw [bind_ok (h.address hb clean aligned), split, bind_error stops]

/-! ## The areas of KMEM (R248, R249) -/

theorem saveSettled_free {s : State} (h : s.laneFree = true) : saveSettled s = .ok () s := by
  have free : s.core.busySlots = [] := List.isEmpty_iff.1 h
  simp [saveSettled, bind_run, free]

/-- The place of a piece of an area, beside the piece. -/
def piecePlace (r : RSpec) (k : Access) (p : Nat × Nat) : M (Place × Nat × Nat) := do
  let pl ← locate p.1 p.2 k r.bits
  pure (pl, p.1, p.2)

/-- Each piece of an area leads to its place, in the order of the pieces. -/
theorem places_of_areaAt {r : RSpec} {k : Access} : ∀ {l : List (Nat × Nat)} {s t : State} {ps : List (Place × Nat × Nat)},
    areaAt r k l s = .ok (ps, t) → l.mapM (piecePlace r k) s = .ok ps t ∧ ps.map (·.2) = l
  | [], _, _, _, e => by cases e; exact ⟨rfl, rfl⟩
  | (va, n) :: l, s, t, ps, e => by
    simp only [areaAt] at e
    split at e
    · next pl u _ there =>
      cases e' : areaAt r k l u with
      | error tr => rw [e'] at e; cases e
      | ok x =>
        obtain ⟨qs, v⟩ := x
        rw [e'] at e
        cases e
        obtain ⟨runs, same⟩ := places_of_areaAt e'
        refine ⟨?_, by rw [List.map_cons, same]⟩
        rw [List.mapM_cons]
        refine (bind_ok (a := (pl, va, n)) (t := u) ?_).trans ((bind_ok runs).trans rfl)
        exact (bind_ok (locate_placeAt there _)).trans rfl
    · cases e

/-- The first piece that cannot reach its place gives the fault of its area. -/
theorem places_of_areaAt_error {r : RSpec} {k : Access} {tr : TrapInfo} : ∀ {l : List (Nat × Nat)} {s : State}, s.armed = [] →
    areaAt r k l s = .error tr → ∃ u, l.mapM (piecePlace r k) s = .error (.trap tr) u ∧ Walked s u
  | [], _, _, e => by cases e
  | (va, n) :: l, s, h, e => by
    simp only [areaAt] at e
    rw [List.mapM_cons]
    split at e
    · next pl u _ there =>
      have walked := placeAt_walked h there
      cases e' : areaAt r k l u with
      | ok x => rw [e'] at e; cases e
      | error tr' =>
        rw [e'] at e
        cases e
        obtain ⟨w, stops, more⟩ := places_of_areaAt_error (walked.armed.trans h) e'
        refine ⟨w, ?_, walked.trans more⟩
        refine (bind_ok (a := (pl, va, n)) (t := u) ?_).trans (bind_error stops)
        exact (bind_ok (locate_placeAt there _)).trans rfl
    · next _ none =>
      cases bad : s.badPlace r va n k with
      | none =>
        obtain ⟨pl, u, there⟩ := badPlace_none.1 bad
        exact absurd there (none pl u bad)
      | some tr' =>
        rw [bad] at e
        cases e
        obtain ⟨u, stops, walked⟩ := locate_badPlace h bad
        exact ⟨u, bind_error (bind_error stops), walked⟩

theorem areaAt_walked {r : RSpec} {k : Access} : ∀ {l : List (Nat × Nat)} {s t : State} {ps : List (Place × Nat × Nat)},
    s.armed = [] → areaAt r k l s = .ok (ps, t) → Walked s t
  | [], s, _, _, _, e => by cases e; exact .refl s
  | (va, n) :: l, s, t, ps, h, e => by
    simp only [areaAt] at e
    split at e
    · next pl u _ there =>
      have walked := placeAt_walked h there
      cases e' : areaAt r k l u with
      | error tr => rw [e'] at e; cases e
      | ok x =>
        rw [e'] at e
        cases e
        exact walked.trans (areaAt_walked (walked.armed.trans h) e')
    · cases e

/-- The watch comparators test each piece of an area. -/
def watchAll (k : Access) (ps : List (Place × Nat × Nat)) : M PUnit :=
  forIn ps PUnit.unit fun p _ => do
    Machine.watchedFor p.2.1 p.2.2 k
    pure (.yield PUnit.unit)

theorem kmemPlaces_eq (r : RSpec) (unit n : Nat) (k : Access) : kmemPlaces r unit n k = (do
    saveSettled
    let v ← readClean r
    Machine.accessReady v.taint
    faultIf (addr48 v.bits % unit != 0) cALIGN (addr48 v.bits)
    let ps ← (areaPieces (addr48 v.bits) n).mapM (piecePlace r k)
    let _ ← watchAll k ps
    pure (ps, v.taint)) := by
  simp only [areaPieces, List.mapM_map]
  rfl

theorem watchAll_cons (k : Access) (p : Place × Nat × Nat) (ps : List (Place × Nat × Nat)) :
    watchAll k (p :: ps) = (do Machine.watchedFor p.2.1 p.2.2 k; watchAll k ps) := by
  rw [watchAll, List.forIn_cons, bind_assoc]
  rfl

theorem faultIf_not {b : Bool} (h : b = false) (cause : Nat) (va : Nat) (s : State) : faultIf b cause va s = .ok () s := by
  rw [h]
  rfl

/-- No piece is watched. -/
theorem ReadyAt.watchAll {m : Nat} {s : State} (h : s.ReadyAt m) {k : Access} (hk : k ≠ .exec) :
    ∀ {ps : List (Place × Nat × Nat)}, (∀ x ∈ ps.map (·.2), s.watches x.1 x.2 k = false) → State.watchAll k ps s = .ok ⟨⟩ s
  | [], _ => rfl
  | p :: ps, free => by
    rw [watchAll_cons, bind_ok (a := ()) (t := s)]
    · exact h.watchAll hk fun x hx => free x (.tail _ hx)
    · rw [h.watchedFor hk, free p.2 (.head _)]
      rfl

/-- The first piece that is watched takes WATCH. -/
theorem ReadyAt.watchAll_watched {m : Nat} {s : State} (h : s.ReadyAt m) {k : Access} (hk : k ≠ .exec) {x : Nat × Nat} :
    ∀ {ps : List (Place × Nat × Nat)}, (ps.map (·.2)).find? (fun x => s.watches x.1 x.2 k) = some x →
      State.watchAll k ps s = .error (.trap (simpleTrap cWATCH (.ofNat 64 x.1))) s
  | [], e => by cases e
  | p :: ps, e => by
    rw [watchAll_cons]
    rw [List.map_cons, List.find?_cons] at e
    have one := h.watchedFor hk p.2.1 p.2.2
    split at e
    · next watch =>
      cases e
      exact bind_error (one.trans (if_pos watch))
    · next free =>
      rw [bind_ok (one.trans (if_neg (by simp [free])))]
      exact h.watchAll_watched hk e

section
variable {m : Nat} {s s1 : State} (h : s.ReadyAt m) (free : s.laneFree = true) {r : RSpec} {v : Val}
  (hv : s.src r = some (v, s1)) {unit n : Nat} {k : Access}
include h free hv

/-- A KMEM member waits for no save of the press, and reads its base. -/
theorem ReadyAt.kmemPlaces_poison (bad : v.poison = true) :
    Machine.kmemPlaces r unit n k s = .error (.trap (poisonTrap r)) s1 := by
  rw [kmemPlaces_eq, bind_ok (saveSettled_free free), bind_error (h.readClean_poison hv bad)]

theorem ReadyAt.kmemPlaces_clean (clean : v.poison = false) : Machine.kmemPlaces r unit n k s = (do
    faultIf (addr48 v.bits % unit != 0) cALIGN (addr48 v.bits)
    let ps ← (areaPieces (addr48 v.bits) n).mapM (piecePlace r k)
    let _ ← State.watchAll k ps
    pure (ps, v.taint)) s1 := by
  rw [kmemPlaces_eq, bind_ok (saveSettled_free free), bind_ok (h.readClean hv clean), bind_ok ((h.src hv).accessReady _)]

theorem ReadyAt.kmemPlaces_unaligned (clean : v.poison = false) (unaligned : addr48 v.bits % unit ≠ 0) :
    Machine.kmemPlaces r unit n k s = .error (.trap (simpleTrap cALIGN (.ofNat 64 (addr48 v.bits)))) s1 := by
  rw [h.kmemPlaces_clean free hv clean]
  simp [bind_run, unaligned, faultIf, fault, simpleTrap]

section
variable (clean : v.poison = false) (aligned : addr48 v.bits % unit = 0)
include clean aligned

theorem ReadyAt.kmemPlaces_unplaced {t : TrapInfo} (area : areaAt r k (areaPieces (addr48 v.bits) n) s1 = .error t) :
    ∃ u, Machine.kmemPlaces r unit n k s = .error (.trap t) u ∧ Walked s1 u := by
  obtain ⟨u, stops, walked⟩ := places_of_areaAt_error (h.src hv).armed area
  refine ⟨u, ?_, walked⟩
  rw [h.kmemPlaces_clean free hv clean, bind_ok (faultIf_not (by simp [aligned]) _ _ _), bind_error stops]

variable (hk : k ≠ .exec)
include hk

theorem ReadyAt.kmemPlaces {s2 : State} {ps : List (Place × Nat × Nat)}
    (area : areaAt r k (areaPieces (addr48 v.bits) n) s1 = .ok (ps, s2))
    (unwatched : ∀ x ∈ areaPieces (addr48 v.bits) n, s2.watches x.1 x.2 k = false) :
    Machine.kmemPlaces r unit n k s = .ok (ps, v.taint) s2 := by
  have ready := (h.src hv).walked (areaAt_walked (h.src hv).armed area)
  obtain ⟨places, pieces⟩ := places_of_areaAt area
  rw [h.kmemPlaces_clean free hv clean, bind_ok (faultIf_not (by simp [aligned]) _ _ _), bind_ok places,
    bind_ok (ready.watchAll hk (pieces ▸ unwatched))]
  rfl

theorem ReadyAt.kmemPlaces_watched {s2 : State} {ps : List (Place × Nat × Nat)} {x : Nat × Nat}
    (area : areaAt r k (areaPieces (addr48 v.bits) n) s1 = .ok (ps, s2))
    (watch : (areaPieces (addr48 v.bits) n).find? (fun x => s2.watches x.1 x.2 k) = some x) :
    Machine.kmemPlaces r unit n k s = .error (.trap (simpleTrap cWATCH (.ofNat 64 x.1))) s2 ∧ Walked s1 s2 := by
  have walked := areaAt_walked (h.src hv).armed area
  have ready := (h.src hv).walked walked
  obtain ⟨places, pieces⟩ := places_of_areaAt area
  refine ⟨?_, walked⟩
  rw [h.kmemPlaces_clean free hv clean, bind_ok (faultIf_not (by simp [aligned]) _ _ _), bind_ok places,
    bind_error (ready.watchAll_watched hk (pieces ▸ watch))]

end

end

/-- An area of one block is its one piece. -/
theorem areaPieces_block (x : Word) : areaPieces (addr48 x) 64 = [(addr48 x, 64)] := by
  have lt : addr48 x < 281474976710656 := Nat.mod_lt _ (by decide)
  simp [areaPieces, lt]

/-- A block that fails a check stops its member there. -/
theorem ReadyAt.kmemPlaces_bad {m : Nat} {s s1 : State} (h : s.ReadyAt m) (free : s.laneFree = true) {r : RSpec} {v : Val}
    (hv : s.src r = some (v, s1)) {k : Access} (hk : k ≠ .exec) {t : TrapInfo}
    (e : s1.badAddress r v 0 64 k false = some t) :
    ∃ u, Machine.kmemPlaces r 64 64 k s = .error (.trap t) u ∧ Walked s1 u := by
  have va : effAddr v.bits 0 = addr48 v.bits := rfl
  rcases badAddress_some e with ⟨poisoned, rfl⟩ | ⟨clean, unaligned, rfl⟩ | ⟨clean, aligned, fails⟩
  · exact ⟨s1, h.kmemPlaces_poison free hv poisoned, .refl s1⟩
  · exact ⟨s1, h.kmemPlaces_unaligned free hv clean unaligned, .refl s1⟩
  · rcases fails with bad | ⟨x, u, there, ⟨⟨⟩, -⟩ | ⟨-, watch, rfl⟩⟩
    · refine h.kmemPlaces_unplaced free hv clean aligned ?_
      rw [areaPieces_block, areaAt, ← va, bad]
      rfl
    · have good : s1.badPlace r (effAddr v.bits 0) 64 k = none := badPlace_none.2 ⟨_, _, there⟩
      have area : areaAt r k (areaPieces (addr48 v.bits) 64) s1 = .ok ([(.phys x, addr48 v.bits, 64)], u) := by
        rw [areaPieces_block, areaAt, ← va, good, there]
        rfl
      refine ⟨u, h.kmemPlaces_watched free hv clean aligned hk (x := (addr48 v.bits, 64)) area ?_⟩
      rw [areaPieces_block, List.find?_cons, watches_walked (placeAt_walked (h.src hv).armed there), ← va, watch]

end State

/-! ## Instructions with one address (Tables 6.6, 7.4, 10.6) -/

section
variable {i : Instr} {base : RSpec} {off n : Nat} {k : Access} {qs : Bool} (h : Addressed i base off n k qs)
include h

theorem Addressed.priv : i.priv = false := by cases h <;> rfl

theorem Addressed.odd : encode i % 2 = 1 := by cases h <;> simp only [encode] <;> omega

theorem Addressed.regs_lt : ∀ r ∈ i.regs, r < 32 := by
  have both (a b : RSpec) : ∀ r ∈ a.regs ++ b.regs, r < 32 := fun r hr =>
    (List.mem_append.1 hr).elim (RSpec.regs_lt a r) (RSpec.regs_lt b r)
  cases h with
  | ld | ldu | ldc | st | lds | ldsE | stf => exact both _ _
  | ldv | stv | zfill | kld | kst => exact RSpec.regs_lt _

/-- What an instruction with one address does where the address fails a check. -/
theorem Addressed.stops {s s1 : State} (hs : s.Ready) (free : s.laneFree = true) {b : Val} (hb : s.src base = some (b, s1))
    {t : TrapInfo} (e : s1.badAddress base b off n k qs = some t) :
    ∃ body, exec i s = run (formOf i) body s ∧ ∃ u, body s = .error (.trap t) u ∧ Walked s1 u := by
  have ready := hs.src hb
  cases h with
  | ld | ldu | ldc | ldv =>
    exact ⟨_, rfl, hs.address_bad hb e (bind_ok (hs.takeSlot _)) rfl (ready.place_bad nofun)⟩
  | st | stv | zfill => exact ⟨_, rfl, hs.address_bad hb e rfl rfl (ready.place_bad nofun)⟩
  | lds | ldsE => exact ⟨_, rfl, hs.address_bad hb e (bind_ok (hs.takeSlot _)) rfl (ready.fullPlace_bad nofun)⟩
  | stf => exact ⟨_, rfl, hs.address_bad hb e rfl rfl (ready.fullPlace_bad nofun)⟩
  | kld =>
    obtain ⟨u, stops, walked⟩ := hs.kmemPlaces_bad free hb (k := .read) nofun e
    exact ⟨_, rfl, u, bind_error stops, walked⟩
  | kst =>
    obtain ⟨u, stops, walked⟩ := hs.kmemPlaces_bad free hb (k := .write) nofun e
    exact ⟨_, rfl, u, bind_error stops, walked⟩

end

end Sys2Proof.Machine
end

section
/-! SUPPORT. How a memory instruction ends, and what its reads give: of the core's own memory, of another core's, and through
a page. -/

namespace Sys2Proof.Machine

/-! ## The end of an instruction of four bytes -/

/-- The meaning of an instruction of four bytes runs to its end and leaves `u`. -/
def Ends (b : M Flow) (s u : State) : Prop := ∃ fl t, b s = .ok fl t ∧ ∀ f : Form, f.len = 4 → t.complete f fl = u

theorem Ends.after_bind {α : Type} {x : M α} {g : α → M Flow} {s t u : State} {a : α} (h : x s = .ok a t)
    (e : Ends (g a) t u) : Ends (x >>= g) s u := by
  obtain ⟨fl, v, runs, ends⟩ := e
  exact ⟨fl, v, (bind_ok h).trans runs, ends⟩

namespace State

/-- An unprivileged instruction of four bytes does what its meaning does. -/
theorem ReadyAt.exec_ends {n : Nat} {s u : State} {i : Instr} {b : M Flow} (h : s.ReadyAt n)
    (runs : exec i s = run (formOf i) b s) (hw : i.wf = true) (pr : i.priv = false) (odd : encode i % 2 = 1)
    (rg : ∀ r ∈ i.regs, r < n) (e : Ends b s u) : exec i s = .next u := by
  obtain ⟨fl, t, body, ends⟩ := e
  rw [runs, run_ok (h.issue hw (.inl pr) rg) body, ends _ (formOf_word odd).1]

/-- Nothing opens a window: the next instruction follows. -/
theorem ReadyAt.ends_next {n : Nat} {t : State} (h : t.ReadyAt n) : Ends (pure (.next none)) t (t.after 4) :=
  ⟨.next none, t, rfl, fun f len => by rw [complete_next h.slots h.loops, len]⟩

/-- A window that opens and whose write is not to be made yet stands open, alone (R39, R40). -/
theorem complete_awaits {s : State} (h : s.core.cur.slots = []) (l : s.core.cur.loops = []) {sl : Slot} (waits : sl.ready = false)
    (hc : sl.cancelled = false) (f : Form) : s.complete f (.next (some sl)) = (s.withSlots [sl]).after f.len := by
  have opens (u : State) (hu : u.core.cur.slots = []) : u.tick (some sl) = u.withSlots [sl] := by
    have opened : u.openSlot sl = u.withSlots [sl] := by
      simp only [openSlot, hu, List.nil_append, cancelOlder]
      split <;> rfl
    have held : (u.withSlots [sl]).applyHeld = u.withSlots [sl] := by
      have : (u.withSlots [sl]).core.cur.slots = [sl] := rfl
      simp only [applyHeld, this, applyList, hc, waits, Bool.false_and]
      rfl
    have before := tick_none hu
    simp only [tick] at before ⊢
    rw [before, opened, held]
  change endTests 3 ((s.issued.tick (some sl)).advance f.len) = _
  rw [opens s.issued h]
  exact endTests_none (s := (s.issued.withSlots [sl]).advance f.len) l 3

/-- A window that opens without its value, or for later, ends its carrier. -/
theorem ReadyAt.ends_opened {n : Nat} {t : State} (h : t.ReadyAt n) {d : Dest} {l : Nat} {v : Option Payload} {g : Slot → Slot}
    (waits : (g (t.pending d l v)).ready = false) (hc : (g (t.pending d l v)).cancelled = false) :
    Ends (pure (.next (some (g (t.pending d l v))))) { t with uid := t.uid + 1 } (t.opened d l v g 4) :=
  ⟨_, _, rfl, fun f len => by
    rw [complete_awaits (by exact h.slots) (by exact h.loops) waits hc, len]
    rfl⟩

/-- A result known at issue ends its carrier (R39). -/
theorem ReadyAt.ends_carry {n : Nat} {s u : State} (h : s.ReadyAt n) {r : RSpec} {l : BitVec 4} {v : Val}
    (e : s.yields r l v = some u) : Ends (Machine.carry r l v) s u := by
  unfold yields at e
  split at e
  · next now =>
    subst now
    obtain ⟨t, put, rfl⟩ := Option.map_eq_some_iff.1 e
    obtain ⟨fl, w, runs, ends⟩ := (h.dst put).ends_next
    cases runs
    exact ⟨_, _, h.carry_now put, ends⟩
  · next later =>
    obtain ⟨t, opens, rfl⟩ := Option.map_eq_some_iff.1 e
    obtain ⟨ready, runs⟩ := h.openable opens
    have open' : l.toNat ≠ 0 := fun z => later (BitVec.eq_of_toNat_eq z)
    obtain ⟨fl, w, opened, ends⟩ := ready.ends_opened (d := .reg r) (l := l.toNat) (v := some (.word v)) (g := id)
      (by simp [Slot.ready, pending, open']) rfl
    cases opened
    exact ⟨_, _, runs l v later, ends⟩

/-! ## Requests (R45) -/

/-- The request of a carrier sets out, beside its pending write. -/
def sending (d : Dest) (l : Nat) (use : LineUse) (kind : ReqKind) (g : Slot → Slot) : M Flow := do
  let sl ← newSlot d l none
  modify (fun s => { s with reqs := s.reqs ++
    [{ uid := sl.uid, core := s.core.id, act := s.core.cur.act.uid, kind := kind, served := false, slice := none
       use := use, after := s.core.cur.act.fence }] })
  pure (.next (some (g sl)))

/-- The machine with a request of the running activation on its way. -/
def withRequest (s : State) (use : LineUse) (kind : ReqKind) : State := { s with reqs := s.reqs ++
  [{ uid := s.uid, core := s.core.id, act := s.core.cur.act.uid, kind := kind, served := false, slice := none
     use := use, after := s.core.cur.act.fence }] }

/-- A request sets out, and the pending write awaits its answer. -/
theorem ReadyAt.ends_sending {n : Nat} {s : State} (h : s.ReadyAt n) {d : Dest} {l : Nat} {use : LineUse} {kind : ReqKind}
    {g : Slot → Slot} (waits : ∀ sl : Slot, sl.here = false → (g sl).here = false)
    (stands : ∀ sl : Slot, (g sl).cancelled = sl.cancelled) :
    Ends (sending d l use kind g) s ((s.withRequest use kind).opened d l none g 4) := by
  have ready := h.of (t := s.withRequest use kind) rfl rfl rfl rfl rfl h.check rfl rfl
  obtain ⟨fl, w, opened, ends⟩ := ready.ends_opened (d := d) (l := l) (v := none) (g := g)
    (by rw [Slot.ready, waits _ rfl, Bool.and_false]) (stands _)
  cases opened
  exact ⟨_, _, rfl, ends⟩

/-- A carrier that asks a home ends with its request on its way. -/
theorem ReadyAt.ends_request {n : Nat} {s u : State} (h : s.ReadyAt n) {d : Dest} {l : BitVec 4} {use : LineUse} {kind : ReqKind}
    {g : Slot → Slot} (waits : ∀ sl : Slot, sl.here = false → (g sl).here = false)
    (stands : ∀ sl : Slot, (g sl).cancelled = sl.cancelled) (e : s.asks d l use kind g = some u) :
    Ends (request d l.toNat use kind g) s u := by
  cases d with
  | row v | tld a b c =>
    cases e
    exact h.ends_sending waits stands
  | reg r =>
    obtain ⟨t, opens, rfl⟩ := Option.map_eq_some_iff.1 e
    cases r with
    | w i | z =>
      cases opens
      exact h.ends_sending waits stands
    | inp d | inq => cases opens
    | out o =>
      obtain ⟨con, act⟩ : s.connected s.core.id o = true ∧ s.irrevocably = some t := by
        simpa [State.openable] using opens
      obtain ⟨runs, ready, -⟩ := h.irrevocable act
      have check : chanCheck o (32 + o.num) s = .ok () s := by simp [chanCheck, bind_run, con]
      obtain ⟨fl, v, sent, ends⟩ := ready.ends_sending waits stands
      exact ⟨fl, v, (bind_ok check).trans ((bind_ok runs).trans sent), ends⟩

/-! ## Reads of local memory (R122, R155) -/

theorem ReadyAt.inOrder {n : Nat} {s : State} (_ : s.ReadyAt n) (e : s.ordered = true) : Machine.inOrder s = .ok () s := by
  rw [Machine.inOrder, bind_ok (get_run s)]
  exact (waitUntil_run _ s).trans (if_pos e)

/-- A loop whose body goes on and leaves the machine as it was does nothing. -/
theorem forIn_skip {s : State} {α : Type} {f : α → PUnit → M (ForInStep PUnit)} (skips : ∀ a, f a ⟨⟩ s = .ok (.yield ⟨⟩) s) :
    ∀ l : List α, forIn l PUnit.unit f s = .ok ⟨⟩ s
  | [] => rfl
  | a :: l => by
    rw [List.forIn_cons, bind_ok (skips a)]
    exact forIn_skip skips l

theorem reading_eq {s : State} (h : s.core.cur.act.check = none) (la n : Nat) :
    ∃ a, s.reading la n = { s with core := { s.core with cur := { s.core.cur with act := a } } } ∧ a.check = none ∧
      a.granules = s.core.cur.act.granules ∧ a.uid = s.core.cur.act.uid ∧ a.fence = s.core.cur.act.fence ∧
      (s.core.cur.act.sampled = false → a.sampled = false) := by
  unfold reading
  split
  · exact ⟨s.core.cur.act, rfl, h, rfl, rfl, rfl, id⟩
  · rw [uncheck_eq h]
    exact ⟨_, rfl, rfl, rfl, rfl, rfl, fun _ => rfl⟩

theorem ReadyAt.reading {n : Nat} {s : State} (h : s.ReadyAt n) (la m : Nat) : (s.reading la m).ReadyAt n := by
  obtain ⟨a, e, check, -⟩ := reading_eq h.check la m
  rw [e]
  exact h.of rfl rfl rfl rfl rfl check rfl rfl

/-- A read of local memory leaves its bytes. -/
theorem ReadyAt.localBytes_reading {n : Nat} {s : State} (h : s.ReadyAt n) (la m lb k : Nat) :
    (s.reading la m).localBytes lb k = s.localBytes lb k := by
  have plain := h.isCheck
  obtain ⟨a, e, check, -⟩ := reading_eq h.check la m
  have still : a.isCheck = false := by simp [Act.isCheck, check]
  rw [e]
  simp only [localBytes, Core.byteAt, Core.viewMem, Core.viewPois, Core.privateAt, plain, still, Bool.false_and]

theorem ReadyAt.readHere {m : Nat} {s : State} (h : s.ReadyAt m) (ord : s.ordered = true) (la n : Nat) :
    Machine.readHere la n s = .ok ((s.reading la n).localBytes la n) (s.reading la n) := by
  have ready := h.reading la n
  have read : localRead la n s = .ok () (s.reading la n) := by
    rw [localRead, bind_ok (getC_run s), State.reading]
    cases s.core.cur.act.ownsLocal la n <;> rfl
  have bytes : readBytes la n (s.reading la n) = .ok ((s.reading la n).localBytes la n) (s.reading la n) := by
    rw [readBytes, bind_ok (getC_run _), ready.privateAt]
    simp [bind_run, meetLocal, ready.armed]
    rfl
  rw [Machine.readHere, bind_ok (getC_run s), bind_ok (forIn_skip (fun i => bind_ok (h.needs _)) _), bind_ok (h.inOrder ord), bind_ok read, bytes]

/-! ## Reads through pages (R124, R131, R158, R159) -/

theorem ReadyAt.readsPage {n : Nat} {s t : State} (h : s.ReadyAt n) {x : Xlat} (e : s.readsPage x = some t) :
    globalRead x s = .ok () t ∧ t.ReadyAt n := by
  have last (u : State) (hu : u.ReadyAt n) (e : (if leafImm x.leaf then u else u.uncheck) = t) :
      (if !leafImm x.leaf then Machine.uncheck else pure ()) u = .ok () t ∧ t.ReadyAt n := by
    rw [← e]
    cases leafImm x.leaf with
    | true => exact ⟨rfl, hu⟩
    | false => exact ⟨rfl, hu.unchecked⟩
  unfold State.readsPage at e
  obtain ⟨u, first, e⟩ := Option.map_eq_some_iff.1 e
  unfold globalRead
  cases take : isPeerPA x.pa && takeOffset (x.pa % 2 ^ 38) with
  | false =>
    rw [take] at first
    cases first
    exact last s h e
  | true =>
    rw [take] at first
    obtain ⟨runs, ready, -⟩ := h.irrevocable first
    obtain ⟨rest, r⟩ := last u ready e
    exact ⟨(bind_ok runs).trans rest, r⟩

/-- What the L1 or a page of zeros answers, or the home that is asked. -/
theorem ReadyAt.sourceOf {m : Nat} {s t : State} (h : s.ReadyAt m) {x : Xlat} (e : s.readsPage x = some t) (n : Nat)
    (hint : BitVec 2) (home : Bool) : Machine.sourceOf x n hint.toNat home s = .ok (match t.readNear x n home with
      | some bs => .now bs
      | none => .home (.phys (t.keyHere x.pa)) (fillsL1 x hint home)) t := by
  have hints : (hint.toNat == 0 || hint.toNat == 3) = (hint == 0 || hint == 3) := by
    have (k : BitVec 2) : (hint.toNat == k.toNat) = (hint == k) := by
      rw [Bool.eq_iff_iff, beq_iff_eq, beq_iff_eq]
      exact ⟨BitVec.eq_of_toNat_eq, congrArg _⟩
    exact congr (congrArg _ (this 0)) (this 3)
  have wb : (leafPol x.leaf == 0) = decide (leafPol x.leaf = 0) := rfl
  rw [Machine.sourceOf, bind_ok (h.readsPage e).1, bind_ok (get_run t)]
  simp only [readNear, fillsL1, l1Allowed, hints, wb]
  cases leafZero x.leaf with
  | true => rfl
  | false =>
    by_cases near : leafPol x.leaf = 0 ∧ home = false
    · obtain ⟨pol, rfl⟩ := near
      simp only [pol, decide_true, Bool.not_false, Bool.and_true, Bool.true_and, if_true, and_self, Bool.false_eq_true, if_false]
      cases t.core.l1Hit (t.keyHere x.pa) with
      | none => rfl
      | some a =>
        dsimp only
        cases t.core.l1Hit (t.keyHere x.pa + 128) with
        | none => split <;> rfl
        | some b => split <;> rfl
    · have away : (decide (leafPol x.leaf = 0) && !home) = false := by
        rw [Bool.eq_false_iff]
        intro both
        exact near (by simpa using both)
      simp [near, away]

end State

end Sys2Proof.Machine
end

section
/-! SUPPORT. Scalar loads: the place that a base leads to, and what a load does there. -/

namespace Sys2Proof.Machine

namespace State

/-- An access of the core's own window passes its checks, and leads to its local address. -/
theorem address_of_ownAddr {s : State} {b : Val} {off n la : Nat} (e : s.ownAddr b off n = some la) (k : Access) :
    s.address b off n k = some (.here la, s) ∧ la = effAddr b.bits off % 2 ^ 17 ∧ s.core.scratch la n = true := by
  simp only [ownAddr] at e
  split at e
  · next ok =>
    simp only [Bool.and_eq_true, Bool.not_eq_true', decide_eq_true_eq] at ok
    obtain ⟨⟨⟨clean, high, own⟩, aligned⟩, banks⟩ := ok
    cases e
    refine ⟨?_, rfl, banks⟩
    simpa [address, placeAt, watches, clean, aligned, Nat.not_lt.2 high, own] using banks
  · cases e

/-- An access that passes its checks goes on from its place. -/
theorem ReadyAt.ends_address {m : Nat} {s s1 t u : State} (h : s.ReadyAt m) {base : RSpec} {b : Val}
    (hb : s.src base = some (b, s1)) {off : BitVec 5} {n : Nat} {k : Access} {pl : Place}
    (e : s1.address b (off.toNat * n) n k = some (pl, t)) (hk : k ≠ .exec) {g : Nat × Bool → M Flow} {rest : Place → M Flow}
    (split : g (effAddr b.bits (off.toNat * n), b.taint) = Machine.place (effAddr b.bits (off.toNat * n)) n k base >>= rest)
    (ends : t.ReadyAt m → Ends (rest pl) t u) : Ends (Machine.address base off n >>= g) s u := by
  obtain ⟨clean, aligned, free, there⟩ := address_some e
  obtain ⟨reaches, ready⟩ := (h.src hb).place hk there free base
  refine .after_bind (h.address hb clean aligned) ?_
  rw [split]
  exact .after_bind reaches (ends ready)

end State

/-- An instruction with one address does what its meaning does. -/
theorem Addressed.exec_ends {i : Instr} {base : RSpec} {off n : Nat} {k : Access} {qs : Bool} (h : Addressed i base off n k qs)
    {s u : State} (hs : s.Ready) (hw : i.wf = true) {body : M Flow} (runs : exec i s = run (formOf i) body s)
    (e : Ends body s u) : exec i s = .next u :=
  hs.exec_ends runs hw h.priv h.odd h.regs_lt e

/-- An instruction with one address that fails a check takes its fault, and keeps what its base took (R73). -/
theorem Addressed.exec_stops {i : Instr} {base : RSpec} {off n : Nat} {k : Access} {qs : Bool} (h : Addressed i base off n k qs)
    {s s1 : State} (hs : s.Ready) (hw : i.wf = true) (free : s.laneFree = true) {b : Val} (hb : s.src base = some (b, s1))
    {t : TrapInfo} (e : s1.badAddress base b off n k qs = some t) :
    exec i s = .next ((s.keepTaken s1).takeTrap t s.core.cur.pc (encode i / 2 % 64)) := by
  obtain ⟨body, runs, u, stops, walked⟩ := h.stops hs free hb e
  have issued : (do issue (formOf i); body : M Flow) s = .error (.trap t) u :=
    (bind_ok (hs.issue hw (.inl h.priv) h.regs_lt)).trans stops
  rw [runs, State.run_trap hs.armed issued, s.keepTaken_walked walked, (formOf_word h.odd).2]

/-! ## Loads (Table 6.6) -/

section
variable {t base : RSpec} {off : BitVec 5} {hint size : BitVec 2} {l : BitVec 4} {sx ldc : Bool}

theorem Load.addressed {i : Instr} (h : Load i t base off size l sx ldc) :
    Addressed i base (off.toNat * 2 ^ size.toNat) (2 ^ size.toNat) .read false := by
  cases h with
  | ld => exact .ld ..
  | ldu => exact .ldu ..
  | ldc => exact .ldc ..

/-- A member that loads is `loadInstr` with its extension and its taint. -/
theorem Load.exec_eq {i : Instr} (h : Load i t base off size l sx ldc) (s : State) :
    ∃ hint, exec i s = run (formOf i) (loadInstr t base off hint size l sx ldc) s := by
  cases h <;> exact ⟨_, rfl⟩

variable {s s1 s2 u : State} {n : Nat} (h : s.ReadyAt n) {b : Val} (hb : s.src base = some (b, s1))
include h hb

/-- A load of the core's own memory reads its bytes now. -/
theorem State.ReadyAt.ends_load_here {la : Nat}
    (own : s1.ownAddr b (off.toNat * 2 ^ size.toNat) (2 ^ size.toNat) = some la) (ord : s1.ordered = true)
    (e : (s1.reading la (2 ^ size.toNat)).yields t l (loaded ((s1.reading la (2 ^ size.toNat)).localBytes la (2 ^ size.toNat)) sx
      (b.taint || ldc)) = some u) : Ends (loadInstr t base off hint size l sx ldc) s u := by
  refine .after_bind (h.takeSlot _) (h.ends_address hb (State.address_of_ownAddr own .read).1 nofun rfl fun ready => ?_)
  exact .after_bind (ready.readHere ord _ _) ((ready.reading _ _).ends_carry e)

/-- One of another core's asks it. -/
theorem State.ReadyAt.ends_load_core {id la : Nat}
    (away : s1.address b (off.toNat * 2 ^ size.toNat) (2 ^ size.toNat) .read = some (.core id la, s2))
    (e : s2.uncheck.asks (.reg t) l .bypass (.load (.loc id la) (2 ^ size.toNat) sx (b.taint || ldc) false)
      (fun sl => { sl with load := true, ldc := ldc }) = some u) : Ends (loadInstr t base off hint size l sx ldc) s u := by
  refine .after_bind (h.takeSlot _) (h.ends_address hb away nofun rfl fun ready => ?_)
  exact .after_bind (modify_run _ _) (ready.unchecked.ends_request (fun _ here => here) (fun _ => rfl) e)

section
variable {x : Xlat} {s3 : State}
  (page : s1.address b (off.toNat * 2 ^ size.toNat) (2 ^ size.toNat) .read = some (.phys x, s2)) (reads : s2.readsPage x = some s3)
include page reads

/-- One through a page whose bytes are at hand takes them. -/
theorem State.ReadyAt.ends_load_near {bs : List (Byte × Bool)} (near : s3.readNear x (2 ^ size.toNat) (b.taint || ldc) = some bs)
    (e : s3.yields t l (loaded bs sx (b.taint || ldc)) = some u) : Ends (loadInstr t base off hint size l sx ldc) s u := by
  refine .after_bind (h.takeSlot _) (h.ends_address hb page nofun rfl fun ready => ?_)
  refine .after_bind (ready.sourceOf reads _ _ _) ?_
  rw [near]
  exact (ready.readsPage reads).2.ends_carry e

/-- Else it asks the home. -/
theorem State.ReadyAt.ends_load_home (away : s3.readNear x (2 ^ size.toNat) (b.taint || ldc) = none)
    (e : s3.asks (.reg t) l (x.use (hintUse hint.toNat)) (.load (.phys (s3.keyHere x.pa)) (2 ^ size.toNat) sx (b.taint || ldc)
      (fillsL1 x hint (b.taint || ldc))) (fun sl => { sl with load := true, ldc := ldc }) = some u) :
    Ends (loadInstr t base off hint size l sx ldc) s u := by
  refine .after_bind (h.takeSlot _) (h.ends_address hb page nofun rfl fun ready => ?_)
  refine .after_bind (ready.sourceOf reads _ _ _) ?_
  rw [away]
  exact (ready.readsPage reads).2.ends_request (fun _ here => here) (fun _ => rfl) e

end

end

end Sys2Proof.Machine

open Sys2Proof Sys2Proof.Machine

/-- Settles O21: a load goes on from the place of its address, with the bytes that stand there or with a request to their
home; an address that fails a check stops its instruction before anything else. -/
theorem localLoads : Obligations.LocalLoads := by
  unfold Obligations.LocalLoads
  refine ⟨fun s s1 i t base off size l sx ldc b la load hw hs hb own ord => ?here,
    fun s s1 s2 u i t base off hint size l sx ldc b id la member hw hs hb => ?away,
    fun s s1 i base off n k qs b t one hw hs free hb bad => one.exec_stops hs hw free hb bad⟩
  case here =>
    obtain ⟨hint, runs⟩ := load.exec_eq s
    refine ⟨fun u now put => load.addressed.exec_ends hs hw runs (hs.ends_load_here hb own ord ?_),
      fun u later opens => load.addressed.exec_ends hs hw runs (hs.ends_load_here hb own ord ?_)⟩
    · rw [State.yields, if_pos now, put]
      rfl
    · rw [State.yields, if_neg later, opens]
      rfl
  case away =>
    obtain ⟨runs, load⟩ : exec i s = run (formOf i) (loadInstr t base off hint size l sx ldc) s ∧
        Load i t base off size l sx ldc := by
      rcases member with ⟨rfl, rfl, rfl⟩ | ⟨rfl, rfl, rfl⟩ | ⟨rfl, rfl, rfl⟩
      · exact ⟨rfl, .ld ..⟩
      · exact ⟨rfl, .ldu ..⟩
      · exact ⟨rfl, .ldc ..⟩
    have ends (e : Ends (loadInstr t base off hint size l sx ldc) s u) : exec i s = .next u :=
      load.addressed.exec_ends hs hw runs e
    exact ⟨fun core asked => ends (hs.ends_load_core hb core asked), fun x s3 page reads =>
      ⟨fun bs near result => ends (hs.ends_load_near hb page reads near result),
        fun away asked => ends (hs.ends_load_home hb page reads away asked)⟩⟩
end

section
/-! SUPPORT. What a store leaves: in the core's own memory, and on its way elsewhere. -/

namespace Sys2Proof.Machine

namespace State

/-- An address that is found leaves the core as it stands. -/
theorem address_walked {s t : State} (h : s.armed = []) {b : Val} {off n : Nat} {k : Access} {pl : Place}
    (e : s.address b off n k = some (pl, t)) : Walked s t :=
  placeAt_walked h (address_some e).2.2.2

/-- So it samples no activation, and the core can still issue. -/
theorem ReadyAt.address_unsampled {m : Nat} {s s1 s2 : State} (h : s.ReadyAt m) (plain : s.core.cur.act.sampled = false)
    {base : RSpec} {b : Val} (hb : s.src base = some (b, s1)) {off n : Nat} {k : Access} {pl : Place}
    (e : s1.address b off n k = some (pl, s2)) : s2.ReadyAt m ∧ s2.core.cur.act.sampled = false ∧ s2.core = s1.core := by
  have walked := address_walked (h.src hb).armed e
  refine ⟨(h.src hb).walked walked, ?_, walked.core⟩
  rw [walked.core]
  exact h.src_unsampled hb plain

/-! ## Irrevocable acts -/

/-- After an irrevocable act the activation holds nothing back. -/
theorem ReadyAt.irrevocably_held {n : Nat} {s t : State} (h : s.ReadyAt n) (e : s.irrevocably = some t) :
    t.core.cur.act.held = [] ∧ t.core.cur.act.revocable = false := by
  obtain ⟨b, l, o, p, a, c, hs, r, ha⟩ := s.commitSome_eq
  simp only [irrevocably] at e
  split at e
  · split at e
    · next sent =>
      cases e
      rw [uncheck_eq (by rw [c, ha]; exact h.check)]
      exact ⟨List.isEmpty_iff.1 sent, rfl⟩
    · cases e
  · next open' =>
    cases e
    simp only [Act.keeps, Bool.not_eq_true, Bool.or_eq_false_iff, Bool.not_eq_false', List.isEmpty_iff] at open'
    exact ⟨open'.2, open'.1⟩

theorem ReadyAt.irrevocably_draining {n : Nat} {s t : State} (h : s.ReadyAt n) (e : s.irrevocably = some t) :
    t.core.cur.act.draining = false := by
  simp [Act.draining, (h.irrevocably_held e).1]

theorem ReadyAt.irrevocably_unsampled {n : Nat} {s t : State} (h : s.ReadyAt n) (e : s.irrevocably = some t)
    (plain : s.core.cur.act.sampled = false) : t.core.cur.act.sampled = false := by
  obtain ⟨_, _, _, _, a, rfl, -, still⟩ := h.irrevocably_eq e
  exact still plain

theorem ReadyAt.numbered {n : Nat} {s : State} (h : s.ReadyAt n) : s.numbered.ReadyAt n :=
  h.of rfl rfl rfl rfl rfl h.check rfl rfl

/-! ## Stores of local memory (R122, R155, R208) -/

/-- Past the queue window, no slot of the press is stored. -/
theorem slotsCovered_none {la : Nat} (past : 0x400 ≤ la) (n : Nat) : slotsCovered la n = [] := by
  have unit (g : Nat) (hg : g ∈ unitsOf 64 la n) : ¬ g < 16 := by
    unfold unitsOf at hg
    split at hg
    · cases hg
    · obtain ⟨j, -, rfl⟩ := List.mem_map.1 hg
      omega
  simpa [slotsCovered] using unit

theorem ReadyAt.stored {n : Nat} {s : State} (h : s.ReadyAt n) (la : Nat) (bytes : List Byte) (pois : List Bool) :
    (s.stored la bytes pois).ReadyAt n := by
  rw [State.stored, Core.putLocal_eq h.isCheck]
  exact h.of rfl rfl rfl rfl rfl h.check rfl rfl

/-- A store that can be made is one of what the activation owns, or an irrevocable act. -/
theorem ReadyAt.storable {m : Nat} {s t : State} (h : s.ReadyAt m) {la n : Nat} (e : s.storable la n = some t) :
    0x400 ≤ la ∧ t.ordered = true ∧ t.ReadyAt m ∧ (s.core.cur.act.ownsLocal la n = true ∧ t = s ∨
      s.core.cur.act.ownsLocal la n = false ∧ s.irrevocably = some t) := by
  simp only [State.storable] at e
  split at e
  · next past =>
    obtain ⟨can, ord⟩ := Option.filter_eq_some_iff.1 e
    cases owns : s.core.cur.act.ownsLocal la n with
    | true =>
      rw [owns] at can
      cases can
      exact ⟨past, ord, h, .inl ⟨rfl, rfl⟩⟩
    | false =>
      rw [owns] at can
      exact ⟨past, ord, (h.irrevocable can).2.1, .inr ⟨rfl, can⟩⟩
  · cases e

/-- A store past the queue window stores its bytes, and nothing waits. -/
theorem ReadyAt.storeHere {n : Nat} {s t : State} (h : s.ReadyAt n) {la : Nat} {bytes : List Byte}
    (e : s.storable la bytes.length = some t) (pois : List Bool) :
    Machine.storeHere la bytes pois false s = .ok () (t.stored la bytes pois) := by
  obtain ⟨past, ord, ready, owns⟩ := h.storable e
  have skips (i : BitVec 5) : (if bytes.length < 8 then do
        Machine.needs (Dest.isReg (.w i))
        Machine.cancels (Dest.isReg (.w i))
        pure (.yield PUnit.unit)
      else do
        Machine.cancels (Dest.isReg (.w i))
        pure (.yield PUnit.unit) : M (ForInStep PUnit)) t = .ok (.yield ⟨⟩) t := by
    split
    · rw [bind_ok (ready.needs _), bind_ok (ready.cancels _), pure_run]
    · rw [bind_ok (ready.cancels _), pure_run]
  have above : ¬ la < 0x400 := Nat.not_lt.2 past
  unfold Machine.storeHere
  rw [bind_ok (getC_run s)]
  rcases owns with ⟨owns, rfl⟩ | ⟨owns, acts⟩
  · simp only [above, owns, h.isCheck, Bool.not_true, Bool.false_and, Bool.false_eq_true, if_false]
    rw [bind_ok (ready.inOrder ord), bind_ok (forIn_skip skips _), bind_ok (modC_run _ _), slotsCovered_none past]
    rfl
  · simp only [above, owns, h.isCheck, Bool.not_false, Bool.false_and, Bool.false_eq_true, if_false, if_true]
    rw [bind_ok (h.irrevocable acts).1, bind_ok (ready.inOrder ord), bind_ok (forIn_skip skips _), bind_ok (modC_run _ _),
      slotsCovered_none past]
    rfl

/-! ## Stores that leave (R107, R131, R137) -/

/-- A store that can be made is held, or finds room in the store buffer. -/
theorem ReadyAt.bufferStore {n : Nat} {s t : State} (h : s.ReadyAt n) {o : StoreOp} (e : s.stores o = some t) :
    Machine.bufferStore o s = .ok () t ∧ t.ReadyAt n ∧ (s.core.cur.act.sampled = false → t.core.cur.act.sampled = false) := by
  simp only [stores] at e
  obtain ⟨u, before, e⟩ := Option.bind_eq_some_iff.1 e
  have last (hu : u.ReadyAt n) : (do
      if (← getC).cur.act.keeps then
        modA (fun a => { a with held := a.held ++ [.store o] })
      else
        let c ← getC
        waitUntil (c.storeFits o)
        modC (fun c => c.sendStore o) : M Unit) u = .ok () t ∧ t.ReadyAt n ∧ t.core.cur.act.sampled = u.core.cur.act.sampled := by
    rw [bind_ok (getC_run u)]
    split at e
    · next keeps =>
      cases e
      rw [if_pos keeps]
      exact ⟨rfl, hu.of rfl rfl rfl rfl rfl hu.check rfl rfl, rfl⟩
    · next leaves =>
      split at e
      · next fits =>
        cases e
        obtain ⟨b, l, sent⟩ := Core.sendStore_eq u.core o
        rw [if_neg leaves, bind_ok (getC_run u), bind_ok ((waitUntil_run _ u).trans (if_pos fits))]
        refine ⟨rfl, ?_⟩
        rw [sent]
        exact ⟨hu.of rfl rfl rfl rfl rfl hu.check rfl rfl, rfl⟩
      · cases e
  have drained : (do
      if s.core.cur.act.revocable && !false && decide (32 ≤ s.core.cur.act.heldStores) && !s.core.cur.act.holdsSeq o.seq then
        Machine.irrevocable
      drainHeld : M Unit) s = .ok () u ∧ u.ReadyAt n ∧ (s.core.cur.act.sampled = false → u.core.cur.act.sampled = false) := by
    simp only [Bool.not_false, Bool.and_true]
    cases full : s.core.cur.act.revocable && decide (32 ≤ s.core.cur.act.heldStores) && !s.core.cur.act.holdsSeq o.seq with
    | true =>
      rw [full, Bool.true_or, if_pos rfl] at before
      obtain ⟨acts, ready, -⟩ := h.irrevocable before
      refine ⟨?_, ready, h.irrevocably_unsampled before⟩
      rw [if_pos rfl, bind_ok acts, drainHeld_none (h.irrevocably_draining before)]
    | false =>
      rw [full, Bool.false_or] at before
      rw [if_neg Bool.false_ne_true]
      split at before
      · next drains =>
        obtain ⟨acts, ready, -⟩ := h.irrevocable before
        refine ⟨?_, ready, h.irrevocably_unsampled before⟩
        rw [drainHeld, bind_ok (getC_run s), if_pos drains, acts]
      · next settled =>
        cases before
        exact ⟨drainHeld_none (Bool.eq_false_iff.2 settled), h, id⟩
  obtain ⟨runs, ready, plain⟩ := drained
  obtain ⟨stores, done, same⟩ := last ready
  refine ⟨?_, done, fun p => same.trans (plain p)⟩
  unfold Machine.bufferStore
  rw [bind_ok (getC_run s), h.isCheck]
  have joined := (bind_ok (f := fun _ => _) runs).trans stores
  split
  · next full =>
    rw [if_pos full, bind_assoc] at joined
    exact joined
  · next few =>
    rw [if_neg few] at joined
    exact joined

/-- An activation that is not sampled digests nothing (R108). -/
theorem ReadyAt.digestStore {n : Nat} {s : State} (h : s.ReadyAt n) (plain : s.core.cur.act.sampled = false) (va : Nat)
    (bytes : List Byte) : Machine.digestStore va bytes s = .ok () s := by
  rw [Machine.digestStore, bind_ok (getC_run s), h.undigested plain]
  rfl

/-- What a store of an activation that is not sampled leaves at its place. -/
theorem ReadyAt.storePart {n : Nat} {s t : State} (h : s.ReadyAt n) (plain : s.core.cur.act.sampled = false) {seq : Nat}
    {pl : Place} {want : LineUse} {bytes : List Byte} {pois : List Bool} (e : s.storesAt seq pl want bytes pois false = some t)
    (va : Nat) : Machine.storePart seq pl want va bytes pois false s = .ok () t ∧ t.ReadyAt n ∧ t.core.cur.act.sampled = false := by
  cases pl with
  | here la =>
    obtain ⟨u, can, rfl⟩ := Option.map_eq_some_iff.1 e
    obtain ⟨-, -, ready, owns⟩ := h.storable can
    refine ⟨h.storeHere can pois, ready.stored .., ?_⟩
    have still : u.core.cur.act.sampled = false := by
      rcases owns with ⟨-, rfl⟩ | ⟨-, acts⟩
      · exact plain
      · exact h.irrevocably_unsampled acts plain
    change (u.core.putLocal la bytes pois).cur.act.sampled = false
    rw [Core.putLocal_eq ready.isCheck]
    exact still
  | core id la =>
    obtain ⟨u, acts, stores⟩ := Option.bind_eq_some_iff.1 e
    obtain ⟨runs, ready, -⟩ := h.irrevocable acts
    obtain ⟨sent, done, still⟩ := ready.bufferStore stores
    refine ⟨?_, done, still (h.irrevocably_unsampled acts plain)⟩
    rw [Machine.storePart, bind_ok (getC_run s), h.isCheck]
    exact (bind_ok runs).trans sent
  | phys x =>
    obtain ⟨sent, done, still⟩ := h.bufferStore e
    refine ⟨?_, done, still plain⟩
    rw [Machine.storePart, bind_ok (poisonedOutput_undigested (h.undigested plain) _), bind_ok (h.digestStore plain _ _), bind_ok (get_run s)]
    exact sent

/-- An instruction of one store ends with what it leaves. -/
theorem ReadyAt.ends_storeTo {n : Nat} {s u : State} (h : s.ReadyAt n) (plain : s.core.cur.act.sampled = false) {pl : Place}
    {want : LineUse} {bytes : List Byte} {pois : List Bool} (e : s.storesTo pl want bytes pois false = some u) (va : Nat) :
    Ends (andNext (storeTo pl want va bytes pois false)) s (u.after 4) := by
  obtain ⟨stores, ready, -⟩ := h.numbered.storePart plain e va
  exact .after_bind ((bind_ok (takeUid_run s)).trans stores) ready.ends_next

/-- So does one of local memory. -/
theorem ReadyAt.ends_storeTo_here {n : Nat} {s u : State} (h : s.ReadyAt n) {want : LineUse} {la : Nat} {bytes : List Byte}
    (e : s.numbered.storable la bytes.length = some u) (pois : List Bool) (va : Nat) :
    Ends (andNext (storeTo (.here la) want va bytes pois false)) s ((u.stored la bytes pois).after 4) := by
  obtain ⟨-, -, ready, -⟩ := h.numbered.storable e
  exact .after_bind ((bind_ok (takeUid_run s)).trans (h.numbered.storeHere e pois)) (ready.stored ..).ends_next

/-! ## The rows of a free press -/

theorem PressFree.busySlots {s : State} (h : s.PressFree) : s.core.busySlots = [] := by
  rw [Core.busySlots, List.filter_eq_nil_iff]
  intro k _
  rw [List.getD_eq_getElem?_getD]
  cases there : s.core.press.slots[k]? with
  | none => decide
  | some sl => simp [h sl (List.mem_of_getElem? there)]

theorem PressFree.modeSettled {s : State} (h : s.PressFree) : Machine.modeSettled s = .ok () s := by
  rw [Machine.modeSettled, bind_ok (getC_run s), h.busySlots]
  rfl

theorem PressFree.rowFree {s : State} (h : s.PressFree) (r : BitVec 6) : Machine.rowFree r s = .ok () s := by
  rw [Machine.rowFree, bind_ok (getC_run s), Core.rowHeld, h.busySlots]
  rfl

theorem ReadyAt.readRow {n : Nat} {s : State} (h : s.ReadyAt n) (free : s.PressFree) (r : BitVec 6) :
    Machine.readRow r s = .ok (s.core.press.tile.getD r.toNat .zero) s := by
  have met : s.meetTile s.core.id r.toNat = s := by simp [meetTile, h.armed]
  rw [Machine.readRow, bind_ok (h.needs _), bind_ok (free.rowFree r), bind_ok (modify_run _ _), met, bind_ok (getC_run s)]
  rfl

end State

/-! ## The stores -/

section
variable {base : RSpec} {off : BitVec 5} {s s1 s2 u : State} {n : Nat} (h : s.ReadyAt n) {b : Val} (hb : s.src base = some (b, s1))
  {pl : Place}
include h hb

/-- ST goes on from its place with the register it stores. -/
theorem State.ReadyAt.ends_store {t : RSpec} {hint size : BitVec 2} {s3 : State} {v : Val}
    (place : s1.address b (off.toNat * 2 ^ size.toNat) (2 ^ size.toNat) .write = some (pl, s2)) (ht : s2.src t = some (v, s3))
    (e : Ends (andNext (storeTo pl (hintUse hint.toNat) (effAddr b.bits (off.toNat * 2 ^ size.toNat))
      ((dwordBytes v.bits).take (2 ^ size.toNat)) (List.replicate (2 ^ size.toNat) v.poison) false)) s3 u) :
    Ends (storeInstr t base off hint size) s u :=
  h.ends_address hb place nofun rfl fun ready => .after_bind (ready.readR ht) e

/-- STV goes on from its place with its row. -/
theorem State.ReadyAt.ends_storeRow {vt : BitVec 6} {hint : BitVec 2} (free : s2.PressFree)
    (place : s1.address b (off.toNat * 256) 256 .write = some (pl, s2))
    (e : Ends (andNext (storeTo pl (hintUse hint.toNat) (effAddr b.bits (off.toNat * 256))
      (s2.core.press.tile.getD vt.toNat .zero).bytes (s2.core.press.tile.getD vt.toNat .zero).bytePois false)) s2 u) :
    Ends (storeRow vt base off hint) s u :=
  h.ends_address hb place nofun rfl fun ready => .after_bind free.modeSettled (.after_bind (ready.readRow free vt) e)

/-- ZFILL goes on from its place with zeros. -/
theorem State.ReadyAt.ends_zeroFill {hint : BitVec 2} (place : s1.address b (off.toNat * 256) 256 .write = some (pl, s2))
    (e : Ends (andNext (storeTo pl (.zfill hint) (effAddr b.bits (off.toNat * 256)) (List.replicate 256 0)
      (List.replicate 256 false) false)) s2 u) : Ends (zeroFill base off hint) s u :=
  h.ends_address hb place nofun rfl fun _ => e

end

theorem take_dwordBytes_length (w : Word) (size : BitVec 2) : ((dwordBytes w).take (2 ^ size.toNat)).length = 2 ^ size.toNat := by
  have small : 2 ^ size.toNat ≤ 2 ^ 3 := Nat.pow_le_pow_right (by decide) (by omega)
  rw [List.length_take, dwordBytes, natLE_length]
  omega

end Sys2Proof.Machine

open Sys2Proof Sys2Proof.Machine

/-- Settles O22: each store goes on from the place of its address with its bytes, and `storeTo` leaves what the statement
says. -/
theorem localStores : Obligations.LocalStores := by
  unfold Obligations.LocalStores
  refine ⟨?st, ?stv, ?zfill, ?stAway, ?stvAway, ?zfillAway⟩
  case st =>
    intro s s1 s2 s3 t base off hint size b v la hw hs hb n own ht can
    refine Addressed.exec_ends (.st t base off hint size) hs hw rfl
      (hs.ends_store hb (State.address_of_ownAddr own .write).1 ht (((hs.src hb).src ht).ends_storeTo_here ?_ _ _))
    rwa [take_dwordBytes_length]
  case stv =>
    intro s s1 s2 vt base off hint b la hw hs hb free own can
    refine Addressed.exec_ends (.stv vt base off hint) hs hw rfl
      (hs.ends_storeRow hb free (State.address_of_ownAddr own .write).1 ((hs.src hb).ends_storeTo_here ?_ _ _))
    rwa [Row.bytes, natLE_length]
  case zfill =>
    intro s s1 s2 base off hint b la hw hs hb own can
    refine Addressed.exec_ends (.zfill base off hint) hs hw rfl
      (hs.ends_zeroFill hb (State.address_of_ownAddr own .write).1 ((hs.src hb).ends_storeTo_here ?_ _ _))
    rwa [List.length_replicate]
  case stAway =>
    intro s s1 s2 s3 u t base off hint size b v pl hw hs plain hb n place ht stores
    obtain ⟨ready, still, -⟩ := hs.address_unsampled plain hb place
    exact Addressed.exec_ends (.st t base off hint size) hs hw rfl
      (hs.ends_store hb place ht ((ready.src ht).ends_storeTo (ready.src_unsampled ht still) stores _))
  case stvAway =>
    intro s s1 s2 u vt base off hint b pl hw hs plain hb free place r stores
    obtain ⟨ready, still, same⟩ := hs.address_unsampled plain hb place
    have settled : s2.PressFree := by
      rw [State.PressFree, same]
      exact free
    refine Addressed.exec_ends (.stv vt base off hint) hs hw rfl
      (hs.ends_storeRow hb settled place (ready.ends_storeTo still ?_ _))
    rw [same]
    exact stores
  case zfillAway =>
    intro s s1 s2 u base off hint b pl hw hs plain hb place stores
    obtain ⟨ready, still, -⟩ := hs.address_unsampled plain hb place
    exact Addressed.exec_ends (.zfill base off hint) hs hw rfl
      (hs.ends_zeroFill hb place (ready.ends_storeTo still stores _))
end

section
/-! SUPPORT. Row loads, prefetch, and what the caches and banks lose. -/

namespace Sys2Proof.Machine

/-! ## LDV (R138) -/

namespace State

theorem PressFree.of_press {s t : State} (h : s.PressFree) (e : t.core.press = s.core.press) : t.PressFree := by
  rw [PressFree, e]
  exact h

theorem ReadyAt.irrevocably_press {n : Nat} {s t : State} (h : s.ReadyAt n) (e : s.irrevocably = some t) :
    t.core.press = s.core.press := by
  obtain ⟨_, _, _, _, _, rfl, -⟩ := h.irrevocably_eq e
  rfl

theorem ReadyAt.reading_press {n : Nat} {s : State} (h : s.ReadyAt n) (la m : Nat) :
    (s.reading la m).core.press = s.core.press := by
  obtain ⟨a, e, -⟩ := reading_eq h.check la m
  rw [e]

theorem ReadyAt.uncheck_press {n : Nat} {s : State} (h : s.ReadyAt n) : s.uncheck.core.press = s.core.press := by
  rw [uncheck_eq h.check]

theorem ReadyAt.readsPage_press {n : Nat} {s t : State} (h : s.ReadyAt n) {x : Xlat} (e : s.readsPage x = some t) :
    t.core.press = s.core.press := by
  obtain ⟨u, first, rfl⟩ := Option.map_eq_some_iff.1 e
  have before : u.ReadyAt n ∧ u.core.press = s.core.press := by
    split at first
    · exact ⟨(h.irrevocable first).2.1, h.irrevocably_press first⟩
    · cases first
      exact ⟨h, rfl⟩
  obtain ⟨ready, same⟩ := before
  split
  · exact same
  · exact ready.uncheck_press.trans same

/-- A row that is at hand is written at once, or when its window ends (R39, R138). -/
def takesRow (s : State) (vt : BitVec 6) (l : BitVec 4) (r : Row) : State :=
  if l = 0 then State.after { s with core := s.core.putRow vt r } 4
  else s.opened (.row vt) l.toNat (some (.row r)) id 4

theorem ReadyAt.writeRow {n : Nat} {s : State} (h : s.ReadyAt n) (free : s.PressFree) (vt : BitVec 6) (r : Row) :
    Machine.writeRow vt r s = .ok () { s with core := s.core.putRow vt r } := by
  rw [Machine.writeRow, bind_ok (free.rowFree vt), bind_ok (h.cancels _)]
  rfl

theorem ReadyAt.ends_takesRow {n : Nat} {s : State} (h : s.ReadyAt n) (free : s.PressFree) (vt : BitVec 6) (l : BitVec 4) (r : Row) :
    Ends (if l = 0 then andNext (Machine.writeRow vt r) else do
      let sl ← newSlot (.row vt) l.toNat (some (.row r))
      pure (.next (some sl))) s (s.takesRow vt l r) := by
  unfold takesRow
  split
  · refine .after_bind (h.writeRow free vt r) (ReadyAt.ends_next (n := n) ?_)
    exact h.of rfl rfl rfl rfl rfl h.check rfl rfl
  · next later =>
    have open' : l.toNat ≠ 0 := fun z => later (BitVec.eq_of_toNat_eq z)
    exact .after_bind (newSlot_run _ _ _ s) (h.ends_opened (g := id) (by simp [Slot.ready, pending, open']) rfl)

end State

section
variable {vt : BitVec 6} {base : RSpec} {off : BitVec 5} {hint : BitVec 2} {l : BitVec 4} {s s1 s2 u : State} {n : Nat}
  (h : s.ReadyAt n) {b : Val} (hb : s.src base = some (b, s1)) (free : s1.PressFree)
include h hb free

/-- An LDV of the core's own memory reads its row now. -/
theorem State.ReadyAt.ends_loadRow_here {la : Nat} (own : s1.ownAddr b (off.toNat * 256) 256 = some la)
    (ord : s1.ordered = true) : Ends (loadRow vt base off hint l) s
      ((s1.reading la 256).takesRow vt l (Row.ofBytes ((s1.reading la 256).localBytes la 256))) := by
  refine .after_bind (h.takeSlot _) (h.ends_address hb (State.address_of_ownAddr own .read).1 nofun rfl fun ready => ?_)
  refine .after_bind free.modeSettled (.after_bind (free.rowFree vt) (.after_bind (ready.readHere ord _ _) ?_))
  exact (ready.reading _ _).ends_takesRow (free.of_press (ready.reading_press ..)) vt l _

/-- One of another core's asks it. -/
theorem State.ReadyAt.ends_loadRow_core {id la : Nat} (away : s1.address b (off.toNat * 256) 256 .read = some (.core id la, s2))
    (e : s2.uncheck.asks (.row vt) l .bypass (.row (.loc id la) false) (fun sl => { sl with load := true }) = some u) :
    Ends (loadRow vt base off hint l) s u := by
  have free := free.of_press (congrArg Core.press (State.address_walked (h.src hb).armed away).core)
  refine .after_bind (h.takeSlot _) (h.ends_address hb away nofun rfl fun ready => ?_)
  refine .after_bind free.modeSettled (.after_bind (free.rowFree vt) (.after_bind (modify_run _ _) ?_))
  exact ready.unchecked.ends_request (fun _ here => here) (fun _ => rfl) e

section
variable {x : Xlat} {s3 : State} (page : s1.address b (off.toNat * 256) 256 .read = some (.phys x, s2))
  (reads : s2.readsPage x = some s3)
include page reads

/-- One through a page whose row is at hand takes it. -/
theorem State.ReadyAt.ends_loadRow_near {bs : List (Byte × Bool)} (near : s3.readNear x 256 b.taint = some bs) :
    Ends (loadRow vt base off hint l) s (s3.takesRow vt l (Row.ofBytes bs)) := by
  have free := free.of_press (congrArg Core.press (State.address_walked (h.src hb).armed page).core)
  refine .after_bind (h.takeSlot _) (h.ends_address hb page nofun rfl fun ready => ?_)
  refine .after_bind free.modeSettled (.after_bind (free.rowFree vt) (.after_bind (ready.sourceOf reads _ _ _) ?_))
  rw [near]
  exact (ready.readsPage reads).2.ends_takesRow (free.of_press (ready.readsPage_press reads)) vt l _

/-- Else it asks the home. -/
theorem State.ReadyAt.ends_loadRow_home (away : s3.readNear x 256 b.taint = none)
    (e : s3.asks (.row vt) l (x.use (hintUse hint.toNat)) (.row (.phys (s3.keyHere x.pa)) (fillsL1 x hint b.taint))
      (fun sl => { sl with load := true }) = some u) : Ends (loadRow vt base off hint l) s u := by
  have free := free.of_press (congrArg Core.press (State.address_walked (h.src hb).armed page).core)
  refine .after_bind (h.takeSlot _) (h.ends_address hb page nofun rfl fun ready => ?_)
  refine .after_bind free.modeSettled (.after_bind (free.rowFree vt) (.after_bind (ready.sourceOf reads _ _ _) ?_))
  rw [away]
  exact (ready.readsPage reads).2.ends_request (fun _ here => here) (fun _ => rfl) e

end

end

/-! ## PREF (R141) -/

/-- Whether PREF asks for a line: the L1 does not hold it, or would not take it (R141). -/
def State.wants (s : State) (hint : BitVec 2) (k : Nat) : Bool := hint == 1 || (s.core.l1Hit k).isNone

/-- The requests of a PREF for lines of a WB page. -/
def State.prefetched (s : State) (hint : BitVec 2) (keys : List Nat) : State := { s with
  uid := s.uid + keys.length
  reqs := s.reqs ++ keys.zipIdx.map (fun p => {
    uid := s.uid + p.2, core := s.core.id, act := s.core.cur.act.uid, kind := .pref p.1 (hint != 1)
    served := false, slice := none, use := hintUse hint.toNat, after := s.core.cur.act.fence }) }

theorem State.askLine_eq (s : State) {x : Xlat} (wb : leafPol x.leaf = 0) (hint : BitVec 2) (k : Nat) :
    s.askLine x hint.toNat k = s.prefetched hint [k] := by
  have stream : (hint.toNat != 1) = (hint != 1) := by
    rw [bne, bne, Bool.eq_iff_iff, Bool.not_eq_true', Bool.not_eq_true', beq_eq_false_iff_ne, beq_eq_false_iff_ne]
    exact not_congr ⟨fun e => BitVec.eq_of_toNat_eq e, congrArg _⟩
  simp only [State.askLine, State.takeUid, Xlat.use, wb, if_true, stream]
  rfl

theorem State.prefetched_append (s : State) (hint : BitVec 2) (k j : Nat) :
    (s.prefetched hint [k]).prefetched hint [j] = s.prefetched hint [k, j] := by
  simp [State.prefetched]

/-- What a PREF of a base leaves: nothing where anything stands in its way (R141). -/
def State.prefetches (s : State) (b : Val) (off : BitVec 5) (hint : BitVec 2) : State :=
  let va := effAddr b.bits (off.toNat * 256)
  if b.poison = true ∨ va % 256 ≠ 0 ∨ 0xFFFFFF000000 ≤ va ∨ hint = 2 then s
  else match s.agentXlat s.myCluster s.myCtx s.core.priv .read va 256 with
    | (.error _, t) => t
    | (.ok x, t) =>
      let key := t.keyHere x.pa
      if leafPol x.leaf = 0 ∧ leafZero x.leaf = false then t.prefetched hint ([key, key + 128].filter (t.wants hint)) else t

theorem State.prefetched_nil (s : State) (hint : BitVec 2) : s.prefetched hint [] = s := by
  simp [State.prefetched]

/-- One line of a PREF is asked for, or held already. -/
theorem askLine_run (t : State) {x : Xlat} (wb : leafPol x.leaf = 0) (hint : BitVec 2) (k : Nat) {β : Type} (g : M β) :
    (do
      if hint = 1 || ((← getC).l1Hit k).isNone then
        modify (fun s => s.askLine x hint.toNat k)
        g
      else g : M β) t = g (t.prefetched hint ([k].filter (t.wants hint))) := by
  have asks : (hint = 1 || (t.core.l1Hit k).isNone : Bool) = t.wants hint k := rfl
  rw [bind_ok (getC_run t), asks]
  cases wanted : t.wants hint k with
  | true => rw [if_pos rfl, bind_ok (modify_run _ _), t.askLine_eq wb, List.filter_singleton, wanted, cond_true]
  | false => rw [if_neg Bool.false_ne_true, List.filter_singleton, wanted, cond_false, State.prefetched_nil]

theorem State.prefetched_filter (t : State) (hint : BitVec 2) (k j : Nat) :
    (t.prefetched hint ([k].filter (t.wants hint))).prefetched hint
      ([j].filter ((t.prefetched hint ([k].filter (t.wants hint))).wants hint)) =
    t.prefetched hint ([k, j].filter (t.wants hint)) := by
  have same (keys : List Nat) : (t.prefetched hint keys).wants hint = t.wants hint := rfl
  rw [same]
  simp only [List.filter_cons, List.filter_nil]
  cases t.wants hint k <;> cases t.wants hint j <;>
    simp only [if_true, Bool.false_eq_true, if_false, State.prefetched_nil, State.prefetched_append]

/-- The two lines of a PREF are asked for one after the other. -/
theorem askLines_run (t : State) {x : Xlat} (wb : leafPol x.leaf = 0) (hint : BitVec 2) (k j : Nat) :
    (forIn [k, j] PUnit.unit fun k _ => do
      if hint = 1 || ((← getC).l1Hit k).isNone then modify (fun s => s.askLine x hint.toNat k)
      pure (.yield PUnit.unit) : M PUnit) t = .ok ⟨⟩ (t.prefetched hint ([k, j].filter (t.wants hint))) := by
  rw [List.forIn_cons]
  refine (bind_ok (askLine_run t wb hint k (pure (ForInStep.yield PUnit.unit)))).trans ?_
  dsimp only
  rw [List.forIn_cons]
  refine (bind_ok (askLine_run _ wb hint j (pure (ForInStep.yield PUnit.unit)))).trans ?_
  rw [State.prefetched_filter]
  rfl

/-- PREF leaves what its base leads to. -/
theorem State.ReadyAt.ends_prefetch {base : RSpec} {off : BitVec 5} {hint : BitVec 2} {s s1 : State} {m n : Nat}
    (h : s.ReadyAt m) {b : Val} (hb : s.src base = some (b, s1)) (ready : (s1.prefetches b off hint).ReadyAt n) :
    Ends (prefetch base off hint) s ((s1.prefetches b off hint).after 4) := by
  refine .after_bind (a := b) (t := s1) ?reads ?rest
  case reads =>
    cases base with
    | w i | z | inq | out d => exact h.readR hb
    | inp d =>
      have con : s.connected s.core.id d = true := by
        simp only [State.src] at hb
        split at hb
        · split at hb
          · next con => exact con
          · cases hb
        · cases hb
      simp only [bind_run, get_run, con, if_true]
      exact h.readR hb
  case rest =>
    revert ready
    simp only [State.prefetches]
    generalize effAddr b.bits (off.toNat * 256) = va
    have skips : (b.poison || va % 256 != 0 || !isGlobal va || decide (hint = 2)) = true ↔
        (b.poison = true ∨ va % 256 ≠ 0 ∨ 0xFFFFFF000000 ≤ va ∨ hint = 2) := by
      simp [isGlobal, or_assoc]
    split
    · next skip =>
      intro ready
      rw [if_pos (skips.2 skip)]
      exact ready.ends_next
    · next goes =>
      rw [if_neg (mt skips.1 goes)]
      have walk := stateOf_run (fun s => s.agentXlat s.myCluster s.myCtx s.core.priv .read va 256) s1
      rcases e : s1.agentXlat s1.myCluster s1.myCtx s1.core.priv .read va 256 with ⟨x | x, t⟩
      · rw [e] at walk
        exact fun ready => .after_bind walk ready.ends_next
      · rw [e] at walk
        intro ready
        refine .after_bind walk (.after_bind (get_run t) ?_)
        dsimp only at ready ⊢
        have asked : (leafPol x.leaf == 0 && !leafZero x.leaf) = true ↔ leafPol x.leaf = 0 ∧ leafZero x.leaf = false := by
          simp
        split
        · next wb =>
          rw [if_pos (asked.1 wb)] at ready ⊢
          exact .after_bind (askLines_run t (asked.1 wb).1 hint _ _) ready.ends_next
        · next plain =>
          rw [if_neg (mt asked.2 plain)] at ready ⊢
          exact ready.ends_next

/-! ## ICINV and BANKMODE (R143 to R145) -/

theorem badBank_none {fifos : List Nat} {map : Nat} : ∀ {banks : List Nat},
    (∀ i ∈ banks, i ∉ fifos ∧ map / 4 ^ i % 4 ≠ 2) → badBank fifos map banks = none
  | [], _ => rfl
  | i :: l, ok => by
    obtain ⟨plain, mode⟩ := ok i (.head _)
    have good : (fifos.contains i || map / 4 ^ i % 4 == 2) = false := by simp [plain, mode]
    rw [badBank, good]
    exact badBank_none fun j hj => ok j (.tail _ hj)

/-- A bank's new mode changes its memory, the L1 and the bank modes only. -/
theorem Core.setBank_eq (c : Core) (i mode : Nat) : ∃ l m p e b,
    c.setBank i mode = { c with l1 := l, lm := m, lmPoison := p, lmEmpty := e, bankModes := b } := by
  unfold Core.setBank
  dsimp only
  split <;> split <;> exact ⟨_, _, _, _, _, rfl⟩

theorem Core.setBanks_eq (mode : Nat → Nat) : ∀ (banks : List Nat) (c : Core), ∃ l m p e b,
    banks.foldl (fun c i => c.setBank i (mode i)) c = { c with l1 := l, lm := m, lmPoison := p, lmEmpty := e, bankModes := b }
  | [], c => ⟨c.l1, c.lm, c.lmPoison, c.lmEmpty, c.bankModes, rfl⟩
  | i :: is, c => by
    obtain ⟨l, m, p, e, b, first⟩ := c.setBank_eq i (mode i)
    obtain ⟨l', m', p', e', b', rest⟩ := Core.setBanks_eq mode is (c.setBank i (mode i))
    refine ⟨l', m', p', e', b', ?_⟩
    rw [List.foldl_cons, rest, first]

section
variable {a b : RSpec} {m k : Val} {s s1 s2 : State} {n : Nat} (h : s.ReadyAt n) (ha : s.src a = some (m, s1))
include h ha

/-- ICINV of an activation without stores that have not left drops its line. -/
theorem State.ReadyAt.icinv {scope : BitVec 6} (clean : m.poison = false) (held : s1.core.cur.act.heldStores = 0)
    (left : s1.core.storeBuf = []) : Machine.icinv a scope s = .ok (.next none)
      (let drop (c : Core) : Core := if s1.inScope scope.toNat c.id then c.dropCode s1.myCtx (addr48 m.bits) else c
      { s1 with core := drop s1.core, others := s1.others.map drop }) := by
  have none : ¬ 0 < s1.core.cur.act.heldStores := by omega
  refine (bind_ok (h.readClean ha clean)).trans ((bind_ok (getC_run s1)).trans ?_)
  rw [if_neg none]
  refine (bind_ok (getC_run s1)).trans ?_
  rw [left]
  rfl

variable (hb : s1.src b = some (k, s2)) (cleanA : m.poison = false) (cleanB : k.poison = false)
include hb cleanA cleanB

/-- BANKMODE of banks that may change. -/
theorem State.ReadyAt.bankMode
    (ok : ∀ i ∈ (List.range 16).filter (fun i => k.bits.getLsbD i), i ≠ 0 ∧
      i ∉ (s2.core.kern.map (fun k => k.actors.map (·.fbank))).getD [] ∧ m.bits.toNat % 2 ^ 32 / 4 ^ i % 4 ≠ 2) :
    Machine.bankMode a b s = (do
      faultIf s2.core.cur.act.revocable cPROT 0
      waitUntil s2.core.busySlots.isEmpty
      modC (fun c => ((List.range 16).filter (fun i => k.bits.getLsbD i)).foldl
        (fun c i => c.setBank i (m.bits.toNat % 2 ^ 32 / 4 ^ i % 4)) c)
      pure (.next none) : M Flow) s2 := by
  have zero : ((List.range 16).filter (fun i => k.bits.getLsbD i)).contains 0 = false := by
    rw [List.contains_eq_mem, decide_eq_false_iff_not]
    exact fun there => (ok 0 there).1 rfl
  rw [Machine.bankMode, bind_ok (h.readR ha), bind_ok ((h.src ha).readR hb)]
  simp only [cleanA, cleanB, Bool.false_eq_true, if_false]
  rw [zero, bind_ok (faultIf_false _ _ _), bind_ok (getC_run s2), badBank_none fun i hi => (ok i hi).2]

end

end Sys2Proof.Machine

open Sys2Proof Sys2Proof.Machine

/-- Settles O23: LDV goes on from the place of its address as a scalar load does; PREF asks for its two lines in turn; the
others change the caches and banks and nothing else. -/
theorem rowsAndCaches : Obligations.RowsAndCaches := by
  unfold Obligations.RowsAndCaches
  refine ⟨?rowHere, ?rowAway, ?pref, ?l1inv, ?acq, ?icinv, ?bankmode⟩
  case rowHere =>
    intro s s1 vt base off hint l b la hw hs hb free own ord s2 r
    have reads := Addressed.exec_ends (.ldv vt base off hint l) hs hw rfl (hs.ends_loadRow_here hb free own ord)
    exact ⟨fun now => reads.trans (congrArg _ (if_pos now)), fun later => reads.trans (congrArg _ (if_neg later))⟩
  case rowAway =>
    intro s s1 s2 u vt base off hint l b hw hs hb free va arrives
    refine ⟨fun id la away asked => ?_, fun x s3 page reads => ⟨fun bs near => ?_, fun away asked => ?_⟩⟩
    · exact Addressed.exec_ends (.ldv vt base off hint l) hs hw rfl (hs.ends_loadRow_core hb free away asked)
    · have reads := Addressed.exec_ends (.ldv vt base off hint l) hs hw rfl (hs.ends_loadRow_near hb free page reads near)
      exact ⟨fun now => reads.trans (congrArg _ (if_pos now)), fun later => reads.trans (congrArg _ (if_neg later))⟩
    · exact Addressed.exec_ends (.ldv vt base off hint l) hs hw rfl (hs.ends_loadRow_home hb free page reads away asked)
  case pref =>
    intro s s1 base off hint b hw hs hb va
    have odd : encode (.pref base off hint) % 2 = 1 := by simp only [encode]; omega
    have leaves {u : State} (e : s1.prefetches b off hint = u) (ready : u.Ready) :
        exec (.pref base off hint) s = .next (u.after 4) := by
      subst e
      exact hs.exec_ends rfl hw rfl odd (RSpec.regs_lt base) (hs.ends_prefetch hb ready)
    refine ⟨fun skips => leaves (if_pos skips) (hs.src hb), fun clean aligned global hint2 => ?_⟩
    have goes : ¬ (b.poison = true ∨ va % 256 ≠ 0 ∨ 0xFFFFFF000000 ≤ va ∨ hint = 2) := by
      rintro (bad | bad | bad | bad)
      · rw [clean] at bad
        cases bad
      · exact bad aligned
      · omega
      · exact hint2 bad
    refine ⟨fun e s2 walk ready => leaves ?_ ready, fun x s2 walk ready => ?_⟩
    · rw [State.prefetches, if_neg goes, walk]
    · intro key missing q
      have led : s1.prefetches b off hint = if leafPol x.leaf = 0 ∧ leafZero x.leaf = false then
          s2.prefetched hint ([key, key + 128].filter (s2.wants hint)) else s2 := by
        rw [State.prefetches, if_neg goes, walk]
      refine ⟨fun other => leaves (led.trans (if_neg ?_)) ready, fun wb zero => ?_⟩
      · rintro ⟨wb, zero⟩
        simp [wb, zero] at other
      · refine leaves (led.trans (if_pos ⟨wb, zero⟩)) ?_
        exact ready.of rfl rfl rfl rfl rfl ready.check rfl rfl
  case l1inv =>
    intro s hs
    have ready : State.Ready { s with core := { s.core with l1 := [] } } := hs.of rfl rfl rfl rfl rfl hs.check rfl rfl
    exact hs.exec_ends rfl rfl rfl rfl nofun (.after_bind (modC_run _ _) ready.ends_next)
  case acq =>
    intro s hs
    have ready : (s.acquired true).Ready := hs.of rfl rfl rfl rfl rfl hs.check rfl rfl
    exact hs.exec_ends rfl rfl rfl rfl nofun (.after_bind (modify_run _ _) ready.ends_next)
  case icinv =>
    intro s s1 a scope v hw hs ha clean held left drop
    have odd : encode (.icinv a scope) % 2 = 1 := by simp only [encode]; omega
    refine hs.exec_next rfl hw rfl odd (RSpec.regs_lt a) (hs.icinv ha clean held left) ?_
    have ready := hs.src ha
    have same : drop s1.core = { s1.core with icache := (drop s1.core).icache } := by
      simp only [drop, Core.dropCode]
      split <;> rfl
    rw [same]
    exact ready.of rfl rfl rfl rfl rfl ready.check rfl rfl
  case bankmode =>
    intro s s1 s2 a b m k hw hs ha hb cleanA cleanB map banks fifos ok
    have odd : encode (.bankmode a b) % 2 = 1 := by simp only [encode]; omega
    have regs : ∀ r ∈ (Instr.bankmode a b).regs, r < 32 := fun r hr =>
      (List.mem_append.1 hr).elim (RSpec.regs_lt a r) (RSpec.regs_lt b r)
    have body := hs.bankMode ha hb cleanA cleanB ok
    refine ⟨fun revocable => ?_, fun stays free => ?_⟩
    · have fails : (do issue (formOf (.bankmode a b)); Machine.bankMode a b : M Flow) s = .error (.trap (simpleTrap cPROT 0)) s2 := by
        rw [bind_ok (hs.issue hw (.inl rfl) regs), body, bind_error]
        rw [revocable]
        rfl
      have major : encode (.bankmode a b) / 2 % 64 = 0x1C := by simp only [encode]; omega
      exact (State.run_trap (f := formOf (.bankmode a b)) hs.armed fails).trans (by rw [(formOf_word odd).2, major])
    · refine hs.exec_next rfl hw rfl odd regs (body.trans ?_) ?_
      · rw [stays, bind_ok (faultIf_false _ _ _), free.busySlots]
        rfl
      · have ready := (hs.src ha).src hb
        obtain ⟨_, _, _, _, _, set⟩ := Core.setBanks_eq (fun i => map / 4 ^ i % 4) banks s2.core
        rw [set]
        exact ready.of rfl rfl rfl rfl rfl ready.check rfl rfl
end

section
/-! SUPPORT. Atomics: what their members make of a word, and the two halves of an atomic, its way to its word and its act. -/

namespace Sys2Proof.Machine

/-! ## The members of ATOM (Table 7.5) -/

theorem toSigned_eq_toInt (x n : Nat) (pos : 0 < n) : toSigned x n = (BitVec.ofNat n x).toInt := by
  have half : 2 ^ n = 2 * 2 ^ (n - 1) := by rw [← Nat.pow_succ', Nat.succ_eq_add_one, Nat.sub_add_cancel pos]
  rw [toSigned, BitVec.toInt_eq_toNat_cond, BitVec.toNat_ofNat]
  split <;> split <;> omega

/-- The order of two floats, by sign and magnitude. -/
theorem key_eq_order32 {x : Nat} (h : x < 2 ^ 32) : f32.key x = order32 x := by
  have neg : f32.neg x = decide (2 ^ 31 ≤ x) := by
    rw [Fmt.neg, Bool.eq_iff_iff, beq_iff_eq, decide_eq_true_eq]
    simp only [f32]
    omega
  rw [Fmt.key, order32, neg]
  simp only [f32]
  split <;> split <;> simp_all <;> omega

theorem afminmax32_eq (lo : Bool) {old v : Nat} (ho : old < 2 ^ 32) (hv : v < 2 ^ 32) :
    afminmax32 lo old v = extreme32 (!lo) old v := by
  rw [afminmax32, extreme32, key_eq_order32 ho, key_eq_order32 hv]
  cases f32.isNaN old <;> cases f32.isNaN v <;> cases lo <;> simp

/-- A float member acts on each 32-bit lane. -/
theorem onLanes_eq_perLane {n : Nat} (hn : n = 4 ∨ n = 8) {f g : Nat → Nat → Nat} {x y : Nat} (hx : x < 2 ^ (8 * n))
    (hy : y < 2 ^ (8 * n)) (same : ∀ a b, a < 2 ^ 32 → b < 2 ^ 32 → f a b = g a b) : onLanes n f x y = perLane n g x y := by
  rcases hn with rfl | rfl
  · have hx : x % 2 ^ 32 < 2 ^ 32 := Nat.mod_lt _ (by decide)
    have hy : y % 2 ^ 32 < 2 ^ 32 := Nat.mod_lt _ (by decide)
    simpa [onLanes, perLane] using same _ _ hx hy
  · have lanes (a b : Nat) : f (a % 2 ^ 32) (b % 2 ^ 32) = g (a % 2 ^ 32) (b % 2 ^ 32) :=
      same _ _ (Nat.mod_lt _ (by decide)) (Nat.mod_lt _ (by decide))
    have high {a : Nat} (ha : a < 2 ^ (8 * 8)) : a / 2 ^ 32 = a / 2 ^ 32 % 2 ^ 32 := by omega
    have two : List.range (8 / 4) = [0, 1] := rfl
    rw [onLanes, perLane, high hx, high hy, lanes, lanes, two]
    simp

/-- What a member makes of a word is what its row says. -/
theorem atomNew_eq_atomTable (op : AtomOp) {n : Nat} (hn : n = 4 ∨ n = 8) {old v : Nat} (w : Nat) (ho : old < 2 ^ (8 * n))
    (hv : v < 2 ^ (8 * n)) : atomNew op n old v w = atomTable op n old v w := by
  have pos : 0 < 8 * n := by omega
  cases op with
  | min | max => simp only [atomNew, atomTable, toSigned_eq_toInt _ _ pos, decide_eq_true_eq]
  | minu => simp only [atomNew, atomTable]; split <;> omega
  | maxu => simp only [atomNew, atomTable]; split <;> omega
  | fadd => exact onLanes_eq_perLane hn ho hv fun _ _ _ _ => rfl
  | fmin => exact onLanes_eq_perLane hn ho hv fun _ _ => afminmax32_eq true
  | fmax => exact onLanes_eq_perLane hn ho hv fun _ _ => afminmax32_eq false
  | _ => rfl

namespace State

/-- An atomic on the core's own memory, with no error met there (R163). -/
theorem atomic_here {s : State} (armed : s.armed = []) (p : Nat) (op : AtomOp) {n : Nat} (hn : n = 4 ∨ n = 8) (la : Nat) (v w : Word) :
    s.atomic p (.loc s.core.id la) op n v.toNat w.toNat false =
      ((leNat (s.core.lm.bytes la n), readPoison 8 s.core.lmPoison la n), s.atomed op la n v w) := by
  have met : s.meetLocal s.core.id la n = s := by simp [meetLocal, armed]
  have word : leNat (s.core.lm.bytes la n) < 2 ^ (8 * n) := by
    have lt := leNat_lt (s.core.lm.bytes la n)
    rwa [Memory.bytes_length, show 256 = 2 ^ 8 from rfl, ← Nat.pow_mul] at lt
  have value : v.toNat % 2 ^ (8 * n) < 2 ^ (8 * n) := Nat.mod_lt _ (Nat.two_pow_pos _)
  simp only [atomic, atomGet, met, coreOf_focus, countTier2, atomPut, modCore, putCore, atomed,
    atomNew_eq_atomTable op hn _ word value, if_true]

end State

/-! ## The two halves of an atomic -/

/-- The way of an atomic to its word: its address, its place, and what its member may do there. -/
def atomReach (op : AtomOp) (a : RSpec) (n : Nat) (sc : BitVec 2) (x : Val) : M (Place × Target × Bool) := do
  let va := addr48 x.bits
  accessReady x.taint
  faultIf (va % n != 0) cALIGN va
  let pl ← locate va n (atomAccess op) a.bits
  let (tgt, thru) ← atomTarget op pl va sc.toNat
  watched va n true (op != .ld)
  pure (pl, tgt, thru)

/-- The act of an atomic, with its release and its acquire. -/
def atomActs (op : AtomOp) (d : RSpec) (n : Nat) (sc o : BitVec 2) (l : BitVec 4) (x y w : Val) (r : Place × Target × Bool) :
    M Flow := do
  irrevocable
  if o.getLsbD 1 then release (sc == 3)
  let taint := x.taint || y.taint
  let acq := o.getLsbD 0
  match r.1 with
  | .here la =>
    let fl ← atomHere op d l la n y.bits w.bits taint
    if acq then acquire
    pure fl
  | .core _ _ => atomAway op d l acq (.atomic r.2.1 op n y.bits w.bits taint r.2.2)
  | .phys z =>
    if leafZero z.leaf then
      if acq then acquire
      carry d l { bits := 0, taint := taint, poison := false }
    else atomAway op d l acq (.atomic r.2.1 op n y.bits w.bits taint r.2.2)

theorem atom_eq (op : AtomOp) (d a : RSpec) (size : BitVec 1) (sc o : BitVec 2) (l : BitVec 4) :
    atom op d a size sc o l = (do
      takeSlot l.toNat
      let x ← readClean a
      let y ← readR d
      if op ≠ .ld && y.poison then poisonFault d.bits
      let w ← (if op = .cas then readClean (nextReg d 1) else pure (.clean 0) : M Val)
      let n := if size = 0 then 4 else 8
      let r ← atomReach op a n sc x
      atomActs op d n sc o l x y w r) := by
  simp only [atom, atomReach, bind_assoc, pure_bind]
  rfl

/-- The target of an atomic at a place, and whether its page is not WB. -/
def State.atomTgt (s : State) : Place → Target × Bool
  | .here la => (.loc s.core.id la, false)
  | .core id la => (.loc id la, false)
  | .phys x => (.phys (s.keyHere x.pa), leafPol x.leaf != 0)

theorem atomTarget_run (op : AtomOp) (pl : Place) (va : Nat) (sc : BitVec 2) (s : State) : atomTarget op pl va sc.toNat s =
    if atomBad op pl sc then .error (.trap (simpleTrap cPROT (.ofNat 64 va))) s else .ok (s.atomTgt pl) s := by
  have scope : (sc.toNat != 3) = decide (sc ≠ 3) := by
    rw [Bool.eq_iff_iff, bne_iff_ne, decide_eq_true_eq]
    exact not_congr ⟨fun e => BitVec.eq_of_toNat_eq e, congrArg _⟩
  have host : hostAtomic op = decide (op ∈ [AtomOp.add, .xchg, .ld, .st, .cas]) := by cases op <;> rfl
  have fails : (fault cPROT va : M Unit) s = .error (.trap (simpleTrap cPROT (.ofNat 64 va))) s := rfl
  cases pl with
  | core id la => rfl
  | here la =>
    rw [atomTarget, bind_ok (get_run s), atomBad]
    dsimp only
    cases decide (la < 0x400) <;> rfl
  | phys x =>
    rw [atomTarget, bind_ok (get_run s), atomBad, scope, host, Bool.decide_and]
    dsimp only
    cases decide (0x100000000000 ≤ x.pa) && decide (sc ≠ 3) with
    | true => rfl
    | false => cases isHostPA x.pa && !decide (op ∈ [AtomOp.add, .xchg, .ld, .st, .cas]) <;> rfl

namespace State

theorem atomAccess_ne_exec (op : AtomOp) : atomAccess op ≠ .exec := by
  unfold atomAccess
  split <;> exact nofun

/-- An atomic is watched as its access is. -/
theorem ReadyAt.atomWatched {m : Nat} {s : State} (h : s.ReadyAt m) (op : AtomOp) (va n : Nat) :
    Machine.watched va n true (op != .ld) s =
      if s.watches va n (atomAccess op) then .error (.trap (simpleTrap cWATCH (.ofNat 64 va))) s else .ok () s := by
  rw [← h.watchedFor (atomAccess_ne_exec op), watchedFor_eq (atomAccess_ne_exec op)]
  cases op <;> rfl

section
variable {m : Nat} {s : State} (h : s.ReadyAt m) {op : AtomOp} {a : RSpec} {n : Nat} {sc : BitVec 2} {x : Val}
include h

/-- An atomic whose address is not aligned takes ALIGN. -/
theorem ReadyAt.atomReach_unaligned (unaligned : addr48 x.bits % n ≠ 0) : Machine.atomReach op a n sc x s =
    .error (.trap (simpleTrap cALIGN (.ofNat 64 (addr48 x.bits)))) s := by
  have bad : (addr48 x.bits % n != 0) = true := bne_iff_ne.2 unaligned
  rw [Machine.atomReach, bind_ok (h.accessReady _), bind_error]
  rw [bad]
  rfl

section
variable (aligned : addr48 x.bits % n = 0)
include aligned

/-- One that cannot reach its place takes the fault on the way to it. -/
theorem ReadyAt.atomReach_unplaced {t : TrapInfo} (bad : s.badPlace a (addr48 x.bits) n (atomAccess op) = some t) :
    ∃ u, Machine.atomReach op a n sc x s = .error (.trap t) u ∧ Walked s u := by
  obtain ⟨u, stops, walked⟩ := locate_badPlace h.armed bad
  refine ⟨u, ?_, walked⟩
  rw [Machine.atomReach, bind_ok (h.accessReady _), bind_ok (faultIf_not (by simp [aligned]) _ _ _), bind_error stops]

/-- At its place, an atomic takes PROT where its member may not act there, then WATCH where a comparator covers it. -/
theorem ReadyAt.atomReach_placed {pl : Place} {t : State} (there : s.placeAt (addr48 x.bits) n (atomAccess op) = some (pl, t)) :
    Machine.atomReach op a n sc x s =
      if atomBad op pl sc then .error (.trap (simpleTrap cPROT (.ofNat 64 (addr48 x.bits)))) t
      else if s.watches (addr48 x.bits) n (atomAccess op) then .error (.trap (simpleTrap cWATCH (.ofNat 64 (addr48 x.bits)))) t
      else .ok (pl, t.atomTgt pl) t := by
  have walked := placeAt_walked h.armed there
  have watch := (h.walked walked).atomWatched op (addr48 x.bits) n
  have target := atomTarget_run op pl (addr48 x.bits) sc t
  rw [watches_walked walked] at watch
  rw [Machine.atomReach, bind_ok (h.accessReady _), bind_ok (faultIf_not (by simp [aligned]) _ _ _),
    bind_ok (locate_placeAt there _)]
  cases bad : atomBad op pl sc with
  | true =>
    rw [bad] at target
    exact bind_error target
  | false =>
    rw [bad] at target
    refine (bind_ok target).trans ?_
    cases w : s.watches (addr48 x.bits) n (atomAccess op) with
    | true =>
      rw [w] at watch
      exact bind_error watch
    | false =>
      rw [w] at watch
      exact bind_ok watch

end

/-- An atomic whose address passes its checks reaches its word. -/
theorem ReadyAt.atomReach {pl : Place} {t : State} (e : s.address x 0 n (atomAccess op) = some (pl, t))
    (ok : atomBad op pl sc = false) : Machine.atomReach op a n sc x s = .ok (pl, t.atomTgt pl) t := by
  obtain ⟨-, aligned, free, there⟩ := address_some e
  have free : s.watches (addr48 x.bits) n (atomAccess op) = false := free
  rw [h.atomReach_placed aligned there, ok, free]
  rfl

end

/-! ## Operands -/

section
variable {m : Nat} {s s1 s2 : State} (h : s.ReadyAt m) {op : AtomOp} {d a : RSpec} {size : BitVec 1} {sc o : BitVec 2}
  {l : BitVec 4} {x y : Val} (ha : s.src a = some (x, s1))
include h ha

theorem ReadyAt.atom_poisonAddr (bad : x.poison = true) :
    atom op d a size sc o l s = .error (.trap (poisonTrap a)) s1 := by
  rw [atom_eq, bind_ok (h.takeSlot _), bind_error (h.readClean_poison ha bad)]

variable (clean : x.poison = false) (hd : s1.src d = some (y, s2))
include clean hd

theorem ReadyAt.atom_poisonValue (hop : op ≠ .ld) (bad : y.poison = true) :
    atom op d a size sc o l s = .error (.trap (poisonTrap d)) s2 := by
  rw [atom_eq, bind_ok (h.takeSlot _), bind_ok (h.readClean ha clean), bind_ok ((h.src ha).readR hd), bad]
  simp only [hop, ne_eq, not_false_eq_true, decide_true, Bool.and_self, if_true]
  exact bind_error rfl

variable (plain : op ≠ .ld → y.poison = false)
include plain

/-- Past its first two operands, an atomic reads the swapped value of ACAS, and goes to its word. -/
theorem ReadyAt.atom_operands : atom op d a size sc o l s = (do
    let w ← (if op = AtomOp.cas then Machine.readClean (nextReg d 1) else pure (Val.clean 0) : M Val)
    let r ← Machine.atomReach op a (if size = 0 then 4 else 8) sc x
    atomActs op d (if size = 0 then 4 else 8) sc o l x y w r) s2 := by
  have fine : (decide (op ≠ .ld) && y.poison) = false := by
    by_cases ld : op = .ld
    · simp [ld]
    · simp [plain ld]
  rw [atom_eq, bind_ok (h.takeSlot _), bind_ok (h.readClean ha clean), bind_ok ((h.src ha).readR hd), fine]
  rfl

theorem ReadyAt.atom_poisonSwap {w : Val} {t : State} (cas : op = .cas) (hw : s2.src (nextReg d 1) = some (w, t))
    (bad : w.poison = true) : atom op d a size sc o l s = .error (.trap (poisonTrap (nextReg d 1))) t := by
  rw [h.atom_operands ha clean hd plain, if_pos cas, bind_error (((h.src ha).src hd).readClean_poison hw bad)]

/-- With all its operands, an atomic goes to its word and acts there. -/
theorem ReadyAt.atom_clean {w : Val}
    (hw : if op = .cas then s2.src (nextReg d 1) = some (w, s2) ∧ w.poison = false else w = .clean 0) :
    atom op d a size sc o l s = (do
      let r ← Machine.atomReach op a (if size = 0 then 4 else 8) sc x
      atomActs op d (if size = 0 then 4 else 8) sc o l x y w r) s2 := by
  rw [h.atom_operands ha clean hd plain]
  split at hw
  · next cas =>
    rw [if_pos cas, bind_ok (((h.src ha).src hd).readClean hw.1 hw.2)]
  · next other =>
    rw [if_neg other, hw]
    rfl

end

/-! ## The act -/

theorem ReadyAt.atomed {m : Nat} {s : State} (h : s.ReadyAt m) (op : AtomOp) (la n : Nat) (v w : Word) :
    (s.atomed op la n v w).ReadyAt m := by
  unfold State.atomed
  split
  · exact h
  · exact h.of rfl rfl rfl rfl rfl h.check rfl rfl

theorem ReadyAt.acquired {m : Nat} {s : State} (h : s.ReadyAt m) (b : Bool) : (s.acquired b).ReadyAt m := by
  unfold State.acquired
  split
  · exact h.of rfl rfl rfl rfl rfl h.check rfl rfl
  · exact h

/-- The state in which an atomic acts, after its irrevocable act and its release. -/
theorem ReadyAt.atomBegins {m : Nat} {s t u : State} (h : s.ReadyAt m) (acts : s.irrevocably = some t) {sc o : BitVec 2}
    (released : (if o.getLsbD 1 then t.releases (sc == 3) else some t) = some u) {β : Type} (g : M β) :
    (do
      Machine.irrevocable
      if o.getLsbD 1 then
        release (sc == 3)
        g
      else g : M β) s = g u ∧ u.ReadyAt m := by
  obtain ⟨runs, ready, -⟩ := h.irrevocable acts
  have held := (h.irrevocably_held acts).1
  rw [bind_ok runs]
  split at released
  · next orders =>
    rw [if_pos orders, bind_ok (release_of_releases held released), releases_eq held released]
    exact ⟨rfl, ready.of rfl rfl rfl rfl rfl ready.check rfl rfl⟩
  · next plain =>
    cases released
    rw [if_neg plain]
    exact ⟨rfl, ready⟩

theorem ReadyAt.atomHere_run {m : Nat} {s : State} (h : s.ReadyAt m) (ord : s.ordered = true) (op : AtomOp) {n : Nat}
    (hn : n = 4 ∨ n = 8) (d : RSpec) (l : BitVec 4) (la : Nat) (v w : Word) (taint : Bool) :
    atomHere op d l la n v w taint s =
      (if op = .st then pure (.next none) else Machine.carry d l {
        bits := .ofNat 64 (leNat (s.core.lm.bytes la n)), taint := taint
        poison := readPoison 8 s.core.lmPoison la n } : M Flow) (s.atomed op la n v w) := by
  have skips (i : BitVec 5) : (do
      Machine.needs (Dest.isReg (.w i))
      if op ≠ AtomOp.ld then
        Machine.cancels (Dest.isReg (.w i))
        pure (.yield PUnit.unit)
      else pure (.yield PUnit.unit) : M (ForInStep PUnit)) s = .ok (.yield ⟨⟩) s := by
    rw [bind_ok (h.needs _)]
    split
    · rw [bind_ok (h.cancels _), pure_run]
    · rfl
  have done := stateOf_run (fun t => t.atomic s.myPart (.loc s.core.id la) op n v.toNat w.toNat false) s
  rw [atomic_here h.armed _ op hn] at done
  refine (bind_ok (getC_run s)).trans ((bind_ok (forIn_skip skips _)).trans ?_)
  refine (bind_ok (h.inOrder ord)).trans ((bind_ok (get_run s)).trans ((bind_ok done).trans ?_))
  split <;> rfl

section
variable {m : Nat} {s t u v : State} (h : s.ReadyAt m) (acts : s.irrevocably = some t) {sc o : BitVec 2}
  (released : (if o.getLsbD 1 then t.releases (sc == 3) else some t) = some u) {op : AtomOp} {d : RSpec} {n : Nat}
  {l : BitVec 4} {x y w : Val}
include h acts released

/-- An atomic on the core's own memory: its word changes, then its result goes to its destination, and its acquire is last. -/
theorem ReadyAt.ends_atomHere (ord : u.ordered = true) (hn : n = 4 ∨ n = 8) {la : Nat} {k : Target × Bool}
    (e : Ends (do
      let fl ← (if op = .st then pure (.next none) else Machine.carry d l {
        bits := .ofNat 64 (leNat (u.core.lm.bytes la n)), taint := x.taint || y.taint
        poison := readPoison 8 u.core.lmPoison la n } : M Flow)
      if o.getLsbD 0 then acquire
      pure fl) (u.atomed op la n y.bits w.bits) v) :
    Ends (atomActs op d n sc o l x y w (.here la, k)) s v := by
  obtain ⟨runs, ready⟩ := h.atomBegins acts released (do
    let fl ← atomHere op d l la n y.bits w.bits (x.taint || y.taint)
    if o.getLsbD 0 then acquire
    pure fl)
  have here := ready.atomHere_run ord op hn d l la y.bits w.bits (x.taint || y.taint)
  obtain ⟨fl, z, body, ends⟩ := e
  refine ⟨fl, z, ?_, ends⟩
  refine Eq.trans ?_ (runs.trans ?_)
  · rfl
  · rw [bind_run, here]
    rw [bind_run] at body
    exact body

/-- An atomic elsewhere sets out for its home. -/
theorem ReadyAt.ends_atomCore {id la : Nat} {k : Target × Bool} (e : Ends (atomAway op d l (o.getLsbD 0)
      (.atomic k.1 op n y.bits w.bits (x.taint || y.taint) k.2)) u v) : Ends (atomActs op d n sc o l x y w (.core id la, k)) s v := by
  obtain ⟨fl, z, body, ends⟩ := e
  exact ⟨fl, z, (h.atomBegins acts released _).1.trans body, ends⟩

theorem ReadyAt.ends_atomPage {z : Xlat} {k : Target × Bool} (page : leafZero z.leaf = false)
    (e : Ends (atomAway op d l (o.getLsbD 0) (.atomic k.1 op n y.bits w.bits (x.taint || y.taint) k.2)) u v) :
    Ends (atomActs op d n sc o l x y w (.phys z, k)) s v := by
  obtain ⟨fl, t, body, ends⟩ := e
  refine ⟨fl, t, ?_, ends⟩
  unfold atomActs
  dsimp only
  rw [page]
  exact (h.atomBegins acts released _).1.trans body

/-- On a page of zeros the old value is known. -/
theorem ReadyAt.ends_atomZero {z : Xlat} {k : Target × Bool} (page : leafZero z.leaf = true)
    (e : (u.acquired (o.getLsbD 0)).yields d l { bits := 0, taint := x.taint || y.taint, poison := false } = some v) :
    Ends (atomActs op d n sc o l x y w (.phys z, k)) s v := by
  have ready := (h.atomBegins acts released (pure ())).2
  obtain ⟨fl, t, body, ends⟩ := (ready.acquired (o.getLsbD 0)).ends_carry e
  refine ⟨fl, t, ?_, ends⟩
  unfold atomActs
  dsimp only
  rw [page]
  refine (h.atomBegins acts released _).1.trans ?_
  cases acq : o.getLsbD 0 with
  | true =>
    rw [acq] at body
    exact (bind_ok (modify_run _ u)).trans body
  | false =>
    rw [acq] at body
    exact body

end

/-- The machine with an atomic on its way, and the fence behind it where it acquires (R155). -/
def withAtom (s : State) (acq : Bool) (kind : ReqKind) : State := { s with
  reqs := s.reqs ++ [{ uid := s.uid, core := s.core.id, act := s.core.cur.act.uid, kind := kind, served := false
                       slice := none, after := s.core.cur.act.fence }]
  core := { s.core with cur := { s.core.cur with act := { s.core.cur.act with
    fence := if acq then s.uid + 1 else s.core.cur.act.fence } } } }

theorem sendsAtom_eq (s : State) (d : RSpec) (l : BitVec 4) (op : AtomOp) (acq : Bool) (kind : ReqKind) :
    s.sendsAtom d l op acq kind = if op = .st && !acq then (s.withAtom acq kind).numbered.after 4
      else (s.withAtom acq kind).opened (.reg (if op = .st then .z else d)) l.toNat none (fun sl => { sl with acq := acq }) 4 :=
  rfl

/-- The request of an atomic, and the pending write or the acquire that awaits its answer. -/
theorem ReadyAt.ends_atomAway {m : Nat} {s : State} (h : s.ReadyAt m) (op : AtomOp) (d : RSpec) (l : BitVec 4) (acq : Bool)
    (kind : ReqKind) : Ends (atomAway op d l acq kind) s (s.sendsAtom d l op acq kind) := by
  have fences (g : M Flow) (t : State) : (do
      if acq then modify State.fenced
      g : M Flow) t = g (if acq then t.fenced else t) := by
    cases acq <;> rfl
  have sent : atomAway op d l acq kind s = (if op = .st && !acq then pure (.next none) else
      pure (.next (some { s.pending (.reg (if op = .st then .z else d)) l.toNat none with acq := acq })) : M Flow)
      (s.withAtom acq kind).numbered := by
    refine (bind_ok (newSlot_run _ _ _ s)).trans ((bind_ok (modify_run _ _)).trans ((fences _ _).trans ?_))
    cases acq <;> rfl
  have ready : (s.withAtom acq kind).ReadyAt m := h.of rfl rfl rfl rfl rfl h.check rfl rfl
  rw [sendsAtom_eq]
  split
  · next quiet =>
    rw [if_pos quiet] at sent
    obtain ⟨fl, t, runs, ends⟩ := ready.numbered.ends_next
    exact ⟨fl, t, sent.trans runs, ends⟩
  · next answered =>
    rw [if_neg answered] at sent
    obtain ⟨fl, t, runs, ends⟩ := ready.ends_opened (d := .reg (if op = .st then .z else d)) (l := l.toNat) (v := none)
      (g := fun sl => { sl with acq := acq }) (by simp [Slot.ready, pending]) rfl
    exact ⟨fl, t, sent.trans runs, ends⟩

end State

/-- The acquire of an atomic comes after its result has gone to its destination. -/
theorem Ends.acquires {x : M Flow} {s t u : State} {fl : Flow} {b : Bool} (runs : x s = .ok fl t)
    (e : Ends (pure fl) (t.acquired b) u) : Ends (do
      let fl ← x
      if b then acquire
      pure fl) s u := by
  refine .after_bind runs ?_
  cases b with
  | true => exact .after_bind (modify_run _ t) e
  | false => exact e

/-! ## The instructions -/

section
variable {i : Instr} {op : AtomOp} {d a : RSpec} {n : Nat} {sc o : BitVec 2} {l : BitVec 4} (h : Atomic i op d a n sc o l)
include h

/-- An atomic is `atom` with its member, of 4 bytes or 8. -/
theorem Atomic.exec_eq : ∃ z : BitVec 1, n = (if z = 0 then 4 else 8) ∧
    ∀ s, exec i s = run (formOf i) (atom op d a z sc o l) s := by
  have bytes (z : BitVec 1) : 4 + 4 * z.toNat = if z = 0 then 4 else 8 := by revert z; decide
  cases h <;> exact ⟨_, bytes _, fun _ => rfl⟩

theorem Atomic.size : n = 4 ∨ n = 8 := by
  obtain ⟨z, rfl, -⟩ := h.exec_eq
  split
  · exact .inl rfl
  · exact .inr rfl

theorem Atomic.priv : i.priv = false := by cases h <;> rfl

theorem Atomic.odd : encode i % 2 = 1 := by cases h <;> simp only [encode] <;> omega

/-- The operands of ACAS are two registers in a row. -/
theorem Atomic.cas_pair (hw : i.wf = true) (cas : op = .cas) : ∃ k, d = .w k := by
  cases h with
  | acas d a z sc o l =>
    cases d with
    | w k => exact ⟨k, rfl⟩
    | z | inq | inp _ | out _ => cases hw
  | _ => cases cas

theorem Atomic.regs_lt (hw : i.wf = true) : ∀ r ∈ i.regs, r < 32 := by
  have both (d a : RSpec) : ∀ r ∈ d.regs ++ a.regs, r < 32 := fun r hr =>
    (List.mem_append.1 hr).elim (RSpec.regs_lt d r) (RSpec.regs_lt a r)
  cases h with
  | acas d a z sc o l =>
    cases d with
    | w k =>
      have small : k.toNat < 31 := by
        simp only [Instr.wf, RSpec.pair, Bool.and_eq_true, decide_eq_true_eq] at hw
        exact hw.1.1
      intro r hr
      rcases List.mem_append.1 hr with hr | hr
      · obtain ⟨j, hj, rfl⟩ := List.mem_map.1 (show r ∈ (List.range 2).map (k.toNat + ·) from hr)
        have := List.mem_range.1 hj
        omega
      · exact RSpec.regs_lt a r hr
    | z | inq | inp _ | out _ => cases hw
  | _ => exact both _ _

/-- An atomic that acquires opens no window (R171). -/
theorem Atomic.acquire_now (hw : i.wf = true) (later : l ≠ 0) : o.getLsbD 0 = false := by
  have orders (b c : Bool) (hw : (b && c && (l == 0 || o == 0 || o == 2)) = true) : o.getLsbD 0 = false := by
    simp only [Bool.and_eq_true, Bool.or_eq_true, beq_iff_eq, later, false_or] at hw
    rcases hw.2 with rfl | rfl <;> rfl
  cases h with
  | ast => exact absurd rfl later
  | _ => exact orders _ _ hw

/-- An atomic with its operands that reaches its word does what its act does. -/
theorem Atomic.exec_acts {s s1 s2 s3 u : State} (hs : s.Ready) (hw : i.wf = true) {x y w : Val} (ha : s.src a = some (x, s1))
    (clean : x.poison = false) (hd : s1.src d = some (y, s2)) (plain : op ≠ .ld → y.poison = false)
    (hc : if op = .cas then s2.src (nextReg d 1) = some (w, s2) ∧ w.poison = false else w = .clean 0) {pl : Place}
    (place : s2.address x 0 n (if op = .ld then .read else .both) = some (pl, s3)) (ok : atomBad op pl sc = false)
    (e : s3.Ready → Ends (atomActs op d n sc o l x y w (pl, s3.atomTgt pl)) s3 u) : exec i s = .next u := by
  obtain ⟨z, size, runs⟩ := h.exec_eq
  have ready := (hs.src ha).src hd
  obtain ⟨fl, t, acts, ends⟩ := e (ready.walked (State.address_walked ready.armed place))
  refine hs.exec_ends (runs s) hw h.priv h.odd (h.regs_lt hw) ⟨fl, t, ?_, ends⟩
  rw [hs.atom_clean ha clean hd plain hc, ← size, bind_ok (ready.atomReach place ok), acts]

/-- With operands that are not poisoned, an atomic goes to its word. -/
theorem Atomic.reaches (hw : i.wf = true) {s s1 s2 : State} (hs : s.Ready) {x y : Val} (ha : s.src a = some (x, s1))
    (good : x.poison = false) (hd : s1.src d = some (y, s2))
    (operands : (op = .ld ∨ y.poison = false) ∧ (op = .cas → ((s2.src (nextReg d 1)).map (fun v => v.1.poison)) = some false)) :
    ∃ w, ∀ z : BitVec 1, n = (if z = 0 then 4 else 8) → atom op d a z sc o l s = (do
      let r ← atomReach op a n sc x
      atomActs op d n sc o l x y w r) s2 := by
  obtain ⟨value, swap⟩ := operands
  have plain : op ≠ .ld → y.poison = false := value.resolve_left
  by_cases cas : op = .cas
  · obtain ⟨k, rfl⟩ := h.cas_pair hw cas
    have clean := Option.some.inj (swap cas)
    refine ⟨s2.core.regVal (.ofNat 5 (k.toNat + 1)), fun z size => ?_⟩
    rw [size]
    exact hs.atom_clean ha good hd plain (by rw [if_pos cas]; exact ⟨rfl, clean⟩)
  · refine ⟨.clean 0, fun z size => ?_⟩
    rw [size]
    exact hs.atom_clean ha good hd plain (if_neg cas ▸ rfl)

/-- An atomic that stops takes its fault, and keeps what its operands took (R73). -/
theorem Atomic.exec_stops {s u : State} (hs : s.Ready) (hw : i.wf = true) {tr : TrapInfo}
    (stops : ∀ z : BitVec 1, n = (if z = 0 then 4 else 8) → ∃ v, atom op d a z sc o l s = .error (.trap tr) v ∧ Walked u v) :
    exec i s = .next ((s.keepTaken u).takeTrap tr s.core.cur.pc (encode i / 2 % 64)) := by
  obtain ⟨z, size, runs⟩ := h.exec_eq
  obtain ⟨v, body, walked⟩ := stops z size
  have issued : (do issue (formOf i); atom op d a z sc o l : M Flow) s = .error (.trap tr) v :=
    (bind_ok (hs.issue hw (.inl h.priv) (h.regs_lt hw))).trans body
  rw [runs, State.run_trap hs.armed issued, s.keepTaken_walked walked, (formOf_word h.odd).2]

end

end Sys2Proof.Machine

open Sys2Proof Sys2Proof.Machine

/-- Settles O25: an atomic goes to its word and acts there, or sets out for its home; its operands, its address and its target
are checked in that order. -/
theorem localAtomics : Obligations.LocalAtomics := by
  unfold Obligations.LocalAtomics
  refine ⟨?here, ?away, ?faults⟩
  case here =>
    intro s s1 s2 s3 s4 i op d a n sc o l x y w la h hw hs ha clean hd plain hc own past acts released ord old s5
    have size := h.size
    have bad : atomBad op (.here la) sc = false := decide_eq_false (Nat.not_lt.2 past)
    have ready : s5.Ready := ((((hs.src ha).src hd).atomBegins acts released (pure ())).2).atomed ..
    have ends {v : State} (e : Ends (do
        let fl ← (if op = .st then pure (.next none) else carry d l old : M Flow)
        if o.getLsbD 0 then acquire
        pure fl) s5 v) : exec i s = .next v :=
      h.exec_acts hs hw ha clean hd plain hc (State.address_of_ownAddr own _).1 bad fun ready =>
        ready.ends_atomHere acts released ord size e
    refine ⟨fun st => ends ?_, fun t other now put => ends ?_, fun t other later opens => ends ?_⟩
    · rw [if_pos st]
      exact .acquires rfl (ready.acquired _).ends_next
    · rw [if_neg other, now]
      exact .acquires (ready.carry_now put) ((ready.dst put).acquired _).ends_next
    · rw [if_neg other, h.acquire_now hw later]
      obtain ⟨fl, v, runs, ends⟩ := ready.ends_carry (show s5.yields d l old = _ by rw [State.yields, if_neg later, opens]; rfl)
      exact .acquires runs ⟨fl, v, rfl, ends⟩
  case away =>
    intro s s1 s2 s3 s4 s5 i op d a n sc o l x y w pl h hw hs ha clean hd plain hc place ok acts released acq taint
    have ends {v : State} (e : s3.Ready → Ends (atomActs op d n sc o l x y w (pl, s3.atomTgt pl)) s3 v) : exec i s = .next v :=
      h.exec_acts hs hw ha clean hd plain hc place ok e
    refine ⟨fun id la core => ends fun ready => ?_, fun z page zero => ends fun ready => ?_,
      fun z t page zero result => ends fun ready => ?_⟩
    · subst core
      exact ready.ends_atomCore acts released ((ready.atomBegins acts released (pure ())).2.ends_atomAway ..)
    · subst page
      exact ready.ends_atomPage acts released zero ((ready.atomBegins acts released (pure ())).2.ends_atomAway ..)
    · subst page
      exact ready.ends_atomZero acts released zero result
  case faults =>
    intro s s1 s2 i op d a n sc o l x y h hw hs ha hd k w va clean faults
    have ready := (hs.src ha).src hd
    have stops {u : State} {t : TrapInfo} (e : ∀ z : BitVec 1, atom op d a z sc o l s = .error (.trap t) u) : faults u t :=
      h.exec_stops hs hw fun z _ => ⟨u, e z, .refl u⟩
    refine ⟨fun bad => stops fun z => hs.atom_poisonAddr ha bad,
      fun good other bad => stops fun z => hs.atom_poisonValue ha good hd other bad, fun good cas value bad => ?_,
      fun t good operands bad cause => ?_, fun pl s3 good operands aligned there => ?_⟩
    · obtain ⟨k, rfl⟩ := h.cas_pair hw cas
      exact stops fun z => hs.atom_poisonSwap ha good hd (fun _ => value) cas rfl (Option.some.inj bad)
    · obtain ⟨v, goes⟩ := h.reaches hw hs ha good hd operands
      rcases State.badAddress_some bad with ⟨poisoned, -⟩ | ⟨-, unaligned, rfl⟩ | ⟨-, aligned, fails⟩
      · rw [good] at poisoned
        cases poisoned
      · exact h.exec_stops hs hw fun z size => ⟨s2, (goes z size).trans (bind_error (ready.atomReach_unaligned unaligned)), .refl s2⟩
      · rcases fails with unplaced | ⟨_, _, _, ⟨⟨⟩, -⟩ | ⟨-, -, rfl⟩⟩
        · obtain ⟨u, reach, walked⟩ := ready.atomReach_unplaced (op := op) (sc := sc) (x := x) aligned unplaced
          exact h.exec_stops hs hw fun z size => ⟨u, (goes z size).trans (bind_error reach), walked⟩
        · exact absurd rfl cause
    · obtain ⟨v, goes⟩ := h.reaches hw hs ha good hd operands
      have walked := State.placeAt_walked ready.armed there
      have reach := ready.atomReach_placed (op := op) (a := a) (sc := sc) (x := x) aligned there
      refine ⟨fun bad => ?_, fun fine watch => ?_⟩
      · rw [if_pos bad] at reach
        exact h.exec_stops hs hw fun z size => ⟨s3, (goes z size).trans (bind_error reach), walked⟩
      · have watch : s2.watches (addr48 x.bits) n (atomAccess op) = true := watch
        rw [if_neg (by simp [fine]), if_pos watch] at reach
        exact h.exec_stops hs hw fun z size => ⟨s3, (goes z size).trans (bind_error reach), walked⟩
end

section
/-! SUPPORT. Reads that take their bytes at issue: with no error armed they change lines, records and free bits only. -/

namespace Sys2Proof.Machine

/-! ## Lines of the slices (R131, R430) -/

namespace Walked

theorem quiet {s t : State} (w : Walked s t) (h : s.armed = []) : t.armed = [] := w.armed.trans h

/-- A fold of steps that leave the core leaves it. -/
theorem fold {α : Type} {f : State → α → State} (step : ∀ s a, s.armed = [] → Walked s (f s a)) :
    ∀ (l : List α) {s : State}, s.armed = [] → Walked s (l.foldl f s)
  | [], s, _ => .refl s
  | a :: l, _, h => (step _ a h).trans (fold step l ((step _ a h).quiet h))

theorem recordMgmt (s : State) (r : Rec) : Walked s (s.recordMgmt r) := by
  obtain ⟨_, _, same⟩ := s.recordMgmt_eq r
  rw [same]
  exact ⟨rfl, rfl, rfl⟩

theorem takeFree (s : State) : Walked s s.takeFree.2 := ⟨rfl, rfl, rfl⟩

theorem evict {s : State} (h : s.armed = []) (x : CacheLine) : Walked s (s.evict x) := by
  unfold State.evict
  simp only [h, List.filter_nil, List.isEmpty_nil, if_true]
  generalize lines : ({ s with lines := _, armed := _ } : State) = t
  have left : Walked s t := lines ▸ ⟨rfl, h.symm, rfl⟩
  split
  · exact left
  · exact left.trans ((takeFree t).trans (recordMgmt _ _))

theorem makeRoom {s : State} (h : s.armed = []) (line : Nat) (tag way : Bool) : Walked s (s.makeRoom line tag way) := by
  unfold State.makeRoom
  split
  · exact .refl s
  · dsimp only
    split
    · split
      · exact .refl s
      · exact evict h _
    · exact .refl s

theorem putLine (s : State) (use : LineUse) (x : CacheLine) : Walked s (s.putLine use x) := by
  unfold State.putLine
  dsimp only
  split <;> exact ⟨rfl, rfl, rfl⟩

theorem hitLine {s : State} (h : s.armed = []) (use : LineUse) (x : CacheLine) (zeros : Bool) (covered : List Nat) :
    Walked s (s.hitLine use x zeros covered) := by
  unfold State.hitLine
  dsimp only
  split
  · exact (makeRoom h _ _ _).trans (putLine _ _ _)
  · exact putLine _ _ _

theorem addLine {s : State} (h : s.armed = []) (use : LineUse) (x : CacheLine) : Walked s (s.addLine use x) := by
  have room := makeRoom h x.line true (!x.zero)
  unfold State.addLine
  dsimp only
  split
  · exact room.trans ⟨rfl, rfl, rfl⟩
  · split
    · exact room.trans ⟨rfl, rfl, rfl⟩
    · exact room.trans ⟨rfl, rfl, rfl⟩

theorem fillLine {s : State} (h : s.armed = []) (use : LineUse) (l : Nat) : Walked s (s.fillLine use l) := by
  unfold State.fillLine
  simp only [h, List.isEmpty_nil, if_true]
  exact addLine h _ _

theorem readLines {s : State} (h : s.armed = []) (use : LineUse) (key n : Nat) : Walked s (s.readLines use key n) := by
  have line (s : State) (l : Nat) (h : s.armed = []) : Walked s (State.readLine use s l) := by
    unfold State.readLine
    split
    · exact putLine _ _ _
    · split
      · exact fillLine h _ _
      · exact fillLine h _ _
      · exact fillLine h _ _
      · exact .refl s
      · exact .refl s
      · exact .refl s
  unfold State.readLines
  split
  · exact fold line _ h
  · exact .refl s

theorem meetPhys {s : State} (h : s.armed = []) (use : LineUse) (p key n : Nat) : Walked s (s.meetPhys use p key n).2 := by
  have lines := readLines h use key n
  unfold State.meetPhys
  simp only [lines.quiet h, List.isEmpty_nil, if_true]
  exact lines

/-! ## Records and free bits (R333, R381) -/

theorem directWrite {s : State} (h : s.armed = []) (key : Nat) (bytes : List Byte) : Walked s (s.directWrite key bytes) := by
  have putBytes (s : State) (key : Nat) (bytes : List Byte) (pois : List Bool) : Walked s (s.putBytes key bytes pois) :=
    ⟨rfl, rfl, rfl⟩
  refine Walked.trans (fold (fun s l h => ?_) _ h) (putBytes _ _ _ _)
  dsimp only
  split
  · exact .refl s
  · exact hitLine h _ _ _ _

theorem modCtx (s : State) (id : Nat) (f : Context → Context) : Walked s (s.modCtx id f) := ⟨rfl, rfl, rfl⟩

theorem recordInto {s : State} (h : s.armed = []) (c : Context) (r : Rec) (valid : Bool) :
    Walked s (s.recordInto c r valid) := by
  unfold State.recordInto
  exact (directWrite h _ _).trans (modCtx _ _ _)

theorem recordFound {s : State} (h : s.armed = []) (id : Nat) (r : Rec) : Walked s (s.recordFound id r) := by
  unfold State.recordFound
  split
  · exact .refl s
  · exact recordInto h _ _ _

theorem recordAfter (id : Nat) (r : Rec) : ∀ (k : Nat) {s : State}, s.armed = [] → Walked s (State.recordAfter id r k s)
  | 0, _, h => recordFound h id r
  | k + 1, s, h => by
    unfold State.recordAfter
    split
    · exact .refl s
    · next c _ =>
      have read : (s.readValid c.part (State.faultSlot c)).2 = s := by
        unfold State.readValid
        rw [h]
        rfl
      dsimp only
      rw [read]
      split
      · exact .refl s
      · split
        · exact recordInto h _ _ _
        · exact recordAfter id r k h

theorem recordCtx {s : State} (h : s.armed = []) (id : Nat) (r : Rec) : Walked s (s.recordCtx id r) := recordAfter id r _ h

theorem freeBytes (s : State) (n : Nat) : Walked s (s.freeBytes n).2 := by
  have all : ∀ (l : List Nat) (acc : List Byte) (s : State), Walked s (l.foldl (fun (acc, s) _ =>
      let (w, s) := s.takeFree
      (acc ++ dwordBytes w, s)) (acc, s)).2 := by
    intro l
    induction l with
    | nil => exact fun acc s => .refl s
    | cons a l ih => exact fun acc s => Walked.trans (t := s.takeFree.2) ⟨rfl, rfl, rfl⟩ (ih _ _)
  exact all _ _ _

theorem outsideRead {s : State} (h : s.armed = []) (core key n : Nat) : Walked s (s.outsideRead core key n).2 := by
  unfold State.outsideRead State.outsideFor
  split
  · exact (takeFree s).trans (recordCtx (s := s.takeFree.2) h _ _)
  · exact freeBytes s n

theorem homeRun {s : State} (h : s.armed = []) (use : LineUse) (p : Nat) (dom : Option Dom) (core key n : Nat) :
    Walked s (s.homeRun use p dom core key n).2 := meetPhys h ..

theorem homeRead {s : State} (h : s.armed = []) (use : LineUse) (p : Nat) (dom : Option Dom) (core key n : Nat) (own : List StoreOp) :
    Walked s (s.homeRead use p dom core key n own).2 := homeRun h use p dom core key n

end Walked

end Sys2Proof.Machine
end

section
/-! SUPPORT. What the members of KMEM keep of the core on their way, and what their reads give. -/

namespace Sys2Proof.Machine

/-! ## A core that waits for no scale (R245, R248) -/

/-- The core in focus is the same but for its running activation, its buffers, its L1 and its channels. -/
structure Quiet (s t : State) : Prop where
  armed : t.armed = s.armed
  core : ∃ a b l o f w, t.core = { s.core with
    cur := { s.core.cur with act := a }, storeBuf := b, l1 := l, outbox := o, fifoIn := f, window := w } ∧ a.check = none

theorem Quiet.trans {s t u : State} (h : Quiet s t) (k : Quiet t u) : Quiet s u := by
  obtain ⟨_, _, _, _, _, _, first, -⟩ := h.core
  obtain ⟨a, b, l, o, f, w, next, check⟩ := k.core
  refine ⟨k.armed.trans h.armed, a, b, l, o, f, w, ?_, check⟩
  rw [next, first]

namespace State


theorem ReadyAt.quiet_refl {n : Nat} {s : State} (h : s.ReadyAt n) : Quiet s s := ⟨rfl, _, _, _, _, _, _, rfl, h.check⟩

theorem ReadyAt.quiet_walked {n : Nat} {s t : State} (h : s.ReadyAt n) (w : Walked s t) : Quiet s t :=
  ⟨w.armed, _, _, _, _, _, _, w.core, h.check⟩

theorem ReadyAt.quiet_reading {n : Nat} {s : State} (h : s.ReadyAt n) (la m : Nat) : Quiet s (s.reading la m) := by
  obtain ⟨a, e, check, -⟩ := reading_eq h.check la m
  rw [e]
  exact ⟨rfl, _, _, _, _, _, _, rfl, check⟩

theorem ReadyAt.quiet_uncheck {n : Nat} {s : State} (h : s.ReadyAt n) : Quiet s s.uncheck := by
  rw [uncheck_eq h.check]
  exact ⟨rfl, _, _, _, _, _, _, rfl, rfl⟩

theorem ReadyAt.quiet_irrevocably {n : Nat} {s t : State} (h : s.ReadyAt n) (e : s.irrevocably = some t) : Quiet s t := by
  have check := (h.irrevocable e).2.1.check
  obtain ⟨_, _, _, _, a, rfl, -⟩ := h.irrevocably_eq e
  exact ⟨rfl, _, _, _, _, _, _, rfl, check⟩

theorem ReadyAt.quiet_src {n : Nat} {s t : State} (h : s.ReadyAt n) {r : RSpec} {v : Val} (e : s.src r = some (v, t)) : Quiet s t := by
  cases r with
  | w i | z => exact (Prod.mk.inj (Option.some.inj e)).2 ▸ h.quiet_refl
  | out d => cases e
  | inq =>
    simp only [State.src] at e
    split at e
    · rw [← (Prod.mk.inj (Option.some.inj e)).2]
      exact ⟨rfl, _, _, _, _, _, _, rfl, h.check⟩
    · rw [← (Prod.mk.inj (Option.some.inj e)).2]
      exact ⟨rfl, _, _, _, _, _, _, rfl, h.check⟩
  | inp d =>
    simp only [State.src] at e
    split at e
    · split at e
      · obtain ⟨u, acts, same⟩ := Option.map_eq_some_iff.1 e
        have check := (h.irrevocable acts).2.1.check
        rw [← (Prod.mk.inj same).2]
        exact (h.quiet_irrevocably acts).trans ⟨rfl, _, _, _, _, _, _, rfl, check⟩
      · cases e
    · cases e

theorem ReadyAt.quiet_readsPage {n : Nat} {s t : State} (h : s.ReadyAt n) {x : Xlat} (e : s.readsPage x = some t) : Quiet s t := by
  obtain ⟨u, first, rfl⟩ := Option.map_eq_some_iff.1 e
  have before : u.ReadyAt n ∧ Quiet s u := by
    split at first
    · exact ⟨(h.irrevocable first).2.1, h.quiet_irrevocably first⟩
    · cases first
      exact ⟨h, h.quiet_refl⟩
  obtain ⟨ready, quiet⟩ := before
  split
  · exact quiet
  · exact quiet.trans ready.quiet_uncheck

/-- A core that can issue, with the press idle and no write of any thread pending. -/
structure ScaleReady (s : State) : Prop where
  ready : s.Ready
  free : s.scaleFree = true

theorem ScaleReady.quiet {s t : State} (h : s.ScaleReady) (q : Quiet s t) : t.ScaleReady := by
  obtain ⟨a, b, l, o, f, w, core, check⟩ := q.core
  have free := h.free
  have ready := h.ready
  refine ⟨ready.of ?_ ?_ ?_ ?_ ?_ ?_ q.armed ?_, ?_⟩
  iterate 5 rw [core]
  · rw [core]
    exact check
  · rw [core]
  · unfold scaleFree laneFree at free ⊢
    rw [core]
    exact free

theorem ScaleReady.laneFree {s : State} (h : s.ScaleReady) : s.laneFree = true := by
  have free := h.free
  simp only [scaleFree, Bool.and_eq_true] at free
  exact free.1

theorem ScaleReady.threads {s : State} (h : s.ScaleReady) (p : Dest → Bool) : s.core.threads.any (·.owes p) = false := by
  have free := h.free
  simp only [scaleFree, Bool.and_eq_true, List.all_eq_true, List.isEmpty_iff] at free
  simp only [List.any_eq_false]
  intro th there
  simp [Thread.owes, free.2 th there]

theorem ScaleReady.needsShared {s : State} (h : s.ScaleReady) (p : Dest → Bool) : Machine.needsShared p s = .ok () s := by
  rw [Machine.needsShared, bind_ok (getC_run s), h.ready.owes, h.threads]
  rfl

/-- Before a scale is written, nothing is waited for. -/
theorem ScaleReady.beforeScaleWrite {s t : State} (h : s.ScaleReady) (e : s.scalable = some t) (ks : List Nat) :
    Machine.beforeScaleWrite ks [] s = .ok () t ∧ t.ScaleReady := by
  have idle : s.core.busySlots = [] := List.isEmpty_iff.1 h.laneFree
  have named (k : Nat) : s.core.rindNamed k = false := by
    rw [Core.rindNamed, List.any_eq_false]
    intro j hj
    have slot : (s.core.press.slots.getD j .empty).st = .free := by
      have := List.filter_eq_nil_iff.1 idle j hj
      simpa using this
    have waits : s.core.toStart j = false := by
      rw [Core.toStart, slot]
      rfl
    simp [waits]
  have none : (ks.any s.core.rindNamed || [].any s.core.tagNamed) = false := by simp [named]
  unfold Machine.beforeScaleWrite
  rw [bind_ok (getC_run s), bind_ok (h.needsShared _), none, Bool.not_false, bind_ok (waitUntil_true s)]
  unfold scalable at e
  cases press : s.core.selfpress with
  | true =>
    rw [press] at e
    cases e
    exact ⟨rfl, h⟩
  | false =>
    rw [press] at e
    exact ⟨(h.ready.irrevocable e).1, h.quiet (h.ready.quiet_irrevocably e)⟩

/-! ## Reads at issue (R136, R163) -/

/-- A read at issue fills the L1, and leaves the rest of the core. -/
theorem ReadyAt.quiet_fillLines {n : Nat} {s : State} (h : s.ReadyAt n) (start : Nat) (bs : List Byte) (ps : List Bool) :
    Quiet s (s.fillLines s.core.id start bs ps) := by
  have one (c : Core) (line : Nat) (bytes : List Byte) (pois : List Bool) : ∃ l, c.l1Fill line bytes pois = { c with l1 := l } := by
    unfold Core.l1Fill
    dsimp only
    split
    · exact ⟨_, rfl⟩
    · split
      · exact ⟨_, rfl⟩
      · split <;> exact ⟨_, rfl⟩
  have all (line : Nat → Nat) (bytes : Nat → List Byte) (pois : Nat → List Bool) : ∀ (ks : List Nat) (c : Core), ∃ l,
      ks.foldl (fun c k => c.l1Fill (line k) (bytes k) (pois k)) c = { c with l1 := l } := by
    intro ks
    induction ks with
    | nil => exact fun c => ⟨c.l1, rfl⟩
    | cons k ks ih =>
      intro c
      obtain ⟨l, e⟩ := one c (line k) (bytes k) (pois k)
      obtain ⟨l', e'⟩ := ih (c.l1Fill (line k) (bytes k) (pois k))
      exact ⟨l', by rw [List.foldl_cons, e', e]⟩
  unfold State.fillLines
  dsimp only
  rw [coreOf_focus]
  obtain ⟨l, e⟩ := all _ _ _ _ s.core
  rw [e, putCore, if_pos rfl]
  exact ⟨rfl, _, _, _, _, _, _, rfl, h.check⟩

theorem ReadyAt.quiet_readFor {n : Nat} {s : State} (h : s.ReadyAt n) (use : LineUse) (t : Target) (m : Nat) (fill : Bool)
    (own : List StoreOp) : Quiet s (s.readFor use s.core.id t m fill own).2 := by
  unfold State.readFor
  split
  · next id la =>
    have met : s.meetLocal id la m = s := by simp [meetLocal, h.armed]
    dsimp only
    rw [met]
    exact h.quiet_refl
  · next key =>
    split
    · exact h.quiet_walked (.outsideRead h.armed ..)
    · dsimp only
      split
      · exact h.quiet_walked (.homeRead h.armed ..)
      · generalize hr : s.homeRun use _ _ _ _ _ = r
        have walked : Walked s r.2 := hr ▸ .homeRun h.armed ..
        have filled := (h.walked walked).quiet_fillLines
        rw [walked.core] at filled
        exact (h.quiet_walked walked).trans (filled _ _ _)

/-- What a member of KMEM reads at a place. -/
theorem ReadyAt.readNow {m : Nat} {s t : State} (h : s.ReadyAt m) {pl : Place} {n : Nat} {home : Bool} {bs : List (Byte × Bool)}
    (e : s.readsNow pl n home = some (bs, t)) : Machine.readNow pl n 0 home s = .ok bs t ∧ Quiet s t := by
  have asks {u : State} (ready : u.ReadyAt m) {use : LineUse} {w : Target} {fill : Bool}
      (e : (if u.ordered then some (u.readFor use u.core.id w n fill (u.core.ownAt w n)) else none) = some (bs, t)) :
      Machine.inOrder u = .ok () u ∧ u.readFor use u.core.id w n fill (u.core.ownAt w n) = (bs, t) ∧ Quiet u t := by
    split at e
    · next ord =>
      have reads := Option.some.inj e
      have quiet := ready.quiet_readFor use w n fill (u.core.ownAt w n)
      rw [reads] at quiet
      exact ⟨ready.inOrder ord, reads, quiet⟩
    · cases e
  cases pl with
  | here la =>
    simp only [readsNow] at e
    split at e
    · next ord =>
      obtain ⟨rfl, rfl⟩ := Prod.mk.inj (Option.some.inj e)
      refine ⟨?_, h.quiet_reading la n⟩
      rw [Machine.readNow, h.readHere ord, h.localBytes_reading]
    · cases e
  | core id la =>
    obtain ⟨order, reads, quiet⟩ := asks h.unchecked e
    refine ⟨?_, h.quiet_uncheck.trans quiet⟩
    refine (bind_ok (modify_run _ s)).trans ((bind_ok order).trans ((bind_ok (getC_run _)).trans ?_))
    rw [stateOf_run, reads]
  | phys x =>
    obtain ⟨u, page, e⟩ := Option.bind_eq_some_iff.1 e
    have ready := (h.readsPage page).2
    have source := h.sourceOf page n 0 home
    cases near : u.readNear x n home with
    | some bytes =>
      rw [near] at e source
      cases e
      exact ⟨(bind_ok source).trans rfl, h.quiet_readsPage page⟩
    | none =>
      rw [near] at e source
      obtain ⟨order, reads, quiet⟩ := asks ready e
      refine ⟨?_, (h.quiet_readsPage page).trans quiet⟩
      have fills : fillsL1 x 0 home = (decide (leafPol x.leaf = 0) && !home) := Bool.and_true _
      rw [← fills] at reads
      refine (bind_ok source).trans ((bind_ok order).trans ((stateOf_run _ u).trans ?_))
      exact congrArg (fun r => EStateM.Result.ok r.1 r.2) reads

/-- The read of one piece of an area. -/
def readPiece (home : Bool) (p : Place × Nat × Nat) : M (List (Byte × Bool)) := Machine.readNow p.1 p.2.2 0 home

theorem kmemRead_eq (ps : List (Place × Nat × Nat)) (home : Bool) :
    Machine.kmemRead ps home = (do return (← ps.mapM (readPiece home)).flatten) := rfl

/-- What a member of KMEM reads of an area, piece after piece. -/
theorem ScaleReady.kmemRead {home : Bool} : ∀ {ps : List (Place × Nat × Nat)} {s t : State} {bs : List (Byte × Bool)},
    s.ScaleReady → areaRead home ps s = some (bs, t) → Machine.kmemRead ps home s = .ok bs t ∧ Quiet s t := by
  have pieces : ∀ {ps : List (Place × Nat × Nat)} {s t : State} {bs : List (Byte × Bool)}, s.ScaleReady →
      areaRead home ps s = some (bs, t) → ∃ l, ps.mapM (readPiece home) s = .ok l t ∧
        l.flatten = bs ∧ Quiet s t := by
    intro ps
    induction ps with
    | nil =>
      intro s t bs h e
      cases e
      exact ⟨[], rfl, rfl, h.ready.quiet_refl⟩
    | cons p ps ih =>
      intro s t bs h e
      obtain ⟨pl, va, n⟩ := p
      obtain ⟨⟨first, u⟩, read, e⟩ := Option.bind_eq_some_iff.1 e
      obtain ⟨⟨rest, v⟩, others, same⟩ := Option.map_eq_some_iff.1 e
      cases same
      obtain ⟨runs, quiet⟩ := h.ready.readNow read
      obtain ⟨l, more, flat, still⟩ := ih (h.quiet quiet) others
      refine ⟨first :: l, ?_, by rw [List.flatten_cons, flat], quiet.trans still⟩
      rw [List.mapM_cons]
      exact (bind_ok runs).trans ((bind_ok more).trans rfl)
  intro ps s t bs h e
  obtain ⟨l, runs, flat, quiet⟩ := pieces h e
  refine ⟨?_, quiet⟩
  rw [kmemRead_eq, bind_ok runs, flat]
  rfl

end State

end Sys2Proof.Machine
end

section
/-! SUPPORT. KLD, KST, KSAVE and KRESTORE once their area is found: the scales they write, and the pieces they store. -/

namespace Sys2Proof.Machine

namespace State

/-! ## Scales written (R245) -/

theorem ScaleReady.withRind {s : State} (h : s.ScaleReady) (k : Nat) (l : List (Nat × Bool)) : (s.withRind k l).ScaleReady :=
  ⟨h.ready.of rfl rfl rfl rfl rfl h.ready.check rfl rfl, h.free⟩

theorem ScaleReady.writeRindM {s : State} (h : s.ScaleReady) (k : BitVec 4) (l : List (Nat × Bool)) :
    Machine.writeRindM k l s = .ok () (s.withRind k.toNat l) := by
  have skips (i : Nat) : (do
      Machine.cancels (Dest.isRind i)
      pure (.yield PUnit.unit) : M (ForInStep PUnit)) s = .ok (.yield ⟨⟩) s := bind_ok (h.ready.cancels _)
  have cancels : cancelScales [k.toNat] [] s = .ok () s := (bind_ok (forIn_skip skips _)).trans rfl
  exact (bind_ok cancels).trans rfl

/-- The registers of KRESTORE, written in order. -/
theorem ScaleReady.writeRinds (f : Nat → List (Nat × Bool)) : ∀ (ks : List Nat) {s : State}, s.ScaleReady → (∀ k ∈ ks, k < 16) →
    (forIn ks PUnit.unit fun k _ => do
      Machine.writeRindM (.ofNat 4 k) (f k)
      pure (.yield PUnit.unit) : M PUnit) s = .ok ⟨⟩ (ks.foldl (fun u k => u.withRind k (f k)) s) ∧
    (ks.foldl (fun u k => u.withRind k (f k)) s).ScaleReady
  | [], _, h, _ => ⟨rfl, h⟩
  | k :: ks, s, h, small => by
    have num : (BitVec.ofNat 4 k).toNat = k := by
      have := small k (.head _)
      rw [BitVec.toNat_ofNat]
      omega
    have one := h.writeRindM (.ofNat 4 k) (f k)
    rw [num] at one
    obtain ⟨rest, ready⟩ := ScaleReady.writeRinds f ks (h.withRind k (f k)) fun j hj => small j (.tail _ hj)
    refine ⟨?_, ready⟩
    rw [List.forIn_cons, bind_assoc, bind_ok one]
    exact rest

/-! ## The places of a block of 64 bytes -/

theorem ReadyAt.kmemPlaces_block {m : Nat} {s s1 s2 : State} (h : s.ReadyAt m) (free : s.laneFree = true) {r : RSpec} {v : Val}
    (hv : s.src r = some (v, s1)) {k : Access} (hk : k ≠ .exec) {pl : Place} (e : s1.address v 0 64 k = some (pl, s2)) :
    Machine.kmemPlaces r 64 64 k s = .ok ([(pl, addr48 v.bits, 64)], v.taint) s2 := by
  obtain ⟨clean, aligned, unwatched, there⟩ := address_some e
  have va : effAddr v.bits 0 = addr48 v.bits := rfl
  rw [va] at aligned unwatched there
  have good : s1.badPlace r (addr48 v.bits) 64 k = none := badPlace_none.2 ⟨_, _, there⟩
  refine h.kmemPlaces free hv clean aligned hk ?_ ?_
  · rw [areaPieces_block, areaAt, good, there]
    rfl
  · intro x hx
    rw [areaPieces_block, List.mem_singleton] at hx
    rw [hx, watches_walked (placeAt_walked (h.src hv).armed there)]
    exact unwatched

theorem address_of_ownBlock {s : State} {v : Val} {unit n la : Nat} (e : s.ownBlock v unit n = some la) :
    v.poison = false ∧ addr48 v.bits = 0xFFFFFFFE0000 + la ∧ addr48 v.bits % unit = 0 ∧ s.core.scratch la n = true ∧
      s.ordered = true := by
  simp only [ownBlock] at e
  split at e
  · next ok =>
    simp only [Bool.and_eq_true, Bool.not_eq_true', decide_eq_true_eq] at ok
    obtain ⟨⟨⟨⟨clean, high⟩, aligned⟩, banks⟩, ord⟩ := ok
    have la := Option.some.inj e
    rw [la] at banks
    have lt : addr48 v.bits < 2 ^ 48 := Nat.mod_lt _ (by decide)
    exact ⟨clean, by omega, aligned, banks, ord⟩
  · cases e

/-- An address of the core's own window leads to its own memory. -/
theorem placeAt_window {s : State} {la n : Nat} (small : la < 2 ^ 17) (banks : s.core.scratch la n = true) (k : Access) :
    s.placeAt (0xFFFFFFFE0000 + la) n k = some (.here la, s) := by
  have here : (0xFFFFFFFE0000 + la) % 2 ^ 17 = la := by omega
  have global : ¬ 0xFFFFFFFE0000 + la < 0xFFFFFF000000 := by omega
  have own : s.named (0xFFFFFFFE0000 + la) = s.core.id := if_pos (Nat.le_add_right _ _)
  rw [placeAt, here, if_neg global, if_pos own, if_pos banks]

theorem watches_window (s : State) (la n : Nat) (k : Access) : s.watches (0xFFFFFFFE0000 + la) n k = false := by
  rw [watches, decide_eq_false (by omega), Bool.false_and]

theorem scratch_le {c : Core} {la n : Nat} (banks : c.scratch la n = true) : la + n ≤ 2 ^ 17 := by
  simp only [Core.scratch, Bool.and_eq_true, decide_eq_true_eq] at banks
  exact banks.1

theorem address_ownBlock {s : State} {v : Val} {la : Nat} (e : s.ownBlock v 64 64 = some la) (k : Access) :
    s.address v 0 64 k = some (.here la, s) := by
  obtain ⟨clean, at', aligned, banks, -⟩ := address_of_ownBlock e
  have va : effAddr v.bits 0 = 0xFFFFFFFE0000 + la := at'
  have small : la < 2 ^ 17 := by have := scratch_le banks; omega
  rw [at'] at aligned
  simp only [address, va, clean, aligned, watches_window, placeAt_window small banks]
  rfl

end State

/-! ## KLD and KRESTORE -/

section
variable {s s1 s2 s3 t : State} (h : s.ScaleReady) {r : RSpec} {v : Val} (hv : s.src r = some (v, s1)) {bs : List (Byte × Bool)}
include h hv

theorem State.ScaleReady.kld {kd : BitVec 4} {pl : Place} (place : s1.address v 0 64 .read = some (pl, s2))
    (reads : s2.readsNow pl 64 v.taint = some (bs, s3)) (scales : s3.scalable = some t) :
    Machine.kld kd r s = .ok (.next none) (t.withRind kd.toNat (bs.map (fun x => (x.1.toNat, x.2)))) ∧
      (t.withRind kd.toNat (bs.map (fun x => (x.1.toNat, x.2)))).Ready := by
  have first : s2.ScaleReady := (h.quiet (h.ready.quiet_src hv)).quiet
    ((h.ready.src hv).quiet_walked (State.address_walked (h.ready.src hv).armed place))
  have area : State.areaRead v.taint [(pl, addr48 v.bits, 64)] s2 = some (bs, s3) := by
    simp [State.areaRead, reads]
  obtain ⟨read, quiet⟩ := first.kmemRead area
  obtain ⟨before, ready⟩ := (first.quiet quiet).beforeScaleWrite scales [kd.toNat]
  refine ⟨?_, (ready.withRind _ _).ready⟩
  rw [Machine.kld, bind_ok (h.ready.kmemPlaces_block h.laneFree hv (k := .read) nofun place)]
  exact (bind_ok read).trans ((bind_ok before).trans ((bind_ok (ready.writeRindM kd _)).trans rfl))

theorem State.ScaleReady.krestore {ps : List (Place × Nat × Nat)} (clean : v.poison = false) (aligned : addr48 v.bits % 256 = 0)
    (area : State.areaAt r .read (areaPieces (addr48 v.bits) 1184) s1 = .ok (ps, s2))
    (unwatched : ∀ x ∈ areaPieces (addr48 v.bits) 1184, s2.watches x.1 x.2 .read = false)
    (reads : State.areaRead v.taint ps s2 = some (bs, s3)) (scales : s3.scalable = some t) :
    let u := (List.range 16).foldl (fun u k =>
      u.withRind k (((bs.drop (64 * k)).take 64).map (fun x => (x.1.toNat, x.2)))) t
    Machine.krestore r s = .ok (.next none) u ∧ u.Ready := by
  have first : s2.ScaleReady := (h.quiet (h.ready.quiet_src hv)).quiet
    ((h.ready.src hv).quiet_walked (State.areaAt_walked (h.ready.src hv).armed area))
  obtain ⟨read, quiet⟩ := first.kmemRead reads
  obtain ⟨before, ready⟩ := (first.quiet quiet).beforeScaleWrite scales (List.range 16)
  obtain ⟨writes, done⟩ := ready.writeRinds (fun k => ((bs.drop (64 * k)).take 64).map (fun x => (x.1.toNat, x.2)))
    (List.range 16) fun k hk => List.mem_range.1 hk
  refine ⟨?_, done.ready⟩
  rw [Machine.krestore, bind_ok (h.ready.kmemPlaces h.laneFree hv (k := .read) clean aligned nofun area unwatched)]
  exact (bind_ok read).trans ((bind_ok before).trans ((bind_ok writes).trans rfl))

end

end Sys2Proof.Machine
end

section
/-! SUPPORT. KST and KSAVE: the pieces of an area, stored one after the other. -/

namespace Sys2Proof.Machine

namespace State

/-- The stores of an area, piece after piece (R248). -/
def storePieces (seq : Nat) : List (Place × Nat × Nat) → List (Byte × Bool) → M Unit
  | [], _ => pure ()
  | (pl, va, n) :: l, bs => do
    Machine.storePart seq pl .normal va ((bs.take n).map (·.1)) ((bs.take n).map (·.2)) false
    storePieces seq l (bs.drop n)

/-- Every piece but the last has 256 bytes. -/
def Blocks (ps : List (Place × Nat × Nat)) : Prop := ∀ p ∈ ps.dropLast, p.2.2 = 256

theorem blocks_of_lengths {ps : List (Place × Nat × Nat)} {k last : Nat}
    (e : ps.map (·.2.2) = List.replicate k 256 ++ [last]) : Blocks ps := by
  intro p hp
  have there : p.2.2 ∈ (ps.map (·.2.2)).dropLast := by
    rw [← List.map_dropLast]
    exact List.mem_map_of_mem hp
  rw [e, List.dropLast_concat] at there
  exact List.eq_of_mem_replicate there

/-- The loop of `kmemWrite` over pieces with their numbers. -/
theorem kmemWrite_loop (seq : Nat) (bs : List (Byte × Bool)) : ∀ (ps : List (Place × Nat × Nat)) (j : Nat), Blocks ps →
    (forIn (ps.zipIdx j) PUnit.unit fun x _ => do
      let ((pl, a, m), j) := x
      let piece := (bs.drop (256 * j)).take m
      Machine.storePart seq pl .normal a (piece.map (·.1)) (piece.map (·.2)) false
      pure (.yield PUnit.unit) : M PUnit) = storePieces seq ps (bs.drop (256 * j))
  | [], _, _ => rfl
  | [(pl, a, m)], j, _ => by
    rw [List.zipIdx_cons, List.forIn_cons, bind_assoc]
    rfl
  | (pl, a, m) :: q :: l, j, blocks => by
    have size : m = 256 := blocks (pl, a, m) (.head _)
    have next : (bs.drop (256 * j)).drop m = bs.drop (256 * (j + 1)) := by
      rw [List.drop_drop, size, Nat.mul_succ]
    have rest := kmemWrite_loop seq bs (q :: l) (j + 1) fun p hp => blocks p (.tail _ hp)
    rw [List.zipIdx_cons, List.forIn_cons, bind_assoc, storePieces, next, ← rest]
    rfl

theorem kmemWrite_eq {ps : List (Place × Nat × Nat)} (blocks : Blocks ps) (bs : List (Byte × Bool)) :
    Machine.kmemWrite ps bs = (do let seq ← stateOf State.takeUid; storePieces seq ps bs) := by
  have loop (seq : Nat) := kmemWrite_loop seq bs ps 0 blocks
  simp only [Machine.kmemWrite]
  congr 1
  funext seq
  exact (bind_pure _).trans (loop seq)

/-- The pieces of an activation that is not sampled leave what each leaves in turn. -/
theorem ReadyAt.storePieces {m : Nat} {seq : Nat} : ∀ {ps : List (Place × Nat × Nat)} {bs : List (Byte × Bool)} {s t : State},
    s.ReadyAt m → s.core.cur.act.sampled = false → areaStore seq ps bs s = some t →
    State.storePieces seq ps bs s = .ok () t ∧ t.ReadyAt m
  | [], _, _, _, h, _, e => by cases e; exact ⟨rfl, h⟩
  | (pl, va, n) :: l, bs, s, t, h, plain, e => by
    obtain ⟨u, first, rest⟩ := Option.bind_eq_some_iff.1 e
    obtain ⟨runs, ready, still⟩ := h.storePart plain first va
    obtain ⟨more, done⟩ := ReadyAt.storePieces ready still rest
    exact ⟨(bind_ok runs).trans more, done⟩

theorem ReadyAt.kmemWrite {m : Nat} {s t : State} (h : s.ReadyAt m) (plain : s.core.cur.act.sampled = false)
    {ps : List (Place × Nat × Nat)} (blocks : Blocks ps) {bs : List (Byte × Bool)} (e : areaStore s.uid ps bs s.numbered = some t) :
    Machine.kmemWrite ps bs s = .ok () t ∧ t.ReadyAt m := by
  obtain ⟨runs, ready⟩ := h.numbered.storePieces plain e
  refine ⟨?_, ready⟩
  rw [kmemWrite_eq blocks, bind_ok (takeUid_run s)]
  exact runs

/-- The pieces of an area that is found are those of the statement. -/
theorem blocks_of_areaAt {r : RSpec} {k : Access} {va : Nat} {s t : State} {ps : List (Place × Nat × Nat)}
    (e : areaAt r k (areaPieces va 1184) s = .ok (ps, t)) : Blocks ps := by
  have pieces := (places_of_areaAt e).2
  refine blocks_of_lengths (k := 4) (last := 160) ?_
  have sizes := congrArg (List.map Prod.snd) pieces
  rw [List.map_map] at sizes
  exact sizes

theorem Rind.list_length (r : Rind) : r.list.length = 64 := by
  rw [Rind.list, List.length_zip, natLanes_length, natBools_length, Nat.min_self]

theorem ScaleReady.readRind {s : State} (h : s.ScaleReady) (k : BitVec 4) :
    Machine.readRind k s = .ok (s.core.rind.getD k.toNat .load) s := by
  rw [Machine.readRind, bind_ok (h.needsShared _), bind_ok (getC_run s)]
  rfl

end State

/-! ## KST and KSAVE -/

section
variable {s s1 s2 t : State} (h : s.ScaleReady) {r : RSpec} {v : Val} (hv : s.src r = some (v, s1))
include h hv

/-- KST reads its register and stores its bytes at its place. -/
theorem State.ScaleReady.kst {ka : BitVec 4} {pl : Place} (place : s1.address v 0 64 .write = some (pl, s2))
    (e : Machine.storePart s2.uid pl .normal (addr48 v.bits) ((s1.scalesAt ka).map (fun x => BitVec.ofNat 8 x.1))
      ((s1.scalesAt ka).map (·.2)) false s2.numbered = .ok () t) : Machine.kst ka r s = .ok (.next none) t := by
  have walked := State.address_walked (h.ready.src hv).armed place
  have first : s2.ScaleReady := (h.quiet (h.ready.quiet_src hv)).quiet ((h.ready.src hv).quiet_walked walked)
  have whole : ((s1.scalesAt ka).map (fun x => (BitVec.ofNat 8 x.1, x.2))).take 64 =
      (s1.scalesAt ka).map (fun x => (BitVec.ofNat 8 x.1, x.2)) :=
    List.take_of_length_le (by rw [List.length_map]; exact (State.Rind.list_length _).le)
  have blocks : State.Blocks [(pl, addr48 v.bits, 64)] := fun _ => nofun
  have scales : s2.scalesAt ka = s1.scalesAt ka := by rw [State.scalesAt, walked.core]; rfl
  have stores : Machine.kmemWrite [(pl, addr48 v.bits, 64)] ((s2.scalesAt ka).map (fun x => (BitVec.ofNat 8 x.1, x.2))) s2 =
      .ok () t := by
    rw [State.kmemWrite_eq blocks, bind_ok (takeUid_run s2), scales, State.storePieces, whole, List.map_map, List.map_map]
    exact (bind_ok e).trans rfl
  rw [Machine.kst, bind_ok (h.ready.kmemPlaces_block h.laneFree hv (k := .write) nofun place)]
  exact (bind_ok (first.readRind ka)).trans ((bind_ok stores).trans rfl)

theorem State.ScaleReady.ksave {ps : List (Place × Nat × Nat)} (clean : v.poison = false) (aligned : addr48 v.bits % 256 = 0)
    (area : State.areaAt r .write (areaPieces (addr48 v.bits) 1184) s1 = .ok (ps, s2))
    (unwatched : ∀ x ∈ areaPieces (addr48 v.bits) 1184, s2.watches x.1 x.2 .write = false)
    (stores : Machine.kmemWrite ps s2.core.rindArea s2 = .ok () t) : Machine.ksave r s = .ok (.next none) t := by
  have first : s2.ScaleReady := (h.quiet (h.ready.quiet_src hv)).quiet
    ((h.ready.src hv).quiet_walked (State.areaAt_walked (h.ready.src hv).armed area))
  have skips (k : Nat) : (do
      Machine.needsShared (Dest.isRind k)
      Machine.needsShared (Dest.isTag k)
      pure (.yield PUnit.unit) : M (ForInStep PUnit)) s2 = .ok (.yield ⟨⟩) s2 :=
    (bind_ok (first.needsShared _)).trans (bind_ok (first.needsShared _))
  rw [Machine.ksave, bind_ok (h.ready.kmemPlaces h.laneFree hv (k := .write) clean aligned nofun area unwatched)]
  exact (bind_ok (forIn_skip skips _)).trans ((bind_ok (getC_run s2)).trans ((bind_ok stores).trans rfl))

end

end Sys2Proof.Machine
end

section
/-! SUPPORT. An area in the core's own window: its pieces, what the activation owns of them, and what they read and store. -/

namespace Sys2Proof.Machine

namespace State

/-! ## Its pieces -/

/-- The pieces of an area at a local address. -/
def ownPieces : Nat → List Nat → List (Place × Nat × Nat)
  | _, [] => []
  | la, n :: ns => (.here la, 0xFFFFFFFE0000 + la, n) :: ownPieces (la + n) ns

/-- The sizes of the pieces of KSAVE and KRESTORE (R249). -/
def saveSizes : List Nat := [256, 256, 256, 256, 160]

theorem scratch_sub {c : Core} {la n : Nat} (banks : c.scratch la n = true) {lb m : Nat} (lo : la ≤ lb) (pos : 0 < m)
    (hi : lb + m ≤ la + n) : c.scratch lb m = true := by
  simp only [Core.scratch, Bool.and_eq_true, decide_eq_true_eq, List.all_eq_true, List.mem_range] at banks ⊢
  obtain ⟨top, modes⟩ := banks
  refine ⟨by omega, fun k hk => ?_⟩
  have mode := modes (lb / 0x2000 + k - la / 0x2000) (by omega)
  rwa [show la / 0x2000 + (lb / 0x2000 + k - la / 0x2000) = lb / 0x2000 + k by omega] at mode

theorem areaAt_own {s : State} {r : RSpec} {k : Access} : ∀ {ns : List Nat} {la : Nat}, (∀ n ∈ ns, 0 < n) →
    la + ns.sum ≤ 2 ^ 17 → (∀ lb m, la ≤ lb → 0 < m → lb + m ≤ la + ns.sum → s.core.scratch lb m = true) →
    areaAt r k ((ownPieces la ns).map (·.2)) s = .ok (ownPieces la ns, s)
  | [], _, _, _, _ => rfl
  | n :: ns, la, pos, top, banks => by
    have some := pos n (.head _)
    rw [List.sum_cons] at top banks
    have there := placeAt_window (s := s) (n := n) (by omega) (banks la n (le_refl _) some (by omega)) k
    have good : s.badPlace r (0xFFFFFFFE0000 + la) n k = none := badPlace_none.2 ⟨_, _, there⟩
    have rest := areaAt_own (r := r) (k := k) (ns := ns) (la := la + n) (fun m hm => pos m (.tail _ hm)) (by omega)
      fun lb m lo hm hi => banks lb m (by omega) hm (by omega)
    rw [ownPieces, List.map_cons, areaAt, good, there]
    dsimp only
    rw [rest]
    rfl

theorem areaPieces_window {la : Nat} (top : la + 1184 ≤ 2 ^ 17) :
    areaPieces (0xFFFFFFFE0000 + la) 1184 = (ownPieces la saveSizes).map (·.2) := by
  have stays (j : Nat) (hj : j < 1184) : (0xFFFFFFFE0000 + la + j) % 2 ^ 48 = 0xFFFFFFFE0000 + la + j := by omega
  have five : List.range ((1184 + 255) / 256) = [0, 1, 2, 3, 4] := rfl
  simp only [areaPieces, five, List.map_cons, List.map_nil, ownPieces, saveSizes]
  rw [stays _ (by omega), stays _ (by omega), stays _ (by omega), stays _ (by omega), stays _ (by omega)]
  simp only [Nat.add_assoc]
  rfl

/-- The area of KSAVE or KRESTORE in the core's own window. -/
theorem area_ownBlock {s : State} {v : Val} {la : Nat} (e : s.ownBlock v 256 1184 = some la) (r : RSpec) (k : Access) :
    areaAt r k (areaPieces (addr48 v.bits) 1184) s = .ok (ownPieces la saveSizes, s) ∧
      ∀ x ∈ areaPieces (addr48 v.bits) 1184, s.watches x.1 x.2 k = false := by
  obtain ⟨-, va, -, banks, -⟩ := address_of_ownBlock e
  have top := scratch_le banks
  rw [va, areaPieces_window top]
  refine ⟨areaAt_own (by decide) top fun lb m lo pos hi => scratch_sub banks lo pos hi, fun x hx => ?_⟩
  obtain ⟨p, hp, rfl⟩ := List.mem_map.1 hx
  have window : ∀ (ns : List Nat) (la : Nat), ∀ p ∈ ownPieces la ns, ∃ lb, p.2.1 = 0xFFFFFFFE0000 + lb := by
    intro ns
    induction ns with
    | nil => exact fun _ _ => nofun
    | cons n ns ih =>
      intro la p hp
      rcases List.mem_cons.1 hp with rfl | hp
      · exact ⟨la, rfl⟩
      · exact ih _ p hp
  obtain ⟨lb, eq⟩ := window _ _ p hp
  rw [eq]
  exact watches_window s lb _ k

/-! ## What the activation owns -/

theorem unitsOf_granules (a n : Nat) : unitsOf 64 (64 * a) n = (List.range ((n + 63) / 64)).map (a + ·) := by
  unfold unitsOf
  split
  · next none => rw [none]; rfl
  · next some =>
    have count : (64 * a + n - 1) / 64 - 64 * a / 64 + 1 = (n + 63) / 64 := by omega
    rw [count, Nat.mul_div_cancel_left a (by decide)]

theorem ownsLocal_append (a : Act) {la m : Nat} (aligned : la % 64 = 0) (whole : m % 64 = 0) (n : Nat) :
    a.ownsLocal la (m + n) = (a.ownsLocal la m && a.ownsLocal (la + m) n) := by
  obtain ⟨g, rfl⟩ : ∃ g, la = 64 * g := ⟨la / 64, by omega⟩
  obtain ⟨k, rfl⟩ : ∃ k, m = 64 * k := ⟨m / 64, by omega⟩
  have total : (64 * k + n + 63) / 64 = k + (n + 63) / 64 := by omega
  have first : (64 * k + 63) / 64 = k := by omega
  rw [Act.ownsLocal, Act.ownsLocal, Act.ownsLocal, ← Nat.mul_add, unitsOf_granules, unitsOf_granules, unitsOf_granules, total, first,
    List.range_add, List.map_append, List.all_append, List.map_map]
  simp only [Function.comp_def, Nat.add_assoc]

theorem ReadyAt.reading_append {i : Nat} {s : State} (h : s.ReadyAt i) {la m : Nat} (aligned : la % 64 = 0) (whole : m % 64 = 0) (n : Nat) :
    (s.reading la m).reading (la + m) n = s.reading la (m + n) := by
  have twice : s.uncheck.uncheck = s.uncheck := by
    rw [uncheck_eq h.unchecked.check, uncheck_eq h.check]
  have same : s.uncheck.core.cur.act.ownsLocal (la + m) n = s.core.cur.act.ownsLocal (la + m) n := by
    rw [uncheck_eq h.check]
    rfl
  rw [State.reading, State.reading, State.reading, ownsLocal_append _ aligned whole]
  cases s.core.cur.act.ownsLocal la m with
  | true => rfl
  | false =>
    simp only [Bool.false_eq_true, if_false, Bool.false_and, same, twice, ite_self]

theorem localBytes_append (s : State) (la m n : Nat) : s.localBytes la (m + n) = s.localBytes la m ++ s.localBytes (la + m) n := by
  simp only [localBytes, List.range_add, List.map_append, List.map_map, Function.comp_def, Nat.add_assoc]

/-! ## Its reads -/

theorem ReadyAt.ordered_reading {i : Nat} {s : State} (h : s.ReadyAt i) (la m : Nat) : (s.reading la m).ordered = s.ordered := by
  obtain ⟨a, e, -, -, uid, fence, -⟩ := reading_eq h.check la m
  rw [e, ordered, ordered, uid, fence]
  simp only [pastFence, coreOf_focus]

theorem ReadyAt.areaRead_own {i : Nat} (home : Bool) : ∀ {ns : List Nat} {la : Nat} {s : State}, s.ReadyAt i → s.ordered = true →
    la % 64 = 0 → (∀ n ∈ ns.dropLast, n % 64 = 0) →
    areaRead home (ownPieces la ns) s = some (s.localBytes la ns.sum, s.reading la ns.sum)
  | [], _, _, _, _, _, _ => rfl
  | [n], la, s, h, ord, _, _ => by
    simp [ownPieces, areaRead, readsNow, ord]
  | n :: m :: ns, la, s, h, ord, aligned, whole => by
    have size := whole n (.head _)
    have rest := ReadyAt.areaRead_own home (ns := m :: ns) (la := la + n) (h.reading la n) ((h.ordered_reading la n).trans ord)
      (by omega) fun k hk => whole k (.tail _ hk)
    have total : (n :: m :: ns).sum = n + (m :: ns).sum := List.sum_cons
    rw [ownPieces, areaRead, readsNow, if_pos ord, Option.bind_some, rest, h.localBytes_reading, h.reading_append aligned size,
      total, localBytes_append]
    rfl

end State

end Sys2Proof.Machine
end

section
/-! SUPPORT. An irrevocable act does not depend on the bytes of local memory, and what KSAVE leaves in the core's own window. -/

namespace Sys2Proof.Machine

/-! ## Local memory and what leaves (R106, R107) -/

/-- A core with other bytes and poison in its own memory. -/
def Core.withBytes (c : Core) (m : Memory) (p : NatSet) : Core := { c with lm := m, lmPoison := p }

section
variable (m : Memory) (p : NatSet)

theorem Core.gather_withBytes (c : Core) (o : StoreOp) (line : Nat) :
    (c.withBytes m p).gather o line = (c.gather o line).withBytes m p := by
  have same : (c.withBytes m p).storeBuf = c.storeBuf := rfl
  simp only [Core.gather, same]
  split <;> rfl

theorem Core.sendStore_withBytes (c : Core) (o : StoreOp) : (c.withBytes m p).sendStore o = (c.sendStore o).withBytes m p := by
  have lines (key : Nat) (ls : List Nat) : ∀ c : Core, ls.foldl (fun c l => c.gather (o.onLine key l) l) (c.withBytes m p) =
      (ls.foldl (fun c l => c.gather (o.onLine key l) l) c).withBytes m p := by
    induction ls with
    | nil => exact fun _ => rfl
    | cons l ls ih => exact fun c => by rw [List.foldl_cons, Core.gather_withBytes, ih, List.foldl_cons]
  unfold Core.sendStore
  split
  · split
    · exact lines _ _ c
    · rfl
  · rfl

theorem Core.readyTo_withBytes (c : Core) (h : Held) : (c.withBytes m p).readyTo h = (c.readyTo h).withBytes m p := by
  have drain : (c.withBytes m p).tryDrain = c.tryDrain.withBytes m p := by
    have same : (c.withBytes m p).wcFits = c.wcFits := rfl
    simp only [Core.tryDrain, same]
    split <;> rfl
  cases h with
  | store o =>
    have same : (c.withBytes m p).slotBusy o.act o.tgt = c.slotBusy o.act o.tgt := rfl
    simp only [Core.readyTo, same]
    split
    · exact drain
    · rfl
  | msg _ => rfl
  | release _ | reply _ _ _ | token _ _ => exact drain

theorem Core.canEmit_withBytes (c : Core) (act : Nat) (h : Held) : (c.withBytes m p).canEmit act h = c.canEmit act h := by
  cases h with
  | store o =>
    have fits : (c.withBytes m p).storeFits o = c.storeFits o := by
      rw [Core.storeFits, Core.sendStore_withBytes]
      rfl
    simp only [Core.canEmit, fits]
    rfl
  | _ => rfl

theorem Core.emit_withBytes (c : Core) (h : Held) : (c.withBytes m p).emit h = ((c.emit h).1.withBytes m p, (c.emit h).2) := by
  cases h with
  | store o => rw [Core.emit, Core.sendStore_withBytes]; rfl
  | token a dws =>
    have same : (c.withBytes m p).kern = c.kern := rfl
    simp only [Core.emit, same]
    split <;> rfl
  | _ => rfl

end

namespace State

/-- The machine with other bytes and poison in its core's own memory, and with another number for the next write. -/
def withBytes (s : State) (m : Memory) (p : NatSet) (u : Nat) : State := { s with uid := u, core := s.core.withBytes m p }

theorem commitList_cons (h : Held) (hs : List Held) (s : State) : commitList (h :: hs) s =
    if !(s.core.readyTo h).canEmit (s.core.readyTo h).cur.act.uid h then (h :: hs, { s with core := s.core.readyTo h })
    else commitList hs { s with
      core := ((s.core.readyTo h).emit h).1, parcels := s.parcels ++ ((s.core.readyTo h).emit h).2 } := rfl

theorem commitList_withBytes (m : Memory) (p : NatSet) (u : Nat) : ∀ (hs : List Held) (s : State),
    commitList hs (s.withBytes m p u) = ((commitList hs s).1, (commitList hs s).2.withBytes m p u)
  | [], _ => rfl
  | h :: hs, s => by
    have core : (s.withBytes m p u).core = s.core.withBytes m p := rfl
    have same : ((s.core.readyTo h).withBytes m p).cur.act.uid = (s.core.readyTo h).cur.act.uid := rfl
    rw [commitList_cons, commitList_cons, core, Core.readyTo_withBytes, same, Core.canEmit_withBytes, Core.emit_withBytes]
    split
    · rfl
    · exact commitList_withBytes m p u hs { s with
        core := ((s.core.readyTo h).emit h).1, parcels := s.parcels ++ ((s.core.readyTo h).emit h).2 }

/-- An irrevocable act leaves local memory, and does not depend on it. -/
theorem ReadyAt.irrevocably_withBytes {n : Nat} {s t : State} (h : s.ReadyAt n) (e : s.irrevocably = some t) (m : Memory)
    (p : NatSet) (u : Nat) : (s.withBytes m p u).irrevocably = some (t.withBytes m p u) := by
  have commits : (s.withBytes m p u).commitSome = s.commitSome.withBytes m p u := by
    have list : commitList s.core.cur.act.held (s.withBytes m p u) =
        ((commitList s.core.cur.act.held s).1, (commitList s.core.cur.act.held s).2.withBytes m p u) :=
      commitList_withBytes m p u s.core.cur.act.held s
    have held : (s.withBytes m p u).core.cur.act.held = s.core.cur.act.held := rfl
    unfold commitSome
    dsimp only
    rw [held, list]
    rfl
  obtain ⟨_, _, _, _, a, c, hs, r, ha⟩ := s.commitSome_eq
  have check : s.commitSome.core.cur.act.check = none := by rw [c, ha]; exact h.check
  have still : (s.commitSome.withBytes m p u).core.cur.act.check = none := check
  have sent : (s.commitSome.withBytes m p u).core.cur.act.held = s.commitSome.core.cur.act.held := rfl
  unfold irrevocably at e ⊢
  dsimp only at e ⊢
  rw [uncheck_eq check] at e
  rw [commits, uncheck_eq still, sent]
  have same : (s.withBytes m p u).core.cur.act.keeps = s.core.cur.act.keeps := rfl
  rw [same]
  split at e
  · next keeps =>
    rw [if_pos keeps]
    split at e
    · next gone =>
      cases e
      rw [if_pos gone]
      rfl
    · cases e
  · next loose =>
    cases e
    rw [if_neg loose]

/-- An irrevocable act after an irrevocable act changes nothing. -/
theorem ReadyAt.irrevocably_twice {n : Nat} {s t : State} (h : s.ReadyAt n) (e : s.irrevocably = some t) :
    t.irrevocably = some t := by
  obtain ⟨held, stays⟩ := h.irrevocably_held e
  have loose : t.core.cur.act.keeps = false := by rw [Act.keeps, held, stays]; rfl
  rw [irrevocably, loose]
  rfl

/-! ## The stores of an area in the core's own window -/

theorem ReadyAt.stored_eq {n : Nat} {s : State} (h : s.ReadyAt n) (la : Nat) (bytes : List Byte) (pois : List Bool) :
    s.stored la bytes pois =
      s.withBytes (s.core.lm.setBytes la bytes) (writePoison 8 s.core.lmPoison la pois) s.uid := by
  rw [State.stored, Core.putLocal_eq h.isCheck]
  rfl

theorem setBytes_append (m : Memory) (bs cs : List Byte) : ∀ la : Nat,
    m.setBytes la (bs ++ cs) = (m.setBytes la bs).setBytes (la + bs.length) cs := by
  induction bs generalizing m with
  | nil => exact fun _ => rfl
  | cons b bs ih =>
    intro la
    rw [List.cons_append, Memory.setBytes, ih, Memory.setBytes, List.length_cons, Nat.add_assoc, Nat.add_comm 1]

/-- Bytes of local memory order nothing. -/
theorem ordered_withBytes (s : State) (m : Memory) (p : NatSet) (u : Nat) : (s.withBytes m p u).ordered = s.ordered := by
  have mine : (s.withBytes m p u).coreOf s.core.id = (s.core.withBytes m p) := coreOf_focus (s.withBytes m p u)
  have id : (s.withBytes m p u).core.id = s.core.id := rfl
  rw [ordered, ordered, pastFence, pastFence, id, mine, coreOf_focus]
  rfl

/-- What is owned whole is owned in its parts. -/
theorem ownsLocal_sub {a : Act} {la n : Nat} (owns : a.ownsLocal la n = true) {lb m : Nat} (lo : la ≤ lb) (hi : lb + m ≤ la + n) :
    a.ownsLocal lb m = true := by
  rw [Act.ownsLocal, List.all_eq_true] at owns ⊢
  intro g hg
  refine owns g ?_
  unfold unitsOf at hg ⊢
  split at hg
  · cases hg
  · obtain ⟨j, hj, rfl⟩ := List.mem_map.1 hg
    rw [List.mem_range] at hj
    rw [if_neg (by omega), List.mem_map]
    exact ⟨lb / 64 + j - la / 64, List.mem_range.2 (by omega), by omega⟩

/-- An area can be stored: the activation owns all of it, or can act irrevocably. -/
structure CanStore (s : State) (la n : Nat) : Prop where
  past : 0x400 ≤ la
  ord : s.ordered = true
  acts : s.core.cur.act.ownsLocal la n = true ∨ ∃ u, s.irrevocably = some u ∧ u.ordered = true

/-- Once its first part is stored, the rest can be stored. -/
theorem ReadyAt.canStore_part {i : Nat} {s : State} (h : s.ReadyAt i) {la m n : Nat} (can : s.CanStore la (m + n)) :
    ∃ u, s.storable la m = some u ∧ u.ReadyAt i ∧ Quiet s u ∧ u.CanStore (la + m) n := by
  have past : 0x400 ≤ la + m := Nat.le_add_right_of_le can.past
  have mine (owns : s.core.cur.act.ownsLocal la m = true) : s.storable la m = some s := by
    rw [State.storable, if_pos can.past, if_pos owns, Option.filter_some, if_pos can.ord]
  rcases can.acts with owns | ⟨u, acts, ord⟩
  · exact ⟨s, mine (ownsLocal_sub owns (le_refl _) (by omega)), h, h.quiet_refl, past, can.ord,
      .inl (ownsLocal_sub owns (by omega) (by omega))⟩
  · cases owns : s.core.cur.act.ownsLocal la m with
    | true => exact ⟨s, mine owns, h, h.quiet_refl, past, can.ord, .inr ⟨u, acts, ord⟩⟩
    | false =>
      refine ⟨u, ?_, (h.irrevocable acts).2.1, h.quiet_irrevocably acts, past, ord, .inr ⟨u, h.irrevocably_twice acts, ord⟩⟩
      rw [State.storable, if_pos can.past, owns, if_neg Bool.false_ne_true, acts, Option.filter_some, if_pos ord]

theorem ReadyAt.canStore_withBytes {i : Nat} {s : State} (h : s.ReadyAt i) {la n : Nat} (can : s.CanStore la n) (m : Memory)
    (p : NatSet) (u : Nat) : (s.withBytes m p u).CanStore la n := by
  refine ⟨can.past, (ordered_withBytes s m p u).trans can.ord, can.acts.imp_right ?_⟩
  rintro ⟨t, acts, ord⟩
  exact ⟨t.withBytes m p u, h.irrevocably_withBytes acts m p u, (ordered_withBytes t m p u).trans ord⟩

theorem ReadyAt.withBytes {i : Nat} {s : State} (h : s.ReadyAt i) (m : Memory) (p : NatSet) (u : Nat) :
    (s.withBytes m p u).ReadyAt i :=
  h.of rfl rfl rfl rfl rfl h.check rfl rfl

/-- What a store of local memory leaves, and the bytes that it stores. -/
structure Stores (s t : State) (la : Nat) (bytes : List Byte) : Prop where
  pc : t.core.cur.pc = s.core.cur.pc
  rind : t.core.rind = s.core.rind
  tags : t.core.tags = s.core.tags
  lm : t.core.lm = s.core.lm.setBytes la bytes

/-- What a quiet change keeps of the core. -/
theorem keeps_of_quiet {s u : State} (q : Quiet s u) : u.core.cur.pc = s.core.cur.pc ∧ u.core.rind = s.core.rind ∧
    u.core.tags = s.core.tags ∧ u.core.lm = s.core.lm := by
  obtain ⟨_, _, _, _, _, _, core, -⟩ := q.core
  rw [core]
  exact ⟨rfl, rfl, rfl, rfl⟩

theorem stores_of_quiet {s u : State} (q : Quiet s u) (la : Nat) (bytes : List Byte) (p : NatSet) (k : Nat) :
    s.Stores (u.withBytes (u.core.lm.setBytes la bytes) p k) la bytes := by
  obtain ⟨pc, rind, tags, lm⟩ := keeps_of_quiet q
  exact ⟨pc, rind, tags, congrArg (·.setBytes la bytes) lm⟩

theorem Stores.append {s t u : State} {la : Nat} {bs cs : List Byte} (h : s.Stores t la bs)
    (k : t.Stores u (la + bs.length) cs) : s.Stores u la (bs ++ cs) :=
  ⟨k.pc.trans h.pc, k.rind.trans h.rind, k.tags.trans h.tags, by rw [k.lm, h.lm, setBytes_append]⟩

/-- The stores of an area in the core's own window. -/
theorem ReadyAt.storePieces_own {i : Nat} {seq : Nat} : ∀ {ns : List Nat} {la : Nat} {s : State} {bs : List (Byte × Bool)},
    s.ReadyAt i → s.CanStore la ns.sum → bs.length = ns.sum →
    ∃ t, State.storePieces seq (ownPieces la ns) bs s = .ok () t ∧ t.ReadyAt i ∧ s.Stores t la (bs.map (·.1))
  | [], la, s, bs, h, _, size => by
    rw [List.length_eq_zero_iff.1 size]
    exact ⟨s, rfl, h, rfl, rfl, rfl, rfl⟩
  | n :: ns, la, s, bs, h, can, size => by
    rw [List.sum_cons] at can size
    have first : ((bs.take n).map (·.1)).length = n := by rw [List.length_map, List.length_take]; omega
    obtain ⟨u, part, ready, quiet, rest⟩ := h.canStore_part can
    rw [← first] at part
    have runs := h.storeHere part ((bs.take n).map (·.2))
    rw [ready.stored_eq] at runs
    have piece := stores_of_quiet quiet la ((bs.take n).map (·.1)) (writePoison 8 u.core.lmPoison la ((bs.take n).map (·.2))) u.uid
    obtain ⟨t, more, done, others⟩ := ReadyAt.storePieces_own (seq := seq) (ready.withBytes ..) (ready.canStore_withBytes rest ..)
      (bs := bs.drop n) (by rw [List.length_drop]; omega)
    refine ⟨t, (bind_ok runs).trans more, done, ?_⟩
    have place : la + n = la + ((bs.take n).map (·.1)).length := by rw [first]
    rw [place] at others
    have all := piece.append others
    rwa [← List.map_append, List.take_append_drop] at all

theorem after_core (s : State) (n : Nat) : (s.after n).core = { s.core with
    nInstr := s.core.nInstr + 1, cur := { s.core.cur with pc := s.core.cur.pc + BitVec.ofNat 48 n } } := rfl

/-- Bytes that are stored stand there, and the others stay (R122). -/
theorem holds {s t : State} {la : Nat} {bs : List (Byte × Bool)} (h : t.core.lm = s.core.lm.setBytes la (bs.map (·.1))) :
    t.Holds s la bs := by
  intro wf
  have wf : s.core.lm.wf = true := by
    simp only [Core.wf, Bool.and_eq_true] at wf
    exact wf.1.1
  refine ⟨fun j hj => ?_, fun x hx => ?_⟩ <;> rw [h, Memory.get_setBytes wf, List.length_map]
  · rw [if_pos ⟨by omega, by omega⟩, Nat.add_sub_cancel_left]
    exact List.getD_map bs (0, false) Prod.fst
  · rw [if_neg (by omega)]

/-- An area that can be stored in one piece can be stored in pieces. -/
theorem ReadyAt.canStore_of_storable {i : Nat} {s u : State} (h : s.ReadyAt i) {la n : Nat} (ord : s.ordered = true)
    (e : s.storable la n = some u) : s.CanStore la n := by
  obtain ⟨past, still, -, ⟨owns, -⟩ | ⟨-, acts⟩⟩ := h.storable e
  · exact ⟨past, ord, .inl owns⟩
  · exact ⟨past, ord, .inr ⟨u, acts, still⟩⟩

/-- KSAVE's area in the core's own window. -/
theorem ReadyAt.kmemWrite_own {i : Nat} {s : State} (h : s.ReadyAt i) {la : Nat} (can : s.CanStore la 1184)
    {bs : List (Byte × Bool)} (size : bs.length = 1184) :
    ∃ t, Machine.kmemWrite (ownPieces la saveSizes) bs s = .ok () t ∧ t.ReadyAt i ∧ s.Stores t la (bs.map (·.1)) := by
  obtain ⟨t, runs, done, pc, rind, tags, lm⟩ := h.numbered.storePieces_own (seq := s.uid) (ns := saveSizes)
    (h.canStore_withBytes can s.core.lm s.core.lmPoison (s.uid + 1)) size
  refine ⟨t, ?_, done, pc, rind, tags, lm⟩
  have blocks : Blocks (ownPieces la saveSizes) := blocks_of_lengths (k := 4) (last := 160) rfl
  rw [kmemWrite_eq blocks, bind_ok (takeUid_run s)]
  exact runs

end State

theorem Core.rindArea_length (c : Core) : c.rindArea.length = 1184 := by
  have piece {α : Type} (f : Nat → List α) (n : Nat) (e : ∀ k, (f k).length = n) : ((List.range 16).flatMap f).length = 16 * n := by
    simp only [List.length_flatMap, e, List.map_const', List.sum_replicate, List.length_range, smul_eq_mul]
  rw [Core.rindArea, List.length_append, List.length_append, piece _ 64, piece _ 2, piece _ 8]
  · intro t
    simp [dwordBytes, Machine.natLE_length]
  · intro k
    simp [Machine.natLE_length]
  · intro k
    rw [List.length_map, State.Rind.list_length]

end Sys2Proof.Machine
end

section
/-! SUPPORT. The scales that KRESTORE leaves in its sixteen registers. -/

namespace Sys2Proof.Machine

theorem boolsNat_lt : ∀ l : List Bool, boolsNat l < 2 ^ l.length
  | [] => Nat.one_pos
  | b :: l => by
    have rest := boolsNat_lt l
    have bit : (if b then 1 else 0) ≤ 1 := by split <;> decide
    rw [boolsNat, List.length_cons, Nat.pow_succ]
    omega

theorem natBools_boolsNat : ∀ l : List Bool, natBools l.length (boolsNat l) = l
  | [] => rfl
  | b :: l => by
    have low : (boolsNat (b :: l) % 2 == 1) = b := by
      rw [boolsNat, Nat.add_mul_mod_self_left]
      cases b <;> rfl
    have high : boolsNat (b :: l) / 2 = boolsNat l := by
      rw [boolsNat, Nat.add_mul_div_left _ _ (by decide)]
      cases b <;> exact Nat.zero_add _
    rw [List.length_cons, natBools, low, high, natBools_boolsNat l]

/-- Sixty-four scales that are packed in a register are read back. -/
theorem Rind.list_packScales {l : List Lane} (size : l.length = 64) (small : ∀ x ∈ l, x.1 < 2 ^ 8) (g : BitVec 16) :
    ({ scales := (packScales l).1, pois := (packScales l).2, gen := g } : Rind).list = l := by
  have lanes : natLanes 8 64 (packScales l).1.toNat = l.map (·.1) := by
    have whole : (l.map (·.1)).length = 64 := by rw [List.length_map, size]
    rw [packScales, toNat_ofNat_lanesNat (by rw [whole]), ← whole, natLanes_lanesNat, List.map_map]
    exact List.map_congr_left fun x hx => Nat.mod_eq_of_lt (small x hx)
  have flags : natBools 64 (packScales l).2.toNat = l.map (·.2) := by
    have whole : (l.map (·.2)).length = 64 := by rw [List.length_map, size]
    have fits := boolsNat_lt (l.map (·.2))
    rw [whole] at fits
    rw [packScales, BitVec.toNat_ofNat, Nat.mod_eq_of_lt fits]
    calc natBools 64 (boolsNat (l.map (·.2)))
      _ = natBools (l.map (·.2)).length (boolsNat (l.map (·.2))) := by rw [whole]
      _ = l.map (·.2) := natBools_boolsNat _
  rw [Rind.list, lanes, flags, List.zip_map']
  exact List.map_id _

namespace State

/-- Registers written one after the other: each one of the list has its scales, one generation on, and the others stay. -/
theorem withRind_foldl (f : Nat → List (Nat × Bool)) {t : State} : ∀ (ks : List Nat) (s : State), ks.Nodup →
    (∀ k ∈ ks, k < s.core.rind.length) → ks.foldl (fun u k => u.withRind k (f k)) s = t →
    t.core.cur.pc = s.core.cur.pc ∧ t.core.lm = s.core.lm ∧
      ∀ k, t.core.rind.getD k .load = if k ∈ ks then { scales := (packScales (f k)).1, pois := (packScales (f k)).2
                                                       gen := (s.core.rind.getD k .load).gen + 1 } else s.core.rind.getD k .load
  | [], s, _, _, e => by
    cases e
    exact ⟨rfl, rfl, fun k => by simp⟩
  | j :: ks, s, once, there, e => by
    obtain ⟨fresh, once⟩ := List.nodup_cons.1 once
    have len : (s.withRind j (f j)).core.rind.length = s.core.rind.length := List.length_set ..
    obtain ⟨pc, lm, rest⟩ := withRind_foldl f ks (s.withRind j (f j)) once (fun k hk => by
      rw [len]
      exact there k (.tail _ hk)) e
    refine ⟨pc, lm, fun k => ?_⟩
    have step : (s.withRind j (f j)).core.rind.getD k .load = if k = j then
        { scales := (packScales (f j)).1, pois := (packScales (f j)).2, gen := (s.core.rind.getD j .load).gen + 1 }
        else s.core.rind.getD k .load := by
      have := there j (.head _)
      simp only [withRind, Core.writeRind, List.getD_eq_getElem?_getD, List.getElem?_set]
      by_cases same : k = j
      · subst same
        simp [this]
      · simp [same, Ne.symm same]
    rw [rest k, step]
    by_cases same : k = j
    · subst same
      simp [fresh]
    · simp [same]

theorem ReadyAt.areaRead_save {i : Nat} {s : State} (h : s.ReadyAt i) (home : Bool) (ord : s.ordered = true) {la : Nat}
    (aligned : la % 64 = 0) :
    areaRead home (ownPieces la saveSizes) s = some (s.localBytes la 1184, s.reading la 1184) := by
  have sum : saveSizes.sum = 1184 := rfl
  rw [h.areaRead_own home ord aligned (by decide), sum]

/-- The scales of register `k` in an area of KRESTORE (R249). -/
theorem localBytes_part (s : State) (la : Nat) {k : Nat} (hk : k < 16) :
    ((s.localBytes la 1184).drop (64 * k)).take 64 = s.localBytes (la + 64 * k) 64 := by
  have length (a n : Nat) : (s.localBytes a n).length = n := by rw [localBytes, List.length_map, List.length_range]
  have sizes : 1184 = 64 * k + (64 + (1120 - 64 * k)) := by omega
  rw [sizes, localBytes_append, localBytes_append, List.drop_left' (length _ _), List.take_left' (length _ _)]

theorem ScaleReady.quiet_scalable {s t : State} (h : s.ScaleReady) (e : s.scalable = some t) : Quiet s t := by
  unfold scalable at e
  split at e
  · cases e
    exact h.ready.quiet_refl
  · exact h.ready.quiet_irrevocably e

end State

/-! ## The members -/

section
variable {s s1 s2 s3 t : State} (h : s.ScaleReady) {r : RSpec} {v : Val} (hv : s.src r = some (v, s1))
include h hv

theorem State.ScaleReady.exec_kld {kd : BitVec 4} (hw : (Instr.kld kd r).wf = true) {pl : Place} {bs : List (Byte × Bool)}
    (place : s1.address v 0 64 .read = some (pl, s2)) (reads : s2.readsNow pl 64 v.taint = some (bs, s3))
    (scales : s3.scalable = some t) :
    exec (.kld kd r) s = .next ((t.withRind kd.toNat (bs.map (fun x => (x.1.toNat, x.2)))).after 4) := by
  have member := Addressed.kld kd r
  obtain ⟨body, ready⟩ := h.kld hv (kd := kd) place reads scales
  exact h.ready.exec_next rfl hw member.priv member.odd member.regs_lt body ready

theorem State.ScaleReady.exec_kst {ka : BitVec 4} (hw : (Instr.kst ka r).wf = true) {pl : Place}
    (place : s1.address v 0 64 .write = some (pl, s2))
    (stores : Machine.storePart s2.uid pl .normal (addr48 v.bits) ((s1.scalesAt ka).map (fun x => BitVec.ofNat 8 x.1))
      ((s1.scalesAt ka).map (·.2)) false s2.numbered = .ok () t) (ready : t.Ready) :
    exec (.kst ka r) s = .next (t.after 4) := by
  have member := Addressed.kst ka r
  exact h.ready.exec_next rfl hw member.priv member.odd member.regs_lt (h.kst hv place stores) ready

section
variable (clean : v.poison = false) (aligned : addr48 v.bits % 256 = 0) {ps : List (Place × Nat × Nat)}
include clean aligned

theorem State.ScaleReady.exec_ksave (hw : (Instr.ksave r).wf = true)
    (area : State.areaAt r .write (areaPieces (addr48 v.bits) 1184) s1 = .ok (ps, s2))
    (unwatched : ∀ x ∈ areaPieces (addr48 v.bits) 1184, s2.watches x.1 x.2 .write = false)
    (stores : Machine.kmemWrite ps s2.core.rindArea s2 = .ok () t) (ready : t.Ready) : exec (.ksave r) s = .next (t.after 4) := by
  have odd : encode (.ksave r) % 2 = 1 := by simp only [encode]; omega
  exact h.ready.exec_next rfl hw rfl odd (RSpec.regs_lt r) (h.ksave hv clean aligned area unwatched stores) ready

theorem State.ScaleReady.exec_krestore (hw : (Instr.krestore r).wf = true) {bs : List (Byte × Bool)}
    (area : State.areaAt r .read (areaPieces (addr48 v.bits) 1184) s1 = .ok (ps, s2))
    (unwatched : ∀ x ∈ areaPieces (addr48 v.bits) 1184, s2.watches x.1 x.2 .read = false)
    (reads : State.areaRead v.taint ps s2 = some (bs, s3)) (scales : s3.scalable = some t) :
    exec (.krestore r) s = .next (((List.range 16).foldl (fun u k =>
      u.withRind k (((bs.drop (64 * k)).take 64).map (fun x => (x.1.toNat, x.2)))) t).after 4) := by
  have odd : encode (.krestore r) % 2 = 1 := by simp only [encode]; omega
  obtain ⟨body, ready⟩ := h.krestore hv clean aligned area unwatched reads scales
  exact h.ready.exec_next rfl hw rfl odd (RSpec.regs_lt r) body ready

end

end

/-- KSAVE and KRESTORE stop where their area does. -/
theorem State.ReadyAt.exec_area_stops {s s1 u : State} (h : s.Ready) {r : RSpec} {i : Instr} {k : Access}
    (member : i = .ksave r ∧ k = .write ∨ i = .krestore r ∧ k = .read)
    (hw : i.wf = true) {tr : TrapInfo} (stops : Machine.kmemPlaces r 256 1184 k s = .error (.trap tr) u)
    (walked : Walked s1 u) : exec i s = .next ((s.keepTaken s1).takeTrap tr s.core.cur.pc (encode i / 2 % 64)) := by
  obtain ⟨body, runs, odd, priv, regs, ends⟩ : ∃ body, exec i s = run (formOf i) body s ∧ encode i % 2 = 1 ∧ i.priv = false ∧
      (∀ r ∈ i.regs, r < 32) ∧ body s = .error (.trap tr) u := by
    rcases member with ⟨rfl, rfl⟩ | ⟨rfl, rfl⟩
    · exact ⟨_, rfl, by simp only [encode]; omega, rfl, RSpec.regs_lt r, bind_error stops⟩
    · exact ⟨_, rfl, by simp only [encode]; omega, rfl, RSpec.regs_lt r, bind_error stops⟩
  have issued : (do Machine.issue (formOf i); body : M Flow) s = .error (.trap tr) u :=
    (bind_ok (h.issue hw (.inl priv) regs)).trans ends
  rw [runs, State.run_trap h.armed issued, s.keepTaken_walked walked, (formOf_word odd).2]

end Sys2Proof.Machine

open Sys2Proof Sys2Proof.Machine

/-- Settles O37: the places of a member are those of its area, and it reads and stores them piece after piece; in the
core's own window each piece is read and stored at once, and only the first piece that is not owned acts irrevocably. -/
theorem scalesInMemory : Obligations.ScalesInMemory := by
  unfold Obligations.ScalesInMemory
  refine ⟨?kldOwn, ?kld, ?kstOwn, ?kst, ?ksaveOwn, ?ksave, ?krestoreOwn, ?krestore, ?faults⟩
  case kldOwn =>
    intro s s1 t kd r v la hw hs free hv own scales
    obtain ⟨-, -, -, -, ord⟩ := State.address_of_ownBlock own
    exact State.ScaleReady.exec_kld ⟨hs, free⟩ hv hw (State.address_ownBlock own .read) (if_pos ord) scales
  case kld =>
    intro s s1 s2 s3 t kd r v pl bs hw hs free hv place reads scales
    exact State.ScaleReady.exec_kld ⟨hs, free⟩ hv hw place reads scales
  case kstOwn =>
    intro s s1 t ka r v la hw hs free hv own can
    have size : ((s1.scalesAt ka).map (fun x => BitVec.ofNat 8 x.1)).length = 64 :=
      (List.length_map _).trans (State.Rind.list_length _)
    obtain ⟨-, -, ready, -⟩ := (hs.src hv).numbered.storable can
    rw [← size] at can
    exact State.ScaleReady.exec_kst ⟨hs, free⟩ hv hw (State.address_ownBlock own .write)
      ((hs.src hv).numbered.storeHere can _) (ready.stored ..)
  case kst =>
    intro s s1 s2 t ka r v pl hw hs free plain hv place l stores
    obtain ⟨ready, still, -⟩ := hs.address_unsampled plain hv place
    obtain ⟨runs, done, -⟩ := ready.numbered.storePart still stores (addr48 v.bits)
    exact State.ScaleReady.exec_kst ⟨hs, free⟩ hv hw place runs done
  case ksaveOwn =>
    intro s s1 u r v la hw hs free hv own can
    obtain ⟨clean, -, aligned, -, ord⟩ := State.address_of_ownBlock own
    obtain ⟨area, unwatched⟩ := State.area_ownBlock own r .write
    have ready := hs.src hv
    obtain ⟨t, runs, done, left⟩ := ready.kmemWrite_own (ready.canStore_of_storable ord can) s1.core.rindArea_length
    exact ⟨t.after 4, State.ScaleReady.exec_ksave ⟨hs, free⟩ hv clean aligned hw area unwatched runs done,
      congrArg (· + 4) (left.pc.trans (hs.src_pc hv)), left.rind, left.tags, State.holds left.lm⟩
  case ksave =>
    intro s s1 s2 t r v ps hw hs free plain hv clean l aligned area unwatched stores
    have ready := hs.src hv
    have walked := State.areaAt_walked ready.armed area
    have still : s2.core.cur.act.sampled = false := by
      rw [walked.core]
      exact hs.src_unsampled hv plain
    obtain ⟨runs, done⟩ := (ready.walked walked).kmemWrite still (State.blocks_of_areaAt area) stores
    exact State.ScaleReady.exec_ksave ⟨hs, free⟩ hv clean aligned hw area unwatched runs done
  case krestoreOwn =>
    intro s s1 u r v la hw hs free hv own scales whole
    obtain ⟨clean, va, aligned, -, ord⟩ := State.address_of_ownBlock own
    obtain ⟨area, unwatched⟩ := State.area_ownBlock own r .read
    have ready := hs.src hv
    have reads := ready.areaRead_save v.taint ord (show la % 64 = 0 by omega)
    have settled : s.ScaleReady := ⟨hs, free⟩
    have quiet := (ready.quiet_reading la 1184).trans
      (((settled.quiet (hs.quiet_src hv)).quiet (ready.quiet_reading la 1184)).quiet_scalable scales)
    obtain ⟨pc, rind, -, lm⟩ := State.keeps_of_quiet quiet
    have runs := settled.exec_krestore hv clean aligned hw area unwatched reads scales
    have there : ∀ k ∈ List.range 16, k < u.core.rind.length := by
      rw [rind, whole]
      exact fun k => List.mem_range.1
    generalize e : List.foldl _ u _ = w at runs
    obtain ⟨pc', lm', regs⟩ := State.withRind_foldl _ _ u List.nodup_range there e
    refine ⟨w.after 4, runs, ?_⟩
    rw [State.after_core]
    refine ⟨congrArg (· + 4) (pc'.trans (pc.trans (hs.src_pc hv))), lm'.trans lm, fun k hk => ?_⟩
    have reg := (regs k).trans (if_pos (List.mem_range.2 hk))
    rw [State.localBytes_part s1 la hk, rind] at reg
    refine ⟨(congrArg Rind.list reg).trans (Rind.list_packScales ?_ ?_ _), congrArg Rind.gen reg⟩
    · rw [List.length_map, State.localBytes, List.length_map, List.length_range]
    · intro x hx
      obtain ⟨b, -, rfl⟩ := List.mem_map.1 hx
      exact b.1.isLt
  case krestore =>
    intro s s1 s2 s3 t r v ps bs hw hs free hv clean l aligned area unwatched reads scales
    exact State.ScaleReady.exec_krestore ⟨hs, free⟩ hv clean aligned hw area unwatched reads scales
  case faults =>
    intro s s1 i r k v member hw hs free hv
    have settled : s.ScaleReady := ⟨hs, free⟩
    have hk : k ≠ .exec := by
      rcases member with ⟨-, rfl⟩ | ⟨-, rfl⟩ <;> exact nofun
    refine ⟨fun bad => ?_, fun clean unaligned => ?_, fun t clean aligned area => ?_, fun ps s2 x clean aligned area watch => ?_⟩
    · exact hs.exec_area_stops member hw (hs.kmemPlaces_poison settled.laneFree hv bad) (.refl s1)
    · exact hs.exec_area_stops member hw (hs.kmemPlaces_unaligned settled.laneFree hv clean unaligned) (.refl s1)
    · obtain ⟨u, stops, walked⟩ := hs.kmemPlaces_unplaced settled.laneFree hv clean aligned area
      exact hs.exec_area_stops member hw stops walked
    · obtain ⟨stops, walked⟩ := hs.kmemPlaces_watched settled.laneFree hv clean aligned hk area watch
      exact hs.exec_area_stops member hw stops walked
end
